-- ==== Sys2Proof/Word.lean ====
section
/-! DEFINITION. The words and bytes of the model, their little-endian byte order (R16) and the plainest arithmetic. -/

namespace Sys2Proof

/-- One byte. -/
abbrev Byte := BitVec 8
/-- A 32-bit register. -/
abbrev Word := BitVec 32
/-- A 64-bit register. -/
abbrev Word64 := BitVec 64

/-- `v` as `n` bytes, the least significant first (R16: multi-byte values are little-endian). -/
def leBytes : Nat → Nat → List Byte
  | 0, _ => []
  | n + 1, v => BitVec.ofNat 8 v :: leBytes n (v / 256)

/-- The number a little-endian byte list stands for (R16). -/
def leNat : List Byte → Nat
  | [] => 0
  | b :: bs => b.toNat + 256 * leNat bs

/-- Bits `[hi:lo]` of `v`, both ends included (R16). -/
def bitsOf (hi lo v : Nat) : Nat := (v >>> lo) % 2 ^ (hi + 1 - lo)

/-- Bit `b` of `v`. -/
def bitOf (b v : Nat) : Bool := v.testBit b

/-- A truth value as the number 0 or 1. -/
def b2n (b : Bool) : Nat := if b then 1 else 0

/-- `bs` cut or filled with zeros to `n` bytes. -/
def padTo (n : Nat) (bs : List Byte) : List Byte := (bs ++ List.replicate (n - bs.length) 0).take n

/-- `n` zero bytes. -/
def zeros (n : Nat) : List Byte := List.replicate n 0

/-- The byte of a list at an offset, 0 beyond its end. -/
def byteAt (bs : List Byte) (o : Nat) : Byte := bs.getD o 0

/-- The little-endian number in the `n` bytes of `bs` from offset `o`. -/
def fieldAt (bs : List Byte) (o n : Nat) : Nat := leNat ((bs.drop o).take n)

/-- Are the `n` bytes of `bs` from offset `o` all zero? -/
def zeroAt (bs : List Byte) (o n : Nat) : Bool := ((bs.drop o).take n).all (· == 0)

/-- `v` read as a two's complement number of `w` bits. -/
def signed (w v : Nat) : Int := if v % 2 ^ w < 2 ^ (w - 1) then (v % 2 ^ w : Int) else (v % 2 ^ w : Int) - 2 ^ w

/-- The two's complement number of `w` bits that stands for `v` modulo `2 ^ w`. -/
def unsign (w : Nat) (v : Int) : Nat := (v % (2 ^ w : Int)).toNat

/-- The mask whose bit `i` is set for each `i` of a list. -/
def maskOf (bs : List Nat) : Nat := bs.foldl (fun m b => m ||| 2 ^ b) 0

/-- The numbers below `n` whose bit is set in `m`, in ascending order. -/
def bitsSet (n m : Nat) : List Nat := (List.range n).filter fun i => m.testBit i

end Sys2Proof
end

