-- ==== Sys2Proof/Syntax.lean ====
section
/-! DEFINITION. The commands of the block: one constructor per row of the opcode table, with the operands it carries. -/

namespace Sys2Proof

/-- A point of time A or time B: SEC (48 bits), NS (below 10^9) and FRAC in 2^-32 ns (R367). -/
structure Time where
  sec  : Nat
  ns   : Nat
  frac : Nat
  deriving DecidableEq, Repr

/-- What a read of a protected memory word finds (R159, R580). -/
inductive EccErr where
  | none
  | corrected
  | uncorrectable
  deriving DecidableEq, Repr

/-- The three alias kinds of a register (R538). -/
inductive AliasOp where
  | set
  | clear
  | toggle
  deriving DecidableEq, Repr

/-- A host or peer access to memory behind BAR4: a read of `len` bytes, or a write whose disabled bytes are `none`. -/
inductive MemAccess where
  | read (off len : Nat)
  | write (off : Nat) (bytes : List (Option Byte))
  deriving DecidableEq, Repr

/-- One measuring pass of a shadow (R117): the residual in 0.1 ps, or none with fewer than 64 matched changes. -/
structure CalPass where
  residual : Option Int
  deriving DecidableEq, Repr

/-- What the boot ROM finds in a flash slot (R360, R361): nothing, or an image: the 256 bytes of its header, its body and its
SIGNATURE. -/
inductive SlotImage where
  | empty
  | image (header body sig : List Byte)
  deriving DecidableEq, Repr

/-- A rail outside its operating range, and whether it is a VIO bank below 0.3 V, which counts as unpowered (R594). -/
structure RailLevel where
  rail      : Nat
  unpowered : Bool
  deriving DecidableEq, Repr

/-- An error that the device detects on its link or in an endpoint buffer (R477). `cpl` is the tag of a failing completion, `len`
the length of a read that meets the error. -/
inductive RxError where
  | poisonedWrite (bar : Fin 6)
  | receiver | badTlp | badDllp | replayTimeout | replayRollover
  | correctedInternal
  | ecrc (cpl : Option Nat)
  | malformed | overflow | flowControl | dlProtocol
  | internal (bar : Fin 6) (len : Option Nat)
  deriving DecidableEq, Repr

/-- A reading of the DCO monitor (R447): whether it is ADPLL-L's, and the offset from nominal in ppb. -/
structure DcoReading where
  lLoop : Bool
  ppb   : Int
  deriving DecidableEq, Repr

/-- A 66-bit block of a Ridgeline lane: whether its sync header marks a control block, and its eight payload bytes (R405). -/
structure LineBlock where
  control : Bool
  bytes   : List Byte
  deriving DecidableEq, Repr

/-- What a port receives from a START block on: the port and the blocks, in order (R406, R408). -/
structure RxBlocks where
  port   : Fin 3
  blocks : List LineBlock
  deriving DecidableEq, Repr

/-- A change of the PPS_IN pin: the new level, and the sample of the running 4 ns tick that first sees it (R380). -/
structure PpsEdge where
  rising : Bool
  sample : Fin 10
  deriving DecidableEq, Repr

/-- What the host writes of the link's control registers: the Completion Timeout Value, and the Max_Payload_Size of 128, 256
or 512 bytes as 0 to 2 (R472). -/
structure LinkCtl where
  cto     : Nat
  mps     : Nat
  bars    : Vector Word64 3     -- addresses written to BAR0, BAR2 and BAR4
  ecrcGen : Bool
  ecrcChk : Bool
  uncMask : Word
  uncSev  : Word
  corMask : Word
  uncClr  : Word             -- bits written as 1 to the AER status registers
  corClr  : Word
  deriving DecidableEq, Repr

/-- How the read-back of a flash slot differs from what was programmed (R527): the offset of each byte that does, and its wrong
bits. -/
structure FlashRead where
  flips : List (Nat × Byte)
  deriving DecidableEq, Repr

/-- The commands of the block, one per row of the opcode table, in its order. -/
inductive Instr where
  /-- DEV_INFO (R8). -/
  | devInfo (m : Fin 8)
  /-- ACQ_START (R263). -/
  | acqStart (m : Fin 8)
  /-- EPOCH_COMMIT (R262). -/
  | epochCommit (m : Fin 8)
  /-- ACQ_STOP (R264). -/
  | acqStop (m : Fin 8)
  /-- EPOCH_BOUNDARY (R34). -/
  | epochBoundary
  /-- INTAKE_RESUME (R34). -/
  | intakeResume (row : Nat)
  /-- EPOCH_CLOSE_EMIT (R260). -/
  | epochCloseEmit
  /-- EPOCH_OPEN_EMIT (R260). -/
  | epochOpenEmit
  /-- ROW_ENCODE (R147). -/
  | rowEncode
  /-- RING_ROW_WRITE (R152). -/
  | ringRowWrite
  /-- RING_RATE_EVAL (R44). -/
  | ringRateEval
  /-- RET_ROW_READ (R151). -/
  | retRowRead (errs : List (Nat × EccErr))
  /-- RING_SCRUB_READ (R162). -/
  | ringScrubRead (line : Nat) (err : EccErr)
  /-- RING_CE_INTERVAL (R160). -/
  | ringCeInterval
  /-- BAR2_READ (R163). -/
  | bar2Read (off len : Nat) (errs : List (Nat × EccErr))
  /-- BAR2_WRITE (R164). -/
  | bar2Write (off : Nat) (data : List Byte)
  /-- RING_TAG_READ (R166). -/
  | ringTagRead (wide : Bool)
  /-- RING_CFG (R169). -/
  | ringCfg (m : Fin 8)
  /-- POD_PRESENCE_LOW (R58). -/
  | podPresenceLow (p : Fin 16)
  /-- POD_DEBOUNCE_DONE (R58). -/
  | podDebounceDone (p : Fin 16) (low : Bool)
  /-- DESCRIPTOR_READ_DONE (R69). -/
  | descriptorReadDone (p : Fin 16) (desc : List Byte)
  /-- DESCRIPTOR_READ_ERROR (R61). -/
  | descriptorReadError (p : Fin 16)
  /-- POD_POWER_GOOD_CHECK (R58). -/
  | podPowerGoodCheck (p : Fin 16) (mv ma : Nat)
  /-- POD_JOIN (R58). -/
  | podJoin (p : Fin 16)
  /-- POD_REMOVAL (R63). -/
  | podRemoval (p : Fin 16)
  /-- POD_SUPPLY_FAULT (R72). -/
  | podSupplyFault (p : Fin 16)
  /-- POD_OVERVOLT (R72). -/
  | podOvervolt (p : Fin 16)
  /-- POD_POWER (R76). -/
  | podPower (m : Fin 8)
  /-- POD_INFO (R77). -/
  | podInfo (m : Fin 8) (reread : Option (List Byte))
  /-- TELEM_PERIOD (R78). -/
  | telemPeriod
  /-- TELEM_READ_DONE (R80). -/
  | telemReadDone (p : Fin 16) (temp : Option (BitVec 16))
  /-- KEY_PRESS (R82). -/
  | keyPress (k : Fin 8)
  /-- KEY_RELEASE (R81). -/
  | keyRelease (k : Fin 8)
  /-- COMPARATOR_EVENT (R100). -/
  | comparatorEvent (n : Fin 272) (upper : Bool) (out : Bool) (grid : Nat)
  /-- CAL_ROTATION_START (R116). -/
  | calRotationStart (p : Fin 16)
  /-- CAL_SWAP_START (R117). -/
  | calSwapStart (p : Fin 16)
  /-- CAL_SHADOW_DONE (R117). -/
  | calShadowDone (p : Fin 16) (passes : List CalPass)
  /-- CAL_SWAP (R117). -/
  | calSwap (p : Fin 16)
  /-- CAL_SWAP_ABORT (R118). -/
  | calSwapAbort (p : Fin 16)
  /-- CAL_PAIR_DONE (R117). -/
  | calPairDone (p : Fin 16) (pair : Fin 19) (ok : Bool) (trimU trimL : Int)
  /-- CAL_RUN (R122). -/
  | calRun (m : Fin 8)
  /-- CAL_STATUS (R122). -/
  | calStatus (m : Fin 8)
  /-- CH_ALIAS_WRITE (R134). -/
  | chAliasWrite (off : Nat) (v : Word) (be : BitVec 4)
  /-- CH_ALIAS_READ (R136). -/
  | chAliasRead (off : Nat)
  /-- TRV_STEP (R212). -/
  | trvStep (j : Fin 4) (sample : Nat)
  /-- QUAL_TIMEOUT (R182). -/
  | qualTimeout (n : Fin 272)
  /-- FAB_TIMER_EXPIRE (R200). -/
  | fabTimerExpire (t : Fin 16)
  /-- COUNTER_AT_LIMIT (R198). -/
  | counterAtLimit (c : Fin 32)
  /-- TRIGIN_HIGH (R216). -/
  | triginHigh (x : Fin 4) (sample : Nat)
  /-- FAB_CFG (R204). -/
  | fabCfg (m : Fin 8)
  /-- TRV_LOAD (R226). -/
  | trvLoad (m : Fin 8)
  /-- TRV_ARM (R228). -/
  | trvArm (m : Fin 8)
  /-- TRV_DISARM (R229). -/
  | trvDisarm (m : Fin 8)
  /-- TRV_OUT_CFG (R230). -/
  | trvOutCfg (m : Fin 8)
  /-- TRV_ARM_TARGET (R219). -/
  | trvArmTarget (j : Fin 4)
  /-- TRIGOUT_PULSE_END (R230). -/
  | trigoutPulseEnd (x : Fin 4)
  /-- RET_ROW_EMIT (R243). -/
  | retRowEmit
  /-- LOG_FRAME_DUE (R251). -/
  | logFrameDue
  /-- RETAIN_SET (R265). -/
  | retainSet (m : Fin 8)
  /-- MARK (R266). -/
  | mark (m : Fin 8)
  /-- COMPRESS_FRAME_IN (R271). -/
  | compressFrameIn
  /-- BLOCK_FLUSH_TIMEOUT (R271). -/
  | blockFlushTimeout
  /-- LANE_BLOCK_DONE (R276). -/
  | laneBlockDone (lane : Fin 8) (packed : List Byte)
  /-- PACKET_OPEN (R281). -/
  | packetOpen
  /-- PACKET_CLOSE (R281). -/
  | packetClose
  /-- EQ_BANK_SWAP (R284). -/
  | eqBankSwap
  /-- EXPORT_CHUNK_CLOSE (R288). -/
  | exportChunkClose
  /-- FLUSH_READ_CPL (R470). -/
  | flushReadCpl (tag : Nat) (ok : Bool) (poisoned : Bool)
  /-- FLUSH_READ_TIMEOUT (R473). -/
  | flushReadTimeout (tag : Nat)
  /-- CPL_UNEXPECTED (R474). -/
  | cplUnexpected (tag : Nat)
  /-- TAG_QUARANTINE_END (R474). -/
  | tagQuarantineEnd (tag : Nat)
  /-- EQ_POINTER_MISMATCH (R293). -/
  | eqPointerMismatch
  /-- EQ_RESET_DONE (R294). -/
  | eqResetDone
  /-- EXP_CFG (R297). -/
  | expCfg (m : Fin 8)
  /-- PULL_WINDOW_READ (R295). -/
  | pullWindowRead (off len : Nat)
  /-- PULL_WINDOW_WRITE (R295). -/
  | pullWindowWrite (off : Nat) (data : List Byte)
  /-- EXP_PULL_RELEASE (R296). -/
  | expPullRelease (v : Word) (be : BitVec 4)
  /-- EXP_DURABLE_ACK (R320). -/
  | expDurableAck (v : Word64) (be : BitVec 8)
  /-- PAD_INSERT (R250). -/
  | padInsert
  /-- EXTENT_OPEN (R313). -/
  | extentOpen
  /-- EXT_CLOSE_DEADLINE (R314). -/
  | extCloseDeadline
  /-- MAP_SLOT_WRITE (R316). -/
  | mapSlotWrite (ok : Bool)
  /-- QUIET_RECORD_WRITE (R337). -/
  | quietRecordWrite
  /-- TALUS_RECOVERY (R338). -/
  | talusRecovery (ue : List Nat)
  /-- TALUS_FORMAT (R308). -/
  | talusFormat (m : Fin 8)
  /-- TALUS_WINDOW_SET (R322). -/
  | talusWindowSet (m : Fin 8)
  /-- TALUS_DRIVE_ATTACH (R326). -/
  | talusDriveAttach (m : Fin 8)
  /-- TALUS_CFG (R336). -/
  | talusCfg (m : Fin 8)
  /-- TALUS_MAP_READ (R318). -/
  | talusMapRead (m : Fin 8)
  /-- NVME_CQ_ENTRY (R331). -/
  | nvmeCqEntry (d : Fin 4) (entry : List Byte)
  /-- NVME_CMD_TIMEOUT (R331). -/
  | nvmeCmdTimeout (d : Fin 4)
  /-- TALUS_ARCHIVED_WRITE (R334). -/
  | talusArchivedWrite (v : Word64) (be : BitVec 8)
  /-- TALUS_GEOMETRY_LOCK (R309). -/
  | talusGeometryLock (v : Word) (be : BitVec 4)
  /-- REC_WINDOW_READ (R330). -/
  | recWindowRead (off len : Nat)
  /-- REC_WINDOW_WRITE (R330). -/
  | recWindowWrite (off : Nat) (data : List Byte)
  /-- MAP_SCRUB_READ (R339). -/
  | mapScrubRead (err : EccErr)
  /-- SEAL_DUE (R348). -/
  | sealDue
  /-- SEAL_START (R349). -/
  | sealStart
  /-- SEAL_SIGN_DONE (R349). -/
  | sealSignDone
  /-- SEAL_DEADLINE (R350). -/
  | sealDeadline
  /-- SEAL_INDEX_WRITE (R354). -/
  | sealIndexWrite (ok : Bool)
  /-- KECCAK_SELFTEST (R347). -/
  | keccakSelftest (fail : List (Fin 12))
  /-- SEAL_CFG (R356). -/
  | sealCfg (m : Fin 8)
  /-- SEAL_NOW (R357). -/
  | sealNow (m : Fin 8)
  /-- IDENTITY_GET (R359). -/
  | identityGet (m : Fin 8)
  /-- ATTEST (R362). -/
  | attest (m : Fin 8)
  /-- ATTEST_DONE (R362). -/
  | attestDone (m : Fin 8)
  /-- FW_BOOT_VERIFY (R361). -/
  | fwBootVerify (a b : SlotImage)
  /-- TIME_A_INCR (R369). -/
  | timeAIncr (v : Word64) (be : BitVec 8)
  /-- TIME_A_STEP (R370). -/
  | timeAStep (v : Word64) (be : BitVec 8)
  /-- TIME_A_STEP_APPLY (R371). -/
  | timeAStepApply
  /-- TIME_A_STEP_LIMIT (R372). -/
  | timeAStepLimit (v : Word) (be : BitVec 4)
  /-- TIME_INTEGRITY (R373). -/
  | timeIntegrity (copy1 : Time)
  /-- TIME_B_INCR (R374). -/
  | timeBIncr (v : Word64) (be : BitVec 8)
  /-- TIME_B_STEP (R374). -/
  | timeBStep (v : Word64) (be : BitVec 8)
  /-- TIME_B_STEP_APPLY (R378). -/
  | timeBStepApply
  /-- TIME_SOURCE_SET (R379). -/
  | timeSourceSet (m : Fin 8)
  /-- TIME_B_SOURCE_SWITCH (R375). -/
  | timeBSourceSwitch
  /-- TIME_B_REVERT (R375). -/
  | timeBRevert
  /-- PPS_IN_EDGE (R380). -/
  | ppsInEdge (e : PpsEdge)
  /-- PPS_IN_MISSING (R381). -/
  | ppsInMissing
  /-- PPS_OUT_START (R382). -/
  | ppsOutStart
  /-- PPS_OUT_END (R382). -/
  | ppsOutEnd
  /-- ENC_INPUT_CHANGE (R384). -/
  | encInputChange (e : Fin 2) (a b z : Bool)
  /-- MAINS_ZC_EDGE (R385). -/
  | mainsZcEdge (rising : Bool)
  /-- MAINS_LOST (R385). -/
  | mainsLost
  /-- AXIS_CFG (R387). -/
  | axisCfg (m : Fin 8)
  /-- SCH_ARM (R388). -/
  | schArm (n : Fin 64)
  /-- SCH_DISARM (R388). -/
  | schDisarm (n : Fin 64)
  /-- SCH_SLOT_REACHED (R391). -/
  | schSlotReached (n : Fin 64)
  /-- SCH_ACTION_EXECUTE (R395). -/
  | schActionExecute
  /-- SCH_SF (R394). -/
  | schSf (v : Word) (be : BitVec 4)
  /-- RL_PORT_UP (R407). -/
  | rlPortUp (p : Fin 3) (serial : List Byte) (restarts : Byte)
  /-- RL_PORT_DOWN (R407). -/
  | rlPortDown (p : Fin 3)
  /-- RL_TRAIN_TIMEOUT (R408). -/
  | rlTrainTimeout (p : Fin 3)
  /-- FAULT_IDLE_RX (R407). -/
  | faultIdleRx (p : Fin 3)
  /-- RL_FRAME_BAD (R409). -/
  | rlFrameBad (r : RxBlocks)
  /-- TIME_FRAME_RX (R418). -/
  | timeFrameRx (p : Fin 3) (f : List Byte)
  /-- TIME_FRAME_TX (R418). -/
  | timeFrameTx (p : Fin 3)
  /-- RL_TIME_LOSS (R419). -/
  | rlTimeLoss (p : Fin 3)
  /-- DELAY_REQ_TX (R417). -/
  | delayReqTx (p : Fin 3)
  /-- DELAY_REQ_RX (R417). -/
  | delayReqRx (p : Fin 3) (f : List Byte)
  /-- DELAY_RESP_RX (R417). -/
  | delayRespRx (p : Fin 3) (f : List Byte)
  /-- CREDIT_ACK_RX (R430). -/
  | creditAckRx (p : Fin 3) (f : List Byte)
  /-- FIRE_FRAME_RX (R422). -/
  | fireFrameRx (p : Fin 3) (f : List Byte)
  /-- ARM_FRAME_RX (R423). -/
  | armFrameRx (p : Fin 3) (f : List Byte)
  /-- DISARM_FRAME_RX (R423). -/
  | disarmFrameRx (p : Fin 3) (f : List Byte)
  /-- TIMED_FRAME_RX (R426). -/
  | timedFrameRx (p : Fin 3) (f : List Byte)
  /-- RL_TIMED_LAUNCH (R424). -/
  | rlTimedLaunch (p : Fin 3)
  /-- RL_TIMED_APPLY (R426). -/
  | rlTimedApply (i : Nat)
  /-- TUNNEL_REQ_RX (R428). -/
  | tunnelReqRx (p : Fin 3) (f : List Byte)
  /-- TUNNEL_RESP_RX (R428). -/
  | tunnelRespRx (p : Fin 3) (f : List Byte)
  /-- RL_TUNNEL_TIMEOUT (R429). -/
  | rlTunnelTimeout (m : Fin 8)
  /-- RECORD_FRAME_RX (R432). -/
  | recordFrameRx (p : Fin 3) (f : List Byte)
  /-- DISCOVER_RX (R415). -/
  | discoverRx (p : Fin 3) (f : List Byte)
  /-- DISCOVER_REPLY_RX (R415). -/
  | discoverReplyRx (p : Fin 3) (f : List Byte)
  /-- ASSIGN_RX (R415). -/
  | assignRx (p : Fin 3) (f : List Byte)
  /-- RL_DISCOVER_ASSIGN (R415). -/
  | rlDiscoverAssign
  /-- RL_ORIGIN_EXPIRE (R413). -/
  | rlOriginExpire (i : Nat)
  /-- RL_DISCOVER (R416). -/
  | rlDiscover (m : Fin 8)
  /-- RL_PORT_CFG (R436). -/
  | rlPortCfg (m : Fin 8)
  /-- RL_TUNNEL (R429). -/
  | rlTunnel (m : Fin 8)
  /-- RL_TIMED (R427). -/
  | rlTimed (m : Fin 8)
  /-- PLLS_LOCKED (R446). -/
  | pllsLocked (phErr : Int)
  /-- PLLS_UNLOCKED (R448). -/
  | pllsUnlocked (phErr : Int)
  /-- PLLL_LOCKED (R446). -/
  | plllLocked
  /-- PLLL_UNLOCKED (R450). -/
  | plllUnlocked
  /-- DCO_RANGE (R448). -/
  | dcoRange (r : DcoReading)
  /-- DCO_FAIL (R449). -/
  | dcoFail
  /-- REF_LOST (R451). -/
  | refLost (src : Fin 5) (missing : Bool) (avgPpb : Int)
  /-- REF_GOOD (R451). -/
  | refGood (src : Fin 5)
  /-- REF_QUALIFIED (R451). -/
  | refQualified (dS dL : Int)
  /-- REF_PHASE_HIT (R454). -/
  | refPhaseHit (dS dL : Int)
  /-- REALIGN_DONE (R455). -/
  | realignDone
  /-- PLL_CFG (R456). -/
  | pllCfg (m : Fin 8)
  /-- BAR0_WRITE (R533). -/
  | bar0Write (off : Nat) (bytes : List (Option Byte))
  /-- REG_ALIAS_WRITE (R538). -/
  | regAliasWrite (op : AliasOp) (off : Nat) (v : Word) (be : BitVec 4)
  /-- REG64_LOW_READ (R537). -/
  | reg64LowRead (off : Nat)
  /-- CFG_UNLOCK (R539). -/
  | cfgUnlock (v : Word) (be : BitVec 4)
  /-- CFG_LATCH_REF (R549). -/
  | cfgLatchRef (v : Word) (be : BitVec 4)
  /-- CFG_COMMIT (R552). -/
  | cfgCommit (v : Word) (be : BitVec 4)
  /-- CFG_OPEN (R550). -/
  | cfgOpen (v : Word) (be : BitVec 4)
  /-- CFG_SCAN_PASS (R551). -/
  | cfgScanPass (upset : List (Nat × Byte))
  /-- DEV_SOFT_RESET (R545). -/
  | devSoftReset (v : Word) (be : BitVec 4)
  /-- DEV_READY (R599). -/
  | devReady
  /-- SNAP_TAKE (R555). -/
  | snapTake (v : Word) (be : BitVec 4)
  /-- SNAP_COMPLETE (R555). -/
  | snapComplete
  /-- EVT_FORCE (R560). -/
  | evtForce (g : Fin 16) (v : Word) (be : BitVec 4)
  /-- EVT_CLEAR (R558). -/
  | evtClear (g : Fin 16) (v : Word) (be : BitVec 4)
  /-- EVT_ENABLE_WRITE (R559). -/
  | evtEnableWrite (g : Fin 16) (v : Word) (be : BitVec 4)
  /-- MSIX_SEND (R476). -/
  | msixSend (vec : Fin 64)
  /-- SCRATCHPAD_ACCESS (R496). -/
  | scratchpadAccess (rid : Nat) (acc : MemAccess)
  /-- CW_WINDOW_ACCESS (R511). -/
  | cwWindowAccess (rid : Nat) (k : Fin 8) (acc : MemAccess)
  /-- PW_INBOUND_ACCESS (R488). -/
  | pwInboundAccess (rid : Nat) (acc : MemAccess)
  /-- PW_COMMIT (R487). -/
  | pwCommit (v : Word) (be : BitVec 4)
  /-- PW_COMMIT_SWITCH (R487). -/
  | pwCommitSwitch
  /-- BME_CLEARED (R482). -/
  | bmeCleared
  /-- BME_SET (R482). -/
  | bmeSet (msixEn funcMask tag10 aspmEn : Bool) (link : LinkCtl)
  /-- D3HOT_ENTRY (R481). -/
  | d3hotEntry
  /-- D3HOT_EXIT (R481). -/
  | d3hotExit
  /-- LTR_ENABLE (R479). -/
  | ltrEnable (on : Bool) (maxSnoop maxNoSnoop : Nat)
  /-- ASPM_L1_ENTRY (R480). -/
  | aspmL1Entry
  /-- FLR (R483). -/
  | flr
  /-- FLR_DONE (R483). -/
  | flrDone
  /-- LINK_DOWN (R484). -/
  | linkDown
  /-- HOT_RESET (R484). -/
  | hotReset
  /-- LINK_UP (R484). -/
  | linkUp (gen width : Nat)
  /-- LINK_CHANGE (R484). -/
  | linkChange (gen width : Nat)
  /-- INBOUND_POISONED_WRITE (R477). -/
  | inboundPoisonedWrite (e : RxError) (off : Nat)
  /-- MB_DOORBELL (R499). -/
  | mbDoorbell (m : Fin 8) (v : Word) (be : BitVec 4)
  /-- MB_COMMAND_START (R499). -/
  | mbCommandStart (m : Fin 8)
  /-- CW_CFG_WRITE (R512). -/
  | cwCfgWrite (k : Fin 8) (v : Word) (be : BitVec 4)
  /-- CW_PROD_WRITE (R517). -/
  | cwProdWrite (k : Fin 8) (v : Word) (be : BitVec 4)
  /-- CW_CONS_WRITE (R517). -/
  | cwConsWrite (k : Fin 8) (v : Word) (be : BitVec 4)
  /-- CW_STALL (R518). -/
  | cwStall (k : Fin 8)
  /-- SUMMIT_LOCKSTEP (R521). -/
  | summitLockstep
  /-- SUMMIT_WATCHDOG (R521). -/
  | summitWatchdog
  /-- SUMMIT_READY (R521). -/
  | summitReady
  /-- NOP (R529). -/
  | nop (m : Fin 8)
  /-- FW_STAGE (R527). -/
  | fwStage (m : Fin 8)
  /-- FW_COMMIT (R528). -/
  | fwCommit (m : Fin 8)
  /-- FW_INFO (R528). -/
  | fwInfo (m : Fin 8)
  /-- DIE_TEMP_SAMPLE (R563). -/
  | dieTempSample (t : BitVec 16)
  /-- RAIL_MONITOR (R563). -/
  | railMonitor (l : RailLevel)
  /-- EXT_FAULT_IN (R570). -/
  | extFaultIn
  /-- FLT_SAFE_RELEASE (R573). -/
  | fltSafeRelease (v : Word) (be : BitVec 4)
  /-- FLT_HIST_POP (R569). -/
  | fltHistPop (v : Word) (be : BitVec 4)
  /-- FLT_STATUS_CLEAR (R564). -/
  | fltStatusClear (hi : Bool) (v : Word) (be : BitVec 4)
  /-- FLT_SEV_WRITE (R568). -/
  | fltSevWrite (i : Fin 4) (v : Word) (be : BitVec 4)
  /-- FLT_CTRL_WRITE (R591). -/
  | fltCtrlWrite (v : Word) (be : BitVec 4)
  /-- COLLECTOR_PARITY (R574). -/
  | collectorParity
  /-- SRAM_ECC_ERROR (R580). -/
  | sramEccError (mem : Nat) (word : Nat) (unit : Nat) (uncorrectable : Bool)
  /-- SRAM_CE_INTERVAL (R581). -/
  | sramCeInterval
  /-- SCRUB_PASS_DONE (R585). -/
  | scrubPassDone (mem : Fin 11) (unit : Nat)
  /-- SCRUB_LATE (R585). -/
  | scrubLate (mem : Fin 11)
  /-- LOG_READ (R578). -/
  | logRead (m : Fin 8)
  /-- MARCH_RUN (R583). -/
  | marchRun (m : Fin 8)
  /-- DEV_SELFTEST (R584). -/
  | devSelftest (m : Fin 8)
  /-- SCRUB_CFG (R586). -/
  | scrubCfg (m : Fin 8)
  /-- FAULT_INJECT (R587). -/
  | faultInject (m : Fin 8)
  /-- POWER_ON (R595). -/
  | powerOn
  /-- CORE_BROWNOUT (R596). -/
  | coreBrownout
  /-- COLD_RESET (R597). -/
  | coldReset
  /-- PERST_ASSERT (R597). -/
  | perstAssert
  /-- PERST_RELEASE (R599). -/
  | perstRelease
  /-- RL_PEER_FAULT_END (R407). -/
  | rlPeerFaultEnd (p : Fin 3)
  /-- TRIGOUT_CONTENTION (R563). -/
  | trigoutContention (x : Fin 4)
  /-- RAIL_BACK_IN_RANGE (R563). -/
  | railBackInRange (r : Nat)
  /-- EXT_FAULT_IN_END (R570). -/
  | extFaultInEnd
  /-- MARCH_DONE (R583). -/
  | marchDone (m : Fin 8) (fails repaired firstFail us : Nat)
  /-- FW_STAGED (R527). -/
  | fwStaged (m : Fin 8) (back : FlashRead) (flashOk : Bool)
  /-- FW_COMMITTED (R528). -/
  | fwCommitted (m : Fin 8) (flashOk : Bool)
  /-- SELFTEST_DONE (R584). -/
  | selftestDone (m : Fin 8) (failed : Byte)
  deriving DecidableEq, Repr

end Sys2Proof
end

