-- ==== Sys2Proof/Config.lean ====
section
/-! DEFINITION. What an implementation fixes and the spec does not give (module constants), and the free values. -/

namespace Sys2Proof

/-- A private key of SLH-DSA (R353, R358): the secret seed, the key of the message randomizer, the public seed. -/
structure SlhKey where
  seed    : List Byte
  prf     : List Byte
  pubSeed : List Byte
  deriving DecidableEq, Repr, Inhabited

end Sys2Proof

namespace Sys2Proof.Config

/-- Free value number `n`: a value the spec leaves open, drawn afresh by the step that needs one (log 7). -/
opaque freeValue : Nat → BitVec 64

/-- Byte `i` of the module serial number (R8; log 12). -/
opaque serialByte : Nat → Byte

/-- Byte `i` of ISSUED of the device certificate (R358; log 12). -/
opaque issuedByte : Nat → Byte

/-- The device's private key, which the identity block holds encrypted (R358; log 12). -/
opaque deviceKey : SlhKey

/-- Hurrijan's manufacturing key, which certified the device, and the entropy that hedged that signature (R358; log 12). -/
opaque makerKey : SlhKey
opaque makerEntropy : List Byte

/-- A Hurrijan key that signs firmware, whose public key the boot ROM holds, and the other public keys in it (R361; log 12). -/
opaque firmwareKey : SlhKey
opaque otherRomKeys : List (List Byte)

/-- BOOTROM_VERSION of DEV_INFO (R8; log 12). -/
opaque bootromVersion : BitVec 32

/-- What the flash density in bytes exceeds twice the shortest image by (R527; log 12). -/
opaque flashExtra : Nat

/-- The flash density in bytes reported through JESD216: each half holds the shortest image of R527 at least (R360, R528;
log 12). -/
def flashBytes : Nat := 60104 + flashExtra

/-- What a lane puts out for a block's raw bytes, by what its match tables and Huffman statistics have taken in since they were
cleared: the raw bytes of the blocks before it, oldest first (R273, R278; log 11). -/
opaque deflate : List (List Byte) → List Byte → List Byte

/-- How far the march in progress has come at a tick, in percent (R583, R589; log 7). -/
opaque marchPercent : Nat → BitVec 7

/-- The ticks at which Summit firmware kicks its watchdog while it runs (R521, R525; log 7). -/
opaque kicks : Nat → Bool

end Sys2Proof.Config
end

