-- ==== Sys2Proof/Machine/State.lean ====
section
/-! DEFINITION. The state of the block as plain data: everything the spec gives the machine, the queue of waiting
commands, the faults and refusals, and the state after reset. -/

namespace Sys2Proof.Machine

/-- A fixed number of like things, indexed by `Fin n`. -/
abbrev Tab (n : Nat) (α : Type) : Type := Vector α n

/-- The four ordering codes (R1), in the order of VARIANT (R8). -/
inductive Variant where
  | x9256 | n9256 | x9128 | b9128
  deriving DecidableEq, Repr

/-- The acquisition state (R31), in the order of DEV_STATUS.ACQ (R543). -/
inductive Acq where
  | idle | running | draining | frozen
  deriving DecidableEq, Repr

/-- The DEV block and the device's own condition (R542-R544, R31, 17 R563). -/
structure Dev where
  variant     : Variant
  ready       : Bool   -- DEV_STATUS.READY
  acq         : Acq    -- DEV_STATUS.ACQ
  safe        : Bool   -- DEV_STATUS.SAFE
  bootrom     : Bool   -- DEV_STATUS.BOOTROM
  softPending : Bool   -- a SOFT reset is in progress (R545)
  scratch     : Word   -- DEV_SCRATCH
  resetCause  : Nat    -- DEV_RESET_CAUSE.CAUSE
  fwVersion   : Word   -- FW_VERSION of the running image (R8)
  fwSlot      : Nat    -- FW_SLOT: 0 = A, 1 = B
  fwFallback  : Bool   -- FW_FALLBACK
  dieTemp     : BitVec 16   -- FLT_TEMP, in 1/16 degree
  tempAt      : Nat         -- tick of the last measurement of it (R563)
  badRails    : List Nat    -- monitored rails outside their operating range (R563)
  vioOff      : Nat         -- the VIO banks that count as unpowered, a mask (R594)
  standby     : Bool   -- only VSTBY is present (R85)
  powered     : Bool   -- the rails have come up (R595)
  perst       : Bool   -- PERST# is asserted (R597)
  backup      : Bool   -- the core runs on the backup oscillator (R449)
  stopped     : Bool   -- the samplers are stopped after a DCO failure (R449)
  deriving DecidableEq, Repr

/-- The ten RWS registers of a channel window (R123, R125-R132). -/
structure ChCfg where
  thr      : Word
  vt       : Word
  deskew   : Word
  ctrl     : Word
  qual     : Tab 4 Word
  state    : Word
  stateWin : Word
  deriving DecidableEq, Repr

/-- One class of the retention policy (R265). -/
structure ClassCfg where
  pre    : Nat
  post   : Nat
  pods   : Nat
  enable : Bool
  deriving DecidableEq, Repr

/-- The retention part of the image that RETAIN_SET owns (R265). -/
structure RetainCfg where
  policy      : Nat
  rfireCairn  : Bool
  summaryRows : Nat
  logMask     : Nat
  classes     : Tab 4 ClassCfg
  deriving DecidableEq, Repr

/-- Pattern word Wi (R191, FAB_CFG KIND 0). -/
structure PatternCfg where
  en    : Bool
  src   : Bool
  neg   : Bool
  value : BitVec 272
  mask  : BitVec 272
  deriving DecidableEq, Repr

/-- Range comparator RNGr (R195, FAB_CFG KIND 2). -/
structure RangeCfg where
  en     : Bool
  signed : Bool
  src    : Bool
  bus    : Nat
  cond   : Nat
  lo     : Word
  hi     : Word
  deriving DecidableEq, Repr

/-- The settings of counter Cn (R196, FAB_CFG KIND 3). -/
structure CounterCfg where
  wrap    : Bool
  autoClr : Bool
  incTerm : Nat
  limit   : Nat
  preload : Nat
  deriving DecidableEq, Repr

/-- The settings of timer Tm (R199, FAB_CFG KIND 4). -/
structure TimerCfg where
  autoStart : Bool
  atPlace   : Bool
  startTerm : Nat
  stopTerm  : Nat
  limit     : Nat
  deriving DecidableEq, Repr

/-- A branch word (R209), 128 bits as software lays it out. -/
abbrev Branch := BitVec 128

/-- A Traverse program: its header (R208) and 16 states of four branches. -/
structure Program where
  step    : Nat
  stepPod : Nat
  group   : Nat
  oneShot : Bool
  words   : Tab 64 Branch
  deriving DecidableEq, Repr

/-- The configuration image (R546) as its registers and commands lay it out. -/
structure Image where
  inputs   : Tab 272 ChCfg
  level    : Nat            -- capture level, 0 PRIMARY, 1 DUAL (R138)
  hold     : Bool           -- RING_FULL policy HOLD
  retain   : RetainCfg
  words    : Tab 16 PatternCfg
  maps     : Tab 8 (List Nat)
  ranges   : Tab 8 RangeCfg
  counters : Tab 32 CounterCfg
  timers   : Tab 16 TimerCfg
  tout     : Tab 4 Word
  progs    : Tab 4 (Option Program)
  deriving DecidableEq, Repr

/-- The CFG block (R553, R554), the three image CRCs and their references (R548). -/
structure Cfg where
  unlock       : Nat     -- CFG_STATUS.UNLOCK_CLASS: the pending unlock class, 0 = none
  opened       : Bool    -- CFG_CTRL.OPEN
  crcRef       : Word    -- CFG_CRC_REF
  crcChecked   : Word    -- CFG_CRC_CHECKED
  crcLive      : Word    -- CFG_CRC_LIVE
  checkedValid : Bool
  section_     : Nat     -- CFG_STATUS.SECTION
  mismatchNow  : Bool
  mismatchSeen : Bool
  mismatchCnt  : Word
  passCnt      : Word
  mismatchRun  : Nat     -- consecutive mismatching passes (R551)
  unfit        : Bool    -- the running pass began under a suspension, or met one: it is not compared (R550)
  refSections  : List Word               -- per-section CRCs of the checked image
  pendingRef   : Option (Word × List Word) -- the pending reference (R548)
  staged       : Image
  active       : Image
  deriving DecidableEq, Repr

/-- A comparator event: its time in 1/256 samples (R100), its input within the pod, the comparator, the new output,
whether it changed the level (R104), and the crossing time of that change (R106). -/
structure CompEv where
  t       : Nat
  input   : Nat
  upper   : Bool
  out     : Bool
  changes : Bool
  tx      : Nat
  deriving DecidableEq, Repr

/-- A state sample of a pod (R110-R112). -/
structure StateSample where
  ts   : Nat
  data : Nat
  viol : Bool
  deriving DecidableEq, Repr

/-- The comparator outputs and levels of a pod's 17 inputs before the first event of its list. -/
structure PodOuts where
  level : Nat
  u     : Nat
  l     : Nat
  deriving DecidableEq, Repr

/-- Where a pod's capture stands in the running epoch: its first row and, once its inputs became ABSENT, the first
ABSENT sample (R62, R142). -/
structure PodCapture where
  first : Nat
  joined : Bool      -- its inputs were ABSENT until the start of `first` (R184)
  gone  : Option Nat
  deriving DecidableEq, Repr

/-- Calibration of one pod port (R115-R122). -/
structure Cal where
  sched      : Nat           -- 0 CONTINUOUS, 1 PERIODIC, 2 ON_DEMAND
  periodS    : Nat
  rotCairn   : Bool
  rotations  : Word
  lastRot    : Nat × Nat     -- LAST_ROT_T0: seconds, nanoseconds
  maxResid   : Nat           -- MAX_RESID, 0xFFFF if none was measured
  aborts     : Nat
  rotating   : Option Nat    -- the input whose swap is due next in the rotation in progress
  startNext  : Bool          -- a rotation starts at the next tick (ROTATE_NOW)
  shadow     : Option Nat    -- the input in shadow
  shadowDone : Bool          -- the shadow's measurement is done (R117 step 2)
  shadowRes  : Option Int    -- its residual in 0.1 ps
  resid      : Tab 17 (Option Int)  -- residual of each input's last swap
  rotMax     : Option (Int × Nat)   -- the rotation's residual largest in magnitude so far, with its input
  stepAt     : Option Nat    -- timebase tick of the rotations' last step (R116)
  rotStart   : Option Nat    -- timebase tick at which the last rotation started (R116)
  resched    : Bool          -- the schedule has changed; it takes effect at the next tick (R120)
  calibrated : Nat           -- pairs calibrated or taken out of use since PERST# (R115)
  abortRun   : Tab 17 Nat    -- consecutive aborts of each input
  spares     : List Nat      -- calibrated spare pairs
  detached   : List Nat      -- pairs under calibration
  failed     : List Nat      -- pairs taken out of use (R119)
  trims      : Tab 19 (Int × Int)   -- timing trims C of U and L of each pair (R100, R115)
  noSpareSig : Bool          -- F20 has been signalled for the lack of a spare
  deriving DecidableEq, Repr

/-- The states of a pod port (R56), in the order of their codes. -/
inductive PodState where
  | empty | debounce | identify | unpowered | powering | joining | active | rejected | faulted
  deriving DecidableEq, Repr

/-- One pod port (R54-R80, R89) with its capture and calibration. -/
structure Pod where
  state       : PodState
  reject      : Nat      -- REJECT_REASON
  since       : Nat      -- tick at which the state was entered (R58)
  telemFail   : Bool
  overvolt    : Bool
  supplyFault : Bool
  present     : Bool     -- live PODp_PRES_N low
  desc        : Option (List Byte)   -- the descriptor read since the last insertion (R77)
  readFails   : Nat      -- failed attempts of the descriptor read (R61)
  vaux        : Bool
  supplyOn    : Bool
  supplySet   : Nat      -- the supply's setpoint in mV (R71)
  supplyLimit : Nat      -- its current limit in 0.1 mA (R71)
  supplyMv    : Nat
  supplyMa    : Nat
  temp        : BitVec 16
  telemBusy   : Bool     -- a telemetry read is in progress (R79)
  telemFails  : Nat      -- consecutive failed telemetry reads
  hot         : Bool     -- POD_HOT has been raised and not rearmed (R80)
  offStaged   : Bool     -- its power-off is staged (R75)
  waiting     : Bool     -- waits in IDENTIFY for the release of safe state or the controller (R74, R522)
  onFor       : List Nat     -- the mailboxes whose POD_POWER ON waits for this pod (R76)
  dropAt      : Option Nat   -- the 1 us sample in which a cause of R64 last dropped it (R65)
  gapAt       : Option Nat   -- the 1 us sample in which the pod-removal gap began
  gapFrom     : Option (Nat × Nat)   -- first row of the pod-removal gap and its CAUSE (R66)
  capture     : Option PodCapture
  evs         : List CompEv          -- comparator events not yet encoded, and those of the last row
  base        : PodOuts              -- what stood before the first of evs
  clocks      : List Nat             -- clock edges (crossing times) not yet judged (R110)
  samples     : List StateSample     -- accepted state samples not yet encoded
  lastClock   : Option Nat           -- the last accepted clock edge (R111)
  dropped     : List Nat             -- sample instants of dropped clock edges not yet encoded
  skipped     : List Nat             -- sample instants of skipped clock edges not yet encoded
  stateCnt    : Word     -- CH_STATE_CNT of PCKp
  clkDrop     : Word     -- CH_CLK_DROP of PCKp
  cal         : Cal
  deriving DecidableEq, Repr

/-- PODC registers that belong to no one pod, keys and indicators (R88-R91). -/
structure Podc where
  autopwr  : Nat         -- PODC_CTRL.AUTOPWR
  pending  : Nat         -- PODC_PENDING
  keyLive  : Nat         -- pressed keys
  stbyPress : Nat        -- STBY_PRESS
  telemPeriod : Nat
  telemAt  : Nat         -- tick of the last start of telemetry reads (R78)
  keyCfg   : Tab 8 Word
  indCfg   : Tab 16 Word
  indSw    : Nat
  deriving DecidableEq, Repr

/-- One block of a row: pod group, offset in the row, length in bytes, frame TYPE. -/
structure BlockDesc where
  pod  : Nat
  off  : Nat
  len  : Nat
  type : Nat
  deriving DecidableEq, Repr

/-- What a SUMMARY entry counts of one input over a span (R255). -/
structure InCount where
  high    : Nat
  changes : Nat
  first   : Bool
  last    : Bool
  absent  : Bool
  deriving DecidableEq, Repr

/-- The counts of one pod group's 17 inputs. -/
structure PodCount where
  pod : Nat
  ins : List InCount
  deriving DecidableEq, Repr

/-- A row of the ring as its line tags describe it (R147-R150), with what the encoder knew of it. -/
structure RowDesc where
  row     : Nat
  pos     : Nat           -- ring position of its first byte; 0 while it is staged
  len     : Nat           -- bytes with padding
  anchor  : Bool
  dual    : Bool
  podMask : Nat
  rawMask : Nat
  blocks  : List BlockDesc
  t0      : Nat × Nat     -- time A of its first sample, T0 format
  suspect : Bool          -- a TIMING_SUSPECT cairn was open during the row
  counts  : List PodCount
  deriving DecidableEq, Repr

/-- One fill watermark (R167, R168). -/
structure Mark where
  level : Nat
  now   : Bool
  seen  : Bool
  count : Nat
  deriving DecidableEq, Repr

/-- An episode of lost rows (R155, R156): first lost row, the row after the last, the pod groups, and its GAP cause. -/
structure Episode where
  first : Nat
  next  : Nat
  pods  : Nat
  cause : Nat
  deriving DecidableEq, Repr

/-- The encoder, the staging buffer and the capture ring (R147-R174). -/
structure Ring where
  capRow   : Nat          -- the next period to encode
  intake   : Bool         -- capture is on (R31, R34)
  staging  : List (RowDesc × List Byte)
  W        : Nat
  X        : Nat
  H        : Nat
  base     : Nat          -- the written base U (R163)
  wRow     : Option Nat   -- number of the last row written
  mem      : List Host.Cell   -- by offset p mod C
  rows     : List RowDesc     -- rows still in the ring, oldest first
  fresh    : Bool         -- no row has been written since PERST#, ACQ_START or a destructive march (R149)
  rate     : Nat          -- RING_RATE
  windowBytes : Nat       -- bytes written in the running 1,024-block window (R44)
  rateBytes : Nat         -- bytes written in the last whole window (R44)
  markA    : Mark
  markB    : Mark
  lostRows : Nat
  ovrCnt   : Word
  eccCe    : Word
  eccUe    : Word
  wdrop    : Word
  eccAddr  : Word64
  tagSel   : Nat
  ceLimit  : Nat
  ceCount  : Nat          -- corrected errors of the running interval (R160)
  ceFrom   : Nat          -- tick at which the interval began
  ceSignalled : Bool
  ceLines  : List Nat     -- lines with one wrong bit
  ueLines  : List Nat     -- lines with two
  episode  : Option Episode      -- the overrun episode in progress
  overflow : Option Episode      -- the encoder overflow episode in progress
  lost     : List (Nat × Nat)    -- rows lost under WINDOW and not settled (R239): row, pod mask
  stray    : Option (Nat × Nat)  -- position and row of an anchor row's second line whose first line is overwritten (R150)
  capHist  : List (Nat × Nat)    -- the pod groups captured, by the row from which each mask holds, newest first (R255)
  scrubPos : Nat
  deriving DecidableEq, Repr

/-- An event-log entry (R576). -/
structure LogEntry where
  seq    : Word
  kind   : Nat
  eflags : Nat
  code   : Nat
  sec    : Nat
  ns     : Nat
  data   : List Byte
  deriving DecidableEq, Repr

/-- A cairn on its way to the record (R258, R259): its instant is in 1/256 samples. -/
structure Cairn where
  code    : Nat
  instant : Nat
  unit    : Nat
  pod     : Nat
  t0      : Nat × Nat
  payload : List Byte
  late    : Bool
  prior   : Bool
  deriving DecidableEq, Repr

/-- A GAP frame on its way to the record (R256, R257); bounds in samples, `stop` none for OPEN_END. -/
structure Gap where
  cause    : Nat
  detail   : Nat
  pods     : Nat
  pod      : Nat
  start    : Nat
  stop     : Option Nat
  tStart   : Nat × Nat
  tStop    : Nat × Nat
  seqFirst : Nat
  seqLast  : Nat
  deriving DecidableEq, Repr

/-- A frame as it travels to the compressor: what later stages need of it and its bytes (R246). -/
structure Frame where
  type  : Nat
  seq   : Nat
  epoch : Nat
  row   : Option Nat
  pods  : Nat
  bytes : List Byte
  deriving DecidableEq, Repr

/-- A request of a retention window (R240): its class, its pod groups, clipped first row, last row, the requested first
row, and TRUNC. -/
structure Request where
  cls   : Nat
  pods  : Nat
  first : Nat
  last  : Nat
  asked : Int
  trunc : Nat
  deriving DecidableEq, Repr

/-- An accepted epoch boundary (R33, R38): the causes accepted before it, its row t_b / 256, the intake gap in blocks,
and whether EPOCH_BOUNDARY has been reached. -/
structure Boundary where
  causes  : List Nat
  row     : Nat
  g       : Nat
  deriving DecidableEq, Repr

/-- What the engine counts over one epoch (R253, R255) and the settings of that epoch. -/
structure EpochRec where
  number    : Nat
  retain    : RetainCfg
  level     : Nat
  openSeq   : Nat
  firstRow  : Nat
  frames    : Nat
  blocks    : Nat
  gaps      : Nat
  cairns    : Nat
  gapSamples : Nat
  fires     : Tab 4 Nat
  truncated : Nat
  prevSet   : Nat × Nat     -- retained set and class set of the previous row
  seen      : Nat           -- pod groups whose block frames need no FIRST flag
  sumFirst  : Nat           -- first row of the running SUMMARY interval
  sumPods   : Nat
  sumFires  : Tab 4 Nat
  gapRanges : List (Nat × Nat)   -- row ranges inside GAP frames of the epoch
  lostRun   : Option (Nat × Nat × Nat)   -- a run of rows lost to the record under WINDOW: first, next, pods (R239)
  gapRow    : Nat           -- t_b / 256 of the boundary that opened it; firstRow after ACQ_START
  noIntake  : Bool          -- it opened after a DCO failure: nothing is captured (R261)
  sumCounts : List PodCount
  active    : Nat           -- ACTIVE_PODS of its EPOCH_OPEN (R252)
  enabled   : List Nat      -- per pod the inputs that its image enables, a mask (R255)
  deriving DecidableEq, Repr

/-- The retention engine (R235-R268). -/
structure Ret where
  epoch     : Nat          -- RET_EPOCH
  seq       : Nat          -- RET_SEQ
  emitRow   : Nat
  settleRow : Nat
  gapCnt    : Word
  cairnCnt  : Word
  lateCnt   : Word
  truncCnt  : Word
  gapSamples : Nat
  logDrop   : Word
  boundary  : Option Boundary  -- accepted and not yet reached, or reached and draining
  heldStop  : Option Nat       -- a cause held while DRAINING: a stop or CLOCK_RANGE (R38)
  heldRow   : Option Nat       -- the row at which a DCO failure inside a drain ends the new epoch (R449)
  heldEpoch : Bool             -- a scheduler EPOCH action held while DRAINING (R38)
  closed    : Bool             -- EPOCH_CLOSE of the draining epoch has left (R34 step 3)
  intakeRow : Option Nat       -- first intake row of the next epoch, once known
  nextFirst : Option (Nat × Nat × List Byte) -- ACTIVE_PODS, LEVEL and IMAGE of the epoch being opened
  openCause : Nat
  cur       : Option EpochRec  -- the epoch being emitted
  requests  : List Request
  fires     : List (Nat × Nat) -- (row, class) of fires not yet counted into the epoch
  cairns    : List Cairn
  gaps      : List Gap
  logPending : List LogEntry
  logDropped : Nat             -- entries lost since the previous LOG frame
  logDue    : Bool
  logTicks  : List Nat         -- timebase ticks at which the pending entries were logged
  rowsRead  : List (RowDesc × List Byte)   -- rows in the input buffer, with their bytes
  readRow   : Nat              -- the next row number to consider for a first read
  second    : Option (Nat × List Nat) -- the row read again for its emission, and its uncorrectable lines (R238)
  prevClose : Option Nat       -- SEQ of the previous EPOCH_CLOSE
  lastT0    : Nat × Nat        -- T0 of the last frame
  suspect   : Option Nat       -- an open TIMING_SUSPECT cairn's REASON
  suspects  : List (Nat × Option Nat) -- instants at which TIMING_SUSPECT opened and closed, newest first (R246)
  deriving DecidableEq, Repr

/-- The states of a mailbox (R498). -/
inductive MbState where
  | idle | queued | running | done
  deriving DecidableEq, Repr

/-- Where a tunnelled command came from: the port, the requester's chain address and its tunnel number (R428, R509). -/
structure TunnelFrom where
  port   : Nat
  origin : Nat
  tun    : Nat
  deriving DecidableEq, Repr

/-- One mailbox (R497-R510). -/
structure Mailbox where
  cmd      : Word          -- MBm_CMD as last written, reserved bits held (R498)
  state    : MbState
  tag      : Nat
  status   : Nat
  keyClass : Nat
  tunnel   : Option TunnelFrom
  detail   : Nat
  time     : Word          -- MBm_TIME
  opcode   : Nat           -- latched at the doorbell
  barrier  : Bool
  key      : Nat           -- the unlock class that the current command carries (R504)
  req      : List Byte     -- the request, copied when the command started (R499)
  resp     : List Byte     -- the response of a command whose transfer goes on (R516)
  order    : Nat           -- the doorbell's place in the order of arrival (R505)
  rung     : Nat           -- AX5 at the doorbell
  deriving DecidableEq, Repr

/-- One circular window (R511-R520). -/
structure Window where
  size    : Nat            -- SIZE_4K
  base    : Nat            -- BASE_4K
  claimed : Bool
  hostProduces : Bool      -- DIR
  done    : Bool
  mb      : Nat
  opcode  : Nat
  prod    : Word
  cons    : Word
  len     : Word
  since   : Nat            -- tick at which the transfer last moved, or the claim (R518)
  out     : List Byte      -- bytes the device has still to produce
  inn     : List Byte      -- bytes the device has consumed
  deriving DecidableEq, Repr

/-- What the controller is doing (R525), in the order of SUMMIT_STATUS.STATE. -/
inductive SummitState where
  | boot | running | restarting | bootrom | halted
  deriving DecidableEq, Repr

/-- The last verification of a flash slot (R528): STATE, FAIL and the header's fields. -/
structure Slot where
  state    : Nat
  fail     : Nat
  version  : Nat
  rollback : Nat
  bodyLen  : Nat
  issuer   : List Byte
  digest   : List Byte
  gone     : Bool          -- erased or partly programmed since (R523, R527)
  deriving DecidableEq, Repr

/-- The Summit controller and its flash (R521-R528). -/
structure Summit where
  state     : SummitState
  restarts  : Nat
  lastCause : Bool
  heartbeat : Word
  lastKick  : Nat          -- tick of the last watchdog kick, or of the start of firmware (R521)
  protoMb   : BitVec 16
  protoCw   : BitVec 16
  recent    : List Nat     -- ticks of the restarts of the last 10 s (R524)
  nextOrder : Nat          -- doorbells rung so far (R505)
  slots     : Tab 2 Slot
  floor     : Nat          -- the rollback floor of the identity block
  verified  : Bool         -- the boot ROM has verified the slots of this start (R361)
  fwDigest  : List Byte    -- BODY_DIGEST of the running image
  scratchpad : List Host.Cell
  deriving DecidableEq, Repr

/-- The event controller and the event log (R557-R562, R576). -/
structure Events where
  raw    : Tab 16 Word
  enable : Tab 16 Word
  vector : Tab 512 (BitVec 6)
  log    : List LogEntry   -- held entries, oldest first
  next   : Word            -- SEQ of the next entry
  deriving DecidableEq, Repr

/-- The four severities (R565, R568), in the order of their codes. -/
inductive Severity where
  | record | notify | contain | safe
  deriving DecidableEq, Repr

/-- An entry of the fault history (R569, R591). -/
structure HistEntry where
  sec      : Nat
  ns       : Nat
  source   : Nat
  severity : Severity
  injected : Bool
  info     : Word
  deriving DecidableEq, Repr

/-- A unit stopped by a containment (R566): the source and the tick at which it rejoined, if it has. -/
structure Contained where
  source  : Nat
  mem     : Nat         -- the memory of F10 (R579)
  unit    : Nat
  stopped : Bool
  rejoin  : Option Nat
  sticky  : Bool        -- stays stopped until software clears the status bit
  deriving DecidableEq, Repr

/-- The fault collector (R563-R575, R589-R591). -/
structure Flt where
  on       : Bool            -- the collector latches: it starts with Summit firmware (R575)
  status   : Word64
  live     : Word64
  latched  : Tab 64 Severity   -- the severity in force at the latch of each source (R564)
  sev      : Tab 4 Word
  faultnSev : Nat
  extEn    : Bool
  hist     : List HistEntry
  overflow : Bool
  dropCnt  : Word
  latchCnt : Word
  safeCnt  : Word
  sramCe   : Word
  sramUe   : Word
  cause    : Nat
  contained : List Contained
  faultN   : Bool            -- FAULT_N is asserted
  faultInLow : Bool          -- FAULT_IN_N has been low for 1 us
  deriving DecidableEq, Repr

/-- The scrub settings of one memory (R585, R586). -/
structure Scrub where
  enable : Bool
  passS  : Nat
  passes : Nat
  lastMs : Nat
  run    : Option (Nat × Nat)   -- the pass under way: its first tick and the PASS_S it runs under (R586)
  late   : Bool    -- SCRUB_LATE has been raised for the running pass
  deriving DecidableEq, Repr

/-- A march test in progress (R583). -/
structure March where
  mb      : Nat
  mem     : Nat
  kind    : Nat
  flags   : Nat
  start   : Nat
  count   : Nat
  deriving DecidableEq, Repr

/-- Memory integrity (R579-R587). -/
structure MemInt where
  corrupt : List (Nat × Nat × Nat)   -- memory, word, wrong bits (R587)
  tests   : List (Nat × Nat)         -- self-tests under way: the mailbox and the tests asked for (R584)
  march   : Option March
  failed  : List Word                -- INFO of the start-up tests' failures that no repair mended, until F10 latches (R582)
  scrub   : Tab 11 Scrub
  ceLimit : Nat
  ceCount : Nat                      -- corrected words of the running interval (R581)
  ceFrom  : Nat                      -- tick at which the interval began
  ceSignalled : Bool
  deriving DecidableEq, Repr

/-- The snapshot page (R555, R556). -/
structure Snap where
  page     : List Host.Cell
  seq      : Word
  valid    : Bool
  busy     : Bool
  overrun  : Bool
  timeBValid : Bool
  edge     : Option Nat       -- AX5 at the edge of a copy that is still to be taken (R555)
  taking   : List Host.Cell   -- the copy taken at the edge, not yet in the page
  takingB  : Bool
  deriving DecidableEq, Repr

/-- Live state of one input (R123-R132, R184). -/
structure Input where
  u        : Bool          -- U_OUT
  l        : Bool          -- L_OUT
  level    : Bool          -- LEVEL
  uGrid    : Option Nat    -- grid step of the last U event (R99)
  lGrid    : Option Nat
  upL      : Option Nat    -- time of the last upward L event in the epoch (R104, R106)
  downU    : Option Nat    -- time of the last downward U event
  edgeCnt  : Word          -- CH_EDGE_CNT
  transit  : Nat           -- CH_TRANSIT.TRANSIT
  valid    : Bool          -- CH_TRANSIT.VALID
  pair     : Nat           -- CH_STATUS.PAIR
  stale    : Bool          -- CAL_STALE
  tOpen    : Option Nat    -- WIDTH: the open pulse's crossing (R180)
  hi       : Option Nat    -- RUNT: entering time of an armed high runt (R181)
  lo       : Option Nat    -- RUNT: entering time of an armed low runt
  tStart   : Option (Nat × Nat) -- TIMEOUT: start of the armed hold and the first sample it may end in (R182)
  deriving DecidableEq, Repr

/-- A qualifier detection that feeds a group (R180, R187): its sample, its placement and its input. -/
structure Detection where
  sample : Nat
  place  : Nat
  input  : Nat
  group  : Nat
  deriving DecidableEq, Repr

/-- A counter (R196, R206): VALUE and, while AT_LIMIT is true, its placement. -/
structure CounterSt where
  value   : Nat
  atLimit : Option Nat
  deriving DecidableEq, Repr

/-- A timer (R199, R206): RUNNING, the start instant, the elapsed time held and, while EXPIRED, the placement. -/
structure TimerSt where
  running : Bool
  expired : Option Nat
  tst     : Nat
  elapsed : Nat
  deriving DecidableEq, Repr

/-- A request of the current sample on a counter (`op` 1 INC, 2 CLEAR, 3 LOAD) or a timer (1 START, 2 STOP, 3 CLEAR). -/
structure FabReq where
  timer : Bool
  idx   : Nat
  op    : Nat
  place : Nat
  deriving DecidableEq, Repr

/-- What a PENDING sequencer waits for (R219). -/
inductive ArmWait where
  | onStart
  | atTimeB (sec ns policy : Nat)
  deriving DecidableEq, Repr

/-- The modes of a sequencer (R207), in the order of their codes. -/
inductive SeqMode where
  | unloaded | idle | pending | armed | done
  deriving DecidableEq, Repr

/-- A Traverse sequencer (R207-R233). -/
structure Seq where
  mode    : SeqMode
  state   : Nat
  flag    : Bool
  late    : Bool
  dropped : Bool
  lastBranch : Nat
  wait    : Option ArmWait
  first   : Nat            -- first sample it may step in
  stepped : Option Nat     -- instant of its last step
  doneFrom : Option (Nat × Bool) -- sample from which it is DONE by a group fire (R222), and whether a frame caused it
  start   : SeqMode × Nat × Bool -- mode, state and flag at the start of the sample (R213)
  fired   : Option (Nat × Nat)   -- sample and placement of its last fire
  firedStart : Option (Nat × Nat) -- `fired` at the start of the sample (R213)
  fireCnt : Word
  stepCnt : Word
  blockCnt : Word
  blockNoted : Bool        -- BLOCKED has been raised since SUSPECT rose
  lastFire : Nat × Nat     -- TRV_LAST_FIRE
  lastInfo : Word          -- TRV_LAST_INFO
  buffer  : Option Program -- the open load buffer (R226)
  deriving DecidableEq, Repr

/-- An order to sequencers that takes effect at the start of a later sample (R219, R224): a disarm of a mask or an arm of it,
with the mailbox it completes (R228, R229), or a wait. An arm that acts late has LATE, and `missed` where that raises
ARM_MISSED (R221). -/
inductive SeqOrder where
  | disarm (mask : Nat) (mb : Option Nat)
  | arm (mask first : Nat) (late missed : Bool) (mb : Option Nat)
  | pend (j : Nat) (w : ArmWait)
  deriving DecidableEq, Repr

/-- The live registers of the FAB block (R205), values of the last sample of the vector evaluated last, and what the TRV block
shows of the sequencers after that sample (R231). -/
structure FabLive where
  cnt    : Tab 32 Nat
  tmr    : Tab 16 Nat
  terms  : Nat
  qgLive : Nat
  status : Nat
  qgCnt  : Tab 16 Nat
  qgLast : Tab 16 Nat
  bus    : Tab 8 Nat
  seqs   : Tab 4 Seq
  deriving DecidableEq, Repr

/-- The trigger fabric (R175-R206). -/
structure Fab where
  counters : Tab 32 CounterSt
  timers   : Tab 16 TimerSt
  words    : Tab 16 (Option Nat)   -- the pattern terms of the last sample with their placements
  ranges   : Tab 8 (Option Nat)
  prevWords  : Tab 16 (Option Nat) -- those of the sample before it
  prevRanges : Tab 8 (Option Nat)
  entered  : Bool                  -- `sample` has been evaluated since the epoch opened
  prevStart : Tab 16 Bool          -- START_TERM in the previous sample
  prevStop  : Tab 16 Bool
  reqs     : List FabReq           -- requests of the sample, not yet applied
  dets     : List Detection        -- detections of samples not yet evaluated
  qgCnt    : Tab 16 Word           -- FAB_QG_CNTg
  qgLast   : Tab 16 (Option Nat)   -- FAB_QG_LASTg: input of the last detection
  qgLive   : Nat                   -- FAB_QG_LIVE
  qgVector : Nat                   -- the vector FAB_QG_LIVE is of
  suspect  : Bool                  -- FAB_STATUS.SUSPECT
  suspectFrom : Option Nat         -- sample at which the cairn opened; suppression begins with the next vector
  suspectTo : Option Nat           -- sample at which it ends, once the cairn has closed
  requalDue : Bool                 -- the qualifiers have still to start afresh at suspectTo (R186)
  orders   : List (Nat × SeqOrder)  -- orders with the sample at whose start they take effect (R219, R224)
  live     : FabLive               -- what the FAB block shows (R205)
  first    : Nat                   -- the first sample of the epoch's intake (R191, R201)
  sample   : Nat                   -- the sample evaluated last
  running  : Bool                  -- the fabric evaluates (R202)
  trigin   : Tab 4 (Option (Nat × Nat))  -- first and last sample of the current high run of each TRIGIN pin
  rfire    : List (Nat × Nat × Option Nat)  -- class, sample and placement of applied FIRE frames; none: the sample's instant
  deriving DecidableEq, Repr

/-- A TRIGOUT output (R230): the samples of the fires whose pulses have not ended, contained by F34, and the level it drove
when it was found in contention (R563). -/
structure Trigout where
  requests  : List Nat
  contained : Bool
  contended : Option Bool
  deriving DecidableEq, Repr

/-- A compression block (R270-R274): its place in block order, its frames, and whether it must be stored with FORCED. A block
that a forced reset left without an extent has the number of the next one to open (R293, R314). -/
structure Block where
  no     : Nat
  frames : List Frame
  head   : Bool            -- the block is an EXTENT_HEAD
  forced : Bool            -- COMPRESS was 0 when it opened
  ext    : Nat             -- the extent it belongs to
  max    : Nat             -- BLOCK_MAX in force when it opened
  flush  : Nat             -- FLUSH_US in force when it opened (R297)
  deriving DecidableEq, Repr

/-- How a lane stored a block (R272, R274): METHOD, FLAGS, payload. -/
structure Stored where
  method  : Nat
  flags   : Nat
  payload : List Byte
  deriving DecidableEq, Repr

/-- What later stages need of the last frame the compressor accepted (R246, R248, R250): SEQ of the last retention frame,
EPOCH and T0 of the last frame, and whether a TIMING_SUSPECT cairn was open at that T0. -/
structure LastFrame where
  seq     : Option Nat
  epoch   : Nat
  t0      : List Byte
  suspect : Bool
  deriving DecidableEq, Repr

/-- A compressor lane (R275-R277): the blocks in its input buffers, oldest first, with what became of each. -/
structure Lane where
  held   : List (Block × Option Stored)
  tables : List (List Byte)       -- raw bytes of the blocks that its match tables and statistics have taken in (R278)
  fails  : Nat
  fenced : Bool
  deriving DecidableEq, Repr

/-- The record compressor (R270-R278, R298). -/
structure Cmp where
  inq       : List Frame          -- frames handed over and not yet accepted
  last      : Option LastFrame    -- the last frame accepted (R248, R250)
  lastAt    : Nat                 -- tick of its arrival (R271)
  opened    : Option Block
  waiting   : List Block          -- closed blocks no lane has taken yet
  lanes     : Tab 8 Lane
  nextLane  : Nat
  nextBlock : Nat                 -- number the next block takes
  nextPkt   : Nat                 -- number of the next block to be packed
  blockKib  : Nat
  compress  : Bool
  flushUs   : Nat
  verifyFail : Word
  rawBytes  : Nat
  storedBytes : Nat
  blockCnt  : Word
  noGain    : Word
  deriving DecidableEq, Repr

/-- A closed packet (R281) with its descriptor (R294). -/
structure Packet where
  words   : Nat
  bytes   : List Byte             -- the block's stored bytes
  ext     : Nat
  off     : Nat                   -- offset of its first byte in the extent's stored bytes
  lastSeq : Nat                   -- SEQ of its last frame (R315)
  seqLo   : Nat
  seqHi   : Nat
  rows    : Option (Nat × Nat)
  pods    : Nat
  lastEpoch : Nat
  epochClose : Bool               -- it holds EPOCH_CLOSE
  seals   : List Nat              -- SEAL_NO with FORMAT_ID of the SEAL frames it holds
  deriving DecidableEq, Repr

/-- A chunk popped and not released (R288, R329): its first word in the draining bank and the word up to which it releases,
its extent's bytes, and the tag of its flush read, or the drive and the command identifier that carries it. -/
structure Chunk where
  first : Nat
  upto  : Nat
  ext   : Nat
  lo    : Nat
  hi    : Nat
  tag   : Option Nat
  drive : Option (Nat × Nat)
  met   : Bool                    -- its release condition is met
  deriving DecidableEq, Repr

/-- The export queue (R280-R301). -/
structure Eq where
  banks     : Tab 2 (List Packet)
  openPkt   : Option Nat          -- number of the block whose packet is open
  openWords : Nat                 -- words pushed into the open packet, its reserved word 0 among them (R281, R285)
  drain     : Nat                 -- DRAIN_BANK
  rd        : Nat
  released  : Nat                 -- words of the draining bank released
  chunks    : List Chunk
  fillClosed : Bool               -- the filling bank is closed by a boundary (R292)
  stall     : Bool
  stallSeen : Bool
  underrun  : Bool
  resetting : Bool
  lost      : List (Option (Nat × Nat) × Option (Nat × Nat) × Nat) -- SEQs, rows, pods that each reset discarded (R294)
  epochHold : Bool
  safeHold  : Bool                -- safe state holds the record: the packets of its blocks may still open (R292)
  frozen    : Bool                -- the bank has closed after the last of them: no packet opens until the release (R292)
  paused    : Bool
  pull      : Bool
  skew      : Tab 6 Int           -- how the second copies of W, RD, the mark, the release position and the contents differ (R293)
  lastRead  : List Byte           -- the last value read (R286)
  wpos      : Nat
  rpos      : Nat
  relpos    : Nat
  underrunCnt : Word
  stallCnt  : Word
  rewindCnt : Word
  resetCnt  : Word
  chunkKib  : Nat
  pullBad   : Word
  deriving DecidableEq, Repr

/-- What the format record says (R306); its copies A and B stand on the die. -/
structure FormatRec where
  id       : Nat
  size     : Nat
  nExt     : Nat
  firstExt : Nat
  nextBase : Nat
  deriving DecidableEq, Repr

/-- Where an extent goes (R311, R321, R325): TARGET, store position, ADDR. -/
structure Place where
  target : Nat
  pos    : Nat
  addr   : Nat
  deriving DecidableEq, Repr

/-- An extent that is open, or closed and not yet durable with its slot written (R310-R319). -/
structure Extent where
  seq      : Nat
  fmt      : Nat
  size     : Nat                  -- EXT_SIZE code
  place    : Place
  prev     : List Byte            -- PREV_CHAIN
  bytes    : List Byte            -- stored bytes of its closed packets
  closing  : Bool                 -- its last block has closed
  closed   : Bool                 -- its last packet has closed
  restart  : Bool
  short    : Bool
  fault    : Bool
  reset    : Bool
  lastSeq  : Nat
  lastEpoch : Nat
  releasedBytes : Nat
  relLen   : Nat                  -- the end of its last wholly released packet, and that packet's SEQ and EPOCH (R314)
  relSeq   : Nat
  relEpoch : Nat
  durable  : Bool
  chain    : List Byte            -- H_n once closed
  tries    : Nat                  -- failed writes of its map slot
  sealFrames : List (Nat × Nat)   -- SEAL frames it holds: SEAL_NO with FORMAT_ID, offset of the block
  deriving DecidableEq, Repr

/-- A store window (R321). -/
structure StoreWin where
  enable : Bool
  base   : Nat
  first  : Nat
  count  : Nat
  used   : Bool                   -- in force for at least one extent opening
  deriving DecidableEq, Repr

/-- A command outstanding on a drive (R328): its identifier, the extent and stored bytes it carries, its PRP list, and
whether it is a Flush. -/
structure DriveCmd where
  cid   : Nat
  flush : Bool
  ext   : Nat
  lo    : Nat
  hi    : Nat
  prp   : Nat
  rung  : Nat                     -- tick of its doorbell (R331)
  deriving DecidableEq, Repr

/-- The settings of an ATTACH (R326). -/
structure DriveCfg where
  fua      : Bool
  nsid     : Nat
  sqBus    : Nat
  cqBus    : Nat
  prpBus   : Nat
  recBus   : Nat
  sqDb     : Nat
  cqDb     : Nat
  startLba : Nat
  lbaCount : Nat
  mdtsKib  : Nat
  qid      : Nat
  deriving DecidableEq, Repr

/-- An NVMe drive (R325-R331, R342). -/
structure Drive where
  state    : Nat                  -- 0 DETACHED, 1 ACTIVE, 2 FAILED
  fails    : Nat
  lastStatus : Nat
  writes   : Word
  failures : Word
  cfg      : DriveCfg
  tail     : Nat
  head     : Nat
  phase    : Bool
  uses     : Tab 64 Nat
  cmds     : List DriveCmd
  deriving DecidableEq, Repr

/-- The Talus record store (R303-R343). -/
structure Talus where
  die       : List Host.Cell      -- map slots, seal index entries, format and quiet records, by die offset (R305)
  mapWrites : Nat                 -- TALUS_MAP_WRITES
  dieUe     : List Nat            -- 32-byte units of the die that hold an uncorrectable word (R339)
  fmt       : Option FormatRec    -- the format in force
  lock      : Bool
  nextExt   : Nat
  durable   : Option Nat          -- the last slot written
  archived  : Nat
  chain     : List Byte           -- H of the last closed extent of the store
  genesis   : Bool                -- the next extent starts the chain of a NEW format (R312)
  opened    : Option Extent
  pending   : List Extent         -- closed, oldest first
  windows   : Tab 16 StoreWin
  drives    : Tab 4 Drive
  ackRelease : Bool
  storeFull : Nat
  storeMark : Mark
  wearMark  : Mark
  extCloseS : Nat
  recovered : Bool                -- the recovery of R338 has run since PERST#
  openTick  : Option Nat          -- tick of the last opening (R313)
  unmFor    : Option Nat          -- the extent whose unmapped position has been reported (R324)
  drained   : Bool                -- a drain has ended in IDLE and no extent has opened since (R337)
  closeDue  : Bool                -- a close waits for the next block close (R314, R250)
  closeAt   : Nat                 -- tick at which it fell due (R250)
  overwriteCnt : Word
  mapHoles  : Word
  mapCe     : Word
  mapUe     : Word
  recBad    : Word
  scrubPos  : Nat
  scrubRest : Nat                 -- where scrub is beyond the slots: the index entries, then the records; 0 in the slots (R354)
  torn      : Option Nat          -- first sequence of the torn range of the last recovery
  lagBase   : Option Nat          -- last torn sequence until the first new extent is durable
  restartPending : Bool
  headSeq   : Option Nat          -- the recovered head with its map entry
  headEntry : List Byte
  quietStart : Bool
  reshape   : Option (Nat × Nat)  -- staged RESHAPE: EXT_SIZE, N_EXTENTS
  waitRate  : Bool
  waitUnmapped : Bool
  waitFull  : Bool
  waitLag   : Bool
  deriving DecidableEq, Repr

/-- A seal being signed (R349, R352). -/
structure SealJob where
  no       : Nat
  first    : Nat
  last     : Nat
  lastSeq  : Nat
  hLast    : List Byte
  reason   : Nat
  tA       : Time
  tB       : Option Time
  delayUs  : Nat
  mbs      : List Nat             -- the mailboxes whose SEAL_NOW it completes
  suspect  : Bool                 -- a TIMING_SUSPECT cairn was open when it started (R246)
  emit     : Bool                 -- its frame is emitted: no safe state has been entered since it started (R351)
  deriving DecidableEq, Repr

/-- A seal that is due (R348, R357): its reason, the tick at which it fell due, the mailbox waiting for it, and the
extent that must have closed and been released first. -/
structure SealDue where
  reason : Nat
  tick   : Nat
  forMb  : Option Nat
  after  : Option Nat
  deriving DecidableEq, Repr

/-- A seal whose index entry is not yet written (R354). -/
structure SealEntry where
  no     : Nat
  first  : Nat
  last   : Nat
  t0     : Nat × Nat
  hLast  : List Byte
  body   : List Byte
  sig    : List Byte
  fmt    : Nat
  tries  : Nat
  holder : Option (Nat × Nat)     -- the durable extent that holds the frame, and the offset of its block
  deriving DecidableEq, Repr


/-- An ATTEST that waits or is being signed (R362): its mailbox, nonce and window, and the report's first 256 bytes once they
are captured at signing start. -/
structure AttestJob where
  mb     : Nat
  nonce  : List Byte
  window : Nat
  report : Option (List Byte)
  since  : Nat                    -- the tick at which it was asked for
  detached : Bool                 -- its mailbox has come back empty: it completes inside the device (R364, R483)
  deriving DecidableEq, Repr

/-- The sealer, the Keccak pool and attestation (R344-R366). -/
structure Sealer where
  enable     : Bool
  intervalMs : Nat
  extents    : Nat
  maxRate    : Nat
  due        : List SealDue       -- oldest first
  signing    : Option SealJob
  overdue    : Bool
  restart    : Bool               -- the next seal carries RESTART (R355)
  lastNo     : Option Nat
  lastExt    : Nat
  lastDigest : List Byte          -- BODY_DIGEST of the last seal completed
  prevSeal   : List Byte          -- PREV_SEAL of the next seal: of the last seal in the record, or of the recovered index
  nextNo     : Nat
  coverFrom  : Nat                -- the first extent no seal covers
  readyExt   : Nat
  readyInfo  : Option (Nat × List Byte)  -- LAST_SEQ and H of that extent
  cnt        : Word
  delayCnt   : Word
  entries    : List SealEntry     -- seals whose holder is not yet durable
  fenced     : Nat                -- KECCAK_STATUS.FENCED
  tested     : Bool               -- they have run since PERST#
  testAt     : Nat                -- tick of the last known-answer tests (R347)
  chainCores : Nat                -- KECCAK_STATUS.CHAIN
  backlog    : Nat                -- the chain's input not yet absorbed, in thirds of a byte (R346)
  borrow     : Bool               -- the input exceeds the capacity of the chain's own cores (R346)
  lastStart  : Option Nat         -- tick at which the last seal started (R348, R349)
  firstOpen  : Option Nat         -- tick at which the first extent of the format or of the recovery opened (R348)
  timer      : Nat                -- ticks for which a seal has been due with none completing (R350)
  attest     : Option AttestJob
  fw         : Option Nat         -- the mailbox of a FW_STAGE or FW_COMMIT in progress
  deriving DecidableEq, Repr

/-- A quadrature encoder axis (R384, R398). -/
structure Enc where
  enable : Bool
  invert : Bool
  mode   : Nat
  index  : Nat
  filt   : Nat
  count  : Nat             -- 48 bits, two's complement
  latched : Nat
  errors : Nat             -- 16 bits
  a      : Bool
  b      : Bool
  z      : Bool
  movedA : Option Nat      -- tick at which the filtered input last changed (R384)
  movedB : Option Nat
  movedZ : Option Nat
  stepped : Bool           -- the last change of the count was a step (R386)
  deriving DecidableEq, Repr

/-- The mains axis (R385, R400). -/
structure Mains where
  enable  : Bool
  mode    : Nat
  cycles  : Nat            -- 48 bits
  frac    : Nat            -- 16 bits
  lastZc  : Option Nat     -- AX5 at the last accepted zero crossing
  period  : Nat            -- P in samples of AX5, 0 while not known
  since   : Nat            -- AX5 when an edge was last accepted, or the axis enabled
  range   : Bool
  lost    : Bool
  stepped : Bool           -- the last change of the axis was a preset (R386)
  deriving DecidableEq, Repr

/-- Settings of AXIS_CFG that wait for the next tick (R387). -/
structure AxisSet where
  axis   : Nat             -- 2, 3 or 4
  enable : Bool
  invert : Bool
  mode   : Nat
  index  : Nat
  filt   : Nat
  preset : Option Nat      -- the count, or the cycles
  deriving DecidableEq, Repr

/-- A span with one increment (R368): the instant of its first tick in 1/256 samples, the time just after it, the
increment. -/
structure Seg where
  start : Nat
  time : Time
  incr : Nat
  step : Bool              -- the span was opened by a step, not by a change of the increment
  deriving DecidableEq, Repr

/-- Time A, time B, PPS and the axes (R367-R387, R398-R400). -/
structure Tm where
  tick     : Nat           -- timebase ticks since PERST#
  ax5      : Nat           -- AX5, in samples
  ax5Frac  : Nat           -- tenths of a sample not yet counted
  a        : Time
  aCopy    : Time          -- the second copy (R373)
  segA     : List Seg      -- what R368 needs of the past, newest first
  segB     : List Seg
  incrA    : Nat
  stepA    : Option (Int × Bool)   -- accepted step of A in ns, and whether it was keyed
  stepLimit : Word
  accepted : Nat
  refused  : Nat
  b        : Time
  bValid   : Bool
  incrB    : Nat
  servoFreq : Nat          -- the frequency the servo has found, as an increment (R420)
  servoIncr : Nat          -- the increment it last used
  stepB    : Option Int
  source   : Nat
  slewing  : Bool
  primary  : Nat
  secondary : Nat
  revert   : Bool
  revertS  : Nat
  ppsCfg   : Word
  ppsA     : Word64 × Word
  ppsB     : Word64 × Word
  ppsCnt   : Word
  ppsLast  : Option Nat    -- instant of the last captured edge
  ppsFrom  : Nat           -- instant at which IN_EN last went from 0 to 1 (R381)
  ppsMissing : Bool        -- G2.7 has been raised since the last captured edge
  ppsOut   : Option Nat    -- tick at which PPS_OUT became active, while it is active
  enc      : Tab 2 Enc
  mains    : Mains
  axisSet  : List AxisSet  -- accepted by AXIS_CFG since the last tick
  heldLow  : List (Nat × Word)   -- held low words of 64-bit registers, by offset (R537)
  latches  : List (Nat × Word)   -- loaded high-word latches, by offset (R537)
  deriving DecidableEq, Repr

/-- A scheduler slot (R388-R402). -/
structure Slot64 where
  cfg     : Word
  target  : Word64
  period  : Word64
  armReq  : Bool           -- ARM has been written; it takes effect at the next tick (R388)
  armed   : Bool
  due     : Option (Nat × Option Nat)   -- reached and not yet dispatched: the tick, and the instant, none for a past target
  queued  : Bool
  late    : Bool
  missed  : Bool
  outcome : Nat
  missedCnt : Nat
  doneCnt : Nat
  deriving DecidableEq, Repr

/-- An action in the scheduler's queue (R395): its slot, outcome, the instant it was dispatched at, and its target. -/
structure SchAction where
  slot    : Nat
  outcome : Nat
  instant : Nat
  target  : Nat
  cfg     : Word
  deriving DecidableEq, Repr

/-- The scheduler (R388-R397, R401, R402). -/
structure Sch where
  slots : Tab 64 Slot64
  sf    : Nat
  sfHist : Tab 8 (List (Nat × Bool))   -- changes of each flag, newest first: instant and value (R394)
  queue : List SchAction
  overflow : Nat
  deriving DecidableEq, Repr

/-- A timed action in a launch queue or in the timed-receive list (R424, R426); seconds are 48 bits. -/
structure Timed where
  launch : Nat × Nat       -- LAUNCH_B: seconds, nanoseconds
  apply  : Nat × Nat       -- APPLY_B
  dest   : Nat
  action : Nat
  arg    : Nat
  policy : Nat
  tag    : Nat
  deriving DecidableEq, Repr

/-- The states of a Ridgeline port (R407, R438), in the order of their codes. -/
inductive PortState where
  | disabled | training | up | peerFault
  deriving DecidableEq, Repr

/-- The last TIME frame of a port with TB_VALID = 1 (R418, R419): the tick and AX5 at which it arrived, its TB in 2^-32 ns and
its other fields. -/
structure TimeSeen where
  tick     : Nat
  ax5      : Nat
  tb       : Nat
  holdover : Bool
  root     : Nat
  stratum  : Nat
  upstream : Nat
  deriving DecidableEq, Repr

/-- Frames dropped for want of forward buffer (R431): pod groups, and the samples and T0 bounds of the block frames. -/
structure FwdDrop where
  pods   : Nat
  bounds : Option (Nat × Nat)
  deriving DecidableEq, Repr

/-- A frame in a port's transmit queue (R409, R412): what its header and body hold but LSEQ, which it takes when it is sent;
`bad` where it ends with an inverted CRC (R408). -/
structure TxFrame where
  type   : Nat
  origin : Nat
  dest   : Nat
  hop    : Nat
  oseq   : Nat
  body   : List Byte
  bad    : Bool
  deriving DecidableEq, Repr

/-- A Ridgeline port (R405-R438). -/
structure Port where
  state    : PortState
  enable   : Bool
  rfireAccept : Bool
  classMask : Nat
  fwdTx    : Bool
  fwdRx    : Bool
  asymPs   : Int
  peerAddr : Nat
  peer     : Option (List Byte × Nat)   -- the peer's SERIAL and RESTARTS of the last training (R407)
  lost     : Word
  crcErr   : Word
  samples  : List Int            -- link delay samples since UP, newest first, at most 16, in 2^-32 ns (R417)
  delay    : Int                 -- RL_DELAY in ps
  offset   : Int                 -- RL_OFFSET in ps
  good     : Bool
  goodSince : Nat                -- tick at which it last became good
  txCnt    : Word
  rxCnt    : Word
  missed   : Nat
  launch   : List Timed          -- in launch order
  lseqTx   : Nat                 -- LSEQ of the next frame sent
  txq      : List TxFrame        -- frames queued and not yet begun, oldest first (R412)
  txCur    : List Byte           -- the frame last begun
  txBusy   : Nat                 -- instant at which it has been sent
  recFree  : Nat                 -- instant from which the next RECORD frame may begin (R432)
  lseqRx   : Option Nat          -- LSEQ expected next
  lastTime : Option TimeSeen
  trainFrom : Nat                -- tick from which the 100 ms of R408 run
  faulted  : Bool                -- its link fault has been signalled in this episode (R408)
  downAt   : Option (Nat × Nat)  -- time A at which it left UP, until the first frame after the outage (R433)
  upAt     : Nat × Nat           -- time A at which it returned
  restarted : Bool               -- the peer's RESTARTS has changed across the outage
  fwdBuf   : List (List Byte)    -- RECORD frames not acknowledged, oldest first (R430)
  fwdSent  : Nat                 -- how many of them have been sent since the port became UP
  rseqTx   : Nat                 -- RSEQ of the next RECORD frame made
  credit   : Nat                 -- bytes of credit left
  grant    : Nat                 -- bytes of credit granted to the peer and not used by it
  fwdDrop  : Option FwdDrop      -- frames are being dropped (R431)
  reasm    : List Byte           -- a forwarded frame being reassembled (R432)
  rseqRx   : Nat                 -- RSEQ expected next
  deriving DecidableEq, Repr

/-- A unit found by a discovery session (R415, R416): its SERIAL, the fewest hops seen, its address, which of its ports
see a peer. -/
structure RlUnit where
  serial : List Byte
  hop    : Nat
  addr   : Nat
  upMask : Nat
  deriving DecidableEq, Repr

/-- A tunnelled command under way, on the requester (R428, R429): its mailbox, TTAG, the tick of its deadline, and the
response segments that have arrived. -/
structure Tunnel where
  mb       : Nat
  ttag     : Nat
  dest     : Nat
  deadline : Nat
  status   : Nat
  segs     : List (Nat × List Byte)
  deriving DecidableEq, Repr

/-- A tunnelled request being reassembled on the remote unit (R428): port, ORIGIN, TTAG, OPCODE, MBOX, BARRIER and the
segments that have arrived. -/
structure TunnelIn where
  origin  : Nat
  ttag    : Nat
  opcode  : Nat
  mbox    : Nat
  barrier : Bool
  segs    : List (Nat × List Byte)
  deriving DecidableEq, Repr

/-- A discovery session run as root (R415, R416): its mailbox and circular window while it runs, ROOT_ADDR, and the units
found. -/
structure RlSession where
  live     : Bool          -- the session is under way
  mb       : Option Nat
  cw       : Nat
  rootAddr : Nat
  session  : Nat
  started  : Nat           -- tick of step 1 of R415
  lastNew  : Nat           -- tick of the last new reply, or of step 1
  units    : List RlUnit
  deriving DecidableEq, Repr

/-- Ridgeline (R405-R438). -/
structure Rl where
  ports    : Tab 3 Port
  addr     : Nat
  root     : Nat                      -- ROOT of RL_DISCOVER READ (R416)
  session  : Nat                      -- the highest SESSION seen
  origins  : List (Nat × Nat × Nat)   -- origin, last OSEQ applied, tick of its last frame (R413)
  seen     : List (Nat × List Byte)   -- discovery frames applied in this session: TYPE and SERIAL (R413)
  oseq     : Nat
  run      : Option RlSession         -- the last session this unit ran as root
  older    : List RlSession           -- sessions still running that a later one has followed
  track    : Nat × Nat                -- ROOT and STRATUM while tracking a port, or as kept in HOLDOVER (R418)
  tracked  : Bool                     -- some port has been tracked since time B became valid
  timed    : List Timed               -- the timed-receive list (R426)
  tunnels  : List Tunnel
  ttag     : Nat                      -- TTAG of the next tunnel
  inTunnel : List TunnelIn
  restarts : Nat                      -- PERST# releases since power-up, modulo 256, as TRAIN sends them (R407)
  deriving DecidableEq, Repr

/-- The states of a loop (R459), in the order of their codes. -/
inductive LoopState where
  | freeRun | acquiring | locked | holdover | backup
  deriving DecidableEq, Repr

/-- One loop of the clock synthesis (R440-R459). -/
structure Loop where
  state : LoopState
  pbo   : Int            -- build-out in ps
  deriving DecidableEq, Repr

/-- Clock synthesis (R440-R460). -/
structure Pll where
  s        : Loop
  l        : Loop
  ref      : Nat         -- source in use (R443)
  altInUse : Bool
  prepath  : Nat         -- pre-path in use
  dcoRange : Bool
  suspect  : Bool        -- TIMING_SUSPECT is open for ADPLL-S
  realigning : Bool
  phErr    : Int         -- PLL_S_PHERR in ps
  good     : Nat
  missing  : Nat
  offRange : Nat
  sFreq    : Int         -- PLL_S_FREQ in ppb
  holdWord : Int         -- PLL_HOLD_WORD in ppb
  lastStep : Int         -- PLL_LAST_STEP in ps
  dcoFails : Nat
  refLosses : Nat
  lUnlocks : Nat
  sUnlocks : Nat
  stepCnt  : Word
  refSel   : Nat
  refAlt   : Nat
  refInFreq : Nat
  prepathCfg : Nat
  bwS      : Nat
  bwL      : Nat
  refoutDiv : Nat
  refoutDelay : Nat
  realign  : Bool
  qualMs   : Nat
  qualifying : Option (Nat × Nat)   -- the source under qualification and the tick at which it began (R451)
  switching : Bool                  -- holdover was entered by an accepted switch (R453)
  readings : List (Nat × Int)       -- the DCO monitor's readings while LOCKED with their AX5, newest first (R447, R451)
  lockedTo : Nat                    -- AX5 at which ADPLL-S last lost lock (R448)
  realignDue : Bool                 -- a slew starts at the next epoch boundary instant (R455)
  deriving DecidableEq, Repr

/-- The AER registers of configuration space (R463, R477): status, mask and severity of the uncorrectable errors, status and mask
of the correctable ones, and the ECRC enables. -/
structure Aer where
  uncStat : Word
  uncMask : Word
  uncSev  : Word
  corStat : Word
  corMask : Word
  ecrcGen : Bool
  ecrcChk : Bool
  deriving DecidableEq, Repr

/-- The host endpoint (R461-R494). -/
structure Pcie where
  dlUp     : Bool
  gen      : Nat
  width    : Nat
  bme      : Bool
  msixEn   : Bool
  funcMask : Bool
  d3hot    : Bool
  ltrEn    : Bool
  aspmEn   : Bool
  inL1     : Bool
  tag10    : Bool
  ctoValue : Nat
  mps      : Nat             -- Max_Payload_Size of Device Control: 128 bytes times 2 to this power, at most 512
  bars     : Tab 3 Word64    -- the base addresses of BAR0, BAR2 and BAR4 (R464)
  aer      : Aer
  maxSnoop : Nat             -- Max Snoop Latency register, latency field and scale as the LTR message has them
  maxNoSnoop : Nat
  ltrSent  : Nat             -- LTR_SENT
  ltrAny   : Bool            -- PCIE_LTR_STATUS.SENT
  ltrCapped : Bool
  ltrBase  : Option (Nat × Nat)   -- free space and rate behind the last message (R45)
  ltrCnt   : Word
  cplToCnt : Word
  lateCplCnt : Word
  badCplCnt : Word
  inbDrop  : Word
  inbUr    : Word
  poison   : Word
  corr     : Word
  linkDown : Word
  tags     : List (Nat × Nat × Nat)   -- outstanding flush reads: tag, address, tick at which it times out (R472)
  quarantine : List (Nat × Nat × Nat × Bool)   -- tag, address, tick at which it ends, abandoned by FLR (R474, R483)
  nextTag  : Nat
  hostRid  : Word
  pwCfg    : Tab 8 Word
  pwMap    : Tab 8 Word
  pwCfgAct : Tab 8 Word
  pwMapAct : Tab 8 Word
  pwCommits : List (List (Nat × Word × Word))  -- commits that await their switch: window, PW_CFG, PW_MAP (R487)
  pwRefused : Bool
  msixTable : Tab 256 Word
  pba      : BitVec 64
  flr      : Bool            -- a Function Level Reset is under way (R483)
  deriving DecidableEq, Repr

/-- What the device issued outward: the model's own list, oldest last appended. -/
inductive Output where
  | readData (bar off : Nat) (data : List Byte) (poisoned : Bool) -- completion of a host read
  | regData (off : Nat) (data : Word64)                                     -- a register read with a side effect
  | postedWrite (addr : Nat) (data : List Byte)
  | flushRead (addr : Nat) (tag : Nat)
  | msix (vec : Nat) (addr : Nat) (data : Word)
  | ltr (value : Nat)
  | aer (code : Nat)     -- an AER report, by the codes of `aerUncBit` and `aerCorBit`
  | rlFrame (port : Nat) (frame : List Byte)                                 -- a frame begins on a port
  | rlCut (port : Nat) (frame : List Byte)                                   -- the frame in progress ends so instead (R434)
  | rlBlock (port : Nat) (block : List Byte)                                 -- the control block sent from now on (R406, R434)
  | unsupportedReq (bar off : Nat)                                     -- a request answered with UR
  | doorbell (addr : Nat) (value : Nat)
  deriving DecidableEq, Repr

/-- The whole machine. -/
structure State where
  dev     : Dev
  cfg     : Cfg
  inputs  : Tab 272 Input
  grpMask : Tab 72 Word        -- GRPMASKu_j at 9u + j
  bcastAgree : Word
  pods    : Tab 16 Pod
  podc    : Podc
  fab     : Fab
  seqs    : Tab 4 Seq
  trigout : Tab 4 Trigout
  ring    : Ring
  ret     : Ret
  cmp     : Cmp
  eq      : Eq
  tal     : Talus
  sealer  : Sealer
  tm      : Tm
  sch     : Sch
  rl      : Rl
  pll     : Pll
  pcie    : Pcie
  mb      : Tab 8 Mailbox
  cw      : Tab 8 Window
  summit  : Summit
  evt     : Events
  flt     : Flt
  mem     : MemInt
  snap    : Snap
  freeCtr : Nat
  out     : List Output
  pending : List Instr
  deriving DecidableEq, Repr

/-- Why a step stops with a fault. -/
inductive Fault where
  /-- The access leaves its BAR (BAR0's 16 MiB, BAR2's 64 GiB) or one 4 MiB alias of BAR0: no such address exists (R15, R532,
  R538). Raised by BAR0_WRITE, REG_ALIAS_WRITE, BAR2_READ and BAR2_WRITE alone; safe. -/
  | outsideBar (bar off : Nat)
  deriving DecidableEq, Repr

/-- Why a step refuses a command. -/
inductive Refusal where
  /-- The command has no meaning in the model: no arm of `exec` answers with it; safe. -/
  | notModelled (mnemonic : String)
  deriving DecidableEq, Repr


/-! ## The state after reset (R20, R597): the instant PERST# is released with every rail in range -/

/-- The reset values of a channel's registers (R125-R132). -/
def ChCfg.reset : ChCfg :=
  { thr := 0x020F01F1, vt := 0, deskew := 0, ctrl := 1, qual := Vector.replicate 4 0, state := 0x20, stateWin := 0 }

/-- The retention settings after PERST#, FLR and SOFT reset (R265), with the pod ports of the variant. -/
def RetainCfg.reset (podMask : Nat) : RetainCfg :=
  { policy := 0, rfireCairn := false, summaryRows := 0, logMask := 0,
    classes := Vector.replicate 4 { pre := 0, post := 0, pods := podMask, enable := true } }

/-- The image after PERST#, FLR and SOFT reset: every field at its reset value (R133, R138, R202, R225, R230, R265). -/
def Image.reset (podMask : Nat) : Image :=
  { inputs := Vector.replicate 272 ChCfg.reset, level := 0, hold := false, retain := RetainCfg.reset podMask,
    words := Vector.replicate 16 { en := false, src := false, neg := false, value := 0, mask := 0 },
    maps := Vector.replicate 8 [],
    ranges := Vector.replicate 8 { en := false, signed := false, src := false, bus := 0, cond := 0, lo := 0, hi := 0 },
    counters := Vector.replicate 32 { wrap := false, autoClr := false, incTerm := 0, limit := 0, preload := 0 },
    timers := Vector.replicate 16 { autoStart := false, atPlace := false, startTerm := 0, stopTerm := 0, limit := 0 },
    tout := Vector.replicate 4 0, progs := Vector.replicate 4 none }

/-- The pod ports of a variant (R1, R7). -/
def Variant.ports : Variant → Nat
  | .x9256 | .n9256 => 0xFFFF
  | .x9128 | .b9128 => 0xFF

def Dev.reset (v : Variant) : Dev :=
  { variant := v, ready := false, acq := .idle, safe := false, bootrom := false, softPending := false, scratch := 0,
    resetCause := 1, fwVersion := 0, fwSlot := 0, fwFallback := false, dieTemp := 0, tempAt := 0, badRails := [], vioOff := 0, standby := false,
    powered := true, perst := false, backup := false, stopped := false }

def Cfg.reset (podMask : Nat) : Cfg :=
  { unlock := 0, opened := false, crcRef := 0, crcChecked := 0, crcLive := 0, checkedValid := false, section_ := 0xF,
    mismatchNow := false, mismatchSeen := false, mismatchCnt := 0, passCnt := 0, mismatchRun := 0, unfit := true, refSections := [],
    pendingRef := none, staged := Image.reset podMask, active := Image.reset podMask }

/-- Input `n` after reset: input k of each pod uses pair k (R115). -/
def Input.reset (n : Nat) : Input :=
  { u := false, l := false, level := false, uGrid := none, lGrid := none, upL := none, downU := none, edgeCnt := 0,
    transit := 0, valid := false, pair := if n < 256 then n % 16 else 16, stale := false, tOpen := none, hi := none,
    lo := none, tStart := none }

/-- The calibration settings after PERST# (R115, R116). -/
def Cal.reset : Cal :=
  { sched := 1, periodS := 10, rotCairn := true, rotations := 0, lastRot := (0, 0), maxResid := 0xFFFF, aborts := 0,
    rotating := none, startNext := false, shadow := none, shadowDone := false, shadowRes := none,
    resid := Vector.replicate 17 none, rotMax := none, abortRun := Vector.replicate 17 0, spares := [17, 18],
    detached := [], failed := [], trims := Vector.replicate 19 (0, 0), noSpareSig := false, stepAt := none, rotStart := none,
    resched := false, calibrated := 0 }

def Pod.reset : Pod :=
  { state := .empty, reject := 0, since := 0, telemFail := false, overvolt := false, supplyFault := false, present := false,
    desc := none, readFails := 0, vaux := false, supplyOn := false, supplySet := 0, supplyLimit := 0, supplyMv := 0, supplyMa := 0,
    temp := 0x8000,
    telemBusy := false, telemFails := 0, hot := false, offStaged := false, waiting := false, onFor := [], dropAt := none,
    gapAt := none, gapFrom := none, capture := none, evs := [], base := { level := 0, u := 0, l := 0 }, clocks := [],
    samples := [], lastClock := none, dropped := [], skipped := [], stateCnt := 0, clkDrop := 0, cal := Cal.reset }

/-- The PODC registers after reset (R88-R91): AUTOPWR names the pod ports of the variant. -/
def Podc.reset (podMask : Nat) : Podc :=
  { autopwr := podMask, pending := 0, keyLive := 0, stbyPress := 0, telemPeriod := 10, telemAt := 0,
    keyCfg := Vector.replicate 8 0x4, indCfg := Vector.replicate 16 0x800, indSw := 0 }

def Seq.reset : Seq :=
  { mode := .unloaded, state := 0, flag := false, late := false, dropped := false, lastBranch := 0, wait := none,
    first := 0, stepped := none, doneFrom := none, start := (.unloaded, 0, false), fired := none, firedStart := none, fireCnt := 0,
    stepCnt := 0, blockCnt := 0, blockNoted := false, lastFire := (0, 0), lastInfo := 0, buffer := none }

def FabLive.reset : FabLive :=
  { cnt := Vector.replicate 32 0, tmr := Vector.replicate 16 0, terms := 0, qgLive := 0, status := 0,
    qgCnt := Vector.replicate 16 0, qgLast := Vector.replicate 16 0, bus := Vector.replicate 8 0, seqs := Vector.replicate 4 Seq.reset }

def Fab.reset : Fab :=
  { counters := Vector.replicate 32 { value := 0, atLimit := none },
    timers := Vector.replicate 16 { running := false, expired := none, tst := 0, elapsed := 0 },
    words := Vector.replicate 16 none, ranges := Vector.replicate 8 none, prevWords := Vector.replicate 16 none,
    prevRanges := Vector.replicate 8 none, entered := false, prevStart := Vector.replicate 16 false,
    prevStop := Vector.replicate 16 false, reqs := [], dets := [], qgCnt := Vector.replicate 16 0,
    qgLast := Vector.replicate 16 none, qgLive := 0, qgVector := 0, suspect := false, suspectFrom := none,
    suspectTo := none, requalDue := false, orders := [], live := FabLive.reset, first := 0, sample := 0, running := false, trigin := Vector.replicate 4 none, rfire := [] }

def Mark.reset (level : Nat) : Mark := { level := level, now := false, seen := false, count := 0 }

def Ring.reset : Ring :=
  { capRow := 0, intake := false, staging := [], W := 0, X := 0, H := 0, base := 0, wRow := none, mem := [], rows := [],
    fresh := true, rate := 0, windowBytes := 0, rateBytes := 0, markA := Mark.reset 192, markB := Mark.reset 240,
    lostRows := 0, ovrCnt := 0, eccCe := 0, eccUe := 0, wdrop := 0, eccAddr := 0, tagSel := 0, ceLimit := 1000,
    ceCount := 0, ceFrom := 0, ceSignalled := false, ceLines := [], ueLines := [], episode := none, overflow := none, lost := [],
    scrubPos := 0, stray := none, capHist := [] }

def Ret.reset : Ret :=
  { epoch := 0, seq := 0, emitRow := 0, settleRow := 0, gapCnt := 0, cairnCnt := 0, lateCnt := 0, truncCnt := 0,
    gapSamples := 0, logDrop := 0, boundary := none, heldStop := none, heldRow := none, heldEpoch := false, closed := false,
    intakeRow := none, nextFirst := none, openCause := 0, cur := none, requests := [], fires := [], cairns := [],
    gaps := [], logPending := [], logDropped := 0, logDue := false, logTicks := [], rowsRead := [], readRow := 0, second := none,
    prevClose := none, lastT0 := (0, 0), suspect := none, suspects := [] }

/-- The compressor after PERST# (R298). -/
def Cmp.reset : Cmp :=
  { inq := [], last := none, lastAt := 0, opened := none, waiting := [],
    lanes := Vector.replicate 8 { held := [], tables := [], fails := 0, fenced := false },
    nextLane := 0, nextBlock := 0, nextPkt := 0, blockKib := 64, compress := true, flushUs := 100, verifyFail := 0,
    rawBytes := 0, storedBytes := 0, blockCnt := 0, noGain := 0 }

/-- The export queue after PERST# (R298). -/
def Eq.reset : Eq :=
  { banks := Vector.replicate 2 [], openPkt := none, openWords := 0, frozen := false, skew := Vector.replicate 6 0, drain := 0, rd := 0, released := 0, chunks := [], fillClosed := false,
    stall := false, stallSeen := false, underrun := false, resetting := false, lost := [], epochHold := false,
    safeHold := false,
    paused := false, pull := false, lastRead := List.replicate 64 0, wpos := 0, rpos := 0, relpos := 0, underrunCnt := 0,
    stallCnt := 0, rewindCnt := 0, resetCnt := 0, chunkKib := 256, pullBad := 0 }

def DriveCfg.reset : DriveCfg :=
  { fua := false, nsid := 0, sqBus := 0, cqBus := 0, prpBus := 0, recBus := 0, sqDb := 0, cqDb := 0, startLba := 0,
    lbaCount := 0, mdtsKib := 0, qid := 0 }

def Drive.reset : Drive :=
  { state := 0, fails := 0, lastStatus := 0, writes := 0, failures := 0, cfg := DriveCfg.reset, tail := 0, head := 0,
    phase := true, uses := Vector.replicate 64 0, cmds := [] }

/-- The store after PERST# (R336, R338) over a die with nothing on it (log 6). -/
def Talus.reset : Talus :=
  { die := [], mapWrites := 0, dieUe := [], fmt := none, lock := false, nextExt := 0,
    durable := none, archived := 0, chain := [], genesis := false, opened := none, pending := [],
    windows := Vector.replicate 16 { enable := false, base := 0, first := 0, count := 0, used := false },
    drives := Vector.replicate 4 Drive.reset, ackRelease := false, storeFull := 0, storeMark := Mark.reset 192,
    wearMark := Mark.reset 230, extCloseS := 0, recovered := false, openTick := none, unmFor := none,
    drained := false, closeDue := false, closeAt := 0, overwriteCnt := 0, mapHoles := 0, mapCe := 0,
    mapUe := 0, recBad := 0, scrubPos := 0, scrubRest := 0, torn := none, lagBase := none, restartPending := false, headSeq := none,
    headEntry := [], quietStart := false, reshape := none, waitRate := false, waitUnmapped := false, waitFull := false,
    waitLag := false }

/-- The sealer after PERST# (R356, R365). -/
def Sealer.reset : Sealer :=
  { enable := true, intervalMs := 1000, extents := 4096, maxRate := 10, due := [], signing := none, overdue := false,
    restart := false, lastNo := none, lastExt := 0, lastDigest := [], prevSeal := [], nextNo := 0, coverFrom := 0,
    readyExt := 0,
    readyInfo := none, cnt := 0, delayCnt := 0, entries := [], fenced := 0, tested := false, testAt := 0, chainCores := 0x3FF, backlog := 0, borrow := false,
    lastStart := none, firstOpen := none, timer := 0, attest := none,
    fw := none }

/-- The nominal increment (R369). -/
def nominalIncr : Nat := 0x0400000000

def Tm.reset : Tm :=
  let z : Time := { sec := 0, ns := 0, frac := 0 }
  { tick := 0, ax5 := 0, ax5Frac := 0, a := z, aCopy := z,
    segA := [{ start := 0, time := z, incr := nominalIncr, step := false }],
    segB := [{ start := 0, time := z, incr := nominalIncr, step := false }], incrA := nominalIncr, stepA := none,
    stepLimit := 1000, accepted := 0, refused := 0, b := z, bValid := false, incrB := nominalIncr,
    servoFreq := nominalIncr, servoIncr := nominalIncr, stepB := none, source := 0, slewing := false, primary := 0, secondary := 0, revert := false,
    revertS := 0, ppsCfg := 0x00640000, ppsA := (0, 0), ppsB := (0, 0), ppsCnt := 0, ppsLast := none, ppsFrom := 0, ppsMissing := false,
    ppsOut := none,
    enc := Vector.replicate 2
      { enable := false, invert := false, mode := 0, index := 0, filt := 0, count := 0, latched := 0, errors := 0,
        a := false, b := false, z := false, movedA := none, movedB := none, movedZ := none, stepped := false },
    mains :=
      { enable := false, mode := 0, cycles := 0, frac := 0, lastZc := none, period := 0, since := 0, range := false,
        lost := false, stepped := false },
    axisSet := [],
    heldLow := [], latches := [] }

def Slot64.reset : Slot64 :=
  { cfg := 0, target := 0, period := 0, armReq := false, armed := false, due := none, queued := false, late := false, missed := false,
    outcome := 3, missedCnt := 0, doneCnt := 0 }

def Sch.reset : Sch :=
  { slots := Vector.replicate 64 Slot64.reset, sf := 0, sfHist := Vector.replicate 8 [], queue := [], overflow := 0 }

/-- A Ridgeline port after PERST# (R436, R438). -/
def Port.reset : Port :=
  { state := .training, enable := true, rfireAccept := true, classMask := 0xF, fwdTx := false, fwdRx := false, asymPs := 0,
    peerAddr := 0, peer := none, lost := 0, crcErr := 0, samples := [], delay := 0, offset := 0, good := false,
    goodSince := 0, txCnt := 0, rxCnt := 0, missed := 0, launch := [], lseqTx := 0, txq := [], txCur := [], txBusy := 0, recFree := 0, lseqRx := none, lastTime := none,
    trainFrom := 0, faulted := false, downAt := none, upAt := (0, 0), restarted := false, fwdBuf := [], fwdSent := 0,
    rseqTx := 0, credit := 0, grant := 0, fwdDrop := none, reasm := [], rseqRx := 0 }

def Rl.reset : Rl :=
  { ports := Vector.replicate 3 Port.reset, addr := 0, root := 0, session := 0, origins := [], seen := [], oseq := 0,
    run := none, older := [], track := (0xFFFF, 0xFFFF), tracked := false, timed := [], tunnels := [], ttag := 0, inTunnel := [], restarts := 0 }

/-- The clock synthesis after PERST# (R457). -/
def Pll.reset : Pll :=
  { s := { state := .freeRun, pbo := 0 }, l := { state := .freeRun, pbo := 0 }, ref := 0, altInUse := false, prepath := 0,
    dcoRange := false, suspect := false, realigning := false, phErr := 0, good := 0, missing := 0, offRange := 0,
    sFreq := 0, holdWord := 0, lastStep := 0, dcoFails := 0, refLosses := 0, lUnlocks := 0, sUnlocks := 0, stepCnt := 0,
    refSel := 0, refAlt := 0xFF, refInFreq := 0, prepathCfg := 0, bwS := 1, bwL := 1, refoutDiv := 0, refoutDelay := 0,
    realign := false, qualMs := 1000, qualifying := none, switching := false, readings := [], lockedTo := 0,
    realignDue := false }

/-- The AER registers after PERST#: severities and masks have the defaults of the PCI Express specification (R477; PRESUMED,
log 78). -/
def Aer.reset : Aer :=
  { uncStat := 0, uncMask := 0x00400000, uncSev := 0x00462030, corStat := 0, corMask := 0x0000E000, ecrcGen := false,
    ecrcChk := false }

/-- The endpoint after PERST# (R490-R493); every MSI-X vector is masked (log 14). -/
def Pcie.reset : Pcie :=
  { dlUp := false, gen := 0, width := 0, bme := false, msixEn := false, funcMask := false, d3hot := false, ltrEn := false,
    aspmEn := false, inL1 := false, tag10 := false, ctoValue := 0, mps := 0, bars := Vector.replicate 3 0, aer := Aer.reset,
    maxSnoop := 0, maxNoSnoop := 0, ltrSent := 0,
    ltrAny := false, ltrCapped := false, ltrBase := none, ltrCnt := 0, cplToCnt := 0, lateCplCnt := 0, badCplCnt := 0,
    inbDrop := 0, inbUr := 0, poison := 0, corr := 0, linkDown := 0, tags := [], quarantine := [], nextTag := 0,
    hostRid := 0, pwCfg := Vector.replicate 8 0, pwMap := Vector.replicate 8 0, pwCfgAct := Vector.replicate 8 0,
    pwMapAct := Vector.replicate 8 0, pwCommits := [], pwRefused := false,
    msixTable := Vector.ofFn fun i : Fin 256 => if i.val % 4 = 3 then 1 else 0, pba := 0, flr := false }

def Mailbox.reset : Mailbox :=
  { cmd := 0, state := .idle, tag := 0, status := 0, keyClass := 0, tunnel := none, detail := 0, time := 0, opcode := 0,
    barrier := false, key := 0, req := [], resp := [], order := 0, rung := 0 }

/-- Circular window `k` after reset (R513). -/
def Window.reset (k : Nat) : Window :=
  { size := if k = 7 then 0 else 4, base := if k = 7 then 0 else 4 + 4 * k, claimed := false, hostProduces := false,
    done := false, mb := 0, opcode := 0, prod := 0, cons := 0, len := 0, since := 0, out := [], inn := [] }

def Slot.reset : Slot :=
  { state := 3, fail := 0, version := 0, rollback := 0, bodyLen := 0, issuer := [], digest := [], gone := false }

def Summit.reset : Summit :=
  { state := .boot, restarts := 0, lastCause := false, heartbeat := 0, lastKick := 0, protoMb := 0, protoCw := 0, recent := [],
    nextOrder := 0, slots := Vector.replicate 2 Slot.reset, floor := 0, verified := false,
    fwDigest := [], scratchpad := [] }

/-- The event registers after reset: Gg.b maps to vector 4g + b / 8 (R560, R562). -/
def Events.reset : Events :=
  { raw := Vector.replicate 16 0, enable := Vector.replicate 16 0,
    vector := Vector.ofFn fun i : Fin 512 => BitVec.ofNat 6 (4 * (i.val / 32) + i.val % 32 / 8), log := [], next := 0 }

/-- FLT_SEV1 and FLT_SEV2 by variant (R590). -/
def sev1Reset : Variant → Word
  | .b9128 => 0x5005F555
  | _ => 0x5545F555

def sev2Reset : Variant → Word
  | .n9256 => 0x1164
  | .b9128 => 0x1124
  | _ => 0x1165

/-- The severities after reset (R590). -/
def sevReset (v : Variant) : Tab 4 Word := #v[0x15655D57, sev1Reset v, sev2Reset v, 0]

def Flt.reset (v : Variant) : Flt :=
  { on := false, status := 0, live := 0, latched := Vector.replicate 64 .record, sev := sevReset v, faultnSev := 3,
    extEn := true, hist := [], overflow := false, dropCnt := 0, latchCnt := 0, safeCnt := 0, sramCe := 0, sramUe := 0,
    cause := 0, contained := [], faultN := false, faultInLow := false }

/-- PASS_S of memory `m` after reset (R586). -/
def passReset (m : Nat) : Nat := if m = 0 then 60 else if m = 10 then 86400 else 10

/-- The scrub settings after a reset at a tick, with which every pass begins afresh (R586). -/
def MemInt.resetAt (now : Nat) : MemInt :=
  { corrupt := [], tests := [], march := none, failed := [],
    scrub := Vector.ofFn fun i : Fin 11 =>
      { enable := true, passS := passReset i.val, passes := 0, lastMs := 0, run := some (now, passReset i.val), late := false },
    ceLimit := 100, ceCount := 0, ceFrom := now, ceSignalled := false }

/-- The scrub settings after PERST# (R586). -/
def MemInt.reset : MemInt := MemInt.resetAt 0

def Snap.reset : Snap :=
  { page := [], seq := 0, valid := false, busy := false, overrun := false, timeBValid := false, edge := none, taking := [],
    takingB := false }

/-- The state of a variant after reset. -/
def State.resetOf (v : Variant) : State :=
  { dev := Dev.reset v, cfg := Cfg.reset v.ports, inputs := Vector.ofFn fun i : Fin 272 => Input.reset i.val,
    grpMask := Vector.replicate 72 0, bcastAgree := 0, pods := Vector.replicate 16 Pod.reset, podc := Podc.reset v.ports,
    fab := Fab.reset, seqs := Vector.replicate 4 Seq.reset,
    trigout := Vector.replicate 4 { requests := [], contained := false, contended := none }, ring := Ring.reset,
    ret := Ret.reset, cmp := Cmp.reset, eq := Eq.reset, tal := Talus.reset, sealer := Sealer.reset, tm := Tm.reset,
    sch := Sch.reset, rl := Rl.reset, pll := Pll.reset, pcie := Pcie.reset, mb := Vector.replicate 8 Mailbox.reset,
    cw := Vector.ofFn fun i : Fin 8 => Window.reset i.val, summit := Summit.reset, evt := Events.reset,
    flt := Flt.reset v, mem := MemInt.reset, snap := Snap.reset, freeCtr := 0, out := [], pending := [] }

/-- The machine right after reset: an RNK-9256-X (log 1) whose PERST# has just been released. -/
def State.reset : State := State.resetOf .x9256

end Sys2Proof.Machine
end

