-- ==== Sys2Proof/Machine/Digest.lean ====
section
/-! DEFINITION. The two digests the device computes: CRC-32C (R547) and SHAKE256 (FIPS 202, log 10). -/

namespace Sys2Proof.Machine

/-- One bit of the reflected Castagnoli division (R547). -/
def crcBit (c : Nat) : Nat := if c % 2 = 1 then (c / 2) ^^^ 0x82F63B78 else c / 2

/-- One byte of the CRC register. -/
def crcByte (c : Nat) (b : Byte) : Nat :=
  crcBit (crcBit (crcBit (crcBit (crcBit (crcBit (crcBit (crcBit (c ^^^ b.toNat))))))))

/-- CRC-32C (R547): polynomial 0x1EDC_6F41, reflected, initial value and final XOR all ones. -/
def crc32c (bs : List Byte) : Nat := (bs.foldl crcByte 0xFFFFFFFF) ^^^ 0xFFFFFFFF

/-- Rotation of a 64-bit lane to the left. -/
def rotl64 (v n : Nat) : Nat := ((v <<< n) ||| (v >>> (64 - n))) % 2 ^ 64

/-- Lane (x, y) of a Keccak state held as 25 lanes. -/
def kLane (a : List Nat) (x y : Nat) : Nat := a.getD (x % 5 + 5 * (y % 5)) 0

/-- The column parity of theta. -/
def kParity (a : List Nat) (x : Nat) : Nat :=
  kLane a x 0 ^^^ kLane a x 1 ^^^ kLane a x 2 ^^^ kLane a x 3 ^^^ kLane a x 4

/-- The rotation offsets of rho, by lane x + 5y. -/
def kOffsets : List Nat :=
  [0, 1, 62, 28, 27, 36, 44, 6, 55, 20, 3, 10, 43, 25, 39, 41, 45, 15, 21, 8, 18, 2, 61, 56, 14]

/-- The round constants of iota. -/
def kRounds : List Nat :=
  [0x1, 0x8082, 0x800000000000808A, 0x8000000080008000, 0x808B, 0x80000001, 0x8000000080008081, 0x8000000000008009,
   0x8A, 0x88, 0x80008009, 0x8000000A] ++
  [0x8000808B, 0x800000000000008B, 0x8000000000008089, 0x8000000000008003, 0x8000000000008002, 0x8000000000000080,
   0x800A, 0x800000008000000A, 0x8000000080008081, 0x8000000000008080, 0x80000001, 0x8000000080008008]

/-- Theta: every lane takes the parity of two columns. -/
def kTheta (a : List Nat) : List Nat :=
  (List.range 25).map fun i =>
    a.getD i 0 ^^^ kParity a (i + 4) ^^^ rotl64 (kParity a (i + 1)) 1

/-- Rho and pi: lane (x, y) of the result is the rotated lane (x + 3y, x). -/
def kRhoPi (a : List Nat) : List Nat :=
  (List.range 25).map fun i =>
    let x := i % 5
    let y := i / 5
    let j := (x + 3 * y) % 5 + 5 * x
    rotl64 (a.getD j 0) (kOffsets.getD j 0)

/-- Chi and iota. -/
def kChiIota (rc : Nat) (a : List Nat) : List Nat :=
  (List.range 25).map fun i =>
    let x := i % 5
    let y := i / 5
    let v := kLane a x y ^^^ ((2 ^ 64 - 1 - kLane a (x + 1) y) &&& kLane a (x + 2) y)
    if i = 0 then v ^^^ rc else v

/-- The permutation Keccak-f[1600]. -/
def keccakF (a : List Nat) : List Nat := kRounds.foldl (fun a rc => kChiIota rc (kRhoPi (kTheta a))) a

/-- The eight-byte lanes of a byte string. -/
def kLanes : Nat → List Byte → List Nat
  | 0, _ => []
  | n + 1, bs => leNat (bs.take 8) :: kLanes n (bs.drop 8)

/-- Absorb `n` blocks of 136 bytes. -/
def kAbsorb : Nat → List Byte → List Nat → List Nat
  | 0, _, a => a
  | n + 1, bs, a => kAbsorb n (bs.drop 136) (keccakF (List.zipWith (· ^^^ ·) a (kLanes 17 bs ++ List.replicate 8 0)))

/-- A message of SHAKE256 with its padding, a multiple of 136 bytes long. -/
def shakePad (bs : List Byte) : List Byte :=
  let k := 136 - bs.length % 136
  if k = 1 then bs ++ [0x9F] else bs ++ [0x1F] ++ zeros (k - 2) ++ [0x80]

/-- SHAKE256 with 32 bytes of output (R312, R344, R352; log 10). -/
def shake256 (bs : List Byte) : List Byte :=
  let p := shakePad bs
  ((kAbsorb (p.length / 136) p (List.replicate 25 0)).take 4).flatMap (leBytes 8)

end Sys2Proof.Machine
end

