-- ==== Sys2Proof/Machine/Inflate.lean ====
section
/-! DEFINITION. Inflation of a lane's output as the verify lane does it: raw DEFLATE of RFC 1951, without wrapper and without
preset dictionary, in fixed- and dynamic-Huffman blocks, the only ones the device writes (R273, R276; log 11). -/

namespace Sys2Proof.Machine

/-- The bits of a stream, the least significant bit of each byte first. -/
def streamBits (bs : List Byte) : List Bool := bs.flatMap fun b => (List.range 8).map b.getLsbD

/-- The next `n` bits as a number, the first bit the least significant, and the bits after them. -/
def takeBits : Nat → List Bool → Option (Nat × List Bool)
  | 0, bs => some (0, bs)
  | _ + 1, [] => none
  | n + 1, b :: bs => (takeBits n bs).map fun r => (b2n b + 2 * r.1, r.2)

/-- The symbols whose codes have `n` bits, in ascending order. -/
def symsOfLen (lens : List Nat) (n : Nat) : List Nat := (List.range lens.length).filter fun i => lens.getD i 0 == n

/-- One symbol of the canonical Huffman code with these code lengths: `n` is the length tried next, `code` the bits read so far
and `first` the first code of the length before, `n` bits at most 15. -/
def huffRead (lens : List Nat) : Nat → Nat → Nat → Nat → List Bool → Option (Nat × List Bool)
  | 0, _, _, _, _ => none
  | _ + 1, _, _, _, [] => none
  | fuel + 1, n, code, first, b :: bs =>
    let code := 2 * code + b2n b
    let first := 2 * first
    let ss := symsOfLen lens n
    if first ≤ code ∧ code < first + ss.length then some (ss.getD (code - first) 0, bs)
    else huffRead lens fuel (n + 1) code (first + ss.length) bs

/-- The next symbol of a code. -/
def huffSym (lens : List Nat) (bs : List Bool) : Option (Nat × List Bool) := huffRead lens 15 1 0 0 bs

/-- Is a set of code lengths a code: complete, or a single code of one bit? -/
def codeOk (single : Bool) (lens : List Nat) : Bool :=
  let used := lens.filter (· ≠ 0)
  (used.map fun n => 2 ^ (15 - n)).sum == 2 ^ 15 || (single && (used == [1] || used == []))

/-- A length of a match: base and extra bits of length symbols 257 to 285. -/
def lengthCode (i : Nat) : Nat × Nat :=
  if i < 8 then (3 + i, 0) else if i = 28 then (258, 0)
  else (3 + (4 + i % 4) * 2 ^ ((i - 4) / 4), (i - 4) / 4)

/-- A distance of a match: base and extra bits of distance symbols 0 to 29. -/
def distCode (i : Nat) : Nat × Nat :=
  if i < 4 then (1 + i, 0) else (1 + (2 + i % 2) * 2 ^ ((i - 2) / 2), (i - 2) / 2)

/-- Copy `n` bytes from `d` bytes back; the output is held newest byte first. -/
def copyBack (d : Nat) : Nat → List Byte → List Byte
  | 0, out => out
  | n + 1, out => copyBack d n (out.getD (d - 1) 0 :: out)

/-- The match that length symbol `sym` begins, copied onto the output. -/
def readMatch (dist : List Nat) (sym : Nat) (out : List Byte) (bs : List Bool) : Option (List Byte × List Bool) := do
  if 285 < sym then none
  else
    let l := lengthCode (sym - 257)
    let (e, bs) ← takeBits l.2 bs
    let (ds, bs) ← huffSym dist bs
    if 29 < ds then none
    else
      let d := distCode ds
      let (f, bs) ← takeBits d.2 bs
      if out.length < d.1 + f then none else some (copyBack (d.1 + f) (l.1 + e) out, bs)

/-- The symbols of one block up to its end. -/
def inflateCodes (lit dist : List Nat) : Nat → List Byte → List Bool → Option (List Byte × List Bool)
  | 0, _, _ => none
  | fuel + 1, out, bs =>
    match huffSym lit bs with
    | none => none
    | some (sym, bs) =>
      if sym < 256 then inflateCodes lit dist fuel (BitVec.ofNat 8 sym :: out) bs
      else if sym = 256 then some (out, bs)
      else match readMatch dist sym out bs with
        | none => none
        | some r => inflateCodes lit dist fuel r.1 r.2

/-- The literal and length code, and the distance code, of fixed-Huffman blocks. -/
def fixedLit : List Nat := List.replicate 144 8 ++ List.replicate 112 9 ++ List.replicate 24 7 ++ List.replicate 8 8
def fixedDist : List Nat := List.replicate 30 5

/-- The order in which a dynamic block lists the lengths of its code length code. -/
def clenOrder : List Nat := [16, 17, 18, 0, 8, 7, 9, 6, 10, 5, 11, 4, 12, 3, 13, 2, 14, 1, 15]

/-- `n` numbers of three bits. -/
def threeBits : Nat → List Bool → Option (List Nat × List Bool)
  | 0, bs => some ([], bs)
  | n + 1, bs => do
    let (v, bs) ← takeBits 3 bs
    let (vs, bs) ← threeBits n bs
    some (v :: vs, bs)

/-- `n` code lengths, run-length coded. -/
def readLens (clen : List Nat) (n : Nat) : Nat → List Nat → List Bool → Option (List Nat × List Bool)
  | 0, _, _ => none
  | fuel + 1, ls, bs =>
    if n ≤ ls.length then if ls.length = n then some (ls, bs) else none
    else match huffSym clen bs with
      | none => none
      | some (sym, bs) =>
        if sym < 16 then readLens clen n fuel (ls ++ [sym]) bs
        else
          let rep := if sym = 16 then (2, 3) else if sym = 17 then (3, 3) else (7, 11)
          match takeBits rep.1 bs with
          | none => none
          | some (k, bs) =>
            if sym = 16 ∧ ls = [] then none
            else readLens clen n fuel (ls ++ List.replicate (rep.2 + k) (if sym = 16 then ls.getLastD 0 else 0)) bs

/-- The codes of a dynamic-Huffman block. -/
def dynamicCodes (bs : List Bool) : Option (List Nat × List Nat × List Bool) := do
  let (hlit, bs) ← takeBits 5 bs
  let (hdist, bs) ← takeBits 5 bs
  let (hclen, bs) ← takeBits 4 bs
  let (cl, bs) ← threeBits (hclen + 4) bs
  let clen := (List.range 19).map fun s => ((clenOrder.zip cl).find? fun x => x.1 == s).elim 0 (·.2)
  let n := hlit + hdist + 258
  let (ls, bs) ← if codeOk false clen then readLens clen n (n + 1) [] bs else none
  let lit := ls.take (hlit + 257)
  let dist := ls.drop (hlit + 257)
  if 29 < hlit ∨ 29 < hdist ∨ !codeOk true lit ∨ !codeOk true dist then none else some (lit, dist, bs)

/-- The blocks of a stream up to its final one. -/
def inflateBlocks : Nat → List Byte → List Bool → Option (List Byte × List Bool)
  | 0, _, _ => none
  | fuel + 1, out, bs => do
    let (final, bs) ← takeBits 1 bs
    let (type, bs) ← takeBits 2 bs
    let (lit, dist, bs) ← if type = 1 then some (fixedLit, fixedDist, bs) else if type = 2 then dynamicCodes bs else none
    let (out, bs) ← inflateCodes lit dist (bs.length + 1) out bs
    if final = 1 then some (out, bs) else inflateBlocks fuel out bs

/-- What a lane's output inflates to; none where it is no complete stream, or does not end with the output's last byte. -/
def inflate (packed : List Byte) : Option (List Byte) :=
  match inflateBlocks (8 * packed.length + 1) [] (streamBits packed) with
  | some (out, rest) => if rest.length < 8 then some out.reverse else none
  | none => none

end Sys2Proof.Machine
end

