-- ==== Sys2Proof/Machine/Slh.lean ====
section
/-! DEFINITION. The signatures of the device, in the pure form of FIPS 205 over SHAKE256 (R353, R358, R360-R362; log 73):
WOTS+, Merkle trees, the hypertree and FORS. -/

namespace Sys2Proof.Machine

/-- A parameter set: layers, height of one layer's tree, height and number of the FORS trees. A node has 32 bytes, a WOTS+ digit 4
bits, and a WOTS+ value 67 chains. -/
structure SlhSet where
  d : Nat
  h : Nat
  a : Nat
  k : Nat
  deriving DecidableEq, Repr

/-- SLH-DSA-SHAKE-256f (R353, R358, R362) and SLH-DSA-SHAKE-256s (R358, R360). -/
def slhFast : SlhSet := { d := 17, h := 4, a := 9, k := 35 }
def slhSmall : SlhSet := { d := 8, h := 8, a := 14, k := 22 }

/-! ## Bytes -/

/-- `v` as `n` bytes, the most significant first. -/
def beBytes (n v : Nat) : List Byte := (leBytes n v).reverse

/-- The big-endian number of a byte list. -/
def beNat (bs : List Byte) : Nat := leNat bs.reverse

/-- SHAKE256 with up to 136 bytes of output. -/
def shakeOut (n : Nat) (bs : List Byte) : List Byte :=
  let p := shakePad bs
  (((kAbsorb (p.length / 136) p (List.replicate 25 0)).take 17).flatMap (leBytes 8)).take n

/-- The first `n` digits of `b` bits of a byte list. -/
def slhDigits (b n : Nat) (bs : List Byte) : List Nat :=
  (List.range n).map fun i => beNat bs >>> (8 * bs.length - b * (i + 1)) % 2 ^ b

/-- The address of a hash: layer, tree, type and the three words that the type gives a meaning. -/
def slhAddr (layer tree type x y z : Nat) : List Byte :=
  beBytes 4 layer ++ beBytes 12 tree ++ beBytes 4 type ++ beBytes 4 x ++ beBytes 4 y ++ beBytes 4 z

/-- Cut a byte list into `n` strings of 32 bytes. -/
def slhParts : Nat → List Byte → List (List Byte)
  | 0, _ => []
  | n + 1, bs => bs.take 32 :: slhParts n (bs.drop 32)

/-- The public seed of a key, in the form in which the public key holds it. -/
def pubSeed (key : SlhKey) : List Byte := padTo 32 key.pubSeed

/-- The identifier of a public key (R352, R358, R360): bytes 0 to 7 of its SHAKE256. -/
def keyIdOf (pk : List Byte) : List Byte := (shake256 pk).take 8

/-! ## Merkle trees -/

/-- The node of height `z` and index `i` over leaves. -/
def treeNode (leaf : Nat → List Byte) (join : Nat → Nat → List Byte → List Byte → List Byte) : Nat → Nat → List Byte
  | 0, i => leaf i
  | z + 1, i => join (z + 1) i (treeNode leaf join z (2 * i)) (treeNode leaf join z (2 * i + 1))

/-- The index of a node's sibling. -/
def sibling (i : Nat) : Nat := if i % 2 = 0 then i + 1 else i - 1

/-- The authentication path of leaf `i` over `h` heights. -/
def authPath (leaf : Nat → List Byte) (join : Nat → Nat → List Byte → List Byte → List Byte) (h i : Nat) : List (List Byte) :=
  (List.range h).map fun j => treeNode leaf join j (sibling (i / 2 ^ j))

/-- The root that a node of height `z` and index `i` leads to along a path. -/
def climb (join : Nat → Nat → List Byte → List Byte → List Byte) : Nat → Nat → List Byte → List (List Byte) → List Byte
  | _, _, x, [] => x
  | z, i, x, y :: ys =>
    climb join (z + 1) (i / 2) (if i % 2 = 0 then join (z + 1) (i / 2) x y else join (z + 1) (i / 2) y x) ys

/-! ## WOTS+ -/

/-- `n` steps of a hash chain from step `i` on. -/
def wotsChain (step : Nat → List Byte → List Byte) : Nat → Nat → List Byte → List Byte
  | _, 0, x => x
  | i, n + 1, x => wotsChain step (i + 1) n (step i x)

/-- The step of chain `c` of key pair `kp` of a tree. -/
def wotsStep (pk : List Byte) (layer tree kp c i : Nat) (x : List Byte) : List Byte :=
  shake256 (pk ++ slhAddr layer tree 0 kp c i ++ x)

/-- The start of a chain. -/
def wotsSecret (key : SlhKey) (layer tree kp c : Nat) : List Byte :=
  shake256 (pubSeed key ++ slhAddr layer tree 5 kp c 0 ++ key.seed)

/-- The 67 digits of a message of 32 bytes: 64 of its own and 3 of its checksum. -/
def wotsDigits (m : List Byte) : List Nat :=
  let ds := slhDigits 4 64 m
  ds ++ slhDigits 4 3 (beBytes 2 ((ds.map fun x => 15 - x).sum * 16))

/-- The digit of chain `c`. -/
def wotsDigit (m : List Byte) (c : Nat) : Nat := (wotsDigits m).getD c 0

/-- The public key that the ends of the chains make. -/
def wotsKey (pk : List Byte) (layer tree kp : Nat) (ends : List (List Byte)) : List Byte :=
  shake256 (pk ++ slhAddr layer tree 1 kp 0 0 ++ ends.flatten)

/-- The public key of key pair `kp`, the leaf of its tree. -/
def wotsLeaf (key : SlhKey) (layer tree kp : Nat) : List Byte :=
  wotsKey (pubSeed key) layer tree kp ((List.range 67).map fun c =>
    wotsChain (wotsStep (pubSeed key) layer tree kp c) 0 15 (wotsSecret key layer tree kp c))

/-- Sign 32 bytes. -/
def wotsSign (key : SlhKey) (layer tree kp : Nat) (m : List Byte) : List (List Byte) :=
  (List.range 67).map fun c =>
    wotsChain (wotsStep (pubSeed key) layer tree kp c) 0 (wotsDigit m c) (wotsSecret key layer tree kp c)

/-- The public key that a signature leads to. -/
def wotsFrom (pk : List Byte) (layer tree kp : Nat) (m : List Byte) (sig : List (List Byte)) : List Byte :=
  wotsKey pk layer tree kp ((List.range 67).map fun c =>
    wotsChain (wotsStep pk layer tree kp c) (wotsDigit m c) (15 - wotsDigit m c) (sig.getD c []))

/-! ## The hypertree -/

/-- Two nodes of a layer's tree joined. -/
def layerJoin (pk : List Byte) (layer tree z i : Nat) (x y : List Byte) : List Byte :=
  shake256 (pk ++ slhAddr layer tree 2 0 z i ++ x ++ y)

/-- The root of a layer's tree. -/
def layerRoot (p : SlhSet) (key : SlhKey) (layer tree : Nat) : List Byte :=
  treeNode (wotsLeaf key layer tree) (layerJoin (pubSeed key) layer tree) p.h 0

/-- Sign 32 bytes with `n` layers from `layer` on, by leaf `i` of tree `t` of the first. -/
def hyperSign (p : SlhSet) (key : SlhKey) : Nat → Nat → Nat → Nat → List Byte → List (List Byte)
  | 0, _, _, _, _ => []
  | n + 1, layer, t, i, m =>
    wotsSign key layer t i m ++ authPath (wotsLeaf key layer t) (layerJoin (pubSeed key) layer t) p.h i ++
      hyperSign p key n (layer + 1) (t / 2 ^ p.h) (t % 2 ^ p.h) (layerRoot p key layer t)

/-- The root that the signature of a layer leads to. -/
def layerFrom (pk : List Byte) (layer t i : Nat) (m : List Byte) (sig : List (List Byte)) : List Byte :=
  climb (layerJoin pk layer t) 0 i (wotsFrom pk layer t i m (sig.take 67)) (sig.drop 67)

/-- The root that a signature of `n` layers leads to. -/
def hyperFrom (p : SlhSet) (pk : List Byte) : Nat → Nat → Nat → Nat → List Byte → List (List Byte) → List Byte
  | 0, _, _, _, m, _ => m
  | n + 1, layer, t, i, m, sig =>
    hyperFrom p pk n (layer + 1) (t / 2 ^ p.h) (t % 2 ^ p.h) (layerFrom pk layer t i m (sig.take (67 + p.h)))
      (sig.drop (67 + p.h))

/-! ## FORS -/

/-- The secret of FORS leaf `i` of key pair `kp`. -/
def forsSecret (key : SlhKey) (tree kp i : Nat) : List Byte :=
  shake256 (pubSeed key ++ slhAddr 0 tree 6 kp 0 i ++ key.seed)

/-- The leaf that a secret makes. -/
def forsLeaf (pk : List Byte) (tree kp i : Nat) (x : List Byte) : List Byte :=
  shake256 (pk ++ slhAddr 0 tree 3 kp 0 i ++ x)

def forsJoin (pk : List Byte) (tree kp z i : Nat) (x y : List Byte) : List Byte :=
  shake256 (pk ++ slhAddr 0 tree 3 kp z i ++ x ++ y)

/-- FORS leaf `i` of a key. -/
def forsOwn (key : SlhKey) (tree kp i : Nat) : List Byte := forsLeaf (pubSeed key) tree kp i (forsSecret key tree kp i)

/-- The leaves that a digest names, one of each tree. -/
def forsPicks (p : SlhSet) (md : List Byte) : List Nat :=
  (List.range p.k).map fun i => i * 2 ^ p.a + (slhDigits p.a p.k md).getD i 0

/-- The FORS public key that the roots make. -/
def forsKey (pk : List Byte) (tree kp : Nat) (roots : List (List Byte)) : List Byte :=
  shake256 (pk ++ slhAddr 0 tree 4 kp 0 0 ++ roots.flatten)

/-- Sign a digest: for each tree the secret and its authentication path. -/
def forsSign (p : SlhSet) (key : SlhKey) (tree kp : Nat) (md : List Byte) : List (List Byte) :=
  (forsPicks p md).flatMap fun g =>
    forsSecret key tree kp g :: authPath (forsOwn key tree kp) (forsJoin (pubSeed key) tree kp) p.a g

/-- The FORS public key of a key. -/
def forsRoot (p : SlhSet) (key : SlhKey) (tree kp : Nat) : List Byte :=
  forsKey (pubSeed key) tree kp ((List.range p.k).map fun i =>
    treeNode (forsOwn key tree kp) (forsJoin (pubSeed key) tree kp) p.a i)

/-- The roots that the parts of a signature lead to. -/
def forsRoots (p : SlhSet) (pk : List Byte) (tree kp : Nat) : List Nat → List (List Byte) → List (List Byte)
  | [], _ => []
  | g :: gs, sig =>
    climb (forsJoin pk tree kp) 0 g (forsLeaf pk tree kp g (sig.headD [])) ((sig.drop 1).take p.a) ::
      forsRoots p pk tree kp gs (sig.drop (p.a + 1))

/-- The FORS public key that a signature leads to. -/
def forsFrom (p : SlhSet) (pk : List Byte) (tree kp : Nat) (md : List Byte) (sig : List (List Byte)) : List Byte :=
  forsKey pk tree kp (forsRoots p pk tree kp (forsPicks p md) sig)

/-! ## Keys, signatures, verification -/

/-- The public key of a key pair: public seed, then the root of the top tree. -/
def slhPublic (p : SlhSet) (key : SlhKey) : List Byte := pubSeed key ++ layerRoot p key (p.d - 1) 0

/-- What is signed of a message with a context string in the pure form. -/
def slhMessage (context m : List Byte) : List Byte := [0, BitVec.ofNat 8 context.length] ++ context ++ m

/-- What the digest of a message picks: the FORS digest, the tree and the leaf of the bottom layer. -/
def slhPick (p : SlhSet) (pk r m : List Byte) : List Byte × Nat × Nat :=
  let n := (p.k * p.a + 7) / 8
  let nt := (p.h * (p.d - 1) + 7) / 8
  let nl := (p.h + 7) / 8
  let g := shakeOut (n + nt + nl) (r ++ pk ++ m)
  (g.take n, beNat ((g.drop n).take nt) % 2 ^ (p.h * (p.d - 1)), beNat ((g.drop (n + nt)).take nl) % 2 ^ p.h)

/-- The signature of a message by its randomizer. -/
def slhWith (p : SlhSet) (key : SlhKey) (msg r : List Byte) : List Byte :=
  let x := slhPick p (slhPublic p key) r msg
  r ++ (forsSign p key x.2.1 x.2.2 x.1 ++ hyperSign p key p.d 0 x.2.1 x.2.2 (forsRoot p key x.2.1 x.2.2)).flatten

/-- Sign a message with a context string; `entropy` hedges the signature. -/
def slhSign (p : SlhSet) (key : SlhKey) (context m entropy : List Byte) : List Byte :=
  slhWith p key (slhMessage context m) (shake256 (key.prf ++ entropy ++ slhMessage context m))

/-- The number of 32-byte strings in a signature behind its first. -/
def slhLen (p : SlhSet) : Nat := p.k * (p.a + 1) + p.d * (67 + p.h)

/-- Does a signature of a message with a context string verify under a public key? -/
def slhVerify (p : SlhSet) (pk context m sig : List Byte) : Bool :=
  let msg := slhMessage context m
  let x := slhPick p pk (sig.take 32) msg
  let parts := slhParts (slhLen p) (sig.drop 32)
  let seed := pk.take 32
  let fors := forsFrom p seed x.2.1 x.2.2 x.1 (parts.take (p.k * (p.a + 1)))
  sig.length == 32 * (slhLen p + 1) && pk.length == 64 &&
    hyperFrom p seed p.d 0 x.2.1 x.2.2 fors (parts.drop (p.k * (p.a + 1))) == pk.drop 32

end Sys2Proof.Machine
end

