-- ==== Sys2Proof/Machine/Ops.lean ====
section
/-! DEFINITION. The named operations that every family shares: memories, tables, the units of a variant, and the
conversion of an instant to time A and time B. -/

namespace Sys2Proof.Machine

/-- The outcome every meaning answers. -/
abbrev Result := Host.Outcome State Fault Refusal

/-! ## Tables -/

/-- The entry of a table at a number, `d` beyond its end. -/
def tabGet {n : Nat} {α : Type} (t : Tab n α) (i : Nat) (d : α) : α := if h : i < n then t[i] else d

/-- A table with the entry at a number changed by `f`; unchanged beyond its end. -/
def tabMod {n : Nat} {α : Type} (t : Tab n α) (i : Nat) (f : α → α) : Tab n α :=
  if h : i < n then t.set i (f t[i]) else t

/-- A mask with bit `b` cleared. -/
def withoutBit (b m : Nat) : Nat := if m.testBit b then m ^^^ 2 ^ b else m

/-- A mask with the bits of `x` cleared. -/
def withoutMask (x m : Nat) : Nat := m ^^^ (m &&& x)

/-- What tells one seal from every other, a NEW format beginning its numbers anew: SEAL_NO and FORMAT_ID (R307, R355). -/
def sealKey (no fmt : Nat) : Nat := no + 2 ^ 64 * fmt
def SealEntry.key (e : SealEntry) : Nat := sealKey e.no e.fmt

/-! ## Supply banks (R594, R601) -/

/-- The supplies that power the device's signals. -/
inductive Bank where
  | vio (b : Fin 4) | vstby | podVaux
  deriving DecidableEq, Repr

/-- The device's board signals, but for the pod inputs, PCIe and Ridgeline. -/
inductive Signal where
  | trigin (x : Fin 4) | trigout (x : Fin 4) | ppsIn | ppsOut | enc (e : Fin 2) (pin : Fin 3) | mainsZc | ind (i : Fin 16)
  | faultN | faultInN | flash | jtag | key (k : Fin 8) | podPres (p : Fin 16) | podScl (p : Fin 16) | podSda (p : Fin 16)
  deriving DecidableEq, Repr

/-- The bank that a signal belongs to (R601). -/
def bankOf : Signal → Bank
  | .trigin _ | .trigout _ => .vio 0
  | .ppsIn | .ppsOut | .enc _ _ | .mainsZc => .vio 1
  | .ind _ => .vio 2
  | .faultN | .faultInN | .flash | .jtag => .vio 3
  | .key _ | .podPres _ => .vstby
  | .podScl _ | .podSda _ => .podVaux

/-- Is a signal's bank powered? An unpowered VIO bank's inputs read inactive and its outputs are high-Z (R594). -/
def bankOn (g : Signal) (s : State) : Bool :=
  match bankOf g with
  | .vio b => !s.dev.vioOff.testBit b.val
  | .vstby | .podVaux => true

/-! ## Memories -/

/-- The byte a memory holds at an address; an unlisted address reads 0 (log 6). -/
def memByte (m : List Host.Cell) (a : Nat) : Byte :=
  match m.find? (fun c => c.1 == a) with
  | some c => c.2
  | none => 0

/-- `n` bytes of a memory from an address. -/
def memRead (m : List Host.Cell) (a n : Nat) : List Byte := (List.range n).map fun i => memByte m (a + i)

/-- The cells of bytes placed at an address: zero bytes are not listed. -/
def cellsOf : Nat → List Byte → List Host.Cell
  | _, [] => []
  | a, b :: bs => if b = 0 then cellsOf (a + 1) bs else (a, b) :: cellsOf (a + 1) bs

/-- A memory with bytes written from an address on. -/
def memWrite (m : List Host.Cell) (a : Nat) (bs : List Byte) : List Host.Cell :=
  m.filter (fun c => decide (c.1 < a)) ++ cellsOf a bs ++ m.filter (fun c => decide (a + bs.length ≤ c.1))

/-- A memory with the enabled bytes of a write stored from an address on. -/
def memWriteEn : List Host.Cell → Nat → List (Option Byte) → List Host.Cell
  | m, _, [] => m
  | m, a, none :: bs => memWriteEn m (a + 1) bs
  | m, a, some b :: bs => memWriteEn (memWrite m a [b]) (a + 1) bs

/-- The canonical form of a memory: addresses strictly rising, no zero byte listed. -/
def Memory.wf (m : List Host.Cell) : Bool :=
  decide (m.Pairwise fun c d => c.1 < d.1) && m.all fun c => c.2 != 0

/-- Bytes written into a memory of `cap` bytes at a position taken modulo `cap` (R29). -/
def memWriteMod (cap : Nat) (m : List Host.Cell) (p : Nat) (bs : List Byte) : List Host.Cell :=
  let o := p % cap
  let m1 := memWrite m o (bs.take (cap - o))
  if bs.length ≤ cap - o then m1 else memWrite m1 0 (bs.drop (cap - o))

/-- Bytes read from a memory of `cap` bytes at a position taken modulo `cap`. -/
def memReadMod (cap : Nat) (m : List Host.Cell) (p n : Nat) : List Byte :=
  (List.range n).map fun i => memByte m ((p + i) % cap)

/-! ## The units of a variant (R1, R3, R7, R15) -/

def Variant.code : Variant → Nat
  | .x9256 => 0
  | .n9256 => 1
  | .x9128 => 2
  | .b9128 => 3

/-- Number of pod ports (R1). -/
def Variant.pods : Variant → Nat
  | .x9256 | .n9256 => 16
  | .x9128 | .b9128 => 8

/-- DEV_CAP1.POD_PORT_MASK (R7). -/
def Variant.podMask (v : Variant) : Nat := 2 ^ v.pods - 1

/-- Is port PODp bonded (R15)? -/
def Variant.hasPod (v : Variant) (p : Nat) : Bool := decide (p < v.pods)

/-- Is input `n` present (R14, R15)? -/
def Variant.hasInput (v : Variant) (n : Nat) : Bool :=
  if n < 256 then decide (n < 16 * v.pods) else decide (n < 256 + v.pods)

/-- Number of Traverse sequencers (R1). -/
def Variant.seqs : Variant → Nat
  | .b9128 => 2
  | _ => 4

def Variant.hasSeq (v : Variant) (j : Nat) : Bool := decide (j < v.seqs)

/-- Is there a record sealer (R1)? -/
def Variant.sealer : Variant → Bool
  | .x9256 | .x9128 => true
  | _ => false

/-- Are there Ridgeline ports (R1)? -/
def Variant.ridgeline : Variant → Bool
  | .b9128 => false
  | _ => true

/-- Is there direct-drive storage (R1)? -/
def Variant.drives : Variant → Bool
  | .b9128 => false
  | _ => true

/-- The ring capacity C in bytes (R151). -/
def Variant.ringCap : Variant → Nat
  | .x9256 | .n9256 => 0x1000000000
  | .x9128 | .b9128 => 0x800000000

/-- DEV_ID (R1, R4). -/
def Variant.devId : Variant → Nat
  | .x9256 | .n9256 => 0x92561E5D
  | .x9128 | .b9128 => 0x91281E5D

/-- DEV_CAP0 (R5, R7). -/
def Variant.cap0 : Variant → Nat
  | .x9256 => 0x0F434010
  | .n9256 => 0x0E434010
  | .x9128 => 0x0F432008
  | .b9128 => 0x0C202008

/-- DEV_CAP1 (R6, R7, R9). -/
def Variant.cap1 : Variant → Nat
  | .x9256 | .n9256 => 0x07B0FFFF
  | .x9128 => 0x07B000FF
  | .b9128 => 0x00A800FF

/-- The module serial number (R8). -/
def serial : List Byte := (List.range 16).map Config.serialByte

/-- The input index of input `k` of pod `p` (R22). -/
def inputIndex (p k : Nat) : Nat := if k < 16 then 16 * p + k else 256 + p

/-- The pod of an input index (R22). -/
def podOf (n : Nat) : Nat := if n < 256 then n / 16 else n - 256

/-- The number of an input within its pod, 16 for the pod clock (R22). -/
def inputOf (n : Nat) : Nat := if n < 256 then n % 16 else 16

/-! ## Time (R367, R368) -/

/-- One second in 2^-32 ns. -/
def secFrac : Nat := 1000000000 * 2 ^ 32

/-- A time as one number of 2^-32 ns. -/
def timeFlat (t : Time) : Nat := (t.sec * 1000000000 + t.ns) * 2 ^ 32 + t.frac

/-- The time a number of 2^-32 ns stands for; SEC wraps at 48 bits (R367). -/
def timeOf (v : Nat) : Time :=
  { sec := v / secFrac % 2 ^ 48, ns := v / 2 ^ 32 % 1000000000, frac := v % 2 ^ 32 }

/-- A time moved by a signed number of 2^-32 ns. -/
def timeAdd (t : Time) (d : Int) : Time := timeOf (((timeFlat t : Int) + d) % ((secFrac * 2 ^ 48 : Nat) : Int)).toNat

/-- One tick's increment (R367). -/
def timeTick (t : Time) (incr : Nat) : Time :=
  let f := t.frac + incr % 2 ^ 32
  let ns := t.ns + incr / 2 ^ 32 + f / 2 ^ 32
  if 1000000000 ≤ ns then { sec := (t.sec + 1) % 2 ^ 48, ns := ns - 1000000000, frac := f % 2 ^ 32 }
  else { t with ns := ns, frac := f % 2 ^ 32 }

/-- The time of instant `t` (in 1/256 samples) in the span it falls in, newest span first (R368). -/
def timeIn : List Seg → Nat → Time
  | [], _ => { sec := 0, ns := 0, frac := 0 }
  | g :: gs, t =>
    if g.start ≤ t ∨ gs = [] then
      timeAdd g.time (((t : Int) - (g.start : Int)) * (g.incr : Int) / 2560)
    else timeIn gs t

/-- Time A of an instant (R368). -/
def timeAOf (s : State) (t : Nat) : Time := timeIn s.tm.segA t

/-- Time B of an instant (R368); 0 while time B is invalid (R377). -/
def timeBOf (s : State) (t : Nat) : Time :=
  if s.tm.bValid then timeIn s.tm.segB t else { sec := 0, ns := 0, frac := 0 }

/-- The seconds and nanoseconds of T0 (R246). -/
def t0Of (t : Time) : Nat × Nat := (t.sec % 2 ^ 32, t.ns)

/-- T0 as the eight bytes of a frame or a log entry: seconds, then nanoseconds (R246). -/
def t0Bytes (t : Nat × Nat) : List Byte := leBytes 4 t.1 ++ leBytes 4 t.2

/-- T0 as a 64-bit register shows it: seconds above nanoseconds (R383). -/
def t0Reg (t : Nat × Nat) : Nat := (t.1 % 2 ^ 32) * 2 ^ 32 + t.2

/-- A time in the TIME_A format of EPOCH_OPEN: SEC in 8 bytes, NS, FRAC (R252). -/
def timeBytes (t : Time) : List Byte := leBytes 8 t.sec ++ leBytes 4 t.ns ++ leBytes 4 t.frac

/-- The instant of the sample AX5 stands at (R175). -/
def nowU (s : State) : Nat := 256 * s.tm.ax5

/-- The block boundary at or after AX5, as a row number (R33). -/
def nextRow (s : State) : Nat := (s.tm.ax5 + 255) / 256

/-! ## Records of the model itself -/

/-- Does issuing this use the host link, so that it ends L1 (R480)? -/
def usesLink : Output → Bool
  | .rlFrame _ _ => false
  | .rlCut _ _ => false
  | .rlBlock _ _ => false
  | .readData _ _ _ _ => true
  | .regData _ _ => true
  | .postedWrite _ _ => true
  | .flushRead _ _ => true
  | .msix _ _ _ => true
  | .ltr _ => true
  | .aer _ => true
  | .unsupportedReq _ _ => true
  | .doorbell _ _ => true

/-- Append to what the device issued outward; a request on the host link starts the exit from L1 (R480). -/
def emitOut (o : Output) (s : State) : State :=
  { s with out := s.out ++ [o], pcie := { s.pcie with inL1 := s.pcie.inL1 && !usesLink o } }

/-- A fresh free value of `w` bits (log 7), with the state whose counter has moved on. -/
def freeBits (w : Nat) (s : State) : Nat × State :=
  ((Config.freeValue s.freeCtr).toNat % 2 ^ w, { s with freeCtr := s.freeCtr + 1 })

/-- Are the rails up and PERST# released? What a Function Level Reset leaves alone runs on (R483). -/
def coreUp (s : State) : Bool := s.dev.powered && !s.dev.perst

/-- Timebase ticks in a microsecond: of 4 ns, or of 10 ns on the backup oscillator (R367, R449). -/
def usTicks (s : State) : Nat := if s.dev.backup then 100 else 250

/-- Timebase ticks in a millisecond. -/
def msTicks (s : State) : Nat := 1000 * usTicks s

/-! ## Pods and inputs -/

/-- Change pod `p`. -/
def modPod (p : Nat) (f : Pod → Pod) (s : State) : State := { s with pods := tabMod s.pods p f }

/-- Change input `n`. -/
def modInput (n : Nat) (f : Input → Input) (s : State) : State := { s with inputs := tabMod s.inputs n f }

/-- Change sequencer `j`. -/
def modSeq (j : Nat) (f : Seq → Seq) (s : State) : State := { s with seqs := tabMod s.seqs j f }

/-- Change mailbox `m`. -/
def modMb (m : Nat) (f : Mailbox → Mailbox) (s : State) : State := { s with mb := tabMod s.mb m f }

/-- Change circular window `k`. -/
def modCw (k : Nat) (f : Window → Window) (s : State) : State := { s with cw := tabMod s.cw k f }

/-- Is acquisition RUNNING or DRAINING? -/
def acquiring (s : State) : Bool := s.dev.acq == .running || s.dev.acq == .draining

end Sys2Proof.Machine
end

