-- ==== Sys2Proof/Machine/Flags.lean ====
section
/-! DEFINITION. Events: which exist, what a raise does (RAW bit, event log, LOG frame, MSI-X vector), and the status
words computed from flags. -/

namespace Sys2Proof.Machine

/-- The event bits of group `g` that are not reserved: G0 R531, G1 R592, G2 R403, G5 R93, G6 R137, G8 R174 and R269,
G9 R302, G10 R343, G11 R366, G12 R439, G13 R460, G14 R494, G15 R93 and R592; G3, G4 R397; G7 R234. -/
def eventMask (g : Nat) : Nat :=
  [0x00FFFFFF, 0x7FF, 0xFFFFF, 0xFFFFFFFF, 0xFFFFFFFF, 0x1FF, 0x7F, 0xFFFFFFFF, 0x00FF003F, 0xFF, 0x1FFF, 0x7F,
   0x1FFFF, 0x7FF, 0xFFFF, 0xFFFF].getD g 0

/-- The event bits of group `g` that belong to units the variant lacks (R11, R15, R363). -/
def absentEvents (v : Variant) (g : Nat) : Nat :=
  match v, g with
  | .b9128, 7 => 0xFFFF0000
  | .b9128, 10 => 0x60
  | .b9128, 12 => 0xFFFFFFFF
  | .b9128, 11 => 0x7
  | .n9256, 11 => 0x7
  | _, _ => 0

/-- The event bits of group `g` that exist on the variant. -/
def presentEvents (v : Variant) (g : Nat) : Nat := eventMask g &&& (0xFFFFFFFF ^^^ absentEvents v g)

/-- Does Gg.b exist on the variant? -/
def hasEvent (v : Variant) (g b : Nat) : Bool := decide (g < 16) && (presentEvents v g).testBit b

/-- The 32 bytes of an event-log entry (R576). -/
def logBytes (e : LogEntry) : List Byte :=
  leBytes 4 e.seq.toNat ++ leBytes 1 e.kind ++ leBytes 1 e.eflags ++ leBytes 2 e.code ++ leBytes 4 e.sec ++
    leBytes 4 e.ns ++ padTo 16 e.data

/-- The event log after one more entry, the oldest dropped when it is full (R576). -/
def logPush (e : LogEntry) (l : List LogEntry) : List LogEntry :=
  let l := l ++ [e]
  l.drop (l.length - 4096)

/-- Write an event-log entry at time A (R576); PROD7 counts it, and CONS7 gives way when it would overwrite unread bytes
(R520). -/
def logEntry (kind eflags code : Nat) (data : List Byte) (s : State) : State :=
  let e : LogEntry :=
    { seq := s.evt.next, kind := kind, eflags := eflags, code := code, sec := (t0Of s.tm.a).1, ns := (t0Of s.tm.a).2,
      data := padTo 16 data }
  let s := { s with evt := { s.evt with log := logPush e s.evt.log, next := s.evt.next + 1 } }
  modCw 7 (fun w =>
    { w with prod := w.prod + 32, cons := if 131072 < (w.prod - w.cons).toNat + 32 then w.cons + 32 else w.cons }) s

/-- Is an entry of this KIND and CODE copied into LOG frames (R251, R577)? Only while an epoch is being recorded, from
ACQ_START on (log 15). -/
def logCopied (kind code : Nat) (s : State) : Bool :=
  match s.ret.cur with
  | none => s.dev.acq == .running && s.cfg.active.retain.logMask.testBit (if kind = 1 then 1 else code / 32)
  | some ep => ep.retain.logMask.testBit (if kind = 1 then 1 else code / 32)

/-- Does the entry just written overflow the pending LOG entries (R251)? -/
def logOverflows (kind code : Nat) (s : State) : Bool :=
  logCopied kind code s && decide (256 < s.ret.logPending.length)

/-- Queue the newest event-log entry for a LOG frame, or drop and count it (R251). -/
def logCopy (kind code : Nat) (s : State) : State :=
  if logCopied kind code s then
    if 256 < s.ret.logPending.length then
      { s with ret := { s.ret with logDrop := s.ret.logDrop + 1, logDropped := min 65535 (s.ret.logDropped + 1) } }
    else
      match s.evt.log.getLast? with
      | none => s
      | some e =>
        let l := s.ret.logPending ++ [e]
        { s with ret := { s.ret with logPending := l, logTicks := s.ret.logTicks ++ [s.tm.tick], logDue := s.ret.logDue || decide (30 ≤ l.length) } }
  else s

/-- Make the vector of source Gg.b pending (R559). -/
def pendVector (g b : Nat) (s : State) : State :=
  let v := (tabGet s.evt.vector (32 * g + b) 0).toNat
  { s with pcie := { s.pcie with pba := s.pcie.pba ||| BitVec.ofNat 64 (2 ^ v) } }

/-- A raise of Gg.b by itself: RAW bit (R558), log entry (R576), vector (R559), LOG copy (R251). -/
def raiseOne (forced : Bool) (g b : Nat) (data : List Byte) (s : State) : State :=
  if hasEvent s.dev.variant g b then
    let s := { s with evt := { s.evt with raw := tabMod s.evt.raw g fun w => w ||| BitVec.ofNat 32 (2 ^ b) } }
    let s := logCopy 0 (32 * g + b) (logEntry 0 (b2n forced) (32 * g + b) data s)
    if (tabGet s.evt.enable g 0).getLsbD b then pendVector g b s else s
  else s

/-- Raise G8.22 LOG_OVERFLOW after an entry that overflowed (R251), once for that entry (log 16). -/
def raiseOverflow (before : State) (kind code : Nat) (s : State) : State :=
  if logOverflows kind code before then raiseOne false 8 22 [] s else s

/-- Bytes unread in the event log's window (R514, R520). -/
def logUnread (s : State) : Nat := (s.cw[7].prod - s.cw[7].cons).toNat

/-- Raise G0.23 CW7_READY when the log's unread bytes have risen to half its ring (R519, R520). -/
def raiseLogReady (before : State) (s : State) : State :=
  if logUnread before < 65536 ∧ 65536 ≤ logUnread s then raiseOne false 0 23 [] s else s

/-- A raise of event Gg.b with the DATA of its log entry (R557-R560, R576, R577). -/
def raiseWith (forced : Bool) (g b : Nat) (data : List Byte) (s : State) : State :=
  if hasEvent s.dev.variant g b then raiseLogReady s (raiseOverflow s 0 (32 * g + b) (raiseOne forced g b data s)) else s

/-- A raise of event Gg.b whose log entry has DATA 0. -/
def raise (g b : Nat) (s : State) : State := raiseWith false g b [] s

/-- An event-log entry of a fault latch (R564, R576, R577). -/
def logFault (source severity : Nat) (info : Word) (injected : Bool) (s : State) : State :=
  let t := logCopy 1 source
    (logEntry 1 (2 * b2n injected) source (leBytes 1 severity ++ zeros 3 ++ leBytes 4 info.toNat) s)
  raiseLogReady s (raiseOverflow s 1 source t)

/-- The DATA of REG_WRITE_REFUSED and ACCESS_WIDTH (R577): offset, value, byte enables. -/
def writeData (off : Nat) (v : Nat) (be : Nat) : List Byte := leBytes 4 off ++ leBytes 4 v ++ leBytes 1 be

/-- A write refused per R534: G1.0 with the register's BAR0 offset. -/
def refuseWrite (off : Nat) (v : Word) (be : BitVec 4) (s : State) : State :=
  raiseWith false 1 0 (writeData off v.toNat be.toNat) s

/-- A narrow or split write to a special register: ignored with G1.1 ACCESS_WIDTH (R533, R536). -/
def refuseWidth (off : Nat) (v : Word) (be : BitVec 4) (s : State) : State :=
  raiseWith false 1 1 (writeData off v.toNat be.toNat) s

/-- A refused write of a 64-bit register: the log's value and byte enables are those of its high word's access. -/
def refuseWrite64 (off : Nat) (v : Word64) (be : BitVec 8) (s : State) : State :=
  raiseWith false 1 0 (writeData off v.toNat be.toNat) s

def refuseWidth64 (off : Nat) (v : Word64) (be : BitVec 8) (s : State) : State :=
  raiseWith false 1 1 (writeData off v.toNat be.toNat) s

/-- The 32-bit mask of the enabled bytes of a 4-byte access. -/
def beMask (be : BitVec 4) : Word :=
  (if be.getLsbD 0 then 0xFF else 0) ||| (if be.getLsbD 1 then 0xFF00 else 0) |||
    (if be.getLsbD 2 then 0xFF0000 else 0) ||| (if be.getLsbD 3 then 0xFF000000 else 0)

/-- The 64-bit mask of the enabled bytes of an 8-byte access. -/
def beMask64 (be : BitVec 8) : Word64 :=
  (beMask (be.extractLsb' 4 4)).zeroExtend 64 <<< 32 ||| (beMask (be.extractLsb' 0 4)).zeroExtend 64

/-- A register value with the enabled bytes replaced and only the writable bits changed (R533). -/
def mergeBits (old v : Word) (be : BitVec 4) (writable : Word) : Word :=
  let m := beMask be &&& writable
  (old &&& ~~~m) ||| (v &&& m)

/-- Is a write full width (R533)? -/
def fullWidth (be : BitVec 4) : Bool := be == 0xF#4

/-- Consume the pending unlock (R540): its class, 0 for none, and the state with none pending. -/
def takeUnlock (s : State) : Nat × State := (s.cfg.unlock, { s with cfg := { s.cfg with unlock := 0 } })

end Sys2Proof.Machine
end

