-- ==== Sys2Proof/Machine/Image.lean ====
section
/-! DEFINITION. The configuration image: its bytes (R546), its CRCs (R548), the intake gap its changes need, and the moment
it becomes active. -/

namespace Sys2Proof.Machine

/-! ## Fields of the channel registers -/

/-- THR_U and THR_L (R125). -/
def thrU (c : ChCfg) : Nat := bitsOf 25 16 c.thr.toNat
def thrL (c : ChCfg) : Nat := bitsOf 9 0 c.thr.toNat

/-- ENABLE and CAL_HOLD (R128). -/
def chEnable (c : ChCfg) : Bool := c.ctrl.getLsbD 0
def calHold (c : ChCfg) : Bool := c.ctrl.getLsbD 8

/-- STATE_MODE (R131). -/
def stateMode (c : ChCfg) : Bool := c.state.getLsbD 0

/-- The active settings of an input. -/
def actCh (s : State) (n : Nat) : ChCfg := tabGet s.cfg.active.inputs n (s.cfg.active.inputs[0])

/-- Is pod group `p` in state mode in the active image (R109)? -/
def podStateMode (s : State) (p : Nat) : Bool := stateMode (actCh s (256 + p))

/-- Is unit `unit` of memory 7 stopped by a containment of F10 (R566, R579): 0-3 a sequencer, 4 and up a resource? -/
def unitHeld (unit : Nat) (s : State) : Bool :=
  s.flt.contained.any fun c => c.source == 10 && c.mem == 7 && c.unit == unit && c.stopped

/-! ## Bytes of the image (R546) -/

def chBytes (n : Nat) (c : ChCfg) : List Byte :=
  leBytes 4 c.thr.toNat ++ leBytes 4 c.vt.toNat ++ leBytes 4 c.deskew.toNat ++ leBytes 4 c.ctrl.toNat ++
    c.qual.toList.flatMap (fun w => leBytes 4 w.toNat) ++
    (if n < 256 then zeros 8 else leBytes 4 c.state.toNat ++ leBytes 4 c.stateWin.toNat)

/-- RETAIN_SET bytes 0-79 with the OP given (R265). -/
def retainBytes (op : Nat) (r : RetainCfg) : List Byte :=
  leBytes 1 op ++ leBytes 1 r.policy ++ leBytes 1 (b2n r.rfireCairn) ++ zeros 1 ++ leBytes 4 r.summaryRows ++
    leBytes 2 r.logMask ++ zeros 6 ++
    r.classes.toList.flatMap fun c =>
      leBytes 4 c.pre ++ leBytes 4 c.post ++ leBytes 2 c.pods ++ leBytes 1 (b2n c.enable) ++ zeros 5

/-- The 72 body bytes of a pattern word, from FAB_CFG request byte 4 on. -/
def patternBytes (w : PatternCfg) : List Byte :=
  padTo 76 (leBytes 1 (b2n w.en + 2 * b2n w.src + 4 * b2n w.neg) ++ zeros 3 ++ leBytes 34 w.value.toNat ++ zeros 2 ++
    leBytes 34 w.mask.toNat)

def mapBytes (m : List Nat) : List Byte :=
  padTo 76 (leBytes 1 m.length ++ zeros 3 ++ m.flatMap (leBytes 2))

def rangeBytes (r : RangeCfg) : List Byte :=
  padTo 76 (leBytes 1 (b2n r.en + 2 * b2n r.signed + 4 * b2n r.src) ++ leBytes 1 r.bus ++ leBytes 1 r.cond ++ zeros 1 ++
    leBytes 4 r.lo.toNat ++ leBytes 4 r.hi.toNat)

def counterBytes (c : CounterCfg) : List Byte :=
  padTo 76 (leBytes 1 (b2n c.wrap + 2 * b2n c.autoClr) ++ leBytes 1 c.incTerm ++ zeros 2 ++ leBytes 8 c.limit ++
    leBytes 8 c.preload)

def timerBytes (t : TimerCfg) : List Byte :=
  padTo 76 (leBytes 1 (b2n t.autoStart + 2 * b2n t.atPlace) ++ leBytes 1 t.startTerm ++ leBytes 1 t.stopTerm ++ zeros 1 ++
    leBytes 8 t.limit)

/-- TRV_LOAD bytes 8-15: the program header (R208). -/
def headerBytes (p : Program) : List Byte :=
  leBytes 1 p.step ++ leBytes 1 p.stepPod ++ leBytes 1 p.group ++ leBytes 1 (b2n p.oneShot) ++ zeros 4

/-- States `first` to `first + n - 1` of a program, 64 bytes each. -/
def stateBytes (p : Program) (first n : Nat) : List Byte :=
  ((p.words.toList.drop (4 * first)).take (4 * n)).flatMap fun w => leBytes 16 w.toNat

def programBytes : Option Program → List Byte
  | none => zeros 1040
  | some p => leBytes 1 1 ++ zeros 7 ++ headerBytes p ++ stateBytes p 0 16

/-- The seven sections of the image in order (R546). -/
def imageSections (v : Variant) (i : Image) : List (List Byte) :=
  [ leBytes 2 1 ++ zeros 2 ++ leBytes 4 21248 ++ leBytes 4 v.cap0 ++ leBytes 4 v.cap1,
    (List.range 272).flatMap (fun n =>
      if v.hasInput n then chBytes n (tabGet i.inputs n i.inputs[0]) else zeros 40),
    leBytes 1 i.level ++ leBytes 1 (b2n i.hold) ++ zeros 14,
    retainBytes 0 i.retain,
    i.words.toList.flatMap patternBytes ++ i.maps.toList.flatMap mapBytes ++ i.ranges.toList.flatMap rangeBytes ++
      i.counters.toList.flatMap counterBytes ++ i.timers.toList.flatMap timerBytes,
    i.tout.toList.flatMap (fun w => leBytes 4 w.toNat),
    (List.range 4).flatMap (fun j => if v.hasSeq j then programBytes (tabGet i.progs j none) else zeros 1040) ]

/-- The configuration image, 21,248 bytes (R546). -/
def imageBytes (v : Variant) (i : Image) : List Byte := (imageSections v i).flatten

/-- The CRC of an image (R547, R548). -/
def imageCrc (v : Variant) (i : Image) : Word := BitVec.ofNat 32 (crc32c (imageBytes v i))

/-- The CRC of each section, the scanner's reference set (R548). -/
def sectionCrcs (v : Variant) (i : Image) : List Word :=
  (imageSections v i).map fun b => BitVec.ofNat 32 (crc32c b)

/-- CFG_CRC_STAGED (R548). -/
def stagedCrc (s : State) : Word := imageCrc s.dev.variant s.cfg.staged

/-- The check of CFG_CRC_REF against the staged image (R37, R50, R548). -/
def crcMatches (s : State) : Bool := s.cfg.crcRef == stagedCrc s

/-- A successful check holds CFG_CRC_REF and the staged section CRCs as the pending reference (R548). -/
def holdReference (s : State) : State :=
  { s with cfg := { s.cfg with pendingRef := some (s.cfg.crcRef, sectionCrcs s.dev.variant s.cfg.staged) } }

/-! ## The intake gap (R34, R35) -/

/-- The front end's share of the gap for one input (R114). -/
def chGap (a b : ChCfg) : Nat :=
  if a.thr ≠ b.thr then 4
  else if a.deskew ≠ b.deskew ∨ chEnable a ≠ chEnable b ∨ a.state ≠ b.state then 2
  else 1

/-- The planned gap g in blocks: the largest share of the stages (R35, R114, R158, R202, R260), at most 20. -/
def intakeGap (old new : Image) : Nat :=
  let fe := (List.zipWith chGap old.inputs.toList new.inputs.toList).foldl max 1
  min 20 (max fe (if old.level = new.level then 1 else 2))

/-! ## Deskew (R101) -/

/-- The descriptor skew of input `k` of a pod, 0 for a pod that is not ACTIVE (R68, R101). -/
def podSkew (p : Pod) (k : Nat) : Int :=
  match p.state, p.desc with
  | .active, some d => signed 16 (fieldAt d (24 + 2 * k) 2)
  | _, _ => 0

/-- DESKEW + SKEWk before the clamp (R101). -/
def rawDeskew (s : State) (n : Nat) : Int :=
  signed 12 (bitsOf 11 0 (actCh s n).deskew.toNat) + podSkew (tabGet s.pods (podOf n) s.pods[0]) (inputOf n)

/-- The effective deskew E (R101). -/
def effDeskew (s : State) (n : Nat) : Int := max (-1600) (min 1600 (rawDeskew s n))

/-- Is the effective deskew of an input clamped (R101)? CH_STATUS shows it live. -/
def deskewClamped (s : State) (n : Nat) : Bool := decide (effDeskew s n ≠ rawDeskew s n)

/-- G6.3 as the deskews of pod `p` are applied with any of its inputs clamped: once for the pod, however many of its inputs
are clamped (R101, R137; DESIGN CHOICE, log 29). -/
def applyDeskew (p : Nat) (s : State) : State :=
  if (List.range 17).any fun k => deskewClamped s (inputIndex p k) then raise 6 3 s else s

/-! ## The staged image becomes active -/

/-- Does some enabled present input have THR_U below THR_L (R137)? -/
def anyInverted (s : State) : Bool :=
  (List.range 272).any fun n =>
    s.dev.variant.hasInput n && chEnable (actCh s n) && decide (thrU (actCh s n) < thrL (actCh s n))

/-- The modes of the sequencers under a new active image: UNLOADED without a program, or while contained (R207, R225, R566). A
program change that unloads a sequencer raises no TRVj_DISARMED (DESIGN CHOICE, log 30). -/
def reloadSeqs (s : State) : State :=
  (List.range 4).foldl (fun s j =>
    modSeq j (fun q =>
      match if unitHeld j s then none else tabGet s.cfg.active.progs j none with
      | none => { q with mode := .unloaded, state := 0, flag := false, wait := none }
      | some _ => if q.mode = .unloaded then { q with mode := .idle, state := 0 } else q) s) s

/-- An input falls ABSENT: level 0, no pairing, no qualifier state (R103, R142, R184). -/
def clearInput (i : Input) : Input :=
  { i with
    u := false, l := false, level := false, uGrid := none, lGrid := none, upL := none, downU := none, tOpen := none,
    hi := none, lo := none, tStart := none }

/-- The inputs of pod `p` that the active image enables, as a mask. -/
def enabledMask (s : State) (p : Nat) : Nat := maskOf ((List.range 17).filter fun k => chEnable (actCh s (inputIndex p k)))

/-- A pod's record of its inputs without those outside a mask. -/
def maskPod (m : Nat) (q : Pod) : Pod :=
  let b : PodOuts := { level := q.base.level &&& m, u := q.base.u &&& m, l := q.base.l &&& m }
  { q with evs := q.evs.filter (fun e => m.testBit e.input), base := b }

/-- Inputs that the active image disables fall ABSENT (R103). -/
def clearDisabled (s : State) : State :=
  { s with
    inputs := Vector.ofFn fun i : Fin 272 =>
      if chEnable s.cfg.active.inputs[i] then s.inputs[i] else clearInput s.inputs[i],
    pods := Vector.ofFn fun p : Fin 16 => maskPod (enabledMask s p.val) s.pods[p] }

/-- The image and its CRC registers fall to their reset values, the staged one at once (R483, R545, R553). -/
def resetStaged (s : State) : State :=
  { s with cfg := { Cfg.reset s.dev.variant.ports with active := s.cfg.active } }

/-- The staged image becomes active, and the pending reference with it (R34, R36, R124, R548). -/
def activateImage (s : State) : State :=
  let s := { s with cfg := { s.cfg with active := s.cfg.staged } }
  let s :=
    match s.cfg.pendingRef with
    | none => s
    | some (c, r) =>
      { s with cfg := { s.cfg with crcChecked := c, refSections := r, checkedValid := true, pendingRef := none } }
  let s := clearDisabled (reloadSeqs s)
  let s := (List.range 16).foldl (fun s p => applyDeskew p s) s
  if anyInverted s then raise 6 4 s else s

/-- The active image falls to its reset values (R483, R545); the staged image and the pending reference stay. -/
def resetActive (s : State) : State :=
  let c := s.cfg
  let s := activateImage { s with cfg := { c with staged := Image.reset s.dev.variant.ports, pendingRef := none } }
  { s with cfg := { s.cfg with staged := c.staged, pendingRef := c.pendingRef } }

end Sys2Proof.Machine
end

