-- ==== Sys2Proof/Machine/Record.lean ====
section
/-! DEFINITION. What the stages hand to the retention engine (cairns, GAP frames, window requests, ending causes) and how
a frame is built (R240-R259). -/

namespace Sys2Proof.Machine

/-! ## Cairns (R258, R259) -/

/-- The 48-bit sample and 8-bit fraction of an instant, as INSTANT holds them (R258). -/
def instantBytes (t : Nat) : List Byte := leBytes 6 (t / 256) ++ leBytes 1 (t % 256) ++ zeros 1

/-- Hand a cairn to the retention engine. -/
def pushCairn (code instant unit pod : Nat) (payload : List Byte) (s : State) : State :=
  let c : Cairn :=
    { code := code, instant := instant, unit := unit, pod := pod, t0 := t0Of (timeAOf s instant),
      payload := padTo 76 payload, late := false, prior := false }
  { s with ret := { s.ret with cairns := s.ret.cairns ++ [c] } }

/-- A cairn that is written only while acquisition is RUNNING or DRAINING. -/
def pushCairnIf (code instant unit pod : Nat) (payload : List Byte) (s : State) : State :=
  if acquiring s then pushCairn code instant unit pod payload s else s

/-! ## GAP frames (R256, R257) -/

/-- Hand a GAP frame with bounds in samples to the retention engine. -/
def pushGap (cause detail pods pod start : Nat) (stop : Option Nat) (s : State) : State :=
  let g : Gap :=
    { cause := cause, detail := detail, pods := pods, pod := pod, start := start, stop := stop,
      tStart := t0Of (timeAOf s (256 * start)),
      tStop := match stop with
        | some e => t0Of (timeAOf s (256 * e))
        | none => (0xFFFFFFFF, 0xFFFFFFFF),
      seqFirst := 0, seqLast := 0 }
  { s with ret := { s.ret with gaps := s.ret.gaps ++ [g] } }

/-- The samples a GAP frame counts: those of every pod group in its mask, none with an open end (R253). -/
def gapWeight (g : Gap) : Nat :=
  match g.stop with
  | some e => (e - g.start) * (bitsSet 16 g.pods).length
  | none => 0

/-- A GAP frame counts in RET_GAP_CNT and RET_GAP_SAMPLES and raises G8.19 (R257). -/
def countGap (g : Gap) (s : State) : State :=
  raise 8 19 { s with ret := { s.ret with
    gapCnt := s.ret.gapCnt + 1, gapSamples := min (2 ^ 64 - 1) (s.ret.gapSamples + gapWeight g) } }

/-! ## Window requests (R240, R241) -/

/-- P_max of a retention policy (R236). -/
def pMax (r : RetainCfg) : Nat :=
  if r.policy = 1 then
    (r.classes.toList.map fun c => if c.enable ∧ c.pods ≠ 0 then c.pre else 0).foldl max 0
  else 0

/-- The oldest row that the sample axis has not settled under a policy: row r settles as AX5 passes the start of row
r + P_max + 2 (R236). -/
def settledBelow (r : RetainCfg) (s : State) : Nat := s.tm.ax5 / 256 - pMax r - 1

/-- The first intake row of the epoch being captured, or while its intake has not begun the row planned for it. -/
def epochFirstRow (s : State) : Nat :=
  match s.ret.intakeRow, s.ret.boundary, s.ret.cur with
  | some r, _, _ => r
  | none, some b, some e => if s.dev.acq = .draining then b.row + b.g else e.firstRow
  | none, _, some e => e.firstRow
  | none, _, none => 0

/-- The oldest unsettled row (R236, R267). Where no row of any epoch is unsettled it runs on with AX5 by the same
rule from the planned first row, and outside acquisition the register keeps the last value (DESIGN CHOICE, log 68). -/
def settleRow (s : State) : Nat :=
  let new := max (epochFirstRow s) (settledBelow s.cfg.active.retain s)
  match s.ret.boundary with
  | none => new
  | some b =>
    if s.dev.acq = .draining then
      if s.ret.closed ∨ 256 * b.row + 512 ≤ s.tm.ax5 then new
      else match s.ret.cur with
        | some e => min b.row (max e.firstRow (settledBelow e.retain s))
        | none => new
    else min b.row new

/-- Where H stands (R157, R237, R238): X, or under WINDOW the start of the oldest unsettled row still in the ring. It stops in
FROZEN. -/
def hDue (s : State) : Nat :=
  if s.dev.acq = .frozen then s.ring.H
  else if s.cfg.active.retain.policy = 1 then
    match s.ring.rows.find? fun d => decide (settleRow s ≤ d.row) with
    | some d => d.pos
    | none => s.ring.W
  else s.ring.X

/-- H at this instant (R170): it never moves back. -/
def ringH (s : State) : Nat := max s.ring.H (hDue s)

/-- H moves forward to where it stands now. -/
def moveH (s : State) : State := { s with ring := { s.ring with H := ringH s } }

/-- The first row at or after H that the ring or the staging buffer still holds. -/
def rowAtPos (s : State) : Nat :=
  match s.ring.rows.find? (fun r => decide (ringH s < r.pos + r.len)), s.ring.staging with
  | some r, _ => r.row
  | none, x :: _ => x.1.row
  | none, [] => s.ring.capRow

/-- The row that holds H: the oldest unsettled row, unless the ring has overwritten it (R238, R240). -/
def rowAtH (s : State) : Nat := max (rowAtPos s) (settledBelow s.cfg.active.retain s)

/-! ## The policy of a row -/

/-- The retention policy of the epoch that a row belongs to. -/
def retainOf (r : Nat) (s : State) : RetainCfg :=
  match s.ret.boundary, s.ret.cur with
  | some b, some e => if s.dev.acq = .draining ∧ r < b.row then e.retain else s.cfg.active.retain
  | _, _ => s.cfg.active.retain

/-- Is a row of an epoch under WINDOW? -/
def windowed (r : Nat) (s : State) : Bool := (retainOf r s).policy == 1

/-! ## Fill watermarks (R167, R168) -/

/-- A watermark whose quantity now stands at or above its mark, or below it. -/
def Mark.step (above : Bool) (m : Mark) : Mark :=
  if above then (if m.now then m else { m with now := true, seen := true, count := min 255 (m.count + 1) })
  else { m with now := false }

/-- Does the step raise the event? -/
def Mark.crosses (above : Bool) (m : Mark) : Bool := above && !m.now && !m.seen

/-- Writing 1 to SEEN (R168). -/
def Mark.clear (m : Mark) : Mark := { m with seen := false, count := 0 }

/-- Is the fill at or above the mark (R167)? -/
def aboveMark (m : Mark) (s : State) : Bool := decide (m.level * s.dev.variant.ringCap ≤ 256 * (s.ring.W - s.ring.X))

/-- Evaluate both watermarks (R167, R168). -/
def evalMarks (s : State) : State :=
  let a := aboveMark s.ring.markA s
  let b := aboveMark s.ring.markB s
  let ea := s.ring.markA.crosses a
  let eb := s.ring.markB.crosses b
  let s := { s with ring := { s.ring with markA := s.ring.markA.step a, markB := s.ring.markB.step b } }
  let s := if ea then raise 8 0 s else s
  if eb then raise 8 1 s else s

/-! ## Rows that hold X (R237, R238) -/

/-- Does a known window retain a row? -/
def inWindow? (r : Nat) (s : State) : Bool := s.ret.requests.any fun q => decide (q.first ≤ r ∧ r ≤ q.last)

/-- May X pass a row (R237, R238)? -/
def passable (d : RowDesc) (s : State) : Bool :=
  decide (d.row < s.ret.readRow) && (!windowed d.row s || decide (d.row < s.ret.emitRow) || !inWindow? d.row s)

/-- The first byte that the ring must keep: X, or an unsettled row in a window that X passed before the window reached it,
which only R30 can take from the ring (R238; log 19). -/
def keptFrom (s : State) : Nat :=
  match s.ring.rows.find? fun d => !passable d s with
  | some d => min d.pos s.ring.X
  | none => s.ring.X

/-- Add the request of a fire or mark of class `c` at an instant (R240, R241): only under WINDOW, for an enabled class that
retains some pod; clipped at the first intake row (TRUNC 2) and at the row of H (TRUNC 1). -/
def addRequest (c t : Nat) (s : State) : State :=
  let r := s.cfg.active.retain
  let k := tabGet r.classes c { pre := 0, post := 0, pods := 0, enable := false }
  if r.policy = 1 ∧ k.enable ∧ k.pods ≠ 0 then
    let rf := t / 65536
    let asked : Int := (rf : Int) - (k.pre : Int)
    let fe := epochFirstRow s
    let h := rowAtH s
    let trunc := if asked < (fe : Int) ∧ h ≤ fe then 2 else if asked < (h : Int) then 1 else 0
    let q : Request :=
      { cls := c, pods := k.pods, first := max asked.toNat (max fe h), last := rf + k.post, asked := asked, trunc := trunc }
    let s := { s with ret := { s.ret with requests := s.ret.requests ++ [q] } }
    if trunc = 0 then s
    else
      let own := decide (s.ret.intakeRow = none ∧ s.dev.acq = .running)
      raise 8 20 { s with ret := { s.ret with
        truncCnt := s.ret.truncCnt + 1,
        cur := s.ret.cur.map fun e => { e with truncated := e.truncated + b2n own } } }
  else s

/-! ## Ending causes (R32, R33, R38, R254) -/

/-- A reset that came while its epoch was draining: no close code (R254), it ends in IDLE and leaves the cause accepted. -/
def lateReset : Nat := 7

/-- Does a boundary with these causes end in IDLE (R38)? -/
def endsIdle (causes : List Nat) : Bool := causes.any fun c => decide (c < 3 ∨ c = lateReset)

/-- CAUSE of EPOCH_CLOSE: the lowest code accepted (R254). -/
def closeCause (causes : List Nat) : Nat := (causes.filter fun c => c != lateReset).foldl min 255

/-- Accept an ending cause while RUNNING, the boundary instant being the start of row `row`: causes accepted before one
boundary instant share it (R33, R38). -/
def acceptCauseAt (row cause : Nat) (s : State) : State :=
  match s.ret.boundary with
  | some b => { s with ret := { s.ret with boundary := some { b with causes := b.causes ++ [cause] } } }
  | none =>
    { s with ret := { s.ret with
        boundary := some { causes := [cause], row := row, g := intakeGap s.cfg.active s.cfg.staged } } }

/-- Accept an ending cause now: the boundary instant is the first block boundary at or after it (R33). -/
def acceptCause (cause : Nat) (s : State) : State := acceptCauseAt (nextRow s) cause s

/-- The first block boundary at or after an instant, as a row number (R33); a row already taken in is not given back. -/
def boundaryAfter (t : Nat) (s : State) : Nat := max s.ring.capRow ((t + 65535) / 65536)

/-- A stop (ACQ_STOP or a STOP key, by its close cause): ends the epoch while RUNNING, is held while DRAINING (R38). -/
def requestStop (cause : Nat) (s : State) : State :=
  match s.dev.acq with
  | .running => acceptCause cause s
  | .draining => { s with ret := { s.ret with heldStop := some ((s.ret.heldStop.getD cause) |> min cause) } }
  | _ => s

/-! ## Frames (R246) -/

/-- The length of a frame whose body is `n` bytes: header, body and trailer rounded up to 64 (R246). -/
def frameLen (n : Nat) : Nat := 64 * ((36 + n + 63) / 64)

/-- A whole frame (R246): 32-byte header, body, zero fill, CRC-32C trailer. -/
def frameBytes (type flags epoch chain unit pod seq : Nat) (t0 : Nat × Nat) (body : List Byte) : List Byte :=
  let len := frameLen body.length
  let b := padTo (len - 4)
    (leBytes 2 type ++ leBytes 1 1 ++ leBytes 1 flags ++ leBytes 4 len ++ leBytes 4 epoch ++ leBytes 2 chain ++
      leBytes 1 unit ++ leBytes 1 pod ++ leBytes 8 seq ++ t0Bytes t0 ++ body)
  b ++ leBytes 4 (crc32c b)

/-- Hand a frame to the compressor (R270). -/
def handFrame (f : Frame) (s : State) : State := { s with cmp := { s.cmp with inq := s.cmp.inq ++ [f] } }

/-- Was a TIMING_SUSPECT cairn open at some instant of [a, b) (R246)? -/
def suspectIn (a b : Nat) (s : State) : Bool :=
  s.ret.suspects.any fun x => decide (x.1 < b) && match x.2 with
    | some e => decide (a < e)
    | none => true

/-- SUSPECT of the blocks of row `r`: a TIMING_SUSPECT cairn was open during the row, at whose start the suppression of one
closed then still lasted (R143, R146, R186). -/
def suspectRow (r : Nat) (s : State) : Bool :=
  s.ret.suspects.any fun x => decide (x.1 < 65536 * (r + 1)) && match x.2 with
    | some e => decide (65536 * r ≤ e)
    | none => true

/-- FLAGS of a frame whose T0 is an instant: SUSPECT while a TIMING_SUSPECT cairn is open then (R246). -/
def flagsAt (t : Nat) (s : State) : Nat := 2 * b2n (suspectIn t (t + 1) s)

/-- FLAGS of a frame made now. -/
def frameFlags (s : State) : Nat := 2 * b2n s.ret.suspect.isSome

/-- Emit a retention frame of the epoch: SEQ rises by exactly 1 (R248), the epoch counts it (R253), the compressor gets
it. -/
def emitFrame (type unit pod flags : Nat) (t0 : Nat × Nat) (row : Option Nat) (pods : Nat) (body : List Byte) (s : State) :
    State :=
  let ep := s.ret.epoch
  let f : Frame :=
    { type := type, seq := s.ret.seq, epoch := ep, row := row, pods := pods,
      bytes := frameBytes type flags ep s.rl.addr unit pod s.ret.seq t0 body }
  let s := handFrame f s
  { s with ret := { s.ret with
      seq := (s.ret.seq + 1) % 2 ^ 64, lastT0 := t0,
      cur := s.ret.cur.map fun e => { e with frames := e.frames + 1 } } }

/-- A frame added after the retention engine: INSERTED is set and SEQ is that of the last retention frame (R248);
`suspect` is SUSPECT at its T0, as FLAGS holds it. -/
def insertedFrame (type unit suspect : Nat) (t0 : Nat × Nat) (body : List Byte) (s : State) : Frame :=
  let q := s.ret.seq - 1
  { type := type, seq := q, epoch := s.ret.epoch, row := none, pods := 0,
    bytes := frameBytes type (1 + suspect) s.ret.epoch s.rl.addr unit 0xFF q t0 body }

end Sys2Proof.Machine
end

