-- ==== Sys2Proof/Machine/ExportOps.lean ====
section
/-! DEFINITION. Operations of the compressor, the export queue and the extents that several families use: closing a block
or an extent, the queue's counts, release, rewind (R271, R285, R289, R290, R314, R319). -/

namespace Sys2Proof.Machine

/-! ## Blocks and lanes -/

/-- Did the frame come by Ridgeline record forwarding (R246)? -/
def isForwarded (f : Frame) : Bool := bitOf 2 (fieldAt f.bytes 3 1)

/-- Is the frame the one that closes an epoch of this unit (R254)? -/
def isEpochClose (f : Frame) : Bool := f.type == 0x11 && !isForwarded f

/-- The raw length of a block (R270). -/
def rawLen (b : Block) : Nat := (b.frames.map fun f => f.bytes.length).sum

/-- The raw bytes of a block. -/
def rawBytes (b : Block) : List Byte := b.frames.flatMap fun f => f.bytes

/-- The lane a closed block goes to: the next in ascending order with a free input buffer (R275). -/
def freeLane (c : Cmp) : Option Nat :=
  ((List.range 8).map fun i => (c.nextLane + i) % 8).find? fun i =>
    match tabGet (c.lanes.map some) i none with
    | some l => decide (l.held.length < 2)
    | none => false

/-- Deal one block to a lane. -/
def dealTo (i : Nat) (b : Block) (c : Cmp) : Cmp :=
  { c with lanes := tabMod c.lanes i (fun l => { l with held := l.held ++ [(b, none)] }), nextLane := (i + 1) % 8 }

/-- Deal the closed blocks that wait, in block order, while lanes have room. -/
def dealBlocks : Nat → Cmp → Cmp
  | 0, c => c
  | n + 1, c =>
    match c.waiting, freeLane c with
    | b :: bs, some i => dealBlocks n (dealTo i b { c with waiting := bs })
    | _, _ => c

/-- Every lane clears its match tables and statistics (R278). -/
def clearTables (c : Cmp) : Cmp := { c with lanes := c.lanes.map fun l => { l with tables := [] } }

/-- All closed blocks whose packets have not closed: those waiting and those in lanes. -/
def inFlight (c : Cmp) : List Block := c.waiting ++ c.lanes.toList.flatMap fun l => l.held.map fun h => h.1

/-- The most stored bytes an extent may come to hold with the blocks closed so far (R271, R279). -/
def extReserved (s : State) (x : Extent) : Nat :=
  x.bytes.length + (((inFlight s.cmp).filter fun b => b.ext = x.seq).map fun b => 16 + rawLen b).sum

/-- The extent size E in bytes for an EXT_SIZE code (R303). -/
def extBytes (size : Nat) : Nat := 2 ^ size * 0x100000

/-! ## Extents -/

/-- Change the open extent. -/
def modOpen (f : Extent → Extent) (s : State) : State :=
  { s with tal := { s.tal with opened := s.tal.opened.map f } }

/-- Change an extent, open or closed, by its sequence. -/
def modExtent (n : Nat) (f : Extent → Extent) (s : State) : State :=
  { s with tal := { s.tal with
      opened := s.tal.opened.map (fun x => if x.seq = n then f x else x),
      pending := s.tal.pending.map (fun x => if x.seq = n then f x else x) } }

/-- An extent, open or closed, by its sequence. -/
def findExtent (n : Nat) (s : State) : Option Extent :=
  match s.tal.opened with
  | some x => if x.seq = n then some x else s.tal.pending.find? fun y => decide (y.seq = n)
  | none => s.tal.pending.find? fun y => decide (y.seq = n)

/-- Is an extent wholly released (R319)? -/
def wholeReleased (x : Extent) : Bool := x.closed && decide (x.bytes.length ≤ x.releasedBytes)

/-- An extent becomes durable (R319): its map slot may be written, and so may the index entries of the seals it holds
(R354). -/
def makeDurable (x : Extent) (s : State) : State :=
  let holds (e : SealEntry) : SealEntry :=
    match x.sealFrames.find? fun f => f.1 = e.key with
    | some f => { e with holder := some (x.seq, f.2) }
    | none => e
  { modExtent x.seq (fun y => { y with durable := true }) s with
    sealer := { s.sealer with entries := s.sealer.entries.map holds } }

/-- Does release make an extent durable: ACK_MODE RELEASE for a window or pull, FUA for a drive (R319)? -/
def durableByRelease (x : Extent) (s : State) : Bool :=
  if 16 ≤ x.place.target ∧ x.place.target < 20 then
    (tabGet s.tal.drives (x.place.target - 16) Drive.reset).cfg.fua
  else s.tal.ackRelease

/-- A SEAL_NOW with CLOSE falls due once the extent it waits for has closed and been released (R357); with ENABLE = 0 no seal
becomes due (R356). -/
def dueNow (s : State) (d : SealDue) : SealDue :=
  match s.sealer.enable, d.after with
  | false, _ => d
  | true, none => d
  | true, some n =>
    match findExtent n s with
    | some x => if wholeReleased x then { d with after := none, tick := s.tm.tick } else d
    | none => { d with after := none, tick := s.tm.tick }

/-- The seals that are due (R348, R357). -/
def dueSeals (s : State) : List SealDue := s.sealer.due.filter fun d => d.after.isNone

/-- The cores that serve the chain now: its own, and cores 10 and 11 while its input exceeds their capacity (R346, R347). -/
def chainNow (x : Sealer) : Nat := if x.borrow then x.chainCores ||| (0xC00 &&& (0xFFF ^^^ x.fenced)) else x.chainCores

/-- A packet's stored bytes go to the chain: input that comes before the earlier has been absorbed exceeds the capacity of the
chain's cores, and it takes cores 10 and 11 until all of it has been (R345, R346; log 44). -/
def feedChain (n : Nat) (s : State) : State :=
  { s with sealer := { s.sealer with
      backlog := s.sealer.backlog + 3 * n, borrow := s.sealer.borrow || decide (0 < s.sealer.backlog) } }

/-- Is the chain short of capacity, so that packets wait to close (R346)? More than one whole packet waits to be absorbed. -/
def chainShort (s : State) : Bool := decide (3 * 65552 < s.sealer.backlog)

/-- May seals and reports be signed now: a core is left to them, or the chain leaves a gap (R346, R347)? -/
def signCores (s : State) : Bool :=
  s.sealer.backlog == 0 || [10, 11].any fun c => !s.sealer.fenced.testBit c && !(chainNow s.sealer).testBit c

/-- What one timebase tick of four core clocks does to the sealer: each of the chain's cores absorbs 136 bytes in 24 clocks
(R346), and the timer of R350 runs while a seal is due or being signed, in IDLE and FROZEN not (R351, R356). -/
def sealTick (s : State) : State :=
  let x := s.sealer
  let left := x.backlog - 68 * (bitsSet 12 (chainNow x)).length
  let waits := !(dueSeals s).isEmpty || x.signing.isSome
  { s with sealer := { x with
      backlog := left, borrow := x.borrow && left != 0,
      timer := if !waits then 0 else if acquiring s && x.enable then x.timer + 1 else x.timer } }

/-- What follows from release: the highest closed and wholly released extent (R348, R364), and durability (R319). -/
def afterRelease (s : State) : State :=
  let s := { s with sealer := { s.sealer with due := s.sealer.due.map (dueNow s) } }
  s.tal.pending.foldl (fun s x =>
    if wholeReleased x then
      let s :=
        if s.sealer.readyExt < x.seq ∨ s.sealer.readyInfo = none then
          { s with sealer := { s.sealer with readyExt := x.seq, readyInfo := some (x.lastSeq, x.chain) } }
        else s
      if !x.durable && durableByRelease x s then makeDurable x s else s
    else s) s

/-- The open extent closes once its last packet has closed: the chain value is final and the next extent may open (R344,
R345). -/
def finishExtent (s : State) : State :=
  match s.tal.opened with
  | none => s
  | some x =>
    if x.closing ∧ ((inFlight s.cmp ++ s.cmp.opened.toList).all fun b => b.ext ≠ x.seq) then
      let h := shake256 (x.prev ++ x.bytes)
      let y := { x with closed := true, chain := h }
      afterRelease { s with tal := { s.tal with
        opened := none, pending := s.tal.pending ++ [y], chain := h, closeDue := false } }
    else s

/-- The block with a number, in whichever lane holds it, with its stored form. -/
def heldBlock (n : Nat) (c : Cmp) : Option (Block × Option Stored) :=
  (c.lanes.toList.flatMap fun l => l.held).find? fun h => h.1.no == n

/-- A close of the extent is due at the next block close (R250, R314). -/
def dueClose (s : State) : State :=
  if s.tal.closeDue then s else { s with tal := { s.tal with closeDue := true, closeAt := s.tm.tick } }

/-- Close the open block after its last frame (R271): it goes to a lane, and a close of the extent that was due at the
next block close takes effect (R314). -/
def closeBlock (s : State) : State :=
  match s.cmp.opened with
  | none => s
  | some b =>
    let c := { s.cmp with
      opened := none, waiting := s.cmp.waiting ++ [b], blockCnt := s.cmp.blockCnt + 1,
      rawBytes := min (2 ^ 64 - 1) (s.cmp.rawBytes + rawLen b) }
    let s := { s with cmp := dealBlocks 8 c }
    if s.tal.closeDue ∧ !b.head then
      modOpen (fun x => { x with closing := true, short := true }) { s with tal := { s.tal with closeDue := false } }
    else s

/-- Close the open extent after the blocks closed so far, with the flags given; a close that was due gives its SHORT too
(R314). -/
def closeExtent (f : Extent → Extent) (s : State) : State :=
  let due := s.tal.closeDue
  finishExtent (modOpen (fun x => f { x with closing := true, short := x.short || due }) (closeBlock s))

/-! ## The export queue -/

/-- The filling bank's number. -/
def fillBank (q : Eq) : Nat := 1 - q.drain

def bankPackets (q : Eq) (b : Nat) : List Packet := tabGet q.banks b []

/-- The words of closed packets. -/
def packetWords (ps : List Packet) : Nat := (ps.map fun p => p.words).sum

/-- The content of the draining bank in words (R285). -/
def drainWords (q : Eq) : Nat := packetWords (bankPackets q q.drain)

/-- Words pushed into the filling bank, those of an open packet and its reserved word 0 among them (R281, R285). -/
def fillWords (q : Eq) : Nat := packetWords (bankPackets q (fillBank q)) + q.openWords

/-- AVAIL (R285, R296). -/
def avail (q : Eq) : Nat := if q.pull then drainWords q - q.released else drainWords q - q.rd

/-- OCCUPIED (R285). -/
def occupied (q : Eq) : Nat := (drainWords q - q.released) + fillWords q

/-- The words of a stored form's packet (R279, R281). -/
def storedWords (d : Stored) : Nat := (16 + d.payload.length + 63) / 64

/-- The words pushed into the open packet in one timebase tick, a word a core clock at most (R280, R281, R286): up to the end of
its stored form once its lane has made one; while the lane still produces output, whose pace is free, never beyond what R281 has
set aside. -/
def pushWords (s : State) : State :=
  match s.eq.openPkt.bind fun n => heldBlock n s.cmp with
  | none => s
  | some (_, some d) => { s with eq := { s.eq with openWords := max s.eq.openWords (min (storedWords d) (s.eq.openWords + 4)) } }
  | some (b, none) =>
    let r := freeBits 3 s
    { r.2 with eq := { r.2.eq with openWords := max s.eq.openWords (min (rawLen b / 64 + 1) (s.eq.openWords + min 4 r.1)) } }

/-- The last packet end at or before a word, from a packet list that begins at `n`. -/
def packetEnd (r : Nat) : Nat → List Packet → Nat
  | n, [] => n
  | n, p :: ps => if n + p.words ≤ r then packetEnd r (n + p.words) ps else n

/-- The first packet that ends beyond a word, from a packet list that begins at `n`. -/
def packetPast (r : Nat) : Nat → List Packet → Option Packet
  | _, [] => none
  | n, p :: ps => if n + p.words ≤ r then packetPast r (n + p.words) ps else some p

/-- The mark (R289, R329): the first word of the oldest packet not wholly released. For store windows that is the first
word of the oldest outstanding chunk. -/
def eqMark (q : Eq) : Nat := packetEnd q.released 0 (bankPackets q q.drain)

/-- The end of a packet in its extent's stored bytes. -/
def packetStop (p : Packet) : Nat := p.off + p.bytes.length

/-- The words of a bank whose bytes all lie before byte `h` of extent `n` (R329). -/
def wordsUpTo (n h : Nat) (ps : List Packet) : Nat :=
  (ps.map fun p =>
    if p.ext < n ∨ (p.ext = n ∧ packetStop p ≤ h) then p.words
    else if p.ext = n then (h - p.off) / 64 else 0).sum

/-- EPOCH_HOLD clears once both banks are released (R292). -/
def clearHold (s : State) : State :=
  if s.eq.epochHold ∧ occupied s.eq = 0 then { s with eq := { s.eq with epochHold := false, fillClosed := false } } else s

/-- Note an extent's last wholly released packet (R314, R319). -/
def notePacket (p : Packet) (x : Extent) : Extent :=
  if x.relLen < packetStop p then
    { x with
      releasedBytes := max x.releasedBytes (packetStop p), relLen := packetStop p, relSeq := p.lastSeq, relEpoch := p.lastEpoch }
  else x

/-- Release the draining bank's words below `upto` (R46, R289, R296); RD is never behind a released word (R285). -/
def releaseTo (upto : Nat) (s : State) : State :=
  let s := { s with eq := { s.eq with
    released := max s.eq.released upto, relpos := s.eq.relpos + (upto - s.eq.released), rd := max s.eq.rd upto } }
  let ps := bankPackets s.eq s.eq.drain
  let done := (List.range ps.length).filter fun i => decide (packetWords (ps.take (i + 1)) ≤ s.eq.released)
  (ps.take done.length).foldl (fun s p => modExtent p.ext (notePacket p) s) s

/-- Release the oldest chunks whose conditions are met, in order (R289). -/
def releaseChunks : Nat → State → State
  | 0, s => s
  | n + 1, s =>
    match s.eq.chunks with
    | c :: cs =>
      if c.met then
        let s := releaseTo c.upto { s with eq := { s.eq with chunks := cs } }
        releaseChunks n (modExtent c.ext (fun x => { x with releasedBytes := max x.releasedBytes c.hi }) s)
      else s
    | [] => s

/-- Release what may be released, and what follows from it. -/
def releaseAll (s : State) : State := clearHold (afterRelease (releaseChunks 8 s))

/-- In direct-drive mode a resend begins at the unit that holds the first byte of the oldest packet not wholly released
(R329). -/
def rewindUnit (s : State) : State :=
  match packetPast s.eq.released 0 (bankPackets s.eq s.eq.drain) with
  | none => s
  | some p =>
    modExtent p.ext (fun x =>
      if 16 ≤ x.place.target ∧ x.place.target < 20 then
        { x with releasedBytes := min x.releasedBytes (p.off / 4096 * 4096) } else x) s

/-- A rewind of the export queue (R47, R290): RD returns to the mark and every outstanding chunk is cancelled; drive commands
already submitted run on. In pull mode no chunk exists and a rewind does not apply (R295). -/
def rewind (s : State) : State :=
  if s.eq.pull then s
  else
    let m := eqMark s.eq
    let s := { s with eq := { s.eq with
      rpos := s.eq.rpos - (s.eq.rd - m), rd := m, chunks := [], rewindCnt := s.eq.rewindCnt + 1 } }
    raise 9 2 (rewindUnit s)

/-- The filling bank closes once the blocks of a frozen record are packed (R292). -/
def closeFrozenBank (s : State) : State :=
  if s.eq.safeHold ∧ !s.eq.frozen ∧ inFlight s.cmp = [] then
    { s with eq := { s.eq with fillClosed := true, frozen := true } }
  else s

/-- Safe-state entry freezes the record (R39, R271, R292, R314): the open block closes after the last whole frame, the open
extent closes with FAULT, the filling bank closes, and no packet of a later block opens until the release. -/
def freezeRecord (s : State) : State :=
  let s := { s with
    cmp := { s.cmp with inq := [] }, tal := { s.tal with drained := false },
    sealer := { s.sealer with signing := s.sealer.signing.map fun j => { j with emit := false } } }
  let s := closeExtent (fun x => { x with fault := true }) s
  closeFrozenBank { s with eq := { s.eq with safeHold := true } }

/-- A lane is fenced (R277, R563): later blocks are stored with FORCED. -/
def fenceLane (i : Nat) (s : State) : State :=
  if (tabGet (s.cmp.lanes.map fun l => l.fenced) i true) then s
  else raise 9 5 { s with cmp := { s.cmp with lanes := tabMod s.cmp.lanes i fun l => { l with fenced := true } } }

/-! ## The format (R306-R308) -/

/-- Write bytes to the map die: the words they replace are sound again. -/
def dieWrite (a : Nat) (bs : List Byte) (s : State) : State :=
  { s with tal := { s.tal with
      die := memWrite s.tal.die a bs,
      dieUe := s.tal.dieUe.filter fun u => decide (32 * u + 32 ≤ a ∨ a + bs.length ≤ 32 * u) } }

/-- Units of the die are found to hold an uncorrectable word (R339). -/
def noteDieUe (us : List Nat) (s : State) : State :=
  { s with tal := { s.tal with dieUe := s.tal.dieUe ++ us.filter fun u => !s.tal.dieUe.contains u } }

/-- The die offsets of the format record and the quiet record; copy B of each lies 2 KiB behind copy A (R305; log 57). -/
def formatBase : Nat := 0x5000000
def quietBase : Nat := 0x5001000

/-- Copy `i` of a record with `n` bytes of fields, as generation and fields: none unless its CRC-32C, which ends it, matches
(R306). -/
def recordCopy (base n i : Nat) (m : List Host.Cell) : Option (Nat × List Byte) :=
  let b := memRead m (base + 0x800 * i) (n + 8)
  if fieldAt b (n + 4) 4 = crc32c (b.take (n + 4)) then some (fieldAt b n 4, b.take n) else none

/-- The fields of a record: those of the copy with a valid CRC and the higher generation (R306); `bad` names the copies that
cannot be read. -/
def readRecord (base n : Nat) (bad : Nat → Bool) (m : List Host.Cell) : Option (List Byte) :=
  let copy (i : Nat) : Option (Nat × List Byte) := if bad i then none else recordCopy base n i m
  match copy 0, copy 1 with
  | some a, some b => some (if a.1 ≤ b.1 then b.2 else a.2)
  | some a, none => some a.2
  | none, b => b.map fun c => c.2

/-- Write a record: to the copy with the lower generation, one above the other (R306). -/
def writeRecord (base : Nat) (fields : List Byte) (s : State) : State :=
  let gen (i : Nat) : Nat := ((recordCopy base fields.length i s.tal.die).map fun c => c.1 + 1).getD 0
  let b := fields ++ leBytes 4 (max (gen 0) (gen 1))
  dieWrite (base + if gen 0 ≤ gen 1 then 0 else 0x800) (b ++ leBytes 4 (crc32c b)) s

/-- The fields of a format record (R306; log 57). -/
def formatBytes (f : FormatRec) : List Byte :=
  leBytes 4 f.id ++ leBytes 1 f.size ++ zeros 3 ++ leBytes 4 f.nExt ++ zeros 4 ++ leBytes 8 f.firstExt ++ leBytes 8 f.nextBase

/-- The format record that these fields make up. -/
def formatOf (b : List Byte) : FormatRec :=
  { id := fieldAt b 0 4, size := fieldAt b 4 1, nExt := fieldAt b 8 4, firstExt := fieldAt b 16 8, nextBase := fieldAt b 24 8 }

/-- Write the format record, which is then in force (R306). -/
def writeFormat (f : FormatRec) (s : State) : State :=
  let t := writeRecord formatBase (formatBytes f) s
  { t with tal := { t.tal with fmt := some f } }

/-- QUIET_SEQ as the quiet record holds it, all ones for "none" (R337; log 57). -/
def quietBytes (q : Option Nat) : List Byte := leBytes 8 (q.getD (2 ^ 64 - 1))

/-- QUIET_SEQ on the die, none for the "none" value and where no copy is valid (R337). -/
def quietSeq (bad : Nat → Bool) (m : List Host.Cell) : Option Nat :=
  (readRecord quietBase 8 bad m).bind fun b => if fieldAt b 0 8 = 2 ^ 64 - 1 then none else some (fieldAt b 0 8)

/-- The "none" value is written before an extent opens (R337). -/
def clearQuiet (s : State) : State :=
  if (quietSeq (fun _ => false) s.tal.die).isSome then writeRecord quietBase (quietBytes none) s else s

/-- The seals that were asked for: those due by interval or count belong to the extents of the format they fell due in (R348). -/
def askedSeals (s : State) : List SealDue := s.sealer.due.filter fun d => decide (1 < d.reason)

/-- A staged RESHAPE takes effect (R307, R308); the first seal of its format covers from its FIRST_EXT (R348). -/
def applyReshape (s : State) : State :=
  match s.tal.reshape, s.tal.fmt with
  | some (size, n), some f =>
    writeFormat { f with id := (f.id + 1) % 2 ^ 32, size := size, nExt := n, firstExt := s.tal.nextExt, nextBase := s.tal.nextExt }
      { s with tal := { s.tal with reshape := none }, sealer := { s.sealer with coverFrom := s.tal.nextExt, due := askedSeals s } }
  | _, _ => s

end Sys2Proof.Machine
end

