-- ==== Sys2Proof/Machine/RlOps.lean ====
section
/-! DEFINITION. Operations of the Ridgeline ports that several families use: frames (R409), sending (R412), flooding with
duplicate suppression (R413), reception with the LSEQ check (R433), and what leaving UP does (R407, R408). -/

namespace Sys2Proof.Machine

/-- Port `p` of the state; the first port's entry stands in for a number beyond 2. -/
def portOf (s : State) (p : Nat) : Port := tabGet s.rl.ports p s.rl.ports[0]

/-- Change port `p`. -/
def modPort (p : Nat) (f : Port → Port) (s : State) : State :=
  { s with rl := { s.rl with ports := tabMod s.rl.ports p f } }

/-- Write a cairn of the moment, SOURCE.UNIT 1, while acquisition is RUNNING or DRAINING (R258, R259). -/
def cairnNow (code : Nat) (payload : List Byte) (s : State) : State := pushCairnIf code (nowU s) 1 0xFF payload s

/-! ## Frames (R409, R410) -/

/-- LEN of a frame whose body has `n` bytes, in 8-byte words (R409). -/
def rlLen (n : Nat) : Nat := max 3 ((20 + n + 7) / 8)

/-- A whole frame: 16-byte header, body, zero fill, CRC-32C over all before its last 4 bytes (R409). -/
def rlBytes (type lseq origin dest hop oseq : Nat) (body : List Byte) : List Byte :=
  let len := rlLen body.length
  let b := padTo (8 * len - 4)
    (leBytes 1 type ++ leBytes 1 len ++ leBytes 2 lseq ++ leBytes 2 origin ++ leBytes 2 dest ++ leBytes 2 hop ++ zeros 2 ++
      leBytes 4 oseq ++ body)
  b ++ leBytes 4 (crc32c b)

def frType (f : List Byte) : Nat := fieldAt f 0 1
def frLseq (f : List Byte) : Nat := fieldAt f 2 2
def frOrigin (f : List Byte) : Nat := fieldAt f 4 2
def frDest (f : List Byte) : Nat := fieldAt f 6 2
def frHop (f : List Byte) : Nat := fieldAt f 8 2
def frOseq (f : List Byte) : Nat := fieldAt f 12 4

/-- The body of a frame: what stands between the header and the CRC. -/
def frBody (f : List Byte) : List Byte := (f.drop 16).take (f.length - 20)

/-- Is this a frame of the TYPE given with a LEN in 3-16 and a good CRC (R409)? -/
def frGood (type : Nat) (f : List Byte) : Bool :=
  frType f == type && decide (3 ≤ fieldAt f 1 1) && decide (fieldAt f 1 1 ≤ 16) &&
    f.length == 8 * fieldAt f 1 1 && fieldAt f (f.length - 4) 4 == crc32c (f.take (f.length - 4))

/-- SEC[47:0], NS and FRAC from 16 bytes of a body (R410). -/
def bodyTime (b : List Byte) (o : Nat) : Time :=
  { sec := fieldAt b o 8 % 2 ^ 48, ns := fieldAt b (o + 8) 4, frac := fieldAt b (o + 12) 4 }

/-! ## Blocks (R405-R407, R434) -/

/-- The types of a control block (R406). -/
inductive BlockType where
  | idle | faultIdle | align | train | start
  deriving DecidableEq, Repr

/-- The type a control block's first payload byte names; none is a block error (R406). -/
def blockType (b : LineBlock) : Option BlockType :=
  match fieldAt b.bytes 0 1 with
  | 0xA1 => some .idle
  | 0xA2 => some .faultIdle
  | 0xA4 => some .align
  | 0xA7 => some .train
  | 0xB0 => some .start
  | _ => none

/-- The ALIGN block of a lane (R406). -/
def alignBlock (lane : Nat) : List Byte := leBytes 1 0xA4 ++ leBytes 1 lane ++ zeros 6

/-- Does block `k` of a lane, counted from an ALIGN block, carry ALIGN (R406)? -/
def alignDue (k : Nat) : Bool := k % 16384 == 0

/-- The eight payload bytes of the control block that port `p`'s transmitter sends while it sends no frame and no ALIGN is due:
FAULT_IDLE in safe state, TRAIN with PART `part` of the SERIAL while TRAINING, IDLE otherwise. -/
def restBlock (p part : Nat) (s : State) : List Byte :=
  match (portOf s p).state with
  | .up => if s.dev.safe then leBytes 1 0xA2 ++ leBytes 2 s.rl.addr ++ zeros 5 else leBytes 1 0xA1 ++ zeros 7
  | .training =>
    if s.dev.safe then leBytes 1 0xA2 ++ leBytes 2 s.rl.addr ++ zeros 5
    else leBytes 1 0xA7 ++ leBytes 1 (part % 4) ++ (serial.drop (4 * (part % 4))).take 4 ++ zeros 1 ++ leBytes 1 s.rl.restarts
  | _ => leBytes 1 0xA1 ++ zeros 7

/-- Block `k` of a lane of port `p` while no frame is sent. -/
def lineBlock (p lane k part : Nat) (s : State) : List Byte := if alignDue k then alignBlock lane else restBlock p part s

/-- The data blocks of bytes. -/
def dataBlocks : Nat → List Byte → List LineBlock
  | 0, _ => []
  | n + 1, bs => if bs = [] then [] else { control := false, bytes := padTo 8 bs } :: dataBlocks n (bs.drop 8)

/-- The blocks of a frame: START with its first seven bytes, then data blocks (R406). -/
def frameBlocks (f : List Byte) : List LineBlock :=
  { control := true, bytes := leBytes 1 0xB0 ++ f.take 7 } :: dataBlocks f.length (f.drop 7)

/-- The bytes that data blocks carry; ALIGN passes, any other control block, a block error too, ends the frame (R406, R408). -/
def rxData : List LineBlock → List Byte
  | [] => []
  | b :: bs =>
    if !b.control then padTo 8 b.bytes ++ rxData bs
    else if blockType b = some .align then rxData bs
    else []

/-- The bytes of the frame that received blocks hold, as far as it came; none where no START opens it (R406). -/
def rxBytes : List LineBlock → List Byte
  | [] => []
  | b :: bs =>
    if b.control ∧ blockType b = some .start then
      let f := padTo 7 (b.bytes.drop 1) ++ rxData bs
      f.take (8 * fieldAt f 1 1)
    else []

/-! ## Sending (R410-R412) -/

/-- The priority of a TYPE: a lower number is sent first (R410). -/
def frPriority (type : Nat) : Nat :=
  if type ≤ 0x0F then 1 else if type ≤ 0x1F then 0 else if type ≤ 0x2F then 2 else if type = 0x40 then 4 else 3

/-- The body a queued frame is sent with: the stamps of TIME, DELAY_REQ and DELAY_RESP are placed as it is sent (R411). -/
def stampBody (t : TxFrame) (s : State) : List Byte :=
  if t.type = 0x01 ∨ t.type = 0x02 then timeBytes s.tm.b ++ t.body.drop 16
  else if t.type = 0x03 then t.body.take 32 ++ timeBytes s.tm.b ++ t.body.drop 48
  else t.body

/-- Bytes whose last four, the CRC, are inverted (R408). -/
def invertCrc (f : List Byte) : List Byte := f.take (f.length - 4) ++ (f.drop (f.length - 4)).map fun b => ~~~b

/-- The bytes a queued frame goes out with. -/
def txBytes (lseq : Nat) (t : TxFrame) (s : State) : List Byte :=
  let f := rlBytes t.type lseq t.origin t.dest t.hop t.oseq (stampBody t s)
  if t.bad then invertCrc f else f

/-- How long a frame's bytes take at 50 Gbit/s, in 2^-8 samples (R405, R435). -/
def frameTime (bytes : Nat) : Nat := (512 * bytes + 4) / 5

/-- May a queued frame begin now? RECORD frames use at most three quarters of the port (R432). -/
def mayBegin (now : Nat) (q : Port) (t : TxFrame) : Bool := t.type != 0x40 || decide (q.recFree ≤ now)

/-- The frame of a queue that goes first: the lowest priority number, within one the earliest queued (R412). -/
def firstTx : List TxFrame → Option TxFrame
  | [] => none
  | t :: ts =>
    match firstTx ts with
    | none => some t
    | some u => some (if frPriority u.type < frPriority t.type then u else t)

/-- The transmitter of a port picks its next frame, where the one in progress has been sent (R412). Frames leave only in UP and
outside safe state. -/
def sendNext (p : Nat) (s : State) : State :=
  let q := portOf s p
  if q.state = .up ∧ !s.dev.safe ∧ q.txBusy ≤ nowU s then
    match firstTx (q.txq.filter (mayBegin (nowU s) q)) with
    | none => s
    | some t =>
      let f := txBytes q.lseqTx t s
      emitOut (.rlFrame p f) (modPort p (fun q => { q with
        txq := q.txq.erase t, txCur := f, txBusy := nowU s + frameTime f.length, txCnt := q.txCnt + 1,
        recFree := if t.type = 0x40 then nowU s + frameTime f.length * 4 / 3 else q.recFree,
        lseqTx := (q.lseqTx + 1) % 65536 }) s)
  else s

/-- Queue a frame on a port, to go out at once where the transmitter is free. A flooded frame queued for a port that is not UP
consumes an LSEQ value and is discarded (R412). -/
def txFrame (p : Nat) (flooded : Bool) (t : TxFrame) (s : State) : State :=
  if !s.dev.variant.ridgeline then s
  else if (portOf s p).state = .up ∧ !s.dev.safe then sendNext p (modPort p (fun q => { q with txq := q.txq ++ [t] }) s)
  else if flooded then modPort p (fun q => { q with lseqTx := (q.lseqTx + 1) % 65536 }) s
  else s

/-- The frames still queued on a port that carries no more frames are discarded; the flooded ones consume LSEQ values (R412). -/
def dropQueue (p : Nat) (s : State) : State :=
  modPort p (fun q => { q with
    txq := [], lseqTx := (q.lseqTx + (q.txq.filter fun t => 0x10 ≤ t.type ∧ t.type ≠ 0x40).length) % 65536 }) s

/-- The transmitters go on for a tick. -/
def txTick (s : State) : State := (List.range 3).foldl (fun s p => sendNext p s) s

/-- Send a link-local frame (R410): ORIGIN is the unit's own address, OSEQ 0. -/
def sendLocal (p type : Nat) (body : List Byte) (s : State) : State :=
  txFrame p false { type := type, origin := s.rl.addr, dest := 0xFFFF, hop := 0, oseq := 0, body := body, bad := false } s

/-- Send a frame with the header fields given on every port but `except`. -/
def floodOn (except : Option Nat) (type origin dest hop oseq : Nat) (body : List Byte) (s : State) : State :=
  (List.range 3).foldl (fun s p =>
    if except = some p then s
    else txFrame p true { type := type, origin := origin, dest := dest, hop := hop, oseq := oseq, body := body, bad := false } s) s

/-- Record an origin's OSEQ with the tick of its frame (R413). -/
def recordOrigin (origin oseq : Nat) (s : State) : State :=
  { s with rl := { s.rl with
      origins := (s.rl.origins.filter fun e => e.1 ≠ origin) ++ [(origin, oseq, s.tm.tick)] } }

/-- Create a flooded frame (R413): it takes the unit's next OSEQ, which is recorded so that a copy that returns round a
ring is dropped (R424; log 18). -/
def originate (type dest : Nat) (body : List Byte) (s : State) : State :=
  let n := s.rl.oseq
  let s := recordOrigin s.rl.addr n { s with rl := { s.rl with oseq := (n + 1) % 2 ^ 32 } }
  floodOn none type s.rl.addr dest 0 n body s

/-- Create a discovery frame: OSEQ 0 (R413). -/
def originateDisc (type : Nat) (body : List Byte) (s : State) : State := floodOn none type s.rl.addr 0xFFFF 0 0 body s

/-- Forward a received frame on every other UP port, with HOP incremented (R413); `bad` where it has been found in error while it
was being forwarded cut-through, so that it ends with an inverted CRC there (R408). -/
def forwardAs (bad : Bool) (p : Nat) (f : List Byte) (s : State) : State :=
  if frHop f = 0xFFFF then s
  else
    (List.range 3).foldl (fun s q =>
      if q = p ∨ (portOf s q).state ≠ .up then s
      else
        txFrame q true
          { type := frType f, origin := frOrigin f, dest := frDest f, hop := frHop f + 1, oseq := frOseq f, body := frBody f,
            bad := bad } s) s

/-- Forward a good received frame. -/
def forward (p : Nat) (f : List Byte) (s : State) : State := forwardAs false p f s

/-! ## Reception -/

/-- An LSEQ gap found on reception (R433). -/
def lseqGap (p gap : Nat) (s : State) : State :=
  let q := portOf s p
  let now := t0Of s.tm.a
  let down := q.downAt.getD now
  let up := if q.downAt.isSome then q.upAt else now
  let lost := if q.restarted then 0xFFFFFFFF else gap
  let s := modPort p (fun q => { q with lost := q.lost + BitVec.ofNat 32 gap }) s
  let s := raise 12 9 s
  cairnNow 0x000A (leBytes 1 p ++ zeros 3 ++ leBytes 4 lost ++ t0Bytes down ++ t0Bytes up) s

/-- What every good received frame does: it counts, and its LSEQ is checked against the one expected (R412, R433). -/
def rxFrame (p : Nat) (f : List Byte) (s : State) : State :=
  let gap := match (portOf s p).lseqRx with
    | none => 0
    | some e => (frLseq f + 65536 - e) % 65536
  let s := if gap = 0 then s else lseqGap p gap s
  modPort p (fun q => { q with
    rxCnt := q.rxCnt + 1, lseqRx := some ((frLseq f + 1) % 65536), downAt := none, restarted := false }) s

/-- May port `p` receive a frame of this TYPE (R407, R409)? -/
def rxOk (p type : Nat) (f : List Byte) (s : State) : Bool :=
  s.dev.variant.ridgeline && decide ((portOf s p).state = .up) && frGood type f

/-- Is an OSEQ newer than the last one applied from its ORIGIN (R413)? -/
def newerOseq (origin oseq : Nat) (s : State) : Bool :=
  match s.rl.origins.find? (fun e => e.1 == origin) with
  | none => true
  | some e => let d := (oseq + 2 ^ 32 - e.2.1) % 2 ^ 32; decide (1 ≤ d ∧ d < 2 ^ 31)

/-- Is this the TYPE of a flooded frame (R410)? -/
def isFlooded (type : Nat) : Bool :=
  decide (type ∈ [0x10, 0x11, 0x12, 0x20, 0x30, 0x31, 0x50, 0x51, 0x52])

/-- The key of a discovery frame: the SERIAL in the body of a DISCOVER_REPLY or an ASSIGN (R413). -/
def discKey (type : Nat) (body : List Byte) : List Byte := if type = 0x50 then [] else (body.drop 4).take 16

/-- Would this unit forward a frame with this header (R413)? -/
def forwards (f : List Byte) (s : State) : Bool :=
  isFlooded (frType f) &&
    (if 0x50 ≤ frType f then
      decide (s.rl.session < fieldAt (frBody f) 0 4) ||
        (fieldAt (frBody f) 0 4 == s.rl.session && !decide ((frType f, discKey (frType f) (frBody f)) ∈ s.rl.seen))
    else newerOseq (frOrigin f) (frOseq f) s)

/-- A frame found in error is dropped. One that was being forwarded cut-through, its header having arrived, ends downstream with
an inverted CRC (R408); its OSEQ and key are not recorded (DESIGN CHOICE, log 18). -/
def cutThrough (p : Nat) (f : List Byte) (s : State) : State :=
  let n := fieldAt f 1 1
  if 16 ≤ f.length ∧ 3 ≤ n ∧ n ≤ 16 ∧ forwards (padTo (8 * n) f) s then forwardAs true p (padTo (8 * n) f) s else s

/-- A frame that an UP port drops is counted in RL_CRC_ERR (R409). -/
def rxBad (p : Nat) (f : List Byte) (s : State) : State :=
  if s.dev.variant.ridgeline ∧ (portOf s p).state = .up then
    cutThrough p f (modPort p (fun q => { q with crcErr := q.crcErr + 1 }) s)
  else s

/-- A received frame goes on to `act`, or is dropped (R409). -/
def rxTake (p type : Nat) (f : List Byte) (act : State → State) (s : State) : State :=
  if rxOk p type f s then act (rxFrame p f s) else rxBad p f s

/-- A received link-local frame: PEER_ADDR is its ORIGIN (R438), then `act`. -/
def rxLocal (p type : Nat) (f : List Byte) (act : List Byte → State → State) (s : State) : State :=
  rxTake p type f (fun s => act (frBody f) (modPort p (fun q => { q with peerAddr := frOrigin f }) s)) s

/-- A frame of an origin has been seen: the entry's 1 s starts afresh (R413). -/
def seeOrigin (origin : Nat) (s : State) : State :=
  { s with rl := { s.rl with
      origins := s.rl.origins.map fun e => if e.1 = origin then (e.1, e.2.1, s.tm.tick) else e } }

/-- A received flooded frame (R413): on first receipt it is recorded, forwarded, and applied when DEST names this unit or
every unit; a copy that is not newer is only seen. -/
def rxFlood (p type : Nat) (f : List Byte) (act : List Byte → State → State) (s : State) : State :=
  rxTake p type f (fun s =>
    if newerOseq (frOrigin f) (frOseq f) s then
      let s := forward p f (recordOrigin (frOrigin f) (frOseq f) s)
      if frDest f = 0xFFFF ∨ (frDest f = s.rl.addr ∧ s.rl.addr ≠ 0) then act (frBody f) s else s
    else seeOrigin (frOrigin f) s) s

/-! ## References of the clock synthesis (R445, R451, R452) -/

/-- Is source `c` good by its monitor (R445)? -/
def refGood (c : Nat) (s : State) : Bool := s.pll.good.testBit c

/-- The sources that may end a holdover: the lost one, and REF_ALT unless it is itself the lost one (R451, R452). -/
def mayQualify (src : Nat) (s : State) : Bool :=
  if s.pll.altInUse ∧ !s.pll.switching then src == s.pll.ref
  else src == s.pll.refSel || (src == s.pll.refAlt && s.pll.refAlt != 0xFF)

/-- Start qualifying a good source of the holdover, the selected one first (R451 step 3, R452). -/
def startQualify (s : State) : State :=
  let c := if mayQualify s.pll.refSel s ∧ refGood s.pll.refSel s then some s.pll.refSel
    else if mayQualify s.pll.refAlt s ∧ refGood s.pll.refAlt s then some s.pll.refAlt
    else if mayQualify s.pll.ref s ∧ refGood s.pll.ref s then some s.pll.ref
    else none
  { s with pll := { s.pll with qualifying := c.map fun x => (x, s.tm.tick) } }

/-- A loop that tracks the reference, or with `free` also one that runs free, enters holdover (R451, R453). -/
def holdLoop (free : Bool) (l : Loop) : Loop :=
  match l.state with
  | .locked => { l with state := .holdover }
  | .acquiring => { l with state := .holdover }
  | .freeRun => if free then { l with state := .holdover } else l
  | _ => l

/-- Is a loop in HOLDOVER? -/
def inHoldover (s : State) : Bool := s.pll.s.state == .holdover || s.pll.l.state == .holdover

/-- AX5 in one second of samples. -/
def secondAx5 : Nat := 2500000000

/-- The sum of a reading over the instants of AX5 from `a` to `b`, from the readings held, newest first: each stands until the
next, and before the first the offset is 0. -/
def readingSum (a : Nat) : Nat → List (Nat × Int) → Int
  | _, [] => 0
  | b, (t, v) :: l =>
    if b ≤ t then readingSum a b l
    else if t ≤ a then v * ((b - a : Nat) : Int)
    else v * ((b - t : Nat) : Int) + readingSum a t l

/-- The average of the tuning word over the last second, or over the last second in which the loop was LOCKED (R448, R451), in
ppb, from the DCO monitor's readings (DESIGN CHOICE, log 77). -/
def averageWord (s : State) : Int :=
  let b := if s.pll.s.state = .locked then s.tm.ax5 else s.pll.lockedTo
  readingSum (b - secondAx5) b s.pll.readings / (secondAx5 : Int)

/-- The DCO monitor's readings with one more; those a second old or more are gone but the newest of them. -/
def addReading (now : Nat) (v : Int) (l : List (Nat × Int)) : List (Nat × Int) :=
  (now, v) :: (l.filter fun x => now < x.1 + secondAx5) ++ (l.filter fun x => x.1 + secondAx5 ≤ now).take 1

/-- Does some loop track the reference? -/
def tracking (s : State) : Bool :=
  (s.pll.s.state == .locked || s.pll.s.state == .acquiring) || (s.pll.l.state == .locked || s.pll.l.state == .acquiring)

/-- Both loops enter holdover with their frozen word (R451 step 1). -/
def enterHoldover (free : Bool) (word : Int) (s : State) : State :=
  startQualify { s with pll := { s.pll with s := holdLoop free s.pll.s, l := holdLoop free s.pll.l, holdWord := word } }

/-- A source has stopped being good. When it is the one in use both loops enter holdover with the word given; when it lapses
under qualification, another good source that may end the holdover qualifies (R451, R452). F7 is the caller's (`settleRef`). -/
def refStops (src : Nat) (word : Int) (s : State) : State :=
  let s := { s with pll := { s.pll with
    good := withoutBit src s.pll.good,
    qualifying := match s.pll.qualifying with
      | some (q, t) => if q = src then none else some (q, t)
      | none => none } }
  if src = s.pll.ref ∧ tracking s then
    raise 13 4 (enterHoldover false word { s with pll := { s.pll with
      refLosses := (s.pll.refLosses + 1) % 256, switching := false } })
  else if inHoldover s ∧ s.pll.qualifying = none then startQualify s
  else s

/-! ## Leaving UP (R407, R408, R433) -/

/-- The port stops being good as a time B source (R419). -/
def portBad (p : Nat) (s : State) : State := modPort p (fun q => { q with good := false }) s

/-- An outage begins: T_DOWN is time A now, and the port is not good (R433, R434). -/
def portOutage (p : Nat) (s : State) : State :=
  let now := t0Of s.tm.a
  modPort p (fun q => { q with good := false, downAt := some (q.downAt.getD now) }) s

/-- The port leaves UP for another state: RLx_DOWN, the link delay starts afresh at the next UP, and its recovered clock, missing
from now on, stops being good (R407, R417, R439, R445, R451). -/
def leaveUp (p : Nat) (dst : PortState) (s : State) : State :=
  if (portOf s p).state = .up then
    let s := raise 12 (3 + p) (portOutage p s)
    let s := modPort p (fun q => { q with state := dst, samples := [] }) (dropQueue p s)
    refStops (2 + p) (averageWord s) s
  else modPort p (fun q => { q with state := dst, good := false }) s

/-- Safe-state entry at a port (R434): the transmitter ends the frame in progress with an inverted CRC, sends no more frames, and
sends FAULT_IDLE where it is enabled; a port that was UP has an outage. -/
def safePort (p : Nat) (s : State) : State :=
  let q := portOf s p
  if !s.dev.variant.ridgeline then s
  else
    let s :=
      if q.state = .up then
        let s := if nowU s < q.txBusy then emitOut (.rlCut p (invertCrc q.txCur)) s else s
        portOutage p (dropQueue p (modPort p (fun q => { q with txBusy := min q.txBusy (nowU s) }) s))
      else s
    if q.state = .up ∨ q.state = .training then emitOut (.rlBlock p (restBlock p 0 s)) s else s

/-- Disable a port as R434 does: its launch queue is discarded, G12.13 for each entry (R426). -/
def disablePort (p : Nat) (s : State) : State :=
  let n := (portOf s p).launch.length
  let s := leaveUp p .disabled s
  let s := modPort p (fun q => { q with launch := [], missed := (q.missed + n) % 65536 }) s
  (List.range n).foldl (fun s _ => raise 12 13 s) s

end Sys2Proof.Machine
end

