-- ==== Sys2Proof/Machine/Command.lean ====
section
/-! DEFINITION. Operations of the mailboxes and circular windows: how a command runs and completes (R499-R509), how a
window is claimed, filled and drained (R514-R519), and the restart of the controller (R521-R524). -/

namespace Sys2Proof.Machine

/-! ## Status codes (R507) -/

def stOk : Nat := 0
def stBusy : Nat := 1
def stBadArg : Nat := 2
/-- A unit the variant lacks, whatever present units the command names beside it (R12, R13). -/
def stUnsupported : Nat := 3
def stState : Nat := 4
def stLocked : Nat := 5
def stLate : Nat := 6
def stSecurity : Nat := 7
def stInternal : Nat := 8
def stPending : Nat := 9

/-- How a command completes: STATUS, DETAIL, and the response bytes. -/
structure Reply where
  status : Nat
  detail : Nat
  body   : List Byte
  deriving DecidableEq, Repr

/-- A completion with a status and the response of R501 for it: zeros. -/
def fail (st : Nat) : Reply := { status := st, detail := 0, body := [] }

/-- A completion with OK and a response. -/
def okWith (body : List Byte) : Reply := { status := stOk, detail := 0, body := body }

/-- A completion with PENDING_EPOCH and a response. -/
def pendingWith (body : List Byte) : Reply := { status := stPending, detail := 0, body := body }

/-! ## The scratchpad (R495, R496) -/

/-- A write of words `lo` to `hi` of a memory removes an injected corruption of them (R587). -/
def healWords (mem lo hi : Nat) (s : State) : State :=
  { s with mem := { s.mem with corrupt := s.mem.corrupt.filter fun c => !(c.1 == mem && decide (lo ≤ c.2.1 ∧ c.2.1 ≤ hi)) } }

/-- Write scratchpad bytes from an offset on; its protection word is 8 bytes (R579). -/
def scratchWrite (o : Nat) (bs : List Byte) (s : State) : State :=
  healWords 2 (o / 8) ((o + bs.length - 1) / 8)
    { s with summit := { s.summit with scratchpad := memWrite s.summit.scratchpad o bs } }

/-- Read scratchpad bytes. -/
def scratchRead (o n : Nat) (s : State) : List Byte := memRead s.summit.scratchpad o n

/-! ## Circular windows (R511-R519) -/

def cwOf (s : State) (k : Nat) : Window := tabGet s.cw k s.cw[0]

/-- SIZE in bytes. -/
def cwSize (w : Window) : Nat := 4096 * w.size

/-- Unread bytes of a window (R514). -/
def cwUnread (w : Window) : Nat := (w.prod - w.cons).toNat

/-- The scratchpad offsets of `n` ring bytes from position `p`, written with `bs`. -/
def ringWrite (w : Window) (p : Nat) (bs : List Byte) (s : State) : State :=
  let o := p % cwSize w
  let k := cwSize w - o
  let s := scratchWrite (4096 * w.base + o) (bs.take k) s
  if bs.length ≤ k then s else scratchWrite (4096 * w.base) (bs.drop k) s

/-- `n` ring bytes of window `w` from position `p`. -/
def ringRead (w : Window) (p n : Nat) (s : State) : List Byte :=
  (List.range n).map fun i => memByte s.summit.scratchpad (4096 * w.base + (p + i) % cwSize w)

/-- Claim window `k` for mailbox `m` (R515): positions 0, DONE clear, the transfer length set. -/
def cwClaim (k m opcode : Nat) (host : Bool) (len : Nat) (out : List Byte) (s : State) : State :=
  modCw k (fun w => { w with
    claimed := true, hostProduces := host, mb := m, opcode := opcode, done := false, prod := 0, cons := 0,
    len := BitVec.ofNat 32 len, since := s.tm.tick, out := out, inn := [] }) s

/-- How many bytes the device produces now: what fits, at least 64 at a time except the last (R516). -/
def cwStep (w : Window) : Nat :=
  let n := min w.out.length (cwSize w - cwUnread w)
  if n < 64 ∧ n < w.out.length then 0 else n

/-- The device produces into free space and advances PROD (R516); CWk_READY per R519. -/
def cwProduce (k : Nat) (s : State) : State :=
  let w := cwOf s k
  let n := cwStep w
  if n = 0 then s
  else
    let s := ringWrite w w.prod.toNat (w.out.take n) s
    let last := decide (n = w.out.length)
    let s := modCw k (fun w => { w with prod := w.prod + BitVec.ofNat 32 n, since := s.tm.tick, out := w.out.drop n, done := w.done || last }) s
    if last ∨ (cwUnread w < cwSize w / 2 ∧ cwSize w / 2 ≤ cwUnread w + n) then raise 0 (16 + k) s else s

/-- The device consumes what the host has produced and advances CONS (R516); CWk_READY per R519. -/
def cwConsume (k : Nat) (s : State) : State :=
  let w := cwOf s k
  let n := cwUnread w
  if n = 0 then s
  else
    let bs := ringRead w w.cons.toNat n s
    let fin := decide (w.len.toNat ≤ w.inn.length + n)
    let s := modCw k (fun w => { w with cons := w.cons + BitVec.ofNat 32 n, since := s.tm.tick, inn := w.inn ++ bs, done := w.done || fin }) s
    if cwSize w - n < cwSize w / 2 then raise 0 (16 + k) s else s

/-! ## Completion (R499 step 4, R501, R509) -/

def mbOf (s : State) (m : Nat) : Mailbox := tabGet s.mb m s.mb[0]

/-- MBm_TIME: microseconds from the doorbell, saturating (R497); AX5 counts 2,500 of its steps in each (R383). -/
def mbMicros (q : Mailbox) (s : State) : Word := BitVec.ofNat 32 (min 0xFFFFFFFF ((s.tm.ax5 - q.rung) / 2500))

/-- The claims of mailbox `m` end (R515). -/
def cwRelease (m : Nat) (s : State) : State :=
  (List.range 7).foldl (fun s k =>
    modCw k (fun w => if w.claimed ∧ w.mb = m then { w with claimed := false, out := [] } else w) s) s

/-- Send the response of a tunnelled command in three TUNNEL_RESP segments (R428). -/
def sendTunnelResp (t : TunnelFrom) (status : Nat) (body : List Byte) (s : State) : State :=
  let b := padTo 288 (body.take 240)
  (List.range 3).foldl (fun s i =>
    originate 0x31 t.origin
      (leBytes 2 t.tun ++ leBytes 1 i ++ leBytes 1 3 ++ leBytes 1 status ++ zeros 3 ++ (b.drop (96 * i)).take 96) s) s

/-- Complete the command of mailbox `m` (R499 steps 4 and 5): response, MBm_DETAIL, MBm_TIME, STATUS, DONE, MBm_DONE; a
tunnelled command returns its mailbox to IDLE instead (R509). -/
def mbComplete (m : Nat) (r : Reply) (s : State) : State :=
  let q := mbOf s m
  let us := mbMicros q s
  let s := cwRelease m s
  match q.tunnel with
  | none =>
    let s := scratchWrite (256 * m) (padTo 256 r.body) s
    let s := modMb m (fun q => { q with
      state := .done, status := r.status, detail := r.detail, time := us, keyClass := 0, key := 0 }) s
    raise 0 m s
  | some t =>
    let s := modMb m (fun q => { q with
      state := .idle, status := r.status, detail := r.detail, time := us, keyClass := 0, key := 0, tunnel := none }) s
    sendTunnelResp t r.status r.body s

/-- Is mailbox `m` RUNNING a command with this opcode? -/
def mbRuns (m opcode : Nat) (s : State) : Bool := (mbOf s m).state == .running && (mbOf s m).opcode == opcode

/-- Complete the command of mailbox `m` if it is still RUNNING with this opcode; its effect ends without a reply otherwise. -/
def finishMb (m opcode : Nat) (r : Reply) (s : State) : State := if mbRuns m opcode s then mbComplete m r s else s

/-- A command's meaning from its request: what it does, and how it completes, none while it goes on. -/
abbrev Cmd := List Byte → State → State × Option Reply

/-- Run the command of mailbox `m` when it is RUNNING with this opcode; otherwise nothing happens (log 4). -/
def command (m opcode : Nat) (f : Cmd) (s : State) : State :=
  if mbRuns m opcode s then
    match f (mbOf s m).req s with
    | (s, none) => s
    | (s, some r) => mbComplete m r s
  else s

/-- A command that changes nothing and completes with a status. -/
def quit (st : Nat) (s : State) : State × Option Reply := (s, some (fail st))

/-- A command that completes BUSY with DETAIL CW_CLAIMED (R515). -/
def quitClaimed (s : State) : State × Option Reply := (s, some { status := stBusy, detail := 0x0005, body := [] })

/-- A claimed window is filled with a transfer the device produces: the command completes with its response once the last byte is
produced (R516), else its response waits. -/
def fillTransfer (k m : Nat) (data resp : List Byte) (s : State) : State :=
  let s := modMb m (fun q => { q with resp := resp }) (modCw k (fun w => { w with out := data, since := s.tm.tick }) s)
  let s := cwProduce k s
  if (cwOf s k).out = [] then
    mbComplete m (okWith resp) (modCw k (fun w => { w with done := true }) s)
  else s

/-- A transfer the device produces, of a length known at the claim. -/
def startTransfer (k m opcode : Nat) (data resp : List Byte) (s : State) : State :=
  fillTransfer k m data resp (cwClaim k m opcode false data.length data s)

/-! ## Restart of the controller (R521-R524) -/

/-- What a command ended before its completion leaves behind: nothing goes on in its name (R523). -/
def cancelLong (m : Nat) (s : State) : State :=
  { s with
    mem := { s.mem with
      march := s.mem.march.filter fun c => c.mb ≠ m, tests := s.mem.tests.filter fun t => t.1 ≠ m },
    sealer := { s.sealer with
      fw := if s.sealer.fw = some m then none else s.sealer.fw,
      attest := match s.sealer.attest with
        | some a => if a.mb = m then none else some a
        | none => none,
      due := s.sealer.due.map fun d => if d.forMb = some m then { d with forMb := none } else d,
      signing := s.sealer.signing.map fun d => { d with mbs := d.mbs.filter (· ≠ m) } },
    rl := { s.rl with
      tunnels := s.rl.tunnels.filter fun t => t.mb ≠ m,
      run := s.rl.run.map fun r => if r.mb = some m then { r with live := false, mb := none } else r,
      older := s.rl.older.filter fun r => r.mb != some m },
    fab := { s.fab with orders := s.fab.orders.map fun o => match o.2 with
      | .disarm k b => (o.1, .disarm k (if b = some m then none else b))
      | .arm k f l x b => (o.1, .arm k f l x (if b = some m then none else b))
      | .pend _ _ => o },
    pods := s.pods.map fun p => { p with onFor := p.onFor.filter (· ≠ m) } }

/-- Every mailbox in the state given completes with INTERNAL and a DETAIL (R521 step 2, R524). -/
def abortAll (st : MbState) (detail : Nat) (s : State) : State :=
  (List.range 8).foldl (fun s m =>
    if (mbOf s m).state = st then mbComplete m { status := stInternal, detail := detail, body := [] } (cancelLong m s)
    else s) s

/-- Is Summit firmware running? -/
def firmwareUp (s : State) : Bool := s.summit.state == .running

/-- Firmware kicks its watchdog at ticks of its own choosing (R521, R525; log 7). -/
def kickTick (s : State) : State :=
  if firmwareUp s ∧ Config.kicks s.tm.tick then
    { s with summit := { s.summit with heartbeat := s.summit.heartbeat + 1, lastKick := s.tm.tick } }
  else s

/-- The instants of AX5 of the restarts that began within the last 10 s (R524). -/
def recentRestarts (s : State) : List Nat := s.summit.recent.filter fun t => decide (s.tm.ax5 ≤ t + 25000000000)

/-- The firmware's own duties pause: load buffers, telemetry, descriptor reads and calibration in progress (R522). -/
def pauseDuties (s : State) : State :=
  { s with
    seqs := s.seqs.map (fun q => { q with buffer := none }),
    pods := s.pods.map (fun p => { p with
      telemBusy := false, waiting := p.waiting || p.state == .identify,
      cal := { p.cal with shadow := none, shadowDone := false, shadowRes := none } }) }

/-- The restart of R521 after a lockstep (false) or watchdog (true) fault, steps 1 and 2; the third within 10 s halts the
controller (R524). The firmware's own duties pause (R522). -/
def restartSummit (watchdog : Bool) (s : State) : State :=
  let recent := recentRestarts s ++ [s.tm.ax5]
  let s := { s with summit := { s.summit with
    state := .restarting, restarts := min 255 (s.summit.restarts + 1), lastCause := watchdog, recent := recent } }
  let s := raise 0 11 s
  let s := abortAll .running 0x0002 s
  let s := pauseDuties s
  if 3 ≤ recent.length then
    let s := raise 0 13 { s with summit := { s.summit with state := .halted } }
    abortAll .queued 0x0003 s
  else s

end Sys2Proof.Machine
end

