-- ==== Sys2Proof/Machine/ArmOps.lean ====
section
/-! DEFINITION. Arming and disarming of the sequencers, and the conversion of targets on time A and time B to instants
(R219-R225, R391). -/

namespace Sys2Proof.Machine

def seqOf (s : State) (j : Nat) : Seq := tabGet s.seqs j s.seqs[0]

/-- The program sequencer `j` has in an image, none where it is absent. -/
def progIn (v : Variant) (i : Image) (j : Nat) : Option Program := if v.hasSeq j then tabGet i.progs j none else none

/-- Is sequencer `j` loaded in the active image? A contained one is UNLOADED until it rejoins (R579). -/
def loadedActive (j : Nat) (s : State) : Bool := (progIn s.dev.variant s.cfg.active j).isSome && !unitHeld j s

def loadedStaged (j : Nat) (s : State) : Bool := (progIn s.dev.variant s.cfg.staged j).isSome

/-- CHAIN_GROUP of sequencer `j` in the active image, 0 for none (R208). -/
def chainGroup (j : Nat) (s : State) : Nat := ((progIn s.dev.variant s.cfg.active j).map fun p => p.group).getD 0

/-! ## Times and instants -/

/-- The first instant of a span at which its time equals a target in 2^-32 ns, rounded up (R391). -/
def spanInstant (g : Seg) (target : Nat) : Nat :=
  let d := target - timeFlat g.time
  g.start + (if g.incr = 0 then 0 else (2560 * d + g.incr - 1) / g.incr)

/-- The exact instant at which a time reached a target by continuous motion, searched from the newest span (R391): none
where the last span was opened by a step that jumped over the target (R386). -/
def reachInstant : List Seg → Nat → Option Nat
  | [], _ => some 0
  | g :: gs, target =>
    if timeFlat g.time < target then some (spanInstant g target)
    else if gs = [] then some g.start
    else
      match gs.head? with
      | none => some g.start
      | some p =>
        if g.step then
          if timeFlat p.time + p.incr * (g.start - p.start) / 2560 < target then none else reachInstant gs target
        else reachInstant gs target

/-- A time of seconds and nanoseconds as one number of 2^-32 ns. -/
def flatOf (sec ns : Nat) : Nat := (sec * 1000000000 + ns) * 2 ^ 32

/-- Has time B reached a target (R389)? -/
def timeBReached (sec ns : Nat) (s : State) : Bool := decide (s.tm.b.sec * 1000000000 + s.tm.b.ns ≥ sec * 1000000000 + ns)

/-! ## Disarming (R224) -/

/-- A disarm returns a sequencer to IDLE in S0 with its flag cleared; TRVj_DISARMED when it was PENDING, ARMED or DONE.
Without an active program it is UNLOADED (R207). -/
def disarmNow (j : Nat) (s : State) : State :=
  match (seqOf s j).mode with
  | .unloaded => s
  | .idle => s
  | _ =>
    let m := if loadedActive j s then SeqMode.idle else SeqMode.unloaded
    raise 7 (8 * j + 3) (modSeq j (fun q =>
      { q with mode := m, state := 0, flag := false, wait := none, doneFrom := none, stepped := none }) s)

/-- Every sequencer is disarmed, and no order waits. -/
def disarmAll (s : State) : State :=
  let s := (List.range 4).foldl (fun s j => disarmNow j s) s
  { s with fab := { s.fab with orders := [] } }

/-- The first sample of the first vector evaluated from now on: no sample of this tick has been evaluated. -/
def nextVector (s : State) : Nat := 16 * ((s.tm.ax5 + 15) / 16)

/-- An order takes effect at the start of a sample. -/
def orderAt (k : Nat) (o : SeqOrder) (s : State) : State :=
  { s with fab := { s.fab with orders := s.fab.orders ++ [(k, o)] } }

/-- A disarm of the sequencers of a mask: with the next vector while the fabric evaluates, else at once (R224). -/
def disarmMask (m : Nat) (s : State) : State :=
  if m = 0 then s
  else if s.fab.running then orderAt (nextVector s) (.disarm m none) s
  else (bitsSet 4 m).foldl (fun s j => disarmNow j s) s

/-- A disarm of one sequencer. -/
def disarmSeq (j : Nat) (s : State) : State := disarmMask (2 ^ j) s

/-! ## Arming (R219-R221) -/

/-- The first intake sample of the epoch being opened, while DRAINING (R219). -/
def intakeSample (s : State) : Nat :=
  match s.ret.intakeRow, s.ret.boundary with
  | some r, _ => 256 * r
  | none, some b => if s.dev.acq == .draining then 256 * (b.row + b.g) else 0
  | none, none => 0

/-- Has an arm of sequencer `j` no effect because it is ARMED or PENDING already (R219)? -/
def armBusy (j : Nat) (s : State) : Bool := (seqOf s j).mode == .armed || (seqOf s j).mode == .pending

/-- Will sequencer `j` be ARMED or PENDING once the orders before the next one have taken effect? -/
def busyAhead (j : Nat) (s : State) : Bool :=
  s.fab.orders.foldl (fun b o => match o.2 with
    | .disarm m _ => b && !m.testBit j
    | .arm m _ _ _ _ => b || m.testBit j
    | .pend i _ => b || i == j) (armBusy j s)

/-- Sequencer `j` is ARMED with its first step in sample `first` or later: S0, flag cleared. A contained sequencer is not
loaded (R566). -/
def armNow (j first : Nat) (late : Bool) (s : State) : State :=
  if armBusy j s ∨ !loadedActive j s then s
  else
    let s := modSeq j (fun q => { q with
      mode := .armed, state := 0, flag := false, late := late, dropped := false, wait := none, doneFrom := none,
      stepped := none, first := max first (intakeSample s) }) s
    raise 7 (8 * j) s

/-- An arm of the sequencers of a mask takes effect; one that acts late may raise ARM_MISSED (R221). One already ARMED or
PENDING is left as it is (R219). -/
def armAll (m first : Nat) (late missed : Bool) (s : State) : State :=
  (bitsSet 4 m).foldl (fun s j =>
    if armBusy j s then s
    else
      let s := armNow j first late s
      if missed then raise 7 (8 * j + 7) s else s) s

/-- The sample at whose start an arm with its first step in `first` takes effect: not before a disarm that it follows. -/
def armSample (m first : Nat) (s : State) : Nat :=
  s.fab.orders.foldl (fun k o => match o.2 with
    | .disarm d _ => if d &&& m = 0 then k else max k o.1
    | _ => k) first

/-- Arm the sequencers of a mask, from sample `first` on while the fabric evaluates, else at once. -/
def armMask (m first : Nat) (late missed : Bool) (mb : Option Nat) (s : State) : State :=
  if m = 0 then s
  else if s.fab.running then orderAt (armSample m first s) (.arm m first late missed mb) s
  else armAll m first late missed s

/-- A pending arm comes true. -/
def armPending (j first : Nat) (s : State) : State :=
  if (seqOf s j).mode = .pending then
    let s := modSeq j (fun q => { q with
      mode := .armed, state := 0, flag := false, wait := none, doneFrom := none, stepped := none,
      first := max first (intakeSample s) }) s
    raise 7 (8 * j) s
  else s

/-- Sequencer `j` is PENDING with its wait. -/
def pendNow (j : Nat) (w : ArmWait) (s : State) : State :=
  if armBusy j s then s
  else modSeq j (fun q => { q with
    mode := .pending, state := 0, flag := false, late := false, dropped := false, wait := some w, doneFrom := none }) s

/-- Leave sequencer `j` PENDING, with the next vector while the fabric evaluates. -/
def pendSeq (j : Nat) (w : ArmWait) (s : State) : State :=
  if s.fab.running then orderAt (nextVector s) (.pend j w) s else pendNow j w s

/-- A discarded arm: DROPPED and TRVj_ARM_MISSED (R220). -/
def dropArm (j : Nat) (s : State) : State :=
  raise 7 (8 * j + 7) (modSeq j (fun q => { q with dropped := true, late := false }) s)

/-- Would a scheduler or chain arm be discarded: the sequencer is not loaded, or the device IDLE or FROZEN (R220)? -/
def armDiscarded (j : Nat) (s : State) : Bool := !(loadedActive j s && acquiring s)

/-- Apply a DISARM of a group (R229, R423). -/
def chainDisarm (group : Nat) (s : State) : State :=
  disarmMask (maskOf ((List.range 4).filter fun j => loadedActive j s && chainGroup j s == group)) s

/-- Every ARMED ONE_SHOT sequencer of a group but `except` goes DONE from a sample on, the earlier of two (R222). -/
def groupDone (group : Nat) (except : Option Nat) (sample : Nat) (byFrame : Bool) (s : State) : State :=
  if group = 0 then s
  else
    (List.range 4).foldl (fun s j =>
      match progIn s.dev.variant s.cfg.active j with
      | none => s
      | some p =>
        if p.group = group ∧ p.oneShot ∧ except ≠ some j ∧ (seqOf s j).mode = .armed then
          modSeq j (fun q => { q with doneFrom := match q.doneFrom with
            | some (n, b) => if sample < n then some (sample, byFrame) else some (n, b)
            | none => some (sample, byFrame) }) s
        else s) s

end Sys2Proof.Machine
end

