-- ==== Sys2Proof/Machine/Sampling.lean ====
section
/-! DEFINITION. State sampling: the levels of a pod at an instant, and how a clock edge becomes a sample, is dropped or is
skipped (R102, R103, R109-R112). -/

namespace Sys2Proof.Machine

def podAt (s : State) (p : Nat) : Pod := tabGet s.pods p s.pods[0]

/-- Does a pod that joins still wait for the start of its first block (R58, R184)? -/
def joinsLater (p : Nat) (s : State) : Bool :=
  match (podAt s p).capture with
  | some c => c.joined && decide (s.tm.ax5 < 256 * c.first)
  | none => false

/-- Is an input ABSENT at this moment (R14, R103)? -/
def inputAbsent (n : Nat) (s : State) : Bool :=
  !s.dev.variant.hasInput n || (podAt s (podOf n)).state != .active || !chEnable (actCh s n) || joinsLater (podOf n) s

/-! ## State samples (R109-R112) -/

/-- A mask with bit `i` given a value. -/
def setBitTo (i : Nat) (v : Bool) (m : Nat) : Nat := if v then m ||| 2 ^ i else withoutBit i m

/-- The levels of a pod's inputs after one event. -/
def stepLevels (m : Nat) (e : CompEv) : Nat := if e.changes then setBitTo e.input e.out m else m

/-- The levels of a pod's 17 inputs after every event at or before an instant (R102). -/
def podLevels (q : Pod) (t : Nat) : Nat :=
  q.evs.foldl (fun m e => if e.t ≤ t then stepLevels m e else m) q.base.level

/-- What stood before the event list once an event has left it. -/
def foldBase (b : PodOuts) (e : CompEv) : PodOuts :=
  { level := stepLevels b.level e,
    u := if e.upper then setBitTo e.input e.out b.u else b.u,
    l := if e.upper then b.l else setBitTo e.input e.out b.l }

/-- Drop the events before an instant from a pod's list (those at or after it stay). -/
def pruneEvs (t : Nat) (q : Pod) : Pod :=
  { q with
    base := q.evs.foldl (fun b e => if e.t < t then foldBase b e else b) q.base,
    evs := q.evs.filter fun e => decide (t ≤ e.t) }

/-- The pod clock's registers (R131, R132). -/
def pckCfg (s : State) (p : Nat) : ChCfg := actCh s (256 + p)

/-- SOFF, SETUP_W and HOLD_W. -/
def stateOff (c : ChCfg) : Int := signed 10 (bitsOf 9 0 c.stateWin.toNat)
def setupW (c : ChCfg) : Nat := bitsOf 23 16 c.stateWin.toNat
def holdW (c : ChCfg) : Nat := bitsOf 31 24 c.stateWin.toNat

/-- The sample instant t_s of a clock edge (R110). -/
def sampleInstant (c : ChCfg) (tc : Nat) : Nat := ((tc : Int) + stateOff c).toNat

/-- Does a level change at `t` fall in the window of a sample at `ts` (R112)? -/
def inWindow (c : ChCfg) (ts t : Nat) : Bool := decide (ts < t + setupW c ∧ t ≤ ts + holdW c)

/-- Is pod `p` in state mode with its clock fitted (R109)? -/
def clocked (p : Nat) (s : State) : Bool :=
  podStateMode s p && !inputAbsent (256 + p) s && match (podAt s p).desc with
  | some d => bitOf 0 (fieldAt d 6 2)
  | none => false

/-- The enabled data inputs of a pod, as a mask. -/
def dataEnabled (p : Nat) (s : State) : Nat :=
  maskOf ((List.range 16).filter fun k => chEnable (actCh s (16 * p + k)))

/-- Judge one clock edge of pod `p`: dropped, skipped or accepted (R110-R112). A dropped or skipped edge is held at the
instant at which it would have been a sample, whose block counts it (R146, log 29). -/
def judgeEdge (p tc : Nat) (s : State) : State :=
  let q := podAt s p
  let c := pckCfg s p
  let ts := sampleInstant c tc
  let fast := match q.lastClock with
    | some l => decide (10 * (tc - l) < 2432)
    | none => false
  if fast then
    raise 6 5 (modPod p (fun q => { q with dropped := q.dropped ++ [ts], clkDrop := q.clkDrop + 1 }) s)
  else
    let en := dataEnabled p s
    let data := podLevels q ts &&& en
    let w := c.state.toNat
    if bitOf 4 w ∧ data.testBit (bitsOf 11 8 w) ≠ bitOf 5 w then modPod p (fun q => { q with skipped := q.skipped ++ [ts] }) s
    else
      let viol := q.evs.any fun e => e.changes && en.testBit e.input && inWindow c ts e.t
      let s := modPod p (fun q => { q with
        samples := q.samples ++ [{ ts := ts, data := data, viol := viol }], lastClock := some tc,
        stateCnt := q.stateCnt + 1 }) s
      if viol then raise 6 6 s else s

/-- Judge the clock edges of pod `p` whose sample instant is at or before `t`. -/
def judgeClocks (p t : Nat) (s : State) : State :=
  let c := pckCfg s p
  let due := (podAt s p).clocks.takeWhile fun tc => decide (sampleInstant c tc ≤ t)
  let s := due.foldl (fun s tc => judgeEdge p tc s) s
  modPod p (fun q => { q with clocks := q.clocks.drop due.length }) s

end Sys2Proof.Machine
end

