-- ==== Sys2Proof/Machine/FrontEnd.lean ====
section
/-! DEFINITION. The front end: comparator events and levels, interpolated crossings, qualifiers, and state sampling
(R94-R113, R177-R188). -/

namespace Sys2Proof.Machine

/-! ## Inputs -/

def inputAt (s : State) (n : Nat) : Input := tabGet s.inputs n s.inputs[0]

/-- The first sample whose instant is at or after `t` (R175). -/
def sampleOf (t : Nat) : Nat := (t + 255) / 256

/-! ## Qualifier fields (R177-R179) -/

def qWord (i : Nat) (c : ChCfg) : Nat := (tabGet c.qual i 0).toNat
def qMode (c : ChCfg) : Nat := bitsOf 2 0 (qWord 0 c)
def qPol (c : ChCfg) : Nat := bitsOf 4 3 (qWord 0 c)
def qCond (c : ChCfg) : Nat := bitsOf 6 5 (qWord 0 c)
def qRuntW (c : ChCfg) : Bool := bitOf 9 (qWord 0 c)
def qGroup (c : ChCfg) : Nat := bitsOf 19 16 (qWord 0 c)
def qGroupEn (c : ChCfg) : Bool := bitOf 20 (qWord 0 c)

/-- Fabric units of one UNIT step (R178). -/
def qUnit (c : ChCfg) : Nat :=
  match bitsOf 8 7 (qWord 0 c) with
  | 0 => 16
  | 1 => 640
  | _ => 640000

/-- T1 and T2 in fabric units. -/
def qT1 (c : ChCfg) : Nat := bitsOf 23 0 (qWord 1 c) * qUnit c
def qT2 (c : ChCfg) : Nat := bitsOf 23 0 (qWord 2 c) * qUnit c
def qTrMin (c : ChCfg) : Nat := bitsOf 15 0 (qWord 3 c)
def qTrMax (c : ChCfg) : Nat := bitsOf 31 16 (qWord 3 c)

/-- COND compares a measurement with two limits (R179). -/
def condOk (cond : Nat) (m a b : Int) : Bool :=
  match cond with
  | 0 => decide (m < a)
  | 1 => decide (a < m)
  | 2 => decide (a ≤ m ∧ m ≤ b)
  | _ => decide (m < a ∨ b < m)

/-- pol_ok (R180): POL 2 and 3 accept either value. -/
def polOk (pol : Nat) (x : Bool) : Bool := decide (2 ≤ pol) || x == (pol == 0)

/-- Is it a timing qualifier (R186)? -/
def isTiming (c : ChCfg) : Bool := qMode c == 2 || qMode c == 4 || qMode c == 5 || (qMode c == 3 && qRuntW c)

/-- Are the timing qualifiers suppressed in a sample (R186)? -/
def suppressed (s : State) (k : Nat) : Bool :=
  match s.fab.suspectFrom with
  | none => false
  | some f => decide (16 * ((f + 15) / 16) ≤ k) && match s.fab.suspectTo with
    | some e => decide (k < e)
    | none => true

/-! ## Qualifiers (R180-R188) -/

/-- A detection in sample `k` with a placement; it feeds the input's group (R180, R187). A detection that reaches the
fabric after its sample was evaluated is taken in the next: none is lost (R176). -/
def detectIn (n k place : Nat) (s : State) : State :=
  let c := actCh s n
  let k := if s.fab.entered then max k (s.fab.sample + 1) else k
  if qGroupEn c then
    { s with fab := { s.fab with dets := s.fab.dets ++ [{ sample := k, place := place, input := n, group := qGroup c }] } }
  else s

/-- Clear a qualifier's state (R184, R186). -/
def clearQual (i : Input) : Input := { i with tOpen := none, hi := none, lo := none, tStart := none }

/-- A qualifier starts afresh at sample `s0` with a level (R184, R185). -/
def restartQual (c : ChCfg) (s0 : Nat) (level : Bool) (i : Input) : Input :=
  { clearQual i with tStart := if qMode c = 4 ∧ polOk (qPol c) level then some (256 * s0, s0) else none }

/-- The sample in which an armed TIMEOUT hold is detected (R182). -/
def holdSample (c : ChCfg) (h : Nat × Nat) : Nat := max h.2 (sampleOf (h.1 + qT1 c))

/-- The armed hold of input `n` reaches its limit: one detection, placed at the deadline (R182). -/
def endHold (n : Nat) (s : State) : State :=
  let c := actCh s n
  match (inputAt s n).tStart with
  | none => s
  | some h =>
    let s := modInput n (fun i => { i with tStart := none }) s
    if suppressed s (holdSample c h) then s else detectIn n (holdSample c h) (h.1 + qT1 c) s

/-- Is the armed hold of input `n` detected in a sample at or before `k`? -/
def holdDue (n k : Nat) (s : State) : Bool :=
  qMode (actCh s n) == 4 && match (inputAt s n).tStart with
  | some h => decide (holdSample (actCh s n) h ≤ k)
  | none => false

/-- What a qualifier does on a level change: new level, crossing, event time, transit validity and value (R180, R182). -/
def qualChange (n : Nat) (nl : Bool) (tx tev : Nat) (valid : Bool) (d : Nat) (s : State) : State :=
  let c := actCh s n
  let k := sampleOf tev
  if isTiming c ∧ suppressed s k then
    let s := if holdDue n (k - 1) s then endHold n s else s
    modInput n clearQual s
  else
    match qMode c with
    | 1 => if polOk (qPol c) nl then detectIn n k tx s else s
    | 2 =>
      let s := match (inputAt s n).tOpen with
        | some o =>
          if polOk (qPol c) (!nl) ∧ condOk (qCond c) ((tx : Int) - (o : Int)) (qT1 c) (qT2 c) then detectIn n k tx s else s
        | none => s
      modInput n (fun i => { i with tOpen := some tx }) s
    | 4 =>
      let s := if holdDue n (k - 1) s then endHold n s else s
      modInput n (fun i => { i with tStart := if polOk (qPol c) nl then some (tx, k) else none }) s
    | 5 => if polOk (qPol c) nl ∧ valid ∧ condOk (qCond c) (d : Int) (qTrMin c) (qTrMax c) then detectIn n k tx s else s
    | _ => s

/-- A runt ends at `t` with width `w` (R181). -/
def runt (n w t : Nat) (s : State) : State :=
  let c := actCh s n
  if !qRuntW c ∨ condOk (qCond c) (w : Int) (qT1 c) (qT2 c) then detectIn n (sampleOf t) t s else s

/-- What a RUNT qualifier does on a comparator event; `level` is the level before it (R181). -/
def qualRunt (n : Nat) (upper out : Bool) (t : Nat) (level : Bool) (s : State) : State :=
  let c := actCh s n
  if qMode c ≠ 3 ∨ thrU c ≤ thrL c then s
  else if isTiming c ∧ suppressed s (sampleOf t) then modInput n clearQual s
  else if !level ∧ polOk (qPol c) true then
    match upper, out with
    | false, true => modInput n (fun i => { i with hi := some t }) s
    | true, true => modInput n (fun i => { i with hi := none }) s
    | false, false =>
      match (inputAt s n).hi with
      | some a => runt n (t - a) t (modInput n (fun i => { i with hi := none }) s)
      | none => s
    | true, false => s
  else if level ∧ polOk (qPol c) false then
    match upper, out with
    | true, false => modInput n (fun i => { i with lo := some t }) s
    | false, false => modInput n (fun i => { i with lo := none }) s
    | true, true =>
      match (inputAt s n).lo with
      | some a => runt n (t - a) t (modInput n (fun i => { i with lo := none }) s)
      | none => s
    | false, true => s
  else s

/-- The qualifiers that suppression silenced start afresh at its end (R186). -/
def requalify (s : State) : State :=
  match s.fab.requalDue, s.fab.suspectTo with
  | true, some e =>
    let s := { s with fab := { s.fab with requalDue := false } }
    (List.range 272).foldl (fun s n =>
      if !inputAbsent n s ∧ isTiming (actCh s n) then
        let s := if holdDue n (e - 1) s then endHold n s else s
        modInput n (fun i => restartQual (actCh s n) e i.level i) s
      else s) s
  | _, _ => s

/-- The qualifiers start afresh where a suppression has ended by now (R186). -/
def settleSuspect (s : State) : State :=
  match s.fab.suspectTo with
  | some e => if e ≤ s.tm.ax5 then requalify s else s
  | none => s

/-! ## Crossings (R104-R107) -/

/-- VT2 (R105). -/
def vt2 (c : ChCfg) : Nat :=
  if c.vt.getLsbD 31 then 2 * min (max (bitsOf 9 0 c.vt.toNat) (thrL c)) (thrU c) else thrU c + thrL c

/-- rnd of R105: nearest, ties down. -/
def rndDown (num den : Nat) : Nat := (2 * num + den - 1) / (2 * den)

/-- The crossing of a level change to `nl` at `t` with its paired event: t_X, transit validity, and d (R104-R107). -/
def crossing (c : ChCfg) (nl : Bool) (paired : Option Nat) (t : Nat) : Nat × Bool × Nat :=
  match paired with
  | none => (t, false, 0)
  | some f =>
    let d := t - f
    if thrU c < thrL c + 8 ∨ 65535 < d then (t, false, min d 65535)
    else
      let num := if nl then (vt2 c - 2 * thrL c) * d else (2 * thrU c - vt2 c) * d
      (f + rndDown num (2 * (thrU c - thrL c)), true, d)

/-! ## The setup/hold monitor (R112) -/

/-- A level change of a data input flags the accepted samples whose window it falls in; each raises G6.6 (R112). -/
def flagSamples (p t : Nat) (s : State) : State :=
  let c := pckCfg s p
  let hits := (podAt s p).samples.filter fun x => !x.viol && inWindow c x.ts t
  hits.foldl (fun s _ => raise 6 6 s) (modPod p (fun q => { q with
    samples := q.samples.map fun x => { x with viol := x.viol || inWindow c x.ts t } }) s)

/-- A pod that capture does not write keeps only the recent past of its inputs. -/
def trimIdle (p t : Nat) (s : State) : State :=
  if (podAt s p).capture.isNone then
    modPod p (fun q => { pruneEvs (t - 8192) q with
      samples := q.samples.filter fun x => decide (t < x.ts + 4096), dropped := [], skipped := [] }) s
  else s

/-! ## Comparator events (R99-R107) -/

/-- The calibration trim of the comparator that serves an input (R100, R115). -/
def trimOf (n : Nat) (upper : Bool) (s : State) : Int :=
  let t := tabGet (podAt s (podOf n)).cal.trims (inputAt s n).pair (0, 0)
  if upper then t.1 else t.2

/-- The time of a comparator event (R100): 16 G - E - C with G counted in 25 ps steps from AX5 = 0. -/
def eventTime (n : Nat) (upper : Bool) (grid : Nat) (s : State) : Nat :=
  (16 * (grid : Int) - effDeskew s n - trimOf n upper s).toNat

/-- The largest shift of an event towards earlier times that E and C make now, in whole samples: the front end holds a block
until every event that can still be moved into it has arrived (R100). -/
def holdBack (s : State) : Nat :=
  ((List.range 272).foldl (fun a n =>
    if inputAbsent n s then a
    else max a (effDeskew s n + max (trimOf n true s) (trimOf n false s)).toNat) 0 + 255) / 256

/-- Does the fabric take an event at `t`: it runs, and the event is not before its first sample (R185, R201)? -/
def fabTakes (t : Nat) (s : State) : Bool := s.fab.running && (s.fab.entered || decide (256 * s.fab.sample ≤ t))

/-- A level change with its crossing: counters, transit, qualifier, clock edge (R104-R107, R110, R130). -/
def levelChange (n : Nat) (nl : Bool) (t : Nat) (x : Nat × Bool × Nat) (s : State) : State :=
  let s := modInput n (fun i => { i with level := nl, edgeCnt := i.edgeCnt + 1, transit := x.2.2, valid := x.2.1 }) s
  let s :=
    if fabTakes t s then qualChange n nl x.1 t x.2.1 x.2.2 s
    else if s.fab.running then modInput n (restartQual (actCh s n) s.fab.sample nl) s
    else s
  let p := podOf n
  if n < 256 then (if podStateMode s p then flagSamples p t s else s)
  else if clocked p s then
    let e := bitsOf 2 1 (pckCfg s p).state.toNat
    if (e = 1 ∧ !nl) ∨ e = 2 ∨ ((e = 0 ∨ e = 3) ∧ nl) then
      modPod p (fun q => { q with clocks := q.clocks ++ [x.1] }) s
    else s
  else s

/-- The first instant of pod `p`'s capture in the epoch, 0 where it captures nothing or `t` lies before it (R106). -/
def epochStart (p t : Nat) (s : State) : Nat :=
  match (podAt s p).capture with
  | some c => if 65536 * c.first ≤ t then 65536 * c.first else 0
  | none => 0

/-- The paired event of a change to `nl` made by comparator `upper` (R104), none where it came before instant `t0` (R106). -/
def pairedEvent (i : Input) (nl upper : Bool) (t0 : Nat) : Option Nat :=
  match nl, upper with
  | true, true => i.upL.filter fun f => decide (t0 ≤ f)
  | false, false => i.downU.filter fun f => decide (t0 ≤ f)
  | _, _ => none

/-- One comparator event at its time (R96, R99, R104). -/
def applyEvent (n : Nat) (upper out : Bool) (grid t : Nat) (s : State) : State :=
  let i := inputAt s n
  let u := if upper then out else i.u
  let l := if upper then i.l else out
  let nl := if u then true else if l then i.level else false
  let ch := nl != i.level
  let p := podOf n
  let x := crossing (actCh s n) nl (pairedEvent i nl upper (epochStart p t s)) t
  let e : CompEv := { t := t, input := inputOf n, upper := upper, out := out, changes := ch, tx := x.1 }
  let s := if fabTakes t s then qualRunt n upper out t i.level s else s
  let s := modInput n (fun i => { i with
    u := u, l := l,
    uGrid := if upper then some grid else i.uGrid, lGrid := if upper then i.lGrid else some grid,
    upL := if !upper && out then some t else i.upL, downU := if upper && !out then some t else i.downU }) s
  let s := modPod p (fun q => { q with evs := q.evs ++ [e] }) s
  let s := if ch then levelChange n nl t x s else s
  trimIdle p t (judgeClocks p (t - 4096) s)

/-- Does an event come after the other comparator's at the same grid step although R99 orders it first: L before U on a rise,
U before L on a fall? -/
def outOfOrder (i : Input) (upper out : Bool) (grid : Nat) : Bool :=
  upper != out && (if upper then i.l else i.u) == out && (if upper then i.lGrid else i.uGrid) == some grid

/-- May this comparator make an event at this grid step: one event per step, in the order of R99? -/
def eventValid (n : Nat) (upper out : Bool) (grid : Nat) (s : State) : Bool :=
  let i := inputAt s n
  let last := if upper then i.uGrid else i.lGrid
  !inputAbsent n s && coreUp s && !s.dev.stopped && (if upper then i.u else i.l) != out && !outOfOrder i upper out grid && match last with
  | some g => decide (g < grid)
  | none => true

/-- Does an instant lie before the first sample of a pod that has joined, when its inputs were still ABSENT (R103, R184)? -/
def beforeJoin (n t : Nat) (s : State) : Bool :=
  match (podAt s (podOf n)).capture with
  | some c => c.joined && decide (t < 65536 * c.first)
  | none => false

/-- COMPARATOR_EVENT (R100): the output of a comparator is seen changed at grid step `grid`. -/
def execComparatorEvent (n : Fin 272) (upper out : Bool) (grid : Nat) (s : State) : Result :=
  let t := eventTime n.val upper grid s
  if eventValid n.val upper out grid s ∧ !beforeJoin n.val t s then
    let s := match s.fab.suspectTo with
      | some e => if e ≤ sampleOf t then requalify s else s
      | none => s
    .next (applyEvent n.val upper out grid t s)
  else .next s

/-- QUAL_TIMEOUT (R182): a held level reaches T1. -/
def execQualTimeout (n : Fin 272) (s : State) : Result :=
  let s := settleSuspect s
  .next (if s.fab.running ∧ !inputAbsent n.val s ∧ holdDue n.val s.tm.ax5 s then endHold n.val s else s)

end Sys2Proof.Machine
end

