-- ==== Sys2Proof/Machine/Fabric.lean ====
section
/-! DEFINITION. The trigger fabric: terms and their placements, the steps of the sequencers and their fires, counters,
timers, and the evaluation of one sample after another (R175-R176, R187-R203, R209-R218, R222-R223). -/

namespace Sys2Proof.Machine

/-! ## What the fabric sees of the pods in a sample -/

/-- A pod as the fabric sees it in one sample: its levels (R102), its ABSENT inputs, whether it is in state mode, its most
recent state sample accepted in the epoch (R191), the crossings of level changes whose events fall in the sample, and the latest t_s of it. -/
structure PodView where
  level     : Nat
  absent    : Nat
  clocked   : Bool
  data      : Option Nat
  crossings : List (Nat × Nat)
  sampled   : Option Nat
  deriving DecidableEq, Repr

/-- Is input `n` ABSENT in sample `k` (R14, R62, R66, R103)? -/
def absentAt (n k : Nat) (s : State) : Bool :=
  !s.dev.variant.hasInput n || !chEnable (actCh s n) ||
    match (podAt s (podOf n)).capture with
    | none => true
    | some c => decide (k < 256 * c.first) || match c.gone with
      | some g => decide (g ≤ k)
      | none => false

def podView (p k : Nat) (s : State) : PodView :=
  let q := podAt s p
  let taken := q.samples.filter fun x => decide (256 * s.fab.first ≤ x.ts ∧ x.ts ≤ 256 * k)
  { level := podLevels q (256 * k),
    absent := maskOf ((List.range 17).filter fun i => absentAt (inputIndex p i) k s),
    clocked := podStateMode s p,
    data := taken.getLast?.map fun x => x.data,
    crossings := (q.evs.filter fun e => e.changes && decide (sampleOf e.t = k)).map fun e => (e.input, e.tx),
    sampled := ((taken.filter fun x => decide (sampleOf x.ts = k)).getLast?).map fun x => x.ts }

def podViews (k : Nat) (s : State) : List PodView := (List.range 16).map fun p => podView p k s

def emptyView : PodView := { level := 0, absent := 2 ^ 17 - 1, clocked := false, data := none, crossings := [], sampled := none }

def viewOf (vs : List PodView) (n : Nat) : PodView := vs.getD (podOf n) emptyView

/-- Does input `n` show its state sample under this SRC (R191)? -/
def bySample (v : PodView) (src : Bool) (n : Nat) : Bool := src && v.clocked && decide (n < 256)

/-- The compared bit of R191; none while the input is ABSENT or lacks a state sample (R192). -/
def comparedBit (vs : List PodView) (src : Bool) (n : Nat) : Option Bool :=
  let v := viewOf vs n
  if v.absent.testBit (inputOf n) then none
  else if bySample v src n then v.data.map fun d => d.testBit (inputOf n)
  else some (v.level.testBit (inputOf n))

/-- The larger of two optional instants. -/
def laterOf (a b : Option Nat) : Option Nat :=
  match a, b with
  | some x, some y => some (max x y)
  | some x, none => some x
  | none, y => y

/-- The instant that placed a pattern in this sample, if one did (R193): the latest crossing, or with SRC = 1 the latest
t_s, among the inputs given. -/
def changePlace (vs : List PodView) (src : Bool) (ns : List Nat) : Option Nat :=
  ns.foldl (fun a n =>
    let v := viewOf vs n
    if src then (if bySample v src n then laterOf a v.sampled else a)
    else v.crossings.foldl (fun a c => if c.1 = inputOf n then laterOf a (some c.2) else a) a) none

/-- A term that holds takes the placement it had in the previous sample, else the change that made it true, else the
sample instant (R193). -/
def placeTerm (holds : Bool) (prev : Option Nat) (vs : List PodView) (src : Bool) (ns : List Nat) (inst : Nat) : Option Nat :=
  if holds then some (prev.getD ((changePlace vs src ns).getD inst)) else none

/-! ## Pattern words and ranges (R191-R195) -/

def maskedInputs (c : PatternCfg) : List Nat := (List.range 272).filter fun n => c.mask.getLsbD n

/-- Does the term of a pattern word hold (R191, R192)? -/
def wordHolds (c : PatternCfg) (vs : List PodView) : Bool :=
  let ns := maskedInputs c
  if ns.any fun n => (comparedBit vs c.src n).isNone then false
  else (c.en && !ns.isEmpty && ns.all fun n => comparedBit vs c.src n == some (c.value.getLsbD n)) != c.neg

def wordTerm (c : PatternCfg) (vs : List PodView) (prev : Option Nat) (inst : Nat) : Option Nat :=
  placeTerm (wordHolds c vs) prev vs c.src (maskedInputs c) inst

/-- The value of a bus map, none while it is not valid (R194). -/
def busValue (m : List Nat) (src : Bool) (vs : List PodView) : Option Nat :=
  if m.isEmpty || m.any fun n => (comparedBit vs src n).isNone then none
  else some (maskOf ((List.range m.length).filter fun j => comparedBit vs src (m.getD j 0) == some true))

/-- Does a range comparator hold (R195)? -/
def rangeHolds (c : RangeCfg) (m : List Nat) (vs : List PodView) : Bool :=
  match busValue m c.src vs with
  | none => false
  | some v =>
    if c.signed then c.en && condOk c.cond (signed m.length v) c.lo.toInt c.hi.toInt
    else c.en && condOk c.cond (v : Int) (c.lo.toNat : Int) (c.hi.toNat : Int)

def rangeTerm (c : RangeCfg) (m : List Nat) (vs : List PodView) (prev : Option Nat) (inst : Nat) : Option Nat :=
  placeTerm (rangeHolds c m vs) prev vs c.src m inst

/-! A resource whose unit of memory 7 is contained reads as all fields 0 until it rejoins (R566, R579). -/

def wordCfg (s : State) (i : Nat) : PatternCfg :=
  if unitHeld (4 + i) s then { en := false, src := false, neg := false, value := 0, mask := 0 }
  else tabGet s.cfg.active.words i s.cfg.active.words[0]

def busMap (s : State) (b : Nat) : List Nat := if unitHeld (20 + b) s then [] else tabGet s.cfg.active.maps b []

def rangeCfg (s : State) (r : Nat) : RangeCfg :=
  if unitHeld (28 + r) s then { en := false, signed := false, src := false, bus := 0, cond := 0, lo := 0, hi := 0 }
  else tabGet s.cfg.active.ranges r s.cfg.active.ranges[0]

def counterCfg (s : State) (n : Nat) : CounterCfg :=
  if unitHeld (36 + n) s then { wrap := false, autoClr := false, incTerm := 0, limit := 0, preload := 0 }
  else tabGet s.cfg.active.counters n s.cfg.active.counters[0]

def timerCfg (s : State) (m : Nat) : TimerCfg :=
  if unitHeld (68 + m) s then { autoStart := false, atPlace := false, startTerm := 0, stopTerm := 0, limit := 0 }
  else tabGet s.cfg.active.timers m s.cfg.active.timers[0]

/-! ## Terms (R189, R216) -/

/-- The smallest of a list of instants. -/
def earliest : List Nat → Option Nat
  | [] => none
  | x :: xs => some (xs.foldl min x)

/-- The state sample under which a state-evaluated sequencer steps: its pod and the sample (R218). -/
abbrev StepBy := Option (Nat × StateSample)

/-- The views with the state sample of a step in place of the pod's most recent one (R218). -/
def viewsUnder (by_ : StepBy) (k : Nat) (s : State) : List PodView :=
  match by_ with
  | none => podViews k s
  | some (p, x) => (podViews k s).modify p fun v => { v with data := some x.data, sampled := some x.ts }

/-- Term Wi in a step (R191, R218). -/
def wordInStep (i : Nat) (by_ : StepBy) (s : State) : Option Nat :=
  match by_ with
  | some (_, x) =>
    if (wordCfg s i).src then wordTerm (wordCfg s i) (viewsUnder by_ s.fab.sample s) (tabGet s.fab.prevWords i none) x.ts
    else tabGet s.fab.words i none
  | none => tabGet s.fab.words i none

/-- Term RNGr in a step (R195, R218). -/
def rangeInStep (r : Nat) (by_ : StepBy) (s : State) : Option Nat :=
  match by_ with
  | some (_, x) =>
    if (rangeCfg s r).src then
      rangeTerm (rangeCfg s r) (busMap s (rangeCfg s r).bus) (viewsUnder by_ s.fab.sample s) (tabGet s.fab.prevRanges r none) x.ts
    else tabGet s.fab.ranges r none
  | none => tabGet s.fab.ranges r none

/-- Term QGg of the sample under evaluation (R187). -/
def groupTerm (g : Nat) (s : State) : Option Nat :=
  earliest ((s.fab.dets.filter fun d => d.sample = s.fab.sample ∧ d.group = g).map fun d => d.place)

/-- The instant at which flag `k` was set that is set in sample `n`, none while it is clear (R216, R394). -/
def sfPlace (k n : Nat) (s : State) : Option Nat :=
  match (tabGet s.sch.sfHist k []).find? fun x => decide (x.1 ≤ 256 * n) with
  | some (t, true) => some t
  | _ => none

/-- Sequencer and external terms, codes 0x80-0xFF, all as they stand at the start of the sample (R213, R216). -/
def outerTerm (code : Nat) (s : State) : Option Nat :=
  let k := s.fab.sample
  if code < 0x84 then
    match tabGet s.fab.trigin (code - 0x80) none with
    | some (f, l) => if f ≤ k ∧ k ≤ l then some (256 * f) else none
    | none => none
  else if code < 0x88 then
    earliest ((s.fab.rfire.filter fun r => r.1 = code - 0x84 ∧ r.2.1 = k).map fun r => r.2.2.getD (256 * k))
  else if code < 0x90 then
    sfPlace (code - 0x88) k s
  else if code < 0x94 then
    match (seqOf s (code - 0x90)).firedStart with
    | some (n, p) => if n + 1 = k then some p else none
    | none => none
  else if code < 0x98 then
    if (seqOf s (code - 0x94)).start.2.2 then some (256 * k) else none
  else if 0xA0 ≤ code ∧ code < 0xE0 then
    let st := (seqOf s ((code - 0xA0) / 16)).start
    if st.1 = .armed ∧ st.2.1 = (code - 0xA0) % 16 then some (256 * k) else none
  else none

/-- The value of a term in the sample under evaluation, with its placement while it is true (R189, R190, R216). -/
def termIn (by_ : StepBy) (code : Nat) (s : State) : Option Nat :=
  if code = 1 then some (256 * s.fab.sample)
  else if code < 0x10 then none
  else if code < 0x20 then groupTerm (code - 0x10) s
  else if code < 0x30 then wordInStep (code - 0x20) by_ s
  else if code < 0x38 then rangeInStep (code - 0x30) by_ s
  else if code < 0x40 then none
  else if code < 0x60 then (tabGet s.fab.counters (code - 0x40) s.fab.counters[0]).atLimit
  else if code < 0x70 then (tabGet s.fab.timers (code - 0x60) s.fab.timers[0]).expired
  else if code < 0x80 then none
  else outerTerm code s

/-! ## The suspect rule (R214) -/

/-- Has group QGg a member whose qualifier is a timing qualifier? -/
def timingGroup (g : Nat) (s : State) : Bool :=
  (List.range 272).any fun n =>
    s.dev.variant.hasInput n && qGroupEn (actCh s n) && qGroup (actCh s n) == g && isTiming (actCh s n)

/-- Is this the code of a QG term with such a member? -/
def timingQg (code : Nat) (s : State) : Bool := decide (0x10 ≤ code ∧ code < 0x20) && timingGroup (code - 0x10) s

/-- Is a term timing-dependent (R214)? -/
def timingTerm (code : Nat) (s : State) : Bool :=
  timingQg code s ||
    (decide (0x40 ≤ code ∧ code < 0x60) && timingQg (counterCfg s (code - 0x40)).incTerm s) ||
    (decide (0x60 ≤ code ∧ code < 0x70) &&
      (timingQg (timerCfg s (code - 0x60)).startTerm s || timingQg (timerCfg s (code - 0x60)).stopTerm s))

/-! ## Branch words (R209-R211) -/

/-- Bits `[hi:lo]` of a branch word. -/
def brBits (hi lo : Nat) (w : Branch) : Nat := bitsOf hi lo w.toNat

def brTerms (w : Branch) : List Nat := [brBits 7 0 w, brBits 15 8 w, brBits 23 16 w, brBits 31 24 w]
def brValid (w : Branch) : Bool := bitOf 93 w.toNat
def brStop (w : Branch) : Bool := bitOf 92 w.toNat
def brFire (w : Branch) : Bool := bitOf 52 w.toNat
def brRlf (w : Branch) : Bool := bitOf 62 w.toNat
def brTout (w : Branch) : Nat := brBits 61 58 w
def brClass (w : Branch) : Nat := brBits 54 53 w

/-- Does the condition of a branch hold for the values of its four terms (R210)? -/
def brHolds (w : Branch) (vals : List (Option Nat)) : Bool :=
  bitOf (maskOf ((List.range 4).filter fun i => ((vals.getD i none).isSome))) (brBits 47 32 w)

/-- The placement TCH selects; it never lies after the step instant (R211). -/
def brPlace (w : Branch) (vals : List (Option Nat)) (inst : Nat) : Nat :=
  let ts := vals.filterMap id
  let early := (earliest ts).getD inst
  let t := match brBits 57 55 w with
    | 4 => early
    | 5 => (ts.foldl (fun a x => laterOf a (some x)) none).getD inst
    | 6 => inst
    | 7 => inst
    | i => (vals.getD i none).getD early
  min t inst

/-- Examine branches in priority order (R212, R214): whether a blocked branch ended the step, or the branch taken with the
values of its terms. -/
def examine (by_ : StepBy) (s : State) : List (Nat × Branch) → Bool × Option (Nat × Branch × List (Option Nat))
  | [] => (false, none)
  | (b, w) :: rest =>
    if !brValid w then examine by_ s rest
    else if s.fab.suspect && (brTerms w).any fun c => timingTerm c s then (true, none)
    else
      let vals := (brTerms w).map fun c => termIn by_ c s
      if brHolds w vals then (false, some (b, w, vals)) else examine by_ s rest

/-! ## Fires (R215, R222, R230, R245) -/

/-- T_B of a FIRE cairn: time B of the placement, 0 while it is invalid (R259). -/
def fireTb (place : Nat) (s : State) : List Byte := if s.tm.bValid then t0Bytes (t0Of (timeBOf s place)) else zeros 8

/-- SUB: the placement below the nanosecond in 1.5625 ps units (R233). -/
def subNs (t : Time) : Nat := t.frac * 640 / 2 ^ 32

/-- The FIRE cairn's payload for the first fire of a sequencer in a row (R259). -/
def firePayload (j frm b cls group out place : Nat) (s : State) : List Byte :=
  leBytes 1 j ++ leBytes 1 frm ++ leBytes 1 b ++ leBytes 1 cls ++ leBytes 2 1 ++ leBytes 1 (2 ^ cls) ++ leBytes 1 group ++
    leBytes 2 (subNs (timeAOf s place)) ++ leBytes 1 out ++ zeros 1 ++ fireTb place s ++ instantBytes place

/-- Is this the FIRE cairn of sequencer `j` for the row of an instant? -/
def fireCairnOf (j place : Nat) (c : Cairn) : Bool :=
  c.code == 1 && c.unit == 0x10 + j && c.instant / 65536 == place / 65536

/-- A later fire of the same row counts in the row's cairn (R245): COUNT saturates, CLASS_MASK, LAST_INSTANT. -/
def foldFire (cls place : Nat) (c : Cairn) : Cairn :=
  let count := min 65535 (fieldAt c.payload 4 2 + 1)
  let classes := fieldAt c.payload 6 1 ||| 2 ^ cls
  let body := c.payload.take 4 ++ leBytes 2 count ++ leBytes 1 classes ++ (c.payload.drop 7).take 13 ++ instantBytes place
  { c with payload := padTo 76 body }

/-- The FIRE cairn of a fire (R245, R259). -/
def fireCairn (j frm b cls group out place : Nat) (s : State) : State :=
  if s.ret.cairns.any (fireCairnOf j place) then
    let cs := s.ret.cairns.map fun c => if fireCairnOf j place c then foldFire cls place c else c
    { s with ret := { s.ret with cairns := cs } }
  else
    pushCairnIf 0x0001 place (0x10 + j) 0xFF (firePayload j frm b cls group out place s) s

/-- The first 1 GHz core-clock edge at or after the instant of sample `k` plus 64 ns (R230). -/
def pulseStart (k : Nat) : Nat := (256 * k + 40960 + 639) / 640 * 640

/-- TRIGOUT pulses of a fire (R230): outputs in MODE PULSE, not contained, outside safe state. -/
def firePulses (mask k : Nat) (s : State) : State :=
  (bitsSet 4 mask).foldl (fun s x =>
    if bitsOf 1 0 (tabGet s.cfg.active.tout x 0).toNat = 1 ∧ !s.dev.safe then
      { s with trigout := tabMod s.trigout x fun t =>
        if t.contained then t else { t with requests := t.requests ++ [k] } }
    else s) s

/-- The FIRE frame of a fire (R222, R410, R422): sent where there is Ridgeline and the unit has an address (R414). -/
def fireFrame (j cls group place : Nat) (s : State) : State :=
  if s.dev.variant.ridgeline ∧ s.rl.addr ≠ 0 then
    originate 0x10 0xFFFF
      (leBytes 1 cls ++ leBytes 1 group ++ leBytes 1 j ++ leBytes 1 (b2n s.tm.bValid) ++ timeBytes (timeBOf s place)) s
  else s

/-- The fire that FIREDj shows in the next sample: the first of sample `k` (R216). -/
def firedNow (old : Option (Nat × Nat)) (k place : Nat) : Option (Nat × Nat) :=
  match old with
  | some (n, p) => if n = k then some (n, p) else some (k, place)
  | none => some (k, place)

/-- Sequencer `j` emits a fire (R26, R215): the branch taken, the state it left, the placement. -/
def emitFire (j frm b : Nat) (w : Branch) (group place : Nat) (s : State) : State :=
  let cls := brClass w
  let k := s.fab.sample
  let rlf := brRlf w && s.dev.variant.ridgeline && s.rl.addr != 0
  let out := b2n rlf + 2 * brTout w
  let a := timeAOf s place
  let s := modSeq j (fun q => { q with
    fireCnt := q.fireCnt + 1, lastFire := t0Of a, fired := firedNow q.fired k place,
    lastInfo := BitVec.ofNat 32 (2 ^ 31 + subNs a * 65536 + frm * 4096 + b * 1024 + cls * 256) }) s
  let s := raise 7 (8 * j + 1) s
  let s := addRequest cls place s
  let s := { s with ret := { s.ret with fires := s.ret.fires ++ [(place / 65536, cls)] } }
  let s := firePulses (brTout w) k (fireCairn j frm b cls group out place s)
  let s := if brRlf w then fireFrame j cls group place s else s
  groupDone group (some j) (k + 1) false s

/-! ## Steps (R212, R213, R218, R223) -/

/-- The counter and timer requests of a taken branch, all at its placement (R209, R213). -/
def brRequests (w : Branch) (place : Nat) : List FabReq :=
  [ { timer := false, idx := brBits 68 64 w, op := brBits 70 69 w, place := place },
    { timer := false, idx := brBits 75 71 w, op := brBits 77 76 w, place := place },
    { timer := true, idx := brBits 81 78 w, op := brBits 83 82 w, place := place },
    { timer := true, idx := brBits 87 84 w, op := brBits 89 88 w, place := place } ].filter fun r => r.op ≠ 0

/-- Sequencer `j` goes DONE (R223). -/
def seqDone (j : Nat) (s : State) : State := raise 7 (8 * j + 2) (modSeq j (fun q => { q with mode := .done, doneFrom := none }) s)

/-- A branch is taken at a step instant (R212). -/
def takeBranch (j b : Nat) (w : Branch) (vals : List (Option Nat)) (p : Program) (inst : Nat) (s : State) : State :=
  let frm := (seqOf s j).state
  let place := brPlace w vals inst
  let s := { s with fab := { s.fab with reqs := s.fab.reqs ++ brRequests w place } }
  let s := modSeq j (fun q => { q with
    state := brBits 51 48 w, stepCnt := q.stepCnt + 1, lastBranch := b,
    flag := (q.flag || bitOf 90 w.toNat) && !bitOf 91 w.toNat }) s
  let s := if bitOf 63 w.toNat then raise 7 (8 * j + 4) s else s
  let s := if brFire w then emitFire j frm b w p.group place s else s
  if brStop w || (brFire w && p.oneShot) then seqDone j s else s

/-- A step ended by a blocked branch (R214). -/
def blockStep (j : Nat) (s : State) : State :=
  let first := !(seqOf s j).blockNoted
  let s := modSeq j (fun q => { q with blockCnt := q.blockCnt + 1, blockNoted := true }) s
  if first then raise 7 (8 * j + 5) s else s

/-- One step of sequencer `j` at a step instant (R212, R218). -/
def stepAt (j inst : Nat) (by_ : StepBy) (p : Program) (s : State) : State :=
  let st := (seqOf s j).state
  let ws := (List.range 4).map fun b => (b, tabGet p.words (4 * st + b) 0)
  let r := examine by_ s ws
  let s := modSeq j (fun q => { q with stepped := some inst }) s
  if r.1 then blockStep j s
  else match r.2 with
    | some (b, w, vals) => takeBranch j b w vals p inst s
    | none => s

/-- Has sequencer `j` still to step at an instant? -/
def notStepped (j inst : Nat) (s : State) : Bool :=
  match (seqOf s j).stepped with
  | some t => decide (t < inst)
  | none => true

/-- The next step that sequencer `j` takes in the sample under evaluation: its instant, and its state sample (R212, R218). -/
def nextStep (j : Nat) (s : State) : Option (Nat × StepBy × Program) :=
  let k := s.fab.sample
  let q := seqOf s j
  match progIn s.dev.variant s.cfg.active j with
  | none => none
  | some p =>
    if q.mode ≠ .armed ∨ k < q.first ∨ !s.fab.entered then none
    else if p.step = 0 then
      if notStepped j (256 * k) s then some (256 * k, none, p) else none
    else if podStateMode s p.stepPod then
      ((podAt s p.stepPod).samples.find? fun x =>
        decide (sampleOf x.ts = k) && notStepped j x.ts s && !absentAt (256 + p.stepPod) k s).map
        fun x => (x.ts, some (p.stepPod, x), p)
    else none

/-- Take the next step of sequencer `j` in this sample, if one is due. -/
def stepSeq (j : Nat) (s : State) : State :=
  match nextStep j s with
  | some (t, by_, p) => stepAt j t by_ p s
  | none => s

/-- Every step still due in this sample: at most two for each sequencer (R218). -/
def stepAll (s : State) : State := (List.range 4).foldl (fun s j => stepSeq j (stepSeq j s)) s

/-! ## Counters and timers (R197-R200) -/

/-- The requests of a kind on a unit in this sample: their placements. -/
def requests (timer : Bool) (idx op : Nat) (s : State) : List Nat :=
  (s.fab.reqs.filter fun r => r.timer == timer && r.idx == idx && r.op == op).map fun r => r.place

/-- Counter `n` for the next sample (R197, R198). -/
def counterNext (n : Nat) (s : State) : CounterSt :=
  let c := counterCfg s n
  let x := tabGet s.fab.counters n s.fab.counters[0]
  let load := requests false n 3 s ≠ []
  let base := if load then c.preload else if requests false n 2 s ≠ [] then 0 else if c.autoClr ∧ x.atLimit.isSome then 0 else x.value
  let incs := (termIn none c.incTerm s).toList ++ requests false n 1 s
  let v := base + incs.length
  let v := if 2 ^ 48 ≤ v then (if c.wrap then v - 2 ^ 48 else 2 ^ 48 - 1) else v
  let place := match x.atLimit with
    | some p => p
    | none => if c.limit ≤ base then 256 * (s.fab.sample + 1) else (earliest incs).getD (256 * (s.fab.sample + 1))
  { value := v, atLimit := if c.limit ≠ 0 ∧ c.limit ≤ v then some place else none }

/-- Elapsed time in ns of a start instant at an instant (R199, R200). -/
def elapsedNs (tst inst : Nat) : Nat := min ((inst - tst) / 640) (2 ^ 48 - 1)

/-- A running timer expires at its deadline (R200). -/
def expireAt (c : TimerCfg) (inst : Nat) (x : TimerSt) : TimerSt :=
  if x.running ∧ x.expired = none ∧ x.tst + c.limit * 640 ≤ inst then { x with expired := some (x.tst + c.limit * 640) } else x

/-- Timer `m` for the next sample (R199, R200). -/
def timerNext (m : Nat) (s : State) : TimerSt :=
  let c := timerCfg s m
  let x := tabGet s.fab.timers m s.fab.timers[0]
  let k := s.fab.sample
  let rise (t : Nat) (prev : Bool) : List Nat := if prev then [] else (termIn none t s).toList
  let starts := rise c.startTerm (tabGet s.fab.prevStart m false) ++ requests true m 1 s
  let stops := rise c.stopTerm (tabGet s.fab.prevStop m false) ++ requests true m 2 s
  let y : TimerSt :=
    if starts ≠ [] then
      { running := true, expired := none, elapsed := 0, tst := if c.atPlace then (earliest starts).getD (256 * k) else 256 * k }
    else if requests true m 3 s ≠ [] then { running := false, expired := none, elapsed := 0, tst := x.tst }
    else if stops ≠ [] ∧ x.running then { x with running := false, elapsed := elapsedNs x.tst (256 * k) }
    else x
  expireAt c (256 * (k + 1)) y

/-! ## One sample after another (R190) -/

/-- After the last sample of a vector the TRV block shows the sequencers as they stand (R231). -/
def showSeqs (s : State) : State :=
  if s.fab.sample % 16 = 15 then { s with fab := { s.fab with live := { s.fab.live with seqs := s.seqs } } } else s

/-- The sample under evaluation ends: every step is taken, then counters and timers take their values for the next. -/
def leaveSample (s : State) : State :=
  let s := showSeqs (stepAll s)
  let k := s.fab.sample
  { s with fab := { s.fab with
      counters := Vector.ofFn fun i : Fin 32 => counterNext i.val s,
      timers := Vector.ofFn fun i : Fin 16 => timerNext i.val s,
      prevStart := Vector.ofFn fun i : Fin 16 => (termIn none (timerCfg s i.val).startTerm s).isSome,
      prevStop := Vector.ofFn fun i : Fin 16 => (termIn none (timerCfg s i.val).stopTerm s).isSome,
      reqs := [], dets := s.fab.dets.filter fun d => decide (k < d.sample),
      rfire := s.fab.rfire.filter fun r => decide (k < r.2.1) } }

/-- The detection that gave the placement of group `g` in sample `k`: the earliest, a tie to the lower input (R187, R188). -/
def lastDet (g k : Nat) (ds : List Detection) : Option Detection :=
  (ds.filter fun d => d.sample = k ∧ d.group = g).foldl (fun a d =>
    match a with
    | none => some d
    | some x => if d.place < x.place ∨ (d.place = x.place ∧ d.input < x.input) then some d else a) none

/-- The group registers for sample `k` (R188, R205). -/
def countGroups (k : Nat) (s : State) : State :=
  let f := s.fab
  let hit (g : Nat) : Nat := (f.dets.filter fun d => d.sample = k ∧ d.group = g).length
  let live := maskOf ((List.range 16).filter fun g => decide (0 < hit g))
  { s with fab := { f with
      qgCnt := Vector.ofFn fun g : Fin 16 => f.qgCnt[g] + BitVec.ofNat 32 (hit g.val),
      qgLast := Vector.ofFn fun g : Fin 16 => match lastDet g.val k f.dets with
        | some d => some d.input
        | none => f.qgLast[g],
      qgLive := (if f.qgVector = k / 16 then f.qgLive else 0) ||| live, qgVector := k / 16 } }

/-- Pattern and range terms of sample `k` (R191-R195). -/
def evalPatterns (k : Nat) (s : State) : State :=
  let vs := podViews k s
  let f := s.fab
  { s with fab := { f with
      prevWords := f.words, prevRanges := f.ranges,
      words := Vector.ofFn fun i : Fin 16 => wordTerm (wordCfg s i.val) vs f.words[i] (256 * k),
      ranges := Vector.ofFn fun r : Fin 8 =>
        rangeTerm (rangeCfg s r.val) (busMap s (rangeCfg s r.val).bus) vs f.ranges[r] (256 * k) } }

/-- Suppression in sample `k` (R186, R214). -/
def evalSuspect (k : Nat) (s : State) : State :=
  let s := match s.fab.suspectTo with
    | some e => if e ≤ k then requalify s else s
    | none => s
  let now := suppressed s k
  let s := if now ∧ !s.fab.suspect then { s with seqs := s.seqs.map fun q => { q with blockNoted := false } } else s
  { s with fab := { s.fab with suspect := now } }

/-- A group fire that takes hold in sample `k` makes its sequencers DONE (R222). -/
def takeDone (k j : Nat) (s : State) : State :=
  match (seqOf s j).doneFrom with
  | none => s
  | some (n, byFrame) =>
    if n ≤ k then
      if (seqOf s j).mode = .armed then
        let s := seqDone j s
        if byFrame then raise 7 (8 * j + 6) s else s
      else modSeq j (fun q => { q with doneFrom := none }) s
    else s

/-- LEFT_STATE of sequencer `j`: the state it was in, 0xFF if it is not named or was not ARMED or DONE (R229). -/
def leftState (m j : Nat) (s : State) : Nat :=
  if m.testBit j ∧ ((seqOf s j).mode = .armed ∨ (seqOf s j).mode = .done) then (seqOf s j).state else 0xFF

/-- The response of TRV_DISARM for the sequencers of a mask as they stand before the disarm (R229). -/
def disarmBody (m : Nat) (s : State) : List Byte :=
  leBytes 1 (maskOf ((bitsSet 4 m).filter fun j => (seqOf s j).mode != .unloaded && (seqOf s j).mode != .idle)) ++ zeros 3 ++
    (List.range 4).flatMap fun j => leBytes 1 (leftState m j s)

/-- An order to sequencers takes effect (R219, R224); TRV_DISARM then completes (R229). -/
def takeOrder (s : State) (o : SeqOrder) : State :=
  match o with
  | .disarm m mb =>
    let body := disarmBody m s
    let s := (bitsSet 4 m).foldl (fun s j => disarmNow j s) s
    match mb with
    | some b => if mbRuns b 0x0303 s then mbComplete b (okWith body) s else s
    | none => s
  | .arm m first late missed mb =>
    let s := armAll m first late missed s
    match mb with
    | some b => if mbRuns b 0x0302 s then mbComplete b (okWith (leBytes 1 (maskOf ((bitsSet 4 m).filter fun j => armBusy j s)))) s else s
    | none => s
  | .pend j w => pendNow j w s

/-- A PENDING chain arm comes true in the first sample whose time B is at or after its target, while time B is valid (R219;
log 30). -/
def takeTarget (k j : Nat) (s : State) : State :=
  match (seqOf s j).mode, (seqOf s j).wait with
  | .pending, some (.atTimeB sec ns _) =>
    if s.tm.bValid ∧ timeBReached sec ns s ∧
        sampleOf ((reachInstant s.tm.segB (flatOf sec ns)).getD (nowU s)) ≤ k then armPending j k s
    else s
  | _, _ => s

/-- The orders due at sample `k` take effect in the order of their acceptance. -/
def takeOrders (k : Nat) (s : State) : State :=
  let due := s.fab.orders.filter fun o => decide (o.1 ≤ k)
  due.foldl (fun s o => takeOrder s o.2) { s with fab := { s.fab with orders := s.fab.orders.filter fun o => decide (k < o.1) } }

/-! ## The live registers (R205) -/

/-- FAB_CNTn. -/
def fabCnt (n : Nat) (s : State) : Nat :=
  let c := tabGet s.fab.counters n s.fab.counters[0]
  b2n c.atLimit.isSome * 2 ^ 63 + c.value

/-- FAB_TMRm. -/
def fabTmr (m : Nat) (s : State) : Nat :=
  let x := tabGet s.fab.timers m s.fab.timers[0]
  b2n x.expired.isSome * 2 ^ 63 + b2n x.running * 2 ^ 62 +
    (if x.running then elapsedNs x.tst (256 * s.fab.sample) else x.elapsed)

/-- FAB_TERM_LIVE. -/
def fabTerms (s : State) : Nat :=
  maskOf ((List.range 8).filter fun r => (tabGet s.fab.ranges r none).isSome) * 2 ^ 16 +
    maskOf ((List.range 16).filter fun i => (tabGet s.fab.words i none).isSome)

/-- FAB_STATUS. -/
def fabStatus (vs : List PodView) (s : State) : Nat :=
  maskOf ((List.range 8).filter fun b => (busValue (busMap s b) false vs).isSome) * 2 ^ 8 + b2n s.fab.suspect

/-- FAB_QG_LASTg. -/
def fabLast (g : Nat) (s : State) : Nat :=
  match tabGet s.fab.qgLast g none with
  | some n => 2 ^ 31 + n
  | none => 0

/-- FAB_BUSb: the bus value of R194 with SRC = 0; an ABSENT member is at level 0. -/
def fabBus (vs : List PodView) (b : Nat) (s : State) : Nat :=
  let m := busMap s b
  maskOf ((List.range m.length).filter fun j => comparedBit vs false (m.getD j 0) == some true)

/-- The live registers as they stand in the sample under evaluation. -/
def fabLive (s : State) : FabLive :=
  let vs := podViews s.fab.sample s
  { cnt := Vector.ofFn fun n : Fin 32 => fabCnt n.val s, tmr := Vector.ofFn fun m : Fin 16 => fabTmr m.val s,
    terms := fabTerms s, qgLive := s.fab.qgLive, status := fabStatus vs s,
    qgCnt := Vector.ofFn fun g : Fin 16 => s.fab.qgCnt[g].toNat, qgLast := Vector.ofFn fun g : Fin 16 => fabLast g.val s,
    bus := Vector.ofFn fun b : Fin 8 => fabBus vs b.val s, seqs := s.fab.live.seqs }

/-- In the last sample of a vector the live registers take its values (R205). -/
def showLive (s : State) : State :=
  if s.fab.sample % 16 = 15 then { s with fab := { s.fab with live := fabLive s } } else s

/-- What a sequencer shows at the start of sample `k`: ARMED from its first sample on (R216). -/
def seqStart (k : Nat) (q : Seq) : Seq :=
  { q with start := (if q.mode = .armed ∧ k < q.first then .idle else q.mode, q.state, q.flag), firedStart := q.fired }

/-- Sample `k` comes under evaluation. -/
def enterSample (k : Nat) (s : State) : State :=
  let s := (List.range 16).foldl (fun s p => if clocked p s then judgeClocks p (256 * k) s else s) s
  let s := evalSuspect k s
  let s := (List.range 272).foldl (fun s n => if !inputAbsent n s ∧ holdDue n k s then endHold n s else s) s
  let s := { s with fab := { s.fab with dets := s.fab.dets.map fun d => { d with sample := max d.sample k } } }
  let s := evalPatterns k (countGroups k s)
  let s := (List.range 4).foldl (fun s j => takeTarget k j (takeDone k j s)) (takeOrders k s)
  showLive { s with fab := { s.fab with sample := k, entered := true }, seqs := s.seqs.map (seqStart k) }

/-- Evaluate `n` more samples. -/
def advanceBy : Nat → State → State
  | 0, s => s
  | n + 1, s => advanceBy n (enterSample (s.fab.sample + 1) (leaveSample s))

/-- The samples before `n` that lie before an accepted boundary (R33, R225). -/
def beforeBoundary (n : Nat) (s : State) : Nat :=
  match s.ret.boundary with
  | some b => if s.dev.acq = .running then min n (256 * b.row) else n
  | none => n

/-- The samples below this one may be evaluated now: AX5 has passed them, the front end has their events (R100), and they lie
before an accepted boundary. -/
def fabReach (s : State) : Nat := beforeBoundary (s.tm.ax5 - holdBack s) s

/-- Evaluate the fabric up to the sample before `n`. -/
def evalBelow (n : Nat) (s : State) : State :=
  if !s.fab.running ∨ n ≤ s.fab.sample then s
  else
    let s := if s.fab.entered then s else enterSample s.fab.sample s
    advanceBy (n - 1 - s.fab.sample) s

/-- Evaluate the fabric up to sample `a`, as far as it may be evaluated now. -/
def advance (a : Nat) (s : State) : State := evalBelow (min (a + 1) (fabReach s)) s

/-! ## Epochs (R185, R201, R225) -/

/-- The fabric starts at the first intake sample with the active settings (R201). -/
def startFabric (first : Nat) (s : State) : State :=
  { s with fab := { s.fab with
      counters := Vector.ofFn fun i : Fin 32 =>
        let c := counterCfg s i.val
        { value := c.preload, atLimit := if c.limit ≠ 0 ∧ c.limit ≤ c.preload then some (256 * first) else none },
      timers := Vector.ofFn fun i : Fin 16 =>
        { running := (timerCfg s i.val).autoStart, expired := none, tst := 256 * first, elapsed := 0 },
      words := Vector.replicate 16 none, ranges := Vector.replicate 8 none, prevWords := Vector.replicate 16 none,
      prevRanges := Vector.replicate 8 none, prevStart := Vector.replicate 16 false, prevStop := Vector.replicate 16 false,
      reqs := [], dets := [], qgLast := Vector.replicate 16 none,
      rfire := (s.fab.rfire.map fun r => (r.1, max r.2.1 first, r.2.2)), first := first, sample := first, entered := false,
      requalDue := s.fab.requalDue && s.fab.suspectTo.any (fun e => decide (first < e)), running := true } }

/-- What the fabric can evaluate by now: the samples before this instant. -/
def evalNow (s : State) : State := evalBelow (fabReach s) s

/-- The fabric stops before sample `n` (R225), with every event that has arrived; orders still waiting take effect. -/
def stopFabric (n : Nat) (s : State) : State :=
  let s := stepAll (evalBelow (beforeBoundary (min n s.tm.ax5) s) s)
  let os := s.fab.orders
  os.foldl (fun s o => takeOrder s o.2) { s with fab := { s.fab with running := false, orders := [] } }

/-- The sequencers' modes carry over to the epoch whose intake starts at sample `first` (R219, R225). -/
def carrySeq (first j : Nat) (s : State) : State :=
  let s := modSeq j (fun q => { q with stepped := none, fired := none, firedStart := none, first := max q.first first }) s
  match (seqOf s j).mode, (seqOf s j).wait with
  | .armed, _ => modSeq j (fun q => { q with state := 0, flag := false }) s
  | .pending, some .onStart => modSeq j (fun q => { q with first := max q.first first }) (armPending j first s)
  | _, _ => s

/-- The modes of all sequencers carry over, and the TRV block shows them. -/
def carrySeqs (first : Nat) (s : State) : State :=
  let s := (List.range 4).foldl (fun s j => carrySeq first j s) s
  { s with fab := { s.fab with live := { s.fab.live with seqs := s.seqs } } }

/-! ## Arms at instants (R219-R221) -/

/-- ON_START: PENDING until an epoch opens; while the fabric evaluates, in RUNNING or the epoch being opened, as NOW (R219). -/
def armOnStart (m : Nat) (mb : Option Nat) (s : State) : State :=
  if s.dev.acq = .frozen then s
  else if s.fab.running then armMask m (nextVector s) false false mb s
  else (bitsSet 4 m).foldl (fun s j => pendSeq j .onStart s) s

/-- A scheduler or chain arm at an instant: of no effect on a sequencer already ARMED or PENDING, in IDLE too; else discarded
for a sequencer that is not loaded or a device that is IDLE or FROZEN (R219, R220; DESIGN CHOICE, log 30). A late one sets LATE
whatever its source (DESIGN CHOICE, log 30). -/
def armInstant (j t : Nat) (late : Bool) (s : State) : State :=
  let s := evalNow s
  if busyAhead j s then s
  else if armDiscarded j s then dropArm j s
  else armMask (2 ^ j) (sampleOf t) late false none s

/-- A chain arm of sequencer `j` with a target on time B (R221): past targets follow POLICY. The count of time B is judged
whether it is valid or not (DESIGN CHOICE, log 30). -/
def chainArmSeq (j sec ns policy : Nat) (s : State) : State :=
  if busyAhead j s then s
  else if armDiscarded j s then dropArm j s
  else if timeBReached sec ns s then
    if policy = 0 then armMask (2 ^ j) (nextVector s) true true none s else dropArm j s
  else pendSeq j (.atTimeB sec ns policy) s

/-- Apply an ARM of a group: every loaded sequencer of it (R219, R221). Group 0 is none. -/
def chainArm (group sec ns policy : Nat) (s : State) : State :=
  if group = 0 then s
  else (List.range 4).foldl (fun s j =>
    if loadedActive j s ∧ chainGroup j s = group then chainArmSeq j sec ns policy s else s) (evalNow s)

/-! ## The levels of TRIGOUT (R230) -/

/-- The instant at which the pulse of a fire in sample `k` has lasted WIDTH × 4 ns on output `x` (R203, R230). -/
def pulseEnd (x k : Nat) (s : State) : Nat := 256 * (k + 160 + 10 * bitsOf 31 16 (tabGet s.cfg.active.tout x 0).toNat)

/-- Is a pulse of output `x` active: pulses that overlap are one (R230)? -/
def pulseActive (x : Nat) (t : Trigout) (s : State) : Bool :=
  t.requests.any fun k => decide (pulseStart k ≤ nowU s ∧ nowU s < pulseEnd x k s)

/-- What an output drives (R230, R571, R594): none while it is high-Z, else its level after POL. -/
def trigLevel (x : Nat) (s : State) : Option Bool :=
  let w := (tabGet s.cfg.active.tout x 0).toNat
  match s.trigout.toList[x]? with
  | none => none
  | some t =>
    if s.dev.safe || t.contained || s.dev.vioOff.testBit 0 then none
    else match bitsOf 1 0 w with
      | 1 => some (pulseActive x t s != bitOf 2 w)
      | 2 => some (((bitsSet 4 (bitsOf 7 4 w)).any fun j => (seqOf (evalNow s) j).mode == .armed) != bitOf 2 w)
      | _ => none

/-! ## Reset -/

/-- The fabric's own state and the live registers fall to their reset values (R202, R483, R545); TIMING_SUSPECT and the pins are
as they are. -/
def resetFab (s : State) : State :=
  { s with fab := { Fab.reset with
      suspectFrom := s.fab.suspectFrom, suspectTo := s.fab.suspectTo,
      requalDue := s.fab.requalDue, sample := s.fab.sample, trigin := s.fab.trigin } }

end Sys2Proof.Machine
end

