-- ==== Sys2Proof/Machine/PodOps.lean ====
section
/-! DEFINITION. Operations of the pod ports that several families use: state changes (R56, R88), the forced ABSENT of a
pod's inputs (R63-R66) and the supply (R71-R74). -/

namespace Sys2Proof.Machine

def PodState.code : PodState → Nat
  | .empty => 0
  | .debounce => 1
  | .identify => 2
  | .unpowered => 3
  | .powering => 4
  | .joining => 5
  | .active => 6
  | .rejected => 7
  | .faulted => 8

/-- A change of a pod's state: its PODC_PENDING bit is set (R88); SUPPLY_FAULT clears on entry to EMPTY or POWERING,
OVERVOLT on entry to EMPTY, and REJECT_REASON is 0 unless REJECTED (R89). -/
def setPod (p : Nat) (st : PodState) (s : State) : State :=
  if (podAt s p).state = st then s
  else
    let s := modPod p (fun q => { q with
      state := st, since := s.tm.tick,
      supplyFault := if st = .empty ∨ st = .powering then false else q.supplyFault,
      overvolt := if st = .empty then false else q.overvolt,
      reject := if st = .rejected then q.reject else 0 }) s
    { s with podc := { s.podc with pending := s.podc.pending ||| 2 ^ p } }

/-- The supply of a pod is off (R63, R72, R75). -/
def supplyCut (p : Nat) (s : State) : State :=
  modPod p (fun q => { q with supplyOn := false, supplyMv := 0, supplyMa := 0, offStaged := false }) s

/-- Was the pod JOINING or ACTIVE (R64)? -/
def podLive (q : Pod) : Bool := q.state == .joining || q.state == .active

/-- The pod's inputs become ABSENT from the sample of this instant (R63, R66): samples taken before it stand (R146), and a
shadow on it is abandoned (R120); before the first intake sample of an epoch it is not among that epoch's ACTIVE pods (R252). -/
def absentNow (p : Nat) (s : State) : State :=
  let s := if clocked p s then judgeClocks p (nowU s) s else s
  let early := match s.ret.intakeRow with
    | some r => decide (s.tm.ax5 ≤ 256 * r)
    | none => true
  let s := (List.range 17).foldl (fun s k => modInput (inputIndex p k) clearInput s) s
  let s := { s with ret := { s.ret with
    nextFirst := if early then s.ret.nextFirst.map (fun x => (withoutBit p x.1, x.2)) else s.ret.nextFirst } }
  modPod p (fun q => { q with
    capture := q.capture.map fun c => { c with gone := some (c.gone.getD s.tm.ax5) },
    clocks := [],
    cal := { q.cal with shadow := none, shadowDone := false, shadowRes := none } }) s

/-- The number of the 1 us presence sample (R58, R65). -/
def podSample (s : State) : Nat := s.tm.tick / usTicks s

/-- A second cause in the same 1 us sample: the POD_GONE cairn and the gap that began in it carry the lower code (R65). -/
def lowerCause (p cause : Nat) (s : State) : State :=
  let s := modPod p (fun q => { q with
    gapFrom := q.gapFrom.map fun g => (g.1, if q.gapAt = some (podSample s) then min g.2 cause else g.2) }) s
  { s with ret := { s.ret with cairns := s.ret.cairns.map fun c =>
      if c.code = 6 ∧ c.pod = p ∧ c.instant / 640000 = nowU s / 640000 then
        { c with payload := c.payload.set 1 (BitVec.ofNat 8 (min ((c.payload.getD 1 0).toNat) cause)) }
      else c } }

/-- The POD_GONE cairn and the start of the pod-removal gap of a pod that was JOINING or ACTIVE while acquisition runs
(R64, R66); the gap begins at the first block in which every input is ABSENT. -/
def podGone (p cause : Nat) (s : State) : State :=
  if podLive (podAt s p) ∧ acquiring s then
    let s := pushCairn 0x0006 (nowU s) 1 p (leBytes 1 p ++ leBytes 1 cause) s
    modPod p (fun q => { q with
      gapFrom := some (q.gapFrom.getD (nextRow s, cause)), dropAt := some (podSample s),
      gapAt := if q.gapFrom.isNone then some (podSample s) else q.gapAt }) s
  else if (podAt s p).dropAt = some (podSample s) then lowerCause p cause s
  else modPod p (fun q => { q with dropAt := some (podSample s) }) s

/-- Everything that drops a pod's inputs out of capture for a cause of R64. -/
def dropPod (p cause : Nat) (s : State) : State := absentNow p (podGone p cause s)

/-- The bounds of the pod-removal gap end here: the GAP frame is handed over (R66). -/
def closePodGap (p row : Nat) (s : State) : State :=
  match (podAt s p).gapFrom with
  | none => s
  | some (r, cause) =>
    let s := modPod p (fun q => { q with gapFrom := none }) s
    if r < row then pushGap 5 cause (2 ^ p) p (256 * r) (some (256 * row)) s else s

/-- A POD_POWER ON of mailbox `m` that waits for no pod any more completes with its DONE_MASK (R76). -/
def finishOn (m : Nat) (s : State) : State :=
  if s.pods.toList.any (fun q => q.onFor.contains m) then s
  else
    let want := fieldAt (mbOf s m).req 0 2
    let got := maskOf ((bitsSet 16 want).filter fun i => podLive (podAt s i))
    if mbRuns m 0x0102 s then mbComplete m (okWith (leBytes 2 got)) s else s

/-- POD_POWER ON stops waiting for a pod (R76). -/
def settleOn (p : Nat) (s : State) : State :=
  let ms := (podAt s p).onFor
  ms.foldl (fun s m => finishOn m s) (modPod p (fun q => { q with onFor := [] }) s)

/-- Safe-state entry turns every supply off; each pod that was UNPOWERED, POWERING, JOINING or ACTIVE enters FAULTED, one
in IDENTIFY waits with its auxiliary supply off (R74). -/
def safePod (p : Nat) (s : State) : State :=
  let q := podAt s p
  let s := absentNow p (supplyCut p s)
  let s := modPod p (fun q => { q with
    vaux := false, telemBusy := false, waiting := q.waiting || q.state == .identify }) s
  match q.state with
  | .unpowered => setPod p .faulted s
  | .powering => setPod p .faulted s
  | .joining => setPod p .faulted s
  | .active => setPod p .faulted s
  | _ => s

/-- On release the auxiliary supply of every inserted pod comes on again (R54); each pod still present that safe-state entry
had FAULTED, or that waits in IDENTIFY, returns to step 3 of R58, its earlier descriptor still stored (R74, R77); without
firmware it waits (R522). -/
def releasePod (p : Nat) (s : State) : State :=
  let q := podAt s p
  let s := modPod p (fun q => { q with vaux := q.vaux || (q.present && q.state != .empty && q.state != .debounce) }) s
  if q.present ∧ ((q.state = .faulted ∧ !q.supplyFault ∧ !q.overvolt) ∨ q.state = .identify) then
    modPod p (fun q => { q with readFails := 0, waiting := !firmwareUp s }) (setPod p .identify s)
  else s

/-- The 1 ms update of PODC_SUPPLYp: what is measured on a supply that is on is a free value (R88, log 7). -/
def measureSupply (p : Nat) (s : State) : State :=
  if (podAt s p).supplyOn then
    let v := freeBits 16 s
    let i := freeBits 16 v.2
    modPod p (fun q => { q with supplyMv := v.1, supplyMa := i.1 }) i.2
  else s

/-- The supplies of all pods are measured every 1 ms (R88). -/
def measureSupplies (s : State) : State :=
  if s.tm.tick % msTicks s = 0 then (List.range 16).foldl (fun s p => measureSupply p s) s else s

end Sys2Proof.Machine
end

