-- ==== Sys2Proof/Machine/Faults.lean ====
section
/-! DEFINITION. The fault collector: signalling a source, its latch, what each severity does, containment and its end,
safe-state entry (R563-R571, R575). -/

namespace Sys2Proof.Machine

def Severity.code : Severity → Nat
  | .record => 0
  | .notify => 1
  | .contain => 2
  | .safe => 3

def severityOf : Nat → Severity
  | 0 => .record
  | 1 => .notify
  | 2 => .contain
  | _ => .safe

/-- Does the variant have fault source Ff (R11, R15, R563)? -/
def hasSource (v : Variant) (f : Nat) : Bool :=
  decide (f ≤ 38) && (f != 32 || v.sealer) && (!(decide (27 ≤ f ∧ f ≤ 29)) || v.ridgeline) && (f != 35 || v.drives)

/-- The severity in force for the next latch of a source (R568): F0 is always SAFE. -/
def sevInForce (f : Nat) (s : State) : Severity :=
  if f = 0 then .safe else severityOf (bitsOf 1 0 ((tabGet s.flt.sev (f / 16) 0).toNat >>> (2 * (f % 16))))

/-- FAULT_N is asserted in safe state and while a status bit is set whose severity is at or above FAULTN_SEV (R570). -/
def faultNDriven (s : State) : Bool :=
  s.dev.safe || (List.range 39).any fun f =>
    s.flt.status.getLsbD f && decide (s.flt.faultnSev ≤ (tabGet s.flt.latched f .record).code)

/-- Is the FAULT_N ball pulled low? On an unpowered bank it is high-Z (R570, R594). -/
def faultNPin (s : State) : Bool := s.flt.faultN && bankOn .faultN s

def updateFaultN (s : State) : State := { s with flt := { s.flt with faultN := faultNDriven s } }

/-- Queue a history entry, or drop it when 32 are held (R569). -/
def pushHist (f : Nat) (sev : Severity) (info : Word) (inj : Bool) (s : State) : State :=
  if 32 ≤ s.flt.hist.length then
    let first := !s.flt.overflow
    let s := { s with flt := { s.flt with dropCnt := s.flt.dropCnt + 1, overflow := true } }
    if first then raise 1 9 s else s
  else
    let t := t0Of s.tm.a
    let e : HistEntry := { sec := t.1, ns := t.2, source := f, severity := sev, injected := inj, info := info }
    { s with flt := { s.flt with hist := s.flt.hist ++ [e] } }

/-! ## Live conditions (R563) -/

/-- The TRIGOUT pins in contention: still driven at the level at which the ball was read opposite (R563; log 52). -/
def contendedPins (s : State) : Nat :=
  maskOf ((List.range 4).filter fun x => match s.trigout.toList[x]? with
    | some t => t.contended.isSome && t.contended == trigLevel x s
    | none => false)

/-- The conditions that are live: those held as bits, and F34 while a pin is in contention. -/
def liveMask (s : State) : Word64 := s.flt.live ||| (if contendedPins s = 0 then 0 else BitVec.ofNat 64 (2 ^ 34))

/-! ## Containment (R565, R566) -/

/-- Does the source name a contained unit (R563, R579)? For F10 the memory is in INFO; a scratchpad word that no command and no
claim uses has none. -/
def hasUnit (f : Nat) (info : Word) (unit : Nat) : Bool :=
  f == 15 || decide (27 ≤ f ∧ f ≤ 29) || f == 34 ||
    (f == 10 && (let m := info.toNat >>> 27; m == 1 || (m == 2 && decide (unit < 8)) || m == 7))

/-- The mailbox whose command or claim uses a word of the scratchpad (R495, R579), 8 when none does. -/
def scratchUser (word : Nat) (s : State) : Nat :=
  let a := 8 * word
  if a < 0x800 then if (mbOf s (a / 0x100)).state = .running then a / 0x100 else 8
  else
    let uses (k : Nat) : Bool :=
      let w := cwOf s k
      w.claimed && decide (4096 * w.base ≤ a ∧ a < 4096 * w.base + cwSize w)
    match (List.range 7).find? uses with
    | some k => (cwOf s k).mb
    | none => 8

/-- A resource of the fabric reads as all fields 0 (R579): 0-15 words, then bus maps, ranges, counters, timers. -/
def clearResource (i : Nat) (m : Image) : Image :=
  if i < 16 then { m with words := tabMod m.words i fun _ => { en := false, src := false, neg := false, value := 0, mask := 0 } }
  else if i < 24 then { m with maps := tabMod m.maps (i - 16) fun _ => [] }
  else if i < 32 then { m with ranges := tabMod m.ranges (i - 24) fun _ =>
    { en := false, signed := false, src := false, bus := 0, cond := 0, lo := 0, hi := 0 } }
  else if i < 64 then { m with counters := tabMod m.counters (i - 32) fun _ =>
    { wrap := false, autoClr := false, incTerm := 0, limit := 0, preload := 0 } }
  else { m with timers := tabMod m.timers (i - 64) fun _ =>
    { autoStart := false, atPlace := false, startTerm := 0, stopTerm := 0, limit := 0 } }

/-- Stop the contained unit of a source (R563, R579). Units of F10 in memory 7: 0-3 a sequencer, 4 and up a resource, which
reads as 0 while it is contained (`unitHeld`). -/
def stopUnit (f : Nat) (info : Word) (unit : Nat) (s : State) : State :=
  if 27 ≤ f ∧ f ≤ 29 then disablePort (f - 27) s
  else if f = 34 then
    { s with trigout := tabMod s.trigout unit fun t => { t with contained := true, requests := [] } }
  else if f = 15 then fenceLane unit s
  else if f = 10 then
    if info.toNat >>> 27 = 1 then restartSummit false s
    else if info.toNat >>> 27 = 2 then
      if unit < 8 ∧ (mbOf s unit).state = .running then mbComplete unit (fail stInternal) (cancelLong unit s) else s
    else if unit < 4 then
      modSeq unit (fun q => { q with mode := .unloaded, state := 0, flag := false, wait := none }) (disarmNow unit s)
    else s
  else s

/-- A containment (R565, R566): the unit stops, G1.5, a FAULT cairn, and while RUNNING the epoch ends with cause CONTAIN.
A unit whose source latches again within 1 s of its rejoining stays stopped until its status bit is cleared. -/
def contain (f : Nat) (info : Word) (unit : Nat) (s : State) : State :=
  let mem := if f = 10 then info.toNat >>> 27 else 0
  let same (c : Contained) : Bool := c.source == f && c.mem == mem && c.unit == unit
  let sticky := s.flt.contained.any fun c =>
    same c && match c.rejoin with
      | some t => decide (s.tm.tick ≤ t + 1000 * msTicks s)
      | none => c.sticky
  let e : Contained := { source := f, mem := mem, unit := unit, stopped := true, rejoin := none, sticky := sticky }
  let s := { s with flt := { s.flt with
    contained := (s.flt.contained.filter fun c => !same c) ++ [e] } }
  let s := raise 1 5 (stopUnit f info unit s)
  let s := cairnNow 0x000E (leBytes 1 f ++ leBytes 1 2 ++ zeros 2 ++ leBytes 4 info.toNat) s
  if s.dev.acq = .running then acceptCause 3 s else s

/-- A unit is reinitialised to its empty state (R566). -/
def restoreUnit (c : Contained) (s : State) : State :=
  if 27 ≤ c.source ∧ c.source ≤ 29 then
    modPort (c.source - 27) (fun q =>
      if q.enable ∧ q.state = .disabled then { q with state := .training, trainFrom := s.tm.tick } else q) s
  else if c.source = 34 then
    { s with trigout := tabMod s.trigout c.unit fun t => { t with contained := false, contended := none } }
  else if c.source = 10 ∧ c.mem = 7 ∧ c.unit < 4 ∧ (progIn s.dev.variant s.cfg.active c.unit).isSome then
    modSeq c.unit (fun q => { q with mode := .idle, state := 0 }) s
  else s

/-- May a contained unit rejoin: its condition is over and software need not clear it first; a lane fenced under F15 not
before its fence is gone (R277, R566). -/
def mayRejoin (c : Contained) (s : State) : Bool :=
  c.stopped && !c.sticky && !(liveMask s).getLsbD c.source &&
    !(c.source == 15 && tabGet (s.cmp.lanes.map fun l => l.fenced) c.unit false)

/-- At an epoch opening or ACQ_START each contained unit whose condition is no longer live rejoins and its status bit is
cleared (R566). -/
def rejoinUnits (s : State) : State :=
  updateFaultN (s.flt.contained.foldl (fun s c =>
    if mayRejoin c s then
      let s := restoreUnit c s
      { s with flt := { s.flt with
          status := s.flt.status &&& ~~~(BitVec.ofNat 64 (2 ^ c.source)),
          contained := s.flt.contained.map fun d =>
            if d.source = c.source ∧ d.mem = c.mem ∧ d.unit = c.unit then { d with stopped := false, rejoin := some s.tm.tick } else d } }
    else s) s)

/-! ## Safe state (R571) -/

/-- What the epoch under way leaves when recording freezes (R39): no boundary, no frame follows. -/
def freezeCapture (s : State) : State :=
  { s with
    ring := { s.ring with intake := false, staging := [], episode := none, overflow := none, lost := [] },
    ret := { s.ret with
      boundary := none, heldStop := none, heldRow := none, heldEpoch := false, cur := none, requests := [], fires := [], cairns := [],
      gaps := [], logPending := [], logTicks := [], logDropped := 0, logDue := false, rowsRead := [], intakeRow := none,
      nextFirst := none },
    fab := { s.fab with running := false },
    trigout := s.trigout.map fun t => { t with requests := [] } }

/-- Safe-state entry for source `f`: the fabric has evaluated what had been captured, then everything stops (R571, R39, R74, R225, R434). -/
def enterSafe (f : Nat) (s : State) : State :=
  let s := moveH (stopFabric s.tm.ax5 s)
  let s := { s with
    dev := { s.dev with safe := true, acq := .frozen }, cfg := { s.cfg with unfit := true },
    flt := { s.flt with safeCnt := s.flt.safeCnt + 1, cause := f } }
  let s := updateFaultN (raise 1 6 s)
  let s := freezeCapture (freezeRecord s)
  let s := disarmAll s
  let s := (List.range 3).foldl (fun s p => safePort p s) s
  let s := (List.range 16).foldl (fun s p => safePod p s) s
  (List.range 16).foldl (fun s p => settleOn p s) s

/-! ## Latching (R564, R565) -/

/-- F0 reloads the severities and FLT_CTRL with their reset values (R574). -/
def reloadCollector (s : State) : State :=
  { s with flt := { s.flt with sev := sevReset s.dev.variant, faultnSev := 3, extEn := true } }

/-- A latch with a severity: status bit, count, history, log, and what the severity does; a latch during safe state
raises G1.4 alone (R564, R565). -/
def latch (f : Nat) (info : Word) (unit : Nat) (inj : Bool) (sev : Severity) (s : State) : State :=
  let s := { s with flt := { s.flt with
    status := s.flt.status ||| BitVec.ofNat 64 (2 ^ f), latched := tabMod s.flt.latched f fun _ => sev,
    latchCnt := s.flt.latchCnt + 1 } }
  let s := logFault f sev.code info inj (pushHist f sev info inj s)
  let s := if f = 0 then reloadCollector s else s
  let s := if sev = .record then s else raise 1 4 s
  let s :=
    if s.dev.safe then s
    else match sev with
      | .safe => enterSafe f s
      | .contain => if hasUnit f info unit then contain f info unit s else s
      | _ => s
  updateFaultN s

/-- A condition of source `f` arises with a severity given: it latches when the collector runs, the variant has the
source and its status bit is clear (R563, R564, R575). -/
def signalWith (f : Nat) (info : Word) (unit : Nat) (inj : Bool) (sev : Severity) (s : State) : State :=
  if s.flt.on ∧ hasSource s.dev.variant f ∧ !s.flt.status.getLsbD f then latch f info unit inj sev s else s

/-- A single occurrence of source `f` (R563). -/
def signalUnit (f : Nat) (info : Word) (unit : Nat) (s : State) : State := signalWith f info unit false (sevInForce f s) s

/-- A single occurrence of a source that names no unit beyond itself. -/
def signal (f : Nat) (info : Word) (s : State) : State := signalUnit f info 0 s

/-- The condition of a lasting source begins to hold: it is live, and it arises if it was not (R563, R564). -/
def goLive (f : Nat) (info : Word) (s : State) : State :=
  if !hasSource s.dev.variant f ∨ s.flt.live.getLsbD f then s
  else signal f info { s with flt := { s.flt with live := s.flt.live ||| BitVec.ofNat 64 (2 ^ f) } }

/-- A holdover that began on a lost reference is the condition of F7 (R451); one entered by a switch is not (R453). -/
def settleRef (s : State) : State := if inHoldover s ∧ !s.pll.switching then goLive 7 0 s else s

/-- The condition of a lasting source ends. -/
def goDead (f : Nat) (s : State) : State :=
  { s with flt := { s.flt with live := s.flt.live &&& ~~~(BitVec.ofNat 64 (2 ^ f)) } }

/-- INFO of a lasting source at a moment (R567). -/
def liveInfo (f : Nat) (s : State) : Word :=
  if f = 1 then BitVec.ofNat 32 (s.cfg.section_ % 16)
  else if f = 21 ∨ f = 22 then s.dev.dieTemp.zeroExtend 32
  else if f = 23 then BitVec.ofNat 32 (s.dev.badRails.headD 0)
  else 0

/-- F38 is live as EXT_EN and the pin have it (R570); nothing latches by this alone. -/
def extLive (s : State) : State :=
  { s with flt := { s.flt with live :=
    (s.flt.live &&& ~~~(BitVec.ofNat 64 (2 ^ 38))) ||| (if s.flt.extEn && s.flt.faultInLow then BitVec.ofNat 64 (2 ^ 38) else 0) } }

/-- F10 latches with severity SAFE for the failures that start-up left unrepaired (R582). -/
def latchFailed (s : State) : State :=
  match s.mem.failed with
  | [] => s
  | i :: _ => signalWith 10 i 8 false .safe { s with mem := { s.mem with failed := [] } }

/-- Every condition live at this moment latches, in ascending source order, and F10 what start-up left it (R564, R575, R582). -/
def latchLive (s : State) : State :=
  (List.range 39).foldl (fun s f =>
    if f = 10 then latchFailed s else if s.flt.live.getLsbD f then signal f (liveInfo f s) s else s) s

/-- The collector starts (R575, R599 step 6). -/
def startCollector (s : State) : State := latchLive { s with flt := { s.flt with on := true } }

/-! ## What several families signal -/

/-- A Ridgeline port's link fault, once per episode, with the port STATE as INFO (R408, R567). -/
def PortState.code : PortState → Nat
  | .disabled => 0
  | .training => 1
  | .up => 2
  | .peerFault => 3

def linkFault (p : Nat) (s : State) : State :=
  if (portOf s p).faulted then s
  else
    let s := modPort p (fun q => { q with faulted := true }) s
    signalUnit (27 + p) (BitVec.ofNat 32 (portOf s p).state.code) p s

/-- A port has left UP: its link fault, and F7 where its recovered clock was the reference in use (R408, R451). -/
def lostPort (p : Nat) (s : State) : State := settleRef (linkFault p s)

/-- A mailbox or window protocol violation (R502, R512, R517): G0.8 or G0.9, its count, F37. -/
def protoMailbox (m : Nat) (s : State) : State :=
  let s := raise 0 8 { s with summit := { s.summit with protoMb := s.summit.protoMb + 1 } }
  signal 37 (BitVec.ofNat 32 m) s

def protoWindow (k : Nat) (s : State) : State :=
  let s := raise 0 9 { s with summit := { s.summit with protoCw := s.summit.protoCw + 1 } }
  signal 37 (BitVec.ofNat 32 (128 + k)) s

end Sys2Proof.Machine
end

