-- ==== Sys2Proof/Machine/HostOps.lean ====
section
/-! DEFINITION. What every access of the host goes through: device states that turn it away (R477, R481, R545), the
consumption of an unlock (R540), and error reports (R477). -/

namespace Sys2Proof.Machine

/-! ## Error reports (R477) -/

/-- The bit of an uncorrectable error in the AER registers (PRESUMED, log 78): 0 Completion Timeout, 1 Unexpected Completion,
2 Unsupported Request, 3 Poisoned TLP Received, 4 ECRC, 5 Malformed TLP, 6 Receiver Overflow, 7 Flow Control Protocol, 8 Data Link
Protocol, 9 Uncorrectable Internal. -/
def aerUncBit (code : Nat) : Nat := [14, 16, 20, 12, 19, 18, 17, 13, 4, 22].getD code 31

/-- The bit of a correctable error: 10 Receiver Error, 11 Bad TLP, 12 Bad DLLP, 13 Replay Timer Timeout, 14 REPLAY_NUM Rollover,
15 Corrected Internal; any other is Advisory Non-Fatal. -/
def aerCorBit (code : Nat) : Nat := if 10 ≤ code ∧ code ≤ 15 then [0, 6, 7, 12, 8, 14].getD (code - 10) 13 else 13

/-- A correctable or advisory error: counted, G14.6. -/
def aerCorrectable (code : Nat) (s : State) : State :=
  raise 14 6 (emitOut (.aer code) { s with pcie := { s.pcie with
    corr := s.pcie.corr + 1, aer := { s.pcie.aer with corStat := s.pcie.aer.corStat ||| BitVec.ofNat 32 (2 ^ aerCorBit code) } } })

/-- Are uncorrectable errors of this code masked, so that none is reported? -/
def aerMasked (code : Nat) (s : State) : Bool := s.pcie.aer.uncMask.getLsbD (aerUncBit code)

/-- An uncorrectable error that is not advisory: once it is reported, F24 and G14.7. -/
def aerUncorrectable (code : Nat) (s : State) : State :=
  let s := emitOut (.aer code) { s with pcie := { s.pcie with aer := { s.pcie.aer with
    uncStat := s.pcie.aer.uncStat ||| BitVec.ofNat 32 (2 ^ aerUncBit code) } } }
  if aerMasked code s then s else signal 24 0 (raise 14 7 s)

/-- An error that is advisory while its severity is Non-Fatal (R473, R477). -/
def aerAdvisory (code : Nat) (s : State) : State :=
  if s.pcie.aer.uncSev.getLsbD (aerUncBit code) then aerUncorrectable code s
  else aerCorrectable code { s with pcie := { s.pcie with aer := { s.pcie.aer with
    uncStat := s.pcie.aer.uncStat ||| BitVec.ofNat 32 (2 ^ aerUncBit code) } } }

/-- A read answered with Unsupported Request, advisory: counted in PCIE_INB_UR_CNT (R477). -/
def urRead (bar off : Nat) (s : State) : State :=
  aerAdvisory 2 (emitOut (.unsupportedReq bar off) { s with pcie := { s.pcie with inbUr := s.pcie.inbUr + 1 } })

/-- A posted memory write in D3hot: discarded, an Unsupported Request that is not advisory (R477). -/
def urWrite (s : State) : State := aerUncorrectable 2 s

/-- Is the device out of reset, a Function Level Reset included, with its rails up? -/
def alive (s : State) : Bool := coreUp s && !s.pcie.flr

/-- Are configuration requests served? Until READY, but for a SOFT reset, each gets a Retry Status (R483, R543, R599). -/
def configServed (s : State) : Bool := alive s && (s.dev.ready || s.dev.softPending)

/-- A write TLP to BAR0: it consumes a pending unlock, whose class the access gets; in D3hot it is refused, and during a SOFT
reset, when no unlock is pending, discarded (R481, R540, R545). -/
def barWrite (act : Nat → State → State) (s : State) : State :=
  if !alive s then s
  else if s.pcie.d3hot then urWrite (takeUnlock s).2
  else if s.dev.softPending then s
  else act (takeUnlock s).1 (takeUnlock s).2

/-- A read of BAR `bar`: in D3hot it gets Unsupported Request, and during a SOFT reset zeros in BAR0 and BAR4 (R481, R545). -/
def barRead (bar off n : Nat) (act : State → State) (s : State) : State :=
  if !alive s then s
  else if s.pcie.d3hot then urRead bar off s
  else if s.dev.softPending ∧ bar ≠ 2 then emitOut (.readData bar off (zeros n) false) s
  else act s

/-- A write TLP to BAR2 or BAR4. -/
def memWriteTlp (bar : Nat) (act : State → State) (s : State) : State :=
  if !alive s then s
  else if s.pcie.d3hot then urWrite s
  else if s.dev.softPending ∧ bar ≠ 2 then s
  else act s

/-- A full-width write of a KEY register with an unlock of class `c`, or the refusal of R533, R534 and R541. -/
def keyed (c cls off : Nat) (v : Word) (be : BitVec 4) (act : State → State) (s : State) : State :=
  if !fullWidth be then refuseWidth off v be s else if cls = c then act s else refuseWrite off v be s

/-- A write of a special register without a key: full width acts, narrow is ignored with ACCESS_WIDTH (R533). -/
def special (off : Nat) (v : Word) (be : BitVec 4) (act : State → State) (s : State) : State :=
  if fullWidth be then act s else refuseWidth off v be s

end Sys2Proof.Machine
end

