-- ==== Sys2Proof/Machine/FaultCmds.lean ====
section
/-! DEFINITION. The fault collector's registers and the events from outside that its sources watch (R563-R574, R589-R591). -/

namespace Sys2Proof.Machine

/-! ## Registers -/

/-- The writable bits of FLT_SEVi: F0's field and those of sources that never latch or are absent are fixed (R568). -/
def sevWritable (v : Variant) (i : Nat) : Word :=
  BitVec.ofNat 32 (maskOf ((List.range 16).flatMap fun j =>
    if 16 * i + j ≠ 0 ∧ hasSource v (16 * i + j) then [2 * j, 2 * j + 1] else []))

/-- A write of FLT_SEVi (R568). -/
def writeFltSev (i : Nat) (v : Word) (be : BitVec 4) (cls : Nat) (s : State) : State :=
  keyed 4 cls (0x4020 + 4 * i) v be (fun s =>
    { s with flt := { s.flt with
        sev := tabMod s.flt.sev i fun w => mergeBits w v be (sevWritable s.dev.variant i) } }) s

/-- EXT_EN decides whether FAULT_IN_N feeds F38 (R570). -/
def feedExt (s : State) : State := if s.flt.extEn ∧ s.flt.faultInLow then goLive 38 0 s else goDead 38 s

/-- A write of FLT_CTRL (R591). -/
def writeFltCtrl (v : Word) (be : BitVec 4) (cls : Nat) (s : State) : State :=
  keyed 4 cls 0x4010 v be (fun s =>
    let s := { s with flt := { s.flt with extEn := v.getLsbD 8, faultnSev := bitsOf 5 4 v.toNat } }
    updateFaultN (feedExt s)) s

/-- Write-1-to-clear of the status bits given: only where the condition is not live (R564); a unit held stopped may then
rejoin (R566). -/
def clearStatus (bits : Word64) (s : State) : State :=
  let m := bits &&& s.flt.status &&& ~~~(liveMask s)
  updateFaultN { s with flt := { s.flt with
    status := s.flt.status &&& ~~~m,
    contained := s.flt.contained.map fun c => if m.getLsbD c.source then { c with sticky := false } else c } }

def writeFltStatus (hi : Bool) (v : Word) (be : BitVec 4) (s : State) : State :=
  special (if hi then 0x4004 else 0x4000) v be
    (clearStatus (if hi then v.zeroExtend 64 <<< 32 else v.zeroExtend 64)) s

/-- A write of FLT_HIST_POP (R569). -/
def writeHistPop (v : Word) (be : BitVec 4) (s : State) : State :=
  special 0x4034 v be (fun s =>
    if v.getLsbD 0 then { s with flt := { s.flt with hist := s.flt.hist.drop 1 } } else s) s

/-- FLT_SAFE_STATUS.RELEASABLE (R573). -/
def releasable (s : State) : Bool :=
  s.dev.safe && !(List.range 39).any fun f =>
    s.flt.status.getLsbD f && (liveMask s).getLsbD f && (tabGet s.flt.latched f .record) == .safe

/-- The status bits of sources latched with SAFE whose condition is not live. -/
def safeBits (s : State) : Word64 :=
  BitVec.ofNat 64 (maskOf ((List.range 39).filter fun f =>
    s.flt.status.getLsbD f && !(liveMask s).getLsbD f && (tabGet s.flt.latched f .record) == .safe))

/-- A Ridgeline port retrains when safe state ends (R434). -/
def retrainPort (p : Nat) (s : State) : State :=
  if (portOf s p).state = .up then lostPort p (leaveUp p .training s) else s

/-- The safe state ends (R573, R575, R74, R434): acquisition is IDLE, and packets may open again. -/
def endSafe (s : State) : State :=
  let s := { s with
    dev := { s.dev with safe := false, acq := .idle },
    eq := { s.eq with safeHold := false, frozen := false } }
  let s := (List.range 3).foldl (fun s p => retrainPort p s) s
  (List.range 16).foldl (fun s p => releasePod p s) s

/-- An accepted release (R573). -/
def releaseSafe (s : State) : State :=
  let s := { s with flt := { s.flt with status := s.flt.status &&& ~~~(safeBits s) } }
  raise 1 7 (updateFaultN (endSafe s))

/-- A write of FLT_SAFE_RELEASE (R573). -/
def writeSafeRelease (v : Word) (be : BitVec 4) (cls : Nat) (s : State) : State :=
  keyed 2 cls 0x4014 v be (fun s =>
    if v ≠ 1 then refuseWrite 0x4014 v be s else if releasable s then releaseSafe s else raise 1 8 s) s

/-! ## Commands -/

/-- FLT_SEV_WRITE (R568). -/
def execFltSevWrite (i : Fin 4) (v : Word) (be : BitVec 4) (s : State) : Result :=
  .next (barWrite (fun cls => writeFltSev i.val v be cls) s)

/-- FLT_CTRL_WRITE (R591). -/
def execFltCtrlWrite (v : Word) (be : BitVec 4) (s : State) : Result := .next (barWrite (fun cls => writeFltCtrl v be cls) s)

/-- FLT_STATUS_CLEAR (R564). -/
def execFltStatusClear (hi : Bool) (v : Word) (be : BitVec 4) (s : State) : Result :=
  .next (barWrite (fun _ => writeFltStatus hi v be) s)

/-- FLT_HIST_POP (R569). -/
def execFltHistPop (v : Word) (be : BitVec 4) (s : State) : Result := .next (barWrite (fun _ => writeHistPop v be) s)

/-- FLT_SAFE_RELEASE (R573). -/
def execFltSafeRelease (v : Word) (be : BitVec 4) (s : State) : Result :=
  .next (barWrite (fun cls => writeSafeRelease v be cls) s)

/-- The conditions of F21 and F22 at a temperature in 1/16 degree (R563): above 110 and 125 degrees they hold, until 105
and 115. -/
def judgeTemp (t : Int) (s : State) : State :=
  let s := if 1760 < t then goLive 21 (liveInfo 21 s) s else if t ≤ 1680 then goDead 21 s else s
  if 2000 < t then goLive 22 (liveInfo 22 s) s else if t ≤ 1840 then goDead 22 s else s

/-- DIE_TEMP_SAMPLE (R563): the measurement of every 1 ms. -/
def execDieTempSample (t : BitVec 16) (s : State) : Result :=
  .next (if s.dev.tempAt + msTicks s ≤ s.tm.tick then
      judgeTemp t.toInt { s with dev := { s.dev with dieTemp := t, tempAt := s.tm.tick } }
    else s)

/-- The mask of rail `r` among the VIO banks, whose rails are 6 to 9 (R593). -/
def bankMask (r : Nat) : Nat := if 6 ≤ r ∧ r ≤ 9 then 2 ^ (r - 6) else 0

/-- A rail that F23 stops watching, or that is back in range: F23 goes dead with the last one (R563, R594). -/
def railFine (r : Nat) (s : State) : State :=
  let s := { s with dev := { s.dev with badRails := s.dev.badRails.filter (· ≠ r) } }
  if s.dev.badRails = [] then goDead 23 s else s

/-- A VIO bank falls below 0.3 V: it counts as unpowered and F23 does not watch it (R594). FAULT_IN_N on VIO3 then reads
high, its inactive level. -/
def bankLost (r : Nat) (s : State) : State :=
  let s := railFine r { s with dev := { s.dev with vioOff := s.dev.vioOff ||| bankMask r } }
  if bankOn .faultInN s then s else feedExt { s with flt := { s.flt with faultInLow := false } }

/-- RAIL_MONITOR (R563, R594): a rail has been out of its range for 10 us; a VIO bank below 0.3 V counts as unpowered. -/
def execRailMonitor (l : RailLevel) (s : State) : Result :=
  if l.unpowered ∧ bankMask l.rail ≠ 0 then .next (bankLost l.rail s)
  else
    let s := { s with dev := { s.dev with vioOff := withoutMask (bankMask l.rail) s.dev.vioOff } }
    if l.rail ≤ 10 ∧ l.rail ∉ s.dev.badRails then
      .next (goLive 23 (BitVec.ofNat 32 l.rail) { s with dev := { s.dev with badRails := s.dev.badRails ++ [l.rail] } })
    else .next s

/-- RAIL_BACK_IN_RANGE (R563): rail `r` has been back in range for 1 ms; a VIO bank is powered again (R594). -/
def execRailBackInRange (r : Nat) (s : State) : Result :=
  .next (railFine r { s with dev := { s.dev with vioOff := withoutMask (bankMask r) s.dev.vioOff } })

/-- EXT_FAULT_IN (R570): FAULT_IN_N has been low for 1 us. On an unpowered bank it reads high (R594). -/
def execExtFaultIn (s : State) : Result :=
  .next (if bankOn .faultInN s then feedExt { s with flt := { s.flt with faultInLow := true } } else s)

/-- EXT_FAULT_IN_END (R570): FAULT_IN_N has been high for 1 us. -/
def execExtFaultInEnd (s : State) : Result := .next (feedExt { s with flt := { s.flt with faultInLow := false } })

/-- The status bits rebuilt from the live conditions and the history, with F0's own (R574). -/
def rebuildStatus (s : State) : State :=
  let hist := maskOf (s.flt.hist.map fun e => e.source)
  updateFaultN { s with flt := { s.flt with status := liveMask s ||| BitVec.ofNat 64 hist ||| 1 } }

/-- COLLECTOR_PARITY (R574). -/
def execCollectorParity (s : State) : Result :=
  if s.flt.on then .next (rebuildStatus (feedExt (reloadCollector (signalWith 0 0 0 false .safe s)))) else .next s

/-- Is TRIGOUTx driven (R230, R571)? MODE PULSE or ARMED outside safe state and containment,
on a powered bank (R594). -/
def trigDriven (x : Nat) (s : State) : Bool :=
  let m := bitsOf 1 0 (tabGet s.cfg.active.tout x 0).toNat
  !s.dev.safe && !s.dev.vioOff.testBit 0 && (m == 1 || m == 2) && match s.trigout.toList[x]? with
    | some t => !t.contained
    | none => false

/-- TRIGOUT_CONTENTION (R563): F34 with the pin, whose condition is live while the pin is driven at this level. -/
def execTrigoutContention (x : Fin 4) (s : State) : Result :=
  if trigDriven x.val s ∧ !(contendedPins s).testBit x.val then
    .next (signalUnit 34 (BitVec.ofNat 32 (2 ^ x.val)) x.val
      { s with trigout := tabMod s.trigout x.val fun t => { t with contended := trigLevel x.val s } })
  else .next s

end Sys2Proof.Machine
end

