-- ==== Sys2Proof/Machine/TimeAxes.lean ====
section
/-! DEFINITION. Time A, time B, PPS and the axes: the timebase tick, the wide registers that steer the counters, the
source of time B, and the inputs that move the encoder and mains axes (R367-R387). -/

namespace Sys2Proof.Machine

/-! ## Writing 64-bit registers (R537) -/

/-- The held low word of a 64-bit register, `dflt` where none has been written since its last act. -/
def heldLowOf (off : Nat) (dflt : Word) (s : State) : Word :=
  match s.tm.heldLow.find? (fun e => e.1 == off) with
  | some e => e.2
  | none => dflt

def setHeldLow (off : Nat) (w : Word) (s : State) : State :=
  { s with tm := { s.tm with heldLow := (s.tm.heldLow.filter fun e => e.1 ≠ off) ++ [(off, w)] } }

def dropHeldLow (off : Nat) (s : State) : State :=
  { s with tm := { s.tm with heldLow := s.tm.heldLow.filter fun e => e.1 ≠ off } }

/-- Is this the offset of an SCH_TARGETn? Hardware reloads it, which leaves its held low word alone (R537). -/
def isTarget (off : Nat) : Bool := decide (0x6000 ≤ off ∧ off < 0x6800) && off % 0x20 == 0x08

/-- A write of a 64-bit register (R537). `live` is its value in force; `isAct` marks an ACT register, whose narrow writes
are ignored with ACCESS_WIDTH. Any enabled byte of the high word acts. -/
def write64 (off : Nat) (isAct : Bool) (live v : Word64) (be : BitVec 8) (act : Word64 → State → State) (s : State) : State :=
  let keep := isAct || isTarget off
  let lo : BitVec 4 := be.extractLsb' 0 4
  let hi : BitVec 4 := be.extractLsb' 4 4
  if isAct ∧ ¬(be = 0xFF#8 ∨ be = 0x0F#8 ∨ be = 0xF0#8) then refuseWidth64 off v be s
  else
    let held := heldLowOf off (if keep then 0 else live.truncate 32) s
    let low := mergeBits held (v.truncate 32) lo 0xFFFFFFFF
    if hi = 0 then setHeldLow off low s
    else
      let high := mergeBits (live.extractLsb' 32 32) (v.extractLsb' 32 32) hi 0xFFFFFFFF
      let s := act (high ++ low) s
      if keep then (if lo = 0 then s else setHeldLow off low s) else dropHeldLow off s

/-! ## Time A (R369-R373) -/

/-- The range of an increment (R369). -/
def incrOk (v : Nat) : Bool := decide (0x03FF7CED92 ≤ v ∧ v ≤ 0x040083126E)

/-- The span of time A starts anew here, with a time and an increment (R368). -/
def spanA (step : Bool) (s : State) : State :=
  { s with tm := { s.tm with
      segA := { start := nowU s, time := s.tm.a, incr := s.tm.incrA, step := step } :: s.tm.segA } }

/-- The increment time B advances by (R374). -/
def bIncr (s : State) : Nat := if s.tm.source ≤ 1 then s.tm.incrB else s.tm.servoIncr

def spanB (step : Bool) (s : State) : State :=
  { s with tm := { s.tm with
      segB := { start := nowU s, time := s.tm.b, incr := bIncr s, step := step } :: s.tm.segB } }

/-- A write that acts on TIME_A_INCR (R369). -/
def setIncrA (v : Word64) (s : State) : State :=
  let n := v.toNat % 2 ^ 40
  if incrOk n then spanA false { s with tm := { s.tm with incrA := n } } else raise 2 2 s

def setIncrB (v : Word64) (s : State) : State :=
  let n := v.toNat % 2 ^ 40
  if incrOk n then spanB false { s with tm := { s.tm with incrB := n } } else raise 2 2 s

/-- A refused step of time A (R370). -/
def refuseStepA (s : State) : State :=
  raise 2 1 { s with tm := { s.tm with refused := (s.tm.refused + 1) % 65536 } }

/-- A write that acts on TIME_A_STEP (R370). -/
def setStepA (cls : Nat) (be : BitVec 8) (v : Word64) (s : State) : State :=
  if cls ≠ 0 ∧ cls ≠ 1 then refuseWrite64 0x5010 v be s
  else if v = 0 ∨ s.tm.stepA.isSome ∨ (s.tm.stepLimit.toNat < v.toInt.natAbs ∧ cls ≠ 1) then refuseStepA s
  else { s with tm := { s.tm with stepA := some (v.toInt, cls == 1) } }

/-- A write that acts on TIME_B_STEP (R374). -/
def setStepB (v : Word64) (s : State) : State :=
  if s.tm.source ≠ 1 ∨ v = 0 ∨ s.tm.stepB.isSome then raise 2 15 s
  else { s with tm := { s.tm with stepB := some v.toInt } }

def writeIncrA (v : Word64) (be : BitVec 8) (s : State) : State :=
  write64 0x5008 false (BitVec.ofNat 64 s.tm.incrA) v be setIncrA s

def writeIncrB (v : Word64) (be : BitVec 8) (s : State) : State :=
  write64 0x5028 false (BitVec.ofNat 64 s.tm.incrB) v be setIncrB s

def writeStepA (v : Word64) (be : BitVec 8) (cls : Nat) (s : State) : State :=
  if be = 0xFF ∧ cls ≠ 0 ∧ cls ≠ 1 then refuseWrite64 0x5010 v be s else write64 0x5010 true 0 v be (setStepA cls be) s

def writeStepB (v : Word64) (be : BitVec 8) (s : State) : State := write64 0x5030 true 0 v be setStepB s

/-- A write of TIME_A_STEP_LIMIT (R372). -/
def writeStepLimit (v : Word) (be : BitVec 4) (cls : Nat) (s : State) : State :=
  keyed 1 cls 0x5018 v be (fun s => { s with tm := { s.tm with stepLimit := v } }) s

/-- TIME_A_INCR (R369). -/
def execTimeAIncr (v : Word64) (be : BitVec 8) (s : State) : Result := .next (barWrite (fun _ => writeIncrA v be) s)

/-- TIME_A_STEP (R370). -/
def execTimeAStep (v : Word64) (be : BitVec 8) (s : State) : Result := .next (barWrite (fun cls => writeStepA v be cls) s)

/-- TIME_A_STEP_LIMIT (R372). -/
def execTimeAStepLimit (v : Word) (be : BitVec 4) (s : State) : Result :=
  .next (barWrite (fun cls => writeStepLimit v be cls) s)

/-- TIME_B_INCR (R374). -/
def execTimeBIncr (v : Word64) (be : BitVec 8) (s : State) : Result := .next (barWrite (fun _ => writeIncrB v be) s)

/-- TIME_B_STEP (R374). -/
def execTimeBStep (v : Word64) (be : BitVec 8) (s : State) : Result := .next (barWrite (fun _ => writeStepB v be) s)

/-- The payload of a TIME_STEP cairn (R259). -/
def timeStepPayload (old new : Time) (keyed : Bool) : List Byte := timeBytes old ++ timeBytes new ++ leBytes 1 (b2n keyed)

/-- TIME_INTEGRITY (R373): the second copy has been found to hold `copy1`. -/
def execTimeIntegrity (copy1 : Time) (s : State) : Result :=
  if copy1 = s.tm.a then .next s
  else
    let s := raise 2 14 (signal 30 0 { s with tm := { s.tm with aCopy := s.tm.a } })
    .next (cairnNow 0x0009 (timeStepPayload copy1 s.tm.a false) s)

/-! ## The tick (R367) -/

/-- A step in nanoseconds added to a time. -/
def stepTime (t : Time) (ns : Int) : Time := timeAdd t (ns * 2 ^ 32)

/-- The accepted step of time A is applied in this tick, after the increment (R371). -/
def applyStepA (s : State) : State :=
  match s.tm.stepA with
  | none => s
  | some (d, k) =>
    let old := s.tm.a
    let new := stepTime old d
    let s := spanA true { s with tm := { s.tm with
      a := new, aCopy := new, stepA := none, accepted := (s.tm.accepted + 1) % 65536 } }
    let s := raiseWith false 2 0 (t0Bytes (t0Of old) ++ t0Bytes (t0Of new)) s
    cairnNow 0x0009 (timeStepPayload old new k) s

/-- The cairn of a change of time B's source or of a step (R378). -/
def bCairn (old new reason : Nat) (s : State) : State :=
  cairnNow 0x000C (leBytes 1 old ++ leBytes 1 new ++ leBytes 1 reason) s

/-- Time B is stepped (R376, R378). -/
def doStepB (d : Int) (s : State) : State :=
  let s := spanB true { s with tm := { s.tm with b := timeAdd s.tm.b d } }
  bCairn s.tm.source s.tm.source 5 (raise 2 5 s)

/-- The accepted step of time B is applied in this tick (R374, R378). -/
def applyStepB (s : State) : State :=
  match s.tm.stepB with
  | none => s
  | some d => doStepB (d * 2 ^ 32) { s with tm := { s.tm with stepB := none } }

/-- An increment of one tick; on the backup oscillator a tick is 10 ns and adds five halves of it (R449). -/
def tickIncr (backup : Bool) (incr : Nat) : Nat := if backup then incr * 5 / 2 else incr

/-- The mains fraction at this tick (R385). -/
def mainsFrac (m : Mains) (ax5 : Nat) : Nat :=
  match m.lastZc with
  | none => m.frac
  | some z => if !m.enable ∨ m.lost ∨ m.period = 0 then m.frac else min 65535 ((ax5 - z) * 65536 / m.period)

/-- The mains axis at a tick: where its fraction moves, it moves continuously (R385, R386). -/
def mainsTick (m : Mains) (ax5 : Nat) : Mains :=
  let f := mainsFrac m ax5
  { m with frac := f, stepped := m.stepped && f == m.frac }

/-- The counters advance by one tick: time A with its copy, time B, AX5 (R367, R383, R449). -/
def countTick (s : State) : State :=
  let a := timeTick s.tm.a (tickIncr s.dev.backup s.tm.incrA)
  let x := (s.tm.ax5 + (if s.dev.backup then 25 else 10)) % 2 ^ 64
  { s with tm := { s.tm with
      tick := s.tm.tick + 1, ax5 := x, a := a, aCopy := a, b := timeTick s.tm.b (tickIncr s.dev.backup (bIncr s)),
      mains := mainsTick s.tm.mains x } }

/-- An encoder under new settings (R387). -/
def Enc.set (c : AxisSet) (e : Enc) : Enc :=
  let e := { e with enable := c.enable, invert := c.invert, mode := c.mode, index := c.index, filt := c.filt }
  match c.preset with
  | some n => { e with count := n, stepped := true }
  | none => e

/-- The mains axis under new settings (R387); the 100 ms of R385 run from the moment it is enabled. -/
def Mains.set (c : AxisSet) (ax5 : Nat) (m : Mains) : Mains :=
  let m := { m with enable := c.enable, mode := c.mode, since := if c.enable && !m.enable then ax5 else m.since }
  match c.preset with
  | some n => { m with cycles := n, frac := 0, stepped := true }
  | none => m

/-- Settings of AXIS_CFG take effect (R387). -/
def setAxis (s : State) (c : AxisSet) : State :=
  if c.axis = 4 then { s with tm := { s.tm with mains := s.tm.mains.set c s.tm.ax5 } }
  else { s with tm := { s.tm with enc := tabMod s.tm.enc (c.axis - 2) (Enc.set c) } }

/-- The settings accepted since the last tick take effect (R387). -/
def setAxes (s : State) : State :=
  s.tm.axisSet.foldl setAxis { s with tm := { s.tm with axisSet := [] } }

/-- A tick of the counters with the pending settings of the axes and the pending steps of both times. -/
def clockTick (s : State) : State := applyStepB (applyStepA (setAxes (countTick s)))

/-! ## The source of time B (R374-R379) -/

/-- Is source code `c` good (R375, R419)? LOCAL always, a port as Ridgeline says. -/
def sourceGood (c : Nat) (s : State) : Bool :=
  c == 1 || (decide (2 ≤ c ∧ c ≤ 4) && s.dev.variant.ridgeline && (portOf s (c - 2)).good)

/-- The source that R375 selects now. -/
def chooseSource (s : State) : Nat :=
  let p := s.tm.primary
  let q := s.tm.secondary
  let c := s.tm.source
  if p ≤ 1 then p
  else if c ≠ 0 ∧ c = q ∧ sourceGood q s then q
  else if sourceGood p s then p
  else if 2 ≤ q ∧ sourceGood q s then q
  else 5

/-- ROOT and STRATUM this unit reports while it tracks a port (R418). -/
def trackOf (p : Nat) (s : State) : Nat × Nat :=
  match (portOf s p).lastTime with
  | some t => (t.root, min 0xFFFF (t.stratum + 1))
  | none => s.rl.track

/-- OUT_SRC selects a time that runs (R382). -/
def ppsSource (s : State) : Bool :=
  let c := bitsOf 5 4 s.tm.ppsCfg.toNat
  c == 1 || (c == 2 && s.tm.bValid)

/-- PPS_OUT is held inactive where OUT_SRC selects no time that runs (R382). -/
def holdPps (s : State) : State := if ppsSource s then s else { s with tm := { s.tm with ppsOut := none } }

/-- Time B takes a new source (R376-R378): from no port to a port more than 1 us away it steps at once, otherwise it slews
an error of 1 ns or more away; HOLDOVER keeps what the servo used last. A switch from LOCAL to a port is taken as one from NONE
is (DESIGN CHOICE, log 60). -/
def switchSource (new reason : Nat) (s : State) : State :=
  let old := s.tm.source
  if old = new then s
  else
    let port := decide (2 ≤ new ∧ new ≤ 4)
    let off := (portOf s (new - 2)).offset
    let steps := port && !decide (2 ≤ old ∧ old ≤ 4) && decide (1000000 < off.natAbs)
    let tr := if port then trackOf (new - 2) s else s.rl.track
    let s := { s with
      tm := { s.tm with
        source := new, bValid := new != 0, slewing := port && !steps && decide (1000 ≤ off.natAbs) },
      rl := { s.rl with
        tracked := (s.rl.tracked && new != 0) || port, track := tr } }
    let s := spanB false (holdPps s)
    let s := raise 2 3 s
    let s := if new = 5 then raise 2 4 s else s
    let s := bCairn old new reason s
    if steps then doStepB (off * 2 ^ 32 / 1000) s else s

/-- Re-evaluate the selection with the REASON of the change (R378): ADPLL-L in HOLDOVER has not lost lock (R446). -/
def reselect (s : State) : State :=
  let c := s.tm.source
  let n := chooseSource s
  let reason := if 2 ≤ c ∧ c ≤ 4 then (if s.pll.l.state = .locked ∨ s.pll.l.state = .holdover then 1 else 2) else 4
  switchSource n reason s

/-- TIME_B_SOURCE_SWITCH (R375). -/
def execTimeBSourceSwitch (s : State) : Result := .next (reselect s)

/-- TIME_B_REVERT (R375): from the secondary back to a primary that has been good for REVERT_S seconds. -/
def execTimeBRevert (s : State) : Result :=
  if s.tm.revert ∧ s.tm.source = s.tm.secondary ∧ 2 ≤ s.tm.secondary ∧ 2 ≤ s.tm.primary ∧ sourceGood s.tm.primary s ∧
      (portOf s (s.tm.primary - 2)).goodSince + 1000 * msTicks s * s.tm.revertS ≤ s.tm.tick then
    .next (switchSource s.tm.primary 3 s)
  else .next s

/-- The settings of TIME_SOURCE_SET in force, with SELECTED (R378). -/
def sourceBody (op : Nat) (s : State) : List Byte :=
  leBytes 1 op ++ leBytes 1 s.tm.primary ++ leBytes 1 s.tm.secondary ++ leBytes 1 (b2n s.tm.revert) ++
    leBytes 2 s.tm.revertS ++ leBytes 1 s.tm.source

/-- TIME_SOURCE_SET's rules (R379). -/
def timeSourceCmd : Cmd := fun q s =>
  let op := fieldAt q 0 1
  let p := fieldAt q 1 1
  let c := fieldAt q 2 1
  let fl := fieldAt q 3 1
  let rs := fieldAt q 4 2
  if (decide (2 ≤ p ∧ p ≤ 4) || decide (2 ≤ c ∧ c ≤ 4)) && !s.dev.variant.ridgeline then quit stUnsupported s
  else if 1 < op ∨ 4 < p ∨ c = 1 ∨ 4 < c ∨ (c ≠ 0 ∧ (c = p ∨ p ≤ 1)) ∨ (fl % 2 = 1 ∧ (rs = 0 ∨ 3600 < rs)) ∨ 1 < fl ∨
      !zeroAt q 6 250 then quit stBadArg s
  else if op = 1 then (s, some (okWith (sourceBody op s)))
  else
    let s := { s with tm := { s.tm with primary := p, secondary := c, revert := fl == 1, revertS := rs } }
    let s := switchSource (chooseSource s) 0 s
    (s, some (okWith (sourceBody op s)))

/-- TIME_SOURCE_SET (R379). -/
def execTimeSourceSet (m : Fin 8) (s : State) : Result := .next (command m.val 0x0601 timeSourceCmd s)

/-! ## PPS (R380-R382) -/

/-- PPS_IN_EDGE (R380): the pin is first sampled at a new level, at the edge's sample of this tick. The pin
of an unpowered bank keeps its inactive level and has no edge (R594). -/
def execPpsInEdge (e : PpsEdge) (s : State) : Result :=
  let c := s.tm.ppsCfg
  let t := 256 * (s.tm.ax5 + e.sample.val)
  let early := match s.tm.ppsLast with
    | some x => decide (t < x + 320000000000)
    | none => false
  if c.getLsbD 0 ∧ (e.rising != c.getLsbD 1) ∧ !early ∧ bankOn .ppsIn s then
    let a := timeAOf s t
    let b := timeBOf s t
    .next (raise 2 6 { s with tm := { s.tm with
      ppsA := (BitVec.ofNat 64 (t0Reg (t0Of a)), BitVec.ofNat 32 a.frac),
      ppsB := (BitVec.ofNat 64 (t0Reg (t0Of b)), BitVec.ofNat 32 b.frac),
      ppsCnt := s.tm.ppsCnt + 1, ppsLast := some t, ppsMissing := false } })
  else .next s

/-- PPS_IN_MISSING (R381): once until a further edge has been captured. The 1.1 s run from the later of the last captured edge
and the instant IN_EN was set (DESIGN CHOICE, log 74). -/
def execPpsInMissing (s : State) : Result :=
  let due : Bool := match s.tm.ppsLast with
    | some t => decide (max t s.tm.ppsFrom + 704000000000 < nowU s)
    | none => decide (s.tm.ppsFrom + 704000000000 < nowU s)
  if s.tm.ppsCfg.getLsbD 0 ∧ !s.tm.ppsMissing ∧ due then
    .next (raise 2 7 { s with tm := { s.tm with ppsMissing := true } })
  else .next s

/-- WIDTH_MS in force: 0 and values above 999 act as 100 (R400). -/
def ppsWidth (s : State) : Nat :=
  let w := bitsOf 25 16 s.tm.ppsCfg.toNat
  if w = 0 ∨ 999 < w then 100 else w

/-- Did the time that OUT_SRC selects reach a whole second within the last tick (R382)? -/
def ppsSecond (s : State) : Bool :=
  let useA := bitsOf 5 4 s.tm.ppsCfg.toNat == 1
  let t := if useA then s.tm.a else s.tm.b
  decide (t.ns * 2 ^ 32 + t.frac < tickIncr s.dev.backup (if useA then s.tm.incrA else bIncr s))

/-- The level that PPS_OUT drives: OUT_POL sets the active one (R382). It is high-Z on an unpowered bank (R594). -/
def ppsPin (s : State) : Option Bool :=
  if bankOn .ppsOut s then some (s.tm.ppsOut.isSome != s.tm.ppsCfg.getLsbD 9) else none

/-- PPS_OUT_START (R382): the selected time has reached a whole second. -/
def execPpsOutStart (s : State) : Result :=
  if ppsSource s ∧ ppsSecond s then .next { s with tm := { s.tm with ppsOut := some s.tm.tick } } else .next s

/-- PPS_OUT_END (R382): WIDTH_MS after the start, or at once when the source has stopped. -/
def execPpsOutEnd (s : State) : Result :=
  match s.tm.ppsOut with
  | none => .next s
  | some t =>
    if t + msTicks s * ppsWidth s ≤ s.tm.tick ∨ !ppsSource s then .next { s with tm := { s.tm with ppsOut := none } }
    else .next s

/-! ## Axes (R384-R387) -/

/-- Counts of one input change of an encoder (R384): A leading B counts up. -/
def encDelta (e : Enc) (a b : Bool) : Int :=
  let da := a != e.a
  let db := b != e.b
  let d : Int :=
    if da then (if a != b then 1 else -1)
    else if db then (if a == b then 1 else -1)
    else 0
  let counted := if e.mode = 0 then da && a else if e.mode = 1 then da else da || db
  if counted then (if e.invert then -d else d) else 0

/-- An encoder after its filtered inputs take new levels (R384); crossing the end of the 48-bit range is a step (R386). -/
def encStep (e : Enc) (a b z : Bool) : Enc :=
  let both := a != e.a && b != e.b
  let d := if both then 0 else encDelta e a b
  let x := signed 48 e.count + d
  let wraps := decide (x < -(2 ^ 47) ∨ 2 ^ 47 ≤ x)
  let e1 := { e with
    count := unsign 48 x, errors := if both then min 65535 (e.errors + 1) else e.errors, a := a, b := b,
    stepped := if d = 0 then e.stepped else wraps }
  let e2 :=
    if z && !e.z then
      if e.index = 1 then { e1 with latched := e1.count }
      else if e.index = 2 then { e1 with count := 0, stepped := true }
      else e1
    else e1
  { e2 with z := z }

/-- An input that last changed at tick `last` has been seen at another level for FILT + 1 ticks (R384). -/
def encSeen (last : Option Nat) (filt tick : Nat) : Bool := last.all fun x => decide (x + filt < tick)

/-- An encoder's inputs at a tick: one that has not been seen at its new level for FILT + 1 ticks keeps its level (R384). -/
def encInputs (e : Enc) (tick : Nat) (a b z : Bool) : Bool × Bool × Bool :=
  (if encSeen e.movedA e.filt tick then a else e.a, if encSeen e.movedB e.filt tick then b else e.b,
    if encSeen e.movedZ e.filt tick then z else e.z)

/-- The encoder's inputs take levels at a tick; it counts only while enabled (R384, R387). -/
def encMove (e : Enc) (tick : Nat) (a b z : Bool) : Enc :=
  let e1 := if e.enable then encStep e a b z else { e with a := a, b := b, z := z }
  { e1 with
    movedA := if a = e.a then e.movedA else some tick, movedB := if b = e.b then e.movedB else some tick,
    movedZ := if z = e.z then e.movedZ else some tick }

/-- ENC_INPUT_CHANGE (R384): the filtered inputs of encoder `e` take new levels in this tick; those of an unpowered bank read
low (R594). -/
def execEncInputChange (e : Fin 2) (a b z : Bool) (s : State) : Result :=
  let q := s.tm.enc[e]
  let on (i : Fin 3) := bankOn (.enc e i) s
  let x := encInputs q s.tm.tick (a && on 0) (b && on 1) (z && on 2)
  let a := x.1
  let b := x.2.1
  let z := x.2.2
  let s := { s with tm := { s.tm with enc := tabMod s.tm.enc e.val fun q => encMove q s.tm.tick a b z } }
  if q.enable then
    let both := a != q.a && b != q.b
    let idx := z && !q.z && q.index != 0
    let s := if both then raise 2 (10 + e.val) s else s
    .next (if idx then raise 2 (8 + e.val) s else s)
  else .next s

/-- MAINS_ZC_EDGE (R385): an edge has held its new level for 2 ms, which is 5,000,000 counts of AX5 on either oscillator, so
the crossing lies that far back. An edge of the same polarity cannot be accepted again before both levels have been held. -/
def execMainsZcEdge (rising : Bool) (s : State) : Result :=
  let m := s.tm.mains
  if m.enable ∧ (rising == (m.mode == 0)) ∧ bankOn .mainsZc s then
    let z := s.tm.ax5 - 5000000
    let p := match m.lastZc with
      | some y => z - y
      | none => 0
    let bad := m.lastZc.isSome && decide (p < 35715000 ∨ 208332500 < p)
    let m := { m with
      cycles := (m.cycles + 1) % 2 ^ 48, lastZc := some z, period := p, since := s.tm.ax5,
      range := if m.lastZc.isSome then bad else m.range, lost := false, stepped := false }
    let s := { s with tm := { s.tm with mains := { m with frac := mainsFrac { m with frac := 0 } s.tm.ax5 } } }
    .next (if bad then raise 2 13 s else s)
  else .next s

/-- MAINS_LOST (R385): no edge has been accepted for 100 ms, which is 250,000,000 counts of AX5. -/
def execMainsLost (s : State) : Result :=
  if s.tm.mains.enable ∧ !s.tm.mains.lost ∧ s.tm.mains.since + 250000000 ≤ s.tm.ax5 then
    .next (raise 2 12 { s with tm := { s.tm with mains := { s.tm.mains with lost := true } } })
  else .next s

/-- AX4 as its register shows it (R383). -/
def mainsAxis (s : State) : Nat := s.tm.mains.cycles * 65536 + s.tm.mains.frac

/-- AXIS_CFG's response: the settings in force, with the axis value (R386). -/
def axisBody (op ax : Nat) (s : State) : List Byte :=
  if ax = 4 then
    let m := s.tm.mains
    leBytes 1 op ++ leBytes 1 ax ++ leBytes 1 (b2n m.enable) ++ leBytes 1 m.mode ++ zeros 4 ++ leBytes 8 (mainsAxis s)
  else
    match s.tm.enc.toList[ax - 2]? with
    | none => []
    | some e =>
      leBytes 1 op ++ leBytes 1 ax ++ leBytes 1 (b2n e.enable + 2 * b2n e.invert) ++ leBytes 1 e.mode ++ leBytes 1 e.index ++
        leBytes 1 e.filt ++ zeros 2 ++ leBytes 8 (unsign 64 (signed 48 e.count))

/-- AXIS_CFG's rules (R387): settings and preset wait for the next tick, and the response shows them in force. -/
def axisCmd : Cmd := fun q s =>
  let op := fieldAt q 0 1
  let ax := fieldAt q 1 1
  let fl := fieldAt q 2 1
  let mode := fieldAt q 3 1
  let idx := fieldAt q 4 1
  let filt := fieldAt q 5 1
  let pre := fieldAt q 8 6
  let bad := if ax = 4 then decide (1 < mode ∨ idx ≠ 0 ∨ filt ≠ 0 ∨ fl / 2 % 2 = 1)
    else decide (2 < mode ∨ 2 < idx ∨ 15 < filt)
  if 1 < op ∨ ax < 2 ∨ 4 < ax ∨ 7 < fl ∨ bad ∨ !zeroAt q 6 2 ∨ !zeroAt q 16 240 then quit stBadArg s
  else if op = 1 then (s, some (okWith (axisBody op ax s)))
  else
    let c : AxisSet :=
      { axis := ax, enable := fl % 2 == 1, invert := fl / 2 % 2 == 1, mode := mode, index := idx, filt := filt,
        preset := if 4 ≤ fl then some pre else none }
    let s := { s with tm := { s.tm with axisSet := s.tm.axisSet ++ [c] } }
    (s, some (okWith (axisBody op ax (setAxes s))))

/-- AXIS_CFG (R387). -/
def execAxisCfg (m : Fin 8) (s : State) : Result := .next (command m.val 0x0602 axisCmd s)

end Sys2Proof.Machine
end

