-- ==== Sys2Proof/Machine/Sched.lean ====
section
/-! DEFINITION. The scheduler: reaching a target, the actions and their outcomes, the action queue, and the whole timebase
tick (R388-R397, R401, R402). -/

namespace Sys2Proof.Machine

/-! ## Actions (R393) -/

/-- Ask for a seal (R357, R393): it falls due at once, or once extent `after` has closed and been released. -/
def askSeal (reason : Nat) (forMb after : Option Nat) (s : State) : State :=
  { s with sealer := { s.sealer with
      due := s.sealer.due ++ [{ reason := reason, tick := s.tm.tick, forMb := forMb, after := after }] } }

/-- Would SEAL_NOW complete with STATE (R357)? -/
def sealRefused (s : State) : Bool := !acquiring s || !s.sealer.enable

/-- The changes of a flag that samples from the instant `t` on still need: those after it and the newest before. -/
def keepChanges (t : Nat) : List (Nat × Bool) → List (Nat × Bool)
  | [] => []
  | x :: xs => if x.1 ≤ t then [x] else x :: keepChanges t xs

/-- A scheduler flag takes a value from the first sample at or after an instant (R394). -/
def setSf (k : Nat) (v : Bool) (t : Nat) (s : State) : State :=
  if s.sch.sf.testBit k = v then s
  else { s with sch := { s.sch with
    sf := s.sch.sf ^^^ 2 ^ k,
    sfHist := tabMod s.sch.sfHist k fun l => (t, v) :: keepChanges (256 * s.fab.sample) l } }

/-- Does an instant fall inside a drain: is the epoch's boundary instant reached by then (R38)? -/
def inDrain (t : Nat) (s : State) : Bool :=
  s.dev.acq == .draining || s.ret.boundary.any fun b => decide (65536 * b.row ≤ t)

/-- EPOCH at an instant (R393): missed in IDLE or FROZEN and on a CRC mismatch (G8.23); held where the instant falls inside a
drain; a passing comparison is a check under R548. -/
def actEpoch (t : Nat) (s : State) : Bool × State :=
  if !acquiring s then (true, s)
  else if !crcMatches s then (true, raise 8 23 s)
  else
    let s := holdReference s
    if inDrain t s then (false, { s with ret := { s.ret with heldEpoch := true } })
    else (false, acceptCauseAt (boundaryAfter t s) 6 s)

/-- ARM of every sequencer of a mask (R219, R220): missed when every one it names is discarded. -/
def actArm (mask t : Nat) (late : Bool) (s : State) : Bool × State :=
  let js := bitsSet 4 mask
  (js.all fun j => armDiscarded j s, js.foldl (fun s j => armInstant j t late s) s)

/-- The effect of an action at an instant (R393): whether it is MISSED, and the state. -/
def actEffect (act arg t : Nat) (late : Bool) (s : State) : Bool × State :=
  match act with
  | 1 => (false, setSf (arg % 8) true t s)
  | 2 => (false, setSf (arg % 8) false t s)
  | 3 => actArm (arg % 16) t late s
  | 4 => (false, (bitsSet 4 arg).foldl (fun s j => disarmSeq j s) s)
  | 5 => actEpoch t s
  | 6 => if acquiring s then (false, addRequest (arg % 4) t s) else (true, s)
  | 7 => if sealRefused s then (true, s) else (false, askSeal 2 none none s)
  | _ => (false, s)

/-! ## Slots -/

def slotOf (s : State) (n : Nat) : Slot64 := tabGet s.sch.slots n s.sch.slots[0]

def modSlot (n : Nat) (f : Slot64 → Slot64) (s : State) : State := { s with sch := { s.sch with slots := tabMod s.sch.slots n f } }

/-- The fields of SCH_CFG (R402). -/
def schAxis (c : Word) : Nat := bitsOf 2 0 c.toNat
def schAction (c : Word) : Nat := bitsOf 7 4 c.toNat
def schDown (c : Word) : Bool := c.getLsbD 10
def schDrop (c : Word) : Bool := c.getLsbD 11
def schArg (c : Word) : Nat := bitsOf 23 16 c.toNat

/-- A pair (SEC[31:0], NS) as nanoseconds. -/
def pairNs (sec ns : Nat) : Int := ((sec % 2 ^ 32 * 1000000000 + ns : Nat) : Int)

/-- The value of an axis as the comparison of R389 takes it. -/
def axisValue (ax : Nat) (s : State) : Int :=
  match ax with
  | 0 => pairNs s.tm.a.sec s.tm.a.ns
  | 1 => pairNs s.tm.b.sec s.tm.b.ns
  | 2 => signed 48 s.tm.enc[0].count
  | 3 => signed 48 s.tm.enc[1].count
  | 4 => (mainsAxis s : Int)
  | _ => (s.tm.ax5 : Int)

/-- A target in the same units (R389). -/
def targetValue (ax : Nat) (t : Word64) : Int :=
  if ax ≤ 1 then pairNs (t.toNat / 2 ^ 32) (t.toNat % 2 ^ 32)
  else if ax ≤ 3 then signed 48 t.toNat
  else (t.toNat : Int)

/-- The target register for a value (R392: NS normalised into SEC). -/
def targetOf (ax : Nat) (v : Int) : Word64 :=
  if ax ≤ 1 then
    let n := unsign 96 v
    BitVec.ofNat 64 (n / 1000000000 % 2 ^ 32 * 2 ^ 32 + n % 1000000000)
  else if ax ≤ 3 then BitVec.ofNat 64 (unsign 64 (signed 48 (unsign 48 v)))
  else BitVec.ofNat 64 (unsign 64 v)

/-- Does the axis stand at or beyond the target (R389)? -/
def beyond (c : Word) (t : Int) (s : State) : Bool :=
  if schDown c then decide (axisValue (schAxis c) s ≤ t) else decide (t ≤ axisValue (schAxis c) s)

/-- Is the slot reached (R389)? -/
def slotReached (n : Nat) (s : State) : Bool :=
  let q := slotOf s n
  beyond q.cfg (targetValue (schAxis q.cfg) q.target) s

/-- The exact instant at which a slot was reached by continuous motion (R391), none where it was reached through a step
(R386). -/
def slotInstant (n : Nat) (s : State) : Option Nat :=
  let q := slotOf s n
  let whole (t : Time) : Nat := flatOf (t.sec / 2 ^ 32 * 2 ^ 32 + q.target.toNat / 2 ^ 32) (q.target.toNat % 2 ^ 32)
  match schAxis q.cfg with
  | 0 => reachInstant s.tm.segA (whole s.tm.a)
  | 1 => reachInstant s.tm.segB (whole s.tm.b)
  | 2 => if s.tm.enc[0].stepped then none else some (nowU s)
  | 3 => if s.tm.enc[1].stepped then none else some (nowU s)
  | 4 => if s.tm.mains.stepped then none else some (nowU s)
  | _ => some (256 * q.target.toNat)

/-- What every outcome does (R397): status and counts, LATE or MISSED with its event, SLOTn (R404), the SCHED cairn. -/
def slotOutcome (n outcome instant : Nat) (cfg : Word) (target : Nat) (s : State) : State :=
  let s := modSlot n (fun q => { q with
    outcome := outcome, late := q.late || outcome == 1, missed := q.missed || outcome == 2,
    missedCnt := if outcome = 2 then (q.missedCnt + 1) % 65536 else q.missedCnt,
    doneCnt := if outcome = 2 then q.doneCnt else (q.doneCnt + 1) % 65536 }) s
  let s := if outcome = 1 then raise 2 16 s else if outcome = 2 then raise 2 17 s else s
  let s := if cfg.getLsbD 14 then raise (3 + n / 32) (n % 32) s else s
  if cfg.getLsbD 15 then
    pushCairnIf 0x000D instant 1 0xFF
      (leBytes 1 n ++ leBytes 1 (schAction cfg) ++ leBytes 1 outcome ++ leBytes 1 (schAxis cfg) ++ zeros 4 ++
        leBytes 8 target) s
  else s

/-- After its outcome a one-shot slot disarms, and a periodic one moves its target by whole periods until it is not reached
(R391, R392). -/
def reloadSlot (n : Nat) (s : State) : State :=
  let q := slotOf s n
  if q.period = 0 then modSlot n (fun q => { q with armed := false, due := none }) s
  else
    let ax := schAxis q.cfg
    let t := targetValue ax q.target
    let p : Int := (q.period.toNat : Int)
    let x := axisValue ax s
    let dist := if schDown q.cfg then t - x else x - t
    let m := (dist / p).toNat + 1
    let t' := if schDown q.cfg then t - p * (m : Int) else t + p * (m : Int)
    let s := modSlot n (fun q => { q with
      due := none, target := targetOf ax t', missed := q.missed || decide (1 < m), missedCnt := (q.missedCnt + (m - 1)) % 65536 }) s
    if 1 < m then raise 2 17 s else s

/-- An action dispatched while the queue is full (R395). -/
def queueFull (n : Nat) (cfg : Word) (target : Nat) (s : State) : State :=
  let s := slotOutcome n 2 (nowU s) cfg target s
  signal 36 0 (raise 2 18 { s with sch := { s.sch with overflow := (s.sch.overflow + 1) % 65536 } })

/-- The slot's action is dispatched with an outcome and its action instant (R391, R393, R395). -/
def dispatchSlot (n outcome instant : Nat) (s : State) : State :=
  let q := slotOf s n
  let a := schAction q.cfg
  let t := q.target.toNat
  let s :=
    if a ≤ 2 then slotOutcome n outcome instant q.cfg t (actEffect a (schArg q.cfg) instant false s).2
    else if s.sch.queue.length < 16 then
      modSlot n (fun q => { q with queued := true }) { s with sch := { s.sch with
        queue := s.sch.queue ++ [{ slot := n, outcome := outcome, instant := instant, target := t, cfg := q.cfg }] } }
    else queueFull n q.cfg t s
  reloadSlot n s

/-- A past target, or one reached through a step: POLICY decides (R390, R391). -/
def judgePast (n : Nat) (s : State) : State :=
  let q := slotOf s n
  if schDrop q.cfg then reloadSlot n (slotOutcome n 2 (nowU s) q.cfg q.target.toNat s)
  else dispatchSlot n 1 (nowU s) s

/-- An axis that can be armed (R388). -/
def axisUsable (ax : Nat) (s : State) : Bool :=
  match ax with
  | 0 => true
  | 1 => s.tm.bValid
  | 2 => s.tm.enc[0].enable
  | 3 => s.tm.enc[1].enable
  | 4 => s.tm.mains.enable
  | 5 => true
  | _ => false

/-- Is the arm of slot `n` refused (R388)? -/
def armRefused (n : Nat) (s : State) : Bool :=
  let q := slotOf s n
  let ax := schAxis q.cfg
  let a := schAction q.cfg
  let mask := schArg q.cfg % 16
  !axisUsable ax s || decide (7 < a) || (schDown q.cfg && ax != 2 && ax != 3) ||
    (decide (ax ≤ 1) && decide (999999999 < q.target.toNat % 2 ^ 32)) ||
    ((a == 3 || a == 4) && (mask == 0 || (bitsSet 4 mask).any fun j => !s.dev.variant.hasSeq j)) ||
    (a == 7 && !s.dev.variant.sealer)

/-- Slot `n` is reached: the tick and the instant are noted at the first tick at which it is (R391). -/
def noteReached (n : Nat) (s : State) : State :=
  if (slotOf s n).armed ∧ (slotOf s n).due = none ∧ slotReached n s then
    modSlot n (fun q => { q with due := some (s.tm.tick, slotInstant n s) }) s
  else s

/-- Every slot that this tick finds reached. -/
def noteAll (s : State) : State := (List.range 64).foldl (fun s n => noteReached n s) s

/-- Is slot `m`, reached at tick `t`, dispatched before slot `n`, reached at tick `u` (R391, R396)? -/
def duePrior (t m u n : Nat) : Bool := decide (t < u) || (t == u && decide (m ≤ n))

/-- Insert a reached slot among those in their order. -/
def insertDue (t m : Nat) : List (Nat × Nat) → List (Nat × Nat)
  | [] => [(t, m)]
  | x :: xs => if duePrior t m x.1 x.2 then (t, m) :: x :: xs else x :: insertDue t m xs

/-- The reached slots that are dispatched no later than slot `n`, reached at tick `u`, in their order. -/
def dueThrough (u n : Nat) (s : State) : List (Nat × Nat) :=
  (List.range 64).foldl (fun l m =>
    match (slotOf s m).due with
    | some (t, _) => if duePrior t m u n then insertDue t m l else l
    | none => l) []

/-- A reached slot is dispatched (R390, R391). -/
def dispatchDue (n : Nat) (s : State) : State :=
  match (slotOf s n).due with
  | none => s
  | some (_, some t) => dispatchSlot n 0 t s
  | some (_, none) => judgePast n s

/-- Slot `n` is dispatched, after every slot that was reached before it or in its tick under a lower number (R396). -/
def dispatchThrough (n : Nat) (s : State) : State :=
  match (slotOf s n).due with
  | none => s
  | some (u, _) => (dueThrough u n s).foldl (fun s x => dispatchDue x.2 s) s

/-- The arm of slot `n` takes effect in this tick; a target reached at this tick is past (R388, R390). -/
def takeArm (n : Nat) (s : State) : State :=
  if (slotOf s n).armReq then
    let s := modSlot n (fun q => { q with armReq := false }) s
    if armRefused n s then raise 2 19 s
    else
      let s := modSlot n (fun q => { q with armed := true }) s
      if slotReached n s then modSlot n (fun q => { q with due := some (s.tm.tick, none) }) s else s
  else s

/-- The slots in this tick: arms take effect, reached slots are noted, and those armed past their target are dispatched with
every slot that comes before them (R388, R390, R391, R396). -/
def slotTick (s : State) : State :=
  let s := (List.range 64).foldl (fun s n => takeArm n s) (noteAll s)
  (List.range 64).foldl (fun s n => if (slotOf s n).due = some (s.tm.tick, none) then dispatchThrough n s else s) s

/-- The clock edges of every pod whose sample instant lies 16 samples back are judged: every event that deskew and trims can
move before it has arrived (R100, R110, R130). -/
def judgeAllClocks (s : State) : State :=
  (List.range 16).foldl (fun s p => if clocked p s then judgeClocks p (nowU s - 4096) s else s) s

/-- A build-out slewed towards 0 by at most `d` ps (R455). -/
def slewBy (d : Nat) (v : Int) : Int := if v < 0 then min 0 (v + (d : Int)) else max 0 (v - (d : Int))

/-- What a tick does to the build-outs: a slew that is due begins at once in IDLE, and each microsecond of a slew takes each
build-out towards 0 by at most 10 ps, how far being left open (R455; log 7). -/
def slewTick (s : State) : State :=
  let s := if s.pll.realign ∧ s.pll.realignDue ∧ s.dev.acq = .idle then
      { s with pll := { s.pll with realigning := true, realignDue := false } } else s
  if s.pll.realigning ∧ s.tm.tick % usTicks s = 0 then
    let r := freeBits 32 s
    let s := r.2
    let d := r.1 % 11
    { s with pll := { s.pll with
      s := { s.pll.s with pbo := slewBy d s.pll.s.pbo }, l := { s.pll.l with pbo := slewBy d s.pll.l.pbo } } }
  else s

/-! ## Registers -/

/-- DISARM of slot `n` (R388): a slot whose target was reached is dispatched all the same (R391, R396). -/
def disarmSlot (n : Nat) (s : State) : State := modSlot n (fun q => { q with armed := false, armReq := false, due := none }) (dispatchThrough n s)

/-- A write of SCH_CTRLn (R388): DISARM wins over ARM. -/
def writeSchCtrl (n : Nat) (v : Word) (be : BitVec 4) (s : State) : State :=
  special (0x6004 + 0x20 * n) v be (fun s =>
    if v.getLsbD 1 then disarmSlot n s
    else if v.getLsbD 0 then modSlot n (fun q => { q with armReq := !q.armed }) s
    else s) s

/-- The host gives the flags of a mask the values of another, from the next sample on (R394). -/
def writeSfBits (mask v : Nat) (s : State) : State :=
  (bitsSet 8 mask).foldl (fun s k => setSf k (v.testBit k) (256 * (s.tm.ax5 + 1)) s) s

/-- A write of SCH_SF (R394). -/
def writeSf (v : Word) (be : BitVec 4) (s : State) : State := writeSfBits (beMask be).toNat v.toNat s

/-! ## Commands -/

/-- SCH_ARM (R388). -/
def execSchArm (n : Fin 64) (s : State) : Result := .next (barWrite (fun _ => writeSchCtrl n.val 1 0xF) s)

/-- SCH_DISARM (R388). -/
def execSchDisarm (n : Fin 64) (s : State) : Result := .next (barWrite (fun _ => writeSchCtrl n.val 2 0xF) s)

/-- SCH_SLOT_REACHED (R391): the slot is dispatched, in its place among the slots that are reached. -/
def execSchSlotReached (n : Fin 64) (s : State) : Result := .next (dispatchThrough n.val (noteAll s))

/-- SCH_ACTION_EXECUTE (R395): the oldest queued action reaches its units, and its outcome stands or becomes MISSED. -/
def execSchActionExecute (s : State) : Result :=
  match s.sch.queue with
  | [] => .next s
  | q :: rest =>
    let s := modSlot q.slot (fun x => { x with queued := rest.any fun r => r.slot = q.slot })
      { s with sch := { s.sch with queue := rest } }
    let r := actEffect (schAction q.cfg) (schArg q.cfg) q.instant (q.outcome == 1) s
    .next (if r.1 then slotOutcome q.slot 2 (nowU r.2) q.cfg q.target r.2
      else slotOutcome q.slot q.outcome q.instant q.cfg q.target r.2)

/-- SCH_SF (R394). -/
def execSchSf (v : Word) (be : BitVec 4) (s : State) : Result := .next (barWrite (fun _ => writeSf v be) s)

end Sys2Proof.Machine
end

