-- ==== Sys2Proof/Machine/RlLink.lean ====
section
/-! DEFINITION. The Ridgeline links: training and its loss, TIME and delay frames, and record forwarding (R405-R421,
R430-R434). -/

namespace Sys2Proof.Machine

/-! ## Record forwarding (R430-R432) -/

/-- The body of a GAP frame (R256). -/
def gapBody (g : Gap) : List Byte :=
  leBytes 1 g.cause ++ leBytes 1 (b2n g.stop.isNone) ++ leBytes 2 g.detail ++ leBytes 2 g.pods ++ zeros 2 ++
    leBytes 8 g.start ++ leBytes 8 (g.stop.getD (2 ^ 64 - 1)) ++ t0Bytes g.tStart ++ t0Bytes g.tStop ++
    leBytes 8 (match g.stop with
      | some e => (e - g.start) / 256
      | none => 2 ^ 64 - 1) ++ leBytes 8 g.seqFirst ++ leBytes 8 g.seqLast ++ zeros 28

/-- Bytes of a RECORD frame with this body. -/
def recSize (b : List Byte) : Nat := 8 * rlLen b.length

/-- The bytes the forward buffer holds. -/
def fwdUsed (q : Port) : Nat := (q.fwdBuf.map recSize).sum

/-- The bodies of the RECORD frames that carry an Engan frame, from RSEQ `r` on (R430). -/
def recBodies : Nat → Nat → Bool → List Byte → List (List Byte)
  | 0, _, _, _ => []
  | n + 1, r, first, bs =>
    let last := decide (bs.length ≤ 96)
    (leBytes 4 r ++ leBytes 1 (b2n first + 2 * b2n last) ++ zeros 3 ++ bs.take 96) ::
      (if last then [] else recBodies n ((r + 1) % 2 ^ 32) false (bs.drop 96))

/-- Send RECORD frames that wait, within the peer's credit (R430). -/
def pumpRecord : Nat → Nat → State → State
  | 0, _, s => s
  | n + 1, p, s =>
    let q := portOf s p
    match q.fwdBuf.drop q.fwdSent with
    | [] => s
    | b :: _ =>
      if q.state = .up ∧ !s.dev.safe ∧ recSize b ≤ q.credit then
        let s := modPort p (fun q => { q with fwdSent := q.fwdSent + 1, credit := q.credit - recSize b }) s
        pumpRecord n p (sendLocal p 0x40 b s)
      else s

/-- Send what port `p` may send now. -/
def pumpPort (p : Nat) (s : State) : State := pumpRecord (portOf s p).fwdBuf.length p s

/-- Put an Engan frame's RECORD frames into the forward buffer. -/
def queueRecord (p : Nat) (bytes : List Byte) (s : State) : State :=
  modPort p (fun q =>
    let bs := recBodies (bytes.length / 96 + 1) q.rseqTx true bytes
    { q with fwdBuf := q.fwdBuf ++ bs, rseqTx := (q.rseqTx + bs.length) % 2 ^ 32 }) s

/-- Does an Engan frame fit in the forward buffer of 1 MiB? -/
def recordFits (q : Port) (bytes : List Byte) : Bool :=
  decide (fwdUsed q + ((recBodies (bytes.length / 96 + 1) 0 true bytes).map recSize).sum ≤ 0x100000)

/-- What a dropped frame adds to the drop in progress (R431): only block frames count. -/
def addDrop (f : Frame) (d : FwdDrop) : FwdDrop :=
  match f.row with
  | some r =>
    if 0x20 ≤ f.type ∧ f.type ≤ 0x22 then
      { pods := d.pods ||| f.pods, bounds := match d.bounds with
        | some (a, b) => some (min a (256 * r), max b (256 * (r + 1)))
        | none => some (256 * r, 256 * (r + 1)) }
    else d
  | none => d

/-- Forward a copy of a retention frame on a port with FWD_TX, or drop it (R430, R431). -/
def forwardOn (p : Nat) (f : Frame) (s : State) : State :=
  let q := portOf s p
  if !q.fwdTx then s
  else
    match q.fwdDrop with
    | some d => modPort p (fun q => { q with fwdDrop := some (addDrop f d) }) s
    | none =>
      if recordFits q f.bytes then pumpPort p (queueRecord p f.bytes s)
      else raise 12 15 (modPort p (fun q => { q with fwdDrop := some (addDrop f { pods := 0, bounds := none }) }) s)

/-- Forward the frame just handed to the compressor, where a port forwards (R430). -/
def forwardRecord (f : Frame) (s : State) : State := (List.range 3).foldl (fun s p => forwardOn p f s) s

/-- Emit a retention frame and forward a copy of it (R248, R430). -/
def emitRet (type unit pod flags : Nat) (t0 : Nat × Nat) (row : Option Nat) (pods : Nat) (body : List Byte) (s : State) :
    State :=
  let s := emitFrame type unit pod flags t0 row pods body s
  match s.cmp.inq.getLast? with
  | some f => forwardRecord f s
  | none => s

/-- The bounds of a LINK_OUTAGE gap; with no block frame dropped the spec states none, and they are a free value (log 7). -/
def dropBounds (d : FwdDrop) (s : State) : (Nat × Nat) × State :=
  match d.bounds with
  | some b => (b, s)
  | none => let r := freeBits 48 s; ((r.1, r.1), r.2)

/-- Once 64 KiB are free the drop ends with a GAP frame in the forwarded stream alone (R431). -/
def endDrop (p : Nat) (s : State) : State :=
  let q := portOf s p
  match q.fwdDrop with
  | none => s
  | some d =>
    if fwdUsed q + 0x10000 ≤ 0x100000 then
      let r := dropBounds d s
      let s := r.2
      let g : Gap :=
        { cause := 6, detail := p, pods := d.pods, pod := 0xFF, start := r.1.1, stop := some r.1.2,
          tStart := t0Of (timeAOf s (256 * r.1.1)), tStop := t0Of (timeAOf s (256 * r.1.2)), seqFirst := 0, seqLast := 0 }
      let f := insertedFrame 0x41 1 (flagsAt (256 * g.start) s) g.tStart (gapBody g) s
      queueRecord p f.bytes (modPort p (fun q => { q with fwdDrop := none }) (countGap g s))
    else s

/-- Is the compressor accepting frames: no closed block waits and a lane has a free input buffer (R283, R432)? -/
def accepting (s : State) : Bool := s.cmp.waiting.isEmpty && (freeLane s.cmp).isSome

/-- Grant credit to the peer in a step of 64 KiB, where R432 allows it; `ack` is sent in any case when `force`. -/
def grantCredit (p : Nat) (force : Bool) (s : State) : State :=
  let q := portOf s p
  let ok := q.fwdRx && q.state == .up && acquiring s && accepting s && decide (q.grant < 0x10000)
  if ok then
    let s := modPort p (fun q => { q with grant := q.grant + 0x10000 }) s
    sendLocal p 0x04 (leBytes 4 (unsign 32 ((q.rseqRx : Int) - 1)) ++ leBytes 4 0x10000) s
  else if force then sendLocal p 0x04 (leBytes 4 (unsign 32 ((q.rseqRx : Int) - 1)) ++ leBytes 4 0) s
  else s

/-- Grant credit on every port. -/
def grantAll (s : State) : State := (List.range 3).foldl (fun s p => grantCredit p false s) s

/-- The sender goes back to the first RECORD frame not acknowledged (R430): the credit the later ones used is the sender's
again. -/
def resendRecord (p : Nat) (s : State) : State :=
  modPort p (fun q => { q with
    credit := q.credit + ((q.fwdBuf.take q.fwdSent).map recSize).sum, fwdSent := 0,
    txq := q.txq.filter fun t => t.type ≠ 0x40 }) s

/-- CREDIT_ACK_RX (R430): acknowledged frames leave the buffer, credit rises, and what may be sent is sent. One that neither
acknowledges a frame nor grants credit tells of a failed reassembly, and the frames not acknowledged are sent again (R432;
DESIGN CHOICE, log 75). -/
def execCreditAckRx (p : Fin 3) (f : List Byte) (s : State) : Result :=
  .next (rxLocal p.val 0x04 f (fun b s =>
    let q := portOf s p.val
    let first := unsign 32 ((q.rseqTx : Int) - (q.fwdBuf.length : Int))
    let n := (fieldAt b 0 4 + 1 + 2 ^ 32 - first) % 2 ^ 32
    let n := if n ≤ q.fwdSent then n else 0
    let s := modPort p.val (fun q => { q with
      fwdBuf := q.fwdBuf.drop n, fwdSent := q.fwdSent - n, credit := q.credit + fieldAt b 4 4 }) s
    let s := if n = 0 ∧ fieldAt b 4 4 = 0 then resendRecord p.val s else s
    pumpPort p.val (endDrop p.val s)) s)

/-- An Engan frame with FLAGS.FORWARDED set and its trailer recomputed (R432). -/
def forwardedBytes (bs : List Byte) : List Byte :=
  let b := bs.take 3 ++ [byteAt bs 3 ||| 4] ++ (bs.drop 4).take (bs.length - 8)
  b ++ leBytes 4 (crc32c b)

/-- Bytes of the RECORD frames that carry `n` bytes of an Engan frame. -/
def recordBytes (n : Nat) : Nat := n / 96 * 128 + (if n % 96 = 0 then 0 else 8 * rlLen (8 + n % 96))

/-- A reassembled Engan frame is checked and handed to the compressor. A failed one is discarded and its RECORD frames are not
acknowledged: their credit stands again, and a CREDIT_ACK with no credit asks the sender for them (R432; DESIGN CHOICE, log 75). -/
def takeForwarded (p : Nat) (bs : List Byte) (s : State) : State :=
  if 64 ≤ bs.length ∧ fieldAt bs 4 4 = bs.length ∧ fieldAt bs (bs.length - 4) 4 = crc32c (bs.take (bs.length - 4)) then
    let g := forwardedBytes bs
    let s := modPort p (fun q => { q with reasm := [] }) s
    let s := handFrame { type := fieldAt bs 0 2, seq := fieldAt bs 16 8, epoch := fieldAt bs 8 4, row := none, pods := 0,
                         bytes := g } s
    grantCredit p true s
  else
    let s := modPort p (fun q => { q with
      reasm := [], rseqRx := unsign 32 ((q.rseqRx : Int) - (((bs.length + 95) / 96 : Nat) : Int)),
      grant := q.grant + recordBytes bs.length }) s
    sendLocal p 0x04 (leBytes 4 (unsign 32 (((portOf s p).rseqRx : Int) - 1)) ++ leBytes 4 0) s

/-- RECORD_FRAME_RX (R432). -/
def execRecordFrameRx (p : Fin 3) (f : List Byte) (s : State) : Result :=
  .next (rxLocal p.val 0x40 f (fun b s =>
    let q := portOf s p.val
    let fl := fieldAt b 4 1
    if !q.fwdRx ∨ fieldAt b 0 4 ≠ q.rseqRx then s
    else
      let n := if fl.testBit 1 then
          let have0 := if fl.testBit 0 then [] else q.reasm
          let want := fieldAt (have0 ++ b.drop 8) 4 4
          want - have0.length
        else 96
      let bs := (if fl.testBit 0 then [] else q.reasm) ++ (b.drop 8).take n
      let s := modPort p.val (fun q => { q with
        rseqRx := (q.rseqRx + 1) % 2 ^ 32, reasm := bs, grant := q.grant - recSize b }) s
      if fl.testBit 1 then takeForwarded p.val bs s else s) s)

/-! ## Training and its loss (R407, R408, R434) -/

/-- RL_PORT_UP (R407): the four conditions of training hold, with the peer's SERIAL and RESTARTS. RECORD frames not
acknowledged are sent again (R430). -/
def execRlPortUp (p : Fin 3) (peer : List Byte) (restarts : Byte) (s : State) : Result :=
  let q := portOf s p.val
  if s.dev.variant.ridgeline ∧ q.state = .training ∧ (s.pll.l.state = .locked ∨ s.pll.l.state = .holdover) ∧ !s.dev.safe then
    let changed := match q.peer with
      | some (_, n) => decide (n ≠ restarts.toNat)
      | none => false
    let s := modPort p.val (fun q => { q with
      state := .up, peer := some (padTo 16 peer, restarts.toNat), faulted := false, upAt := t0Of s.tm.a,
      restarted := q.restarted || changed, samples := [],
      credit := if changed then 0 else q.credit + ((q.fwdBuf.take q.fwdSent).map recSize).sum, fwdSent := 0, reasm := [],
      rseqRx := if changed then 0 else unsign 32 ((q.rseqRx : Int) - (((q.reasm.length + 95) / 96 : Nat) : Int)),
      grant := if changed then 0 else q.grant }) s
    let s := raise 12 p.val s
    let s := { s with pll := { s.pll with missing := withoutBit (2 + p.val) s.pll.missing } }
    .next (pumpPort p.val (grantCredit p.val false s))
  else .next s

/-- RL_PORT_DOWN (R407, R408). -/
def execRlPortDown (p : Fin 3) (s : State) : Result :=
  if (portOf s p.val).state = .up then .next (lostPort p.val (leaveUp p.val .training s)) else .next s

/-- RL_TRAIN_TIMEOUT (R408): an enabled port has not reached UP within 100 ms of the later of its enabling and of the lock of
ADPLL-L, which is LOCKED. -/
def execRlTrainTimeout (p : Fin 3) (s : State) : Result :=
  let q := portOf s p.val
  if s.dev.variant.ridgeline ∧ (q.state = .training ∨ q.state = .peerFault) ∧ s.pll.l.state = .locked ∧
      q.trainFrom + 100 * msTicks s ≤ s.tm.tick then
    .next (linkFault p.val s)
  else .next s

/-- FAULT_IDLE_RX (R407, R434). -/
def execFaultIdleRx (p : Fin 3) (s : State) : Result :=
  let q := portOf s p.val
  match q.state with
  | .up => .next (lostPort p.val (raise 12 (6 + p.val) (leaveUp p.val .peerFault s)))
  | .training =>
    if s.dev.variant.ridgeline then .next (raise 12 (6 + p.val) (leaveUp p.val .peerFault s)) else .next s
  | _ => .next s

/-- RL_PEER_FAULT_END (R407). -/
def execRlPeerFaultEnd (p : Fin 3) (s : State) : Result :=
  if (portOf s p.val).state = .peerFault then .next (leaveUp p.val .training s) else .next s

/-- Do received bytes hold a whole good frame of a known TYPE (R409)? -/
def rxGood (f : List Byte) : Bool :=
  (isFlooded (frType f) || decide (frType f ∈ [0x01, 0x02, 0x03, 0x04, 0x40])) && frGood (frType f) f

/-- RL_FRAME_BAD (R408, R409): blocks whose frame has a bad CRC, length or type, or is cut short by a block error. -/
def execRlFrameBad (r : RxBlocks) (s : State) : Result :=
  .next (if rxGood (rxBytes r.blocks) then s else rxBad r.port.val (rxBytes r.blocks) s)

/-! ## Time and delay (R417-R420) -/

/-- The checks of R419, on the last TIME frame with TB_VALID = 1: one with TB_VALID = 0 ends nothing by itself while that frame
is at most 200 us old. -/
def portChecks (p : Nat) (s : State) : Bool :=
  let q := portOf s p
  q.state == .up && q.samples.length == 16 && match q.lastTime with
    | none => false
    | some t => t.upstream != s.rl.addr && decide (t.stratum < 0xFFFF) && decide (s.tm.tick ≤ t.tick + 200 * usTicks s)

/-- GOOD follows the checks (R419). -/
def judgeGood (p : Nat) (s : State) : State :=
  let g := portChecks p s
  modPort p (fun q => { q with good := g, goodSince := if g ∧ !q.good then s.tm.tick else q.goodSince }) s

/-- The offset estimate in ps (R418). -/
def offsetPs (p : Nat) (tb : Time) (s : State) : Int :=
  let q := portOf s p
  ((timeFlat tb : Int) - (timeFlat s.tm.b : Int)) * 1000 / 2 ^ 32 + q.delay + q.asymPs

/-- An increment held to the range of R369. -/
def clampIncr (n : Int) : Nat := (max 0x03FF7CED92 (min 0x040083126E n)).toNat

/-- The port's rate as an increment of this unit's ticks, within the range of R369: from TB of its last valid TIME frame to
`tb`, over AX5 between the two; before there are two it is the frequency the servo holds (log 7). -/
def portRate (p tb : Nat) (s : State) : Nat :=
  match (portOf s p).lastTime with
  | none => s.tm.servoFreq
  | some t =>
    let d : Nat := (2 ^ 64 + s.tm.ax5 - t.ax5) % 2 ^ 64
    if d = 0 then s.tm.servoFreq else clampIncr (((tb : Int) - t.tb) * 10 / (d : Int))

/-- The servo sets time B's increment (R420). The loop's own values are free (log 7): the frequency its integral term holds lies
between the one it held and the port's rate, and the correction of its proportional term works towards the port. The increment
stays within 10 ps per microsecond of the port's rate, which is 171,798 of its units (R376), and in the range of R369. SLEWING
ends once the error is below 1 ns (R376). -/
def servo (p rate : Nat) (s : State) : State :=
  if s.tm.source = p + 2 then
    let r := freeBits 40 s
    let f := min s.tm.servoFreq rate + r.1 % (max s.tm.servoFreq rate - min s.tm.servoFreq rate + 1)
    let c := freeBits 18 r.2
    let m : Int := f + (portOf s p).offset.sign * ((c.1 % 171799 : Nat) : Int)
    let n := clampIncr (max ((rate : Int) - 171798) (min ((rate : Int) + 171798) m))
    let s := c.2
    let slew := s.tm.slewing && decide (1000 ≤ (portOf s p).offset.natAbs)
    spanB false { s with
      tm := { s.tm with servoFreq := f, servoIncr := n, slewing := slew },
      rl := { s.rl with track := trackOf p s } }
  else s

/-- TIME_FRAME_RX (R418-R420). -/
def execTimeFrameRx (p : Fin 3) (f : List Byte) (s : State) : Result :=
  .next (rxLocal p.val 0x01 f (fun b s =>
    let tb := timeFlat (bodyTime b 0)
    let off := offsetPs p.val (bodyTime b 0) s
    let rate := portRate p.val tb s
    let t : TimeSeen :=
      { tick := s.tm.tick, ax5 := s.tm.ax5, tb := tb, holdover := bitOf 1 (fieldAt b 22 1), root := fieldAt b 16 2,
        stratum := fieldAt b 18 2, upstream := fieldAt b 20 2 }
    let s := modPort p.val (fun q =>
      { q with lastTime := if bitOf 0 (fieldAt b 22 1) then some t else q.lastTime, offset := off }) s
    servo p.val rate (judgeGood p.val s)) s)

/-- ROOT and STRATUM of this unit's TIME frames (R418). -/
def rootStratum (s : State) : Nat × Nat :=
  match s.tm.source with
  | 0 => (0xFFFF, 0xFFFF)
  | 1 => (s.rl.addr, 0)
  | 5 => if s.rl.tracked then s.rl.track else (s.rl.addr, 0)
  | _ => s.rl.track

/-- The body of a TIME frame (R410, R418). -/
def timeFrame (s : State) : List Byte :=
  let r := rootStratum s
  let up := if 2 ≤ s.tm.source ∧ s.tm.source ≤ 4 then (portOf s (s.tm.source - 2)).peerAddr else 0xFFFF
  timeBytes s.tm.b ++ leBytes 2 r.1 ++ leBytes 2 r.2 ++ leBytes 2 up ++
    leBytes 1 (b2n s.tm.bValid + 2 * b2n (s.tm.source == 5)) ++ zeros 3

/-- TIME_FRAME_TX (R418). -/
def execTimeFrameTx (p : Fin 3) (s : State) : Result := .next (sendLocal p.val 0x01 (timeFrame s) s)

/-- RL_TIME_LOSS (R419): no TIME frame with TB_VALID = 1 for more than 200 us. -/
def execRlTimeLoss (p : Fin 3) (s : State) : Result :=
  .next (match (portOf s p.val).lastTime with
    | some t => if s.tm.tick ≤ t.tick + 200 * usTicks s then s else portBad p.val s
    | none => portBad p.val s)

/-- DELAY_REQ_TX (R417). -/
def execDelayReqTx (p : Fin 3) (s : State) : Result := .next (sendLocal p.val 0x02 (timeBytes s.tm.b) s)

/-- DELAY_REQ_RX (R417): answered with T1 as received and this unit's time B at reception and at sending. -/
def execDelayReqRx (p : Fin 3) (f : List Byte) (s : State) : Result :=
  .next (rxLocal p.val 0x02 f (fun b s => sendLocal p.val 0x03 (padTo 16 b ++ timeBytes s.tm.b ++ timeBytes s.tm.b) s) s)

/-- The mean of the samples in ps, rounded down (R417). -/
def meanDelay (l : List Int) : Int := l.sum * 1000 / ((l.length : Int) * 2 ^ 32)

/-- DELAY_RESP_RX (R417). -/
def execDelayRespRx (p : Fin 3) (f : List Byte) (s : State) : Result :=
  .next (rxLocal p.val 0x03 f (fun b s =>
    let t (o : Nat) : Int := (timeFlat (bodyTime b o) : Int)
    let x := (((timeFlat s.tm.b : Int) - t 0) - (t 32 - t 16)) / 2
    let s := modPort p.val (fun q =>
      let l := (x :: q.samples).take 16
      { q with samples := l, delay := meanDelay l }) s
    judgeGood p.val s) s)

end Sys2Proof.Machine
end

