-- ==== Sys2Proof/Machine/RlChain.lean ====
section
/-! DEFINITION. What the Ridgeline chain carries: fires and arms, timed frames, the management tunnel, discovery, and the
Ridgeline commands (R413-R416, R422-R429, R436). -/

namespace Sys2Proof.Machine

/-! ## Fires, arms and disarms (R422, R423, R222) -/

/-- The placement of a received fire: the instant at which time B reaches PLACE_B; none, for that of the first sample, when
either time B is invalid (R422). -/
def firePlace (b : List Byte) (first : Nat) (s : State) : Option Nat :=
  if bitOf 0 (fieldAt b 3 1) ∧ s.tm.bValid then some ((reachInstant s.tm.segB (timeFlat (bodyTime b 4))).getD (256 * first))
  else none

/-- Apply a FIRE frame (R222, R422). -/
def applyFire (p origin : Nat) (b : List Byte) (s : State) : State :=
  let q := portOf s p
  let c := fieldAt b 0 1
  let g := fieldAt b 1 1
  if q.rfireAccept ∧ c < 4 ∧ q.classMask.testBit c then
    let first := s.tm.ax5 + 1
    let at_ := firePlace b first s
    let place := at_.getD (256 * first)
    let s := { s with fab := { s.fab with rfire := s.fab.rfire ++ [(c, first, at_)] } }
    let s := raise 12 16 (groupDone g none (nextVector s) true s)
    if s.cfg.active.retain.rfireCairn then
      let tb := if bitOf 0 (fieldAt b 3 1) then t0Bytes (t0Of (bodyTime b 4)) else zeros 8
      pushCairnIf 0x0002 place 1 0xFF
        (leBytes 1 c ++ leBytes 1 g ++ leBytes 2 origin ++ leBytes 1 p ++ zeros 3 ++ tb) s
    else s
  else s

/-- FIRE_FRAME_RX (R422). -/
def execFireFrameRx (p : Fin 3) (f : List Byte) (s : State) : Result :=
  .next (rxFlood p.val 0x10 f (applyFire p.val (frOrigin f)) s)

/-- ARM_FRAME_RX (R423). -/
def execArmFrameRx (p : Fin 3) (f : List Byte) (s : State) : Result :=
  .next (rxFlood p.val 0x11 f (fun b s =>
    let t := bodyTime b 4
    chainArm (fieldAt b 0 1) t.sec t.ns (fieldAt b 1 1) s) s)

/-- DISARM_FRAME_RX (R423). -/
def execDisarmFrameRx (p : Fin 3) (f : List Byte) (s : State) : Result :=
  .next (rxFlood p.val 0x12 f (fun b s => chainDisarm (fieldAt b 0 1) s) s)

/-! ## Timed frames (R424-R426) -/

/-- A timed action acts at an instant; one that R393 makes MISSED, or whose code is reserved, is discarded with G12.13. -/
def actTimed (action arg t : Nat) (late : Bool) (s : State) : State :=
  if 7 < action ∨ (action = 7 ∧ !s.dev.variant.sealer) then raise 12 13 s
  else
    let r := actEffect action arg t late s
    if r.1 then raise 12 13 r.2 else r.2

/-- A timed action whose APPLY_B has passed: POLICY decides (R426). -/
def timedPast (e : Timed) (s : State) : State :=
  if e.policy = 0 then actTimed e.action e.arg (nowU s) true (raise 12 12 s) else raise 12 13 s

/-- Apply a TIMED frame (R426). -/
def applyTimed (e : Timed) (s : State) : State :=
  if !s.tm.bValid then raise 12 13 s
  else if timeBReached e.apply.1 e.apply.2 s then timedPast e s
  else if 16 ≤ s.rl.timed.length then raise 12 13 s
  else { s with rl := { s.rl with timed := s.rl.timed ++ [e] } }

/-- The action a TIMED frame's body names (R410). -/
def timedOf (b : List Byte) (dest : Nat) : Timed :=
  let t := bodyTime b 0
  { launch := (0, 0), apply := (t.sec, t.ns), dest := dest, action := fieldAt b 16 1, arg := fieldAt b 17 1,
    policy := fieldAt b 18 1, tag := fieldAt b 20 4 }

/-- The body of a TIMED frame (R410). -/
def timedBody (e : Timed) : List Byte :=
  leBytes 8 e.apply.1 ++ leBytes 4 e.apply.2 ++ zeros 4 ++ leBytes 1 e.action ++ leBytes 1 e.arg ++ leBytes 1 e.policy ++
    zeros 1 ++ leBytes 4 e.tag

/-- TIMED_FRAME_RX (R426). -/
def execTimedFrameRx (p : Fin 3) (f : List Byte) (s : State) : Result :=
  .next (rxFlood p.val 0x20 f (fun b => applyTimed (timedOf b (frDest f))) s)

/-- RL_TIMED_LAUNCH (R424): the first entry's LAUNCH_B is reached; its frame goes out on its port alone, and this unit
applies it where DEST names it. -/
def execRlTimedLaunch (p : Fin 3) (s : State) : Result :=
  match (portOf s p.val).launch with
  | [] => .next s
  | e :: rest =>
    if timeBReached e.launch.1 e.launch.2 s then
      let n := s.rl.oseq
      let s := modPort p.val (fun q => { q with launch := rest }) s
      let s := recordOrigin s.rl.addr n { s with rl := { s.rl with oseq := (n + 1) % 2 ^ 32 } }
      let s := txFrame p.val true
        { type := 0x20, origin := s.rl.addr, dest := e.dest, hop := 0, oseq := n, body := timedBody e, bad := false } s
      .next (if e.dest = 0xFFFF ∨ e.dest = s.rl.addr then applyTimed e s else s)
    else .next s

/-- RL_TIMED_APPLY (R426): time B reaches the APPLY_B of waiting action `i`. -/
def execRlTimedApply (i : Nat) (s : State) : Result :=
  match s.rl.timed[i]? with
  | none => .next s
  | some e =>
    if timeBReached e.apply.1 e.apply.2 s then
      let s := { s with rl := { s.rl with timed := s.rl.timed.eraseIdx i } }
      match reachInstant s.tm.segB (flatOf e.apply.1 e.apply.2) with
      | some t => .next (actTimed e.action e.arg t false s)
      | none => .next (timedPast e s)
    else .next s

/-- Is one time before another? -/
def timeLt (a b : Nat × Nat) : Bool := decide (a.1 < b.1 ∨ (a.1 = b.1 ∧ a.2 < b.2))

/-- A launch queue with one more entry, in ascending LAUNCH_B, equal ones in the order queued (R424). -/
def queueTimed (e : Timed) : List Timed → List Timed
  | [] => [e]
  | x :: xs => if timeLt e.launch x.launch then e :: x :: xs else x :: queueTimed e xs

/-- RL_TIMED's response (R426). -/
def timedReply (p : Nat) (late : Bool) (s : State) : List Byte := leBytes 1 (portOf s p).launch.length ++ leBytes 1 (b2n late)

/-- A discarded launch entry (R425). -/
def missTimed (p : Nat) (s : State) : State :=
  raise 12 13 (modPort p (fun q => { q with missed := (q.missed + 1) % 65536 }) s)

/-- RL_TIMED's rules (R425, R427). -/
def timedCmd : Cmd := fun q s =>
  let p := fieldAt q 0 1
  let op := fieldAt q 1 1
  let pol := fieldAt q 2 1
  let act := fieldAt q 3 1
  let dest := fieldAt q 6 2
  let hi := s.tm.b.sec / 2 ^ 32 * 2 ^ 32
  let e : Timed :=
    { launch := (hi + fieldAt q 8 4, fieldAt q 12 4), apply := (hi + fieldAt q 16 4, fieldAt q 20 4), dest := dest,
      action := act, arg := fieldAt q 4 1, policy := pol, tag := fieldAt q 24 4 }
  if !s.dev.variant.ridgeline then quit stUnsupported s
  else if 2 < p ∨ 2 < op ∨ 1 < pol ∨ 7 < act ∨ 999999999 < e.launch.2 ∨ 999999999 < e.apply.2 ∨ timeLt e.apply e.launch ∨
      dest = 0 ∨ !zeroAt q 5 1 ∨ !zeroAt q 28 228 then quit stBadArg s
  else if s.rl.addr = 0 ∨ !s.tm.bValid then quit stState s
  else if op = 1 then
    let s := modPort p (fun q => { q with launch := [] }) s
    (s, some (okWith (timedReply p false s)))
  else if op = 2 then (s, some (okWith (timedReply p false s)))
  else if 16 ≤ (portOf s p).launch.length then quit stBusy s
  else
    let past := timeBReached e.launch.1 e.launch.2 s
    if past ∧ pol = 1 then
      let s := missTimed p s
      (s, some { status := stLate, detail := 0, body := timedReply p true s })
    else
      let s := modPort p (fun q => { q with launch := queueTimed e q.launch }) s
      (s, some (okWith (timedReply p past s)))

/-- RL_TIMED (R427). -/
def execRlTimed (m : Fin 8) (s : State) : Result := .next (command m.val 0x0704 timedCmd s)

/-! ## Management tunnel (R428, R429, R509) -/

/-- Segments with one more, each SEG once. -/
def addSeg (i : Nat) (d : List Byte) (l : List (Nat × List Byte)) : List (Nat × List Byte) :=
  (l.filter fun e => e.1 ≠ i) ++ [(i, padTo 96 d)]

/-- The payload that three segments carry, none while one is missing. -/
def joinSegs (l : List (Nat × List Byte)) : Option (List Byte) :=
  match l.find? (fun e => e.1 == 0), l.find? (fun e => e.1 == 1), l.find? (fun e => e.1 == 2) with
  | some a, some b, some c => some ((a.2 ++ b.2 ++ c.2).take 240)
  | _, _, _ => none

/-- A reassembled tunnelled command occupies its mailbox, or is answered BUSY (R428, R509). -/
def startTunnelled (port : Nat) (t : TunnelIn) (req : List Byte) (s : State) : State :=
  let q := mbOf s t.mbox
  let from_ : TunnelFrom := { port := port, origin := t.origin, tun := t.ttag }
  if q.state = .queued ∨ q.state = .running then sendTunnelResp from_ stBusy [] s
  else
    let n := s.summit.nextOrder
    let s := modMb t.mbox (fun q => { q with
      state := .queued, status := 0, detail := 0, tunnel := some from_, opcode := t.opcode, barrier := t.barrier, key := 0,
      req := padTo 256 req, resp := [], order := n, rung := s.tm.ax5 }) s
    { s with summit := { s.summit with nextOrder := n + 1 } }

/-- TUNNEL_REQ_RX (R428): firmware reassembles the segments and rings the mailbox. -/
def execTunnelReqRx (p : Fin 3) (f : List Byte) (s : State) : Result :=
  .next (rxFlood p.val 0x30 f (fun b s =>
    if frDest f ≠ s.rl.addr ∨ !firmwareUp s ∨ 2 < fieldAt b 2 1 ∨ 7 < fieldAt b 6 1 then s
    else
      let o := frOrigin f
      let tt := fieldAt b 0 2
      let old := (s.rl.inTunnel.find? fun t => t.origin == o && t.ttag == tt).getD
        { origin := o, ttag := tt, opcode := fieldAt b 4 2, mbox := fieldAt b 6 1, barrier := bitOf 0 (fieldAt b 7 1),
          segs := [] }
      let t := { old with segs := addSeg (fieldAt b 2 1) (b.drop 8) old.segs }
      let rest := s.rl.inTunnel.filter fun t => !(t.origin == o && t.ttag == tt)
      match joinSegs t.segs with
      | none => { s with rl := { s.rl with inTunnel := rest ++ [t] } }
      | some req => startTunnelled p.val t req { s with rl := { s.rl with inTunnel := rest } }) s)

/-- RL_TUNNEL's response (R428). -/
def tunnelReply (status : Nat) (body : List Byte) : List Byte := leBytes 1 status ++ zeros 15 ++ padTo 240 body

/-- TUNNEL_RESP_RX (R428): the command completes once every segment has arrived; a response after the timeout is discarded
(R429). -/
def execTunnelRespRx (p : Fin 3) (f : List Byte) (s : State) : Result :=
  .next (rxFlood p.val 0x31 f (fun b s =>
    match s.rl.tunnels.find? fun t => t.ttag == fieldAt b 0 2 && t.dest == frOrigin f with
    | none => s
    | some t =>
      if 2 < fieldAt b 2 1 then s
      else
        let t' := { t with status := fieldAt b 4 1, segs := addSeg (fieldAt b 2 1) (b.drop 8) t.segs }
        let rest := s.rl.tunnels.filter fun u => u.ttag ≠ t.ttag
        match joinSegs t'.segs with
        | none => { s with rl := { s.rl with tunnels := rest ++ [t'] } }
        | some body =>
          mbComplete t.mb (okWith (tunnelReply t'.status body)) { s with rl := { s.rl with tunnels := rest } }) s)

/-- RL_TUNNEL_TIMEOUT (R429). -/
def execRlTunnelTimeout (m : Fin 8) (s : State) : Result :=
  match s.rl.tunnels.find? fun t => t.mb == m.val with
  | none => .next s
  | some t =>
    if s.tm.tick < t.deadline then .next s
    else
    let s := { s with rl := { s.rl with tunnels := s.rl.tunnels.filter fun u => u.ttag ≠ t.ttag } }
    .next (mbComplete m.val { status := stInternal, detail := 0, body := tunnelReply 0xFF [] } (raise 12 14 s))

/-- RL_TUNNEL's rules (R429). -/
def tunnelCmd (m : Nat) : Cmd := fun q s =>
  let dest := fieldAt q 0 2
  let mbox := fieldAt q 2 1
  let fl := fieldAt q 3 1
  let op := fieldAt q 4 2
  let to_ := fieldAt q 6 2
  if dest = 0 ∨ dest = 0xFFFF ∨ dest = s.rl.addr ∨ 7 < mbox ∨ 1 < fl ∨ to_ = 0 ∨ 60000 < to_ ∨ op = 0x0703 ∨
      !zeroAt q 8 8 then quit stBadArg s
  else if s.rl.addr = 0 then quit stState s
  else
    let tt := s.rl.ttag
    let t : Tunnel :=
      { mb := m, ttag := tt, dest := dest, deadline := s.tm.tick + msTicks s * to_, status := 0, segs := [] }
    let s := { s with rl := { s.rl with tunnels := s.rl.tunnels ++ [t], ttag := (tt + 1) % 65536 } }
    let d := padTo 288 ((q.drop 16).take 240)
    let s := (List.range 3).foldl (fun s i =>
      originate 0x30 dest
        (leBytes 2 tt ++ leBytes 1 i ++ leBytes 1 3 ++ leBytes 2 op ++ leBytes 1 mbox ++ leBytes 1 fl ++
          (d.drop (96 * i)).take 96) s) s
    (s, none)

/-- RL_TUNNEL (R429). -/
def execRlTunnel (m : Fin 8) (s : State) : Result := .next (command m.val 0x0703 (tunnelCmd m.val) s)

/-! ## Discovery (R413, R415, R416) -/

/-- A unit takes a chain address (R415). -/
def setAddress (a : Nat) (s : State) : State :=
  if s.rl.addr = a then s else raise 12 11 { s with rl := { s.rl with addr := a } }

/-- A new SESSION clears the suppression table and the discovery keys (R413, R415). -/
def noteSession (n : Nat) (s : State) : State :=
  if s.rl.session < n then
    { s with rl := { s.rl with session := n, origins := [], seen := [], root := 0 } }
  else s

/-- A received discovery frame: applied and forwarded once, by its key (R413). -/
def rxDisc (p type : Nat) (key : List Byte) (f : List Byte) (act : State → State) (s : State) : State :=
  let n := fieldAt (frBody f) 0 4
  let s := noteSession n s
  if n ≠ s.rl.session ∨ (type, key) ∈ s.rl.seen then s
  else act (forward p f { s with rl := { s.rl with seen := s.rl.seen ++ [(type, key)] } })

/-- The SERIALs of the peers seen by TRAIN on the ports that are UP, or 0 (R410). -/
def peerSerials (s : State) : List Byte :=
  (List.range 3).flatMap fun p =>
    match (portOf s p).state, (portOf s p).peer with
    | .up, some (b, _) => padTo 16 b
    | _, _ => zeros 16

/-- Bit p: a peer is seen on port p. -/
def upMaskOf (peers : List Byte) : Nat := maskOf ((List.range 3).filter fun p => !zeroAt peers (16 * p) 16)

/-- DISCOVER_RX (R415): the answer is firmware's (R522). -/
def execDiscoverRx (p : Fin 3) (f : List Byte) (s : State) : Result :=
  .next (rxTake p.val 0x50 f (rxDisc p.val 0x50 [] f (fun s =>
    if firmwareUp s then originateDisc 0x51 (leBytes 4 s.rl.session ++ serial ++ peerSerials s) s else s)) s)

/-- A session of this unit with a copy of a unit's reply: the hop distance is the fewest hops of all copies, and a reply of a
unit not met yet starts the 2 ms afresh (R415). -/
def addReply (f : List Byte) (tick : Nat) (r : RlSession) : RlSession :=
  let b := frBody f
  let id := (b.drop 4).take 16
  if !r.live ∨ fieldAt b 0 4 ≠ r.session ∨ id = serial then r
  else
    let h := frHop f + 1
    if r.units.any fun u => u.serial = id then
      { r with units := r.units.map fun u => if u.serial = id then { u with hop := min u.hop h } else u }
    else
      { r with lastNew := tick, units := r.units ++ [{ serial := id, hop := h, addr := 0, upMask := upMaskOf (b.drop 20) }] }

/-- The root notes a copy of a unit's reply (R415). -/
def noteReply (f : List Byte) (s : State) : State :=
  { s with rl := { s.rl with
      run := s.rl.run.map (addReply f s.tm.tick), older := s.rl.older.map (addReply f s.tm.tick) } }

/-- DISCOVER_REPLY_RX (R415). -/
def execDiscoverReplyRx (p : Fin 3) (f : List Byte) (s : State) : Result :=
  .next (rxTake p.val 0x51 f (fun s => rxDisc p.val 0x51 (discKey 0x51 (frBody f)) f id (noteReply f s)) s)

/-- ASSIGN_RX (R415, R416). -/
def execAssignRx (p : Fin 3) (f : List Byte) (s : State) : Result :=
  let b := frBody f
  let id := discKey 0x52 b
  .next (rxTake p.val 0x52 f (rxDisc p.val 0x52 id f (fun s =>
    let s := { s with rl := { s.rl with root := frOrigin f } }
    if id = serial then setAddress (fieldAt b 20 2) s else s)) s)

/-- Is one unit before another in the order of addresses: hop distance, then SERIAL (R415)? The SERIAL's bytes are compared
in ascending order. -/
def unitBefore (a b : RlUnit) : Bool :=
  decide (a.hop < b.hop) ||
    (a.hop == b.hop && decide (leNat a.serial.reverse < leNat b.serial.reverse))

/-- Insert a unit into an ordered list. -/
def insertUnit (u : RlUnit) : List RlUnit → List RlUnit
  | [] => [u]
  | x :: xs => if unitBefore u x then u :: x :: xs else x :: insertUnit u xs

/-- Give the units of an ordered list their addresses from `a` on, up to 0xFFFE (R415). -/
def numberUnits : Nat → List RlUnit → List RlUnit
  | _, [] => []
  | a, u :: us => { u with addr := if a ≤ 0xFFFE then a else 0 } :: numberUnits (a + 1) us

/-- RL_DISCOVER's response (R415, R416). -/
def discoverReply (s : State) : List Byte :=
  let us := match s.rl.run with
    | some r => r.units
    | none => []
  leBytes 2 us.length ++ leBytes 2 (us.foldl (fun m u => max m u.hop) 0) ++ leBytes 2 s.rl.addr ++ leBytes 2 s.rl.root ++
    leBytes 2 (us.filter fun u => u.addr = 0).length

/-- One entry of the unit table (R415). -/
def unitEntry (u : RlUnit) : List Byte :=
  leBytes 2 u.addr ++ leBytes 2 u.hop ++ leBytes 1 u.upMask ++ zeros 3 ++ padTo 16 u.serial ++ zeros 8

/-- Has a session waited 2 ms without a new reply, or 1 s at most (R415 step 3)? -/
def assignDue (r : RlSession) (s : State) : Bool :=
  r.live && (decide (r.lastNew + 2 * msTicks s ≤ s.tm.tick) || decide (r.started + 1000 * msTicks s ≤ s.tm.tick))

/-- The root floods one ASSIGN for a unit of the session that has an address, itself apart (R415 step 4). -/
def assignUnit (session : Nat) (s : State) (u : RlUnit) : State :=
  if u.hop = 0 ∨ u.addr = 0 then s
  else
    originateDisc 0x52 (leBytes 4 session ++ padTo 16 u.serial ++ leBytes 2 u.addr ++ zeros 2)
      { s with rl := { s.rl with seen := s.rl.seen ++ [(0x52, u.serial)] } }

/-- The units of a session in the order of their addresses (R415 step 3). -/
def orderUnits (r : RlSession) : List RlUnit :=
  numberUnits r.rootAddr ((r.units.filter fun u => u.hop = 0) ++ (r.units.filter fun u => u.hop ≠ 0).foldr insertUnit [])

/-- A session ends: its root takes its address, floods the ASSIGN frames, and answers the mailbox that still waits with the
unit table (R415 steps 3-5). ROOT is that of the last session seen (R416). -/
def endSession (r : RlSession) (s : State) : State :=
  let us := orderUnits r
  let s := setAddress r.rootAddr s
  let done (x : RlSession) : RlSession := if x.session = r.session then { x with live := false, mb := none, units := us } else x
  let s := { s with rl := { s.rl with
    root := if r.session = s.rl.session then r.rootAddr else s.rl.root, run := s.rl.run.map done,
    older := s.rl.older.filter fun x => x.session != r.session } }
  let s := us.foldl (assignUnit r.session) s
  let s := raise 12 10 s
  match r.mb with
  | some m => fillTransfer r.cw m (us.flatMap unitEntry) (discoverReply s) s
  | none => s

/-- RL_DISCOVER_ASSIGN (R415 steps 3-5): the oldest session whose wait is over ends. -/
def execRlDiscoverAssign (s : State) : Result :=
  .next (match (s.rl.older ++ s.rl.run.toList).find? fun r => assignDue r s with
    | none => s
    | some r => endSession r s)

/-- RL_DISCOVER's rules (R416). -/
def discoverCmd (m : Nat) : Cmd := fun q s =>
  let op := fieldAt q 0 1
  let cw := fieldAt q 1 1
  let ra := fieldAt q 2 2
  if 1 < op ∨ 6 < cw ∨ ra = 0 ∨ ra = 0xFFFF ∨ !zeroAt q 4 252 then quit stBadArg s
  else if op = 1 then (s, some (okWith (discoverReply s)))
  else if !(List.range 3).any fun p => (portOf s p).state == .up then quit stState s
  else if (cwOf s cw).claimed then quitClaimed s
  else
    let n := (s.rl.session + 1) % 2 ^ 32
    let me : RlUnit := { serial := serial, hop := 0, addr := 0, upMask := upMaskOf (peerSerials s) }
    let s := cwClaim cw m 0x0701 false 0xFFFFFFFF [] s
    let old := s.rl.run.toList.filter fun r => r.live
    let s := { s with rl := { s.rl with
      session := n, origins := [], seen := [(0x50, [])], root := 0, older := s.rl.older ++ old,
      run := some
        { live := true, mb := some m, cw := cw, rootAddr := ra, session := n, started := s.tm.tick, lastNew := s.tm.tick,
          units := [me] } } }
    (originateDisc 0x50 (leBytes 4 n) s, none)

/-- RL_DISCOVER (R416). -/
def execRlDiscover (m : Fin 8) (s : State) : Result := .next (command m.val 0x0701 (discoverCmd m.val) s)

/-- RL_ORIGIN_EXPIRE (R413): entry `i` has seen no frame for 1 s. -/
def execRlOriginExpire (i : Nat) (s : State) : Result :=
  .next (match s.rl.origins[i]? with
    | some e =>
      if e.2.2 + 1000 * msTicks s ≤ s.tm.tick then { s with rl := { s.rl with origins := s.rl.origins.eraseIdx i } } else s
    | none => s)

/-! ## RL_PORT_CFG (R436) -/

/-- The settings of a port in force, with its STATE. -/
def portBody (op p : Nat) (s : State) : List Byte :=
  let q := portOf s p
  leBytes 1 p ++ leBytes 1 op ++
    leBytes 1 (b2n q.enable + 2 * b2n q.rfireAccept + 4 * b2n q.fwdTx + 8 * b2n q.fwdRx) ++ leBytes 1 q.classMask ++
    leBytes 4 (unsign 32 q.asymPs) ++ leBytes 1 q.state.code

/-- Is a unit of a source held stopped by a containment (R566)? -/
def heldStopped (f : Nat) (s : State) : Bool := s.flt.contained.any fun c => c.source == f && c.stopped

/-- A port takes new settings (R436). -/
def setPort (p fl mask : Nat) (asym : Int) (s : State) : State :=
  let q := portOf s p
  let on := fl.testBit 0
  let s := modPort p (fun q => { q with
    enable := on, rfireAccept := fl.testBit 1, fwdTx := fl.testBit 2, fwdRx := fl.testBit 3, classMask := mask,
    asymPs := asym }) s
  let s :=
    if q.enable ∧ !on then settleRef (disablePort p s)
    else if !q.enable ∧ on ∧ !heldStopped (27 + p) s then
      modPort p (fun q => { q with state := .training, trainFrom := s.tm.tick, faulted := false }) s
    else s
  grantCredit p false s

/-- RL_PORT_CFG's rules (R436). -/
def portCfgCmd : Cmd := fun q s =>
  let p := fieldAt q 0 1
  let op := fieldAt q 1 1
  let fl := fieldAt q 2 1
  let mask := fieldAt q 3 1
  let asym := signed 32 (fieldAt q 4 4)
  let x := portOf s p
  let second := fl.testBit 2 && (List.range 3).any fun i => i != p && (portOf s i).fwdTx
  if !s.dev.variant.ridgeline then quit stUnsupported s
  else if 2 < p ∨ 1 < op ∨ 15 < fl ∨ 15 < mask ∨ asym < -100000 ∨ 100000 < asym ∨ !zeroAt q 8 248 ∨ second then
    quit stBadArg s
  else if op = 1 then (s, some (okWith (portBody op p s)))
  else if (fl.testBit 2 ≠ x.fwdTx ∨ fl.testBit 3 ≠ x.fwdRx) ∧ s.dev.acq ≠ .idle then quit stState s
  else
    let s := setPort p fl mask asym s
    (s, some (okWith (portBody op p s)))

/-- RL_PORT_CFG (R436). -/
def execRlPortCfg (m : Fin 8) (s : State) : Result := .next (command m.val 0x0702 portCfgCmd s)

end Sys2Proof.Machine
end

