-- ==== Sys2Proof/Machine/Clock.lean ====
section
/-! DEFINITION. Clock synthesis: lock and its loss, the DCO monitor, references, holdover, phase build-out and PLL_CFG
(R440-R457). -/

namespace Sys2Proof.Machine

/-! ## TIMING_SUSPECT (R53, R186, R448) -/

/-- The payload of a TIMING_SUSPECT cairn (R259). -/
def suspectPayload (phase reason : Nat) : List Byte := leBytes 1 phase ++ leBytes 1 reason

/-- A TIMING_SUSPECT cairn opens: suppression begins with the first vector whose first sample is at or after now, or goes on
where that of the cairn before has not ended (R186), and shadows are abandoned (R120). -/
def openSuspect (reason : Nat) (s : State) : State :=
  let s := cairnNow 0x0008 (suspectPayload 0 reason) s
  let s := settleSuspect (evalNow s)
  { s with
    pll := { s.pll with suspect := true },
    ret := { s.ret with suspect := some reason, suspects := (nowU s, none) :: s.ret.suspects },
    fab := { s.fab with
      suspectFrom := if s.fab.requalDue then s.fab.suspectFrom else some s.tm.ax5, suspectTo := none, requalDue := false },
    pods := s.pods.map fun p => { p with cal := { p.cal with shadow := none, shadowDone := false, shadowRes := none } } }

/-- The cairn closes with the same REASON; suppression ends at the start of the first block that begins afterwards (R186,
R448). -/
def closeSuspect (s : State) : State :=
  match s.ret.suspect with
  | none => s
  | some r =>
    let s := cairnNow 0x0008 (suspectPayload 1 r) s
    { s with
      pll := { s.pll with suspect := false },
      ret := { s.ret with
        suspect := none,
        suspects := match s.ret.suspects with
          | (a, none) :: rest => (a, some (nowU s)) :: rest
          | l => l },
      fab := { s.fab with suspectTo := some (256 * (s.tm.ax5 / 256 + 1)), requalDue := true } }

/-! ## References (R443, R445, R451) -/

/-- One TDC period T in ps of a source after the pre-path (R440, R443). -/
def tdcPeriod (src inFreq prepath : Nat) : Nat :=
  let t := match src with
    | 0 => 20000
    | 1 => if inFreq = 0 then 100000 else if inFreq = 1 then 40000 else 10000
    | _ => 6400
  if prepath = 1 then t / 2 else if prepath = 2 then 2 * t else t

/-- A change folded into (-T/2, T/2] (R451, R454). -/
def foldPhase (t : Nat) (d : Int) : Int :=
  let r := d % (t : Int)
  if (t : Int) < 2 * r then r - (t : Int) else r

/-! ## Realignment (R455) -/

/-- Is some build-out not 0? -/
def buildOut (s : State) : Bool := s.pll.s.pbo != 0 || s.pll.l.pbo != 0

/-- A slew begins at once in IDLE; otherwise it is due at the next epoch boundary instant. -/
def startRealign (s : State) : State :=
  if s.pll.realign ∧ buildOut s ∧ !s.pll.realigning then
    if s.dev.acq = .idle then { s with pll := { s.pll with realigning := true, realignDue := false } }
    else { s with pll := { s.pll with realignDue := true } }
  else s

/-- At an epoch boundary instant a slew that is due begins. -/
def realignBoundary (s : State) : State :=
  if s.pll.realignDue ∧ s.pll.realign then { s with pll := { s.pll with realigning := true, realignDue := false } } else s

/-- Clearing REALIGN stops a slew where it stands (R455). -/
def clearRealign (s : State) : State :=
  { s with pll := { s.pll with realign := false, realignDue := false, realigning := false } }

/-! ## Build-out (R451, R454) -/

/-- The REF_PHASE_STEP cairn of a loop (R259, R451 step 5). -/
def phaseCairn (pll : Nat) (step pbo : Int) (s : State) : State :=
  cairnNow 0x000B (leBytes 1 pll ++ zeros 3 ++ leBytes 4 (unsign 32 step) ++ leBytes 4 (unsign 32 pbo)) s

/-- ADPLL-S absorbs a phase into its build-out. -/
def absorbS (d : Int) (s : State) : State :=
  let s := { s with pll := { s.pll with s := { s.pll.s with pbo := s.pll.s.pbo + d }, lastStep := d } }
  phaseCairn 0 d s.pll.s.pbo s

def absorbL (d : Int) (s : State) : State :=
  let s := { s with pll := { s.pll with l := { s.pll.l with pbo := s.pll.l.pbo + d } } }
  phaseCairn 1 d s.pll.l.pbo s

/-- What one build-out event does besides: PLL_STEP_CNT and G13.6 (R451, R454). -/
def countStep (s : State) : State :=
  startRealign (raise 13 6 { s with pll := { s.pll with stepCnt := s.pll.stepCnt + 1 } })

/-! ## Lock (R446, R448, R450) -/

/-- ADPLL-S enters LOCKED: G13.0, an open TIMING_SUSPECT cairn closes, and the condition of F7 ends (R446, R448, R457). -/
def lockS (s : State) : State :=
  closeSuspect (goDead 7 (raise 13 0 { s with pll := { s.pll with s := { s.pll.s with state := .locked } } }))

/-- ADPLL-L enters LOCKED: G13.2, the ports' 100 ms of R408 run from now, and the condition of F7 ends (R446, R457). -/
def lockL (s : State) : State :=
  (List.range 3).foldl (fun s p => modPort p (fun q => { q with trainFrom := s.tm.tick }) s)
    (goDead 7 (raise 13 2 { s with pll := { s.pll with l := { s.pll.l with state := .locked } } }))

/-- PLLS_LOCKED (R446): the phase error has stayed below 100 ps for 1 ms with a good reference. -/
def execPllsLocked (phErr : Int) (s : State) : Result :=
  if (s.pll.s.state = .freeRun ∨ s.pll.s.state = .acquiring) ∧ phErr.natAbs < 100 ∧ refGood s.pll.ref s then
    .next (lockS { s with pll := { s.pll with phErr := phErr } })
  else .next s

/-- PLLS_UNLOCKED (R446, R448). -/
def execPllsUnlocked (phErr : Int) (s : State) : Result :=
  if s.pll.s.state = .locked ∧ 1000 < phErr.natAbs ∧ refGood s.pll.ref s then
    let s := { s with pll := { s.pll with
      s := { s.pll.s with state := .acquiring }, phErr := phErr, lockedTo := s.tm.ax5, sUnlocks := (s.pll.sUnlocks + 1) % 256 } }
    .next (openSuspect 0 (signal 4 0 (raise 13 1 s)))
  else .next s

/-- PLLL_LOCKED (R446): the phase error has stayed below 50 ps for 1 ms with a good reference. -/
def execPlllLocked (s : State) : Result :=
  if (s.pll.l.state = .freeRun ∨ s.pll.l.state = .acquiring) ∧ refGood s.pll.ref s then .next (lockL s)
  else .next s

/-- ADPLL-L loses lock: G13.3, F6, and every port leaves UP and retrains (R446, R450). -/
def unlockL (s : State) : State :=
  let s := { s with pll := { s.pll with
    l := { s.pll.l with state := .acquiring }, lUnlocks := (s.pll.lUnlocks + 1) % 256 } }
  let s := signal 6 0 (raise 13 3 s)
  (List.range 3).foldl (fun s p => if (portOf s p).state = .up then lostPort p (leaveUp p .training s) else s) s

/-- PLLL_UNLOCKED (R446, R450): the phase error has stayed above 200 ps for 10 us with a good reference. -/
def execPlllUnlocked (s : State) : Result :=
  if s.pll.l.state = .locked ∧ refGood s.pll.ref s then .next (unlockL s) else .next s

/-- A reading of ADPLL-S's offset that is no failure (R447, R448). A CLOCK_RANGE cause that falls inside a drain is held as a stop
is (R38). -/
def readDcoS (ppb : Int) (s : State) : State :=
  if 2000000 < ppb.natAbs ∨ s.dev.backup then s
  else
    let was := s.pll.dcoRange
    let out := decide (200000 < ppb.natAbs)
    let s := { s with pll := { s.pll with
      sFreq := ppb, dcoRange := out,
      readings := if s.pll.s.state = .locked then addReading s.tm.ax5 ppb s.pll.readings else s.pll.readings } }
    if out ∧ !was then requestStop 4 (raise 13 10 s) else s

/-- DCO_RANGE (R447-R449): the monitor reads a DCO's offset. ADPLL-L beyond 2,000 ppm has failed, which is handled as its unlock,
in HOLDOVER and without a good reference too. -/
def execDcoRange (r : DcoReading) (s : State) : Result :=
  if !r.lLoop then .next (readDcoS r.ppb s)
  else if 2000000 < r.ppb.natAbs ∧ (s.pll.l.state = .locked ∨ s.pll.l.state = .holdover) then .next (unlockL s)
  else .next s

/-- The epoch that captures ends with CLOCK_RANGE at the last block boundary the samplers completed (R449); inside a drain whose
intake has resumed that is the new epoch, and the cause is held until it has opened (R38). -/
def closeAtLastBlock (s : State) : State :=
  if s.dev.acq = .draining then
    { s with ret := { s.ret with heldRow := s.ret.intakeRow.map fun r => max r (s.tm.ax5 / 256) } }
  else match s.ret.boundary with
  | some b => { s with ret := { s.ret with
      boundary := some { b with causes := b.causes ++ [4], row := min b.row (s.tm.ax5 / 256) } } }
  | none =>
    { s with ret := { s.ret with
        boundary := some { causes := [4], row := s.tm.ax5 / 256, g := intakeGap s.cfg.active s.cfg.staged } } }

/-- DCO_FAIL (R449): a DCO failure of ADPLL-S. -/
def execDcoFail (s : State) : Result :=
  if s.dev.backup then .next s
  else
    let s := { s with
      dev := { s.dev with backup := true, stopped := true },
      pll := { s.pll with s := { s.pll.s with state := .backup }, dcoRange := false, dcoFails := (s.pll.dcoFails + 1) % 256 } }
    let s := spanB false (spanA false s)
    let s := raise 13 7 (goLive 5 0 s)
    .next (if acquiring s then closeAtLastBlock (openSuspect 1 s) else s)

/-! ## Holdover and its end (R451-R454) -/

/-- REF_LOST (R445, R451): a source stops being good, by missing edges or by its frequency; `avgPpb` is the average of the tuning
word over the last 1 s. -/
def execRefLost (src : Fin 5) (missing : Bool) (avgPpb : Int) (s : State) : Result :=
  let b := 2 ^ src.val
  .next (settleRef (refStops src.val avgPpb { s with pll := { s.pll with
    missing := if missing then s.pll.missing ||| b else withoutBit src.val s.pll.missing,
    offRange := if missing then s.pll.offRange else s.pll.offRange ||| b } }))

/-- REF_GOOD (R445, R451 step 3): a source is good; qualification begins when it may end the holdover. -/
def execRefGood (src : Fin 5) (s : State) : Result :=
  if 2 ≤ src.val ∧ (portOf s (src.val - 2)).state ≠ .up then .next s
  else
    let s := { s with pll := { s.pll with
      good := s.pll.good ||| 2 ^ src.val, missing := withoutBit src.val s.pll.missing,
      offRange := withoutBit src.val s.pll.offRange } }
    if inHoldover s ∧ s.pll.qualifying = none ∧ mayQualify src.val s then
      .next { s with pll := { s.pll with qualifying := some (src.val, s.tm.tick) } }
    else .next s

/-- REF_QUALIFIED (R451 steps 4 and 5): QUAL_MS after qualification began each loop in holdover absorbs its phase and locks. -/
def execRefQualified (dS dL : Int) (s : State) : Result :=
  match s.pll.qualifying with
  | none => .next s
  | some (src, from_) =>
    let t := tdcPeriod src s.pll.refInFreq s.pll.prepathCfg
    if foldPhase t dS ≠ dS ∨ foldPhase t dL ≠ dL ∨ !refGood src s ∨ s.tm.tick < from_ + s.pll.qualMs * msTicks s then .next s
    else
      let switched := s.pll.switching || src != s.pll.ref
      let s := { s with pll := { s.pll with
        ref := src, altInUse := src == s.pll.refAlt && src != s.pll.refSel, prepath := s.pll.prepathCfg, holdWord := 0,
        qualifying := none, switching := false } }
      let s := goDead 7 s
      let s := if s.pll.s.state = .holdover then lockS (absorbS dS s) else s
      let s := if s.pll.l.state = .holdover then lockL (absorbL dL s) else s
      let s := countStep (raise 13 5 s)
      .next (if switched then raise 13 8 s else s)

/-- REF_PHASE_HIT (R454): a change of reference phase between two TDC samples, as each loop sees it. -/
def execRefPhaseHit (dS dL : Int) (s : State) : Result :=
  let sOn := s.pll.s.state == .locked
  let lOn := s.pll.l.state == .locked
  if (sOn ∧ 500 < dS.natAbs) ∨ (lOn ∧ 500 < dL.natAbs) then
    let t := tdcPeriod s.pll.ref s.pll.refInFreq s.pll.prepath
    let s := if sOn then absorbS (foldPhase t dS) s else s
    let s := if lOn then absorbL (foldPhase t dL) s else s
    .next (countStep s)
  else .next s

/-- REALIGN_DONE (R455): both build-outs have reached 0. -/
def execRealignDone (s : State) : Result :=
  if s.pll.realigning ∧ !buildOut s then .next (raise 13 9 { s with pll := { s.pll with realigning := false } })
  else .next s

/-! ## PLL_CFG (R453, R456) -/

/-- The settings in force, with the loops' states. -/
def pllBody (op : Nat) (s : State) : List Byte :=
  let p := s.pll
  let code : LoopState → Nat := fun l => match l with
    | .freeRun => 0
    | .acquiring => 1
    | .locked => 2
    | .holdover => 3
    | .backup => 4
  leBytes 1 op ++ zeros 1 ++ leBytes 1 p.refSel ++ leBytes 1 p.refAlt ++ leBytes 1 p.refInFreq ++ leBytes 1 p.prepathCfg ++
    leBytes 1 p.bwS ++ leBytes 1 p.bwL ++ leBytes 2 p.refoutDiv ++ leBytes 1 p.refoutDelay ++ leBytes 1 (b2n p.realign) ++
    leBytes 2 p.qualMs ++ leBytes 1 (code p.s.state) ++ leBytes 1 (code p.l.state)

/-- An accepted reference switch (R453): loops that track or run free enter holdover with the average of the last second, and
those in holdover qualify afresh. -/
def switchRef (s : State) : State :=
  let s' := { s with pll := { s.pll with switching := true } }
  if inHoldover s ∧ !tracking s then startQualify s' else enterHoldover true (averageWord s) s'

/-- PLL_CFG's rules (R456); `key` is the class its mailbox latched (R504). Naming the selected source while REF_ALT is in use is a
switch: it is how host software returns to it (R452, R453; DESIGN CHOICE, log 76). -/
def pllCmd (key : Nat) : Cmd := fun q s =>
  let op := fieldAt q 0 1
  let ops := fieldAt q 1 1
  let sel := fieldAt q 2 1
  let alt := fieldAt q 3 1
  let fr := fieldAt q 4 1
  let pp := fieldAt q 5 1
  let bs := fieldAt q 6 1
  let bl := fieldAt q 7 1
  let div := fieldAt q 8 2
  let fl := fieldAt q 11 1
  let qm := fieldAt q 12 2
  let rl (c : Nat) : Bool := decide (2 ≤ c ∧ c ≤ 4)
  let on (b : Nat) : Bool := ops.testBit b
  let badRef := on 0 && (decide (4 < sel) || (decide (4 < alt) && alt != 0xFF) || alt == sel || decide (2 < fr) || decide (2 < pp))
  let badBw := on 1 && (decide (2 < bs) || decide (2 < bl))
  let badOut := on 2 && div != 0 && (div % 2 == 1 || decide (div < 10) || decide (1000 < div))
  let badQual := on 4 && (decide (qm < 10) || decide (60000 < qm))
  let change := on 0 && (sel != s.pll.refSel || s.pll.altInUse || fr != s.pll.refInFreq || pp != s.pll.prepathCfg)
  if on 0 ∧ (rl sel ∨ rl alt) ∧ !s.dev.variant.ridgeline then quit stUnsupported s
  else if 1 < op ∨ 31 < ops ∨ badRef ∨ badBw ∨ badOut ∨ 1 < fl ∨ badQual ∨ !zeroAt q 14 242 then quit stBadArg s
  else if op = 1 then (s, some (okWith (pllBody op s)))
  else if change ∧ key ≠ 5 then quit stLocked s
  else
    let s := if on 0 then
        { s with pll := { s.pll with refSel := sel, refAlt := alt, refInFreq := fr, prepathCfg := pp } } else s
    let s := if change then switchRef s
      else if on 0 ∧ inHoldover s ∧ s.pll.qualifying = none then startQualify s else s
    let s := if on 1 then { s with pll := { s.pll with bwS := bs, bwL := bl } } else s
    let s := if on 2 then { s with pll := { s.pll with refoutDiv := div, refoutDelay := fieldAt q 10 1 } } else s
    let s := if on 3 then
        (if fl = 1 then startRealign { s with pll := { s.pll with realign := true } } else clearRealign s) else s
    let s := if on 4 then { s with pll := { s.pll with qualMs := qm } } else s
    (s, some (okWith (pllBody op s)))

/-- PLL_CFG (R456). -/
def execPllCfg (m : Fin 8) (s : State) : Result := .next (command m.val 0x0B01 (pllCmd (mbOf s m.val).key) s)

end Sys2Proof.Machine
end

