-- ==== Sys2Proof/Machine/Pcie.lean ====
section
/-! DEFINITION. The host endpoint: MSI-X messages, latency tolerance, unexpected completions, power states, the link, and
the accesses to the scratchpad, the circular windows and the peer windows (R461-R496, R511, R520). -/

namespace Sys2Proof.Machine

/-- May the device issue requests: Bus Master Enable set and the function in D0 (R481, R482)? -/
def busMaster (s : State) : Bool := s.pcie.bme && !s.pcie.d3hot

/-! ## Configuration space (R461-R464) -/

/-- The sizes of BAR0, BAR2 and BAR4 as powers of two (R464). -/
def barBits (i : Nat) : Nat := [24, 36, 26].getD i 24

/-- What a BAR pair holds after a write of an address: the bits below its size read 0 (R464). -/
def barBase (i : Nat) (a : Word64) : Word64 := BitVec.ofNat 64 (a.toNat / 2 ^ barBits i * 2 ^ barBits i)

/-- A BAR pair as it reads: a 64-bit memory BAR, prefetchable but for BAR0 (R464). -/
def barPair (i : Nat) (s : State) : Nat := (tabGet s.pcie.bars i 0).toNat + 4 + (if i = 0 then 0 else 8)

/-- The configuration header (R461, R464): its first 64 bytes. The command register shows Bus Master Enable, and Status a
capability list; the other bits and the pointer to the list, of which the spec says nothing, are left 0. -/
def configHeader (s : State) : List Byte :=
  leBytes 2 0x1E5D ++ leBytes 2 (s.dev.variant.devId / 65536) ++ leBytes 2 (4 * b2n s.pcie.bme) ++ leBytes 2 0x10 ++
    leBytes 1 0xA2 ++ leBytes 1 0 ++ leBytes 1 0x80 ++ leBytes 1 0x11 ++ zeros 4 ++ leBytes 8 (barPair 0 s) ++
    leBytes 8 (barPair 1 s) ++ leBytes 8 (barPair 2 s) ++ zeros 4 ++ leBytes 2 0x1E5D ++ leBytes 2 s.dev.variant.code ++ zeros 16

/-- The capabilities of the function (R463). -/
inductive Capability where
  | powerManagement | pciExpress | msix | aer | ltr | secondaryPcie | physical16 | physical32 | laneMargining
  deriving DecidableEq, Repr

/-- The registers of a capability after its header that the spec gives values to, laid out as the PCI Express specification has them
(R463; PRESUMED, log 78). Power Management: no PME support, No_Soft_Reset and the power state. PCI Express: 512-byte payloads,
8-bit tags, "no limit" for L1 latency, FLR; the payload size set; the link's rate and width with ASPM L1 only and an L1 exit latency
of 4 to 8 us, a read completion boundary of 64 bytes; completion timeout ranges A to D without its disabling, LTR and 10-bit tags.
MSI-X: 64 vectors, the table at BAR0 0x2_0000 and the PBA at 0x2_1000. AER: the registers and the ECRC capabilities. -/
def capabilityRegs (c : Capability) (s : State) : List Nat :=
  let p := s.pcie
  let wide := if s.dev.variant = .b9128 then 8 else 16
  match c with
  | .powerManagement => [3, 8 + 3 * b2n p.d3hot]
  | .pciExpress =>
    [2 + 2 ^ 5 + 7 * 2 ^ 9 + 2 ^ 15 + 2 ^ 28, p.mps * 2 ^ 5,
     5 + wide * 2 ^ 4 + 2 * 2 ^ 10 + 3 * 2 ^ 15, 2 * b2n p.aspmEn + p.gen * 2 ^ 16 + p.width * 2 ^ 20,
     15 + 2 ^ 11 + 2 ^ 16 + 2 ^ 17, p.ctoValue + b2n p.ltrEn * 2 ^ 10 + b2n p.tag10 * 2 ^ 12]
  | .msix => [63 + b2n p.funcMask * 2 ^ 14 + b2n p.msixEn * 2 ^ 15, 0x20000, 0x21000]
  | .aer =>
    [p.aer.uncStat.toNat, p.aer.uncMask.toNat, p.aer.uncSev.toNat, p.aer.corStat.toNat, p.aer.corMask.toNat,
     2 ^ 5 + b2n p.aer.ecrcGen * 2 ^ 6 + 2 ^ 7 + b2n p.aer.ecrcChk * 2 ^ 8]
  | .ltr => [p.maxSnoop + p.maxNoSnoop * 2 ^ 16]
  | .secondaryPcie => []
  | .physical16 => []
  | .physical32 => []
  | .laneMargining => []

/-! ## MSI-X (R476) -/

/-- A word of the MSI-X table. -/
def msixWord (i : Nat) (s : State) : Word := tabGet s.pcie.msixTable i 0

/-- Do the sending conditions of a pending vector hold (R476)? -/
def msixReady (v : Nat) (s : State) : Bool :=
  s.pcie.pba.getLsbD v && s.pcie.msixEn && !s.pcie.funcMask && !(msixWord (4 * v + 3) s).getLsbD 0 && busMaster s

/-- MSIX_SEND (R476): the message goes out and the pending bit clears. -/
def execMsixSend (vec : Fin 64) (s : State) : Result :=
  if msixReady vec.val s then
    let a := (msixWord (4 * vec.val) s).toNat + 2 ^ 32 * (msixWord (4 * vec.val + 1) s).toNat
    let s := emitOut (.msix vec.val a (msixWord (4 * vec.val + 2) s)) s
    .next { s with pcie := { s.pcie with pba := s.pcie.pba &&& ~~~(BitVec.ofNat 64 (2 ^ vec.val)) } }
  else .next s

/-! ## Latency tolerance (R44, R45, R479) -/

/-- The free ring space (R29). -/
def ringFree (s : State) : Nat := s.dev.variant.ringCap - (s.ring.W - s.ring.X)

/-- Half the time in which `rate` bytes a window of 1,024 blocks fill `free` bytes, in ns. -/
def headroomHalf (free rate : Nat) : Option Nat :=
  if free = 0 then some 0 else if rate = 0 then none else some (free * 1048576 / (20 * rate))

/-- Half the headroom in ns: 0 with no free space, none where the write rate is 0 (R44, R45). -/
def halfHeadroom (s : State) : Option Nat :=
  headroomHalf (ringFree s) s.ring.rateBytes

/-- The latency that a field of LTR format stands for, in ns. -/
def ltrNs (f : Nat) : Nat := f % 1024 * 32 ^ (bitsOf 12 10 f)

/-- The cap on the tolerance: 3 ms, and the lower of the two Max Latency registers (R45, R479). -/
def ltrCap (s : State) : Nat := min 3000000 (min (ltrNs s.pcie.maxSnoop) (ltrNs s.pcie.maxNoSnoop))

/-- The smallest scale at which a latency fits ten bits. -/
def ltrScale : Nat → Nat → Nat
  | 0, _ => 0
  | n + 1, t => if t < 1024 then 0 else ltrScale n (t / 32) + 1

/-- The largest LTR value that does not exceed a latency, with the Requirement bit (R45). -/
def ltrEncode (t : Nat) : Nat :=
  let k := ltrScale 5 t
  0x8000 + 1024 * k + min 1023 (t / 32 ^ k)

/-- The value due now. -/
def ltrDue (s : State) : Nat := ltrEncode (min (ltrCap s) ((halfHeadroom s).getD 3000000))

/-- Is the tolerance at the 3 ms cap? -/
def atLtrCap (h : Option Nat) : Bool :=
  match h with
  | none => true
  | some t => decide (3000000 ≤ t)

/-- Send an LTR message (R45, R479). -/
def sendLtr (s : State) : State :=
  if s.pcie.ltrEn ∧ !s.pcie.d3hot then
    let v := ltrDue s
    let h := halfHeadroom s
    let capped := decide (ltrCap s < h.getD (3000001))
    let s := emitOut (.ltr v) s
    { s with pcie := { s.pcie with
        ltrSent := v, ltrAny := true, ltrCapped := capped, ltrBase := some (ringFree s, s.ring.rateBytes),
        ltrCnt := s.pcie.ltrCnt + 1 } }
  else s

/-- Does a new headroom call for a message (R45)? At least twice, or at most half, that behind the last one, as 0 is of 0; none
while the tolerance stays at the 3 ms cap. -/
def ltrMoved (s : State) : Bool :=
  match s.pcie.ltrBase with
  | none => true
  | some (f0, r0) =>
    let f := ringFree s
    let r := s.ring.rateBytes
    if atLtrCap (headroomHalf f0 r0) ∧ atLtrCap (halfHeadroom s) then false
    else if f = 0 ∨ f0 = 0 then true
    else if r = 0 then r0 != 0
    else if r0 = 0 then true
    else decide (2 * f0 * r ≤ f * r0) || decide (2 * f * r0 ≤ f0 * r)

/-- LTR_ENABLE (R479): a configuration write sets LTR Mechanism Enable and the Max Latency registers. A configuration request
that the device answers with a retry, or not at all, changes nothing (R483). -/
def execLtrEnable (on : Bool) (maxSnoop maxNoSnoop : Nat) (s : State) : Result :=
  let rose := on && !s.pcie.ltrEn
  let before := ltrDue s
  if !configServed s then .next s
  else
  let s := { s with pcie := { s.pcie with
    ltrEn := on, maxSnoop := maxSnoop % 2 ^ 13, maxNoSnoop := maxNoSnoop % 2 ^ 13, ltrAny := s.pcie.ltrAny && !rose } }
  .next (if rose ∨ ltrDue s ≠ before then sendLtr s else s)

/-! ## Completions (R474) -/

/-- The DATA of LATE_CPL and BAD_CPL (R577). -/
def cplData (tag addr : Nat) : List Byte := leBytes 2 tag ++ zeros 6 ++ leBytes 8 addr

/-- CPL_UNEXPECTED (R474, R483): a completion for a tag that is not outstanding. -/
def execCplUnexpected (tag : Nat) (s : State) : Result :=
  if s.pcie.tags.any fun e => e.1 = tag then .next s
  else
    match s.pcie.quarantine.find? fun e => e.1 = tag with
    | some (_, a, _, abandoned) =>
      if abandoned then .next s
      else
        let s := { s with pcie := { s.pcie with lateCplCnt := s.pcie.lateCplCnt + 1 } }
        .next (raiseWith false 14 4 (cplData tag a) (aerAdvisory 1 s))
    | none =>
      let s := { s with pcie := { s.pcie with badCplCnt := s.pcie.badCplCnt + 1 } }
      .next (raiseWith false 14 4 (cplData tag 0) (aerAdvisory 1 s))

/-- TAG_QUARANTINE_END (R474): the tag is usable again once its quarantine is over. -/
def execTagQuarantineEnd (tag : Nat) (s : State) : Result :=
  .next { s with pcie := { s.pcie with
    quarantine := s.pcie.quarantine.filter fun e => e.1 ≠ tag ∨ s.tm.tick < e.2.2.1 } }

/-! ## Bus mastering, power states and the link (R480-R484) -/

/-- BME_CLEARED (R482). -/
def execBmeCleared (s : State) : Result :=
  if configServed s ∧ s.pcie.bme then .next (raise 14 13 { s with pcie := { s.pcie with bme := false } }) else .next s

/-- BME_SET (R482): a configuration write sets Bus Master Enable, with the settings of configuration space that have no
command of their own: the link's, the BARs, and the AER and ECRC registers (R463, R464, R477). -/
def execBmeSet (msixEn funcMask tag10 aspmEn : Bool) (link : LinkCtl) (s : State) : Result :=
  .next (if configServed s then
    { s with pcie := { s.pcie with
      bme := true, msixEn := msixEn, funcMask := funcMask, tag10 := tag10, aspmEn := aspmEn, ctoValue := link.cto % 16,
      mps := link.mps % 3, bars := Vector.ofFn fun i : Fin 3 => barBase i.val link.bars[i],
      aer := { uncStat := s.pcie.aer.uncStat &&& ~~~link.uncClr, uncMask := link.uncMask, uncSev := link.uncSev,
               corStat := s.pcie.aer.corStat &&& ~~~link.corClr, corMask := link.corMask, ecrcGen := link.ecrcGen,
               ecrcChk := link.ecrcChk } } }
  else s)

/-- D3HOT_ENTRY (R481). -/
def execD3hotEntry (s : State) : Result := .next (if configServed s then { s with pcie := { s.pcie with d3hot := true } } else s)

/-- D3HOT_EXIT (R479, R481). -/
def execD3hotExit (s : State) : Result :=
  if configServed s ∧ s.pcie.d3hot then .next (sendLtr (raise 14 14 { s with pcie := { s.pcie with d3hot := false } })) else .next s

/-- ASPM_L1_ENTRY (R480): no flush read is outstanding and no message waits. -/
def execAspmL1Entry (s : State) : Result :=
  if s.pcie.aspmEn ∧ s.pcie.dlUp ∧ s.pcie.tags = [] ∧ !(List.range 64).any (fun v => msixReady v s) then
    .next { s with pcie := { s.pcie with inL1 := true } }
  else .next s

/-- Does the function train at this rate and width (R462)? -/
def linkOk (v : Variant) (gen width : Nat) : Bool :=
  decide (1 ≤ gen ∧ gen ≤ 5) && (width == 1 || width == 2 || width == 4 || width == 8 || (width == 16 && v != .b9128))

/-- LINK_UP (R484): also while a Function Level Reset is under way. -/
def execLinkUp (gen width : Nat) (s : State) : Result :=
  if coreUp s ∧ !s.pcie.dlUp ∧ linkOk s.dev.variant gen width then
    .next (raise 14 0 { s with pcie := { s.pcie with dlUp := true, gen := gen, width := width, inL1 := false } })
  else .next s

/-- LINK_CHANGE (R484). -/
def execLinkChange (gen width : Nat) (s : State) : Result :=
  if s.pcie.dlUp ∧ linkOk s.dev.variant gen width ∧ (gen ≠ s.pcie.gen ∨ width ≠ s.pcie.width) then
    .next (raise 14 2 { s with pcie := { s.pcie with gen := gen, width := width } })
  else .next s

/-! ## Accesses to BAR4 (R466, R467, R488, R495, R511, R520) -/

/-- A refused inbound request (R488). -/
def refuseInbound (off : Nat) (acc : MemAccess) (s : State) : State :=
  match acc with
  | .read _ _ => raise 14 10 (urRead 4 off s)
  | .write _ _ => raise 14 9 { s with pcie := { s.pcie with inbDrop := s.pcie.inbDrop + 1 } }

/-- Does the host filter turn a requester away (R467)? -/
def hostFiltered (rid : Nat) (s : State) : Bool := s.pcie.hostRid.getLsbD 16 && (s.pcie.hostRid.toNat % 65536 != rid)

/-- The scratchpad has 256 KiB (R495). -/
def scratchSize : Nat := 0x40000

/-- A read of scratchpad bytes; offsets past its end read 0 (R466). -/
def scratchData (o n : Nat) (s : State) : List Byte :=
  (List.range n).map fun i => if o + i < scratchSize then memByte s.summit.scratchpad (o + i) else 0

/-- Store enabled bytes into the scratchpad; bytes past its end are discarded (R466). -/
def scratchStore (o : Nat) (bs : List (Option Byte)) (s : State) : State :=
  let bs := bs.take (scratchSize - o)
  if scratchSize ≤ o ∨ bs = [] then s
  else
    healWords 2 (o / 8) ((o + bs.length - 1) / 8)
      { s with summit := { s.summit with scratchpad := memWriteEn s.summit.scratchpad o bs } }

/-- One inbound request: in D3hot it is refused per R477; a request turned away by `ok` gets the treatment of R488;
otherwise a read answers `data` and a write stores. -/
def inbound (off : Nat) (acc : MemAccess) (ok : Bool) (data : Nat → Nat → State → List Byte)
    (store : Nat → List (Option Byte) → State → State) (s : State) : State :=
  match acc with
  | .read o n =>
    barRead 4 off n (fun s => if ok then emitOut (.readData 4 off (data o n s) false) s else refuseInbound off acc s) s
  | .write o bs => memWriteTlp 4 (fun s => if ok then store o bs s else refuseInbound off acc s) s

/-- The offset of an access. -/
def accOff : MemAccess → Nat
  | .read o _ => o
  | .write o _ => o

/-- The length of an access. -/
def accLen : MemAccess → Nat
  | .read _ n => n
  | .write _ bs => bs.length

/-- SCRATCHPAD_ACCESS (R466, R496): by BAR4 offset. Offsets past the scratchpad decode to nothing: they read 0, discard writes, and
are not filtered (R465, R467). -/
def execScratchpadAccess (rid : Nat) (acc : MemAccess) (s : State) : Result :=
  .next (inbound (accOff acc) acc (decide (scratchSize ≤ accOff acc) || !hostFiltered rid s) scratchData scratchStore s)

/-- A byte of the event log's ring: the entry with SEQ n lies at ring byte 32n mod 131,072 (R520). -/
def logByte (s : State) (o : Nat) : Byte :=
  match s.evt.log.find? (fun e => e.seq.toNat % 4096 = o / 32 % 4096) with
  | some e => byteAt (logBytes e) (o % 32)
  | none => 0

/-- Window offset `o` of window `k` as a scratchpad offset (R511). -/
def cwAddr (k o : Nat) (s : State) : Nat := 4096 * (cwOf s k).base + o % cwSize (cwOf s k)

/-- A read of a circular window. -/
def cwData (k o n : Nat) (s : State) : List Byte :=
  (List.range n).map fun i => if k = 7 then logByte s (o + i) else memByte s.summit.scratchpad (cwAddr k (o + i) s)

/-- A write of a circular window, byte by byte; CW7 discards it (R520). -/
def cwStore (k : Nat) : Nat → List (Option Byte) → State → State
  | _, [], s => s
  | o, b :: bs, s => cwStore k (o + 1) bs (if k = 7 then s else scratchStore (cwAddr k o s) [b] s)

/-- CW_WINDOW_ACCESS (R511). -/
def execCwWindowAccess (rid : Nat) (k : Fin 8) (acc : MemAccess) (s : State) : Result :=
  .next (inbound (0x1000000 + 0x100000 * k.val + accOff acc) acc (!hostFiltered rid s) (cwData k.val) (cwStore k.val) s)

/-! ### Peer windows (R486-R488) -/

/-- The settings of a peer window as their registers hold them (R492). -/
def pwEnable (c : Word) : Bool := c.getLsbD 31
def pwAccess (c : Word) : Nat := bitsOf 29 28 c.toNat
def pwSize (m : Word) : Nat := bitsOf 22 16 m.toNat
def pwOff (m : Word) : Nat := bitsOf 5 0 m.toNat

/-- Does an active window admit a request (R486, R488)? -/
def pwAdmits (n rid : Nat) (acc : MemAccess) (s : State) : Bool :=
  let c := tabGet s.pcie.pwCfgAct n 0
  let m := tabGet s.pcie.pwMapAct n 0
  let kind : Bool := match acc with
    | .read _ _ => pwAccess c != 2
    | .write _ _ => pwAccess c != 1
  pwEnable c && decide (accOff acc % 0x200000 + accLen acc ≤ 4096 * pwSize m) && kind &&
    (!c.getLsbD 16 || c.toNat % 65536 == rid)

/-- PW_INBOUND_ACCESS (R488): `acc`'s offset counts from the start of PW0. -/
def execPwInboundAccess (rid : Nat) (acc : MemAccess) (s : State) : Result :=
  let n := accOff acc / 0x200000
  let base := 4096 * pwOff (tabGet s.pcie.pwMapAct n 0)
  .next (inbound (0x2000000 + accOff acc) acc (pwAdmits n rid acc s)
    (fun o k s => scratchData (base + o % 0x200000) k s) (fun o bs s => scratchStore (base + o % 0x200000) bs s) s)

/-- Is the shadow of window `n` one that a commit refuses (R487)? -/
def pwBad (n : Nat) (s : State) : Bool :=
  let c := tabGet s.pcie.pwCfg n 0
  let m := tabGet s.pcie.pwMap n 0
  pwEnable c && (pwSize m == 0 || decide (64 < pwSize m) || decide (64 < pwOff m + pwSize m) || pwAccess c == 3)

/-- A write of PW_COMMIT (R487). -/
def writePwCommit (v : Word) (be : BitVec 4) (s : State) : State :=
  special 0xB180 v be (fun s =>
    let ns := bitsSet 8 v.toNat
    if ns.any fun n => pwBad n s then raise 14 12 { s with pcie := { s.pcie with pwRefused := true } }
    else
      let c := ns.map fun n => (n, tabGet s.pcie.pwCfg n 0, tabGet s.pcie.pwMap n 0)
      { s with pcie := { s.pcie with pwCommits := s.pcie.pwCommits ++ [c], pwRefused := false } }) s

/-- PW_COMMIT (R487). -/
def execPwCommit (v : Word) (be : BitVec 4) (s : State) : Result := .next (barWrite (fun _ => writePwCommit v be) s)

/-- PW_COMMIT_SWITCH (R487): the oldest commit becomes active between two TLPs. -/
def execPwCommitSwitch (s : State) : Result :=
  match s.pcie.pwCommits with
  | [] => .next s
  | c :: rest =>
    let p := { s.pcie with
      pwCommits := rest,
      pwCfgAct := c.foldl (fun t e => tabMod t e.1 fun _ => e.2.1) s.pcie.pwCfgAct,
      pwMapAct := c.foldl (fun t e => tabMod t e.1 fun _ => e.2.2) s.pcie.pwMapAct }
    .next (raise 14 11 { s with pcie := p })

end Sys2Proof.Machine
end

