-- ==== Sys2Proof/Machine/Summit.lean ====
section
/-! DEFINITION. The mailboxes, the circular windows' registers, the controller and its firmware images (R360, R361,
R497-R530). -/

namespace Sys2Proof.Machine

/-! ## Mailboxes (R497-R505) -/

/-- A write to a register of mailbox `m` that consumed an unlock latches its class while the mailbox is IDLE or DONE (R504). -/
def latchKey (m cls : Nat) (s : State) : State :=
  let q := mbOf s m
  if cls ≠ 0 ∧ (q.state = .idle ∨ q.state = .done) then modMb m (fun q => { q with keyClass := cls }) s else s

/-- A write of MBm_CMD (R498, R502): all bits as written are held; locked while QUEUED or RUNNING. -/
def writeMbCmd (m : Nat) (v : Word) (be : BitVec 4) (s : State) : State :=
  let q := mbOf s m
  if q.state = .queued ∨ q.state = .running then refuseWrite (0x2000 + 0x20 * m) v be s
  else modMb m (fun q => { q with cmd := mergeBits q.cmd v be 0xFFFFFFFF }) s

/-- The doorbell latches MBm_CMD and queues the command (R499 step 2, R502, R524). -/
def ring (m : Nat) (s : State) : State :=
  let q := mbOf s m
  if q.state = .queued ∨ q.state = .running then protoMailbox m s
  else
    let c := q.cmd.toNat
    let n := s.summit.nextOrder
    let s := { s with summit := { s.summit with nextOrder := n + 1 } }
    let s := modMb m (fun q => { q with
      state := .queued, tag := bitsOf 23 16 c, status := 0, detail := 0, opcode := c % 65536, barrier := bitOf 24 c,
      key := q.keyClass, req := [], resp := [], order := n, rung := s.tm.ax5 }) s
    if bitsOf 31 25 c ≠ 0 then
      protoMailbox m (mbComplete m { status := stBadArg, detail := 0x0006, body := [] } s)
    else if s.summit.state = .halted then mbComplete m { status := stInternal, detail := 0x0003, body := [] } s
    else s

/-- A write of MBm_DOORBELL. -/
def writeDoorbell (m : Nat) (v : Word) (be : BitVec 4) (s : State) : State :=
  special (0x2004 + 0x20 * m) v be (fun s => if v.getLsbD 0 then ring m s else s) s

/-- MB_DOORBELL (R499). -/
def execMbDoorbell (m : Fin 8) (v : Word) (be : BitVec 4) (s : State) : Result :=
  .next (barWrite (fun cls s => writeDoorbell m.val v be (latchKey m.val cls s)) s)

/-- Is mailbox `m` QUEUED or RUNNING? -/
def mbBusy (q : Mailbox) : Bool := q.state == .queued || q.state == .running

/-- Is the queued command of mailbox `m` eligible (R505)? -/
def eligible (m : Nat) (s : State) : Bool :=
  let q := mbOf s m
  q.state == .queued && (s.mb.toList.all fun x =>
    !(mbBusy x && decide (x.order < q.order)) || (!q.barrier && !x.barrier))

/-- The opcode index (R530). -/
def opcodes : List Nat :=
  [0x0000, 0x0001, 0x0002, 0x0003, 0x0101, 0x0102, 0x0201, 0x0202, 0x0301, 0x0302, 0x0303, 0x0304, 0x0305, 0x0401, 0x0402,
   0x0403, 0x0404, 0x0405, 0x0406, 0x0407] ++
  [0x0501, 0x0502, 0x0503, 0x0504, 0x0505, 0x0601, 0x0602, 0x0701, 0x0702, 0x0703, 0x0704, 0x0801, 0x0802, 0x0803, 0x0804,
   0x0901, 0x0902, 0x0903, 0x0A01, 0x0A02, 0x0A03, 0x0B01]

/-- Opcodes the boot ROM serves (R361, R530). -/
def bootOpcodes : List Nat := [0x0001, 0x0A01, 0x0A02, 0x0A03]

/-- Opcodes of units a variant lacks (R530). -/
def lacksOpcode (v : Variant) (op : Nat) : Bool :=
  (op == 0x0503 && !v.drives) || ((op == 0x0701 || op == 0x0702 || op == 0x0703 || op == 0x0704) && !v.ridgeline) ||
    ((op == 0x0803 || op == 0x0804) && !v.sealer)

/-- The checks of R503, before the command's own. -/
def startChecks (op : Nat) (s : State) : Option Reply :=
  if op ∉ opcodes then some { status := stBadArg, detail := 0x0004, body := [] }
  else if s.dev.bootrom ∧ op ∉ bootOpcodes then some (fail stState)
  else if lacksOpcode s.dev.variant op then some (fail stUnsupported)
  else none

/-- MB_COMMAND_START (R499 step 3, R503, R505): the request is copied, and the command runs or completes by R503. -/
def execMbCommandStart (m : Fin 8) (s : State) : Result :=
  if eligible m.val s ∧ (s.summit.state = .running ∨ s.summit.state = .bootrom) then
    let q := mbOf s m.val
    let req := match q.tunnel with
      | none => scratchRead (256 * m.val) 256 s
      | some _ => q.req
    let s := modMb m.val (fun q => { q with state := .running, req := req }) s
    match startChecks q.opcode s with
    | some r => .next (mbComplete m.val r s)
    | none => .next s
  else .next s

/-! ## Circular windows (R512-R518) -/

/-- Do the rings of two windows overlap? -/
def cwOverlap (b1 n1 b2 n2 : Nat) : Bool := decide (b1 < b2 + n2 ∧ b2 < b1 + n1)

/-- Is a ring setting of window `k` good (R512)? -/
def cwCfgOk (k size base : Nat) (s : State) : Bool :=
  (size == 1 || size == 2 || size == 4 || size == 8 || size == 16 || size == 32) && decide (1 ≤ base ∧ base ≤ 47) &&
    decide (base + size ≤ 48) &&
    (List.range 7).all fun j => j == k || !cwOverlap base size (cwOf s j).base (cwOf s j).size

/-- CW_CFGk as it reads (R512). -/
def cwCfgReg (k : Nat) (s : State) : Nat :=
  if k = 7 then 0x80002000 else (cwOf s k).size * 256 + (cwOf s k).base

/-- A write of CW_CFGk (R512). -/
def writeCwCfg (k : Nat) (v : Word) (be : BitVec 4) (s : State) : State :=
  if k = 7 then s
  else if (cwOf s k).claimed then refuseWrite (0x2200 + 0x20 * k) v be s
  else
    let n := (mergeBits (BitVec.ofNat 32 (cwCfgReg k s)) v be 0x3F3F).toNat
    if cwCfgOk k (bitsOf 13 8 n) (bitsOf 5 0 n) s then
      modCw k (fun w => { w with size := bitsOf 13 8 n, base := bitsOf 5 0 n }) s
    else protoWindow k s

/-- CW_CFG_WRITE (R512). -/
def execCwCfgWrite (k : Fin 8) (v : Word) (be : BitVec 4) (s : State) : Result :=
  .next (barWrite (fun _ => writeCwCfg k.val v be) s)

/-- A write of CW_PRODk (R514, R516, R517). -/
def writeCwProd (k : Nat) (v : Word) (be : BitVec 4) (s : State) : State :=
  let w := cwOf s k
  if k = 7 ∨ !w.claimed ∨ !w.hostProduces then refuseWrite (0x2208 + 0x20 * k) v be s
  else
    let n := mergeBits w.prod v be 0xFFFFFFFF
    if cwUnread w + (n - w.prod).toNat ≤ cwSize w ∧ n.toNat ≤ w.len.toNat then
      cwConsume k (modCw k (fun w => { w with prod := n }) s)
    else protoWindow k s

/-- CW_PROD_WRITE (R517). -/
def execCwProdWrite (k : Fin 8) (v : Word) (be : BitVec 4) (s : State) : Result :=
  .next (barWrite (fun _ => writeCwProd k.val v be) s)

/-- The device produces into the space that a write of CW_CONSk has freed; the command completes once its last byte is
produced (R516). -/
def produceMore (k : Nat) (s : State) : State :=
  let w := cwOf s k
  if w.claimed ∧ !w.hostProduces ∧ w.out ≠ [] then
    let s := cwProduce k s
    if (cwOf s k).out = [] then mbComplete w.mb (okWith (mbOf s w.mb).resp) s else s
  else s

/-- A write of CW_CONSk (R514, R516, R517, R520). -/
def writeCwCons (k : Nat) (v : Word) (be : BitVec 4) (s : State) : State :=
  let w := cwOf s k
  if k ≠ 7 ∧ w.claimed ∧ w.hostProduces then refuseWrite (0x220C + 0x20 * k) v be s
  else
    let n := mergeBits w.cons v be 0xFFFFFFFF
    if (n - w.cons).toNat ≤ cwUnread w then
      let s := modCw k (fun w => { w with cons := n }) s
      if k = 7 then s else produceMore k s
    else protoWindow k s

/-- CW_CONS_WRITE (R517). -/
def execCwConsWrite (k : Fin 8) (v : Word) (be : BitVec 4) (s : State) : Result :=
  .next (barWrite (fun _ => writeCwCons k.val v be) s)

/-- CW_STALL (R518): a transfer has waited 1,000 ms for the host. -/
def execCwStall (k : Fin 8) (s : State) : Result :=
  let w := cwOf s k.val
  let waits := if w.hostProduces then decide (w.inn.length < w.len.toNat) else w.out != []
  if k.val ≠ 7 ∧ w.claimed ∧ waits ∧ w.since + 1000 * msTicks s ≤ s.tm.tick then
    let s := raise 0 10 (cancelLong w.mb s)
    .next (mbComplete w.mb { status := stInternal, detail := 0x0001, body := [] } s)
  else .next s

/-! ## The controller (R521-R524) -/

/-- SUMMIT_LOCKSTEP (R521): F2, and the controller restarts whatever its severity. -/
def execSummitLockstep (s : State) : Result :=
  if s.summit.state = .halted ∨ !coreUp s then .next s else .next (restartSummit false (signal 2 0 s))

/-- SUMMIT_WATCHDOG (R521): 100 ms have passed without a kick; F3. -/
def execSummitWatchdog (s : State) : Result :=
  if s.summit.state = .halted ∨ !coreUp s ∨ s.tm.tick < s.summit.lastKick + 100 * msTicks s then .next s
  else .next (restartSummit true (signal 3 0 s))

/-- A pod that waited for the controller starts R58 step 3 (R522); in safe state it goes on waiting (R74). -/
def resumePod (q : Pod) : Pod :=
  if q.state = .identify ∧ q.waiting then { q with waiting := false, vaux := true, readFails := 0 } else q

/-- A pod whose PRES_N is low when firmware starts is inserted at that instant (R57). -/
def scanPods (s : State) : State :=
  (List.range 16).foldl (fun s p =>
    if (podAt s p).present ∧ (podAt s p).state = .empty then setPod p .debounce s else s) s

/-- Summit firmware starts (R521 step 3, R522, R575): at the first start the fault collector begins to latch. -/
def startFirmware (s : State) : State :=
  let s := if s.dev.bootrom then s else scanPods s
  let s := if s.dev.safe ∨ s.dev.bootrom then s else { s with pods := s.pods.map resumePod }
  if s.flt.on ∨ s.dev.bootrom then s
  else
    let s := if s.pll.s.state = .freeRun ∧ !refGood s.pll.ref s then
        { s with flt := { s.flt with live := s.flt.live ||| BitVec.ofNat 64 (2 ^ 7) } } else s
    startCollector s

/-- SUMMIT_READY (R521): firmware starts after the boot ROM has verified the slots, or boot ROM mode is entered. -/
def execSummitReady (s : State) : Result :=
  if s.summit.verified ∧ (s.summit.state = .boot ∨ s.summit.state = .restarting) then
    let again := s.summit.state == .restarting
    let st := if s.dev.bootrom then SummitState.bootrom else SummitState.running
    let s := { s with summit := { s.summit with state := st, verified := false, lastKick := s.tm.tick } }
    let s := startFirmware s
    .next (if again then raise 0 12 s else s)
  else .next s

/-! ## Firmware images (R360, R361) -/

/-! The fields of an image's header (R360). -/

def imgMagic (h : List Byte) : Nat := fieldAt h 0 4
def imgHdrLen (h : List Byte) : Nat := fieldAt h 4 4
def imgVersion (h : List Byte) : Nat := fieldAt h 8 4
def imgBodyLen (h : List Byte) : Nat := fieldAt h 12 4
def imgMinBootrom (h : List Byte) : Nat := fieldAt h 16 4
def imgRollback (h : List Byte) : Nat := fieldAt h 20 4
def imgIssuer (h : List Byte) : List Byte := padTo 8 ((h.drop 24).take 8)
def imgDigest (h : List Byte) : List Byte := padTo 32 ((h.drop 32).take 32)
def imgVariants (h : List Byte) : Nat := fieldAt h 64 1

/-- The public keys that the boot ROM holds, and the one an image's ISSUER_KEY_ID names (R361). -/
def romKeys : List (List Byte) := slhPublic slhSmall Config.firmwareKey :: Config.otherRomKeys
def romKey (issuer : List Byte) : Option (List Byte) := romKeys.find? fun k => keyIdOf k == issuer

/-- The context string "RNK-FW" (R360). -/
def fwContext : List Byte := [82, 78, 75, 45, 70, 87]

/-- Does an image's SIGNATURE over its header verify under the key that its issuer names (R360, R361)? -/
def imgSigned (h sig : List Byte) : Bool :=
  match romKey (imgIssuer h) with
  | some k => slhVerify slhSmall k fwContext (padTo 256 h) sig
  | none => false

/-- The failing check of a slot, as the low byte of its SECURITY detail code, 0 where it is accepted (R361, R508). `size`
is the IMAGE_LEN of a staged image, none at a start. -/
def slotFail (size : Option Nat) (i : SlotImage) (s : State) : Nat :=
  match i with
  | .empty => 1
  | .image h body sig =>
    let n := imgBodyLen h
    let sized : Bool := match size with
      | some k => k == 30048 + n
      | none => true
    if imgMagic h ≠ 0x57464E52 ∨ imgHdrLen h ≠ 256 ∨ n % 4 ≠ 0 ∨ !sized ∨ Config.flashBytes / 2 < n + 30048 then 1
    else if (romKey (imgIssuer h)).isNone then 2
    else if Config.bootromVersion.toNat < imgMinBootrom h ∨ !(imgVariants h).testBit s.dev.variant.code then 3
    else if imgRollback h < s.summit.floor then 4
    else if shake256 (padTo n body) ≠ imgDigest h then 5
    else if !imgSigned h sig then 6
    else 0

/-- What FW_INFO keeps of a verification (R528). -/
def slotOf_ (i : SlotImage) (fail : Nat) : Slot :=
  match i with
  | .empty => { state := 0, fail := fail, version := 0, rollback := 0, bodyLen := 0, issuer := [], digest := [], gone := false }
  | .image h _ _ =>
    { state := if fail = 0 then 1 else 2, fail := fail, version := imgVersion h, rollback := imgRollback h,
      bodyLen := imgBodyLen h, issuer := imgIssuer h, digest := imgDigest h, gone := false }

def setSlot (n : Nat) (x : Slot) (s : State) : State :=
  { s with summit := { s.summit with slots := tabMod s.summit.slots n fun _ => x } }

/-- The boot ROM verifies a slot and reports a failure (R361). -/
def bootSlot (n : Nat) (i : SlotImage) (s : State) : State :=
  let f := slotFail none i s
  let s := setSlot n (slotOf_ i f) s
  if f = 0 then s else raise 11 6 (signal 33 0 s)

/-- The image of slot `n` runs (R8, R361). -/
def runSlot (n : Nat) (s : State) : State :=
  let x := tabGet s.summit.slots n Slot.reset
  { s with
    dev := { s.dev with fwVersion := BitVec.ofNat 32 x.version, fwSlot := n, fwFallback := n == 1, bootrom := false },
    summit := { s.summit with verified := true, fwDigest := x.digest } }

/-- FW_BOOT_VERIFY (R361): at a controller start the boot ROM tries slot A, then slot B. When both fail, DEV_INFO shows FW_VERSION
0; FW_SLOT 0 and FW_FALLBACK 0 beside it are the model's choice, of which the spec says nothing (DESIGN CHOICE, log 59). -/
def execFwBootVerify (a b : SlotImage) (s : State) : Result :=
  if s.summit.state = .boot ∨ s.summit.state = .restarting then
    if slotFail none a s = 0 then .next (runSlot 0 (bootSlot 0 a s))
    else
      let s := bootSlot 0 a s
      if slotFail none b s = 0 then .next (raise 11 5 (runSlot 1 (bootSlot 1 b s)))
      else
        let s := bootSlot 1 b s
        .next { s with
          dev := { s.dev with fwVersion := 0, fwSlot := 0, fwFallback := false, bootrom := true, ready := true, softPending := false },
          summit := { s.summit with verified := true, fwDigest := [] } }
  else .next s

/-! ## NOP and the firmware commands (R527-R529) -/

/-- NOP's rules (R529). -/
def nopCmd : Cmd := fun q s => if zeroAt q 0 256 then (s, some (okWith [])) else quit stBadArg s

/-- NOP (R529). -/
def execNop (m : Fin 8) (s : State) : Result := .next (command m.val 0x0000 nopCmd s)

/-- Slot A is erased, or holds a part of an image: no check has accepted what it holds now (R523, R527). -/
def eraseSlotA (s : State) : State :=
  { s with summit := { s.summit with slots := tabMod s.summit.slots 0 fun x => { x with gone := true } } }

/-- FW_STAGE's rules up to the claim of its window and the erasing of slot A (R527 steps 1-4). -/
def fwStageCmd (m : Nat) : Cmd := fun q s =>
  let cw := fieldAt q 0 1
  let n := fieldAt q 4 4
  if 6 < cw ∨ !zeroAt q 1 3 ∨ !zeroAt q 8 248 ∨ n % 4 ≠ 0 ∨ n < 30052 ∨ Config.flashBytes / 2 < n then quit stBadArg s
  else if s.sealer.fw.isSome then quit stBusy s
  else if (cwOf s cw).claimed then quitClaimed s
  else (cwClaim cw m 0x0A01 true n [] (eraseSlotA { s with sealer := { s.sealer with fw := some m } }), none)

/-- FW_STAGE (R527). -/
def execFwStage (m : Fin 8) (s : State) : Result := .next (command m.val 0x0A01 (fwStageCmd m.val) s)

/-- A FW_STAGE or FW_COMMIT has ended. -/
def endFw (s : State) : State := { s with sealer := { s.sealer with fw := none } }

/-- The rollback and digest of an image, as FW_STAGE answers them. -/
def stagedReply (x : Slot) : List Byte := leBytes 4 x.version ++ leBytes 4 x.rollback ++ padTo 32 x.digest

/-- The image that bytes in a slot make (R360). -/
def stagedImage (bs : List Byte) : SlotImage :=
  let h := bs.take 256
  let n := imgBodyLen h
  .image h ((bs.drop 256).take n) ((bs.drop (256 + n)).take 29792)

/-- What is read back of bytes programmed into a slot (R527). -/
def readBack (r : FlashRead) (bs : List Byte) : List Byte :=
  r.flips.foldl (fun l u => l.set u.1 (byteAt l u.1 ^^^ u.2)) bs

/-- FW_STAGED (R527 steps 5 and 6): the last byte has been consumed and slot A is read back and checked. What the read-back gives
and whether the flash works come with the command; a failed check leaves slot A erased. -/
def execFwStaged (m : Fin 8) (back : FlashRead) (flashOk : Bool) (s : State) : Result :=
  let q := mbOf s m.val
  let w := cwOf s (fieldAt q.req 0 1)
  let n := fieldAt q.req 4 4
  let img := stagedImage (readBack back (w.inn.take n))
  if s.sealer.fw = some m.val ∧ n ≤ w.inn.length then
    let s := endFw s
    if !flashOk then
      .next (finishMb m.val 0x0A01 { status := stInternal, detail := 0x0107, body := [] }
        (eraseSlotA (setSlot 0 (slotOf_ .empty 1) s)))
    else
      let f := slotFail (some n) img s
      let x := slotOf_ img f
      let s := setSlot 0 x s
      if f = 0 then .next (finishMb m.val 0x0A01 (okWith (stagedReply x)) (raise 0 14 s))
      else .next (finishMb m.val 0x0A01 { status := stSecurity, detail := 0x0100 + f, body := [] } (eraseSlotA s))
  else .next s

/-- The failing check of slot A as it stands, from its last verification and the floor now (R361, R528): an erased slot has no
MAGIC, and one that holds a part of an image is taken so too (DESIGN CHOICE, log 64). -/
def slotAFail (s : State) : Nat :=
  let x := s.summit.slots[0]
  if x.gone then 1
  else if x.state = 1 then (if x.rollback < s.summit.floor then 4 else 0) else x.fail

/-- What FW_INFO shows of slot A once FW_COMMIT has checked it (R528). -/
def checkedA (s : State) : Slot :=
  let x := s.summit.slots[0]
  let f := slotAFail s
  if x.gone then { slotOf_ .empty f with gone := true } else { x with state := if f = 0 then 1 else 2, fail := f }

/-- FW_COMMIT's rules up to the programming of slot B (R528). Step 4 is a verification of slot A, which FW_INFO reports. -/
def fwCommitCmd (m : Nat) : Cmd := fun q s =>
  if 1 < fieldAt q 0 1 ∨ !zeroAt q 1 3 ∨ fieldAt q 4 4 ≠ 0x4D4D4F43 ∨ !zeroAt q 8 248 then quit stBadArg s
  else if s.sealer.fw.isSome then quit stBusy s
  else if s.dev.fwSlot = 1 ∧ !s.dev.bootrom then quit stState s
  else
    let f := slotAFail s
    let s := setSlot 0 (checkedA s) s
    if f ≠ 0 then (s, some { status := stSecurity, detail := 0x0100 + f, body := [] })
    else ({ s with sealer := { s.sealer with fw := some m } }, none)

/-- FW_COMMIT (R528). -/
def execFwCommit (m : Fin 8) (s : State) : Result := .next (command m.val 0x0A02 (fwCommitCmd m.val) s)

/-- FW_COMMITTED (R528 steps 5-7). A slot B that failed is INVALID; which check fails is left open (log 7). -/
def execFwCommitted (m : Fin 8) (flashOk : Bool) (s : State) : Result :=
  if s.sealer.fw = some m.val then
    let s := endFw s
    let x := s.summit.slots[0]
    if !flashOk then
      let r := freeBits 8 s
      let y := { x with state := 2, fail := 1 + r.1 % 6 }
      .next (finishMb m.val 0x0A02 { status := stInternal, detail := 0x0107, body := [] } (setSlot 1 y r.2))
    else
      let s := setSlot 1 x s
      let s := if bitOf 0 (fieldAt (mbOf s m.val).req 0 1) then
          { s with summit := { s.summit with floor := max s.summit.floor x.rollback } } else s
      .next (finishMb m.val 0x0A02 (okWith (leBytes 4 x.version ++ leBytes 4 s.summit.floor)) (raise 0 15 s))
  else .next s

/-- One slot's part of FW_INFO's response. -/
def slotInfo (x : Slot) : List Byte :=
  leBytes 1 x.state ++ leBytes 1 x.fail ++ zeros 2 ++ leBytes 4 x.version ++ leBytes 4 x.rollback ++ leBytes 4 x.bodyLen ++
    padTo 8 x.issuer ++ padTo 32 x.digest ++ zeros 8

/-- FW_INFO's rules (R528). -/
def fwInfoCmd : Cmd := fun q s =>
  if !zeroAt q 0 256 then quit stBadArg s
  else
    let run := if s.dev.bootrom then 0xFF else s.dev.fwSlot
    (s, some (okWith (leBytes 4 Config.flashBytes ++ leBytes 4 s.summit.floor ++ leBytes 1 run ++
      leBytes 1 (b2n s.dev.fwFallback) ++ zeros 2 ++ leBytes 4 s.summit.restarts ++ slotInfo s.summit.slots[0] ++
      slotInfo s.summit.slots[1])))

/-- FW_INFO (R528). -/
def execFwInfo (m : Fin 8) (s : State) : Result := .next (command m.val 0x0A03 fwInfoCmd s)

end Sys2Proof.Machine
end

