-- ==== Sys2Proof/Machine/Traverse.lean ====
section
/-! DEFINITION. Traverse as commands: steps, timers, counters and pins of the fabric, FAB_CFG, TRV_LOAD, arming and
disarming, TRIGOUT (R191-R204, R212-R231). -/

namespace Sys2Proof.Machine

/-! ## Steps of the fabric -/

/-- The sample of the next state sample by which sequencer `j` steps, once the current sample has no more for it (R218). -/
def nextClocked (j : Nat) (s : State) : Option Nat :=
  match progIn s.dev.variant s.cfg.active j with
  | none => none
  | some p =>
    if p.step = 0 then none
    else ((podAt s p.stepPod).samples.find? fun x =>
      decide (s.fab.sample < sampleOf x.ts) && notStepped j x.ts s).map fun x => sampleOf x.ts

/-- TRV_STEP (R212, R218): sequencer `j` takes its step in sample `k`; the fabric has evaluated every sample before. -/
def execTrvStep (j : Fin 4) (k : Nat) (s : State) : Result :=
  if s.fab.running ∧ k < fabReach s ∧ s.fab.sample ≤ k then .next (stepSeq j.val (advance k s)) else .next s

/-- FAB_TIMER_EXPIRE (R200): the fabric evaluates the first sample at or after the deadline of a running timer. -/
def execFabTimerExpire (m : Fin 16) (s : State) : Result :=
  let x := s.fab.timers[m]
  let k := max (s.fab.sample + 1) (sampleOf (x.tst + (timerCfg s m.val).limit * 640))
  .next (if s.fab.running ∧ x.running ∧ x.expired = none ∧ k < fabReach s then advance k s else s)

/-- COUNTER_AT_LIMIT (R198): the fabric evaluates the sample in which AT_LIMIT of a counter becomes true. -/
def execCounterAtLimit (n : Fin 32) (s : State) : Result :=
  let t := advance (s.fab.sample + 1) s
  .next (if s.fab.running ∧ s.fab.sample + 1 < fabReach s ∧ s.fab.counters[n].atLimit = none ∧
      t.fab.counters[n].atLimit.isSome then t else s)

/-- The high run of a pin after it was sampled high in sample `k` (R216). -/
def trigRun (r : Option (Nat × Nat)) (k : Nat) : Option (Nat × Nat) :=
  match r with
  | some (f, l) => if k ≤ l then some (f, l) else if k = l + 1 then some (f, k) else some (k, k)
  | none => some (k, k)

/-- TRIGIN_HIGH (R216): pin TRIGINx is sampled high in sample `k`. A new run begins once the samples before it have been
evaluated. The pin of an unpowered bank reads low (R594). -/
def execTriginHigh (x : Fin 4) (k : Nat) (s : State) : Result :=
  if !bankOn (.trigin x) s then .next s else
  let fresh : Bool := match tabGet s.fab.trigin x.val none with
    | some (_, l) => decide (l + 1 < k)
    | none => false
  let s := if fresh then advance (k - 1) s else s
  .next { s with fab := { s.fab with trigin := tabMod s.fab.trigin x.val fun r => trigRun r k } }

/-! ## FAB_CFG (R204) -/

/-- The largest INDEX of each KIND. -/
def fabIndexMax (kind : Nat) : Nat := [15, 7, 7, 31, 15].getD kind 0

/-- The body of a resource as an image holds it, from request byte 4 on. -/
def fabBody (kind idx : Nat) (m : Image) : List Byte :=
  match kind with
  | 0 => patternBytes (tabGet m.words idx m.words[0])
  | 1 => mapBytes (tabGet m.maps idx [])
  | 2 => rangeBytes (tabGet m.ranges idx m.ranges[0])
  | 3 => counterBytes (tabGet m.counters idx m.counters[0])
  | _ => timerBytes (tabGet m.timers idx m.timers[0])

/-- The entries of a bus map body, at most 32. -/
def mapEntries (q : List Byte) : List Nat := (List.range (min 32 (fieldAt q 4 1))).map fun j => fieldAt q (8 + 2 * j) 2

/-- Is the WRITE body within range with every reserved bit 0 (R204)? -/
def fabBodyOk (kind : Nat) (q : List Byte) : Bool :=
  match kind with
  | 0 => decide (fieldAt q 4 1 < 8) && zeroAt q 5 3 && zeroAt q 42 2 && zeroAt q 78 178
  | 1 => decide (fieldAt q 4 1 ≤ 32) && zeroAt q 5 3 && (mapEntries q).all (fun n => decide (n ≤ 271)) &&
      zeroAt q (8 + 2 * fieldAt q 4 1) (248 - 2 * fieldAt q 4 1)
  | 2 => decide (fieldAt q 4 1 < 8 ∧ fieldAt q 5 1 < 8 ∧ fieldAt q 6 1 < 4) && zeroAt q 7 1 && zeroAt q 16 240
  | 3 => decide (fieldAt q 4 1 < 4 ∧ fieldAt q 5 1 < 0x80) && zeroAt q 6 2 && zeroAt q 14 2 && zeroAt q 22 234
  | _ => decide (fieldAt q 4 1 < 4 ∧ fieldAt q 5 1 < 0x80 ∧ fieldAt q 6 1 < 0x80) && zeroAt q 7 1 && zeroAt q 14 242

/-- Does a WRITE name an input of an absent pod (R204)? -/
def fabAbsent (v : Variant) (kind : Nat) (q : List Byte) : Bool :=
  match kind with
  | 0 => (List.range 272).any fun n => (fieldAt q 44 34).testBit n && !v.hasInput n
  | 1 => (mapEntries q).any fun n => decide (n ≤ 271) && !v.hasInput n
  | _ => false

/-- The staged image with a resource replaced by a WRITE body. -/
def fabWrite (kind idx : Nat) (q : List Byte) (m : Image) : Image :=
  let f := fieldAt q 4 1
  match kind with
  | 0 => { m with words := tabMod m.words idx fun _ =>
      { en := bitOf 0 f, src := bitOf 1 f, neg := bitOf 2 f, value := BitVec.ofNat 272 (fieldAt q 8 34),
        mask := BitVec.ofNat 272 (fieldAt q 44 34) } }
  | 1 => { m with maps := tabMod m.maps idx fun _ => mapEntries q }
  | 2 => { m with ranges := tabMod m.ranges idx fun _ =>
      { en := bitOf 0 f, signed := bitOf 1 f, src := bitOf 2 f, bus := fieldAt q 5 1, cond := fieldAt q 6 1,
        lo := BitVec.ofNat 32 (fieldAt q 8 4), hi := BitVec.ofNat 32 (fieldAt q 12 4) } }
  | 3 => { m with counters := tabMod m.counters idx fun _ =>
      { wrap := bitOf 0 f, autoClr := bitOf 1 f, incTerm := fieldAt q 5 1, limit := fieldAt q 8 6, preload := fieldAt q 16 6 } }
  | _ => { m with timers := tabMod m.timers idx fun _ =>
      { autoStart := bitOf 0 f, atPlace := bitOf 1 f, startTerm := fieldAt q 5 1, stopTerm := fieldAt q 6 1,
        limit := fieldAt q 8 6 } }

/-- The response of FAB_CFG. -/
def fabReply (kind idx : Nat) (m : Image) : List Byte := leBytes 1 kind ++ leBytes 1 idx ++ zeros 2 ++ fabBody kind idx m

/-- Change the staged image. -/
def modStaged (f : Image → Image) (s : State) : State := { s with cfg := { s.cfg with staged := f s.cfg.staged } }

/-- The active image as FAB_CFG reads a resource of it: one whose unit of memory 7 is contained reads as 0 (R579). -/
def activeSeen (kind idx : Nat) (s : State) : Image :=
  let unit := [0, 16, 24, 32, 64].getD kind 0 + idx
  if unitHeld (4 + unit) s then clearResource unit s.cfg.active else s.cfg.active

def fabCmd : Cmd := fun q s =>
  let op := fieldAt q 0 1
  let kind := fieldAt q 1 1
  let idx := fieldAt q 2 1
  if op = 0 ∧ fabAbsent s.dev.variant kind q then quit stUnsupported s
  else if 2 < op ∨ 4 < kind ∨ fabIndexMax kind < idx ∨ !zeroAt q 3 1 ∨ (op = 0 ∧ !fabBodyOk kind q) ∨
      (op ≠ 0 ∧ !zeroAt q 4 252) then quit stBadArg s
  else if op = 0 then
    let s := modStaged (fabWrite kind idx q) s
    (s, some (pendingWith (fabReply kind idx s.cfg.staged)))
  else (s, some (okWith (fabReply kind idx (if op = 1 then s.cfg.staged else activeSeen kind idx s))))

/-- FAB_CFG (R204). -/
def execFabCfg (m : Fin 8) (s : State) : Result := .next (command m.val 0x0304 fabCmd s)

/-! ## TRV_LOAD (R226, R227) -/

/-- The state words of TRV_LOAD STATES, in order. -/
def loadWords (q : List Byte) (n : Nat) : List Branch :=
  (List.range (4 * n)).map fun i => BitVec.ofNat 128 (fieldAt q (16 + 16 * i) 16)

/-- Is a term code reserved (R189, R216)? -/
def reservedTerm (c : Nat) : Bool :=
  decide ((2 ≤ c ∧ c ≤ 0x0F) ∨ (0x38 ≤ c ∧ c ≤ 0x3F) ∨ (0x70 ≤ c ∧ c ≤ 0x7F) ∨ (0x98 ≤ c ∧ c ≤ 0x9F) ∨ 0xE0 ≤ c)

/-- A VALID branch that CLOSE refuses (R227). -/
def branchBad (w : Branch) : Bool :=
  brValid w && ((brTerms w).any reservedTerm || (bitOf 90 w.toNat && bitOf 91 w.toNat) ||
    (!brFire w && (brRlf w || brTout w != 0)))

/-- Does a term name an absent sequencer or, without Ridgeline ports, a FIRE frame (R227)? -/
def termAbsent (v : Variant) (c : Nat) : Bool :=
  (decide (0x90 ≤ c ∧ c < 0x94) && !v.hasSeq (c - 0x90)) || (decide (0x94 ≤ c ∧ c < 0x98) && !v.hasSeq (c - 0x94)) ||
    (decide (0xA0 ≤ c ∧ c < 0xE0) && !v.hasSeq ((c - 0xA0) / 16)) || (decide (0x84 ≤ c ∧ c < 0x88) && !v.ridgeline)

/-- Does a branch name an absent unit, VALID or not (R227)? -/
def branchAbsent (v : Variant) (w : Branch) : Bool := (brTerms w).any (termAbsent v) || (brRlf w && !v.ridgeline)

/-- Does a program name an absent unit (R227)? -/
def programAbsent (v : Variant) (p : Program) : Bool :=
  (p.step == 1 && !v.hasPod p.stepPod) || (p.group != 0 && !v.ridgeline) || p.words.toList.any (branchAbsent v)

/-- Does BEGIN or STATES itself name an absent unit (R227)? -/
def loadAbsent (v : Variant) (q : List Byte) : Bool :=
  match fieldAt q 1 1 with
  | 0 => fieldAt q 10 1 != 0 && !v.ridgeline
  | 1 => (loadWords q (min 3 (fieldAt q 3 1))).any (branchAbsent v)
  | _ => false

/-- LOAD_FLAGS. -/
def loadFlags (j : Nat) (s : State) : Nat :=
  b2n (seqOf s j).buffer.isSome + 2 * b2n (loadedStaged j s) + 4 * b2n (loadedActive j s)

/-- The response of TRV_LOAD, with the header and states of a program for a read. -/
def loadReply (j : Nat) (prog : Option Program) (first n : Nat) (s : State) : List Byte :=
  leBytes 1 j ++ leBytes 1 (loadFlags j s) ++ zeros 6 ++
    match prog with
    | some p => headerBytes p ++ stateBytes p first n
    | none => []

/-- Write states from `first` on into a program. -/
def putWords : Nat → List Branch → Tab 64 Branch → Tab 64 Branch
  | _, [], t => t
  | i, w :: ws, t => putWords (i + 1) ws (tabMod t i fun _ => w)

/-- Set the load buffer of sequencer `j`. -/
def setBuffer (j : Nat) (b : Option Program) (s : State) : State := modSeq j (fun q => { q with buffer := b }) s

/-- Does COUNT apply to this OP? -/
def countApplies (op : Nat) : Bool := op == 1 || op == 3 || op == 4

/-- Arguments out of range (R227). -/
def loadBad (q : List Byte) : Bool :=
  let op := fieldAt q 1 1
  let n := fieldAt q 3 1
  decide (3 < fieldAt q 0 1 ∨ 5 < op) || !zeroAt q 4 4 || !zeroAt q 12 4 || !zeroAt q 208 48 ||
    (countApplies op && decide (n = 0 ∨ 3 < n ∨ 16 < fieldAt q 2 1 + n)) ||
    (op == 0 && decide (1 < fieldAt q 8 1 ∨ 15 < fieldAt q 9 1 ∨ 15 < fieldAt q 10 1 ∨ 1 < fieldAt q 11 1)) ||
    (op == 1 && (loadWords q n).any fun w => decide (2 ^ 94 ≤ w.toNat))

/-- CLOSE (R226, R227): the buffer becomes the staged program, or is discarded. -/
def closeLoad (j : Nat) (p : Program) (s : State) : State × Option Reply :=
  let s := setBuffer j none s
  if programAbsent s.dev.variant p then quit stUnsupported s
  else if p.words.toList.any branchBad then quit stBadArg s
  else
    let s := modStaged (fun m => { m with progs := tabMod m.progs j fun _ => some p }) s
    (s, some (pendingWith (loadReply j none 0 0 s)))

def loadCmd : Cmd := fun q s =>
  let j := fieldAt q 0 1
  let op := fieldAt q 1 1
  let first := fieldAt q 2 1
  let n := fieldAt q 3 1
  if (j < 4 ∧ !s.dev.variant.hasSeq j) ∨ loadAbsent s.dev.variant q then quit stUnsupported s
  else if loadBad q then quit stBadArg (if op = 2 then setBuffer j none s else s)
  else
    match op, (seqOf s j).buffer with
    | 0, _ =>
      let p : Program :=
        { step := fieldAt q 8 1, stepPod := fieldAt q 9 1, group := fieldAt q 10 1, oneShot := bitOf 0 (fieldAt q 11 1),
          words := Vector.replicate 64 0 }
      let s := setBuffer j (some p) s
      (s, some (okWith (loadReply j none 0 0 s)))
    | 1, some p =>
      let s := setBuffer j (some { p with words := putWords (4 * first) (loadWords q n) p.words }) s
      (s, some (okWith (loadReply j none 0 0 s)))
    | 2, some p => closeLoad j p s
    | 1, none => quit stState s
    | 2, none => quit stState s
    | 3, _ => (s, some (okWith (loadReply j (progIn s.dev.variant s.cfg.staged j) first n s)))
    | 4, _ => (s, some (okWith (loadReply j (progIn s.dev.variant s.cfg.active j) first n s)))
    | _, _ =>
      let s := modStaged (fun m => { m with progs := tabMod m.progs j fun _ => none }) s
      (s, some (pendingWith (loadReply j none 0 0 s)))

/-- TRV_LOAD (R226). -/
def execTrvLoad (m : Fin 8) (s : State) : Result := .next (command m.val 0x0301 loadCmd s)

/-! ## TRV_ARM and TRV_DISARM (R228, R229) -/

/-- Does a sequencer mask name an absent sequencer? -/
def maskAbsent (v : Variant) (m : Nat) : Bool := (bitsSet 4 m).any fun j => !v.hasSeq j

/-- The groups of the named sequencers, without repeats and without 0. -/
def groupsOf (m : Nat) (s : State) : List Nat :=
  bitsSet 16 (withoutBit 0 (maskOf ((bitsSet 4 m).map fun j => chainGroup j s)))

/-- Named sequencers that are ARMED or PENDING, by orders on their way too. -/
def armedMask (m : Nat) (s : State) : Nat := maskOf ((bitsSet 4 m).filter fun j => busyAhead j s)

/-- The response of TRV_ARM CHAIN (R228). -/
def chainBody (m gs : Nat) (past : Bool) (s : State) : List Byte :=
  leBytes 1 (armedMask m s) ++ leBytes 1 (b2n past) ++ leBytes 2 gs

/-- A past target under LATE_DROP on the master: every loaded sequencer of the groups drops the arm (R219, R221). -/
def chainDrop (m : Nat) (s : State) : State :=
  (groupsOf m s).foldl (fun s g =>
    (List.range 4).foldl (fun s j =>
      if loadedActive j s ∧ chainGroup j s = g ∧ !busyAhead j s then dropArm j s else s) s) s

/-- Is a named sequencer not loaded in the image in which it would start, or the MODE not possible now (R228 rule 3)? -/
def armState (m mode : Nat) (s : State) : Bool :=
  s.dev.acq == .frozen || (s.dev.acq == .idle && mode != 1) ||
    (bitsSet 4 m).any fun j => !(if s.dev.acq == .idle then loadedStaged j s else loadedActive j s)

/-- TRV_ARM CHAIN on the master (R221): one ARM frame for each group, applied here as well. -/
def chainMaster (m sec ns policy : Nat) (s : State) : State :=
  (groupsOf m s).foldl (fun s g =>
    chainArm g sec ns policy (originate 0x11 0xFFFF
      (leBytes 1 g ++ leBytes 1 policy ++ zeros 2 ++ leBytes 8 sec ++ leBytes 4 ns ++ zeros 4) s)) s

/-- TRV_ARM's rules (R228). A sequencer that is not loaded has no CHAIN_GROUP to judge: MODE CHAIN naming it completes with
STATE (DESIGN CHOICE, log 30). While the fabric evaluates, NOW completes once the arm has taken effect. -/
def armCmd (mb : Nat) : Cmd := fun q s =>
  let m := fieldAt q 0 1
  let mode := fieldAt q 1 1
  let pol := fieldAt q 2 1
  let sec := s.tm.b.sec / 2 ^ 32 * 2 ^ 32 + fieldAt q 4 4
  let ns := fieldAt q 8 4
  if maskAbsent s.dev.variant m ∨ (mode = 2 ∧ !s.dev.variant.ridgeline) then quit stUnsupported s
  else if m = 0 ∨ 15 < m ∨ 2 < mode ∨ 1 < pol ∨ !zeroAt q 3 1 ∨ !zeroAt q 12 244 ∨ 999999999 < ns ∨
      (mode = 2 ∧ (bitsSet 4 m).any fun j => loadedActive j s && chainGroup j s == 0) then quit stBadArg s
  else if armState m mode s ∨ (mode = 2 ∧ s.rl.addr = 0) then quit stState s
  else
    let past := timeBReached sec ns s
    let s := evalNow s
    match mode with
    | 2 =>
      let gs := maskOf (groupsOf m s)
      if past ∧ pol = 1 then
        let s := chainDrop m s
        (s, some { status := stLate, detail := 0, body := chainBody m gs true s })
      else
        let s := chainMaster m sec ns pol s
        (s, some (okWith (chainBody m gs past s)))
    | _ =>
      let run := s.fab.running
      let s := if mode = 1 then armOnStart m (some mb) s else armMask m (nextVector s) false false (some mb) s
      (s, if run then none else some (okWith (leBytes 1 (armedMask m s))))

/-- TRV_ARM (R228). -/
def execTrvArm (m : Fin 8) (s : State) : Result := .next (command m.val 0x0302 (armCmd m.val) s)

/-- TRV_DISARM's rules (R229): it completes once the disarm has taken effect, with the next vector while the fabric
evaluates. -/
def disarmCmd (mb : Nat) : Cmd := fun q s =>
  let m := fieldAt q 0 1
  let f := fieldAt q 1 1
  if maskAbsent s.dev.variant m ∨ (bitOf 0 f ∧ !s.dev.variant.ridgeline) then quit stUnsupported s
  else if m = 0 ∨ 15 < m ∨ 1 < f ∨ !zeroAt q 2 254 then quit stBadArg s
  else if bitOf 0 f ∧ s.rl.addr = 0 then quit stState s
  else
    let gs := if bitOf 0 f then groupsOf m s else []
    let body := disarmBody m s
    let run := s.fab.running
    let s := if run then orderAt (nextVector s) (.disarm m (some mb)) s else disarmMask m s
    let s := gs.foldl (fun s g => chainDisarm g (originate 0x12 0xFFFF (leBytes 1 g ++ zeros 3) s)) s
    (s, if run then none else some (okWith body))

/-- TRV_DISARM (R229). -/
def execTrvDisarm (m : Fin 8) (s : State) : Result := .next (command m.val 0x0303 (disarmCmd m.val) s)

/-- TRV_ARM_TARGET (R219): the target of a PENDING chain arm is reached on time B. While the fabric evaluates, the arm comes true
in the first sample at or after the target (`takeTarget`). -/
def execTrvArmTarget (j : Fin 4) (s : State) : Result :=
  .next (match (seqOf s j.val).mode, (seqOf s j.val).wait with
    | .pending, some (.atTimeB sec ns _) =>
      let k := sampleOf ((reachInstant s.tm.segB (flatOf sec ns)).getD (nowU s))
      if s.tm.bValid ∧ timeBReached sec ns s then
        if s.fab.running then advance k s
        else if armDiscarded j.val s then dropArm j.val (disarmNow j.val s)
        else armPending j.val k s
      else s
    | _, _ => s)

/-! ## TRIGOUT (R230) -/

/-- Is a TOUT word within range (R230)? WIDTH matters to MODE PULSE alone. -/
def toutOk (w : Nat) : Bool := bitsOf 15 8 w == 0 && !bitOf 3 w && (bitsOf 1 0 w != 1 || bitsOf 31 16 w != 0)

/-- A WRITE's TOUT words. -/
def toutWords (q : List Byte) : List Nat := (List.range 4).map fun x => fieldAt q (4 + 4 * x) 4

def outCfgCmd : Cmd := fun q s =>
  let op := fieldAt q 0 1
  let ws := toutWords q
  if ws.any fun w => maskAbsent s.dev.variant (bitsOf 7 4 w) then quit stUnsupported s
  else if 2 < op ∨ !zeroAt q 1 3 ∨ !zeroAt q 20 236 ∨ ws.any (fun w => !toutOk w) then quit stBadArg s
  else
    let s := if op = 0 then modStaged (fun m => { m with tout := Vector.ofFn fun x : Fin 4 => BitVec.ofNat 32 (ws.getD x.val 0) }) s
      else s
    let m := if op = 2 then s.cfg.active else s.cfg.staged
    let body := leBytes 1 op ++ zeros 3 ++ m.tout.toList.flatMap fun w => leBytes 4 w.toNat
    (s, some { status := if op = 0 then stPending else stOk, detail := 0, body := body })

/-- TRV_OUT_CFG (R230). -/
def execTrvOutCfg (m : Fin 8) (s : State) : Result := .next (command m.val 0x0305 outCfgCmd s)

/-- TRIGOUT_PULSE_END (R230). -/
def execTrigoutPulseEnd (x : Fin 4) (s : State) : Result :=
  .next { s with trigout := tabMod s.trigout x.val fun t =>
    { t with requests := t.requests.filter fun k => decide (nowU s < pulseEnd x.val k s) } }

end Sys2Proof.Machine
end

