-- ==== Sys2Proof/Machine/Pods.lean ====
section
/-! DEFINITION. The pod ports and the operator keys: insertion, descriptor, supply, joining, removal, telemetry, key
functions (R54-R93). -/

namespace Sys2Proof.Machine

/-! ## The descriptor (R68, R69) -/

/-- VPOD_MV, IPOD_MA and TEMP_LIMIT of a descriptor. -/
def descVpod (d : List Byte) : Nat := fieldAt d 18 2
def descIpod (d : List Byte) : Nat := fieldAt d 20 2
def descTempLimit (d : List Byte) : Int := signed 16 (fieldAt d 22 2)

/-- Does a descriptor name a temperature sensor? -/
def descTelem (d : List Byte) : Bool := fieldAt d 90 1 == 1

/-- The first check of R69 that a descriptor fails: its code, 0 when it passes all. -/
def descReject (d : List Byte) : Nat :=
  if fieldAt d 0 4 ≠ 0x50444E52 then 2
  else if fieldAt d 4 1 ≠ 1 then 3
  else if fieldAt d 252 4 ≠ crc32c (d.take 252) then 4
  else if 1 < fieldAt d 16 1 then 5
  else if fieldAt d 16 1 = 1 ∧
      (descVpod d < 1700 ∨ 3600 < descVpod d ∨ descIpod d < 1 ∨ 600 < descIpod d) then 6
  else if (List.range 17).any fun k =>
      decide (signed 16 (fieldAt d (24 + 2 * k) 2) < -1280 ∨ 1280 < signed 16 (fieldAt d (24 + 2 * k) 2)) then 7
  else if fieldAt d 8 2 = 0 ∨ signed 16 (fieldAt d 14 2) ≤ signed 16 (fieldAt d 12 2) ∨ 1 < fieldAt d 90 1 ∨
      (fieldAt d 90 1 = 1 ∧ fieldAt d 91 1 = 0x50) then 8
  else 0

/-- The descriptor of a pod, empty when none was read. -/
def descOf (p : Nat) (s : State) : List Byte := (podAt s p).desc.getD []

/-! ## Joining (R58 step 7, R60, R62, R66) -/

/-- A pod that captures nothing and whose inputs stand at 0 (R142). -/
def clearCapture (q : Pod) : Pod :=
  { q with
    capture := none, evs := [], base := { level := 0, u := 0, l := 0 }, samples := [], clocks := [], dropped := [],
    skipped := [], lastClock := none }

/-- A pod that leaves capture within an epoch keeps its most recent state sample of the epoch (R191). -/
def leaveCapture (q : Pod) : Pod := { clearCapture q with samples := q.samples.drop (q.samples.length - 1) }

/-- The pod becomes ACTIVE: deskew, G5.1 (R58, R101). -/
def activatePod (p : Nat) (s : State) : State := raise 5 1 (applyDeskew p (setPod p .active s))

/-- The inputs of a pod leave ABSENT at the start of a row: levels 0, qualifiers afresh, no clock edge before (R142, R184). -/
def enterCapture (p row : Nat) (s : State) : State :=
  let s := modPod p (fun q => { leaveCapture q with capture := some { first := row, joined := true, gone := none } }) s
  (List.range 17).foldl (fun s k =>
    modInput (inputIndex p k) (fun i => restartQual (actCh s (inputIndex p k)) (256 * row) false (clearInput i)) s) s

/-- The pod joins capture at a row: POD_JOIN cairn, end of its removal gap (R58, R66, R259). At the first intake row it is
among the epoch's ACTIVE pods (R62). -/
def joinAt (p row : Nat) (s : State) : State :=
  let d := descOf p s
  let s := { s with ret := { s.ret with
    nextFirst := if s.ret.intakeRow = some row then s.ret.nextFirst.map (fun x => (x.1 ||| 2 ^ p, x.2)) else s.ret.nextFirst } }
  let s := activatePod p (closePodGap p row s)
  pushCairn 0x0005 (65536 * row) 1 p
    (leBytes 1 p ++ zeros 3 ++ leBytes 4 (fieldAt d 252 4) ++ leBytes 16 (fieldAt d 58 16)) (enterCapture p row s)

/-- The block boundary at which a JOINING pod joins: the next one at which intake runs (R58, R60), none while the capture
of its earlier stay has rows to encode or an accepted boundary comes first. -/
def joinRow (p : Nat) (s : State) : Option Nat :=
  if !s.ring.intake ∨ (podAt s p).capture.isSome then none
  else match s.ret.boundary with
    | some b => if s.dev.acq = .running ∧ b.row ≤ nextRow s then none else some (nextRow s)
    | none => some (nextRow s)

/-- A JOINING pod becomes ACTIVE: at once in IDLE, without a cairn (R60), else at `joinRow`. -/
def joinPod (p : Nat) (s : State) : State :=
  if (podAt s p).state ≠ .joining then s
  else if s.dev.acq = .idle then activatePod p (modPod p clearCapture s)
  else match joinRow p s with
    | some r => joinAt p r s
    | none => s

/-- The supply is good, or none is needed: JOINING, and in IDLE step 7 follows at once (R58 step 6, R59, R60). -/
def reachJoining (p : Nat) (s : State) : State :=
  let s := setPod p .joining s
  let s := if s.dev.acq = .idle then joinPod p s else s
  settleOn p s

/-- The setpoint of an accepted pod's supply: VPOD_MV to the nearest 10 mV, ties down (R71). -/
def supplySetpoint (d : List Byte) : Nat := (descVpod d + 4) / 10 * 10

/-- The setpoint and the current limit of 1.2 IPOD_MA, in 0.1 mA, of an accepted pod (R71); a pod that needs no supply has
none. -/
def setSupply (p : Nat) (s : State) : State :=
  let d := descOf p s
  if fieldAt d 16 1 = 0 then modPod p (fun q => { q with supplySet := 0, supplyLimit := 0 }) s
  else modPod p (fun q => { q with supplySet := supplySetpoint d, supplyLimit := 12 * descIpod d }) s

/-- R58 step 5 on: a supply ramps to its setpoint, or a pod that needs none is JOINING at once (R59, R71). -/
def startSupply (p : Nat) (s : State) : State :=
  let s := setSupply p s
  if fieldAt (descOf p s) 16 1 = 0 then reachJoining p s
  else modPod p (fun q => { q with supplyOn := true }) (setPod p .powering s)

/-! ## Insertion (R57-R61) -/

/-- R58 step 3: IDENTIFY with the auxiliary supply on; in safe state or without firmware the pod waits (R74, R522). -/
def identify (p : Nat) (s : State) : State :=
  modPod p (fun q => { q with vaux := !s.dev.safe, desc := none, readFails := 0, waiting := s.dev.safe || !firmwareUp s })
    (setPod p .identify s)

/-- Are the rails up and the port bonded? -/
def portLive (p : Nat) (s : State) : Bool := coreUp s && s.dev.variant.hasPod p

/-- Has the port been in its state for so many ticks? -/
def lasted (p n : Nat) (s : State) : Bool := decide ((podAt s p).since + n ≤ s.tm.tick)

/-- POD_PRESENCE_LOW (R58 step 1): the presence pin of a port is sampled low. Before firmware has started the pod waits in
EMPTY (R57). -/
def execPodPresenceLow (p : Fin 16) (s : State) : Result :=
  if portLive p.val s ∧ !(podAt s p.val).present then
    let s := modPod p.val (fun q => { q with present := true }) s
    .next (if (podAt s p.val).state = .empty ∧ s.flt.on then setPod p.val .debounce s else s)
  else .next s

/-- POD_DEBOUNCE_DONE (R58 steps 2 and 3): low for 50 ms, or a high sample before. -/
def execPodDebounceDone (p : Fin 16) (low : Bool) (s : State) : Result :=
  if (podAt s p.val).state = .debounce then
    .next (if low then if lasted p.val (50 * msTicks s) s then identify p.val s else s
      else modPod p.val (fun q => { q with present := false }) (setPod p.val .empty s))
  else .next s

/-- Can the descriptor of a port be read now (R58, R74, R522)? -/
def canRead (p : Nat) (s : State) : Bool :=
  (podAt s p).state == .identify && !(podAt s p).waiting && firmwareUp s && !s.dev.safe

/-- A pod is rejected with a reason (R58 step 4, R69). -/
def rejectPod (p reason : Nat) (s : State) : State :=
  raise 5 3 (modPod p (fun q => { q with reject := reason }) (setPod p .rejected s))

/-- DESCRIPTOR_READ_DONE (R58 step 4): the descriptor has been read. -/
def execDescriptorReadDone (p : Fin 16) (desc : List Byte) (s : State) : Result :=
  if canRead p.val s then
    let d := padTo 256 desc
    let s := modPod p.val (fun q => { q with desc := some d }) s
    if descReject d ≠ 0 then .next (rejectPod p.val (descReject d) s)
    else
      let s := raise 5 0 (setSupply p.val s)
      .next (if s.podc.autopwr.testBit p.val then startSupply p.val s else setPod p.val .unpowered s)
  else .next s

/-- DESCRIPTOR_READ_ERROR (R61): a read attempt fails; the third rejects the pod, which then has no stored descriptor
(R77). -/
def execDescriptorReadError (p : Fin 16) (s : State) : Result :=
  if canRead p.val s then
    let s := modPod p.val (fun q => { q with readFails := q.readFails + 1 }) s
    .next (if 3 ≤ (podAt s p.val).readFails then
        rejectPod p.val 1 (modPod p.val (fun q => { q with desc := none }) s)
      else s)
  else .next s

/-! ## Supply (R71-R73) -/

/-- A supply fault (R72): supply off, inputs ABSENT, SUPPLY_FAULT, FAULTED, G5.4, F18. A pod whose presence broke in the
same sample stays EMPTY (R65). -/
def supplyFault (p : Nat) (s : State) : State :=
  let gone := (podAt s p).state == .empty
  let s := supplyCut p (dropPod p 1 s)
  let s := if gone then s else modPod p (fun q => { q with supplyFault := true }) (setPod p .faulted s)
  signalUnit 18 (BitVec.ofNat 32 p) p (raise 5 4 (settleOn p s))

/-- Supply overvoltage (R72). -/
def supplyOvervolt (p : Nat) (s : State) : State :=
  let gone := (podAt s p).state == .empty
  let s := supplyCut p (dropPod p 2 s)
  let s := if gone then s else modPod p (fun q => { q with overvolt := true }) (setPod p .faulted s)
  signalUnit 19 (BitVec.ofNat 32 p) p (raise 5 5 (settleOn p s))

/-- Was the pod dropped by another cause in this 1 us sample (R65)? -/
def droppedNow (p : Nat) (s : State) : Bool := (podAt s p).dropAt == some (podSample s)

/-- POD_POWER_GOOD_CHECK (R58 step 6, R72): the output 0.5 ms after the ramp of 2 ms, within 5% of VPOD_MV or a supply fault. -/
def execPodPowerGoodCheck (p : Fin 16) (mv ma : Nat) (s : State) : Result :=
  if (podAt s p.val).state = .powering ∧ lasted p.val (5 * msTicks s / 2) s then
    let s := modPod p.val (fun q => { q with supplyMv := mv, supplyMa := ma }) s
    let v := descVpod (descOf p.val s)
    .next (if 20 * (mv - v) ≤ v ∧ 20 * (v - mv) ≤ v then reachJoining p.val s else supplyFault p.val s)
  else .next s

/-- POD_JOIN (R58 step 7). -/
def execPodJoin (p : Fin 16) (s : State) : Result := .next (joinPod p.val s)

/-- POD_SUPPLY_FAULT (R72): outside the soft start of a supplied pod. -/
def execPodSupplyFault (p : Fin 16) (s : State) : Result :=
  .next (if (podLive (podAt s p.val) ∧ (podAt s p.val).supplyOn) ∨ droppedNow p.val s then supplyFault p.val s else s)

/-- POD_OVERVOLT (R72). -/
def execPodOvervolt (p : Fin 16) (s : State) : Result :=
  .next (if (podAt s p.val).supplyOn ∨ droppedNow p.val s then supplyOvervolt p.val s else s)

/-! ## Removal (R63-R66) -/

/-- The port of a removed pod is EMPTY (R63): supplies cut, two-wire transactions abandoned. TELEM_FAIL and PODC_TEMPp keep
the last values until the next read, while the count of failures and the arming of POD_HOT start afresh (R80; DESIGN CHOICE,
log 28). -/
def emptyPort (p : Nat) (s : State) : State :=
  let s := setPod p .empty (supplyCut p s)
  settleOn p (modPod p (fun q => { q with
    present := false, vaux := false, desc := none, supplySet := 0, supplyLimit := 0, readFails := 0, telemBusy := false, telemFails := 0, hot := false,
    waiting := false }) s)

/-- POD_REMOVAL (R63): the presence detector responds. In DEBOUNCE, R58 step 2 applies instead. -/
def execPodRemoval (p : Fin 16) (s : State) : Result :=
  match (podAt s p.val).state with
  | .empty => .next (modPod p.val (fun q => { q with present := false }) s)
  | .debounce => .next s
  | _ => .next (raise 5 2 (emptyPort p.val (dropPod p.val 0 s)))

/-! ## POD_POWER (R75, R76) -/

/-- A pod that makes POD_POWER ON complete with STATE (R70, R73, R76). -/
def onRefused (q : Pod) : Bool :=
  match q.state with
  | .empty => true
  | .debounce => true
  | .identify => true
  | .rejected => true
  | .faulted => q.overvolt
  | _ => false

/-- Power one pod on for mailbox `m` (R73, R75, R76). -/
def powerOn (m p : Nat) (s : State) : State :=
  let q := podAt s p
  let s := modPod p (fun q => { q with offStaged := false }) s
  if podLive q then s
  else if fieldAt (descOf p s) 16 1 = 0 then startSupply p s
  else
    let s := modPod p (fun q => { q with onFor := q.onFor ++ [m] }) s
    if q.state = .powering then s else startSupply p s

/-- Does a pod in this state draw on its port (R75)? -/
def powered (q : Pod) : Bool := q.state == .powering || podLive q

/-- A pod is powered off now (R75): its inputs drop out, the supply is cut, UNPOWERED. -/
def powerOffNow (p : Nat) (s : State) : State :=
  if powered (podAt s p) then settleOn p (setPod p .unpowered (supplyCut p (absentNow p s))) else s

/-- The power-offs staged so far act (R40, R75). -/
def applyOffs (s : State) : State :=
  (List.range 16).foldl (fun s p => if (podAt s p).offStaged then powerOffNow p s else s) s

/-- Power one pod off: staged while acquisition runs, at once in IDLE (R75). -/
def powerOff (p : Nat) (s : State) : State :=
  if powered (podAt s p) then
    if acquiring s then modPod p (fun q => { q with offStaged := true }) s else powerOffNow p s
  else s

/-- POD_POWER's rules, in order (R76). OFF of a REJECTED pod is no error: R76 calls it a pod already off in any state, where R70
says that POD_POWER naming it completes with STATE (DESIGN CHOICE, log 28). -/
def podPowerCmd (m : Nat) : Cmd := fun q s =>
  let mask := fieldAt q 0 2
  let ps := bitsSet 16 mask
  if ps.any fun p => !s.dev.variant.hasPod p then quit stUnsupported s
  else if 1 < fieldAt q 2 1 ∨ mask = 0 ∨ !zeroAt q 3 253 then quit stBadArg s
  else if s.dev.safe then quit stState s
  else if fieldAt q 2 1 = 1 then
    if ps.any fun p => onRefused (podAt s p) then quit stState s
    else
      let s := ps.foldl (fun s p => powerOn m p s) s
      if ps.all fun p => podLive (podAt s p) then (s, some (okWith (leBytes 2 mask))) else (s, none)
  else
    let run := acquiring s
    let s := ps.foldl (fun s p => powerOff p s) s
    (s, some { status := if run then stPending else stOk, detail := 0, body := leBytes 2 mask })

/-- POD_POWER (R76). -/
def execPodPower (m : Fin 8) (s : State) : Result := .next (command m.val 0x0102 (podPowerCmd m.val) s)

/-! ## POD_INFO (R77) -/

/-- PODC_STATUSp (R89). -/
def podStatus (p : Nat) (s : State) : Nat :=
  let q := podAt s p
  q.reject * 65536 + b2n q.telemFail * 2048 + b2n q.overvolt * 1024 + b2n q.supplyFault * 512 + b2n q.present * 256 +
    q.state.code

/-- PODC_SUPPLYp (R88). -/
def podSupply (p : Nat) (s : State) : Nat := (podAt s p).supplyMa % 65536 * 65536 + (podAt s p).supplyMv % 65536

/-- The response of POD_INFO without DESC. -/
def podInfoBody (p : Nat) (changed : Bool) (s : State) : List Byte :=
  let d := descOf p s
  leBytes 4 (podStatus p s) ++ leBytes 4 (podSupply p s) ++ leBytes 4 (podAt s p).temp.toNat ++ leBytes 1 (b2n changed) ++
    zeros 3 ++ leBytes 16 (fieldAt d 58 16) ++ leBytes 16 (fieldAt d 74 16)

/-- Is REREAD allowed in this state (R77)? -/
def rereadOk (q : Pod) : Bool := q.state == .unpowered || powered q

/-- POD_INFO's rules; `reread` is what the descriptor read returns, none when it fails (R77, R79). -/
def podInfoCmd (reread : Option (List Byte)) : Cmd := fun q s =>
  let p := fieldAt q 0 1
  let f := fieldAt q 1 1
  let reply (changed : Bool) (s : State) : State × Option Reply :=
    (s, some (okWith (if bitOf 0 f then descOf p s else podInfoBody p changed s)))
  if p < 16 ∧ !s.dev.variant.hasPod p then quit stUnsupported s
  else if 15 < p ∨ 3 < f ∨ !zeroAt q 2 254 then quit stBadArg s
  else if (bitOf 0 f ∧ (podAt s p).desc = none) ∨ (bitOf 1 f ∧ !rereadOk (podAt s p)) then quit stState s
  else if bitOf 1 f then
    let s := modPod p (fun q => { q with telemBusy := false }) s
    match reread with
    | none => quit stInternal s
    | some d =>
      if padTo 256 d = descOf p s then reply false s else reply true (raise 5 8 s)
  else reply false s

/-- POD_INFO (R77). -/
def execPodInfo (m : Fin 8) (reread : Option (List Byte)) (s : State) : Result :=
  .next (command m.val 0x0101 (podInfoCmd reread) s)

/-! ## Telemetry (R78-R80) -/

/-- TELEM_PERIOD (R78): PERIOD × 100 ms have passed, and the sensors of pods from UNPOWERED to ACTIVE are read; without firmware nothing is (R522). -/
def execTelemPeriod (s : State) : Result :=
  if s.podc.telemPeriod ≠ 0 ∧ firmwareUp s ∧ s.podc.telemAt + 100 * msTicks s * s.podc.telemPeriod ≤ s.tm.tick then
    let start (q : Pod) : Pod := if rereadOk q && descTelem (q.desc.getD []) then { q with telemBusy := true } else q
    .next { s with pods := s.pods.map start, podc := { s.podc with telemAt := s.tm.tick } }
  else .next s

/-- A good temperature reading (R80). -/
def telemGood (p : Nat) (t : BitVec 16) (s : State) : State :=
  let lim := descTempLimit (descOf p s)
  let hot := (podAt s p).hot
  let s := modPod p (fun q => { q with
    telemBusy := false, temp := t, telemFails := 0, telemFail := false,
    hot := if lim < t.toInt then true else if t.toInt ≤ lim - 80 then false else q.hot }) s
  if lim < t.toInt ∧ !hot then raise 5 6 s else s

/-- A failed telemetry read: the third in a row raises POD_TELEM_FAIL (R80). -/
def telemBad (p : Nat) (s : State) : State :=
  let n := (podAt s p).telemFails + 1
  let s := modPod p (fun q => { q with telemBusy := false, telemFails := n, telemFail := q.telemFail || decide (3 ≤ n) }) s
  if n = 3 then raise 5 7 s else s

/-- TELEM_READ_DONE (R80): a telemetry read ends, none when it failed. -/
def execTelemReadDone (p : Fin 16) (temp : Option (BitVec 16)) (s : State) : Result :=
  .next (if (podAt s p.val).telemBusy then
    match temp with
    | some t => telemGood p.val t s
    | none => telemBad p.val s
    else s)

/-! ## Keys (R81-R85) -/

/-- FUNC and TRV_MASK of a key (R90). -/
def keyFunc (k : Nat) (s : State) : Nat := bitsOf 3 0 (tabGet s.podc.keyCfg k 0).toNat
def keyMask (k : Nat) (s : State) : Nat := bitsOf 7 4 (tabGet s.podc.keyCfg k 0).toNat

/-- The function applied (R82): EVENT_ONLY for a reserved FUNC, and for SEAL_NOW without the sealer. -/
def keyApplied (k : Nat) (s : State) : Nat :=
  let f := keyFunc k s
  if 4 < f ∨ (f = 3 ∧ !s.dev.variant.sealer) then 4 else f

/-- The sequencers that an ARM key arms (R84, R219). -/
def keySeqs (k : Nat) (s : State) : List Nat :=
  (bitsSet 4 (keyMask k s)).filter fun j => if s.dev.acq == .idle then loadedStaged j s else loadedActive j s

/-- Can the function of a press not act (R84)? -/
def keyRefused (k : Nat) (s : State) : Bool :=
  s.dev.acq == .frozen || match keyApplied k s with
    | 0 => (keySeqs k s).isEmpty
    | 1 => s.dev.acq == .idle
    | 2 => s.dev.acq == .idle
    | 3 => sealRefused s
    | _ => false

/-- An ARM key arms as NOW while acquisition runs and as ON_START in IDLE (R219). -/
def keyArm (k : Nat) (s : State) : State :=
  (keySeqs k s).foldl (fun s j =>
    if s.dev.acq = .idle then pendSeq j .onStart s else armMask (2 ^ j) (nextVector s) false false none s) s

/-- What a press does (R82, R83). -/
def keyAct (k : Nat) (s : State) : State :=
  match keyApplied k s with
  | 0 => keyArm k s
  | 1 => requestStop 2 s
  | 2 => pushCairn 0x0004 (nowU s - 12800000000) 1 0xFF (leBytes 1 k) s
  | 3 => askSeal 3 none none s
  | _ => s

/-- The DATA of a key's event-log entries (R577). -/
def keyData (k : Nat) (s : State) : List Byte := leBytes 1 k ++ leBytes 1 (keyApplied k s) ++ leBytes 1 (keyFunc k s)

/-- KEY_PRESS (R82, R85). -/
def execKeyPress (k : Fin 8) (s : State) : Result :=
  if s.dev.standby then .next { s with podc := { s.podc with stbyPress := s.podc.stbyPress ||| 2 ^ k.val } }
  else if coreUp s then
    let d := keyData k.val s
    let refused := keyRefused k.val s
    let s := raiseWith false 15 k.val d { s with podc := { s.podc with keyLive := s.podc.keyLive ||| 2 ^ k.val } }
    .next (if refused then raiseWith false 15 8 d s else keyAct k.val s)
  else .next s

/-- KEY_RELEASE (R81). -/
def execKeyRelease (k : Fin 8) (s : State) : Result :=
  .next { s with podc := { s.podc with keyLive := withoutBit k.val s.podc.keyLive } }

end Sys2Proof.Machine
end

