-- ==== Sys2Proof/Machine/Calib.lean ====
section
/-! DEFINITION. Rolling calibration: rotations, shadows, swaps, aborts, reference calibration of detached pairs, CAL_RUN and
CAL_STATUS (R115-R122). -/

namespace Sys2Proof.Machine

/-- Change the calibration of pod port `p`. -/
def modCal (p : Nat) (f : Cal → Cal) (s : State) : State := modPod p (fun q => { q with cal := f q.cal }) s

def calAt (s : State) (p : Nat) : Cal := (podAt s p).cal

/-- Are swaps suspended (R120)? From a boundary instant until intake resumes, while a TIMING_SUSPECT cairn is open, and in
FROZEN. -/
def calSuspended (s : State) : Bool :=
  (s.dev.acq == .draining && !s.ring.intake) || s.pll.suspect || s.ret.suspect.isSome || s.dev.acq == .frozen || !firmwareUp s

/-- Spare pairs that a pod still has, calibrated or not (R119). -/
def spareCount (c : Cal) : Nat := 2 - c.failed.length

/-- Have all 19 pairs of a port been calibrated since PERST# (R115)? -/
def allCalibrated (c : Cal) : Bool := c.calibrated == 2 ^ 19 - 1

/-- Does the calibration schedule of port `p` run (R115, R116)? -/
def calLive (p : Nat) (s : State) : Bool := portLive p s && firmwareUp s && allCalibrated (calAt s p)

/-- A residual as 16 bits, 0x8000 for one not measured (R122, R259). -/
def residBits (r : Option Int) : Nat :=
  match r with
  | some v => unsign 16 v
  | none => 0x8000

/-- A CAL cairn (R121, R259). -/
def calCairn (p kind input : Nat) (r : Option Int) (s : State) : State :=
  pushCairnIf 0x0007 (nowU s) 1 p (leBytes 1 p ++ leBytes 1 kind ++ leBytes 1 input ++ zeros 1 ++ leBytes 2 (residBits r)) s

/-- The larger of the rotation's residuals by magnitude, with its sign and its input (R121, R259). -/
def worseResid (old : Option (Int × Nat)) (r : Option Int) (k : Nat) : Option (Int × Nat) :=
  match r, old with
  | none, o => o
  | some v, none => some (v, k)
  | some v, some (m, i) => if m.natAbs < v.natAbs then some (v, k) else some (m, i)

/-- RESID and INPUT of the ROTATION cairn: the rotation's largest residual, aborted swaps included, and its input; input 0 where
none was measured (DESIGN CHOICE, log 32). -/
def rotationWorst (c : Cal) : Option Int × Nat :=
  match c.rotMax with
  | none => (none, 0)
  | some (v, k) => (some v, k)

/-- A rotation ends (R121): count, time, largest residual, G6.0, its cairn. -/
def endRotation (p : Nat) (s : State) : State :=
  let c := calAt s p
  let t := t0Of s.tm.a
  let s := modCal p (fun c => { c with
    rotating := none, rotations := c.rotations + 1, lastRot := t,
    maxResid := match c.rotMax with
      | some (v, _) => min v.natAbs 0xFFFE
      | none => 0xFFFF }) s
  let s := raise 6 0 s
  if c.rotCairn then calCairn p 0 (rotationWorst c).2 (rotationWorst c).1 s else s

/-- The rotation's step for input `k` is over: the next input, or the end. -/
def nextInput (p k : Nat) (s : State) : State :=
  let s := modCal p (fun c => { c with shadow := none, shadowDone := false, shadowRes := none, rotating := some (k + 1) }) s
  if 16 ≤ k then endRotation p s else s

/-! ## Rotations and swaps (R116, R117) -/

/-- Does the schedule start a rotation now (R116): back to back, or PERIOD_S after the start of the previous one? -/
def rotationDue (c : Cal) (s : State) : Bool :=
  c.startNext || match c.sched, c.rotStart with
    | 0, _ => true
    | 1, none => true
    | 1, some t => decide (t + 1000 * msTicks s * c.periodS ≤ s.tm.tick)
    | _, _ => false

/-- CAL_ROTATION_START (R116): the schedule or CAL_RUN starts a rotation. -/
def execCalRotationStart (p : Fin 16) (s : State) : Result :=
  let c := calAt s p.val
  .next (if calLive p.val s ∧ !calSuspended s ∧ c.rotating = none ∧ 0 < spareCount c ∧ rotationDue c s then
    modCal p.val (fun c => { c with
      rotating := some 0, startNext := false, rotMax := none, rotStart := some s.tm.tick, resched := false }) s
  else s)

/-- Have so many microseconds passed since the last step of the port's rotations (R116, R117)? -/
def stepDue (us : Nat) (c : Cal) (s : State) : Bool := c.stepAt.all fun t => decide (t + us * usTicks s ≤ s.tm.tick)

/-- CAL_SWAP_START (R117 step 1): at a tick, 250 us after the one before, 500 us for a pod with one spare (R119), the next input
goes into shadow; one with CAL_HOLD is passed over (R116). A change of schedule takes effect here: the rotation under the old
one goes no further (R120). -/
def execCalSwapStart (p : Fin 16) (s : State) : Result :=
  let c := calAt s p.val
  .next (match c.rotating with
    | none => s
    | some k =>
      if calLive p.val s ∧ !calSuspended s ∧ c.shadow = none ∧ stepDue (if spareCount c ≤ 1 then 500 else 250) c s then
        let s := modCal p.val (fun c => { c with stepAt := some s.tm.tick }) s
        if c.resched then modCal p.val (fun c => { c with rotating := none, resched := false }) s
        else if calHold (actCh s (inputIndex p.val k)) then nextInput p.val k s
        else if c.spares = [] then s
        else modCal p.val (fun c => { c with shadow := some k, shadowDone := false, shadowRes := none }) s
      else s)

/-- The swap of input `k` is aborted (R118, R119): SPa returns to calibration. RESID of CAL_STATUS keeps that of the last swap
that was completed (DESIGN CHOICE, log 32). -/
def abortSwap (p k : Nat) (r : Option Int) (s : State) : State :=
  let n := tabGet (calAt s p).abortRun k 0 + 1
  let s := modCal p (fun c => { c with
    aborts := min 65535 (c.aborts + 1), abortRun := tabMod c.abortRun k fun _ => n, rotMax := worseResid c.rotMax r k,
    spares := c.spares.drop 1, detached := c.detached ++ c.spares.take 1 }) s
  let s := calCairn p 1 k r (raise 6 1 s)
  let s := if n = 3 then
      let s := raise 6 2 (modInput (inputIndex p k) (fun i => { i with stale := true }) s)
      signal 20 (BitVec.ofNat 32 (256 * k + p)) (calCairn p 2 k r s)
    else s
  nextInput p k s

/-- A residual in 0.1 ps as whole units of 1.5625 ps (R100, R117), to nearest, ties down (DESIGN CHOICE, log 32). -/
def residUnits (r : Int) : Int := (16 * r + 124) / 250

/-- Fold a residual into the timing trim of SPa (R117 step 2). -/
def foldResid (p : Nat) (r : Int) (s : State) : State :=
  match (calAt s p).spares with
  | [] => s
  | a :: _ => modCal p (fun c => { c with trims := tabMod c.trims a fun t => (t.1 + residUnits r, t.2 + residUnits r) }) s

/-- The residuals that the passes measured, up to the first that was not and at most three (R117). -/
def measured : List CalPass → List Int
  | [] => []
  | x :: xs => match x.residual with
    | some v => v :: measured xs
    | none => []

/-- CAL_SHADOW_DONE (R117 step 2, R118): after 100 us, the passes of the shadow. A pod that is not ACTIVE has no live changes (R120). The
third pass is not folded in; where a later pass is not measured, earlier folds stay and the last measured residual is the
swap's (DESIGN CHOICE, log 32). -/
def execCalShadowDone (p : Fin 16) (passes : List CalPass) (s : State) : Result :=
  let c := calAt s p.val
  .next (match c.shadow with
    | none => s
    | some k =>
      if c.shadowDone ∨ calSuspended s ∨ !stepDue 100 c s then s
      else
        let rs := if (podAt s p.val).state = .active then (measured passes).take 3 else []
        let last := rs.getLast?
        let s := (rs.take 2).foldl (fun s r => foldResid p.val r s) s
        let bad := rs.length == 3 && match last with
          | some v => decide (30 < v.natAbs)
          | none => false
        if bad then abortSwap p.val k last s
        else modCal p.val (fun c => { c with shadowDone := true, shadowRes := last }) s)

/-- CAL_SWAP (R49, R117 step 3): SPa serves the input from a block boundary at which the levels agree. -/
def execCalSwap (p : Fin 16) (s : State) : Result :=
  let c := calAt s p.val
  .next (match c.shadow, c.spares with
    | some k, a :: rest =>
      if c.shadowDone ∧ !calSuspended s then
        let n := inputIndex p.val k
        let old := (inputAt s n).pair
        let s := modInput n (fun i => { i with pair := a, stale := false }) s
        let s := modCal p.val (fun c => { c with
          spares := rest, detached := c.detached ++ [old], resid := tabMod c.resid k fun _ => c.shadowRes,
          rotMax := worseResid c.rotMax c.shadowRes k, abortRun := tabMod c.abortRun k fun _ => 0 }) s
        nextInput p.val k s
      else s
    | _, _ => s)

/-- CAL_SWAP_ABORT (R118): the levels disagreed at 16 consecutive block boundaries. -/
def execCalSwapAbort (p : Fin 16) (s : State) : Result :=
  let c := calAt s p.val
  .next (match c.shadow with
    | some k => if c.shadowDone ∧ !calSuspended s then abortSwap p.val k c.shadowRes s else s
    | none => s)

/-! ## Reference calibration (R115, R119) -/

/-- The last spare of a pod is lost (R119): rotations stop, every input is stale, F20 once. The input that INFO names is
not stated: a free value (log 7). -/
def noSpare (p : Nat) (s : State) : State :=
  let first := !(calAt s p).noSpareSig
  let s := modCal p (fun c => { c with rotating := none, startNext := false, shadow := none, shadowDone := false, noSpareSig := true }) s
  let s := (List.range 17).foldl (fun s k => modInput (inputIndex p k) (fun i => { i with stale := true }) s) s
  if first then
    let (x, s) := freeBits 8 s
    signal 20 (BitVec.ofNat 32 (256 * x + p)) s
  else s

/-- A detached pair fails its reference calibration (R119): it is taken out of use, CAL_FAIL. The cairn's INPUT is not
stated for a pair: a free value (log 7). -/
def failPair (p pair : Nat) (s : State) : State :=
  let s := raise 6 2 (modCal p (fun c => { c with
    detached := c.detached.filter (· ≠ pair), spares := c.spares.filter (· ≠ pair), failed := c.failed ++ [pair],
    calibrated := c.calibrated ||| 2 ^ pair }) s)
  let (x, s) := freeBits 8 s
  let s := calCairn p 2 x none s
  if spareCount (calAt s p) = 0 then noSpare p s else s

/-- CAL_PAIR_DONE (R115, R117 step 4, R119): the reference calibration of a pair ends. At start-up every pair is calibrated
where it stands; there a spare that fails is treated as R119 treats one that fails in step 4, and a pair in service that fails
stays uncalibrated, so that READY waits (DESIGN CHOICE, log 32). -/
def execCalPairDone (p : Fin 16) (pair : Fin 19) (ok : Bool) (trimU trimL : Int) (s : State) : Result :=
  let set (c : Cal) : Cal := { c with
    trims := tabMod c.trims pair.val (fun _ => (trimU, trimL)), calibrated := c.calibrated ||| 2 ^ pair.val }
  let c := calAt s p.val
  .next (if portLive p.val s ∧ firmwareUp s then
    if pair.val ∈ c.detached then
      if ok then modCal p.val (fun c => { set c with
        detached := c.detached.filter (· ≠ pair.val), spares := c.spares ++ [pair.val] }) s
      else failPair p.val pair.val s
    else if !c.calibrated.testBit pair.val then
      if ok then modCal p.val set s
      else if pair.val ∈ c.spares then failPair p.val pair.val s
      else s
    else s
  else s)

/-! ## CAL_RUN and CAL_STATUS (R122) -/

/-- CAL_RUN's rules (R122). SCHED and PERIOD_S, which the field table gives to SET_SCHEDULE, are not judged under ROTATE_NOW;
reserved FLAGS bits are, under either OP (DESIGN CHOICE, log 32). -/
def calRunCmd : Cmd := fun q s =>
  let mask := fieldAt q 0 2
  let op := fieldAt q 2 1
  let sched := fieldAt q 3 1
  let period := fieldAt q 4 2
  let ps := bitsSet 16 mask
  if ps.any fun p => !s.dev.variant.hasPod p then quit stUnsupported s
  else if mask = 0 ∨ 1 < op ∨ (op = 1 ∧ (2 < sched ∨ (sched = 1 ∧ period = 0))) ∨ 1 < fieldAt q 6 1 ∨ !zeroAt q 7 249 then
    quit stBadArg s
  else if op = 0 then
    if calSuspended s then quit stState s
    else
      let ps := ps.filter fun p => decide (0 < spareCount (calAt s p))
      let s := ps.foldl (fun s p => modCal p (fun c => { c with startNext := c.startNext || c.rotating.isNone }) s) s
      (s, some (okWith (leBytes 2 (maskOf ps))))
  else
    let s := ps.foldl (fun s p => modCal p (fun c => { c with
      resched := c.resched || (c.rotating.isSome && decide (c.sched ≠ sched ∨ (sched = 1 ∧ c.periodS ≠ period))),
      sched := sched, periodS := if sched = 1 then period else c.periodS, rotCairn := bitOf 0 (fieldAt q 6 1) }) s) s
    (s, some (okWith (leBytes 2 mask)))

/-- CAL_RUN (R122). -/
def execCalRun (m : Fin 8) (s : State) : Result := .next (command m.val 0x0201 calRunCmd s)

/-- The response of CAL_STATUS (R122). -/
def calStatusBody (p : Nat) (s : State) : List Byte :=
  let c := calAt s p
  let inp (k : Nat) : Input := inputAt s (inputIndex p k)
  leBytes 1 c.sched ++
    leBytes 1 (b2n c.rotCairn + 2 * b2n (calSuspended s) + 4 * b2n (spareCount c == 1) + 8 * b2n (spareCount c == 0)) ++
    leBytes 2 c.periodS ++ leBytes 4 c.rotations.toNat ++ t0Bytes c.lastRot ++
    leBytes 4 (maskOf ((List.range 17).filter fun k => (inp k).stale)) ++ leBytes 2 c.maxResid ++ leBytes 2 c.aborts ++
    leBytes 1 (c.shadow.getD 0xFF) ++ zeros 3 ++ c.resid.toList.flatMap (fun r => leBytes 2 (residBits r)) ++ zeros 2 ++
    (List.range 17).flatMap fun k => leBytes 1 (inp k).pair

def calStatusCmd : Cmd := fun q s =>
  let p := fieldAt q 0 1
  if p < 16 ∧ !s.dev.variant.hasPod p then quit stUnsupported s
  else if 15 < p ∨ !zeroAt q 1 255 then quit stBadArg s
  else (s, some (okWith (calStatusBody p s)))

/-- CAL_STATUS (R122). -/
def execCalStatus (m : Fin 8) (s : State) : Result := .next (command m.val 0x0202 calStatusCmd s)

end Sys2Proof.Machine
end

