-- ==== Sys2Proof/Machine/Chan.lean ====
section
/-! DEFINITION. The channel windows, the group area and their broadcast and group aliases (R123-R136). -/

namespace Sys2Proof.Machine

/-! ## One window (R123-R132) -/

/-- The writable bits of the window register at an offset; 0 where the register is read-only or does not exist for the
input (R123, R125-R128, R131, R132, R177). -/
def chWritable (n r : Nat) : Word :=
  match r with
  | 0x00 => 0x03FF03FF
  | 0x04 => 0x800003FF
  | 0x08 => 0x00000FFF
  | 0x0C => 0x00000101
  | 0x10 => 0x001F03FF
  | 0x14 => 0x00FFFFFF
  | 0x18 => 0x00FFFFFF
  | 0x1C => 0xFFFFFFFF
  | 0x30 => if n < 256 then 0 else 0x00000F37
  | 0x34 => if n < 256 then 0 else 0xFFFF03FF
  | _ => 0

/-- The staged register of a window at an offset. -/
def chReg (c : ChCfg) (r : Nat) : Word :=
  match r with
  | 0x00 => c.thr
  | 0x04 => c.vt
  | 0x08 => c.deskew
  | 0x0C => c.ctrl
  | 0x10 => c.qual[0]
  | 0x14 => c.qual[1]
  | 0x18 => c.qual[2]
  | 0x1C => c.qual[3]
  | 0x30 => c.state
  | 0x34 => c.stateWin
  | _ => 0

def setChReg (c : ChCfg) (r : Nat) (v : Word) : ChCfg :=
  match r with
  | 0x00 => { c with thr := v }
  | 0x04 => { c with vt := v }
  | 0x08 => { c with deskew := v }
  | 0x0C => { c with ctrl := v }
  | 0x10 => { c with qual := c.qual.set 0 v }
  | 0x14 => { c with qual := c.qual.set 1 v }
  | 0x18 => { c with qual := c.qual.set 2 v }
  | 0x1C => { c with qual := c.qual.set 3 v }
  | 0x30 => { c with state := v }
  | 0x34 => { c with stateWin := v }
  | _ => c

/-- The writable bits of a register take the values that `f` gives them. -/
def updBits (w old : Word) (f : Word → Word) : Word := (old &&& ~~~w) ||| (f old &&& w)

/-- A write to the window of input `n` enters the staged image (R124); an absent input's window ignores it (R14). -/
def chWrite (n r : Nat) (f : Word → Word) (s : State) : State :=
  if s.dev.variant.hasInput n then
    modStaged (fun m => { m with inputs := tabMod m.inputs n fun c => setChReg c r (updBits (chWritable n r) (chReg c r) f) }) s
  else s

/-- CH_STATUS (R129); the flags that describe settings refer to the active image (R124). -/
def chStatus (n : Nat) (s : State) : Nat :=
  let i := inputAt s n
  let c := actCh s n
  i.pair * 2 ^ 24 + b2n i.stale * 2 ^ 15 + b2n (s.dev.variant.hasInput n && deskewClamped s n) * 2 ^ 14 +
    b2n (decide (thrU c < thrL c + 8)) * 2 ^ 13 + b2n (decide (thrU c < thrL c)) * 2 ^ 12 + 8 * b2n (inputAbsent n s) +
    4 * b2n i.level + 2 * b2n i.u + b2n i.l

/-- A read of the window of input `n` (R123-R132). -/
def chRead (n r : Nat) (s : State) : Word :=
  let i := inputAt s n
  let q := podAt s (podOf n)
  if !s.dev.variant.hasInput n then 0
  else match r with
    | 0x20 => (actCh s n).thr
    | 0x24 => BitVec.ofNat 32 (chStatus n s)
    | 0x28 => i.edgeCnt
    | 0x2C => BitVec.ofNat 32 (b2n i.valid * 2 ^ 31 + i.transit)
    | 0x30 => if n < 256 then 0 else chReg (tabGet s.cfg.staged.inputs n s.cfg.staged.inputs[0]) r
    | 0x34 => if n < 256 then 0 else chReg (tabGet s.cfg.staged.inputs n s.cfg.staged.inputs[0]) r
    | 0x38 => if n < 256 then 0 else q.stateCnt
    | 0x3C => if n < 256 then 0 else q.clkDrop
    | _ => chReg (tabGet s.cfg.staged.inputs n s.cfg.staged.inputs[0]) r

/-! ## The group area (R134-R136) -/

/-- The alias a BAR0 offset lies in. -/
inductive Alias where
  | all
  | pod (p : Nat)
  | user (u : Nat)
  deriving DecidableEq, Repr

def aliasOf (off : Nat) : Option Alias :=
  if 0x108000 ≤ off ∧ off < 0x108040 then some .all
  else if 0x108040 ≤ off ∧ off < 0x108440 then some (.pod ((off - 0x108040) / 0x40))
  else if 0x108440 ≤ off ∧ off < 0x108640 then some (.user ((off - 0x108440) / 0x40))
  else none

/-- Is input `n` set in GRPMASKu? -/
def inGroup (u n : Nat) (s : State) : Bool := (tabGet s.grpMask (9 * u + n / 32) 0).getLsbD (n % 32)

/-- The present members of an alias in ascending input index (R134). -/
def members (a : Alias) (s : State) : List Nat :=
  (List.range 272).filter fun n => s.dev.variant.hasInput n && match a with
    | .all => true
    | .pod p => podOf n == p
    | .user u => inGroup u n s

/-- Offset within a 64-byte window. -/
def winReg (off : Nat) : Nat := off % 0x40

/-- One alias write is a single update of the staged image (R134, R135). -/
def aliasWrite (a : Alias) (off : Nat) (f : Word → Word) (s : State) : State :=
  (members a s).foldl (fun s n => chWrite n (winReg off) f s) s

/-- BCAST_AGREE after an alias read of a register by members whose first value is `v` (R136). -/
def agreeWord (ns : List Nat) (r : Nat) (v : Word) (s : State) : Word :=
  match ns.find? fun n => chRead n r s != v with
  | none => 0x00018000
  | some n => BitVec.ofNat 32 (0x00010000 + n)

/-- An alias read (R136): the value of the lowest-numbered present member, and BCAST_AGREE. -/
def aliasRead (a : Alias) (off : Nat) (s : State) : Word × State :=
  match a, members a s with
  | .pod _, [] => (0, s)
  | _, [] => (0, { s with bcastAgree := 0x00018000 })
  | _, n :: ns =>
    let v := chRead n (winReg off) s
    (v, { s with bcastAgree := agreeWord (n :: ns) (winReg off) v s })

/-- The writable bits of GRPMASKu_j. -/
def grpWritable (j : Nat) : Word := if j = 8 then 0xFFFF else 0xFFFFFFFF

/-- The GRPMASK register at a BAR0 offset: u and j. -/
def grpOf (off : Nat) : Option (Nat × Nat) :=
  if 0x108800 ≤ off ∧ off < 0x108A00 ∧ (off - 0x108800) % 0x40 < 0x24 then
    some ((off - 0x108800) / 0x40, (off - 0x108800) % 0x40 / 4)
  else none

/-- A write to the channel windows and the group area at an aligned BAR0 offset: `f` gives the new value of a register,
of which the writable bits are taken. -/
def chanWrite (off : Nat) (f : Word → Word) (s : State) : State :=
  if off < 0x104400 then chWrite ((off - 0x100000) / 0x40) (winReg off) f s
  else match aliasOf off, grpOf off with
    | some a, _ => aliasWrite a off f s
    | none, some (u, j) =>
      { s with grpMask := tabMod s.grpMask (9 * u + j) fun w => updBits (grpWritable j) w f }
    | none, none => s

/-- A read of the channel windows and the group area, without the side effect of an alias read. -/
def chanRead (off : Nat) (s : State) : Word :=
  if off < 0x104400 then chRead ((off - 0x100000) / 0x40) (winReg off) s
  else if off = 0x108C00 then s.bcastAgree
  else match aliasOf off, grpOf off with
    | some a, _ => (aliasRead a off s).1
    | none, some (u, j) => tabGet s.grpMask (9 * u + j) 0
    | none, none => 0

/-- A write's value merged into a register: the enabled bytes of `v` (R533). -/
def mergeInto (v : Word) (be : BitVec 4) (old : Word) : Word := (old &&& ~~~(beMask be)) ||| (v &&& beMask be)

/-! ## Commands -/

/-- CH_ALIAS_WRITE (R134): a write through a channel alias at a BAR0 offset. -/
def execChAliasWrite (off : Nat) (v : Word) (be : BitVec 4) (s : State) : Result :=
  match aliasOf off with
  | none => .next s
  | some a => .next (barWrite (fun _ => aliasWrite a off (mergeInto v be)) s)

/-- CH_ALIAS_READ (R136): a read through a channel alias. -/
def execChAliasRead (off : Nat) (s : State) : Result :=
  match aliasOf off with
  | none => .next s
  | some a => .next (barRead 0 off 4 (fun s =>
      let r := aliasRead a off s
      emitOut (.regData off (r.1.zeroExtend 64)) r.2) s)

end Sys2Proof.Machine
end

