-- ==== Sys2Proof/Machine/Ring.lean ====
section
/-! DEFINITION. The block encoder and the capture ring: rows, losses, pointers, reads, the view through BAR2, RING_CFG
(R27-R30, R44, R138-R173). -/

namespace Sys2Proof.Machine

/-! ## Block contents (R139-R146) -/

/-- The output that the events picked by `sel` leave before an instant. -/
def outBefore (sel : CompEv → Bool) (b : Bool) (es : List CompEv) (t : Nat) : Bool :=
  es.foldl (fun b e => if sel e && decide (e.t < t) then e.out else b) b

/-- What stands on the three signals of input `k` before an instant: level, U, L. Where trims put the L and U times of one
input in another order than their grid steps, the level changes with the event that changed it on the way in (DESIGN CHOICE,
log 29). -/
def levelBefore (q : Pod) (es : List CompEv) (k t : Nat) : Bool :=
  outBefore (fun e => e.input == k && e.changes) (q.base.level.testBit k) es t
def upperBefore (q : Pod) (es : List CompEv) (k t : Nat) : Bool :=
  outBefore (fun e => e.input == k && e.upper) (q.base.u.testBit k) es t
def lowerBefore (q : Pod) (es : List CompEv) (k t : Nat) : Bool :=
  outBefore (fun e => e.input == k && !e.upper) (q.base.l.testBit k) es t

/-- The first sample of row `r` from which the pod is ABSENT, counted in the row; 256 when it stays present (R142). -/
def stopSample (r : Nat) (q : Pod) : Nat :=
  match q.capture.bind fun c => c.gone with
  | some g => min 256 (g - 256 * r)
  | none => 256

/-- The events of a pod before its inputs became ABSENT. -/
def liveEvs (q : Pod) : List CompEv :=
  match q.capture.bind fun c => c.gone with
  | some g => q.evs.filter fun e => decide (e.t < 256 * g)
  | none => q.evs

/-- A bit plane of 256 samples (R141). -/
def plane (f : Nat → Bool) : List Byte :=
  (List.range 32).map fun j => BitVec.ofNat 8 (maskOf ((List.range 8).filter fun b => f (8 * j + b)))

/-- 17 planes of one signal; samples from `stop` on and inputs outside `en` are 0 (R142). -/
def planes (en t0 stop : Nat) (f : Nat → Nat → Bool) : List Byte :=
  (List.range 17).flatMap fun k =>
    plane fun i => en.testBit k && decide (i < stop) && f k (t0 + 256 * i + 1)

/-- A RAW block (R141). -/
def rawBlock (dual : Bool) (en r : Nat) (q : Pod) : List Byte :=
  let es := liveEvs q
  let t0 := 65536 * r
  if dual then
    planes en t0 (stopSample r q) (upperBefore q es) ++ planes en t0 (stopSample r q) (lowerBefore q es)
  else planes en t0 (stopSample r q) (levelBefore q es)

/-- An edge record of R144 under way: its time, its input, its word. -/
abbrev EdgeRec := Nat × Nat × Nat

/-- Does R99 order record `x` before `y` of the same input at the same time: L before U on a rise, U before L on a fall? The
comparator is bit 10 of the record's word, its new output bit 9. -/
def edgeFirst (x y : EdgeRec) : Bool :=
  x.2.2.testBit 9 == y.2.2.testBit 9 && x.2.2.testBit 10 != x.2.2.testBit 9 && y.2.2.testBit 10 == y.2.2.testBit 9

/-- Insert a record in order of time, then input, then R99 (R145). -/
def insertEdge (x : EdgeRec) : List EdgeRec → List EdgeRec
  | [] => [x]
  | y :: ys =>
    if y.1 < x.1 ∨ (y.1 = x.1 ∧ (y.2.1 < x.2.1 ∨ (y.2.1 = x.2.1 ∧ !edgeFirst x y))) then y :: insertEdge x ys
    else x :: y :: ys

/-- The record of one comparator event (R144). -/
def edgeRec (e : CompEv) : EdgeRec :=
  (e.t, e.input, e.t % 65536 * 65536 + e.input * 2048 + b2n e.upper * 1024 + b2n e.out * 512)

/-- The edge records of row `r`, an ABSENT marker last (R144, R145). -/
def edgeWords (dual : Bool) (en r : Nat) (q : Pod) : List Nat :=
  let t0 := 65536 * r
  let es := (liveEvs q).filter fun e =>
    decide (t0 ≤ e.t ∧ e.t < t0 + 65536) && (dual || e.changes) && en.testBit e.input
  let ws := (es.foldl (fun l e => insertEdge (edgeRec e) l) []).map fun x => x.2.2
  if stopSample r q < 256 then ws ++ [stopSample r q * 2 ^ 24 + 31 * 2048] else ws

/-- A mask of 17 inputs. -/
def bits17 (f : Nat → Bool) : Nat := maskOf ((List.range 17).filter f)

/-- An EDGE block (R143). -/
def edgeBlock (dual suspect : Bool) (en r : Nat) (q : Pod) : List Byte :=
  let t0 := 65536 * r
  let ws := edgeWords dual en r q
  let es := liveEvs q
  let lv := bits17 fun k => en.testBit k && levelBefore q es k t0
  let u := if dual then bits17 fun k => en.testBit k && upperBefore q es k t0 else 0
  let l := if dual then bits17 fun k => en.testBit k && lowerBefore q es k t0 else 0
  leBytes 1 0x21 ++ leBytes 1 (b2n dual + 2 * b2n suspect) ++ leBytes 2 ws.length ++
    leBytes 8 (lv + u * 2 ^ 17 + l * 2 ^ 34) ++ leBytes 3 (bits17 fun k => !en.testBit k) ++ zeros 1 ++
    ws.flatMap (leBytes 4)

/-- The times of a list that fall in row `r`, counted and saturated (R146). -/
def countIn (r : Nat) (l : List Nat) : Nat := min 65535 (l.filter fun t => t / 65536 = r).length

/-- A STATE block (R146). -/
def stateBlock (suspect : Bool) (en r : Nat) (q : Pod) : List Byte :=
  let t0 := 65536 * r
  let xs := q.samples.filter fun x => decide (t0 ≤ x.ts ∧ x.ts < t0 + 256 * stopSample r q)
  leBytes 1 0x22 ++ leBytes 1 (2 * b2n suspect) ++ leBytes 2 xs.length ++
    leBytes 2 (maskOf ((List.range 16).filter fun k => !en.testBit k)) ++ leBytes 2 (countIn r q.dropped) ++
    leBytes 2 (countIn r q.skipped) ++ zeros 6 ++
    xs.flatMap fun x => leBytes 4 (x.data % 65536 * 65536 + b2n x.viol * 32768 + (x.ts - t0) / 2)

/-- S_RAW (R139). -/
def rawSize (dual : Bool) : Nat := if dual then 1088 else 544

/-- Is the capture level of the active image DUAL (R138)? -/
def dualLevel (s : State) : Bool := s.cfg.active.level == 1

/-- Does pod `p` contribute a block to row `r` (R139, R142)? -/
def contributes (r p : Nat) (s : State) : Bool :=
  s.dev.variant.hasPod p && enabledMask s p != 0 && match (podAt s p).capture with
  | none => false
  | some c => decide (c.first ≤ r) && match c.gone with
    | none => true
    | some g => decide (256 * r < g)

/-- The block of pod `p` in row `r`: its frame TYPE and its bytes (R139). -/
def podBlock (r p : Nat) (s : State) : Nat × List Byte :=
  let q := podAt s p
  let en := enabledMask s p
  let dual := dualLevel s
  let suspect := suspectRow r s
  if podStateMode s p then (0x22, stateBlock suspect en r q)
  else if 16 + 4 * (edgeWords dual en r q).length < rawSize dual then (0x21, edgeBlock dual suspect en r q)
  else (0x20, rawBlock dual en r q)

/-- What a SUMMARY counts of input `k` of a pod in row `r` (R255). -/
def inCount (en r : Nat) (q : Pod) (k : Nat) : InCount :=
  let t0 := 65536 * r
  let n := stopSample r q
  if en.testBit k then
    let es := (liveEvs q).filter fun e => e.input == k && e.changes
    let lv (i : Nat) : Bool := levelBefore q es k (t0 + 256 * i + 1)
    { high := ((List.range n).filter lv).length,
      changes := (es.filter fun e => decide (t0 ≤ e.t ∧ e.t < t0 + 65536)).length,
      first := lv 0, last := lv (n - 1), absent := decide (n < 256) }
  else { high := 0, changes := 0, first := false, last := false, absent := true }

/-- The descriptors of blocks laid one after another from an offset on. -/
def layBlocks : Nat → List (Nat × Nat × List Byte) → List BlockDesc
  | _, [] => []
  | o, (p, ty, b) :: bs => { pod := p, off := o, len := b.length, type := ty } :: layBlocks (o + b.length) bs

/-- A multiple of 64 at or above a length. -/
def pad64 (n : Nat) : Nat := 64 * ((n + 63) / 64)

/-- Row `r` from the blocks of its pod groups, padded (R147). -/
def buildRow (r : Nat) (bs : List (Nat × Nat × List Byte)) (s : State) : RowDesc × List Byte :=
  let bytes := bs.flatMap fun b => b.2.2
  let n := pad64 bytes.length
  let d : RowDesc :=
    { row := r, pos := 0, len := n, anchor := false, dual := dualLevel s, podMask := maskOf (bs.map fun b => b.1),
      rawMask := maskOf ((bs.filter fun b => b.2.1 = 0x20).map fun b => b.1), blocks := layBlocks 0 bs,
      t0 := t0Of (timeAOf s (65536 * r)), suspect := suspectRow r s,
      counts := bs.map fun b =>
        { pod := b.1, ins := (List.range 17).map fun k => inCount (enabledMask s b.1) r (podAt s b.1) k } }
  (d, padTo n bytes)

/-! ## Settling and losses (R155, R156, R236, R239) -/

/-- Has a row settled (R236)? -/
def rowSettled (r : Nat) (s : State) : Bool := decide (r < settleRow s)

/-- The GAP frame of a finished episode (R155, R156), none where none of its rows is left to it; under WINDOW the rows lost to
the record have their own (R239). -/
def endEpisode (e : Option Episode) (s : State) : State :=
  match e with
  | none => s
  | some e =>
    if e.next ≤ e.first ∨ (e.cause = 2 ∧ windowed e.first s) then s
    else pushGap e.cause 0 e.pods 0xFF (256 * e.first) (some (256 * e.next)) s

/-- An episode of lost rows begins: counted, its event, its fault (R155, R156). -/
def startEpisode (cause : Nat) (s : State) : State :=
  let s := { s with ring := { s.ring with ovrCnt := s.ring.ovrCnt + 1 } }
  if cause = 2 then signal 16 0 (raise 8 2 s) else signal 17 0 (raise 8 3 s)

/-- The episode in progress of a cause. -/
def episodeOf (cause : Nat) (s : State) : Option Episode := if cause = 2 then s.ring.episode else s.ring.overflow

def setEpisode (cause : Nat) (e : Option Episode) (s : State) : State :=
  if cause = 2 then { s with ring := { s.ring with episode := e } } else { s with ring := { s.ring with overflow := e } }

/-- Count a lost row; an overrun under WINDOW counts once the row settles in a window (R239). -/
def countLost (cause row pods : Nat) (s : State) : State :=
  if cause = 2 ∧ windowed row s then { s with ring := { s.ring with lost := s.ring.lost ++ [(row, pods)] } }
  else { s with ring := { s.ring with lostRows := min (2 ^ 64 - 1) (s.ring.lostRows + 1) } }

/-- A row is lost by overrun (cause 2) or encoder overflow (cause 3): rows with consecutive numbers form one episode
(R155, R156). -/
def loseRow (cause row pods : Nat) (s : State) : State :=
  let s := countLost cause row pods s
  match episodeOf cause s with
  | some e =>
    if e.next = row then setEpisode cause (some { e with next := row + 1, pods := e.pods ||| pods }) s
    else
      setEpisode cause (some { first := row, next := row + 1, pods := pods, cause := cause })
        (startEpisode cause (endEpisode (some e) s))
  | none =>
    setEpisode cause (some { first := row, next := row + 1, pods := pods, cause := cause }) (startEpisode cause s)

/-! ## ROW_ENCODE -/

/-- The bytes the staging buffer holds (R156). -/
def stagingBytes (s : State) : Nat := (s.ring.staging.map fun x => x.1.len).sum

/-- A completed row enters the staging buffer of 512 KiB, or is discarded (R156). -/
def stageRow (x : RowDesc × List Byte) (s : State) : State :=
  if stagingBytes s + x.1.len ≤ 0x80000 then { s with ring := { s.ring with staging := s.ring.staging ++ [x] } }
  else loseRow 3 x.1.row x.1.podMask s

/-- What a pod keeps once row `r` has been encoded. -/
def afterRow (r : Nat) (q : Pod) : Pod :=
  match q.capture with
  | none => q
  | some c =>
    if c.first ≤ r then
      let e := 65536 * (r + 1)
      let gone := match c.gone with
        | some g => decide (g ≤ 256 * (r + 1))
        | none => false
      if gone then leaveCapture q
      else
        let q := pruneEvs (e - 1024) q
        let old := q.samples.filter fun x => decide (x.ts < e)
        { q with
          samples := old.drop (old.length - 1) ++ q.samples.filter (fun x => decide (e ≤ x.ts)),
          dropped := q.dropped.filter (fun t => decide (e ≤ t)), skipped := q.skipped.filter (fun t => decide (e ≤ t)) }
    else q

/-- What the encoder sees of the period that has ended: the fabric evaluated to its last sample, its clock edges judged. -/
def encodeView (s : State) : State :=
  let r := s.ring.capRow
  (List.range 16).foldl (fun s p => if clocked p s then judgeClocks p (65536 * (r + 1) - 1) s else s)
    (advance (256 * (r + 1) - 1) s)

/-- The blocks of the pod groups that contribute to row `r` (R139). -/
def rowBlocks (r : Nat) (s : State) : List (Nat × Nat × List Byte) :=
  ((List.range 16).filter fun p => contributes r p s).map fun p => (p, podBlock r p s)

/-- The pod groups that capture holds in row `r`, those without an enabled input included (R255). -/
def heldIn (r : Nat) (s : State) : Nat :=
  maskOf ((List.range 16).filter fun p => match (podAt s p).capture with
    | some c => decide (c.first ≤ r) && match c.gone with
      | some g => decide (256 * r < g)
      | none => true
    | none => false)

/-- Note which pod groups capture holds from row `r` on, where that has changed. -/
def noteCapture (r : Nat) (s : State) : List (Nat × Nat) :=
  if (s.ring.capHist.head?.map fun x => x.2) = some (heldIn r s) then s.ring.capHist else (r, heldIn r s) :: s.ring.capHist

/-- Encode the next period: blocks of the pod groups, the row, the staging buffer (R139, R147, R156). -/
def encodeRow (s : State) : State :=
  let r := s.ring.capRow
  let s := encodeView s
  let bs := rowBlocks r s
  let s := if bs = [] then s else stageRow (buildRow r bs s) s
  { s with ring := { s.ring with capRow := r + 1, capHist := noteCapture r s }, pods := s.pods.map (afterRow r) }

/-- Has the next period ended with capture on and every event of it arrived, before an accepted boundary and before a DCO failure
(R33, R34, R100, R449)? -/
def rowDue (s : State) : Bool :=
  acquiring s && s.ring.intake && decide (256 * (s.ring.capRow + 1) + holdBack s ≤ s.tm.ax5) &&
    (s.ret.heldRow.all fun r => decide (s.ring.capRow < r)) && match s.ret.boundary with
  | some b => s.dev.acq == .draining || decide (s.ring.capRow < b.row)
  | none => true

/-- ROW_ENCODE (R147): the encoder assembles the row of the period that has ended. -/
def execRowEncode (s : State) : Result := .next (if rowDue s then encodeRow s else s)

/-! ## Pointers (R29, R151, R237, R238) -/

/-- X passes every row it may, in order, unless an unsettled row in a window holds it, and H and the watermarks follow (R29,
R238). -/
def passX (s : State) : State :=
  let x := if keptFrom s < s.ring.X then s.ring.X
    else s.ring.rows.foldl (fun x d => if d.pos = x ∧ passable d s then d.pos + d.len else x) s.ring.X
  evalMarks (moveH { s with ring := { s.ring with X := x } })

/-! ## RING_ROW_WRITE (R149-R155) -/

/-- The line numbers of `n` bytes from a ring position. -/
def linesOf (pos n : Nat) (s : State) : List Nat :=
  (List.range (n / 64)).map fun i => (pos / 64 + i) % (s.dev.variant.ringCap / 64)

/-- Under OVERWRITE_WITH_GAP, X advances over the rows that the write of `n` bytes overwrites; those that X has not passed or
that lie in a window are lost (R153, R238). -/
def skipRows (n : Nat) (s : State) : State :=
  let lim := s.ring.W + n - s.dev.variant.ringCap
  let x := match s.ring.rows.find? fun d => decide (lim ≤ d.pos) with
    | some d => d.pos
    | none => s.ring.W
  let gone := s.ring.rows.filter fun d => decide (d.pos < x) && (decide (s.ring.X ≤ d.pos) || !passable d s)
  let s := gone.foldl (fun s d => loseRow 2 d.row d.podMask s) s
  evalMarks { s with ring := { s.ring with X := max s.ring.X x } }

/-- Write a row at W with its tags (R149, R150, R152). -/
def placeRow (d : RowDesc) (bytes : List Byte) (s : State) : State :=
  let c := s.dev.variant.ringCap
  let w := s.ring.W + d.len
  let ls := linesOf s.ring.W d.len s
  let s := { s with ring := { s.ring with
    mem := memWriteMod c s.ring.mem s.ring.W (padTo d.len bytes),
    rows := (s.ring.rows.filter fun x => decide (w ≤ x.pos + c)) ++ [{ d with pos := s.ring.W }],
    stray := (s.ring.rows.find? fun x => x.anchor && w == x.pos + 64 + c).map fun x => (x.pos + 64, x.row),
    W := w, wRow := some d.row, fresh := false, windowBytes := s.ring.windowBytes + d.len,
    ceLines := s.ring.ceLines.filter fun l => !ls.contains l,
    ueLines := s.ring.ueLines.filter fun l => !ls.contains l } }
  evalMarks (moveH s)

/-- Is the row an anchor row (R148, R149)? -/
def isAnchor (r : Nat) (s : State) : Bool :=
  s.ring.fresh || r % 65536 == 0 || match s.ring.wRow with
  | some n => n + 1 != r
  | none => true

/-- The capture write takes a row from the staging buffer (R152-R154). -/
def writeRow (d : RowDesc) (bytes : List Byte) (s : State) : State :=
  let a := isAnchor d.row s
  let d := { d with anchor := a, len := if a then max 128 d.len else d.len }
  if s.ring.W + d.len - keptFrom s ≤ s.dev.variant.ringCap then placeRow d bytes s
  else if s.cfg.active.hold then loseRow 2 d.row d.podMask s
  else placeRow d bytes (skipRows d.len s)

/-- RING_ROW_WRITE (R152). -/
def execRingRowWrite (s : State) : Result :=
  .next (match s.ring.staging with
    | [] => s
    | (d, b) :: rest =>
      if acquiring s then writeRow d b { s with ring := { s.ring with staging := rest } } else s)

/-- RING_RATE_EVAL (R44, R45): 1,024 blocks have ended. -/
def execRingRateEval (s : State) : Result :=
  let n := s.ring.windowBytes
  let s := { s with ring := { s.ring with rateBytes := n, windowBytes := 0, rate := n * 10000 / 1048576 } }
  .next (if ltrMoved s then sendLtr s else s)

/-! ## Errors of ring lines (R159-R161) -/

/-- The position of a line's first byte as the ring holds it now, none where it is unwritten (R163). -/
def linePos (l : Nat) (s : State) : Option Nat :=
  let c := s.dev.variant.ringCap
  let back := (s.ring.W + c - 64 - 64 * l) % c
  if c ≤ 64 * l ∨ s.ring.W < back + 64 then none
  else if s.ring.W - 64 - back < s.ring.base then none
  else some (s.ring.W - 64 - back)

/-- A corrected error (R160). The line keeps its wrong bit until scrub or a write of the line puts it right (R162). -/
def correctedLine (s : State) (l : Nat) : State :=
  let s := { s with ring := { s.ring with
    eccCe := s.ring.eccCe + 1, eccAddr := BitVec.ofNat 64 (64 * l), ceCount := s.ring.ceCount + 1,
    ceLines := if s.ring.ceLines.contains l then s.ring.ceLines else s.ring.ceLines ++ [l] } }
  if s.ring.ceLimit < s.ring.ceCount ∧ !s.ring.ceSignalled then
    signal 9 0 { s with ring := { s.ring with ceSignalled := true } }
  else s

/-- An uncorrectable line (R161): counted, G8.4, and F8 when it lies at or after H. -/
def badLine (s : State) (l : Nat) : State :=
  let s := { s with ring := { s.ring with
    eccUe := s.ring.eccUe + 1, eccAddr := BitVec.ofNat 64 (2 ^ 63 + 64 * l),
    ueLines := if s.ring.ueLines.contains l then s.ring.ueLines else s.ring.ueLines ++ [l] } }
  let s := raise 8 4 s
  match linePos l s with
  | some p => if ringH s ≤ p then signal 8 (BitVec.ofNat 32 (l % 2 ^ 27)) s else s
  | none => s

/-- The lines among `ls` that a read finds uncorrectable, besides what the read reports itself. -/
def badAmong (ls ue : List Nat) (s : State) : List Nat := ls.filter fun l => ue.contains l || s.ring.ueLines.contains l

/-- The lines among `ls` with one wrong bit and no more, besides what the read reports itself. -/
def fixedAmong (ls fixed bad : List Nat) (s : State) : List Nat :=
  ls.filter fun l => (fixed.contains l || s.ring.ceLines.contains l) && !bad.contains l

/-- The lines of a read's report that it finds with a given error (R160, R161). -/
def linesWith (e : EccErr) (errs : List (Nat × EccErr)) : List Nat := (errs.filter fun x => x.2 = e).map fun x => x.1

/-- Account what a read of lines finds: `fixed` are the lines it reports as corrected (R160, R161). -/
def readLines (ls fixed bad : List Nat) (s : State) : State :=
  bad.foldl badLine ((fixedAmong ls fixed bad s).foldl correctedLine s)

/-! ## RET_ROW_READ (R151, R161, R237, R238) -/

/-- The next row that a first read takes. -/
def nextRead (s : State) : Option RowDesc :=
  s.ring.rows.find? fun d => decide (s.ret.readRow ≤ d.row ∧ s.ring.X ≤ d.pos)

/-- Does a row belong to the epoch being emitted (R34 step 7: rows of a new epoch wait)? -/
def ofEpoch (r : Nat) (s : State) : Bool :=
  match s.ret.cur with
  | none => false
  | some e => decide (e.firstRow ≤ r) && match s.ret.boundary with
    | some b => decide (r < b.row)
    | none => true

/-- May the row be read now (R237, R238)? The input buffer holds one row that awaits its emission. -/
def mayRead (d : RowDesc) (s : State) : Bool :=
  ofEpoch d.row s &&
    (if windowed d.row s then decide (256 * (d.row + 2) ≤ s.tm.ax5)
     else rowSettled d.row s && s.ret.rowsRead.isEmpty)

/-- Does some lost line of a row meet the bytes `[off, off + n)` of the row? -/
def touches (bad : Nat → Bool) (off n : Nat) : Bool :=
  (List.range ((off + n - 1) / 64 + 1 - off / 64)).any fun i => bad (off / 64 + i)

/-- The blocks that a lost line takes; a lost header of an EDGE or STATE block takes the rest of the row (R161). -/
def lostBlocks (bad : Nat → Bool) : Bool → List BlockDesc → List Nat
  | _, [] => []
  | rest, b :: bs =>
    let hdr := b.type != 0x20 && touches bad b.off 16
    if rest || touches bad b.off b.len then b.pod :: lostBlocks bad (rest || hdr) bs else lostBlocks bad false bs

/-- What of the blocks in `set` a read with uncorrectable lines leaves of a row, and the GAP frames of the rest (R161, R257):
none is written where `gaps` is false. -/
def salvage (d : RowDesc) (bad : List Nat) (set : Nat) (gaps : Bool) (s : State) : RowDesc × State :=
  let ls := linesOf d.pos d.len s
  let isBad (i : Nat) : Bool := bad.contains (ls.getD i 0)
  let b := 256 * d.row
  let e := some (256 * (d.row + 1))
  let keep (x : BlockDesc) : Bool := set.testBit x.pod
  if bad = [] then ({ d with blocks := d.blocks.filter keep }, s)
  else if isBad 0 then
    ({ d with blocks := [], counts := [] }, if gaps then pushGap 4 0 (d.podMask &&& set) 0xFF b e s else s)
  else
    let gone := (lostBlocks isBad false d.blocks).filter set.testBit
    ({ d with
        blocks := d.blocks.filter (fun x => keep x && !gone.contains x.pod),
        counts := d.counts.filter (fun x => !gone.contains x.pod) },
      if gaps then gone.foldl (fun s p => pushGap 4 1 (2 ^ p) p b e s) s else s)

/-- The bytes of a row in the ring. -/
def rowBytes (d : RowDesc) (s : State) : List Byte := memReadMod s.dev.variant.ringCap s.ring.mem d.pos d.len

/-- The first read of a row completes (R151). -/
def readRow (d : RowDesc) (errs : List (Nat × EccErr)) (s : State) : State :=
  let ls := linesOf d.pos d.len s
  let bad := badAmong ls (linesWith .uncorrectable errs) s
  let bytes := if windowed d.row s then [] else rowBytes d s
  let s := readLines ls (linesWith .corrected errs) bad s
  let r := salvage d bad 0xFFFF (!windowed d.row s) s
  let s := r.2
  passX { s with ret := { s.ret with rowsRead := s.ret.rowsRead ++ [(r.1, bytes)], readRow := d.row + 1 } }

/-! ## Scrub (R160, R162) -/

/-- The scrub settings of memory `m` (R585). -/
def scrubOf (m : Nat) (s : State) : Scrub :=
  tabGet s.mem.scrub m { enable := false, passS := 0, passes := 0, lastMs := 0, run := none, late := false }

/-- Does a scrub pass of memory `m` go on? It pauses while the memory is marched (R583). -/
def scrubRuns (m : Nat) (s : State) : Bool :=
  (scrubOf m s).run.isSome && match s.mem.march with
    | some c => c.mem != m
    | none => true

/-- Has scrub read every written line of its pass (R162, R585)? -/
def scrubAtEnd (s : State) : Bool :=
  let n := s.dev.variant.ringCap / 64
  let p := s.ring.scrubPos
  decide (n ≤ p) || ((linePos p s).isNone && (s.ring.W == s.ring.base || decide (s.ring.base / 64 % n < p)))

/-- The line that scrub reads next: the first written line from its position on (R162). -/
def scrubNext (s : State) : Nat :=
  let n := s.dev.variant.ringCap / 64
  let p := if s.ring.scrubPos < n then s.ring.scrubPos else 0
  if (linePos p s).isSome then p else s.ring.base / 64 % n

/-- RING_SCRUB_READ (R162): scrub reads the next written line in ascending order; a corrected line is written back. -/
def execRingScrubRead (line : Nat) (err : EccErr) (s : State) : Result :=
  if scrubRuns 0 s ∧ !scrubAtEnd s ∧ line = scrubNext s ∧ (linePos line s).isSome then
    let s := { s with ring := { s.ring with scrubPos := line + 1 } }
    .next (match err, s.ring.ueLines.contains line, s.ring.ceLines.contains line with
      | .uncorrectable, _, _ => badLine s line
      | _, true, _ => badLine s line
      | .corrected, false, _ =>
        { correctedLine s line with
          ring := { (correctedLine s line).ring with ceLines := s.ring.ceLines.filter (· ≠ line) } }
      | .none, false, true =>
        { correctedLine s line with
          ring := { (correctedLine s line).ring with ceLines := s.ring.ceLines.filter (· ≠ line) } }
      | .none, false, false => s)
  else .next s

/-- RING_CE_INTERVAL (R160): the interval of 250,000,000 ticks ends. -/
def execRingCeInterval (s : State) : Result :=
  if s.tm.tick < s.ring.ceFrom + 250000000 then .next s else
  let due := decide (s.ring.ceLimit < s.ring.ceCount) && !s.ring.ceSignalled
  let s := { s with ring := { s.ring with ceCount := 0, ceFrom := s.tm.tick, ceSignalled := false } }
  .next (if due then signal 9 0 s else s)

/-! ## The view through BAR2 (R163-R166) -/

/-- The size of BAR2 (R15). -/
def bar2Size : Nat := 0x1000000000

/-- The byte that BAR2 shows at an offset (R15, R163). -/
def bar2Byte (s : State) (o : Nat) : Byte := if (linePos (o / 64) s).isSome then memByte s.ring.mem o else 0

/-- The written lines that a read of BAR2 touches. -/
def bar2Lines (off len : Nat) (s : State) : List Nat :=
  ((List.range ((off + len - 1) / 64 + 1 - off / 64)).map fun i => off / 64 + i).filter fun l => (linePos l s).isSome

/-- BAR2_READ (R160, R161, R163): `errs` are the lines that the read finds corrected or uncorrectable. -/
def execBar2Read (off len : Nat) (errs : List (Nat × EccErr)) (s : State) : Result :=
  if bar2Size < off + len then .fault (.outsideBar 2 off)
  else .next (barRead 2 off len (fun s =>
    let ls := if len = 0 then [] else bar2Lines off len s
    let bad := badAmong ls (linesWith .uncorrectable errs) s
    let data := (List.range len).map fun i => bar2Byte s (off + i)
    emitOut (.readData 2 off data (!bad.isEmpty)) (readLines ls (linesWith .corrected errs) bad s)) s)

/-- BAR2_WRITE (R164): a posted write to BAR2 is discarded. -/
def execBar2Write (off : Nat) (data : List Byte) (s : State) : Result :=
  if bar2Size < off + data.length then .fault (.outsideBar 2 off)
  else .next (memWriteTlp 2 (fun s => raise 8 5 { s with ring := { s.ring with wdrop := s.ring.wdrop + 1 } }) s)

/-- The tag of the line at a position of a row (R150). -/
def tagOf (d : RowDesc) (p : Nat) : Nat :=
  if p = d.pos then
    d.row % 2 ^ 18 * 2 ^ 35 + d.rawMask * 2 ^ 19 + d.podMask * 2 ^ 3 + b2n d.dual * 4 + 1
  else if d.anchor ∧ p = d.pos + 64 then d.row % 2 ^ 48 * 4 + 2
  else 0

/-- RING_TAG (R150, R163, R173). -/
def ringTag (s : State) : Word64 :=
  match linePos s.ring.tagSel s with
  | none => 3
  | some p =>
    if s.ring.ueLines.contains s.ring.tagSel then BitVec.ofNat 64 (2 ^ 63)
    else match s.ring.rows.find? (fun d => decide (d.pos ≤ p ∧ p < d.pos + d.len)), s.ring.stray with
      | some d, _ => BitVec.ofNat 64 (tagOf d p)
      | none, some t => if t.1 = p then BitVec.ofNat 64 (t.2 % 2 ^ 48 * 4 + 2) else 0
      | none, none => 0

/-- A 4-byte read of the high word of a 64-bit register: the latch, emptied, or the live high word (R537). -/
def highWord (off : Nat) (v : Word64) (s : State) : Word × State :=
  match s.tm.latches.find? fun x => x.1 == off with
  | some x => (x.2, { s with tm := { s.tm with latches := s.tm.latches.filter fun y => y.1 ≠ off } })
  | none => (v.extractLsb' 32 32, s)

/-- A read of RING_TAG, whole or its high word, moves RING_TAG_SEL on (R166). -/
def readRingTag (wide : Bool) (s : State) : State :=
  let v := ringTag s
  let s := if wide then emitOut (.regData 0xD068 v) s
    else
      let r := highWord 0xD068 v s
      emitOut (.regData 0xD06C (r.1.zeroExtend 64)) r.2
  { s with ring := { s.ring with
      tagSel := if s.ring.tagSel + 1 = s.dev.variant.ringCap / 64 then 0 else (s.ring.tagSel + 1) % 2 ^ 30 } }

/-- RING_TAG_READ (R166): an 8-byte read of RING_TAG, or a 4-byte read of its high word. -/
def execRingTagRead (wide : Bool) (s : State) : Result :=
  .next (barRead 0 (if wide then 0xD068 else 0xD06C) (if wide then 8 else 4) (readRingTag wide) s)

/-! ## RING_CFG (R169) -/

/-- The response of RING_CFG. -/
def ringCfgBody (s : State) : List Byte :=
  leBytes 1 (s.cfg.active.level + 2 * b2n s.cfg.active.hold) ++ leBytes 1 (s.cfg.staged.level + 2 * b2n s.cfg.staged.hold) ++
    leBytes 1 s.ring.markA.level ++ leBytes 1 s.ring.markB.level ++ leBytes 2 s.ring.ceLimit

/-- RING_CFG's rules (R168, R169). -/
def ringCfgCmd : Cmd := fun q s =>
  let ops := fieldAt q 0 1
  let on (b : Nat) : Bool := ops.testBit b
  let lv := fieldAt q 1 1
  let fl := fieldAt q 2 1
  let a := fieldAt q 3 1
  let b := fieldAt q 4 1
  let ce := fieldAt q 6 2
  if 15 < ops ∨ (on 0 ∧ 1 < lv) ∨ (on 1 ∧ 1 < fl) ∨ (on 2 ∧ (a = 0 ∨ b = 0)) ∨ (on 3 ∧ ce = 0) ∨ !zeroAt q 5 1 ∨
      !zeroAt q 8 248 then quit stBadArg s
  else
    let s := if on 0 then modStaged (fun i => { i with level := lv }) s else s
    let s := if on 1 then modStaged (fun i => { i with hold := fl == 1 }) s else s
    let s := if on 2 then
        evalMarks { s with ring := { s.ring with
          markA := { s.ring.markA with level := a }, markB := { s.ring.markB with level := b } } }
      else s
    let s := if on 3 then { s with ring := { s.ring with ceLimit := ce } } else s
    (s, some { status := if on 0 || on 1 then stPending else stOk, detail := 0, body := ringCfgBody s })

/-- RING_CFG (R169). -/
def execRingCfg (m : Fin 8) (s : State) : Result := .next (command m.val 0x0406 ringCfgCmd s)

end Sys2Proof.Machine
end

