-- ==== Sys2Proof/Machine/Retention.lean ====
section
/-! DEFINITION. The retention engine: windows, emission order, GAP, CAIRN, SUMMARY, LOG and epoch frames, the epoch boundary,
and the acquisition commands (R31-R38, R60, R235-R266). -/

namespace Sys2Proof.Machine

/-! ## Sorting -/

/-- Insert into a sorted list, after every entry it does not precede. -/
def insertBy {α : Type} (before : α → α → Bool) (x : α) : List α → List α
  | [] => [x]
  | y :: ys => if before x y then x :: y :: ys else y :: insertBy before x ys

/-- A stable sort. -/
def sortBy {α : Type} (before : α → α → Bool) (l : List α) : List α := l.foldl (fun a x => insertBy before x a) []

/-! ## Windows (R240-R242) -/

/-- Does a request cover a row? -/
def covers (r : Nat) (q : Request) : Bool := decide (q.first ≤ r ∧ r ≤ q.last)

/-- The retained set of a row (R241). -/
def retainedSet (r : Nat) (s : State) : Nat := (s.ret.requests.filter (covers r)).foldl (fun m q => m ||| q.pods) 0

/-- The classes whose windows cover a row. -/
def classSet (r : Nat) (s : State) : Nat := maskOf ((s.ret.requests.filter (covers r)).map fun q => q.cls)

/-- The classes whose windows retain pod `p` in a row (R249). -/
def classesOf (r p : Nat) (s : State) : Nat :=
  maskOf ((s.ret.requests.filter fun q => covers r q && q.pods.testBit p).map fun q => q.cls)

/-- TRUNC and the requested row of the truncated requests that begin at a row: the lowest requested row (R242). -/
def truncAt (r : Nat) (s : State) : Nat × Int :=
  (s.ret.requests.filter fun q => decide (q.first = r ∧ q.trunc ≠ 0)).foldl
    (fun a q => if a.1 = 0 ∨ q.asked < a.2 then (q.trunc, q.asked) else a) (0, 0)

/-! ## Frames of the engine -/

/-- Change what the engine counts over the epoch. -/
def modCur (f : EpochRec → EpochRec) (s : State) : State := { s with ret := { s.ret with cur := s.ret.cur.map f } }

/-- Emit a GAP frame (R256, R257): counted, G8.19; the next block of each pod group in it carries FIRST (R249). -/
def emitGap (s : State) (g : Gap) : State :=
  let s := emitRet 0x41 0x01 g.pod (flagsAt (256 * g.start) s) g.tStart none 0 (gapBody g) s
  let last := match g.stop with
    | some e => e / 256
    | none => 2 ^ 48
  countGap g (modCur (fun e => { e with
    gaps := e.gaps + 1, gapSamples := e.gapSamples + gapWeight g, seen := e.seen &&& (0xFFFF ^^^ g.pods % 0x10000),
    gapRanges := e.gapRanges ++ [(g.start / 256, last)] }) s)

/-- Emit the pending GAP frames that `pick` names, in ascending start bound, those for which `last` holds after the
others. -/
def gapsOut (pick last : Gap → Bool) (s : State) : State :=
  let gs := s.ret.gaps.filter pick
  let s := { s with ret := { s.ret with gaps := s.ret.gaps.filter fun g => !pick g } }
  let before (a b : Gap) : Bool := (!last a && last b) || (last a == last b && decide (a.start < b.start))
  (sortBy before gs).foldl emitGap s

/-- The order of cairns: instant, CODE, UNIT (R243). -/
def cairnBefore (a b : Cairn) : Bool :=
  decide (a.instant < b.instant ∨ (a.instant = b.instant ∧ (a.code < b.code ∨ (a.code = b.code ∧ a.unit < b.unit))))

/-- Emit a CAIRN frame (R258), with LATE and PRIOR_EPOCH (R244). -/
def emitCairn (late prior : Bool) (c : Cairn) (s : State) : State :=
  let body := leBytes 2 c.code ++ leBytes 2 (b2n late + 2 * b2n prior) ++ zeros 4 ++ instantBytes c.instant ++ padTo 76 c.payload
  let s := emitRet 0x40 c.unit c.pod (flagsAt c.instant s) c.t0 none 0 body s
  let s := modCur (fun e => { e with cairns := e.cairns + 1 }) s
  let s := { s with ret := { s.ret with cairnCnt := s.ret.cairnCnt + 1 } }
  if late then raise 8 21 { s with ret := { s.ret with lateCnt := s.ret.lateCnt + 1 } } else s

/-- Does a cairn's instant lie in the intake gap of the epoch being emitted? Such a cairn is not late (R244). -/
def inIntakeGap (e : Option EpochRec) (c : Cairn) : Bool :=
  match e with
  | some e => decide (e.gapRow ≠ 0 ∧ 65536 * e.gapRow ≤ c.instant ∧ c.instant < 65536 * e.firstRow)
  | none => false

/-- Emit the cairns whose instant lies in row `r` or before it: those of rows already passed are late, those from before
the boundary that opened the epoch carry PRIOR_EPOCH besides (R243, R244). -/
def cairnsOut (r : Nat) (s : State) : State :=
  let cs := sortBy cairnBefore (s.ret.cairns.filter fun c => decide (c.instant / 65536 ≤ r))
  let s := { s with ret := { s.ret with cairns := s.ret.cairns.filter fun c => decide (r < c.instant / 65536) } }
  let tb : Nat := match s.ret.cur with
    | some e => 65536 * e.gapRow
    | none => 0
  let gap := inIntakeGap s.ret.cur
  cs.foldl (fun s c => emitCairn (decide (c.instant / 65536 < r) && !gap c) (decide (c.instant < tb)) c s) s

/-- Emit the cairns with instants in the intake gap `[b, e)`: in instant order, not late (R244). -/
def gapCairns (b e : Nat) (s : State) : State :=
  let inGap (c : Cairn) : Bool := decide (b ≤ c.instant ∧ c.instant < e)
  let cs := sortBy cairnBefore (s.ret.cairns.filter inGap)
  let s := { s with ret := { s.ret with cairns := s.ret.cairns.filter fun c => !inGap c } }
  cs.foldl (fun s c => emitCairn false false c s) s

/-- Emit a LOG frame of the oldest pending entries, 30 at most (R251). -/
def emitLog (s : State) : State :=
  let es := s.ret.logPending.take 30
  let body := leBytes 2 es.length ++ leBytes 2 s.ret.logDropped ++ zeros 4 ++ es.flatMap logBytes
  let s := emitRet 0x70 0x02 0xFF (frameFlags s) (t0Of s.tm.a) none 0 body s
  let rest := s.ret.logPending.drop 30
  { s with ret := { s.ret with
      logPending := rest, logDropped := 0, logDue := decide (30 ≤ rest.length), logTicks := s.ret.logTicks.drop 30 } }

/-- Emit the LOG frames that are due, or with `all` those of every pending entry (R251). -/
def logFrames (all : Bool) : Nat → State → State
  | 0, s => s
  | n + 1, s => if s.ret.logPending ≠ [] ∧ (all ∨ s.ret.logDue) then logFrames all n (emitLog s) else s

/-- The WINDOW cairn of a row's sets (R242, R259). -/
def windowCairn (r set cls : Nat) (tr : Nat × Int) (s : State) : State :=
  let req := if tr.1 = 0 then 0 else unsign 64 tr.2
  let c : Cairn :=
    { code := 0x000F, instant := 65536 * r, unit := 0x01, pod := 0xFF, t0 := t0Of (timeAOf s (65536 * r)),
      payload := leBytes 2 set ++ leBytes 1 cls ++ leBytes 1 tr.1 ++ zeros 4 ++ leBytes 8 req, late := false, prior := false }
  modCur (fun e => { e with prevSet := (set, cls) }) (emitCairn false false c s)

/-! ## Lost rows (R155, R239) -/

/-- The run of rows lost to the record under WINDOW ends: its GAP frame (R239). -/
def closeRun (s : State) : State :=
  match s.ret.cur.bind fun e => e.lostRun with
  | none => s
  | some (a, n, m) =>
    pushGap 2 0 m 0xFF (256 * a) (some (256 * n)) (modCur (fun e => { e with lostRun := none }) s)

/-- A row lost by the ring, once settled, is lost to the record when it lies in a window (R239). -/
def judgeLost (r : Nat) (s : State) : State :=
  match s.ring.lost.find? fun x => x.1 == r with
  | none => closeRun s
  | some (_, pods) =>
    let set := retainedSet r s
    let s := { s with ring := { s.ring with lost := s.ring.lost.filter fun x => decide (r < x.1) } }
    if set = 0 then closeRun s
    else
      let m := if set &&& pods = 0 then set else set &&& pods
      let s := { s with ring := { s.ring with lostRows := min (2 ^ 64 - 1) (s.ring.lostRows + 1) } }
      match s.ret.cur.bind fun e => e.lostRun with
      | some (a, n, m0) =>
        if n = r then modCur (fun e => { e with lostRun := some (a, r + 1, m0 ||| m) }) s
        else modCur (fun e => { e with lostRun := some (r, r + 1, m) }) (closeRun s)
      | none => modCur (fun e => { e with lostRun := some (r, r + 1, m) }) s

/-- An episode whose last row lies before row `r` has ended (R155). -/
def endBefore (cause r : Nat) (s : State) : State :=
  match episodeOf cause s with
  | some e => if e.next ≤ r then setEpisode cause none (endEpisode (some e) s) else s
  | none => s

/-! ## Block frames (R249) -/

/-- Emit one block of a row. -/
def emitBlock (cls : Nat → Nat) (d : RowDesc) (bytes : List Byte) (s : State) (b : BlockDesc) : State :=
  let seen : Nat := match s.ret.cur with
    | some e => e.seen
    | none => 0
  let first := !seen.testBit b.pod
  let body := leBytes 6 d.row ++ leBytes 1 (cls b.pod) ++ leBytes 1 (b2n d.dual + 2 * b2n first) ++ (bytes.drop b.off).take b.len
  let s := emitRet b.type 0x00 b.pod (2 * b2n d.suspect) d.t0 (some d.row) (2 ^ b.pod) body s
  modCur (fun e => { e with blocks := e.blocks + 1, seen := e.seen ||| 2 ^ b.pod }) s

/-- The uncorrectable lines of row `r`'s second read, where RET_ROW_READ has made it (R238). -/
def readTwice (r : Nat) (s : State) : Option (List Nat) :=
  match s.ret.second with
  | some (n, bad) => if n = r then some bad else none
  | none => none

/-- The second read of a row in a window, unless it has been made, and its retained blocks (R238, R241). -/
def emitWindowed (d : RowDesc) (s : State) : State :=
  let r := d.row
  let set := retainedSet r s
  if d.blocks.all fun b => !set.testBit b.pod then s
  else
    let ls := linesOf d.pos d.len s
    let cls (p : Nat) : Nat := classesOf r p s
    let bytes := rowBytes d s
    let x := match readTwice r s with
      | some bad => salvage d bad set true s
      | none =>
        let bad := badAmong ls [] s
        salvage d bad set true (readLines ls [] bad s)
    x.1.blocks.foldl (emitBlock cls x.1 bytes) x.2

/-- The block frames of a row under the policy of the epoch (R235, R243 step 3). -/
def emitBlocks (policy r : Nat) (s : State) : State :=
  match policy with
  | 0 =>
    match s.ret.rowsRead.find? fun x => x.1.row == r with
    | some (d, bytes) => d.blocks.foldl (emitBlock (fun _ => 0) d bytes) s
    | none => s
  | 1 =>
    match s.ring.rows.find? fun d => d.row == r with
    | some d => emitWindowed d s
    | none => s
  | _ => s

/-! ## SUMMARY (R255) -/

/-- Two spans of one input joined. -/
def joinCount (a b : InCount) : InCount :=
  { high := a.high + b.high, changes := min (2 ^ 32 - 1) (a.changes + b.changes), first := a.first, last := b.last,
    absent := a.absent || b.absent }

/-- The counts of a pod that was ABSENT for part of the interval. -/
def markAbsent (c : PodCount) : PodCount := { c with ins := c.ins.map fun i => { i with absent := true } }

/-- The pod groups that capture held in an encoded row, those without an enabled input included. -/
def capturedIn (r : Nat) (s : State) : Nat := ((s.ring.capHist.find? fun x => decide (x.1 ≤ r)).map fun x => x.2).getD 0

/-- The accumulated counts after one more row. A pod that the row captured and lost was not ABSENT. -/
def addCounts (r : Nat) (cs : List PodCount) (e : EpochRec) (s : State) : List PodCount :=
  let held (p i : Nat) : Bool := (capturedIn i s).testBit p
  let old := e.sumCounts.map fun x =>
    match cs.find? fun c => c.pod == x.pod with
    | some c => { x with ins := List.zipWith joinCount x.ins c.ins }
    | none => if held x.pod r then x else markAbsent x
  let new := cs.filter fun c => !e.sumCounts.any fun x => x.pod == c.pod
  old ++ new.map fun c => if held c.pod e.sumFirst then c else markAbsent c

/-- Does a row lie inside a GAP frame of any pod group, emitted or to come? -/
def rowInGap (s : State) (r : Nat) : Bool :=
  let inEp (e : Option Episode) : Bool := match e with
    | some x => decide (x.first ≤ r ∧ r < x.next)
    | none => false
  (match s.ret.cur with
    | some e => e.gapRanges.any (fun g => decide (g.1 ≤ r ∧ r < g.2)) || (match e.lostRun with
      | some (a, n, _) => decide (a ≤ r ∧ r < n)
      | none => false)
    | none => false) ||
  s.ret.gaps.any (fun g => decide (g.start < 256 * (r + 1)) && match g.stop with
    | some e => decide (256 * r < e)
    | none => true) ||
  s.pods.toList.any (fun q => match q.gapFrom with
    | some g => decide (g.1 ≤ r)
    | none => false) ||
  inEp s.ring.overflow || (inEp s.ring.episode && !windowed r s)

/-- A SUMMARY entry (R255). -/
def sumEntry (i : InCount) : List Byte :=
  leBytes 8 (b2n i.absent * 2 ^ 58 + b2n i.last * 2 ^ 57 + b2n i.first * 2 ^ 56 + i.high % 2 ^ 24 * 2 ^ 32 + i.changes)

/-- The 17 entries of a pod group in a SUMMARY. -/
def sumEntries (e : EpochRec) (s : State) (p : Nat) : List Byte :=
  match e.sumCounts.find? fun c => c.pod == p with
  | some c => c.ins.flatMap sumEntry
  | none => (List.range 17).flatMap fun k =>
      sumEntry { high := 0, changes := 0, first := false, last := false, absent := !(e.enabled.getD p 0).testBit k }

/-- Emit the SUMMARY frame of the interval that ends with the row before `stop`, and begin the next. -/
def emitSummary (stop : Nat) (short : Bool) (s : State) : State :=
  match s.ret.cur with
  | none => s
  | some e =>
    let rows := (List.range (stop - e.sumFirst)).map fun i => e.sumFirst + i
    let body := leBytes 8 e.sumFirst ++ leBytes 4 (stop - e.sumFirst) ++ leBytes 2 e.sumPods ++ leBytes 2 (b2n short) ++
      e.sumFires.toList.flatMap (leBytes 4) ++ leBytes 4 (rows.filter (rowInGap s)).length ++ zeros 12 ++
      (bitsSet 16 e.sumPods).flatMap (sumEntries e s)
    let t := 65536 * e.sumFirst
    let s := emitRet 0x30 0x01 0xFF (flagsAt t s) (t0Of (timeAOf s t)) none 0 body s
    modCur (fun e => { e with sumFirst := stop, sumPods := 0, sumFires := Vector.replicate 4 0, sumCounts := [] }) s

/-- Count the fires placed in rows up to `r` (R253, R255). -/
def countFires (r : Nat) (s : State) : State :=
  let fs := s.ret.fires.filter fun f => decide (f.1 ≤ r)
  let add (t : Tab 4 Nat) : Tab 4 Nat := fs.foldl (fun t f => tabMod t f.2 fun n => n + 1) t
  let s := modCur (fun e => { e with fires := add e.fires, sumFires := add e.sumFires }) s
  { s with ret := { s.ret with fires := s.ret.fires.filter fun f => decide (r < f.1) } }

/-- What row `r` adds to the SUMMARY interval, and the frame when the interval ends with it (R243 step 5). -/
def summaryRow (r : Nat) (s : State) : State :=
  let s := countFires r s
  match s.ret.cur with
  | none => s
  | some e =>
    if e.retain.summaryRows = 0 then s
    else
      let d := s.ret.rowsRead.find? fun x => x.1.row == r
      let cs := (d.map fun x => x.1.counts).getD []
      let pods := e.sumPods ||| capturedIn r s ||| ((d.map fun x => x.1.podMask).getD 0)
      let counts := addCounts r cs e s
      let s := modCur (fun e => { e with sumPods := pods, sumCounts := counts }) s
      if r + 1 = e.sumFirst + e.retain.summaryRows then emitSummary (r + 1) false s else s

/-! ## RET_ROW_EMIT (R243) -/

/-- Is everything about row `r` known: encoded, written or lost, and read once? -/
def rowReady (r : Nat) (e : EpochRec) (s : State) : Bool :=
  e.noIntake || (decide (r < s.ring.capRow) && s.ring.staging.all (fun x => decide (r < x.1.row)) &&
    match nextRead s with
    | some d => decide (r < d.row)
    | none => true)

/-- The row that the emission position reads a second time: in a window, everything about it known, not yet read twice (R238). -/
def secondDue (s : State) : Option RowDesc :=
  match s.ret.cur with
  | none => none
  | some e =>
    let r := s.ret.emitRow
    if acquiring s ∧ e.retain.policy = 1 ∧ ofEpoch r s ∧ rowSettled r s ∧ rowReady r e s ∧ readTwice r s = none then
      s.ring.rows.find? fun d => d.row == r && d.blocks.any fun b => (retainedSet r s).testBit b.pod
    else none

/-- The second read of a row finds the lines `errs` corrected or uncorrectable (R160, R161, R238). -/
def readAgain (d : RowDesc) (errs : List (Nat × EccErr)) (s : State) : State :=
  let ls := linesOf d.pos d.len s
  let bad := badAmong ls (linesWith .uncorrectable errs) s
  let s := readLines ls (linesWith .corrected errs) bad s
  { s with ret := { s.ret with second := some (d.row, bad) } }

/-- The row that a first read takes now, if any. -/
def firstDue (s : State) : Option RowDesc := (nextRead s).filter fun d => mayRead d s

/-- RET_ROW_READ (R151, R238): the first read of the next row, else the second read of the row to be emitted; `errs` are the
lines that the read finds corrected or uncorrectable (R160, R161). -/
def execRetRowRead (errs : List (Nat × EccErr)) (s : State) : Result :=
  .next (match firstDue s, secondDue s with
    | some d, _ => readRow d errs s
    | none, some d => readAgain d errs s
    | none, none => s)

/-- The WINDOW cairn of row `r` where its sets differ from those of the row before (R242). -/
def windowStep (r : Nat) (s : State) : State :=
  match s.ret.cur with
  | none => s
  | some e =>
    let set := retainedSet r s
    let cls := classSet r s
    if e.retain.policy = 1 ∧ (set, cls) ≠ e.prevSet then windowCairn r set cls (truncAt r s) s else s

/-- The emission position takes row `r` (R243). -/
def emitRow (r policy : Nat) (s : State) : State :=
  let s := endBefore 3 r (endBefore 2 r s)
  let gone := s.ring.lost.any fun x => x.1 == r
  let s := judgeLost r s
  let s := gapsOut (fun g => match g.stop with
    | some e => decide (e ≤ 256 * r)
    | none => false) (fun _ => false) s
  let s := windowStep r s
  let s := if gone then s else emitBlocks policy r s
  let s := summaryRow r (logFrames false 9 (cairnsOut r s))
  passX { s with ret := { s.ret with
    emitRow := r + 1, settleRow := settleRow s, rowsRead := s.ret.rowsRead.filter (fun x => decide (r < x.1.row)),
    requests := s.ret.requests.filter (fun q => decide (r < q.last)) } }

/-- RET_ROW_EMIT (R243). -/
def execRetRowEmit (s : State) : Result :=
  .next (match s.ret.cur with
    | none => s
    | some e =>
      let r := s.ret.emitRow
      if acquiring s ∧ s.cmp.inq = [] ∧ ofEpoch r s ∧ rowSettled r s ∧ rowReady r e s then emitRow r e.retain.policy s else s)

/-- LOG_FRAME_DUE (R251): 1 ms after the oldest pending entry was logged a LOG frame is due at the current row. -/
def execLogFrameDue (s : State) : Result :=
  .next (if s.ret.logTicks.head?.any fun t => decide (t + msTicks s ≤ s.tm.tick) then
      { s with ret := { s.ret with logDue := true } }
    else s)

/-! ## Intake (R34 step 7, R36, R60, R185, R201, R225) -/

/-- The pods that are ACTIVE, as a mask. -/
def activePods (s : State) : Nat := maskOf ((List.range 16).filter fun p => (podAt s p).state == .active)

/-- Capture of a pod begins at a row; a pod that is not ACTIVE captures nothing. -/
def startPod (row : Nat) (q : Pod) : Pod :=
  if q.state = .active then
    { q with capture := some { first := row, joined := false, gone := none }, samples := [], dropped := [], skipped := [] }
  else clearCapture q

/-- Qualifiers start afresh at the first intake sample (R185). -/
def startInput (row n : Nat) (s : State) : State :=
  if inputAbsent n s then s
  else modInput n (fun i => restartQual (actCh s n) (256 * row) i.level i) s

/-- A window that reaches before the first intake row is clipped there with TRUNC 2 (R240): where that row came later than
planned (R261), a request not clipped before counts now. -/
def clipFirst (row : Nat) (s : State) : State :=
  let late (q : Request) : Bool := decide (q.first < row)
  let fresh := (s.ret.requests.filter fun q => late q && q.trunc == 0).length
  let clip (q : Request) : Request := if late q then { q with first := row, trunc := 2 } else q
  let s := { s with ret := { s.ret with
    requests := s.ret.requests.map clip, truncCnt := s.ret.truncCnt + BitVec.ofNat 32 fresh } }
  if fresh = 0 then s else raise 8 20 s

/-- Intake begins at a row: JOINING pods join at its first block (R60), capture, qualifiers, fabric and sequencers start. -/
def startIntake (row : Nat) (s : State) : State :=
  let s := { s with pods := s.pods.map (startPod row) }
  let s := (List.range 16).foldl (fun s p => if (podAt s p).state = .joining then joinAt p row s else s) s
  let s := (List.range 272).foldl (fun s n => startInput row n s) s
  let s := { s with
    ring := { s.ring with capRow := row, intake := !s.dev.stopped },
    ret := { s.ret with
      intakeRow := some row,
      nextFirst := some (activePods s, s.cfg.active.level, imageBytes s.dev.variant s.cfg.active) } }
  let s := clipFirst row s
  carrySeqs (256 * row) (startFabric (256 * row) s)

/-! ## EPOCH_BOUNDARY (R33, R34, R225, R260 step 1) -/

/-- Encode the rows left before a row. -/
def encodeUpTo : Nat → Nat → State → State
  | 0, _, s => s
  | n + 1, row, s => if s.ring.intake ∧ s.ring.capRow < row then encodeUpTo n row (encodeRow s) else s

/-- Write every staged row. -/
def writeStaged : Nat → State → State
  | 0, s => s
  | n + 1, s =>
    match s.ring.staging with
    | [] => s
    | (d, b) :: rest => writeStaged n (writeRow d b { s with ring := { s.ring with staging := rest } })

/-- A pod at the boundary instant: its removal gap ends there, or was no gap of the epoch that ends (R66). -/
def boundaryPod (row p : Nat) (s : State) : State :=
  match (podAt s p).gapFrom with
  | none => s
  | some g => if g.1 ≤ row then closePodGap p row s else s

/-- Capture of the old epoch is over; shadows are abandoned (R120). -/
def endPod (q : Pod) : Pod :=
  let gone := match q.capture with
    | some c => c.gone.isSome
    | none => false
  let q := if gone then clearCapture q else { q with capture := none, samples := [], dropped := [], skipped := [] }
  { q with cal := { q.cal with shadow := none, shadowDone := false, shadowRes := none } }

/-- Open windows close at the last row before the boundary (R240). -/
def clipRequests (row : Nat) (l : List Request) : List Request :=
  (l.map fun q => { q with last := min q.last (row - 1) }).filter fun q => decide (q.first ≤ q.last ∧ 0 < row)

/-- The boundary instant (R34 steps 1, 2 and 7, R75, R260). A staged power-off acts at every boundary, one that ends in IDLE too
(DESIGN CHOICE, log 28). -/
def atBoundary (b : Boundary) (s : State) : State :=
  let s := encodeUpTo (b.row - s.ring.capRow) b.row s
  let s := writeStaged s.ring.staging.length s
  let s := stopFabric (256 * b.row) s
  let s := (List.range 16).foldl (fun s p => boundaryPod b.row p s) s
  let s := { s with
    ring := { s.ring with intake := false, capRow := b.row, capHist := (b.row, 0) :: s.ring.capHist },
    ret := { s.ret with requests := clipRequests b.row s.ret.requests },
    pods := s.pods.map endPod }
  let s := applyOffs s
  let idle := endsIdle b.causes
  let g := intakeGap s.cfg.active s.cfg.staged
  let s :=
    if !idle then activateImage s
    else if b.causes.contains 0 then resetFab (resetActive s)
    else s
  realignBoundary { s with
    dev := { s.dev with acq := .draining }, cfg := { s.cfg with unfit := true },
    ret := { s.ret with
      boundary := some { b with g := g }, closed := false, openCause := closeCause b.causes, intakeRow := none,
      nextFirst := if idle then none
        else some (activePods s, s.cfg.active.level, imageBytes s.dev.variant s.cfg.active) } }

/-- EPOCH_BOUNDARY (R34): AX5 reaches the boundary instant of the epoch that is being emitted, and the front end has every event
of the last block (R100). -/
def execEpochBoundary (s : State) : Result :=
  .next (match s.ret.boundary with
    | none => s
    | some b =>
      if s.dev.acq = .running ∧ 256 * b.row + holdBack s ≤ s.tm.ax5 ∧ s.ret.cur.isSome then atBoundary b s else s)

/-- May intake resume at a row (R34 step 7, R261)? Under CLOCK_RANGE it waits for the DCO. -/
def mayResume (row : Nat) (b : Boundary) (s : State) : Bool :=
  !endsIdle b.causes && s.ret.intakeRow.isNone && !s.dev.stopped && decide (256 * row ≤ s.tm.ax5) &&
    (if b.causes.contains 4 then decide (b.row + b.g ≤ row) && !s.pll.dcoRange else row == b.row + b.g)

/-- INTAKE_RESUME (R34 step 7): intake of the new epoch starts at a row. -/
def execIntakeResume (row : Nat) (s : State) : Result :=
  .next (match s.ret.boundary with
    | none => s
    | some b => if s.dev.acq = .draining ∧ mayResume row b s then startIntake row s else s)

/-! ## EPOCH_CLOSE (R253, R260 steps 4 and 5) -/

/-- The body of EPOCH_CLOSE (R253). -/
def closeBody (cause row : Nat) (e : EpochRec) : List Byte :=
  leBytes 1 cause ++ zeros 7 ++ leBytes 8 row ++ leBytes 8 e.openSeq ++ leBytes 8 (e.frames + 1) ++ leBytes 8 e.blocks ++
    leBytes 4 e.gaps ++ leBytes 4 e.cairns ++ leBytes 8 e.gapSamples ++ e.fires.toList.flatMap (leBytes 4) ++
    leBytes 4 e.truncated ++ zeros 16

/-- GAP frames of a forced queue reset, which the next emission writes (R294). -/
def keptGaps (s : State) : List Gap := s.ret.gaps.filter fun g => g.cause = 8

/-- An episode at the end of its epoch's rows: the GAP frame of its rows before row `r`; the rest of it goes on (R155). -/
def cutEpisode (cause r : Nat) (s : State) : State :=
  match episodeOf cause s with
  | some e =>
    if e.first < r then
      setEpisode cause (if r < e.next then some { e with first := r } else none)
        (endEpisode (some { e with next := min e.next r }) s)
    else s
  | none => s

/-- The device enters IDLE at the end of a drain (R31, R60, R157, R224, R260). Cairns with instants at or after the boundary
wait for the next epoch (R244). -/
def enterIdle (s : State) : State :=
  let s := { s with
    dev := { s.dev with acq := .idle },
    tal := { s.tal with drained := true },
    ring := { s.ring with
      X := s.ring.W, H := s.ring.W, intake := false, staging := [],
      lost := [], episode := none, overflow := none },
    ret := { s.ret with
      boundary := none, cur := none, closed := false, heldStop := none, heldRow := none, heldEpoch := false, intakeRow := none,
      nextFirst := none, requests := [], fires := [], gaps := keptGaps s, logPending := [], logTicks := [], logDropped := 0,
      logDue := false, rowsRead := [] } }
  let s := (List.range 16).foldl (fun s p => joinPod p s) (disarmAll (evalMarks s))
  raise 8 18 s

/-- The GAP of an epoch that opened after a DCO failure: intake never resumed (R261). -/
def openEndGap (e : EpochRec) (s : State) : State :=
  if e.noIntake then pushGap 7 5 e.active 0xFF (256 * e.firstRow) none s else s

/-- Has the EPOCH_CLOSE of this unit left the compressor and the packet that holds it closed, or a forced reset taken it? -/
def closeGone (s : State) : Bool :=
  !(s.cmp.inq.any isEpochClose || (s.cmp.opened.toList ++ inFlight s.cmp).any fun b => b.frames.any isEpochClose)

/-- A drain that opens no epoch ends in IDLE once R34's steps 4 to 6 are done: the packet with EPOCH_CLOSE has closed its bank
and its extent (R31, R34, R260 step 5; log 21). -/
def idleOnceEmpty (s : State) : State :=
  if s.dev.acq = .draining ∧ s.ret.closed ∧ (s.ret.boundary.any fun b => endsIdle b.causes) ∧ closeGone s then enterIdle s
  else s

/-- The closing frames of the epoch (R260 steps 4 and 5). -/
def closeEpoch (b : Boundary) (e : EpochRec) (s : State) : State :=
  let cause := closeCause b.causes
  let s := cutEpisode 3 b.row (cutEpisode 2 b.row s)
  let s := openEndGap e (closeRun (countFires (b.row - 1) s))
  let s := gapsOut (fun g => decide (g.start < 256 * b.row) || g.stop.isNone) (fun g => g.cause == 5) s
  let s := if e.retain.policy = 1 ∧ ((s.ret.cur.map fun e => e.prevSet).getD (0, 0)) ≠ (0, 0) then
      windowCairn b.row 0 0 (0, 0) s else s
  let late := s.ret.cairns.filter fun c => decide (c.instant < 65536 * b.row)
  let s := { s with ret := { s.ret with cairns := s.ret.cairns.filter fun c => decide (65536 * b.row ≤ c.instant) } }
  let s := (sortBy cairnBefore late).foldl (fun s c =>
    emitCairn (!inIntakeGap (some e) c) (decide (c.instant < 65536 * e.gapRow)) c s) s
  let s := if e.retain.summaryRows ≠ 0 ∧ ((s.ret.cur.map fun e => e.sumFirst).getD b.row) < b.row then
      emitSummary b.row true s else s
  let s := logFrames true 9 s
  let s := if b.causes.contains 0 || b.causes.contains lateReset then
      gapsOut (fun g => g.cause == 9) (fun _ => false) (pushGap 9 cause e.active 0xFF (256 * b.row) none s) else s
  let t := 65536 * b.row
  let q := s.ret.seq
  let s := emitRet 0x11 0x01 0xFF (flagsAt t s) (t0Of (timeAOf s t)) none 0 (closeBody cause b.row (s.ret.cur.getD e)) s
  raise 8 17 { s with ret := { s.ret with prevClose := some q, closed := true, settleRow := settleRow s } }

/-- EPOCH_CLOSE_EMIT (R260): every old row has settled and left. -/
def execEpochCloseEmit (s : State) : Result :=
  .next (match s.ret.boundary, s.ret.cur with
    | some b, some e =>
      if s.dev.acq = .draining ∧ !s.ret.closed ∧ 256 * b.row + 512 ≤ s.tm.ax5 ∧ b.row ≤ s.ret.emitRow ∧ s.cmp.inq = [] then
        closeEpoch b e s
      else s
    | _, _ => s)

/-! ## EPOCH_OPEN (R34 step 8, R252, R260 step 6, R261) -/

/-- The body of EPOCH_OPEN (R252). TIME_B_VALID, TIME_B and the increments are those at its emission (DESIGN CHOICE, log 67). -/
def openBody (row g : Nat) (x : Nat × Nat × List Byte) (s : State) : List Byte :=
  let t := 65536 * row
  let img := x.2.2
  leBytes 4 (crc32c img) ++ leBytes 4 img.length ++ leBytes 1 s.ret.openCause ++ leBytes 1 x.2.1 ++ leBytes 2 x.1 ++
    leBytes 1 s.cfg.active.retain.policy ++ leBytes 1 g ++
    leBytes 2 (b2n s.tm.bValid + 2 * b2n s.dev.variant.sealer) ++ leBytes 8 row ++ timeBytes (timeAOf s t) ++
    timeBytes (timeBOf s t) ++ leBytes 8 s.tm.incrA ++ leBytes 4 s.dev.variant.devId ++ leBytes 1 0xA2 ++
    leBytes 1 s.dev.variant.code ++ zeros 2 ++ leBytes 4 s.dev.fwVersion.toNat ++
    leBytes 8 (s.ret.prevClose.getD (2 ^ 64 - 1)) ++ zeros 12 ++ img

/-- What the engine counts over an epoch as it opens. -/
def newEpoch (row tb : Nat) (x : Nat × Nat × List Byte) (s : State) : EpochRec :=
  { number := s.ret.epoch, retain := s.cfg.active.retain, level := x.2.1, openSeq := s.ret.seq, firstRow := row, frames := 0,
    blocks := 0, gaps := 0, cairns := 0, gapSamples := 0, fires := Vector.replicate 4 0,
    truncated := (s.ret.requests.filter fun q => decide (q.trunc ≠ 0 ∧ row ≤ q.first)).length, prevSet := (0, 0), seen := 0,
    sumFirst := row, sumPods := 0, sumFires := Vector.replicate 4 0, gapRanges := [], lostRun := none, gapRow := tb,
    noIntake := s.dev.stopped && s.ret.intakeRow.isNone, sumCounts := [],
    active := x.1, enabled := (List.range 16).map (enabledMask s) }

/-- Emit EPOCH_OPEN for the epoch whose first intake row is `row`; `tb` is the boundary's row, 0 after ACQ_START. Nothing is left
in the lanes, and their tables are clear, however the epoch before ended (R278). -/
def openEpoch (row tb g : Nat) (x : Nat × Nat × List Byte) (s : State) : State :=
  let s := { s with ret := { s.ret with
    epoch := (s.ret.epoch + 1) % 2 ^ 32, emitRow := row, readRow := row, rowsRead := [] } }
  let e := newEpoch row tb x s
  let s := { s with ret := { s.ret with cur := some e }, cmp := clearTables s.cmp }
  let t := 65536 * row
  raise 8 16 (emitRet 0x10 0x01 0xFF (flagsAt t s) (t0Of (timeAOf s t)) none 0 (openBody row g x s) s)

/-- The INTAKE gap, the cairns of the gap, and the second gap under CLOCK_RANGE (R244, R260 step 6, R261). -/
def intakeGaps (b : Boundary) (row pods : Nat) (s : State) : State :=
  let none_ (_ : Gap) : Bool := false
  let s := pushGap 1 (closeCause b.causes) pods 0xFF (256 * b.row) (some (256 * (b.row + b.g))) s
  let s := gapCairns (65536 * b.row) (65536 * row) (gapsOut (fun g => g.cause == 1) none_ s)
  if b.row + b.g < row then
    gapsOut (fun g => g.cause == 7 && g.detail == 4) none_
      (pushGap 7 4 pods 0xFF (256 * (b.row + b.g)) (some (256 * row)) s)
  else s

/-- A stop, an EPOCH action or a DCO failure held during the drain acts right after the epoch has opened (R38, R449). -/
def actHeld (s : State) : State :=
  let stop := s.ret.heldStop
  let fail := s.ret.heldRow
  let ep := s.ret.heldEpoch
  let s := { s with ret := { s.ret with heldStop := none, heldRow := none, heldEpoch := false } }
  let s := match fail with
    | some r => acceptCauseAt r 4 s
    | none => s
  let s := match stop with
    | some c => acceptCause c s
    | none => s
  if ep then acceptCause 6 s else s

/-- Contained units rejoin, and credit is granted (R566, R432). -/
def epochOpened (s : State) : State := grantAll (rejoinUnits s)

/-- Are the stages behind the engine empty (R34 steps 4 to 6)? -/
def stagesEmpty (s : State) : Bool :=
  s.cmp.inq.isEmpty && s.cmp.opened.isNone && (inFlight s.cmp).isEmpty && s.tal.opened.isNone

/-- The first intake row of the epoch to open: as intake began, or after a DCO failure as planned (R261). -/
def openRow (b : Boundary) (s : State) : Option Nat :=
  match s.ret.intakeRow with
  | some r => some r
  | none => if s.dev.stopped then some (b.row + b.g) else none

/-- EPOCH_OPEN_EMIT (R260 step 6): the drain and the intake gap are done, or ACQ_START's first row has begun. -/
def execEpochOpenEmit (s : State) : Result :=
  .next (match s.ret.boundary, s.ret.nextFirst, s.dev.acq with
    | some b, some x, .draining =>
      match openRow b s with
      | none => s
      | some row =>
        if s.ret.closed ∧ stagesEmpty s then
          let s := intakeGaps b row x.1 (openEpoch row b.row b.g x s)
          actHeld (epochOpened { s with
            dev := { s.dev with acq := .running },
            ret := { s.ret with boundary := none, closed := false, intakeRow := none, nextFirst := none } })
        else s
    | _, some x, .running =>
      match s.ret.intakeRow with
      | none => s
      | some row =>
        if 256 * row ≤ s.tm.ax5 ∧ stagesEmpty s then
          let s := openEpoch row 0 0 x s
          { s with ret := { s.ret with intakeRow := none, nextFirst := none } }
        else s
    | _, _, _ => s)

/-! ## Acquisition commands (R262-R264) -/

/-- The response of EPOCH_COMMIT, ACQ_START and ACQ_STOP. -/
def acqBody (epoch crc row g : Nat) (held : Bool) : List Byte :=
  leBytes 4 epoch ++ leBytes 4 crc ++ leBytes 8 row ++ leBytes 1 g ++ leBytes 1 (b2n held)

/-- All ones, where no epoch opens or closes. -/
def noEpoch : Nat := 0xFFFFFFFF

/-- The number of the epoch being captured while RUNNING. -/
def runningEpoch (s : State) : Nat := if s.ret.cur.isNone then s.ret.epoch + 1 else s.ret.epoch

/-- The check of CFG_CRC_REF fails (R262 rule 3). -/
def crcRefused (s : State) : State × Option Reply := (raise 8 23 s, some (fail stBadArg))

/-- EPOCH_COMMIT's rules (R262). -/
def epochCommitCmd : Cmd := fun q s =>
  if !zeroAt q 0 256 then quit stBadArg s
  else match s.dev.acq with
    | .frozen => quit stState s
    | .draining => quit stBusy s
    | .running =>
      if !crcMatches s then crcRefused s
      else
        let crc := (stagedCrc s).toNat
        let s := acceptCause 5 (holdReference s)
        match s.ret.boundary with
        | none => (s, some (okWith (acqBody noEpoch crc 0 0 false)))
        | some b =>
          let idle := endsIdle b.causes
          (s, some (okWith (acqBody (if idle then noEpoch else runningEpoch s + 1) crc b.row (if idle then 0 else b.g) false)))
    | .idle =>
      if !crcMatches s then crcRefused s
      else
        let crc := (stagedCrc s).toNat
        let s := applyOffs (activateImage (holdReference s))
        (if stagesEmpty s then applyReshape s else s, some (okWith (acqBody noEpoch crc 0 0 false)))

/-- EPOCH_COMMIT (R262). -/
def execEpochCommit (m : Fin 8) (s : State) : Result := .next (command m.val 0x0401 epochCommitCmd s)

/-- Is there an egress path (R263)? -/
def hasEgress (s : State) : Bool :=
  s.tal.drives.toList.any (fun d => d.state != 0) ||
    (s.tal.fmt.isSome && (s.eq.pull || s.tal.windows.toList.any fun w => w.enable))

/-- Acquisition starts from IDLE (R36, R157, R263). -/
def startAcq (row : Nat) (s : State) : State :=
  let s := applyOffs (activateImage (holdReference s))
  let s := { s with
    dev := { s.dev with acq := .running },
    ring := { s.ring with X := s.ring.W, H := s.ring.W, fresh := true, episode := none, overflow := none, lost := [], capHist := [] },
    ret := { s.ret with
      boundary := none, heldStop := none, heldRow := none, heldEpoch := false, closed := false, openCause := 0xFF, cur := none, requests := [],
      fires := [], gaps := keptGaps s, logPending := [], logTicks := [], logDropped := 0, logDue := false, rowsRead := [],
      emitRow := row, readRow := row, settleRow := row } }
  let s := { s with pods := s.pods.map fun q => { q with gapFrom := none } }
  epochOpened (startIntake row (evalMarks s))

/-- ACQ_START's rules (R263). -/
def acqStartCmd : Cmd := fun q s =>
  if !zeroAt q 0 256 then quit stBadArg s
  else if s.dev.acq ≠ .idle then quit stState s
  else if !crcMatches s then crcRefused s
  else if !hasEgress s then quit stState s
  else
    let row := nextRow s
    let body := acqBody (s.ret.epoch + 1) (stagedCrc s).toNat row 0 false
    (startAcq row s, some (okWith body))

/-- ACQ_START (R263). -/
def execAcqStart (m : Fin 8) (s : State) : Result := .next (command m.val 0x0402 acqStartCmd s)

/-- ACQ_STOP's rules (R264). -/
def acqStopCmd : Cmd := fun q s =>
  if !zeroAt q 0 256 then quit stBadArg s
  else match s.dev.acq with
    | .frozen => quit stState s
    | .idle => (s, some (okWith (acqBody noEpoch 0 0 0 false)))
    | .draining =>
      let opens := match s.ret.boundary with
        | some b => !endsIdle b.causes
        | none => false
      (requestStop 1 s, some (okWith (acqBody (if opens then s.ret.epoch + 1 else noEpoch) 0 0 0 true)))
    | .running =>
      let n := runningEpoch s
      let s := requestStop 1 s
      (s, some (okWith (acqBody n 0 ((s.ret.boundary.map fun b => b.row).getD 0) 0 false)))

/-- ACQ_STOP (R264). -/
def execAcqStop (m : Fin 8) (s : State) : Result := .next (command m.val 0x0403 acqStopCmd s)

/-! ## RETAIN_SET and MARK (R265, R266) -/

/-- Class `c` of a RETAIN_SET request. -/
def classReq (q : List Byte) (c : Nat) : ClassCfg :=
  { pre := fieldAt q (16 + 16 * c) 4, post := fieldAt q (20 + 16 * c) 4, pods := fieldAt q (24 + 16 * c) 2,
    enable := bitOf 0 (fieldAt q (26 + 16 * c) 1) }

/-- Is something in the request out of range or reserved and not 0 (R265)? -/
def retainBad (q : List Byte) : Bool :=
  decide (2 < fieldAt q 0 1 ∨ 2 < fieldAt q 1 1 ∨ 1 < fieldAt q 2 1 ∨ 65535 < fieldAt q 4 4) || !zeroAt q 3 1 ||
    (fieldAt q 1 1 == 2 && fieldAt q 4 4 == 0) || !zeroAt q 10 6 || !zeroAt q 80 176 ||
    (List.range 4).any fun c =>
      decide (16777215 < fieldAt q (16 + 16 * c) 4 ∨ 1 < fieldAt q (26 + 16 * c) 1) || !zeroAt q (27 + 16 * c) 5

/-- The retention part of the image that a request writes. -/
def retainReq (q : List Byte) : RetainCfg :=
  { policy := fieldAt q 1 1, rfireCairn := bitOf 0 (fieldAt q 2 1), summaryRows := fieldAt q 4 4, logMask := fieldAt q 8 2,
    classes := Vector.ofFn fun c : Fin 4 => classReq q c.val }

/-- RETAIN_SET's rules (R265). -/
def retainSetCmd : Cmd := fun q s =>
  let op := fieldAt q 0 1
  if retainBad q then quit stBadArg s
  else if (List.range 4).any (fun c => (bitsSet 16 (classReq q c).pods).any fun p => !s.dev.variant.hasPod p) then
    quit stUnsupported s
  else if op = 0 then
    let s := modStaged (fun i => { i with retain := retainReq q }) s
    (s, some (pendingWith (retainBytes 0 s.cfg.staged.retain)))
  else (s, some (okWith (retainBytes op (if op = 1 then s.cfg.staged.retain else s.cfg.active.retain))))

/-- RETAIN_SET (R265). -/
def execRetainSet (m : Fin 8) (s : State) : Result := .next (command m.val 0x0404 retainSetCmd s)

/-- The epoch whose record a cairn of this moment joins: during a drain the next one (R244). -/
def markEpoch (s : State) : Nat := if s.dev.acq = .draining then s.ret.epoch + 1 else runningEpoch s

/-- MARK's rules (R266): the instant is that of the sample AX5 stands at. -/
def markCmd : Cmd := fun q s =>
  let win := bitOf 0 (fieldAt q 0 1)
  let cls := fieldAt q 1 1
  if 1 < fieldAt q 0 1 ∨ !zeroAt q 2 2 ∨ !zeroAt q 40 216 ∨ (win ∧ 3 < cls) then quit stBadArg s
  else if !acquiring s then quit stState s
  else
    let t := nowU s
    let payload := (q.drop 4).take 36 ++ leBytes 1 (if win then cls else 0xFF)
    let s := pushCairn 0x0003 t 0x02 0xFF payload s
    let s := if win then addRequest cls t s else s
    (s, some (okWith (instantBytes t ++ t0Bytes (t0Of (timeAOf s t)) ++ leBytes 4 (markEpoch s))))

/-- MARK (R266). -/
def execMark (m : Fin 8) (s : State) : Result := .next (command m.val 0x0405 markCmd s)

end Sys2Proof.Machine
end

