-- ==== Sys2Proof/Machine/Export.lean ====
section
/-! DEFINITION. The record compressor and the export queue: blocks, lanes and their verification, packets, banks, chunks,
release, rewind, the forced reset, pull mode and EXP_CFG (R270-R302, R470-R475). -/

namespace Sys2Proof.Machine

/-! ## Blocks (R270, R271) -/

/-- Can the compressor accept a frame: some lane has a free input buffer (R275)? -/
def lanesOpen (c : Cmp) : Bool := c.waiting.isEmpty && (freeLane c).isSome

/-- The space left in the open extent as store egress reports it (R271): the blocks on their way count with the most they
may come to. -/
def extRoom (x : Extent) (s : State) : Nat := extBytes x.size - extReserved s x

/-- A block that opens now in extent `n` (R271, R297). -/
def newBlock (n : Nat) (s : State) : Block :=
  { no := s.cmp.nextBlock, frames := [], head := false, forced := !s.cmp.compress, ext := n, max := 1024 * s.cmp.blockKib, flush := s.cmp.flushUs }

/-- What a frame leaves for inserted frames after it (R246, R248, R250): SEQ is that of the last retention frame. A block
frame's own SUSPECT is of its whole block, so that of its T0 is asked anew. -/
def noteFrame (f : Frame) (s : State) : LastFrame :=
  { seq := if isForwarded f || bitOf 0 (fieldAt f.bytes 3 1) then s.cmp.last.bind fun l => l.seq else some f.seq,
    epoch := f.epoch, t0 := (f.bytes.drop 24).take 8,
    suspect := match f.row with
      | some r => suspectIn (65536 * r) (65536 * r + 1) s
      | none => bitOf 1 (fieldAt f.bytes 3 1) }

/-- The frame joins the open block, or opens one (R270, R271); after EPOCH_CLOSE the block and the extent close (R314). -/
def packFrame (f : Frame) (x : Extent) (s : State) : State :=
  let b := s.cmp.opened.getD (newBlock x.seq s)
  let n := if s.cmp.opened.isNone then s.cmp.nextBlock + 1 else s.cmp.nextBlock
  let s := { s with cmp := { s.cmp with
    inq := s.cmp.inq.drop 1, nextBlock := n, opened := some { b with frames := b.frames ++ [f] },
    last := some (noteFrame f s), lastAt := s.tm.tick } }
  if isEpochClose f then closeExtent (fun x => { x with short := true }) s else s

/-- The open block closes before a frame that does not fit it or the extent (R271). -/
def closeBefore (n : Nat) (x : Extent) (s : State) : State :=
  match s.cmp.opened with
  | none => s
  | some b => if b.max < rawLen b + n ∨ extRoom x s < 16 + rawLen b + n then closeBlock s else s

/-- The next frame is taken, or the extent closes before it, or it waits (R271, R314). -/
def takeFrame (f : Frame) (x : Extent) (s : State) : State :=
  let n := f.bytes.length
  let s := closeBefore n x s
  if !lanesOpen s.cmp ∨ s.tal.opened.any (fun y => y.closing) then s
  else if s.cmp.opened.isNone ∧ extRoom x s < 16 + n then
    if (inFlight s.cmp).any (fun b => b.ext == x.seq) then s else closeExtent id s
  else packFrame f x s

/-- Does the open block, if there is one, belong to an extent? -/
def blockIn (x : Extent) (c : Cmp) : Bool := c.opened.all fun b => b.ext == x.seq

/-- COMPRESS_FRAME_IN (R271): the compressor takes the next frame when an extent is open for it and a lane has room. -/
def execCompressFrameIn (s : State) : Result :=
  .next (match s.cmp.inq, s.tal.opened with
    | f :: _, some x => if x.closing ∨ !lanesOpen s.cmp ∨ !blockIn x s.cmp then s else takeFrame f x s
    | _, _ => s)

/-- BLOCK_FLUSH_TIMEOUT (R271): FLUSH_US has passed after the open block's last frame with no further frame. -/
def execBlockFlushTimeout (s : State) : Result :=
  .next (if s.cmp.inq = [] ∧ s.cmp.opened.any fun b => decide (s.cmp.lastAt + b.flush * usTicks s ≤ s.tm.tick) then
      finishExtent (closeBlock s) else s)

/-! ## Lanes (R272-R277) -/

/-- The oldest block of a lane that has not been stored. -/
def laneNext (i : Nat) (c : Cmp) : Option Block :=
  ((tabGet (c.lanes.map fun l => l.held) i []).find? fun h => h.2.isNone).map fun h => h.1

/-- The first block without a stored form gets one. -/
def storeFirst (d : Stored) : List (Block × Option Stored) → List (Block × Option Stored)
  | [] => []
  | (b, none) :: hs => (b, some d) :: hs
  | h :: hs => h :: storeFirst d hs

/-- What becomes of the words pushed into the open packet when its lane has stored its block: of a block stored under R276 the
partial packet is withdrawn, and its words leave OCCUPIED, all but the reserved one of the packet that is pushed anew (R282). A
FORCED block is pushed as it came. -/
def withdraw (i : Nat) (d : Stored) (s : State) : State :=
  if s.eq.openPkt.isSome ∧ s.eq.openPkt = (laneNext i s.cmp).map fun b => b.no then
    { s with eq := { s.eq with openWords := if d.method = 0 ∧ d.flags ≠ 4 then 1 else min s.eq.openWords (storedWords d) } }
  else s

/-- A lane's block has its stored form; `bad` says that the verify lane rejected the output. -/
def laneStored (i : Nat) (d : Stored) (bad : Bool) (s : State) : State :=
  let s := withdraw i d s
  { s with cmp := { s.cmp with lanes := tabMod s.cmp.lanes i fun l =>
      { l with held := storeFirst d l.held, fails := if bad then l.fails + 1 else 0 } } }

/-- A block is stored with VERIFY_FAIL (R277): counted, G9.4, F15; the second in a row of one lane fences it. -/
def verifyFail (i : Nat) (raw : List Byte) (s : State) : State :=
  let s := laneStored i { method := 0, flags := 1, payload := raw } true s
  let s := raise 9 4 { s with cmp := { s.cmp with verifyFail := s.cmp.verifyFail + 1 } }
  let s := signalUnit 15 0 i s
  if 2 ≤ tabGet (s.cmp.lanes.map fun l => l.fails) i 0 then fenceLane i s else s

/-- Does a block bypass compression (R274, R277)? -/
def storedForced (i : Nat) (b : Block) (s : State) : Bool :=
  b.head || b.forced || tabGet (s.cmp.lanes.map fun l => l.fenced) i false

/-- Does the verify lane accept a lane's output (R276)? -/
def verifies (packed raw : List Byte) : Bool := packed != [] && inflate packed == some raw

/-- What lane `i` puts out for a block while nothing in it is faulty (R278). -/
def soundOutput (i : Nat) (raw : List Byte) (s : State) : List Byte :=
  Config.deflate (tabGet (s.cmp.lanes.map fun l => l.tables) i []) raw

/-- May lane `i` put out `packed` for a block? What passes verify is its own compression of the block, determined by what its
tables have taken in since they were cleared; what a fault in it puts out fails (R276, R278). -/
def laneOutput (i : Nat) (b : Block) (packed : List Byte) (s : State) : Bool :=
  storedForced i b s || packed == soundOutput i (rawBytes b) s || !verifies packed (rawBytes b)

/-- The stored form of a block when its lane's output is `packed` (R274, R276); the lane's tables take the block in (R278). -/
def storeBlock (i : Nat) (b : Block) (packed : List Byte) (s : State) : State :=
  let raw := rawBytes b
  if storedForced i b s then laneStored i { method := 0, flags := 4, payload := raw } false s
  else
    let s := { s with cmp := { s.cmp with lanes := tabMod s.cmp.lanes i fun l => { l with tables := l.tables ++ [raw] } } }
    if raw.length ≤ packed.length then
      laneStored i { method := 0, flags := 2, payload := raw } false
        { s with cmp := { s.cmp with noGain := s.cmp.noGain + 1 } }
    else if verifies packed raw then laneStored i { method := 1, flags := 0, payload := packed } false s
    else verifyFail i raw s

/-- LANE_BLOCK_DONE (R276): a lane finishes its oldest block; `packed` is what it puts out. -/
def execLaneBlockDone (lane : Fin 8) (packed : List Byte) (s : State) : Result :=
  .next (match laneNext lane.val s.cmp with
    | some b => if laneOutput lane.val b packed s then storeBlock lane.val b packed s else s
    | none => s)

/-! ## Packets (R281-R283, R345) -/

/-- May a packet open (R281, R292, R293)? -/
def packetMayOpen (b : Block) (s : State) : Bool :=
  s.eq.openPkt.isNone && !s.eq.resetting && !s.eq.epochHold && !s.eq.fillClosed && !s.eq.frozen && (findExtent b.ext s).isSome

/-- STALL is 1 (R283): a rise is counted, and raises G9.1 while STALL_SEEN is clear. -/
def riseStall (s : State) : State :=
  if s.eq.stall then s
  else
    let first := !s.eq.stallSeen
    let s := { s with eq := { s.eq with stall := true, stallSeen := true, stallCnt := s.eq.stallCnt + 1 } }
    if first then raise 9 1 s else s

/-- PACKET_OPEN (R281, R283): the next block's packet opens when the filling bank has RAW_LEN / 64 + 1 words free. -/
def execPacketOpen (s : State) : Result :=
  .next (match heldBlock s.cmp.nextPkt s.cmp with
    | some (b, _) =>
      if packetMayOpen b s then
        if fillWords s.eq + rawLen b / 64 + 1 ≤ 32768 then
          { s with eq := { s.eq with openPkt := some b.no, openWords := 1, stall := false } }
        else riseStall s
      else s
    | none => s)

/-- A block's stored bytes: header, then payload (R272). -/
def storedBytes (b : Block) (d : Stored) : List Byte :=
  leBytes 2 0xB10C ++ leBytes 1 d.method ++ leBytes 1 d.flags ++ leBytes 4 (rawLen b) ++ leBytes 4 d.payload.length ++
    leBytes 4 (crc32c (rawBytes b)) ++ d.payload

/-- The lowest and highest row of a block's frames (R294). -/
def blockRows (b : Block) : Option (Nat × Nat) :=
  b.frames.foldl (fun a f =>
    match f.row, a with
    | some r, some (lo, hi) => some (min lo r, max hi r)
    | some r, none => some (r, r)
    | none, a => a) none

/-- The SEAL frames of this unit in a block, by SEAL_NO and FORMAT_ID (R352, R354). -/
def blockSeals (b : Block) : List Nat :=
  (b.frames.filter fun f => f.type == 0x60 && !isForwarded f).map fun f => sealKey (fieldAt f.bytes 32 8) (fieldAt f.bytes 160 4)

/-- The packet of a block with its descriptor (R281, R294), at an offset in its extent. -/
def packetOf (b : Block) (d : Stored) (off : Nat) : Packet :=
  let bytes := storedBytes b d
  let seqs := b.frames.map fun f => f.seq
  { words := (bytes.length + 63) / 64, bytes := bytes, ext := b.ext, off := off, seqLo := seqs.foldl min (seqs.headD 0),
    seqHi := seqs.foldl max 0, lastSeq := seqs.getLastD 0, rows := blockRows b,
    pods := b.frames.foldl (fun m f => m ||| f.pods) 0, lastEpoch := (b.frames.getLast?.map fun f => f.epoch).getD 0, epochClose := b.frames.any isEpochClose,
    seals := blockSeals b }

/-- The stored bytes of a packet join its extent and its chain (R310, R345). -/
def absorb (p : Packet) (x : Extent) : Extent :=
  { x with
    bytes := x.bytes ++ p.bytes, lastSeq := p.lastSeq, lastEpoch := p.lastEpoch,
    sealFrames := x.sealFrames ++ p.seals.map fun n => (n, p.off) }

/-- The packet's lane buffer is free again (R275). -/
def freeBuffer (n : Nat) (c : Cmp) : Cmp :=
  { c with lanes := c.lanes.map fun l => { l with held := l.held.filter fun h => h.1.no ≠ n } }

/-- The open packet closes (R281): its bank holds it, its extent absorbs it, its lane buffer is free; at EPOCH_CLOSE the
bank closes and EPOCH_HOLD is set (R292), the lanes' tables are cleared (R278), and a staged RESHAPE takes effect once the extent
has closed (R308). -/
def closePacket (b : Block) (d : Stored) (s : State) : State :=
  let off := ((findExtent b.ext s).map fun x => x.bytes.length).getD 0
  let p := packetOf b d off
  let c := freeBuffer b.no s.cmp
  let s := { s with
    cmp := dealBlocks 8 { c with
      nextPkt := s.cmp.nextPkt + 1, storedBytes := min (2 ^ 64 - 1) (s.cmp.storedBytes + p.bytes.length) },
    eq := { s.eq with
      banks := tabMod s.eq.banks (fillBank s.eq) (· ++ [p]), openPkt := none, openWords := 0, wpos := s.eq.wpos + p.words,
      epochHold := s.eq.epochHold || p.epochClose, fillClosed := s.eq.fillClosed || p.epochClose } }
  let s := closeFrozenBank (finishExtent (feedChain p.bytes.length (modExtent b.ext (absorb p) s)))
  let s := if p.epochClose then { s with cmp := clearTables s.cmp } else s
  if p.epochClose ∧ s.tal.opened.isNone then applyReshape s else s

/-! ## Direct-drive commands (R328) -/

def driveOf (s : State) (d : Nat) : Drive := tabGet s.tal.drives d Drive.reset

def modDrive (d : Nat) (f : Drive → Drive) (s : State) : State :=
  { s with tal := { s.tal with drives := tabMod s.tal.drives d f } }

/-- Is a place on a drive (R311)? -/
def onDrive (p : Place) : Bool := decide (16 ≤ p.target ∧ p.target < 20)

/-- Every outstanding command of every drive. -/
def allCmds (s : State) : List DriveCmd := s.tal.drives.toList.flatMap fun d => d.cmds

/-- Is any drive FAILED (R331)? -/
def driveFailed (s : State) : Bool := s.tal.drives.toList.any fun d => d.state == 2

/-- May a command be issued (R288, R331, R482)? -/
def drivesFree (s : State) : Bool := busMaster s && decide ((allCmds s).length < 8) && !driveFailed s

/-- The PRP list a new command uses (R327): one per outstanding command. -/
def freePrp (s : State) : Nat := ((List.range 8).find? fun i => !(allCmds s).any fun c => c.prp == i).getD 0

/-- A 64-byte submission entry: CDW0 with opcode and identifier, NSID, PRP1, PRP2, and CDW10 to CDW12 (R328; log 31). -/
def sqEntry (op cid nsid prp1 prp2 lba cdw12 : Nat) : List Byte :=
  leBytes 1 op ++ leBytes 1 0 ++ leBytes 2 cid ++ leBytes 4 nsid ++ zeros 16 ++ leBytes 8 prp1 ++ leBytes 8 prp2 ++
    leBytes 8 lba ++ leBytes 4 cdw12 ++ zeros 12

/-- Place a submission entry at the tail and ring the doorbell (R327, R328, R471). -/
def submit (d : Nat) (c : DriveCmd) (entry : Nat → List Byte) (s : State) : State :=
  let q := driveOf s d
  let cid := q.tail % 64 + 64 * (tabGet q.uses (q.tail % 64) 0 % 1024)
  let tail := (q.tail + 1) % 64
  let s := scratchWrite (0x30000 + 0x2000 * d + 64 * (q.tail % 64)) (entry cid) s
  let s := modDrive d (fun q => { q with
    tail := tail, uses := tabMod q.uses (q.tail % 64) (· + 1), cmds := q.cmds ++ [{ c with cid := cid, rung := s.tm.tick }] }) s
  emitOut (.doorbell q.cfg.sqDb tail) s

/-- The bus address of stored byte `b` of extent `n` in the record window (R330). -/
def recAddr (d n b : Nat) (s : State) : Nat := (driveOf s d).cfg.recBus + 0x400000 * (n % 2) + b

/-- Issue the Write of stored bytes [lo, hi) of an extent (R328, R329): the identifier it got. -/
def submitWrite (d : Nat) (x : Extent) (lo hi : Nat) (s : State) : Nat × State :=
  let q := driveOf s d
  let units := (hi - lo + 4095) / 4096
  let i := freePrp s
  let page (k : Nat) : Nat := recAddr d x.seq (lo + 4096 * k) s
  let prp2 := if units ≤ 1 then 0 else if units = 2 then page 1 else q.cfg.prpBus + 0x1000 * i
  let s := if units ≤ 2 then s
    else scratchWrite (0x38000 + 0x1000 * i) ((List.range (units - 1)).flatMap fun k => leBytes 8 (page (k + 1))) s
  let cid := q.tail % 64 + 64 * (tabGet q.uses (q.tail % 64) 0 % 1024)
  let cdw12 := units - 1 + (if q.cfg.fua then 2 ^ 30 else 0)
  let p1 := page 0
  (cid, submit d { cid := 0, flush := false, ext := x.seq, lo := lo, hi := hi, rung := 0, prp := i }
    (fun cid => sqEntry 1 cid q.cfg.nsid p1 prp2 (x.place.addr + lo / 4096) cdw12) s)

/-- Does an extent wait for its Flush (R319)? Only an ACTIVE drive takes one (R325). -/
def needsFlush (x : Extent) (s : State) : Bool :=
  onDrive x.place && wholeReleased x && !x.durable && !(driveOf s (x.place.target - 16)).cfg.fua &&
    (driveOf s (x.place.target - 16)).state == 1 &&
    !(allCmds s).any fun c => c.flush && c.ext == x.seq

/-- Issue the Flush commands that are due, oldest extent first (R319, R328). -/
def issueFlushes (s : State) : State :=
  s.tal.pending.foldl (fun s x =>
    if needsFlush x s ∧ drivesFree s then
      let d := x.place.target - 16
      submit d { cid := 0, flush := true, ext := x.seq, lo := 0, hi := 0, rung := 0, prp := freePrp s }
        (fun cid => sqEntry 0 cid (driveOf s d).cfg.nsid 0 0 0 0) s
    else s) s

/-- PACKET_CLOSE (R281, R345): the open packet's lane has stored its block, and the chain has the capacity to take it (R346). -/
def execPacketClose (s : State) : Result :=
  .next (match s.eq.openPkt with
    | none => s
    | some n =>
      match heldBlock n s.cmp with
      | some (b, some d) => if chainShort s then s else idleOnceEmpty (issueFlushes (closePacket b d s))
      | _ => s)

/-! ## Banks (R284, R286, R287) -/

/-- Does the egress engine pop (R287, R291, R295, R482)? -/
def egressPops (s : State) : Bool := !s.eq.pull && !s.eq.paused && busMaster s

/-- The banks swap (R284): the engine's pop in that cycle underruns (R287), or in pull mode G9.0 (R296). -/
def swapBanks (s : State) : State :=
  let content := bankPackets s.eq (fillBank s.eq)
  let under := egressPops s
  let s := { s with eq := { s.eq with
    banks := tabMod s.eq.banks s.eq.drain fun _ => [], drain := fillBank s.eq, rd := 0, released := 0, fillClosed := false,
    underrun := s.eq.underrun || under,
    underrunCnt := if under then s.eq.underrunCnt + 1 else s.eq.underrunCnt } }
  if s.eq.pull ∧ content ≠ [] then raise 9 0 s else s

/-- EQ_BANK_SWAP (R284). -/
def execEqBankSwap (s : State) : Result :=
  .next (if drainWords s.eq = s.eq.released ∧ s.eq.openPkt.isNone ∧ !s.eq.resetting ∧
      (bankPackets s.eq (fillBank s.eq) ≠ [] ∨ s.eq.fillClosed) then swapBanks s else s)

/-! ## Chunks (R288, R329, R469, R470) -/

/-- The packets of a bank from word `n` on. -/
def packetsFrom : Nat → List Packet → List Packet
  | _, [] => []
  | 0, ps => ps
  | n + 1, p :: ps => packetsFrom (n + 1 - p.words) ps

/-- The 64 bytes of word `n` of a bank. -/
def wordAt : Nat → List Packet → List Byte
  | _, [] => zeros 64
  | n, p :: ps => if n < p.words then padTo 64 (p.bytes.drop (64 * n)) else wordAt (n - p.words) ps

/-- Does a packet end its extent (R288)? -/
def endsExtent (s : State) (p : Packet) : Bool :=
  match findExtent p.ext s with
  | some x => x.closed && packetStop p == x.bytes.length
  | none => true

/-- The packets of the chunk that starts here, given the words it has (R288). -/
def chunkPackets (s : State) (limit : Nat) : Nat → List Packet → List Packet
  | _, [] => []
  | w, p :: ps => if limit ≤ w + p.words ∨ endsExtent s p then [p] else p :: chunkPackets s limit (w + p.words) ps

/-- The completion timeout in force, in microseconds (R472). -/
def ctoUs (s : State) : Nat :=
  match s.pcie.ctoValue with
  | 1 => 80
  | 2 => 8000
  | 5 => 40000
  | 6 => 160000
  | 9 => 700000
  | 10 => 3000000
  | 13 => 10000000
  | 14 => 50000000
  | _ => 40000

/-- The bytes a posted write may carry (R463, R469). -/
def maxPayload (s : State) : Nat := min 512 (128 * 2 ^ s.pcie.mps)

/-- Bytes to a bus address as posted writes in ascending order, each ending at the next multiple of Max_Payload_Size, so that
none exceeds it or crosses a 4 KiB boundary (R469; how far each reaches is log 63). -/
def postWrites : Nat → Nat → List Byte → State → State
  | 0, _, _, s => s
  | n + 1, a, bs, s =>
    if bs = [] then s
    else
      let k := maxPayload s - a % maxPayload s
      postWrites n (a + k) (bs.drop k) (emitOut (.postedWrite a (bs.take k)) s)

/-- The tag of the next flush read (R475). -/
def freeTag (s : State) : Nat :=
  let space := if s.pcie.tag10 then 1024 else 256
  let used (t : Nat) : Bool := s.pcie.tags.any (fun e => e.1 == t) || s.pcie.quarantine.any (fun e => e.1 == t)
  (((List.range 32).map fun i => (s.pcie.nextTag + i) % space).find? fun t => !used t).getD 0

/-- The engine has popped up to word `rd` (R285, R286). -/
def popTo (rd : Nat) (s : State) : State :=
  { s with eq := { s.eq with
    rd := rd, rpos := s.eq.rpos + (rd - s.eq.rd), lastRead := wordAt (rd - 1) (bankPackets s.eq s.eq.drain) } }

/-- A chunk for a store window (R288, R321, R470): its posted writes, then the flush read of its last DWORD. -/
def windowChunk (x : Extent) (ps : List Packet) (s : State) : State :=
  let c := chunkPackets s (16 * s.eq.chunkKib) 0 ps
  let lo := (c.head?.map fun p => p.off).getD 0
  let data := c.flatMap fun p => p.bytes
  let hi := lo + data.length
  let last := (x.place.addr + hi - 1) / 4 * 4
  let tag := freeTag s
  let upto := s.eq.rd + packetWords c
  let k : Chunk :=
    { first := s.eq.rd, upto := upto, ext := x.seq, lo := lo, hi := hi, tag := some tag, drive := none, met := false }
  let s := popTo upto s
  let s := { s with
    eq := { s.eq with chunks := s.eq.chunks ++ [k] },
    pcie := { s.pcie with tags := s.pcie.tags ++ [(tag, last, s.tm.tick + usTicks s * ctoUs s)], nextTag := tag + 1 } }
  emitOut (.flushRead last tag) (postWrites (data.length / maxPayload s + 2) (x.place.addr + lo) data s)

/-- The first byte of extent `n` that no chunk covers. -/
def covered (x : Extent) (s : State) : Nat :=
  (s.eq.chunks.filter fun c => c.ext == x.seq).foldl (fun m c => max m c.hi) x.releasedBytes

/-- The first packet that no drive chunk covers wholly. -/
def uncovered (s : State) : Option (Packet × Extent) :=
  (bankPackets s.eq s.eq.drain).findSome? fun p =>
    match findExtent p.ext s with
    | some x => if covered x s < packetStop p then some (p, x) else none
    | none => none

/-- The end of the drive chunk that starts at `lo`, and whether all content was popped for it (R329). -/
def driveChunkEnd (x : Extent) (lo : Nat) (s : State) : Option (Nat × Bool) :=
  let limit := 1024 * min s.eq.chunkKib (driveOf s (x.place.target - 16)).cfg.mdtsKib
  let top := ((bankPackets s.eq s.eq.drain).filter fun p => p.ext == x.seq).foldl (fun m p => max m (packetStop p)) 0
  if lo + limit ≤ top then some (lo + limit, false)
  else if x.closed ∧ top = x.bytes.length then some (top, false)
  else if lo < top / 4096 * 4096 then some (top / 4096 * 4096, true)
  else none

/-- The words popped once the bytes of extent `n` before `h` are (R329). -/
def wordsFrom (n h : Nat) (ps : List Packet) : Nat :=
  (ps.map fun p =>
    if p.ext < n ∨ (p.ext = n ∧ packetStop p ≤ h) then p.words
    else if p.ext = n then (h - p.off + 63) / 64 else 0).sum

/-- No Write of an extent is issued while a command of the one before the last, or of an earlier one, is outstanding
(R330). -/
def halvesClear (x : Extent) (s : State) : Bool := (allCmds s).all fun c => decide (x.seq < c.ext + 2)

/-- A chunk for a drive (R329): one Write. -/
def driveChunk (x : Extent) (s : State) : State :=
  let lo := covered x s
  match driveChunkEnd x lo s with
  | none => s
  | some (hi, all) =>
    if drivesFree s ∧ halvesClear x s then
      let ps := bankPackets s.eq s.eq.drain
      let d := x.place.target - 16
      let r := submitWrite d x lo hi s
      let k : Chunk :=
        { first := wordsUpTo x.seq lo ps, upto := wordsUpTo x.seq hi ps, ext := x.seq, lo := lo, hi := hi, tag := none,
          drive := some (d, r.1), met := false }
      let s := popTo (max s.eq.rd (if all then packetWords ps else wordsFrom x.seq hi ps)) r.2
      { s with eq := { s.eq with chunks := s.eq.chunks ++ [k] } }
    else s

/-- The next chunk, wherever its extent goes. -/
def nextChunk (s : State) : State :=
  match uncovered s with
  | none => s
  | some (p, x) =>
    if onDrive x.place then driveChunk x s
    else
      let ps := packetsFrom s.eq.rd (bankPackets s.eq s.eq.drain)
      if ps = [] ∨ (ps.head?.map fun q => q.ext) ≠ some p.ext then s else windowChunk x ps s

/-- EXPORT_CHUNK_CLOSE (R288, R329): at most 8 chunks and 8 flush reads are outstanding (R475), and records wait while a drive is FAILED (R331); Flush
commands that are due go out too. -/
def execExportChunkClose (s : State) : Result :=
  .next (issueFlushes
    (if egressPops s ∧ !s.eq.resetting ∧ !driveFailed s ∧ s.eq.chunks.length < 8 ∧ s.pcie.tags.length < 8 then nextChunk s else s))

/-! ## Flush reads (R470, R473, R474) -/

/-- The address of an outstanding flush read. -/
def tagAddr (tag : Nat) (s : State) : Option Nat := (s.pcie.tags.find? fun e => e.1 = tag).map fun e => e.2.1

def dropTag (tag : Nat) (s : State) : State :=
  { s with pcie := { s.pcie with tags := s.pcie.tags.filter fun e => e.1 ≠ tag } }

/-- Is the chunk of a flush read still outstanding? -/
def chunkOfTag (tag : Nat) (s : State) : Bool := s.eq.chunks.any fun c => c.tag == some tag

/-- A rewind unless the chunk was cancelled before (R470, R473). -/
def rewindFor (tag : Nat) (s : State) : State := if chunkOfTag tag s then rewind s else s

/-- A chunk's release condition is met (R46, R289). -/
def meetChunk (p : Chunk → Bool) (s : State) : State :=
  releaseAll { s with eq := { s.eq with chunks := s.eq.chunks.map fun c => if p c then { c with met := true } else c } }

/-- A flush-read completion with error status or EP (R470, R477). -/
def badFlush (tag addr : Nat) (poisoned : Bool) (s : State) : State :=
  let s :=
    if poisoned then aerAdvisory 3 (raise 14 8 { s with pcie := { s.pcie with poison := s.pcie.poison + 1 } }) else s
  let s := raiseWith false 14 5 (cplData tag addr) { s with pcie := { s.pcie with badCplCnt := s.pcie.badCplCnt + 1 } }
  rewindFor tag s

/-- FLUSH_READ_CPL (R470). -/
def execFlushReadCpl (tag : Nat) (ok poisoned : Bool) (s : State) : Result :=
  .next (match tagAddr tag s with
    | none => s
    | some a =>
      let s := dropTag tag s
      if ok ∧ !poisoned then issueFlushes (meetChunk (fun c => c.tag == some tag) s) else badFlush tag a poisoned s)

/-- A flush read times out (R473). -/
def flushTimeout (tag addr : Nat) (s : State) : State :=
  let s := dropTag tag s
  let q := (tag, addr, s.tm.tick + 2 * usTicks s * ctoUs s, false)
  let s := { s with pcie := { s.pcie with quarantine := s.pcie.quarantine ++ [q], cplToCnt := s.pcie.cplToCnt + 1 } }
  let s := raise 14 3 (signal 26 (BitVec.ofNat 32 (tag % 1024)) (aerAdvisory 0 s))
  rewindFor tag s

/-- FLUSH_READ_TIMEOUT (R473): the timeout in force at its transmission has passed (R472). -/
def execFlushReadTimeout (tag : Nat) (s : State) : Result :=
  .next (match s.pcie.tags.find? fun e => e.1 = tag with
    | none => s
    | some e => if e.2.2 ≤ s.tm.tick then flushTimeout tag e.2.1 s else s)

/-- `n` words of 8 free bytes. -/
def freeBytes : Nat → State → List Byte × State
  | 0, s => ([], s)
  | n + 1, s =>
    let r := freeBits 64 s
    let t := freeBytes n r.2
    (leBytes 8 r.1 ++ t.1, t.2)

/-- INBOUND_POISONED_WRITE (R477): a write with EP set is discarded as a whole, though one to BAR0 consumes a pending unlock (R540).
No row of its own carries the other errors of R477, so this one does: those of the link layer and a corrected internal error
are correctable; a TLP that fails ECRC while checking is enabled is discarded, a failing completion as R470 has it; the rest
discard their TLP, or complete a read with EP set (DESIGN CHOICE, log 78). -/
def execInboundPoisonedWrite (e : RxError) (off : Nat) (s : State) : Result :=
  match e with
  | .poisonedWrite bar =>
    if alive s then
      let s := if bar.val = 0 then (takeUnlock s).2 else s
      .next (aerUncorrectable 3 (raise 14 8 { s with pcie := { s.pcie with poison := s.pcie.poison + 1 } }))
    else .next s
  | .ecrc cpl =>
    if alive s ∧ s.pcie.aer.ecrcChk then
      let s := aerUncorrectable 4 s
      .next (match cpl with
        | none => s
        | some tag => match tagAddr tag s with
          | some addr => dropTag tag (badFlush tag addr false s)
          | none => s)
    else .next s
  | .internal bar len =>
    if alive s then
      let s := aerUncorrectable 9 s
      .next (match len with
        | none => s
        | some n => let r := freeBytes (n / 8 + 1) s; emitOut (.readData bar.val off (r.1.take n) true) r.2)
    else .next s
  | .malformed => .next (if alive s then aerUncorrectable 5 s else s)
  | .overflow => .next (if alive s then aerUncorrectable 6 s else s)
  | .flowControl => .next (if alive s then aerUncorrectable 7 s else s)
  | .dlProtocol => .next (if alive s then aerUncorrectable 8 s else s)
  | .receiver => .next (if alive s then aerCorrectable 10 s else s)
  | .badTlp => .next (if alive s then aerCorrectable 11 s else s)
  | .badDllp => .next (if alive s then aerCorrectable 12 s else s)
  | .replayTimeout => .next (if alive s then aerCorrectable 13 s else s)
  | .replayRollover => .next (if alive s then aerCorrectable 14 s else s)
  | .correctedInternal => .next (if alive s then aerCorrectable 15 s else s)

/-! ## Forced reset (R293, R294, R314, R345) -/

/-- The packets of both banks that are not wholly released. -/
def unreleased (q : Eq) : List Packet :=
  packetsFrom (eqMark q) (bankPackets q q.drain) ++ bankPackets q (fillBank q)

/-- What the descriptors of discarded packets say (R294): SEQs, rows, pods. -/
def lostOf (ps : List Packet) : Option (Nat × Nat) × Option (Nat × Nat) × Nat :=
  (match ps with
    | [] => none
    | p :: _ => some (ps.foldl (fun m q => min m q.seqLo) p.seqLo, ps.foldl (fun m q => max m q.seqHi) p.seqHi),
   ps.foldl (fun a p =>
    match p.rows, a with
    | some (l, h), some (lo, hi) => some (min lo l, max hi h)
    | some r, none => some r
    | none, a => a) none,
   ps.foldl (fun m p => m ||| p.pods) 0)

/-- An extent ends at its last released packet, with RESET (R314, R345). -/
def resetExtent (prev : List Byte) (x : Extent) : Extent :=
  let bytes := x.bytes.take x.relLen
  { x with
    prev := prev, bytes := bytes, closing := true, closed := true, reset := true, lastSeq := x.relSeq, lastEpoch := x.relEpoch,
    releasedBytes := max x.releasedBytes x.relLen, chain := shake256 (prev ++ bytes),
    sealFrames := x.sealFrames.filter fun f => decide (f.2 < x.relLen) }

/-- The closed extents after a reset: from the first that lost a packet on, each ends at its last released packet and its
chain follows from there. -/
def resetClosed (lost : Nat → Bool) : Option (List Byte) → List Extent → List Extent × Option (List Byte)
  | h, [] => ([], h)
  | h, x :: xs =>
    if lost x.seq then
      let y := resetExtent (h.getD x.prev) x
      let r := resetClosed lost (some y.chain) xs
      (y :: r.1, r.2)
    else
      let r := resetClosed lost h xs
      (x :: r.1, r.2)

/-- The extents after a reset (R314): those that lost packets and the open one end with RESET. -/
def resetExtents (lost : Nat → Bool) (s : State) : State :=
  let r := resetClosed lost none s.tal.pending
  let s := { s with tal := { s.tal with pending := r.1, chain := r.2.getD s.tal.chain } }
  match s.tal.opened with
  | none => s
  | some x =>
    let y := resetExtent (r.2.getD x.prev) { x with short := x.short || s.tal.closeDue }
    { s with tal := { s.tal with opened := none, pending := s.tal.pending ++ [y], chain := y.chain, closeDue := false } }

/-- The blocks that have no packet go to the next extent (R293: packing resumes with the next block). -/
def displaceBlocks (s : State) : State :=
  let n := s.tal.nextExt
  let move (b : Block) : Block := { b with ext := n }
  { s with cmp := { s.cmp with
      opened := s.cmp.opened.map move, waiting := s.cmp.waiting.map move,
      lanes := s.cmp.lanes.map fun l => { l with held := l.held.map fun h => (move h.1, h.2) } } }

/-- What `lostOf` says of a block that is lost with an open packet or in a lane buffer: the SEQs, rows and pods of its frames
(R294, R579). -/
def lostBlock (b : Block) : Packet :=
  let seqs := b.frames.map fun f => f.seq
  let rows := b.frames.filterMap fun f => f.row
  { words := 0, bytes := [], ext := b.ext, off := 0, seqLo := seqs.foldl min (seqs.headD 0), seqHi := seqs.foldl max 0,
    rows := match rows with
      | [] => none
      | r :: _ => some (rows.foldl min r, rows.foldl max r),
    pods := b.frames.foldl (fun m f => m ||| f.pods) 0, lastSeq := 0, lastEpoch := 0, epochClose := b.frames.any isEpochClose, seals := [] }

/-- A block number once block `n` is gone. -/
def closeUp (n k : Nat) : Nat := if n < k then k - 1 else k

/-- The compressor without block `n`: the later blocks move up in block order. -/
def withoutBlock (n : Nat) (s : State) : State :=
  let up (b : Block) : Block := { b with no := closeUp n b.no }
  { s with
    cmp := { s.cmp with
      opened := s.cmp.opened.map up, waiting := s.cmp.waiting.map up, nextBlock := s.cmp.nextBlock - 1,
      nextPkt := closeUp n s.cmp.nextPkt,
      lanes := s.cmp.lanes.map fun l =>
        { l with held := (l.held.filter fun h => h.1.no != n).map fun h => (up h.1, h.2) } } }

/-- The open packet is discarded with its block, so that packing resumes with the next one (R293, R294; log 40). -/
def dropOpen (s : State) : List Packet × State :=
  match s.eq.openPkt.bind fun n => heldBlock n s.cmp with
  | some (b, _) => ([lostBlock b], withoutBlock b.no s)
  | none => ([], s)

/-- The pointers that the queue keeps twice (R293): W, RD, the mark, the release position and the contents. -/
def pointers (q : Eq) : Tab 6 Int :=
  #v[(packetWords (bankPackets q (fillBank q)) + q.openWords : Nat), (q.rd : Nat), (eqMark q : Nat), (q.released : Nat),
    (packetWords (bankPackets q 0) : Nat), (packetWords (bankPackets q 1) : Nat)]

/-- Their second copies: both take every update alike, so that they stay as far apart as an upset left them. -/
def copies (q : Eq) : Tab 6 Int := Vector.zipWith (· + ·) (pointers q) q.skew

/-- What a lost EPOCH_CLOSE leaves to do: the lanes' tables are cleared and a staged RESHAPE takes effect, the extent being closed
(R278, R308). -/
def boundaryLost (ps : List Packet) (s : State) : State :=
  if ps.any fun p => p.epochClose then applyReshape { s with cmp := clearTables s.cmp } else s

/-- A forced reset of the queue (R293); `extra` are further blocks lost with its packets (R579). A reset before the one under way
is done adds its own descriptors (R294). -/
def forceReset (extra : List Packet) (s : State) : State :=
  let o := dropOpen s
  let ps := unreleased s.eq ++ o.1 ++ extra
  let s := o.2
  let s := raise 9 3 { s with eq := { s.eq with resetting := true, resetCnt := s.eq.resetCnt + 1 } }
  let s := { s with eq := { s.eq with
    banks := Vector.replicate 2 [], openPkt := none, openWords := 0, skew := Vector.replicate 6 0, rd := 0, released := 0, chunks := [],
    fillClosed := false, epochHold := false, stall := false, lost := s.eq.lost ++ [lostOf ps] } }
  let s := boundaryLost (o.1 ++ extra) (displaceBlocks (resetExtents (fun n => ps.any fun p => p.ext == n) s))
  idleOnceEmpty (closeFrozenBank (afterRelease s))

/-- The copies are compared: on a mismatch F14 and a forced reset (R293). -/
def comparePointers (s : State) : State := if pointers s.eq = copies s.eq then s else forceReset [] (signal 14 0 s)

/-- EQ_POINTER_MISMATCH (R293): an upset sets the second copies apart from the first, and the comparison finds it. Which of
them differ changes nothing: the reset makes them alike again. -/
def execEqPointerMismatch (s : State) : Result :=
  .next (comparePointers { s with eq := { s.eq with skew := Vector.replicate 6 1 } })

/-- The GAP frame of a reset (R294). -/
def resetGap (l : Option (Nat × Nat) × Option (Nat × Nat) × Nat) (s : State) : State :=
  let free := freeBits 64 s
  let seqs := l.1.getD (free.1, free.1)
  let s := if l.1.isNone then free.2 else s
  let bounds := match l.2.1 with
    | some (lo, hi) => (256 * lo, 256 * (hi + 1))
    | none => (256 * s.ret.emitRow, 256 * s.ret.emitRow)
  let g : Gap :=
    { cause := 8, detail := 0, pods := if l.2.1.isSome then l.2.2 else 0, pod := 0xFF, start := bounds.1,
      stop := some bounds.2, tStart := t0Of (timeAOf s (256 * bounds.1)), tStop := t0Of (timeAOf s (256 * bounds.2)),
      seqFirst := seqs.1, seqLast := seqs.2 }
  { s with ret := { s.ret with gaps := s.ret.gaps ++ [g] } }

/-- EQ_RESET_DONE (R293, R294): packing resumes, and one GAP frame per reset records what was lost. -/
def execEqResetDone (s : State) : Result :=
  .next (if s.eq.resetting then
      let s := s.eq.lost.foldl (fun s l => resetGap l s) s
      { s with eq := { s.eq with resetting := false, lost := [] } }
    else s)

/-! ## EXP_CFG (R297) -/

/-- The response: the request layout with the settings in force. -/
def expReply (op : Nat) (s : State) : List Byte :=
  leBytes 1 op ++ leBytes 1 0 ++ leBytes 1 (b2n s.eq.paused) ++ leBytes 1 (b2n s.eq.pull) ++ leBytes 1 s.cmp.blockKib ++
    leBytes 1 (b2n s.cmp.compress) ++ leBytes 2 s.cmp.flushUs ++ leBytes 2 s.eq.chunkKib

/-- PAUSE takes effect (R291): every PAUSE = 1 rewinds and raises G9.7; in PULL mode it only sets PAUSED (R297). -/
def setPause (on : Bool) (s : State) : State :=
  let s := { s with eq := { s.eq with paused := on } }
  if on ∧ !s.eq.pull then raise 9 7 (rewind s) else s

/-- Is an EXP_CFG request out of range (R297 rule 1)? -/
def expBad (q : List Byte) : Bool :=
  let ops := fieldAt q 1 1
  decide (1 < fieldAt q 0 1) || decide (0x3F < ops) || !zeroAt q 10 246 ||
    (ops.testBit 0 && decide (1 < fieldAt q 2 1)) || (ops.testBit 1 && decide (1 < fieldAt q 3 1)) ||
    (ops.testBit 2 && decide (¬(1 ≤ fieldAt q 4 1 ∧ fieldAt q 4 1 ≤ 64))) || (ops.testBit 3 && fieldAt q 6 2 == 0) ||
    (ops.testBit 4 && decide (¬(64 ≤ fieldAt q 8 2 ∧ fieldAt q 8 2 ≤ 2048 ∧ fieldAt q 8 2 % 64 = 0))) ||
    (ops.testBit 5 && decide (1 < fieldAt q 5 1))

/-- EXP_CFG's rules (R297). EGRESS_MODE PULL is accepted on every variant: R295 and R297 name none, while R15 says of the
RNK-9128-B that the store windows are its only egress (DESIGN CHOICE, log 61). -/
def expCfgCmd : Cmd := fun q s =>
  let ops := fieldAt q 1 1
  let pull := fieldAt q 3 1 == 1
  if expBad q then quit stBadArg s
  else if fieldAt q 0 1 = 1 then (s, some (okWith (expReply 1 s)))
  else if ops.testBit 1 ∧ pull ≠ s.eq.pull ∧ (s.dev.acq ≠ .idle ∨ occupied s.eq ≠ 0) then quit stState s
  else
    let s := { s with
      eq := { s.eq with
        pull := if ops.testBit 1 then pull else s.eq.pull,
        chunkKib := if ops.testBit 4 then fieldAt q 8 2 else s.eq.chunkKib },
      cmp := { s.cmp with
        blockKib := if ops.testBit 2 then fieldAt q 4 1 else s.cmp.blockKib,
        flushUs := if ops.testBit 3 then fieldAt q 6 2 else s.cmp.flushUs,
        compress := if ops.testBit 5 then fieldAt q 5 1 == 1 else s.cmp.compress } }
    let s := if ops.testBit 0 then setPause (fieldAt q 2 1 == 1) s else s
    (s, some (okWith (expReply 0 s)))

/-- EXP_CFG (R297). -/
def execExpCfg (m : Fin 8) (s : State) : Result := .next (command m.val 0x0407 expCfgCmd s)

/-! ## Host pull mode (R295, R296) -/

/-- A bad access of the pull window, or a refused release (R295, R296): the event. -/
def pullBad (s : State) : State := raise 9 6 { s with eq := { s.eq with pullBad := s.eq.pullBad + 1 } }

/-- The content of the draining bank as bytes. -/
def bankBytes (ps : List Packet) : List Byte := ps.flatMap fun p => padTo (64 * p.words) p.bytes

/-- Does a read of the pull window lie within the draining bank's content (R295)? -/
def pullServed (off len : Nat) (s : State) : Bool :=
  s.eq.pull && decide (0x200000 * s.eq.drain ≤ off ∧ off + len ≤ 0x200000 * s.eq.drain + 64 * drainWords s.eq)

/-- PULL_WINDOW_READ (R295); `off` counts from the start of the window. -/
def execPullWindowRead (off len : Nat) (s : State) : Result :=
  .next (barRead 4 (0x3000000 + off) len (fun s =>
    if pullServed off len s then
      let data := bankBytes (bankPackets s.eq s.eq.drain)
      emitOut (.readData 4 (0x3000000 + off) ((data.drop (off - 0x200000 * s.eq.drain)).take len) false) s
    else emitOut (.readData 4 (0x3000000 + off) (zeros len) false) (pullBad s)) s)

/-- PULL_WINDOW_WRITE (R295): discarded and counted. -/
def execPullWindowWrite (_off : Nat) (_data : List Byte) (s : State) : Result := .next (memWriteTlp 4 pullBad s)

/-- A write of EXP_PULL_RELEASE (R296). -/
def writePullRelease (v : Word) (be : BitVec 4) (s : State) : State :=
  special 0x7064 v be (fun s =>
    let upto := s.eq.released + v.toNat % 65536
    if s.eq.pull ∧ upto ≤ drainWords s.eq ∧ packetEnd upto 0 (bankPackets s.eq s.eq.drain) = upto then
      clearHold (afterRelease (releaseTo upto s))
    else raise 9 6 s) s

/-- EXP_PULL_RELEASE (R296). -/
def execExpPullRelease (v : Word) (be : BitVec 4) (s : State) : Result := .next (barWrite (fun _ => writePullRelease v be) s)

/-! ## Durability acknowledgements (R319, R320) -/

/-- Is direct-drive mode in force (R325)? -/
def directMode (s : State) : Bool := s.tal.drives.toList.any fun d => d.state == 1

/-- Does SEQ name an extent that is open or not yet wholly released (R320)? -/
def ackNames (n : Nat) (s : State) : Bool :=
  match findExtent n s with
  | some x => !wholeReleased x
  | none => false

/-- An act of EXP_DURABLE_ACK (R320). -/
def durableAck (v : Word64) (s : State) : State :=
  let n := v.toNat % 2 ^ 48
  if s.tal.durable.any fun d => decide (n ≤ d) then s
  else if ackNames n s ∨ s.tal.nextExt ≤ n ∨ s.tal.ackRelease ∨ directMode s then raise 10 4 s
  else
    s.tal.pending.foldl (fun s x =>
      if x.seq ≤ n ∧ wholeReleased x ∧ !x.durable ∧ !onDrive x.place then makeDurable x s else s) s

/-- A write of EXP_DURABLE_ACK (R320, R537). -/
def writeDurableAck (v : Word64) (be : BitVec 8) (s : State) : State := write64 0x7070 true 0 v be durableAck s

/-- EXP_DURABLE_ACK (R320). -/
def execExpDurableAck (v : Word64) (be : BitVec 8) (s : State) : Result := .next (barWrite (fun _ => writeDurableAck v be) s)

/-! ## PAD (R250) -/

/-- The PAD frame of 64 bytes, with the EPOCH and T0 of the frame before it and its SEQ per R248. -/
def padFrame (seq : Nat) (l : LastFrame) (s : State) : Frame :=
  { type := 2, seq := seq, epoch := l.epoch, row := none, pods := 0,
    bytes := frameBytes 2 (1 + 2 * b2n l.suspect) l.epoch s.rl.addr 0x03 0xFF seq (leNat (l.t0.take 4), leNat (l.t0.drop 4))
      (zeros 28) }

/-- Hand the PAD frame over as a block of its own, which closes at once (R250). -/
def handPad (x : Extent) (l : LastFrame) (s : State) : State :=
  let r := match l.seq with
    | some q => (q, s)
    | none => freeBits 64 s
  let b := { newBlock x.seq r.2 with frames := [padFrame r.1 l r.2] }
  closeBlock { r.2 with cmp := { r.2.cmp with opened := some b, nextBlock := r.2.cmp.nextBlock + 1 } }

/-- The open block closes ahead of a PAD, whose block is the one whose close is the extent's close point (R250; log 56). -/
def closeAhead (s : State) : State :=
  let s := closeBlock { s with tal := { s.tal with closeDue := false } }
  { s with tal := { s.tal with closeDue := true } }

/-- PAD_INSERT (R250): no block has closed within FLUSH_US after an extent close fell due. Where no room for a PAD is left,
the extent closes without one (R314; log 56). -/
def execPadInsert (s : State) : Result :=
  .next (match s.tal.opened, s.cmp.last with
    | some x, some l =>
      if s.tal.closeDue ∧ s.tal.closeAt + s.cmp.flushUs * usTicks s ≤ s.tm.tick ∧ lanesOpen s.cmp ∧ !x.closing ∧
          blockIn x s.cmp then
        if s.cmp.opened.isNone then (if extRoom x s < 80 then closeExtent id s else handPad x l s)
        else if extRoom x (closeAhead s) < 80 then closeBlock s
        else handPad x l (closeAhead s)
      else s
    | _, _ => s)

end Sys2Proof.Machine
end

