-- ==== Sys2Proof/Machine/Talus.lean ====
section
/-! DEFINITION. The Talus record store: opening and closing extents, map slots, durability, recovery, the format, store
windows, drives, and the record window (R303-R343). -/

namespace Sys2Proof.Machine

/-! ## Geometry and fill (R303, R304, R325, R332-R335) -/

/-- The number of map slots (R304). -/
def mapSlots : Nat := 2097152

/-- The extents of the format that count towards store fill (R332), the torn sequences of a recovery among them (DESIGN CHOICE,
log 71). -/
def storeFill (f : FormatRec) (s : State) : Nat :=
  let low := if s.tal.storeFull = 0 then f.firstExt else max f.firstExt (s.tal.archived + 1)
  min f.nExt (s.tal.nextExt - low)

/-- Evaluate the store fill mark (R335). -/
def evalStore (s : State) : State :=
  match s.tal.fmt with
  | none => s
  | some f =>
    let m := s.tal.storeMark
    let above := decide (m.level * f.nExt ≤ 256 * storeFill f s)
    let s' := { s with tal := { s.tal with storeMark := m.step above } }
    if m.crosses above then raise 10 0 s' else s'

/-- Evaluate the wear mark (R333, R335). -/
def evalWear (s : State) : State :=
  let m := s.tal.wearMark
  let above := decide (m.level * (mapSlots * 100000000) ≤ 256 * s.tal.mapWrites)
  let s' := { s with tal := { s.tal with wearMark := m.step above } }
  if m.crosses above then raise 10 1 s' else s'

/-- The ACTIVE drives in ascending order (R325). -/
def activeDrives (s : State) : List Nat := (List.range 4).filter fun d => (driveOf s d).state == 1

/-- Where an extent goes: host pull, a drive, or a store window; none where its position is unmapped (R311, R321, R324,
R325). -/
def placeOf (f : FormatRec) (n : Nat) (s : State) : Option Place :=
  let p := n % f.nExt
  let ds := activeDrives s
  if s.eq.pull then some { target := 20, pos := p, addr := 0 }
  else if ds ≠ [] then
    let d := ds.getD (p % ds.length) 0
    some { target := 16 + d, pos := p,
           addr := (driveOf s d).cfg.startLba + p / ds.length * (extBytes f.size / 4096) }
  else
    ((List.range 16).find? fun w =>
      let x := tabGet s.tal.windows w { enable := false, base := 0, first := 0, count := 0, used := false }
      x.enable && decide (x.first ≤ p ∧ p < x.first + x.count)).map fun w =>
        let x := tabGet s.tal.windows w { enable := false, base := 0, first := 0, count := 0, used := false }
        { target := w, pos := p, addr := x.base + (p - x.first) * extBytes f.size }

/-- Would extent `n` overwrite a position that software still needs (R334)? -/
def overwrites (f : FormatRec) (n : Nat) (s : State) : Bool :=
  decide (f.firstExt + f.nExt ≤ n ∧ s.tal.archived + f.nExt < n)

/-- One more than the lag base B (R313). -/
def lagBaseNext (f : FormatRec) (s : State) : Nat :=
  match s.tal.lagBase, s.tal.durable with
  | some b, _ => b + 1
  | none, some d => if f.firstExt ≤ d then d + 1 else f.firstExt
  | none, none => f.firstExt

/-! ## Opening an extent (R311-R314) -/

/-- What holds the next extent back (R313, R342): rate, unmapped, full, lag. -/
structure Waits where
  rate     : Bool
  unmapped : Bool
  full     : Bool
  lag      : Bool
  deriving DecidableEq, Repr

def waitsFor (f : FormatRec) (s : State) : Waits :=
  let n := s.tal.nextExt
  { rate := s.tal.openTick.any fun t => decide (s.tm.tick < t + 15 * usTicks s),
    unmapped := (placeOf f n s).isNone,
    full := s.tal.storeFull == 2 && overwrites f n s,
    lag := decide (64 + lagBaseNext f s < n + 1) }

/-- Show the waits and raise their events: G10.2 once for each position, G10.3 once for each hold (R324, R334). -/
def showWaits (w : Waits) (s : State) : State :=
  let held := s.tal.waitFull
  let n := s.tal.nextExt
  let s := { s with tal := { s.tal with
    waitRate := w.rate, waitUnmapped := w.unmapped, waitFull := w.full, waitLag := w.lag } }
  let s :=
    if w.unmapped ∧ s.tal.unmFor ≠ some n then raise 10 2 { s with tal := { s.tal with unmFor := some n } } else s
  if w.full ∧ !held then raise 10 3 s else s

/-- PREV_CHAIN of the next extent (R312). -/
def prevChain (f : FormatRec) (s : State) : List Byte :=
  let ascii (t : List Nat) : List Byte := t.map (BitVec.ofNat 8)
  if s.tal.restartPending then
    shake256 (ascii [84, 65, 76, 85, 83, 45, 82, 69, 83, 84, 65, 82, 84] ++
      leBytes 8 (s.tal.headSeq.getD (2 ^ 64 - 1)) ++ padTo 32 s.tal.headEntry)
  else if s.tal.genesis then
    shake256 (ascii [84, 65, 76, 85, 83, 45, 71, 69, 78, 69, 83, 73, 83] ++ leBytes 4 f.id ++ leBytes 8 f.firstExt ++ serial)
  else s.tal.chain

/-- The body of an EXTENT_HEAD frame (R311). -/
def headBody (f : FormatRec) (n : Nat) (p : Place) (prev : List Byte) (s : State) : List Byte :=
  let r := s.tal.restartPending
  let restart (k : Nat) (bs : List Byte) : List Byte := if r then padTo k bs else zeros k
  leBytes 8 n ++ leBytes 4 f.id ++ leBytes 1 f.size ++ leBytes 1 (b2n (n == f.firstExt) + 2 * b2n r) ++ leBytes 1 p.target ++
    zeros 1 ++ leBytes 4 p.pos ++ leBytes 4 f.nExt ++ padTo 32 prev ++ leBytes 8 p.addr ++
    restart 8 (leBytes 8 (s.tal.torn.getD 0)) ++ restart 4 (leBytes 4 (if s.tal.torn.isSome then 64 else 0)) ++ zeros 4 ++
    restart 8 (leBytes 8 (s.tal.headSeq.getD (2 ^ 64 - 1))) ++ restart 32 s.tal.headEntry ++ zeros 36

/-- Blocks that a forced reset left for the next extent, in block order (R293). -/
def displaced (s : State) : List Block := (inFlight s.cmp).filter fun b => b.ext == s.tal.nextExt

/-- The frames that a forced reset left for the next extent, oldest first. -/
def leftFrames (s : State) : List Frame :=
  (displaced s ++ (s.cmp.opened.filter fun b => b.ext == s.tal.nextExt).toList).flatMap fun b => b.frames

/-- The first frame that the next extent will hold after its head. -/
def frameReady (s : State) : Option Frame :=
  match displaced s, s.cmp.opened with
  | b :: _, _ => b.frames.head?
  | [], some b => if b.ext = s.tal.nextExt then b.frames.head? else s.cmp.inq.head?
  | [], none => s.cmp.inq.head?

/-- Is a frame one of this unit's retention engine (R248)? -/
def isRetention (f : Frame) : Bool := !isForwarded f && !bitOf 0 (fieldAt f.bytes 3 1)

/-- SEQ of the next EXTENT_HEAD (R248): that of the last retention frame before it, which is one below that of the first one
after it where a forced reset left frames, or where none has passed since PERST#; a free value where the spec names none. -/
def headSeqNo (s : State) : Nat × State :=
  match (leftFrames s).find? isRetention, s.cmp.last.bind fun l => l.seq with
  | some f, _ => if f.seq = 0 then freeBits 64 s else (f.seq - 1, s)
  | none, some q => (q, s)
  | none, none =>
    let next := ((s.cmp.inq.find? isRetention).map fun f => f.seq).getD s.ret.seq
    if next = 0 ∨ s.tal.torn.isSome then freeBits 64 s else (next - 1, s)

/-- How many displaced blocks fit an extent, none after the block that holds EPOCH_CLOSE (R271, R314). -/
def fitCount : Nat → List Block → Nat
  | _, [] => 0
  | room, b :: bs =>
    if room < 16 + rawLen b then 0
    else if b.frames.any isEpochClose then 1
    else 1 + fitCount (room - (16 + rawLen b)) bs

/-- The block in lane buffers that comes last in block order, with its lane. -/
def newestHeld (c : Cmp) : Option (Nat × Block) :=
  ((List.range 8).flatMap fun i => (tabGet (c.lanes.map fun l => l.held) i []).map fun h => (i, h.1)).foldl
    (fun a x => match a with
      | some y => if y.2.no < x.2.no then some x else a
      | none => some x) none

/-- A lane buffer for the head block: a free one (R275), or that of the newest displaced block, which then waits for another
(log 58). -/
def headLane (c : Cmp) : Nat × Cmp :=
  match freeLane c, newestHeld c with
  | some i, _ => (i, { c with nextLane := (i + 1) % 8 })
  | none, some (i, b) =>
    (i, { c with
        waiting := b :: c.waiting, lanes := tabMod c.lanes i fun l => { l with held := l.held.filter fun h => h.1.no != b.no } })
  | none, none => (0, c)

/-- The head block joins the compressor before the displaced blocks, whose places in block order move up by one. -/
def headFirst (h : Block) (keep : List Nat) (n : Nat) (s : State) : State :=
  let move (b : Block) : Block :=
    { b with no := b.no + 1, ext := if b.ext = n ∧ ¬(b.no ∈ keep) then n + 1 else b.ext }
  let r := headLane s.cmp
  let c := r.2
  let ls := c.lanes.map fun l => { l with held := l.held.map fun x => (move x.1, x.2) }
  { s with cmp := { c with
      waiting := c.waiting.map move, opened := c.opened.map move, nextBlock := c.nextBlock + 1,
      lanes := tabMod ls r.1 fun l => { l with held := (h, none) :: l.held } } }

/-- The head block joins the compressor as the newest block. -/
def headLast (h : Block) (s : State) : State :=
  { s with cmp := dealBlocks 8 { s.cmp with waiting := s.cmp.waiting ++ [h], nextBlock := s.cmp.nextBlock + 1 } }

/-- The next extent opens (R304, R311-R313, R334, R337). NEXT_BASE moves with the first extent that opens in the format, so that
a recovery knows whether FIRST_EXT is still the next sequence (R306, R338). -/
def openExtent (f : FormatRec) (p : Place) (fr : Frame) (s : State) : State :=
  let n := s.tal.nextExt
  let prev := prevChain f s
  let ovr := s.tal.storeFull == 1 && overwrites f n s
  let r := headSeqNo s
  let t0 := t0Of r.2.tm.a
  let body := headBody f n p prev s
  let head : Frame :=
    { type := 1, seq := r.1, epoch := fr.epoch, row := none, pods := 0,
      bytes := frameBytes 1 (1 + frameFlags s) fr.epoch s.rl.addr 0x03 0xFF r.1 t0 body }
  let bs := displaced s
  let k := fitCount (extBytes f.size - 208) bs
  let kept := bs.take k
  let room := extBytes f.size - 208 - (kept.map fun b => 16 + rawLen b).sum
  let epochEnds := kept.any fun b => b.frames.any isEpochClose
  let openStays := s.cmp.opened.all fun b =>
    b.ext != n || (decide (16 + rawLen b ≤ room) && k == bs.length && !epochEnds)
  let ends := decide (k < bs.length) || !openStays || epochEnds || s.eq.safeHold
  let x : Extent :=
    { seq := n, fmt := f.id, size := f.size, place := p, prev := prev, bytes := [], closing := ends, closed := false,
      restart := s.tal.restartPending, short := epochEnds, fault := s.eq.safeHold, reset := false, lastSeq := r.1,
      lastEpoch := fr.epoch, releasedBytes := 0, relLen := 0, relSeq := r.1, relEpoch := fr.epoch, durable := false,
      chain := [], tries := 0, sealFrames := [] }
  let first := bs ≠ [] ∨ s.cmp.opened.isSome
  let h : Block :=
    { no := if first then s.cmp.nextPkt else s.cmp.nextBlock, frames := [head], head := true, forced := true, ext := n,
      max := 0, flush := 0 }
  let keep := (kept.map fun b => b.no) ++ (if openStays then (s.cmp.opened.map fun b => b.no).toList else [])
  let s := clearQuiet (if first then headFirst h keep n r.2 else headLast h r.2)
  let s := { s with
    cmp := { s.cmp with
      blockCnt := s.cmp.blockCnt + 1, rawBytes := min (2 ^ 64 - 1) (s.cmp.rawBytes + 192),
      last := some
        { seq := s.cmp.last.bind fun l => l.seq, epoch := fr.epoch, t0 := t0Bytes t0, suspect := s.ret.suspect.isSome } },
    tal := { s.tal with
      opened := some x, nextExt := n + 1, restartPending := false, genesis := false, drained := false,
      openTick := some s.tm.tick, unmFor := none, waitRate := false, waitUnmapped := false, waitFull := false,
      waitLag := false, windows := s.tal.windows.map fun w => { w with used := true },
      overwriteCnt := if ovr then s.tal.overwriteCnt + 1 else s.tal.overwriteCnt } }
  let s := if f.nextBase = f.firstExt then writeFormat { f with nextBase := n + 1 } s else s
  let s := if n = f.firstExt ∨ x.restart then { s with sealer := { s.sealer with firstOpen := some s.tm.tick } } else s
  evalStore s

/-- EXTENT_OPEN (R313): a frame is ready, and every condition holds; else the causes show. Records wait while a drive is FAILED
(R331). -/
def execExtentOpen (s : State) : Result :=
  .next (match s.tal.fmt, s.tal.opened, frameReady s with
    | some f, none, some fr =>
      if driveFailed s ∨ (displaced s = [] ∧ s.cmp.opened.isNone ∧ !lanesOpen s.cmp) then s
      else
        match waitsFor f s, placeOf f s.tal.nextExt s with
        | w, some p => if w.rate || w.full || w.lag then showWaits w s else openExtent f p fr s
        | w, none => showWaits w s
    | _, _, _ => s)

/-- Have EXT_CLOSE_S seconds passed since the extent opened (R314)? -/
def closeTimeUp (s : State) : Bool :=
  s.tal.extCloseS != 0 && s.tal.openTick.all fun t => decide (t + 1000 * msTicks s * s.tal.extCloseS ≤ s.tm.tick)

/-- EXT_CLOSE_DEADLINE (R314): EXT_CLOSE_S seconds have passed since the extent opened. Inside a drain the drain's own close
meets it. -/
def execExtCloseDeadline (s : State) : Result :=
  .next (match s.tal.opened with
    | some x =>
      if closeTimeUp s ∧ !x.closing ∧ s.dev.acq ≠ .draining then dueClose s else s
    | none => s)

/-! ## The map (R315-R318, R339, R340) -/

/-- The map entry of an extent (R315). -/
def mapEntry (x : Extent) : List Byte :=
  let info := b2n x.fault * 2 ^ 31 + b2n x.restart * 2 ^ 30 + b2n x.reset * 2 ^ 29 + b2n x.short * 2 ^ 28 +
    x.place.target * 2 ^ 23 + x.bytes.length % 2 ^ 23
  let b := leBytes 6 x.seq ++ padTo 6 x.chain ++ leBytes 8 x.lastSeq ++ leBytes 4 x.lastEpoch ++ leBytes 4 info
  b ++ leBytes 4 (crc32c b)

/-- The die offset of a map slot (R305). -/
def slotAddr (i : Nat) : Nat := 32 * (i % mapSlots)

/-- The oldest closed extent's slot is done with: TALUS_DURABLE advances (R316, R340). -/
def slotDone (x : Extent) (s : State) : State :=
  { s with tal := { s.tal with durable := some x.seq, pending := s.tal.pending.drop 1, lagBase := none } }

/-- What a slot or index entry holds after its writes have failed: free bytes, of which the spec says only that they are no
valid entry (R340): the CRC that ends them does not match. -/
def brokenEntry (b : List Byte) (crc : Nat) : List Byte :=
  b ++ leBytes 4 ((crc32c b + 1 + crc % (2 ^ 32 - 1)) % 2 ^ 32)

/-- A slot write failed its read-back; the third failure leaves a hole (R316, R340). -/
def slotFailed (x : Extent) (s : State) : State :=
  if x.tries < 2 then modExtent x.seq (fun y => { y with tries := y.tries + 1 }) s
  else
    let a := freeBits 64 s
    let b := freeBits 64 a.2
    let c := freeBits 64 b.2
    let d := freeBits 64 c.2
    let bytes := leBytes 8 a.1 ++ leBytes 8 b.1 ++ leBytes 8 c.1 ++ leBytes 4 d.1
    slotDone x (raise 10 11 (signal 13 0 (dieWrite (slotAddr x.seq) (brokenEntry bytes (d.1 / 2 ^ 32)) d.2)))

/-- MAP_SLOT_WRITE (R316, R340): `ok` says whether the read-back matches. -/
def execMapSlotWrite (ok : Bool) (s : State) : Result :=
  .next (match s.tal.pending with
    | x :: _ =>
      if x.durable then
        let s := evalWear { s with tal := { s.tal with mapWrites := (s.tal.mapWrites + 1) % 2 ^ 64 } }
        if ok then
          let s := slotDone x (dieWrite (slotAddr x.seq) (mapEntry x) s)
          if x.fault ∨ x.reset then raise 10 12 s else s
        else slotFailed x s
      else s
    | [] => s)

/-- QUIET_RECORD_WRITE (R337). -/
def execQuietRecordWrite (s : State) : Result :=
  .next (match s.tal.fmt, s.tal.durable with
    | some f, some d =>
      if s.dev.acq = .idle ∧ s.tal.drained ∧ s.tal.pending = [] ∧ stagesEmpty s ∧ f.firstExt ≤ d then
        writeRecord quietBase (quietBytes (some d)) { s with tal := { s.tal with drained := false } }
      else s
    | _, _ => s)

/-- The sequence whose slot `i` is, at or below the head (R339). -/
def slotSeq (head i : Nat) : Nat := head - (head + mapSlots - i) % mapSlots

/-- An uncorrectable slot is read (R339): counted, G10.10, F12 where it lies within the last positions up to the head. -/
def slotUncorrectable (head : Option Nat) (i : Nat) (s : State) : State :=
  let s := noteDieUe [i] s
  let s := raise 10 10 { s with tal := { s.tal with mapUe := s.tal.mapUe + 1 } }
  let near : Bool := match head, s.tal.fmt with
    | some h, some f => decide ((h + mapSlots - i) % mapSlots < min f.nExt mapSlots ∧ (h + mapSlots - i) % mapSlots ≤ h)
    | _, _ => false
  if near then signal 12 (BitVec.ofNat 32 (10 * 2 ^ 27 + 4 * i)) s else s

/-- An uncorrectable word of the die beyond the slots is read (R339, R354): counted, G10.10, and F12 in the format record
(`part` 65,537) and the quiet record (65,538). -/
def restUncorrectable (part : Nat) (s : State) : State :=
  let s := raise 10 10 { s with tal := { s.tal with mapUe := s.tal.mapUe + 1 } }
  if part = 65537 then signal 12 (BitVec.ofNat 32 (10 * 2 ^ 27 + formatBase / 8)) s
  else if part = 65538 then signal 12 (BitVec.ofNat 32 (10 * 2 ^ 27 + quietBase / 8)) s
  else s

/-- The head of the map as far as its slots have been written: of the format in force alone (R317). -/
def mapHead (s : State) : Option Nat :=
  match s.tal.fmt with
  | some f => s.tal.durable.filter fun d => decide (f.firstExt ≤ d)
  | none => none

/-- Where scrub of the die stands when its pass is over. -/
def scrubEnd : Nat := 65539

/-- Scrub moves on: through the slots, then the 65,536 seal index entries and the two records (R339, R354; log 57). -/
def scrubOn (t : Talus) : Talus :=
  if t.scrubRest = 0 then
    if t.scrubPos + 1 < mapSlots then { t with scrubPos := t.scrubPos + 1 } else { t with scrubPos := 0, scrubRest := 1 }
  else { t with scrubRest := t.scrubRest + 1 }

/-- The 32-byte units that scrub reads at once: a slot, an index entry, or both copies of a record. -/
def partUnits (part slot : Nat) : List Nat :=
  if part = 0 then [slot]
  else if part ≤ 65536 then (List.range 8).map fun k => 0x200000 + 8 * (part - 1) + k
  else
    let base := (if part = 65537 then formatBase else quietBase) / 32
    [base, base + 1, base + 64, base + 65]

/-- MAP_SCRUB_READ (R339, R354): scrub reads the next slot, or the next of the die's other entries. -/
def execMapScrubRead (err : EccErr) (s : State) : Result :=
  if coreUp s ∧ scrubRuns 10 s ∧ s.tal.scrubRest < scrubEnd then
    let i := s.tal.scrubPos
    let part := s.tal.scrubRest
    let s := { s with tal := scrubOn s.tal }
    .next (match (if (partUnits part i).any s.tal.dieUe.contains then .uncorrectable else err) with
      | .none => s
      | .corrected => { s with tal := { s.tal with mapCe := s.tal.mapCe + 1 } }
      | .uncorrectable => if part = 0 then slotUncorrectable (mapHead s) i s else restUncorrectable part s)
  else .next s

/-! ## Recovery (R317, R338, R355) -/

/-- The numbers of the `size`-byte records of a die area in which some byte is listed. -/
def listedRecords (lo size count : Nat) (m : List Host.Cell) : List Nat :=
  m.foldr (fun c is =>
    if lo ≤ c.1 ∧ c.1 < lo + size * count then
      let i := (c.1 - lo) / size
      if is.head? = some i then is else i :: is
    else is) []

/-- The valid map entries: sequence and bytes (R317). -/
def validEntries (f : FormatRec) (ue : List Nat) (m : List Host.Cell) : List (Nat × List Byte) :=
  (listedRecords 0 32 mapSlots m).filterMap fun i =>
    let b := memRead m (32 * i) 32
    let n := fieldAt b 0 6
    if ¬(i ∈ ue) ∧ fieldAt b 28 4 = crc32c (b.take 28) ∧ f.firstExt ≤ n ∧ n % mapSlots = i then some (n, b) else none

/-- The entry with the highest sequence (R317). -/
def headEntry (es : List (Nat × List Byte)) : Option (Nat × List Byte) :=
  es.foldl (fun h e =>
    match h with
    | some x => if x.1 < e.1 then some e else h
    | none => some e) none

/-- The invalid slots up to the head that are not the torn range of an earlier recovery (R338 step 3). -/
def mapHoleCount (f : FormatRec) (head : Nat) (es : List (Nat × List Byte)) : Nat :=
  let lo := max f.firstExt (head - (mapSlots - 1))
  let valid (n : Nat) : Bool := es.any fun e => e.1 == n
  let inRange := (es.filter fun e => decide (lo ≤ e.1)).length
  let torn := (es.filter fun e =>
      decide (lo ≤ e.1) && bitOf 30 (fieldAt e.2 24 4) && !(valid (e.1 - 1) && decide (0 < e.1))).flatMap fun e =>
    ((List.range 64).map fun k => e.1 - 64 + k).filter fun n => decide (lo ≤ n ∧ n < e.1) && !valid n
  (head + 1 - lo) - inRange - torn.eraseDups.length

/-- The valid seal index entries: number and bytes (R355). -/
def validSeals (f : FormatRec) (ue : List Nat) (m : List Host.Cell) : List (Nat × List Byte) :=
  (listedRecords 0x4000000 256 65536 m).filterMap fun i =>
    let b := memRead m (0x4000000 + 256 * i) 256
    let n := fieldAt b 0 8
    if !(partUnits (i + 1) 0).any ue.contains ∧ fieldAt b 252 4 = crc32c (b.take 252) ∧ fieldAt b 36 4 = f.id ∧ n % 65536 = i then some (n, b) else none

/-- Does a 32-byte unit of the die belong to the seal index (R305, R354)? -/
def inIndex (u : Nat) : Bool := decide (0x200000 ≤ u ∧ u < 0x280000)

/-- The seal index is recovered (R355), its uncorrectable words counted (R339): the first seal covers from the extent that carries RESTART (R348). -/
def recoverSeals (f : FormatRec) (ue : List Nat) (s : State) : State :=
  if s.dev.variant.sealer then
    let s := (ue.filter inIndex).foldl (fun s _ => restUncorrectable 1 s) s
    let r := headEntry (validSeals f ue s.tal.die)
    { s with sealer := { s.sealer with
        nextNo := (match r with
          | some e => e.1 + 8192
          | none => 8192),
        prevSeal := (match r with
          | some e => (e.2.drop 80).take 32
          | none => []),
        restart := true, coverFrom := s.tal.nextExt, readyInfo := none } }
  else s

/-- Is copy `i` of the record at a die offset among the 32-byte units that read uncorrectable? -/
def unitBad (ue : List Nat) (base i : Nat) : Bool := ue.any fun u => u / 64 == (base + 0x800 * i) / 2048

/-- The format record in force on the die (R306). -/
def dieFormat (ue : List Nat) (s : State) : Option FormatRec :=
  (readRecord formatBase 32 (unitBad ue formatBase) s.tal.die).map formatOf

/-- The uncorrectable words of the format and quiet records that recovery reads (R338 step 1, R339). -/
def recordErrors (ue : List Nat) (s : State) : State :=
  let inRec (base : Nat) : Nat := ([0, 1].filter (unitBad ue base)).length
  let s := (List.range (inRec formatBase)).foldl (fun s _ => restUncorrectable 65537 s) s
  (List.range (inRec quietBase)).foldl (fun s _ => restUncorrectable 65538 s) s

/-- Steps 2 to 6 of the recovery of a formatted die (R338). -/
def recoverStore (f : FormatRec) (ue : List Nat) (s : State) : State :=
  let es := validEntries f ue s.tal.die
  let h := headEntry es
  let holes := match h with
    | some e => mapHoleCount f e.1 es
    | none => 0
  let after := match h with
    | some e => e.1 + 1
    | none => f.firstExt
  let quiet : Bool := match h, quietSeq (unitBad ue quietBase) s.tal.die with
    | some e, some q => e.1 == q
    | none, none => f.nextBase == f.firstExt
    | _, _ => false
  let jump := if quiet then 0 else 1
  let s := { s with tal := { s.tal with fmt := some f } }
  let s := (ue.filter fun i => decide (i < mapSlots)).foldl (fun s i => slotUncorrectable (h.map fun e => e.1) i s) s
  let s := { s with
    tal := { s.tal with
      durable := h.map fun e => e.1, mapHoles := BitVec.ofNat 32 holes, torn := if quiet then none else some after,
      nextExt := after + 64 * jump, lagBase := if quiet then none else some (after + 63), restartPending := true,
      headSeq := h.map fun e => e.1, headEntry := (h.map fun e => e.2).getD [], quietStart := quiet },
    ret := { s.ret with
      seq := ((h.map fun e => fieldAt e.2 12 8 + 1).getD 0 + 4194304 * jump) % 2 ^ 64,
      epoch := ((h.map fun e => fieldAt e.2 20 4).getD 0 + 64 * jump) % 2 ^ 32 } }
  let s := if holes = 0 then s else raise 10 9 s
  let s := if quiet then s else raise 10 8 s
  raise 10 7 (recoverSeals f ue s)

/-- TALUS_RECOVERY (R338): firmware recovers the store before READY; `ue` names the 32-byte units of the die that read
uncorrectable, slots by their number. An unformatted die skips steps 2 to 5. -/
def execTalusRecovery (ue : List Nat) (s : State) : Result :=
  if coreUp s ∧ firmwareUp s ∧ !s.dev.ready ∧ !s.tal.recovered then
    let s := noteDieUe ue s
    let ue := s.tal.dieUe
    let s := recordErrors ue { s with tal := { s.tal with recovered := true } }
    .next (match dieFormat ue s with
      | some f => recoverStore f ue s
      | none => raise 10 7 { s with tal := { s.tal with restartPending := true } })
  else .next s

/-! ## TALUS_FORMAT (R307, R308) -/

/-- The response (R307). -/
def formatReply (s : State) : List Byte :=
  match s.tal.reshape, s.tal.fmt with
  | some (size, n), some f =>
    leBytes 4 (f.id + 1) ++ leBytes 8 0 ++ leBytes 1 size ++ leBytes 1 1 ++ zeros 2 ++ leBytes 4 n
  | _, some f => leBytes 4 f.id ++ leBytes 8 f.firstExt ++ leBytes 1 f.size ++ leBytes 1 0 ++ zeros 2 ++ leBytes 4 f.nExt
  | _, none => []

/-- Is a geometry within R303? -/
def geometryOk (n : Nat) : Bool := n % 256 == 0 && decide (256 ≤ n ∧ n ≤ 2097152)

/-- LBAs each of `d` drives needs (R326 rule 3). -/
def lbasNeeded (n size d : Nat) : Nat := (n + d - 1) / d * (extBytes size / 4096)

/-- Can every attached drive hold a geometry (R308 rule 5)? Every attached drive counts in D, a FAILED one too (DESIGN CHOICE,
log 70). -/
def drivesHold (n size : Nat) (s : State) : Bool :=
  let ds := (List.range 4).filter fun d => (driveOf s d).state != 0
  ds.all fun d => decide (lbasNeeded n size ds.length ≤ (driveOf s d).cfg.lbaCount)

/-- NEW (R307): an empty store, SEQ and epoch 0, a chain at genesis. -/
def formatNew (n size : Nat) (s : State) : State :=
  let id := match s.tal.fmt with
    | some f => (f.id + 1) % 2 ^ 32
    | none => 1
  let e := s.tal.nextExt
  let s := writeFormat { id := id, size := size, nExt := n, firstExt := e, nextBase := e } s
  { s with
    tal := { s.tal with genesis := true, restartPending := false, lagBase := none, reshape := none },
    ret := { s.ret with seq := 0, epoch := 0 },
    cmp := { s.cmp with last := s.cmp.last.map fun l => { l with seq := none } },
    sealer := { s.sealer with nextNo := 0, prevSeal := [], restart := false, coverFrom := e, readyInfo := none, due := askedSeals s } }

/-- TALUS_FORMAT's rules (R308). -/
def talusFormatCmd : Cmd := fun q s =>
  let mode := fieldAt q 0 1
  let size := fieldAt q 1 1
  let n := fieldAt q 4 4
  let confirm := fieldAt q 8 4
  if 2 < mode ∨ !zeroAt q 2 2 ∨ !zeroAt q 12 244 ∨ confirm ≠ (if mode = 0 then 0x54414C55 else 0) ∨
      (mode < 2 ∧ (2 < size ∨ !geometryOk n)) then quit stBadArg s
  else if mode = 2 then (s, some (okWith (formatReply s)))
  else if s.tal.lock then quit stLocked s
  else if (mode = 0 ∧ s.dev.acq ≠ .idle) ∨ (s.dev.acq = .idle ∧ occupied s.eq ≠ 0) then quit stState s
  else if mode = 1 ∧ s.tal.fmt.isNone then quit stState s
  else if !drivesHold n size s then quit stBadArg s
  else if mode = 0 then
    let s := formatNew n size s
    (s, some (okWith (formatReply s)))
  else
    let s := { s with tal := { s.tal with reshape := some (size, n) } }
    if acquiring s then (s, some (pendingWith (formatReply s)))
    else
      let s := applyReshape s
      (s, some (okWith (formatReply s)))

/-- TALUS_FORMAT (R308). -/
def execTalusFormat (m : Fin 8) (s : State) : Result := .next (command m.val 0x0501 talusFormatCmd s)

/-! ## Store windows (R321-R324) -/

def winOf (s : State) (w : Nat) : StoreWin :=
  tabGet s.tal.windows w { enable := false, base := 0, first := 0, count := 0, used := false }

/-- The response: the request layout with the settings for the next extent (R321). -/
def windowReply (w op : Nat) (s : State) : List Byte :=
  let x := winOf s w
  leBytes 1 w ++ leBytes 1 op ++ leBytes 1 (b2n x.enable) ++ leBytes 1 (b2n x.used) ++ leBytes 4 x.first ++ leBytes 8 x.base ++
    leBytes 4 x.count

/-- TALUS_WINDOW_SET's rules (R322). -/
def talusWindowCmd : Cmd := fun q s =>
  let w := fieldAt q 0 1
  let op := fieldAt q 1 1
  let first := fieldAt q 4 4
  let base := fieldAt q 8 8
  let count := fieldAt q 16 4
  let beyond : Bool := match s.tal.fmt with
    | some f => decide (f.nExt < first + count ∨ 2 ^ 64 < base + count * extBytes f.size)
    | none => false
  let on := bitOf 0 (fieldAt q 2 1)
  let overlap := (List.range 16).any fun v =>
    v != w && (winOf s v).enable && decide (first < (winOf s v).first + (winOf s v).count ∧ (winOf s v).first < first + count)
  if 15 < w ∨ 1 < op ∨ 1 < fieldAt q 2 1 ∨ !zeroAt q 3 1 ∨ !zeroAt q 20 236 then quit stBadArg s
  else if op = 1 then (s, some (okWith (windowReply w 1 s)))
  else if base % 4096 ≠ 0 ∨ count = 0 ∨ beyond then quit stBadArg s
  else if s.tal.fmt.isNone ∨ s.tal.drives.toList.any (fun d => d.state != 0) then quit stState s
  else if on ∧ overlap then quit stBadArg s
  else
    let x : StoreWin := { enable := on, base := base, first := first, count := count, used := false }
    let s := { s with tal := { s.tal with windows := tabMod s.tal.windows w fun _ => x } }
    (s, some (okWith (windowReply w 0 s)))

/-- TALUS_WINDOW_SET (R322). -/
def execTalusWindowSet (m : Fin 8) (s : State) : Result := .next (command m.val 0x0502 talusWindowCmd s)

/-! ## Drives (R325-R331) -/

/-- A drive's queue pair begins anew (R326 rule 4). -/
def startDrive (d : Nat) (s : State) : State :=
  let s := scratchWrite (0x31000 + 0x2000 * d) (zeros 1024) s
  modDrive d (fun q => { q with state := 1, fails := 0, tail := 0, head := 0, phase := true, cmds := [] }) s

/-- The settings of an ATTACH request (R325). -/
def driveSettings (q : List Byte) : DriveCfg :=
  { fua := bitOf 0 (fieldAt q 2 1), nsid := fieldAt q 4 4, sqBus := fieldAt q 8 8, cqBus := fieldAt q 16 8,
    prpBus := fieldAt q 24 8, recBus := fieldAt q 32 8, sqDb := fieldAt q 40 8, cqDb := fieldAt q 48 8,
    startLba := fieldAt q 56 8, lbaCount := fieldAt q 64 8, mdtsKib := fieldAt q 72 4, qid := fieldAt q 76 2 }

/-- The response (R325). -/
def driveReply (d : Nat) (s : State) : List Byte :=
  let q := driveOf s d
  leBytes 1 d ++ leBytes 1 q.state ++ leBytes 2 q.lastStatus ++ leBytes 4 q.writes.toNat ++ leBytes 4 q.failures.toNat

/-- Is the drive request out of range (R326 rule 1)? A READ names no setting. -/
def driveBad (q : List Byte) : Bool :=
  let c := driveSettings q
  decide (3 < fieldAt q 0 1) || decide (3 < fieldAt q 1 1) || decide (1 < fieldAt q 2 1) || !zeroAt q 78 178 ||
    (fieldAt q 1 1 != 3 &&
      (fieldAt q 3 1 != 63 || c.mdtsKib % 4 != 0 || decide (c.mdtsKib < 64) || c.sqBus % 4096 != 0 || c.cqBus % 4096 != 0 ||
        c.prpBus % 4096 != 0 || c.recBus % 4096 != 0))

/-- Does every drive that would be ACTIVE after an ATTACH of drive `d` hold the store (R326 rule 3)? -/
def attachHolds (d lbas : Nat) (f : FormatRec) (s : State) : Bool :=
  let others := (activeDrives s).filter fun e => e != d
  let need := lbasNeeded f.nExt f.size (others.length + 1)
  decide (need ≤ lbas) && others.all fun e => decide (need ≤ (driveOf s e).cfg.lbaCount)

/-- TALUS_DRIVE_ATTACH's rules (R326). -/
def talusDriveCmd : Cmd := fun q s =>
  let d := fieldAt q 0 1
  let op := fieldAt q 1 1
  let done (s : State) : State × Option Reply := (s, some (okWith (driveReply d s)))
  if driveBad q then quit stBadArg s
  else if op = 3 then done s
  else if op ≤ 1 ∧ (s.dev.acq ≠ .idle ∨ occupied s.eq ≠ 0 ∨ s.tal.fmt.isNone) then quit stState s
  else if (op = 0 ∧ (driveOf s d).state ≠ 0) ∨ (op = 2 ∧ (driveOf s d).state ≠ 2) then quit stState s
  else if op = 1 then done (modDrive d (fun x => { x with state := 0, cmds := [] }) s)
  else if op = 2 then done (startDrive d s)
  else
    match s.tal.fmt with
    | none => quit stState s
    | some f =>
      if attachHolds d (driveSettings q).lbaCount f s then
        done (startDrive d (modDrive d (fun x => { x with cfg := driveSettings q }) s))
      else quit stBadArg s

/-- TALUS_DRIVE_ATTACH (R326). -/
def execTalusDriveAttach (m : Fin 8) (s : State) : Result := .next (command m.val 0x0503 talusDriveCmd s)

/-- A command of drive `d` fails (R331): the queue rewinds as a flush-read timeout makes it, and the third failure in a row
stops the drive. -/
def driveFails (d status : Nat) (c : DriveCmd) (s : State) : State :=
  let s := modDrive d (fun q => { q with
    cmds := q.cmds.filter (fun x => x.cid ≠ c.cid), fails := min 3 (q.fails + 1), failures := q.failures + 1,
    lastStatus := status }) s
  let s := raise 10 5 s
  let s := if c.flush ∨ s.eq.chunks.any (fun k => k.drive == some (d, c.cid)) then rewind s else s
  if 3 ≤ (driveOf s d).fails then
    raise 10 6 (signal 35 (BitVec.ofNat 32 d) (modDrive d (fun q => { q with state := 2 }) s))
  else s

/-- A command of drive `d` succeeds (R46, R319, R331). -/
def driveSucceeds (d : Nat) (c : DriveCmd) (s : State) : State :=
  let s := modDrive d (fun q => { q with
    cmds := q.cmds.filter (fun x => x.cid ≠ c.cid), fails := 0, writes := if c.flush then q.writes else q.writes + 1 }) s
  if c.flush then
    match findExtent c.ext s with
    | some x => makeDurable x s
    | none => s
  else meetChunk (fun k => k.drive == some (d, c.cid)) s

/-- The device consumes a completion entry (R328): CQ head, phase, doorbell, and what the entry says. -/
def consumeCq (d : Nat) (entry : List Byte) (s : State) : State :=
  let q := driveOf s d
  let head := (q.head + 1) % 64
  let s := modDrive d (fun q => { q with head := head, phase := q.phase != (head == 0) }) s
  let s := if busMaster s then emitOut (.doorbell q.cfg.cqDb head) s else s
  let cid := fieldAt entry 12 2
  let status := fieldAt entry 14 2 / 2
  match q.cmds.find? fun c => c.cid = cid with
  | none => modDrive d (fun q => { q with failures := q.failures + 1 }) s
  | some c => issueFlushes (if status = 0 then driveSucceeds d c s else driveFails d status c s)

/-- NVME_CQ_ENTRY (R331): the drive's write to BAR4 lands at the head of its completion queue, where memory writes are served
(R481, R545); it is taken when its phase tag is the
expected one (R328). -/
def execNvmeCqEntry (d : Fin 4) (entry : List Byte) (s : State) : Result :=
  let q := driveOf s d.val
  .next (if q.state = 1 then memWriteTlp 4 (fun s =>
      let e := padTo 16 entry
      let s := scratchWrite (0x31000 + 0x2000 * d.val + 16 * (q.head % 64)) e s
      if bitOf 0 (fieldAt e 14 1) = q.phase then consumeCq d.val e s else s) s
    else s)

/-- NVME_CMD_TIMEOUT (R331): no completion of the drive's oldest command within 1,000 ms. It carries no status field. -/
def execNvmeCmdTimeout (d : Fin 4) (s : State) : Result :=
  .next (match (driveOf s d.val).cmds with
    | c :: _ =>
      if (driveOf s d.val).state = 1 ∧ c.rung + 1000 * msTicks s ≤ s.tm.tick then
        let r := freeBits 15 s
        issueFlushes (driveFails d.val r.1 c r.2)
      else s
    | [] => s)

/-! ## TALUS_CFG and TALUS_MAP_READ (R318, R335, R336) -/

def talusCfgReply (s : State) : List Byte :=
  zeros 1 ++ leBytes 1 (b2n s.tal.ackRelease) ++ leBytes 1 s.tal.storeFull ++ leBytes 1 s.tal.storeMark.level ++
    leBytes 1 s.tal.wearMark.level ++ zeros 1 ++ leBytes 2 s.tal.extCloseS

/-- TALUS_CFG's rules (R336); a change of the levels is judged against the present fill and wear (R168, R335). -/
def talusCfgCmd : Cmd := fun q s =>
  let ops := fieldAt q 0 1
  if 15 < ops ∨ !zeroAt q 5 1 ∨ !zeroAt q 8 248 ∨ (ops.testBit 0 ∧ 1 < fieldAt q 1 1) ∨ (ops.testBit 1 ∧ 2 < fieldAt q 2 1) ∨
      (ops.testBit 2 ∧ (fieldAt q 3 1 = 0 ∨ fieldAt q 4 1 = 0)) then quit stBadArg s
  else if ops.testBit 0 ∧ s.dev.acq ≠ .idle then quit stState s
  else
    let t := s.tal
    let s := { s with tal := { t with
      ackRelease := if ops.testBit 0 then fieldAt q 1 1 == 1 else t.ackRelease,
      storeFull := if ops.testBit 1 then fieldAt q 2 1 else t.storeFull,
      storeMark := if ops.testBit 2 then { t.storeMark with level := fieldAt q 3 1 } else t.storeMark,
      wearMark := if ops.testBit 2 then { t.wearMark with level := fieldAt q 4 1 } else t.wearMark,
      extCloseS := if ops.testBit 3 then fieldAt q 6 2 else t.extCloseS } }
    let s := if ops.testBit 2 then evalWear (evalStore s) else s
    let s := afterRelease s
    (s, some (okWith (talusCfgReply s)))

/-- TALUS_CFG (R336). -/
def execTalusCfg (m : Fin 8) (s : State) : Result := .next (command m.val 0x0504 talusCfgCmd s)

/-- TALUS_MAP_READ's rules (R318). A slot known to hold an uncorrectable word is read as such (R339, R343). -/
def talusMapReadCmd : Cmd := fun q s =>
  let first := fieldAt q 0 4
  let n := fieldAt q 4 1
  if 2097151 < first ∨ n = 0 ∨ 7 < n ∨ !zeroAt q 5 251 then quit stBadArg s
  else
    let slots := (List.range n).flatMap fun k => memRead s.tal.die (slotAddr (first + k)) 32
    let bad := ((List.range n).map fun k => (first + k) % mapSlots).filter s.tal.dieUe.contains
    let s := bad.foldl (fun s i => slotUncorrectable (mapHead s) i s) s
    (s, some (okWith (leBytes 1 n ++ zeros 31 ++ slots)))

/-- TALUS_MAP_READ (R318). -/
def execTalusMapRead (m : Fin 8) (s : State) : Result := .next (command m.val 0x0505 talusMapReadCmd s)

/-! ## Registers (R309, R332, R334) -/

/-- An act of TALUS_ARCHIVED (R334): it never falls; store fill is evaluated (R335). -/
def setArchived (be : BitVec 8) (v : Word64) (s : State) : State :=
  let n := v.toNat % 2 ^ 48
  if n < s.tal.archived then refuseWrite64 0x10028 v be s
  else evalStore { s with tal := { s.tal with archived := n } }

/-- A write of TALUS_ARCHIVED (R334, R537). -/
def writeArchived (v : Word64) (be : BitVec 8) (s : State) : State :=
  write64 0x10028 false (BitVec.ofNat 64 s.tal.archived) v be (setArchived be) s

/-- TALUS_ARCHIVED_WRITE (R334). -/
def execTalusArchivedWrite (v : Word64) (be : BitVec 8) (s : State) : Result :=
  .next (barWrite (fun _ => writeArchived v be) s)

/-- A write of TALUS_GEOMETRY (R309, R535): LOCK is write-once. -/
def writeGeometry (v : Word) (be : BitVec 4) (s : State) : State :=
  special 0x10000 v be (fun s =>
    if s.tal.lock then refuseWrite 0x10000 v be s
    else { s with tal := { s.tal with lock := v.getLsbD 31 } }) s

/-- TALUS_GEOMETRY_LOCK (R309). -/
def execTalusGeometryLock (v : Word) (be : BitVec 4) (s : State) : Result := .next (barWrite (fun _ => writeGeometry v be) s)

/-! ## The record window (R330) -/

/-- The end of the stored range that a Write carries: its last unit is filled. -/
def cmdEnd (c : DriveCmd) : Nat := c.lo + (c.hi - c.lo + 4095) / 4096 * 4096

/-- The extent whose outstanding Write holds record window bytes [off, off + len). -/
def recExtent (off len : Nat) (s : State) : Option Extent :=
  let o := off % 0x400000
  ((allCmds s).find? fun c =>
    !c.flush && c.ext % 2 == off / 0x400000 && decide (c.lo ≤ o ∧ o + len ≤ cmdEnd c)).bind fun c => findExtent c.ext s

def recBad (s : State) : State := { s with tal := { s.tal with recBad := s.tal.recBad + 1 } }

/-- REC_WINDOW_READ (R330); `off` counts from the start of the window. -/
def execRecWindowRead (off len : Nat) (s : State) : Result :=
  .next (barRead 4 (0x3800000 + off) len (fun s =>
    match recExtent off len s with
    | some x =>
      emitOut (.readData 4 (0x3800000 + off) (padTo len ((x.bytes.drop (off % 0x400000)).take len)) false) s
    | none => emitOut (.readData 4 (0x3800000 + off) (zeros len) false) (recBad s)) s)

/-- REC_WINDOW_WRITE (R330): discarded and counted. -/
def execRecWindowWrite (_off : Nat) (_data : List Byte) (s : State) : Result := .next (memWriteTlp 4 recBad s)

end Sys2Proof.Machine
end

