-- ==== Sys2Proof/Machine/Seal.lean ====
section
/-! DEFINITION. The record sealer, the seal index, the Keccak pool's self-test, the device identity and attestation
(R344-R366). -/

namespace Sys2Proof.Machine

/-! ## Seals falling due and starting (R348-R351) -/

/-- The number of extents that a seal starting now would cover (R348). -/
def sealable (s : State) : Nat := if s.sealer.readyInfo.isSome then s.sealer.readyExt + 1 - s.sealer.coverFrom else 0

/-- Has INTERVAL_MS passed since the later of the last seal's start and the opening of the first extent of the format or of the
recovery (R348)? -/
def intervalUp (s : State) : Bool :=
  (s.sealer.lastStart.toList ++ s.sealer.firstOpen.toList).all fun t =>
    decide (t + s.sealer.intervalMs * msTicks s ≤ s.tm.tick)

/-- SEAL_DUE (R348): EXTENTS extents wait, or one does and the interval has passed. -/
def execSealDue (s : State) : Result :=
  .next (if s.dev.variant.sealer ∧ s.sealer.enable ∧ 0 < sealable s ∧ !(s.sealer.due.any fun d => d.reason ≤ 1) ∧
      (s.sealer.extents ≤ sealable s ∨ intervalUp s) then
      askSeal (if s.sealer.extents ≤ sealable s then 1 else 0) none none s
    else s)

/-- Is an attestation report being signed? -/
def attesting (s : State) : Bool := s.sealer.attest.any fun a => a.report.isSome

/-- The microseconds a seal has waited, saturating (R349, R352). -/
def waitedUs (d : SealDue) (s : State) : Nat := min (2 ^ 32 - 1) ((s.tm.tick - d.tick) / usTicks s)

/-- The fields of SEAL_NOW's response with no extent to cover: all ones (R357). -/
def noSeal : List Byte := List.replicate 24 0xFF

/-- Complete the SEAL_NOW commands of some mailboxes. -/
def completeSeals (ms : List Nat) (r : Reply) (s : State) : State :=
  ms.foldl (fun s m => if mbRuns m 0x0804 s then mbComplete m r s else s) s

/-- The seal that fell due first (R349, R350). -/
def firstDueSeal (s : State) : Option SealDue :=
  (dueSeals s).foldl (fun a d =>
    match a with
    | some x => if d.tick < x.tick then some d else a
    | none => some d) none

/-- The seal starts (R349): its range and H_LAST are fixed, and it serves every seal that is due. `d` fell due first. -/
def startSeal (d : SealDue) (s : State) : State :=
  let info := s.sealer.readyInfo.getD (0, [])
  let late := decide (s.sealer.intervalMs * msTicks s < s.tm.tick - d.tick)
  let j : SealJob :=
    { no := s.sealer.nextNo, first := s.sealer.coverFrom, last := s.sealer.readyExt, lastSeq := info.1, hLast := info.2,
      reason := d.reason, tA := s.tm.a, tB := if s.tm.bValid then some s.tm.b else none, delayUs := waitedUs d s,
      mbs := (dueSeals s).filterMap fun e => e.forMb, emit := true, suspect := s.ret.suspect.isSome }
  let s := { s with sealer := { s.sealer with
    signing := some j, lastStart := some s.tm.tick, nextNo := s.sealer.nextNo + 1, coverFrom := s.sealer.readyExt + 1,
    due := s.sealer.due.filter fun e => e.after.isSome } }
  if late then raise 11 1 s else s

/-- Have 1,000 / MAX_RATE ms passed since the previous seal started (R349)? -/
def rateFree (s : State) : Bool :=
  s.sealer.lastStart.all fun t => decide (1000 * msTicks s ≤ (s.tm.tick - t) * s.sealer.maxRate)

/-- SEAL_START (R349, R351): the rate allows it, no other seal and no report is being signed, and acquisition is RUNNING or
DRAINING. -/
def execSealStart (s : State) : Result :=
  .next (match firstDueSeal s with
    | none => s
    | some d =>
      if s.dev.variant.sealer ∧ acquiring s ∧ rateFree s ∧ s.sealer.signing.isNone ∧ !attesting s then
        if 0 < sealable s then startSeal d s
        else
          let ms := (dueSeals s).filterMap fun e => e.forMb
          completeSeals ms (okWith noSeal)
            { s with sealer := { s.sealer with due := s.sealer.due.filter fun e => e.after.isSome } }
      else s)

/-! ## The SEAL frame (R352, R353) -/

/-- The public keys of the device and of Hurrijan's manufacturing key (R358). -/
def devicePublic : List Byte := slhPublic slhFast Config.deviceKey
def makerPublic : List Byte := slhPublic slhSmall Config.makerKey

/-- KEY_ID (R352): of the public key in the certificate (R358). -/
def keyId : List Byte := keyIdOf devicePublic

/-- Bytes 32 to 255 of the SEAL frame (R352). -/
def sealBody (j : SealJob) (s : State) : List Byte :=
  leBytes 8 j.no ++ leBytes 8 j.first ++ leBytes 8 j.last ++ leBytes 8 j.lastSeq ++ padTo 32 j.hLast ++
    padTo 32 s.sealer.prevSeal ++ timeBytes j.tA ++
    (match j.tB with
      | some t => timeBytes t
      | none => zeros 16) ++
    leBytes 4 ((s.tal.fmt.map fun f => f.id).getD 0) ++ leBytes 1 j.reason ++
    leBytes 1 (b2n j.tB.isSome + 2 * b2n s.sealer.restart) ++ zeros 2 ++ keyId ++ serial ++ leBytes 4 1 ++ leBytes 4 49856 ++
    leBytes 4 j.delayUs ++ zeros 52

/-- A signature of 49,856 bytes of a message by the device key with a context string (R353, R362): hedged with on-die entropy, so
no two of one message need be equal. -/
def freshSig (context message : List Byte) (s : State) : List Byte × State :=
  let r := freeBytes 4 s
  (slhSign slhFast Config.deviceKey context message r.1, r.2)

/-- The context strings "ENGAN-SEAL" and "RNK-ATTEST" (R353, R362). -/
def sealContext : List Byte := [69, 78, 71, 65, 78, 45, 83, 69, 65, 76]
def attestContext : List Byte := [82, 78, 75, 45, 65, 84, 84, 69, 83, 84]

/-- A seal completes (R350, R364). -/
def sealDoneRegs (j : SealJob) (digest : List Byte) (s : State) : State :=
  { s with sealer := { s.sealer with
      signing := none, overdue := false, timer := 0, lastNo := some j.no, lastExt := j.last, lastDigest := digest, cnt := s.sealer.cnt + 1,
      delayCnt := if j.delayUs = 0 then s.sealer.delayCnt else s.sealer.delayCnt + 1 } }

/-- A seal's frame is handed to the compressor (R349, R352), its index entry waits (R354), SEAL_NOW completes (R357). -/
def emitSeal (j : SealJob) (s : State) : State :=
  let body := sealBody j s
  let r := freshSig sealContext body s
  let t0 := t0Of j.tA
  let e : SealEntry :=
    { no := j.no, first := j.first, last := j.last, t0 := t0, hLast := j.hLast, body := body, sig := r.1,
      fmt := (s.tal.fmt.map fun f => f.id).getD 0, tries := 0, holder := none }
  let s := handFrame (insertedFrame 0x60 0x04 (2 * b2n j.suspect) t0 (body ++ r.1) r.2) r.2
  let digest := shake256 body
  let s := sealDoneRegs j digest s
  let s := { s with sealer := { s.sealer with
    prevSeal := digest, restart := false, entries := s.sealer.entries ++ [e] } }
  completeSeals j.mbs (okWith (leBytes 8 j.no ++ leBytes 8 j.first ++ leBytes 8 j.last)) (raise 11 0 s)

/-- A seal that was being signed at safe-state entry completes without its frame: its range stays unsealed (R351). -/
def dropSeal (j : SealJob) (s : State) : State :=
  let s := sealDoneRegs j (shake256 (sealBody j s)) s
  let from_ := max (min s.sealer.coverFrom j.first) ((s.tal.fmt.map fun f => f.firstExt).getD 0)
  completeSeals j.mbs (fail stState) { s with sealer := { s.sealer with coverFrom := from_ } }

/-! ## Attestation (R362) -/

/-- TALUS_GEOMETRY (R309). -/
def geometryReg (s : State) : Nat :=
  b2n s.tal.lock * 2 ^ 31 +
    match s.tal.fmt with
    | some f => 2 ^ 24 + f.size * 2 ^ 22 + f.nExt
    | none => 0

/-- TALUS_DURABLE (R341). -/
def durableReg (s : State) : Nat :=
  match s.tal.durable with
  | some n => 2 ^ 63 + n
  | none => 0

/-- The first 256 bytes of the report as they stand now (R362). -/
def attestBody (nonce : List Byte) (s : State) : List Byte :=
  leBytes 4 0x54414E52 ++ leBytes 2 1 ++ zeros 2 ++ padTo 32 nonce ++ serial ++ keyId ++ leBytes 4 s.dev.variant.devId ++
    leBytes 1 0xA2 ++ leBytes 1 s.dev.variant.code ++ zeros 2 ++ leBytes 4 Config.bootromVersion.toNat ++
    leBytes 4 s.dev.fwVersion.toNat ++ leBytes 1 s.dev.fwSlot ++ leBytes 1 (b2n s.dev.fwFallback) ++ zeros 2 ++
    leBytes 4 s.summit.floor ++ padTo 32 s.summit.fwDigest ++ leBytes 4 s.cfg.crcRef.toNat ++ leBytes 4 s.cfg.crcLive.toNat ++
    leBytes 4 ((s.tal.fmt.map fun f => f.id).getD 0) ++ leBytes 4 (geometryReg s) ++ leBytes 8 (durableReg s) ++
    leBytes 8 (s.sealer.lastNo.getD (2 ^ 64 - 1)) ++ padTo 32 s.sealer.lastDigest ++ timeBytes s.tm.a ++
    leBytes 8 s.flt.status.toNat ++ zeros 48

/-- Does a due seal go before an attestation that was asked for at a tick: one that has fallen due since, or one that may start now
(R349)? A seal that only MAX_RATE holds back does not keep an earlier report waiting. -/
def sealFirst (since : Nat) (s : State) : Bool :=
  acquiring s && (dueSeals s).any fun d => decide (since ≤ d.tick) || rateFree s

/-- A waiting attestation starts when nothing is being signed and no seal goes before it (R349, R362): the report's fields are
captured. -/
def startAttest (s : State) : State :=
  match s.sealer.attest with
  | some a =>
    if a.report.isNone ∧ s.sealer.signing.isNone ∧ !sealFirst a.since s then
      { s with sealer := { s.sealer with attest := some { a with report := some (attestBody a.nonce s) } } }
    else s
  | none => s

/-- ATTEST's rules up to its signing (R362). -/
def attestCmd (m : Nat) : Cmd := fun q s =>
  let cw := fieldAt q 32 1
  if 6 < cw ∨ !zeroAt q 33 223 then quit stBadArg s
  else if s.sealer.attest.isSome then quit stBusy s
  else if (cwOf s cw).claimed then quitClaimed s
  else
    let a : AttestJob := { mb := m, nonce := q.take 32, window := cw, since := s.tm.tick, report := none, detached := false }
    let s := cwClaim cw m 0x0801 false 50112 [] { s with sealer := { s.sealer with attest := some a } }
    (startAttest s, none)

/-- ATTEST (R362). -/
def execAttest (m : Fin 8) (s : State) : Result := .next (command m.val 0x0801 (attestCmd m.val) s)

/-- The report's transfer begins in a window already claimed (R516). -/
def sendReport (a : AttestJob) (data : List Byte) (s : State) : State :=
  let resp := leBytes 4 50112
  let s := modMb a.mb (fun q => { q with resp := resp }) (modCw a.window (fun w => { w with out := data }) s)
  let s := cwProduce a.window s
  if (cwOf s a.window).out = [] then mbComplete a.mb (okWith resp) s else s

/-- A report is signed; one whose mailbox has come back empty stays inside the device (R362, R483). -/
def finishAttest (a : AttestJob) (body : List Byte) (s : State) : State :=
  let r := freshSig attestContext body { s with sealer := { s.sealer with attest := none } }
  let s := raise 11 3 r.2
  if a.detached then s else sendReport a (body ++ r.1) s

/-- ATTEST_DONE (R362): the signature is complete; an attestation that still waits starts to be signed, once it may. -/
def execAttestDone (m : Fin 8) (s : State) : Result :=
  .next (match s.sealer.attest with
    | some a =>
      if a.mb = m.val ∧ (a.detached ∨ mbRuns m.val 0x0801 s) ∧ signCores s then
        match a.report with
        | some body => finishAttest a body s
        | none => startAttest s
      else s
    | none => s)

/-- SEAL_SIGN_DONE (R349, R351): signing completes, unless it pauses for want of a core (R346). -/
def execSealSignDone (s : State) : Result :=
  .next (match s.sealer.signing with
    | some j => if signCores s then startAttest (if j.emit then emitSeal j s else dropSeal j s) else s
    | none => s)

/-- SEAL_DEADLINE (R350): four intervals have passed after a seal became due with none completing since. -/
def execSealDeadline (s : State) : Result :=
  .next (if s.dev.variant.sealer ∧ acquiring s ∧ s.sealer.enable ∧ !s.sealer.overdue ∧
      4 * s.sealer.intervalMs * msTicks s ≤ s.sealer.timer ∧ (dueSeals s ≠ [] ∨ s.sealer.signing.isSome) then
      raise 11 2 (signal 32 0 { s with sealer := { s.sealer with overdue := true } })
    else s)

/-! ## The seal index (R354) -/

/-- A seal index entry (R354). -/
def sealEntryBytes (e : SealEntry) (ext off : Nat) : List Byte :=
  let b := leBytes 8 e.no ++ leBytes 8 e.first ++ leBytes 8 e.last ++ leBytes 8 ext ++ leBytes 4 off ++ leBytes 4 e.fmt ++
    t0Bytes e.t0 ++ padTo 32 e.hLast ++ shake256 e.body ++ shake256 e.sig ++ zeros 108
  b ++ leBytes 4 (crc32c b)

/-- An entry is done with. -/
def dropEntry (k : Nat) (s : State) : State :=
  { s with sealer := { s.sealer with entries := s.sealer.entries.filter fun e => e.key ≠ k } }

/-- SEAL_INDEX_WRITE (R354): the oldest seal whose holder is durable; `ok` says whether the read-back matches. -/
def execSealIndexWrite (ok : Bool) (s : State) : Result :=
  .next (match s.sealer.entries.find? fun e => e.holder.isSome with
    | none => s
    | some e =>
      let h := e.holder.getD (0, 0)
      let a := 0x4000000 + 256 * (e.no % 65536)
      if ok then dropEntry e.key (dieWrite a (sealEntryBytes e h.1 h.2) s)
      else if e.tries < 2 then
        { s with sealer := { s.sealer with
            entries := s.sealer.entries.map fun x => if x.key = e.key then { x with tries := x.tries + 1 } else x } }
      else
        let r := freeBytes 32 s
        let b := brokenEntry (r.1.take 252) (fieldAt r.1 252 4)
        dropEntry e.key (raise 10 11 (signal 13 0 (dieWrite a b r.2))))

/-! ## The Keccak pool (R48, R346, R347) -/

/-- The cores that serve the chain (R346, R347): 0 to 9, each fenced one replaced by core 11 and then core 10. -/
def chainCoresOf (fenced : Nat) : Nat :=
  let own := (List.range 10).filter fun c => !fenced.testBit c
  let spare := [11, 10].filter fun c => !fenced.testBit c
  maskOf (own ++ spare.take (10 - own.length))

/-- A core fails its known-answer test (R347). -/
def fenceCore (c : Nat) (s : State) : State :=
  if s.sealer.fenced.testBit c then s
  else
    let f := s.sealer.fenced + 2 ^ c
    raise 11 4 (signal 31 0 { s with sealer := { s.sealer with fenced := f, chainCores := chainCoresOf f } })

/-- KECCAK_SELFTEST (R347): the cores that failed, before READY and then every 60 s. -/
def execKeccakSelftest (bad : List (Fin 12)) (s : State) : Result :=
  .next (if coreUp s ∧ (!s.dev.ready ∨ s.sealer.testAt + 60000 * msTicks s ≤ s.tm.tick) then
      bad.foldl (fun s c => fenceCore c.val s) { s with sealer := { s.sealer with testAt := s.tm.tick, tested := true } }
    else s)

/-! ## SEAL_CFG and SEAL_NOW (R356, R357) -/

def sealCfgReply (op : Nat) (s : State) : List Byte :=
  leBytes 1 op ++ leBytes 1 (b2n s.sealer.enable) ++ leBytes 2 s.sealer.intervalMs ++ leBytes 4 s.sealer.extents ++
    leBytes 1 s.sealer.maxRate ++ zeros 7 ++ leBytes 8 s.sealer.nextNo

/-- SEAL_CFG's rules (R356). A SEAL_NOW with CLOSE whose extent was released while ENABLE was 0 falls due with ENABLE 1 (R357). -/
def sealCfgCmd : Cmd := fun q s =>
  let op := fieldAt q 0 1
  let ms := fieldAt q 2 2
  let n := fieldAt q 4 4
  let rate := fieldAt q 8 1
  if 1 < op ∨ 1 < fieldAt q 1 1 ∨ ms < 100 ∨ 60000 < ms ∨ n = 0 ∨ 65536 < n ∨ rate = 0 ∨ 100 < rate ∨ !zeroAt q 9 7 ∨
      !zeroAt q 24 232 then quit stBadArg s
  else
    let s := if op = 1 then s
      else { s with sealer := { s.sealer with
        enable := fieldAt q 1 1 == 1, intervalMs := ms, extents := n, maxRate := rate } }
    let s := { s with sealer := { s.sealer with due := s.sealer.due.map (dueNow s) } }
    (s, some (okWith (sealCfgReply op s)))

/-- SEAL_CFG (R356). -/
def execSealCfg (m : Fin 8) (s : State) : Result := .next (command m.val 0x0803 sealCfgCmd s)

/-- SEAL_NOW's rules up to the seal (R357). -/
def sealNowCmd (m : Nat) : Cmd := fun q s =>
  if 1 < fieldAt q 0 1 ∨ !zeroAt q 1 255 then quit stBadArg s
  else if sealRefused s then quit stState s
  else
    match bitOf 0 (fieldAt q 0 1), s.tal.opened with
    | true, some x =>
      (askSeal 2 (some m) (some x.seq) (if x.closing then s else dueClose s), none)
    | _, _ => (askSeal 2 (some m) none s, none)

/-- SEAL_NOW (R357). -/
def execSealNow (m : Fin 8) (s : State) : Result := .next (command m.val 0x0804 (sealNowCmd m.val) s)

/-! ## Device identity (R358, R359) -/

/-- The context string "HURRIJAN-DEVCERT" (R358). -/
def certContext : List Byte := [72, 85, 82, 82, 73, 74, 65, 78, 45, 68, 69, 86, 67, 69, 82, 84]

/-- Bytes 0 to 127 of the device certificate (R358). -/
def certBody (v : Variant) : List Byte :=
  leBytes 4 0x43444B52 ++ leBytes 2 1 ++ leBytes 1 1 ++ leBytes 1 v.code ++ serial ++ leBytes 2 (v.devId / 65536) ++ zeros 6 ++
    (List.range 8).map Config.issuedByte ++ keyIdOf makerPublic ++ devicePublic ++ zeros 16

/-- The device certificate (R358), signed by Hurrijan. -/
def certificate (v : Variant) : List Byte :=
  certBody v ++ slhSign slhSmall Config.makerKey certContext (certBody v) Config.makerEntropy

/-- IDENTITY_GET's rules (R359). -/
def identityCmd (m : Nat) : Cmd := fun q s =>
  let cw := fieldAt q 0 1
  if 6 < cw ∨ !zeroAt q 1 255 then quit stBadArg s
  else if (cwOf s cw).claimed then quitClaimed s
  else (startTransfer cw m 0x0802 (certificate s.dev.variant) (leBytes 4 29920 ++ keyId ++ serial) s, none)

/-- IDENTITY_GET (R359). -/
def execIdentityGet (m : Fin 8) (s : State) : Result := .next (command m.val 0x0802 (identityCmd m.val) s)

end Sys2Proof.Machine
end

