-- ==== Sys2Proof/Machine/Integrity.lean ====
section
/-! DEFINITION. Memory integrity: errors of memories 1-9, march tests, scrub, self-tests, fault injection, the event log's
command, and DEV_INFO (R8, R576-R587). -/

namespace Sys2Proof.Machine

/-- The protection words of memory `m` (R159, R579). -/
def memWords (v : Variant) (m : Nat) : Nat :=
  [v.ringCap / 64, 262144, 32768, 524288, 131072, 65536, 131072, 8192, 393216, 16384].getD m 0

/-! ## Errors of memories 1-9 (R579-R581) -/

/-- An injected corruption of a word is gone: the word has been written or corrected (R587). -/
def healWord (m w : Nat) (s : State) : State :=
  { s with mem := { s.mem with corrupt := s.mem.corrupt.filter fun c => !(c.1 == m && c.2.1 == w) } }

/-- A corrected word (R580, R581): F11 latches once the count of the interval exceeds CE_LIMIT. -/
def correctWord (m w : Nat) (s : State) : State :=
  let s := healWord m w s
  let s := { s with flt := { s.flt with sramCe := s.flt.sramCe + 1 }, mem := { s.mem with ceCount := s.mem.ceCount + 1 } }
  if s.mem.ceLimit < s.mem.ceCount ∧ !s.mem.ceSignalled then
    signal 11 0 { s with mem := { s.mem with ceSignalled := true } }
  else s

/-- An uncorrectable word of a lane buffer: a forced reset whose lost packets include the block (R579). -/
def loseLaneBlock (i : Nat) (s : State) : State :=
  match s.cmp.lanes.toList[i]? with
  | none => forceReset [] s
  | some l =>
    match l.held with
    | [] => forceReset [] s
    | (b, _) :: _ => forceReset [lostBlock b] (withoutBlock b.no s)

/-- An uncorrectable word of the staging buffer (R156, R579): row number `i` of the buffer is lost, with GAP cause MEMORY and
DETAIL 0. -/
def loseStaged (i : Nat) (s : State) : State :=
  match s.ring.staging[i]? with
  | none => s
  | some (d, _) =>
    let s := endEpisode s.ring.overflow s
    let s := { s with ring := { s.ring with overflow := none, staging := s.ring.staging.eraseIdx i } }
    let s := loseRow 4 d.row d.podMask s
    let s := endEpisode s.ring.overflow s
    { s with ring := { s.ring with overflow := none } }

/-- An uncorrectable word of the retention input buffer, in row number `i` of the buffer: as a retention read under R161. -/
def loseInput (i word : Nat) (s : State) : State :=
  match s.ret.rowsRead[i]? with
  | none => s
  | some (d, bytes) =>
    let ls := linesOf d.pos d.len s
    let r := salvage d [ls.getD (word * 8 % max 64 d.len / 64) 0] 0xFFFF (!windowed d.row s) s
    { r.2 with ret := { r.2.ret with rowsRead := r.2.ret.rowsRead.set i (r.1, bytes) } }

/-- The RECORD bodies of the Engan frame that the next body to send belongs to: how many come before it in the buffer, and
how many it has. -/
def nextGroup (q : Port) : Nat × Nat :=
  let isFirst (b : List Byte) : Bool := (fieldAt b 4 1).testBit 0
  let isLast (b : List Byte) : Bool := (fieldAt b 4 1).testBit 1
  let back := ((q.fwdBuf.take (q.fwdSent + 1)).reverse.takeWhile fun b => !isFirst b).length
  let start := q.fwdSent - back
  let run := ((q.fwdBuf.drop start).takeWhile fun b => !isLast b).length
  (start, run + 1)

/-- The Engan frame held in RECORD bodies, as far as a drop must know it (R246, R431). -/
def bodiesFrame (bs : List (List Byte)) : Frame :=
  let f := bs.flatMap fun b => b.drop 8
  { type := fieldAt f 0 2, seq := fieldAt f 16 8, epoch := fieldAt f 8 4, row := some (fieldAt f 32 6),
    pods := if fieldAt f 15 1 < 16 then 2 ^ fieldAt f 15 1 else 0, bytes := f }

/-- RECORD bodies renumbered from `r`. -/
def renumber : Nat → List (List Byte) → List (List Byte)
  | _, [] => []
  | r, b :: bs => (leBytes 4 r ++ b.drop 4) :: renumber ((r + 1) % 2 ^ 32) bs

/-- An uncorrectable word of port `p`'s forward buffer: the frame to be sent is dropped as R431 drops one (R579). -/
def loseForward (p : Nat) (s : State) : State :=
  let q := portOf s p
  if q.fwdBuf.length ≤ q.fwdSent then s
  else
    let g := nextGroup q
    let f := bodiesFrame ((q.fwdBuf.drop g.1).take g.2)
    let keep := q.fwdBuf.take q.fwdSent
    let gone := g.1 + g.2 - q.fwdSent
    let base := fieldAt (q.fwdBuf.getD q.fwdSent []) 0 4
    let rest := renumber base (q.fwdBuf.drop (g.1 + g.2))
    let d := addDrop f (q.fwdDrop.getD { pods := 0, bounds := none })
    let s := modPort p (fun q => { q with
      fwdBuf := keep ++ rest, rseqTx := unsign 32 ((q.rseqTx : Int) - gone), fwdDrop := some d }) s
    endDrop p (if q.fwdDrop.isSome then s else raise 12 15 s)

/-- An event-log entry that can no longer be read (R576, R579, R580). -/
def loseEntry (word : Nat) (s : State) : State :=
  { s with evt := { s.evt with log := s.evt.log.map fun e =>
      if e.seq.toNat % 4096 = word / 4 then { e with kind := 0xFF, data := zeros 16 } else e } }

/-- What an uncorrectable word of memory `m` does by itself, besides F10 (R579). `unit` is the mailbox whose command read the
scratchpad (8 and above: the host), the lane, the row in its buffer, or the port. -/
def uncorrectable (m word unit : Nat) (s : State) : State :=
  match m with
  | 2 => if unit < 8 ∧ (mbOf s unit).state = .running then mbComplete unit (fail stInternal) (cancelLong unit s) else s
  | 3 => forceReset [] s
  | 4 => loseLaneBlock unit s
  | 5 => loseStaged unit s
  | 6 => loseInput unit word s
  | 8 => loseForward unit s
  | 9 => loseEntry word s
  | _ => s

/-- A read of memory `m` finds a word in error (R579, R580); a parity error of memory 7 is uncorrectable. -/
def sramError (m word unit : Nat) (ue : Bool) (s : State) : State :=
  if ue ∨ m = 7 then
    let s := healWord m word { s with flt := { s.flt with sramUe := s.flt.sramUe + 1 } }
    let user := if m = 2 ∧ 8 ≤ unit then scratchUser word s else unit
    let s := uncorrectable m word unit (raise 1 10 s)
    signalUnit 10 (BitVec.ofNat 32 (m * 2 ^ 27 + word % 2 ^ 27)) user s
  else correctWord m word s

/-- SRAM_ECC_ERROR (R580). -/
def execSramEccError (mem word unit : Nat) (uncorrectable : Bool) (s : State) : Result :=
  .next (if 1 ≤ mem ∧ mem ≤ 9 ∧ word < memWords s.dev.variant mem then sramError mem word unit uncorrectable s else s)

/-- SRAM_CE_INTERVAL (R581): the interval of 250,000,000 ticks ends. -/
def execSramCeInterval (s : State) : Result :=
  if s.tm.tick < s.mem.ceFrom + 250000000 then .next s else
  let due := decide (s.mem.ceLimit < s.mem.ceCount) && !s.mem.ceSignalled
  let s := { s with mem := { s.mem with ceCount := 0, ceFrom := s.tm.tick, ceSignalled := false } }
  .next (if due then signal 11 0 s else s)

/-! ## March tests (R582, R583) -/

/-- Is memory `m` busy for a destructive test (R579)? -/
def memBusy (m : Nat) (s : State) : Bool :=
  match m with
  | 0 => s.dev.acq != .idle || decide (occupied s.eq ≠ 0)
  | 1 => true
  | 2 => s.mb.toList.any mbBusy || s.cw.toList.any (fun w => w.claimed) || s.tal.drives.toList.any fun d => d.state != 0
  | 3 => s.dev.acq != .idle || decide (occupied s.eq ≠ 0)
  | 8 => s.rl.ports.toList.any fun p => p.fwdTx
  | 9 => true
  | _ => s.dev.acq != .idle

/-- A destructive march of memory `m` from word `lo` to word `hi` begins: what it held is lost (R583). The ring reads as
unwritten; memory that has been marched reads as memory that nothing has written (log 6). -/
def destroyMem (m lo hi : Nat) (s : State) : State :=
  let s := healWords m lo hi s
  if m = 0 then
    evalMarks { s with ring := { s.ring with
      X := s.ring.W, H := s.ring.W, base := s.ring.W, mem := [], rows := [], stray := none, fresh := true, ceLines := [], ueLines := [] } }
  else if m = 2 then
    { s with summit := { s.summit with
        scratchpad := memWrite s.summit.scratchpad (8 * lo) (zeros (8 * (hi + 1 - lo))) } }
  else s

/-- MARCH_RUN's rules (R583). The mailbox that asks counts among the RUNNING ones of R579's busy test of the scratchpad. -/
def marchRunCmd (m : Nat) : Cmd := fun q s =>
  let mem := fieldAt q 0 1
  let kind := fieldAt q 1 1
  let fl := fieldAt q 2 1
  let start := fieldAt q 8 8
  let n := fieldAt q 16 8
  let size := memWords s.dev.variant mem
  let count := if n = 0 then size - start else n
  if 9 < mem ∨ 1 < kind ∨ fieldAt q 4 4 ≠ (if kind = 1 then 0x4843524D else 0) ∨ 3 < fl ∨
      (fl.testBit 1 ∧ ¬(mem = 0 ∧ kind = 1)) ∨ size ≤ start ∨ size < start + count ∨ !zeroAt q 3 1 ∨
      !zeroAt q 24 232 then quit stBadArg s
  else if s.mem.march.isSome then quit stBusy s
  else if kind = 1 ∧ memBusy mem s then quit stBusy s
  else
    let c : March := { mb := m, mem := mem, kind := kind, flags := fl, start := start, count := count }
    let s := if kind = 1 then destroyMem mem start (start + count - 1) s else s
    ({ s with mem := { s.mem with march := some c } }, none)

/-- MARCH_RUN (R583). -/
def execMarchRun (m : Fin 8) (s : State) : Result := .next (command m.val 0x0901 (marchRunCmd m.val) s)

/-- A failure that survives repair (R582): G15.12, and for memories 1-9 F10 with severity SAFE. -/
def exhausted (c : March) (firstFail : Nat) (s : State) : State :=
  let s := raise 15 12 s
  if c.mem = 0 then s
  else signalWith 10 (BitVec.ofNat 32 (c.mem * 2 ^ 27 + firstFail % 2 ^ 27)) 8 false .safe s

/-- Are the tests of start-up under way: after PERST#, before Summit firmware starts (R599 steps 3 and 4)? -/
def startTests (s : State) : Bool := alive s && !s.dev.ready && !s.dev.softPending && s.summit.state == .boot && !s.flt.on

/-- The tests of start-up end for a memory, with spare rows or soft post-package repair for what failed (R582). `first` is the
first failing word with its memory above it, as INFO of F10 has them (log 80). -/
def startTested (fails repaired first : Nat) (s : State) : State :=
  let rep := min repaired fails
  let s := if rep ≠ 0 then raise 15 11 s else s
  if rep < fails then
    let s := raise 15 12 s
    if 1 ≤ first / 2 ^ 27 ∧ first / 2 ^ 27 ≤ 9 then
      { s with mem := { s.mem with failed := s.mem.failed ++ [BitVec.ofNat 32 first] } }
    else s
  else s

/-- MARCH_DONE (R582, R583): the march of mailbox `m` ends, or the tests of start-up do for a memory. -/
def execMarchDone (m : Fin 8) (fails repaired firstFail us : Nat) (s : State) : Result :=
  .next (match s.mem.march with
    | none => if startTests s then startTested fails repaired firstFail s else s
    | some c =>
      if c.mb ≠ m.val then s
      else
        let fix := c.flags.testBit 0
        let rep := if fix then min repaired fails else 0
        let first := if fails = 0 then 2 ^ 64 - 1 else firstFail
        let s := { s with mem := { s.mem with march := none } }
        let s := raise 15 9 s
        let s := if fails ≠ 0 then raise 15 10 s else s
        let s := if rep ≠ 0 then raise 15 11 s else s
        let s := if fix ∧ rep < fails then exhausted c first s else s
        finishMb m.val 0x0901 (okWith (leBytes 4 fails ++ leBytes 4 rep ++ leBytes 8 first ++ leBytes 4 us)) s)

/-! ## Self-tests (R584) -/

/-- DEV_SELFTEST's rules up to the end of the tests: the tests asked for are noted. -/
def selftestCmd (m : Nat) : Cmd := fun q s =>
  let t := fieldAt q 0 1
  if t = 0 ∨ 31 < t ∨ !zeroAt q 1 255 then quit stBadArg s
  else if t.testBit 3 ∧ s.dev.acq ≠ .idle then quit stState s
  else ({ s with mem := { s.mem with tests := s.mem.tests ++ [(m, t)] } }, none)

/-- DEV_SELFTEST (R584). -/
def execDevSelftest (m : Fin 8) (s : State) : Result := .next (command m.val 0x0002 (selftestCmd m.val) s)

/-- The sources of failed tests (R584): Keccak F31, the lane's verify F15, the front end's F20; which lane, and which input
of which pod, the result does not say. Bit 4 never enters safe state. -/
def selftestFaults (f : Nat) (s : State) : State :=
  let s := if f.testBit 0 then signal 31 0 s else s
  let s := if f.testBit 2 then
      let r := freeBits 3 s
      signalUnit 15 0 r.1 r.2
    else s
  if f.testBit 3 then
    let r := freeBits 16 s
    signal 20 (BitVec.ofNat 32 r.1) r.2
  else s

/-- SELFTEST_DONE (R584): the tests of mailbox `m` end, also where an FLR has emptied the mailbox (R483). -/
def execSelftestDone (m : Fin 8) (failed : Byte) (s : State) : Result :=
  .next (match s.mem.tests.find? fun t => t.1 == m.val with
    | none => s
    | some (_, t) =>
      let f := failed.toNat &&& t
      let s := { s with mem := { s.mem with tests := s.mem.tests.filter fun x => x.1 != m.val } }
      let s := raise 15 15 (selftestFaults f s)
      finishMb m.val 0x0002 (okWith (leBytes 1 t ++ leBytes 1 f)) s)

/-! ## Scrub (R585, R586) -/

/-- Scrub has read every word of memory `m`: it meets the injected errors (R585, R587). The lane, row or port
whose words the memory holds is `unit`; memory 2 finds its mailbox from the word (`scratchUser`). -/
def scrubFinds (m unit : Nat) (s : State) : State :=
  (s.mem.corrupt.filter fun c => c.1 = m).foldl (fun s c =>
    sramError m c.2.1 (if m = 2 then 8 else unit) (c.2.2 == 2) s) s

/-- Has a pass of memory `m` read everything? What has been read of memories 1-9 the state does not hold (log 3). -/
def passRead (m : Nat) (s : State) : Bool :=
  if m = 0 then scrubAtEnd s else if m = 10 then s.tal.scrubRest == scrubEnd else true

/-- The position of scrub at the start of a pass of memory `m`. -/
def rewindScrub (m : Nat) (s : State) : State :=
  if m = 0 then { s with ring := { s.ring with scrubPos := 0 } }
  else if m = 10 then { s with tal := { s.tal with scrubPos := 0, scrubRest := 0 } }
  else s

/-- SCRUB_PASS_DONE (R585): the next pass begins, under the settings that SCRUB_CFG has left (R586). -/
def execScrubPassDone (mem : Fin 11) (unit : Nat) (s : State) : Result :=
  .next (match (scrubOf mem.val s).run with
    | none => s
    | some (t, _) =>
      if scrubRuns mem.val s ∧ passRead mem.val s then
        let ms := (s.tm.tick - t) / msTicks s
        let s := { s with mem := { s.mem with scrub := tabMod s.mem.scrub mem.val fun x =>
          { x with
            passes := (x.passes + 1) % 2 ^ 32, lastMs := ms % 2 ^ 32, late := false,
            run := if x.enable then some (s.tm.tick, x.passS) else none } } }
        raise 15 13 (scrubFinds mem.val unit (rewindScrub mem.val s))
      else s)

/-- SCRUB_LATE (R585): once for a pass that has lasted more than 2 × PASS_S. -/
def execScrubLate (mem : Fin 11) (s : State) : Result :=
  .next (match (scrubOf mem.val s).run with
    | none => s
    | some (t, p) =>
      if !(scrubOf mem.val s).late ∧ t + 2000 * msTicks s * p < s.tm.tick then
        raise 15 14 { s with mem := { s.mem with scrub := tabMod s.mem.scrub mem.val fun x => { x with late := true } } }
      else s)

/-- The response of SCRUB_CFG: the settings in force, PASSES and LAST_PASS_MS. -/
def scrubReply (op m : Nat) (s : State) : List Byte :=
  let x := scrubOf m s
  leBytes 1 op ++ leBytes 1 m ++ leBytes 1 (b2n x.enable) ++ zeros 1 ++ leBytes 4 x.passS ++ leBytes 2 s.mem.ceLimit ++
    zeros 2 ++ leBytes 4 x.passes ++ leBytes 4 x.lastMs

/-- New settings of a memory's scrub apply from its next pass; where none goes on, one begins (R586). -/
def setScrub (on : Bool) (p now : Nat) (x : Scrub) : Scrub :=
  { x with
    enable := on, passS := p,
    run := match x.run with
      | some r => some r
      | none => if on then some (now, p) else none }

/-- SCRUB_CFG's rules (R586). CE_LIMIT, which is shared and belongs to the intervals of R581, applies at once (DESIGN CHOICE,
log 65). -/
def scrubCmd : Cmd := fun q s =>
  let op := fieldAt q 0 1
  let m := fieldAt q 1 1
  let p := fieldAt q 4 4
  let ce := fieldAt q 8 2
  if 1 < op ∨ 10 < m ∨ 1 < fieldAt q 2 1 ∨ !zeroAt q 3 1 ∨ p = 0 ∨ 604800 < p ∨ ce = 0 ∨ !zeroAt q 10 246 then
    quit stBadArg s
  else if op = 1 then (s, some (okWith (scrubReply 1 m s)))
  else
    let s := { s with mem := { s.mem with
      ceLimit := ce, scrub := tabMod s.mem.scrub m fun x => setScrub (fieldAt q 2 1 == 1) p s.tm.tick x } }
    (s, some (okWith (scrubReply 0 m s)))

/-- SCRUB_CFG (R586). -/
def execScrubCfg (m : Fin 8) (s : State) : Result := .next (command m.val 0x0902 scrubCmd s)

/-! ## Fault injection (R587) -/

/-- The contained unit of an injected latch: the pin of F34's INFO; the user of the scratchpad word in F10's; which lane and
which resource INFO does not say. -/
def injectUnit (f : Nat) (info : Nat) (s : State) : Nat × State :=
  if f = 34 then (((List.range 4).find? fun x => info.testBit x).getD 4, s)
  else if f = 15 then freeBits 3 s
  else if f = 10 ∧ info / 2 ^ 27 = 2 then (scratchUser (info % 2 ^ 27) s, s)
  else if f = 10 ∧ info / 2 ^ 27 = 7 then
    let r := freeBits 64 s
    (r.1 % 84, r.2)
  else (8, s)

/-- ECC: the check bits of a word are corrupted until it is read or written. -/
def injectEcc (m bits w : Nat) (s : State) : State :=
  if m = 0 then
    { s with ring := { s.ring with
        ceLines := if bits = 1 then s.ring.ceLines.filter (· ≠ w) ++ [w] else s.ring.ceLines.filter (· ≠ w),
        ueLines := if bits = 2 then s.ring.ueLines.filter (· ≠ w) ++ [w] else s.ring.ueLines.filter (· ≠ w) } }
  else
    let s := healWord m w s
    { s with mem := { s.mem with corrupt := s.mem.corrupt ++ [(m, w, bits)] } }

/-- FAULT_INJECT's rules (R587). -/
def faultInjectCmd : Cmd := fun q s =>
  let op := fieldAt q 0 1
  let f := fieldAt q 1 1
  let m := fieldAt q 2 1
  let bits := fieldAt q 3 1
  let w := fieldAt q 8 8
  if 1 < op ∨ (op = 0 ∧ 38 < f) ∨
      (op = 1 ∧ (9 < m ∨ bits = 0 ∨ 2 < bits ∨ memWords s.dev.variant m ≤ w)) ∨ !zeroAt q 16 240 then quit stBadArg s
  else if op = 0 ∧ !hasSource s.dev.variant f then quit stUnsupported s
  else if op = 1 then (injectEcc m bits w s, some (okWith []))
  else
    let r := injectUnit f (fieldAt q 4 4) s
    let s := signalWith f (BitVec.ofNat 32 (fieldAt q 4 4)) r.1 true (sevInForce f r.2) r.2
    (if 27 ≤ f ∧ f ≤ 29 then settleRef s else s, some (okWith []))

/-- FAULT_INJECT (R587). -/
def execFaultInject (m : Fin 8) (s : State) : Result := .next (command m.val 0x0903 faultInjectCmd s)

/-! ## LOG_READ (R578) -/

/-- SEQ of the oldest entry held, NEXT for an empty log. -/
def oldestSeq (s : State) : Word := s.evt.next - BitVec.ofNat 32 s.evt.log.length

/-- LOG_READ's rules (R578). -/
def logReadCmd : Cmd := fun q s =>
  let first := BitVec.ofNat 32 (fieldAt q 0 4)
  let n := fieldAt q 4 1
  if n = 0 ∨ 7 < n ∨ !zeroAt q 5 251 then quit stBadArg s
  else
    let old := oldestSeq s
    let held := decide ((first - old).toNat < (s.evt.next - old).toNat)
    let ahead := !held && decide ((first - s.evt.next).toNat < 2 ^ 31)
    let es := if ahead then [] else (if held then s.evt.log.drop (first - old).toNat else s.evt.log).take n
    (s, some (okWith (leBytes 4 old.toNat ++ leBytes 1 es.length ++ zeros 27 ++ es.flatMap logBytes)))

/-- LOG_READ (R578). -/
def execLogRead (m : Fin 8) (s : State) : Result := .next (command m.val 0x0003 logReadCmd s)

/-! ## DEV_INFO (R8) -/

/-- The response of DEV_INFO. -/
def devInfoBody (s : State) : List Byte :=
  leBytes 2 0x1E5D ++ leBytes 2 (s.dev.variant.devId / 65536) ++ leBytes 1 0xA2 ++ leBytes 1 s.dev.variant.code ++ zeros 2 ++
    leBytes 4 s.dev.variant.cap0 ++ leBytes 4 s.dev.variant.cap1 ++ serial ++
    leBytes 4 (if s.dev.bootrom then 0 else s.dev.fwVersion.toNat) ++ leBytes 1 s.dev.fwSlot ++
    leBytes 1 (b2n s.dev.fwFallback) ++ leBytes 2 96 ++ leBytes 4 Config.bootromVersion.toNat ++ leBytes 4 2097152 ++
    leBytes 1 s.pcie.gen ++ leBytes 1 s.pcie.width

/-- DEV_INFO (R8): no request field is looked at. -/
def devInfoCmd : Cmd := fun _ s => (s, some (okWith (devInfoBody s)))

/-- DEV_INFO (R8). -/
def execDevInfo (m : Fin 8) (s : State) : Result := .next (command m.val 0x0001 devInfoCmd s)

end Sys2Proof.Machine
end

