-- ==== Sys2Proof/Machine/Regs.lean ====
section
/-! DEFINITION. What every BAR0 register reads as, block by block (R532 and the register tables of each chapter), the
indicators, the read of a wide register's low word, and the snapshot page (R537, R555, R556). -/

namespace Sys2Proof.Machine

/-- A signed number as a 32-bit register shows it. -/
def reg32 (v : Int) : Nat := unsign 32 v

/-- A 48-bit two's complement count, sign-extended to 64 bits (R399). -/
def countReg (v : Nat) : Nat := unsign 64 (signed 48 v)

/-- The mask of the entries of a list, numbered from 0, that satisfy a test. -/
def maskWhere {α : Type} (f : α → Bool) (l : List α) : Nat :=
  maskOf ((List.range l.length).filter fun i => match l[i]? with
    | some x => f x
    | none => false)

/-! ## DEV and CFG (R542-R544, R553, R554) -/

def Acq.code : Acq → Nat
  | .idle => 0
  | .running => 1
  | .draining => 2
  | .frozen => 3

/-- DEV_STATUS (R543). -/
def devStatus (s : State) : Nat :=
  b2n s.dev.bootrom * 32 + b2n s.dev.safe * 16 + s.dev.acq.code * 2 + b2n s.dev.ready

def devReg (o : Nat) (s : State) : Nat :=
  match o with
  | 0x00 => s.dev.variant.devId
  | 0x04 => 0xA2
  | 0x08 => devStatus s
  | 0x10 => s.dev.variant.cap0
  | 0x14 => s.dev.variant.cap1
  | 0x18 => s.dev.scratch.toNat
  | 0x1C => s.dev.resetCause
  | _ => 0

/-- Is the scanner's comparison suspended (R550)? -/
def suspended (s : State) : Bool :=
  !s.cfg.checkedValid || s.cfg.opened || s.dev.acq == .draining || s.dev.acq == .frozen

/-- CFG_STATUS (R554). LATCHING is never seen: a LATCH_REF completes with its write (log 4). -/
def cfgStatus (s : State) : Nat :=
  s.cfg.section_ * 2 ^ 24 + s.cfg.unlock * 2 ^ 16 + b2n (suspended s) * 16 + b2n s.cfg.checkedValid * 8 +
    b2n s.cfg.mismatchSeen * 4 + b2n s.cfg.mismatchNow * 2

def cfgReg (o : Nat) (s : State) : Nat :=
  match o with
  | 0x04 => b2n s.cfg.opened
  | 0x08 => s.cfg.crcLive.toNat
  | 0x0C => s.cfg.crcRef.toNat
  | 0x10 => (stagedCrc s).toNat
  | 0x14 => s.cfg.crcChecked.toNat
  | 0x18 => cfgStatus s
  | 0x1C => s.cfg.mismatchCnt.toNat
  | 0x20 => s.cfg.passCnt.toNat
  | _ => 0

/-! ## MB (R497, R498, R512, R513, R525) -/

def MbState.code : MbState → Nat
  | .idle => 0
  | .queued => 1
  | .running => 2
  | .done => 3

def SummitState.code : SummitState → Nat
  | .boot => 0
  | .running => 1
  | .restarting => 2
  | .bootrom => 3
  | .halted => 4

/-- MBm_STATUS (R498). -/
def mbStatus (q : Mailbox) : Nat :=
  q.tag * 2 ^ 24 + q.status * 2 ^ 16 + q.keyClass * 2 ^ 12 + b2n q.tunnel.isSome * 2 ^ 8 + q.state.code

def mailboxReg (m o : Nat) (s : State) : Nat :=
  let q := mbOf s m
  match o with
  | 0x00 => q.cmd.toNat % 2 ^ 25
  | 0x08 => mbStatus q
  | 0x0C => q.detail
  | 0x10 => q.time.toNat
  | _ => 0

/-- CW_STATUSk (R513). -/
def cwStatus (w : Window) : Nat :=
  b2n w.claimed * 2 ^ 31 + b2n w.hostProduces * 2 ^ 30 + b2n w.done * 2 ^ 29 + w.mb * 2 ^ 24 + w.opcode

def windowReg (k o : Nat) (s : State) : Nat :=
  let w := cwOf s k
  match o with
  | 0x00 => cwCfgReg k s
  | 0x04 => cwStatus w
  | 0x08 => w.prod.toNat
  | 0x0C => w.cons.toNat
  | 0x10 => w.len.toNat
  | _ => 0

/-- SUMMIT_STATUS (R525). -/
def summitStatus (s : State) : Nat :=
  s.summit.restarts * 2 ^ 16 + b2n s.summit.lastCause * 2 ^ 9 + b2n s.dev.fwFallback * 2 ^ 8 + s.dev.fwSlot * 8 +
    s.summit.state.code

/-- MB_PROTO_CNT (R497). -/
def protoCnt (s : State) : Nat := s.summit.protoCw.toNat * 2 ^ 16 + s.summit.protoMb.toNat

def mbReg (o : Nat) (s : State) : Nat :=
  if o < 0x100 then mailboxReg (o / 0x20) (o % 0x20) s
  else if 0x200 ≤ o ∧ o < 0x300 then windowReg ((o - 0x200) / 0x20) (o % 0x20) s
  else match o with
    | 0x100 => maskWhere (fun q => q.state == .done) s.mb.toList * 2 ^ 8 + maskWhere mbBusy s.mb.toList
    | 0x104 => summitStatus s
    | 0x108 => s.summit.heartbeat.toNat
    | 0x10C => protoCnt s
    | _ => 0

/-! ## EVT (R557-R561) -/

def evtRaw (g : Nat) (s : State) : Word := tabGet s.evt.raw g 0
def evtEnable (g : Nat) (s : State) : Word := tabGet s.evt.enable g 0

/-- EVT_VECg_w (R560); the byte of an absent event reads 0 (R557). -/
def evtVec (g w : Nat) (s : State) : Nat :=
  leNat ((List.range 4).map fun i =>
    if hasEvent s.dev.variant g (4 * w + i) then (tabGet s.evt.vector (32 * g + 4 * w + i) 0).zeroExtend 8 else 0)

/-- EVT_SUMMARY (R561). -/
def evtSummary (s : State) : Nat :=
  maskOf ((List.range 16).filter fun g => evtRaw g s != 0) * 2 ^ 16 +
    maskOf ((List.range 16).filter fun g => evtRaw g s &&& evtEnable g s != 0)

def evtReg (o : Nat) (s : State) : Nat :=
  if o < 0x200 then
    match o % 0x20 with
    | 0x00 => (evtRaw (o / 0x20) s).toNat
    | 0x04 => (evtRaw (o / 0x20) s &&& evtEnable (o / 0x20) s).toNat
    | 0x08 => (evtEnable (o / 0x20) s).toNat
    | _ => 0
  else if o = 0x200 then evtSummary s
  else if 0x400 ≤ o ∧ o < 0x600 then evtVec ((o - 0x400) / 0x20) (o % 0x20 / 4) s
  else 0

/-! ## FLT (R589-R591) -/

/-- FLT_HIST1 (R591). -/
def hist1 (e : HistEntry) : Nat :=
  e.info.toNat * 2 ^ 32 + 2 ^ 31 + b2n e.injected * 2 ^ 30 + e.severity.code * 2 ^ 10 + e.source

def fltWide (o : Nat) (s : State) : Option Nat :=
  match o with
  | 0x40 => some (match s.flt.hist with
    | e :: _ => t0Reg (e.sec, e.ns)
    | [] => 0)
  | 0x48 => some (match s.flt.hist with
    | e :: _ => hist1 e
    | [] => 0)
  | _ => none

def fltReg (o : Nat) (s : State) : Nat :=
  match o with
  | 0x00 => s.flt.status.toNat % 2 ^ 32
  | 0x04 => s.flt.status.toNat / 2 ^ 32
  | 0x08 => (liveMask s).toNat % 2 ^ 32
  | 0x0C => (liveMask s).toNat / 2 ^ 32
  | 0x10 => b2n s.flt.extEn * 2 ^ 8 + s.flt.faultnSev * 2 ^ 4
  | 0x18 => b2n s.dev.safe * 2 ^ 31 + b2n (releasable s) * 2 ^ 30 + s.flt.cause * 2 ^ 16
  | 0x1C => s.dev.dieTemp.toNat
  | 0x20 => s.flt.sev[0].toNat
  | 0x24 => s.flt.sev[1].toNat
  | 0x28 => s.flt.sev[2].toNat
  | 0x2C => s.flt.sev[3].toNat
  | 0x30 => b2n s.flt.overflow * 2 ^ 8 + s.flt.hist.length
  | 0x50 => s.flt.latchCnt.toNat
  | 0x54 => s.flt.dropCnt.toNat
  | 0x58 => s.flt.safeCnt.toNat
  | 0x5C => s.flt.sramCe.toNat
  | 0x60 => s.flt.sramUe.toNat
  | 0x70 => match s.mem.march with
    | some c => 2 ^ 31 + c.mem * 2 ^ 24 + (Config.marchPercent s.tm.tick).toNat
    | none => 0
  | _ => 0

/-! ## TIME/AX and SCH (R399-R402) -/

def timeWide (o : Nat) (s : State) : Option Nat :=
  match o with
  | 0x00 => some (t0Reg (t0Of s.tm.a))
  | 0x08 => some s.tm.incrA
  | 0x10 => some 0
  | 0x20 => some (t0Reg (t0Of s.tm.b))
  | 0x28 => some s.tm.incrB
  | 0x30 => some 0
  | 0x40 => some s.tm.ppsA.1.toNat
  | 0x50 => some s.tm.ppsB.1.toNat
  | 0x60 => some (countReg s.tm.enc[0].count)
  | 0x68 => some (countReg s.tm.enc[1].count)
  | 0x70 => some (countReg s.tm.enc[0].latched)
  | 0x78 => some (countReg s.tm.enc[1].latched)
  | 0x88 => some (mainsAxis s)
  | 0x90 => some s.tm.ax5
  | _ => none

/-- TIME_B_STATUS (R399). -/
def timeBStatus (s : State) : Nat :=
  maskWhere (fun q : Port => q.good) s.rl.ports.toList * 2 ^ 16 + s.tm.source * 2 ^ 8 + b2n s.tm.slewing * 8 +
    b2n (s.tm.source == 5) * 4 + b2n s.tm.bValid

/-- MAINS_STATUS (R400): PERIOD in microseconds. -/
def mainsStatus (s : State) : Nat :=
  let m := s.tm.mains
  b2n m.lost * 2 ^ 31 + b2n m.range * 2 ^ 30 + b2n m.enable * 2 ^ 29 + m.period / 2500 % 2 ^ 24

def stepCnt (s : State) : Nat := s.tm.refused * 2 ^ 16 + s.tm.accepted % 2 ^ 16
def encErrCnt (s : State) : Nat := s.tm.enc[1].errors * 2 ^ 16 + s.tm.enc[0].errors

def timeReg (o : Nat) (s : State) : Nat :=
  match o with
  | 0x18 => s.tm.stepLimit.toNat
  | 0x1C => stepCnt s
  | 0x38 => timeBStatus s
  | 0x3C => s.tm.ppsCfg.toNat
  | 0x48 => s.tm.ppsA.2.toNat
  | 0x4C => s.tm.ppsCnt.toNat
  | 0x58 => s.tm.ppsB.2.toNat
  | 0x80 => encErrCnt s
  | 0x84 => mainsStatus s
  | _ => 0

def schWide (o : Nat) (s : State) : Option Nat :=
  if o < 0x800 then
    match o % 0x20 with
    | 0x08 => some (slotOf s (o / 0x20)).target.toNat
    | 0x10 => some (slotOf s (o / 0x20)).period.toNat
    | _ => none
  else if o = 0x800 then some (maskWhere (fun q : Slot64 => q.armed) s.sch.slots.toList)
  else none

/-- SCH_STATUSn (R402). -/
def schStatus (q : Slot64) : Nat :=
  q.outcome * 2 ^ 8 + b2n q.missed * 8 + b2n q.late * 4 + b2n q.queued * 2 + b2n q.armed

def schCount (q : Slot64) : Nat := q.missedCnt % 2 ^ 16 * 2 ^ 16 + q.doneCnt % 2 ^ 16

def schReg (o : Nat) (s : State) : Nat :=
  if o < 0x800 then
    match o % 0x20 with
    | 0x00 => (slotOf s (o / 0x20)).cfg.toNat
    | 0x18 => schStatus (slotOf s (o / 0x20))
    | 0x1C => schCount (slotOf s (o / 0x20))
    | _ => 0
  else match o with
    | 0x808 => s.sch.sf
    | 0x80C => s.sch.overflow % 2 ^ 16 * 2 ^ 16 + s.sch.queue.length
    | _ => 0

/-! ## EXP (R299-R301) -/

def expWide (o : Nat) (s : State) : Option Nat :=
  match o with
  | 0x08 => some (occupied s.eq * 2 ^ 32 + avail s.eq)
  | 0x10 => some s.eq.wpos
  | 0x18 => some s.eq.rpos
  | 0x20 => some s.eq.relpos
  | 0x40 => some (min (2 ^ 64 - 1) s.cmp.rawBytes)
  | 0x48 => some (min (2 ^ 64 - 1) s.cmp.storedBytes)
  | 0x70 => some 0
  | _ => none

/-- EQ_STATUS (R300). -/
def eqStatus (s : State) : Nat :=
  s.eq.chunks.length * 2 ^ 8 + b2n s.eq.pull * 2 ^ 7 + b2n s.eq.paused * 2 ^ 6 + b2n s.eq.epochHold * 2 ^ 5 +
    b2n s.eq.resetting * 2 ^ 4 + b2n s.eq.stallSeen * 8 + b2n s.eq.underrun * 4 + b2n s.eq.stall * 2 + s.eq.drain

/-- CMP_STATUS (R301). -/
def cmpStatus (s : State) : Nat :=
  b2n s.cmp.compress * 2 ^ 16 + maskWhere (fun l : Lane => l.fenced) s.cmp.lanes.toList * 2 ^ 8 +
    maskWhere (fun l : Lane => !l.held.isEmpty) s.cmp.lanes.toList

def expReg (o : Nat) (s : State) : Nat :=
  match o with
  | 0x00 => eqStatus s
  | 0x04 => fillWords s.eq * 2 ^ 16 + drainWords s.eq
  | 0x28 => s.eq.underrunCnt.toNat
  | 0x2C => s.eq.stallCnt.toNat
  | 0x30 => s.eq.rewindCnt.toNat
  | 0x34 => s.eq.resetCnt.toNat
  | 0x38 => cmpStatus s
  | 0x3C => s.cmp.verifyFail.toNat
  | 0x50 => s.cmp.blockCnt.toNat
  | 0x54 => s.cmp.noGain.toNat
  | 0x60 => s.eq.drain * 2 ^ 16 + s.eq.released
  | 0x68 => s.eq.pullBad.toNat
  | _ => 0

/-! ## PLL (R458, R459) -/

def LoopState.code : LoopState → Nat
  | .freeRun => 0
  | .acquiring => 1
  | .locked => 2
  | .holdover => 3
  | .backup => 4

/-- PLL_S_STATUS and PLL_L_STATUS without SUSPECT and DCO_RANGE (R459). -/
def loopStatus (l : Loop) (s : State) : Nat :=
  s.pll.prepath * 2 ^ 16 + b2n s.pll.realigning * 2 ^ 15 + b2n s.pll.altInUse * 2 ^ 11 + s.pll.ref * 2 ^ 8 + l.state.code

/-- The sources that are missing: a recovered clock also while its port is not UP (R445). -/
def missingMask (s : State) : Nat :=
  s.pll.missing ||| maskOf (((List.range 3).filter fun p =>
    s.dev.variant.ridgeline && (portOf s p).state != .up).map fun p => 2 + p)

def pllReg (o : Nat) (s : State) : Nat :=
  match o with
  | 0x00 => loopStatus s.pll.s s + b2n s.pll.dcoRange * 2 ^ 14 + b2n s.pll.suspect * 2 ^ 13
  | 0x04 => loopStatus s.pll.l s
  | 0x08 => s.pll.good * 2 ^ 16 + missingMask s * 2 ^ 8 + s.pll.offRange
  | 0x0C => reg32 s.pll.sFreq
  | 0x10 => reg32 s.pll.phErr
  | 0x14 => reg32 s.pll.s.pbo
  | 0x18 => reg32 s.pll.l.pbo
  | 0x1C => if inHoldover s then reg32 s.pll.holdWord else 0
  | 0x20 => b2n (s.pll.refoutDiv != 0) * 2 ^ 31 + s.pll.refoutDelay * 2 ^ 16 + s.pll.refoutDiv
  | 0x24 => s.pll.dcoFails % 256 * 2 ^ 24 + s.pll.refLosses % 256 * 2 ^ 16 + s.pll.lUnlocks % 256 * 2 ^ 8 +
      s.pll.sUnlocks % 256
  | 0x28 => s.pll.stepCnt.toNat
  | 0x2C => reg32 s.pll.lastStep
  | _ => 0

/-! ## PODC and the indicators (R86-R91) -/

def podReg (p o : Nat) (s : State) : Nat :=
  if s.dev.variant.hasPod p then
    match o with
    | 0x0 => podStatus p s
    | 0x4 => podSupply p s
    | 0x8 => (podAt s p).temp.toNat
    | _ => 0
  else 0

def podcReg (o : Nat) (s : State) : Nat :=
  if 0x40 ≤ o ∧ o < 0x140 then podReg ((o - 0x40) / 0x10) (o % 0x10) s
  else if 0x200 ≤ o ∧ o < 0x220 then (tabGet s.podc.keyCfg ((o - 0x200) / 4) 0).toNat
  else if 0x240 ≤ o ∧ o < 0x280 then (tabGet s.podc.indCfg ((o - 0x240) / 4) 0).toNat
  else match o with
    | 0x00 => s.podc.autopwr
    | 0x04 => s.podc.pending
    | 0x08 => maskWhere (fun q : Pod => q.present) s.pods.toList &&& s.dev.variant.podMask
    | 0x0C => s.podc.stbyPress * 2 ^ 8 + s.podc.keyLive
    | 0x10 => s.podc.telemPeriod
    | 0x280 => s.podc.indSw
    | _ => 0

/-- What an indicator shows before INV (R86). -/
inductive IndShow where
  | off
  | on
  | blink1
  | blink4
  deriving DecidableEq, Repr

def indOnIf (b : Bool) : IndShow := if b then .on else .off

/-- The source of an indicator (R86). -/
def indSource (i : Nat) (c : Word) (s : State) : IndShow :=
  let arg := bitsOf 7 4 c.toNat
  match bitsOf 3 0 c.toNat with
  | 0 => indOnIf (s.podc.indSw.testBit i)
  | 1 => indOnIf (s.flt.status != 0)
  | 2 => indOnIf ((bitsSet 4 arg).any fun j => (seqOf s j).mode == .armed)
  | 3 => match s.dev.acq with
    | .running => .on
    | .draining => .blink1
    | _ => .off
  | 4 =>
    if !s.dev.variant.hasPod arg then .off
    else match (podAt s arg).state with
      | .active => .on
      | .empty => .off
      | .rejected => .blink4
      | .faulted => .blink4
      | _ => .blink1
  | 5 => indOnIf (s.podc.keyLive.testBit (arg % 8))
  | _ => .off

/-- What indicator `i` shows, in safe state its SAFE field (R86, R87), and whether its output is inverted. -/
def indicator (i : Nat) (s : State) : IndShow × Bool :=
  let c := tabGet s.podc.indCfg i 0
  let shown := if s.dev.safe then
      match bitsOf 11 10 c.toNat with
      | 0 => .off
      | 1 => .on
      | _ => .blink4
    else indSource i c s
  (shown, c.getLsbD 9)

/-- What the pin of indicator `i` drives: nothing on an unpowered bank (R594). -/
def indPin (i : Fin 16) (s : State) : Option (IndShow × Bool) :=
  if bankOn (.ind i) s then some (indicator i.val s) else none

/-! ## PCIE (R490-R493) -/

/-- PCIE_STATUS (R491). -/
def pcieStatus (s : State) : Nat :=
  let p := s.pcie
  b2n p.tag10 * 2 ^ 27 + b2n p.inL1 * 2 ^ 26 + b2n p.aspmEn * 2 ^ 25 + b2n p.ltrEn * 2 ^ 24 + b2n p.bme * 2 ^ 23 +
    b2n p.msixEn * 2 ^ 22 + b2n p.d3hot * 2 ^ 21 + b2n p.dlUp * 2 ^ 20 + p.width * 2 ^ 8 + p.gen

def pwReg (n o : Nat) (s : State) : Nat :=
  match o with
  | 0x0 => (tabGet s.pcie.pwCfg n 0).toNat
  | 0x4 => (tabGet s.pcie.pwMap n 0).toNat
  | 0x8 => (tabGet s.pcie.pwCfgAct n 0).toNat
  | 0xC => (tabGet s.pcie.pwMapAct n 0).toNat
  | _ => 0

def pcieReg (o : Nat) (s : State) : Nat :=
  let p := s.pcie
  if 0x100 ≤ o ∧ o < 0x180 then pwReg ((o - 0x100) / 0x10) (o % 0x10) s
  else match o with
    | 0x00 => pcieStatus s
    | 0x04 => b2n p.ltrCapped * 2 ^ 17 + b2n p.ltrAny * 2 ^ 16 + p.ltrSent
    | 0x08 => p.ltrCnt.toNat
    | 0x0C => ctoUs s
    | 0x10 => p.cplToCnt.toNat
    | 0x14 => p.lateCplCnt.toNat
    | 0x18 => p.badCplCnt.toNat
    | 0x1C => p.quarantine.length * 2 ^ 16 + p.tags.length
    | 0x20 => p.inbDrop.toNat
    | 0x24 => p.inbUr.toNat
    | 0x28 => p.poison.toNat
    | 0x2C => p.corr.toNat
    | 0x30 => p.linkDown.toNat
    | 0x34 => p.hostRid.toNat
    | 0x184 => b2n p.pwRefused * 2 ^ 9 + b2n (!p.pwCommits.isEmpty) * 2 ^ 8 + maskWhere pwEnable p.pwCfgAct.toList
    | _ => 0

/-! ## TRV (R231-R233) -/

/-- The live registers once the fabric has evaluated every vector that has ended. -/
def liveNow (s : State) : FabLive := (evalNow s).fab.live

/-- A sequencer as the TRV block shows it: after the last sample of the vector evaluated last, and as it stands while nothing
is evaluated (R231). -/
def seqShown (j : Nat) (s : State) : Seq := if s.fab.running then tabGet (liveNow s).seqs j (seqOf s j) else seqOf s j

def SeqMode.code : SeqMode → Nat
  | .unloaded => 0
  | .idle => 1
  | .pending => 2
  | .armed => 3
  | .done => 4

/-- NO_CLOCK (R218): a state-evaluated program whose pod is not ACTIVE or not in state mode. -/
def noClock (p : Program) (s : State) : Bool :=
  p.step == 1 && !((podAt s p.stepPod).state == .active && podStateMode s p.stepPod)

/-- TRV_STATUSj (R232). -/
def trvStatus (j : Nat) (s : State) : Nat :=
  let q := seqShown j s
  let prog := match tabGet s.cfg.active.progs j none with
    | some p => p.group * 2 ^ 24 + b2n (noClock p s) * 2 ^ 23 + b2n p.oneShot * 2 ^ 22
    | none => 0
  prog + b2n q.flag * 2 ^ 21 + b2n q.late * 2 ^ 20 + b2n q.dropped * 2 ^ 19 + q.lastBranch * 2 ^ 14 + q.state * 2 ^ 8 +
    q.mode.code

/-- TRV_SUMMARY (R233). -/
def trvSummary (s : State) : Nat :=
  let qs := ((List.range 4).map fun j => seqShown j s).take s.dev.variant.seqs
  maskWhere (fun p : Option Program => p.isSome) (s.cfg.active.progs.toList.take s.dev.variant.seqs) * 2 ^ 12 +
    maskWhere (fun q : Seq => q.mode == .done) qs * 2 ^ 8 + maskWhere (fun q : Seq => q.mode == .pending) qs * 2 ^ 4 +
    maskWhere (fun q : Seq => q.mode == .armed) qs

def trvWide (o : Nat) (s : State) : Option Nat :=
  if o < 0x80 ∧ o % 0x20 = 0x10 then
    some (if s.dev.variant.hasSeq (o / 0x20) then t0Reg (seqOf s (o / 0x20)).lastFire else 0)
  else none

def trvReg (o : Nat) (s : State) : Nat :=
  if o < 0x80 then
    if s.dev.variant.hasSeq (o / 0x20) then
      match o % 0x20 with
      | 0x00 => trvStatus (o / 0x20) s
      | 0x04 => (seqShown (o / 0x20) s).fireCnt.toNat
      | 0x08 => (seqShown (o / 0x20) s).stepCnt.toNat
      | 0x0C => (seqShown (o / 0x20) s).blockCnt.toNat
      | 0x18 => (seqShown (o / 0x20) s).lastInfo.toNat
      | _ => 0
    else 0
  else if o = 0x80 then trvSummary s
  else 0

/-! ## RING (R170-R173) -/

def ringWide (o : Nat) (s : State) : Option Nat :=
  match o with
  | 0x00 => some s.ring.W
  | 0x08 => some s.ring.X
  | 0x10 => some (ringH s)
  | 0x18 => some ((s.ring.wRow.getD 0) % 2 ^ 48)
  | 0x20 => some s.dev.variant.ringCap
  | 0x40 => some (min (2 ^ 64 - 1) s.ring.lostRows)
  | 0x58 => some s.ring.eccAddr.toNat
  | 0x68 => some (ringTag s).toNat
  | _ => none

/-- RING_MODE (R171). -/
def ringMode (s : State) : Nat :=
  b2n s.cfg.staged.hold * 2 ^ 9 + s.cfg.staged.level * 2 ^ 8 + b2n s.cfg.active.hold * 2 + s.cfg.active.level

/-- RING_WM_STATUS and TALUS_WM_STATUS (R172, R342): mark A or STORE, then mark B or WEAR. -/
def wmStatus (a b : Mark) : Nat := b2n b.seen * 2 ^ 9 + b2n a.seen * 2 ^ 8 + b2n b.now * 2 + b2n a.now

def ringReg (o : Nat) (s : State) : Nat :=
  match o with
  | 0x28 => s.ring.rate
  | 0x2C => ringMode s
  | 0x30 => wmStatus s.ring.markA s.ring.markB
  | 0x34 => s.ring.markB.count * 2 ^ 8 + s.ring.markA.count
  | 0x38 => s.ring.markB.level * 2 ^ 8 + s.ring.markA.level
  | 0x48 => s.ring.ovrCnt.toNat
  | 0x4C => s.ring.eccCe.toNat
  | 0x50 => s.ring.eccUe.toNat
  | 0x54 => s.ring.wdrop.toNat
  | 0x60 => s.ring.tagSel
  | _ => 0

/-! ## FAB (R205) -/

def fabWide (o : Nat) (s : State) : Option Nat :=
  if o < 0x100 then some (tabGet (liveNow s).cnt (o / 8) 0)
  else if o < 0x180 then some (tabGet (liveNow s).tmr ((o - 0x100) / 8) 0)
  else none

def fabReg (o : Nat) (s : State) : Nat :=
  if 0x200 ≤ o ∧ o < 0x240 then tabGet (liveNow s).qgCnt ((o - 0x200) / 4) 0
  else if 0x240 ≤ o ∧ o < 0x280 then tabGet (liveNow s).qgLast ((o - 0x240) / 4) 0
  else if 0x280 ≤ o ∧ o < 0x2A0 then tabGet (liveNow s).bus ((o - 0x280) / 4) 0
  else match o with
    | 0x180 => (liveNow s).terms
    | 0x184 => (liveNow s).qgLive
    | 0x188 => (liveNow s).status
    | _ => 0

/-! ## RET (R267, R268) -/

/-- RET_STATUS (R267, R268): the policy and the retained set of the epoch at the emission position; with no epoch there the
active policy alone. -/
def retStatus (s : State) : Nat :=
  let r := s.ret.emitRow
  match s.ret.cur with
  | none => s.cfg.active.retain.policy * 2 ^ 16
  | some e =>
    classSet r s * 2 ^ 20 + e.retain.policy * 2 ^ 16 +
      (if e.retain.policy = 0 then s.dev.variant.podMask else retainedSet r s)

def retWide (o : Nat) (s : State) : Option Nat :=
  match o with
  | 0x08 => some s.ret.seq
  | 0x10 => some (s.ret.emitRow % 2 ^ 48)
  | 0x18 => some ((if acquiring s then settleRow s else s.ret.settleRow) % 2 ^ 48)
  | 0x30 => some (min (2 ^ 64 - 1) s.ret.gapSamples)
  | _ => none

def retReg (o : Nat) (s : State) : Nat :=
  match o with
  | 0x00 => retStatus s
  | 0x04 => s.ret.epoch
  | 0x20 => s.ret.gapCnt.toNat
  | 0x24 => s.ret.cairnCnt.toNat
  | 0x28 => s.ret.lateCnt.toNat
  | 0x2C => s.ret.truncCnt.toNat
  | 0x38 => s.ret.logDrop.toNat
  | _ => 0

/-! ## TALUS (R341, R342) -/

def talWide (o : Nat) (s : State) : Option Nat :=
  match o with
  | 0x10 => some ((s.tal.fmt.map fun f => f.firstExt).getD 0)
  | 0x18 => some s.tal.nextExt
  | 0x20 => some (durableReg s)
  | 0x28 => some s.tal.archived
  | 0x40 => some (s.tal.torn.getD 0)
  | 0x48 => some s.tal.mapWrites
  | _ => none

/-- TALUS_STATUS (R342). -/
def talStatus (s : State) : Nat :=
  let t := s.tal
  maskWhere (fun d : Drive => d.state == 1) t.drives.toList * 2 ^ 16 +
    maskWhere (fun d : Drive => d.state == 2) t.drives.toList * 2 ^ 12 + b2n (directMode s) * 2 ^ 8 +
    b2n t.restartPending * 2 ^ 7 + b2n t.waitRate * 2 ^ 6 + b2n t.waitUnmapped * 2 ^ 5 + b2n t.waitFull * 2 ^ 4 +
    b2n t.waitLag * 8 + b2n t.reshape.isSome * 4 + b2n t.torn.isSome * 2 + b2n t.quietStart

/-- TALUS_DRVd (R342). -/
def drvReg (d : Nat) (s : State) : Nat :=
  let x := tabGet s.tal.drives d s.tal.drives[0]
  x.state * 2 ^ 30 + x.fails * 2 ^ 24 + x.cmds.length * 2 ^ 16 + x.lastStatus

/-- TALUS registers (R330). TALUS_REC_BAD_CNT counts and shows on every variant: the spec does not say that it belongs to the
direct drives, which the RNK-9128-B lacks (R10; DESIGN CHOICE, log 62). -/
def talReg (o : Nat) (s : State) : Nat :=
  match o with
  | 0x00 => geometryReg s
  | 0x04 => (s.tal.fmt.map fun f => f.id).getD 0
  | 0x08 => talStatus s
  | 0x0C => wmStatus s.tal.storeMark s.tal.wearMark
  | 0x30 => match s.tal.opened with
    | some x => 2 ^ 31 + x.bytes.length
    | none => 0
  | 0x34 => s.tal.wearMark.count * 2 ^ 8 + s.tal.storeMark.count
  | 0x38 => if s.tal.torn.isSome then 64 else 0
  | 0x50 => s.tal.overwriteCnt.toNat
  | 0x54 => s.tal.mapHoles.toNat
  | 0x58 => s.tal.mapCe.toNat
  | 0x5C => s.tal.mapUe.toNat
  | 0x60 => s.tal.recBad.toNat
  | 0x64 => s.tal.scrubPos
  | 0x80 => if s.dev.variant.drives then drvReg 0 s else 0
  | 0x84 => if s.dev.variant.drives then drvReg 1 s else 0
  | 0x88 => if s.dev.variant.drives then drvReg 2 s else 0
  | 0x8C => if s.dev.variant.drives then drvReg 3 s else 0
  | _ => 0

/-! ## SEAL (R364, R365) -/

def sealWide (o : Nat) (s : State) : Option Nat :=
  let x := s.sealer
  let v (n : Nat) : Nat := if s.dev.variant.sealer then n else 0
  match o with
  | 0x08 => some (v (x.lastNo.getD (2 ^ 64 - 1)))
  | 0x10 => some (v (x.lastExt % 2 ^ 48))
  | 0x18 => some (v (x.readyExt % 2 ^ 48))
  | _ => none

/-- SEAL_STATUS (R365). -/
def sealStatus (s : State) : Nat :=
  let x := s.sealer
  b2n x.attest.isSome * 32 + b2n (chainNow x &&& 0xC00 != 0) * 16 + b2n x.overdue * 8 + b2n x.signing.isSome * 4 +
    b2n (!(dueSeals s).isEmpty) * 2 + b2n x.enable

def sealReg (o : Nat) (s : State) : Nat :=
  let x := s.sealer
  let v (n : Nat) : Nat := if s.dev.variant.sealer then n else 0
  match o with
  | 0x00 => v (sealStatus s)
  | 0x04 => chainNow x * 2 ^ 16 + x.fenced
  | 0x20 => v x.cnt.toNat
  | 0x24 => v x.delayCnt.toNat
  | _ => 0

/-! ## RL (R437, R438) -/

/-- RL_STATUSp (R438). -/
def rlStatus (q : Port) : Nat :=
  q.peerAddr * 2 ^ 16 + b2n q.fwdRx * 2 ^ 11 + b2n q.fwdTx * 2 ^ 10 + b2n q.rfireAccept * 2 ^ 9 + b2n q.enable * 2 ^ 8 +
    b2n (q.samples.length == 16) * 2 ^ 5 + b2n q.good * 2 ^ 4 + q.state.code

def portReg (p o : Nat) (s : State) : Nat :=
  let q := portOf s p
  match o with
  | 0x00 => rlStatus q
  | 0x04 => q.lost.toNat
  | 0x08 => q.crcErr.toNat
  | 0x0C => reg32 q.delay
  | 0x18 => q.txCnt.toNat
  | 0x1C => q.rxCnt.toNat
  | 0x20 => q.missed % 2 ^ 16 * 2 ^ 16 + q.launch.length
  | _ => 0

def rlWide (o : Nat) (s : State) : Option Nat :=
  if o < 0xC0 ∧ o % 0x40 = 0x10 then
    some (if s.dev.variant.ridgeline then unsign 64 (portOf s (o / 0x40)).offset else 0)
  else none

def rlReg (o : Nat) (s : State) : Nat :=
  if !s.dev.variant.ridgeline then 0
  else if o < 0xC0 then portReg (o / 0x40) (o % 0x40) s
  else if o = 0xC0 then (rootStratum s).2 * 2 ^ 16 + s.rl.addr
  else 0

/-! ## SNAP (R556) -/

/-- SNAP_STATUS. -/
def snapStatus (s : State) : Nat :=
  b2n s.snap.timeBValid * 8 + b2n s.snap.overrun * 4 + b2n s.snap.busy * 2 + b2n s.snap.valid

def snapReg (o : Nat) (s : State) : Nat :=
  match o with
  | 0x00 => 0
  | 0x04 => s.snap.seq.toNat
  | 0x08 => snapStatus s
  | _ => leNat (memRead s.snap.page o 4)

/-! ## BAR0 as a whole (R532, R536) -/

/-- The value of the 64-bit register at an 8-aligned BAR0 offset, none where there is none. -/
def wideReg (off : Nat) (s : State) : Option Nat :=
  let o := off % 0x1000
  match off / 0x1000 with
  | 0x04 => fltWide o s
  | 0x05 => timeWide o s
  | 0x06 => schWide o s
  | 0x07 => expWide o s
  | 0x0C => trvWide o s
  | 0x0D => ringWide o s
  | 0x0E => fabWide o s
  | 0x0F => retWide o s
  | 0x10 => talWide o s
  | 0x11 => sealWide o s
  | 0x12 => rlWide o s
  | 0x21 => if o = 0 then some s.pcie.pba.toNat else none
  | _ => none

/-- The value of the 32-bit register at a 4-aligned BAR0 offset, 0 where there is none. -/
def narrowReg (off : Nat) (s : State) : Nat :=
  let o := off % 0x1000
  if 0x100000 ≤ off ∧ off < 0x400000 then (chanRead off s).toNat
  else match off / 0x1000 with
    | 0x00 => devReg o s
    | 0x01 => cfgReg o s
    | 0x02 => mbReg o s
    | 0x03 => evtReg o s
    | 0x04 => fltReg o s
    | 0x05 => timeReg o s
    | 0x06 => schReg o s
    | 0x07 => expReg o s
    | 0x08 => snapReg o s
    | 0x09 => pllReg o s
    | 0x0A => podcReg o s
    | 0x0B => pcieReg o s
    | 0x0C => trvReg o s
    | 0x0D => ringReg o s
    | 0x0E => fabReg o s
    | 0x0F => retReg o s
    | 0x10 => talReg o s
    | 0x11 => sealReg o s
    | 0x12 => rlReg o s
    | 0x20 => if o < 0x400 then (tabGet s.pcie.msixTable (o / 4) 0).toNat else 0
    | _ => 0

/-- The registers that read normally while READY is 0 after a SOFT reset (R545). -/
def keptBySoft (off : Nat) : Bool := decide (off / 4 * 4 ∈ [0x00, 0x04, 0x08, 0x10, 0x14, 0x1C])

/-- The 32 bits a 4-byte read at a BAR0 offset shows, the latches of R537 aside (R545). -/
def regRead (off : Nat) (s : State) : Word :=
  if s.dev.softPending ∧ !keptBySoft off then 0
  else BitVec.ofNat 32 (match wideReg (off / 8 * 8) s with
    | some v => v / 2 ^ (32 * (off / 4 % 2))
    | none => narrowReg (off / 4 * 4) s)

/-- A 4-byte read of a BAR0 register (R166, R536, R537): of a 64-bit register the low word loads the latch with the live high word,
and the high word returns the latch and empties it, or is live. -/
def readReg (off : Nat) (s : State) : State :=
  if off = 0xD06C then readRingTag false s
  else match wideReg (off / 8 * 8) s with
    | none => emitOut (.regData off ((regRead off s).zeroExtend 64)) s
    | some v =>
      if off % 8 = 0 then
        let hi : Word := BitVec.ofNat 32 (v / 2 ^ 32)
        let s := { s with tm := { s.tm with latches := (s.tm.latches.filter fun x => x.1 ≠ off) ++ [(off, hi)] } }
        emitOut (.regData off (BitVec.ofNat 64 (v % 2 ^ 32))) s
      else
        let r := highWord (off / 8 * 8) (BitVec.ofNat 64 v) s
        emitOut (.regData off (r.1.zeroExtend 64)) r.2

/-- REG64_LOW_READ (R481, R537, R545): a 4-byte read of a 64-bit register's low word. No row carries the other 4-byte reads of BAR0,
so this one does (DESIGN CHOICE, log 79). -/
def execReg64LowRead (off : Nat) (s : State) : Result :=
  .next (if off % 4 ≠ 0 then s
    else if s.dev.softPending ∧ keptBySoft off ∧ alive s ∧ !s.pcie.d3hot then readReg off s
    else barRead 0 off 4 (readReg off) s)

/-! ## The snapshot (R555, R556) -/

/-- The page offsets at which the mirror regions hold 32-bit registers, with the registers' BAR0 offsets. -/
def mirrors : List (Nat × Nat) :=
  ([0x24, 0x28].map fun o => (0x80 + o, 0x9000 + o)) ++
  ([0x34, 0x48, 0x4C, 0x50, 0x54].map fun o => (0x100 + o, 0xD000 + o)) ++
  ([0x28, 0x2C, 0x30, 0x34, 0x3C, 0x50, 0x54, 0x68].map fun o => (0x180 + o, 0x7000 + o)) ++
  ([0x20, 0x24, 0x28, 0x2C, 0x38].map fun o => (0x200 + o, 0xF000 + o)) ++
  ([0x34, 0x50, 0x54, 0x58, 0x5C, 0x60].map fun o => (0x240 + o, 0x10000 + o)) ++
  ([0x20, 0x24].map fun o => (0x2C0 + o, 0x11000 + o)) ++
  ([0x08, 0x10, 0x14, 0x18, 0x20, 0x24, 0x28, 0x2C, 0x30].map fun o => (0x300 + o, 0xB000 + o)) ++
  ((List.range 4).flatMap fun j => [0x04, 0x08, 0x0C].map fun o => (0x340 + 0x20 * j + o, 0xC000 + 0x20 * j + o)) ++
  ((List.range 5).map fun i => (0x3C0 + 4 * i, 0x4050 + 4 * i)) ++
  ((List.range 3).flatMap fun p =>
    [0x04, 0x08, 0x18, 0x1C, 0x20].map fun o => (0x400 + 0x40 * p + o, 0x12000 + 0x40 * p + o))

/-- The mirror regions' 64-bit registers. -/
def wideMirrors : List (Nat × Nat) :=
  [(0x140, 0xD040), (0x188, 0x7008), (0x190, 0x7010), (0x198, 0x7018), (0x1A0, 0x7020), (0x1C0, 0x7040), (0x1C8, 0x7048),
   (0x230, 0xF030), (0x288, 0x10048)]

/-- What TAKE copies (R555, R556): page offsets with their bytes. -/
def snapParts (s : State) : List (Nat × List Byte) :=
  [(0x10, timeBytes s.tm.a), (0x20, if s.tm.bValid then timeBytes s.tm.b else zeros 16),
   (0x30, leBytes 8 (countReg s.tm.enc[0].count) ++ leBytes 8 (countReg s.tm.enc[1].count) ++ leBytes 8 (mainsAxis s) ++
     leBytes 8 s.tm.ax5),
   (0x50, leBytes 4 (stepCnt s) ++ leBytes 4 s.tm.ppsCnt.toNat ++ leBytes 4 (encErrCnt s)),
   (0x60, leBytes 4 s.summit.heartbeat.toNat ++ leBytes 4 (protoCnt s))] ++
  (mirrors.map fun m => (m.1, leBytes 4 (narrowReg m.2 s))) ++
  (wideMirrors.map fun m => (m.1, leBytes 8 ((wideReg m.2 s).getD 0))) ++
  [(0x500, (liveNow s).cnt.toList.flatMap (leBytes 8)), (0x600, (liveNow s).tmr.toList.flatMap (leBytes 8)),
   (0x680, (liveNow s).qgCnt.toList.flatMap (leBytes 4)),
   (0x6C0, s.sch.slots.toList.flatMap fun q => leBytes 4 (schCount q)),
   (0x800, (List.range 272).flatMap fun n => leBytes 4 (if s.dev.variant.hasInput n then (inputAt s n).edgeCnt.toNat else 0)),
   (0xC40, (List.range 16).flatMap fun p => leBytes 4 (if s.dev.variant.hasPod p then (podAt s p).stateCnt.toNat else 0)),
   (0xC80, (List.range 16).flatMap fun p => leBytes 4 (if s.dev.variant.hasPod p then (podAt s p).clkDrop.toNat else 0))]

/-- The page with the copy of this edge. -/
def snapPage (s : State) : List Host.Cell := (snapParts s).foldl (fun m p => memWrite m p.1 p.2) []

/-- A write of SNAP_CTRL (R555). -/
def writeSnapCtrl (v : Word) (be : BitVec 4) (s : State) : State :=
  special 0x8000 v be (fun s =>
    if !v.getLsbD 0 then s
    else if s.snap.busy then { s with snap := { s.snap with overrun := true } }
    else { s with snap := { s.snap with busy := true, edge := some (s.tm.ax5 + 40) } }) s

/-- The copy at its edge, 16 ns after the write (R555). -/
def snapTick (s : State) : State :=
  match s.snap.edge with
  | some e =>
    if e ≤ s.tm.ax5 then
      { s with snap := { s.snap with edge := none, taking := snapPage s, takingB := s.tm.bValid } }
    else s
  | none => s

/-- SNAP_TAKE (R555). -/
def execSnapTake (v : Word) (be : BitVec 4) (s : State) : Result := .next (barWrite (fun _ => writeSnapCtrl v be) s)

/-- SNAP_COMPLETE (R555): the whole page holds the snapshot that has been taken. -/
def execSnapComplete (s : State) : Result :=
  .next (if s.snap.busy ∧ s.snap.edge = none then
      { s with snap := { s.snap with
          page := s.snap.taking, seq := s.snap.seq + 1, busy := false, valid := true, timeBValid := s.snap.takingB,
          taking := [], takingB := false } }
    else s)

end Sys2Proof.Machine
end

