-- ==== Sys2Proof/Machine/Tick.lean ====
section
/-! DEFINITION. What the passing of one timebase tick does by itself. -/

namespace Sys2Proof.Machine

/-- One timebase tick, none while the device is held in reset: the counters advance, accepted steps apply, arms written since
the last tick take effect, words are pushed and absorbed, firmware may kick its watchdog, credit is granted and queued Ridgeline
frames begin, build-outs are slewed, supplies are measured, clock edges judged, and a snapshot taken (R88, R110, R280, R346,
R367, R371, R388, R412, R432, R455, R521, R555). -/
def tick (s : State) : State :=
  if s.dev.perst || !s.dev.powered then s
  else
    let s := kickTick (sealTick (pushWords (slotTick (clockTick s))))
    snapTick (judgeAllClocks (measureSupplies (slewTick (txTick (grantAll s)))))

/-! ## Commands -/

/-- TIME_A_STEP_APPLY (R371): the tick at which an accepted step of time A is applied. -/
def execTimeAStepApply (s : State) : Result := .next (if s.tm.stepA.isSome then tick s else s)

/-- TIME_B_STEP_APPLY (R378): the tick at which an accepted step of time B is applied. -/
def execTimeBStepApply (s : State) : Result := .next (if s.tm.stepB.isSome then tick s else s)

end Sys2Proof.Machine
end

