-- ==== Sys2Proof/Machine/Control.lean ====
section
/-! DEFINITION. The CFG block with its scanner and the event controller's registers (R539-R541, R548-R554, R557-R560). -/

namespace Sys2Proof.Machine

/-! ## CFG_UNLOCK (R539) -/

/-- A write of CFG_UNLOCK; its TLP has consumed any unlock that was pending. -/
def writeUnlock (v : Word) (be : BitVec 4) (s : State) : State :=
  if !fullWidth be then refuseWidth 0x1000 v be s
  else if 0xC0DE0001 ≤ v.toNat ∧ v.toNat ≤ 0xC0DE0005 then { s with cfg := { s.cfg with unlock := v.toNat % 256 } }
  else raiseWith false 1 2 (zeros 4 ++ leBytes 4 v.toNat) s

/-- CFG_UNLOCK (R539). -/
def execCfgUnlock (v : Word) (be : BitVec 4) (s : State) : Result := .next (barWrite (fun _ => writeUnlock v be) s)

/-! ## CFG_CTRL (R549, R550, R552, R554) -/

/-- LATCH_REF (R549): the staged image holds the changes received before this write. -/
def latchRef (s : State) : State := { s with cfg := { s.cfg with crcRef := stagedCrc s } }

/-- CFG_CTRL.OPEN takes a value: a pass under way in its time is not compared (R550). -/
def setOpen (v : Bool) (s : State) : State := { s with cfg := { s.cfg with opened := v, unfit := s.cfg.unfit || v } }

/-- A write of CFG_CTRL: LATCH_REF acts first, and COMMIT clears OPEN whatever the write gives it (R552). -/
def writeCfgCtrl (v : Word) (be : BitVec 4) (s : State) : State :=
  special 0x1004 v be (fun s =>
    let s := if v.getLsbD 2 then latchRef s else s
    setOpen (v.getLsbD 0 && !v.getLsbD 1) s) s

/-- CFG_LATCH_REF (R549). -/
def execCfgLatchRef (v : Word) (be : BitVec 4) (s : State) : Result := .next (barWrite (fun _ => writeCfgCtrl v be) s)

/-- CFG_COMMIT (R552). -/
def execCfgCommit (v : Word) (be : BitVec 4) (s : State) : Result := .next (barWrite (fun _ => writeCfgCtrl v be) s)

/-- CFG_OPEN (R550). -/
def execCfgOpen (v : Word) (be : BitVec 4) (s : State) : Result := .next (barWrite (fun _ => writeCfgCtrl v be) s)

/-! ## The scanner (R550, R551) -/

/-- The sections of the active image as the operating logic holds them: upsets are bytes that differ from it. -/
def scannedSections (upset : List (Nat × Byte)) (base : Nat) : List (List Byte) → List (List Byte)
  | [] => []
  | b :: bs =>
    (upset.foldl (fun (l : List Byte) u =>
        if base ≤ u.1 ∧ u.1 < base + b.length then l.set (u.1 - base) (byteAt l (u.1 - base) ^^^ u.2) else l) b)
      :: scannedSections upset (base + b.length) bs

/-- The lowest section whose CRC differs from the reference set, 0xF for none (R551). -/
def differing (ref found : List Word) : Nat :=
  ((List.range 7).find? fun i => ref.getD i 0 != found.getD i 0).getD 0xF

/-- A pass that mismatches (R551). -/
def mismatch (sect : Nat) (s : State) : State :=
  let first := !s.cfg.mismatchSeen
  let run := s.cfg.mismatchRun + 1
  let s := { s with cfg := { s.cfg with
    mismatchNow := true, mismatchSeen := true, mismatchCnt := s.cfg.mismatchCnt + 1, section_ := sect, mismatchRun := run } }
  let s := if first then raise 1 3 s else s
  if run = 2 then signal 1 (BitVec.ofNat 32 sect) s else s

/-- CFG_SCAN_PASS (R548, R550, R551): a pass over the active image ends, having found these bytes upset, and the next begins.
Only a pass that met no suspension is compared. -/
def execCfgScanPass (upset : List (Nat × Byte)) (s : State) : Result :=
  let secs := scannedSections upset 0 (imageSections s.dev.variant s.cfg.active)
  let live : Word := BitVec.ofNat 32 (crc32c secs.flatten)
  let s := { s with cfg := { s.cfg with crcLive := live, passCnt := s.cfg.passCnt + 1 } }
  let skip := suspended s || s.cfg.unfit
  let s := { s with cfg := { s.cfg with unfit := suspended s } }
  .next (if skip then s
    else if live = s.cfg.crcChecked then { s with cfg := { s.cfg with mismatchNow := false, mismatchRun := 0 } }
    else mismatch (differing s.cfg.refSections (secs.map fun b => BitVec.ofNat 32 (crc32c b))) s)

/-! ## Events (R557-R560) -/

/-- A write of EVT_FORCEg (R560): the named events that exist are raised, marked as forced. -/
def writeEvtForce (g : Nat) (v : Word) (be : BitVec 4) (s : State) : State :=
  special (0x300C + 0x20 * g) v be (fun s => (bitsSet 32 v.toNat).foldl (fun s b => raiseWith true g b [] s) s) s

/-- EVT_FORCE (R560). -/
def execEvtForce (g : Fin 16) (v : Word) (be : BitVec 4) (s : State) : Result :=
  .next (barWrite (fun _ => writeEvtForce g.val v be) s)

/-- A write of EVT_RAWg or EVT_STATUSg (R558). -/
def writeEvtClear (off g : Nat) (v : Word) (be : BitVec 4) (s : State) : State :=
  special off v be (fun s => { s with evt := { s.evt with raw := tabMod s.evt.raw g fun w => w &&& ~~~v } }) s

/-- EVT_CLEAR (R558): the write is one of EVT_RAWg; EVT_STATUSg acts alike. -/
def execEvtClear (g : Fin 16) (v : Word) (be : BitVec 4) (s : State) : Result :=
  .next (barWrite (fun _ => writeEvtClear (0x3000 + 0x20 * g.val) g.val v be) s)

/-- EVT_ENABLEg takes a new value (R557, R559): a newly set bit whose RAW bit is 1 makes its vector pending. -/
def setEnable (g : Nat) (f : Word → Word) (s : State) : State :=
  let old := evtEnable g s
  let new := updBits (BitVec.ofNat 32 (presentEvents s.dev.variant g)) old f
  let s := { s with evt := { s.evt with enable := tabMod s.evt.enable g fun _ => new } }
  (bitsSet 32 (new &&& ~~~old &&& evtRaw g s).toNat).foldl (fun s b => pendVector g b s) s

/-- EVT_ENABLE_WRITE (R559). -/
def execEvtEnableWrite (g : Fin 16) (v : Word) (be : BitVec 4) (s : State) : Result :=
  .next (barWrite (fun _ => setEnable g.val (mergeInto v be)) s)

/-- EVT_VECg_w takes a new value (R557, R560). -/
def setVectors (g w : Nat) (f : Word → Word) (s : State) : State :=
  let new := f (BitVec.ofNat 32 (evtVec g w s))
  let put (t : Tab 512 (BitVec 6)) (i : Nat) : Tab 512 (BitVec 6) :=
    if hasEvent s.dev.variant g (4 * w + i) then
      tabMod t (32 * g + 4 * w + i) fun _ => BitVec.ofNat 6 (new.toNat >>> (8 * i))
    else t
  { s with evt := { s.evt with vector := (List.range 4).foldl put s.evt.vector } }

end Sys2Proof.Machine
end

