-- ==== Sys2Proof/Machine/Resets.lean ====
section
/-! DEFINITION. The resets: Function Level Reset, link down and Hot Reset, SOFT reset, PERST#, brownout, cold reset, and the
start-up that follows them (R483, R484, R545, R595-R599). -/

namespace Sys2Proof.Machine

/-! ## What FLR and SOFT reset share -/

/-- RAW, the enables and the vectors at the instant of an FLR or SOFT reset (R562); the log and its SEQ stay. -/
def resetEvents (s : State) : State := { s with evt := { Events.reset with log := s.evt.log, next := s.evt.next } }

/-- The channel windows' counters and the group area (R133). -/
def resetChan (s : State) : State :=
  { s with
    inputs := s.inputs.map fun i => { i with edgeCnt := 0, transit := 0, valid := false },
    pods := s.pods.map fun q => { q with stateCnt := 0, clkDrop := 0 },
    grpMask := Vector.replicate 72 0, bcastAgree := 0 }

/-- RING_TAG_SEL, CE_LIMIT, the marks' levels, the _SEEN bits and the _COUNT fields (R160, R167, R170). -/
def resetRingRegs (s : State) : State :=
  let now (lv : Nat) : Bool := decide (lv * s.dev.variant.ringCap / 256 ≤ s.ring.W - s.ring.X)
  { s with ring := { s.ring with
      tagSel := 0, ceLimit := 1000, markA := { Mark.reset 192 with now := now 192 },
      markB := { Mark.reset 240 with now := now 240 } } }

/-- The export queue rewinds and PAUSE is set; UNDERRUN and STALL_SEEN clear (R298). G9.7 comes with a PAUSE that was 0, in PULL
mode too (DESIGN CHOICE, log 69). -/
def resetExport (s : State) : State :=
  let first := !s.eq.paused
  let s := rewind { s with eq := { s.eq with paused := true, underrun := false, stallSeen := false } }
  if first then raise 9 7 s else s

/-- The _SEEN bits and the _COUNT fields of the store's marks (R341). -/
def resetTalRegs (s : State) : State :=
  { s with tal := { s.tal with storeMark := s.tal.storeMark.clear, wearMark := s.tal.wearMark.clear } }

/-- The slots, the queue and the flags of the scheduler (R398); launch queues and timed receptions (R424). -/
def resetTimed (s : State) : State :=
  { s with
    sch := Sch.reset,
    rl := { s.rl with ports := s.rl.ports.map fun q => { q with launch := [] }, timed := [] } }

/-- The RW fields of the PODC block (R92). -/
def resetPodc (s : State) : State :=
  { s with podc := { Podc.reset s.dev.variant.ports with
      pending := s.podc.pending, keyLive := s.podc.keyLive, stbyPress := s.podc.stbyPress } }

/-- The snapshot page and the latches of wide registers (R537, R556). -/
def resetViews (s : State) : State := { s with snap := Snap.reset, tm := { s.tm with heldLow := [], latches := [] } }

/-- Nothing follows the epoch that is draining (R32, R598): no new epoch opens, and intake for one stops. The causes accepted
before its boundary stand (R254). -/
def cancelNext (b : Boundary) (s : State) : State :=
  let s := if s.fab.running then stopFabric s.tm.ax5 s else s
  { s with
    ring := { s.ring with
      intake := false, staging := [], capHist := (b.row, 0) :: s.ring.capHist.filter (fun x => decide (x.1 < b.row)),
      episode := s.ring.episode.filter (fun e => decide (e.first < b.row)),
      overflow := s.ring.overflow.filter (fun e => decide (e.first < b.row)) },
    pods := s.pods.map endPod,
    ret := { s.ret with
      boundary := some { b with causes := b.causes ++ [lateReset] }, openCause := 0, nextFirst := none, intakeRow := none,
      heldStop := none, heldRow := none, heldEpoch := false } }

/-- The epoch ends with cause FLR (R32, R483 step 2, R598). -/
def endEpochByReset (s : State) : State :=
  match s.dev.acq with
  | .running => acceptCause 0 s
  | .draining =>
    match s.ret.boundary with
    | some b => idleOnceEmpty (cancelNext b s)
    | none => s
  | _ => s

/-- Sequencers disarm and stay UNLOADED, and TRIGOUT pulses end (R225, R230, R231). -/
def resetSeqs (s : State) : State :=
  let s := disarmAll (evalNow s)
  { s with
    seqs := Vector.replicate 4 Seq.reset, trigout := s.trigout.map fun t => { t with requests := [] },
    fab := { s.fab with live := { s.fab.live with seqs := Vector.replicate 4 Seq.reset } } }

/-- The active programs and the TRIGOUT configuration fall at once (R225, R230). -/
def clearPrograms (s : State) : State :=
  { s with cfg := { s.cfg with active := { s.cfg.active with
      tout := Vector.replicate 4 0, progs := Vector.replicate 4 none } } }

/-- The staged image falls at once, and so do the active programs and TRIGOUT settings; the rest of the active image at the
boundary while RUNNING, else at once (R202, R225, R230, R545, R553). -/
def resetImages (s : State) : State :=
  let s := clearPrograms (resetStaged s)
  if s.dev.acq = .running then s else resetFab (resetActive s)

/-- What FLR and SOFT reset do alike to the units behind the host's registers. -/
def resetHostSide (s : State) : State :=
  let s := resetSeqs (endEpochByReset (resetExport s))
  resetViews (resetPodc (resetTimed (resetTalRegs (resetRingRegs (resetChan (resetImages s))))))

/-! ## FLR (R483, R484) -/

/-- The rules of a mailbox command by its opcode (R530). -/
def cmdOf (m opcode : Nat) (s : State) : Option Cmd :=
  match opcode with
  | 0x0000 => some nopCmd
  | 0x0001 => some devInfoCmd
  | 0x0002 => some (selftestCmd m)
  | 0x0003 => some logReadCmd
  | 0x0101 => some (podInfoCmd none)
  | 0x0102 => some (podPowerCmd m)
  | 0x0201 => some calRunCmd
  | 0x0202 => some calStatusCmd
  | 0x0301 => some loadCmd
  | 0x0302 => some (armCmd m)
  | 0x0303 => some (disarmCmd m)
  | 0x0304 => some fabCmd
  | 0x0305 => some outCfgCmd
  | 0x0401 => some epochCommitCmd
  | 0x0402 => some acqStartCmd
  | 0x0403 => some acqStopCmd
  | 0x0404 => some retainSetCmd
  | 0x0405 => some markCmd
  | 0x0406 => some ringCfgCmd
  | 0x0407 => some expCfgCmd
  | 0x0501 => some talusFormatCmd
  | 0x0502 => some talusWindowCmd
  | 0x0503 => some talusDriveCmd
  | 0x0504 => some talusCfgCmd
  | 0x0505 => some talusMapReadCmd
  | 0x0601 => some timeSourceCmd
  | 0x0602 => some axisCmd
  | 0x0701 => some (discoverCmd m)
  | 0x0702 => some portCfgCmd
  | 0x0703 => some (tunnelCmd m)
  | 0x0704 => some timedCmd
  | 0x0801 => some (attestCmd m)
  | 0x0802 => some (identityCmd m)
  | 0x0803 => some sealCfgCmd
  | 0x0804 => some (sealNowCmd m)
  | 0x0901 => some (marchRunCmd m)
  | 0x0902 => some scrubCmd
  | 0x0903 => some faultInjectCmd
  | 0x0A01 => some (fwStageCmd m)
  | 0x0A02 => some (fwCommitCmd m)
  | 0x0A03 => some fwInfoCmd
  | 0x0B01 => some (pllCmd (mbOf s m).key)
  | _ => none

/-- Has the command of mailbox `m` already acted, so that only its end is still to come? -/
def underWay (m : Nat) (s : State) : Bool :=
  (mbOf s m).resp != [] || s.mem.tests.any (fun t => t.1 == m) || (match s.mem.march with
    | some c => c.mb == m
    | none => false) || s.sealer.fw == some m ||
    (match s.sealer.attest with
    | some a => a.mb == m
    | none => false) || s.sealer.due.any (fun d => d.forMb == some m) ||
    (match s.sealer.signing with
    | some j => j.mbs.contains m
    | none => false) || s.rl.tunnels.any (fun t => t.mb == m) ||
    (s.rl.run.toList ++ s.rl.older).any (fun r => r.mb == some m) || s.pods.toList.any (fun q => q.onFor.contains m) ||
    s.fab.orders.any (fun o => match o.2 with
      | .disarm _ b => b == some m
      | _ => false) ||
    s.cw.toList.any fun w => w.claimed && w.mb == m

/-- A running command completes inside the device; its result is discarded (R483 step 3, R526). -/
def completeInside (m : Nat) (s : State) : State :=
  let q := mbOf s m
  if q.state = .running ∧ !underWay m s then
    match cmdOf m q.opcode s with
    | some f => (f q.req s).1
    | none => s
  else s

/-- Has the whole of a firmware image that mailbox `m` stages arrived? -/
def imageArrived (m : Nat) (s : State) : Bool :=
  let q := mbOf s m
  q.opcode == 0x0A02 || decide (fieldAt q.req 4 4 ≤ (cwOf s (fieldAt q.req 0 1)).inn.length)

/-- An attestation goes on although its mailbox comes back empty (R364, R483). -/
def detachAttest (m : Nat) (a : AttestJob) : AttestJob := if a.mb = m then { a with detached := true } else a

/-- A discovery session goes on without its mailbox (R483 step 3). -/
def detachSession (m : Nat) (r : RlSession) : RlSession := if r.mb = some m then { r with mb := none } else r

/-- What goes on in the device although its mailbox comes back empty: a march, self-tests, an attestation, a discovery session, and the
programming of the flash once the image has arrived; every other long command ends (R364, R483 step 3). -/
def detach (m : Nat) (s : State) : State :=
  let mem := s.mem
  let fw := s.sealer.fw
  let s' := cancelLong m s
  { s' with
    mem := mem,
    sealer := { s'.sealer with
      fw := if fw = some m ∧ !imageArrived m s then none else fw, attest := s.sealer.attest.map (detachAttest m) },
    rl := { s'.rl with run := s.rl.run.map (detachSession m), older := s.rl.older.map (detachSession m) } }

/-- Mailboxes and windows come back empty, but for the log's positions (R520, R526) and what a detached FW_STAGE or
FW_COMMIT still needs. -/
def emptyMailboxes (s : State) : State :=
  { s with
    mb := Vector.ofFn fun m : Fin 8 =>
      { Mailbox.reset with req := if s.sealer.fw = some m.val then s.mb[m].req else [] },
    cw := Vector.ofFn fun k : Fin 8 =>
      let w := s.cw[k]
      if k.val = 7 then { Window.reset 7 with prod := w.prod, cons := w.cons }
      else { Window.reset k.val with inn := if s.sealer.fw = some w.mb ∧ s.sealer.fw.isSome then w.inn else [] } }

/-- Every mailbox under FLR (R483 step 3). -/
def flrMailboxes (s : State) : State :=
  let s := (List.range 8).foldl (fun s m => completeInside m s) s
  emptyMailboxes ((List.range 8).foldl (fun s m =>
    if (mbOf s m).state = .running then detach m s else s) s)

/-- Outstanding flush reads are abandoned, their tags quarantined (R474, R483 step 1). -/
def abandonReads (s : State) : State :=
  { s with pcie := { s.pcie with
      tags := [],
      quarantine := s.pcie.quarantine ++ s.pcie.tags.map fun t =>
        (t.1, t.2.1, s.tm.tick + 2 * usTicks s * ctoUs s, true) } }

/-- Configuration space in its reset state but for the AER registers, which are sticky (PRESUMED, log 78), the MSI-X table and PBA, and PCIE_HOST_RID (R483 step 3, R490). -/
def resetConfigSpace (s : State) : State :=
  let r := Pcie.reset
  { s with pcie := { s.pcie with
      bme := false, msixEn := false, funcMask := false, d3hot := false, ltrEn := false, aspmEn := false, inL1 := false,
      tag10 := false, ctoValue := 0, mps := 0, maxSnoop := 0, maxNoSnoop := 0, bars := Vector.replicate 3 0, ltrBase := none,
      msixTable := r.msixTable, pba := 0, hostRid := 0, flr := true } }

/-- FLR from its instant t_f to its end (R483), with the cause that DEV_RESET_CAUSE shows (R544). -/
def startFlr (cause : Nat) (s : State) : State :=
  let s := resetEvents { s with dev := { s.dev with ready := false, scratch := 0, resetCause := cause } }
  let s := resetHostSide (flrMailboxes (abandonReads s))
  resetConfigSpace { s with rl := { s.rl with inTunnel := [] } }

/-- FLR (R483), by a configuration write. -/
def execFlr (s : State) : Result := .next (if configServed s then startFlr 2 s else s)

/-- LINK_DOWN (R484): also while a Function Level Reset is under way, which starts again from its step 1. -/
def execLinkDown (s : State) : Result :=
  .next (if coreUp s ∧ s.pcie.dlUp then
      let s := startFlr 4 s
      let s := { s with pcie := { s.pcie with dlUp := false, gen := 0, width := 0, linkDown := s.pcie.linkDown + 1 } }
      raise 14 1 (signal 25 0 s)
    else s)

/-- HOT_RESET (R484). -/
def execHotReset (s : State) : Result := .next (if coreUp s ∧ s.pcie.dlUp then startFlr 5 s else s)

/-- Have all pairs of every bonded port been calibrated (R115)? -/
def portsCalibrated (s : State) : Bool :=
  (List.range 16).all fun p => !s.dev.variant.hasPod p || allCalibrated (calAt s p)

/-- Is start-up far enough for READY: recovery has run under the firmware, every pair is calibrated and the Keccak cores have run
their tests, or the boot ROM is in charge and sets it itself (R115, R347, R361, R599)? -/
def startedUp (s : State) : Bool := 
  (firmwareUp s && s.tal.recovered && portsCalibrated s && s.sealer.tested) || s.dev.bootrom

/-- FLR_DONE (R483 step 4). -/
def execFlrDone (s : State) : Result :=
  .next (if s.pcie.flr then
      raise 14 15 { s with
        pcie := { s.pcie with flr := false },
        dev := { s.dev with ready := startedUp s && !s.dev.softPending } }
    else s)

/-! ## SOFT reset (R545, R575, R577, R598) -/

/-- Every command is abandoned without completion (R526); an attestation goes on inside the device (R364). -/
def abandonCommands (s : State) : State :=
  let attest := s.sealer.attest.map fun a => { a with detached := true }
  let s := (List.range 8).foldl (fun s m => cancelLong m s) s
  { s with
    sealer := { s.sealer with attest := attest },
    mb := Vector.replicate 8 Mailbox.reset, cw := Vector.ofFn fun k : Fin 8 => Window.reset k.val,
    rl := { s.rl with inTunnel := [] } }

/-- The controller starts again from the boot ROM: its registers take their reset values but for RESTARTS (R526). -/
def rebootSummit (s : State) : State :=
  pauseDuties { s with
    dev := { s.dev with bootrom := false, fwFallback := false, fwSlot := 0 },
    summit := { s.summit with
      state := .boot, lastCause := false, heartbeat := 0, lastKick := s.tm.tick, protoMb := 0, protoCw := 0, recent := [], verified := false } }

/-- The collector's registers (R575); the collector runs on, and conditions live at this instant latch. -/
def resetCollector (s : State) : State :=
  let s := { s with flt := { Flt.reset s.dev.variant with
    on := s.flt.on, live := s.flt.live, faultInLow := s.flt.faultInLow,
    contained := s.flt.contained.map fun c => { c with sticky := false } } }
  let s := extLive s
  updateFaultN (if s.flt.on then latchLive s else s)

/-- The safe state ends with the reset (R575). -/
def endSafeByReset (s : State) : State := if s.dev.safe then raise 1 7 (endSafe s) else s

/-- The event log is cleared (R577), the scrub settings and CE_LIMIT take their reset values (R586), lane fences end (R277). -/
def resetSoftOnly (s : State) : State :=
  { s with
    evt := { s.evt with log := [], next := 0 },
    mem := { MemInt.resetAt s.tm.tick with corrupt := s.mem.corrupt, failed := s.mem.failed },
    cmp := { s.cmp with lanes := s.cmp.lanes.map fun l => { l with fails := 0, fenced := false } } }

/-- SOFT reset from its write to its end (R545, R598). -/
def startSoft (s : State) : State :=
  let s := resetEvents { s with dev := { s.dev with ready := false, scratch := 0, resetCause := 3, softPending := true } }
  let s := abandonCommands (resetSoftOnly s)
  resetCollector (rebootSummit (resetHostSide (endSafeByReset s)))

/-- A write of DEV_SOFT_RESET (R545). -/
def writeSoftReset (v : Word) (be : BitVec 4) (cls : Nat) (s : State) : State :=
  keyed 3 cls 0x000C v be (fun s => if v = 1 then startSoft s else refuseWrite 0x000C v be s) s

/-- DEV_SOFT_RESET (R545). -/
def execDevSoftReset (v : Word) (be : BitVec 4) (s : State) : Result :=
  .next (barWrite (fun cls => writeSoftReset v be cls) s)

/-- DEV_READY (R545, R599 step 8). -/
def execDevReady (s : State) : Result :=
  .next (if alive s ∧ !s.dev.ready ∧ startedUp s then
      { s with dev := { s.dev with ready := true, softPending := false } }
    else s)

/-! ## PERST#, brownout, cold reset (R595-R597) -/

/-- The bits of FLT_LIVE that stand for conditions of the board: F21, F22, F23 and F38. -/
def outsideLive : Word64 := 0x4000E00000

/-- The state after a reset of the whole device: what the reset table keeps across PERST# (R597), conditions of the board,
and the model's own records. -/
def afterReset (s : State) : State :=
  let r := State.resetOf s.dev.variant
  extLive { r with
    dev := { r.dev with
      dieTemp := s.dev.dieTemp, badRails := s.dev.badRails, vioOff := s.dev.vioOff, powered := s.dev.powered, standby := s.dev.standby,
      perst := s.dev.perst, resetCause := s.dev.resetCause },
    pods := Vector.ofFn fun p : Fin 16 => { Pod.reset with present := s.pods[p].present },
    podc := { r.podc with stbyPress := s.podc.stbyPress },
    tal := { r.tal with
      die := s.tal.die, mapWrites := s.tal.mapWrites, dieUe := s.tal.dieUe },
    summit := { r.summit with floor := s.summit.floor },
    flt := { r.flt with live := s.flt.live &&& outsideLive, faultInLow := s.flt.faultInLow },
    rl := { r.rl with restarts := s.rl.restarts },
    freeCtr := s.freeCtr, out := s.out, pending := s.pending }

/-- PERST_ASSERT (R597). -/
def execPerstAssert (s : State) : Result :=
  .next (if s.dev.perst then s
    else afterReset { s with dev := { s.dev with perst := true, resetCause := 1 } })

/-- PERST_RELEASE (R595, R599): start-up begins. -/
def execPerstRelease (s : State) : Result :=
  .next (if s.dev.perst then
      let s := afterReset { s with dev := { s.dev with perst := false } }
      { s with rl := { s.rl with restarts := (s.rl.restarts + 1) % 256 } }
    else s)

/-- POWER_ON (R595): 1 ms after every numbered rail has come into range. -/
def execPowerOn (s : State) : Result :=
  .next (if s.dev.powered then s
    else afterReset { s with dev := { s.dev with powered := true, standby := false } })

/-- CORE_BROWNOUT (R596): the device resets as for PERST# and stays without VDD_CORE. -/
def execCoreBrownout (s : State) : Result :=
  .next (if s.dev.powered then
      afterReset { s with dev := { s.dev with powered := false, standby := true, resetCause := 1 } }
    else s)

/-- COLD_RESET (R597): every rail is gone. VSTBY comes back first, and until POWER_ON only it is present (R85, R595; log 28). -/
def execColdReset (s : State) : Result :=
  let s := afterReset { s with dev := { s.dev with
    powered := false, standby := true, perst := true, resetCause := 0, dieTemp := 0, badRails := [],
    vioOff := 0 } }
  .next { s with
    podc := { s.podc with stbyPress := 0 }, pods := s.pods.map fun q => { q with present := false },
    flt := { s.flt with live := 0, faultInLow := false }, rl := { s.rl with restarts := 0 } }

end Sys2Proof.Machine
end

