-- ==== Sys2Proof/Machine/RegWrite.lean ====
section
/-! DEFINITION. A write TLP to BAR0 as the accesses it acts as, each by its register's access code, and the SET, CLEAR and
TOGGLE aliases (R532-R538, R540). -/

namespace Sys2Proof.Machine

/-! ## RW and RWS fields of 32-bit registers (R533, R538) -/

/-- One entry of a table of registers takes a new value in its writable bits. -/
def updTab {n : Nat} (t : Tab n Word) (i : Nat) (w : Word) (f : Word → Word) : Tab n Word := tabMod t i fun old => updBits w old f

/-- A number kept by a register takes a new value in the writable bits. -/
def updNat (old : Nat) (w : Word) (f : Word → Word) : Nat := (updBits w (BitVec.ofNat 32 old) f).toNat

/-- PPS_CFG takes a new value; an output whose source has gone is held inactive (R382, R400). -/
def setPpsCfg (f : Word → Word) (s : State) : State :=
  let n := updBits 0x03FF0233 s.tm.ppsCfg f
  let rises := n.getLsbD 0 && !s.tm.ppsCfg.getLsbD 0
  holdPps { s with tm := { s.tm with ppsCfg := n, ppsFrom := if rises then nowU s else s.tm.ppsFrom } }

/-- The PODC registers (R88-R91). -/
def rwPodc (o : Nat) (f : Word → Word) (s : State) : State :=
  let c := s.podc
  if 0x200 ≤ o ∧ o < 0x220 then { s with podc := { c with keyCfg := updTab c.keyCfg ((o - 0x200) / 4) 0xFF f } }
  else if 0x240 ≤ o ∧ o < 0x280 then { s with podc := { c with indCfg := updTab c.indCfg ((o - 0x240) / 4) 0xEFF f } }
  else match o with
    | 0x00 => { s with podc := { c with autopwr := updNat c.autopwr (BitVec.ofNat 32 s.dev.variant.podMask) f } }
    | 0x10 => { s with podc := { c with telemPeriod := updNat c.telemPeriod 0xFF f } }
    | 0x280 => { s with podc := { c with indSw := updNat c.indSw 0xFFFF f } }
    | _ => s

/-- The PCIE registers (R490-R493). -/
def rwPcie (o : Nat) (f : Word → Word) (s : State) : State :=
  let p := s.pcie
  if o = 0x34 then { s with pcie := { p with hostRid := updBits 0x1FFFF p.hostRid f } }
  else if 0x100 ≤ o ∧ o < 0x180 then
    match o % 0x10 with
    | 0x0 => { s with pcie := { p with pwCfg := updTab p.pwCfg ((o - 0x100) / 0x10) 0xB001FFFF f } }
    | 0x4 => { s with pcie := { p with pwMap := updTab p.pwMap ((o - 0x100) / 0x10) 0x007F003F f } }
    | _ => s
  else s

/-- The RW and RWS fields of the 32-bit register at a 4-aligned offset below 0x40_0000 take the value that `f` gives them;
a register without such a field is unchanged. CFG_CTRL.OPEN is one (R554). -/
def rwModify (off : Nat) (f : Word → Word) (s : State) : State :=
  let o := off % 0x1000
  if 0x100000 ≤ off then chanWrite off f s
  else match off / 0x1000 with
    | 0x00 => if o = 0x18 then { s with dev := { s.dev with scratch := f s.dev.scratch } } else s
    | 0x01 =>
      if o = 0x0C then { s with cfg := { s.cfg with crcRef := f s.cfg.crcRef } }
      else if o = 0x04 then setOpen ((f (BitVec.ofNat 32 (b2n s.cfg.opened))).getLsbD 0) s
      else s
    | 0x03 =>
      if o < 0x200 ∧ o % 0x20 = 0x08 then setEnable (o / 0x20) f s
      else if 0x400 ≤ o ∧ o < 0x600 then setVectors ((o - 0x400) / 0x20) (o % 0x20 / 4) f s
      else s
    | 0x05 => if o = 0x3C then setPpsCfg f s else s
    | 0x06 =>
      if o = 0x808 then
        let v := updNat s.sch.sf 0xFF f
        writeSfBits (v ^^^ s.sch.sf) v s
      else s
    | 0x0A => rwPodc o f s
    | 0x0B => rwPcie o f s
    | 0x0D => if o = 0x60 then { s with ring := { s.ring with tagSel := updNat s.ring.tagSel 0x3FFFFFFF f } } else s
    | _ => s

/-! ## Scheduler slots: RWL (R388, R402) -/

/-- A write of SCH_CFGn. -/
def writeSchCfg (n : Nat) (v : Word) (be : BitVec 4) (s : State) : State :=
  if (slotOf s n).armed then refuseWrite (0x6000 + 0x20 * n) v be s
  else modSlot n (fun q => { q with cfg := updBits 0x00FFCCF7 q.cfg (mergeInto v be) }) s

/-- A write of SCH_TARGETn. -/
def writeSchTarget (n : Nat) (v : Word64) (be : BitVec 8) (s : State) : State :=
  if (slotOf s n).armed then refuseWrite64 (0x6008 + 0x20 * n) v be s
  else write64 (0x6008 + 0x20 * n) false (slotOf s n).target v be (fun x => modSlot n fun q => { q with target := x }) s

/-- A write of SCH_PERIODn. -/
def writeSchPeriod (n : Nat) (v : Word64) (be : BitVec 8) (s : State) : State :=
  if (slotOf s n).armed then refuseWrite64 (0x6010 + 0x20 * n) v be s
  else write64 (0x6010 + 0x20 * n) false (slotOf s n).period v be (fun x => modSlot n fun q => { q with period := x }) s

/-! ## W1C registers (R533) -/

/-- A write of CFG_STATUS. -/
def clearCfgStatus (v : Word) (s : State) : State :=
  if v.getLsbD 2 then { s with cfg := { s.cfg with mismatchSeen := false } } else s

/-- A write of EQ_STATUS. -/
def clearEqStatus (v : Word) (s : State) : State :=
  { s with eq := { s.eq with
      stallSeen := s.eq.stallSeen && !v.getLsbD 3, underrun := s.eq.underrun && !v.getLsbD 2 } }

/-- A write of SCH_STATUSn. -/
def clearSchStatus (n : Nat) (v : Word) (s : State) : State :=
  modSlot n (fun q => { q with missed := q.missed && !v.getLsbD 3, late := q.late && !v.getLsbD 2 }) s

/-- A mark's sticky bit is cleared, and with it its count (R168, R335). -/
def clearMark (on : Bool) (m : Mark) : Mark := if on then m.clear else m

/-- A write of RING_WM_STATUS. -/
def clearRingMarks (v : Word) (s : State) : State :=
  { s with ring := { s.ring with
      markA := clearMark (v.getLsbD 8) s.ring.markA, markB := clearMark (v.getLsbD 9) s.ring.markB } }

/-- A write of TALUS_WM_STATUS. -/
def clearStoreMarks (v : Word) (s : State) : State :=
  { s with tal := { s.tal with
      storeMark := clearMark (v.getLsbD 8) s.tal.storeMark, wearMark := clearMark (v.getLsbD 9) s.tal.wearMark } }

/-- The bits of `m` that a write does not clear. -/
def clearBits (m v : Nat) : Nat := m &&& (m ^^^ v)

/-! ## One access (R536) -/

/-- A 4-byte write access to the mailbox block. -/
def writeMb (o : Nat) (v : Word) (be : BitVec 4) (cls : Nat) (s : State) : State :=
  if o < 0x100 then
    let s := if o % 0x20 ≤ 0x10 then latchKey (o / 0x20) cls s else s
    match o % 0x20 with
    | 0x00 => writeMbCmd (o / 0x20) v be s
    | 0x04 => writeDoorbell (o / 0x20) v be s
    | _ => s
  else if 0x200 ≤ o ∧ o < 0x300 then
    let k := (o - 0x200) / 0x20
    match o % 0x20 with
    | 0x00 => writeCwCfg k v be s
    | 0x08 => writeCwProd k v be s
    | 0x0C => writeCwCons k v be s
    | _ => s
  else s

/-- A 4-byte write access to the fault block. -/
def writeFlt (o : Nat) (v : Word) (be : BitVec 4) (cls : Nat) (s : State) : State :=
  match o with
  | 0x00 => writeFltStatus false v be s
  | 0x04 => writeFltStatus true v be s
  | 0x10 => writeFltCtrl v be cls s
  | 0x14 => writeSafeRelease v be cls s
  | 0x20 => writeFltSev 0 v be cls s
  | 0x24 => writeFltSev 1 v be cls s
  | 0x28 => writeFltSev 2 v be cls s
  | 0x2C => writeFltSev 3 v be cls s
  | 0x30 => special 0x4030 v be (fun s => { s with flt := { s.flt with overflow := s.flt.overflow && !v.getLsbD 8 } }) s
  | 0x34 => writeHistPop v be s
  | _ => s

/-- A 4-byte write access to the event block. -/
def writeEvt (o : Nat) (v : Word) (be : BitVec 4) (s : State) : State :=
  if o < 0x200 then
    match o % 0x20 with
    | 0x00 => writeEvtClear (0x3000 + o) (o / 0x20) v be s
    | 0x04 => writeEvtClear (0x3000 + o) (o / 0x20) v be s
    | 0x0C => writeEvtForce (o / 0x20) v be s
    | _ => rwModify (0x3000 + o) (mergeInto v be) s
  else rwModify (0x3000 + o) (mergeInto v be) s

/-- A 4-byte write access to the scheduler block. -/
def writeSch (o : Nat) (v : Word) (be : BitVec 4) (s : State) : State :=
  if o < 0x800 then
    match o % 0x20 with
    | 0x00 => writeSchCfg (o / 0x20) v be s
    | 0x04 => writeSchCtrl (o / 0x20) v be s
    | 0x18 => special (0x6000 + o) v be (clearSchStatus (o / 0x20) v) s
    | _ => s
  else if o = 0x808 then writeSf v be s
  else s

/-- A 4-byte write access to the PODC block. -/
def writePodc (o : Nat) (v : Word) (be : BitVec 4) (s : State) : State :=
  match o with
  | 0x04 => special 0xA004 v be (fun s =>
      { s with podc := { s.podc with pending := clearBits s.podc.pending (s.podc.pending &&& v.toNat) } }) s
  | 0x0C => special 0xA00C v be (fun s =>
      let p := s.podc.stbyPress
      { s with podc := { s.podc with stbyPress := clearBits p (p &&& bitsOf 15 8 v.toNat) } }) s
  | _ => rwPodc o (mergeInto v be) s

/-- A 4-byte access to a 32-bit register at a 4-aligned offset below 0x40_0000, the MSI-X table apart, with the class of the
unlock it consumed. A read-only register, a reserved offset and a unit that is absent ignore it (R10, R532, R533). -/
def writeReg (off : Nat) (v : Word) (be : BitVec 4) (cls : Nat) (s : State) : State :=
  let o := off % 0x1000
  if 0x100000 ≤ off then chanWrite off (mergeInto v be) s
  else match off / 0x1000 with
    | 0x00 => if o = 0x0C then writeSoftReset v be cls s else rwModify off (mergeInto v be) s
    | 0x01 =>
      match o with
      | 0x00 => writeUnlock v be s
      | 0x04 => writeCfgCtrl v be s
      | 0x18 => special off v be (clearCfgStatus v) s
      | _ => rwModify off (mergeInto v be) s
    | 0x02 => writeMb o v be cls s
    | 0x03 => writeEvt o v be s
    | 0x04 => writeFlt o v be cls s
    | 0x05 => if o = 0x18 then writeStepLimit v be cls s else rwModify off (mergeInto v be) s
    | 0x06 => writeSch o v be s
    | 0x07 =>
      match o with
      | 0x00 => special off v be (clearEqStatus v) s
      | 0x64 => writePullRelease v be s
      | _ => s
    | 0x08 =>
      match o with
      | 0x00 => writeSnapCtrl v be s
      | 0x08 => special off v be (fun s => { s with snap := { s.snap with overrun := s.snap.overrun && !v.getLsbD 2 } }) s
      | _ => s
    | 0x0A => writePodc o v be s
    | 0x0B => if o = 0x180 then writePwCommit v be s else rwModify off (mergeInto v be) s
    | 0x0D => if o = 0x30 then special off v be (clearRingMarks v) s else rwModify off (mergeInto v be) s
    | 0x10 =>
      match o with
      | 0x00 => writeGeometry v be s
      | 0x0C => special off v be (clearStoreMarks v) s
      | _ => s
    | _ => s

/-- An access to the 64-bit register at an 8-aligned offset (R537); a read-only one ignores it. -/
def writeWide (off : Nat) (v : Word64) (be : BitVec 8) (cls : Nat) (s : State) : State :=
  match off with
  | 0x5008 => writeIncrA v be s
  | 0x5010 => writeStepA v be cls s
  | 0x5028 => writeIncrB v be s
  | 0x5030 => writeStepB v be s
  | 0x7070 => writeDurableAck v be s
  | 0x10028 => writeArchived v be s
  | _ =>
    if 0x6000 ≤ off ∧ off < 0x6800 then
      match off % 0x20 with
      | 0x08 => writeSchTarget ((off - 0x6000) / 0x20) v be s
      | 0x10 => writeSchPeriod ((off - 0x6000) / 0x20) v be s
      | _ => s
    else s

/-- An aligned write to the MSI-X table (R468): the address low word keeps its two lowest bits 0, the vector control word
holds the mask bit. -/
def writeMsix (off : Nat) (v : Word) (s : State) : State :=
  let i := (off - 0x20000) / 4
  let w : Word := if i % 4 = 0 then v &&& 0xFFFFFFFC else if i % 4 = 3 then v &&& 1 else v
  { s with pcie := { s.pcie with msixTable := tabMod s.pcie.msixTable i fun _ => w } }

/-! ## Aliases (R538) -/

/-- What an alias write makes of a word. -/
def aliasOn (op : AliasOp) (m old : Word) : Word :=
  match op with
  | .set => old ||| m
  | .clear => old &&& ~~~m
  | .toggle => old ^^^ m

/-- Has the 32-bit register at an offset a W1C, ACT, KEY or W1P field (R533)? -/
def isSpecial (off : Nat) : Bool :=
  let o := off % 0x1000
  match off / 0x1000 with
  | 0x00 => o == 0x0C
  | 0x01 => o == 0x00 || o == 0x04 || o == 0x18
  | 0x02 => decide (o < 0x100) && o % 0x20 == 0x04
  | 0x03 => decide (o < 0x200) && (o % 0x20 == 0x00 || o % 0x20 == 0x04 || o % 0x20 == 0x0C)
  | 0x04 => o == 0x00 || o == 0x04 || o == 0x10 || o == 0x14 || (decide (0x20 ≤ o) && decide (o < 0x38))
  | 0x05 => o == 0x18
  | 0x06 => decide (o < 0x800) && (o % 0x20 == 0x04 || o % 0x20 == 0x18)
  | 0x07 => o == 0x00 || o == 0x64
  | 0x08 => o == 0x00 || o == 0x08
  | 0x0A => o == 0x04 || o == 0x0C
  | 0x0B => o == 0x180
  | 0x0D => o == 0x30
  | 0x10 => o == 0x00 || o == 0x0C
  | _ => false

/-- What an alias write makes of a 64-bit register. -/
def aliasOn64 (op : AliasOp) (m old : Word64) : Word64 :=
  match op with
  | .set => old ||| m
  | .clear => old &&& ~~~m
  | .toggle => old ^^^ m

/-- Is the 64-bit register at an offset an ACT register (R533)? -/
def isWideAct (base : Nat) : Bool := base == 0x5010 || base == 0x5030 || base == 0x7070

/-- An 8-byte alias write to a 64-bit register (R538): one read-modify-write of the value in force. -/
def aliasWhole (op : AliasOp) (base : Nat) (m : Word64) (s : State) : State :=
  if base = 0x5008 ∨ base = 0x5028 ∨ base = 0x10028 then
    writeWide base (aliasOn64 op m (BitVec.ofNat 64 ((wideReg base s).getD 0))) 0xFF 0 s
  else s

/-- An alias write to one half of a 64-bit register (R536-R538): a special register ignores it, for it counts as narrow. -/
def aliasWide (op : AliasOp) (off : Nat) (v : Word) (be : BitVec 4) (s : State) : State :=
  let m := v &&& beMask be
  let base := off / 8 * 8
  let live : Word64 := BitVec.ofNat 64 ((wideReg base s).getD 0)
  if base = 0x5008 ∨ base = 0x5028 ∨ base = 0x10028 then
    if off % 8 = 0 then
      writeWide base ((aliasOn op m (heldLowOf base (live.truncate 32) s)).zeroExtend 64) 0x0F 0 s
    else
      writeWide base ((aliasOn op m (live.extractLsb' 32 32)).zeroExtend 64 <<< 32) 0xF0 0 s
  else if isWideAct base then refuseWidth off v be s
  else s

/-- A 4-byte alias access to the register at a 4-aligned offset `off` (R538). The table and PBA have no aliases (R468). -/
def aliasAccess (op : AliasOp) (off : Nat) (v : Word) (be : BitVec 4) (s : State) : State :=
  if 0x20000 ≤ off ∧ off < 0x22000 then s
  else if (wideReg (off / 8 * 8) s).isSome then aliasWide op off v be s
  else if isSpecial off ∧ !fullWidth be then refuseWidth off v be s
  else rwModify off (aliasOn op (v &&& beMask be)) s

/-! ## A whole TLP (R536, R540) -/

/-- Byte `a` of a TLP that starts at `off`: none when it is outside or not enabled. -/
def tlpByte (off : Nat) (bytes : List (Option Byte)) (a : Nat) : Option Byte :=
  if a < off then none else (bytes.getD (a - off) none)

/-- `n` bytes of a TLP from an offset as a number and its byte enables. -/
def tlpField (off : Nat) (bytes : List (Option Byte)) (a n : Nat) : Nat × Nat :=
  let l := (List.range n).map fun i => tlpByte off bytes (a + i)
  (leNat (l.map fun b => b.getD 0), maskWhere (fun b : Option Byte => b.isSome) l)

/-- One access of a TLP at a 4-aligned offset. A 64-bit register that lies wholly inside it is one 8-byte access, made at its
low word. -/
def tlpAccess (off : Nat) (bytes : List (Option Byte)) (a : Nat) (cls : Nat) (s : State) : State :=
  let x := tlpField off bytes a 4
  let v : Word := BitVec.ofNat 32 x.1
  let be : BitVec 4 := BitVec.ofNat 4 x.2
  let base := a / 8 * 8
  let t := a % 0x400000
  if 0x400000 ≤ a then
    let op : AliasOp := if a < 0x800000 then .set else if a < 0xC00000 then .clear else .toggle
    if (wideReg (t / 8 * 8) s).isSome ∧ off ≤ base ∧ base + 8 ≤ off + bytes.length then
      let y := tlpField off bytes base 8
      if a = base ∧ y.2 = 0xFF then aliasWhole op (t / 8 * 8) (BitVec.ofNat 64 y.1) s
      else if x.2 = 0 ∨ y.2 = 0xFF then s
      else aliasAccess op t v be s
    else if x.2 = 0 then s
    else aliasAccess op t v be s
  else if 0x20000 ≤ a ∧ a < 0x20400 then
    if off % 4 = 0 ∧ (bytes.length = 4 ∨ bytes.length = 8 ∧ off % 8 = 0) ∧ x.2 = 0xF then writeMsix a v s else s
  else if (wideReg base s).isSome then
    if off ≤ base ∧ base + 8 ≤ off + bytes.length then
      let y := tlpField off bytes base 8
      if a = base ∧ y.2 ≠ 0 then writeWide base (BitVec.ofNat 64 y.1) (BitVec.ofNat 8 y.2) cls s else s
    else if x.2 = 0 then s
    else
      let sh := 8 * (a - base)
      writeWide base (BitVec.ofNat 64 (x.1 * 2 ^ sh)) (BitVec.ofNat 8 (x.2 * 2 ^ (a - base))) cls s
  else if x.2 = 0 then s
  else writeReg a v be cls s

/-- The accesses of a TLP in ascending order; the first carries the class of the unlock. -/
def tlpAccesses (off : Nat) (bytes : List (Option Byte)) (cls : Nat) (s : State) : State :=
  let lo := off / 4
  let n := (off + bytes.length + 3) / 4 - lo
  (List.range n).foldl (fun s i => tlpAccess off bytes (4 * (lo + i)) (if i = 0 then cls else 0) s) s

/-- BAR0_WRITE (R533, R536): a write TLP of these bytes, disabled ones `none`, at a BAR0 offset. -/
def execBar0Write (off : Nat) (bytes : List (Option Byte)) (s : State) : Result :=
  if 0x1000000 < off + bytes.length then .fault (.outsideBar 0 off)
  else .next (barWrite (fun cls s => tlpAccesses off bytes cls s) s)

/-- REG_ALIAS_WRITE (R538): a 4-byte write to the alias of the register at `off`. -/
def execRegAliasWrite (op : AliasOp) (off : Nat) (v : Word) (be : BitVec 4) (s : State) : Result :=
  if 0x400000 ≤ off then .fault (.outsideBar 0 off)
  else .next (barWrite (fun _ => aliasAccess op (off / 4 * 4) v be) s)

end Sys2Proof.Machine
end

