-- ==== Sys2Proof/Machine/Dispatch.lean ====
section
/-! DEFINITION. The dispatch: one arm per command, each one direct call of its meaning. -/

namespace Sys2Proof.Machine

/-- The effect of a command on everything but the queue. -/
def exec (i : Instr) (s : State) : Host.Outcome State Fault Refusal :=
  match i with
  | .devInfo m => Sys2Proof.Machine.execDevInfo m s
  | .acqStart m => Sys2Proof.Machine.execAcqStart m s
  | .epochCommit m => Sys2Proof.Machine.execEpochCommit m s
  | .acqStop m => Sys2Proof.Machine.execAcqStop m s
  | .epochBoundary => Sys2Proof.Machine.execEpochBoundary s
  | .intakeResume row => Sys2Proof.Machine.execIntakeResume row s
  | .epochCloseEmit => Sys2Proof.Machine.execEpochCloseEmit s
  | .epochOpenEmit => Sys2Proof.Machine.execEpochOpenEmit s
  | .rowEncode => Sys2Proof.Machine.execRowEncode s
  | .ringRowWrite => Sys2Proof.Machine.execRingRowWrite s
  | .ringRateEval => Sys2Proof.Machine.execRingRateEval s
  | .retRowRead errs => Sys2Proof.Machine.execRetRowRead errs s
  | .ringScrubRead line err => Sys2Proof.Machine.execRingScrubRead line err s
  | .ringCeInterval => Sys2Proof.Machine.execRingCeInterval s
  | .bar2Read off len errs => Sys2Proof.Machine.execBar2Read off len errs s
  | .bar2Write off data => Sys2Proof.Machine.execBar2Write off data s
  | .ringTagRead wide => Sys2Proof.Machine.execRingTagRead wide s
  | .ringCfg m => Sys2Proof.Machine.execRingCfg m s
  | .podPresenceLow p => Sys2Proof.Machine.execPodPresenceLow p s
  | .podDebounceDone p low => Sys2Proof.Machine.execPodDebounceDone p low s
  | .descriptorReadDone p desc => Sys2Proof.Machine.execDescriptorReadDone p desc s
  | .descriptorReadError p => Sys2Proof.Machine.execDescriptorReadError p s
  | .podPowerGoodCheck p mv ma => Sys2Proof.Machine.execPodPowerGoodCheck p mv ma s
  | .podJoin p => Sys2Proof.Machine.execPodJoin p s
  | .podRemoval p => Sys2Proof.Machine.execPodRemoval p s
  | .podSupplyFault p => Sys2Proof.Machine.execPodSupplyFault p s
  | .podOvervolt p => Sys2Proof.Machine.execPodOvervolt p s
  | .podPower m => Sys2Proof.Machine.execPodPower m s
  | .podInfo m reread => Sys2Proof.Machine.execPodInfo m reread s
  | .telemPeriod => Sys2Proof.Machine.execTelemPeriod s
  | .telemReadDone p temp => Sys2Proof.Machine.execTelemReadDone p temp s
  | .keyPress k => Sys2Proof.Machine.execKeyPress k s
  | .keyRelease k => Sys2Proof.Machine.execKeyRelease k s
  | .comparatorEvent n upper out grid => Sys2Proof.Machine.execComparatorEvent n upper out grid s
  | .calRotationStart p => Sys2Proof.Machine.execCalRotationStart p s
  | .calSwapStart p => Sys2Proof.Machine.execCalSwapStart p s
  | .calShadowDone p passes => Sys2Proof.Machine.execCalShadowDone p passes s
  | .calSwap p => Sys2Proof.Machine.execCalSwap p s
  | .calSwapAbort p => Sys2Proof.Machine.execCalSwapAbort p s
  | .calPairDone p pair ok trimU trimL => Sys2Proof.Machine.execCalPairDone p pair ok trimU trimL s
  | .calRun m => Sys2Proof.Machine.execCalRun m s
  | .calStatus m => Sys2Proof.Machine.execCalStatus m s
  | .chAliasWrite off v be => Sys2Proof.Machine.execChAliasWrite off v be s
  | .chAliasRead off => Sys2Proof.Machine.execChAliasRead off s
  | .trvStep j sample => Sys2Proof.Machine.execTrvStep j sample s
  | .qualTimeout n => Sys2Proof.Machine.execQualTimeout n s
  | .fabTimerExpire t => Sys2Proof.Machine.execFabTimerExpire t s
  | .counterAtLimit c => Sys2Proof.Machine.execCounterAtLimit c s
  | .triginHigh x sample => Sys2Proof.Machine.execTriginHigh x sample s
  | .fabCfg m => Sys2Proof.Machine.execFabCfg m s
  | .trvLoad m => Sys2Proof.Machine.execTrvLoad m s
  | .trvArm m => Sys2Proof.Machine.execTrvArm m s
  | .trvDisarm m => Sys2Proof.Machine.execTrvDisarm m s
  | .trvOutCfg m => Sys2Proof.Machine.execTrvOutCfg m s
  | .trvArmTarget j => Sys2Proof.Machine.execTrvArmTarget j s
  | .trigoutPulseEnd x => Sys2Proof.Machine.execTrigoutPulseEnd x s
  | .retRowEmit => Sys2Proof.Machine.execRetRowEmit s
  | .logFrameDue => Sys2Proof.Machine.execLogFrameDue s
  | .retainSet m => Sys2Proof.Machine.execRetainSet m s
  | .mark m => Sys2Proof.Machine.execMark m s
  | .compressFrameIn => Sys2Proof.Machine.execCompressFrameIn s
  | .blockFlushTimeout => Sys2Proof.Machine.execBlockFlushTimeout s
  | .laneBlockDone lane packed => Sys2Proof.Machine.execLaneBlockDone lane packed s
  | .packetOpen => Sys2Proof.Machine.execPacketOpen s
  | .packetClose => Sys2Proof.Machine.execPacketClose s
  | .eqBankSwap => Sys2Proof.Machine.execEqBankSwap s
  | .exportChunkClose => Sys2Proof.Machine.execExportChunkClose s
  | .flushReadCpl tag ok poisoned => Sys2Proof.Machine.execFlushReadCpl tag ok poisoned s
  | .flushReadTimeout tag => Sys2Proof.Machine.execFlushReadTimeout tag s
  | .cplUnexpected tag => Sys2Proof.Machine.execCplUnexpected tag s
  | .tagQuarantineEnd tag => Sys2Proof.Machine.execTagQuarantineEnd tag s
  | .eqPointerMismatch => Sys2Proof.Machine.execEqPointerMismatch s
  | .eqResetDone => Sys2Proof.Machine.execEqResetDone s
  | .expCfg m => Sys2Proof.Machine.execExpCfg m s
  | .pullWindowRead off len => Sys2Proof.Machine.execPullWindowRead off len s
  | .pullWindowWrite off data => Sys2Proof.Machine.execPullWindowWrite off data s
  | .expPullRelease v be => Sys2Proof.Machine.execExpPullRelease v be s
  | .expDurableAck v be => Sys2Proof.Machine.execExpDurableAck v be s
  | .padInsert => Sys2Proof.Machine.execPadInsert s
  | .extentOpen => Sys2Proof.Machine.execExtentOpen s
  | .extCloseDeadline => Sys2Proof.Machine.execExtCloseDeadline s
  | .mapSlotWrite ok => Sys2Proof.Machine.execMapSlotWrite ok s
  | .quietRecordWrite => Sys2Proof.Machine.execQuietRecordWrite s
  | .talusRecovery ue => Sys2Proof.Machine.execTalusRecovery ue s
  | .talusFormat m => Sys2Proof.Machine.execTalusFormat m s
  | .talusWindowSet m => Sys2Proof.Machine.execTalusWindowSet m s
  | .talusDriveAttach m => Sys2Proof.Machine.execTalusDriveAttach m s
  | .talusCfg m => Sys2Proof.Machine.execTalusCfg m s
  | .talusMapRead m => Sys2Proof.Machine.execTalusMapRead m s
  | .nvmeCqEntry d entry => Sys2Proof.Machine.execNvmeCqEntry d entry s
  | .nvmeCmdTimeout d => Sys2Proof.Machine.execNvmeCmdTimeout d s
  | .talusArchivedWrite v be => Sys2Proof.Machine.execTalusArchivedWrite v be s
  | .talusGeometryLock v be => Sys2Proof.Machine.execTalusGeometryLock v be s
  | .recWindowRead off len => Sys2Proof.Machine.execRecWindowRead off len s
  | .recWindowWrite off data => Sys2Proof.Machine.execRecWindowWrite off data s
  | .mapScrubRead err => Sys2Proof.Machine.execMapScrubRead err s
  | .sealDue => Sys2Proof.Machine.execSealDue s
  | .sealStart => Sys2Proof.Machine.execSealStart s
  | .sealSignDone => Sys2Proof.Machine.execSealSignDone s
  | .sealDeadline => Sys2Proof.Machine.execSealDeadline s
  | .sealIndexWrite ok => Sys2Proof.Machine.execSealIndexWrite ok s
  | .keccakSelftest fail => Sys2Proof.Machine.execKeccakSelftest fail s
  | .sealCfg m => Sys2Proof.Machine.execSealCfg m s
  | .sealNow m => Sys2Proof.Machine.execSealNow m s
  | .identityGet m => Sys2Proof.Machine.execIdentityGet m s
  | .attest m => Sys2Proof.Machine.execAttest m s
  | .attestDone m => Sys2Proof.Machine.execAttestDone m s
  | .fwBootVerify a b => Sys2Proof.Machine.execFwBootVerify a b s
  | .timeAIncr v be => Sys2Proof.Machine.execTimeAIncr v be s
  | .timeAStep v be => Sys2Proof.Machine.execTimeAStep v be s
  | .timeAStepApply => Sys2Proof.Machine.execTimeAStepApply s
  | .timeAStepLimit v be => Sys2Proof.Machine.execTimeAStepLimit v be s
  | .timeIntegrity copy1 => Sys2Proof.Machine.execTimeIntegrity copy1 s
  | .timeBIncr v be => Sys2Proof.Machine.execTimeBIncr v be s
  | .timeBStep v be => Sys2Proof.Machine.execTimeBStep v be s
  | .timeBStepApply => Sys2Proof.Machine.execTimeBStepApply s
  | .timeSourceSet m => Sys2Proof.Machine.execTimeSourceSet m s
  | .timeBSourceSwitch => Sys2Proof.Machine.execTimeBSourceSwitch s
  | .timeBRevert => Sys2Proof.Machine.execTimeBRevert s
  | .ppsInEdge e => Sys2Proof.Machine.execPpsInEdge e s
  | .ppsInMissing => Sys2Proof.Machine.execPpsInMissing s
  | .ppsOutStart => Sys2Proof.Machine.execPpsOutStart s
  | .ppsOutEnd => Sys2Proof.Machine.execPpsOutEnd s
  | .encInputChange e a b z => Sys2Proof.Machine.execEncInputChange e a b z s
  | .mainsZcEdge rising => Sys2Proof.Machine.execMainsZcEdge rising s
  | .mainsLost => Sys2Proof.Machine.execMainsLost s
  | .axisCfg m => Sys2Proof.Machine.execAxisCfg m s
  | .schArm n => Sys2Proof.Machine.execSchArm n s
  | .schDisarm n => Sys2Proof.Machine.execSchDisarm n s
  | .schSlotReached n => Sys2Proof.Machine.execSchSlotReached n s
  | .schActionExecute => Sys2Proof.Machine.execSchActionExecute s
  | .schSf v be => Sys2Proof.Machine.execSchSf v be s
  | .rlPortUp p serial restarts => Sys2Proof.Machine.execRlPortUp p serial restarts s
  | .rlPortDown p => Sys2Proof.Machine.execRlPortDown p s
  | .rlTrainTimeout p => Sys2Proof.Machine.execRlTrainTimeout p s
  | .faultIdleRx p => Sys2Proof.Machine.execFaultIdleRx p s
  | .rlFrameBad r => Sys2Proof.Machine.execRlFrameBad r s
  | .timeFrameRx p f => Sys2Proof.Machine.execTimeFrameRx p f s
  | .timeFrameTx p => Sys2Proof.Machine.execTimeFrameTx p s
  | .rlTimeLoss p => Sys2Proof.Machine.execRlTimeLoss p s
  | .delayReqTx p => Sys2Proof.Machine.execDelayReqTx p s
  | .delayReqRx p f => Sys2Proof.Machine.execDelayReqRx p f s
  | .delayRespRx p f => Sys2Proof.Machine.execDelayRespRx p f s
  | .creditAckRx p f => Sys2Proof.Machine.execCreditAckRx p f s
  | .fireFrameRx p f => Sys2Proof.Machine.execFireFrameRx p f s
  | .armFrameRx p f => Sys2Proof.Machine.execArmFrameRx p f s
  | .disarmFrameRx p f => Sys2Proof.Machine.execDisarmFrameRx p f s
  | .timedFrameRx p f => Sys2Proof.Machine.execTimedFrameRx p f s
  | .rlTimedLaunch p => Sys2Proof.Machine.execRlTimedLaunch p s
  | .rlTimedApply n => Sys2Proof.Machine.execRlTimedApply n s
  | .tunnelReqRx p f => Sys2Proof.Machine.execTunnelReqRx p f s
  | .tunnelRespRx p f => Sys2Proof.Machine.execTunnelRespRx p f s
  | .rlTunnelTimeout m => Sys2Proof.Machine.execRlTunnelTimeout m s
  | .recordFrameRx p f => Sys2Proof.Machine.execRecordFrameRx p f s
  | .discoverRx p f => Sys2Proof.Machine.execDiscoverRx p f s
  | .discoverReplyRx p f => Sys2Proof.Machine.execDiscoverReplyRx p f s
  | .assignRx p f => Sys2Proof.Machine.execAssignRx p f s
  | .rlDiscoverAssign => Sys2Proof.Machine.execRlDiscoverAssign s
  | .rlOriginExpire n => Sys2Proof.Machine.execRlOriginExpire n s
  | .rlDiscover m => Sys2Proof.Machine.execRlDiscover m s
  | .rlPortCfg m => Sys2Proof.Machine.execRlPortCfg m s
  | .rlTunnel m => Sys2Proof.Machine.execRlTunnel m s
  | .rlTimed m => Sys2Proof.Machine.execRlTimed m s
  | .pllsLocked phErr => Sys2Proof.Machine.execPllsLocked phErr s
  | .pllsUnlocked phErr => Sys2Proof.Machine.execPllsUnlocked phErr s
  | .plllLocked => Sys2Proof.Machine.execPlllLocked s
  | .plllUnlocked => Sys2Proof.Machine.execPlllUnlocked s
  | .dcoRange r => Sys2Proof.Machine.execDcoRange r s
  | .dcoFail => Sys2Proof.Machine.execDcoFail s
  | .refLost src missing avgPpb => Sys2Proof.Machine.execRefLost src missing avgPpb s
  | .refGood src => Sys2Proof.Machine.execRefGood src s
  | .refQualified dS dL => Sys2Proof.Machine.execRefQualified dS dL s
  | .refPhaseHit dS dL => Sys2Proof.Machine.execRefPhaseHit dS dL s
  | .realignDone => Sys2Proof.Machine.execRealignDone s
  | .pllCfg m => Sys2Proof.Machine.execPllCfg m s
  | .bar0Write off bytes => Sys2Proof.Machine.execBar0Write off bytes s
  | .regAliasWrite op off v be => Sys2Proof.Machine.execRegAliasWrite op off v be s
  | .reg64LowRead off => Sys2Proof.Machine.execReg64LowRead off s
  | .cfgUnlock v be => Sys2Proof.Machine.execCfgUnlock v be s
  | .cfgLatchRef v be => Sys2Proof.Machine.execCfgLatchRef v be s
  | .cfgCommit v be => Sys2Proof.Machine.execCfgCommit v be s
  | .cfgOpen v be => Sys2Proof.Machine.execCfgOpen v be s
  | .cfgScanPass upset => Sys2Proof.Machine.execCfgScanPass upset s
  | .devSoftReset v be => Sys2Proof.Machine.execDevSoftReset v be s
  | .devReady => Sys2Proof.Machine.execDevReady s
  | .snapTake v be => Sys2Proof.Machine.execSnapTake v be s
  | .snapComplete => Sys2Proof.Machine.execSnapComplete s
  | .evtForce g v be => Sys2Proof.Machine.execEvtForce g v be s
  | .evtClear g v be => Sys2Proof.Machine.execEvtClear g v be s
  | .evtEnableWrite g v be => Sys2Proof.Machine.execEvtEnableWrite g v be s
  | .msixSend vec => Sys2Proof.Machine.execMsixSend vec s
  | .scratchpadAccess rid acc => Sys2Proof.Machine.execScratchpadAccess rid acc s
  | .cwWindowAccess rid k acc => Sys2Proof.Machine.execCwWindowAccess rid k acc s
  | .pwInboundAccess rid acc => Sys2Proof.Machine.execPwInboundAccess rid acc s
  | .pwCommit v be => Sys2Proof.Machine.execPwCommit v be s
  | .pwCommitSwitch => Sys2Proof.Machine.execPwCommitSwitch s
  | .bmeCleared => Sys2Proof.Machine.execBmeCleared s
  | .bmeSet msixEn funcMask tag10 aspmEn link => Sys2Proof.Machine.execBmeSet msixEn funcMask tag10 aspmEn link s
  | .d3hotEntry => Sys2Proof.Machine.execD3hotEntry s
  | .d3hotExit => Sys2Proof.Machine.execD3hotExit s
  | .ltrEnable on maxSnoop maxNoSnoop => Sys2Proof.Machine.execLtrEnable on maxSnoop maxNoSnoop s
  | .aspmL1Entry => Sys2Proof.Machine.execAspmL1Entry s
  | .flr => Sys2Proof.Machine.execFlr s
  | .flrDone => Sys2Proof.Machine.execFlrDone s
  | .linkDown => Sys2Proof.Machine.execLinkDown s
  | .hotReset => Sys2Proof.Machine.execHotReset s
  | .linkUp gen width => Sys2Proof.Machine.execLinkUp gen width s
  | .linkChange gen width => Sys2Proof.Machine.execLinkChange gen width s
  | .inboundPoisonedWrite e off => Sys2Proof.Machine.execInboundPoisonedWrite e off s
  | .mbDoorbell m v be => Sys2Proof.Machine.execMbDoorbell m v be s
  | .mbCommandStart m => Sys2Proof.Machine.execMbCommandStart m s
  | .cwCfgWrite k v be => Sys2Proof.Machine.execCwCfgWrite k v be s
  | .cwProdWrite k v be => Sys2Proof.Machine.execCwProdWrite k v be s
  | .cwConsWrite k v be => Sys2Proof.Machine.execCwConsWrite k v be s
  | .cwStall k => Sys2Proof.Machine.execCwStall k s
  | .summitLockstep => Sys2Proof.Machine.execSummitLockstep s
  | .summitWatchdog => Sys2Proof.Machine.execSummitWatchdog s
  | .summitReady => Sys2Proof.Machine.execSummitReady s
  | .nop m => Sys2Proof.Machine.execNop m s
  | .fwStage m => Sys2Proof.Machine.execFwStage m s
  | .fwCommit m => Sys2Proof.Machine.execFwCommit m s
  | .fwInfo m => Sys2Proof.Machine.execFwInfo m s
  | .dieTempSample t => Sys2Proof.Machine.execDieTempSample t s
  | .railMonitor l => Sys2Proof.Machine.execRailMonitor l s
  | .extFaultIn => Sys2Proof.Machine.execExtFaultIn s
  | .fltSafeRelease v be => Sys2Proof.Machine.execFltSafeRelease v be s
  | .fltHistPop v be => Sys2Proof.Machine.execFltHistPop v be s
  | .fltStatusClear hi v be => Sys2Proof.Machine.execFltStatusClear hi v be s
  | .fltSevWrite n v be => Sys2Proof.Machine.execFltSevWrite n v be s
  | .fltCtrlWrite v be => Sys2Proof.Machine.execFltCtrlWrite v be s
  | .collectorParity => Sys2Proof.Machine.execCollectorParity s
  | .sramEccError mem word unit uncorrectable => Sys2Proof.Machine.execSramEccError mem word unit uncorrectable s
  | .sramCeInterval => Sys2Proof.Machine.execSramCeInterval s
  | .scrubPassDone mem unit => Sys2Proof.Machine.execScrubPassDone mem unit s
  | .scrubLate mem => Sys2Proof.Machine.execScrubLate mem s
  | .logRead m => Sys2Proof.Machine.execLogRead m s
  | .marchRun m => Sys2Proof.Machine.execMarchRun m s
  | .devSelftest m => Sys2Proof.Machine.execDevSelftest m s
  | .scrubCfg m => Sys2Proof.Machine.execScrubCfg m s
  | .faultInject m => Sys2Proof.Machine.execFaultInject m s
  | .powerOn => Sys2Proof.Machine.execPowerOn s
  | .coreBrownout => Sys2Proof.Machine.execCoreBrownout s
  | .coldReset => Sys2Proof.Machine.execColdReset s
  | .perstAssert => Sys2Proof.Machine.execPerstAssert s
  | .perstRelease => Sys2Proof.Machine.execPerstRelease s
  | .rlPeerFaultEnd p => Sys2Proof.Machine.execRlPeerFaultEnd p s
  | .trigoutContention x => Sys2Proof.Machine.execTrigoutContention x s
  | .railBackInRange r => Sys2Proof.Machine.execRailBackInRange r s
  | .extFaultInEnd => Sys2Proof.Machine.execExtFaultInEnd s
  | .marchDone m fails repaired firstFail us => Sys2Proof.Machine.execMarchDone m fails repaired firstFail us s
  | .fwStaged m back flashOk => Sys2Proof.Machine.execFwStaged m back flashOk s
  | .fwCommitted m flashOk => Sys2Proof.Machine.execFwCommitted m flashOk s
  | .selftestDone m failed => Sys2Proof.Machine.execSelftestDone m failed s

end Sys2Proof.Machine
end

