-- ==== Sys2Proof/WellFormed.lean ====
section
/-! DEFINITION. Which command terms the outside world can present: operands within the widths the spec gives them. The
meanings of `exec` are total and need none of these checks. -/

namespace Sys2Proof

/-- A time stays below its carries: SEC has 48 bits, NS is below 10^9, FRAC has 32 bits (R367). -/
def Time.wf (t : Time) : Bool := decide (t.sec < 2 ^ 48 ∧ t.ns < 1000000000 ∧ t.frac < 2 ^ 32)

/-- A link frame has 24 to 128 bytes in 8-byte words (R409). -/
def linkFrameWf (f : List Byte) : Bool := decide (24 ≤ f.length ∧ f.length ≤ 128 ∧ f.length % 8 = 0)

/-- An access lies inside a window of `size` bytes and moves something. -/
def spanWf (size off len : Nat) : Bool := decide (0 < len ∧ off + len ≤ size)

/-- A memory access of a host or peer inside a window of `size` bytes. -/
def MemAccess.wf (size : Nat) : MemAccess → Bool
  | .read off len => spanWf size off len
  | .write off bs => spanWf size off bs.length

/-- Does an access begin at an offset or after it? -/
def MemAccess.from (lo : Nat) : MemAccess → Bool
  | .read off _ => decide (lo ≤ off)
  | .write off _ => decide (lo ≤ off)

/-- A firmware image as the boot ROM finds it in a slot: a header of 256 bytes, a body whose length BODY_LEN can give, and a
signature of 29,792 bytes (R360). -/
def SlotImage.wf : SlotImage → Bool
  | .empty => true
  | .image header body sig => decide (header.length = 256 ∧ body.length < 2 ^ 32 ∧ sig.length = 29792)

/-- A trim word of 0.1 ps steps that 16 bits hold (R117). -/
def trimWf (v : Int) : Bool := decide (-32768 ≤ v ∧ v ≤ 32767)

/-- The operands of a command are ones the outside world or an engine can present. -/
def Instr.wf : Instr → Bool
  | .descriptorReadDone _ d => d.length == 256
  | .podInfo _ (some d) => d.length == 256
  | .calPairDone _ _ _ u l => trimWf u && trimWf l
  | .bar2Read off len _ => spanWf 0x1000000000 off len
  | .bar2Write off d => spanWf 0x1000000000 off d.length
  | .chAliasWrite off _ _ => decide (off % 4 = 0 ∧ 0x108000 ≤ off ∧ off < 0x108640)
  | .chAliasRead off => decide (off % 4 = 0 ∧ 0x108000 ≤ off ∧ off < 0x108640)
  | .pullWindowRead off len => spanWf 0x800000 off len
  | .pullWindowWrite off d => spanWf 0x800000 off d.length
  | .recWindowRead off len => spanWf 0x800000 off len
  | .recWindowWrite off d => spanWf 0x800000 off d.length
  | .flushReadCpl tag _ _ => decide (tag < 1024)
  | .flushReadTimeout tag => decide (tag < 1024)
  | .cplUnexpected tag => decide (tag < 1024)
  | .tagQuarantineEnd tag => decide (tag < 1024)
  | .nvmeCqEntry _ e => e.length == 16
  | .fwBootVerify a b => a.wf && b.wf
  | .timeIntegrity t => t.wf
  | .rlPortUp _ serial _ => serial.length == 16
  | .rlFrameBad r => r.blocks.all fun b => b.bytes.length == 8
  | .timeFrameRx _ f | .delayReqRx _ f | .delayRespRx _ f | .creditAckRx _ f | .fireFrameRx _ f | .armFrameRx _ f
  | .disarmFrameRx _ f | .timedFrameRx _ f | .tunnelReqRx _ f | .tunnelRespRx _ f | .recordFrameRx _ f | .discoverRx _ f
  | .discoverReplyRx _ f | .assignRx _ f => linkFrameWf f
  | .bar0Write off bs => spanWf 0x1000000 off bs.length
  | .regAliasWrite _ off _ _ => decide (off % 4 = 0 ∧ off < 0x400000)
  | .reg64LowRead off => decide (off % 4 = 0 ∧ off < 0x1000000)
  | .scratchpadAccess rid acc => decide (rid < 65536) && (acc.wf 0x1000000 || (acc.wf 0x2000000 && acc.from 0x1800000))
  | .cwWindowAccess rid _ acc => decide (rid < 65536) && acc.wf 0x100000
  | .pwInboundAccess rid acc => decide (rid < 65536) && acc.wf 0x1000000
  | .bmeSet _ _ _ _ link => decide (link.cto < 16 ∧ link.mps < 3)
  | .ltrEnable _ a b => decide (a < 65536 ∧ b < 65536)
  | .linkUp gen width | .linkChange gen width =>
    decide (1 ≤ gen ∧ gen ≤ 5 ∧ (width = 1 ∨ width = 2 ∨ width = 4 ∨ width = 8 ∨ width = 16))
  | .railMonitor l => decide (l.rail < 11 ∧ (l.unpowered = true → 6 ≤ l.rail ∧ l.rail ≤ 9))
  | .railBackInRange r => decide (r < 11)
  | .sramEccError mem _ _ _ => decide (mem < 11)
  | .marchDone _ fails repaired firstFail us =>
    decide (fails < 2 ^ 32 ∧ repaired < 2 ^ 32 ∧ firstFail < 2 ^ 32 ∧ us < 2 ^ 32)
  | _ => true

end Sys2Proof
end

