-- ==== Sys2Proof/Safety.lean ====
section
/-! DEFINITION. What claims are stated in: the invariants of a state, when the host reaches the device, and how a mailbox
answers. -/

namespace Sys2Proof.Machine

/-- Every addressed memory is in its canonical form: the ring (R29, R151), the scratchpad (R495), the Talus die (R306, R316),
and the snapshot page with the copy that waits for it (R555). -/
def State.memoriesCanonical (s : State) : Bool :=
  Memory.wf s.ring.mem && Memory.wf s.summit.scratchpad && Memory.wf s.tal.die && Memory.wf s.snap.page &&
    Memory.wf s.snap.taking

/-- No RAW bit stands for an event that is reserved or belongs to a unit the variant lacks (R11, R558). -/
def State.rawExists (s : State) : Bool :=
  (List.range 16).all fun g => (List.range 32).all fun b =>
    !(tabGet s.evt.raw g 0).getLsbD b || hasEvent s.dev.variant g b

/-- Does a posted write of the host reach its target: the device is out of reset, not in D3hot, in no SOFT reset (R481, R545)? -/
def State.reached (s : State) : Bool := alive s && !s.pcie.d3hot && !s.dev.softPending

/-- A state whose pending unlock a write has consumed (R540). -/
def State.spent (s : State) : State := { s with cfg := { s.cfg with unlock := 0 } }

/-- Is the RAW bit of event Gg.b set (R558)? -/
def State.rawBit (s : State) (g b : Nat) : Bool := (tabGet s.evt.raw g 0).getLsbD b

/-- Is mailbox `m` RUNNING a command of this opcode that the host rang itself (R499, R510)? -/
def State.serves (s : State) (m opcode : Nat) : Bool := mbRuns m opcode s && (mbOf s m).tunnel.isNone

/-- Mailbox `m` is DONE with a status (R498, R499). -/
def State.answered (s : State) (m status : Nat) : Prop := (mbOf s m).state = .done ∧ (mbOf s m).status = status

/-- The request that mailbox `m` runs, its 256 bytes (R499). -/
def State.request (s : State) (m : Nat) : List Byte := (mbOf s m).req

/-- The `n` bytes of the request from offset `o` as a little-endian number (R499). -/
def State.arg (s : State) (m o n : Nat) : Nat := fieldAt (s.request m) o n

/-- A state with every place blanked that the raise of an event may write: RAW (R558), the event log and its window
(R576, R520), the pending MSI-X vectors (R559), and the entries that wait for a LOG frame (R251). Where the hushed forms of
two states agree, the states differ in those places at most. -/
def State.hushed (s : State) : State :=
  { s with
    evt := { s.evt with raw := Vector.replicate 16 0, log := [], next := 0 },
    ret := { s.ret with logDrop := 0, logPending := [], logDropped := 0, logDue := false, logTicks := [] },
    pcie := { s.pcie with pba := 0 },
    cw := tabMod s.cw 7 fun w => { w with prod := 0, cons := 0 } }

/-- The events that any raise may bring along: G0.23 CW7_READY (R519) and G8.22 LOG_OVERFLOW (R251). -/
def sideEvents : List (Nat × Nat) := [(0, 23), (8, 22)]

/-- `t` is `s` after the events listed were raised: the RAW bit of each that exists is set, no RAW bit is cleared, no other
RAW bit but a side event's is set, and nothing changes but what a raise writes. -/
structure State.raises (evs : List (Nat × Nat)) (s t : State) : Prop where
  hushed : t.hushed = s.hushed
  marked : ∀ e ∈ evs, hasEvent s.dev.variant e.1 e.2 = true → t.rawBit e.1 e.2 = true
  kept   : ∀ g b, s.rawBit g b = true → t.rawBit g b = true
  others : ∀ g b, (g, b) ∉ evs ++ sideEvents → t.rawBit g b = s.rawBit g b

/-- A state with every place blanked that the completion of mailbox `m` may write: the mailbox, the scratchpad and the
injected corruption a write there removes (R587), the claims of circular windows (R515), and what its event writes. -/
def State.unanswered (m : Nat) (s : State) : State :=
  { s.hushed with
    mb := tabMod s.mb m fun _ => Mailbox.reset,
    cw := s.hushed.cw.map fun w => { w with claimed := false, out := [] },
    summit := { s.summit with scratchpad := [] },
    mem := { s.mem with corrupt := [] } }

/-- `t` is `s` after the command of mailbox `m` completed with STATUS `status`, DETAIL `detail` and the response `body`,
zeros behind it (R499, R501, R507): the mailbox is DONE, its 256 bytes of scratchpad hold the response, MBm_DONE is raised,
and nothing else changes but what State.unanswered names. -/
structure State.completes (m status detail : Nat) (body : List Byte) (s t : State) : Prop where
  done     : t.answered m status
  detail   : (mbOf t m).detail = detail
  response : memRead t.summit.scratchpad (256 * m) 256 = padTo 256 body
  beyond   : ∀ a, a < 256 * m ∨ 256 * m + 256 ≤ a → memByte t.summit.scratchpad a = memByte s.summit.scratchpad a
  event    : t.rawBit 0 m = true
  kept     : ∀ g b, s.rawBit g b = true → t.rawBit g b = true
  others   : ∀ g b, (g, b) ∉ (0, m) :: sideEvents → t.rawBit g b = s.rawBit g b
  rest     : t.unanswered m = s.unanswered m

end Sys2Proof.Machine
end

