-- ==== Sys2Proof/Certificates/Slice0/Obligations.lean ====
section
/-! DEFINITION. The statements for the provers, one for each obligation. -/

open Sys2Proof Sys2Proof.Machine

/-- A step of a state with a command at the front of its queue is exec of that command on the state with the queue's rest. With nothing waiting a step is one timebase tick (the model's choice, log entry 2). -/
def Obligations.StepRunsFront : Prop :=
  (∀ (c : Instr) (q : List Instr) (s : State), step { s with pending := c :: q } = exec c { s with pending := q }) ∧
  (∀ (c : Instr) (q : List Instr) (s : State), s.pending = c :: q → step s = exec c { s with pending := q }) ∧
  (∀ (s : State), s.pending = [] → step s = .next (tick s))

/-- After reset, on every variant: every memory is in its canonical form, no event bit is set, nothing waits and the mailboxes are IDLE; acquisition is IDLE and READY is 0 with the reset cause of PERST#; the staged and active images have their reset values and no unlock is pending; TIME_A_INCR is nominal and TIME_A_STEP_LIMIT 1,000; event Gg.b maps to vector 4g + b / 8; the ring is empty with CE_LIMIT 1,000; CE_LIMIT of the other memories is 100; FAULTN_SEV is 3. -/
def Obligations.ResetState : Prop :=
  (∀ (v : Variant), (State.resetOf v).memoriesCanonical = true ∧ (State.resetOf v).rawExists = true ∧
     (State.resetOf v).pending = [] ∧ State.reset = State.resetOf .x9256) ∧
  (∀ (v : Variant), (State.resetOf v).dev.acq = .idle ∧ (State.resetOf v).dev.ready = false ∧
     (State.resetOf v).dev.safe = false ∧ (State.resetOf v).dev.resetCause = 1 ∧ (State.resetOf v).dev.scratch = 0 ∧
     (State.resetOf v).cfg.unlock = 0 ∧ (State.resetOf v).cfg.opened = false ∧ (State.resetOf v).cfg.staged =
     Image.reset v.ports ∧ (State.resetOf v).cfg.active = Image.reset v.ports ∧ (State.resetOf v).tm.incrA =
     0x0400000000 ∧ (State.resetOf v).tm.stepLimit = 1000 ∧ (State.resetOf v).ring.ceLimit = 1000 ∧
     (State.resetOf v).ring.W = 0 ∧ (State.resetOf v).ring.X = 0 ∧ (State.resetOf v).ring.H = 0 ∧
     (State.resetOf v).mem.ceLimit = 100 ∧ (State.resetOf v).flt.faultnSev = 3 ∧ (State.resetOf v).flt.status = 0) ∧
  (∀ (v : Variant), (∀ m < 8, (mbOf (State.resetOf v) m).state = .idle) ∧ (∀ g < 16,
     tabGet (State.resetOf v).evt.raw g 1 = 0 ∧ tabGet (State.resetOf v).evt.enable g 1 = 0) ∧ (∀ g < 16, ∀ b < 32,
     tabGet (State.resetOf v).evt.vector (32 * g + b) 0 = BitVec.ofNat 6 (4 * g + b / 8)) ∧ ∀ p < 16,
     (podAt (State.resetOf v) p).state = .empty)

/-- From every state whose memories (the ring, the scratchpad, the Talus die, the snapshot page and its copy) are in their canonical form, with addresses strictly rising and no zero byte listed, a step gives a state whose memories are, whatever command it runs. -/
def Obligations.StepKeepsMemories : Prop :=
  ∀ (s t : State), s.memoriesCanonical = true → step s = .next t → t.memoriesCanonical = true

/-- From every state in which no RAW bit stands for an event that is reserved or belongs to a unit the variant lacks, a step gives such a state; the variant stays, and the queue loses its first command alone. -/
def Obligations.StepKeepsVariant : Prop :=
  (∀ (s t : State), s.rawExists = true → step s = .next t → t.rawExists = true) ∧
  (∀ (s t : State), step s = .next t → t.pending = s.pending.tail ∧ t.dev.variant = s.dev.variant)

/-- Only MAP_SLOT_WRITE and SEAL_INDEX_WRITE change a map slot or a seal index entry of the Talus die, the bytes below the format record; every other command, each reset among them, leaves them all and TALUS_MAP_WRITES unchanged. No step lowers the rollback floor of the firmware. -/
def Obligations.StoreOutlivesSteps : Prop :=
  (∀ (c : Instr) (s t : State), exec c s = .next t → (∀ b, c ≠ .mapSlotWrite b) → (∀ b, c ≠ .sealIndexWrite b) →
     (∀ a, a < formatBase → memByte t.tal.die a = memByte s.tal.die a) ∧ t.tal.mapWrites = s.tal.mapWrites) ∧
  (∀ (s t : State), step s = .next t → s.summit.floor ≤ t.summit.floor)

/-- Each of the 42 mailbox commands changes nothing where its mailbox is not RUNNING a command of its opcode (the model's reading of a command whose condition does not hold, log entry 4). -/
def Obligations.UnservedCommands : Prop :=
  ∀ (p : (Fin 8 → Instr) × Nat) (d : Option (List Byte)) (s : State) (m : Fin 8), p ∈ [(.devInfo, 0x0001),
    (.acqStart, 0x0402), (.epochCommit, 0x0401), (.acqStop, 0x0403), (.ringCfg, 0x0406), (.podPower, 0x0102),
    (fun k => .podInfo k d, 0x0101), (.calRun, 0x0201), (.calStatus, 0x0202), (.fabCfg, 0x0304), (.trvLoad, 0x0301),
    (.trvArm, 0x0302), (.trvDisarm, 0x0303), (.trvOutCfg, 0x0305), (.retainSet, 0x0404), (.mark, 0x0405), (.expCfg,
    0x0407), (.talusFormat, 0x0501), (.talusWindowSet, 0x0502), (.talusDriveAttach, 0x0503), (.talusCfg, 0x0504),
    (.talusMapRead, 0x0505), (.sealCfg, 0x0803), (.sealNow, 0x0804), (.identityGet, 0x0802), (.attest, 0x0801),
    (.timeSourceSet, 0x0601), (.axisCfg, 0x0602), (.rlDiscover, 0x0701), (.rlPortCfg, 0x0702), (.rlTunnel, 0x0703),
    (.rlTimed, 0x0704), (.pllCfg, 0x0B01), (.nop, 0x0000), (.fwStage, 0x0A01), (.fwCommit, 0x0A02), (.fwInfo,
    0x0A03), (.logRead, 0x0003), (.marchRun, 0x0901), (.devSelftest, 0x0002), (.scrubCfg, 0x0902), (.faultInject,
    0x0903)] → mbRuns m.val p.2 s = false → exec (p.1 m) s = .next s

/-- A posted write of the host to a register changes nothing while the device is without power, in reset or in a SOFT reset, and in D3hot it is an Unsupported Request alone. No command is refused, and the one fault is an access beyond a BAR; every command but BAR0_WRITE, REG_ALIAS_WRITE, BAR2_READ and BAR2_WRITE answers a next state from every state, and these four do within their BARs. -/
def Obligations.HostReach : Prop :=
  (∀ (s : State) (c : Instr) (m : Fin 8) (g : Fin 16) (i : Fin 4) (n : Fin 64) (b : Bool) (v : Word) (be : BitVec 4) (x : Word64) (e : BitVec 8),
     c ∈ [.mbDoorbell m v be, .cwCfgWrite m v be, .cwProdWrite m v be, .cwConsWrite m v be, .cfgUnlock v be,
     .cfgLatchRef v be, .cfgCommit v be, .cfgOpen v be, .evtForce g v be, .evtClear g v be, .evtEnableWrite g v be,
     .expPullRelease v be, .expDurableAck x e, .fltSevWrite i v be, .fltCtrlWrite v be, .fltStatusClear b v be,
     .fltHistPop v be, .fltSafeRelease v be, .pwCommit v be, .snapTake v be, .devSoftReset v be, .schArm n,
     .schDisarm n, .schSf v be, .talusArchivedWrite x e, .talusGeometryLock v be, .timeAIncr x e, .timeAStep x e,
     .timeAStepLimit v be, .timeBIncr x e, .timeBStep x e] → alive s = false ∨ (s.pcie.d3hot = false ∧
     s.dev.softPending = true) → exec c s = .next s) ∧
  (∀ (s : State) (c : Instr) (m : Fin 8) (g : Fin 16) (i : Fin 4) (n : Fin 64) (b : Bool) (v : Word) (be : BitVec 4) (x : Word64) (e : BitVec 8),
     c ∈ [.mbDoorbell m v be, .cwCfgWrite m v be, .cwProdWrite m v be, .cwConsWrite m v be, .cfgUnlock v be,
     .cfgLatchRef v be, .cfgCommit v be, .cfgOpen v be, .evtForce g v be, .evtClear g v be, .evtEnableWrite g v be,
     .expPullRelease v be, .expDurableAck x e, .fltSevWrite i v be, .fltCtrlWrite v be, .fltStatusClear b v be,
     .fltHistPop v be, .fltSafeRelease v be, .pwCommit v be, .snapTake v be, .devSoftReset v be, .schArm n,
     .schDisarm n, .schSf v be, .talusArchivedWrite x e, .talusGeometryLock v be, .timeAIncr x e, .timeAStep x e,
     .timeAStepLimit v be, .timeBIncr x e, .timeBStep x e] → alive s = true → s.pcie.d3hot = true → exec c s =
     .next (urWrite s) ∧ (urWrite s).rawBit 14 7 = true) ∧
  (∀ (c : Instr) (s : State), (∃ t, exec c s = .next t) ∨ ∃ k a, exec c s = .fault (.outsideBar k a)) ∧
  (∀ (c : Instr) (s : State), (∀ a b, c ≠ .bar0Write a b) → (∀ p a v e, c ≠ .regAliasWrite p a v e) → (∀ a n l,
     c ≠ .bar2Read a n l) → (∀ a d, c ≠ .bar2Write a d) → ∃ t, exec c s = .next t) ∧
  (∀ (s : State) (a n : Nat) (b : List (Option Byte)) (d : List Byte) (l : List (Nat × EccErr)) (p : AliasOp) (v : Word) (e : BitVec 4),
     a + b.length ≤ 0x1000000 → a < 0x400000 → a + n ≤ 0x1000000000 → a + d.length ≤ 0x1000000000 →
     ∃ (t u w z : State), exec (.bar0Write a b) s = .next t ∧ exec (.regAliasWrite p a v e) s = .next u ∧
     exec (.bar2Read a n l) s = .next w ∧ exec (.bar2Write a d) s = .next z)

/-- A 32-bit write of 0xC0DE_00cc to CFG_UNLOCK with cc from 01 to 05 arms an unlock of class cc, and CFG_STATUS then shows the class; with no unlock pending it shows 0. Any other value arms nothing and raises UNLOCK_BAD, and a narrow write arms nothing and raises ACCESS_WIDTH, each with an event-log entry that holds the value written. Nothing else changes. -/
def Obligations.UnlockArms : Prop :=
  (∀ (s : State) (v : Word), s.reached = true → 0xC0DE0001 ≤ v.toNat ∧ v.toNat ≤ 0xC0DE0005 → ∃ t,
     exec (.cfgUnlock v 0xF#4) s = .next t ∧ t = { s with cfg := { s.cfg with unlock := v.toNat % 256 } } ∧
     cfgStatus t / 65536 % 256 = v.toNat % 256 ∧ cfgStatus s.spent / 65536 % 256 = 0) ∧
  (∀ (s : State) (v : Word), s.reached = true → v.toNat < 0xC0DE0001 ∨ 0xC0DE0005 < v.toNat → ∃ t,
     exec (.cfgUnlock v 0xF#4) s = .next t ∧ State.raises [(1, 2)] s.spent t ∧ (∃ e ∈ t.evt.log, e.seq = s.evt.next ∧
     e.code = 34 ∧ fieldAt e.data 4 4 = v.toNat) ∧ t.cfg.unlock = 0) ∧
  (∀ (s : State) (v : Word) (be : BitVec 4), s.reached = true → be ≠ 0xF#4 → ∃ t, exec (.cfgUnlock v be) s =
     .next t ∧ State.raises [(1, 1)] s.spent t ∧ (∃ e ∈ t.evt.log, e.seq = s.evt.next ∧ e.code = 33 ∧
     fieldAt e.data 4 4 = v.toNat) ∧ t.cfg.unlock = 0)

/-- The fields of FLT_SEVi reset to the defaults: FLT_SEV0 0x1565_5D57, FLT_SEV1 0x5545_F555 or 0x5005_F555 on the RNK-9128-B, FLT_SEV2 0x0000_1165, 0x0000_1164 on the RNK-9256-N and 0x0000_1124 on the RNK-9128-B, FLT_SEV3 0. -/
def Obligations.SeveritiesReset : Prop :=
  narrowReg 0x4020 (State.resetOf .x9256) = 358964567 ∧ narrowReg 0x4024 (State.resetOf .x9256) = 1430648149 ∧
    narrowReg 0x4028 (State.resetOf .x9256) = 4453 ∧ narrowReg 0x402c (State.resetOf .x9256) = 0 ∧
    narrowReg 0x4020 (State.resetOf .n9256) = 358964567 ∧ narrowReg 0x4024 (State.resetOf .n9256) = 1430648149 ∧
    narrowReg 0x4028 (State.resetOf .n9256) = 4452 ∧ narrowReg 0x402c (State.resetOf .n9256) = 0 ∧
    narrowReg 0x4020 (State.resetOf .x9128) = 358964567 ∧ narrowReg 0x4024 (State.resetOf .x9128) = 1430648149 ∧
    narrowReg 0x4028 (State.resetOf .x9128) = 4453 ∧ narrowReg 0x402c (State.resetOf .x9128) = 0 ∧
    narrowReg 0x4020 (State.resetOf .b9128) = 358964567 ∧ narrowReg 0x4024 (State.resetOf .b9128) = 1342567765 ∧
    narrowReg 0x4028 (State.resetOf .b9128) = 4388 ∧ narrowReg 0x402c (State.resetOf .b9128) = 0

/-- Bit 16 + g of EVT_SUMMARY is 1 just when EVT_RAWg is not 0, bit g just when EVT_STATUSg is not 0; a write of it changes nothing, and after reset it reads 0. -/
def Obligations.EventSummary : Prop :=
  (∀ (s : State) (g : Fin 16), ((narrowReg 0x3200 s).testBit (16 + g.val) =
     true ↔ narrowReg (0x3000 + 0x20 * g.val) s ≠ 0) ∧ ((narrowReg 0x3200 s).testBit g.val =
     true ↔ narrowReg (0x3004 + 0x20 * g.val) s ≠ 0) ∧ narrowReg 0x3200 s < 4294967296 ∧
     narrowReg 0x3200 State.reset = 0) ∧
  (∀ (s : State) (v : Word) (be : BitVec 4) (c : Nat), writeReg 0x3200 v be c s = s)

/-- CFG_LATCH_REF sets the reference to the CRC of the staged image, CFG_OPEN opens and CFG_COMMIT clears OPEN; a scanner pass counts, compares when it met no suspension, and at its first mismatch raises G1.3, at the second in a row F1. A low-word read of a 64-bit register latches its high word, which a read of the high word then returns and empties; that the row carries the reads of other registers as well is the model's (log entry 79). EVT_FORCE raises the events it names, EVT_CLEAR clears RAW bits, EVT_ENABLE_WRITE stores the enables of the events that exist. SNAP_TAKE asks for the copy that a tick takes at the edge 40 samples later, or notes an overrun while one is taken; SNAP_COMPLETE shows the copy once it is taken. -/
def Obligations.ControlRegisters : Prop :=
  (∀ (s : State) (v : Word), s.reached = true → v.getLsbD 2 = true → exec (.cfgLatchRef v 0xF#4) s =
     .next { s.spent with cfg := { s.spent.cfg with crcRef := stagedCrc s, opened := v.getLsbD 0 && !v.getLsbD 1 } }) ∧
  (∀ (s : State) (v : Word), s.reached = true → v.getLsbD 1 = true → v.getLsbD 2 = false →
     exec (.cfgCommit v 0xF#4) s = .next { s.spent with cfg := { s.spent.cfg with opened := false } }) ∧
  (∀ (s : State) (v : Word), s.reached = true → v.getLsbD 0 = true → v.getLsbD 1 = false → v.getLsbD 2 = false →
     exec (.cfgOpen v 0xF#4) s = .next { s.spent with cfg := { s.spent.cfg with opened := true } }) ∧
  (∀ (s : State) (v : Word) (be : BitVec 4), s.reached = true → be ≠ 0xF#4 → ∃ (t u w : State),
     exec (.cfgLatchRef v be) s = .next t ∧ State.raises [(1, 1)] s.spent t ∧ exec (.cfgCommit v be) s = .next u ∧
     State.raises [(1, 1)] s.spent u ∧ exec (.cfgOpen v be) s = .next w ∧ State.raises [(1, 1)] s.spent w) ∧
  (∀ (s : State) (x : List (Nat × Byte)), ∃ t, exec (.cfgScanPass x) s = .next t ∧ t.cfg.crcLive =
     BitVec.ofNat 32 (crc32c (scannedSections x 0 (imageSections s.dev.variant s.cfg.active)).flatten) ∧
     t.cfg.passCnt = s.cfg.passCnt + 1 ∧ (suspended s = true ∨ s.cfg.unfit = true → t = { s with
         cfg := { s.cfg with crcLive := BitVec.ofNat 32 (crc32c (scannedSections x 0 (imageSections s.dev.variant s.cfg.active)).flatten), passCnt := s.cfg.passCnt + 1, unfit := suspended s } }) ∧
     (suspended s = false → s.cfg.unfit = false →
     BitVec.ofNat 32 (crc32c (scannedSections x 0 (imageSections s.dev.variant s.cfg.active)).flatten) =
     s.cfg.crcChecked → t = { s with
         cfg := { s.cfg with crcLive := BitVec.ofNat 32 (crc32c (scannedSections x 0 (imageSections s.dev.variant s.cfg.active)).flatten), passCnt := s.cfg.passCnt + 1, unfit := false, mismatchNow := false, mismatchRun := 0 } }) ∧
     (suspended s = false → s.cfg.unfit = false →
     BitVec.ofNat 32 (crc32c (scannedSections x 0 (imageSections s.dev.variant s.cfg.active)).flatten) ≠ s.cfg.crcChecked →
     t.cfg.mismatchNow = true ∧ t.cfg.mismatchSeen = true ∧ t.cfg.mismatchCnt = s.cfg.mismatchCnt + 1 ∧
     (s.cfg.mismatchSeen = false → t.rawBit 1 3 = true) ∧ (s.cfg.mismatchRun = 1 → s.flt.on = true →
     t.flt.status.getLsbD 1 = true))) ∧
  (∀ (s : State) (a n : Nat), s.reached = true → a % 8 = 0 → wideReg a s = some n → exec (.reg64LowRead a) s =
     .next (emitOut (.regData a (BitVec.ofNat 64 (n % 4294967296))) { s with
         tm := { s.tm with latches := s.tm.latches.filter (fun x => x.1 ≠ a) ++ [(a, BitVec.ofNat 32 (n / 4294967296))] } })) ∧
  (∀ (s : State) (a n : Nat) (l : Word), s.reached = true → a % 8 = 0 → a ≠ 0xD068 → wideReg a s = some n →
     s.tm.latches.find? (fun x => x.1 == a) = some (a, l) → exec (.reg64LowRead (a + 4)) s =
     .next (emitOut (.regData (a + 4) (l.zeroExtend 64)) { s with
         tm := { s.tm with latches := s.tm.latches.filter (fun x => x.1 ≠ a) } })) ∧
  (∀ (s : State) (a : Nat), s.reached = true → a % 4 = 0 → a ≠ 0xD06C → wideReg (a / 8 * 8) s = none →
     exec (.reg64LowRead a) s = .next (emitOut (.regData a ((regRead a s).zeroExtend 64)) s)) ∧
  (∀ (s : State) (a : Nat), a % 4 ≠ 0 → exec (.reg64LowRead a) s = .next s) ∧
  (∀ (s : State) (g : Fin 16) (b : Fin 32), s.reached = true → ∃ t,
     exec (.evtForce g (BitVec.ofNat 32 (2 ^ b.val)) 0xF#4) s = .next t ∧ State.raises [(g.val, b.val)] s.spent t) ∧
  (∀ (s : State) (g : Fin 16) (v : Word), s.reached = true → ∃ t, exec (.evtForce g v 0xF#4) s = .next t ∧
     State.raises (((List.range 32).filter fun b => v.getLsbD b).map fun b => (g.val, b)) s.spent t) ∧
  (∀ (s : State) (g : Fin 16) (v : Word), s.reached = true → exec (.evtClear g v 0xF#4) s = .next { s.spent with
         evt := { s.evt with raw := tabMod s.evt.raw g.val fun w => w &&& ~~~v } }) ∧
  (∀ (s : State) (g : Fin 16) (v : Word) (be : BitVec 4), s.reached = true → be ≠ 0xF#4 → ∃ (t u : State),
     exec (.evtForce g v be) s = .next t ∧ State.raises [(1, 1)] s.spent t ∧ exec (.evtClear g v be) s = .next u ∧
     State.raises [(1, 1)] s.spent u) ∧
  (∀ (s : State) (g : Fin 16) (v : Word) (be : BitVec 4), s.reached = true → ∃ t, exec (.evtEnableWrite g v be) s =
     .next t ∧ (∀ b < 32, (tabGet t.evt.enable g.val 0).getLsbD b =
     (if (beMask be).getLsbD b && (presentEvents s.dev.variant g.val).testBit b then v.getLsbD b else (tabGet s.evt.enable g.val 0).getLsbD b)) ∧
     t = { s.spent with evt := { s.evt with enable := t.evt.enable }, pcie := { s.pcie with pba := t.pcie.pba } } ∧
     ∀ b < 32, (tabGet t.evt.enable g.val 0).getLsbD b = true → (tabGet s.evt.enable g.val 0).getLsbD b = false →
     s.rawBit g.val b = true → t.pcie.pba.getLsbD (tabGet s.evt.vector (32 * g.val + b) 0).toNat = true) ∧
  (∀ (s : State) (v : Word), s.reached = true → v.getLsbD 0 = true → s.snap.busy = false →
     exec (.snapTake v 0xF#4) s = .next { s.spent with
         snap := { s.snap with busy := true, edge := some (s.tm.ax5 + 40) } }) ∧
  (∀ (s : State) (v : Word), s.reached = true → v.getLsbD 0 = true → s.snap.busy = true →
     exec (.snapTake v 0xF#4) s = .next { s.spent with snap := { s.snap with overrun := true } }) ∧
  (∀ (s : State) (v : Word), s.reached = true → v.getLsbD 0 = false → exec (.snapTake v 0xF#4) s = .next s.spent) ∧
  (∀ (s : State) (e : Nat), s.snap.edge = some e → (e ≤ s.tm.ax5 → snapTick s = { s with
         snap := { s.snap with edge := none, taking := snapPage s, takingB := s.tm.bValid } }) ∧ (s.tm.ax5 < e →
     snapTick s = s)) ∧
  (∀ (s : State), s.snap.busy = true → s.snap.edge = none → exec .snapComplete s = .next { s with
         snap := { s.snap with page := s.snap.taking, seq := s.snap.seq + 1, busy := false, valid := true, timeBValid := s.snap.takingB, taking := [], takingB := false } }) ∧
  (∀ (s : State), s.snap.busy = false ∨ s.snap.edge ≠ none → exec .snapComplete s = .next s)

/-- An FLR clears READY, empties the mailboxes, the tags, configuration space, the scheduler, the snapshot and the staged image, and its end raises G14.15; link down and Hot Reset do so too with their causes, and link down counts and raises G14.1. A SOFT reset with its key does the same for the units behind the registers and restarts the controller. DEV_READY sets READY. PERST#, POWER_ON, CORE_BROWNOUT and COLD_RESET return every unit to its reset state but for what the reset table keeps. The order of a reset against what is under way is the model's reading (log entry 48). -/
def Obligations.DeviceResets : Prop :=
  (∀ (s : State), alive s = true → ∃ t, exec .flr s = .next t ∧ t.dev.resetCause = 2 ∧ t.dev.ready = false ∧
     t.dev.scratch = 0 ∧ t.pcie.flr = true ∧ t.pcie.bme = false ∧ t.pcie.tags = [] ∧ t.pcie.hostRid = 0 ∧ (∀ k < 8,
     (mbOf t k).state = .idle ∧ (cwOf t k).claimed = false) ∧ t.sch = Sch.reset ∧ t.snap = Snap.reset ∧
     t.cfg.staged = Image.reset s.dev.variant.ports ∧ t.cfg.unlock = 0 ∧ t.eq.paused = true ∧ t.tal.die = s.tal.die ∧
     t.dev.variant = s.dev.variant) ∧
  (∀ (s : State), alive s = true → s.pcie.dlUp = true → ∃ t, exec .hotReset s = .next t ∧ t.dev.resetCause = 5 ∧
     t.dev.ready = false ∧ t.dev.scratch = 0 ∧ t.pcie.flr = true ∧ t.pcie.bme = false ∧ t.pcie.tags = [] ∧
     t.pcie.hostRid = 0 ∧ (∀ k < 8, (mbOf t k).state = .idle ∧ (cwOf t k).claimed = false) ∧ t.sch = Sch.reset ∧
     t.snap = Snap.reset ∧ t.cfg.staged = Image.reset s.dev.variant.ports ∧ t.cfg.unlock = 0 ∧ t.eq.paused = true ∧
     t.tal.die = s.tal.die ∧ t.dev.variant = s.dev.variant) ∧
  (∀ (s : State), alive s = true → s.pcie.dlUp = true → ∃ t, exec .linkDown s = .next t ∧ t.dev.resetCause = 4 ∧
     t.dev.ready = false ∧ t.pcie.flr = true ∧ t.pcie.dlUp = false ∧ t.pcie.tags = [] ∧ t.pcie.linkDown =
     s.pcie.linkDown + 1 ∧ t.rawBit 14 1 = true ∧ (∀ k < 8, (mbOf t k).state = .idle) ∧ t.cfg.staged =
     Image.reset s.dev.variant.ports) ∧
  (∀ (s : State), alive s = false → exec .flr s = .next s ∧ exec .hotReset s = .next s ∧ exec .linkDown s = .next s) ∧
  (∀ (s : State), s.pcie.flr = true → ∃ t, exec .flrDone s = .next t ∧ State.raises [(14, 15)] { s with
         pcie := { s.pcie with flr := false }, dev := { s.dev with ready := startedUp s && !s.dev.softPending } } t) ∧
  (∀ (s : State), s.pcie.flr = false → exec .flrDone s = .next s) ∧
  (∀ (s : State), s.reached = true → s.cfg.unlock = 3 → ∃ t, exec (.devSoftReset 1 0xF#4) s = .next t ∧
     t.dev.ready = false ∧ t.dev.softPending = true ∧ t.dev.resetCause = 3 ∧ t.dev.scratch = 0 ∧ t.dev.variant =
     s.dev.variant ∧ t.mb = Vector.replicate 8 Mailbox.reset ∧ (∀ k < 7, cwOf t k = Window.reset k) ∧
     t.summit.state = .boot ∧ t.sch = Sch.reset ∧ t.snap = Snap.reset ∧ t.cfg.staged =
     Image.reset s.dev.variant.ports ∧ t.cfg.unlock = 0 ∧ t.flt.sev = sevReset s.dev.variant ∧ t.mem.ceLimit = 100 ∧
     t.tm.a = s.tm.a ∧ t.tm.tick = s.tm.tick ∧ t.tal.die = s.tal.die) ∧
  (∀ (s : State) (v : Word), s.reached = true → v ≠ 1 ∨ s.cfg.unlock ≠ 3 → ∃ t, exec (.devSoftReset v 0xF#4) s =
     .next t ∧ State.raises [(1, 0)] s.spent t) ∧
  (∀ (s : State) (v : Word) (be : BitVec 4), s.reached = true → be ≠ 0xF#4 → ∃ t, exec (.devSoftReset v be) s =
     .next t ∧ State.raises [(1, 1)] s.spent t) ∧
  (∀ (s : State), alive s = true → s.dev.ready = false → startedUp s = true → exec .devReady s = .next { s with
         dev := { s.dev with ready := true, softPending := false } }) ∧
  (∀ (s : State), alive s = false ∨ s.dev.ready = true ∨ startedUp s = false → exec .devReady s = .next s) ∧
  (∀ (s : State), s.dev.perst = false → ∃ t, exec .perstAssert s = .next t ∧ t.dev.perst = true ∧
     t.dev.resetCause = 1 ∧ t.podc.stbyPress = s.podc.stbyPress ∧ t.cfg = Cfg.reset s.dev.variant.ports ∧ t.evt =
     Events.reset ∧ t.ring = Ring.reset ∧ t.eq = Eq.reset ∧ t.sch = Sch.reset ∧ t.tm = Tm.reset ∧ t.mb =
     Vector.replicate 8 Mailbox.reset ∧ t.flt.status = 0 ∧ t.dev.ready = false ∧ t.dev.acq = .idle ∧ t.dev.variant =
     s.dev.variant ∧ t.tal.die = s.tal.die ∧ t.tal.mapWrites = s.tal.mapWrites ∧ t.summit.floor = s.summit.floor ∧
     t.pending = s.pending ∧ t.out = s.out) ∧
  (∀ (s : State), s.dev.perst = true → ∃ t, exec .perstRelease s = .next t ∧ t.dev.perst = false ∧
     t.dev.resetCause = s.dev.resetCause ∧ t.rl.restarts = (s.rl.restarts + 1) % 256 ∧ t.cfg =
     Cfg.reset s.dev.variant.ports ∧ t.evt = Events.reset ∧ t.ring = Ring.reset ∧ t.eq = Eq.reset ∧ t.sch =
     Sch.reset ∧ t.tm = Tm.reset ∧ t.mb = Vector.replicate 8 Mailbox.reset ∧ t.flt.status = 0 ∧ t.dev.ready = false ∧
     t.dev.acq = .idle ∧ t.dev.variant = s.dev.variant ∧ t.tal.die = s.tal.die ∧ t.tal.mapWrites = s.tal.mapWrites ∧
     t.summit.floor = s.summit.floor ∧ t.pending = s.pending ∧ t.out = s.out) ∧
  (∀ (s : State), (s.dev.perst = true → exec .perstAssert s = .next s) ∧ (s.dev.perst = false →
     exec .perstRelease s = .next s) ∧ (s.dev.powered = true → exec .powerOn s = .next s) ∧ (s.dev.powered = false →
     exec .coreBrownout s = .next s)) ∧
  (∀ (s : State), s.dev.powered = false → ∃ t, exec .powerOn s = .next t ∧ t.dev.powered = true ∧ t.dev.standby =
     false ∧ t.dev.resetCause = s.dev.resetCause ∧ t.cfg = Cfg.reset s.dev.variant.ports ∧ t.evt = Events.reset ∧
     t.ring = Ring.reset ∧ t.eq = Eq.reset ∧ t.sch = Sch.reset ∧ t.tm = Tm.reset ∧ t.mb =
     Vector.replicate 8 Mailbox.reset ∧ t.flt.status = 0 ∧ t.dev.ready = false ∧ t.dev.acq = .idle ∧ t.dev.variant =
     s.dev.variant ∧ t.tal.die = s.tal.die ∧ t.tal.mapWrites = s.tal.mapWrites ∧ t.summit.floor = s.summit.floor ∧
     t.pending = s.pending ∧ t.out = s.out) ∧
  (∀ (s : State), s.dev.powered = true → ∃ t, exec .coreBrownout s = .next t ∧ t.dev.powered = false ∧
     t.dev.standby = true ∧ t.dev.resetCause = 1 ∧ t.cfg = Cfg.reset s.dev.variant.ports ∧ t.evt = Events.reset ∧
     t.ring = Ring.reset ∧ t.eq = Eq.reset ∧ t.sch = Sch.reset ∧ t.tm = Tm.reset ∧ t.mb =
     Vector.replicate 8 Mailbox.reset ∧ t.flt.status = 0 ∧ t.dev.ready = false ∧ t.dev.acq = .idle ∧ t.dev.variant =
     s.dev.variant ∧ t.tal.die = s.tal.die ∧ t.tal.mapWrites = s.tal.mapWrites ∧ t.summit.floor = s.summit.floor ∧
     t.pending = s.pending ∧ t.out = s.out) ∧
  (∀ (s : State), ∃ t, exec .coldReset s = .next t ∧ t.dev.powered = false ∧ t.dev.perst = true ∧
     t.dev.resetCause = 0 ∧ t.podc.stbyPress = 0 ∧ t.rl.restarts = 0 ∧ (∀ p < 16, (podAt t p).present = false) ∧
     t.cfg = Cfg.reset s.dev.variant.ports ∧ t.evt = Events.reset ∧ t.ring = Ring.reset ∧ t.eq = Eq.reset ∧ t.sch =
     Sch.reset ∧ t.tm = Tm.reset ∧ t.mb = Vector.replicate 8 Mailbox.reset ∧ t.flt.status = 0 ∧ t.dev.ready = false ∧
     t.dev.acq = .idle ∧ t.dev.variant = s.dev.variant ∧ t.tal.die = s.tal.die ∧ t.tal.mapWrites = s.tal.mapWrites ∧
     t.summit.floor = s.summit.floor ∧ t.pending = s.pending ∧ t.out = s.out)

/-- A BAR0 write that stays within the BAR, and an alias write within the registers, complete with the pending unlock consumed and its class given to the access. An aligned full write of DEV_SCRATCH stores the value; a TLP of one DWORD acts as one access of its register, one of eight bytes that is a 64-bit register as one access of it; disabled bytes keep their value; a read-only register ignores the write. A TLP that reaches beyond BAR0 is a fault of the model, as an alias of an offset outside the registers is. SET, CLEAR and TOGGLE aliases change the bits named; a narrow alias write of a special register raises G1.1. -/
def Obligations.RegisterWrites : Prop :=
  (∀ (s : State) (b0 b1 b2 b3 : Byte), s.reached = true → exec (.bar0Write 0x18 [some b0, some b1, some b2,
     some b3]) s = .next { s.spent with dev := { s.dev with scratch := b3 ++ b2 ++ b1 ++ b0 } }) ∧
  (∀ (s : State) (b : Byte), s.reached = true → ∃ t, exec (.bar0Write 0x1A [some b]) s = .next t ∧ t =
     { s.spent with dev := { s.dev with scratch := t.dev.scratch } } ∧ ∀ i < 32, t.dev.scratch.getLsbD i =
     (if 16 ≤ i ∧ i < 24 then b.getLsbD (i - 16) else s.dev.scratch.getLsbD i)) ∧
  (∀ (s : State) (a : Nat) (b0 b1 b2 b3 : Byte), s.reached = true → a % 4 = 0 → a < 0x20000 →
     wideReg (a / 8 * 8) s.spent = none → exec (.bar0Write a [some b0, some b1, some b2, some b3]) s =
     .next (writeReg a (b3 ++ b2 ++ b1 ++ b0) 0xF#4 s.cfg.unlock s.spent)) ∧
  (∀ (s : State) (a n : Nat) (b : List Byte), s.reached = true → a % 8 = 0 → a < 0x20000 → b.length = 8 →
     wideReg a s.spent = some n → exec (.bar0Write a (b.map some)) s =
     .next (writeWide a (BitVec.ofNat 64 (leNat b)) 0xFF#8 s.cfg.unlock s.spent)) ∧
  (∀ (s : State) (a : Nat) (b0 b1 b2 b3 : Byte), s.reached = true → a ∈ [0x0, 0x4, 0x8, 0x10, 0x14, 0x1C, 0x1008,
     0x1010, 0x1014, 0x101C, 0x1020, 0x3200, 0xD034, 0x11020] → exec (.bar0Write a [some b0, some b1, some b2,
     some b3]) s = .next s.spent) ∧
  (∀ (s : State) (a : Nat) (b : List (Option Byte)), s.reached = true → a + b.length ≤ 0x1000000 →
     exec (.bar0Write a b) s = .next (tlpAccesses a b s.cfg.unlock s.spent)) ∧
  (∀ (s : State) (a : Nat) (b : List (Option Byte)), 0x1000000 < a + b.length → exec (.bar0Write a b) s =
     .fault (.outsideBar 0 a)) ∧
  (∀ (s : State) (v : Word), s.reached = true → exec (.regAliasWrite .set 0x18 v 0xF#4) s = .next { s.spent with
         dev := { s.dev with scratch := s.dev.scratch ||| v } } ∧ exec (.regAliasWrite .clear 0x18 v 0xF#4) s =
     .next { s.spent with dev := { s.dev with scratch := s.dev.scratch &&& ~~~v } } ∧
     exec (.regAliasWrite .toggle 0x18 v 0xF#4) s = .next { s.spent with
         dev := { s.dev with scratch := s.dev.scratch ^^^ v } }) ∧
  (∀ (s : State) (b0 b1 b2 b3 : Byte), s.reached = true → exec (.bar0Write 0x400018 [some b0, some b1, some b2,
     some b3]) s = exec (.regAliasWrite .set 0x18 (b3 ++ b2 ++ b1 ++ b0) 0xF#4) s ∧
     exec (.bar0Write 0xC00018 [some b0, some b1, some b2, some b3]) s =
     exec (.regAliasWrite .toggle 0x18 (b3 ++ b2 ++ b1 ++ b0) 0xF#4) s) ∧
  (∀ (s : State) (op : AliasOp) (a : Nat) (v : Word) (be : BitVec 4), s.reached = true → a % 4 = 0 → a < 0x20000 →
     wideReg (a / 8 * 8) s.spent = none → isSpecial a = true → be ≠ 0xF#4 → ∃ t, exec (.regAliasWrite op a v be) s =
     .next t ∧ State.raises [(1, 1)] s.spent t) ∧
  (∀ (s : State) (op : AliasOp) (a : Nat) (v : Word) (be : BitVec 4), s.reached = true → a < 0x400000 →
     exec (.regAliasWrite op a v be) s = .next (aliasAccess op (a / 4 * 4) v be s.spent)) ∧
  (∀ (s : State) (op : AliasOp) (a : Nat) (v : Word) (be : BitVec 4), 0x400000 ≤ a →
     exec (.regAliasWrite op a v be) s = .fault (.outsideBar 0 a))

/-- FLT_SEV_WRITE with an unlock of class 4 at full width changes the writable severity fields and nothing else; FLT_CTRL_WRITE sets EXT_EN and FAULTN_SEV and feeds FAULT_IN_N to F38; FLT_STATUS_CLEAR clears exactly the written status bits whose condition is not live; FLT_HIST_POP with bit 0 removes the oldest history entry. A narrow FLT_SEV_WRITE is ignored with ACCESS_WIDTH, one without its unlock class is refused with REG_WRITE_REFUSED, and either way the pending unlock is consumed. -/
def Obligations.FaultRegisterWrites : Prop :=
  (∀ (s : State) (i : Fin 4) (v : Word), s.reached = true → s.cfg.unlock = 4 → exec (.fltSevWrite i v 0xF#4) s =
     .next { s.spent with
         flt := { s.flt with sev := tabMod s.flt.sev i.val fun w => mergeBits w v 0xF#4 (sevWritable s.dev.variant i.val) } }) ∧
  (∀ (s : State) (i : Fin 4) (v : Word) (be : BitVec 4), s.reached = true → be ≠ 0xF#4 → ∃ t,
     exec (.fltSevWrite i v be) s = .next t ∧ s.spent.raises [(1, 1)] t) ∧
  (∀ (s : State) (i : Fin 4) (v : Word), s.reached = true → s.cfg.unlock ≠ 4 → ∃ t,
     exec (.fltSevWrite i v 0xF#4) s = .next t ∧ s.spent.raises [(1, 0)] t) ∧
  (∀ (s : State) (v : Word), s.reached = true → s.cfg.unlock = 4 → exec (.fltCtrlWrite v 0xF#4) s =
     .next (updateFaultN (feedExt { s.spent with
         flt := { s.flt with extEn := v.getLsbD 8, faultnSev := bitsOf 5 4 v.toNat } }))) ∧
  (∀ (s : State) (hi : Bool) (v : Word), s.reached = true → ∃ t, exec (.fltStatusClear hi v 0xF#4) s = .next t ∧
     t.flt.status =
     s.flt.status &&& ~~~((if hi then v.zeroExtend 64 <<< 32 else v.zeroExtend 64) &&& ~~~(liveMask s.spent)) ∧ t =
     { s.spent with
         flt := { s.flt with status := t.flt.status, contained := t.flt.contained, faultN := t.flt.faultN } }) ∧
  (∀ (s : State) (v : Word), s.reached = true → v.getLsbD 0 = true → exec (.fltHistPop v 0xF#4) s =
     .next { s.spent with flt := { s.flt with hist := s.flt.hist.drop 1 } })

/-- DIE_TEMP_SAMPLE, 1 ms or more after the last, records the temperature: at or below 105 degrees it ends the conditions of F21 and F22, above 110 degrees it begins F21's. RAIL_MONITOR makes F23 live for a rail that was in range; a VIO bank below 0.3 V counts as unpowered instead, and F23 does not watch it. RAIL_BACK_IN_RANGE ends F23 with the last bad rail, and the bank is powered. EXT_FAULT_IN and EXT_FAULT_IN_END follow FAULT_IN_N into F38 while EXT_EN is set. COLLECTOR_PARITY signals F0, reloads the collector and rebuilds its status bits. TRIGOUT_CONTENTION signals F34 for a driven pin, once while the pin keeps its level. Without the condition nothing changes. -/
def Obligations.FaultConditions : Prop :=
  (∀ (s : State) (x : BitVec 16), s.dev.tempAt + msTicks s ≤ s.tm.tick → x.toInt ≤ 1680 →
     exec (.dieTempSample x) s = .next (goDead 22 (goDead 21 { s with
         dev := { s.dev with dieTemp := x, tempAt := s.tm.tick } }))) ∧
  (∀ (s : State) (x : BitVec 16), s.dev.tempAt + msTicks s ≤ s.tm.tick → 1760 < x.toInt → x.toInt ≤ 1840 →
     exec (.dieTempSample x) s = .next (goDead 22 (goLive 21 (x.zeroExtend 32) { s with
         dev := { s.dev with dieTemp := x, tempAt := s.tm.tick } }))) ∧
  (∀ (s : State) (x : BitVec 16), s.dev.tempAt + msTicks s ≤ s.tm.tick → 2000 < x.toInt → ∃ u, u =
     goLive 21 (x.zeroExtend 32) { s with dev := { s.dev with dieTemp := x, tempAt := s.tm.tick } } ∧
     exec (.dieTempSample x) s = .next (goLive 22 (liveInfo 22 u) u)) ∧
  (∀ (s : State) (x : BitVec 16), s.dev.tempAt + msTicks s ≤ s.tm.tick → 1680 < x.toInt → x.toInt ≤ 1760 →
     exec (.dieTempSample x) s = .next (goDead 22 { s with dev := { s.dev with dieTemp := x, tempAt := s.tm.tick } })) ∧
  (∀ (s : State) (x : BitVec 16), s.dev.tempAt + msTicks s ≤ s.tm.tick → 1840 < x.toInt → x.toInt ≤ 2000 →
     exec (.dieTempSample x) s = .next (goLive 21 (x.zeroExtend 32) { s with
         dev := { s.dev with dieTemp := x, tempAt := s.tm.tick } })) ∧
  (∀ (s : State) (x : BitVec 16), s.tm.tick < s.dev.tempAt + msTicks s → exec (.dieTempSample x) s = .next s) ∧
  (∀ (s : State) (r : Nat), r ≤ 10 → r ∉ s.dev.badRails → exec (.railMonitor ⟨r, false⟩) s =
     .next (goLive 23 (BitVec.ofNat 32 r) { s with
         dev := { s.dev with vioOff := withoutMask (bankMask r) s.dev.vioOff, badRails := s.dev.badRails ++ [r] } })) ∧
  (∀ (s : State) (r : Nat), r ∈ s.dev.badRails → exec (.railMonitor ⟨r, false⟩) s = .next { s with
         dev := { s.dev with vioOff := withoutMask (bankMask r) s.dev.vioOff } }) ∧
  (∀ (s : State) (b : Fin 4), b ≠ 3 → ∃ t, exec (.railMonitor ⟨6 + b.val, true⟩) s = .next t ∧ t.dev.vioOff =
     s.dev.vioOff ||| 2 ^ b.val ∧ t.dev.badRails = s.dev.badRails.filter (· ≠ 6 + b.val)) ∧
  (∀ (s : State) (r : Nat), s.dev.badRails = [r] → exec (.railBackInRange r) s = .next (goDead 23 { s with
         dev := { s.dev with vioOff := withoutMask (bankMask r) s.dev.vioOff, badRails := [] } })) ∧
  (∀ (s : State), s.flt.extEn = true → bankOn .faultInN s = true → exec .extFaultIn s = .next (goLive 38 0 { s with
         flt := { s.flt with faultInLow := true } })) ∧
  (∀ (s : State), exec .extFaultInEnd s = .next (goDead 38 { s with flt := { s.flt with faultInLow := false } })) ∧
  (∀ (s : State), s.flt.on = true → ∃ t, exec .collectorParity s = .next t ∧ t.flt.sev = sevReset t.dev.variant ∧
     t.flt.faultnSev = 3 ∧ t.flt.extEn = true ∧ t.flt.status =
     liveMask t ||| BitVec.ofNat 64 (maskOf (t.flt.hist.map fun e => e.source)) ||| 1 ∧ t.flt.faultN = faultNDriven t) ∧
  (∀ (s : State) (x : Fin 4), trigDriven x.val s = true → (contendedPins s).testBit x.val = false →
     exec (.trigoutContention x) s = .next (signalUnit 34 (BitVec.ofNat 32 (2 ^ x.val)) x.val { s with
         trigout := tabMod s.trigout x.val fun t => { t with contended := trigLevel x.val s } })) ∧
  (∀ (s : State) (x : Fin 4), (contendedPins s).testBit x.val = true → exec (.trigoutContention x) s = .next s)

/-- While the collector runs, an occurrence of a source the variant has whose status bit is clear, with severity RECORD or NOTIFY in force, sets its status bit, counts the latch, records its severity and leaves everything outside the fault collector and what an event writes unchanged; NOTIFY raises FAULT_LATCHED as well. While its status bit is set, or the variant lacks it, or the collector does not run, nothing changes. FLT_SAFE_RELEASE written with 1 and an unlock of class 2 while releasable, with no Ridgeline port UP, ends the safe state: acquisition is IDLE, packets may open again, and SAFE_EXITED is raised; while not releasable the release is refused with its event and nothing else changes; with ports UP the release is the model's releaseSafe, which also retrains them. -/
def Obligations.FaultLatching : Prop :=
  (∀ (s : State) (f : Nat) (info : Word) (unit : Nat), s.flt.on = true → hasSource s.dev.variant f = true → f ≠ 0 →
     s.flt.status.getLsbD f = false → sevInForce f s = .record → (signalUnit f info unit s).flt.status =
     s.flt.status ||| BitVec.ofNat 64 (2 ^ f) ∧ (signalUnit f info unit s).flt.latchCnt = s.flt.latchCnt + 1 ∧
     (signalUnit f info unit s).flt.latched = tabMod s.flt.latched f (fun _ => Severity.record) ∧
     ({ signalUnit f info unit s with flt := s.flt } : State).hushed = s.hushed) ∧
  (∀ (s : State) (f : Nat) (info : Word) (unit : Nat), s.flt.on = true → hasSource s.dev.variant f = true → f ≠ 0 →
     s.flt.status.getLsbD f = false → sevInForce f s = .notify → (signalUnit f info unit s).flt.status =
     s.flt.status ||| BitVec.ofNat 64 (2 ^ f) ∧ (signalUnit f info unit s).flt.latchCnt = s.flt.latchCnt + 1 ∧
     (signalUnit f info unit s).rawBit 1 4 = true ∧ ({ signalUnit f info unit s with flt := s.flt } : State).hushed =
     s.hushed) ∧
  (∀ (s : State) (f : Nat) (info : Word) (unit : Nat), s.flt.on = false ∨ hasSource s.dev.variant f =
     false ∨ s.flt.status.getLsbD f = true → signalUnit f info unit s = s) ∧
  (∀ (s : State), s.reached = true → s.cfg.unlock = 2 → releasable s.spent = true → (∀ p < 3,
     (portOf s p).state ≠ .up) → ∃ t, exec (.fltSafeRelease 1 0xF#4) s = .next t ∧ t.dev = { s.dev with
         safe := false, acq := .idle } ∧ t.eq = { s.eq with safeHold := false } ∧ t.rawBit 1 7 = true ∧
     t.flt.status = s.flt.status &&& ~~~(safeBits s) ∧ t.ring = s.ring ∧ t.tal = s.tal ∧ t.rl = s.rl ∧ t.summit =
     s.summit) ∧
  (∀ (s : State), s.reached = true → s.cfg.unlock = 2 → releasable s.spent = true →
     exec (.fltSafeRelease 1 0xF#4) s = .next (releaseSafe s.spent)) ∧
  (∀ (s : State), s.reached = true → s.cfg.unlock = 2 → releasable s.spent = false → ∃ t,
     exec (.fltSafeRelease 1 0xF#4) s = .next t ∧ s.spent.raises [(1, 8)] t)

/-- SRAM_ECC_ERROR counts a corrected word, and F11 arises once CE_LIMIT is passed in an interval; an uncorrectable word counts and raises G1.10, and by its memory ends the mailbox command, resets the export queue, or loses a block, a row, a frame or a log entry. SRAM_CE_INTERVAL, 250,000,000 ticks after the interval began, begins a new one. SCRUB_PASS_DONE counts a pass that has read everything, with G15.13 and its length, meets the injected errors and begins the next pass under the settings then in force; SCRUB_LATE raises G15.14 once for a pass that has lasted more than twice its PASS_S. MARCH_RUN starts the march it is asked for, or completes BAD_ARG or BUSY; MARCH_DONE raises what it found and completes. At start-up MARCH_DONE gives what the tests of a memory found: G15.11 of a repair, G15.12 of a failure that survives it, which in memories 1 to 9 is kept for F10. That the row carries it is the model's choice (log entry 80). Which step meets an injected error, and when F11 is judged, are the model's readings (log entries 27 and 49). -/
def Obligations.MemoryErrors : Prop :=
  (∀ (s : State) (mem word unit : Nat), 1 ≤ mem → mem ≤ 9 → word < memWords s.dev.variant mem → mem ≠ 7 →
     s.mem.ceCount < s.mem.ceLimit ∨ s.mem.ceSignalled = true → exec (.sramEccError mem word unit false) s =
     .next { s with
         flt := { s.flt with sramCe := s.flt.sramCe + 1 }, mem := { s.mem with ceCount := s.mem.ceCount + 1, corrupt := s.mem.corrupt.filter fun c => !(c.1 == mem && c.2.1 == word) } }) ∧
  (∀ (s : State) (mem word unit : Nat), 1 ≤ mem → mem ≤ 9 → word < memWords s.dev.variant mem → mem ≠ 7 →
     s.mem.ceLimit ≤ s.mem.ceCount → s.mem.ceSignalled = false → ∃ t, exec (.sramEccError mem word unit false) s =
     .next t ∧ t.flt.sramCe = s.flt.sramCe + 1 ∧ t.mem.ceCount = s.mem.ceCount + 1 ∧ t.mem.ceSignalled = true ∧
     (s.flt.on = true → t.flt.status.getLsbD 11 = true) ∧ t.cfg = s.cfg ∧ t.tm = s.tm) ∧
  (∀ (s : State) (mem word unit : Nat), 1 ≤ mem → mem ≤ 9 → word < memWords s.dev.variant mem → ∃ t,
     exec (.sramEccError mem word unit true) s = .next t ∧ t.flt.sramUe = s.flt.sramUe + 1 ∧ t.flt.sramCe =
     s.flt.sramCe ∧ t.rawBit 1 10 = true ∧ (s.flt.on = true → t.flt.status.getLsbD 10 = true) ∧ t.tm = s.tm) ∧
  (∀ (s : State) (mem word unit : Nat), mem = 3 → word < 524288 → ∃ t, exec (.sramEccError mem word unit true) s =
     .next t ∧ t.eq.resetting = true ∧ t.eq.resetCnt = s.eq.resetCnt + 1 ∧ t.rawBit 9 3 = true ∧ t.rawBit 1 10 =
     true ∧ t.flt.sramUe = s.flt.sramUe + 1) ∧
  (∀ (s : State) (word : Nat) (m : Fin 8), word < 32768 → (mbOf s m.val).state = .running → (mbOf s m.val).tunnel =
     none → ∃ t, exec (.sramEccError 2 word m.val true) s = .next t ∧ t.answered m.val stInternal ∧
     t.rawBit 0 m.val = true ∧ t.rawBit 1 10 = true ∧ t.flt.sramUe = s.flt.sramUe + 1) ∧
  (∀ (s : State) (word unit : Nat) (b : Bool), word < 8192 → ∃ t, exec (.sramEccError 7 word unit b) s = .next t ∧
     t.flt.sramUe = s.flt.sramUe + 1 ∧ t.flt.sramCe = s.flt.sramCe ∧ t.rawBit 1 10 = true) ∧
  (∀ (s : State) (mem word unit : Nat) (b : Bool), mem = 0 ∨ 9 < mem ∨ memWords s.dev.variant mem ≤ word →
     exec (.sramEccError mem word unit b) s = .next s) ∧
  (∀ (s : State), s.mem.ceFrom + 250000000 ≤ s.tm.tick → s.mem.ceCount ≤ s.mem.ceLimit ∨ s.mem.ceSignalled = true →
     exec .sramCeInterval s = .next { s with
         mem := { s.mem with ceCount := 0, ceFrom := s.tm.tick, ceSignalled := false } }) ∧
  (∀ (s : State), s.tm.tick < s.mem.ceFrom + 250000000 → exec .sramCeInterval s = .next s) ∧
  (∀ (s : State), s.mem.ceFrom + 250000000 ≤ s.tm.tick → s.mem.ceLimit < s.mem.ceCount → s.mem.ceSignalled =
     false → s.flt.on = true → ∃ t, exec .sramCeInterval s = .next t ∧ t.mem.ceCount = 0 ∧ t.mem.ceSignalled =
     false ∧ t.flt.status.getLsbD 11 = true) ∧
  (∀ (s : State) (p : Fin 11) (b n u : Nat), scrubRuns p.val s = true → passRead p.val s = true →
     (scrubOf p.val s).run = some (b, n) → (∀ c ∈ s.mem.corrupt, c.1 ≠ p.val) → ∃ t, exec (.scrubPassDone p u) s =
     .next t ∧ State.raises [(15, 13)] (rewindScrub p.val { s with
         mem := { s.mem with scrub := tabMod s.mem.scrub p.val fun x => { x with passes := (x.passes + 1) % 4294967296, lastMs := (s.tm.tick - b) / msTicks s % 4294967296, late := false, run := if x.enable then some (s.tm.tick, x.passS) else none } } }) t) ∧
  (∀ (s : State) (p : Fin 11), rewindScrub 0 s = { s with ring := { s.ring with scrubPos := 0 } } ∧
     rewindScrub 10 s = { s with tal := { s.tal with scrubPos := 0, scrubRest := 0 } } ∧ (p.val ≠ 0 → p.val ≠ 10 →
     rewindScrub p.val s = s)) ∧
  (∀ (s : State) (p : Fin 11) (w b n u : Nat), scrubRuns p.val s = true → (scrubOf p.val s).run = some (b, n) →
     p.val = 4 → s.mem.corrupt = [(4, w, 1)] → s.mem.ceCount < s.mem.ceLimit → ∃ t, exec (.scrubPassDone p u) s =
     .next t ∧ t.mem.corrupt = [] ∧ t.flt.sramCe = s.flt.sramCe + 1 ∧ (scrubOf p.val t).passes =
     ((scrubOf p.val s).passes + 1) % 4294967296 ∧ t.rawBit 15 13 = true) ∧
  (∀ (s : State) (p : Fin 11) (b n : Nat), (scrubOf p.val s).run = some (b, n) → (scrubOf p.val s).late = false →
     b + 2000 * msTicks s * n < s.tm.tick → ∃ t, exec (.scrubLate p) s = .next t ∧ State.raises [(15, 14)] { s with
         mem := { s.mem with scrub := tabMod s.mem.scrub p.val fun x => { x with late := true } } } t) ∧
  (∀ (s : State) (p : Fin 11) (b n : Nat), (scrubOf p.val s).run = some (b, n) → (scrubOf p.val s).late =
     true ∨ s.tm.tick ≤ b + 2000 * msTicks s * n → exec (.scrubLate p) s = .next s) ∧
  (∀ (s : State) (p : Fin 11) (u : Nat), scrubRuns p.val s = false ∨ passRead p.val s = false →
     exec (.scrubPassDone p u) s = .next s) ∧
  (∀ (s : State) (m : Fin 8), s.serves m.val 0x0901 = true → (s.arg m.val 0 1) ≤ 9 → zeroAt (s.request m.val) 3 1 =
     true → zeroAt (s.request m.val) 24 232 = true → s.arg m.val 8 8 < memWords s.dev.variant (s.arg m.val 0 1) →
     s.arg m.val 8 8 + s.arg m.val 16 8 ≤ memWords s.dev.variant (s.arg m.val 0 1) → s.arg m.val 1 1 = 0 →
     s.arg m.val 4 4 = 0 → s.arg m.val 2 1 ≤ 1 → s.mem.march = none → exec (.marchRun m) s = .next { s with
         mem := { s.mem with march := some { mb := m.val, mem := (s.arg m.val 0 1), kind := 0, flags := s.arg m.val 2 1, start := s.arg m.val 8 8, count := (if s.arg m.val 16 8 = 0 then memWords s.dev.variant (s.arg m.val 0 1) - s.arg m.val 8 8 else s.arg m.val 16 8) } } }) ∧
  (∀ (s : State) (m : Fin 8), s.serves m.val 0x0901 = true → (s.arg m.val 0 1) ≤ 9 → zeroAt (s.request m.val) 3 1 =
     true → zeroAt (s.request m.val) 24 232 = true → s.arg m.val 8 8 < memWords s.dev.variant (s.arg m.val 0 1) →
     s.arg m.val 8 8 + s.arg m.val 16 8 ≤ memWords s.dev.variant (s.arg m.val 0 1) → (s.arg m.val 0 1) = 0 →
     s.arg m.val 1 1 = 1 → s.arg m.val 4 4 = 0x4843524D → s.arg m.val 2 1 ≤ 3 → s.mem.march = none → s.dev.acq =
     .idle → occupied s.eq = 0 → ∃ t, exec (.marchRun m) s = .next t ∧ t.mem.march =
     some { mb := m.val, mem := 0, kind := 1, flags := s.arg m.val 2 1, start := s.arg m.val 8 8, count := (if s.arg m.val 16 8 = 0 then memWords s.dev.variant (s.arg m.val 0 1) - s.arg m.val 8 8 else s.arg m.val 16 8) } ∧
     t.ring.mem = [] ∧ t.ring.X = s.ring.W ∧ t.ring.W = s.ring.W ∧ t.mb = s.mb ∧ t.cmp = s.cmp) ∧
  (∀ (s : State) (m : Fin 8), s.serves m.val 0x0901 = true → (s.arg m.val 0 1) ≤ 9 → zeroAt (s.request m.val) 3 1 =
     true → zeroAt (s.request m.val) 24 232 = true → s.arg m.val 8 8 < memWords s.dev.variant (s.arg m.val 0 1) →
     s.arg m.val 8 8 + s.arg m.val 16 8 ≤ memWords s.dev.variant (s.arg m.val 0 1) → s.arg m.val 1 1 = 1 →
     s.arg m.val 4 4 = 0x4843524D → s.arg m.val 2 1 ≤ 1 → s.mem.march ≠ none ∨ memBusy (s.arg m.val 0 1) s = true →
     ∃ t, exec (.marchRun m) s = .next t ∧ s.completes m.val stBusy 0 [] t) ∧
  (∀ (s : State) (m : Fin 8), s.serves m.val 0x0901 = true →
     9 < (s.arg m.val 0 1) ∨ memWords s.dev.variant (s.arg m.val 0 1) ≤ s.arg m.val 8 8 ∨ (s.arg m.val 1 1 = 1 ∧
     s.arg m.val 4 4 ≠ 0x4843524D) → ∃ t, exec (.marchRun m) s = .next t ∧ s.completes m.val stBadArg 0 [] t) ∧
  (∀ (s : State) (m : Fin 8) (c : March) (r f n : Nat), s.mem.march = some c → c.mb = m.val →
     s.serves m.val 0x0901 = true → ∃ (u t : State), exec (.marchDone m 0 r f n) s = .next t ∧ State.raises [(15,
     9)] { s with mem := { s.mem with march := none } } u ∧
     u.completes m.val stOk 0 (leBytes 4 0 ++ leBytes 4 0 ++ leBytes 8 0xFFFFFFFFFFFFFFFF ++ leBytes 4 n) t) ∧
  (∀ (s : State) (m : Fin 8) (c : March) (k r f n : Nat), s.mem.march = some c → c.mb = m.val →
     s.serves m.val 0x0901 = true → 0 < k → c.flags.testBit 0 = false → ∃ (u t : State),
     exec (.marchDone m k r f n) s = .next t ∧ State.raises [(15, 9), (15, 10)] { s with
         mem := { s.mem with march := none } } u ∧
     u.completes m.val stOk 0 (leBytes 4 k ++ leBytes 4 0 ++ leBytes 8 f ++ leBytes 4 n) t) ∧
  (∀ (s : State) (m : Fin 8) (c : March) (k r f n : Nat), s.mem.march = some c → c.mb = m.val →
     s.serves m.val 0x0901 = true → 0 < k → k ≤ r → c.flags.testBit 0 = true → ∃ (u t : State),
     exec (.marchDone m k r f n) s = .next t ∧ State.raises [(15, 9), (15, 10), (15, 11)] { s with
         mem := { s.mem with march := none } } u ∧
     u.completes m.val stOk 0 (leBytes 4 k ++ leBytes 4 k ++ leBytes 8 f ++ leBytes 4 n) t) ∧
  (∀ (s : State) (m : Fin 8) (c : March) (k r f n : Nat), s.mem.march = some c → c.mb = m.val →
     s.serves m.val 0x0901 = true → r < k → c.flags.testBit 0 = true → ∃ t, exec (.marchDone m k r f n) s = .next t ∧
     t.mem.march = none ∧ t.answered m.val stOk ∧ t.rawBit 15 9 = true ∧ t.rawBit 15 10 = true ∧ t.rawBit 15 12 =
     true ∧ (c.mem ≠ 0 → s.flt.on = true → t.flt.status.getLsbD 10 = true)) ∧
  (∀ (s : State) (m : Fin 8) (k r f n : Nat), s.mem.march.all (fun c => c.mb != m.val) = true →
     s.mem.march.isSome = true ∨ startTests s = false → exec (.marchDone m k r f n) s = .next s) ∧
  (∀ (s : State) (m : Fin 8) (r f n : Nat), s.mem.march = none → startTests s = true →
     exec (.marchDone m 0 r f n) s = .next s) ∧
  (∀ (s : State) (m : Fin 8) (k r f n : Nat), s.mem.march = none → startTests s = true → k ≠ 0 → k ≤ r → ∃ t,
     exec (.marchDone m k r f n) s = .next t ∧ State.raises [(15, 11)] s t) ∧
  (∀ (s : State) (m : Fin 8) (k r f n : Nat), s.mem.march = none → startTests s = true → r < k → 1 ≤ f / 2 ^ 27 →
     f / 2 ^ 27 ≤ 9 → ∃ t, exec (.marchDone m k r f n) s = .next t ∧ t.mem.failed =
     s.mem.failed ++ [BitVec.ofNat 32 f] ∧ State.raises (if r = 0 then [(15, 12)] else [(15, 11), (15,
     12)]) s { t with mem := s.mem }) ∧
  (∀ (s : State) (m : Fin 8) (k r f n : Nat), s.mem.march = none → startTests s = true → r < k → f / 2 ^ 27 = 0 →
     ∃ t, exec (.marchDone m k r f n) s = .next t ∧ State.raises (if r = 0 then [(15, 12)] else [(15, 11), (15,
     12)]) s t)

/-- DEV_SELFTEST notes the tests asked for, and completes BAD_ARG or STATE where it may not run them; SELFTEST_DONE raises G15.15 and answers the tests run and failed. SCRUB_CFG sets or reads the settings of one memory. FAULT_INJECT corrupts a word, or latches a source with its severity in force, marked as injected. LOG_READ answers the oldest sequence number and up to seven entries from the one asked for. DEV_INFO answers the device's identity. That CE_LIMIT applies at once, that a WORD beyond its memory is BAD_ARG, and when a march acts are the model's choices (log entries 65, 66 and 50). -/
def Obligations.IntegrityCommands : Prop :=
  (∀ (s : State) (m : Fin 8), s.serves m.val 0x0002 = true → 0 < s.arg m.val 0 1 ∧ s.arg m.val 0 1 ≤ 31 →
     zeroAt (s.request m.val) 1 255 = true → ((s.arg m.val 0 1).testBit 3 = true → s.dev.acq = .idle) →
     exec (.devSelftest m) s = .next { s with
         mem := { s.mem with tests := s.mem.tests ++ [(m.val, s.arg m.val 0 1)] } }) ∧
  (∀ (s : State) (m : Fin 8), s.serves m.val 0x0002 = true → s.arg m.val 0 1 = 0 ∨ 31 < s.arg m.val 0 1 → ∃ t,
     exec (.devSelftest m) s = .next t ∧ s.completes m.val stBadArg 0 [] t) ∧
  (∀ (s : State) (m : Fin 8), s.serves m.val 0x0002 = true → s.arg m.val 0 1 ≤ 31 →
     zeroAt (s.request m.val) 1 255 = true → (s.arg m.val 0 1).testBit 3 = true → s.dev.acq ≠ .idle → ∃ t,
     exec (.devSelftest m) s = .next t ∧ s.completes m.val stState 0 [] t) ∧
  (∀ (s : State) (m : Fin 8) (x b : Byte), s.serves m.val 0x0002 = true → s.mem.tests.find? (fun t => t.1 ==
     m.val) = some (m.val, x.toNat) → b &&& x = 0 → ∃ (u t : State), exec (.selftestDone m b) s = .next t ∧
     State.raises [(15, 15)] { s with mem := { s.mem with tests := s.mem.tests.filter fun t => t.1 != m.val } } u ∧
     u.completes m.val stOk 0 [x, 0] t) ∧
  (∀ (s : State) (m : Fin 8) (x b : Byte), s.serves m.val 0x0002 = true → s.mem.tests.find? (fun t => t.1 ==
     m.val) = some (m.val, x.toNat) → (b &&& x).getLsbD 0 = true → s.flt.on = true → ∃ t,
     exec (.selftestDone m b) s = .next t ∧ t.answered m.val stOk ∧ memByte t.summit.scratchpad (256 * m.val) = x ∧
     memByte t.summit.scratchpad (256 * m.val + 1) = b &&& x ∧ t.rawBit 15 15 = true ∧ t.flt.status.getLsbD 31 = true) ∧
  (∀ (s : State) (m : Fin 8) (b : Byte), s.mem.tests.find? (fun t => t.1 == m.val) = none →
     exec (.selftestDone m b) s = .next s) ∧
  (∀ (s : State) (m : Fin 8), s.serves m.val 0x0902 = true → s.arg m.val 1 1 ≤ 10 → s.arg m.val 2 1 ≤ 1 →
     zeroAt (s.request m.val) 3 1 = true → 0 < s.arg m.val 4 4 ∧ s.arg m.val 4 4 ≤ 604800 → 0 < s.arg m.val 8 2 →
     zeroAt (s.request m.val) 10 246 = true → s.arg m.val 0 1 = 0 → ∃ (u t : State), u = { s with
         mem := { s.mem with ceLimit := s.arg m.val 8 2, scrub := tabMod s.mem.scrub (s.arg m.val 1 1) fun x => { x with enable := s.arg m.val 2 1 == 1, passS := s.arg m.val 4 4, run := match x.run with | some r => some r | none => if s.arg m.val 2 1 == 1 then some (s.tm.tick, s.arg m.val 4 4) else none } } } ∧
     exec (.scrubCfg m) s = .next t ∧ u.completes m.val stOk 0 (scrubReply 0 (s.arg m.val 1 1) u) t) ∧
  (∀ (s : State) (m : Fin 8), s.serves m.val 0x0902 = true → s.arg m.val 1 1 ≤ 10 → s.arg m.val 2 1 ≤ 1 →
     zeroAt (s.request m.val) 3 1 = true → 0 < s.arg m.val 4 4 ∧ s.arg m.val 4 4 ≤ 604800 → 0 < s.arg m.val 8 2 →
     zeroAt (s.request m.val) 10 246 = true → s.arg m.val 0 1 = 1 → ∃ t, exec (.scrubCfg m) s = .next t ∧
     s.completes m.val stOk 0 (scrubReply 1 (s.arg m.val 1 1) s) t) ∧
  (∀ (s : State) (m : Fin 8), s.serves m.val 0x0902 = true → 10 < s.arg m.val 1 1 ∨ s.arg m.val 4 4 =
     0 ∨ 604800 < s.arg m.val 4 4 → ∃ t, exec (.scrubCfg m) s = .next t ∧ s.completes m.val stBadArg 0 [] t) ∧
  (∀ (s : State) (m : Fin 8), s.serves m.val 0x0903 = true → zeroAt (s.request m.val) 16 240 = true →
     s.arg m.val 0 1 = 1 → 1 ≤ s.arg m.val 2 1 → s.arg m.val 2 1 ≤ 9 → 1 ≤ s.arg m.val 3 1 → s.arg m.val 3 1 ≤ 2 →
     s.arg m.val 8 8 < memWords s.dev.variant (s.arg m.val 2 1) → ∃ (u t : State), u = { s with
         mem := { s.mem with corrupt := s.mem.corrupt.filter (fun c => !(c.1 == s.arg m.val 2 1 && c.2.1 == s.arg m.val 8 8)) ++ [(s.arg m.val 2 1, s.arg m.val 8 8, s.arg m.val 3 1)] } } ∧
     exec (.faultInject m) s = .next t ∧ u.completes m.val stOk 0 [] t) ∧
  (∀ (s : State) (m : Fin 8), s.serves m.val 0x0903 = true → zeroAt (s.request m.val) 16 240 = true →
     s.arg m.val 0 1 = 1 → s.arg m.val 2 1 = 0 → s.arg m.val 3 1 = 2 → s.arg m.val 8 8 < memWords s.dev.variant 0 →
     ∃ (u t : State), u = { s with
         ring := { s.ring with ceLines := s.ring.ceLines.filter (fun w => w ≠ s.arg m.val 8 8), ueLines := s.ring.ueLines.filter (fun w => w ≠ s.arg m.val 8 8) ++ [s.arg m.val 8 8] } } ∧
     exec (.faultInject m) s = .next t ∧ u.completes m.val stOk 0 [] t) ∧
  (∀ (s : State) (m : Fin 8), s.serves m.val 0x0903 = true → zeroAt (s.request m.val) 16 240 = true →
     s.arg m.val 0 1 = 0 → s.arg m.val 1 1 ≤ 38 → hasSource s.dev.variant (s.arg m.val 1 1) = true →
     s.arg m.val 1 1 ≠ 34 → s.arg m.val 1 1 ≠ 15 → s.arg m.val 1 1 ≠ 10 → s.arg m.val 1 1 ≠ 0 → s.flt.on = true →
     s.flt.status.getLsbD (s.arg m.val 1 1) = false → sevInForce (s.arg m.val 1 1) s = .notify → ∃ (u t : State), u =
     signalWith (s.arg m.val 1 1) (BitVec.ofNat 32 (s.arg m.val 4 4)) 8 true .notify s ∧
     u.flt.status.getLsbD (s.arg m.val 1 1) = true ∧ u.flt.latchCnt = s.flt.latchCnt + 1 ∧ u.rawBit 1 4 = true ∧
     u.dev = s.dev ∧ exec (.faultInject m) s = .next t ∧ u.completes m.val stOk 0 [] t) ∧
  (∀ (s : State) (m : Fin 8), s.serves m.val 0x0903 = true → zeroAt (s.request m.val) 16 240 = true →
     s.arg m.val 0 1 = 0 → s.arg m.val 1 1 ≤ 38 → hasSource s.dev.variant (s.arg m.val 1 1) = false → ∃ t,
     exec (.faultInject m) s = .next t ∧ s.completes m.val stUnsupported 0 [] t) ∧
  (∀ (s : State) (m : Fin 8), s.serves m.val 0x0903 = true → 1 < s.arg m.val 0 1 ∨ (s.arg m.val 0 1 = 0 ∧
     38 < s.arg m.val 1 1) → ∃ t, exec (.faultInject m) s = .next t ∧ s.completes m.val stBadArg 0 [] t) ∧
  (∀ (s : State) (m : Fin 8) (k : Nat), s.serves m.val 0x0003 = true → 0 < s.arg m.val 4 1 ∧ s.arg m.val 4 1 ≤ 7 →
     zeroAt (s.request m.val) 5 251 = true → s.evt.log.length ≤ 4096 → k < s.evt.log.length → s.arg m.val 0 4 =
     ((oldestSeq s) + BitVec.ofNat 32 k).toNat → ∃ t, exec (.logRead m) s = .next t ∧
     s.completes m.val stOk 0 (leBytes 4 (oldestSeq s).toNat ++ leBytes 1 (min (s.arg m.val 4 1) (s.evt.log.length - k)) ++ zeros 27 ++ ((s.evt.log.drop k).take (s.arg m.val 4 1)).flatMap logBytes) t) ∧
  (∀ (s : State) (m : Fin 8), s.serves m.val 0x0003 = true → 0 < s.arg m.val 4 1 ∧ s.arg m.val 4 1 ≤ 7 →
     zeroAt (s.request m.val) 5 251 = true → s.evt.log.length ≤ 4096 → s.arg m.val 0 4 = s.evt.next.toNat → ∃ t,
     exec (.logRead m) s = .next t ∧
     s.completes m.val stOk 0 (leBytes 4 (oldestSeq s).toNat ++ leBytes 1 0 ++ zeros 27) t) ∧
  (∀ (s : State) (m : Fin 8), s.serves m.val 0x0003 = true → s.arg m.val 4 1 = 0 ∨ 7 < s.arg m.val 4 1 → ∃ t,
     exec (.logRead m) s = .next t ∧ s.completes m.val stBadArg 0 [] t) ∧
  (∀ (s : State) (m : Fin 8), s.serves m.val 0x0001 = true → ∃ t, (devInfoBody s).length = 50 ∧
     exec (.devInfo m) s = .next t ∧ s.completes m.val stOk 0 (devInfoBody s) t)

/-- MSIX_SEND of a pending vector, with MSI-X enabled, no mask, Bus Master Enable set and the function in D0, sends the table's address and data and clears the pending bit alone; while one of these fails the vector stays pending and nothing is sent. LTR_ENABLE, where configuration requests are served, stores the settings, and sends the message due when the enable rises in D0; with the enable clear it sends none. A completion whose tag is outstanding is none of CPL_UNEXPECTED's concern. One for a quarantined tag that no FLR abandoned counts late and reports Unexpected Completion, one for an abandoned tag is discarded without being counted, one for any other tag counts bad; TAG_QUARANTINE_END frees that tag once its quarantine is over, and nothing else. INBOUND_POISONED_WRITE of a poisoned write counts, raises G14.8 and reports an uncorrectable error, and one to BAR0 consumes the pending unlock; of a masked error it sets the status bit alone; of a receiver error it counts and raises G14.6; of an ECRC error without checking it changes nothing, nor does any while the device is in reset. That severities are those of AER, and that this row carries the errors besides a poisoned write, are the model's (log entry 78). That BME_SET and LTR_ENABLE carry the other settings of configuration space is the model's reading (log entry 46). -/
def Obligations.EndpointMessages : Prop :=
  (∀ (s : State) (v : Fin 64), s.pcie.pba.getLsbD v.val = true → s.pcie.msixEn = true → s.pcie.funcMask = false →
     (msixWord (4 * v.val + 3) s).getLsbD 0 = false → s.pcie.bme = true → s.pcie.d3hot = false →
     exec (.msixSend v) s = .next { s with
         out := s.out ++ [.msix v.val ((msixWord (4 * v.val) s).toNat + 2 ^ 32 * (msixWord (4 * v.val + 1) s).toNat) (msixWord (4 * v.val + 2) s)], pcie := { s.pcie with inL1 := false, pba := s.pcie.pba &&& ~~~(BitVec.ofNat 64 (2 ^ v.val)) } }) ∧
  (∀ (s : State) (v : Fin 64), s.pcie.pba.getLsbD v.val = false ∨ s.pcie.msixEn = false ∨ s.pcie.funcMask =
     true ∨ (msixWord (4 * v.val + 3) s).getLsbD 0 = true ∨ s.pcie.bme = false ∨ s.pcie.d3hot = true →
     exec (.msixSend v) s = .next s) ∧
  (∀ (s : State) (a b : Nat), configServed s = true → s.pcie.ltrEn = false → s.pcie.d3hot = false → ∃ (u : State),
     u = { s with
         pcie := { s.pcie with ltrEn := true, maxSnoop := a % 2 ^ 13, maxNoSnoop := b % 2 ^ 13, ltrAny := false } } ∧
     exec (.ltrEnable true a b) s = .next { u with
         out := u.out ++ [.ltr (ltrDue u)], pcie := { u.pcie with ltrSent := ltrDue u, ltrAny := true, ltrCapped := decide (ltrCap u < (halfHeadroom u).getD 3000001), ltrBase := some (ringFree u, u.ring.rateBytes), ltrCnt := u.pcie.ltrCnt + 1, inL1 := false } }) ∧
  (∀ (s : State) (a b : Nat), configServed s = true → exec (.ltrEnable false a b) s = .next { s with
         pcie := { s.pcie with ltrEn := false, maxSnoop := a % 2 ^ 13, maxNoSnoop := b % 2 ^ 13 } }) ∧
  (∀ (s : State) (a b c d : Bool) (i j : Nat) (l : LinkCtl), configServed s = false → exec (.ltrEnable a i j) s =
     .next s ∧ exec (.bmeSet a b c d l) s = .next s ∧ exec .bmeCleared s = .next s ∧ exec .d3hotEntry s = .next s ∧
     exec .d3hotExit s = .next s) ∧
  (∀ (s : State) (t : Nat) (a : Nat × Nat), (t, a) ∈ s.pcie.tags → exec (.cplUnexpected t) s = .next s) ∧
  (∀ (s : State) (t a x : Nat), (∀ e ∈ s.pcie.tags, e.1 ≠ t) → s.pcie.quarantine.find? (fun e => e.1 = t) =
     some (t, a, x, false) → s.pcie.aer.uncSev.getLsbD (aerUncBit 1) = false → ∃ u, exec (.cplUnexpected t) s =
     .next u ∧ State.raises [(14, 4), (14, 6)] { s with
         pcie := { s.pcie with lateCplCnt := s.pcie.lateCplCnt + 1, corr := s.pcie.corr + 1, inL1 := false, aer := { s.pcie.aer with uncStat := s.pcie.aer.uncStat ||| BitVec.ofNat 32 (2 ^ aerUncBit 1), corStat := s.pcie.aer.corStat ||| BitVec.ofNat 32 (2 ^ aerCorBit 1) } }, out := s.out ++ [.aer 1] } u) ∧
  (∀ (s : State) (t a x : Nat), (∀ e ∈ s.pcie.tags, e.1 ≠ t) → s.pcie.quarantine.find? (fun e => e.1 = t) =
     some (t, a, x, true) → exec (.cplUnexpected t) s = .next s) ∧
  (∀ (s : State) (t : Nat), (∀ e ∈ s.pcie.tags, e.1 ≠ t) → (∀ e ∈ s.pcie.quarantine, e.1 ≠ t) →
     s.pcie.aer.uncSev.getLsbD (aerUncBit 1) = false → ∃ u, exec (.cplUnexpected t) s = .next u ∧ State.raises [(14,
     4), (14, 6)] { s with
         pcie := { s.pcie with badCplCnt := s.pcie.badCplCnt + 1, corr := s.pcie.corr + 1, inL1 := false, aer := { s.pcie.aer with uncStat := s.pcie.aer.uncStat ||| BitVec.ofNat 32 (2 ^ aerUncBit 1), corStat := s.pcie.aer.corStat ||| BitVec.ofNat 32 (2 ^ aerCorBit 1) } }, out := s.out ++ [.aer 1] } u) ∧
  (∀ (s : State) (t : Nat), ∃ q, exec (.tagQuarantineEnd t) s = .next { s with
         pcie := { s.pcie with quarantine := q } } ∧ ∀ e, e ∈ q ↔ e ∈ s.pcie.quarantine ∧
     (e.1 ≠ t ∨ s.tm.tick < e.2.2.1)) ∧
  (∀ (s : State) (b : Fin 6) (x : Nat), alive s = true → b ≠ 0 → aerMasked 3 s = false → ∃ (u v : State),
     State.raises [(14, 7), (14, 8)] { s with
         pcie := { s.pcie with poison := s.pcie.poison + 1, inL1 := false, aer := { s.pcie.aer with uncStat := s.pcie.aer.uncStat ||| BitVec.ofNat 32 (2 ^ aerUncBit 3) } }, out := s.out ++ [.aer 3] } u ∧
     v = signal 24 0 u ∧ exec (.inboundPoisonedWrite (.poisonedWrite b) x) s = .next v) ∧
  (∀ (s : State) (x : Nat), alive s = true → aerMasked 3 s = false → ∃ (u v : State), State.raises [(14, 7), (14,
     8)] { s.spent with
         pcie := { s.pcie with poison := s.pcie.poison + 1, inL1 := false, aer := { s.pcie.aer with uncStat := s.pcie.aer.uncStat ||| BitVec.ofNat 32 (2 ^ aerUncBit 3) } }, out := s.out ++ [.aer 3] } u ∧
     v = signal 24 0 u ∧ exec (.inboundPoisonedWrite (.poisonedWrite 0) x) s = .next v) ∧
  (∀ (s : State) (x : Nat), alive s = true → aerMasked 5 s = true → exec (.inboundPoisonedWrite .malformed x) s =
     .next { s with
         pcie := { s.pcie with inL1 := false, aer := { s.pcie.aer with uncStat := s.pcie.aer.uncStat ||| BitVec.ofNat 32 (2 ^ aerUncBit 5) } }, out := s.out ++ [.aer 5] }) ∧
  (∀ (s : State) (x : Nat), alive s = true → ∃ u, exec (.inboundPoisonedWrite .receiver x) s = .next u ∧
     State.raises [(14, 6)] { s with
         pcie := { s.pcie with corr := s.pcie.corr + 1, inL1 := false, aer := { s.pcie.aer with corStat := s.pcie.aer.corStat ||| BitVec.ofNat 32 (2 ^ aerCorBit 10) } }, out := s.out ++ [.aer 10] } u) ∧
  (∀ (s : State) (c : Option Nat) (x : Nat), s.pcie.aer.ecrcChk = false →
     exec (.inboundPoisonedWrite (.ecrc c) x) s = .next s) ∧
  (∀ (s : State) (e : RxError) (x : Nat), alive s = false → exec (.inboundPoisonedWrite e x) s = .next s)

/-- Where configuration requests are served (READY, or a SOFT reset in progress), BME_CLEARED clears Bus Master Enable and raises G14.13; BME_SET sets it with the settings that came with it. D3HOT_ENTRY enters D3hot and changes nothing else; D3HOT_EXIT leaves it and raises G14.14, sending the tolerance when LTR is enabled. ASPM_L1_ENTRY enters L1 when nothing is outstanding. LINK_UP raises G14.0 and LINK_CHANGE G14.2, each recording rate and width, and neither acts on a rate or width the function does not train at. -/
def Obligations.EndpointPower : Prop :=
  (∀ (s : State), configServed s = true → s.pcie.bme = true → ∃ t, exec .bmeCleared s = .next t ∧
     State.raises [(14, 13)] { s with pcie := { s.pcie with bme := false } } t) ∧
  (∀ (s : State) (a b c d : Bool) (l : LinkCtl), configServed s = true → exec (.bmeSet a b c d l) s =
     .next { s with
         pcie := { s.pcie with bme := true, msixEn := a, funcMask := b, tag10 := c, aspmEn := d, ctoValue := l.cto % 16, mps := l.mps % 3, bars := Vector.ofFn fun i : Fin 3 => barBase i.val l.bars[i], aer := { uncStat := s.pcie.aer.uncStat &&& ~~~l.uncClr, uncMask := l.uncMask, uncSev := l.uncSev, corStat := s.pcie.aer.corStat &&& ~~~l.corClr, corMask := l.corMask, ecrcGen := l.ecrcGen, ecrcChk := l.ecrcChk } } }) ∧
  (∀ (s : State), configServed s = true → exec .d3hotEntry s = .next { s with
         pcie := { s.pcie with d3hot := true } }) ∧
  (∀ (s : State), configServed s = true → s.pcie.d3hot = true → s.pcie.ltrEn = false → ∃ t, exec .d3hotExit s =
     .next t ∧ State.raises [(14, 14)] { s with pcie := { s.pcie with d3hot := false } } t) ∧
  (∀ (s : State), configServed s = true → s.pcie.d3hot = true → exec .d3hotExit s =
     .next (sendLtr (raise 14 14 { s with pcie := { s.pcie with d3hot := false } }))) ∧
  (∀ (s : State), s.pcie.aspmEn = true → s.pcie.dlUp = true → s.pcie.tags = [] → (∀ v < 64, msixReady v s =
     false) → exec .aspmL1Entry s = .next { s with pcie := { s.pcie with inL1 := true } }) ∧
  (∀ (s : State) (g w : Nat), coreUp s = true → s.pcie.dlUp = false → linkOk s.dev.variant g w = true → ∃ t,
     exec (.linkUp g w) s = .next t ∧ State.raises [(14, 0)] { s with
         pcie := { s.pcie with dlUp := true, gen := g, width := w, inL1 := false } } t) ∧
  (∀ (s : State) (g w : Nat), s.pcie.dlUp = true → linkOk s.dev.variant g w = true → g ≠ s.pcie.gen → ∃ t,
     exec (.linkChange g w) s = .next t ∧ State.raises [(14, 2)] { s with
         pcie := { s.pcie with gen := g, width := w } } t) ∧
  (∀ (s : State) (g w : Nat), g = 0 ∨ 5 < g ∨ w ∉ [1, 2, 4, 8, 16] → exec (.linkUp g w) s = .next s ∧
     exec (.linkChange g w) s = .next s)

/-- For a request the host filter admits, or one past the scratchpad, a read answers with the scratchpad's bytes, 0 past its end, and a write stores exactly the enabled bytes that lie in the scratchpad; a circular window addresses its ring, offset modulo SIZE from BASE, and CW7 reads the event log and discards writes; a peer window addresses the scratchpad from OFF_4K. A refused read gets Unsupported Request, counts and raises G14.10; a refused write is discarded whole, counts and raises G14.9. A PW_COMMIT whose named windows are all usable captures their shadows as they stand and clears REFUSED, changing no active window; one that names an unusable window is refused whole with G14.12. PW_COMMIT_SWITCH makes the oldest captured commit active and raises G14.11: each window of the commit gets the captured values, every other window keeps its own. -/
def Obligations.PeerAccess : Prop :=
  (∀ (s : State) (r x n : Nat), s.reached = true → 0x40000 ≤ x ∨ hostFiltered r s = false → ∃ d,
     exec (.scratchpadAccess r (.read x n)) s = .next (emitOut (.readData 4 x d false) s) ∧ d.length = n ∧ ∀ i < n,
     byteAt d i = if x + i < 0x40000 then memByte s.summit.scratchpad (x + i) else 0) ∧
  (∀ (s : State) (r x : Nat) (bs : List (Option Byte)), s.reached = true → 0x40000 ≤ x ∨ hostFiltered r s = false →
     ∃ t, exec (.scratchpadAccess r (.write x bs)) s = .next t ∧ t = { s with
         summit := { s.summit with scratchpad := t.summit.scratchpad }, mem := { s.mem with corrupt := t.mem.corrupt } } ∧
     (∀ c ∈ t.mem.corrupt, c ∈ s.mem.corrupt) ∧ ∀ a, memByte t.summit.scratchpad a = (if x ≤ a ∧ a < x + bs.length ∧
     a < 0x40000 then (bs.getD (a - x) none).getD (memByte s.summit.scratchpad a) else memByte s.summit.scratchpad a)) ∧
  (∀ (s : State) (r x n : Nat) (bs : List (Option Byte)), s.reached = true → x < 0x40000 → hostFiltered r s =
     true → s.pcie.aer.uncSev.getLsbD (aerUncBit 2) = false → ∃ (t u : State),
     exec (.scratchpadAccess r (.read x n)) s = .next t ∧ State.raises [(14, 6), (14, 10)] { s with
         pcie := { s.pcie with inbUr := s.pcie.inbUr + 1, corr := s.pcie.corr + 1, inL1 := false, aer := { s.pcie.aer with uncStat := s.pcie.aer.uncStat ||| BitVec.ofNat 32 (2 ^ aerUncBit 2), corStat := s.pcie.aer.corStat ||| BitVec.ofNat 32 (2 ^ aerCorBit 2) } }, out := s.out ++ [.unsupportedReq 4 x, .aer 2] } t ∧
     exec (.scratchpadAccess r (.write x bs)) s = .next u ∧ State.raises [(14, 9)] { s with
         pcie := { s.pcie with inbDrop := s.pcie.inbDrop + 1 } } u) ∧
  (∀ (s : State) (r x n : Nat) (k : Fin 8), s.reached = true → hostFiltered r s = false → ∃ d,
     exec (.cwWindowAccess r k (.read x n)) s =
     .next (emitOut (.readData 4 (0x1000000 + 0x100000 * k.val + x) d false) s) ∧ d.length = n ∧ ∀ i < n,
     byteAt d i = if k.val =
     7 then logByte s (x + i) else memByte s.summit.scratchpad (4096 * (cwOf s k.val).base + (x + i) % (4096 * (cwOf s k.val).size))) ∧
  (∀ (s : State) (r x : Nat) (k : Fin 8) (b : Byte), s.reached = true → hostFiltered r s = false → k.val ≠ 7 →
     0 < (cwOf s k.val).size → (cwOf s k.val).base + (cwOf s k.val).size ≤ 64 → ∃ t,
     exec (.cwWindowAccess r k (.write x [some b])) s = .next t ∧ t = { s with
         summit := { s.summit with scratchpad := t.summit.scratchpad }, mem := { s.mem with corrupt := t.mem.corrupt } } ∧
     (∀ c ∈ t.mem.corrupt, c ∈ s.mem.corrupt) ∧ ∀ a, memByte t.summit.scratchpad a = (if a =
     4096 * (cwOf s k.val).base + x % (4096 * (cwOf s k.val).size) then b else memByte s.summit.scratchpad a)) ∧
  (∀ (s : State) (r x : Nat) (bs : List (Option Byte)), s.reached = true → hostFiltered r s = false →
     exec (.cwWindowAccess r 7 (.write x bs)) s = .next s) ∧
  (∀ (s : State) (r x n : Nat), s.reached = true → x < 0x1000000 → pwAdmits (x / 0x200000) r (.read x n) s = true →
     ∃ d, exec (.pwInboundAccess r (.read x n)) s = .next (emitOut (.readData 4 (0x2000000 + x) d false) s) ∧
     d.length = n ∧ d = scratchData (4096 * pwOff (tabGet s.pcie.pwMapAct (x / 0x200000) 0) + x % 0x200000) n s) ∧
  (∀ (s : State) (r x n : Nat) (bs : List (Option Byte)), s.reached = true →
     pwAdmits (x / 0x200000) r (.read x n) s = false → pwAdmits (x / 0x200000) r (.write x bs) s = false →
     s.pcie.aer.uncSev.getLsbD (aerUncBit 2) = false → ∃ (t u : State), exec (.pwInboundAccess r (.read x n)) s =
     .next t ∧ State.raises [(14, 6), (14, 10)] { s with
         pcie := { s.pcie with inbUr := s.pcie.inbUr + 1, corr := s.pcie.corr + 1, inL1 := false, aer := { s.pcie.aer with uncStat := s.pcie.aer.uncStat ||| BitVec.ofNat 32 (2 ^ aerUncBit 2), corStat := s.pcie.aer.corStat ||| BitVec.ofNat 32 (2 ^ aerCorBit 2) } }, out := s.out ++ [.unsupportedReq 4 (0x2000000 + x), .aer 2] } t ∧
     exec (.pwInboundAccess r (.write x bs)) s = .next u ∧ State.raises [(14, 9)] { s with
         pcie := { s.pcie with inbDrop := s.pcie.inbDrop + 1 } } u) ∧
  (∀ (s : State) (v : Word), s.reached = true → (∀ n < 8, v.getLsbD n = true → pwBad n s = false) → ∃ c,
     exec (.pwCommit v 0xF#4) s = .next { s.spent with
         pcie := { s.pcie with pwCommits := s.pcie.pwCommits ++ [c], pwRefused := false } } ∧ ∀ n a b, (n, a,
     b) ∈ c ↔ n < 8 ∧ v.getLsbD n = true ∧ a = tabGet s.pcie.pwCfg n 0 ∧ b = tabGet s.pcie.pwMap n 0) ∧
  (∀ (s : State) (v : Word) (n : Nat), s.reached = true → n < 8 → v.getLsbD n = true → pwBad n s = true → ∃ t,
     exec (.pwCommit v 0xF#4) s = .next t ∧ State.raises [(14, 12)] { s.spent with
         pcie := { s.pcie with pwRefused := true } } t) ∧
  (∀ (s : State) (c : List (Nat × Word × Word)) (q : List (List (Nat × Word × Word))), s.pcie.pwCommits = c :: q →
     ∃ (t u : State), exec .pwCommitSwitch s = .next t ∧ State.raises [(14, 11)] u t ∧ u = { s with
         pcie := { s.pcie with pwCommits := q, pwCfgAct := u.pcie.pwCfgAct, pwMapAct := u.pcie.pwMapAct } } ∧ ∀ n,
     n < 8 → (∀ e ∈ c, e.1 ≠ n) → tabGet u.pcie.pwCfgAct n 0 = tabGet s.pcie.pwCfgAct n 0 ∧
     tabGet u.pcie.pwMapAct n 0 = tabGet s.pcie.pwMapAct n 0) ∧
  (∀ (s : State) (n : Fin 8) (a b : Word) (q : List (List (Nat × Word × Word))), s.pcie.pwCommits = [(n.val, a,
     b)] :: q → ∃ t, exec .pwCommitSwitch s = .next t ∧ tabGet t.pcie.pwCfgAct n.val 0 = a ∧
     tabGet t.pcie.pwMapAct n.val 0 = b ∧ t.pcie.pwCommits = q) ∧
  (∀ (s : State), s.pcie.pwCommits = [] → exec .pwCommitSwitch s = .next s)

/-- MB_DOORBELL with bit 0 on an IDLE or DONE mailbox latches the opcode, tag and BARRIER of MBm_CMD and the unlock class, clears STATUS and DETAIL, and makes the mailbox QUEUED at the next place in the order of arrival. With a reserved bit of MBm_CMD set it completes BAD_ARG with DETAIL 0x0006 and the protocol violation is signalled; on a QUEUED or RUNNING mailbox it is a protocol violation alone; without bit 0 it does nothing; a narrow write is ignored with ACCESS_WIDTH. Every doorbell write consumes a pending unlock, whose class the mailbox keeps. MB_COMMAND_START of an eligible command with the controller RUNNING copies its 256 bytes of request from the scratchpad and makes the mailbox RUNNING; an opcode outside the index completes BAD_ARG with DETAIL 0x0004, one the variant lacks UNSUPPORTED, and in boot ROM mode one the boot ROM does not serve STATE. A command waits behind an earlier one that is unfinished where either has BARRIER, and while the controller is down. -/
def Obligations.MailboxStart : Prop :=
  (∀ (s : State) (m : Fin 8) (v : Word), s.reached = true → v.getLsbD 0 = true → (mbOf s m.val).state =
     .idle ∨ (mbOf s m.val).state = .done → bitsOf 31 25 (mbOf s m.val).cmd.toNat = 0 → s.summit.state ≠ .halted →
     exec (.mbDoorbell m v 0xF#4) s = .next { s.spent with
         mb := tabMod s.mb m.val fun q => { q with state := .queued, tag := bitsOf 23 16 (mbOf s m.val).cmd.toNat, status := 0, detail := 0, opcode := (mbOf s m.val).cmd.toNat % 65536, barrier := bitOf 24 (mbOf s m.val).cmd.toNat, keyClass := (if s.cfg.unlock = 0 then q.keyClass else s.cfg.unlock), key := (if s.cfg.unlock = 0 then q.keyClass else s.cfg.unlock), req := [], resp := [], order := s.summit.nextOrder, rung := s.tm.ax5 }, summit := { s.summit with nextOrder := s.summit.nextOrder + 1 } }) ∧
  (∀ (s : State) (m : Fin 8) (v : Word), s.reached = true → v.getLsbD 0 = true → (mbOf s m.val).state =
     .idle ∨ (mbOf s m.val).state = .done → bitsOf 31 25 (mbOf s m.val).cmd.toNat ≠ 0 → (mbOf s m.val).tunnel =
     none → ∃ (u t : State), u = { s.spent with
         mb := tabMod s.mb m.val fun q => { q with state := .queued, tag := bitsOf 23 16 (mbOf s m.val).cmd.toNat, status := 0, detail := 0, opcode := (mbOf s m.val).cmd.toNat % 65536, barrier := bitOf 24 (mbOf s m.val).cmd.toNat, keyClass := (if s.cfg.unlock = 0 then q.keyClass else s.cfg.unlock), key := (if s.cfg.unlock = 0 then q.keyClass else s.cfg.unlock), req := [], resp := [], order := s.summit.nextOrder, rung := s.tm.ax5 }, summit := { s.summit with nextOrder := s.summit.nextOrder + 1 } } ∧
     u.completes m.val stBadArg 6 [] t ∧ exec (.mbDoorbell m v 0xF#4) s = .next (protoMailbox m.val t)) ∧
  (∀ (s : State) (m : Fin 8) (v : Word), s.reached = true → v.getLsbD 0 = true → (mbOf s m.val).state =
     .queued ∨ (mbOf s m.val).state = .running → exec (.mbDoorbell m v 0xF#4) s = .next (protoMailbox m.val s.spent)) ∧
  (∀ (s : State) (m : Fin 8) (v : Word), s.reached = true → v.getLsbD 0 = false → s.cfg.unlock = 0 →
     exec (.mbDoorbell m v 0xF#4) s = .next s.spent) ∧
  (∀ (s : State) (m : Fin 8) (v : Word) (be : BitVec 4), s.reached = true → exec (.mbDoorbell m v be) s =
     .next (writeDoorbell m.val v be (latchKey m.val s.cfg.unlock s.spent))) ∧
  (∀ (s : State) (m : Fin 8) (v : Word) (be : BitVec 4), s.reached = true → be ≠ 0xF#4 → s.cfg.unlock = 0 → ∃ t,
     exec (.mbDoorbell m v be) s = .next t ∧ State.raises [(1, 1)] s.spent t) ∧
  (∀ (s : State) (m : Fin 8), eligible m.val s = true → s.summit.state = .running → (mbOf s m.val).tunnel = none →
     (mbOf s m.val).opcode ∈ opcodes → s.dev.bootrom = false → lacksOpcode s.dev.variant (mbOf s m.val).opcode =
     false → exec (.mbCommandStart m) s = .next { s with
         mb := tabMod s.mb m.val fun q => { q with state := .running, req := memRead s.summit.scratchpad (256 * m.val) 256 } }) ∧
  (∀ (s : State) (m : Fin 8), eligible m.val s = true → s.summit.state = .running → (mbOf s m.val).tunnel = none →
     (mbOf s m.val).opcode ∉ opcodes → ∃ (u t : State), u = { s with
         mb := tabMod s.mb m.val fun q => { q with state := .running, req := memRead s.summit.scratchpad (256 * m.val) 256 } } ∧
     exec (.mbCommandStart m) s = .next t ∧ u.completes m.val stBadArg 4 [] t) ∧
  (∀ (s : State) (m : Fin 8), eligible m.val s = true → s.summit.state = .running → (mbOf s m.val).tunnel = none →
     (mbOf s m.val).opcode ∈ opcodes → s.dev.bootrom = false → lacksOpcode s.dev.variant (mbOf s m.val).opcode =
     true → ∃ (u t : State), u = { s with
         mb := tabMod s.mb m.val fun q => { q with state := .running, req := memRead s.summit.scratchpad (256 * m.val) 256 } } ∧
     exec (.mbCommandStart m) s = .next t ∧ u.completes m.val stUnsupported 0 [] t) ∧
  (∀ (s : State) (m : Fin 8), eligible m.val s = true → s.summit.state = .bootrom → (mbOf s m.val).tunnel = none →
     (mbOf s m.val).opcode ∈ opcodes → (mbOf s m.val).opcode ∉ bootOpcodes → s.dev.bootrom = true → ∃ (u t : State),
     u = { s with
         mb := tabMod s.mb m.val fun q => { q with state := .running, req := memRead s.summit.scratchpad (256 * m.val) 256 } } ∧
     exec (.mbCommandStart m) s = .next t ∧ u.completes m.val stState 0 [] t) ∧
  (∀ (s : State) (m n : Fin 8), mbBusy (mbOf s n.val) = true → (mbOf s n.val).order < (mbOf s m.val).order →
     (mbOf s m.val).barrier = true ∨ (mbOf s n.val).barrier = true → exec (.mbCommandStart m) s = .next s) ∧
  (∀ (s : State) (m : Fin 8), s.summit.state ≠ .running → s.summit.state ≠ .bootrom → exec (.mbCommandStart m) s =
     .next s)

/-- CW_CFG_WRITE of an unclaimed window with a good ring setting stores it, with a bad one is a protocol violation, on a claimed window is refused, and on CW7 is ignored. CW_PROD_WRITE while the host produces into a claimed window, within the free space and the transfer length, is stored and the device consumes up to it; otherwise it is a protocol violation, or refused where the host does not produce. CW_CONS_WRITE within the unread bytes is stored, and the device produces into the space; beyond them it is a protocol violation. CW_STALL of a claimed window whose transfer waits for the host ends what the command left behind, raises G0.10 and completes the command's mailbox INTERNAL with DETAIL 0x0001; where no transfer waits nothing changes. -/
def Obligations.WindowRegisters : Prop :=
  (∀ (s : State) (k : Fin 8) (v : Word), s.reached = true → k.val ≠ 7 → (cwOf s k.val).claimed = false →
     cwCfgOk k.val (bitsOf 13 8 v.toNat) (bitsOf 5 0 v.toNat) s = true → exec (.cwCfgWrite k v 0xF#4) s =
     .next { s.spent with
         cw := tabMod s.cw k.val fun w => { w with size := bitsOf 13 8 v.toNat, base := bitsOf 5 0 v.toNat } }) ∧
  (∀ (s : State) (k : Fin 8) (v : Word), s.reached = true → k.val ≠ 7 → (cwOf s k.val).claimed = false →
     cwCfgOk k.val (bitsOf 13 8 v.toNat) (bitsOf 5 0 v.toNat) s = false → exec (.cwCfgWrite k v 0xF#4) s =
     .next (protoWindow k.val s.spent)) ∧
  (∀ (s : State) (k : Fin 8) (v : Word) (be : BitVec 4), s.reached = true → k.val ≠ 7 → (cwOf s k.val).claimed =
     true → ∃ t, exec (.cwCfgWrite k v be) s = .next t ∧ State.raises [(1, 0)] s.spent t) ∧
  (∀ (s : State) (v : Word) (be : BitVec 4), s.reached = true → exec (.cwCfgWrite 7 v be) s = .next s.spent) ∧
  (∀ (s : State) (k : Fin 8) (v : Word), s.reached = true → k.val ≠ 7 → (cwOf s k.val).claimed = true →
     (cwOf s k.val).hostProduces = true →
     cwUnread (cwOf s k.val) + (v - (cwOf s k.val).prod).toNat ≤ cwSize (cwOf s k.val) →
     v.toNat ≤ (cwOf s k.val).len.toNat → ∃ t, exec (.cwProdWrite k v 0xF#4) s = .next t ∧ (cwOf t k.val).prod = v ∧
     (cwOf t k.val).cons = v ∧ (cwOf t k.val).claimed = true ∧ (∀ j < 8, j ≠ k.val → j ≠ 7 → cwOf t j = cwOf s j) ∧
     t.summit = s.summit ∧ t.mb = s.mb ∧ t.dev = s.dev ∧ t.flt = s.flt) ∧
  (∀ (s : State) (k : Fin 8) (v : Word), s.reached = true → k.val ≠ 7 → (cwOf s k.val).claimed = true →
     (cwOf s k.val).hostProduces = true → (cwOf s k.val).len.toNat < v.toNat → exec (.cwProdWrite k v 0xF#4) s =
     .next (protoWindow k.val s.spent)) ∧
  (∀ (s : State) (k : Fin 8) (v : Word) (be : BitVec 4), s.reached = true → k.val = 7 ∨ (cwOf s k.val).claimed =
     false ∨ (cwOf s k.val).hostProduces = false → ∃ t, exec (.cwProdWrite k v be) s = .next t ∧ State.raises [(1,
     0)] s.spent t) ∧
  (∀ (s : State) (v : Word), s.reached = true → (v - (cwOf s 7).cons).toNat ≤ cwUnread (cwOf s 7) →
     exec (.cwConsWrite 7 v 0xF#4) s = .next { s.spent with cw := tabMod s.cw 7 fun w => { w with cons := v } }) ∧
  (∀ (s : State) (k : Fin 8) (v : Word), s.reached = true → k.val ≠ 7 → (cwOf s k.val).claimed = true →
     (cwOf s k.val).hostProduces = false → (v - (cwOf s k.val).cons).toNat ≤ cwUnread (cwOf s k.val) →
     (cwOf s k.val).out ≠ [] → (cwOf s k.val).out.length ≤ cwSize (cwOf s k.val) - ((cwOf s k.val).prod - v).toNat →
     (cwOf s k.val).mb < 8 → (mbOf s (cwOf s k.val).mb).tunnel = none → ∃ (u t : State),
     exec (.cwConsWrite k v 0xF#4) s = .next t ∧ u = cwProduce k.val { s.spent with
         cw := tabMod s.cw k.val fun w => { w with cons := v } } ∧ (cwOf u k.val).prod =
     (cwOf s k.val).prod + BitVec.ofNat 32 (cwOf s k.val).out.length ∧
     u.completes (cwOf s k.val).mb stOk 0 (mbOf s (cwOf s k.val).mb).resp t) ∧
  (∀ (s : State) (k : Fin 8) (v : Word), s.reached = true → k.val ≠ 7 → ((cwOf s k.val).claimed = true →
     (cwOf s k.val).hostProduces = false) → (v - (cwOf s k.val).cons).toNat ≤ cwUnread (cwOf s k.val) →
     exec (.cwConsWrite k v 0xF#4) s = .next (produceMore k.val { s.spent with
         cw := tabMod s.cw k.val fun w => { w with cons := v } })) ∧
  (∀ (s : State) (k : Fin 8) (v : Word), s.reached = true → k.val = 7 ∨ (cwOf s k.val).claimed =
     false ∨ (cwOf s k.val).hostProduces = false → cwUnread (cwOf s k.val) < (v - (cwOf s k.val).cons).toNat →
     exec (.cwConsWrite k v 0xF#4) s = .next (protoWindow k.val s.spent)) ∧
  (∀ (s : State) (k : Fin 8), k.val ≠ 7 → (cwOf s k.val).claimed = true → (cwOf s k.val).hostProduces = false →
     (cwOf s k.val).out ≠ [] → (cwOf s k.val).mb < 8 → (mbOf s (cwOf s k.val).mb).tunnel = none → ∃ (u t : State),
     State.raises [(0, 10)] (cancelLong (cwOf s k.val).mb s) u ∧ exec (.cwStall k) s = .next t ∧
     u.completes (cwOf s k.val).mb stInternal 1 [] t) ∧
  (∀ (s : State) (k : Fin 8), k.val ≠ 7 → (cwOf s k.val).claimed = true → (cwOf s k.val).hostProduces = true →
     (cwOf s k.val).inn.length < (cwOf s k.val).len.toNat → (cwOf s k.val).mb < 8 →
     (mbOf s (cwOf s k.val).mb).tunnel = none → ∃ (u t : State), State.raises [(0,
     10)] (cancelLong (cwOf s k.val).mb s) u ∧ exec (.cwStall k) s = .next t ∧
     u.completes (cwOf s k.val).mb stInternal 1 [] t) ∧
  (∀ (s : State) (k : Fin 8), k.val = 7 ∨ (cwOf s k.val).claimed = false → exec (.cwStall k) s = .next s)

/-- SUMMIT_LOCKSTEP signals F2, and SUMMIT_WATCHDOG, 100 ms after the last kick, F3, and either restarts the controller unless it is HALTED: RESTARTING, or HALTED when two restarts began in the last 10 s, the restart counted, the cause recorded, G0.11 raised, and every RUNNING command of the host completed INTERNAL with DETAIL 0x0002. SUMMIT_READY starts verified firmware: RUNNING, or boot ROM mode where no slot was accepted, and at the first start latches F10 for a failure that start-up left unrepaired, and after a restart raises G0.12; before verification nothing happens. FW_BOOT_VERIFY at a controller start: an accepted slot A runs; a refused slot A is reported with G11.6 and an accepted slot B runs as a fallback with G11.5; with both refused the device is in boot ROM mode, ready, with no firmware. Each slot tried keeps its verification. At any other time nothing happens. FW_SLOT 0 and FW_FALLBACK 0 of a device with both slots refused are the model's choice (log entry 59). -/
def Obligations.ControllerStart : Prop :=
  (∀ (s : State), s.summit.state ≠ .halted → coreUp s = true → ∃ (u t : State), u = signal 2 0 s ∧
     exec .summitLockstep s = .next t ∧ t.summit.state =
     (if 2 ≤ (recentRestarts u).length then .halted else .restarting) ∧ t.summit.restarts =
     min 255 (u.summit.restarts + 1) ∧ t.summit.lastCause = false ∧ t.summit.recent =
     recentRestarts u ++ [u.tm.ax5] ∧ t.rawBit 0 11 = true ∧ (∀ m < 8, (mbOf u m).state = .running →
     (mbOf u m).tunnel = none → (mbOf t m).state = .done ∧ (mbOf t m).status = stInternal ∧ (mbOf t m).detail = 2) ∧
     t.ring = u.ring ∧ t.tal = u.tal ∧ t.tm = u.tm ∧ t.dev = u.dev) ∧
  (∀ (s : State), s.summit.state ≠ .halted → coreUp s = true → s.summit.lastKick + 100 * msTicks s ≤ s.tm.tick →
     ∃ (u t : State), u = signal 3 0 s ∧ exec .summitWatchdog s = .next t ∧ t.summit.state =
     (if 2 ≤ (recentRestarts u).length then .halted else .restarting) ∧ t.summit.restarts =
     min 255 (u.summit.restarts + 1) ∧ t.summit.lastCause = true ∧ t.summit.recent = recentRestarts u ++ [u.tm.ax5] ∧
     t.rawBit 0 11 = true ∧ (∀ m < 8, (mbOf u m).state = .running → (mbOf u m).tunnel = none → (mbOf t m).state =
     .done ∧ (mbOf t m).status = stInternal ∧ (mbOf t m).detail = 2) ∧ t.ring = u.ring ∧ t.tal = u.tal ∧ t.tm =
     u.tm ∧ t.dev = u.dev) ∧
  (∀ (s : State), s.tm.tick < s.summit.lastKick + 100 * msTicks s → exec .summitWatchdog s = .next s) ∧
  (∀ (s : State), s.summit.state = .halted → exec .summitLockstep s = .next s ∧ exec .summitWatchdog s = .next s) ∧
  (∀ (s : State), s.summit.verified = true → s.summit.state = .boot → s.dev.bootrom = false → exec .summitReady s =
     .next (startFirmware { s with
         summit := { s.summit with state := .running, verified := false, lastKick := s.tm.tick } })) ∧
  (∀ (s : State) (i : Word) (l : List Word), s.summit.verified = true → s.summit.state = .boot → s.dev.bootrom =
     false → s.flt.on = false → s.mem.failed = i :: l → ∃ t, exec .summitReady s = .next t ∧ t.flt.on = true ∧
     t.flt.status.getLsbD 10 = true ∧ t.mem.failed = [] ∧ t.ring.mem = s.ring.mem) ∧
  (∀ (s : State), s.summit.verified = true → s.summit.state = .restarting → s.flt.on = true → s.dev.safe = true →
     s.dev.bootrom = false → (∀ p < 16, (podAt s p).present = true → (podAt s p).state ≠ .empty) → ∃ t,
     exec .summitReady s = .next t ∧ State.raises [(0, 12)] { s with
         summit := { s.summit with state := .running, verified := false, lastKick := s.tm.tick } } t) ∧
  (∀ (s : State), s.summit.verified = true → s.summit.state = .boot → s.dev.bootrom = true → exec .summitReady s =
     .next { s with summit := { s.summit with state := .bootrom, verified := false, lastKick := s.tm.tick } }) ∧
  (∀ (s : State), s.summit.verified = false → exec .summitReady s = .next s) ∧
  (∀ (s : State) (a b : SlotImage), s.summit.state = .boot ∨ s.summit.state = .restarting → slotFail none a s = 0 →
     exec (.fwBootVerify a b) s = .next { s with
         dev := { s.dev with fwVersion := BitVec.ofNat 32 (slotOf_ a 0).version, fwSlot := 0, fwFallback := false, bootrom := false }, summit := { s.summit with slots := tabMod s.summit.slots 0 (fun _ => slotOf_ a 0), verified := true, fwDigest := (slotOf_ a 0).digest } }) ∧
  (∀ (s : State) (a b : SlotImage), s.summit.state = .boot ∨ s.summit.state = .restarting → slotFail none a s ≠ 0 →
     slotFail none b s = 0 → ∃ t, exec (.fwBootVerify a b) s = .next t ∧ t.dev.fwVersion =
     BitVec.ofNat 32 (slotOf_ b 0).version ∧ t.dev.fwSlot = 1 ∧ t.dev.fwFallback = true ∧ t.dev.bootrom = false ∧
     t.summit.verified = true ∧ tabGet t.summit.slots 0 Slot.reset = slotOf_ a (slotFail none a s) ∧
     tabGet t.summit.slots 1 Slot.reset = slotOf_ b 0 ∧ t.rawBit 11 5 = true ∧ t.rawBit 11 6 = true ∧ t.tm = s.tm) ∧
  (∀ (s : State) (a b : SlotImage), s.summit.state = .boot ∨ s.summit.state = .restarting → slotFail none a s ≠ 0 →
     (∀ x : State, slotFail none b x ≠ 0) → ∃ t, exec (.fwBootVerify a b) s = .next t ∧ t.dev.fwVersion = 0 ∧
     t.dev.bootrom = true ∧ t.dev.ready = true ∧ t.summit.verified = true ∧ t.rawBit 11 6 = true ∧ t.tm = s.tm) ∧
  (∀ (s : State) (a b : SlotImage), s.summit.state ≠ .boot → s.summit.state ≠ .restarting →
     exec (.fwBootVerify a b) s = .next s)

/-- NOP with a zero request completes OK with zeros, otherwise BAD_ARG. FW_STAGE erases slot A and claims its window for IMAGE_LEN bytes of the host, or completes BUSY while another firmware command runs; FW_STAGED stores the image's verification in slot A and completes OK with G0.14, SECURITY with the check that failed, or INTERNAL where the flash failed. FW_COMMIT refuses an inactive slot A that no longer verifies and otherwise goes on, and FW_INFO keeps that verification; FW_COMMITTED copies slot A's record to slot B, raises the rollback floor when asked, raises G0.15 and completes OK. FW_INFO answers the slots and the floor. The failing check of a slot A that is erased or partly programmed is the model's choice (log entry 64). -/
def Obligations.FirmwareCommands : Prop :=
  (∀ (s : State) (m : Fin 8), s.serves m.val 0x0000 = true → zeroAt (s.request m.val) 0 256 = true → ∃ t,
     exec (.nop m) s = .next t ∧ s.completes m.val stOk 0 [] t) ∧
  (∀ (s : State) (m : Fin 8), s.serves m.val 0x0000 = true → zeroAt (s.request m.val) 0 256 = false → ∃ t,
     exec (.nop m) s = .next t ∧ s.completes m.val stBadArg 0 [] t) ∧
  (∀ (s : State) (m : Fin 8), s.serves m.val 0x0A01 = true → (s.arg m.val 0 1) ≤ 6 → zeroAt (s.request m.val) 1 3 =
     true → zeroAt (s.request m.val) 8 248 = true → s.arg m.val 4 4 % 4 = 0 → 30052 ≤ s.arg m.val 4 4 →
     s.arg m.val 4 4 ≤ Config.flashBytes / 2 → s.sealer.fw = none → (cwOf s (s.arg m.val 0 1)).claimed = false →
     exec (.fwStage m) s = .next { s with
         sealer := { s.sealer with fw := some m.val }, cw := tabMod s.cw (s.arg m.val 0 1) fun w => { w with claimed := true, hostProduces := true, mb := m.val, opcode := 0x0A01, done := false, prod := 0, cons := 0, len := BitVec.ofNat 32 (s.arg m.val 4 4), since := s.tm.tick, out := [], inn := [] }, summit := { s.summit with slots := tabMod s.summit.slots 0 fun x => { x with gone := true } } }) ∧
  (∀ (s : State) (m : Fin 8) (n : Nat), s.serves m.val 0x0A01 = true → (s.arg m.val 0 1) ≤ 6 →
     zeroAt (s.request m.val) 1 3 = true → zeroAt (s.request m.val) 8 248 = true → s.arg m.val 4 4 % 4 = 0 →
     30052 ≤ s.arg m.val 4 4 → s.arg m.val 4 4 ≤ Config.flashBytes / 2 → s.sealer.fw = some n → ∃ t,
     exec (.fwStage m) s = .next t ∧ s.completes m.val stBusy 0 [] t) ∧
  (∀ (s : State) (m : Fin 8) (r : FlashRead), s.serves m.val 0x0A01 = true → s.sealer.fw = some m.val →
     s.arg m.val 4 4 ≤ (cwOf s (s.arg m.val 0 1)).inn.length →
     (slotFail (some (s.arg m.val 4 4)) (stagedImage (readBack r ((cwOf s (s.arg m.val 0 1)).inn.take (s.arg m.val 4 4)))) s) =
     0 → ∃ (u t : State), State.raises [(0, 14)] { s with
         sealer := { s.sealer with fw := none }, summit := { s.summit with slots := tabMod s.summit.slots 0 fun _ => slotOf_ (stagedImage (readBack r ((cwOf s (s.arg m.val 0 1)).inn.take (s.arg m.val 4 4)))) 0 } } u ∧
     exec (.fwStaged m r true) s = .next t ∧
     u.completes m.val stOk 0 (leBytes 4 (slotOf_ (stagedImage (readBack r ((cwOf s (s.arg m.val 0 1)).inn.take (s.arg m.val 4 4)))) 0).version ++ leBytes 4 (slotOf_ (stagedImage (readBack r ((cwOf s (s.arg m.val 0 1)).inn.take (s.arg m.val 4 4)))) 0).rollback ++ padTo 32 (slotOf_ (stagedImage (readBack r ((cwOf s (s.arg m.val 0 1)).inn.take (s.arg m.val 4 4)))) 0).digest) t) ∧
  (∀ (s : State) (m : Fin 8) (r : FlashRead), s.serves m.val 0x0A01 = true → s.sealer.fw = some m.val →
     s.arg m.val 4 4 ≤ (cwOf s (s.arg m.val 0 1)).inn.length →
     (slotFail (some (s.arg m.val 4 4)) (stagedImage (readBack r ((cwOf s (s.arg m.val 0 1)).inn.take (s.arg m.val 4 4)))) s) ≠ 0 →
     ∃ (u t : State), u = { s with
         sealer := { s.sealer with fw := none }, summit := { s.summit with slots := tabMod s.summit.slots 0 fun _ => { slotOf_ (stagedImage (readBack r ((cwOf s (s.arg m.val 0 1)).inn.take (s.arg m.val 4 4)))) (slotFail (some (s.arg m.val 4 4)) (stagedImage (readBack r ((cwOf s (s.arg m.val 0 1)).inn.take (s.arg m.val 4 4)))) s) with gone := true } } } ∧
     exec (.fwStaged m r true) s = .next t ∧
     u.completes m.val stSecurity (0x0100 + (slotFail (some (s.arg m.val 4 4)) (stagedImage (readBack r ((cwOf s (s.arg m.val 0 1)).inn.take (s.arg m.val 4 4)))) s)) [] t) ∧
  (∀ (s : State) (m : Fin 8) (r : FlashRead), s.serves m.val 0x0A01 = true → s.sealer.fw = some m.val →
     s.arg m.val 4 4 ≤ (cwOf s (s.arg m.val 0 1)).inn.length → ∃ (u t : State), u = { s with
         sealer := { s.sealer with fw := none }, summit := { s.summit with slots := tabMod s.summit.slots 0 fun _ => { slotOf_ .empty 1 with gone := true } } } ∧
     exec (.fwStaged m r false) s = .next t ∧ u.completes m.val stInternal 0x0107 [] t) ∧
  (∀ (s : State) (m : Fin 8) (r : FlashRead) (c : Bool),
     s.sealer.fw ≠ some m.val ∨ (cwOf s (s.arg m.val 0 1)).inn.length < s.arg m.val 4 4 → exec (.fwStaged m r c) s =
     .next s) ∧
  (∀ (s : State) (m : Fin 8), s.serves m.val 0x0A02 = true → s.arg m.val 0 1 ≤ 1 → zeroAt (s.request m.val) 1 3 =
     true → s.arg m.val 4 4 = 0x4D4D4F43 → zeroAt (s.request m.val) 8 248 = true → s.sealer.fw = none →
     s.dev.fwSlot = 0 → slotAFail s = 0 → exec (.fwCommit m) s = .next { s with
         sealer := { s.sealer with fw := some m.val }, summit := { s.summit with slots := tabMod s.summit.slots 0 fun _ => checkedA s } }) ∧
  (∀ (s : State) (m : Fin 8), s.serves m.val 0x0A02 = true → s.arg m.val 0 1 ≤ 1 → zeroAt (s.request m.val) 1 3 =
     true → s.arg m.val 4 4 = 0x4D4D4F43 → zeroAt (s.request m.val) 8 248 = true → s.sealer.fw = none →
     s.dev.fwSlot = 0 → slotAFail s ≠ 0 → ∃ (u t : State), u = { s with
         summit := { s.summit with slots := tabMod s.summit.slots 0 fun _ => checkedA s } } ∧ exec (.fwCommit m) s =
     .next t ∧ u.completes m.val stSecurity (0x0100 + slotAFail s) [] t ∧ (checkedA s).fail = slotAFail s) ∧
  (∀ (s : State) (m : Fin 8), s.serves m.val 0x0A02 = true → s.sealer.fw = some m.val → s.arg m.val 0 1 = 1 →
     ∃ (u t : State), State.raises [(0, 15)] { s with
         sealer := { s.sealer with fw := none }, summit := { s.summit with slots := tabMod s.summit.slots 1 fun _ => s.summit.slots[0], floor := max s.summit.floor s.summit.slots[0].rollback } } u ∧
     exec (.fwCommitted m true) s = .next t ∧
     u.completes m.val stOk 0 (leBytes 4 s.summit.slots[0].version ++ leBytes 4 (max s.summit.floor s.summit.slots[0].rollback)) t) ∧
  (∀ (s : State) (m : Fin 8), s.serves m.val 0x0A03 = true → zeroAt (s.request m.val) 0 256 = true → ∃ t,
     exec (.fwInfo m) s = .next t ∧
     s.completes m.val stOk 0 (leBytes 4 Config.flashBytes ++ leBytes 4 s.summit.floor ++ leBytes 1 (if s.dev.bootrom then 0xFF else s.dev.fwSlot) ++ leBytes 1 (b2n s.dev.fwFallback) ++ zeros 2 ++ leBytes 4 s.summit.restarts ++ slotInfo s.summit.slots[0] ++ slotInfo s.summit.slots[1]) t)

/-- TIME_A_INCR and TIME_B_INCR written at full width: a value in the range of R369 becomes the increment and the time's span starts anew at its present value, nothing else changing but the consumed unlock and held low word; a value outside the range leaves the increment unchanged and raises G2.2. TIME_A_STEP at full width with no unlock or one of class 1: a nonzero step while none is pending and within TIME_A_STEP_LIMIT, or under the class, is accepted; otherwise REFUSED counts and G2.1 is raised. TIME_B_STEP is accepted with LOCAL selected, a nonzero value and none pending, else G2.15. TIME_A_STEP_LIMIT takes a value under class 1. The APPLY commands are the next tick, which increments first, then steps, counts ACCEPTED and raises G2.0 or G2.5. -/
def Obligations.TimeIncrements : Prop :=
  (∀ (s : State) (v : Word64), s.reached = true → incrOk (v.toNat % 2 ^ 40) = true → exec (.timeAIncr v 0xFF#8) s =
     .next { s.spent with
         tm := { s.tm with incrA := v.toNat % 2 ^ 40, segA := { start := nowU s, time := s.tm.a, incr := v.toNat % 2 ^ 40, step := false } :: s.tm.segA, heldLow := (s.tm.heldLow.filter fun e => e.1 ≠ 0x5008) } }) ∧
  (∀ (s : State) (v : Word64), s.reached = true → incrOk (v.toNat % 2 ^ 40) = false → ∃ t,
     exec (.timeAIncr v 0xFF#8) s = .next t ∧ State.raises [(2, 2)] { s.spent with
         tm := { s.tm with heldLow := (s.tm.heldLow.filter fun e => e.1 ≠ 0x5008) } } t) ∧
  (∀ (s : State) (v : Word64), s.reached = true → incrOk (v.toNat % 2 ^ 40) = true → exec (.timeBIncr v 0xFF#8) s =
     .next { s.spent with
         tm := { s.tm with incrB := v.toNat % 2 ^ 40, segB := { start := nowU s, time := s.tm.b, incr := (if s.tm.source ≤ 1 then v.toNat % 2 ^ 40 else s.tm.servoIncr), step := false } :: s.tm.segB, heldLow := (s.tm.heldLow.filter fun e => e.1 ≠ 0x5028) } }) ∧
  (∀ (s : State) (v : Word64), s.reached = true → incrOk (v.toNat % 2 ^ 40) = false → ∃ t,
     exec (.timeBIncr v 0xFF#8) s = .next t ∧ State.raises [(2, 2)] { s.spent with
         tm := { s.tm with heldLow := (s.tm.heldLow.filter fun e => e.1 ≠ 0x5028) } } t) ∧
  (∀ (s : State) (v : Word64), s.reached = true → s.cfg.unlock ≤ 1 → v ≠ 0 → s.tm.stepA = none →
     v.toInt.natAbs ≤ s.tm.stepLimit.toNat ∨ s.cfg.unlock = 1 → exec (.timeAStep v 0xFF#8) s = .next { s.spent with
         tm := { s.tm with stepA := some (v.toInt, s.cfg.unlock == 1), heldLow := (s.tm.heldLow.filter fun e => e.1 ≠ 0x5010) ++ [(0x5010, v.truncate 32)] } }) ∧
  (∀ (s : State) (v : Word64), s.reached = true → s.cfg.unlock ≤ 1 → v = 0 ∨ s.tm.stepA.isSome =
     true ∨ (s.tm.stepLimit.toNat < v.toInt.natAbs ∧ s.cfg.unlock ≠ 1) → ∃ t, exec (.timeAStep v 0xFF#8) s =
     .next t ∧ State.raises [(2, 1)] { s.spent with
         tm := { s.tm with refused := (s.tm.refused + 1) % 65536, heldLow := (s.tm.heldLow.filter fun e => e.1 ≠ 0x5010) ++ [(0x5010, v.truncate 32)] } } t) ∧
  (∀ (s : State) (v : Word64), s.reached = true → s.tm.source = 1 → v ≠ 0 → s.tm.stepB = none →
     exec (.timeBStep v 0xFF#8) s = .next { s.spent with
         tm := { s.tm with stepB := some v.toInt, heldLow := (s.tm.heldLow.filter fun e => e.1 ≠ 0x5030) ++ [(0x5030, v.truncate 32)] } }) ∧
  (∀ (s : State) (v : Word64), s.reached = true → s.tm.source ≠ 1 ∨ v = 0 ∨ s.tm.stepB.isSome = true → ∃ t,
     exec (.timeBStep v 0xFF#8) s = .next t ∧ State.raises [(2, 15)] { s.spent with
         tm := { s.tm with heldLow := (s.tm.heldLow.filter fun e => e.1 ≠ 0x5030) ++ [(0x5030, v.truncate 32)] } } t) ∧
  (∀ (s : State) (v : Word), s.reached = true → s.cfg.unlock = 1 → exec (.timeAStepLimit v 0xF#4) s =
     .next { s.spent with tm := { s.tm with stepLimit := v } }) ∧
  (∀ (s : State) (d : Int) (k : Bool), s.dev.powered = true → s.dev.perst = false → (∀ n < 64,
     (slotOf s n).armReq = false ∧ (slotOf s n).armed = false ∧ (slotOf s n).due = none) → s.tm.stepA = some (d, k) →
     s.tm.stepB = none → ∃ t, exec .timeAStepApply s = .next t ∧ t.tm.a =
     stepTime (timeTick s.tm.a (tickIncr s.dev.backup s.tm.incrA)) d ∧ t.tm.aCopy = t.tm.a ∧ t.tm.stepA = none ∧
     t.tm.accepted = (s.tm.accepted + 1) % 65536 ∧ t.tm.tick = s.tm.tick + 1 ∧ t.tm.b =
     timeTick s.tm.b (tickIncr s.dev.backup (bIncr s)) ∧ t.rawBit 2 0 = true) ∧
  (∀ (s : State) (d : Int), s.dev.powered = true → s.dev.perst = false → (∀ n < 64, (slotOf s n).armReq = false ∧
     (slotOf s n).armed = false ∧ (slotOf s n).due = none) → s.tm.stepA = none → s.tm.stepB = some d → ∃ t,
     exec .timeBStepApply s = .next t ∧ t.tm.b =
     timeAdd (timeTick s.tm.b (tickIncr s.dev.backup (bIncr s))) (d * 2 ^ 32) ∧ t.tm.stepB = none ∧ t.tm.tick =
     s.tm.tick + 1 ∧ t.tm.a = timeTick s.tm.a (tickIncr s.dev.backup s.tm.incrA) ∧ t.rawBit 2 5 = true) ∧
  (∀ (s : State), s.tm.stepA.isSome = true ∨ s.tm.stepB.isSome = true → (s.tm.stepA.isSome = true →
     exec .timeAStepApply s = .next (tick s)) ∧ (s.tm.stepB.isSome = true → exec .timeBStepApply s = .next (tick s)))

/-- With power and PERST# released, no step and no axis setting pending and no slot of the scheduler armed, a tick adds one to the tick count, ten samples to AX5 modulo 2^64 (25 on the backup oscillator), and the increments in force to time A, with its copy, and time B; the mains fraction follows AX5. The rest of the tick measures supplies, judges clock edges, absorbs and pushes words, and changes nothing of the device's condition, the images, the ring, the store, the mailboxes or Ridgeline. Without power or with PERST# asserted a tick changes nothing. That a tick is what step does on an empty queue is the model's choice (log 2). TIME_INTEGRITY with a copy that differs from time A restores the copy from time A, signals F30, raises G2.14 and records a TIME_STEP cairn with the two values (through the model's signal and cairnNow); with an equal copy nothing changes. TIME_B_SOURCE_SWITCH makes the source that R375 selects the source of time B: when that is the source in force nothing changes; otherwise SOURCE is the selected one, time B is valid unless it is NONE, a pending step stays pending, and G2.3 is raised, with G2.4 for HOLDOVER. TIME_B_REVERT returns to a primary that has been good for REVERT_S seconds. TIME_SOURCE_SET with OP 1 answers the settings; with OP 0 and valid fields it takes them, selects anew and answers them; with a bad field it completes BAD_ARG and changes nothing. A switch from LOCAL to a port is taken as one from NONE is (the model's choice, log entry 60). -/
def Obligations.TimeSources : Prop :=
  (∀ (s : State), s.dev.powered = true → s.dev.perst = false → (∀ n < 64, (slotOf s n).armReq = false ∧
     (slotOf s n).armed = false ∧ (slotOf s n).due = none) → s.tm.stepA = none → s.tm.stepB = none → s.tm.axisSet =
     [] → s.pending = [] → ∃ t, step s = .next t ∧ t.tm = { s.tm with
         tick := s.tm.tick + 1, ax5 := (s.tm.ax5 + (if s.dev.backup then 25 else 10)) % 2 ^ 64, a := timeTick s.tm.a (tickIncr s.dev.backup s.tm.incrA), aCopy := timeTick s.tm.a (tickIncr s.dev.backup s.tm.incrA), b := timeTick s.tm.b (tickIncr s.dev.backup (bIncr s)), mains := mainsTick s.tm.mains ((s.tm.ax5 + (if s.dev.backup then 25 else 10)) % 2 ^ 64) } ∧
     t.dev = s.dev ∧ t.cfg = s.cfg ∧ t.ring = s.ring ∧ t.tal = s.tal ∧ t.cmp = s.cmp ∧ t.mb = s.mb ∧ t.rl = s.rl ∧
     t.pending = []) ∧
  (∀ (s : State), s.dev.powered = true → s.dev.perst = false → s.pending = [] → step s =
     .next (snapTick (judgeAllClocks (measureSupplies (slewTick (kickTick (sealTick (pushWords (slotTick (clockTick s)))))))))) ∧
  (∀ (s : State), s.dev.powered = false ∨ s.dev.perst = true → s.pending = [] → step s = .next s) ∧
  (∀ (s : State) (x : Time), x ≠ s.tm.a → ∃ u, u = raise 2 14 (signal 30 0 { s with
         tm := { s.tm with aCopy := s.tm.a } }) ∧ exec (.timeIntegrity x) s =
     .next (cairnNow 0x0009 (timeStepPayload x u.tm.a false) u)) ∧
  (∀ (s : State), exec (.timeIntegrity s.tm.a) s = .next s) ∧
  (∀ (s : State), chooseSource s = s.tm.source → exec .timeBSourceSwitch s = .next s) ∧
  (∀ (s : State), chooseSource s ≠ s.tm.source → ∃ t, exec .timeBSourceSwitch s = .next t ∧ t.tm.source =
     chooseSource s ∧ t.tm.bValid = (chooseSource s != 0) ∧ t.tm.stepB = s.tm.stepB ∧ t.tm.a = s.tm.a ∧
     t.rawBit 2 3 = true ∧ (chooseSource s = 5 → t.rawBit 2 4 = true) ∧ t.dev = s.dev ∧ t.summit = s.summit ∧
     t.ring = s.ring ∧ t.tal = s.tal) ∧
  (∀ (s : State), s.tm.revert = true → s.tm.source = s.tm.secondary → 2 ≤ s.tm.secondary → 2 ≤ s.tm.primary →
     s.tm.primary ≠ s.tm.secondary → sourceGood s.tm.primary s = true →
     (portOf s (s.tm.primary - 2)).goodSince + 1000 * msTicks s * s.tm.revertS ≤ s.tm.tick → ∃ t,
     exec .timeBRevert s = .next t ∧ t.tm.source = s.tm.primary ∧ t.tm.bValid = true ∧ t.rawBit 2 3 = true) ∧
  (∀ (s : State) (m : Fin 8), s.serves m.val 0x0601 = true → s.arg m.val 0 1 = 1 → s.arg m.val 1 1 ≤ 1 →
     s.arg m.val 2 1 = 0 → s.arg m.val 3 1 = 0 → s.arg m.val 4 2 = 0 → zeroAt (s.request m.val) 6 250 = true → ∃ t,
     exec (.timeSourceSet m) s = .next t ∧ s.completes m.val stOk 0 (sourceBody 1 s) t) ∧
  (∀ (s : State) (m : Fin 8), s.serves m.val 0x0601 = true → s.arg m.val 0 1 = 0 → s.arg m.val 1 1 = 1 →
     s.arg m.val 2 1 = 0 → s.arg m.val 3 1 = 0 → s.arg m.val 4 2 = 0 → zeroAt (s.request m.val) 6 250 = true →
     ∃ (u t : State), exec (.timeSourceSet m) s = .next t ∧ u.completes m.val stOk 0 (sourceBody 0 u) t ∧
     u.tm.source = 1 ∧ u.tm.primary = 1 ∧ u.tm.secondary = 0 ∧ u.tm.revert = false ∧ u.tm.a = s.tm.a) ∧
  (∀ (s : State) (m : Fin 8), s.serves m.val 0x0601 = true → 1 < s.arg m.val 0 1 ∨ zeroAt (s.request m.val) 6 250 =
     false → s.arg m.val 1 1 ≤ 1 → s.arg m.val 2 1 = 0 → ∃ t, exec (.timeSourceSet m) s = .next t ∧
     s.completes m.val stBadArg 0 [] t)

/-- PPS_IN_EDGE on an enabled edge of the polarity chosen, at least 500 ms (in 1/256 samples) after the last one captured, captures time A and time B of the sample first seen at the new level, counts and raises G2.6; another edge changes nothing. An edge on a pin of an unpowered VIO bank changes nothing. PPS_IN_MISSING raises G2.7 once when 1.1 s have passed without a captured edge, counted from the setting of IN_EN where none came since. PPS_OUT_START makes the pin active when the time that OUT_SRC selects runs and has reached a whole second in this tick, and otherwise changes nothing; OUT_POL sets the level driven, and PPS_OUT of an unpowered bank is not driven; PPS_OUT_END ends it after the width or when its source has stopped. ENC_INPUT_CHANGE takes an input's new level once it has been seen for FILT + 1 ticks, noting the tick, and an input seen for less keeps its level; a disabled encoder does no more, an enabled one steps the axis, and raises G2.10+e when both inputs changed and G2.8+e at an index edge with INDEX in use. An input of an unpowered VIO bank reads low. MAINS_ZC_EDGE of the polarity chosen counts a cycle back-dated by 2 ms, and raises G2.13 when the period since the last crossing is outside the range of R385; MAINS_LOST raises G2.12 once when no edge has been accepted for 100 ms; no edge of an unpowered bank is seen. AXIS_CFG with OP 1 answers the settings; with OP 0 its settings and its preset wait for the next tick, which makes them the axis's, and it answers them as they will stand. From when 1.1 s count where no edge was captured is the model's choice, and what an unpowered bank does its reading (log entries 74 and 72). -/
def Obligations.TimePins : Prop :=
  (∀ (s : State) (r : Bool) (k : Fin 10), s.tm.ppsCfg.getLsbD 0 = true → r ≠ s.tm.ppsCfg.getLsbD 1 →
     (∀ x ∈ s.tm.ppsLast, x + 320000000000 ≤ 256 * (s.tm.ax5 + k.val)) → bankOn .ppsIn s = true → ∃ t,
     exec (.ppsInEdge ⟨r, k⟩) s = .next t ∧ State.raises [(2, 6)] { s with
         tm := { s.tm with ppsA := (BitVec.ofNat 64 (t0Reg (t0Of (timeAOf s (256 * (s.tm.ax5 + k.val))))), BitVec.ofNat 32 (timeAOf s (256 * (s.tm.ax5 + k.val))).frac), ppsB := (BitVec.ofNat 64 (t0Reg (t0Of (timeBOf s (256 * (s.tm.ax5 + k.val))))), BitVec.ofNat 32 (timeBOf s (256 * (s.tm.ax5 + k.val))).frac), ppsCnt := s.tm.ppsCnt + 1, ppsLast := some (256 * (s.tm.ax5 + k.val)), ppsMissing := false } } t) ∧
  (∀ (s : State) (r : Bool) (k : Fin 10) (x : Nat), s.tm.ppsLast = some x →
     256 * (s.tm.ax5 + k.val) < x + 320000000000 → exec (.ppsInEdge ⟨r, k⟩) s = .next s) ∧
  (∀ (s : State), s.tm.ppsCfg.getLsbD 0 = true → s.tm.ppsMissing = false → (∀ x ∈ s.tm.ppsLast,
     x + 704000000000 < nowU s) → s.tm.ppsFrom + 704000000000 < nowU s → ∃ t, exec .ppsInMissing s = .next t ∧
     State.raises [(2, 7)] { s with tm := { s.tm with ppsMissing := true } } t) ∧
  (∀ (s : State), ppsSource s = true → ppsSecond s = true → exec .ppsOutStart s = .next { s with
         tm := { s.tm with ppsOut := some s.tm.tick } }) ∧
  (∀ (s : State), ppsSource s = false ∨ ppsSecond s = false → exec .ppsOutStart s = .next s) ∧
  (∀ (s : State) (r : Bool) (k : Fin 10), bankOn .ppsIn s = false → exec (.ppsInEdge ⟨r, k⟩) s = .next s) ∧
  (∀ (s : State), (bankOn .ppsOut s = true → s.tm.ppsOut.isSome = true → ppsPin s =
     some (!s.tm.ppsCfg.getLsbD 9)) ∧ (bankOn .ppsOut s = true → s.tm.ppsOut = none → ppsPin s =
     some (s.tm.ppsCfg.getLsbD 9)) ∧ (bankOn .ppsOut s = false → ppsPin s = none)) ∧
  (∀ (s : State) (x : Nat), s.tm.ppsOut = some x → x + msTicks s * ppsWidth s ≤ s.tm.tick ∨ ppsSource s = false →
     exec .ppsOutEnd s = .next { s with tm := { s.tm with ppsOut := none } }) ∧
  (∀ (s : State) (x : Nat), s.tm.ppsOut = some x → s.tm.tick < x + msTicks s * ppsWidth s → ppsSource s = true →
     exec .ppsOutEnd s = .next s) ∧
  (∀ (s : State) (e : Fin 2) (a b z : Bool), encSeen s.tm.enc[e].movedA s.tm.enc[e].filt s.tm.tick = true →
     encSeen s.tm.enc[e].movedB s.tm.enc[e].filt s.tm.tick = true →
     encSeen s.tm.enc[e].movedZ s.tm.enc[e].filt s.tm.tick = true → bankOn (.enc e 0) s = true →
     bankOn (.enc e 1) s = true → bankOn (.enc e 2) s = true → s.tm.enc[e].enable = false →
     exec (.encInputChange e a b z) s = .next { s with
         tm := { s.tm with enc := tabMod s.tm.enc e.val fun q => { q with a := a, b := b, z := z, movedA := if a = q.a then q.movedA else some s.tm.tick, movedB := if b = q.b then q.movedB else some s.tm.tick, movedZ := if z = q.z then q.movedZ else some s.tm.tick } } }) ∧
  (∀ (s : State) (e : Fin 2) (a b z : Bool), encSeen s.tm.enc[e].movedA s.tm.enc[e].filt s.tm.tick = true →
     encSeen s.tm.enc[e].movedB s.tm.enc[e].filt s.tm.tick = true →
     encSeen s.tm.enc[e].movedZ s.tm.enc[e].filt s.tm.tick = true → bankOn (.enc e 0) s = true →
     bankOn (.enc e 1) s = true → bankOn (.enc e 2) s = true → s.tm.enc[e].enable = true → a = s.tm.enc[e].a ∨ b =
     s.tm.enc[e].b → z = false ∨ s.tm.enc[e].z = true ∨ s.tm.enc[e].index = 0 → exec (.encInputChange e a b z) s =
     .next { s with tm := { s.tm with enc := tabMod s.tm.enc e.val fun q => encMove q s.tm.tick a b z } }) ∧
  (∀ (s : State) (e : Fin 2) (a b z : Bool), encSeen s.tm.enc[e].movedA s.tm.enc[e].filt s.tm.tick = true →
     encSeen s.tm.enc[e].movedB s.tm.enc[e].filt s.tm.tick = true →
     encSeen s.tm.enc[e].movedZ s.tm.enc[e].filt s.tm.tick = true → bankOn (.enc e 0) s = true →
     bankOn (.enc e 1) s = true → bankOn (.enc e 2) s = true → s.tm.enc[e].enable = true → a ≠ s.tm.enc[e].a →
     b ≠ s.tm.enc[e].b → z = false ∨ s.tm.enc[e].z = true ∨ s.tm.enc[e].index = 0 → ∃ t,
     exec (.encInputChange e a b z) s = .next t ∧ State.raises [(2, 10 + e.val)] { s with
         tm := { s.tm with enc := tabMod s.tm.enc e.val fun q => encMove q s.tm.tick a b z } } t) ∧
  (∀ (s : State) (e : Fin 2) (a b : Bool), encSeen s.tm.enc[e].movedA s.tm.enc[e].filt s.tm.tick = true →
     encSeen s.tm.enc[e].movedB s.tm.enc[e].filt s.tm.tick = true →
     encSeen s.tm.enc[e].movedZ s.tm.enc[e].filt s.tm.tick = true → bankOn (.enc e 0) s = true →
     bankOn (.enc e 1) s = true → bankOn (.enc e 2) s = true → s.tm.enc[e].enable = true → a = s.tm.enc[e].a ∨ b =
     s.tm.enc[e].b → s.tm.enc[e].z = false → s.tm.enc[e].index ≠ 0 → ∃ t, exec (.encInputChange e a b true) s =
     .next t ∧ State.raises [(2, 8 + e.val)] { s with
         tm := { s.tm with enc := tabMod s.tm.enc e.val fun q => encMove q s.tm.tick a b true } } t) ∧
  (∀ (s : State) (e : Fin 2) (a b z : Bool), (encSeen s.tm.enc[e].movedA s.tm.enc[e].filt s.tm.tick = false →
     exec (.encInputChange e a b z) s = exec (.encInputChange e s.tm.enc[e].a b z) s) ∧
     (encSeen s.tm.enc[e].movedB s.tm.enc[e].filt s.tm.tick = false → exec (.encInputChange e a b z) s =
     exec (.encInputChange e a s.tm.enc[e].b z) s) ∧ (encSeen s.tm.enc[e].movedZ s.tm.enc[e].filt s.tm.tick = false →
     exec (.encInputChange e a b z) s = exec (.encInputChange e a b s.tm.enc[e].z) s)) ∧
  (∀ (s : State) (e : Fin 2) (a b z : Bool), (bankOn (.enc e 0) s = false → exec (.encInputChange e a b z) s =
     exec (.encInputChange e false b z) s) ∧ (bankOn (.enc e 1) s = false → exec (.encInputChange e a b z) s =
     exec (.encInputChange e a false z) s) ∧ (bankOn (.enc e 2) s = false → exec (.encInputChange e a b z) s =
     exec (.encInputChange e a b false) s)) ∧
  (∀ (s : State) (r : Bool), bankOn .mainsZc s = false → exec (.mainsZcEdge r) s = .next s) ∧
  (∀ (s : State) (r : Bool), s.tm.mains.enable = true → r = (s.tm.mains.mode == 0) → bankOn .mainsZc s = true →
     s.tm.mains.lastZc = none → exec (.mainsZcEdge r) s = .next { s with
         tm := { s.tm with mains := { s.tm.mains with cycles := (s.tm.mains.cycles + 1) % 2 ^ 48, lastZc := some (s.tm.ax5 - 5000000), period := 0, since := s.tm.ax5, range := s.tm.mains.range, lost := false, stepped := false, frac := 0 } } }) ∧
  (∀ (s : State) (r : Bool) (y : Nat), 5000000 ≤ s.tm.ax5 → s.tm.mains.enable = true → r = (s.tm.mains.mode == 0) →
     bankOn .mainsZc s = true → s.tm.mains.lastZc = some y → 35715000 ≤ s.tm.ax5 - 5000000 - y →
     s.tm.ax5 - 5000000 - y ≤ 208332500 → ∃ t, exec (.mainsZcEdge r) s = .next t ∧ t = { s with
         tm := { s.tm with mains := { s.tm.mains with cycles := (s.tm.mains.cycles + 1) % 2 ^ 48, lastZc := some (s.tm.ax5 - 5000000), period := s.tm.ax5 - 5000000 - y, since := s.tm.ax5, range := false, lost := false, stepped := false, frac := min 65535 (5000000 * 65536 / (s.tm.ax5 - 5000000 - y)) } } }) ∧
  (∀ (s : State) (r : Bool) (y : Nat), s.tm.mains.enable = true → r = (s.tm.mains.mode == 0) → bankOn .mainsZc s =
     true → s.tm.mains.lastZc = some y → s.tm.ax5 - 5000000 - y < 35715000 ∨ 208332500 < s.tm.ax5 - 5000000 - y →
     ∃ t, exec (.mainsZcEdge r) s = .next t ∧ t.tm.mains.range = true ∧ t.tm.mains.cycles =
     (s.tm.mains.cycles + 1) % 2 ^ 48 ∧ t.tm.mains.lastZc = some (s.tm.ax5 - 5000000) ∧ s.raises [(2, 13)] { t with
         tm := s.tm }) ∧
  (∀ (s : State), s.tm.mains.enable = true → s.tm.mains.lost = false → s.tm.mains.since + 250000000 ≤ s.tm.ax5 →
     ∃ t, exec .mainsLost s = .next t ∧ State.raises [(2, 12)] { s with
         tm := { s.tm with mains := { s.tm.mains with lost := true } } } t) ∧
  (∀ (s : State), s.tm.mains.enable = false ∨ s.tm.mains.lost = true ∨ s.tm.ax5 < s.tm.mains.since + 250000000 →
     exec .mainsLost s = .next s) ∧
  (∀ (s : State) (m : Fin 8), s.serves m.val 0x0602 = true → s.arg m.val 0 1 = 1 → s.arg m.val 1 1 = 4 →
     s.arg m.val 2 1 ≤ 1 → s.arg m.val 3 1 ≤ 1 → s.arg m.val 4 1 = 0 → s.arg m.val 5 1 = 0 →
     zeroAt (s.request m.val) 6 2 = true → zeroAt (s.request m.val) 16 240 = true → ∃ t, exec (.axisCfg m) s =
     .next t ∧ s.completes m.val stOk 0 (axisBody 1 4 s) t) ∧
  (∀ (s : State) (m : Fin 8), s.serves m.val 0x0602 = true → s.arg m.val 0 1 = 0 → s.arg m.val 1 1 = 4 →
     s.arg m.val 2 1 ∈ [0, 1, 4, 5] → s.arg m.val 3 1 ≤ 1 → s.arg m.val 4 1 = 0 → s.arg m.val 5 1 = 0 →
     zeroAt (s.request m.val) 6 2 = true → zeroAt (s.request m.val) 16 240 = true → ∃ (u t : State), u = { s with
         tm := { s.tm with axisSet := s.tm.axisSet ++ [{ axis := 4, enable := s.arg m.val 2 1 % 2 == 1, invert := s.arg m.val 2 1 / 2 % 2 == 1, mode := s.arg m.val 3 1, index := s.arg m.val 4 1, filt := s.arg m.val 5 1, preset := if 4 ≤ s.arg m.val 2 1 then some (s.arg m.val 8 6) else none }] } } ∧
     exec (.axisCfg m) s = .next t ∧ u.completes m.val stOk 0 (axisBody 0 4 (setAxes u)) t) ∧
  (∀ (s : State) (m : Fin 8), s.serves m.val 0x0602 = true → s.arg m.val 0 1 = 0 → 2 ≤ s.arg m.val 1 1 ∧
     s.arg m.val 1 1 ≤ 3 → s.arg m.val 2 1 ≤ 7 → s.arg m.val 3 1 ≤ 2 → s.arg m.val 4 1 ≤ 2 → s.arg m.val 5 1 ≤ 15 →
     zeroAt (s.request m.val) 6 2 = true → zeroAt (s.request m.val) 16 240 = true → ∃ (u t : State), u = { s with
         tm := { s.tm with axisSet := s.tm.axisSet ++ [{ axis := s.arg m.val 1 1, enable := s.arg m.val 2 1 % 2 == 1, invert := s.arg m.val 2 1 / 2 % 2 == 1, mode := s.arg m.val 3 1, index := s.arg m.val 4 1, filt := s.arg m.val 5 1, preset := if 4 ≤ s.arg m.val 2 1 then some (s.arg m.val 8 6) else none }] } } ∧
     exec (.axisCfg m) s = .next t ∧ u.completes m.val stOk 0 (axisBody 0 (s.arg m.val 1 1) (setAxes u)) t) ∧
  (∀ (s : State) (c : AxisSet) (n : Nat), s.tm.axisSet = [c] → c.axis = 4 → c.preset = some n → setAxes s =
     { s with
         tm := { s.tm with axisSet := [], mains := { s.tm.mains with enable := c.enable, mode := c.mode, since := (if c.enable && !s.tm.mains.enable then s.tm.ax5 else s.tm.mains.since), cycles := n, frac := 0, stepped := true } } })

/-- PLLS_LOCKED with a phase error below 100 ps on a good reference locks ADPLL-S and raises G13.0, closing an open TIMING_SUSPECT; PLLS_UNLOCKED beyond 1,000 ps returns it to ACQUIRING, counts, raises G13.1, signals F4 and opens TIMING_SUSPECT. PLLL_LOCKED, which says that the phase error has stayed below 50 ps, locks an ADPLL-L in FREE_RUN or ACQUIRING on a good reference, raises G13.2 and starts the ports' training time; PLLL_UNLOCKED, which says that the phase error has exceeded 200 ps, takes an ADPLL-L locked to a good reference to ACQUIRING, as a DCO_RANGE reading of ADPLL-L beyond 2,000 ppm does a locked or holding one, counts, raises G13.3, signals F6 and takes every UP port back to TRAINING with its link fault. Where the conditions do not hold nothing changes. DCO_RANGE of ADPLL-S within 200 ppm records the frequency and clears the range condition; beyond 200 and up to 2,000 ppm it sets it, and its first rise raises G13.10 and, during a drain, holds a cause; beyond that, or on the backup oscillator, it changes nothing. DCO_FAIL takes the backup oscillator, stops the samplers, counts, makes F5 live and raises G13.7; if an epoch is still being acquired, TIMING_SUSPECT opens and the epoch that captures closes at the last block; on the backup oscillator it changes nothing. -/
def Obligations.ClockLoops : Prop :=
  (∀ (s : State) (e : Int), s.pll.s.state = .freeRun ∨ s.pll.s.state = .acquiring → e.natAbs < 100 →
     refGood s.pll.ref s = true → s.ret.suspect = none → exec (.pllsLocked e) s =
     .next (goDead 7 (raise 13 0 { s with pll := { s.pll with s := { s.pll.s with state := .locked }, phErr := e } }))) ∧
  (∀ (s : State) (e : Int) (r : Nat), s.pll.s.state = .freeRun ∨ s.pll.s.state = .acquiring → e.natAbs < 100 →
     refGood s.pll.ref s = true → s.ret.suspect = some r → ∃ t, exec (.pllsLocked e) s = .next t ∧ t.pll =
     { s.pll with s := { s.pll.s with state := .locked }, phErr := e, suspect := false } ∧ t.ret.suspect = none ∧
     t.rawBit 13 0 = true ∧ t.dev = s.dev ∧ t.tm = s.tm ∧ t.pods = s.pods) ∧
  (∀ (s : State) (e : Int), s.pll.s.state = .locked → 1000 < e.natAbs → refGood s.pll.ref s = true →
     exec (.pllsUnlocked e) s = .next (openSuspect 0 (signal 4 0 (raise 13 1 { s with
         pll := { s.pll with s := { s.pll.s with state := .acquiring }, phErr := e, lockedTo := s.tm.ax5, sUnlocks := (s.pll.sUnlocks + 1) % 256 } })))) ∧
  (∀ (s : State) (e : Int), 100 ≤ e.natAbs → e.natAbs ≤ 1000 → exec (.pllsLocked e) s = .next s ∧
     exec (.pllsUnlocked e) s = .next s) ∧
  (∀ (s : State), s.pll.l.state = .freeRun ∨ s.pll.l.state = .acquiring → refGood s.pll.ref s = true → ∃ t,
     exec .plllLocked s = .next t ∧ t.pll = { s.pll with l := { s.pll.l with state := .locked } } ∧ t.rawBit 13 2 =
     true ∧ (∀ p < 3, (portOf t p).trainFrom = s.tm.tick) ∧ t.dev = s.dev ∧ t.tm = s.tm ∧ t.out = s.out) ∧
  (∀ (s : State), s.pll.l.state = .locked → refGood s.pll.ref s = true → ∃ (u v : State), u = { s with
         pll := { s.pll with l := { s.pll.l with state := .acquiring }, lUnlocks := (s.pll.lUnlocks + 1) % 256 } } ∧
     v = signal 6 0 (raise 13 3 u) ∧ exec .plllUnlocked s =
     .next ((List.range 3).foldl (fun w p => if (portOf w p).state =
     .up then lostPort p (leaveUp p .training w) else w) v)) ∧
  (∀ (s : State) (x : Int), s.pll.l.state = .locked ∨ s.pll.l.state = .holdover → 2000000 < x.natAbs →
     ∃ (u v : State), u = { s with
         pll := { s.pll with l := { s.pll.l with state := .acquiring }, lUnlocks := (s.pll.lUnlocks + 1) % 256 } } ∧
     v = signal 6 0 (raise 13 3 u) ∧ exec (.dcoRange ⟨true, x⟩) s =
     .next ((List.range 3).foldl (fun w p => if (portOf w p).state =
     .up then lostPort p (leaveUp p .training w) else w) v)) ∧
  (∀ (s : State), ((s.pll.l.state = .locked ∨ s.pll.l.state = .holdover ∨ refGood s.pll.ref s = false) →
     exec .plllLocked s = .next s) ∧ ((s.pll.l.state ≠ .locked ∨ refGood s.pll.ref s = false) →
     exec .plllUnlocked s = .next s) ∧ ∀ x : Int, x.natAbs ≤ 2000000 → exec (.dcoRange ⟨true, x⟩) s = .next s) ∧
  (∀ (s : State) (x : Int), x.natAbs ≤ 200000 → s.dev.backup = false → exec (.dcoRange ⟨false, x⟩) s =
     .next { s with
         pll := { s.pll with sFreq := x, dcoRange := false, readings := (if s.pll.s.state = .locked then addReading s.tm.ax5 x s.pll.readings else s.pll.readings) } }) ∧
  (∀ (s : State) (x : Int), 200000 < x.natAbs → x.natAbs ≤ 2000000 → s.dev.backup = false → s.pll.dcoRange =
     false → s.dev.acq = .idle → ∃ t, exec (.dcoRange ⟨false, x⟩) s = .next t ∧ State.raises [(13, 10)] { s with
         pll := { s.pll with sFreq := x, dcoRange := true, readings := (if s.pll.s.state = .locked then addReading s.tm.ax5 x s.pll.readings else s.pll.readings) } } t) ∧
  (∀ (s : State) (x : Int), 200000 < x.natAbs → x.natAbs ≤ 2000000 → s.dev.backup = false → s.pll.dcoRange =
     false → s.dev.acq = .draining → ∃ t, exec (.dcoRange ⟨false, x⟩) s = .next t ∧ t.rawBit 13 10 = true ∧
     t.ret.heldStop = some (min 4 (s.ret.heldStop.getD 4)) ∧ t.dev = s.dev ∧ t.ring = s.ring) ∧
  (∀ (s : State) (x : Int), 2000000 < x.natAbs ∨ s.dev.backup = true → exec (.dcoRange ⟨false, x⟩) s = .next s) ∧
  (∀ (s : State), s.dev.backup = false → ∃ (u v : State), u = spanB false (spanA false { s with
         dev := { s.dev with backup := true, stopped := true }, pll := { s.pll with s := { s.pll.s with state := .backup }, dcoRange := false, dcoFails := (s.pll.dcoFails + 1) % 256 } }) ∧
     v = raise 13 7 (goLive 5 0 u) ∧ (acquiring v = false → exec .dcoFail s = .next v) ∧ (acquiring v = true →
     exec .dcoFail s = .next (closeAtLastBlock (openSuspect 1 v)))) ∧
  (∀ (s : State), s.dev.backup = true → exec .dcoFail s = .next s)

/-- REF_LOST of a source not in use, or with no loop tracking, changes its monitor bits and ends its qualification, and in holdover another source then qualifies; in use and tracking, both loops enter holdover with the average word, the loss counts, G13.4 is raised and F7 goes live. REF_GOOD outside holdover changes the monitor bits alone; in holdover with none qualifying, a source that may end it begins its qualification. REF_QUALIFIED, QUAL_MS after qualification began, with phases folded and the source good makes it the reference, ends the qualification and raises G13.5. REF_PHASE_HIT beyond 500 ps on a locked loop counts a step and raises G13.6. REALIGN_DONE with both build-outs slewed to 0 ends the realignment and raises G13.9. PLL_CFG READ answers the settings; OPS bit 4 alone sets the qualification time. That a PLL_CFG naming REF_SEL while REF_ALT is in use is a switch, and what the average word is taken of, are the model's choices (log entries 76 and 77). -/
def Obligations.ClockReferences : Prop :=
  (∀ (s : State) (src : Fin 5) (b : Bool) (ppb : Int), src.val ≠ s.pll.ref ∨ tracking s = false → ∃ u, u = { s with
         pll := { s.pll with good := withoutBit src.val s.pll.good, missing := (if b then s.pll.missing ||| 2 ^ src.val else withoutBit src.val s.pll.missing), offRange := (if b then s.pll.offRange else s.pll.offRange ||| 2 ^ src.val), qualifying := (match s.pll.qualifying with | some (q, x) => if q = src.val then none else some (q, x) | none => none) } } ∧
     exec (.refLost src b ppb) s = .next (settleRef (if inHoldover u ∧ u.pll.qualifying =
     none then startQualify u else u))) ∧
  (∀ (s : State) (src : Fin 5) (b : Bool) (ppb : Int), src.val = s.pll.ref → tracking s = true → ∃ u,
     u.pll.s.state = (holdLoop false s.pll.s).state ∧ u.pll.l.state = (holdLoop false s.pll.l).state ∧
     u.pll.holdWord = ppb ∧ u.pll.refLosses = (s.pll.refLosses + 1) % 256 ∧ u = { s with pll := u.pll } ∧
     exec (.refLost src b ppb) s = .next (goLive 7 0 (raise 13 4 u))) ∧
  (∀ (s : State) (src : Fin 5), src.val < 2 ∨ (portOf s (src.val - 2)).state = .up → s.pll.s.state ≠ .holdover →
     s.pll.l.state ≠ .holdover → exec (.refGood src) s = .next { s with
         pll := { s.pll with good := s.pll.good ||| 2 ^ src.val, missing := withoutBit src.val s.pll.missing, offRange := withoutBit src.val s.pll.offRange } }) ∧
  (∀ (s : State) (src : Fin 5), src.val < 2 ∨ (portOf s (src.val - 2)).state = .up → s.pll.s.state =
     .holdover ∨ s.pll.l.state = .holdover → s.pll.qualifying = none → mayQualify src.val { s with
         pll := { s.pll with good := s.pll.good ||| 2 ^ src.val, missing := withoutBit src.val s.pll.missing, offRange := withoutBit src.val s.pll.offRange } } =
     true → exec (.refGood src) s = .next { s with
         pll := { s.pll with good := s.pll.good ||| 2 ^ src.val, missing := withoutBit src.val s.pll.missing, offRange := withoutBit src.val s.pll.offRange, qualifying := some (src.val, s.tm.tick) } }) ∧
  (∀ (s : State) (x y : Int), s.pll.qualifying = none → exec (.refQualified x y) s = .next s) ∧
  (∀ (s : State) (src n : Nat) (x y : Int), s.pll.qualifying = some (src, n) →
     foldPhase (tdcPeriod src s.pll.refInFreq s.pll.prepathCfg) x = x →
     foldPhase (tdcPeriod src s.pll.refInFreq s.pll.prepathCfg) y = y → refGood src s = true →
     n + s.pll.qualMs * msTicks s ≤ s.tm.tick → ∃ t, exec (.refQualified x y) s = .next t ∧ t.pll.ref = src ∧
     t.pll.holdWord = 0 ∧ t.pll.qualifying = none ∧ t.pll.switching = false ∧ t.rawBit 13 5 = true ∧ t.tm = s.tm ∧
     t.dev = s.dev) ∧
  (∀ (s : State) (x y : Int), x.natAbs ≤ 500 → y.natAbs ≤ 500 → exec (.refPhaseHit x y) s = .next s) ∧
  (∀ (s : State) (x y : Int), s.pll.s.state = .locked → 500 < x.natAbs → ∃ t, exec (.refPhaseHit x y) s = .next t ∧
     t.pll.stepCnt = s.pll.stepCnt + 1 ∧ t.pll.s.pbo =
     s.pll.s.pbo + foldPhase (tdcPeriod s.pll.ref s.pll.refInFreq s.pll.prepath) x ∧ t.rawBit 13 6 = true ∧ t.tm =
     s.tm ∧ t.dev = s.dev) ∧
  (∀ (s : State), s.pll.realigning = true → buildOut s = false → ∃ t, exec .realignDone s = .next t ∧
     State.raises [(13, 9)] { s with pll := { s.pll with realigning := false } } t) ∧
  (∀ (s : State), s.pll.realigning = false ∨ buildOut s = true → exec .realignDone s = .next s) ∧
  (∀ (s : State) (m : Fin 8), s.serves m.val 0x0B01 = true → s.arg m.val 0 1 = 1 → s.arg m.val 1 1 = 0 →
     zeroAt (s.request m.val) 14 242 = true → ∃ t, exec (.pllCfg m) s = .next t ∧
     s.completes m.val stOk 0 (pllBody 1 s) t) ∧
  (∀ (s : State) (m : Fin 8), s.serves m.val 0x0B01 = true → s.arg m.val 0 1 = 0 → s.arg m.val 1 1 = 16 →
     10 ≤ s.arg m.val 12 2 → s.arg m.val 12 2 ≤ 60000 → zeroAt (s.request m.val) 14 242 = true → ∃ (u t : State),
     exec (.pllCfg m) s = .next t ∧ u = { s with pll := { s.pll with qualMs := s.arg m.val 12 2 } } ∧
     u.completes m.val stOk 0 (pllBody 0 u) t) ∧
  (∀ (s : State) (m : Fin 8), s.serves m.val 0x0B01 = true → s.arg m.val 0 1 = 0 → s.arg m.val 1 1 = 1 →
     s.arg m.val 2 1 ≤ 1 → s.arg m.val 2 1 ≠ s.pll.refSel → s.arg m.val 3 1 = 0xFF → s.arg m.val 4 1 ≤ 2 →
     s.arg m.val 5 1 ≤ 2 → zeroAt (s.request m.val) 14 242 = true → (mbOf s m.val).key ≠ 5 → ∃ t,
     exec (.pllCfg m) s = .next t ∧ s.completes m.val stLocked 0 [] t)

/-- SCH_ARM asks for the arm of a slot that is not armed, to take effect at the next tick, and SCH_DISARM disarms it at once and drops a pending arm; nothing else changes but the consumed unlock. A SCH_SF write gives each of the eight flags the value of its bit where byte 0 is enabled, and changes nothing else; with no byte enabled it changes only the unlock. SCH_SLOT_REACHED on an armed, reached slot whose action sets flag k dispatches it at once: the outcome is DONE at the instant of continuous motion, the done count advances, and a one-shot slot disarms; an action that needs the queue is queued there while fewer than 16 wait. Every slot reached before it, or in its tick under a lower number, is dispatched first. Where no slot is reached nothing changes. SCH_ACTION_EXECUTE takes the oldest queued action, which then gets its outcome: a cairn request outside acquisition becomes MISSED with G2.17. -/
def Obligations.SchedulerSlots : Prop :=
  (∀ (s : State) (n : Fin 64), s.reached = true → exec (.schArm n) s = .next { s.spent with
         sch := { s.sch with slots := tabMod s.sch.slots n.val fun q => { q with armReq := !q.armed } } }) ∧
  (∀ (s : State) (n : Fin 64), s.reached = true → exec (.schDisarm n) s = .next { s.spent with
         sch := { s.sch with slots := tabMod s.sch.slots n.val fun q => { q with armed := false, armReq := false, due := none } } }) ∧
  (∀ (s : State) (v : Word) (be : BitVec 4), s.reached = true → ∃ t, exec (.schSf v be) s = .next t ∧ (∀ k < 8,
     t.sch.sf.testBit k = if be.getLsbD 0 then v.getLsbD k else s.sch.sf.testBit k) ∧ t = { s.spent with
         sch := { s.sch with sf := t.sch.sf, sfHist := t.sch.sfHist } }) ∧
  (∀ (s : State) (v : Word), s.reached = true → exec (.schSf v 0#4) s = .next s.spent) ∧
  (∀ (s : State) (n : Fin 64), exec (.schSlotReached n) s = .next (dispatchThrough n.val (noteAll s))) ∧
  (∀ (s : State) (n : Fin 64), (∀ k < 64, (slotOf s k).due = none ∧ ((slotOf s k).armed = false ∨ slotReached k s =
     false)) → exec (.schSlotReached n) s = .next s) ∧
  (∀ (s : State) (n : Fin 64), (slotOf s n.val).due = none → (slotOf s n.val).armed = false ∨ slotReached n.val s =
     false → ∃ t, exec (.schSlotReached n) s = .next t ∧ t = { s with sch := { s.sch with slots := t.sch.slots } } ∧
     ∀ k < 64, slotOf t k = { slotOf s k with due := (slotOf t k).due }) ∧
  (∀ (s : State) (n : Fin 64) (x : Nat), (∀ k < 64, k ≠ n.val → (slotOf s k).due = none ∧ ((slotOf s k).armed =
     false ∨ slotReached k s = false)) → (slotOf s n.val).due = none → (slotOf s n.val).armed = true →
     slotReached n.val s = true → slotInstant n.val s = some x → 3 ≤ schAction (slotOf s n.val).cfg →
     s.sch.queue.length < 16 → (slotOf s n.val).period = 0 → ∃ t, exec (.schSlotReached n) s = .next t ∧
     t.sch.queue =
     s.sch.queue ++ [{ slot := n.val, outcome := 0, instant := x, target := (slotOf s n.val).target.toNat, cfg := (slotOf s n.val).cfg }] ∧
     (slotOf t n.val).armed = false ∧ (slotOf t n.val).queued = true ∧ t = { s with sch := t.sch }) ∧
  (∀ (s : State) (n : Fin 64) (x : Nat), (∀ k < 64, k ≠ n.val → (slotOf s k).due = none ∧ ((slotOf s k).armed =
     false ∨ slotReached k s = false)) → (slotOf s n.val).due = none → (slotOf s n.val).armed = true →
     slotReached n.val s = true → slotInstant n.val s = some x → schAction (slotOf s n.val).cfg = 1 →
     (slotOf s n.val).period = 0 → (slotOf s n.val).cfg.getLsbD 14 = false → (slotOf s n.val).cfg.getLsbD 15 =
     false → ∃ t, exec (.schSlotReached n) s = .next t ∧ t.sch.sf.testBit (schArg (slotOf s n.val).cfg % 8) = true ∧
     (slotOf t n.val).armed = false ∧ (slotOf t n.val).outcome = 0 ∧ (slotOf t n.val).doneCnt =
     ((slotOf s n.val).doneCnt + 1) % 65536 ∧ t.sch.queue = s.sch.queue ∧ t = { s with sch := t.sch }) ∧
  (∀ (s : State), s.sch.queue = [] → exec .schActionExecute s = .next s) ∧
  (∀ (s : State) (q : SchAction) (rest : List SchAction), s.sch.queue = q :: rest → schAction q.cfg = 6 →
     q.slot < 64 → acquiring s = false → q.cfg.getLsbD 14 = false → q.cfg.getLsbD 15 = false → ∃ t,
     exec .schActionExecute s = .next t ∧ t.sch.queue = rest ∧ (slotOf t q.slot).outcome = 2 ∧
     (slotOf t q.slot).missed = true ∧ (slotOf t q.slot).missedCnt = ((slotOf s q.slot).missedCnt + 1) % 65536 ∧
     t.rawBit 2 17 = true ∧ s.raises [(2, 17)] { t with sch := s.sch }) ∧
  (∀ (s : State) (q : SchAction) (rest : List SchAction), s.sch.queue = q :: rest → schAction q.cfg = 6 →
     q.slot < 64 → q.outcome = 0 → acquiring s = true → q.cfg.getLsbD 14 = false → q.cfg.getLsbD 15 = false → ∃ t,
     exec .schActionExecute s = .next t ∧ t.sch.queue = rest ∧ (slotOf t q.slot).outcome = 0 ∧
     (slotOf t q.slot).doneCnt = ((slotOf s q.slot).doneCnt + 1) % 65536 ∧ t.ret =
     (addRequest (schArg q.cfg % 4) q.instant s).ret)

/-- RL_PORT_UP brings a training port UP when a loop is locked or in holdover outside safe state: the peer is noted, its faults end, the RLx_UP event is raised. RL_PORT_DOWN leaves UP for TRAINING and signals the link fault; RL_TRAIN_TIMEOUT signals it for a port that has been training for 100 ms with ADPLL-L LOCKED, and before that changes nothing; the link fault is signalled once in an episode; FAULT_IDLE_RX makes a training port PEER_FAULT with its event, and an UP port as well with the link fault; RL_PEER_FAULT_END returns it to TRAINING. RL_FRAME_BAD counts a frame with an error on an UP port, and one that is being forwarded cut-through ends downstream with an inverted CRC, RL_TIME_LOSS ends GOOD once no TIME frame has come for more than 200 us. -/
def Obligations.RidgelineStates : Prop :=
  (∀ (s : State) (p : Fin 3) (peer : List Byte) (n : Byte), s.dev.variant.ridgeline = true →
     (portOf s p.val).state = .training → s.pll.l.state = .locked ∨ s.pll.l.state = .holdover → s.dev.safe = false →
     ∃ t, exec (.rlPortUp p peer n) s = .next t ∧ (portOf t p.val).state = .up ∧ (portOf t p.val).peer =
     some (padTo 16 peer, n.toNat) ∧ (portOf t p.val).faulted = false ∧ t.rawBit 12 p.val = true ∧ t.dev = s.dev ∧
     t.pll = { s.pll with missing := withoutBit (2 + p.val) s.pll.missing } ∧ t.tm = s.tm ∧ t.ring = s.ring ∧
     t.summit = s.summit) ∧
  (∀ (s : State) (p : Fin 3), (portOf s p.val).state = .up → exec (.rlPortDown p) s =
     .next (lostPort p.val (leaveUp p.val .training s))) ∧
  (∀ (s : State) (p : Fin 3), (portOf s p.val).state ≠ .up → exec (.rlPortDown p) s = .next s) ∧
  (∀ (s : State) (p : Fin 3), s.dev.variant.ridgeline = true → (portOf s p.val).state =
     .training ∨ (portOf s p.val).state = .peerFault → s.pll.l.state = .locked →
     (portOf s p.val).trainFrom + 100 * msTicks s ≤ s.tm.tick → exec (.rlTrainTimeout p) s = .next (linkFault p.val s)) ∧
  (∀ (s : State) (p : Fin 3), s.tm.tick < (portOf s p.val).trainFrom + 100 * msTicks s ∨ (portOf s p.val).state =
     .up ∨ (portOf s p.val).state = .disabled ∨ s.pll.l.state ≠ .locked → exec (.rlTrainTimeout p) s = .next s) ∧
  (∀ (s : State) (p : Fin 3), (portOf s p.val).faulted = true → linkFault p.val s = s) ∧
  (∀ (s : State) (p : Fin 3), (portOf s p.val).state = .up → exec (.faultIdleRx p) s =
     .next (lostPort p.val (raise 12 (6 + p.val) (leaveUp p.val .peerFault s)))) ∧
  (∀ (s : State) (p : Fin 3), s.dev.variant.ridgeline = true → (portOf s p.val).state = .training → ∃ t,
     exec (.faultIdleRx p) s = .next t ∧ State.raises [(12, 6 + p.val)] { s with
         rl := { s.rl with ports := tabMod s.rl.ports p.val fun q => { q with state := .peerFault, good := false } } } t) ∧
  (∀ (s : State) (p : Fin 3), (portOf s p.val).state = .disabled ∨ (portOf s p.val).state = .peerFault →
     exec (.faultIdleRx p) s = .next s) ∧
  (∀ (s : State) (p : Fin 3), (portOf s p.val).state = .peerFault → exec (.rlPeerFaultEnd p) s = .next { s with
         rl := { s.rl with ports := tabMod s.rl.ports p.val fun q => { q with state := .training, good := false } } }) ∧
  (∀ (s : State) (r : RxBlocks), s.dev.variant.ridgeline = true → (portOf s r.port.val).state = .up →
     rxGood (rxBytes r.blocks) = false → (rxBytes r.blocks).length < 16 → exec (.rlFrameBad r) s = .next { s with
         rl := { s.rl with ports := tabMod s.rl.ports r.port.val fun q => { q with crcErr := q.crcErr + 1 } } }) ∧
  (∀ (s : State) (r : RxBlocks), s.dev.variant.ridgeline = true → (portOf s r.port.val).state = .up →
     rxGood (rxBytes r.blocks) = false → exec (.rlFrameBad r) s =
     .next (cutThrough r.port.val (rxBytes r.blocks) { s with
         rl := { s.rl with ports := tabMod s.rl.ports r.port.val fun q => { q with crcErr := q.crcErr + 1 } } })) ∧
  (∀ (s : State) (p q : Fin 3) (f : List Byte), s.dev.variant.ridgeline = true → s.dev.safe = false →
     16 ≤ f.length → 3 ≤ fieldAt f 1 1 → fieldAt f 1 1 ≤ 16 → forwards (padTo (8 * fieldAt f 1 1) f) s = true →
     frHop (padTo (8 * fieldAt f 1 1) f) ≠ 0xFFFF → p ≠ q → (portOf s q.val).state = .up → (portOf s q.val).txq =
     [] → (portOf s q.val).txBusy ≤ nowU s →
     Output.rlFrame q.val (invertCrc (rlBytes (frType (padTo (8 * fieldAt f 1 1) f)) (portOf s q.val).lseqTx (frOrigin (padTo (8 * fieldAt f 1 1) f)) (frDest (padTo (8 * fieldAt f 1 1) f)) (frHop (padTo (8 * fieldAt f 1 1) f) + 1) (frOseq (padTo (8 * fieldAt f 1 1) f)) (frBody (padTo (8 * fieldAt f 1 1) f)))) ∈ (cutThrough p.val f s).out) ∧
  (∀ (s : State) (r : RxBlocks), s.dev.variant.ridgeline =
     false ∨ (portOf s r.port.val).state ≠ .up ∨ rxGood (rxBytes r.blocks) = true → exec (.rlFrameBad r) s = .next s) ∧
  (∀ (s : State) (p : Fin 3) (x : TimeSeen), (portOf s p.val).lastTime = none ∨ ((portOf s p.val).lastTime =
     some x ∧ x.tick + 200 * usTicks s < s.tm.tick) → exec (.rlTimeLoss p) s = .next { s with
         rl := { s.rl with ports := tabMod s.rl.ports p.val fun q => { q with good := false } } }) ∧
  (∀ (s : State) (p : Fin 3) (x : TimeSeen), (portOf s p.val).lastTime = some x →
     s.tm.tick ≤ x.tick + 200 * usTicks s → exec (.rlTimeLoss p) s = .next s)

/-- TIME_FRAME_TX and DELAY_REQ_TX on an UP port outside safe state send one frame of their type with the port's next LSEQ, count it, and change nothing else; while a frame is being sent theirs waits in the port's queue, of which a frame of the lowest priority number goes first; on a port that is not UP they change nothing. A received frame in LSEQ order counts, moves the expected LSEQ on and records PEER_ADDR: TIME also records its fields as the last valid TIME frame where TB_VALID is set; DELAY_REQ is answered with a DELAY_RESP of its time and time B; DELAY_RESP adds a delay sample, sixteen at most; CREDIT_ACK adds its credit. A frame that is not good for its type only counts in RL_CRC_ERR, and one on a port that is not UP changes nothing. A flooded frame of FIRE, ARM, DISARM, TIMED, TUNNEL_REQ or TUNNEL_RESP whose OSEQ is not newer than the last from its ORIGIN only counts as received and keeps the origin's entry. A newer one is recorded and forwarded, and applied where DEST names this unit or every unit: FIRE is queued for the fabric at the next sample when the port accepts its class; ARM and DISARM act on the sequencers of their group; a TIMED action waits in the list while time B is valid and its time not reached. How a failed reassembly asks for its frames again is the model's choice (log entry 75). -/
def Obligations.RidgelineFrames : Prop :=
  (∀ (s : State) (p : Fin 3), s.dev.variant.ridgeline = true → (portOf s p.val).state = .up → s.dev.safe = false →
     (portOf s p.val).txq = [] → (portOf s p.val).txBusy ≤ nowU s → exec (.timeFrameTx p) s = .next { s with
         out := s.out ++ [.rlFrame p.val (rlBytes 0x01 (portOf s p.val).lseqTx s.rl.addr 0xFFFF 0 0 (timeFrame s))], rl := { s.rl with ports := tabMod s.rl.ports p.val fun q => { q with txCnt := q.txCnt + 1, lseqTx := (q.lseqTx + 1) % 65536, txCur := (rlBytes 0x01 (portOf s p.val).lseqTx s.rl.addr 0xFFFF 0 0 (timeFrame s)), txBusy := nowU s + frameTime (rlBytes 0x01 (portOf s p.val).lseqTx s.rl.addr 0xFFFF 0 0 (timeFrame s)).length } } }) ∧
  (∀ (s : State) (p : Fin 3), s.dev.variant.ridgeline = true → (portOf s p.val).state = .up → s.dev.safe = false →
     (portOf s p.val).txq = [] → (portOf s p.val).txBusy ≤ nowU s → exec (.delayReqTx p) s = .next { s with
         out := s.out ++ [.rlFrame p.val (rlBytes 0x02 (portOf s p.val).lseqTx s.rl.addr 0xFFFF 0 0 (timeBytes s.tm.b))], rl := { s.rl with ports := tabMod s.rl.ports p.val fun q => { q with txCnt := q.txCnt + 1, lseqTx := (q.lseqTx + 1) % 65536, txCur := (rlBytes 0x02 (portOf s p.val).lseqTx s.rl.addr 0xFFFF 0 0 (timeBytes s.tm.b)), txBusy := nowU s + frameTime (rlBytes 0x02 (portOf s p.val).lseqTx s.rl.addr 0xFFFF 0 0 (timeBytes s.tm.b)).length } } }) ∧
  (∀ (s : State) (p : Fin 3), s.dev.variant.ridgeline = true → (portOf s p.val).state = .up → s.dev.safe = false →
     nowU s < (portOf s p.val).txBusy → exec (.timeFrameTx p) s = .next { s with
         rl := { s.rl with ports := tabMod s.rl.ports p.val fun q => { q with txq := q.txq ++ [{ type := 0x01, origin := s.rl.addr, dest := 0xFFFF, hop := 0, oseq := 0, body := timeFrame s, bad := false }] } } } ∧
     exec (.delayReqTx p) s = .next { s with
         rl := { s.rl with ports := tabMod s.rl.ports p.val fun q => { q with txq := q.txq ++ [{ type := 0x02, origin := s.rl.addr, dest := 0xFFFF, hop := 0, oseq := 0, body := timeBytes s.tm.b, bad := false }] } } }) ∧
  (∀ (t u : TxFrame) (l : List TxFrame), firstTx l = some t → u ∈ l → t ∈ l ∧ frPriority t.type ≤ frPriority u.type) ∧
  (∀ (s : State) (p : Fin 3), (portOf s p.val).state ≠ .up → exec (.timeFrameTx p) s = .next s ∧
     exec (.delayReqTx p) s = .next s) ∧
  (∀ (s : State) (p : Fin 3) (f : List Byte), rxOk p.val 0x01 f s = true → (portOf s p.val).lseqRx =
     none ∨ (portOf s p.val).lseqRx = some (frLseq f) → ∃ t, exec (.timeFrameRx p f) s = .next t ∧
     (portOf t p.val).rxCnt = (portOf s p.val).rxCnt + 1 ∧ (portOf t p.val).lseqRx = some ((frLseq f + 1) % 65536) ∧
     (portOf t p.val).peerAddr = frOrigin f ∧ (portOf t p.val).lastTime =
     (if bitOf 0 (fieldAt (frBody f) 22 1) then some { tick := s.tm.tick, ax5 := s.tm.ax5, tb := timeFlat (bodyTime (frBody f) 0), holdover := bitOf 1 (fieldAt (frBody f) 22 1), root := fieldAt (frBody f) 16 2, stratum := fieldAt (frBody f) 18 2, upstream := fieldAt (frBody f) 20 2 } else (portOf s p.val).lastTime) ∧
     (portOf t p.val).offset =
     ((timeFlat (bodyTime (frBody f) 0) : Int) - (timeFlat s.tm.b : Int)) * 1000 / 2 ^ 32 + (portOf s p.val).delay + (portOf s p.val).asymPs ∧
     (s.tm.source ≠ p.val + 2 → t.tm = s.tm)) ∧
  (∀ (s : State) (p : Fin 3) (f : List Byte), rxOk p.val 0x02 f s = true → (portOf s p.val).lseqRx =
     none ∨ (portOf s p.val).lseqRx = some (frLseq f) → s.dev.safe = false → (portOf s p.val).txq = [] →
     (portOf s p.val).txBusy ≤ nowU s → ∃ t, exec (.delayReqRx p f) s = .next t ∧ (portOf t p.val).rxCnt =
     (portOf s p.val).rxCnt + 1 ∧ (portOf t p.val).lseqRx = some ((frLseq f + 1) % 65536) ∧
     (portOf t p.val).peerAddr = frOrigin f ∧ t.out =
     s.out ++ [.rlFrame p.val (rlBytes 0x03 (portOf s p.val).lseqTx s.rl.addr 0xFFFF 0 0 (padTo 16 (frBody f) ++ timeBytes s.tm.b ++ timeBytes s.tm.b))] ∧
     t.tm = s.tm ∧ t.pll = s.pll ∧ t.evt = s.evt) ∧
  (∀ (s : State) (p : Fin 3) (f : List Byte), rxOk p.val 0x03 f s = true → (portOf s p.val).lseqRx =
     none ∨ (portOf s p.val).lseqRx = some (frLseq f) → ∃ t, exec (.delayRespRx p f) s = .next t ∧
     (portOf t p.val).rxCnt = (portOf s p.val).rxCnt + 1 ∧ (portOf t p.val).lseqRx = some ((frLseq f + 1) % 65536) ∧
     (portOf t p.val).peerAddr = frOrigin f ∧ (portOf t p.val).samples.length =
     min 16 ((portOf s p.val).samples.length + 1) ∧ (portOf t p.val).samples.tail =
     (portOf s p.val).samples.take 15 ∧ (portOf t p.val).delay = meanDelay (portOf t p.val).samples ∧ t.tm = s.tm) ∧
  (∀ (s : State) (p : Fin 3) (f : List Byte), rxOk p.val 0x04 f s = true → (portOf s p.val).lseqRx =
     none ∨ (portOf s p.val).lseqRx = some (frLseq f) → (portOf s p.val).fwdBuf = [] → (portOf s p.val).fwdDrop =
     none → ∃ t, exec (.creditAckRx p f) s = .next t ∧ (portOf t p.val).rxCnt = (portOf s p.val).rxCnt + 1 ∧
     (portOf t p.val).lseqRx = some ((frLseq f + 1) % 65536) ∧ (portOf t p.val).peerAddr = frOrigin f ∧
     (portOf t p.val).credit = (portOf s p.val).credit + fieldAt (frBody f) 4 4 ∧ t.out = s.out ∧ t.tm = s.tm ∧
     t.ret = s.ret) ∧
  (∀ (s : State) (p : Fin 3) (f : List Byte), rxOk p.val 0x40 f s = true → (portOf s p.val).lseqRx =
     none ∨ (portOf s p.val).lseqRx = some (frLseq f) → (portOf s p.val).fwdRx = true → fieldAt (frBody f) 0 4 =
     (portOf s p.val).rseqRx → fieldAt (frBody f) 4 1 = 1 → ∃ t, exec (.recordFrameRx p f) s = .next t ∧
     (portOf t p.val).rxCnt = (portOf s p.val).rxCnt + 1 ∧ (portOf t p.val).lseqRx = some ((frLseq f + 1) % 65536) ∧
     (portOf t p.val).peerAddr = frOrigin f ∧ (portOf t p.val).rseqRx = ((portOf s p.val).rseqRx + 1) % 2 ^ 32 ∧
     (portOf t p.val).reasm = ((frBody f).drop 8).take 96 ∧ (portOf t p.val).grant =
     (portOf s p.val).grant - recSize (frBody f) ∧ t.tm = s.tm ∧ t.ret = s.ret ∧ t.cmp = s.cmp) ∧
  (∀ (s : State) (p : Fin 3) (f : List Byte), s.dev.variant.ridgeline = false ∨ (portOf s p.val).state ≠ .up →
     exec (.timeFrameRx p f) s = .next s ∧ exec (.delayReqRx p f) s = .next s ∧ exec (.delayRespRx p f) s = .next s ∧
     exec (.creditAckRx p f) s = .next s ∧ exec (.recordFrameRx p f) s = .next s ∧ exec (.fireFrameRx p f) s =
     .next s ∧ exec (.armFrameRx p f) s = .next s ∧ exec (.disarmFrameRx p f) s = .next s ∧
     exec (.timedFrameRx p f) s = .next s ∧ exec (.tunnelReqRx p f) s = .next s ∧ exec (.tunnelRespRx p f) s =
     .next s ∧ exec (.discoverRx p f) s = .next s ∧ exec (.discoverReplyRx p f) s = .next s ∧
     exec (.assignRx p f) s = .next s) ∧
  (∀ (s : State) (p : Fin 3) (f : List Byte) (c : Instr) (ty : Nat), s.dev.variant.ridgeline = true →
     (portOf s p.val).state = .up → frGood ty f = false → (c, ty) ∈ [(.timeFrameRx p f, 0x01), (.delayReqRx p f,
     0x02), (.delayRespRx p f, 0x03), (.creditAckRx p f, 0x04), (.recordFrameRx p f, 0x40), (.fireFrameRx p f, 0x10),
     (.armFrameRx p f, 0x11), (.disarmFrameRx p f, 0x12), (.timedFrameRx p f, 0x20), (.tunnelReqRx p f, 0x30),
     (.tunnelRespRx p f, 0x31), (.discoverRx p f, 0x50), (.discoverReplyRx p f, 0x51), (.assignRx p f, 0x52)] →
     exec c s = .next (cutThrough p.val f { s with
         rl := { s.rl with ports := tabMod s.rl.ports p.val fun q => { q with crcErr := q.crcErr + 1 } } })) ∧
  (∀ (s : State) (p : Fin 3) (f : List Byte) (ty : Nat), rxOk p.val ty f s = true →
     newerOseq (frOrigin f) (frOseq f) (rxFrame p.val f s) = false → (ty = 0x10 → exec (.fireFrameRx p f) s =
     .next (seeOrigin (frOrigin f) (rxFrame p.val f s))) ∧ (ty = 0x11 → exec (.armFrameRx p f) s =
     .next (seeOrigin (frOrigin f) (rxFrame p.val f s))) ∧ (ty = 0x12 → exec (.disarmFrameRx p f) s =
     .next (seeOrigin (frOrigin f) (rxFrame p.val f s))) ∧ (ty = 0x20 → exec (.timedFrameRx p f) s =
     .next (seeOrigin (frOrigin f) (rxFrame p.val f s))) ∧ (ty = 0x30 → exec (.tunnelReqRx p f) s =
     .next (seeOrigin (frOrigin f) (rxFrame p.val f s))) ∧ (ty = 0x31 → exec (.tunnelRespRx p f) s =
     .next (seeOrigin (frOrigin f) (rxFrame p.val f s)))) ∧
  (∀ (s : State) (p : Fin 3) (f : List Byte) (ty : Nat), rxOk p.val ty f s = true →
     newerOseq (frOrigin f) (frOseq f) (rxFrame p.val f s) = true → frDest f ≠ 0xFFFF →
     frDest f ≠ s.rl.addr ∨ s.rl.addr = 0 → (ty = 0x10 → exec (.fireFrameRx p f) s =
     .next (forward p.val f (recordOrigin (frOrigin f) (frOseq f) (rxFrame p.val f s)))) ∧ (ty = 0x11 →
     exec (.armFrameRx p f) s = .next (forward p.val f (recordOrigin (frOrigin f) (frOseq f) (rxFrame p.val f s)))) ∧
     (ty = 0x12 → exec (.disarmFrameRx p f) s =
     .next (forward p.val f (recordOrigin (frOrigin f) (frOseq f) (rxFrame p.val f s)))) ∧ (ty = 0x20 →
     exec (.timedFrameRx p f) s =
     .next (forward p.val f (recordOrigin (frOrigin f) (frOseq f) (rxFrame p.val f s)))) ∧ (ty = 0x30 →
     exec (.tunnelReqRx p f) s =
     .next (forward p.val f (recordOrigin (frOrigin f) (frOseq f) (rxFrame p.val f s)))) ∧ (ty = 0x31 →
     exec (.tunnelRespRx p f) s = .next (forward p.val f (recordOrigin (frOrigin f) (frOseq f) (rxFrame p.val f s))))) ∧
  (∀ (s : State) (p : Fin 3) (f : List Byte), rxOk p.val 0x10 f s = true →
     newerOseq (frOrigin f) (frOseq f) (rxFrame p.val f s) = true → frDest f = 0xFFFF ∨ (frDest f = s.rl.addr ∧
     s.rl.addr ≠ 0) → (portOf s p.val).rfireAccept = true → fieldAt (frBody f) 0 1 < 4 →
     (portOf s p.val).classMask.testBit (fieldAt (frBody f) 0 1) = true → ∃ t, exec (.fireFrameRx p f) s = .next t ∧
     t.fab.rfire = s.fab.rfire ++ [(fieldAt (frBody f) 0 1, s.tm.ax5 + 1, firePlace (frBody f) (s.tm.ax5 + 1) s)] ∧
     t.rawBit 12 16 = true ∧ (∃ e ∈ t.rl.origins, e = (frOrigin f, frOseq f, s.tm.tick)) ∧ t.tm = s.tm ∧ t.dev = s.dev) ∧
  (∀ (s : State) (p : Fin 3) (f : List Byte), rxOk p.val 0x11 f s = true →
     newerOseq (frOrigin f) (frOseq f) (rxFrame p.val f s) = true → frDest f = 0xFFFF ∨ (frDest f = s.rl.addr ∧
     s.rl.addr ≠ 0) → exec (.armFrameRx p f) s =
     .next (chainArm (fieldAt (frBody f) 0 1) (bodyTime (frBody f) 4).sec (bodyTime (frBody f) 4).ns (fieldAt (frBody f) 1 1) (forward p.val f (recordOrigin (frOrigin f) (frOseq f) (rxFrame p.val f s))))) ∧
  (∀ (s : State) (p : Fin 3) (f : List Byte), rxOk p.val 0x12 f s = true →
     newerOseq (frOrigin f) (frOseq f) (rxFrame p.val f s) = true → frDest f = 0xFFFF ∨ (frDest f = s.rl.addr ∧
     s.rl.addr ≠ 0) → exec (.disarmFrameRx p f) s =
     .next (chainDisarm (fieldAt (frBody f) 0 1) (forward p.val f (recordOrigin (frOrigin f) (frOseq f) (rxFrame p.val f s))))) ∧
  (∀ (s : State) (p : Fin 3) (f : List Byte), rxOk p.val 0x20 f s = true →
     newerOseq (frOrigin f) (frOseq f) (rxFrame p.val f s) = true → frDest f = 0xFFFF ∨ (frDest f = s.rl.addr ∧
     s.rl.addr ≠ 0) → s.tm.bValid = true → timeBReached (bodyTime (frBody f) 0).sec (bodyTime (frBody f) 0).ns s =
     false → s.rl.timed.length < 16 → ∃ t, exec (.timedFrameRx p f) s = .next t ∧ t.rl.timed =
     s.rl.timed ++ [timedOf (frBody f) 0xFFFF] ∧ t.tm = s.tm ∧ t.sch = s.sch ∧ t.fab = s.fab)

/-- RL_TIMED with OP 2 answers the queue's length; with OP 0, outside a past launch and with room, it queues the entry and completes OK. RL_TIMED_LAUNCH sends the first entry of a launch queue once time B has reached it, taking the next OSEQ; before that it changes nothing. RL_TIMED_APPLY takes a reached entry off the list and acts; RL_ORIGIN_EXPIRE forgets an origin once it has seen no frame for 1 s, and before that changes nothing. RL_TUNNEL with valid fields on a unit with an address opens a tunnel with the next TTAG and its deadline, and the mailbox goes on RUNNING; its time-out, once the deadline is reached, completes the mailbox INTERNAL with status 0xFF in the reply, and raises G12.14; before the deadline it changes nothing. The first segment of a tunnelled request is kept until all three have come. The response's third segment completes the requester's mailbox with the remote status and body. -/
def Obligations.RidgelineTimed : Prop :=
  (∀ (s : State) (m : Fin 8), s.serves m.val 0x0704 = true → s.arg m.val 1 1 = 2 → s.arg m.val 0 1 ≤ 2 →
     s.arg m.val 2 1 ≤ 1 → s.arg m.val 3 1 ≤ 7 → s.arg m.val 12 4 ≤ 999999999 → s.arg m.val 20 4 ≤ 999999999 →
     timeLt (s.arg m.val 16 4, s.arg m.val 20 4) (s.arg m.val 8 4, s.arg m.val 12 4) = false → s.arg m.val 6 2 ≠ 0 →
     zeroAt (s.request m.val) 5 1 = true → zeroAt (s.request m.val) 28 228 = true → s.dev.variant.ridgeline = true →
     s.rl.addr ≠ 0 → s.tm.bValid = true → ∃ t, exec (.rlTimed m) s = .next t ∧
     s.completes m.val stOk 0 (timedReply (s.arg m.val 0 1) false s) t) ∧
  (∀ (s : State) (m : Fin 8), s.serves m.val 0x0704 = true → s.arg m.val 1 1 = 0 → s.arg m.val 0 1 = 0 →
     s.arg m.val 2 1 ≤ 1 → s.arg m.val 3 1 ≤ 7 → s.arg m.val 12 4 ≤ 999999999 → s.arg m.val 20 4 ≤ 999999999 →
     timeLt (s.arg m.val 16 4, s.arg m.val 20 4) (s.arg m.val 8 4, s.arg m.val 12 4) = false → s.arg m.val 6 2 ≠ 0 →
     zeroAt (s.request m.val) 5 1 = true → zeroAt (s.request m.val) 28 228 = true → s.dev.variant.ridgeline = true →
     s.rl.addr ≠ 0 → s.tm.bValid = true → s.tm.b.sec < 2 ^ 32 → timeBReached (s.arg m.val 8 4) (s.arg m.val 12 4) s =
     false → (portOf s 0).launch = [] → ∃ (u t : State), exec (.rlTimed m) s = .next t ∧ (portOf u 0).launch =
     [{ launch := (s.arg m.val 8 4, s.arg m.val 12 4), apply := (s.arg m.val 16 4, s.arg m.val 20 4), dest := s.arg m.val 6 2, action := s.arg m.val 3 1, arg := s.arg m.val 4 1, policy := s.arg m.val 2 1, tag := s.arg m.val 24 4 }] ∧
     u = { s with rl := { s.rl with ports := u.rl.ports } } ∧ u.completes m.val stOk 0 [1, 0] t) ∧
  (∀ (s : State) (p : Fin 3), (portOf s p.val).launch = [] → exec (.rlTimedLaunch p) s = .next s) ∧
  (∀ (s : State) (p : Fin 3) (e : Timed) (l : List Timed), (portOf s p.val).launch = e :: l →
     timeBReached e.launch.1 e.launch.2 s = false → exec (.rlTimedLaunch p) s = .next s) ∧
  (∀ (s : State) (p : Fin 3) (e : Timed) (l : List Timed), (portOf s p.val).launch = e :: l →
     timeBReached e.launch.1 e.launch.2 s = true → e.dest ≠ 0xFFFF → e.dest ≠ s.rl.addr → ∃ t,
     exec (.rlTimedLaunch p) s = .next t ∧ (portOf t p.val).launch = l ∧ t.rl.oseq = (s.rl.oseq + 1) % 2 ^ 32 ∧
     t.rl.timed = s.rl.timed ∧ t.tm = s.tm ∧ t.sch = s.sch) ∧
  (∀ (s : State) (n : Nat) (e : Timed), s.rl.timed[n]? = some e → timeBReached e.apply.1 e.apply.2 s = false →
     exec (.rlTimedApply n) s = .next s) ∧
  (∀ (s : State) (n : Nat) (e : Timed) (x : Nat), s.rl.timed[n]? = some e → timeBReached e.apply.1 e.apply.2 s =
     true → reachInstant s.tm.segB (flatOf e.apply.1 e.apply.2) = some x → exec (.rlTimedApply n) s =
     .next (actTimed e.action e.arg x false { s with rl := { s.rl with timed := s.rl.timed.eraseIdx n } })) ∧
  (∀ (s : State) (n : Nat) (e : Timed) (x : Nat), s.dev.variant.ridgeline = true → s.rl.timed[n]? = some e →
     timeBReached e.apply.1 e.apply.2 s = true → reachInstant s.tm.segB (flatOf e.apply.1 e.apply.2) = some x →
     7 < e.action → ∃ t, exec (.rlTimedApply n) s = .next t ∧ State.raises [(12, 13)] { s with
         rl := { s.rl with timed := s.rl.timed.eraseIdx n } } t) ∧
  (∀ (s : State) (n : Nat) (e : Nat × Nat × Nat), s.rl.origins[n]? = some e →
     e.2.2 + 1000 * msTicks s ≤ s.tm.tick → exec (.rlOriginExpire n) s = .next { s with
         rl := { s.rl with origins := s.rl.origins.eraseIdx n } }) ∧
  (∀ (s : State) (n : Nat) (e : Nat × Nat × Nat), s.rl.origins[n]? = none ∨ (s.rl.origins[n]? = some e ∧
     s.tm.tick < e.2.2 + 1000 * msTicks s) → exec (.rlOriginExpire n) s = .next s) ∧
  (∀ (s : State) (m : Fin 8), s.serves m.val 0x0703 = true → s.arg m.val 0 2 ≠ 0 → s.arg m.val 0 2 ≠ 0xFFFF →
     s.arg m.val 0 2 ≠ s.rl.addr → s.arg m.val 2 1 ≤ 7 → s.arg m.val 3 1 ≤ 1 → s.arg m.val 6 2 ≠ 0 →
     s.arg m.val 6 2 ≤ 60000 → s.arg m.val 4 2 ≠ 0x0703 → zeroAt (s.request m.val) 8 8 = true → s.rl.addr ≠ 0 → ∃ t,
     exec (.rlTunnel m) s = .next t ∧ t.rl.tunnels =
     s.rl.tunnels ++ [{ mb := m.val, ttag := s.rl.ttag, dest := s.arg m.val 0 2, deadline := s.tm.tick + msTicks s * s.arg m.val 6 2, status := 0, segs := [] }] ∧
     t.rl.ttag = (s.rl.ttag + 1) % 65536 ∧ t.mb = s.mb ∧ t.tm = s.tm ∧ t.summit = s.summit) ∧
  (∀ (s : State) (m : Fin 8) (x : Tunnel), s.rl.tunnels.find? (fun e => e.mb == m.val) = some x →
     x.deadline ≤ s.tm.tick → (mbOf s m.val).tunnel = none → ∃ (u t : State), exec (.rlTunnelTimeout m) s = .next t ∧
     State.raises [(12, 14)] { s with
         rl := { s.rl with tunnels := s.rl.tunnels.filter fun e => e.ttag ≠ x.ttag } } u ∧
     u.completes m.val stInternal 0 (tunnelReply 0xFF []) t) ∧
  (∀ (s : State) (m : Fin 8) (x : Tunnel), s.rl.tunnels.find? (fun e => e.mb == m.val) = some x →
     s.tm.tick < x.deadline → exec (.rlTunnelTimeout m) s = .next s) ∧
  (∀ (s : State) (m : Fin 8), s.rl.tunnels.find? (fun e => e.mb == m.val) = none → exec (.rlTunnelTimeout m) s =
     .next s) ∧
  (∀ (s : State) (p : Fin 3) (f : List Byte), rxOk p.val 0x30 f s = true →
     newerOseq (frOrigin f) (frOseq f) (rxFrame p.val f s) = true → frDest f = s.rl.addr → s.rl.addr ≠ 0 →
     s.rl.addr ≠ 0xFFFF → firmwareUp s = true → fieldAt (frBody f) 2 1 = 0 → fieldAt (frBody f) 6 1 ≤ 7 →
     s.rl.inTunnel = [] → ∃ t, exec (.tunnelReqRx p f) s = .next t ∧ t.rl.inTunnel =
     [{ origin := frOrigin f, ttag := fieldAt (frBody f) 0 2, opcode := fieldAt (frBody f) 4 2, mbox := fieldAt (frBody f) 6 1, barrier := bitOf 0 (fieldAt (frBody f) 7 1), segs := [(0, padTo 96 ((frBody f).drop 8))] }] ∧
     t.mb = s.mb ∧ t.summit = s.summit) ∧
  (∀ (s : State) (p : Fin 3) (f : List Byte) (x : Tunnel), rxOk p.val 0x31 f s = true →
     newerOseq (frOrigin f) (frOseq f) (rxFrame p.val f s) = true → frDest f = s.rl.addr → s.rl.addr ≠ 0 →
     s.rl.addr ≠ 0xFFFF → s.rl.tunnels.find? (fun e => e.ttag == fieldAt (frBody f) 0 2 && e.dest == frOrigin f) =
     some x → x.mb < 8 → (mbOf s x.mb).tunnel = none → fieldAt (frBody f) 2 1 = 2 → x.segs.find? (fun e => e.1 ==
     0) = some (0, zeros 96) → x.segs.find? (fun e => e.1 == 1) = some (1, zeros 96) → ∃ t,
     exec (.tunnelRespRx p f) s = .next t ∧ t.answered x.mb stOk ∧ memRead t.summit.scratchpad (256 * x.mb) 16 =
     leBytes 1 (fieldAt (frBody f) 4 1) ++ zeros 15 ∧ t.rl.tunnels = s.rl.tunnels.filter (fun e => e.ttag ≠ x.ttag))

/-- DISCOVER of a SESSION above the highest seen makes it the session, clears the suppression table and is answered with DISCOVER_REPLY on every UP port; a copy changes nothing but what every received frame does. A DISCOVER_REPLY is noted in the unit's sessions as root: a unit not met yet enters with HOP + 1 and restarts the wait, a further copy lowers its hop distance. An ASSIGN makes its ORIGIN the root and gives the unit it names its ADDRESS. RL_DISCOVER with OP READ answers the last session's result; with OP RUN it opens the next SESSION as root in a window not claimed, and floods DISCOVER; bad fields, no port UP and a claimed window are refused. RL_DISCOVER_ASSIGN ends the first session whose wait is over: the root takes ROOT_ADDR and G12.10 is raised; with none it changes nothing. RL_PORT_CFG answers with OP READ and sets all fields of a port with OP WRITE; bad fields, a second FWD_TX and a change of forwarding outside IDLE are refused. -/
def Obligations.RidgelineDiscovery : Prop :=
  (∀ (s : State) (p : Fin 3) (f : List Byte), rxOk p.val 0x50 f s = true → s.rl.session < fieldAt (frBody f) 0 4 →
     ∃ t, exec (.discoverRx p f) s = .next t ∧ (portOf t p.val).rxCnt = (portOf s p.val).rxCnt + 1 ∧ t.rl.session =
     fieldAt (frBody f) 0 4 ∧ t.rl.seen = [(0x50, [])] ∧ t.rl.origins = [] ∧ t.rl.root = 0 ∧ t.rl.run = s.rl.run ∧
     t.rl.addr = s.rl.addr ∧ t.tm = s.tm ∧ t.mb = s.mb ∧ t.tal = s.tal ∧ t.ring = s.ring ∧ t.fab = s.fab ∧ t.dev =
     s.dev) ∧
  (∀ (s : State) (p q : Fin 3) (f : List Byte), rxOk p.val 0x50 f s = true →
     s.rl.session < fieldAt (frBody f) 0 4 → firmwareUp s = true → s.dev.safe = false → (portOf s q.val).state =
     .up → ∃ t, exec (.discoverRx p f) s = .next t ∧
     (Output.rlFrame q.val (rlBytes 0x51 (portOf s q.val).lseqTx s.rl.addr 0xFFFF 0 0 (leBytes 4 (fieldAt (frBody f) 0 4) ++ serial ++ peerSerials s)) ∈ t.out ∨ { type := 0x51, origin := s.rl.addr, dest := 0xFFFF, hop := 0, oseq := 0, body := leBytes 4 (fieldAt (frBody f) 0 4) ++ serial ++ peerSerials s, bad := false } ∈ (portOf t q.val).txq)) ∧
  (∀ (s : State) (p : Fin 3) (f : List Byte), rxOk p.val 0x50 f s = true → fieldAt (frBody f) 0 4 = s.rl.session →
     (0x50, []) ∉ s.rl.seen → ∃ t, exec (.discoverRx p f) s = .next t ∧ (portOf t p.val).rxCnt =
     (portOf s p.val).rxCnt + 1 ∧ t.rl.session = s.rl.session ∧ t.rl.seen = s.rl.seen ++ [(0x50, [])] ∧
     t.rl.origins = s.rl.origins ∧ t.rl.root = s.rl.root ∧ t.rl.run = s.rl.run ∧ t.rl.addr = s.rl.addr ∧ t.tm =
     s.tm ∧ t.mb = s.mb ∧ t.tal = s.tal ∧ t.ring = s.ring ∧ t.fab = s.fab ∧ t.dev = s.dev) ∧
  (∀ (s : State) (p : Fin 3) (f : List Byte), rxOk p.val 0x50 f s = true →
     fieldAt (frBody f) 0 4 < s.rl.session ∨ (fieldAt (frBody f) 0 4 = s.rl.session ∧ (0x50, []) ∈ s.rl.seen) →
     exec (.discoverRx p f) s = .next (rxFrame p.val f s)) ∧
  (∀ (s : State) (p : Fin 3) (f : List Byte), rxOk p.val 0x51 f s = true → ∃ t, exec (.discoverReplyRx p f) s =
     .next t ∧ (portOf t p.val).rxCnt = (portOf s p.val).rxCnt + 1 ∧ t.rl.run = s.rl.run.map (addReply f s.tm.tick) ∧
     t.rl.older = s.rl.older.map (addReply f s.tm.tick) ∧ t.rl.session = max s.rl.session (fieldAt (frBody f) 0 4) ∧
     t.rl.seen =
     (if fieldAt (frBody f) 0 4 < s.rl.session then s.rl.seen else if s.rl.session < fieldAt (frBody f) 0 4 then [(0x51,
     ((frBody f).drop 4).take 16)] else if (0x51,
     ((frBody f).drop 4).take 16) ∈ s.rl.seen then s.rl.seen else s.rl.seen ++ [(0x51,
     ((frBody f).drop 4).take 16)]) ∧ t.rl.addr = s.rl.addr ∧ t.tm = s.tm ∧ t.mb = s.mb ∧ t.tal = s.tal ∧ t.ring =
     s.ring ∧ t.fab = s.fab ∧ t.dev = s.dev) ∧
  (∀ (r : RlSession) (f : List Byte) (k : Nat), r.live = true → fieldAt (frBody f) 0 4 = r.session →
     ((frBody f).drop 4).take 16 ≠ serial → (∀ u ∈ r.units, u.serial ≠ ((frBody f).drop 4).take 16) →
     addReply f k r = { r with
         lastNew := k, units := r.units ++ [{ serial := ((frBody f).drop 4).take 16, hop := frHop f + 1, addr := 0, upMask := upMaskOf ((frBody f).drop 20) }] }) ∧
  (∀ (r : RlSession) (f : List Byte) (k : Nat) (u : RlUnit), r.live = true → fieldAt (frBody f) 0 4 = r.session →
     ((frBody f).drop 4).take 16 ≠ serial → u ∈ r.units → u.serial = ((frBody f).drop 4).take 16 → addReply f k r =
     { r with
         units := r.units.map fun x => if x.serial = ((frBody f).drop 4).take 16 then { x with hop := min x.hop (frHop f + 1) } else x }) ∧
  (∀ (r : RlSession) (f : List Byte) (k : Nat), r.live =
     false ∨ fieldAt (frBody f) 0 4 ≠ r.session ∨ ((frBody f).drop 4).take 16 = serial → addReply f k r = r) ∧
  (∀ (s : State) (p : Fin 3) (f : List Byte), rxOk p.val 0x52 f s = true →
     s.rl.session < fieldAt (frBody f) 0 4 ∨ (s.rl.session = fieldAt (frBody f) 0 4 ∧ (0x52,
     ((frBody f).drop 4).take 16) ∉ s.rl.seen) → ∃ t, exec (.assignRx p f) s = .next t ∧ (portOf t p.val).rxCnt =
     (portOf s p.val).rxCnt + 1 ∧ t.rl.root = frOrigin f ∧ t.rl.session = fieldAt (frBody f) 0 4 ∧ t.rl.addr =
     (if ((frBody f).drop 4).take 16 = serial then fieldAt (frBody f) 20 2 else s.rl.addr) ∧ (t.rl.addr ≠ s.rl.addr →
     t.rawBit 12 11 = true) ∧ (0x52, ((frBody f).drop 4).take 16) ∈ t.rl.seen ∧ t.rl.run = s.rl.run ∧ t.tm = s.tm ∧
     t.mb = s.mb ∧ t.tal = s.tal ∧ t.ring = s.ring ∧ t.fab = s.fab ∧ t.dev = s.dev) ∧
  (∀ (s : State) (p : Fin 3) (f : List Byte), rxOk p.val 0x52 f s = true →
     fieldAt (frBody f) 0 4 < s.rl.session ∨ (fieldAt (frBody f) 0 4 = s.rl.session ∧ (0x52,
     ((frBody f).drop 4).take 16) ∈ s.rl.seen) → exec (.assignRx p f) s = .next (rxFrame p.val f s)) ∧
  (∀ (s : State) (m : Fin 8), s.serves m.val 0x0701 = true → s.arg m.val 0 1 = 1 → s.arg m.val 1 1 ≤ 6 →
     s.arg m.val 2 2 ≠ 0 → s.arg m.val 2 2 ≠ 0xFFFF → zeroAt (s.request m.val) 4 252 = true → ∃ t,
     exec (.rlDiscover m) s = .next t ∧ s.completes m.val stOk 0 (discoverReply s) t) ∧
  (∀ (s : State) (m : Fin 8), s.serves m.val 0x0701 = true →
     1 < s.arg m.val 0 1 ∨ 6 < s.arg m.val 1 1 ∨ s.arg m.val 2 2 = 0 ∨ s.arg m.val 2 2 =
     0xFFFF ∨ zeroAt (s.request m.val) 4 252 = false → ∃ t, exec (.rlDiscover m) s = .next t ∧
     s.completes m.val stBadArg 0 [] t) ∧
  (∀ (s : State) (m : Fin 8), s.serves m.val 0x0701 = true → s.arg m.val 0 1 = 0 → s.arg m.val 1 1 ≤ 6 →
     s.arg m.val 2 2 ≠ 0 → s.arg m.val 2 2 ≠ 0xFFFF → zeroAt (s.request m.val) 4 252 = true → (∀ p < 3,
     (portOf s p).state ≠ .up) → ∃ t, exec (.rlDiscover m) s = .next t ∧ s.completes m.val stState 0 [] t) ∧
  (∀ (s : State) (m : Fin 8) (p : Fin 3), s.serves m.val 0x0701 = true → s.arg m.val 0 1 = 0 →
     s.arg m.val 1 1 ≤ 6 → s.arg m.val 2 2 ≠ 0 → s.arg m.val 2 2 ≠ 0xFFFF → zeroAt (s.request m.val) 4 252 = true →
     (portOf s p.val).state = .up → (cwOf s (s.arg m.val 1 1)).claimed = true → ∃ t, exec (.rlDiscover m) s =
     .next t ∧ s.completes m.val stBusy 5 [] t) ∧
  (∀ (s : State) (m : Fin 8) (p : Fin 3), s.serves m.val 0x0701 = true → s.arg m.val 0 1 = 0 →
     s.arg m.val 1 1 ≤ 6 → s.arg m.val 2 2 ≠ 0 → s.arg m.val 2 2 ≠ 0xFFFF → zeroAt (s.request m.val) 4 252 = true →
     (portOf s p.val).state = .up → (cwOf s (s.arg m.val 1 1)).claimed = false → ∃ t, exec (.rlDiscover m) s =
     .next t ∧ t.rl.session = (s.rl.session + 1) % 2 ^ 32 ∧ t.rl.run =
     some { live := true, mb := some m.val, cw := s.arg m.val 1 1, rootAddr := s.arg m.val 2 2, session := (s.rl.session + 1) % 2 ^ 32, started := s.tm.tick, lastNew := s.tm.tick, units := [{ serial := serial, hop := 0, addr := 0, upMask := upMaskOf (peerSerials s) }] } ∧
     t.rl.older = s.rl.older ++ s.rl.run.toList.filter (fun r => r.live) ∧ t.rl.origins = [] ∧ t.rl.seen = [(0x50,
     [])] ∧ t.rl.root = 0 ∧ t.rl.addr = s.rl.addr ∧ (cwOf t (s.arg m.val 1 1)).claimed = true ∧
     (cwOf t (s.arg m.val 1 1)).mb = m.val ∧ (s.dev.variant.ridgeline = true → s.dev.safe = false →
     Output.rlFrame p.val (rlBytes 0x50 (portOf s p.val).lseqTx s.rl.addr 0xFFFF 0 0 (leBytes 4 ((s.rl.session + 1) % 2 ^ 32))) ∈ t.out ∨ { type := 0x50, origin := s.rl.addr, dest := 0xFFFF, hop := 0, oseq := 0, body := leBytes 4 ((s.rl.session + 1) % 2 ^ 32), bad := false } ∈ (portOf t p.val).txq) ∧
     t.mb = s.mb ∧ t.tm = s.tm ∧ t.tal = s.tal ∧ t.ring = s.ring ∧ t.dev = s.dev) ∧
  (∀ (s : State) (r : RlSession), s.dev.variant.ridgeline = true → s.rl.older = [] → s.rl.run = some r → r.live =
     true ∧ (r.lastNew + 2 * msTicks s ≤ s.tm.tick ∨ r.started + 1000 * msTicks s ≤ s.tm.tick) → ∃ t,
     exec .rlDiscoverAssign s = .next t ∧ t.rl.run = some { r with
         live := false, mb := none, units := orderUnits r } ∧ t.rl.addr = r.rootAddr ∧ (s.rl.addr ≠ r.rootAddr →
     t.rawBit 12 11 = true) ∧ t.rl.root = (if r.session = s.rl.session then r.rootAddr else s.rl.root) ∧
     t.rl.session = s.rl.session ∧ t.rawBit 12 10 = true ∧ t.tm = s.tm ∧ t.tal = s.tal ∧ t.ring = s.ring ∧ t.dev =
     s.dev ∧ (r.mb = none → t.mb = s.mb)) ∧
  (∀ (s : State) (r : RlSession) (l : List RlSession), s.dev.variant.ridgeline = true → s.rl.older = r :: l →
     r.live = true ∧ (r.lastNew + 2 * msTicks s ≤ s.tm.tick ∨ r.started + 1000 * msTicks s ≤ s.tm.tick) → ∃ t,
     exec .rlDiscoverAssign s = .next t ∧ t.rl.older = l.filter (fun x => x.session != r.session) ∧ t.rl.addr =
     r.rootAddr ∧ (s.rl.addr ≠ r.rootAddr → t.rawBit 12 11 = true) ∧ t.rl.root = (if r.session =
     s.rl.session then r.rootAddr else s.rl.root) ∧ t.rl.session = s.rl.session ∧ t.rawBit 12 10 = true ∧ t.tm =
     s.tm ∧ t.tal = s.tal ∧ t.ring = s.ring ∧ t.dev = s.dev ∧ (r.mb = none → t.mb = s.mb)) ∧
  (∀ (s : State) (r : RlSession) (m : Fin 8), s.dev.variant.ridgeline = true → s.rl.older = [] → s.rl.run =
     some r → r.live = true ∧ (r.lastNew + 2 * msTicks s ≤ s.tm.tick ∨ r.started + 1000 * msTicks s ≤ s.tm.tick) →
     r.mb = some m.val → (mbOf s m.val).tunnel = none → r.cw ≤ 6 → 32 * r.units.length ≤ cwSize (cwOf s r.cw) → ∃ t,
     exec .rlDiscoverAssign s = .next t ∧ t.answered m.val stOk ∧ (mbOf t m.val).detail = 0 ∧
     (cwOf t r.cw).prod.toNat = 32 * r.units.length ∧ (cwOf t r.cw).len = (cwOf s r.cw).len ∧
     memRead t.summit.scratchpad (256 * m.val) 2 = leBytes 2 r.units.length) ∧
  (∀ (s : State), (∀ r ∈ s.rl.older ++ s.rl.run.toList, r.live = false ∨ (s.tm.tick < r.lastNew + 2 * msTicks s ∧
     s.tm.tick < r.started + 1000 * msTicks s)) → exec .rlDiscoverAssign s = .next s) ∧
  (∀ (s : State) (m : Fin 8), s.serves m.val 0x0702 = true → s.dev.variant.ridgeline = true → s.arg m.val 1 1 = 1 →
     s.arg m.val 0 1 ≤ 2 → (s.arg m.val 2 1) ≤ 15 → s.arg m.val 3 1 ≤ 15 → -100000 ≤ signed 32 (s.arg m.val 4 4) →
     signed 32 (s.arg m.val 4 4) ≤ 100000 → zeroAt (s.request m.val) 8 248 = true → (∀ i < 3,
     (s.arg m.val 2 1).testBit 2 = true → i ≠ s.arg m.val 0 1 → (portOf s i).fwdTx = false) → ∃ t,
     exec (.rlPortCfg m) s = .next t ∧ s.completes m.val stOk 0 (portBody 1 (s.arg m.val 0 1) s) t) ∧
  (∀ (s : State) (m : Fin 8), s.serves m.val 0x0702 = true → s.dev.variant.ridgeline = true → s.arg m.val 1 1 = 0 →
     s.arg m.val 0 1 ≤ 2 → (s.arg m.val 2 1) ≤ 15 → s.arg m.val 3 1 ≤ 15 → -100000 ≤ signed 32 (s.arg m.val 4 4) →
     signed 32 (s.arg m.val 4 4) ≤ 100000 → zeroAt (s.request m.val) 8 248 = true → (∀ i < 3,
     (s.arg m.val 2 1).testBit 2 = true → i ≠ s.arg m.val 0 1 → (portOf s i).fwdTx = false) →
     ((s.arg m.val 2 1).testBit 2 = (portOf s (s.arg m.val 0 1)).fwdTx ∧ (s.arg m.val 2 1).testBit 3 =
     (portOf s (s.arg m.val 0 1)).fwdRx) ∨ s.dev.acq = .idle → ∃ (u t : State), u =
     setPort (s.arg m.val 0 1) ((s.arg m.val 2 1)) (s.arg m.val 3 1) (signed 32 (s.arg m.val 4 4)) s ∧
     exec (.rlPortCfg m) s = .next t ∧ u.completes m.val stOk 0 (portBody 0 (s.arg m.val 0 1) u) t) ∧
  (∀ (s : State) (p : Fin 3) (fl mask : Nat) (asym : Int) (i : Nat),
     (portOf (setPort p.val fl mask asym s) p.val).enable = fl.testBit 0 ∧
     (portOf (setPort p.val fl mask asym s) p.val).rfireAccept = fl.testBit 1 ∧
     (portOf (setPort p.val fl mask asym s) p.val).fwdTx = fl.testBit 2 ∧
     (portOf (setPort p.val fl mask asym s) p.val).fwdRx = fl.testBit 3 ∧
     (portOf (setPort p.val fl mask asym s) p.val).classMask = mask ∧
     (portOf (setPort p.val fl mask asym s) p.val).asymPs = asym ∧
     (portOf (setPort p.val fl mask asym s) p.val).state = (if (portOf s p.val).enable ∧ fl.testBit 0 =
     false then .disabled else if (portOf s p.val).enable = false ∧ fl.testBit 0 ∧ heldStopped (27 + p.val) s =
     false then .training else (portOf s p.val).state) ∧ (i < 3 → i ≠ p.val →
     portOf (setPort p.val fl mask asym s) i = portOf s i) ∧ (setPort p.val fl mask asym s).tm = s.tm ∧
     (setPort p.val fl mask asym s).mb = s.mb ∧ (setPort p.val fl mask asym s).dev = s.dev ∧
     (setPort p.val fl mask asym s).ring = s.ring ∧ (setPort p.val fl mask asym s).tal = s.tal ∧
     (setPort p.val fl mask asym s).rl.addr = s.rl.addr) ∧
  (∀ (s : State) (m : Fin 8), s.serves m.val 0x0702 = true → s.dev.variant.ridgeline = true →
     2 < s.arg m.val 0 1 ∨ 1 < s.arg m.val 1 1 ∨ 15 < (s.arg m.val 2 1) ∨ 15 < s.arg m.val 3 1 ∨ signed 32 (s.arg m.val 4 4) < -100000 ∨ 100000 < signed 32 (s.arg m.val 4 4) ∨ zeroAt (s.request m.val) 8 248 =
     false ∨ ((s.arg m.val 2 1).testBit 2 = true ∧ (List.range 3).any (fun i => i !=
     s.arg m.val 0 1 && (portOf s i).fwdTx) = true) → ∃ t, exec (.rlPortCfg m) s = .next t ∧
     s.completes m.val stBadArg 0 [] t) ∧
  (∀ (s : State) (m : Fin 8), s.serves m.val 0x0702 = true → s.dev.variant.ridgeline = true → s.arg m.val 1 1 = 0 →
     s.arg m.val 0 1 ≤ 2 → (s.arg m.val 2 1) ≤ 15 → s.arg m.val 3 1 ≤ 15 → -100000 ≤ signed 32 (s.arg m.val 4 4) →
     signed 32 (s.arg m.val 4 4) ≤ 100000 → zeroAt (s.request m.val) 8 248 = true → (∀ i < 3,
     (s.arg m.val 2 1).testBit 2 = true → i ≠ s.arg m.val 0 1 → (portOf s i).fwdTx = false) →
     (s.arg m.val 2 1).testBit 2 ≠ (portOf s (s.arg m.val 0 1)).fwdTx ∨ (s.arg m.val 2 1).testBit 3 ≠ (portOf s (s.arg m.val 0 1)).fwdRx →
     s.dev.acq ≠ .idle → ∃ t, exec (.rlPortCfg m) s = .next t ∧ s.completes m.val stState 0 [] t)

/-- POD_PRESENCE_LOW of an EMPTY port starts the debounce once firmware has started, and before that notes the presence. POD_DEBOUNCE_DONE goes to IDENTIFY once 50 ms have passed low, changes nothing before that, and goes back to EMPTY on a high sample. DESCRIPTOR_READ_DONE stores the 256 bytes: one that fails a check rejects the pod with its code and G5.3; a good one raises G5.0 and leaves the pod UNPOWERED, or starts its supply where AUTOPWR is set, JOINING at once where it needs none; the supply's setpoint is VPOD_MV to the nearest 10 mV, ties down, and its limit 1.2 IPOD_MA. DESCRIPTOR_READ_ERROR counts, and the third rejects the pod with reason 1. No other port changes. What a port keeps of a removed pod's telemetry is the model's choice (log entry 28). -/
def Obligations.PodInsertion : Prop :=
  (∀ (s : State) (p : Fin 16), portLive p.val s = true → (podAt s p.val).present = false → (podAt s p.val).state =
     .empty → s.flt.on = true → ∃ t, exec (.podPresenceLow p) s = .next t ∧ (podAt t p.val) = { (podAt s p.val) with
         present := true, state := .debounce, reject := 0, since := s.tm.tick } ∧ (∀ i < 16, i ≠ p.val → podAt t i =
     podAt s i) ∧ t = { s with pods := t.pods, podc := { s.podc with pending := s.podc.pending ||| 2 ^ p.val } }) ∧
  (∀ (s : State) (p : Fin 16), portLive p.val s = true → (podAt s p.val).present = false → s.flt.on = false →
     exec (.podPresenceLow p) s = .next (modPod p.val (fun q => { q with present := true }) s)) ∧
  (∀ (s : State) (p : Fin 16), (podAt s p.val).present = true → exec (.podPresenceLow p) s = .next s) ∧
  (∀ (s : State) (p : Fin 16), (podAt s p.val).state = .debounce →
     (podAt s p.val).since + 50 * msTicks s ≤ s.tm.tick → ∃ t, exec (.podDebounceDone p true) s = .next t ∧
     (podAt t p.val) = { (podAt s p.val) with
         state := .identify, reject := 0, vaux := !s.dev.safe, desc := none, readFails := 0, waiting := s.dev.safe || !firmwareUp s, since := s.tm.tick } ∧
     (∀ i < 16, i ≠ p.val → podAt t i = podAt s i) ∧ t = { s with
         pods := t.pods, podc := { s.podc with pending := s.podc.pending ||| 2 ^ p.val } }) ∧
  (∀ (s : State) (p : Fin 16), s.tm.tick < (podAt s p.val).since + 50 * msTicks s →
     exec (.podDebounceDone p true) s = .next s) ∧
  (∀ (s : State) (p : Fin 16), (podAt s p.val).state = .debounce → ∃ t, exec (.podDebounceDone p false) s =
     .next t ∧ (podAt t p.val) = { (podAt s p.val) with
         state := .empty, reject := 0, supplyFault := false, overvolt := false, present := false, since := s.tm.tick } ∧
     (∀ i < 16, i ≠ p.val → podAt t i = podAt s i) ∧ t = { s with
         pods := t.pods, podc := { s.podc with pending := s.podc.pending ||| 2 ^ p.val } }) ∧
  (∀ (s : State) (p : Fin 16) (b : Bool), (podAt s p.val).state ≠ .debounce → exec (.podDebounceDone p b) s =
     .next s) ∧
  (∀ (s : State) (p : Fin 16) (d : List Byte), canRead p.val s = true → descReject (padTo 256 d) = 0 →
     s.podc.autopwr.testBit p.val = false → fieldAt (padTo 256 d) 16 1 = 1 → ∃ (u t : State),
     exec (.descriptorReadDone p d) s = .next t ∧ u = { s with
         pods := tabMod s.pods p.val fun q => { q with desc := some (padTo 256 d), state := .unpowered, reject := 0, since := s.tm.tick, supplySet := supplySetpoint (padTo 256 d), supplyLimit := 12 * descIpod (padTo 256 d) }, podc := { s.podc with pending := s.podc.pending ||| 2 ^ p.val } } ∧
     State.raises [(5, 0)] u t) ∧
  (∀ (s : State) (p : Fin 16) (d : List Byte), canRead p.val s = true → descReject (padTo 256 d) = 0 →
     s.podc.autopwr.testBit p.val = true → fieldAt (padTo 256 d) 16 1 = 1 → ∃ (u t : State),
     exec (.descriptorReadDone p d) s = .next t ∧ u = { s with
         pods := tabMod s.pods p.val fun q => { q with desc := some (padTo 256 d), state := .powering, supplyFault := false, reject := 0, supplyOn := true, since := s.tm.tick, supplySet := supplySetpoint (padTo 256 d), supplyLimit := 12 * descIpod (padTo 256 d) }, podc := { s.podc with pending := s.podc.pending ||| 2 ^ p.val } } ∧
     State.raises [(5, 0)] u t) ∧
  (∀ (s : State) (p : Fin 16) (d : List Byte), canRead p.val s = true → descReject (padTo 256 d) = 0 →
     s.podc.autopwr.testBit p.val = true → fieldAt (padTo 256 d) 16 1 = 0 → s.dev.acq ≠ .idle →
     (podAt s p.val).onFor = [] → ∃ (u t : State), exec (.descriptorReadDone p d) s = .next t ∧ u = { s with
         pods := tabMod s.pods p.val fun q => { q with desc := some (padTo 256 d), state := .joining, reject := 0, since := s.tm.tick, supplySet := 0, supplyLimit := 0 }, podc := { s.podc with pending := s.podc.pending ||| 2 ^ p.val } } ∧
     State.raises [(5, 0)] u t) ∧
  (∀ (d : List Byte), descVpod d % 10 ≠ 5 → supplySetpoint d % 10 = 0 ∧ supplySetpoint d < descVpod d + 5 ∧
     descVpod d < supplySetpoint d + 5) ∧
  (∀ (d : List Byte), descVpod d % 10 = 5 → supplySetpoint d = descVpod d - 5) ∧
  (∀ (s : State) (p : Fin 16) (d : List Byte), canRead p.val s = true → descReject (padTo 256 d) ≠ 0 →
     ∃ (u t : State), exec (.descriptorReadDone p d) s = .next t ∧ u = { s with
         pods := tabMod s.pods p.val fun q => { q with desc := some (padTo 256 d), state := .rejected, reject := descReject (padTo 256 d), since := s.tm.tick }, podc := { s.podc with pending := s.podc.pending ||| 2 ^ p.val } } ∧
     State.raises [(5, 3)] u t) ∧
  (∀ (s : State) (p : Fin 16), canRead p.val s = true → (podAt s p.val).readFails < 2 →
     exec (.descriptorReadError p) s = .next (modPod p.val (fun q => { q with readFails := q.readFails + 1 }) s)) ∧
  (∀ (s : State) (p : Fin 16), canRead p.val s = true → (podAt s p.val).readFails = 2 → ∃ (u t : State),
     exec (.descriptorReadError p) s = .next t ∧ u = { s with
         pods := tabMod s.pods p.val fun q => { q with readFails := 3, desc := none, state := .rejected, reject := 1, since := s.tm.tick }, podc := { s.podc with pending := s.podc.pending ||| 2 ^ p.val } } ∧
     State.raises [(5, 3)] u t) ∧
  (∀ (s : State) (p : Fin 16) (d : List Byte), canRead p.val s = false → exec (.descriptorReadDone p d) s =
     .next s ∧ exec (.descriptorReadError p) s = .next s)

/-- POD_POWER_GOOD_CHECK, 2.5 ms after the supply started, within 5% of VPOD_MV makes the pod JOINING; beyond it, and on POD_SUPPLY_FAULT, the pod is FAULTED with its supply off and SUPPLY_FAULT set, and G5.4 is raised; POD_OVERVOLT does the same with OVERVOLT and G5.5. POD_JOIN makes a JOINING pod ACTIVE, in IDLE at once without capture and otherwise from the joining row on, with G5.1. POD_REMOVAL empties the port with its supply off and raises G5.2; in DEBOUNCE it does nothing. -/
def Obligations.PodSupply : Prop :=
  (∀ (s : State) (p : Fin 16) (mv ma : Nat), (podAt s p.val).state = .powering →
     20 * (mv - (descVpod (descOf p.val s))) ≤ (descVpod (descOf p.val s)) →
     20 * ((descVpod (descOf p.val s)) - mv) ≤ (descVpod (descOf p.val s)) →
     (podAt s p.val).since + 5 * msTicks s / 2 ≤ s.tm.tick → s.dev.acq ≠ .idle → (podAt s p.val).onFor = [] → ∃ t,
     exec (.podPowerGoodCheck p mv ma) s = .next t ∧ (podAt t p.val) = { (podAt s p.val) with
         supplyMv := mv, supplyMa := ma, state := .joining, reject := 0, since := s.tm.tick } ∧ (∀ i < 16,
     i ≠ p.val → podAt t i = podAt s i) ∧ t = { s with
         pods := t.pods, podc := { s.podc with pending := s.podc.pending ||| 2 ^ p.val } }) ∧
  (∀ (s : State) (p : Fin 16) (mv ma : Nat), (podAt s p.val).state = .powering →
     (descVpod (descOf p.val s)) < 20 * (mv - (descVpod (descOf p.val s))) ∨ (descVpod (descOf p.val s)) < 20 * ((descVpod (descOf p.val s)) - mv) →
     (podAt s p.val).since + 5 * msTicks s / 2 ≤ s.tm.tick → ∃ t, exec (.podPowerGoodCheck p mv ma) s = .next t ∧
     (podAt t p.val).state = .faulted ∧ (podAt t p.val).supplyOn = false ∧ (podAt t p.val).supplyMv = 0 ∧
     (podAt t p.val).supplyFault = true ∧ t.rawBit 5 4 = true) ∧
  (∀ (s : State) (p : Fin 16) (mv ma : Nat), s.tm.tick < (podAt s p.val).since + 5 * msTicks s / 2 →
     exec (.podPowerGoodCheck p mv ma) s = .next s) ∧
  (∀ (s : State) (p : Fin 16) (mv ma : Nat), (podAt s p.val).state ≠ .powering →
     exec (.podPowerGoodCheck p mv ma) s = .next s) ∧
  (∀ (s : State) (p : Fin 16), podLive (podAt s p.val) = true → (podAt s p.val).supplyOn = true → ∃ t,
     exec (.podSupplyFault p) s = .next t ∧ (podAt t p.val).state = .faulted ∧ (podAt t p.val).supplyOn = false ∧
     (podAt t p.val).supplyMv = 0 ∧ (podAt t p.val).supplyFault = true ∧ t.rawBit 5 4 = true) ∧
  (∀ (s : State) (p : Fin 16), (podAt s p.val).supplyOn = true → (podAt s p.val).state ≠ .empty → ∃ t,
     exec (.podOvervolt p) s = .next t ∧ (podAt t p.val).state = .faulted ∧ (podAt t p.val).supplyOn = false ∧
     (podAt t p.val).supplyMv = 0 ∧ (podAt t p.val).overvolt = true ∧ t.rawBit 5 5 = true) ∧
  (∀ (s : State) (p : Fin 16), (podAt s p.val).supplyOn = false → droppedNow p.val s = false →
     exec (.podSupplyFault p) s = .next s ∧ exec (.podOvervolt p) s = .next s) ∧
  (∀ (s : State) (p : Fin 16), (podAt s p.val).state = .joining → s.dev.acq = .idle → ∃ t, exec (.podJoin p) s =
     .next t ∧ (podAt t p.val).state = .active ∧ (podAt t p.val).capture = none ∧ (podAt t p.val).evs = [] ∧
     t.podc.pending = s.podc.pending ||| 2 ^ p.val ∧ t.rawBit 5 1 = true ∧ (∀ i < 16, i ≠ p.val → podAt t i =
     podAt s i) ∧ t.inputs = s.inputs ∧ t.cfg = s.cfg ∧ t.ring = s.ring ∧ t.dev = s.dev) ∧
  (∀ (s : State) (p : Fin 16) (r : Nat), (podAt s p.val).state = .joining → s.dev.acq ≠ .idle → joinRow p.val s =
     some r → ∃ t, exec (.podJoin p) s = .next t ∧ (podAt t p.val).state = .active ∧ (podAt t p.val).capture =
     some { first := r, joined := true, gone := none } ∧ (podAt t p.val).evs = [] ∧ t.rawBit 5 1 = true ∧ (∀ i < 16,
     i ≠ p.val → podAt t i = podAt s i) ∧ t.cfg = s.cfg ∧ t.ring = s.ring ∧ t.dev = s.dev) ∧
  (∀ (s : State) (p : Fin 16), (podAt s p.val).state ≠ .joining → exec (.podJoin p) s = .next s) ∧
  (∀ (s : State) (p : Fin 16), (podAt s p.val).state ≠ .empty → (podAt s p.val).state ≠ .debounce → ∃ t,
     exec (.podRemoval p) s = .next t ∧ (podAt t p.val).state = .empty ∧ (podAt t p.val).present = false ∧
     (podAt t p.val).supplyOn = false ∧ (podAt t p.val).vaux = false ∧ (podAt t p.val).desc = none ∧
     (podAt t p.val).supplyFault = false ∧ (podAt t p.val).overvolt = false ∧ (podAt t p.val).reject = 0 ∧
     t.podc.pending = s.podc.pending ||| 2 ^ p.val ∧ t.rawBit 5 2 = true ∧ (∀ i < 16, i ≠ p.val → (podAt t i).state =
     (podAt s i).state) ∧ t.cfg = s.cfg ∧ t.dev = s.dev ∧ t.flt = s.flt) ∧
  (∀ (s : State) (p : Fin 16), (podAt s p.val).state = .empty → exec (.podRemoval p) s =
     .next (modPod p.val (fun q => { q with present := false }) s)) ∧
  (∀ (s : State) (p : Fin 16), (podAt s p.val).state = .debounce → exec (.podRemoval p) s = .next s)

/-- POD_POWER ON of pods that are all live completes OK with its mask, of pods not yet live starts their supplies and waits, of a pod that cannot be powered completes STATE; OFF takes effect at once in IDLE and is staged with PENDING_EPOCH while acquisition runs; every form completes STATE in safe state. POD_INFO answers the port's status, supply and temperature or its descriptor, and STATE where there is none; a REREAD that differs from the stored descriptor raises G5.8 and one that fails completes INTERNAL. That OFF of a REJECTED pod is no error is the model's choice (log entry 28). -/
def Obligations.PodCommands : Prop :=
  (∀ (s : State) (m : Fin 8), s.serves m.val 0x0102 = true → (∀ p ∈ bitsSet 16 (s.arg m.val 0 2),
     s.dev.variant.hasPod p = true) → (s.arg m.val 0 2) ≠ 0 → zeroAt (s.request m.val) 3 253 = true →
     s.arg m.val 2 1 = 1 → s.dev.safe = false → (∀ p ∈ bitsSet 16 (s.arg m.val 0 2), podLive (podAt s p) = true) →
     ∃ (u t : State), u = (bitsSet 16 (s.arg m.val 0 2)).foldl (fun v p => powerOn m.val p v) s ∧
     exec (.podPower m) s = .next t ∧ u.completes m.val stOk 0 (leBytes 2 (s.arg m.val 0 2)) t) ∧
  (∀ (s : State) (m : Fin 8) (p : Nat), s.serves m.val 0x0102 = true → (∀ p ∈ bitsSet 16 (s.arg m.val 0 2),
     s.dev.variant.hasPod p = true) → (s.arg m.val 0 2) ≠ 0 → zeroAt (s.request m.val) 3 253 = true →
     s.arg m.val 2 1 = 1 → s.dev.safe = false → (∀ q ∈ bitsSet 16 (s.arg m.val 0 2), onRefused (podAt s q) = false) →
     p ∈ bitsSet 16 (s.arg m.val 0 2) → (podAt s p).state = .unpowered → fieldAt (descOf p s) 16 1 = 1 → ∃ u, u =
     (bitsSet 16 (s.arg m.val 0 2)).foldl (fun v p => powerOn m.val p v) s ∧ exec (.podPower m) s = .next u) ∧
  (∀ (s : State) (m : Fin 8) (p : Nat), s.serves m.val 0x0102 = true → (∀ p ∈ bitsSet 16 (s.arg m.val 0 2),
     s.dev.variant.hasPod p = true) → (s.arg m.val 0 2) ≠ 0 → zeroAt (s.request m.val) 3 253 = true →
     s.arg m.val 2 1 = 1 → s.dev.safe = false → p ∈ bitsSet 16 (s.arg m.val 0 2) → onRefused (podAt s p) = true →
     ∃ t, exec (.podPower m) s = .next t ∧ s.completes m.val stState 0 [] t) ∧
  (∀ (s : State) (m p : Nat), p < 16 → (podAt s p).state = .unpowered → fieldAt (descOf p s) 16 1 = 1 →
     powerOn m p s = { s with
         pods := tabMod s.pods p fun q => { q with offStaged := false, onFor := q.onFor ++ [m], state := .powering, supplyFault := false, reject := 0, supplyOn := true, since := s.tm.tick, supplySet := supplySetpoint (descOf p s), supplyLimit := 12 * descIpod (descOf p s) }, podc := { s.podc with pending := s.podc.pending ||| 2 ^ p } }) ∧
  (∀ (s : State) (m : Fin 8), s.serves m.val 0x0102 = true → (∀ p ∈ bitsSet 16 (s.arg m.val 0 2),
     s.dev.variant.hasPod p = true) → (s.arg m.val 0 2) ≠ 0 → zeroAt (s.request m.val) 3 253 = true →
     s.arg m.val 2 1 = 0 → s.dev.safe = false → acquiring s = false → ∃ (u t : State), u =
     (bitsSet 16 (s.arg m.val 0 2)).foldl (fun v p => powerOff p v) s ∧ exec (.podPower m) s = .next t ∧
     u.completes m.val stOk 0 (leBytes 2 (s.arg m.val 0 2)) t) ∧
  (∀ (s : State) (m : Fin 8), s.serves m.val 0x0102 = true → (∀ p ∈ bitsSet 16 (s.arg m.val 0 2),
     s.dev.variant.hasPod p = true) → (s.arg m.val 0 2) ≠ 0 → zeroAt (s.request m.val) 3 253 = true →
     s.arg m.val 2 1 = 0 → s.dev.safe = false → acquiring s = true → ∃ (u t : State), u =
     (bitsSet 16 (s.arg m.val 0 2)).foldl (fun v p => powerOff p v) s ∧ exec (.podPower m) s = .next t ∧
     u.completes m.val stPending 0 (leBytes 2 (s.arg m.val 0 2)) t) ∧
  (∀ (s : State) (p : Nat), powered (podAt s p) = true → acquiring s = true → powerOff p s =
     modPod p (fun q => { q with offStaged := true }) s) ∧
  (∀ (s : State) (m : Fin 8), s.serves m.val 0x0102 = true → (∀ p ∈ bitsSet 16 (s.arg m.val 0 2),
     s.dev.variant.hasPod p = true) → (s.arg m.val 0 2) ≠ 0 → zeroAt (s.request m.val) 3 253 = true →
     s.arg m.val 2 1 ≤ 1 → s.dev.safe = true → ∃ t, exec (.podPower m) s = .next t ∧ s.completes m.val stState 0 [] t) ∧
  (∀ (s : State) (m : Fin 8) (p : Fin 16) (r : Option (List Byte)), s.serves m.val 0x0101 = true →
     s.arg m.val 0 1 = p.val → s.dev.variant.hasPod p.val = true → zeroAt (s.request m.val) 2 254 = true →
     s.arg m.val 1 1 = 0 → ∃ t, exec (.podInfo m r) s = .next t ∧
     s.completes m.val stOk 0 (podInfoBody p.val false s) t) ∧
  (∀ (s : State) (m : Fin 8) (p : Fin 16) (r : Option (List Byte)) (d : List Byte), s.serves m.val 0x0101 = true →
     s.arg m.val 0 1 = p.val → s.dev.variant.hasPod p.val = true → zeroAt (s.request m.val) 2 254 = true →
     s.arg m.val 1 1 = 1 → (podAt s p.val).desc = some d → ∃ t, exec (.podInfo m r) s = .next t ∧
     s.completes m.val stOk 0 d t) ∧
  (∀ (s : State) (m : Fin 8) (p : Fin 16) (r : Option (List Byte)), s.serves m.val 0x0101 = true →
     s.arg m.val 0 1 = p.val → s.dev.variant.hasPod p.val = true → zeroAt (s.request m.val) 2 254 = true →
     s.arg m.val 1 1 = 1 → (podAt s p.val).desc = none → ∃ t, exec (.podInfo m r) s = .next t ∧
     s.completes m.val stState 0 [] t) ∧
  (∀ (s : State) (m : Fin 8) (p : Fin 16) (d : List Byte), s.serves m.val 0x0101 = true → s.arg m.val 0 1 = p.val →
     s.dev.variant.hasPod p.val = true → zeroAt (s.request m.val) 2 254 = true → s.arg m.val 1 1 = 2 →
     rereadOk (podAt s p.val) = true → padTo 256 d = descOf p.val s → ∃ (u t : State), u =
     modPod p.val (fun q => { q with telemBusy := false }) s ∧ exec (.podInfo m (some d)) s = .next t ∧
     u.completes m.val stOk 0 (podInfoBody p.val false u) t) ∧
  (∀ (s : State) (m : Fin 8) (p : Fin 16) (d : List Byte), s.serves m.val 0x0101 = true → s.arg m.val 0 1 = p.val →
     s.dev.variant.hasPod p.val = true → zeroAt (s.request m.val) 2 254 = true → s.arg m.val 1 1 = 2 →
     rereadOk (podAt s p.val) = true → padTo 256 d ≠ descOf p.val s → ∃ (u t : State), State.raises [(5,
     8)] (modPod p.val (fun q => { q with telemBusy := false }) s) u ∧ exec (.podInfo m (some d)) s = .next t ∧
     u.completes m.val stOk 0 (podInfoBody p.val true u) t) ∧
  (∀ (s : State) (m : Fin 8) (p : Fin 16), s.serves m.val 0x0101 = true → s.arg m.val 0 1 = p.val →
     s.dev.variant.hasPod p.val = true → zeroAt (s.request m.val) 2 254 = true → s.arg m.val 1 1 = 2 →
     rereadOk (podAt s p.val) = true → ∃ (u t : State), u = modPod p.val (fun q => { q with telemBusy := false }) s ∧
     exec (.podInfo m none) s = .next t ∧ u.completes m.val stInternal 0 [] t)

/-- TELEM_PERIOD starts a read of exactly the pods from UNPOWERED to ACTIVE whose descriptor names a sensor once the period has passed, and does nothing before that, with period 0 or without firmware. TELEM_READ_DONE stores a good reading, clears the failure count and flag, and raises G5.6 when the temperature first exceeds its limit; a failed read counts, and the third in a row sets the flag and raises G5.7; without a read in progress it does nothing. KEY_PRESS in standby sets its STBY_PRESS bit alone; with the device alive it sets the key's live bit and raises its event, and then either raises KEY_REFUSED, where its function cannot act, or applies the function; EVENT_ONLY applies nothing. KEY_RELEASE clears the live bit. -/
def Obligations.PodTelemetry : Prop :=
  (∀ (s : State), s.podc.telemPeriod ≠ 0 → firmwareUp s = true →
     s.podc.telemAt + 100 * msTicks s * s.podc.telemPeriod ≤ s.tm.tick → ∃ t, exec .telemPeriod s = .next t ∧ t =
     { s with pods := t.pods, podc := { s.podc with telemAt := s.tm.tick } } ∧ ∀ i < 16, podAt t i =
     (if rereadOk (podAt s i) && descTelem ((podAt s i).desc.getD []) then { podAt s i with
         telemBusy := true } else podAt s i)) ∧
  (∀ (s : State), s.podc.telemPeriod = 0 ∨ firmwareUp s =
     false ∨ s.tm.tick < s.podc.telemAt + 100 * msTicks s * s.podc.telemPeriod → exec .telemPeriod s = .next s) ∧
  (∀ (s : State) (p : Fin 16) (x : BitVec 16), (podAt s p.val).telemBusy = true →
     x.toInt ≤ (descTempLimit (descOf p.val s)) → (descTempLimit (descOf p.val s)) - 80 < x.toInt →
     exec (.telemReadDone p (some x)) s = .next (modPod p.val (fun q => { q with
         telemBusy := false, temp := x, telemFails := 0, telemFail := false }) s)) ∧
  (∀ (s : State) (p : Fin 16) (x : BitVec 16), (podAt s p.val).telemBusy = true →
     x.toInt ≤ (descTempLimit (descOf p.val s)) - 80 → exec (.telemReadDone p (some x)) s =
     .next (modPod p.val (fun q => { q with
         telemBusy := false, temp := x, telemFails := 0, telemFail := false, hot := false }) s)) ∧
  (∀ (s : State) (p : Fin 16) (x : BitVec 16), (podAt s p.val).telemBusy = true →
     (descTempLimit (descOf p.val s)) < x.toInt → (podAt s p.val).hot = false → ∃ t,
     exec (.telemReadDone p (some x)) s = .next t ∧ State.raises [(5, 6)] (modPod p.val (fun q => { q with
         telemBusy := false, temp := x, telemFails := 0, telemFail := false, hot := true }) s) t) ∧
  (∀ (s : State) (p : Fin 16), (podAt s p.val).telemBusy = true → (podAt s p.val).telemFails < 2 →
     exec (.telemReadDone p none) s = .next (modPod p.val (fun q => { q with
         telemBusy := false, telemFails := q.telemFails + 1 }) s)) ∧
  (∀ (s : State) (p : Fin 16), (podAt s p.val).telemBusy = true → (podAt s p.val).telemFails = 2 → ∃ t,
     exec (.telemReadDone p none) s = .next t ∧ State.raises [(5, 7)] (modPod p.val (fun q => { q with
         telemBusy := false, telemFails := 3, telemFail := true }) s) t) ∧
  (∀ (s : State) (p : Fin 16) (x : Option (BitVec 16)), (podAt s p.val).telemBusy = false →
     exec (.telemReadDone p x) s = .next s) ∧
  (∀ (s : State) (k : Fin 8), s.dev.standby = true → exec (.keyPress k) s = .next { s with
         podc := { s.podc with stbyPress := s.podc.stbyPress ||| 2 ^ k.val } }) ∧
  (∀ (s : State) (k : Fin 8), s.dev.standby = false → coreUp s = true → keyRefused k.val s = true → ∃ t,
     exec (.keyPress k) s = .next t ∧ State.raises [(15, k.val), (15, 8)] { s with
         podc := { s.podc with keyLive := s.podc.keyLive ||| 2 ^ k.val } } t) ∧
  (∀ (s : State) (k : Fin 8), s.dev.standby = false → coreUp s = true → keyRefused k.val s = false →
     keyApplied k.val s = 4 → ∃ t, exec (.keyPress k) s = .next t ∧ State.raises [(15, k.val)] { s with
         podc := { s.podc with keyLive := s.podc.keyLive ||| 2 ^ k.val } } t) ∧
  (∀ (s : State) (k : Fin 8), s.dev.standby = false → coreUp s = true → keyRefused k.val s = false → ∃ u,
     State.raises [(15, k.val)] { s with podc := { s.podc with keyLive := s.podc.keyLive ||| 2 ^ k.val } } u ∧
     exec (.keyPress k) s = .next (keyAct k.val u)) ∧
  (∀ (s : State) (k : Fin 8), exec (.keyRelease k) s = .next { s with
         podc := { s.podc with keyLive := withoutBit k.val s.podc.keyLive } })

/-- CAL_ROTATION_START, once the 19 pairs are calibrated and the schedule or CAL_RUN asks for it, not suspended and with no rotation running, starts at input 0. CAL_SWAP_START, 250 us after the step before, puts the next input in shadow, or passes over one with CAL_HOLD, or ends a rotation whose schedule has changed. CAL_SHADOW_DONE, after 100 us, folds the passes' residuals into the spare's trims and keeps the last, or aborts after three passes with the last beyond 3.0 ps. CAL_SWAP gives the input the spare pair, detaches the old one and stores the residual. CAL_SWAP_ABORT counts, returns the spare to calibration and raises G6.1, and the third in a row makes the input stale with G6.2. Suspended, or without its precondition, each does nothing. The rounding of residuals, the folding of passes, INPUT 0 with nothing measured and RESID after an abort are the model's choices (log entry 32). -/
def Obligations.CalibrationSteps : Prop :=
  (∀ (s : State) (p : Fin 16), calLive p.val s = true → calSuspended s = false → (calAt s p.val).rotating = none →
     0 < spareCount (calAt s p.val) → (calAt s p.val).startNext = true ∨ (calAt s p.val).sched =
     0 ∨ ((calAt s p.val).sched = 1 ∧
     (calAt s p.val).rotStart.all (fun t => decide (t + 1000 * msTicks s * (calAt s p.val).periodS ≤ s.tm.tick)) =
     true) → exec (.calRotationStart p) s = .next (modCal p.val (fun c => { c with
         rotating := some 0, startNext := false, rotMax := none, rotStart := some s.tm.tick, resched := false }) s)) ∧
  (∀ (s : State) (p : Fin 16), calLive p.val s = false ∨ calSuspended s =
     true ∨ (calAt s p.val).rotating ≠ none ∨ ((calAt s p.val).startNext = false ∧ ((calAt s p.val).sched =
     2 ∨ ((calAt s p.val).sched = 1 ∧
     (calAt s p.val).rotStart.any (fun t => decide (s.tm.tick < t + 1000 * msTicks s * (calAt s p.val).periodS)) =
     true))) → exec (.calRotationStart p) s = .next s) ∧
  (∀ (s : State) (p : Fin 16) (k : Nat), calLive p.val s = true → calSuspended s = false →
     (calAt s p.val).rotating = some k → (calAt s p.val).shadow = none → calHold (actCh s (inputIndex p.val k)) =
     false → (calAt s p.val).spares ≠ [] → stepDue 250 (calAt s p.val) s = true → (calAt s p.val).resched = false →
     exec (.calSwapStart p) s = .next (modCal p.val (fun c => { c with
         stepAt := some s.tm.tick, shadow := some k, shadowDone := false, shadowRes := none }) s)) ∧
  (∀ (s : State) (p : Fin 16) (k : Nat), calLive p.val s = true → calSuspended s = false →
     (calAt s p.val).rotating = some k → (calAt s p.val).shadow = none → calHold (actCh s (inputIndex p.val k)) =
     true → k < 16 → stepDue 250 (calAt s p.val) s = true → (calAt s p.val).resched = false →
     exec (.calSwapStart p) s = .next (modCal p.val (fun c => { c with
         stepAt := some s.tm.tick, shadow := none, shadowDone := false, shadowRes := none, rotating := some (k + 1) }) s)) ∧
  (∀ (s : State) (p : Fin 16), calLive p.val s = true → calSuspended s = false → (calAt s p.val).rotating =
     some 16 → (calAt s p.val).shadow = none → calHold (actCh s (inputIndex p.val 16)) = true →
     (calAt s p.val).rotCairn = false → (calAt s p.val).rotMax = none → stepDue 250 (calAt s p.val) s = true →
     (calAt s p.val).resched = false → ∃ t, exec (.calSwapStart p) s = .next t ∧ State.raises [(6,
     0)] (modCal p.val (fun c => { c with
         stepAt := some s.tm.tick, shadow := none, shadowDone := false, shadowRes := none, rotating := none, rotations := c.rotations + 1, lastRot := t0Of s.tm.a, maxResid := 0xFFFF }) s) t) ∧
  (∀ (s : State) (p : Fin 16) (k : Nat), calLive p.val s = true → calSuspended s = false →
     (calAt s p.val).rotating = some k → (calAt s p.val).shadow = none → stepDue 250 (calAt s p.val) s = true →
     (calAt s p.val).resched = true → exec (.calSwapStart p) s = .next (modCal p.val (fun c => { c with
         stepAt := some s.tm.tick, rotating := none, resched := false }) s)) ∧
  (∀ (s : State) (p : Fin 16) (ps : List CalPass), stepDue 100 (calAt s p.val) s = false →
     exec (.calSwapStart p) s = .next s ∧ exec (.calShadowDone p ps) s = .next s) ∧
  (∀ (c : Cal) (n : Nat) (s : State), stepDue n c s =
     (match c.stepAt with | none => true | some t => decide (t + n * usTicks s ≤ s.tm.tick))) ∧
  (∀ (s : State) (p : Fin 16), (calAt s p.val).rotating = none ∨ calSuspended s = true → exec (.calSwapStart p) s =
     .next s) ∧
  (∀ (s : State) (p : Fin 16) (k a : Nat) (l : List Nat) (ps : List CalPass) (r : Int), (calAt s p.val).shadow =
     some k → (calAt s p.val).shadowDone = false → calSuspended s = false → stepDue 100 (calAt s p.val) s = true →
     (podAt s p.val).state = .active → measured ps = [r] → (calAt s p.val).spares = a :: l →
     exec (.calShadowDone p ps) s = .next (modCal p.val (fun c => { c with
         trims := tabMod c.trims a (fun x => (x.1 + residUnits r, x.2 + residUnits r)), shadowDone := true, shadowRes := some r }) s)) ∧
  (∀ (s : State) (p : Fin 16) (k : Nat) (ps : List CalPass) (x y z : Int) (l : List Int), (calAt s p.val).shadow =
     some k → (calAt s p.val).shadowDone = false → calSuspended s = false → stepDue 100 (calAt s p.val) s = true →
     (podAt s p.val).state = .active → measured ps = x :: y :: z :: l → 30 < z.natAbs →
     exec (.calShadowDone p ps) s = .next (abortSwap p.val k (some z) (foldResid p.val y (foldResid p.val x s)))) ∧
  (∀ (s : State) (p : Fin 16) (k : Nat) (ps : List CalPass), (calAt s p.val).shadow = some k →
     (calAt s p.val).shadowDone = false → calSuspended s = false → stepDue 100 (calAt s p.val) s = true →
     (podAt s p.val).state ≠ .active → exec (.calShadowDone p ps) s = .next (modCal p.val (fun c => { c with
         shadowDone := true, shadowRes := none }) s)) ∧
  (∀ (s : State) (p : Fin 16) (ps : List CalPass), (calAt s p.val).shadow = none ∨ calSuspended s = true →
     exec (.calShadowDone p ps) s = .next s ∧ exec (.calSwap p) s = .next s ∧ exec (.calSwapAbort p) s = .next s) ∧
  (∀ (s : State) (p : Fin 16) (k a : Nat) (l : List Nat), (calAt s p.val).shadow = some k →
     (calAt s p.val).shadowDone = true → calSuspended s = false → (calAt s p.val).spares = a :: l → k < 16 → ∃ t,
     exec (.calSwap p) s = .next t ∧ t = modInput (inputIndex p.val k) (fun i => { i with
         pair := a, stale := false }) (modCal p.val (fun c => { c with
         spares := l, detached := c.detached ++ [(inputAt s (inputIndex p.val k)).pair], resid := tabMod c.resid k (fun _ => c.shadowRes), rotMax := worseResid c.rotMax c.shadowRes k, abortRun := tabMod c.abortRun k (fun _ => 0), shadow := none, shadowDone := false, shadowRes := none, rotating := some (k + 1) }) s)) ∧
  (∀ (s : State) (p : Fin 16) (a : Nat) (l : List Nat), (calAt s p.val).shadow = some 16 →
     (calAt s p.val).shadowDone = true → calSuspended s = false → (calAt s p.val).spares = a :: l → ∃ t,
     exec (.calSwap p) s = .next t ∧ (inputAt t (256 + p.val)).pair = a ∧ (inputAt t (256 + p.val)).stale = false ∧
     (calAt t p.val).rotating = none ∧ (calAt t p.val).rotations = (calAt s p.val).rotations + 1 ∧
     (calAt t p.val).spares = l ∧ t.rawBit 6 0 = true ∧ t.ring = s.ring ∧ t.cfg = s.cfg) ∧
  (∀ (s : State) (p : Fin 16) (k : Nat), (calAt s p.val).shadow = some k → (calAt s p.val).shadowDone = true →
     calSuspended s = false → k < 17 → ∃ t, exec (.calSwapAbort p) s = .next t ∧ (calAt t p.val).aborts =
     min 65535 ((calAt s p.val).aborts + 1) ∧ tabGet (calAt t p.val).abortRun k 0 =
     tabGet (calAt s p.val).abortRun k 0 + 1 ∧ (calAt t p.val).spares = (calAt s p.val).spares.drop 1 ∧
     (calAt t p.val).detached = (calAt s p.val).detached ++ (calAt s p.val).spares.take 1 ∧ (calAt t p.val).shadow =
     none ∧ (inputAt t (inputIndex p.val k)).pair = (inputAt s (inputIndex p.val k)).pair ∧
     (inputAt t (inputIndex p.val k)).stale =
     ((inputAt s (inputIndex p.val k)).stale || decide (tabGet (calAt s p.val).abortRun k 0 = 2)) ∧ t.rawBit 6 1 =
     true ∧ (tabGet (calAt s p.val).abortRun k 0 = 2 → t.rawBit 6 2 = true) ∧ t.cfg = s.cfg)

/-- CAL_PAIR_DONE of a detached pair that passed stores its trims and makes it a spare again, of one that failed takes it out of use with G6.2; a passing pair not yet calibrated since PERST# has its trims stored where it stands. CAL_RUN ROTATE_NOW starts a rotation on each named pod that has a spare, and completes STATE while suspended; SET_SCHEDULE stores the schedule, and a rotation under way under another is marked to end. CAL_STATUS answers the pod's calibration. Each command completes OK, and nothing else changes. CH_ALIAS_WRITE through an alias updates the register of every present member in the staged image, only its writable bits and enabled bytes, and nothing else; a read through an alias answers the lowest-numbered present member and sets BCAST_AGREE; an offset outside the aliases does nothing. Which fields CAL_RUN judges under which OP is the model's choice (log entry 32). -/
def Obligations.FrontEndSettings : Prop :=
  (∀ (s : State) (p : Fin 16) (a : Fin 19) (u l : Int), portLive p.val s = true → firmwareUp s = true →
     a.val ∈ (calAt s p.val).detached → exec (.calPairDone p a true u l) s = .next (modCal p.val (fun c => { c with
         trims := tabMod c.trims a.val (fun _ => (u, l)), detached := c.detached.filter (· ≠ a.val), spares := c.spares ++ [a.val], calibrated := c.calibrated ||| 2 ^ a.val }) s)) ∧
  (∀ (s : State) (p : Fin 16) (a : Fin 19) (u l : Int), portLive p.val s = true → firmwareUp s = true →
     a.val ∈ (calAt s p.val).detached → ∃ t, exec (.calPairDone p a false u l) s = .next t ∧ (calAt t p.val).failed =
     (calAt s p.val).failed ++ [a.val] ∧ (calAt t p.val).detached = (calAt s p.val).detached.filter (· ≠ a.val) ∧
     (calAt t p.val).spares = (calAt s p.val).spares.filter (· ≠ a.val) ∧ (calAt t p.val).trims =
     (calAt s p.val).trims ∧ t.rawBit 6 2 = true ∧ t.cfg = s.cfg) ∧
  (∀ (s : State) (p : Fin 16) (a : Fin 19) (u l : Int), portLive p.val s = true → firmwareUp s = true →
     a.val ∉ (calAt s p.val).detached → (calAt s p.val).calibrated.testBit a.val = false →
     exec (.calPairDone p a true u l) s = .next (modCal p.val (fun c => { c with
         trims := tabMod c.trims a.val (fun _ => (u, l)), calibrated := c.calibrated ||| 2 ^ a.val }) s)) ∧
  (∀ (s : State) (p : Fin 16) (a : Fin 19) (b : Bool) (u l : Int), a.val ∉ (calAt s p.val).detached →
     (calAt s p.val).calibrated.testBit a.val = true → exec (.calPairDone p a b u l) s = .next s) ∧
  (∀ (p : Nat) (s : State), calLive p s = (portLive p s && firmwareUp s && decide ((calAt s p).calibrated =
     2 ^ 19 - 1))) ∧
  (∀ (s : State) (m : Fin 8), s.serves m.val 0x0201 = true → (∀ p ∈ bitsSet 16 (s.arg m.val 0 2),
     s.dev.variant.hasPod p = true) → (s.arg m.val 0 2) ≠ 0 → s.arg m.val 6 1 ≤ 1 → zeroAt (s.request m.val) 7 249 =
     true → s.arg m.val 2 1 = 0 → calSuspended s = false → ∃ (u t : State), u =
     ((bitsSet 16 (s.arg m.val 0 2)).filter fun p => decide (0 < spareCount (calAt s p))).foldl (fun v p => modCal p (fun c => { c with
         startNext := c.startNext || c.rotating.isNone }) v) s ∧ exec (.calRun m) s = .next t ∧
     u.completes m.val stOk 0 (leBytes 2 (maskOf ((bitsSet 16 (s.arg m.val 0 2)).filter fun p => decide (0 < spareCount (calAt s p))))) t) ∧
  (∀ (s : State) (m : Fin 8), s.serves m.val 0x0201 = true → (∀ p ∈ bitsSet 16 (s.arg m.val 0 2),
     s.dev.variant.hasPod p = true) → (s.arg m.val 0 2) ≠ 0 → s.arg m.val 6 1 ≤ 1 → zeroAt (s.request m.val) 7 249 =
     true → s.arg m.val 2 1 = 0 → calSuspended s = true → ∃ t, exec (.calRun m) s = .next t ∧
     s.completes m.val stState 0 [] t) ∧
  (∀ (s : State) (m : Fin 8), s.serves m.val 0x0201 = true → (∀ p ∈ bitsSet 16 (s.arg m.val 0 2),
     s.dev.variant.hasPod p = true) → (s.arg m.val 0 2) ≠ 0 → s.arg m.val 6 1 ≤ 1 → zeroAt (s.request m.val) 7 249 =
     true → s.arg m.val 2 1 = 1 → s.arg m.val 3 1 = 1 → s.arg m.val 4 2 ≠ 0 → ∃ (u t : State), u =
     (bitsSet 16 (s.arg m.val 0 2)).foldl (fun v p => modCal p (fun c => { c with
         resched := c.resched || (c.rotating.isSome && decide (c.sched ≠ 1 ∨ c.periodS ≠ s.arg m.val 4 2)), sched := 1, periodS := s.arg m.val 4 2, rotCairn := bitOf 0 (s.arg m.val 6 1) }) v) s ∧
     exec (.calRun m) s = .next t ∧ u.completes m.val stOk 0 (leBytes 2 (s.arg m.val 0 2)) t) ∧
  (∀ (s : State) (m : Fin 8), s.serves m.val 0x0201 = true → (∀ p ∈ bitsSet 16 (s.arg m.val 0 2),
     s.dev.variant.hasPod p = true) → (s.arg m.val 0 2) ≠ 0 → s.arg m.val 6 1 ≤ 1 → zeroAt (s.request m.val) 7 249 =
     true → s.arg m.val 2 1 = 1 → s.arg m.val 3 1 = 0 ∨ s.arg m.val 3 1 = 2 → ∃ (u t : State), u =
     (bitsSet 16 (s.arg m.val 0 2)).foldl (fun v p => modCal p (fun c => { c with
         resched := c.resched || (c.rotating.isSome && decide (c.sched ≠ s.arg m.val 3 1)), sched := s.arg m.val 3 1, rotCairn := bitOf 0 (s.arg m.val 6 1) }) v) s ∧
     exec (.calRun m) s = .next t ∧ u.completes m.val stOk 0 (leBytes 2 (s.arg m.val 0 2)) t) ∧
  (∀ (s : State) (m : Fin 8) (p : Fin 16), s.serves m.val 0x0202 = true → s.arg m.val 0 1 = p.val →
     s.dev.variant.hasPod p.val = true → zeroAt (s.request m.val) 1 255 = true → ∃ t, exec (.calStatus m) s =
     .next t ∧ s.completes m.val stOk 0 (calStatusBody p.val s) t) ∧
  (∀ (s : State) (x : Nat) (v : Word) (be : BitVec 4) (a : Alias), s.reached = true → aliasOf x = some a → ∃ t,
     exec (.chAliasWrite x v be) s = .next t ∧ t = { s.spent with
         cfg := { s.spent.cfg with staged := { s.cfg.staged with inputs := t.cfg.staged.inputs } } } ∧ ∀ n < 272,
     tabGet t.cfg.staged.inputs n t.cfg.staged.inputs[0] =
     (if n ∈ members a s then setChReg (tabGet s.cfg.staged.inputs n s.cfg.staged.inputs[0]) (x % 0x40) (updBits (chWritable n (x % 0x40)) (chReg (tabGet s.cfg.staged.inputs n s.cfg.staged.inputs[0]) (x % 0x40)) (mergeInto v be)) else tabGet s.cfg.staged.inputs n s.cfg.staged.inputs[0])) ∧
  (∀ (s : State) (x n : Nat) (a : Alias) (l : List Nat), s.reached = true → aliasOf x = some a → members a s =
     n :: l → exec (.chAliasRead x) s = .next (emitOut (.regData x ((chRead n (x % 0x40) s).zeroExtend 64)) { s with
         bcastAgree := agreeWord (n :: l) (x % 0x40) (chRead n (x % 0x40) s) s })) ∧
  (∀ (s : State) (x u : Nat), s.reached = true → aliasOf x = some (.user u) → members (.user u) s = [] →
     exec (.chAliasRead x) s = .next (emitOut (.regData x 0) { s with bcastAgree := 0x18000 })) ∧
  (∀ (s : State) (x : Nat) (v : Word) (be : BitVec 4), aliasOf x = none → exec (.chAliasWrite x v be) s = .next s ∧
     exec (.chAliasRead x) s = .next s)

/-- COMPARATOR_EVENT that its input can make sets that comparator's output and grid step, and the level by the two outputs: high with U, kept with L alone, low with neither; the edge count rises by one exactly when the level changes; no other input's outputs, level or count change. One that the input cannot make changes nothing. One whose instant lies before its pod joined capture changes nothing either. QUAL_TIMEOUT, once the qualifiers have started afresh after a suppression that has ended, ends a hold that is due with one detection placed at its deadline, and does nothing while none is due. TRV_STEP within the samples that may be evaluated brings the fabric to its sample and takes the step due. A taken branch sets the sequencer's state, flag and last branch, counts a step and, with FIRE, a fire, appends the branch's counter and timer requests at its placement, and makes the sequencer DONE with STOP or a one-shot fire; a blocked one counts a block and changes no state; where no branch holds only the step is noted. Without a step due nothing changes. The order of evaluation is the model's reading (log entries 29 and 30). -/
def Obligations.ComparatorEvents : Prop :=
  (∀ (s : State) (n : Fin 272) (up out : Bool) (g : Nat), eventValid n.val up out g s = true →
     beforeJoin n.val (eventTime n.val up g s) s = false → ∃ t, exec (.comparatorEvent n up out g) s = .next t ∧
     (inputAt t n.val).u = (if up then out else (inputAt s n.val).u) ∧ (inputAt t n.val).l =
     (if up then (inputAt s n.val).l else out) ∧ (inputAt t n.val).level =
     (if (if up then out else (inputAt s n.val).u) then true else if (if up then (inputAt s n.val).l else out) then (inputAt s n.val).level else false) ∧
     (inputAt t n.val).edgeCnt =
     (if (if (if up then out else (inputAt s n.val).u) then true else if (if up then (inputAt s n.val).l else out) then (inputAt s n.val).level else false) =
     (inputAt s n.val).level then (inputAt s n.val).edgeCnt else (inputAt s n.val).edgeCnt + 1) ∧
     (if up then (inputAt t n.val).uGrid else (inputAt t n.val).lGrid) = some g ∧ (∀ j < 272, j ≠ n.val →
     (inputAt t j).u = (inputAt s j).u ∧ (inputAt t j).l = (inputAt s j).l ∧ (inputAt t j).level =
     (inputAt s j).level ∧ (inputAt t j).edgeCnt = (inputAt s j).edgeCnt) ∧ t.dev = s.dev ∧ t.cfg = s.cfg ∧ t.ring =
     s.ring ∧ t.tm = s.tm ∧ t.mb = s.mb ∧ t.seqs = s.seqs ∧ t.flt = s.flt ∧ t.out = s.out) ∧
  (∀ (s : State) (n : Fin 272) (up out : Bool) (g : Nat), eventValid n.val up out g s = true →
     beforeJoin n.val (eventTime n.val up g s) s = false → s.fab.suspectTo = none →
     (if (if up then out else (inputAt s n.val).u) then true else if (if up then (inputAt s n.val).l else out) then (inputAt s n.val).level else false) ≠ (inputAt s n.val).level →
     ∃ t, exec (.comparatorEvent n up out g) s = .next t ∧ ((inputAt t n.val).valid, (inputAt t n.val).transit) =
     (crossing (actCh s n.val) (if (if up then out else (inputAt s n.val).u) then true else if (if up then (inputAt s n.val).l else out) then (inputAt s n.val).level else false) (pairedEvent (inputAt s n.val) (if (if up then out else (inputAt s n.val).u) then true else if (if up then (inputAt s n.val).l else out) then (inputAt s n.val).level else false) up (epochStart (podOf n.val) (eventTime n.val up g s) s)) (eventTime n.val up g s)).2) ∧
  (∀ (s : State) (n : Fin 272) (up out : Bool) (g : Nat), eventValid n.val up out g s =
     false ∨ beforeJoin n.val (eventTime n.val up g s) s = true → exec (.comparatorEvent n up out g) s = .next s) ∧
  (∀ (s : State) (n : Fin 272) (a b : Nat), s.fab.running = true → inputAbsent n.val s = false →
     qMode (actCh s n.val) = 4 → (inputAt s n.val).tStart = some (a, b) → holdSample (actCh s n.val) (a,
     b) ≤ s.tm.ax5 → suppressed s (holdSample (actCh s n.val) (a, b)) = false → (∀ e ∈ s.fab.suspectTo,
     s.tm.ax5 < e) → exec (.qualTimeout n) s = .next (detectIn n.val (holdSample (actCh s n.val) (a,
     b)) (a + qT1 (actCh s n.val)) (modInput n.val (fun i => { i with tStart := none }) s))) ∧
  (∀ (s : State) (n : Fin 272), s.fab.running = false ∨ inputAbsent n.val s = true ∨ holdDue n.val s.tm.ax5 s =
     false → (∀ e ∈ s.fab.suspectTo, s.tm.ax5 < e) → exec (.qualTimeout n) s = .next s) ∧
  (∀ (s : State) (n : Fin 272), exec (.qualTimeout n) s = exec (.qualTimeout n) (settleSuspect s)) ∧
  (∀ (s : State) (j : Fin 4) (k : Nat), s.fab.running = true → k < fabReach s → s.fab.sample ≤ k →
     exec (.trvStep j k) s = .next (stepSeq j.val (advance k s)) ∧ (advance k s).fab.sample = k) ∧
  (∀ (s : State) (j : Fin 4) (i b : Nat) (by_ : StepBy) (p : Program) (w : Branch) (vs : List (Option Nat)),
     s.fab.running = true → s.fab.entered = true → s.fab.sample < fabReach s → nextStep j.val s = some (i, by_, p) →
     examine by_ s ((List.range 4).map fun b => (b, tabGet p.words (4 * (seqOf s j.val).state + b) 0)) = (false,
     some (b, w, vs)) → ∃ t, exec (.trvStep j s.fab.sample) s = .next t ∧ (seqOf t j.val).state = brBits 51 48 w ∧
     (seqOf t j.val).flag = (((seqOf s j.val).flag || bitOf 90 w.toNat) && !bitOf 91 w.toNat) ∧
     (seqOf t j.val).lastBranch = b ∧ (seqOf t j.val).stepCnt = (seqOf s j.val).stepCnt + 1 ∧
     (seqOf t j.val).fireCnt = (if brFire w then (seqOf s j.val).fireCnt + 1 else (seqOf s j.val).fireCnt) ∧
     (seqOf t j.val).mode = (if brStop w || (brFire w && p.oneShot) then .done else .armed) ∧ t.fab.reqs =
     s.fab.reqs ++ brRequests w (brPlace w vs i) ∧ t.inputs = s.inputs ∧ t.pods = s.pods ∧ (brFire w = false →
     t.ring = s.ring) ∧ t.ring.W = s.ring.W ∧ t.ring.H = s.ring.H ∧ t.ring.rows = s.ring.rows ∧ t.ring.mem =
     s.ring.mem ∧ t.tm = s.tm ∧ t.cfg = s.cfg ∧ t.mb = s.mb ∧ t.dev = s.dev) ∧
  (∀ (s : State) (j : Fin 4) (i : Nat) (by_ : StepBy) (p : Program), s.fab.running = true → s.fab.entered = true →
     s.fab.sample < fabReach s → nextStep j.val s = some (i, by_, p) → examine by_ s ((List.range 4).map fun b => (b,
     tabGet p.words (4 * (seqOf s j.val).state + b) 0)) = (true, none) → ∃ t, exec (.trvStep j s.fab.sample) s =
     .next t ∧ (seqOf t j.val) = { (seqOf s j.val) with
         stepped := some i, blockCnt := (seqOf s j.val).blockCnt + 1, blockNoted := true } ∧ t.fab = s.fab ∧
     t.inputs = s.inputs ∧ t.pods = s.pods ∧ t.ring = s.ring ∧ t.tm = s.tm ∧ t.dev = s.dev ∧ t.cfg = s.cfg) ∧
  (∀ (s : State) (j : Fin 4) (i : Nat) (by_ : StepBy) (p : Program), s.fab.running = true → s.fab.entered = true →
     s.fab.sample < fabReach s → nextStep j.val s = some (i, by_, p) → examine by_ s ((List.range 4).map fun b => (b,
     tabGet p.words (4 * (seqOf s j.val).state + b) 0)) = (false, none) → exec (.trvStep j s.fab.sample) s =
     .next (modSeq j.val (fun q => { q with stepped := some i }) s)) ∧
  (∀ (s : State) (j : Fin 4), s.fab.running = true → s.fab.entered = true → s.fab.sample < fabReach s →
     nextStep j.val s = none → exec (.trvStep j s.fab.sample) s = .next s) ∧
  (∀ (s : State) (j : Fin 4) (k : Nat), s.fab.running = false ∨ fabReach s ≤ k ∨ k < s.fab.sample →
     exec (.trvStep j k) s = .next s)

/-- FAB_TIMER_EXPIRE of a running timer whose deadline's sample may be evaluated evaluates the fabric up to that sample; COUNTER_AT_LIMIT evaluates the next sample when the counter reaches its limit there, and does nothing otherwise. TRIGIN_HIGH extends a run that ended in the sample before, keeps a run that holds the sample already, and begins a run on a pin that had none. A pin of an unpowered bank is not seen high. TRIGOUT_PULSE_END ends a pulse once its width has passed, and does nothing before. Evaluation on demand is the model's reading (log entry 30). -/
def Obligations.FabricSamples : Prop :=
  (∀ (s : State) (x : Fin 16), s.fab.running = true → s.fab.timers[x].running = true → s.fab.timers[x].expired =
     none → max (s.fab.sample + 1) (sampleOf (s.fab.timers[x].tst + (timerCfg s x.val).limit * 640)) < fabReach s →
     ∃ t, exec (.fabTimerExpire x) s = .next t ∧ t =
     advance (max (s.fab.sample + 1) (sampleOf (s.fab.timers[x].tst + (timerCfg s x.val).limit * 640))) s ∧
     t.fab.sample = max (s.fab.sample + 1) (sampleOf (s.fab.timers[x].tst + (timerCfg s x.val).limit * 640)) ∧
     t.fab.running = true) ∧
  (∀ (s : State) (x : Fin 16), s.fab.timers[x].running = false → exec (.fabTimerExpire x) s = .next s) ∧
  (∀ (s : State) (x : Fin 32), s.fab.running = true → s.fab.sample + 1 < fabReach s → s.fab.counters[x].atLimit =
     none → (advance (s.fab.sample + 1) s).fab.counters[x].atLimit ≠ none → ∃ t, exec (.counterAtLimit x) s =
     .next t ∧ t = advance (s.fab.sample + 1) s ∧ t.fab.sample = s.fab.sample + 1) ∧
  (∀ (s : State) (x : Fin 32), (advance (s.fab.sample + 1) s).fab.counters[x].atLimit = none →
     exec (.counterAtLimit x) s = .next s) ∧
  (∀ (s : State) (x : Fin 4) (k : Nat), tabGet s.fab.trigin x.val none = none → bankOn (.trigin x) s = true →
     exec (.triginHigh x k) s = .next { s with
         fab := { s.fab with trigin := tabMod s.fab.trigin x.val fun _ => some (k, k) } }) ∧
  (∀ (s : State) (x : Fin 4) (f l : Nat), tabGet s.fab.trigin x.val none = some (f, l) → bankOn (.trigin x) s =
     true → exec (.triginHigh x (l + 1)) s = .next { s with
         fab := { s.fab with trigin := tabMod s.fab.trigin x.val fun _ => some (f, l + 1) } }) ∧
  (∀ (s : State) (x : Fin 4) (f l k : Nat), tabGet s.fab.trigin x.val none = some (f, l) → k ≤ l →
     exec (.triginHigh x k) s = .next s) ∧
  (∀ (s : State) (x : Fin 4) (f l k : Nat), tabGet s.fab.trigin x.val none = some (f, l) → l + 1 < k →
     s.fab.running = false → bankOn (.trigin x) s = true → exec (.triginHigh x k) s = .next { s with
         fab := { s.fab with trigin := tabMod s.fab.trigin x.val fun _ => some (k, k) } }) ∧
  (∀ (s : State) (x : Fin 4) (k : Nat), bankOn (.trigin x) s = false → exec (.triginHigh x k) s = .next s) ∧
  (∀ (s : State) (x : Fin 4) (k : Nat) (l : List Nat), s.trigout[x].requests = k :: l →
     pulseEnd x.val k s ≤ nowU s → (∀ n ∈ l, nowU s < pulseEnd x.val n s) → exec (.trigoutPulseEnd x) s =
     .next { s with trigout := tabMod s.trigout x.val fun y => { y with requests := l } }) ∧
  (∀ (s : State) (x : Fin 4), (∀ n ∈ s.trigout[x].requests, nowU s < pulseEnd x.val n s) →
     exec (.trigoutPulseEnd x) s = .next s)

/-- FAB_CFG WRITE with a body in range that names no absent input replaces that resource of the staged image and completes PENDING_EPOCH with it; READ and READ_ACTIVE answer the resource of the staged and of the active image and change nothing; a body out of range completes BAD_ARG. TRV_OUT_CFG WRITE replaces the four TOUT words of the staged image likewise, and its reads answer them. OPEN gives the sequencer an empty load buffer with the header's settings; WRITE puts its state words into the buffer; CLOSE of a program the variant has and whose branches are good makes it the staged program and completes PENDING_EPOCH, and any CLOSE discards the buffer; ERASE removes the staged program; a READ answers a program and changes nothing; WRITE and CLOSE without a buffer complete STATE. -/
def Obligations.FabricSettings : Prop :=
  (∀ (s : State) (m : Fin 8), s.serves m.val 0x0304 = true → s.arg m.val 0 1 = 0 → s.arg m.val 1 1 ≤ 4 →
     s.arg m.val 2 1 ≤ fabIndexMax (s.arg m.val 1 1) → zeroAt (s.request m.val) 3 1 = true →
     fabAbsent s.dev.variant (s.arg m.val 1 1) (s.request m.val) = false →
     fabBodyOk (s.arg m.val 1 1) (s.request m.val) = true → ∃ (u t : State), u = { s with
         cfg := { s.cfg with staged := fabWrite (s.arg m.val 1 1) (s.arg m.val 2 1) (s.request m.val) s.cfg.staged } } ∧
     exec (.fabCfg m) s = .next t ∧
     u.completes m.val stPending 0 (fabReply (s.arg m.val 1 1) (s.arg m.val 2 1) u.cfg.staged) t) ∧
  (∀ (s : State) (m : Fin 8), s.serves m.val 0x0304 = true → s.arg m.val 0 1 = 0 →
     fabAbsent s.dev.variant (s.arg m.val 1 1) (s.request m.val) = false →
     fabBodyOk (s.arg m.val 1 1) (s.request m.val) = false → ∃ t, exec (.fabCfg m) s = .next t ∧
     s.completes m.val stBadArg 0 [] t) ∧
  (∀ (s : State) (m : Fin 8), s.serves m.val 0x0304 = true → s.arg m.val 0 1 = 1 → s.arg m.val 1 1 ≤ 4 →
     s.arg m.val 2 1 ≤ fabIndexMax (s.arg m.val 1 1) → zeroAt (s.request m.val) 3 1 = true →
     zeroAt (s.request m.val) 4 252 = true → ∃ t, exec (.fabCfg m) s = .next t ∧
     s.completes m.val stOk 0 (fabReply (s.arg m.val 1 1) (s.arg m.val 2 1) s.cfg.staged) t) ∧
  (∀ (s : State) (m : Fin 8), s.serves m.val 0x0304 = true → s.arg m.val 0 1 = 2 → s.arg m.val 1 1 ≤ 4 →
     s.arg m.val 2 1 ≤ fabIndexMax (s.arg m.val 1 1) → zeroAt (s.request m.val) 3 1 = true →
     zeroAt (s.request m.val) 4 252 = true → ∃ t, exec (.fabCfg m) s = .next t ∧
     s.completes m.val stOk 0 (fabReply (s.arg m.val 1 1) (s.arg m.val 2 1) (activeSeen (s.arg m.val 1 1) (s.arg m.val 2 1) s)) t) ∧
  (∀ (s : State) (m : Fin 8), s.serves m.val 0x0305 = true → s.arg m.val 0 1 = 0 → zeroAt (s.request m.val) 1 3 =
     true → zeroAt (s.request m.val) 20 236 = true → (∀ w ∈ (toutWords (s.request m.val)), toutOk w = true ∧
     maskAbsent s.dev.variant (bitsOf 7 4 w) = false) → ∃ (u t : State), u = { s with
         cfg := { s.cfg with staged := { s.cfg.staged with tout := Vector.ofFn fun x : Fin 4 => BitVec.ofNat 32 ((toutWords (s.request m.val)).getD x.val 0) } } } ∧
     exec (.trvOutCfg m) s = .next t ∧
     u.completes m.val stPending 0 (zeros 4 ++ u.cfg.staged.tout.toList.flatMap fun w => leBytes 4 w.toNat) t) ∧
  (∀ (s : State) (m : Fin 8), s.serves m.val 0x0305 = true → s.arg m.val 0 1 = 1 ∨ s.arg m.val 0 1 = 2 →
     zeroAt (s.request m.val) 1 3 = true → zeroAt (s.request m.val) 20 236 = true →
     (∀ w ∈ (toutWords (s.request m.val)), toutOk w = true ∧ maskAbsent s.dev.variant (bitsOf 7 4 w) = false) → ∃ t,
     exec (.trvOutCfg m) s = .next t ∧
     s.completes m.val stOk 0 (leBytes 1 (s.arg m.val 0 1) ++ zeros 3 ++ (if s.arg m.val 0 1 =
     2 then s.cfg.active else s.cfg.staged).tout.toList.flatMap fun w => leBytes 4 w.toNat) t) ∧
  (∀ (s : State) (m : Fin 8) (j : Fin 4), s.serves m.val 0x0301 = true → s.arg m.val 0 1 = j.val →
     s.dev.variant.hasSeq j.val = true → loadAbsent s.dev.variant (s.request m.val) = false →
     loadBad (s.request m.val) = false → s.arg m.val 1 1 = 0 → ∃ (u t : State), u = { s with
         seqs := tabMod s.seqs j.val fun q => { q with buffer := some { step := s.arg m.val 8 1, stepPod := s.arg m.val 9 1, group := s.arg m.val 10 1, oneShot := bitOf 0 (s.arg m.val 11 1), words := Vector.replicate 64 0 } } } ∧
     exec (.trvLoad m) s = .next t ∧ u.completes m.val stOk 0 (loadReply j.val none 0 0 u) t) ∧
  (∀ (s : State) (m : Fin 8) (j : Fin 4) (p : Program), s.serves m.val 0x0301 = true → s.arg m.val 0 1 = j.val →
     s.dev.variant.hasSeq j.val = true → loadAbsent s.dev.variant (s.request m.val) = false →
     loadBad (s.request m.val) = false → s.arg m.val 1 1 = 1 → (seqOf s j.val).buffer = some p → ∃ (u t : State), u =
     { s with
         seqs := tabMod s.seqs j.val fun q => { q with buffer := some { p with words := putWords (4 * s.arg m.val 2 1) (loadWords (s.request m.val) (s.arg m.val 3 1)) p.words } } } ∧
     exec (.trvLoad m) s = .next t ∧ u.completes m.val stOk 0 (loadReply j.val none 0 0 u) t) ∧
  (∀ (s : State) (m : Fin 8) (j : Fin 4) (p : Program), s.serves m.val 0x0301 = true → s.arg m.val 0 1 = j.val →
     s.dev.variant.hasSeq j.val = true → loadAbsent s.dev.variant (s.request m.val) = false →
     loadBad (s.request m.val) = false → s.arg m.val 1 1 = 2 → (seqOf s j.val).buffer = some p →
     programAbsent s.dev.variant p = false → (∀ w ∈ p.words.toList, branchBad w = false) → ∃ (u t : State), u =
     { s with
         seqs := tabMod s.seqs j.val fun q => { q with buffer := none }, cfg := { s.cfg with staged := { s.cfg.staged with progs := tabMod s.cfg.staged.progs j.val fun _ => some p } } } ∧
     exec (.trvLoad m) s = .next t ∧ u.completes m.val stPending 0 (loadReply j.val none 0 0 u) t) ∧
  (∀ (s : State) (m : Fin 8) (j : Fin 4) (p : Program) (w : Branch), s.serves m.val 0x0301 = true →
     s.arg m.val 0 1 = j.val → s.dev.variant.hasSeq j.val = true → loadAbsent s.dev.variant (s.request m.val) =
     false → loadBad (s.request m.val) = false → s.arg m.val 1 1 = 2 → (seqOf s j.val).buffer = some p →
     programAbsent s.dev.variant p = false → w ∈ p.words.toList → branchBad w = true → ∃ (u t : State), u = { s with
         seqs := tabMod s.seqs j.val fun q => { q with buffer := none } } ∧ exec (.trvLoad m) s = .next t ∧
     u.completes m.val stBadArg 0 [] t) ∧
  (∀ (s : State) (m : Fin 8) (j : Fin 4), s.serves m.val 0x0301 = true → s.arg m.val 0 1 = j.val →
     s.dev.variant.hasSeq j.val = true → loadAbsent s.dev.variant (s.request m.val) = false →
     loadBad (s.request m.val) = false → s.arg m.val 1 1 = 1 ∨ s.arg m.val 1 1 = 2 → (seqOf s j.val).buffer = none →
     ∃ t, exec (.trvLoad m) s = .next t ∧ s.completes m.val stState 0 [] t) ∧
  (∀ (s : State) (m : Fin 8) (j : Fin 4), s.serves m.val 0x0301 = true → s.arg m.val 0 1 = j.val →
     s.dev.variant.hasSeq j.val = true → loadAbsent s.dev.variant (s.request m.val) = false →
     loadBad (s.request m.val) = false → s.arg m.val 1 1 = 3 → ∃ t, exec (.trvLoad m) s = .next t ∧
     s.completes m.val stOk 0 (loadReply j.val (progIn s.dev.variant s.cfg.staged j.val) (s.arg m.val 2 1) (s.arg m.val 3 1) s) t) ∧
  (∀ (s : State) (m : Fin 8) (j : Fin 4), s.serves m.val 0x0301 = true → s.arg m.val 0 1 = j.val →
     s.dev.variant.hasSeq j.val = true → loadAbsent s.dev.variant (s.request m.val) = false →
     loadBad (s.request m.val) = false → s.arg m.val 1 1 = 5 → ∃ (u t : State), u = { s with
         cfg := { s.cfg with staged := { s.cfg.staged with progs := tabMod s.cfg.staged.progs j.val fun _ => none } } } ∧
     exec (.trvLoad m) s = .next t ∧ u.completes m.val stPending 0 (loadReply j.val none 0 0 u) t) ∧
  (∀ (s : State) (m : Fin 8), s.serves m.val 0x0301 = true → loadAbsent s.dev.variant (s.request m.val) = true →
     ∃ t, exec (.trvLoad m) s = .next t ∧ s.completes m.val stUnsupported 0 [] t)

/-- TRV_ARM NOW and ON_START arm the named sequencers or leave them pending; while the fabric evaluates the arm takes effect with the next vector and the command completes then; CHAIN sends an ARM frame for each group and applies it, or drops the arm and completes LATE; TRV_DISARM disarms the named sequencers and answers their states: at once while the fabric is stopped, and with the next vector while it evaluates. What the fabric has to evaluate up to now comes before an arm. An armed sequencer stays as it is. TRV_ARM_TARGET arms a pending sequencer whose target time B has reached, in the first sample at or after it while the fabric evaluates, drops it where it would be discarded, and does nothing before the target. Which of R219 and R220 a late arm of a pending sequencer meets first, and when time B is judged, are the model's choices (log entry 30). -/
def Obligations.SequencerArming : Prop :=
  (∀ (s : State) (m : Fin 8), s.serves m.val 0x0302 = true → 1 ≤ s.arg m.val 0 1 → s.arg m.val 0 1 ≤ 15 →
     s.arg m.val 2 1 ≤ 1 → zeroAt (s.request m.val) 3 1 = true → zeroAt (s.request m.val) 12 244 = true →
     s.arg m.val 8 4 ≤ 999999999 → maskAbsent s.dev.variant (s.arg m.val 0 1) = false → s.arg m.val 1 1 = 0 →
     armState (s.arg m.val 0 1) 0 s = false → s.fab.running = false → ∃ (u t : State), u =
     armAll (s.arg m.val 0 1) (nextVector s) false false s ∧ exec (.trvArm m) s = .next t ∧
     u.completes m.val stOk 0 (leBytes 1 (armedMask (s.arg m.val 0 1) u)) t) ∧
  (∀ (s : State) (m : Fin 8), s.serves m.val 0x0302 = true → 1 ≤ s.arg m.val 0 1 → s.arg m.val 0 1 ≤ 15 →
     s.arg m.val 2 1 ≤ 1 → zeroAt (s.request m.val) 3 1 = true → zeroAt (s.request m.val) 12 244 = true →
     s.arg m.val 8 4 ≤ 999999999 → maskAbsent s.dev.variant (s.arg m.val 0 1) = false → s.arg m.val 1 1 = 0 →
     armState (s.arg m.val 0 1) 0 s = false → s.fab.running = true → ∃ v, v = evalNow s ∧ exec (.trvArm m) s =
     .next { v with
         fab := { v.fab with orders := v.fab.orders ++ [(armSample (s.arg m.val 0 1) (nextVector v) v, .arm (s.arg m.val 0 1) (nextVector v) false false (some m.val))] } }) ∧
  (∀ (s : State) (m : Fin 8), s.serves m.val 0x0302 = true → 1 ≤ s.arg m.val 0 1 → s.arg m.val 0 1 ≤ 15 →
     s.arg m.val 2 1 ≤ 1 → zeroAt (s.request m.val) 3 1 = true → zeroAt (s.request m.val) 12 244 = true →
     s.arg m.val 8 4 ≤ 999999999 → maskAbsent s.dev.variant (s.arg m.val 0 1) = false → s.arg m.val 1 1 = 1 →
     armState (s.arg m.val 0 1) 1 s = false → s.fab.running = false → ∃ (u t : State), u =
     (bitsSet 4 (s.arg m.val 0 1)).foldl (fun v j => pendNow j .onStart v) s ∧ exec (.trvArm m) s = .next t ∧
     u.completes m.val stOk 0 (leBytes 1 (armedMask (s.arg m.val 0 1) u)) t) ∧
  (∀ (s : State) (m : Fin 8), s.serves m.val 0x0302 = true → 1 ≤ s.arg m.val 0 1 → s.arg m.val 0 1 ≤ 15 →
     s.arg m.val 2 1 ≤ 1 → zeroAt (s.request m.val) 3 1 = true → zeroAt (s.request m.val) 12 244 = true →
     s.arg m.val 8 4 ≤ 999999999 → maskAbsent s.dev.variant (s.arg m.val 0 1) = false → s.arg m.val 1 1 = 1 →
     armState (s.arg m.val 0 1) 1 s = false → s.fab.running = true → ∃ v, v = evalNow s ∧ exec (.trvArm m) s =
     .next { v with
         fab := { v.fab with orders := v.fab.orders ++ [(armSample (s.arg m.val 0 1) (nextVector v) v, .arm (s.arg m.val 0 1) (nextVector v) false false (some m.val))] } }) ∧
  (∀ (s : State) (m : Fin 8) (k n x f : Nat), s.fab.orders = [(n, .arm x f false false (some m.val))] → n ≤ k →
     s.serves m.val 0x0302 = true → ∃ (u t : State), u = armAll x f false false { s with
         fab := { s.fab with orders := [] } } ∧ t = takeOrders k s ∧
     u.completes m.val stOk 0 (leBytes 1 (maskOf ((bitsSet 4 x).filter fun j => armBusy j u))) t) ∧
  (∀ (s : State) (m : Fin 8), s.serves m.val 0x0302 = true → 1 ≤ s.arg m.val 0 1 → s.arg m.val 0 1 ≤ 15 →
     s.arg m.val 2 1 ≤ 1 → zeroAt (s.request m.val) 3 1 = true → zeroAt (s.request m.val) 12 244 = true →
     s.arg m.val 8 4 ≤ 999999999 → maskAbsent s.dev.variant (s.arg m.val 0 1) = false → s.arg m.val 1 1 = 0 →
     armState (s.arg m.val 0 1) 0 s = true → ∃ t, exec (.trvArm m) s = .next t ∧ s.completes m.val stState 0 [] t) ∧
  (∀ (s : State) (m : Fin 8), s.serves m.val 0x0302 = true → 1 ≤ s.arg m.val 0 1 → s.arg m.val 0 1 ≤ 15 →
     s.arg m.val 2 1 ≤ 1 → zeroAt (s.request m.val) 3 1 = true → zeroAt (s.request m.val) 12 244 = true →
     s.arg m.val 8 4 ≤ 999999999 → maskAbsent s.dev.variant (s.arg m.val 0 1) = false → s.arg m.val 1 1 = 2 →
     s.dev.variant.ridgeline = true → (∀ j ∈ bitsSet 4 (s.arg m.val 0 1), loadedActive j s = true →
     chainGroup j s ≠ 0) → armState (s.arg m.val 0 1) 2 s = false → s.rl.addr ≠ 0 →
     timeBReached (s.tm.b.sec / 2 ^ 32 * 2 ^ 32 + s.arg m.val 4 4) (s.arg m.val 8 4) s = false ∨ s.arg m.val 2 1 =
     0 → ∃ (u t : State), u =
     chainMaster (s.arg m.val 0 1) (s.tm.b.sec / 2 ^ 32 * 2 ^ 32 + s.arg m.val 4 4) (s.arg m.val 8 4) (s.arg m.val 2 1) (evalNow s) ∧
     exec (.trvArm m) s = .next t ∧
     u.completes m.val stOk 0 (leBytes 1 (armedMask (s.arg m.val 0 1) u) ++ leBytes 1 (b2n (timeBReached (s.tm.b.sec / 2 ^ 32 * 2 ^ 32 + s.arg m.val 4 4) (s.arg m.val 8 4) s)) ++ leBytes 2 (maskOf (groupsOf (s.arg m.val 0 1) (evalNow s)))) t) ∧
  (∀ (s : State) (m : Fin 8), s.serves m.val 0x0302 = true → 1 ≤ s.arg m.val 0 1 → s.arg m.val 0 1 ≤ 15 →
     s.arg m.val 2 1 ≤ 1 → zeroAt (s.request m.val) 3 1 = true → zeroAt (s.request m.val) 12 244 = true →
     s.arg m.val 8 4 ≤ 999999999 → maskAbsent s.dev.variant (s.arg m.val 0 1) = false → s.arg m.val 1 1 = 2 →
     s.dev.variant.ridgeline = true → (∀ j ∈ bitsSet 4 (s.arg m.val 0 1), loadedActive j s = true →
     chainGroup j s ≠ 0) → armState (s.arg m.val 0 1) 2 s = false → s.rl.addr ≠ 0 →
     timeBReached (s.tm.b.sec / 2 ^ 32 * 2 ^ 32 + s.arg m.val 4 4) (s.arg m.val 8 4) s = true → s.arg m.val 2 1 = 1 →
     ∃ (u t : State), u = chainDrop (s.arg m.val 0 1) (evalNow s) ∧ exec (.trvArm m) s = .next t ∧
     u.completes m.val stLate 0 (leBytes 1 (armedMask (s.arg m.val 0 1) u) ++ [1] ++ leBytes 2 (maskOf (groupsOf (s.arg m.val 0 1) (evalNow s)))) t) ∧
  (∀ (s : State) (j : Nat), j < 4 → State.raises [(7, 8 * j + 7)] { s with
         seqs := tabMod s.seqs j fun q => { q with dropped := true, late := false } } (dropArm j s)) ∧
  (∀ (s : State) (j n : Nat) (b : Bool), j < 4 → (seqOf s j).mode = .idle → loadedActive j s = true →
     (seqOf (armNow j n b s) j).mode = .armed ∧ (seqOf (armNow j n b s) j).state = 0 ∧
     (seqOf (armNow j n b s) j).flag = false ∧ (seqOf (armNow j n b s) j).late = b ∧
     (seqOf (armNow j n b s) j).first = max n (intakeSample s) ∧ (armNow j n b s).rawBit 7 (8 * j) =
     (hasEvent s.dev.variant 7 (8 * j) || s.rawBit 7 (8 * j)) ∧ ∀ i < 4, i ≠ j → seqOf (armNow j n b s) i = seqOf s i) ∧
  (∀ (s : State) (m : Fin 8), s.serves m.val 0x0303 = true → 1 ≤ s.arg m.val 0 1 → s.arg m.val 0 1 ≤ 15 →
     s.arg m.val 1 1 = 0 → zeroAt (s.request m.val) 2 254 = true → maskAbsent s.dev.variant (s.arg m.val 0 1) =
     false → s.fab.running = false → ∃ (u t : State), u =
     (bitsSet 4 (s.arg m.val 0 1)).foldl (fun v j => disarmNow j v) s ∧ exec (.trvDisarm m) s = .next t ∧
     u.completes m.val stOk 0 (leBytes 1 (maskOf ((bitsSet 4 (s.arg m.val 0 1)).filter fun j => (seqOf s j).mode !=
     .unloaded && (seqOf s j).mode !=
     .idle)) ++ zeros 3 ++ (List.range 4).flatMap fun j => leBytes 1 (leftState (s.arg m.val 0 1) j s)) t) ∧
  (∀ (s : State) (m : Fin 8), s.serves m.val 0x0303 = true → 1 ≤ s.arg m.val 0 1 → s.arg m.val 0 1 ≤ 15 →
     s.arg m.val 1 1 = 0 → zeroAt (s.request m.val) 2 254 = true → maskAbsent s.dev.variant (s.arg m.val 0 1) =
     false → s.fab.running = true → exec (.trvDisarm m) s = .next { s with
         fab := { s.fab with orders := s.fab.orders ++ [(nextVector s, .disarm (s.arg m.val 0 1) (some m.val))] } }) ∧
  (∀ (s : State) (m : Fin 8) (k n x : Nat), s.fab.orders = [(n, .disarm x (some m.val))] → n ≤ k →
     s.serves m.val 0x0303 = true → ∃ (u t : State), u = (bitsSet 4 x).foldl (fun v j => disarmNow j v) { s with
         fab := { s.fab with orders := [] } } ∧ t = takeOrders k s ∧ u.completes m.val stOk 0 (disarmBody x s) t) ∧
  (∀ (s : State) (k : Nat), (∀ o ∈ s.fab.orders, k < o.1) → takeOrders k s = s) ∧
  (∀ (s : State) (j : Nat), j < 4 → (seqOf s j).mode = .armed → loadedActive j s = true → ∃ t, t = disarmNow j s ∧
     State.raises [(7, 8 * j + 3)] { s with
         seqs := tabMod s.seqs j fun q => { q with mode := .idle, state := 0, flag := false, wait := none, doneFrom := none, stepped := none } } t) ∧
  (∀ (s : State) (j : Fin 4) (a b c : Nat), (seqOf s j.val).mode = .pending → (seqOf s j.val).wait =
     some (.atTimeB a b c) → s.tm.bValid = true → timeBReached a b s = true → s.fab.running = false →
     armDiscarded j.val s = false → exec (.trvArmTarget j) s =
     .next (armPending j.val (sampleOf ((reachInstant s.tm.segB (flatOf a b)).getD (nowU s))) s)) ∧
  (∀ (s : State) (j : Fin 4) (a b c : Nat), (seqOf s j.val).mode = .pending → (seqOf s j.val).wait =
     some (.atTimeB a b c) → s.tm.bValid = true → timeBReached a b s = true → s.fab.running = true →
     exec (.trvArmTarget j) s = .next (advance (sampleOf ((reachInstant s.tm.segB (flatOf a b)).getD (nowU s))) s) ∧
     ∀ k, (sampleOf ((reachInstant s.tm.segB (flatOf a b)).getD (nowU s))) ≤ k → takeTarget k j.val s =
     armPending j.val k s) ∧
  (∀ (s : State) (j : Fin 4) (a b c : Nat), (seqOf s j.val).mode = .pending → (seqOf s j.val).wait =
     some (.atTimeB a b c) → timeBReached a b s = false → exec (.trvArmTarget j) s = .next s) ∧
  (∀ (s : State) (j : Fin 4) (a b c : Nat), (seqOf s j.val).mode = .pending → (seqOf s j.val).wait =
     some (.atTimeB a b c) → s.tm.bValid = true → timeBReached a b s = true → s.fab.running = false →
     armDiscarded j.val s = true → exec (.trvArmTarget j) s = .next (dropArm j.val (disarmNow j.val s)))

/-- ROW_ENCODE of a period that is due moves to the next period and, when a pod contributes, puts the row built from its blocks into the staging buffer where it fits, or loses it with cause 3; a period that is not due changes nothing. RING_ROW_WRITE takes the oldest staged row: where it fits ahead of what the ring keeps, its padded bytes lie at W, W moves past them and the row is the newest of the ring; where it does not, it is lost under HOLD and overwrites the oldest rows otherwise. Levels between the trimmed times of one input, and which rows the ring keeps behind X, are the model's choice and reading (log entries 29 and 19). -/
def Obligations.RowEncoding : Prop :=
  (∀ (s : State), rowDue s = true → (rowBlocks s.ring.capRow (encodeView s)) = [] → exec .rowEncode s =
     .next { (encodeView s) with
         ring := { (encodeView s).ring with capRow := s.ring.capRow + 1, capHist := noteCapture s.ring.capRow (encodeView s) }, pods := (encodeView s).pods.map (afterRow s.ring.capRow) }) ∧
  (∀ (s : State), rowDue s = true → (rowBlocks s.ring.capRow (encodeView s)) ≠ [] →
     stagingBytes (encodeView s) + (buildRow s.ring.capRow (rowBlocks s.ring.capRow (encodeView s)) (encodeView s)).1.len ≤ 0x80000 →
     exec .rowEncode s = .next { (encodeView s) with
         ring := { (encodeView s).ring with capRow := s.ring.capRow + 1, staging := (encodeView s).ring.staging ++ [buildRow s.ring.capRow (rowBlocks s.ring.capRow (encodeView s)) (encodeView s)], capHist := noteCapture s.ring.capRow (encodeView s) }, pods := (encodeView s).pods.map (afterRow s.ring.capRow) }) ∧
  (∀ (s : State), rowDue s = true → (rowBlocks s.ring.capRow (encodeView s)) ≠ [] →
     0x80000 < stagingBytes (encodeView s) + (buildRow s.ring.capRow (rowBlocks s.ring.capRow (encodeView s)) (encodeView s)).1.len →
     ∃ u, u =
     loseRow 3 s.ring.capRow (maskOf ((rowBlocks s.ring.capRow (encodeView s)).map fun b => b.1)) (encodeView s) ∧
     exec .rowEncode s = .next { u with
         ring := { u.ring with capRow := s.ring.capRow + 1, capHist := noteCapture s.ring.capRow u }, pods := u.pods.map (afterRow s.ring.capRow) }) ∧
  (∀ (s : State), rowDue s = false → exec .rowEncode s = .next s) ∧
  (∀ (s : State) (d : RowDesc) (b : List Byte) (l : List (RowDesc × List Byte)), s.ring.staging = (d, b) :: l →
     acquiring s = true →
     s.ring.W + (if isAnchor d.row s then max 128 d.len else d.len) - keptFrom s ≤ s.dev.variant.ringCap → ∃ t,
     exec .ringRowWrite s = .next t ∧ t.ring.W = s.ring.W + (if isAnchor d.row s then max 128 d.len else d.len) ∧
     t.ring.X = s.ring.X ∧ t.ring.staging = l ∧ t.ring.mem =
     memWriteMod s.dev.variant.ringCap s.ring.mem s.ring.W (padTo (if isAnchor d.row s then max 128 d.len else d.len) b) ∧
     t.ring.rows.getLast? = some { d with
         anchor := isAnchor d.row s, len := (if isAnchor d.row s then max 128 d.len else d.len), pos := s.ring.W } ∧
     t.ring.wRow = some d.row ∧ t.ring.fresh = false ∧ t.ring.lostRows = s.ring.lostRows ∧ t.dev = s.dev ∧ t.cfg =
     s.cfg ∧ t.pods = s.pods ∧ t.tm = s.tm ∧ t.flt = s.flt) ∧
  (∀ (s : State) (d : RowDesc) (b : List Byte) (l : List (RowDesc × List Byte)), s.ring.staging = (d, b) :: l →
     acquiring s = true →
     s.dev.variant.ringCap < s.ring.W + (if isAnchor d.row s then max 128 d.len else d.len) - keptFrom s →
     s.cfg.active.hold = true → exec .ringRowWrite s = .next (loseRow 2 d.row d.podMask { s with
         ring := { s.ring with staging := l } })) ∧
  (∀ (s : State) (d : RowDesc) (b : List Byte) (l : List (RowDesc × List Byte)), s.ring.staging = (d, b) :: l →
     acquiring s = true →
     s.dev.variant.ringCap < s.ring.W + (if isAnchor d.row s then max 128 d.len else d.len) - keptFrom s →
     s.cfg.active.hold = false → exec .ringRowWrite s = .next (placeRow { d with
         anchor := isAnchor d.row s, len := (if isAnchor d.row s then max 128 d.len else d.len) } b (skipRows (if isAnchor d.row s then max 128 d.len else d.len) { s with
         ring := { s.ring with staging := l } }))) ∧
  (∀ (s : State), s.ring.staging = [] ∨ acquiring s = false → exec .ringRowWrite s = .next s)

/-- RET_ROW_READ of a row that may be read, finding no error, hands the row with its bytes to retention, and X follows; where no row may be read nothing changes. RING_SCRUB_READ, while a pass goes on, of the next written line in ascending order counts a corrected error and repairs the line, counts an uncorrectable one with G8.4, and on a clean line only moves on. RING_CE_INTERVAL clears the count every 250,000,000 ticks, signalling F9 where it stood above its limit unsignalled. RING_RATE_EVAL stores the write rate of the window and clears its count, sending the latency tolerance when it has moved. -/
def Obligations.RingReads : Prop :=
  (∀ (s : State) (d : RowDesc), nextRead s = some d → mayRead d s = true → windowed d.row s = false →
     s.ring.ueLines = [] → s.ring.ceLines = [] → exec (.retRowRead []) s = .next (passX { s with
         ret := { s.ret with rowsRead := s.ret.rowsRead ++ [(d, rowBytes d s)], readRow := d.row + 1 } })) ∧
  (∀ (s : State) (d : RowDesc) (ue : List (Nat × EccErr)), nextRead s = some d → mayRead d s = true →
     exec (.retRowRead ue) s = .next (readRow d ue s)) ∧
  (∀ (s : State) (d : RowDesc) (ue : List (Nat × EccErr)), firstDue s = none → secondDue s = some d →
     exec (.retRowRead ue) s = .next (readAgain d ue s)) ∧
  (∀ (s : State) (ue : List (Nat × EccErr)), (∀ d, nextRead s = some d → mayRead d s = false) → secondDue s =
     none → exec (.retRowRead ue) s = .next s) ∧
  (∀ (s : State) (n : Nat), scrubRuns 0 s = true → scrubAtEnd s = false → n = scrubNext s → (linePos n s).isSome =
     true → n ∉ s.ring.ueLines → n ∉ s.ring.ceLines → exec (.ringScrubRead n .none) s = .next { s with
         ring := { s.ring with scrubPos := n + 1 } }) ∧
  (∀ (s : State) (n : Nat), scrubRuns 0 s = true → scrubAtEnd s = false → n = scrubNext s → (linePos n s).isSome =
     true → n ∉ s.ring.ueLines → s.ring.ceCount < s.ring.ceLimit → exec (.ringScrubRead n .corrected) s =
     .next { s with
         ring := { s.ring with scrubPos := n + 1, eccCe := s.ring.eccCe + 1, eccAddr := BitVec.ofNat 64 (64 * n), ceCount := s.ring.ceCount + 1, ceLines := s.ring.ceLines.filter (· ≠ n) } }) ∧
  (∀ (s : State) (n : Nat), scrubRuns 0 s = true → scrubAtEnd s = false → n = scrubNext s → (linePos n s).isSome =
     true → ∃ t, exec (.ringScrubRead n .uncorrectable) s = .next t ∧ t.ring.scrubPos = n + 1 ∧ t.ring.eccUe =
     s.ring.eccUe + 1 ∧ t.ring.eccAddr = BitVec.ofNat 64 (2 ^ 63 + 64 * n) ∧ n ∈ t.ring.ueLines ∧ t.ring.mem =
     s.ring.mem ∧ t.ring.W = s.ring.W ∧ t.rawBit 8 4 = true ∧ t.cfg = s.cfg ∧ t.tm = s.tm) ∧
  (∀ (s : State), (linePos s.ring.scrubPos s).isSome = true → s.ring.scrubPos < s.dev.variant.ringCap / 64 →
     scrubNext s = s.ring.scrubPos) ∧
  (∀ (s : State) (n : Nat) (e : EccErr), scrubRuns 0 s = false ∨ scrubAtEnd s =
     true ∨ n ≠ scrubNext s ∨ linePos n s = none → exec (.ringScrubRead n e) s = .next s) ∧
  (∀ (s : State), s.ring.ceFrom + 250000000 ≤ s.tm.tick → s.ring.ceCount ≤ s.ring.ceLimit ∨ s.ring.ceSignalled =
     true → exec .ringCeInterval s = .next { s with
         ring := { s.ring with ceCount := 0, ceFrom := s.tm.tick, ceSignalled := false } }) ∧
  (∀ (s : State), s.tm.tick < s.ring.ceFrom + 250000000 → exec .ringCeInterval s = .next s) ∧
  (∀ (s : State), s.ring.ceFrom + 250000000 ≤ s.tm.tick → s.ring.ceLimit < s.ring.ceCount → s.ring.ceSignalled =
     false → exec .ringCeInterval s = .next (signal 9 0 { s with
         ring := { s.ring with ceCount := 0, ceFrom := s.tm.tick, ceSignalled := false } })) ∧
  (∀ (s : State), ltrMoved { s with
         ring := { s.ring with rateBytes := s.ring.windowBytes, windowBytes := 0, rate := s.ring.windowBytes * 10000 / 1048576 } } =
     false → exec .ringRateEval s = .next { s with
         ring := { s.ring with rateBytes := s.ring.windowBytes, windowBytes := 0, rate := s.ring.windowBytes * 10000 / 1048576 } }) ∧
  (∀ (s : State), ltrMoved { s with
         ring := { s.ring with rateBytes := s.ring.windowBytes, windowBytes := 0, rate := s.ring.windowBytes * 10000 / 1048576 } } =
     true → exec .ringRateEval s = .next (sendLtr { s with
         ring := { s.ring with rateBytes := s.ring.windowBytes, windowBytes := 0, rate := s.ring.windowBytes * 10000 / 1048576 } }))

/-- BAR2_READ of reachable bytes without errors answers what each line holds, 0 where it is unwritten; errors it meets are accounted, and an uncorrectable one poisons the answer; BAR2_WRITE is discarded, counted and raises G8.5; an access beyond BAR2's 64 GiB is the fault outsideBar. RING_TAG_READ answers the selected line's tag and selects the next line. RING_CFG changes exactly the settings its OPS names, completes PENDING_EPOCH when one waits for an epoch and OK otherwise, and BAD_ARG out of range. -/
def Obligations.RingView : Prop :=
  (∀ (s : State) (x n : Nat), s.reached = true → x + n ≤ bar2Size → s.ring.ueLines = [] → s.ring.ceLines = [] →
     exec (.bar2Read x n []) s =
     .next (emitOut (.readData 2 x ((List.range n).map fun i => if (linePos ((x + i) / 64) s).isSome then memByte s.ring.mem (x + i) else 0) false) s)) ∧
  (∀ (s : State) (x n : Nat) (ue : List (Nat × EccErr)), s.reached = true → x + n ≤ bar2Size → 0 < n →
     exec (.bar2Read x n ue) s =
     .next (emitOut (.readData 2 x ((List.range n).map fun i => if (linePos ((x + i) / 64) s).isSome then memByte s.ring.mem (x + i) else 0) (!(badAmong (bar2Lines x n s) (linesWith .uncorrectable ue) s).isEmpty)) (readLines (bar2Lines x n s) (linesWith .corrected ue) (badAmong (bar2Lines x n s) (linesWith .uncorrectable ue) s) s))) ∧
  (∀ (s : State) (x : Nat) (d : List Byte), s.reached = true → x + d.length ≤ bar2Size → ∃ t,
     exec (.bar2Write x d) s = .next t ∧ State.raises [(8, 5)] { s with
         ring := { s.ring with wdrop := s.ring.wdrop + 1 } } t) ∧
  (∀ (s : State) (x n : Nat) (d : List Byte) (ue : List (Nat × EccErr)), bar2Size < x + n →
     bar2Size < x + d.length → exec (.bar2Read x n ue) s = .fault (.outsideBar 2 x) ∧ exec (.bar2Write x d) s =
     .fault (.outsideBar 2 x)) ∧
  (∀ (s : State), s.reached = true → exec (.ringTagRead true) s =
     .next (emitOut (.regData 0xD068 (ringTag s)) { s with
         ring := { s.ring with tagSel := (if s.ring.tagSel + 1 = s.dev.variant.ringCap / 64 then 0 else (s.ring.tagSel + 1) % 2 ^ 30) } })) ∧
  (∀ (s : State), s.reached = true → (∀ x ∈ s.tm.latches, x.1 ≠ 0xD068) → exec (.ringTagRead false) s =
     .next (emitOut (.regData 0xD06C (((ringTag s).extractLsb' 32 32).zeroExtend 64)) { s with
         ring := { s.ring with tagSel := (if s.ring.tagSel + 1 = s.dev.variant.ringCap / 64 then 0 else (s.ring.tagSel + 1) % 2 ^ 30) } })) ∧
  (∀ (s : State) (m : Fin 8), s.serves m.val 0x0406 = true → zeroAt (s.request m.val) 5 1 = true →
     zeroAt (s.request m.val) 8 248 = true → s.arg m.val 0 1 = 0 → ∃ t, exec (.ringCfg m) s = .next t ∧
     s.completes m.val stOk 0 (ringCfgBody s) t) ∧
  (∀ (s : State) (m : Fin 8), s.serves m.val 0x0406 = true → zeroAt (s.request m.val) 5 1 = true →
     zeroAt (s.request m.val) 8 248 = true → s.arg m.val 0 1 = 3 → s.arg m.val 1 1 ≤ 1 → s.arg m.val 2 1 ≤ 1 →
     ∃ (u t : State), u = { s with
         cfg := { s.cfg with staged := { s.cfg.staged with level := s.arg m.val 1 1, hold := s.arg m.val 2 1 == 1 } } } ∧
     exec (.ringCfg m) s = .next t ∧ u.completes m.val stPending 0 (ringCfgBody u) t) ∧
  (∀ (s : State) (m : Fin 8), s.serves m.val 0x0406 = true → zeroAt (s.request m.val) 5 1 = true →
     zeroAt (s.request m.val) 8 248 = true → s.arg m.val 0 1 = 12 → s.arg m.val 3 1 ≠ 0 → s.arg m.val 4 1 ≠ 0 →
     s.arg m.val 6 2 ≠ 0 → ∃ (u v t : State), u = evalMarks { s with
         ring := { s.ring with markA := { s.ring.markA with level := s.arg m.val 3 1 }, markB := { s.ring.markB with level := s.arg m.val 4 1 } } } ∧
     v = { u with ring := { u.ring with ceLimit := s.arg m.val 6 2 } } ∧ exec (.ringCfg m) s = .next t ∧
     v.completes m.val stOk 0 (ringCfgBody v) t) ∧
  (∀ (s : State) (m : Fin 8), s.serves m.val 0x0406 = true → 15 < s.arg m.val 0 1 → ∃ t, exec (.ringCfg m) s =
     .next t ∧ s.completes m.val stBadArg 0 [] t)

/-- RET_ROW_EMIT of the next row, once it is settled and everything about it is known, moves the emission position past it and does to the row what its policy says, and in every other case does nothing. LOG_FRAME_DUE marks a LOG frame due 1 ms after the oldest waiting entry was logged, and before that changes nothing. RETAIN_SET WRITE of settings in range that name no absent pod replaces the retention part of the staged image and completes PENDING_EPOCH with it; its reads answer the staged and the active part; settings out of range complete BAD_ARG. MARK while acquiring hands over a MARK cairn at the current instant with the request's text, adds a window request when asked, and answers the instant; in IDLE or FROZEN it completes STATE. -/
def Obligations.RetentionRows : Prop :=
  (∀ (s : State) (e : EpochRec), s.ret.cur = some e → acquiring s = true → s.cmp.inq = [] →
     ofEpoch s.ret.emitRow s = true → rowSettled s.ret.emitRow s = true → rowReady s.ret.emitRow e s = true →
     exec .retRowEmit s = .next (emitRow s.ret.emitRow e.retain.policy s) ∧
     (emitRow s.ret.emitRow e.retain.policy s).ret.emitRow = s.ret.emitRow + 1 ∧
     (emitRow s.ret.emitRow e.retain.policy s).ret.epoch = s.ret.epoch ∧
     (emitRow s.ret.emitRow e.retain.policy s).cfg = s.cfg ∧ (emitRow s.ret.emitRow e.retain.policy s).ring.W =
     s.ring.W ∧ (emitRow s.ret.emitRow e.retain.policy s).ring.mem = s.ring.mem) ∧
  (∀ (s : State), s.ret.cur = none → exec .retRowEmit s = .next s) ∧
  (∀ (s : State) (e : EpochRec), s.ret.cur = some e → rowSettled s.ret.emitRow s =
     false ∨ rowReady s.ret.emitRow e s = false → exec .retRowEmit s = .next s) ∧
  (∀ (s : State) (t : Nat) (l : List Nat), s.ret.logTicks = t :: l → t + msTicks s ≤ s.tm.tick →
     exec .logFrameDue s = .next { s with ret := { s.ret with logDue := true } }) ∧
  (∀ (s : State) (t : Nat) (l : List Nat), s.ret.logTicks = [] ∨ (s.ret.logTicks = t :: l ∧
     s.tm.tick < t + msTicks s) → exec .logFrameDue s = .next s) ∧
  (∀ (s : State) (m : Fin 8), s.serves m.val 0x0404 = true → retainBad (s.request m.val) = false → (∀ c < 4,
     ∀ p ∈ bitsSet 16 (classReq (s.request m.val) c).pods, s.dev.variant.hasPod p = true) → s.arg m.val 0 1 = 0 →
     ∃ (u t : State), u = { s with
         cfg := { s.cfg with staged := { s.cfg.staged with retain := retainReq (s.request m.val) } } } ∧
     exec (.retainSet m) s = .next t ∧ u.completes m.val stPending 0 (retainBytes 0 (retainReq (s.request m.val))) t) ∧
  (∀ (s : State) (m : Fin 8), s.serves m.val 0x0404 = true → retainBad (s.request m.val) = false → (∀ c < 4,
     ∀ p ∈ bitsSet 16 (classReq (s.request m.val) c).pods, s.dev.variant.hasPod p = true) → s.arg m.val 0 1 = 1 →
     ∃ t, exec (.retainSet m) s = .next t ∧ s.completes m.val stOk 0 (retainBytes 1 s.cfg.staged.retain) t) ∧
  (∀ (s : State) (m : Fin 8), s.serves m.val 0x0404 = true → retainBad (s.request m.val) = false → (∀ c < 4,
     ∀ p ∈ bitsSet 16 (classReq (s.request m.val) c).pods, s.dev.variant.hasPod p = true) → s.arg m.val 0 1 = 2 →
     ∃ t, exec (.retainSet m) s = .next t ∧ s.completes m.val stOk 0 (retainBytes 2 s.cfg.active.retain) t) ∧
  (∀ (s : State) (m : Fin 8), s.serves m.val 0x0404 = true → retainBad (s.request m.val) = true → ∃ t,
     exec (.retainSet m) s = .next t ∧ s.completes m.val stBadArg 0 [] t) ∧
  (∀ (s : State) (m : Fin 8), s.serves m.val 0x0405 = true → zeroAt (s.request m.val) 2 2 = true →
     zeroAt (s.request m.val) 40 216 = true → acquiring s = true → s.arg m.val 0 1 = 0 → ∃ (u t : State), u =
     pushCairn 3 (nowU s) 2 0xFF (((s.request m.val).drop 4).take 36 ++ leBytes 1 0xFF) s ∧ exec (.mark m) s =
     .next t ∧
     u.completes m.val stOk 0 (instantBytes (nowU s) ++ t0Bytes (t0Of (timeAOf s (nowU s))) ++ leBytes 4 (markEpoch s)) t) ∧
  (∀ (s : State) (m : Fin 8), s.serves m.val 0x0405 = true → zeroAt (s.request m.val) 2 2 = true →
     zeroAt (s.request m.val) 40 216 = true → acquiring s = true → s.arg m.val 0 1 = 1 → s.arg m.val 1 1 ≤ 3 →
     ∃ (u t : State), u =
     addRequest (s.arg m.val 1 1) (nowU s) (pushCairn 3 (nowU s) 2 0xFF (((s.request m.val).drop 4).take 36 ++ leBytes 1 (s.arg m.val 1 1)) s) ∧
     exec (.mark m) s = .next t ∧
     u.completes m.val stOk 0 (instantBytes (nowU s) ++ t0Bytes (t0Of (timeAOf s (nowU s))) ++ leBytes 4 (markEpoch s)) t) ∧
  (∀ (s : State) (m : Fin 8), s.serves m.val 0x0405 = true → zeroAt (s.request m.val) 2 2 = true →
     zeroAt (s.request m.val) 40 216 = true → s.arg m.val 0 1 = 0 → acquiring s = false → ∃ t, exec (.mark m) s =
     .next t ∧ s.completes m.val stState 0 [] t)

/-- While a row is emitted under a policy that does not read the ring a second time (STREAM or the summary-only policy), every frame handed to the compressor carries the epoch's number and the next SEQ, each exactly one above the frame before it, and the SEQ counter ends one above the last. -/
def Obligations.FrameSequence : Prop :=
  ∀ (s : State) (r policy : Nat), policy ≠ 1 → s.cmp.inq = [] → s.ret.seq < 18446744073709551616 → ∃ t, t =
    emitRow r policy s ∧ t.ret.seq = (s.ret.seq + t.cmp.inq.length) % 2 ^ 64 ∧ ∀ i f, t.cmp.inq[i]? = some f →
    f.seq = (s.ret.seq + i) % 2 ^ 64 ∧ f.epoch = s.ret.epoch

/-- EPOCH_BOUNDARY at the accepted instant ends capture there: DRAINING, capture off, the cause and the intake gap of the boundary fixed, and the staged image active when another epoch follows. INTAKE_RESUME starts capture and the fabric at its row. EPOCH_CLOSE_EMIT writes EPOCH_CLOSE with G8.17 once every row has left; when no epoch follows, and the packet with EPOCH_CLOSE has left the compressor, the device enters IDLE with G8.18. EPOCH_OPEN_EMIT numbers the next epoch, writes EPOCH_OPEN with G8.16 and returns to RUNNING. Before its instant each does nothing. That EPOCH_OPEN judges time B as it is emitted is the model's choice (log entry 67). -/
def Obligations.EpochBoundaries : Prop :=
  (∀ (s : State) (b : Boundary), s.ret.boundary = some b → s.dev.acq = .running → 256 * b.row ≤ s.tm.ax5 →
     s.ret.cur ≠ none → ∃ t, exec .epochBoundary s = .next t ∧ t.dev.acq = .draining ∧ t.ring.intake = false ∧
     t.ring.capRow = b.row ∧ t.ret.boundary = some { b with g := intakeGap s.cfg.active s.cfg.staged } ∧
     t.ret.openCause = closeCause b.causes ∧ t.ret.closed = false ∧ t.ret.intakeRow = none ∧ (endsIdle b.causes =
     false → t.cfg.active = s.cfg.staged) ∧ (endsIdle b.causes = true → t.ret.nextFirst = none) ∧ t.cfg.staged =
     s.cfg.staged ∧ t.tm = s.tm) ∧
  (∀ (s : State), s.ret.boundary = none → exec .epochBoundary s = .next s ∧ exec (.intakeResume 0) s = .next s ∧
     exec .epochCloseEmit s = .next s) ∧
  (∀ (s : State) (b : Boundary), s.ret.boundary = some b → s.tm.ax5 < 256 * b.row → exec .epochBoundary s = .next s) ∧
  (∀ (s : State) (b : Boundary) (r : Nat), s.ret.boundary = some b → s.dev.acq = .draining → mayResume r b s =
     true → ∃ t, exec (.intakeResume r) s = .next t ∧ t.ret.intakeRow = some r ∧ t.ring.capRow = r ∧ t.ring.intake =
     true ∧ t.fab.running = true ∧ t.fab.sample = 256 * r ∧ t.dev = s.dev ∧ t.cfg = s.cfg ∧ t.tm = s.tm) ∧
  (∀ (s : State) (b : Boundary) (e : EpochRec), s.ret.boundary = some b → s.ret.cur = some e → s.dev.acq =
     .draining → s.ret.closed = false → 256 * b.row + 512 ≤ s.tm.ax5 → b.row ≤ s.ret.emitRow → s.cmp.inq = [] → ∃ t,
     exec .epochCloseEmit s = .next t ∧ t.ret.closed = true ∧ t.ret.prevClose ≠ none ∧ t.ret.boundary =
     s.ret.boundary ∧ t.rawBit 8 17 = true ∧ t.dev = s.dev ∧ t.cfg = s.cfg ∧ t.tm = s.tm ∧ t.ring.W = s.ring.W ∧
     t.ring.mem = s.ring.mem) ∧
  (∀ (s : State) (b : Boundary), s.ret.boundary = some b → s.dev.acq = .draining → s.ret.closed = true →
     endsIdle b.causes = true → closeGone s = true → ∃ t, t = idleOnceEmpty s ∧ t.dev.acq = .idle ∧ t.ret.cur =
     none ∧ t.ret.boundary = none ∧ t.ring.X = s.ring.W ∧ t.ring.W = s.ring.W ∧ t.ring.intake = false ∧
     t.rawBit 8 18 = true ∧ t.cfg = s.cfg ∧ t.tm = s.tm) ∧
  (∀ (s : State) (b : Boundary), s.dev.acq ≠ .draining ∨ s.ret.closed = false ∨ closeGone s =
     false ∨ (s.ret.boundary = some b ∧ endsIdle b.causes = false) → idleOnceEmpty s = s) ∧
  (∀ (s : State) (b : Boundary) (x : Nat × Nat × List Byte) (r : Nat), s.ret.boundary = some b → s.ret.nextFirst =
     some x → s.dev.acq = .draining → openRow b s = some r → s.ret.closed = true → stagesEmpty s = true →
     exec .epochOpenEmit s =
     .next (let v := intakeGaps b r x.1 (openEpoch r b.row b.g x s); actHeld (epochOpened { v with
         dev := { v.dev with acq := .running }, ret := { v.ret with boundary := none, closed := false, intakeRow := none, nextFirst := none } }))) ∧
  (∀ (s : State) (b : Boundary) (x : Nat × Nat × List Byte) (r : Nat), s.ret.boundary = some b → s.ret.nextFirst =
     some x → s.dev.acq = .draining → openRow b s = some r → s.ret.closed = true → stagesEmpty s = true → ∃ t,
     exec .epochOpenEmit s = .next t ∧ t.dev.acq = .running ∧ t.ret.epoch = (s.ret.epoch + 1) % 2 ^ 32 ∧
     t.ret.emitRow = r ∧ t.ret.heldStop = none ∧ t.rawBit 8 16 = true ∧ t.cfg = s.cfg) ∧
  (∀ (s : State) (x : Nat × Nat × List Byte) (r : Nat), s.ret.boundary = none → s.ret.nextFirst = some x →
     s.dev.acq = .running → s.ret.intakeRow = some r → 256 * r ≤ s.tm.ax5 → stagesEmpty s = true → ∃ (u t : State),
     u = openEpoch r 0 0 x s ∧ t = { u with ret := { u.ret with intakeRow := none, nextFirst := none } } ∧
     exec .epochOpenEmit s = .next t ∧ t.ret.epoch = (s.ret.epoch + 1) % 2 ^ 32 ∧ t.ret.seq =
     (s.ret.seq + 1) % 2 ^ 64 ∧ t.rawBit 8 16 = true ∧ t.dev = s.dev) ∧
  (∀ (s : State), s.ret.nextFirst = none → exec .epochOpenEmit s = .next s)

/-- EPOCH_COMMIT with CFG_CRC_REF matching the staged image holds it as the pending reference and ends the epoch while RUNNING, or makes the image active at once in IDLE; with a mismatch it raises G8.23 and completes BAD_ARG; it completes BUSY while DRAINING and STATE when FROZEN. ACQ_START starts acquisition from IDLE at the next block boundary where an egress path exists. ACQ_STOP accepts a stop while RUNNING, holds it while DRAINING, and answers all ones in IDLE. -/
def Obligations.AcquisitionCommands : Prop :=
  (∀ (s : State) (m : Fin 8), s.serves m.val 0x0401 = true → zeroAt (s.request m.val) 0 256 = true → s.dev.acq =
     .running → crcMatches s = true → s.ret.boundary = none → ∃ (u t : State), u = acceptCause 5 (holdReference s) ∧
     exec (.epochCommit m) s = .next t ∧
     u.completes m.val stOk 0 (acqBody (runningEpoch s + 1) (stagedCrc s).toNat (nextRow s) (intakeGap s.cfg.active s.cfg.staged) false) t) ∧
  (∀ (s : State) (m : Fin 8), s.serves m.val 0x0401 = true → zeroAt (s.request m.val) 0 256 = true → s.dev.acq =
     .idle → crcMatches s = true → s.tal.reshape = none → ∃ (u t : State), u =
     applyOffs (activateImage (holdReference s)) ∧ u.cfg.active = s.cfg.staged ∧ u.cfg.crcChecked = s.cfg.crcRef ∧
     exec (.epochCommit m) s = .next t ∧ u.completes m.val stOk 0 (acqBody noEpoch (stagedCrc s).toNat 0 0 false) t) ∧
  (∀ (s : State) (m : Fin 8), s.serves m.val 0x0401 = true ∨ s.serves m.val 0x0402 = true →
     zeroAt (s.request m.val) 0 256 = true → s.dev.acq = .idle → crcMatches s = false → ∃ (u t : State),
     State.raises [(8, 23)] s u ∧ exec (if s.serves m.val 0x0401 then .epochCommit m else .acqStart m) s = .next t ∧
     u.completes m.val stBadArg 0 [] t) ∧
  (∀ (s : State) (m : Fin 8), s.serves m.val 0x0401 = true → zeroAt (s.request m.val) 0 256 = true → s.dev.acq =
     .draining → ∃ t, exec (.epochCommit m) s = .next t ∧ s.completes m.val stBusy 0 [] t) ∧
  (∀ (s : State) (m : Fin 8), s.serves m.val 0x0401 = true → zeroAt (s.request m.val) 0 256 = true → s.dev.acq =
     .frozen → ∃ t, exec (.epochCommit m) s = .next t ∧ s.completes m.val stState 0 [] t) ∧
  (∀ (s : State) (m : Fin 8), s.serves m.val 0x0402 = true → zeroAt (s.request m.val) 0 256 = true → s.dev.acq =
     .idle → crcMatches s = true → hasEgress s = true → s.dev.stopped = false → ∃ (u t : State), u =
     startAcq (nextRow s) s ∧ u.dev.acq = .running ∧ u.cfg.active = s.cfg.staged ∧ u.ring.intake = true ∧
     u.ring.capRow = nextRow s ∧ u.ret.intakeRow = some (nextRow s) ∧ exec (.acqStart m) s = .next t ∧
     u.completes m.val stOk 0 (acqBody (s.ret.epoch + 1) (stagedCrc s).toNat (nextRow s) 0 false) t) ∧
  (∀ (s : State) (m : Fin 8), s.serves m.val 0x0402 = true → zeroAt (s.request m.val) 0 256 = true →
     s.dev.acq ≠ .idle → ∃ t, exec (.acqStart m) s = .next t ∧ s.completes m.val stState 0 [] t) ∧
  (∀ (s : State) (m : Fin 8), s.serves m.val 0x0402 = true → zeroAt (s.request m.val) 0 256 = true → s.dev.acq =
     .idle → crcMatches s = true → hasEgress s = false → ∃ t, exec (.acqStart m) s = .next t ∧
     s.completes m.val stState 0 [] t) ∧
  (∀ (s : State) (m : Fin 8), s.serves m.val 0x0403 = true → zeroAt (s.request m.val) 0 256 = true → s.dev.acq =
     .running → ∃ (u t : State), u = acceptCause 1 s ∧ exec (.acqStop m) s = .next t ∧
     u.completes m.val stOk 0 (acqBody (runningEpoch s) 0 ((u.ret.boundary.map fun b => b.row).getD 0) 0 false) t) ∧
  (∀ (s : State) (m : Fin 8) (b : Boundary), s.serves m.val 0x0403 = true → zeroAt (s.request m.val) 0 256 = true →
     s.dev.acq = .draining → s.ret.boundary = some b → ∃ (u t : State), u = { s with
         ret := { s.ret with heldStop := some (min 1 (s.ret.heldStop.getD 1)) } } ∧ exec (.acqStop m) s = .next t ∧
     u.completes m.val stOk 0 (acqBody (if endsIdle b.causes then noEpoch else s.ret.epoch + 1) 0 0 0 true) t) ∧
  (∀ (s : State) (m : Fin 8), s.serves m.val 0x0403 = true → zeroAt (s.request m.val) 0 256 = true → s.dev.acq =
     .idle → ∃ t, exec (.acqStop m) s = .next t ∧ s.completes m.val stOk 0 (acqBody noEpoch 0 0 0 false) t) ∧
  (∀ (s : State) (c : Nat), s.ret.boundary = none → acceptCause c s = { s with
         ret := { s.ret with boundary := some { causes := [c], row := nextRow s, g := intakeGap s.cfg.active s.cfg.staged } } })

/-- COMPRESS_FRAME_IN with an extent open and a lane free takes the next frame: into the open block where it fits, else into a new block, the open one closing first where BLOCK_MAX or the extent's space demands; where no block fits, the extent closes, as it does with SHORT after EPOCH_CLOSE. BLOCK_FLUSH_TIMEOUT closes the open block once FLUSH_US has passed after its last frame. LANE_BLOCK_DONE stores the lane's block compressed where its own output is shorter and inflates back, raw with NO_GAIN or FORCED else, and with VERIFY_FAIL, counted with G9.4, where the output does not inflate back; an open packet of a block stored raw is withdrawn to its reserved word. The close of the packet that holds EPOCH_CLOSE clears every lane's tables. PAD_INSERT, FLUSH_US after an extent close fell due, makes a block of one PAD frame, behind the open block where one is open and room is left, whose close closes the extent with SHORT. Without its precondition each does nothing. What becomes of a PAD that is due while a block is open, and which stream a lane puts out, are the model's choices (log entries 56 and 11). -/
def Obligations.RecordCompressor : Prop :=
  (∀ (s : State) (f : Frame) (fs : List Frame) (x : Extent) (b : Block), s.cmp.inq = f :: fs → s.tal.opened =
     some x → x.closing = false → lanesOpen s.cmp = true → s.cmp.opened = some b → b.ext = x.seq →
     rawLen b + f.bytes.length ≤ b.max → 16 + rawLen b + f.bytes.length ≤ extRoom x s → isEpochClose f = false →
     exec .compressFrameIn s = .next { s with
         cmp := { s.cmp with inq := fs, opened := some { b with frames := b.frames ++ [f] }, last := some (noteFrame f s), lastAt := s.tm.tick } }) ∧
  (∀ (s : State) (f : Frame) (fs : List Frame) (x : Extent), s.cmp.inq = f :: fs → s.tal.opened = some x →
     x.closing = false → lanesOpen s.cmp = true → s.cmp.opened = none → 16 + f.bytes.length ≤ extRoom x s →
     isEpochClose f = false → exec .compressFrameIn s = .next { s with
         cmp := { s.cmp with inq := fs, nextBlock := s.cmp.nextBlock + 1, opened := some { newBlock x.seq s with frames := [f] }, last := some (noteFrame f s), lastAt := s.tm.tick } }) ∧
  (∀ (s : State) (f : Frame) (fs : List Frame) (x : Extent) (b : Block), s.cmp.inq = f :: fs → s.tal.opened =
     some x → x.closing = false → lanesOpen s.cmp = true → s.cmp.opened = some b → b.ext = x.seq →
     b.max < rawLen b + f.bytes.length → b.ext = x.seq → lanesOpen (closeBlock s).cmp = true → s.tal.closeDue =
     false → 16 + f.bytes.length ≤ extRoom x (closeBlock s) → isEpochClose f = false → ∃ t, exec .compressFrameIn s =
     .next t ∧ t.cmp.inq = fs ∧ t.cmp.blockCnt = s.cmp.blockCnt + 1 ∧ t.cmp.nextBlock = s.cmp.nextBlock + 1 ∧
     t.cmp.opened = some { newBlock x.seq s with frames := [f] } ∧ t.tal = s.tal ∧ t.eq = s.eq ∧ t.ret = s.ret) ∧
  (∀ (s : State) (f : Frame) (fs : List Frame) (x : Extent), s.cmp.inq = f :: fs → s.tal.opened = some x →
     x.closing = false → lanesOpen s.cmp = true → s.cmp.opened = none → extRoom x s < 16 + f.bytes.length →
     (∀ b ∈ inFlight s.cmp, b.ext ≠ x.seq) → ∃ t, exec .compressFrameIn s = .next t ∧ t.tal.opened = none ∧ t.cmp =
     s.cmp ∧ t.eq = s.eq ∧ t.tal.pending.length = s.tal.pending.length + 1 ∧ t.tal.chain =
     shake256 (x.prev ++ x.bytes)) ∧
  (∀ (s : State) (f : Frame) (fs : List Frame) (x : Extent), s.cmp.inq = f :: fs → s.tal.opened = some x →
     x.closing = false → lanesOpen s.cmp = true → s.cmp.opened = none → 16 + f.bytes.length ≤ extRoom x s →
     isEpochClose f = true → ∃ (u t : State), u = { s with
         cmp := { s.cmp with inq := fs, nextBlock := s.cmp.nextBlock + 1, opened := some { newBlock x.seq s with frames := [f] }, last := some (noteFrame f s), lastAt := s.tm.tick } } ∧
     exec .compressFrameIn s = .next t ∧ t = closeExtent (fun y => { y with short := true }) u ∧ t.cmp.opened =
     none ∧ t.cmp.inq = fs ∧ t.cmp.blockCnt = s.cmp.blockCnt + 1) ∧
  (∀ (s : State), (s.cmp.inq = [] ∨ s.tal.opened = none ∨ lanesOpen s.cmp = false ∨ (∃ x, s.tal.opened = some x ∧
     (x.closing = true ∨ blockIn x s.cmp = false))) → exec .compressFrameIn s = .next s) ∧
  (∀ (s : State) (b : Block), s.cmp.inq = [] → s.cmp.opened = some b →
     s.cmp.lastAt + b.flush * usTicks s ≤ s.tm.tick → ∃ t, exec .blockFlushTimeout s = .next t ∧ t =
     finishExtent (closeBlock s) ∧ t.cmp.opened = none ∧ t.cmp.blockCnt = s.cmp.blockCnt + 1 ∧ t.cmp.rawBytes =
     min 18446744073709551615 (s.cmp.rawBytes + rawLen b) ∧ t.eq = s.eq ∧ t.ret = s.ret) ∧
  (∀ (s : State), (s.cmp.inq ≠ [] ∨ s.cmp.opened = none ∨ (∃ b, s.cmp.opened = some b ∧
     s.tm.tick < s.cmp.lastAt + b.flush * usTicks s)) → exec .blockFlushTimeout s = .next s) ∧
  (∀ (s : State) (l : Fin 8) (b : Block) (z : List Byte), laneNext l.val s.cmp = some b → b.head =
     true ∨ b.forced = true ∨ tabGet (s.cmp.lanes.map fun l => l.fenced) l.val false = true →
     exec (.laneBlockDone l z) s = .next { s with
         cmp := { s.cmp with lanes := tabMod s.cmp.lanes l.val fun q => { q with held := storeFirst { method := 0, flags := 4, payload := rawBytes b } q.held, fails := 0 } }, eq := { s.eq with openWords := if s.eq.openPkt = some b.no then min s.eq.openWords (storedWords { method := 0, flags := 4, payload := rawBytes b }) else s.eq.openWords } }) ∧
  (∀ (s : State) (l : Fin 8) (b : Block), laneNext l.val s.cmp = some b → b.head = false → b.forced = false →
     tabGet (s.cmp.lanes.map fun l => l.fenced) l.val false = false →
     (rawLen b ≤ (soundOutput l.val (rawBytes b) s).length →
     exec (.laneBlockDone l (soundOutput l.val (rawBytes b) s)) s = .next { s with
         cmp := { s.cmp with noGain := s.cmp.noGain + 1, lanes := tabMod s.cmp.lanes l.val fun q => { q with held := storeFirst { method := 0, flags := 2, payload := rawBytes b } q.held, tables := q.tables ++ [rawBytes b], fails := 0 } }, eq := { s.eq with openWords := if s.eq.openPkt = some b.no then 1 else s.eq.openWords } }) ∧
     ((soundOutput l.val (rawBytes b) s).length < rawLen b →
     verifies (soundOutput l.val (rawBytes b) s) (rawBytes b) = true →
     exec (.laneBlockDone l (soundOutput l.val (rawBytes b) s)) s = .next { s with
         cmp := { s.cmp with lanes := tabMod s.cmp.lanes l.val fun q => { q with held := storeFirst { method := 1, flags := 0, payload := (soundOutput l.val (rawBytes b) s) } q.held, tables := q.tables ++ [rawBytes b], fails := 0 } }, eq := { s.eq with openWords := if s.eq.openPkt = some b.no then min s.eq.openWords (storedWords { method := 1, flags := 0, payload := (soundOutput l.val (rawBytes b) s) }) else s.eq.openWords } }) ∧
     ((soundOutput l.val (rawBytes b) s).length < rawLen b →
     verifies (soundOutput l.val (rawBytes b) s) (rawBytes b) = false → ∃ t,
     exec (.laneBlockDone l (soundOutput l.val (rawBytes b) s)) s = .next t ∧ t.cmp.verifyFail =
     s.cmp.verifyFail + 1 ∧ t.rawBit 9 4 = true ∧ t.cmp.noGain = s.cmp.noGain ∧ t.cfg = s.cfg ∧ t.tm = s.tm)) ∧
  (∀ (s : State) (l : Fin 8) (b : Block) (z : List Byte), laneNext l.val s.cmp = some b → b.head = false →
     b.forced = false → tabGet (s.cmp.lanes.map fun l => l.fenced) l.val false = false → rawLen b ≤ z.length →
     verifies z (rawBytes b) = false → exec (.laneBlockDone l z) s = .next { s with
         cmp := { s.cmp with noGain := s.cmp.noGain + 1, lanes := tabMod s.cmp.lanes l.val fun q => { q with held := storeFirst { method := 0, flags := 2, payload := rawBytes b } q.held, tables := q.tables ++ [rawBytes b], fails := 0 } }, eq := { s.eq with openWords := if s.eq.openPkt = some b.no then 1 else s.eq.openWords } }) ∧
  (∀ (s : State) (l : Fin 8) (b : Block) (z : List Byte), laneNext l.val s.cmp = some b → b.head = false →
     b.forced = false → tabGet (s.cmp.lanes.map fun l => l.fenced) l.val false = false → z.length < rawLen b →
     verifies z (rawBytes b) = false → ∃ t, exec (.laneBlockDone l z) s = .next t ∧ t.cmp.verifyFail =
     s.cmp.verifyFail + 1 ∧ t.rawBit 9 4 = true ∧ t.cmp.noGain = s.cmp.noGain ∧ t.cfg = s.cfg ∧ t.tm = s.tm) ∧
  (∀ (s : State) (n : Nat) (b : Block) (d : Stored), s.eq.openPkt = some n → heldBlock n s.cmp = some (b, some d) →
     chainShort s = false → b.frames.any isEpochClose = true → ∃ t, exec .packetClose s = .next t ∧ ∀ l : Fin 8,
     (t.cmp.lanes[l]).tables = []) ∧
  (∀ (s : State) (l : Fin 8) (z : List Byte), laneNext l.val s.cmp = none → exec (.laneBlockDone l z) s = .next s) ∧
  (∀ (s : State) (x : Extent) (l : LastFrame) (q : Nat), s.tal.opened = some x → s.cmp.last = some l →
     s.tal.closeDue = true → s.tal.closeAt + s.cmp.flushUs * usTicks s ≤ s.tm.tick → lanesOpen s.cmp = true →
     x.closing = false → s.cmp.opened = none → 80 ≤ extRoom x s → l.seq = some q → ∃ t, exec .padInsert s = .next t ∧
     t = closeBlock { s with
         cmp := { s.cmp with opened := some { newBlock x.seq s with frames := [padFrame q l s] }, nextBlock := s.cmp.nextBlock + 1 } } ∧
     (padFrame q l s).bytes.length = 64 ∧ t.tal.closeDue = false ∧ t.tal.opened = some { x with
         closing := true, short := true } ∧ t.cmp.opened = none ∧ t.eq = s.eq ∧ t.ret = s.ret) ∧
  (∀ (s : State) (x : Extent) (l : LastFrame), s.tal.opened = some x → s.cmp.last = some l → s.tal.closeDue =
     true → s.tal.closeAt + s.cmp.flushUs * usTicks s ≤ s.tm.tick → lanesOpen s.cmp = true → x.closing = false →
     s.cmp.opened = none → 80 ≤ extRoom x s → l.seq = none → ∃ t, exec .padInsert s = .next t ∧ t.tal.closeDue =
     false ∧ t.tal.opened = some { x with closing := true, short := true } ∧ t.cmp.opened = none ∧ t.cmp.nextBlock =
     s.cmp.nextBlock + 1 ∧ t.eq = s.eq ∧ t.ret = s.ret) ∧
  (∀ (s : State) (x : Extent) (l : LastFrame) (b : Block), s.tal.opened = some x → s.cmp.last = some l →
     s.tal.closeDue = true → s.tal.closeAt + s.cmp.flushUs * usTicks s ≤ s.tm.tick → lanesOpen s.cmp = true →
     x.closing = false → s.cmp.opened = some b → b.ext = x.seq → 80 ≤ extRoom x (closeAhead s) → ∃ t,
     exec .padInsert s = .next t ∧ t = handPad x l (closeAhead s) ∧ t.cmp.opened = none ∧ t.cmp.blockCnt =
     s.cmp.blockCnt + 2 ∧ t.tal.closeDue = false ∧ t.eq = s.eq ∧ t.ret = s.ret) ∧
  (∀ (s : State) (x : Extent) (l : LastFrame) (b : Block), s.tal.opened = some x → s.cmp.last = some l →
     s.tal.closeDue = true → s.tal.closeAt + s.cmp.flushUs * usTicks s ≤ s.tm.tick → lanesOpen s.cmp = true →
     x.closing = false → s.cmp.opened = some b → b.ext = x.seq → extRoom x (closeAhead s) < 80 → exec .padInsert s =
     .next (closeBlock s)) ∧
  (∀ (s : State) (x : Extent) (l : LastFrame), s.tal.opened = some x → s.cmp.last = some l → s.tal.closeDue =
     true → s.tal.closeAt + s.cmp.flushUs * usTicks s ≤ s.tm.tick → lanesOpen s.cmp = true → x.closing = false →
     s.cmp.opened = none → extRoom x s < 80 → exec .padInsert s = .next (closeExtent id s) ∧ ∃ t, exec .padInsert s =
     .next t ∧ t.cmp.blockCnt = s.cmp.blockCnt ∧ t.cmp.nextBlock = s.cmp.nextBlock ∧ t.eq = s.eq ∧ t.ret = s.ret) ∧
  (∀ (s : State), s.tal.opened = none ∨ s.tal.closeDue = false ∨ s.cmp.last = none ∨ lanesOpen s.cmp =
     false ∨ s.tm.tick < s.tal.closeAt + s.cmp.flushUs * usTicks s → exec .padInsert s = .next s)

/-- PACKET_OPEN of the next block opens its packet where the filling bank has room, and where it has not raises G9.1 at the first stall. PACKET_CLOSE puts the stored block into the bank, unless the chain is short of capacity. EQ_BANK_SWAP of a released bank drains the other. EXPORT_CHUNK_CLOSE pops a chunk for its window, with a flush read, or for its drive. FLUSH_READ_CPL releases the chunk of its tag, or counts the error with G14.5 and rewinds. FLUSH_READ_TIMEOUT, once the tag's time is up, quarantines the tag with G14.3. EQ_POINTER_MISMATCH empties the queue with G9.3, both copies of its pointers alike again, and EQ_RESET_DONE ends the reset with one GAP. Without its precondition each does nothing. How fast words are pushed, how a chunk is split into posted writes, and that the block of a discarded open packet is lost are the model's choices and readings (log entries 17, 63 and 40). -/
def Obligations.ExportQueue : Prop :=
  (∀ (s : State) (b : Block) (d : Option Stored), heldBlock s.cmp.nextPkt s.cmp = some (b, d) → packetMayOpen b s =
     true → fillWords s.eq + rawLen b / 64 + 1 ≤ 32768 → exec .packetOpen s = .next { s with
         eq := { s.eq with openPkt := some b.no, openWords := 1, stall := false } }) ∧
  (∀ (s : State) (b : Block) (d : Option Stored), heldBlock s.cmp.nextPkt s.cmp = some (b, d) → packetMayOpen b s =
     true → 32768 < fillWords s.eq + rawLen b / 64 + 1 → s.eq.stall = false → s.eq.stallSeen = false → ∃ t,
     exec .packetOpen s = .next t ∧ State.raises [(9, 1)] { s with
         eq := { s.eq with stall := true, stallSeen := true, stallCnt := s.eq.stallCnt + 1 } } t) ∧
  (∀ (s : State) (b : Block) (d : Option Stored), heldBlock s.cmp.nextPkt s.cmp = some (b, d) → packetMayOpen b s =
     true → 32768 < fillWords s.eq + rawLen b / 64 + 1 → s.eq.stall = false → s.eq.stallSeen = true →
     exec .packetOpen s = .next { s with eq := { s.eq with stall := true, stallCnt := s.eq.stallCnt + 1 } }) ∧
  (∀ (s : State), s.eq.openPkt ≠ none ∨ s.eq.resetting = true ∨ s.eq.epochHold = true ∨ s.eq.fillClosed =
     true ∨ s.eq.frozen = true ∨ heldBlock s.cmp.nextPkt s.cmp = none → exec .packetOpen s = .next s) ∧
  (∀ (s : State) (n : Nat) (b : Block) (d : Stored), s.eq.openPkt = some n → heldBlock n s.cmp = some (b, some d) →
     chainShort s = false → ∃ t, exec .packetClose s = .next t ∧ t.eq.openPkt = none ∧ t.eq.openWords = 0 ∧
     t.eq.wpos = s.eq.wpos + ((storedBytes b d).length + 63) / 64 ∧ t.cmp.nextPkt = s.cmp.nextPkt + 1 ∧ t.eq.banks =
     tabMod s.eq.banks (fillBank s.eq) (· ++ [packetOf b d (((findExtent b.ext s).map fun x => x.bytes.length).getD 0)]) ∧
     t.eq.drain = s.eq.drain ∧ t.eq.rd = s.eq.rd ∧ (s.dev.acq ≠ .draining → t.ret = s.ret ∧ t.evt = s.evt ∧ t.dev =
     s.dev)) ∧
  (∀ (s : State), (s.eq.openPkt.bind fun n => (heldBlock n s.cmp).bind fun h => h.2) = none ∨ chainShort s = true →
     exec .packetClose s = .next s) ∧
  (∀ (s : State), drainWords s.eq = s.eq.released → s.eq.openPkt = none → s.eq.resetting = false →
     bankPackets s.eq (fillBank s.eq) ≠ [] → ∃ t, exec .eqBankSwap s = .next t ∧ t.eq.drain = fillBank s.eq ∧
     t.eq.rd = 0 ∧ t.eq.released = 0 ∧ t.eq.fillClosed = false ∧ bankPackets t.eq t.eq.drain =
     (if s.eq.drain ≤ 1 then bankPackets s.eq (fillBank s.eq) else bankPackets t.eq t.eq.drain) ∧ (egressPops s =
     true → t.eq.underrun = true ∧ t.eq.underrunCnt = s.eq.underrunCnt + 1) ∧ (egressPops s = false → t.eq.underrun =
     s.eq.underrun ∧ t.eq.underrunCnt = s.eq.underrunCnt) ∧ (s.eq.pull = true → t.rawBit 9 0 = true) ∧ t.tal =
     s.tal ∧ t.cmp = s.cmp) ∧
  (∀ (s : State), drainWords s.eq ≠ s.eq.released ∨ s.eq.openPkt ≠ none ∨ s.eq.resetting = true →
     exec .eqBankSwap s = .next s) ∧
  (∀ (s : State) (p q : Packet) (x : Extent) (ps : List Packet), egressPops s = true → s.eq.resetting = false →
     driveFailed s = false → s.eq.chunks.length < 8 → uncovered s = some (p, x) → onDrive x.place = false →
     packetsFrom s.eq.rd (bankPackets s.eq s.eq.drain) = q :: ps → q.ext = p.ext → ∃ t, exec .exportChunkClose s =
     .next t ∧ t.eq = (windowChunk x (q :: ps) s).eq ∧ t.eq.chunks.length = s.eq.chunks.length + 1 ∧ t.eq.rd =
     s.eq.rd + packetWords (chunkPackets s (16 * s.eq.chunkKib) 0 (q :: ps)) ∧ (t.pcie.tags.map fun e => e.1) =
     (s.pcie.tags.map fun e => e.1) ++ [freeTag s] ∧ t.pcie.nextTag = freeTag s + 1 ∧ t.eq.released = s.eq.released ∧
     t.evt = s.evt ∧ t.cmp = s.cmp) ∧
  (∀ (s : State) (p : Packet) (x : Extent) (h : Nat) (a : Bool), egressPops s = true → s.eq.resetting = false →
     driveFailed s = false → s.eq.chunks.length < 8 → uncovered s = some (p, x) → onDrive x.place = true →
     driveChunkEnd x (covered x s) s = some (h, a) → drivesFree s = true → halvesClear x s = true → ∃ t,
     exec .exportChunkClose s = .next t ∧ t.eq = (driveChunk x s).eq ∧ t.eq.chunks.length = s.eq.chunks.length + 1 ∧
     ((t.eq.chunks.getLast?).map fun k => (k.ext, k.lo, k.hi, k.tag)) = some (x.seq, covered x s, h, none) ∧ t.evt =
     s.evt ∧ t.cmp = s.cmp) ∧
  (∀ (s : State), s.tal.pending = [] → egressPops s = false ∨ s.eq.resetting = true ∨ driveFailed s =
     true ∨ 8 ≤ s.eq.chunks.length → exec .exportChunkClose s = .next s) ∧
  (∀ (s : State) (tag a : Nat), tagAddr tag s = some a → ∃ t, exec (.flushReadCpl tag true false) s = .next t ∧ t =
     issueFlushes (meetChunk (fun c => c.tag == some tag) (dropTag tag s)) ∧ t.pcie.tags =
     s.pcie.tags.filter (fun e => e.1 ≠ tag) ∧ t.eq.rewindCnt = s.eq.rewindCnt ∧ t.evt = s.evt ∧ t.cmp = s.cmp) ∧
  (∀ (s : State) (tag : Nat) (c : Chunk) (cs : List Chunk) (p : Packet) (ps : List Packet), s.eq.chunks = c :: cs →
     c.tag = some tag → s.eq.released ≤ c.upto → bankPackets s.eq s.eq.drain = p :: ps →
     c.upto ≤ (meetChunk (fun k => k.tag == some tag) (dropTag tag s)).eq.released) ∧
  (∀ (s : State) (tag a : Nat) (ok p : Bool), tagAddr tag s = some a → ok = false ∨ p = true → ∃ t,
     exec (.flushReadCpl tag ok p) s = .next t ∧ t.pcie.tags = s.pcie.tags.filter (fun e => e.1 ≠ tag) ∧
     t.pcie.badCplCnt = s.pcie.badCplCnt + 1 ∧ t.rawBit 14 5 = true ∧ (chunkOfTag tag s = true → s.eq.pull = false →
     t.eq.rd = eqMark s.eq ∧ t.eq.chunks = [] ∧ t.eq.rewindCnt = s.eq.rewindCnt + 1 ∧ t.rawBit 9 2 = true) ∧ t.cfg =
     s.cfg ∧ t.tm = s.tm ∧ t.cmp = s.cmp) ∧
  (∀ (s : State) (tag a d : Nat), s.pcie.tags.find? (fun e => e.1 = tag) = some (tag, a, d) → d ≤ s.tm.tick → ∃ t,
     exec (.flushReadTimeout tag) s = .next t ∧ t.pcie.tags = s.pcie.tags.filter (fun e => e.1 ≠ tag) ∧
     t.pcie.quarantine = s.pcie.quarantine ++ [(tag, a, s.tm.tick + 2 * usTicks s * ctoUs s, false)] ∧
     t.pcie.cplToCnt = s.pcie.cplToCnt + 1 ∧ t.rawBit 14 3 = true ∧ (chunkOfTag tag s = true → s.eq.pull = false →
     t.eq.rd = eqMark s.eq ∧ t.eq.chunks = [] ∧ t.eq.rewindCnt = s.eq.rewindCnt + 1 ∧ t.rawBit 9 2 = true) ∧ t.cfg =
     s.cfg ∧ t.tm = s.tm) ∧
  (∀ (s : State) (tag a d : Nat), s.pcie.tags.find? (fun e => e.1 = tag) = some (tag, a, d) → s.tm.tick < d →
     exec (.flushReadTimeout tag) s = .next s) ∧
  (∀ (s : State) (tag : Nat) (ok p : Bool), tagAddr tag s = none → exec (.flushReadCpl tag ok p) s = .next s ∧
     exec (.flushReadTimeout tag) s = .next s) ∧
  (∀ (s : State), ∃ t, exec .eqPointerMismatch s = .next t ∧ t.eq.resetting = true ∧ t.eq.resetCnt =
     s.eq.resetCnt + 1 ∧ t.eq.banks = Vector.replicate 2 [] ∧ t.eq.chunks = [] ∧ t.eq.openPkt = none ∧
     t.eq.openWords = 0 ∧ t.eq.skew = Vector.replicate 6 0 ∧ t.eq.lost.length = s.eq.lost.length + 1 ∧
     t.eq.lost.take s.eq.lost.length = s.eq.lost ∧ t.tal.opened = none ∧ t.rawBit 9 3 = true ∧ t.cfg = s.cfg ∧ t.tm =
     s.tm) ∧
  (∀ (s : State) (l : Option (Nat × Nat) × Option (Nat × Nat) × Nat) (ls : List (Option (Nat × Nat) × Option (Nat × Nat) × Nat)),
     s.eq.resetting = true → s.eq.lost = ls ++ [l] → ∃ t, exec .eqResetDone s = .next t ∧ t.eq = { s.eq with
         resetting := false, lost := [] } ∧ t.ret.gaps.length = s.ret.gaps.length + ls.length + 1 ∧
     (∀ g ∈ t.ret.gaps.getLast?, g.cause = 8 ∧ ∀ q ∈ l.1, g.seqFirst = q.1 ∧ g.seqLast = q.2) ∧ t.tal = s.tal ∧
     t.cmp = s.cmp ∧ t.evt = s.evt) ∧
  (∀ (s : State), s.eq.resetting = false → exec .eqResetDone s = .next s)

/-- EXP_CFG WRITE changes the settings its OPS bits name and answers them, READ answers them; out of range it completes BAD_ARG, and a change of MODE outside IDLE or with the queue occupied STATE; setting PAUSE in push mode rewinds with G9.7. A read of the pull window in the draining bank's content answers with it, and any other with zeros and G9.6, as a write does. EXP_PULL_RELEASE at a packet end within the content releases; else G9.6. EXP_DURABLE_ACK of a released extent makes the released extents up to it durable; it raises G10.4 where it names an extent not yet released or acknowledgements are not in use. That EGRESS_MODE PULL is accepted on every variant is the model's choice (log entry 61). -/
def Obligations.ExportCommands : Prop :=
  (∀ (s : State) (m : Fin 8), s.serves m.val 0x0407 = true → expBad (s.request m.val) = false → s.arg m.val 0 1 =
     0 → (s.arg m.val 1 1).testBit 0 = false → ((s.arg m.val 1 1).testBit 1 = true → (s.arg m.val 3 1 == 1) =
     s.eq.pull ∨ (s.dev.acq = .idle ∧ occupied s.eq = 0)) → ∃ (u t : State), u = { s with
         eq := { s.eq with pull := if (s.arg m.val 1 1).testBit 1 then s.arg m.val 3 1 == 1 else s.eq.pull, chunkKib := if (s.arg m.val 1 1).testBit 4 then s.arg m.val 8 2 else s.eq.chunkKib }, cmp := { s.cmp with blockKib := if (s.arg m.val 1 1).testBit 2 then s.arg m.val 4 1 else s.cmp.blockKib, flushUs := if (s.arg m.val 1 1).testBit 3 then s.arg m.val 6 2 else s.cmp.flushUs, compress := if (s.arg m.val 1 1).testBit 5 then s.arg m.val 5 1 == 1 else s.cmp.compress } } ∧
     exec (.expCfg m) s = .next t ∧ u.completes m.val stOk 0 (expReply 0 u) t) ∧
  (∀ (s : State) (m : Fin 8), s.serves m.val 0x0407 = true → expBad (s.request m.val) = false → s.arg m.val 0 1 =
     0 → s.arg m.val 1 1 = 1 → s.arg m.val 2 1 = 1 → s.eq.pull = false → ∃ (u t : State), u =
     raise 9 7 (rewind { s with eq := { s.eq with paused := true } }) ∧ exec (.expCfg m) s = .next t ∧
     u.completes m.val stOk 0 (expReply 0 u) t) ∧
  (∀ (s : State) (m : Fin 8), s.serves m.val 0x0407 = true → expBad (s.request m.val) = false → s.arg m.val 0 1 =
     0 → s.arg m.val 1 1 = 1 → s.arg m.val 2 1 = 0 → ∃ (u t : State), u = { s with
         eq := { s.eq with paused := false } } ∧ exec (.expCfg m) s = .next t ∧
     u.completes m.val stOk 0 (expReply 0 u) t) ∧
  (∀ (s : State) (m : Fin 8), s.serves m.val 0x0407 = true → expBad (s.request m.val) = false → s.arg m.val 0 1 =
     1 → ∃ t, exec (.expCfg m) s = .next t ∧ s.completes m.val stOk 0 (expReply 1 s) t) ∧
  (∀ (s : State) (m : Fin 8), s.serves m.val 0x0407 = true → expBad (s.request m.val) = true → ∃ t,
     exec (.expCfg m) s = .next t ∧ s.completes m.val stBadArg 0 [] t) ∧
  (∀ (s : State) (m : Fin 8), s.serves m.val 0x0407 = true → expBad (s.request m.val) = false → s.arg m.val 0 1 =
     0 → (s.arg m.val 1 1).testBit 1 = true → (s.arg m.val 3 1 == 1) ≠ s.eq.pull →
     s.dev.acq ≠ .idle ∨ occupied s.eq ≠ 0 → ∃ t, exec (.expCfg m) s = .next t ∧ s.completes m.val stState 0 [] t) ∧
  (∀ (s : State) (a n : Nat), s.reached = true → pullServed a n s = true → ∃ d, exec (.pullWindowRead a n) s =
     .next (emitOut (.readData 4 (0x3000000 + a) d false) s) ∧ d.length = n ∧ ∀ i < n, byteAt d i =
     byteAt (bankBytes (bankPackets s.eq s.eq.drain)) (a - 0x200000 * s.eq.drain + i)) ∧
  (∀ (s : State) (a n : Nat), s.reached = true → pullServed a n s = false → ∃ t, exec (.pullWindowRead a n) s =
     .next t ∧ State.raises [(9, 6)] { s with
         eq := { s.eq with pullBad := s.eq.pullBad + 1 }, pcie := { s.pcie with inL1 := false }, out := s.out ++ [.readData 4 (0x3000000 + a) (zeros n) false] } t) ∧
  (∀ (s : State) (a : Nat) (d : List Byte), s.reached = true → ∃ t, exec (.pullWindowWrite a d) s = .next t ∧
     State.raises [(9, 6)] { s with eq := { s.eq with pullBad := s.eq.pullBad + 1 } } t) ∧
  (∀ (s : State) (v : Word), s.reached = true → s.eq.pull = true →
     s.eq.released + v.toNat % 65536 ≤ drainWords s.eq →
     packetEnd (s.eq.released + v.toNat % 65536) 0 (bankPackets s.eq s.eq.drain) = s.eq.released + v.toNat % 65536 →
     ∃ t, exec (.expPullRelease v 0xF#4) s = .next t ∧ t =
     clearHold (afterRelease (releaseTo (s.eq.released + v.toNat % 65536) s.spent)) ∧ t.eq.released =
     s.eq.released + v.toNat % 65536 ∧ t.eq.relpos = s.eq.relpos + v.toNat % 65536 ∧ t.eq.banks = s.eq.banks ∧
     t.evt = s.evt ∧ t.cmp = s.cmp) ∧
  (∀ (s : State) (v : Word), s.reached = true → s.eq.pull =
     false ∨ drainWords s.eq < s.eq.released + v.toNat % 65536 ∨ packetEnd (s.eq.released + v.toNat % 65536) 0 (bankPackets s.eq s.eq.drain) ≠ s.eq.released + v.toNat % 65536 →
     ∃ t, exec (.expPullRelease v 0xF#4) s = .next t ∧ State.raises [(9, 6)] s.spent t) ∧
  (∀ (s : State) (v : Word) (be : BitVec 4), s.reached = true → be ≠ 0xF#4 → ∃ t, exec (.expPullRelease v be) s =
     .next t ∧ State.raises [(1, 1)] s.spent t) ∧
  (∀ (s : State) (v : Word64), s.reached = true → s.tal.durable = none → ackNames (v.toNat % 0x1000000000000) s =
     false → v.toNat % 0x1000000000000 < s.tal.nextExt → s.tal.ackRelease = false → directMode s = false → ∃ t,
     exec (.expDurableAck v 0xFF#8) s = .next t ∧ t.tal.pending.length = s.tal.pending.length ∧ (∀ x ∈ s.tal.pending,
     x.seq ≤ v.toNat % 0x1000000000000 → wholeReleased x = true → onDrive x.place = false → { x with
         durable := true } ∈ t.tal.pending) ∧ (∀ x ∈ t.tal.pending, x.durable = false → x ∈ s.tal.pending) ∧ t.evt =
     s.evt ∧ t.eq = s.eq ∧ t.cmp = s.cmp) ∧
  (∀ (s : State) (v : Word64), s.reached = true → s.tal.durable = none → ackNames (v.toNat % 0x1000000000000) s =
     true ∨ s.tal.nextExt ≤ v.toNat % 0x1000000000000 ∨ s.tal.ackRelease = true ∨ directMode s = true → ∃ t,
     exec (.expDurableAck v 0xFF#8) s = .next t ∧ t.rawBit 10 4 = true ∧ t.tal = s.tal ∧ t.eq = s.eq ∧ t.cmp = s.cmp)

/-- EXTENT_OPEN with a format, no open extent, a frame ready, a place and nothing that holds it back opens the next extent at its place with its chain value, and advances NEXT_EXT; held by the full store or an unmapped position it shows the causes and raises G10.3 or G10.2 once. EXT_CLOSE_DEADLINE, EXT_CLOSE_S seconds after the opening, makes a close due. MAP_SLOT_WRITE of the oldest durable extent writes its 32 bytes and TALUS_DURABLE; a failed read-back is tried again, and the third raises G10.11. QUIET_RECORD_WRITE after a drain writes TALUS_DURABLE into the quiet record; a record write reads back from its two copies and touches no other byte. MAP_SCRUB_READ moves on and counts what it finds. TALUS_RECOVERY continues after the head, by 64 extents further where the store was not quiet, and raises G10.7; an unformatted die skips all else. The layout of the records on the die and the order of scrub beyond the slots are the model's choices (log entry 57), and so is the head block of an extent after a forced reset (log entry 58). -/
def Obligations.RecordExtents : Prop :=
  (∀ (s : State) (f : FormatRec) (x : Frame) (p : Place), s.tal.fmt = some f → s.tal.opened = none → frameReady s =
     some x → driveFailed s = false → displaced s ≠ [] ∨ s.cmp.opened ≠ none ∨ lanesOpen s.cmp = true →
     placeOf f s.tal.nextExt s = some p → (waitsFor f s).rate = false → (waitsFor f s).full = false →
     (waitsFor f s).lag = false → ∃ t, exec .extentOpen s = .next t ∧ t.tal.nextExt = s.tal.nextExt + 1 ∧
     (t.tal.opened.map fun y => (y.seq, y.fmt, y.size, y.place, y.prev, y.restart)) = some (s.tal.nextExt, f.id,
     f.size, p, prevChain f s, s.tal.restartPending) ∧ (f.nextBase ≠ f.firstExt → t.tal.die =
     (clearQuiet s).tal.die) ∧ (f.nextBase = f.firstExt → t.tal.die = (writeFormat { f with
         nextBase := s.tal.nextExt + 1 } (clearQuiet s)).tal.die) ∧ t.tal.openTick = some s.tm.tick ∧
     t.tal.restartPending = false ∧ t.tal.genesis = false ∧ t.cmp.blockCnt = s.cmp.blockCnt + 1 ∧ t.tal.pending =
     s.tal.pending ∧ t.eq = s.eq ∧ t.dev = s.dev ∧ t.cfg = s.cfg) ∧
  (∀ (s : State) (f : FormatRec) (x : Frame), s.tal.fmt = some f → s.tal.opened = none → frameReady s = some x →
     driveFailed s = false → displaced s ≠ [] ∨ s.cmp.opened ≠ none ∨ lanesOpen s.cmp = true →
     placeOf f s.tal.nextExt s = none → s.tal.unmFor ≠ some s.tal.nextExt → (waitsFor f s).full = false → ∃ t,
     exec .extentOpen s = .next t ∧ State.raises [(10, 2)] { s with
         tal := { s.tal with waitRate := (waitsFor f s).rate, waitUnmapped := true, waitFull := false, waitLag := (waitsFor f s).lag, unmFor := some s.tal.nextExt } } t) ∧
  (∀ (s : State) (f : FormatRec) (x : Frame) (p : Place), s.tal.fmt = some f → s.tal.opened = none → frameReady s =
     some x → driveFailed s = false → displaced s ≠ [] ∨ s.cmp.opened ≠ none ∨ lanesOpen s.cmp = true →
     placeOf f s.tal.nextExt s = some p → (waitsFor f s).full = true → s.tal.waitFull = false → ∃ t,
     exec .extentOpen s = .next t ∧ State.raises [(10, 3)] { s with
         tal := { s.tal with waitRate := (waitsFor f s).rate, waitUnmapped := false, waitFull := true, waitLag := (waitsFor f s).lag } } t) ∧
  (∀ (s : State) (f : FormatRec) (x : Frame) (p : Place), s.tal.fmt = some f → s.tal.opened = none → frameReady s =
     some x → driveFailed s = false → displaced s ≠ [] ∨ s.cmp.opened ≠ none ∨ lanesOpen s.cmp = true →
     placeOf f s.tal.nextExt s = some p → (waitsFor f s).rate = true ∨ (waitsFor f s).lag = true →
     (waitsFor f s).full = false → exec .extentOpen s = .next { s with
         tal := { s.tal with waitRate := (waitsFor f s).rate, waitUnmapped := false, waitFull := false, waitLag := (waitsFor f s).lag } }) ∧
  (∀ (s : State), s.tal.fmt = none ∨ s.tal.opened ≠ none ∨ frameReady s = none ∨ driveFailed s = true →
     exec .extentOpen s = .next s) ∧
  (∀ (s : State) (x : Extent), s.tal.opened = some x → x.closing = false → closeTimeUp s = true →
     s.dev.acq ≠ .draining → s.tal.closeDue = false → exec .extCloseDeadline s = .next { s with
         tal := { s.tal with closeDue := true, closeAt := s.tm.tick } }) ∧
  (∀ (s : State) (o : Nat), s.tal.openTick = some o → s.tal.extCloseS ≠ 0 → (closeTimeUp s =
     true ↔ o + 1000 * msTicks s * s.tal.extCloseS ≤ s.tm.tick)) ∧
  (∀ (s : State), s.tal.opened = none ∨ s.tal.extCloseS = 0 ∨ closeTimeUp s = false ∨ s.dev.acq =
     .draining ∨ s.tal.closeDue = true → exec .extCloseDeadline s = .next s) ∧
  (∀ (s : State) (x : Extent) (xs : List Extent), s.tal.pending = x :: xs → x.durable = true → ∃ t,
     exec (.mapSlotWrite true) s = .next t ∧ t.tal.durable = some x.seq ∧ t.tal.pending = xs ∧ t.tal.lagBase = none ∧
     t.tal.mapWrites = (s.tal.mapWrites + 1) % 0x10000000000000000 ∧ (∀ i < 32,
     memByte t.tal.die (slotAddr x.seq + i) = byteAt (mapEntry x) i) ∧ (∀ a,
     a < slotAddr x.seq ∨ slotAddr x.seq + 32 ≤ a → memByte t.tal.die a = memByte s.tal.die a) ∧ (x.fault =
     true ∨ x.reset = true → t.rawBit 10 12 = true) ∧ t.eq = s.eq ∧ t.cmp = s.cmp ∧ t.dev = s.dev) ∧
  (∀ (s : State) (x : Extent) (xs : List Extent), s.tal.pending = x :: xs → x.durable = true → x.tries < 2 → ∃ t,
     exec (.mapSlotWrite false) s = .next t ∧ t.tal.pending.length = s.tal.pending.length ∧
     (t.tal.pending.head?.map fun y => (y.seq, y.tries)) = some (x.seq, x.tries + 1) ∧ t.tal.durable =
     s.tal.durable ∧ t.tal.mapWrites = (s.tal.mapWrites + 1) % 0x10000000000000000 ∧ t.tal.die = s.tal.die ∧ t.eq =
     s.eq) ∧
  (∀ (s : State) (x : Extent) (xs : List Extent), s.tal.pending = x :: xs → x.durable = true → 2 ≤ x.tries → ∃ t,
     exec (.mapSlotWrite false) s = .next t ∧ t.tal.durable = some x.seq ∧ t.tal.lagBase = none ∧ t.tal.mapWrites =
     (s.tal.mapWrites + 1) % 0x10000000000000000 ∧ (∀ a, a < slotAddr x.seq ∨ slotAddr x.seq + 32 ≤ a →
     memByte t.tal.die a = memByte s.tal.die a) ∧ t.rawBit 10 11 = true ∧ t.cfg = s.cfg) ∧
  (∀ (s : State) (ok : Bool), s.tal.pending.head?.all (fun x => !x.durable) = true → exec (.mapSlotWrite ok) s =
     .next s) ∧
  (∀ (s : State) (f : FormatRec) (d : Nat), s.tal.fmt = some f → s.tal.durable = some d → s.dev.acq = .idle →
     s.tal.drained = true → s.tal.pending = [] → stagesEmpty s = true → f.firstExt ≤ d → exec .quietRecordWrite s =
     .next (writeRecord quietBase (quietBytes (some d)) { s with tal := { s.tal with drained := false } })) ∧
  (∀ (s : State), s.tal.fmt = none ∨ s.tal.durable = none ∨ s.dev.acq ≠ .idle ∨ s.tal.drained =
     false ∨ s.tal.pending ≠ [] ∨ stagesEmpty s = false → exec .quietRecordWrite s = .next s) ∧
  (∀ (s : State), coreUp s = true → scrubRuns 10 s = true → s.tal.scrubRest < scrubEnd →
     (partUnits s.tal.scrubRest s.tal.scrubPos).any s.tal.dieUe.contains = false → exec (.mapScrubRead .none) s =
     .next { s with tal := scrubOn s.tal } ∧ exec (.mapScrubRead .corrected) s = .next { s with
         tal := { scrubOn s.tal with mapCe := s.tal.mapCe + 1 } }) ∧
  (∀ (s : State) (e : EccErr), coreUp s = true → scrubRuns 10 s = true → s.tal.scrubRest < scrubEnd → e =
     .uncorrectable ∨ (partUnits s.tal.scrubRest s.tal.scrubPos).any s.tal.dieUe.contains = true → ∃ t,
     exec (.mapScrubRead e) s = .next t ∧ t.tal.mapUe = s.tal.mapUe + 1 ∧ t.tal.scrubPos = (scrubOn s.tal).scrubPos ∧
     t.tal.scrubRest = (scrubOn s.tal).scrubRest ∧ t.rawBit 10 10 = true) ∧
  (∀ (t : Talus), t.scrubRest = 0 → (t.scrubPos < 2097151 → scrubOn t = { t with scrubPos := t.scrubPos + 1 }) ∧
     (t.scrubPos = 2097151 → scrubOn t = { t with scrubPos := 0, scrubRest := 1 })) ∧
  (∀ (t : Talus), t.scrubRest ≠ 0 → scrubOn t = { t with scrubRest := t.scrubRest + 1 }) ∧
  (∀ (s : State) (e : EccErr), coreUp s = false ∨ scrubRuns 10 s = false ∨ scrubEnd ≤ s.tal.scrubRest →
     exec (.mapScrubRead e) s = .next s) ∧
  (∀ (s : State) (f : FormatRec) (ue : List Nat) (n : Nat) (b : List Byte), coreUp s = true → firmwareUp s = true →
     s.dev.ready = false → s.tal.recovered = false → dieFormat (noteDieUe ue s).tal.dieUe s = some f →
     headEntry (validEntries f (noteDieUe ue s).tal.dieUe s.tal.die) = some (n, b) →
     quietSeq (unitBad (noteDieUe ue s).tal.dieUe quietBase) s.tal.die ≠ some n → ∃ t, exec (.talusRecovery ue) s =
     .next t ∧ t.tal.durable = some n ∧ t.tal.nextExt = n + 65 ∧ t.tal.torn = some (n + 1) ∧ t.tal.restartPending =
     true ∧ t.tal.quietStart = false ∧ t.ret.seq = (fieldAt b 12 8 + 1 + 4194304) % 0x10000000000000000 ∧
     t.ret.epoch = (fieldAt b 20 4 + 64) % 0x100000000 ∧ t.tal.recovered = true ∧ t.tal.dieUe =
     (noteDieUe ue s).tal.dieUe ∧ t.rawBit 10 7 = true ∧ t.rawBit 10 8 = true ∧ t.tal.die = s.tal.die) ∧
  (∀ (s : State) (f : FormatRec) (ue : List Nat) (n : Nat) (b : List Byte), coreUp s = true → firmwareUp s = true →
     s.dev.ready = false → s.tal.recovered = false → dieFormat (noteDieUe ue s).tal.dieUe s = some f →
     headEntry (validEntries f (noteDieUe ue s).tal.dieUe s.tal.die) = some (n, b) →
     quietSeq (unitBad (noteDieUe ue s).tal.dieUe quietBase) s.tal.die = some n → ∃ t, exec (.talusRecovery ue) s =
     .next t ∧ t.tal.durable = some n ∧ t.tal.nextExt = n + 1 ∧ t.tal.torn = none ∧ t.tal.restartPending = true ∧
     t.tal.quietStart = true ∧ t.ret.seq = (fieldAt b 12 8 + 1) % 0x10000000000000000 ∧ t.ret.epoch =
     fieldAt b 20 4 % 0x100000000 ∧ t.tal.recovered = true ∧ t.rawBit 10 7 = true ∧ t.tal.die = s.tal.die) ∧
  (∀ (s : State) (f : FormatRec) (ue : List Nat), coreUp s = true → firmwareUp s = true → s.dev.ready = false →
     s.tal.recovered = false → dieFormat (noteDieUe ue s).tal.dieUe s = some f →
     headEntry (validEntries f (noteDieUe ue s).tal.dieUe s.tal.die) = none →
     quietSeq (unitBad (noteDieUe ue s).tal.dieUe quietBase) s.tal.die = none → f.nextBase = f.firstExt → ∃ t,
     exec (.talusRecovery ue) s = .next t ∧ t.tal.durable = none ∧ t.tal.nextExt = f.firstExt ∧ t.tal.torn = none ∧
     t.tal.restartPending = true ∧ t.tal.quietStart = true ∧ t.ret.seq = 0 ∧ t.ret.epoch = 0 ∧ t.tal.recovered =
     true ∧ t.rawBit 10 7 = true ∧ t.tal.die = s.tal.die) ∧
  (∀ (s : State) (f : FormatRec) (ue : List Nat), coreUp s = true → firmwareUp s = true → s.dev.ready = false →
     s.tal.recovered = false → dieFormat (noteDieUe ue s).tal.dieUe s = some f →
     headEntry (validEntries f (noteDieUe ue s).tal.dieUe s.tal.die) = none → f.nextBase ≠ f.firstExt → ∃ t,
     exec (.talusRecovery ue) s = .next t ∧ t.tal.durable = none ∧ t.tal.nextExt = f.firstExt + 64 ∧ t.tal.torn =
     some f.firstExt ∧ t.tal.restartPending = true ∧ t.tal.quietStart = false ∧ t.ret.seq = 4194304 ∧ t.ret.epoch =
     64 ∧ t.tal.recovered = true ∧ t.rawBit 10 7 = true ∧ t.rawBit 10 8 = true ∧ t.tal.die = s.tal.die) ∧
  (∀ (s : State) (ue : List Nat), coreUp s = true → firmwareUp s = true → s.dev.ready = false → s.tal.recovered =
     false → dieFormat (noteDieUe ue s).tal.dieUe s = none → ∃ t, exec (.talusRecovery ue) s = .next t ∧
     t.tal.recovered = true ∧ t.tal.restartPending = true ∧ t.tal.fmt = s.tal.fmt ∧ t.tal.nextExt = s.tal.nextExt ∧
     t.tal.die = s.tal.die ∧ t.tal.dieUe = (noteDieUe ue s).tal.dieUe ∧ t.rawBit 10 7 = true ∧ t.ret.seq =
     s.ret.seq ∧ t.ret.epoch = s.ret.epoch) ∧
  (∀ (s : State) (ue : List Nat), coreUp s = false ∨ firmwareUp s = false ∨ s.dev.ready = true ∨ s.tal.recovered =
     true → exec (.talusRecovery ue) s = .next s) ∧
  (∀ (s : State) (base : Nat) (fs : List Byte), fs.length ≤ 2040 → (∀ i < 2,
     ∀ c ∈ recordCopy base fs.length i s.tal.die, c.1 < 4294967295) →
     readRecord base fs.length (fun _ => false) (writeRecord base fs s).tal.die = some fs ∧
     (writeRecord base fs s).eq = s.eq ∧ ∀ a, a < base ∨ base + 4096 ≤ a →
     memByte (writeRecord base fs s).tal.die a = memByte s.tal.die a)

/-- TALUS_FORMAT NEW in an empty IDLE device writes a format with SEQ, epoch and chain begun anew, RESHAPE takes effect at once in IDLE and is PENDING while acquiring, READ answers the format, and LOCK bars both. TALUS_WINDOW_SET stores a window that overlaps none. TALUS_DRIVE_ATTACH attaches, detaches, resets and reads a drive. TALUS_CFG stores the settings its OPS bits name and judges new levels at once. TALUS_MAP_READ answers map slots. Requests out of range complete BAD_ARG and those in the wrong state STATE. TALUS_ARCHIVED rises and never falls; TALUS_GEOMETRY.LOCK is written once. -/
def Obligations.TalusCommands : Prop :=
  (∀ (s : State) (m : Fin 8), s.serves m.val 0x0501 = true → s.arg m.val 0 1 = 0 → s.arg m.val 1 1 ≤ 2 →
     geometryOk (s.arg m.val 4 4) = true → zeroAt (s.request m.val) 2 2 = true → zeroAt (s.request m.val) 12 244 =
     true → s.arg m.val 8 4 = 0x54414C55 → s.tal.lock = false → s.dev.acq = .idle → occupied s.eq = 0 →
     drivesHold (s.arg m.val 4 4) (s.arg m.val 1 1) s = true → ∃ (u t : State), u =
     formatNew (s.arg m.val 4 4) (s.arg m.val 1 1) s ∧ (u.tal.fmt.map fun f => (f.nExt, f.size, f.firstExt)) =
     some (s.arg m.val 4 4, s.arg m.val 1 1, s.tal.nextExt) ∧ u.tal.genesis = true ∧ u.ret.seq = 0 ∧ u.ret.epoch =
     0 ∧ u.cfg = s.cfg ∧ u.eq = s.eq ∧ exec (.talusFormat m) s = .next t ∧ u.completes m.val stOk 0 (formatReply u) t) ∧
  (∀ (s : State) (m : Fin 8) (f : FormatRec), s.serves m.val 0x0501 = true → s.arg m.val 0 1 = 1 →
     s.arg m.val 1 1 ≤ 2 → geometryOk (s.arg m.val 4 4) = true → zeroAt (s.request m.val) 2 2 = true →
     zeroAt (s.request m.val) 12 244 = true → s.arg m.val 8 4 = 0 → s.tal.lock = false → s.dev.acq = .idle →
     occupied s.eq = 0 → s.tal.fmt = some f → drivesHold (s.arg m.val 4 4) (s.arg m.val 1 1) s = true →
     ∃ (u t : State), u = applyReshape { s with
         tal := { s.tal with reshape := some (s.arg m.val 1 1, s.arg m.val 4 4) } } ∧ (u.tal.fmt.map fun g => (g.id,
     g.nExt, g.size, g.firstExt)) = some ((f.id + 1) % 4294967296, s.arg m.val 4 4, s.arg m.val 1 1, s.tal.nextExt) ∧
     u.tal.reshape = none ∧ exec (.talusFormat m) s = .next t ∧ u.completes m.val stOk 0 (formatReply u) t) ∧
  (∀ (s : State) (m : Fin 8) (f : FormatRec), s.serves m.val 0x0501 = true → s.arg m.val 0 1 = 1 →
     s.arg m.val 1 1 ≤ 2 → geometryOk (s.arg m.val 4 4) = true → zeroAt (s.request m.val) 2 2 = true →
     zeroAt (s.request m.val) 12 244 = true → s.arg m.val 8 4 = 0 → s.tal.lock = false → s.dev.acq = .running →
     s.tal.fmt = some f → drivesHold (s.arg m.val 4 4) (s.arg m.val 1 1) s = true → ∃ (u t : State), u = { s with
         tal := { s.tal with reshape := some (s.arg m.val 1 1, s.arg m.val 4 4) } } ∧ exec (.talusFormat m) s =
     .next t ∧ u.completes m.val stPending 0 (formatReply u) t) ∧
  (∀ (s : State) (m : Fin 8), s.serves m.val 0x0501 = true → s.arg m.val 0 1 = 2 → zeroAt (s.request m.val) 2 2 =
     true → zeroAt (s.request m.val) 8 248 = true → ∃ t, exec (.talusFormat m) s = .next t ∧
     s.completes m.val stOk 0 (formatReply s) t) ∧
  (∀ (s : State) (m : Fin 8), s.serves m.val 0x0501 = true → s.arg m.val 0 1 = 1 → s.arg m.val 1 1 ≤ 2 →
     geometryOk (s.arg m.val 4 4) = true → zeroAt (s.request m.val) 2 2 = true → zeroAt (s.request m.val) 12 244 =
     true → s.arg m.val 8 4 = 0 → s.tal.lock = true → ∃ t, exec (.talusFormat m) s = .next t ∧
     s.completes m.val stLocked 0 [] t) ∧
  (∀ (s : State) (m : Fin 8), s.serves m.val 0x0501 = true →
     2 < s.arg m.val 0 1 ∨ s.arg m.val 8 4 ≠ (if s.arg m.val 0 1 = 0 then 0x54414C55 else 0) → ∃ t,
     exec (.talusFormat m) s = .next t ∧ s.completes m.val stBadArg 0 [] t) ∧
  (∀ (s : State) (m : Fin 8), s.serves m.val 0x0501 = true → s.arg m.val 0 1 = 0 → s.arg m.val 1 1 ≤ 2 →
     geometryOk (s.arg m.val 4 4) = true → zeroAt (s.request m.val) 2 2 = true → zeroAt (s.request m.val) 12 244 =
     true → s.arg m.val 8 4 = 0x54414C55 → s.tal.lock = false → s.dev.acq ≠ .idle → ∃ t, exec (.talusFormat m) s =
     .next t ∧ s.completes m.val stState 0 [] t) ∧
  (∀ (s : State) (m : Fin 8) (f : FormatRec), s.serves m.val 0x0502 = true → s.arg m.val 0 1 ≤ 15 →
     s.arg m.val 2 1 ≤ 1 → zeroAt (s.request m.val) 3 1 = true → zeroAt (s.request m.val) 20 236 = true →
     s.arg m.val 1 1 = 0 → s.arg m.val 8 8 % 4096 = 0 → 0 < s.arg m.val 16 4 → s.tal.fmt = some f →
     s.arg m.val 4 4 + s.arg m.val 16 4 ≤ f.nExt →
     s.arg m.val 8 8 + s.arg m.val 16 4 * extBytes f.size ≤ 18446744073709551616 → (∀ d < 4, (driveOf s d).state =
     0) → ((s.arg m.val 2 1 = 1 → ∀ v < 16, v ≠ s.arg m.val 0 1 → (winOf s v).enable = true →
     (winOf s v).first + (winOf s v).count ≤ s.arg m.val 4 4 ∨ s.arg m.val 4 4 + s.arg m.val 16 4 ≤ (winOf s v).first)) →
     ∃ (u t : State), u = { s with
         tal := { s.tal with windows := tabMod s.tal.windows (s.arg m.val 0 1) fun _ => { enable := s.arg m.val 2 1 == 1, base := s.arg m.val 8 8, first := s.arg m.val 4 4, count := s.arg m.val 16 4, used := false } } } ∧
     exec (.talusWindowSet m) s = .next t ∧ u.completes m.val stOk 0 (windowReply (s.arg m.val 0 1) 0 u) t) ∧
  (∀ (s : State) (m : Fin 8), s.serves m.val 0x0502 = true → s.arg m.val 0 1 ≤ 15 → s.arg m.val 2 1 ≤ 1 →
     zeroAt (s.request m.val) 3 1 = true → zeroAt (s.request m.val) 20 236 = true → s.arg m.val 1 1 = 1 → ∃ t,
     exec (.talusWindowSet m) s = .next t ∧ s.completes m.val stOk 0 (windowReply (s.arg m.val 0 1) 1 s) t) ∧
  (∀ (s : State) (m : Fin 8), s.serves m.val 0x0502 = true → s.arg m.val 0 1 ≤ 15 → s.arg m.val 2 1 ≤ 1 →
     zeroAt (s.request m.val) 3 1 = true → zeroAt (s.request m.val) 20 236 = true → s.arg m.val 1 1 = 0 →
     s.arg m.val 8 8 % 4096 = 0 → 0 < s.arg m.val 16 4 → s.tal.fmt = none → ∃ t, exec (.talusWindowSet m) s =
     .next t ∧ s.completes m.val stState 0 [] t) ∧
  (∀ (s : State) (m : Fin 8), s.serves m.val 0x0502 = true →
     15 < s.arg m.val 0 1 ∨ 1 < s.arg m.val 1 1 ∨ (s.arg m.val 1 1 = 0 ∧ s.arg m.val 16 4 = 0) → ∃ t,
     exec (.talusWindowSet m) s = .next t ∧ s.completes m.val stBadArg 0 [] t) ∧
  (∀ (s : State) (m : Fin 8) (f : FormatRec), s.serves m.val 0x0503 = true → driveBad (s.request m.val) = false →
     s.arg m.val 1 1 = 0 → s.dev.acq = .idle → occupied s.eq = 0 → s.tal.fmt = some f →
     (driveOf s (s.arg m.val 0 1)).state = 0 →
     attachHolds (s.arg m.val 0 1) (driveSettings (s.request m.val)).lbaCount f s = true → ∃ (u t : State), u =
     startDrive (s.arg m.val 0 1) (modDrive (s.arg m.val 0 1) (fun x => { x with
         cfg := driveSettings (s.request m.val) }) s) ∧ exec (.talusDriveAttach m) s = .next t ∧
     u.completes m.val stOk 0 (driveReply (s.arg m.val 0 1) u) t) ∧
  (∀ (s : State) (d : Nat), d < 4 → (driveOf (startDrive d s) d) = { driveOf s d with
         state := 1, fails := 0, tail := 0, head := 0, phase := true, cmds := [] } ∧ ∀ e < 4, e ≠ d →
     driveOf (startDrive d s) e = driveOf s e) ∧
  (∀ (s : State) (m : Fin 8) (f : FormatRec), s.serves m.val 0x0503 = true → driveBad (s.request m.val) = false →
     s.arg m.val 1 1 = 1 → s.dev.acq = .idle → occupied s.eq = 0 → s.tal.fmt = some f → ∃ (u t : State), u =
     modDrive (s.arg m.val 0 1) (fun x => { x with state := 0, cmds := [] }) s ∧ exec (.talusDriveAttach m) s =
     .next t ∧ u.completes m.val stOk 0 (driveReply (s.arg m.val 0 1) u) t) ∧
  (∀ (s : State) (m : Fin 8), s.serves m.val 0x0503 = true → driveBad (s.request m.val) = false → s.arg m.val 1 1 =
     2 → (driveOf s (s.arg m.val 0 1)).state = 2 → ∃ (u t : State), u = startDrive (s.arg m.val 0 1) s ∧
     exec (.talusDriveAttach m) s = .next t ∧ u.completes m.val stOk 0 (driveReply (s.arg m.val 0 1) u) t) ∧
  (∀ (s : State) (m : Fin 8), s.serves m.val 0x0503 = true → driveBad (s.request m.val) = false → s.arg m.val 1 1 =
     3 → ∃ t, exec (.talusDriveAttach m) s = .next t ∧ s.completes m.val stOk 0 (driveReply (s.arg m.val 0 1) s) t) ∧
  (∀ (s : State) (m : Fin 8), s.serves m.val 0x0503 = true → driveBad (s.request m.val) = false → s.arg m.val 1 1 =
     0 → s.dev.acq ≠ .idle → ∃ t, exec (.talusDriveAttach m) s = .next t ∧ s.completes m.val stState 0 [] t) ∧
  (∀ (s : State) (m : Fin 8), s.serves m.val 0x0503 = true → driveBad (s.request m.val) = true → ∃ t,
     exec (.talusDriveAttach m) s = .next t ∧ s.completes m.val stBadArg 0 [] t) ∧
  (∀ (s : State) (m : Fin 8), s.serves m.val 0x0504 = true → (s.arg m.val 0 1) ≤ 15 →
     zeroAt (s.request m.val) 5 1 = true → zeroAt (s.request m.val) 8 248 = true → ((s.arg m.val 0 1).testBit 0 =
     true → s.arg m.val 1 1 ≤ 1) → ((s.arg m.val 0 1).testBit 1 = true → s.arg m.val 2 1 ≤ 2) →
     ((s.arg m.val 0 1).testBit 2 = true → 0 < s.arg m.val 3 1 ∧ 0 < s.arg m.val 4 1) →
     ((s.arg m.val 0 1).testBit 0 = true → s.dev.acq = .idle) → ∃ (u t : State), u =
     afterRelease ((fun x => if (s.arg m.val 0 1).testBit 2 then evalWear (evalStore x) else x) { s with
         tal := { s.tal with ackRelease := if (s.arg m.val 0 1).testBit 0 then s.arg m.val 1 1 == 1 else s.tal.ackRelease, storeFull := if (s.arg m.val 0 1).testBit 1 then s.arg m.val 2 1 else s.tal.storeFull, storeMark := if (s.arg m.val 0 1).testBit 2 then { s.tal.storeMark with level := s.arg m.val 3 1 } else s.tal.storeMark, wearMark := if (s.arg m.val 0 1).testBit 2 then { s.tal.wearMark with level := s.arg m.val 4 1 } else s.tal.wearMark, extCloseS := if (s.arg m.val 0 1).testBit 3 then s.arg m.val 6 2 else s.tal.extCloseS } }) ∧
     exec (.talusCfg m) s = .next t ∧ u.completes m.val stOk 0 (talusCfgReply u) t) ∧
  (∀ (s : State) (m : Fin 8), s.serves m.val 0x0504 = true →
     15 < (s.arg m.val 0 1) ∨ ((s.arg m.val 0 1).testBit 0 = true ∧
     1 < s.arg m.val 1 1) ∨ ((s.arg m.val 0 1).testBit 1 = true ∧
     2 < s.arg m.val 2 1) ∨ ((s.arg m.val 0 1).testBit 2 = true ∧ (s.arg m.val 3 1 = 0 ∨ s.arg m.val 4 1 = 0)) → ∃ t,
     exec (.talusCfg m) s = .next t ∧ s.completes m.val stBadArg 0 [] t) ∧
  (∀ (s : State) (m : Fin 8), s.serves m.val 0x0504 = true → (s.arg m.val 0 1) ≤ 15 →
     zeroAt (s.request m.val) 5 1 = true → zeroAt (s.request m.val) 8 248 = true → ((s.arg m.val 0 1).testBit 0 =
     true → s.arg m.val 1 1 ≤ 1) → ((s.arg m.val 0 1).testBit 1 = true → s.arg m.val 2 1 ≤ 2) →
     ((s.arg m.val 0 1).testBit 2 = true → 0 < s.arg m.val 3 1 ∧ 0 < s.arg m.val 4 1) → (s.arg m.val 0 1).testBit 0 =
     true → s.dev.acq ≠ .idle → ∃ t, exec (.talusCfg m) s = .next t ∧ s.completes m.val stState 0 [] t) ∧
  (∀ (s : State) (m : Fin 8), s.serves m.val 0x0505 = true → s.arg m.val 0 4 ≤ 2097151 → 0 < s.arg m.val 4 1 ∧
     s.arg m.val 4 1 ≤ 7 → zeroAt (s.request m.val) 5 251 = true →
     (((List.range (s.arg m.val 4 1)).map fun k => (s.arg m.val 0 4 + k) % 2097152).filter s.tal.dieUe.contains) =
     [] → ∃ t, exec (.talusMapRead m) s = .next t ∧
     s.completes m.val stOk 0 (leBytes 1 (s.arg m.val 4 1) ++ zeros 31 ++ (List.range (s.arg m.val 4 1)).flatMap fun k => memRead s.tal.die (slotAddr (s.arg m.val 0 4 + k)) 32) t) ∧
  (∀ (s : State) (m : Fin 8) (i : Nat), s.serves m.val 0x0505 = true → s.arg m.val 0 4 ≤ 2097151 →
     0 < s.arg m.val 4 1 ∧ s.arg m.val 4 1 ≤ 7 → zeroAt (s.request m.val) 5 251 = true →
     (((List.range (s.arg m.val 4 1)).map fun k => (s.arg m.val 0 4 + k) % 2097152).filter s.tal.dieUe.contains) =
     [i] → ∃ (u t : State), u = slotUncorrectable (mapHead s) i s ∧ exec (.talusMapRead m) s = .next t ∧
     u.completes m.val stOk 0 (leBytes 1 (s.arg m.val 4 1) ++ zeros 31 ++ (List.range (s.arg m.val 4 1)).flatMap fun k => memRead s.tal.die (slotAddr (s.arg m.val 0 4 + k)) 32) t ∧
     t.tal.mapUe = s.tal.mapUe + 1) ∧
  (∀ (s : State) (m : Fin 8), s.serves m.val 0x0505 = true → 2097151 < s.arg m.val 0 4 ∨ s.arg m.val 4 1 =
     0 ∨ 7 < s.arg m.val 4 1 → ∃ t, exec (.talusMapRead m) s = .next t ∧ s.completes m.val stBadArg 0 [] t) ∧
  (∀ (s : State) (v : Word64), s.reached = true → s.tal.archived ≤ v.toNat % 0x1000000000000 → ∃ t,
     exec (.talusArchivedWrite v 0xFF#8) s = .next t ∧ t.tal.archived = v.toNat % 0x1000000000000 ∧ t.tal.nextExt =
     s.tal.nextExt ∧ t.tal.die = s.tal.die ∧ t.tal.pending = s.tal.pending ∧ t.eq = s.eq ∧ t.dev = s.dev) ∧
  (∀ (s : State) (v : Word64), s.reached = true → v.toNat % 0x1000000000000 < s.tal.archived → ∃ t,
     exec (.talusArchivedWrite v 0xFF#8) s = .next t ∧ t.tal = s.tal ∧ t.rawBit 1 0 = true ∧ t.eq = s.eq ∧ t.dev =
     s.dev) ∧
  (∀ (s : State) (v : Word), s.reached = true → s.tal.lock = false → exec (.talusGeometryLock v 0xF#4) s =
     .next { s.spent with tal := { s.tal with lock := v.getLsbD 31 } }) ∧
  (∀ (s : State) (v : Word), s.reached = true → s.tal.lock = true → ∃ t, exec (.talusGeometryLock v 0xF#4) s =
     .next t ∧ State.raises [(1, 0)] s.spent t) ∧
  (∀ (s : State) (v : Word) (be : BitVec 4), s.reached = true → be ≠ 0xF#4 → ∃ t,
     exec (.talusGeometryLock v be) s = .next t ∧ State.raises [(1, 1)] s.spent t)

/-- NVME_CQ_ENTRY on an ACTIVE drive with the expected phase tag moves the completion head on and does what the entry says: a successful Write counts and clears FAILS, a failed command counts, keeps its status and raises G10.5, and the third failure in a row makes the drive FAILED with G10.6; an entry with the other phase tag is only stored. NVME_CMD_TIMEOUT, 1,000 ms after the oldest command was issued, is its failure. The record window reads the stored bytes that an outstanding Write carries, else zeros, counted, as every write there is. The layout of queue entries, and that TALUS_REC_BAD_CNT counts on every variant, are the model's presumption and choice (log entries 31 and 62). -/
def Obligations.StoreDrives : Prop :=
  (∀ (s : State) (d : Fin 4) (e : List Byte) (c : DriveCmd), s.reached = true → (driveOf s d.val).state = 1 →
     bitOf 0 (fieldAt (padTo 16 e) 14 1) = (driveOf s d.val).phase → (driveOf s d.val).cmds.find? (fun c => c.cid =
     fieldAt (padTo 16 e) 12 2) = some c → fieldAt (padTo 16 e) 14 2 / 2 = 0 → c.flush = false → ∃ t,
     exec (.nvmeCqEntry d e) s = .next t ∧ (driveOf t d.val).head = ((driveOf s d.val).head + 1) % 64 ∧
     (driveOf t d.val).writes = (driveOf s d.val).writes + 1 ∧ (driveOf t d.val).fails = 0 ∧
     (driveOf t d.val).failures = (driveOf s d.val).failures ∧ (driveOf t d.val).state = 1 ∧ t.eq.rewindCnt =
     s.eq.rewindCnt ∧ t.evt = s.evt ∧ t.cfg = s.cfg) ∧
  (∀ (s : State) (d : Fin 4) (e : List Byte) (c : DriveCmd) (x : Extent), s.reached = true →
     (driveOf s d.val).state = 1 → bitOf 0 (fieldAt (padTo 16 e) 14 1) = (driveOf s d.val).phase →
     (driveOf s d.val).cmds.find? (fun c => c.cid = fieldAt (padTo 16 e) 12 2) = some c →
     fieldAt (padTo 16 e) 14 2 / 2 = 0 → c.flush = true → findExtent c.ext s = some x → ∃ t,
     exec (.nvmeCqEntry d e) s = .next t ∧ (driveOf t d.val).head = ((driveOf s d.val).head + 1) % 64 ∧
     (driveOf t d.val).writes = (driveOf s d.val).writes ∧ (driveOf t d.val).fails = 0 ∧
     ((findExtent c.ext t).map fun y => y.durable) = some true ∧ t.evt = s.evt ∧ t.eq = s.eq) ∧
  (∀ (s : State) (d : Fin 4) (e : List Byte) (c : DriveCmd), s.reached = true → (driveOf s d.val).state = 1 →
     bitOf 0 (fieldAt (padTo 16 e) 14 1) = (driveOf s d.val).phase → (driveOf s d.val).cmds.find? (fun c => c.cid =
     fieldAt (padTo 16 e) 12 2) = some c → fieldAt (padTo 16 e) 14 2 / 2 ≠ 0 → (driveOf s d.val).fails < 2 → ∃ t,
     exec (.nvmeCqEntry d e) s = .next t ∧ (driveOf t d.val).head = ((driveOf s d.val).head + 1) % 64 ∧
     (driveOf t d.val).fails = (driveOf s d.val).fails + 1 ∧ (driveOf t d.val).failures =
     (driveOf s d.val).failures + 1 ∧ (driveOf t d.val).lastStatus = fieldAt (padTo 16 e) 14 2 / 2 ∧
     (driveOf t d.val).state = 1 ∧ (driveOf t d.val).writes = (driveOf s d.val).writes ∧ (s.dev.variant.drives =
     true → t.rawBit 10 5 = true) ∧ t.dev = s.dev ∧ t.cfg = s.cfg) ∧
  (∀ (s : State) (d : Fin 4) (e : List Byte) (c : DriveCmd), s.reached = true → (driveOf s d.val).state = 1 →
     bitOf 0 (fieldAt (padTo 16 e) 14 1) = (driveOf s d.val).phase → (driveOf s d.val).cmds.find? (fun c => c.cid =
     fieldAt (padTo 16 e) 12 2) = some c → fieldAt (padTo 16 e) 14 2 / 2 ≠ 0 → 2 ≤ (driveOf s d.val).fails → ∃ t,
     exec (.nvmeCqEntry d e) s = .next t ∧ (driveOf t d.val).head = ((driveOf s d.val).head + 1) % 64 ∧
     (driveOf t d.val).fails = 3 ∧ (driveOf t d.val).state = 2 ∧ (driveOf t d.val).failures =
     (driveOf s d.val).failures + 1 ∧ (s.dev.variant.drives = true → t.rawBit 10 5 = true ∧ t.rawBit 10 6 = true) ∧
     t.cfg = s.cfg) ∧
  (∀ (s : State) (d : Fin 4) (e : List Byte), s.reached = true → (driveOf s d.val).state = 1 →
     bitOf 0 (fieldAt (padTo 16 e) 14 1) = (driveOf s d.val).phase → (driveOf s d.val).cmds.find? (fun c => c.cid =
     fieldAt (padTo 16 e) 12 2) = none → ∃ t, exec (.nvmeCqEntry d e) s = .next t ∧ (driveOf t d.val).head =
     ((driveOf s d.val).head + 1) % 64 ∧ (driveOf t d.val).failures = (driveOf s d.val).failures + 1 ∧
     (driveOf t d.val).cmds = (driveOf s d.val).cmds ∧ (driveOf t d.val).writes = (driveOf s d.val).writes ∧ t.evt =
     s.evt ∧ t.eq = s.eq) ∧
  (∀ (s : State) (d : Fin 4) (e : List Byte), s.reached = true → (driveOf s d.val).state = 1 →
     bitOf 0 (fieldAt (padTo 16 e) 14 1) ≠ (driveOf s d.val).phase → ∃ t, exec (.nvmeCqEntry d e) s = .next t ∧ t =
     scratchWrite (0x31000 + 0x2000 * d.val + 16 * ((driveOf s d.val).head % 64)) (padTo 16 e) s ∧ t.tal = s.tal ∧
     t.eq = s.eq ∧ t.evt = s.evt) ∧
  (∀ (s : State) (d : Fin 4) (e : List Byte), (driveOf s d.val).state ≠ 1 → exec (.nvmeCqEntry d e) s = .next s) ∧
  (∀ (s : State) (d : Fin 4) (e : List Byte), (driveOf s d.val).state = 1 → alive s = true → s.pcie.d3hot = true →
     exec (.nvmeCqEntry d e) s = .next (urWrite s)) ∧
  (∀ (s : State) (d : Fin 4) (c : DriveCmd) (cs : List DriveCmd), (driveOf s d.val).cmds = c :: cs →
     (driveOf s d.val).state = 1 → c.rung + 1000 * msTicks s ≤ s.tm.tick → ∃ t, exec (.nvmeCmdTimeout d) s =
     .next t ∧ (driveOf t d.val).fails = min 3 ((driveOf s d.val).fails + 1) ∧ (driveOf t d.val).failures =
     (driveOf s d.val).failures + 1 ∧ (driveOf t d.val).lastStatus < 32768 ∧ (driveOf t d.val).state =
     (if (driveOf s d.val).fails < 2 then 1 else 2) ∧ (driveOf t d.val).writes = (driveOf s d.val).writes ∧
     (s.dev.variant.drives = true → t.rawBit 10 5 = true) ∧ t.cfg = s.cfg) ∧
  (∀ (s : State) (d : Fin 4) (c : DriveCmd) (cs : List DriveCmd), (driveOf s d.val).cmds = c :: cs →
     s.tm.tick < c.rung + 1000 * msTicks s → exec (.nvmeCmdTimeout d) s = .next s) ∧
  (∀ (s : State) (d : Fin 4), (driveOf s d.val).cmds = [] ∨ (driveOf s d.val).state ≠ 1 →
     exec (.nvmeCmdTimeout d) s = .next s) ∧
  (∀ (s : State) (a n : Nat) (x : Extent), s.reached = true → recExtent a n s = some x → ∃ b,
     exec (.recWindowRead a n) s = .next (emitOut (.readData 4 (0x3800000 + a) b false) s) ∧ b.length = n ∧ ∀ i < n,
     byteAt b i = byteAt x.bytes (a % 0x400000 + i)) ∧
  (∀ (s : State) (a n : Nat) (b : List Byte), s.reached = true → recExtent a n s = none →
     exec (.recWindowRead a n) s = .next (emitOut (.readData 4 (0x3800000 + a) (zeros n) false) { s with
         tal := { s.tal with recBad := s.tal.recBad + 1 } }) ∧ exec (.recWindowWrite a b) s = .next { s with
         tal := { s.tal with recBad := s.tal.recBad + 1 } })

/-- SEAL_DUE, once EXTENTS extents wait or one does and the interval has passed, makes a seal due; SEAL_START while acquiring, no sooner than MAX_RATE allows, fixes the range, number and chain value of a seal that serves every due one, or answers all ones where no extent waits; SEAL_SIGN_DONE hands the SEAL frame over, with a signature that verifies under the device's public key, counts the seal and raises G11.0, or drops it where safe state was entered since. SEAL_DEADLINE, four intervals after a seal fell due, raises G11.2. SEAL_INDEX_WRITE writes the 256 bytes of the oldest seal whose holder is durable, tries a failed read-back again, and after the third raises G10.11. KECCAK_SELFTEST, before READY and then every 60 s, fences the cores that failed. SEAL_CFG and SEAL_NOW complete as their rules say. What one seal covers and when the chain takes cores are the model's readings (log entries 43 and 44); the algorithm of its signature is FIPS 205's, which the model presumes (log entry 73). -/
def Obligations.Sealing : Prop :=
  (∀ (s : State), s.dev.variant.sealer = true → s.sealer.enable = true → 0 < sealable s → (∀ d ∈ s.sealer.due,
     1 < d.reason) → s.sealer.extents ≤ sealable s ∨ intervalUp s = true → exec .sealDue s = .next { s with
         sealer := { s.sealer with due := s.sealer.due ++ [{ reason := if s.sealer.extents ≤ sealable s then 1 else 0, tick := s.tm.tick, forMb := none, after := none }] } }) ∧
  (∀ (s : State), (s.dev.variant.sealer = true → s.sealer.enable = true → sealable s = 0 ∨ (∃ d ∈ s.sealer.due,
     d.reason ≤ 1) ∨ (sealable s < s.sealer.extents ∧ intervalUp s = false)) → exec .sealDue s = .next s) ∧
  (∀ (s : State) (d : SealDue), firstDueSeal s = some d → s.dev.variant.sealer = true → acquiring s = true →
     rateFree s = true → s.sealer.signing = none → attesting s = false → 0 < sealable s →
     s.tm.tick - d.tick ≤ s.sealer.intervalMs * msTicks s → exec .sealStart s = .next { s with
         sealer := { s.sealer with signing := some { no := s.sealer.nextNo, first := s.sealer.coverFrom, last := s.sealer.readyExt, lastSeq := (s.sealer.readyInfo.getD (0, [])).1, hLast := (s.sealer.readyInfo.getD (0, [])).2, reason := d.reason, tA := s.tm.a, tB := if s.tm.bValid then some s.tm.b else none, delayUs := waitedUs d s, mbs := (dueSeals s).filterMap fun e => e.forMb, emit := true, suspect := s.ret.suspect.isSome }, lastStart := some s.tm.tick, nextNo := s.sealer.nextNo + 1, coverFrom := s.sealer.readyExt + 1, due := s.sealer.due.filter fun e => e.after.isSome } }) ∧
  (∀ (s : State) (d e : SealDue), firstDueSeal s = some d → e ∈ dueSeals s → d ∈ dueSeals s ∧ d.tick ≤ e.tick) ∧
  (∀ (s : State) (d : SealDue), firstDueSeal s = some d → s.dev.variant.sealer = true → acquiring s = true →
     rateFree s = true → s.sealer.signing = none → attesting s = false → 0 < sealable s →
     s.sealer.intervalMs * msTicks s < s.tm.tick - d.tick → ∃ t, exec .sealStart s = .next t ∧
     t.sealer.signing.isSome = true ∧ t.sealer.nextNo = s.sealer.nextNo + 1 ∧ t.sealer.coverFrom =
     s.sealer.readyExt + 1 ∧ t.rawBit 11 1 = true ∧ t.cmp = s.cmp ∧ t.tal = s.tal) ∧
  (∀ (s : State) (d : SealDue), dueSeals s = [d] → s.dev.variant.sealer = true → acquiring s = true → rateFree s =
     true → s.sealer.signing = none → attesting s = false → sealable s = 0 → d.forMb = none → exec .sealStart s =
     .next { s with sealer := { s.sealer with due := s.sealer.due.filter fun e => e.after.isSome } }) ∧
  (∀ (s : State) (d : SealDue) (m : Fin 8), dueSeals s = [d] → s.dev.variant.sealer = true → acquiring s = true →
     rateFree s = true → s.sealer.signing = none → attesting s = false → sealable s = 0 → d.forMb = some m.val →
     s.serves m.val 0x0804 = true → ∃ (u t : State), u = { s with
         sealer := { s.sealer with due := s.sealer.due.filter fun e => e.after.isSome } } ∧ exec .sealStart s =
     .next t ∧ u.completes m.val stOk 0 (List.replicate 24 0xFF) t) ∧
  (∀ (s : State), dueSeals s = [] ∨ acquiring s = false ∨ s.sealer.signing ≠ none ∨ attesting s =
     true ∨ rateFree s = false → exec .sealStart s = .next s) ∧
  (∀ (s : State) (j : SealJob), s.sealer.signing = some j → signCores s = true → j.emit = true → ∃ t,
     exec .sealSignDone s = .next t ∧ t.sealer.signing = none ∧ t.sealer.lastNo = some j.no ∧ t.sealer.lastExt =
     j.last ∧ t.sealer.lastDigest = shake256 (sealBody j s) ∧ t.sealer.prevSeal = shake256 (sealBody j s) ∧
     t.sealer.cnt = s.sealer.cnt + 1 ∧ t.sealer.overdue = false ∧ t.sealer.restart = false ∧ t.cmp.inq.length =
     s.cmp.inq.length + 1 ∧ t.freeCtr = s.freeCtr + 4 ∧ (t.cmp.inq.getLast?.map fun f => f.type) = some 0x60 ∧
     (t.cmp.inq.getLast?.map fun f => (f.bytes.drop 32).take 50080) =
     some (sealBody j s ++ (freshSig sealContext (sealBody j s) s).1) ∧ (∃ e ∈ t.sealer.entries.getLast?, e.no =
     j.no ∧ e.body = sealBody j s ∧ e.holder = none) ∧ (s.dev.variant.sealer = true → t.rawBit 11 0 = true) ∧ t.tal =
     s.tal ∧ t.tm = s.tm) ∧
  (∀ (s : State) (c b : List Byte), slhVerify slhFast devicePublic c b (freshSig c b s).1 = true ∧
     (freshSig c b s).1.length = 49856) ∧
  (∀ (s : State) (j : SealJob), s.sealer.signing = some j → signCores s = true → j.emit = false → ∃ t,
     exec .sealSignDone s = .next t ∧ t.sealer.signing = none ∧ t.sealer.lastNo = some j.no ∧ t.sealer.cnt =
     s.sealer.cnt + 1 ∧ t.sealer.coverFrom =
     max (min s.sealer.coverFrom j.first) ((s.tal.fmt.map fun f => f.firstExt).getD 0) ∧ t.sealer.prevSeal =
     s.sealer.prevSeal ∧ t.cmp = s.cmp ∧ t.tal = s.tal ∧ t.tm = s.tm) ∧
  (∀ (s : State), s.sealer.signing = none ∨ signCores s = false → exec .sealSignDone s = .next s) ∧
  (∀ (s : State), s.dev.variant.sealer = true → acquiring s = true → s.sealer.enable = true → s.sealer.overdue =
     false → 4 * s.sealer.intervalMs * msTicks s ≤ s.sealer.timer → dueSeals s ≠ [] ∨ s.sealer.signing ≠ none → ∃ t,
     exec .sealDeadline s = .next t ∧ t.sealer.overdue = true ∧ t.rawBit 11 2 = true ∧ t.cfg = s.cfg ∧ t.tm = s.tm) ∧
  (∀ (s : State), acquiring s = false ∨ s.sealer.enable = false ∨ s.sealer.overdue =
     true ∨ s.sealer.timer < 4 * s.sealer.intervalMs * msTicks s → exec .sealDeadline s = .next s) ∧
  (∀ (s : State) (e : SealEntry) (x n : Nat), s.sealer.entries.find? (fun x => x.holder.isSome) = some e →
     e.holder = some (x, n) → ∃ t, exec (.sealIndexWrite true) s = .next t ∧ t = { s with
         tal := { s.tal with die := t.tal.die }, sealer := { s.sealer with entries := s.sealer.entries.filter fun y => y.key ≠ e.key } } ∧
     (sealEntryBytes e x n).length = 256 ∧ (∀ i < 256, memByte t.tal.die ((0x4000000 + 256 * (e.no % 65536)) + i) =
     byteAt (sealEntryBytes e x n) i) ∧ ∀ a,
     a < (0x4000000 + 256 * (e.no % 65536)) ∨ (0x4000000 + 256 * (e.no % 65536)) + 256 ≤ a → memByte t.tal.die a =
     memByte s.tal.die a) ∧
  (∀ (s : State) (e : SealEntry) (x n : Nat), s.sealer.entries.find? (fun x => x.holder.isSome) = some e →
     e.holder = some (x, n) → e.tries < 2 → exec (.sealIndexWrite false) s = .next { s with
         sealer := { s.sealer with entries := s.sealer.entries.map fun y => if y.key = e.key then { y with tries := y.tries + 1 } else y } }) ∧
  (∀ (s : State) (e : SealEntry) (x n : Nat), s.sealer.entries.find? (fun x => x.holder.isSome) = some e →
     e.holder = some (x, n) → 2 ≤ e.tries → ∃ t, exec (.sealIndexWrite false) s = .next t ∧ (∀ y ∈ t.sealer.entries,
     y.key ≠ e.key) ∧ t.rawBit 10 11 = true ∧ (∀ a,
     a < (0x4000000 + 256 * (e.no % 65536)) ∨ (0x4000000 + 256 * (e.no % 65536)) + 256 ≤ a → memByte t.tal.die a =
     memByte s.tal.die a) ∧ t.cfg = s.cfg ∧ t.tm = s.tm) ∧
  (∀ (s : State) (b : Bool), s.sealer.entries.find? (fun x => x.holder.isSome) = none →
     exec (.sealIndexWrite b) s = .next s) ∧
  (∀ (s : State) (c : Fin 12), coreUp s = true ∧ (s.dev.ready =
     false ∨ s.sealer.testAt + 60000 * msTicks s ≤ s.tm.tick) → s.sealer.fenced.testBit c.val = false → ∃ t,
     exec (.keccakSelftest [c]) s = .next t ∧ t.sealer.fenced = s.sealer.fenced + 2 ^ c.val ∧ t.sealer.chainCores =
     chainCoresOf (s.sealer.fenced + 2 ^ c.val) ∧ t.rawBit 11 4 = true ∧ t.cfg = s.cfg ∧ t.tm = s.tm) ∧
  (∀ (s : State), coreUp s = true ∧ (s.dev.ready = false ∨ s.sealer.testAt + 60000 * msTicks s ≤ s.tm.tick) →
     exec (.keccakSelftest []) s = .next { s with sealer := { s.sealer with testAt := s.tm.tick, tested := true } }) ∧
  (∀ (s : State) (b : List (Fin 12)), coreUp s = false ∨ (s.dev.ready = true ∧
     s.tm.tick < s.sealer.testAt + 60000 * msTicks s) → exec (.keccakSelftest b) s = .next s) ∧
  (∀ (n : Nat) (c : Nat), c < 10 → n.testBit c = true → n.testBit 11 = false → (∀ k < 10, k ≠ c → n.testBit k =
     false) → (chainCoresOf n).testBit 11 = true ∧ (chainCoresOf n).testBit c = false ∧ ∀ k < 10, k ≠ c →
     (chainCoresOf n).testBit k = true) ∧
  (∀ (s : State) (m : Fin 8), s.serves m.val 0x0803 = true → s.arg m.val 1 1 ≤ 1 → 100 ≤ s.arg m.val 2 2 ∧
     s.arg m.val 2 2 ≤ 60000 → 0 < s.arg m.val 4 4 ∧ s.arg m.val 4 4 ≤ 65536 → 0 < s.arg m.val 8 1 ∧
     s.arg m.val 8 1 ≤ 100 → zeroAt (s.request m.val) 9 7 = true → zeroAt (s.request m.val) 24 232 = true →
     s.arg m.val 0 1 = 0 → ∃ (v u t : State), v = { s with
         sealer := { s.sealer with enable := s.arg m.val 1 1 == 1, intervalMs := s.arg m.val 2 2, extents := s.arg m.val 4 4, maxRate := s.arg m.val 8 1 } } ∧
     u = { v with sealer := { v.sealer with due := v.sealer.due.map (dueNow v) } } ∧ exec (.sealCfg m) s = .next t ∧
     u.completes m.val stOk 0 (sealCfgReply 0 u) t) ∧
  (∀ (s : State) (m : Fin 8), s.serves m.val 0x0803 = true → s.arg m.val 1 1 ≤ 1 → 100 ≤ s.arg m.val 2 2 ∧
     s.arg m.val 2 2 ≤ 60000 → 0 < s.arg m.val 4 4 ∧ s.arg m.val 4 4 ≤ 65536 → 0 < s.arg m.val 8 1 ∧
     s.arg m.val 8 1 ≤ 100 → zeroAt (s.request m.val) 9 7 = true → zeroAt (s.request m.val) 24 232 = true →
     s.arg m.val 0 1 = 1 → ∃ (u t : State), u = { s with
         sealer := { s.sealer with due := s.sealer.due.map (dueNow s) } } ∧ exec (.sealCfg m) s = .next t ∧
     u.completes m.val stOk 0 (sealCfgReply 1 u) t) ∧
  (∀ (s : State) (m : Fin 8), s.serves m.val 0x0803 = true →
     1 < s.arg m.val 0 1 ∨ s.arg m.val 2 2 < 100 ∨ 60000 < s.arg m.val 2 2 → ∃ t, exec (.sealCfg m) s = .next t ∧
     s.completes m.val stBadArg 0 [] t) ∧
  (∀ (s : State) (m : Fin 8), s.serves m.val 0x0804 = true → s.arg m.val 0 1 ≤ 1 → zeroAt (s.request m.val) 1 255 =
     true → acquiring s = true → s.sealer.enable = true → s.arg m.val 0 1 = 0 ∨ s.tal.opened = none →
     exec (.sealNow m) s = .next { s with
         sealer := { s.sealer with due := s.sealer.due ++ [{ reason := 2, tick := s.tm.tick, forMb := some m.val, after := none }] } }) ∧
  (∀ (s : State) (m : Fin 8) (x : Extent), s.serves m.val 0x0804 = true → s.arg m.val 0 1 ≤ 1 →
     zeroAt (s.request m.val) 1 255 = true → acquiring s = true → s.sealer.enable = true → s.arg m.val 0 1 = 1 →
     s.tal.opened = some x → exec (.sealNow m) s = .next { s with
         tal := (if x.closing then s else dueClose s).tal, sealer := { s.sealer with due := s.sealer.due ++ [{ reason := 2, tick := s.tm.tick, forMb := some m.val, after := some x.seq }] } }) ∧
  (∀ (s : State) (m : Fin 8), s.serves m.val 0x0804 = true → s.arg m.val 0 1 ≤ 1 → zeroAt (s.request m.val) 1 255 =
     true → acquiring s = false ∨ s.sealer.enable = false → ∃ t, exec (.sealNow m) s = .next t ∧
     s.completes m.val stState 0 [] t)

/-- ATTEST claims its circular window for 50,112 bytes and holds the nonce, and completes BUSY while another attestation runs or the window is claimed. ATTEST_DONE ends an attestation that is being signed, raises G11.3 and sends the report with a fresh signature; one that waits captures its fields once no seal is signed or goes before it. IDENTITY_GET sends the device certificate through its window, with its length, KEY_ID and the serial number as the response. Requests out of range complete BAD_ARG. What the certificate and the keys are is fixed by constants of the module (log entry 12), and the algorithm of the signatures is FIPS 205's, which the model presumes (log entry 73). -/
def Obligations.DeviceIdentity : Prop :=
  (∀ (s : State) (m : Fin 8), s.serves m.val 0x0801 = true → s.arg m.val 32 1 ≤ 6 →
     zeroAt (s.request m.val) 33 223 = true → s.sealer.attest = none → (cwOf s (s.arg m.val 32 1)).claimed = false →
     ∃ t, exec (.attest m) s = .next t ∧ (t.sealer.attest.map fun a => (a.mb, a.nonce, a.window)) = some (m.val,
     (s.request m.val).take 32, s.arg m.val 32 1) ∧ (s.sealer.signing = none → acquiring s = false →
     (t.sealer.attest.bind fun a => a.report) = some (attestBody ((s.request m.val).take 32) t)) ∧
     (cwOf t (s.arg m.val 32 1)).claimed = true ∧ (cwOf t (s.arg m.val 32 1)).len = 50112 ∧
     (cwOf t (s.arg m.val 32 1)).mb = m.val ∧ t.mb = s.mb ∧ t.evt = s.evt ∧ t.cmp = s.cmp) ∧
  (∀ (s : State) (m : Fin 8) (a : AttestJob), s.serves m.val 0x0801 = true → s.arg m.val 32 1 ≤ 6 →
     zeroAt (s.request m.val) 33 223 = true → s.sealer.attest = some a → ∃ t, exec (.attest m) s = .next t ∧
     s.completes m.val stBusy 0 [] t) ∧
  (∀ (s : State) (m : Fin 8), s.serves m.val 0x0801 = true → s.arg m.val 32 1 ≤ 6 →
     zeroAt (s.request m.val) 33 223 = true → s.sealer.attest = none → (cwOf s (s.arg m.val 32 1)).claimed = true →
     ∃ t, exec (.attest m) s = .next t ∧ s.completes m.val stBusy 5 [] t) ∧
  (∀ (s : State) (m : Fin 8), s.serves m.val 0x0801 = true → 6 < s.arg m.val 32 1 → ∃ t, exec (.attest m) s =
     .next t ∧ s.completes m.val stBadArg 0 [] t) ∧
  (∀ (s : State) (m : Fin 8) (a : AttestJob) (b : List Byte), s.sealer.attest = some a → a.mb = m.val →
     a.detached = true ∨ mbRuns m.val 0x0801 s = true → signCores s = true → a.report = some b → ∃ t,
     exec (.attestDone m) s = .next t ∧ t.sealer.attest = none ∧ t.freeCtr = s.freeCtr + 4 ∧ t.rawBit 11 3 = true ∧
     t.sealer.cnt = s.sealer.cnt ∧ t.cmp = s.cmp ∧ t.tm = s.tm ∧ t.cfg = s.cfg) ∧
  (∀ (s : State) (m : Fin 8) (a : AttestJob), s.sealer.attest = some a → a.mb = m.val → a.detached =
     true ∨ mbRuns m.val 0x0801 s = true → signCores s = true → a.report = none → s.sealer.signing = none →
     sealFirst a.since s = false → exec (.attestDone m) s = .next { s with
         sealer := { s.sealer with attest := some { a with report := some (attestBody a.nonce s) } } }) ∧
  (∀ (s : State) (m : Fin 8) (a : AttestJob), s.sealer.attest = some a → a.mb = m.val → a.detached =
     true ∨ mbRuns m.val 0x0801 s = true → signCores s = true → a.report = none →
     s.sealer.signing ≠ none ∨ sealFirst a.since s = true → exec (.attestDone m) s = .next s) ∧
  (∀ (s : State) (m : Fin 8), s.sealer.attest = none ∨ signCores s = false → exec (.attestDone m) s = .next s) ∧
  (∀ (s : State) (m : Fin 8), s.serves m.val 0x0802 = true → s.arg m.val 0 1 ≤ 6 → zeroAt (s.request m.val) 1 255 =
     true → (cwOf s (s.arg m.val 0 1)).claimed = false → ∃ t, exec (.identityGet m) s = .next t ∧ t =
     startTransfer (s.arg m.val 0 1) m.val 0x0802 (certificate s.dev.variant) (leBytes 4 29920 ++ keyId ++ serial) s ∧
     (certificate s.dev.variant).length = 29920 ∧ t.sealer = s.sealer ∧ t.cmp = s.cmp ∧ t.tm = s.tm) ∧
  (∀ (s : State) (m : Fin 8), s.serves m.val 0x0802 = true → s.arg m.val 0 1 ≤ 6 → zeroAt (s.request m.val) 1 255 =
     true → (cwOf s (s.arg m.val 0 1)).claimed = false → 8 ≤ (cwOf s (s.arg m.val 0 1)).size → ∃ t,
     exec (.identityGet m) s = .next t ∧ t.answered m.val stOk ∧ (∀ i < 4,
     memByte t.summit.scratchpad (256 * m.val + i) = byteAt (leBytes 4 29920) i) ∧
     (cwOf t (s.arg m.val 0 1)).claimed = false ∧ (cwOf t (s.arg m.val 0 1)).prod = 29920 ∧
     (cwOf t (s.arg m.val 0 1)).done = true ∧ t.rawBit 0 m.val = true ∧ t.rawBit 0 (16 + s.arg m.val 0 1) = true) ∧
  (∀ (s : State) (m : Fin 8), s.serves m.val 0x0802 = true → s.arg m.val 0 1 ≤ 6 → zeroAt (s.request m.val) 1 255 =
     true → (cwOf s (s.arg m.val 0 1)).claimed = false → 0 < (cwOf s (s.arg m.val 0 1)).size →
     (cwOf s (s.arg m.val 0 1)).size ≤ 7 → ∃ t, exec (.identityGet m) s = .next t ∧ (mbOf t m.val).state = .running ∧
     (cwOf t (s.arg m.val 0 1)).claimed = true ∧ (cwOf t (s.arg m.val 0 1)).mb = m.val ∧
     (cwOf t (s.arg m.val 0 1)).len = 29920 ∧ (cwOf t (s.arg m.val 0 1)).prod.toNat =
     4096 * (cwOf s (s.arg m.val 0 1)).size ∧ (cwOf t (s.arg m.val 0 1)).done = false ∧
     t.rawBit 0 (16 + s.arg m.val 0 1) = true) ∧
  (∀ (s : State) (m : Fin 8), s.serves m.val 0x0802 = true → s.arg m.val 0 1 ≤ 6 → zeroAt (s.request m.val) 1 255 =
     true → (cwOf s (s.arg m.val 0 1)).claimed = true → ∃ t, exec (.identityGet m) s = .next t ∧
     s.completes m.val stBusy 5 [] t) ∧
  (∀ (s : State) (m : Fin 8), s.serves m.val 0x0802 = true → 6 < s.arg m.val 0 1 → ∃ t, exec (.identityGet m) s =
     .next t ∧ s.completes m.val stBadArg 0 [] t)
end

