-- ==== Sys2Proof/Laws/Tables.lean ====
section
/-! SUPPORT. The laws of a table: reading the changed entry, and reading another. -/

namespace Sys2Proof.Machine

variable {n : Nat} {α : Type}

@[simp] theorem tabGet_tabMod_self (t : Tab n α) (i : Nat) (f : α → α) (d : α) (h : i < n) :
    tabGet (tabMod t i f) i d = f (tabGet t i d) := by
  simp [tabGet, tabMod, h]

theorem tabGet_tabMod_ne (t : Tab n α) (i j : Nat) (f : α → α) (d : α) (h : j ≠ i) :
    tabGet (tabMod t i f) j d = tabGet t j d := by
  unfold tabGet tabMod
  split
  · split
    · simp [Ne.symm h]
    · rfl
  · rfl

/-- An index beyond the table changes nothing. -/
theorem tabMod_out (t : Tab n α) (i : Nat) (f : α → α) (h : n ≤ i) : tabMod t i f = t := by
  simp [tabMod, Nat.not_lt.mpr h]

theorem tabGet_tabMod (t : Tab n α) (i j : Nat) (f : α → α) (d : α) :
    tabGet (tabMod t i f) j d = if j = i ∧ i < n then f (tabGet t j d) else tabGet t j d := by
  by_cases h : j = i
  · subst h
    by_cases hj : j < n
    · simp [hj]
    · simp [hj, tabMod_out t j f (Nat.le_of_not_lt hj)]
  · simp [h, tabGet_tabMod_ne t i j f d h]

/-- The entry of a table inside it. -/
theorem tabGet_eq (t : Tab n α) (i : Nat) (d : α) (h : i < n) : tabGet t i d = t[i] := by simp [tabGet, h]

/-- An entry inside the table does not depend on the value that stands in beyond its end. -/
theorem tabGet_tabMod_lt (t : Tab n α) (f : α → α) {i j : Nat} (hj : j < n) (d e : α) :
    tabGet (tabMod t i f) j d = if i = j then f (tabGet t j e) else tabGet t j e := by
  by_cases h : j = i
  · subst h
    simp [tabGet, tabMod, hj]
  · rw [tabGet_tabMod_ne t i j f d h, if_neg (Ne.symm h), tabGet_eq t j d hj, tabGet_eq t j e hj]

theorem getElem_eq_tabGet (t : Tab n α) (i : Nat) (d : α) (h : i < n) : t[i] = tabGet t i d := (tabGet_eq t i d h).symm

end Sys2Proof.Machine
end

