-- ==== Sys2Proof/Laws/State.lean ====
section
/-! SUPPORT. Each named update of one part of the state, read at every other part: one simp lemma per part and update, true
by definition, so that no proof unfolds a record update. -/

namespace Sys2Proof.Machine

@[simp] theorem modPod_dev (p : Nat) (f : Pod → Pod) (s : State) : (modPod p f s).dev = s.dev := rfl
@[simp] theorem modPod_cfg (p : Nat) (f : Pod → Pod) (s : State) : (modPod p f s).cfg = s.cfg := rfl
@[simp] theorem modPod_inputs (p : Nat) (f : Pod → Pod) (s : State) : (modPod p f s).inputs = s.inputs := rfl
@[simp] theorem modPod_grpMask (p : Nat) (f : Pod → Pod) (s : State) : (modPod p f s).grpMask = s.grpMask := rfl
@[simp] theorem modPod_bcastAgree (p : Nat) (f : Pod → Pod) (s : State) : (modPod p f s).bcastAgree = s.bcastAgree := rfl
@[simp] theorem modPod_podc (p : Nat) (f : Pod → Pod) (s : State) : (modPod p f s).podc = s.podc := rfl
@[simp] theorem modPod_fab (p : Nat) (f : Pod → Pod) (s : State) : (modPod p f s).fab = s.fab := rfl
@[simp] theorem modPod_seqs (p : Nat) (f : Pod → Pod) (s : State) : (modPod p f s).seqs = s.seqs := rfl
@[simp] theorem modPod_trigout (p : Nat) (f : Pod → Pod) (s : State) : (modPod p f s).trigout = s.trigout := rfl
@[simp] theorem modPod_ring (p : Nat) (f : Pod → Pod) (s : State) : (modPod p f s).ring = s.ring := rfl
@[simp] theorem modPod_ret (p : Nat) (f : Pod → Pod) (s : State) : (modPod p f s).ret = s.ret := rfl
@[simp] theorem modPod_cmp (p : Nat) (f : Pod → Pod) (s : State) : (modPod p f s).cmp = s.cmp := rfl
@[simp] theorem modPod_eq (p : Nat) (f : Pod → Pod) (s : State) : (modPod p f s).eq = s.eq := rfl
@[simp] theorem modPod_tal (p : Nat) (f : Pod → Pod) (s : State) : (modPod p f s).tal = s.tal := rfl
@[simp] theorem modPod_sealer (p : Nat) (f : Pod → Pod) (s : State) : (modPod p f s).sealer = s.sealer := rfl
@[simp] theorem modPod_tm (p : Nat) (f : Pod → Pod) (s : State) : (modPod p f s).tm = s.tm := rfl
@[simp] theorem modPod_sch (p : Nat) (f : Pod → Pod) (s : State) : (modPod p f s).sch = s.sch := rfl
@[simp] theorem modPod_rl (p : Nat) (f : Pod → Pod) (s : State) : (modPod p f s).rl = s.rl := rfl
@[simp] theorem modPod_pll (p : Nat) (f : Pod → Pod) (s : State) : (modPod p f s).pll = s.pll := rfl
@[simp] theorem modPod_pcie (p : Nat) (f : Pod → Pod) (s : State) : (modPod p f s).pcie = s.pcie := rfl
@[simp] theorem modPod_mb (p : Nat) (f : Pod → Pod) (s : State) : (modPod p f s).mb = s.mb := rfl
@[simp] theorem modPod_cw (p : Nat) (f : Pod → Pod) (s : State) : (modPod p f s).cw = s.cw := rfl
@[simp] theorem modPod_summit (p : Nat) (f : Pod → Pod) (s : State) : (modPod p f s).summit = s.summit := rfl
@[simp] theorem modPod_evt (p : Nat) (f : Pod → Pod) (s : State) : (modPod p f s).evt = s.evt := rfl
@[simp] theorem modPod_flt (p : Nat) (f : Pod → Pod) (s : State) : (modPod p f s).flt = s.flt := rfl
@[simp] theorem modPod_mem (p : Nat) (f : Pod → Pod) (s : State) : (modPod p f s).mem = s.mem := rfl
@[simp] theorem modPod_snap (p : Nat) (f : Pod → Pod) (s : State) : (modPod p f s).snap = s.snap := rfl
@[simp] theorem modPod_freeCtr (p : Nat) (f : Pod → Pod) (s : State) : (modPod p f s).freeCtr = s.freeCtr := rfl
@[simp] theorem modPod_out (p : Nat) (f : Pod → Pod) (s : State) : (modPod p f s).out = s.out := rfl
@[simp] theorem modPod_pending (p : Nat) (f : Pod → Pod) (s : State) : (modPod p f s).pending = s.pending := rfl

@[simp] theorem modInput_dev (n : Nat) (f : Input → Input) (s : State) : (modInput n f s).dev = s.dev := rfl
@[simp] theorem modInput_cfg (n : Nat) (f : Input → Input) (s : State) : (modInput n f s).cfg = s.cfg := rfl
@[simp] theorem modInput_grpMask (n : Nat) (f : Input → Input) (s : State) : (modInput n f s).grpMask = s.grpMask := rfl
@[simp] theorem modInput_bcastAgree (n : Nat) (f : Input → Input) (s : State) : (modInput n f s).bcastAgree = s.bcastAgree := rfl
@[simp] theorem modInput_pods (n : Nat) (f : Input → Input) (s : State) : (modInput n f s).pods = s.pods := rfl
@[simp] theorem modInput_podc (n : Nat) (f : Input → Input) (s : State) : (modInput n f s).podc = s.podc := rfl
@[simp] theorem modInput_fab (n : Nat) (f : Input → Input) (s : State) : (modInput n f s).fab = s.fab := rfl
@[simp] theorem modInput_seqs (n : Nat) (f : Input → Input) (s : State) : (modInput n f s).seqs = s.seqs := rfl
@[simp] theorem modInput_trigout (n : Nat) (f : Input → Input) (s : State) : (modInput n f s).trigout = s.trigout := rfl
@[simp] theorem modInput_ring (n : Nat) (f : Input → Input) (s : State) : (modInput n f s).ring = s.ring := rfl
@[simp] theorem modInput_ret (n : Nat) (f : Input → Input) (s : State) : (modInput n f s).ret = s.ret := rfl
@[simp] theorem modInput_cmp (n : Nat) (f : Input → Input) (s : State) : (modInput n f s).cmp = s.cmp := rfl
@[simp] theorem modInput_eq (n : Nat) (f : Input → Input) (s : State) : (modInput n f s).eq = s.eq := rfl
@[simp] theorem modInput_tal (n : Nat) (f : Input → Input) (s : State) : (modInput n f s).tal = s.tal := rfl
@[simp] theorem modInput_sealer (n : Nat) (f : Input → Input) (s : State) : (modInput n f s).sealer = s.sealer := rfl
@[simp] theorem modInput_tm (n : Nat) (f : Input → Input) (s : State) : (modInput n f s).tm = s.tm := rfl
@[simp] theorem modInput_sch (n : Nat) (f : Input → Input) (s : State) : (modInput n f s).sch = s.sch := rfl
@[simp] theorem modInput_rl (n : Nat) (f : Input → Input) (s : State) : (modInput n f s).rl = s.rl := rfl
@[simp] theorem modInput_pll (n : Nat) (f : Input → Input) (s : State) : (modInput n f s).pll = s.pll := rfl
@[simp] theorem modInput_pcie (n : Nat) (f : Input → Input) (s : State) : (modInput n f s).pcie = s.pcie := rfl
@[simp] theorem modInput_mb (n : Nat) (f : Input → Input) (s : State) : (modInput n f s).mb = s.mb := rfl
@[simp] theorem modInput_cw (n : Nat) (f : Input → Input) (s : State) : (modInput n f s).cw = s.cw := rfl
@[simp] theorem modInput_summit (n : Nat) (f : Input → Input) (s : State) : (modInput n f s).summit = s.summit := rfl
@[simp] theorem modInput_evt (n : Nat) (f : Input → Input) (s : State) : (modInput n f s).evt = s.evt := rfl
@[simp] theorem modInput_flt (n : Nat) (f : Input → Input) (s : State) : (modInput n f s).flt = s.flt := rfl
@[simp] theorem modInput_mem (n : Nat) (f : Input → Input) (s : State) : (modInput n f s).mem = s.mem := rfl
@[simp] theorem modInput_snap (n : Nat) (f : Input → Input) (s : State) : (modInput n f s).snap = s.snap := rfl
@[simp] theorem modInput_freeCtr (n : Nat) (f : Input → Input) (s : State) : (modInput n f s).freeCtr = s.freeCtr := rfl
@[simp] theorem modInput_out (n : Nat) (f : Input → Input) (s : State) : (modInput n f s).out = s.out := rfl
@[simp] theorem modInput_pending (n : Nat) (f : Input → Input) (s : State) : (modInput n f s).pending = s.pending := rfl

@[simp] theorem modSeq_dev (j : Nat) (f : Seq → Seq) (s : State) : (modSeq j f s).dev = s.dev := rfl
@[simp] theorem modSeq_cfg (j : Nat) (f : Seq → Seq) (s : State) : (modSeq j f s).cfg = s.cfg := rfl
@[simp] theorem modSeq_inputs (j : Nat) (f : Seq → Seq) (s : State) : (modSeq j f s).inputs = s.inputs := rfl
@[simp] theorem modSeq_grpMask (j : Nat) (f : Seq → Seq) (s : State) : (modSeq j f s).grpMask = s.grpMask := rfl
@[simp] theorem modSeq_bcastAgree (j : Nat) (f : Seq → Seq) (s : State) : (modSeq j f s).bcastAgree = s.bcastAgree := rfl
@[simp] theorem modSeq_pods (j : Nat) (f : Seq → Seq) (s : State) : (modSeq j f s).pods = s.pods := rfl
@[simp] theorem modSeq_podc (j : Nat) (f : Seq → Seq) (s : State) : (modSeq j f s).podc = s.podc := rfl
@[simp] theorem modSeq_fab (j : Nat) (f : Seq → Seq) (s : State) : (modSeq j f s).fab = s.fab := rfl
@[simp] theorem modSeq_trigout (j : Nat) (f : Seq → Seq) (s : State) : (modSeq j f s).trigout = s.trigout := rfl
@[simp] theorem modSeq_ring (j : Nat) (f : Seq → Seq) (s : State) : (modSeq j f s).ring = s.ring := rfl
@[simp] theorem modSeq_ret (j : Nat) (f : Seq → Seq) (s : State) : (modSeq j f s).ret = s.ret := rfl
@[simp] theorem modSeq_cmp (j : Nat) (f : Seq → Seq) (s : State) : (modSeq j f s).cmp = s.cmp := rfl
@[simp] theorem modSeq_eq (j : Nat) (f : Seq → Seq) (s : State) : (modSeq j f s).eq = s.eq := rfl
@[simp] theorem modSeq_tal (j : Nat) (f : Seq → Seq) (s : State) : (modSeq j f s).tal = s.tal := rfl
@[simp] theorem modSeq_sealer (j : Nat) (f : Seq → Seq) (s : State) : (modSeq j f s).sealer = s.sealer := rfl
@[simp] theorem modSeq_tm (j : Nat) (f : Seq → Seq) (s : State) : (modSeq j f s).tm = s.tm := rfl
@[simp] theorem modSeq_sch (j : Nat) (f : Seq → Seq) (s : State) : (modSeq j f s).sch = s.sch := rfl
@[simp] theorem modSeq_rl (j : Nat) (f : Seq → Seq) (s : State) : (modSeq j f s).rl = s.rl := rfl
@[simp] theorem modSeq_pll (j : Nat) (f : Seq → Seq) (s : State) : (modSeq j f s).pll = s.pll := rfl
@[simp] theorem modSeq_pcie (j : Nat) (f : Seq → Seq) (s : State) : (modSeq j f s).pcie = s.pcie := rfl
@[simp] theorem modSeq_mb (j : Nat) (f : Seq → Seq) (s : State) : (modSeq j f s).mb = s.mb := rfl
@[simp] theorem modSeq_cw (j : Nat) (f : Seq → Seq) (s : State) : (modSeq j f s).cw = s.cw := rfl
@[simp] theorem modSeq_summit (j : Nat) (f : Seq → Seq) (s : State) : (modSeq j f s).summit = s.summit := rfl
@[simp] theorem modSeq_evt (j : Nat) (f : Seq → Seq) (s : State) : (modSeq j f s).evt = s.evt := rfl
@[simp] theorem modSeq_flt (j : Nat) (f : Seq → Seq) (s : State) : (modSeq j f s).flt = s.flt := rfl
@[simp] theorem modSeq_mem (j : Nat) (f : Seq → Seq) (s : State) : (modSeq j f s).mem = s.mem := rfl
@[simp] theorem modSeq_snap (j : Nat) (f : Seq → Seq) (s : State) : (modSeq j f s).snap = s.snap := rfl
@[simp] theorem modSeq_freeCtr (j : Nat) (f : Seq → Seq) (s : State) : (modSeq j f s).freeCtr = s.freeCtr := rfl
@[simp] theorem modSeq_out (j : Nat) (f : Seq → Seq) (s : State) : (modSeq j f s).out = s.out := rfl
@[simp] theorem modSeq_pending (j : Nat) (f : Seq → Seq) (s : State) : (modSeq j f s).pending = s.pending := rfl

@[simp] theorem modMb_dev (m : Nat) (f : Mailbox → Mailbox) (s : State) : (modMb m f s).dev = s.dev := rfl
@[simp] theorem modMb_cfg (m : Nat) (f : Mailbox → Mailbox) (s : State) : (modMb m f s).cfg = s.cfg := rfl
@[simp] theorem modMb_inputs (m : Nat) (f : Mailbox → Mailbox) (s : State) : (modMb m f s).inputs = s.inputs := rfl
@[simp] theorem modMb_grpMask (m : Nat) (f : Mailbox → Mailbox) (s : State) : (modMb m f s).grpMask = s.grpMask := rfl
@[simp] theorem modMb_bcastAgree (m : Nat) (f : Mailbox → Mailbox) (s : State) : (modMb m f s).bcastAgree = s.bcastAgree := rfl
@[simp] theorem modMb_pods (m : Nat) (f : Mailbox → Mailbox) (s : State) : (modMb m f s).pods = s.pods := rfl
@[simp] theorem modMb_podc (m : Nat) (f : Mailbox → Mailbox) (s : State) : (modMb m f s).podc = s.podc := rfl
@[simp] theorem modMb_fab (m : Nat) (f : Mailbox → Mailbox) (s : State) : (modMb m f s).fab = s.fab := rfl
@[simp] theorem modMb_seqs (m : Nat) (f : Mailbox → Mailbox) (s : State) : (modMb m f s).seqs = s.seqs := rfl
@[simp] theorem modMb_trigout (m : Nat) (f : Mailbox → Mailbox) (s : State) : (modMb m f s).trigout = s.trigout := rfl
@[simp] theorem modMb_ring (m : Nat) (f : Mailbox → Mailbox) (s : State) : (modMb m f s).ring = s.ring := rfl
@[simp] theorem modMb_ret (m : Nat) (f : Mailbox → Mailbox) (s : State) : (modMb m f s).ret = s.ret := rfl
@[simp] theorem modMb_cmp (m : Nat) (f : Mailbox → Mailbox) (s : State) : (modMb m f s).cmp = s.cmp := rfl
@[simp] theorem modMb_eq (m : Nat) (f : Mailbox → Mailbox) (s : State) : (modMb m f s).eq = s.eq := rfl
@[simp] theorem modMb_tal (m : Nat) (f : Mailbox → Mailbox) (s : State) : (modMb m f s).tal = s.tal := rfl
@[simp] theorem modMb_sealer (m : Nat) (f : Mailbox → Mailbox) (s : State) : (modMb m f s).sealer = s.sealer := rfl
@[simp] theorem modMb_tm (m : Nat) (f : Mailbox → Mailbox) (s : State) : (modMb m f s).tm = s.tm := rfl
@[simp] theorem modMb_sch (m : Nat) (f : Mailbox → Mailbox) (s : State) : (modMb m f s).sch = s.sch := rfl
@[simp] theorem modMb_rl (m : Nat) (f : Mailbox → Mailbox) (s : State) : (modMb m f s).rl = s.rl := rfl
@[simp] theorem modMb_pll (m : Nat) (f : Mailbox → Mailbox) (s : State) : (modMb m f s).pll = s.pll := rfl
@[simp] theorem modMb_pcie (m : Nat) (f : Mailbox → Mailbox) (s : State) : (modMb m f s).pcie = s.pcie := rfl
@[simp] theorem modMb_cw (m : Nat) (f : Mailbox → Mailbox) (s : State) : (modMb m f s).cw = s.cw := rfl
@[simp] theorem modMb_summit (m : Nat) (f : Mailbox → Mailbox) (s : State) : (modMb m f s).summit = s.summit := rfl
@[simp] theorem modMb_evt (m : Nat) (f : Mailbox → Mailbox) (s : State) : (modMb m f s).evt = s.evt := rfl
@[simp] theorem modMb_flt (m : Nat) (f : Mailbox → Mailbox) (s : State) : (modMb m f s).flt = s.flt := rfl
@[simp] theorem modMb_mem (m : Nat) (f : Mailbox → Mailbox) (s : State) : (modMb m f s).mem = s.mem := rfl
@[simp] theorem modMb_snap (m : Nat) (f : Mailbox → Mailbox) (s : State) : (modMb m f s).snap = s.snap := rfl
@[simp] theorem modMb_freeCtr (m : Nat) (f : Mailbox → Mailbox) (s : State) : (modMb m f s).freeCtr = s.freeCtr := rfl
@[simp] theorem modMb_out (m : Nat) (f : Mailbox → Mailbox) (s : State) : (modMb m f s).out = s.out := rfl
@[simp] theorem modMb_pending (m : Nat) (f : Mailbox → Mailbox) (s : State) : (modMb m f s).pending = s.pending := rfl

@[simp] theorem modCw_dev (k : Nat) (f : Window → Window) (s : State) : (modCw k f s).dev = s.dev := rfl
@[simp] theorem modCw_cfg (k : Nat) (f : Window → Window) (s : State) : (modCw k f s).cfg = s.cfg := rfl
@[simp] theorem modCw_inputs (k : Nat) (f : Window → Window) (s : State) : (modCw k f s).inputs = s.inputs := rfl
@[simp] theorem modCw_grpMask (k : Nat) (f : Window → Window) (s : State) : (modCw k f s).grpMask = s.grpMask := rfl
@[simp] theorem modCw_bcastAgree (k : Nat) (f : Window → Window) (s : State) : (modCw k f s).bcastAgree = s.bcastAgree := rfl
@[simp] theorem modCw_pods (k : Nat) (f : Window → Window) (s : State) : (modCw k f s).pods = s.pods := rfl
@[simp] theorem modCw_podc (k : Nat) (f : Window → Window) (s : State) : (modCw k f s).podc = s.podc := rfl
@[simp] theorem modCw_fab (k : Nat) (f : Window → Window) (s : State) : (modCw k f s).fab = s.fab := rfl
@[simp] theorem modCw_seqs (k : Nat) (f : Window → Window) (s : State) : (modCw k f s).seqs = s.seqs := rfl
@[simp] theorem modCw_trigout (k : Nat) (f : Window → Window) (s : State) : (modCw k f s).trigout = s.trigout := rfl
@[simp] theorem modCw_ring (k : Nat) (f : Window → Window) (s : State) : (modCw k f s).ring = s.ring := rfl
@[simp] theorem modCw_ret (k : Nat) (f : Window → Window) (s : State) : (modCw k f s).ret = s.ret := rfl
@[simp] theorem modCw_cmp (k : Nat) (f : Window → Window) (s : State) : (modCw k f s).cmp = s.cmp := rfl
@[simp] theorem modCw_eq (k : Nat) (f : Window → Window) (s : State) : (modCw k f s).eq = s.eq := rfl
@[simp] theorem modCw_tal (k : Nat) (f : Window → Window) (s : State) : (modCw k f s).tal = s.tal := rfl
@[simp] theorem modCw_sealer (k : Nat) (f : Window → Window) (s : State) : (modCw k f s).sealer = s.sealer := rfl
@[simp] theorem modCw_tm (k : Nat) (f : Window → Window) (s : State) : (modCw k f s).tm = s.tm := rfl
@[simp] theorem modCw_sch (k : Nat) (f : Window → Window) (s : State) : (modCw k f s).sch = s.sch := rfl
@[simp] theorem modCw_rl (k : Nat) (f : Window → Window) (s : State) : (modCw k f s).rl = s.rl := rfl
@[simp] theorem modCw_pll (k : Nat) (f : Window → Window) (s : State) : (modCw k f s).pll = s.pll := rfl
@[simp] theorem modCw_pcie (k : Nat) (f : Window → Window) (s : State) : (modCw k f s).pcie = s.pcie := rfl
@[simp] theorem modCw_mb (k : Nat) (f : Window → Window) (s : State) : (modCw k f s).mb = s.mb := rfl
@[simp] theorem modCw_summit (k : Nat) (f : Window → Window) (s : State) : (modCw k f s).summit = s.summit := rfl
@[simp] theorem modCw_evt (k : Nat) (f : Window → Window) (s : State) : (modCw k f s).evt = s.evt := rfl
@[simp] theorem modCw_flt (k : Nat) (f : Window → Window) (s : State) : (modCw k f s).flt = s.flt := rfl
@[simp] theorem modCw_mem (k : Nat) (f : Window → Window) (s : State) : (modCw k f s).mem = s.mem := rfl
@[simp] theorem modCw_snap (k : Nat) (f : Window → Window) (s : State) : (modCw k f s).snap = s.snap := rfl
@[simp] theorem modCw_freeCtr (k : Nat) (f : Window → Window) (s : State) : (modCw k f s).freeCtr = s.freeCtr := rfl
@[simp] theorem modCw_out (k : Nat) (f : Window → Window) (s : State) : (modCw k f s).out = s.out := rfl
@[simp] theorem modCw_pending (k : Nat) (f : Window → Window) (s : State) : (modCw k f s).pending = s.pending := rfl

@[simp] theorem modPort_dev (p : Nat) (f : Port → Port) (s : State) : (modPort p f s).dev = s.dev := rfl
@[simp] theorem modPort_cfg (p : Nat) (f : Port → Port) (s : State) : (modPort p f s).cfg = s.cfg := rfl
@[simp] theorem modPort_inputs (p : Nat) (f : Port → Port) (s : State) : (modPort p f s).inputs = s.inputs := rfl
@[simp] theorem modPort_grpMask (p : Nat) (f : Port → Port) (s : State) : (modPort p f s).grpMask = s.grpMask := rfl
@[simp] theorem modPort_bcastAgree (p : Nat) (f : Port → Port) (s : State) : (modPort p f s).bcastAgree = s.bcastAgree := rfl
@[simp] theorem modPort_pods (p : Nat) (f : Port → Port) (s : State) : (modPort p f s).pods = s.pods := rfl
@[simp] theorem modPort_podc (p : Nat) (f : Port → Port) (s : State) : (modPort p f s).podc = s.podc := rfl
@[simp] theorem modPort_fab (p : Nat) (f : Port → Port) (s : State) : (modPort p f s).fab = s.fab := rfl
@[simp] theorem modPort_seqs (p : Nat) (f : Port → Port) (s : State) : (modPort p f s).seqs = s.seqs := rfl
@[simp] theorem modPort_trigout (p : Nat) (f : Port → Port) (s : State) : (modPort p f s).trigout = s.trigout := rfl
@[simp] theorem modPort_ring (p : Nat) (f : Port → Port) (s : State) : (modPort p f s).ring = s.ring := rfl
@[simp] theorem modPort_ret (p : Nat) (f : Port → Port) (s : State) : (modPort p f s).ret = s.ret := rfl
@[simp] theorem modPort_cmp (p : Nat) (f : Port → Port) (s : State) : (modPort p f s).cmp = s.cmp := rfl
@[simp] theorem modPort_eq (p : Nat) (f : Port → Port) (s : State) : (modPort p f s).eq = s.eq := rfl
@[simp] theorem modPort_tal (p : Nat) (f : Port → Port) (s : State) : (modPort p f s).tal = s.tal := rfl
@[simp] theorem modPort_sealer (p : Nat) (f : Port → Port) (s : State) : (modPort p f s).sealer = s.sealer := rfl
@[simp] theorem modPort_tm (p : Nat) (f : Port → Port) (s : State) : (modPort p f s).tm = s.tm := rfl
@[simp] theorem modPort_sch (p : Nat) (f : Port → Port) (s : State) : (modPort p f s).sch = s.sch := rfl
@[simp] theorem modPort_pll (p : Nat) (f : Port → Port) (s : State) : (modPort p f s).pll = s.pll := rfl
@[simp] theorem modPort_pcie (p : Nat) (f : Port → Port) (s : State) : (modPort p f s).pcie = s.pcie := rfl
@[simp] theorem modPort_mb (p : Nat) (f : Port → Port) (s : State) : (modPort p f s).mb = s.mb := rfl
@[simp] theorem modPort_cw (p : Nat) (f : Port → Port) (s : State) : (modPort p f s).cw = s.cw := rfl
@[simp] theorem modPort_summit (p : Nat) (f : Port → Port) (s : State) : (modPort p f s).summit = s.summit := rfl
@[simp] theorem modPort_evt (p : Nat) (f : Port → Port) (s : State) : (modPort p f s).evt = s.evt := rfl
@[simp] theorem modPort_flt (p : Nat) (f : Port → Port) (s : State) : (modPort p f s).flt = s.flt := rfl
@[simp] theorem modPort_mem (p : Nat) (f : Port → Port) (s : State) : (modPort p f s).mem = s.mem := rfl
@[simp] theorem modPort_snap (p : Nat) (f : Port → Port) (s : State) : (modPort p f s).snap = s.snap := rfl
@[simp] theorem modPort_freeCtr (p : Nat) (f : Port → Port) (s : State) : (modPort p f s).freeCtr = s.freeCtr := rfl
@[simp] theorem modPort_out (p : Nat) (f : Port → Port) (s : State) : (modPort p f s).out = s.out := rfl
@[simp] theorem modPort_pending (p : Nat) (f : Port → Port) (s : State) : (modPort p f s).pending = s.pending := rfl

@[simp] theorem emitOut_dev (o : Output) (s : State) : (emitOut o s).dev = s.dev := rfl
@[simp] theorem emitOut_cfg (o : Output) (s : State) : (emitOut o s).cfg = s.cfg := rfl
@[simp] theorem emitOut_inputs (o : Output) (s : State) : (emitOut o s).inputs = s.inputs := rfl
@[simp] theorem emitOut_grpMask (o : Output) (s : State) : (emitOut o s).grpMask = s.grpMask := rfl
@[simp] theorem emitOut_bcastAgree (o : Output) (s : State) : (emitOut o s).bcastAgree = s.bcastAgree := rfl
@[simp] theorem emitOut_pods (o : Output) (s : State) : (emitOut o s).pods = s.pods := rfl
@[simp] theorem emitOut_podc (o : Output) (s : State) : (emitOut o s).podc = s.podc := rfl
@[simp] theorem emitOut_fab (o : Output) (s : State) : (emitOut o s).fab = s.fab := rfl
@[simp] theorem emitOut_seqs (o : Output) (s : State) : (emitOut o s).seqs = s.seqs := rfl
@[simp] theorem emitOut_trigout (o : Output) (s : State) : (emitOut o s).trigout = s.trigout := rfl
@[simp] theorem emitOut_ring (o : Output) (s : State) : (emitOut o s).ring = s.ring := rfl
@[simp] theorem emitOut_ret (o : Output) (s : State) : (emitOut o s).ret = s.ret := rfl
@[simp] theorem emitOut_cmp (o : Output) (s : State) : (emitOut o s).cmp = s.cmp := rfl
@[simp] theorem emitOut_eq (o : Output) (s : State) : (emitOut o s).eq = s.eq := rfl
@[simp] theorem emitOut_tal (o : Output) (s : State) : (emitOut o s).tal = s.tal := rfl
@[simp] theorem emitOut_sealer (o : Output) (s : State) : (emitOut o s).sealer = s.sealer := rfl
@[simp] theorem emitOut_tm (o : Output) (s : State) : (emitOut o s).tm = s.tm := rfl
@[simp] theorem emitOut_sch (o : Output) (s : State) : (emitOut o s).sch = s.sch := rfl
@[simp] theorem emitOut_rl (o : Output) (s : State) : (emitOut o s).rl = s.rl := rfl
@[simp] theorem emitOut_pll (o : Output) (s : State) : (emitOut o s).pll = s.pll := rfl
@[simp] theorem emitOut_mb (o : Output) (s : State) : (emitOut o s).mb = s.mb := rfl
@[simp] theorem emitOut_cw (o : Output) (s : State) : (emitOut o s).cw = s.cw := rfl
@[simp] theorem emitOut_summit (o : Output) (s : State) : (emitOut o s).summit = s.summit := rfl
@[simp] theorem emitOut_evt (o : Output) (s : State) : (emitOut o s).evt = s.evt := rfl
@[simp] theorem emitOut_flt (o : Output) (s : State) : (emitOut o s).flt = s.flt := rfl
@[simp] theorem emitOut_mem (o : Output) (s : State) : (emitOut o s).mem = s.mem := rfl
@[simp] theorem emitOut_snap (o : Output) (s : State) : (emitOut o s).snap = s.snap := rfl
@[simp] theorem emitOut_freeCtr (o : Output) (s : State) : (emitOut o s).freeCtr = s.freeCtr := rfl
@[simp] theorem emitOut_pending (o : Output) (s : State) : (emitOut o s).pending = s.pending := rfl

@[simp] theorem goDead_dev (f : Nat) (s : State) : (goDead f s).dev = s.dev := rfl
@[simp] theorem goDead_cfg (f : Nat) (s : State) : (goDead f s).cfg = s.cfg := rfl
@[simp] theorem goDead_inputs (f : Nat) (s : State) : (goDead f s).inputs = s.inputs := rfl
@[simp] theorem goDead_grpMask (f : Nat) (s : State) : (goDead f s).grpMask = s.grpMask := rfl
@[simp] theorem goDead_bcastAgree (f : Nat) (s : State) : (goDead f s).bcastAgree = s.bcastAgree := rfl
@[simp] theorem goDead_pods (f : Nat) (s : State) : (goDead f s).pods = s.pods := rfl
@[simp] theorem goDead_podc (f : Nat) (s : State) : (goDead f s).podc = s.podc := rfl
@[simp] theorem goDead_fab (f : Nat) (s : State) : (goDead f s).fab = s.fab := rfl
@[simp] theorem goDead_seqs (f : Nat) (s : State) : (goDead f s).seqs = s.seqs := rfl
@[simp] theorem goDead_trigout (f : Nat) (s : State) : (goDead f s).trigout = s.trigout := rfl
@[simp] theorem goDead_ring (f : Nat) (s : State) : (goDead f s).ring = s.ring := rfl
@[simp] theorem goDead_ret (f : Nat) (s : State) : (goDead f s).ret = s.ret := rfl
@[simp] theorem goDead_cmp (f : Nat) (s : State) : (goDead f s).cmp = s.cmp := rfl
@[simp] theorem goDead_eq (f : Nat) (s : State) : (goDead f s).eq = s.eq := rfl
@[simp] theorem goDead_tal (f : Nat) (s : State) : (goDead f s).tal = s.tal := rfl
@[simp] theorem goDead_sealer (f : Nat) (s : State) : (goDead f s).sealer = s.sealer := rfl
@[simp] theorem goDead_tm (f : Nat) (s : State) : (goDead f s).tm = s.tm := rfl
@[simp] theorem goDead_sch (f : Nat) (s : State) : (goDead f s).sch = s.sch := rfl
@[simp] theorem goDead_rl (f : Nat) (s : State) : (goDead f s).rl = s.rl := rfl
@[simp] theorem goDead_pll (f : Nat) (s : State) : (goDead f s).pll = s.pll := rfl
@[simp] theorem goDead_pcie (f : Nat) (s : State) : (goDead f s).pcie = s.pcie := rfl
@[simp] theorem goDead_mb (f : Nat) (s : State) : (goDead f s).mb = s.mb := rfl
@[simp] theorem goDead_cw (f : Nat) (s : State) : (goDead f s).cw = s.cw := rfl
@[simp] theorem goDead_summit (f : Nat) (s : State) : (goDead f s).summit = s.summit := rfl
@[simp] theorem goDead_evt (f : Nat) (s : State) : (goDead f s).evt = s.evt := rfl
@[simp] theorem goDead_mem (f : Nat) (s : State) : (goDead f s).mem = s.mem := rfl
@[simp] theorem goDead_snap (f : Nat) (s : State) : (goDead f s).snap = s.snap := rfl
@[simp] theorem goDead_freeCtr (f : Nat) (s : State) : (goDead f s).freeCtr = s.freeCtr := rfl
@[simp] theorem goDead_out (f : Nat) (s : State) : (goDead f s).out = s.out := rfl
@[simp] theorem goDead_pending (f : Nat) (s : State) : (goDead f s).pending = s.pending := rfl

@[simp] theorem updateFaultN_dev (s : State) : (updateFaultN s).dev = s.dev := rfl
@[simp] theorem updateFaultN_cfg (s : State) : (updateFaultN s).cfg = s.cfg := rfl
@[simp] theorem updateFaultN_inputs (s : State) : (updateFaultN s).inputs = s.inputs := rfl
@[simp] theorem updateFaultN_grpMask (s : State) : (updateFaultN s).grpMask = s.grpMask := rfl
@[simp] theorem updateFaultN_bcastAgree (s : State) : (updateFaultN s).bcastAgree = s.bcastAgree := rfl
@[simp] theorem updateFaultN_pods (s : State) : (updateFaultN s).pods = s.pods := rfl
@[simp] theorem updateFaultN_podc (s : State) : (updateFaultN s).podc = s.podc := rfl
@[simp] theorem updateFaultN_fab (s : State) : (updateFaultN s).fab = s.fab := rfl
@[simp] theorem updateFaultN_seqs (s : State) : (updateFaultN s).seqs = s.seqs := rfl
@[simp] theorem updateFaultN_trigout (s : State) : (updateFaultN s).trigout = s.trigout := rfl
@[simp] theorem updateFaultN_ring (s : State) : (updateFaultN s).ring = s.ring := rfl
@[simp] theorem updateFaultN_ret (s : State) : (updateFaultN s).ret = s.ret := rfl
@[simp] theorem updateFaultN_cmp (s : State) : (updateFaultN s).cmp = s.cmp := rfl
@[simp] theorem updateFaultN_eq (s : State) : (updateFaultN s).eq = s.eq := rfl
@[simp] theorem updateFaultN_tal (s : State) : (updateFaultN s).tal = s.tal := rfl
@[simp] theorem updateFaultN_sealer (s : State) : (updateFaultN s).sealer = s.sealer := rfl
@[simp] theorem updateFaultN_tm (s : State) : (updateFaultN s).tm = s.tm := rfl
@[simp] theorem updateFaultN_sch (s : State) : (updateFaultN s).sch = s.sch := rfl
@[simp] theorem updateFaultN_rl (s : State) : (updateFaultN s).rl = s.rl := rfl
@[simp] theorem updateFaultN_pll (s : State) : (updateFaultN s).pll = s.pll := rfl
@[simp] theorem updateFaultN_pcie (s : State) : (updateFaultN s).pcie = s.pcie := rfl
@[simp] theorem updateFaultN_mb (s : State) : (updateFaultN s).mb = s.mb := rfl
@[simp] theorem updateFaultN_cw (s : State) : (updateFaultN s).cw = s.cw := rfl
@[simp] theorem updateFaultN_summit (s : State) : (updateFaultN s).summit = s.summit := rfl
@[simp] theorem updateFaultN_evt (s : State) : (updateFaultN s).evt = s.evt := rfl
@[simp] theorem updateFaultN_mem (s : State) : (updateFaultN s).mem = s.mem := rfl
@[simp] theorem updateFaultN_snap (s : State) : (updateFaultN s).snap = s.snap := rfl
@[simp] theorem updateFaultN_freeCtr (s : State) : (updateFaultN s).freeCtr = s.freeCtr := rfl
@[simp] theorem updateFaultN_out (s : State) : (updateFaultN s).out = s.out := rfl
@[simp] theorem updateFaultN_pending (s : State) : (updateFaultN s).pending = s.pending := rfl

@[simp] theorem scratchWrite_dev (o : Nat) (bs : List Byte) (s : State) : (scratchWrite o bs s).dev = s.dev := rfl
@[simp] theorem scratchWrite_cfg (o : Nat) (bs : List Byte) (s : State) : (scratchWrite o bs s).cfg = s.cfg := rfl
@[simp] theorem scratchWrite_inputs (o : Nat) (bs : List Byte) (s : State) : (scratchWrite o bs s).inputs = s.inputs := rfl
@[simp] theorem scratchWrite_grpMask (o : Nat) (bs : List Byte) (s : State) : (scratchWrite o bs s).grpMask = s.grpMask := rfl
@[simp] theorem scratchWrite_bcastAgree (o : Nat) (bs : List Byte) (s : State) : (scratchWrite o bs s).bcastAgree = s.bcastAgree := rfl
@[simp] theorem scratchWrite_pods (o : Nat) (bs : List Byte) (s : State) : (scratchWrite o bs s).pods = s.pods := rfl
@[simp] theorem scratchWrite_podc (o : Nat) (bs : List Byte) (s : State) : (scratchWrite o bs s).podc = s.podc := rfl
@[simp] theorem scratchWrite_fab (o : Nat) (bs : List Byte) (s : State) : (scratchWrite o bs s).fab = s.fab := rfl
@[simp] theorem scratchWrite_seqs (o : Nat) (bs : List Byte) (s : State) : (scratchWrite o bs s).seqs = s.seqs := rfl
@[simp] theorem scratchWrite_trigout (o : Nat) (bs : List Byte) (s : State) : (scratchWrite o bs s).trigout = s.trigout := rfl
@[simp] theorem scratchWrite_ring (o : Nat) (bs : List Byte) (s : State) : (scratchWrite o bs s).ring = s.ring := rfl
@[simp] theorem scratchWrite_ret (o : Nat) (bs : List Byte) (s : State) : (scratchWrite o bs s).ret = s.ret := rfl
@[simp] theorem scratchWrite_cmp (o : Nat) (bs : List Byte) (s : State) : (scratchWrite o bs s).cmp = s.cmp := rfl
@[simp] theorem scratchWrite_eq (o : Nat) (bs : List Byte) (s : State) : (scratchWrite o bs s).eq = s.eq := rfl
@[simp] theorem scratchWrite_tal (o : Nat) (bs : List Byte) (s : State) : (scratchWrite o bs s).tal = s.tal := rfl
@[simp] theorem scratchWrite_sealer (o : Nat) (bs : List Byte) (s : State) : (scratchWrite o bs s).sealer = s.sealer := rfl
@[simp] theorem scratchWrite_tm (o : Nat) (bs : List Byte) (s : State) : (scratchWrite o bs s).tm = s.tm := rfl
@[simp] theorem scratchWrite_sch (o : Nat) (bs : List Byte) (s : State) : (scratchWrite o bs s).sch = s.sch := rfl
@[simp] theorem scratchWrite_rl (o : Nat) (bs : List Byte) (s : State) : (scratchWrite o bs s).rl = s.rl := rfl
@[simp] theorem scratchWrite_pll (o : Nat) (bs : List Byte) (s : State) : (scratchWrite o bs s).pll = s.pll := rfl
@[simp] theorem scratchWrite_pcie (o : Nat) (bs : List Byte) (s : State) : (scratchWrite o bs s).pcie = s.pcie := rfl
@[simp] theorem scratchWrite_mb (o : Nat) (bs : List Byte) (s : State) : (scratchWrite o bs s).mb = s.mb := rfl
@[simp] theorem scratchWrite_cw (o : Nat) (bs : List Byte) (s : State) : (scratchWrite o bs s).cw = s.cw := rfl
@[simp] theorem scratchWrite_evt (o : Nat) (bs : List Byte) (s : State) : (scratchWrite o bs s).evt = s.evt := rfl
@[simp] theorem scratchWrite_flt (o : Nat) (bs : List Byte) (s : State) : (scratchWrite o bs s).flt = s.flt := rfl
@[simp] theorem scratchWrite_snap (o : Nat) (bs : List Byte) (s : State) : (scratchWrite o bs s).snap = s.snap := rfl
@[simp] theorem scratchWrite_freeCtr (o : Nat) (bs : List Byte) (s : State) : (scratchWrite o bs s).freeCtr = s.freeCtr := rfl
@[simp] theorem scratchWrite_out (o : Nat) (bs : List Byte) (s : State) : (scratchWrite o bs s).out = s.out := rfl
@[simp] theorem scratchWrite_pending (o : Nat) (bs : List Byte) (s : State) : (scratchWrite o bs s).pending = s.pending := rfl

@[simp] theorem supplyCut_dev (p : Nat) (s : State) : (supplyCut p s).dev = s.dev := rfl
@[simp] theorem supplyCut_cfg (p : Nat) (s : State) : (supplyCut p s).cfg = s.cfg := rfl
@[simp] theorem supplyCut_inputs (p : Nat) (s : State) : (supplyCut p s).inputs = s.inputs := rfl
@[simp] theorem supplyCut_grpMask (p : Nat) (s : State) : (supplyCut p s).grpMask = s.grpMask := rfl
@[simp] theorem supplyCut_bcastAgree (p : Nat) (s : State) : (supplyCut p s).bcastAgree = s.bcastAgree := rfl
@[simp] theorem supplyCut_podc (p : Nat) (s : State) : (supplyCut p s).podc = s.podc := rfl
@[simp] theorem supplyCut_fab (p : Nat) (s : State) : (supplyCut p s).fab = s.fab := rfl
@[simp] theorem supplyCut_seqs (p : Nat) (s : State) : (supplyCut p s).seqs = s.seqs := rfl
@[simp] theorem supplyCut_trigout (p : Nat) (s : State) : (supplyCut p s).trigout = s.trigout := rfl
@[simp] theorem supplyCut_ring (p : Nat) (s : State) : (supplyCut p s).ring = s.ring := rfl
@[simp] theorem supplyCut_ret (p : Nat) (s : State) : (supplyCut p s).ret = s.ret := rfl
@[simp] theorem supplyCut_cmp (p : Nat) (s : State) : (supplyCut p s).cmp = s.cmp := rfl
@[simp] theorem supplyCut_eq (p : Nat) (s : State) : (supplyCut p s).eq = s.eq := rfl
@[simp] theorem supplyCut_tal (p : Nat) (s : State) : (supplyCut p s).tal = s.tal := rfl
@[simp] theorem supplyCut_sealer (p : Nat) (s : State) : (supplyCut p s).sealer = s.sealer := rfl
@[simp] theorem supplyCut_tm (p : Nat) (s : State) : (supplyCut p s).tm = s.tm := rfl
@[simp] theorem supplyCut_sch (p : Nat) (s : State) : (supplyCut p s).sch = s.sch := rfl
@[simp] theorem supplyCut_rl (p : Nat) (s : State) : (supplyCut p s).rl = s.rl := rfl
@[simp] theorem supplyCut_pll (p : Nat) (s : State) : (supplyCut p s).pll = s.pll := rfl
@[simp] theorem supplyCut_pcie (p : Nat) (s : State) : (supplyCut p s).pcie = s.pcie := rfl
@[simp] theorem supplyCut_mb (p : Nat) (s : State) : (supplyCut p s).mb = s.mb := rfl
@[simp] theorem supplyCut_cw (p : Nat) (s : State) : (supplyCut p s).cw = s.cw := rfl
@[simp] theorem supplyCut_summit (p : Nat) (s : State) : (supplyCut p s).summit = s.summit := rfl
@[simp] theorem supplyCut_evt (p : Nat) (s : State) : (supplyCut p s).evt = s.evt := rfl
@[simp] theorem supplyCut_flt (p : Nat) (s : State) : (supplyCut p s).flt = s.flt := rfl
@[simp] theorem supplyCut_mem (p : Nat) (s : State) : (supplyCut p s).mem = s.mem := rfl
@[simp] theorem supplyCut_snap (p : Nat) (s : State) : (supplyCut p s).snap = s.snap := rfl
@[simp] theorem supplyCut_freeCtr (p : Nat) (s : State) : (supplyCut p s).freeCtr = s.freeCtr := rfl
@[simp] theorem supplyCut_out (p : Nat) (s : State) : (supplyCut p s).out = s.out := rfl
@[simp] theorem supplyCut_pending (p : Nat) (s : State) : (supplyCut p s).pending = s.pending := rfl

@[simp] theorem modCal_dev (p : Nat) (f : Cal → Cal) (s : State) : (modCal p f s).dev = s.dev := rfl
@[simp] theorem modCal_cfg (p : Nat) (f : Cal → Cal) (s : State) : (modCal p f s).cfg = s.cfg := rfl
@[simp] theorem modCal_inputs (p : Nat) (f : Cal → Cal) (s : State) : (modCal p f s).inputs = s.inputs := rfl
@[simp] theorem modCal_grpMask (p : Nat) (f : Cal → Cal) (s : State) : (modCal p f s).grpMask = s.grpMask := rfl
@[simp] theorem modCal_bcastAgree (p : Nat) (f : Cal → Cal) (s : State) : (modCal p f s).bcastAgree = s.bcastAgree := rfl
@[simp] theorem modCal_podc (p : Nat) (f : Cal → Cal) (s : State) : (modCal p f s).podc = s.podc := rfl
@[simp] theorem modCal_fab (p : Nat) (f : Cal → Cal) (s : State) : (modCal p f s).fab = s.fab := rfl
@[simp] theorem modCal_seqs (p : Nat) (f : Cal → Cal) (s : State) : (modCal p f s).seqs = s.seqs := rfl
@[simp] theorem modCal_trigout (p : Nat) (f : Cal → Cal) (s : State) : (modCal p f s).trigout = s.trigout := rfl
@[simp] theorem modCal_ring (p : Nat) (f : Cal → Cal) (s : State) : (modCal p f s).ring = s.ring := rfl
@[simp] theorem modCal_ret (p : Nat) (f : Cal → Cal) (s : State) : (modCal p f s).ret = s.ret := rfl
@[simp] theorem modCal_cmp (p : Nat) (f : Cal → Cal) (s : State) : (modCal p f s).cmp = s.cmp := rfl
@[simp] theorem modCal_eq (p : Nat) (f : Cal → Cal) (s : State) : (modCal p f s).eq = s.eq := rfl
@[simp] theorem modCal_tal (p : Nat) (f : Cal → Cal) (s : State) : (modCal p f s).tal = s.tal := rfl
@[simp] theorem modCal_sealer (p : Nat) (f : Cal → Cal) (s : State) : (modCal p f s).sealer = s.sealer := rfl
@[simp] theorem modCal_tm (p : Nat) (f : Cal → Cal) (s : State) : (modCal p f s).tm = s.tm := rfl
@[simp] theorem modCal_sch (p : Nat) (f : Cal → Cal) (s : State) : (modCal p f s).sch = s.sch := rfl
@[simp] theorem modCal_rl (p : Nat) (f : Cal → Cal) (s : State) : (modCal p f s).rl = s.rl := rfl
@[simp] theorem modCal_pll (p : Nat) (f : Cal → Cal) (s : State) : (modCal p f s).pll = s.pll := rfl
@[simp] theorem modCal_pcie (p : Nat) (f : Cal → Cal) (s : State) : (modCal p f s).pcie = s.pcie := rfl
@[simp] theorem modCal_mb (p : Nat) (f : Cal → Cal) (s : State) : (modCal p f s).mb = s.mb := rfl
@[simp] theorem modCal_cw (p : Nat) (f : Cal → Cal) (s : State) : (modCal p f s).cw = s.cw := rfl
@[simp] theorem modCal_summit (p : Nat) (f : Cal → Cal) (s : State) : (modCal p f s).summit = s.summit := rfl
@[simp] theorem modCal_evt (p : Nat) (f : Cal → Cal) (s : State) : (modCal p f s).evt = s.evt := rfl
@[simp] theorem modCal_flt (p : Nat) (f : Cal → Cal) (s : State) : (modCal p f s).flt = s.flt := rfl
@[simp] theorem modCal_mem (p : Nat) (f : Cal → Cal) (s : State) : (modCal p f s).mem = s.mem := rfl
@[simp] theorem modCal_snap (p : Nat) (f : Cal → Cal) (s : State) : (modCal p f s).snap = s.snap := rfl
@[simp] theorem modCal_freeCtr (p : Nat) (f : Cal → Cal) (s : State) : (modCal p f s).freeCtr = s.freeCtr := rfl
@[simp] theorem modCal_out (p : Nat) (f : Cal → Cal) (s : State) : (modCal p f s).out = s.out := rfl
@[simp] theorem modCal_pending (p : Nat) (f : Cal → Cal) (s : State) : (modCal p f s).pending = s.pending := rfl

@[simp] theorem recordOrigin_dev (o q : Nat) (s : State) : (recordOrigin o q s).dev = s.dev := rfl
@[simp] theorem recordOrigin_cfg (o q : Nat) (s : State) : (recordOrigin o q s).cfg = s.cfg := rfl
@[simp] theorem recordOrigin_inputs (o q : Nat) (s : State) : (recordOrigin o q s).inputs = s.inputs := rfl
@[simp] theorem recordOrigin_grpMask (o q : Nat) (s : State) : (recordOrigin o q s).grpMask = s.grpMask := rfl
@[simp] theorem recordOrigin_bcastAgree (o q : Nat) (s : State) : (recordOrigin o q s).bcastAgree = s.bcastAgree := rfl
@[simp] theorem recordOrigin_pods (o q : Nat) (s : State) : (recordOrigin o q s).pods = s.pods := rfl
@[simp] theorem recordOrigin_podc (o q : Nat) (s : State) : (recordOrigin o q s).podc = s.podc := rfl
@[simp] theorem recordOrigin_fab (o q : Nat) (s : State) : (recordOrigin o q s).fab = s.fab := rfl
@[simp] theorem recordOrigin_seqs (o q : Nat) (s : State) : (recordOrigin o q s).seqs = s.seqs := rfl
@[simp] theorem recordOrigin_trigout (o q : Nat) (s : State) : (recordOrigin o q s).trigout = s.trigout := rfl
@[simp] theorem recordOrigin_ring (o q : Nat) (s : State) : (recordOrigin o q s).ring = s.ring := rfl
@[simp] theorem recordOrigin_ret (o q : Nat) (s : State) : (recordOrigin o q s).ret = s.ret := rfl
@[simp] theorem recordOrigin_cmp (o q : Nat) (s : State) : (recordOrigin o q s).cmp = s.cmp := rfl
@[simp] theorem recordOrigin_eq (o q : Nat) (s : State) : (recordOrigin o q s).eq = s.eq := rfl
@[simp] theorem recordOrigin_tal (o q : Nat) (s : State) : (recordOrigin o q s).tal = s.tal := rfl
@[simp] theorem recordOrigin_sealer (o q : Nat) (s : State) : (recordOrigin o q s).sealer = s.sealer := rfl
@[simp] theorem recordOrigin_tm (o q : Nat) (s : State) : (recordOrigin o q s).tm = s.tm := rfl
@[simp] theorem recordOrigin_sch (o q : Nat) (s : State) : (recordOrigin o q s).sch = s.sch := rfl
@[simp] theorem recordOrigin_pll (o q : Nat) (s : State) : (recordOrigin o q s).pll = s.pll := rfl
@[simp] theorem recordOrigin_pcie (o q : Nat) (s : State) : (recordOrigin o q s).pcie = s.pcie := rfl
@[simp] theorem recordOrigin_mb (o q : Nat) (s : State) : (recordOrigin o q s).mb = s.mb := rfl
@[simp] theorem recordOrigin_cw (o q : Nat) (s : State) : (recordOrigin o q s).cw = s.cw := rfl
@[simp] theorem recordOrigin_summit (o q : Nat) (s : State) : (recordOrigin o q s).summit = s.summit := rfl
@[simp] theorem recordOrigin_evt (o q : Nat) (s : State) : (recordOrigin o q s).evt = s.evt := rfl
@[simp] theorem recordOrigin_flt (o q : Nat) (s : State) : (recordOrigin o q s).flt = s.flt := rfl
@[simp] theorem recordOrigin_mem (o q : Nat) (s : State) : (recordOrigin o q s).mem = s.mem := rfl
@[simp] theorem recordOrigin_snap (o q : Nat) (s : State) : (recordOrigin o q s).snap = s.snap := rfl
@[simp] theorem recordOrigin_freeCtr (o q : Nat) (s : State) : (recordOrigin o q s).freeCtr = s.freeCtr := rfl
@[simp] theorem recordOrigin_out (o q : Nat) (s : State) : (recordOrigin o q s).out = s.out := rfl
@[simp] theorem recordOrigin_pending (o q : Nat) (s : State) : (recordOrigin o q s).pending = s.pending := rfl

@[simp] theorem pushCairn_dev (code instant unit pod : Nat) (payload : List Byte) (s : State) : (pushCairn code instant unit pod payload s).dev = s.dev := rfl
@[simp] theorem pushCairn_cfg (code instant unit pod : Nat) (payload : List Byte) (s : State) : (pushCairn code instant unit pod payload s).cfg = s.cfg := rfl
@[simp] theorem pushCairn_inputs (code instant unit pod : Nat) (payload : List Byte) (s : State) : (pushCairn code instant unit pod payload s).inputs = s.inputs := rfl
@[simp] theorem pushCairn_grpMask (code instant unit pod : Nat) (payload : List Byte) (s : State) : (pushCairn code instant unit pod payload s).grpMask = s.grpMask := rfl
@[simp] theorem pushCairn_bcastAgree (code instant unit pod : Nat) (payload : List Byte) (s : State) : (pushCairn code instant unit pod payload s).bcastAgree = s.bcastAgree := rfl
@[simp] theorem pushCairn_pods (code instant unit pod : Nat) (payload : List Byte) (s : State) : (pushCairn code instant unit pod payload s).pods = s.pods := rfl
@[simp] theorem pushCairn_podc (code instant unit pod : Nat) (payload : List Byte) (s : State) : (pushCairn code instant unit pod payload s).podc = s.podc := rfl
@[simp] theorem pushCairn_fab (code instant unit pod : Nat) (payload : List Byte) (s : State) : (pushCairn code instant unit pod payload s).fab = s.fab := rfl
@[simp] theorem pushCairn_seqs (code instant unit pod : Nat) (payload : List Byte) (s : State) : (pushCairn code instant unit pod payload s).seqs = s.seqs := rfl
@[simp] theorem pushCairn_trigout (code instant unit pod : Nat) (payload : List Byte) (s : State) : (pushCairn code instant unit pod payload s).trigout = s.trigout := rfl
@[simp] theorem pushCairn_ring (code instant unit pod : Nat) (payload : List Byte) (s : State) : (pushCairn code instant unit pod payload s).ring = s.ring := rfl
@[simp] theorem pushCairn_cmp (code instant unit pod : Nat) (payload : List Byte) (s : State) : (pushCairn code instant unit pod payload s).cmp = s.cmp := rfl
@[simp] theorem pushCairn_eq (code instant unit pod : Nat) (payload : List Byte) (s : State) : (pushCairn code instant unit pod payload s).eq = s.eq := rfl
@[simp] theorem pushCairn_tal (code instant unit pod : Nat) (payload : List Byte) (s : State) : (pushCairn code instant unit pod payload s).tal = s.tal := rfl
@[simp] theorem pushCairn_sealer (code instant unit pod : Nat) (payload : List Byte) (s : State) : (pushCairn code instant unit pod payload s).sealer = s.sealer := rfl
@[simp] theorem pushCairn_tm (code instant unit pod : Nat) (payload : List Byte) (s : State) : (pushCairn code instant unit pod payload s).tm = s.tm := rfl
@[simp] theorem pushCairn_sch (code instant unit pod : Nat) (payload : List Byte) (s : State) : (pushCairn code instant unit pod payload s).sch = s.sch := rfl
@[simp] theorem pushCairn_rl (code instant unit pod : Nat) (payload : List Byte) (s : State) : (pushCairn code instant unit pod payload s).rl = s.rl := rfl
@[simp] theorem pushCairn_pll (code instant unit pod : Nat) (payload : List Byte) (s : State) : (pushCairn code instant unit pod payload s).pll = s.pll := rfl
@[simp] theorem pushCairn_pcie (code instant unit pod : Nat) (payload : List Byte) (s : State) : (pushCairn code instant unit pod payload s).pcie = s.pcie := rfl
@[simp] theorem pushCairn_mb (code instant unit pod : Nat) (payload : List Byte) (s : State) : (pushCairn code instant unit pod payload s).mb = s.mb := rfl
@[simp] theorem pushCairn_cw (code instant unit pod : Nat) (payload : List Byte) (s : State) : (pushCairn code instant unit pod payload s).cw = s.cw := rfl
@[simp] theorem pushCairn_summit (code instant unit pod : Nat) (payload : List Byte) (s : State) : (pushCairn code instant unit pod payload s).summit = s.summit := rfl
@[simp] theorem pushCairn_evt (code instant unit pod : Nat) (payload : List Byte) (s : State) : (pushCairn code instant unit pod payload s).evt = s.evt := rfl
@[simp] theorem pushCairn_flt (code instant unit pod : Nat) (payload : List Byte) (s : State) : (pushCairn code instant unit pod payload s).flt = s.flt := rfl
@[simp] theorem pushCairn_mem (code instant unit pod : Nat) (payload : List Byte) (s : State) : (pushCairn code instant unit pod payload s).mem = s.mem := rfl
@[simp] theorem pushCairn_snap (code instant unit pod : Nat) (payload : List Byte) (s : State) : (pushCairn code instant unit pod payload s).snap = s.snap := rfl
@[simp] theorem pushCairn_freeCtr (code instant unit pod : Nat) (payload : List Byte) (s : State) : (pushCairn code instant unit pod payload s).freeCtr = s.freeCtr := rfl
@[simp] theorem pushCairn_out (code instant unit pod : Nat) (payload : List Byte) (s : State) : (pushCairn code instant unit pod payload s).out = s.out := rfl
@[simp] theorem pushCairn_pending (code instant unit pod : Nat) (payload : List Byte) (s : State) : (pushCairn code instant unit pod payload s).pending = s.pending := rfl

@[simp] theorem pushCairnIf_dev (code instant unit pod : Nat) (payload : List Byte) (s : State) : (pushCairnIf code instant unit pod payload s).dev = s.dev := by
  unfold pushCairnIf; split <;> rfl
@[simp] theorem pushCairnIf_cfg (code instant unit pod : Nat) (payload : List Byte) (s : State) : (pushCairnIf code instant unit pod payload s).cfg = s.cfg := by
  unfold pushCairnIf; split <;> rfl
@[simp] theorem pushCairnIf_inputs (code instant unit pod : Nat) (payload : List Byte) (s : State) : (pushCairnIf code instant unit pod payload s).inputs = s.inputs := by
  unfold pushCairnIf; split <;> rfl
@[simp] theorem pushCairnIf_grpMask (code instant unit pod : Nat) (payload : List Byte) (s : State) : (pushCairnIf code instant unit pod payload s).grpMask = s.grpMask := by
  unfold pushCairnIf; split <;> rfl
@[simp] theorem pushCairnIf_bcastAgree (code instant unit pod : Nat) (payload : List Byte) (s : State) : (pushCairnIf code instant unit pod payload s).bcastAgree = s.bcastAgree := by
  unfold pushCairnIf; split <;> rfl
@[simp] theorem pushCairnIf_pods (code instant unit pod : Nat) (payload : List Byte) (s : State) : (pushCairnIf code instant unit pod payload s).pods = s.pods := by
  unfold pushCairnIf; split <;> rfl
@[simp] theorem pushCairnIf_podc (code instant unit pod : Nat) (payload : List Byte) (s : State) : (pushCairnIf code instant unit pod payload s).podc = s.podc := by
  unfold pushCairnIf; split <;> rfl
@[simp] theorem pushCairnIf_fab (code instant unit pod : Nat) (payload : List Byte) (s : State) : (pushCairnIf code instant unit pod payload s).fab = s.fab := by
  unfold pushCairnIf; split <;> rfl
@[simp] theorem pushCairnIf_seqs (code instant unit pod : Nat) (payload : List Byte) (s : State) : (pushCairnIf code instant unit pod payload s).seqs = s.seqs := by
  unfold pushCairnIf; split <;> rfl
@[simp] theorem pushCairnIf_trigout (code instant unit pod : Nat) (payload : List Byte) (s : State) : (pushCairnIf code instant unit pod payload s).trigout = s.trigout := by
  unfold pushCairnIf; split <;> rfl
@[simp] theorem pushCairnIf_ring (code instant unit pod : Nat) (payload : List Byte) (s : State) : (pushCairnIf code instant unit pod payload s).ring = s.ring := by
  unfold pushCairnIf; split <;> rfl
@[simp] theorem pushCairnIf_cmp (code instant unit pod : Nat) (payload : List Byte) (s : State) : (pushCairnIf code instant unit pod payload s).cmp = s.cmp := by
  unfold pushCairnIf; split <;> rfl
@[simp] theorem pushCairnIf_eq (code instant unit pod : Nat) (payload : List Byte) (s : State) : (pushCairnIf code instant unit pod payload s).eq = s.eq := by
  unfold pushCairnIf; split <;> rfl
@[simp] theorem pushCairnIf_tal (code instant unit pod : Nat) (payload : List Byte) (s : State) : (pushCairnIf code instant unit pod payload s).tal = s.tal := by
  unfold pushCairnIf; split <;> rfl
@[simp] theorem pushCairnIf_sealer (code instant unit pod : Nat) (payload : List Byte) (s : State) : (pushCairnIf code instant unit pod payload s).sealer = s.sealer := by
  unfold pushCairnIf; split <;> rfl
@[simp] theorem pushCairnIf_tm (code instant unit pod : Nat) (payload : List Byte) (s : State) : (pushCairnIf code instant unit pod payload s).tm = s.tm := by
  unfold pushCairnIf; split <;> rfl
@[simp] theorem pushCairnIf_sch (code instant unit pod : Nat) (payload : List Byte) (s : State) : (pushCairnIf code instant unit pod payload s).sch = s.sch := by
  unfold pushCairnIf; split <;> rfl
@[simp] theorem pushCairnIf_rl (code instant unit pod : Nat) (payload : List Byte) (s : State) : (pushCairnIf code instant unit pod payload s).rl = s.rl := by
  unfold pushCairnIf; split <;> rfl
@[simp] theorem pushCairnIf_pll (code instant unit pod : Nat) (payload : List Byte) (s : State) : (pushCairnIf code instant unit pod payload s).pll = s.pll := by
  unfold pushCairnIf; split <;> rfl
@[simp] theorem pushCairnIf_pcie (code instant unit pod : Nat) (payload : List Byte) (s : State) : (pushCairnIf code instant unit pod payload s).pcie = s.pcie := by
  unfold pushCairnIf; split <;> rfl
@[simp] theorem pushCairnIf_mb (code instant unit pod : Nat) (payload : List Byte) (s : State) : (pushCairnIf code instant unit pod payload s).mb = s.mb := by
  unfold pushCairnIf; split <;> rfl
@[simp] theorem pushCairnIf_cw (code instant unit pod : Nat) (payload : List Byte) (s : State) : (pushCairnIf code instant unit pod payload s).cw = s.cw := by
  unfold pushCairnIf; split <;> rfl
@[simp] theorem pushCairnIf_summit (code instant unit pod : Nat) (payload : List Byte) (s : State) : (pushCairnIf code instant unit pod payload s).summit = s.summit := by
  unfold pushCairnIf; split <;> rfl
@[simp] theorem pushCairnIf_evt (code instant unit pod : Nat) (payload : List Byte) (s : State) : (pushCairnIf code instant unit pod payload s).evt = s.evt := by
  unfold pushCairnIf; split <;> rfl
@[simp] theorem pushCairnIf_flt (code instant unit pod : Nat) (payload : List Byte) (s : State) : (pushCairnIf code instant unit pod payload s).flt = s.flt := by
  unfold pushCairnIf; split <;> rfl
@[simp] theorem pushCairnIf_mem (code instant unit pod : Nat) (payload : List Byte) (s : State) : (pushCairnIf code instant unit pod payload s).mem = s.mem := by
  unfold pushCairnIf; split <;> rfl
@[simp] theorem pushCairnIf_snap (code instant unit pod : Nat) (payload : List Byte) (s : State) : (pushCairnIf code instant unit pod payload s).snap = s.snap := by
  unfold pushCairnIf; split <;> rfl
@[simp] theorem pushCairnIf_freeCtr (code instant unit pod : Nat) (payload : List Byte) (s : State) : (pushCairnIf code instant unit pod payload s).freeCtr = s.freeCtr := by
  unfold pushCairnIf; split <;> rfl
@[simp] theorem pushCairnIf_out (code instant unit pod : Nat) (payload : List Byte) (s : State) : (pushCairnIf code instant unit pod payload s).out = s.out := by
  unfold pushCairnIf; split <;> rfl
@[simp] theorem pushCairnIf_pending (code instant unit pod : Nat) (payload : List Byte) (s : State) : (pushCairnIf code instant unit pod payload s).pending = s.pending := by
  unfold pushCairnIf; split <;> rfl

@[simp] theorem cairnNow_dev (code : Nat) (payload : List Byte) (s : State) : (cairnNow code payload s).dev = s.dev := pushCairnIf_dev _ _ _ _ _ s
@[simp] theorem cairnNow_cfg (code : Nat) (payload : List Byte) (s : State) : (cairnNow code payload s).cfg = s.cfg := pushCairnIf_cfg _ _ _ _ _ s
@[simp] theorem cairnNow_inputs (code : Nat) (payload : List Byte) (s : State) : (cairnNow code payload s).inputs = s.inputs := pushCairnIf_inputs _ _ _ _ _ s
@[simp] theorem cairnNow_grpMask (code : Nat) (payload : List Byte) (s : State) : (cairnNow code payload s).grpMask = s.grpMask := pushCairnIf_grpMask _ _ _ _ _ s
@[simp] theorem cairnNow_bcastAgree (code : Nat) (payload : List Byte) (s : State) : (cairnNow code payload s).bcastAgree = s.bcastAgree := pushCairnIf_bcastAgree _ _ _ _ _ s
@[simp] theorem cairnNow_pods (code : Nat) (payload : List Byte) (s : State) : (cairnNow code payload s).pods = s.pods := pushCairnIf_pods _ _ _ _ _ s
@[simp] theorem cairnNow_podc (code : Nat) (payload : List Byte) (s : State) : (cairnNow code payload s).podc = s.podc := pushCairnIf_podc _ _ _ _ _ s
@[simp] theorem cairnNow_fab (code : Nat) (payload : List Byte) (s : State) : (cairnNow code payload s).fab = s.fab := pushCairnIf_fab _ _ _ _ _ s
@[simp] theorem cairnNow_seqs (code : Nat) (payload : List Byte) (s : State) : (cairnNow code payload s).seqs = s.seqs := pushCairnIf_seqs _ _ _ _ _ s
@[simp] theorem cairnNow_trigout (code : Nat) (payload : List Byte) (s : State) : (cairnNow code payload s).trigout = s.trigout := pushCairnIf_trigout _ _ _ _ _ s
@[simp] theorem cairnNow_ring (code : Nat) (payload : List Byte) (s : State) : (cairnNow code payload s).ring = s.ring := pushCairnIf_ring _ _ _ _ _ s
@[simp] theorem cairnNow_cmp (code : Nat) (payload : List Byte) (s : State) : (cairnNow code payload s).cmp = s.cmp := pushCairnIf_cmp _ _ _ _ _ s
@[simp] theorem cairnNow_eq (code : Nat) (payload : List Byte) (s : State) : (cairnNow code payload s).eq = s.eq := pushCairnIf_eq _ _ _ _ _ s
@[simp] theorem cairnNow_tal (code : Nat) (payload : List Byte) (s : State) : (cairnNow code payload s).tal = s.tal := pushCairnIf_tal _ _ _ _ _ s
@[simp] theorem cairnNow_sealer (code : Nat) (payload : List Byte) (s : State) : (cairnNow code payload s).sealer = s.sealer := pushCairnIf_sealer _ _ _ _ _ s
@[simp] theorem cairnNow_tm (code : Nat) (payload : List Byte) (s : State) : (cairnNow code payload s).tm = s.tm := pushCairnIf_tm _ _ _ _ _ s
@[simp] theorem cairnNow_sch (code : Nat) (payload : List Byte) (s : State) : (cairnNow code payload s).sch = s.sch := pushCairnIf_sch _ _ _ _ _ s
@[simp] theorem cairnNow_rl (code : Nat) (payload : List Byte) (s : State) : (cairnNow code payload s).rl = s.rl := pushCairnIf_rl _ _ _ _ _ s
@[simp] theorem cairnNow_pll (code : Nat) (payload : List Byte) (s : State) : (cairnNow code payload s).pll = s.pll := pushCairnIf_pll _ _ _ _ _ s
@[simp] theorem cairnNow_pcie (code : Nat) (payload : List Byte) (s : State) : (cairnNow code payload s).pcie = s.pcie := pushCairnIf_pcie _ _ _ _ _ s
@[simp] theorem cairnNow_mb (code : Nat) (payload : List Byte) (s : State) : (cairnNow code payload s).mb = s.mb := pushCairnIf_mb _ _ _ _ _ s
@[simp] theorem cairnNow_cw (code : Nat) (payload : List Byte) (s : State) : (cairnNow code payload s).cw = s.cw := pushCairnIf_cw _ _ _ _ _ s
@[simp] theorem cairnNow_summit (code : Nat) (payload : List Byte) (s : State) : (cairnNow code payload s).summit = s.summit := pushCairnIf_summit _ _ _ _ _ s
@[simp] theorem cairnNow_evt (code : Nat) (payload : List Byte) (s : State) : (cairnNow code payload s).evt = s.evt := pushCairnIf_evt _ _ _ _ _ s
@[simp] theorem cairnNow_flt (code : Nat) (payload : List Byte) (s : State) : (cairnNow code payload s).flt = s.flt := pushCairnIf_flt _ _ _ _ _ s
@[simp] theorem cairnNow_mem (code : Nat) (payload : List Byte) (s : State) : (cairnNow code payload s).mem = s.mem := pushCairnIf_mem _ _ _ _ _ s
@[simp] theorem cairnNow_snap (code : Nat) (payload : List Byte) (s : State) : (cairnNow code payload s).snap = s.snap := pushCairnIf_snap _ _ _ _ _ s
@[simp] theorem cairnNow_freeCtr (code : Nat) (payload : List Byte) (s : State) : (cairnNow code payload s).freeCtr = s.freeCtr := pushCairnIf_freeCtr _ _ _ _ _ s
@[simp] theorem cairnNow_out (code : Nat) (payload : List Byte) (s : State) : (cairnNow code payload s).out = s.out := pushCairnIf_out _ _ _ _ _ s
@[simp] theorem cairnNow_pending (code : Nat) (payload : List Byte) (s : State) : (cairnNow code payload s).pending = s.pending := pushCairnIf_pending _ _ _ _ _ s

@[simp] theorem pushGap_dev (cause detail pods pod start : Nat) (stop : Option Nat) (s : State) : (pushGap cause detail pods pod start stop s).dev = s.dev := rfl
@[simp] theorem pushGap_cfg (cause detail pods pod start : Nat) (stop : Option Nat) (s : State) : (pushGap cause detail pods pod start stop s).cfg = s.cfg := rfl
@[simp] theorem pushGap_inputs (cause detail pods pod start : Nat) (stop : Option Nat) (s : State) : (pushGap cause detail pods pod start stop s).inputs = s.inputs := rfl
@[simp] theorem pushGap_grpMask (cause detail pods pod start : Nat) (stop : Option Nat) (s : State) : (pushGap cause detail pods pod start stop s).grpMask = s.grpMask := rfl
@[simp] theorem pushGap_bcastAgree (cause detail pods pod start : Nat) (stop : Option Nat) (s : State) : (pushGap cause detail pods pod start stop s).bcastAgree = s.bcastAgree := rfl
@[simp] theorem pushGap_pods (cause detail pods pod start : Nat) (stop : Option Nat) (s : State) : (pushGap cause detail pods pod start stop s).pods = s.pods := rfl
@[simp] theorem pushGap_podc (cause detail pods pod start : Nat) (stop : Option Nat) (s : State) : (pushGap cause detail pods pod start stop s).podc = s.podc := rfl
@[simp] theorem pushGap_fab (cause detail pods pod start : Nat) (stop : Option Nat) (s : State) : (pushGap cause detail pods pod start stop s).fab = s.fab := rfl
@[simp] theorem pushGap_seqs (cause detail pods pod start : Nat) (stop : Option Nat) (s : State) : (pushGap cause detail pods pod start stop s).seqs = s.seqs := rfl
@[simp] theorem pushGap_trigout (cause detail pods pod start : Nat) (stop : Option Nat) (s : State) : (pushGap cause detail pods pod start stop s).trigout = s.trigout := rfl
@[simp] theorem pushGap_ring (cause detail pods pod start : Nat) (stop : Option Nat) (s : State) : (pushGap cause detail pods pod start stop s).ring = s.ring := rfl
@[simp] theorem pushGap_cmp (cause detail pods pod start : Nat) (stop : Option Nat) (s : State) : (pushGap cause detail pods pod start stop s).cmp = s.cmp := rfl
@[simp] theorem pushGap_eq (cause detail pods pod start : Nat) (stop : Option Nat) (s : State) : (pushGap cause detail pods pod start stop s).eq = s.eq := rfl
@[simp] theorem pushGap_tal (cause detail pods pod start : Nat) (stop : Option Nat) (s : State) : (pushGap cause detail pods pod start stop s).tal = s.tal := rfl
@[simp] theorem pushGap_sealer (cause detail pods pod start : Nat) (stop : Option Nat) (s : State) : (pushGap cause detail pods pod start stop s).sealer = s.sealer := rfl
@[simp] theorem pushGap_tm (cause detail pods pod start : Nat) (stop : Option Nat) (s : State) : (pushGap cause detail pods pod start stop s).tm = s.tm := rfl
@[simp] theorem pushGap_sch (cause detail pods pod start : Nat) (stop : Option Nat) (s : State) : (pushGap cause detail pods pod start stop s).sch = s.sch := rfl
@[simp] theorem pushGap_rl (cause detail pods pod start : Nat) (stop : Option Nat) (s : State) : (pushGap cause detail pods pod start stop s).rl = s.rl := rfl
@[simp] theorem pushGap_pll (cause detail pods pod start : Nat) (stop : Option Nat) (s : State) : (pushGap cause detail pods pod start stop s).pll = s.pll := rfl
@[simp] theorem pushGap_pcie (cause detail pods pod start : Nat) (stop : Option Nat) (s : State) : (pushGap cause detail pods pod start stop s).pcie = s.pcie := rfl
@[simp] theorem pushGap_mb (cause detail pods pod start : Nat) (stop : Option Nat) (s : State) : (pushGap cause detail pods pod start stop s).mb = s.mb := rfl
@[simp] theorem pushGap_cw (cause detail pods pod start : Nat) (stop : Option Nat) (s : State) : (pushGap cause detail pods pod start stop s).cw = s.cw := rfl
@[simp] theorem pushGap_summit (cause detail pods pod start : Nat) (stop : Option Nat) (s : State) : (pushGap cause detail pods pod start stop s).summit = s.summit := rfl
@[simp] theorem pushGap_evt (cause detail pods pod start : Nat) (stop : Option Nat) (s : State) : (pushGap cause detail pods pod start stop s).evt = s.evt := rfl
@[simp] theorem pushGap_flt (cause detail pods pod start : Nat) (stop : Option Nat) (s : State) : (pushGap cause detail pods pod start stop s).flt = s.flt := rfl
@[simp] theorem pushGap_mem (cause detail pods pod start : Nat) (stop : Option Nat) (s : State) : (pushGap cause detail pods pod start stop s).mem = s.mem := rfl
@[simp] theorem pushGap_snap (cause detail pods pod start : Nat) (stop : Option Nat) (s : State) : (pushGap cause detail pods pod start stop s).snap = s.snap := rfl
@[simp] theorem pushGap_freeCtr (cause detail pods pod start : Nat) (stop : Option Nat) (s : State) : (pushGap cause detail pods pod start stop s).freeCtr = s.freeCtr := rfl
@[simp] theorem pushGap_out (cause detail pods pod start : Nat) (stop : Option Nat) (s : State) : (pushGap cause detail pods pod start stop s).out = s.out := rfl
@[simp] theorem pushGap_pending (cause detail pods pod start : Nat) (stop : Option Nat) (s : State) : (pushGap cause detail pods pod start stop s).pending = s.pending := rfl

/-- Reading entry `q` after a change of entry `p`. -/
theorem podAt_modPod (p : Nat) {q : Nat} (f : Pod → Pod) (s : State) (h : q < 16) :
    podAt (modPod p f s) q = if p = q then f (podAt s q) else podAt s q :=
  tabGet_tabMod_lt s.pods f h _ _

/-- Reading entry `n` after a change of entry `m`. -/
theorem mbOf_modMb (m : Nat) {n : Nat} (f : Mailbox → Mailbox) (s : State) (h : n < 8) :
    mbOf (modMb m f s) n = if m = n then f (mbOf s n) else mbOf s n :=
  tabGet_tabMod_lt s.mb f h _ _

/-- Reading entry `j` after a change of entry `k`. -/
theorem cwOf_modCw (k : Nat) {j : Nat} (f : Window → Window) (s : State) (h : j < 8) :
    cwOf (modCw k f s) j = if k = j then f (cwOf s j) else cwOf s j :=
  tabGet_tabMod_lt s.cw f h _ _

/-- Reading entry `q` after a change of entry `p`. -/
theorem portOf_modPort (p : Nat) {q : Nat} (f : Port → Port) (s : State) (h : q < 3) :
    portOf (modPort p f s) q = if p = q then f (portOf s q) else portOf s q :=
  tabGet_tabMod_lt s.rl.ports f h _ _

end Sys2Proof.Machine
end

