-- ==== Sys2Proof/Laws/Events.lean ====
section
/-! SUPPORT. What raising an event changes, once: State.raises. Every part of the state that a raise never writes, read after
it, is a simp lemma. -/

namespace Sys2Proof.Machine

/-- Reading a RAW bit after one bit of RAW was set. -/
theorem rawBit_set (w : Word) (b x : Nat) (h : b < 32) :
    (w ||| BitVec.ofNat 32 (2 ^ b)).getLsbD x = (w.getLsbD x || decide (x = b)) := by
  by_cases hx : x < 32
  · simp only [BitVec.getLsbD_or, BitVec.getLsbD_ofNat, hx, decide_true, Bool.true_and, Nat.testBit_two_pow]
    congr 1
    exact decide_eq_decide.mpr ⟨fun e => e.symm, fun e => e.symm⟩
  · have : x ≠ b := by omega
    simp [this, BitVec.getLsbD_of_ge _ _ (Nat.le_of_not_lt hx)]

/-- An event that exists has a group below 16 and a bit below 32. -/
theorem hasEvent_lt {v : Variant} {g b : Nat} (h : hasEvent v g b = true) : g < 16 ∧ b < 32 := by
  simp only [hasEvent, Bool.and_eq_true, decide_eq_true_eq] at h
  refine ⟨h.1, Nat.lt_of_not_le fun hb => ?_⟩
  have hm : eventMask g < 2 ^ 32 := by
    obtain ⟨hg, -⟩ := h
    interval_cases g <;> decide
  have := h.2
  rw [presentEvents, Nat.testBit_and, Nat.testBit_lt_two_pow (Nat.lt_of_lt_of_le hm (Nat.pow_le_pow_right (by decide) hb))] at this
  simp at this

theorem State.raises.refl (s : State) : s.raises [] s := ⟨rfl, by simp, fun _ _ h => h, fun _ _ _ => rfl⟩

/-- Raises one after the other. -/
theorem State.raises.trans {es fs : List (Nat × Nat)} {s t u : State} (hv : t.dev.variant = s.dev.variant)
    (h : s.raises es t) (k : t.raises fs u) : s.raises (es ++ fs) u := by
  refine ⟨k.hushed.trans h.hushed, fun e he hx => ?_, fun g b hb => k.kept g b (h.kept g b hb), fun g b hn => ?_⟩
  · rcases List.mem_append.mp he with he | he
    · exact k.kept _ _ (h.marked e he hx)
    · exact k.marked e he (by rw [hv]; exact hx)
  · simp only [List.mem_append, not_or] at hn
    rw [k.others g b (by simpa using ⟨hn.1.2, hn.2⟩), h.others g b (by simpa using ⟨hn.1.1, hn.2⟩)]

/-- A state hushed like another has its variant. -/
theorem variant_of_hushed {s t : State} (h : t.hushed = s.hushed) : t.dev.variant = s.dev.variant :=
  congrArg (fun x => x.dev.variant) h

theorem State.raises.append {es fs : List (Nat × Nat)} {s t u : State} (h : s.raises es t) (k : t.raises fs u) :
    s.raises (es ++ fs) u := h.trans (variant_of_hushed h.hushed) k

/-- More events may be allowed for than were raised, if none of them exists. -/
theorem State.raises.side {e : Nat × Nat} {s t : State} (he : e ∈ sideEvents) (h : s.raises [e] t) : s.raises [] t :=
  ⟨h.hushed, by simp, h.kept, fun g b hn => h.others g b (by
    simp only [List.nil_append] at hn
    simp only [List.mem_append, List.mem_singleton, not_or]
    exact ⟨fun x => hn (x ▸ he), hn⟩)⟩

/-- An update of the log, its window, the LOG entries and the pending vectors alone. -/
theorem raises_quiet {s t : State} (h : t.hushed = s.hushed) (hr : t.evt.raw = s.evt.raw) : s.raises [] t :=
  ⟨h, by simp, by simp [State.rawBit, hr], by simp [State.rawBit, hr]⟩

theorem tabMod_tabMod {n : Nat} {α : Type} (t : Tab n α) (i : Nat) (f g : α → α) :
    tabMod (tabMod t i f) i g = tabMod t i (g ∘ f) := by
  unfold tabMod
  split <;> simp

@[simp] theorem logEntry_hushed (kind eflags code : Nat) (data : List Byte) (s : State) :
    (logEntry kind eflags code data s).hushed = s.hushed := by
  simp [logEntry, State.hushed, modCw, tabMod_tabMod, Function.comp_def]

@[simp] theorem logEntry_raw (kind eflags code : Nat) (data : List Byte) (s : State) :
    (logEntry kind eflags code data s).evt.raw = s.evt.raw := by
  simp [logEntry]

@[simp] theorem logCopy_hushed (kind code : Nat) (s : State) : (logCopy kind code s).hushed = s.hushed := by
  unfold logCopy
  split
  · split
    · rfl
    · split <;> rfl
  · rfl

@[simp] theorem logCopy_raw (kind code : Nat) (s : State) : (logCopy kind code s).evt.raw = s.evt.raw := by
  unfold logCopy
  split
  · split
    · rfl
    · split <;> rfl
  · rfl

theorem raises_raiseOne (forced : Bool) (g b : Nat) (data : List Byte) (s : State) :
    s.raises [(g, b)] (raiseOne forced g b data s) := by
  by_cases hx : hasEvent s.dev.variant g b = true
  · obtain ⟨hg, hb⟩ := hasEvent_lt hx
    have hr : (raiseOne forced g b data s).evt.raw = tabMod s.evt.raw g fun w => w ||| BitVec.ofNat 32 (2 ^ b) := by
      simp only [raiseOne, hx, if_true]
      split <;> simp only [pendVector, logCopy_raw, logEntry_raw]
    have hbit : ∀ x y, (raiseOne forced g b data s).rawBit x y = (s.rawBit x y || decide ((x, y) = (g, b))) := by
      intro x y
      rw [State.rawBit, hr, tabGet_tabMod]
      by_cases hxg : x = g
      · subst hxg
        rw [if_pos ⟨rfl, hg⟩, rawBit_set _ _ _ hb]
        simp [State.rawBit]
      · simp [hxg, State.rawBit]
    refine ⟨?_, ?_, ?_, ?_⟩
    · simp only [raiseOne, hx, if_true]
      split
      · exact (logCopy_hushed _ _ _).trans (logEntry_hushed _ _ _ _ _)
      · exact (logCopy_hushed _ _ _).trans (logEntry_hushed _ _ _ _ _)
    · intro e he _
      simp [hbit, List.mem_singleton.mp he]
    · intro x y h
      simp [hbit, h]
    · intro x y h
      simp only [List.mem_append, List.mem_singleton, not_or] at h
      simp [hbit, h.1]
  · refine ⟨?_, ?_, ?_, ?_⟩ <;> simp [raiseOne, hx]

theorem raises_raiseOverflow (before : State) (kind code : Nat) (s : State) :
    s.raises [] (raiseOverflow before kind code s) := by
  unfold raiseOverflow
  split
  · exact (raises_raiseOne _ _ _ _ s).side (by simp [sideEvents])
  · exact .refl s

theorem raises_raiseLogReady (before s : State) : s.raises [] (raiseLogReady before s) := by
  unfold raiseLogReady
  split
  · exact (raises_raiseOne _ _ _ _ s).side (by simp [sideEvents])
  · exact .refl s

/-- What a raise does. -/
theorem raises_raiseWith (forced : Bool) (g b : Nat) (data : List Byte) (s : State) :
    s.raises [(g, b)] (raiseWith forced g b data s) := by
  unfold raiseWith
  split
  · exact ((raises_raiseOne forced g b data s).append (raises_raiseOverflow s _ _ _)).append (raises_raiseLogReady s _)
  · rename_i hx
    exact ⟨rfl, fun e he h => absurd (by rw [List.mem_singleton.mp he] at h; exact h) hx, fun _ _ h => h, fun _ _ _ => rfl⟩

theorem raises_raise (g b : Nat) (s : State) : s.raises [(g, b)] (raise g b s) := raises_raiseWith false g b [] s

/-- A fault's log entry raises no event of its own. -/
theorem raises_logFault (source severity : Nat) (info : Word) (injected : Bool) (s : State) :
    s.raises [] (logFault source severity info injected s) := by
  unfold logFault
  dsimp only
  refine State.raises.append (es := []) (fs := []) (State.raises.append (es := []) (fs := []) (raises_quiet ?_ ?_)
    (raises_raiseOverflow s _ _ _)) (raises_raiseLogReady s _)
  · exact (logCopy_hushed _ _ _).trans (logEntry_hushed _ _ _ _ _)
  · simp

@[simp] theorem raiseWith_hushed (forced : Bool) (g b : Nat) (data : List Byte) (s : State) :
    (raiseWith forced g b data s).hushed = s.hushed := (raises_raiseWith forced g b data s).hushed

@[simp] theorem raise_hushed (g b : Nat) (s : State) : (raise g b s).hushed = s.hushed := raiseWith_hushed false g b [] s

@[simp] theorem logFault_hushed (source severity : Nat) (info : Word) (injected : Bool) (s : State) :
    (logFault source severity info injected s).hushed = s.hushed := (raises_logFault source severity info injected s).hushed

/-! ## The parts a raise never writes -/

@[simp] theorem raiseWith_dev (forced : Bool) (g b : Nat) (data : List Byte) (s : State) : (raiseWith forced g b data s).dev = s.dev :=
  congrArg (·.dev) (raiseWith_hushed forced g b data s)
@[simp] theorem raiseWith_cfg (forced : Bool) (g b : Nat) (data : List Byte) (s : State) : (raiseWith forced g b data s).cfg = s.cfg :=
  congrArg (·.cfg) (raiseWith_hushed forced g b data s)
@[simp] theorem raiseWith_inputs (forced : Bool) (g b : Nat) (data : List Byte) (s : State) : (raiseWith forced g b data s).inputs = s.inputs :=
  congrArg (·.inputs) (raiseWith_hushed forced g b data s)
@[simp] theorem raiseWith_grpMask (forced : Bool) (g b : Nat) (data : List Byte) (s : State) : (raiseWith forced g b data s).grpMask = s.grpMask :=
  congrArg (·.grpMask) (raiseWith_hushed forced g b data s)
@[simp] theorem raiseWith_bcastAgree (forced : Bool) (g b : Nat) (data : List Byte) (s : State) : (raiseWith forced g b data s).bcastAgree = s.bcastAgree :=
  congrArg (·.bcastAgree) (raiseWith_hushed forced g b data s)
@[simp] theorem raiseWith_pods (forced : Bool) (g b : Nat) (data : List Byte) (s : State) : (raiseWith forced g b data s).pods = s.pods :=
  congrArg (·.pods) (raiseWith_hushed forced g b data s)
@[simp] theorem raiseWith_podc (forced : Bool) (g b : Nat) (data : List Byte) (s : State) : (raiseWith forced g b data s).podc = s.podc :=
  congrArg (·.podc) (raiseWith_hushed forced g b data s)
@[simp] theorem raiseWith_fab (forced : Bool) (g b : Nat) (data : List Byte) (s : State) : (raiseWith forced g b data s).fab = s.fab :=
  congrArg (·.fab) (raiseWith_hushed forced g b data s)
@[simp] theorem raiseWith_seqs (forced : Bool) (g b : Nat) (data : List Byte) (s : State) : (raiseWith forced g b data s).seqs = s.seqs :=
  congrArg (·.seqs) (raiseWith_hushed forced g b data s)
@[simp] theorem raiseWith_trigout (forced : Bool) (g b : Nat) (data : List Byte) (s : State) : (raiseWith forced g b data s).trigout = s.trigout :=
  congrArg (·.trigout) (raiseWith_hushed forced g b data s)
@[simp] theorem raiseWith_ring (forced : Bool) (g b : Nat) (data : List Byte) (s : State) : (raiseWith forced g b data s).ring = s.ring :=
  congrArg (·.ring) (raiseWith_hushed forced g b data s)
@[simp] theorem raiseWith_cmp (forced : Bool) (g b : Nat) (data : List Byte) (s : State) : (raiseWith forced g b data s).cmp = s.cmp :=
  congrArg (·.cmp) (raiseWith_hushed forced g b data s)
@[simp] theorem raiseWith_eq (forced : Bool) (g b : Nat) (data : List Byte) (s : State) : (raiseWith forced g b data s).eq = s.eq :=
  congrArg (·.eq) (raiseWith_hushed forced g b data s)
@[simp] theorem raiseWith_tal (forced : Bool) (g b : Nat) (data : List Byte) (s : State) : (raiseWith forced g b data s).tal = s.tal :=
  congrArg (·.tal) (raiseWith_hushed forced g b data s)
@[simp] theorem raiseWith_sealer (forced : Bool) (g b : Nat) (data : List Byte) (s : State) : (raiseWith forced g b data s).sealer = s.sealer :=
  congrArg (·.sealer) (raiseWith_hushed forced g b data s)
@[simp] theorem raiseWith_tm (forced : Bool) (g b : Nat) (data : List Byte) (s : State) : (raiseWith forced g b data s).tm = s.tm :=
  congrArg (·.tm) (raiseWith_hushed forced g b data s)
@[simp] theorem raiseWith_sch (forced : Bool) (g b : Nat) (data : List Byte) (s : State) : (raiseWith forced g b data s).sch = s.sch :=
  congrArg (·.sch) (raiseWith_hushed forced g b data s)
@[simp] theorem raiseWith_rl (forced : Bool) (g b : Nat) (data : List Byte) (s : State) : (raiseWith forced g b data s).rl = s.rl :=
  congrArg (·.rl) (raiseWith_hushed forced g b data s)
@[simp] theorem raiseWith_pll (forced : Bool) (g b : Nat) (data : List Byte) (s : State) : (raiseWith forced g b data s).pll = s.pll :=
  congrArg (·.pll) (raiseWith_hushed forced g b data s)
@[simp] theorem raiseWith_mb (forced : Bool) (g b : Nat) (data : List Byte) (s : State) : (raiseWith forced g b data s).mb = s.mb :=
  congrArg (·.mb) (raiseWith_hushed forced g b data s)
@[simp] theorem raiseWith_summit (forced : Bool) (g b : Nat) (data : List Byte) (s : State) : (raiseWith forced g b data s).summit = s.summit :=
  congrArg (·.summit) (raiseWith_hushed forced g b data s)
@[simp] theorem raiseWith_flt (forced : Bool) (g b : Nat) (data : List Byte) (s : State) : (raiseWith forced g b data s).flt = s.flt :=
  congrArg (·.flt) (raiseWith_hushed forced g b data s)
@[simp] theorem raiseWith_mem (forced : Bool) (g b : Nat) (data : List Byte) (s : State) : (raiseWith forced g b data s).mem = s.mem :=
  congrArg (·.mem) (raiseWith_hushed forced g b data s)
@[simp] theorem raiseWith_snap (forced : Bool) (g b : Nat) (data : List Byte) (s : State) : (raiseWith forced g b data s).snap = s.snap :=
  congrArg (·.snap) (raiseWith_hushed forced g b data s)
@[simp] theorem raiseWith_freeCtr (forced : Bool) (g b : Nat) (data : List Byte) (s : State) : (raiseWith forced g b data s).freeCtr = s.freeCtr :=
  congrArg (·.freeCtr) (raiseWith_hushed forced g b data s)
@[simp] theorem raiseWith_out (forced : Bool) (g b : Nat) (data : List Byte) (s : State) : (raiseWith forced g b data s).out = s.out :=
  congrArg (·.out) (raiseWith_hushed forced g b data s)
@[simp] theorem raiseWith_pending (forced : Bool) (g b : Nat) (data : List Byte) (s : State) : (raiseWith forced g b data s).pending = s.pending :=
  congrArg (·.pending) (raiseWith_hushed forced g b data s)

@[simp] theorem raise_dev (g b : Nat) (s : State) : (raise g b s).dev = s.dev :=
  congrArg (·.dev) (raise_hushed g b s)
@[simp] theorem raise_cfg (g b : Nat) (s : State) : (raise g b s).cfg = s.cfg :=
  congrArg (·.cfg) (raise_hushed g b s)
@[simp] theorem raise_inputs (g b : Nat) (s : State) : (raise g b s).inputs = s.inputs :=
  congrArg (·.inputs) (raise_hushed g b s)
@[simp] theorem raise_grpMask (g b : Nat) (s : State) : (raise g b s).grpMask = s.grpMask :=
  congrArg (·.grpMask) (raise_hushed g b s)
@[simp] theorem raise_bcastAgree (g b : Nat) (s : State) : (raise g b s).bcastAgree = s.bcastAgree :=
  congrArg (·.bcastAgree) (raise_hushed g b s)
@[simp] theorem raise_pods (g b : Nat) (s : State) : (raise g b s).pods = s.pods :=
  congrArg (·.pods) (raise_hushed g b s)
@[simp] theorem raise_podc (g b : Nat) (s : State) : (raise g b s).podc = s.podc :=
  congrArg (·.podc) (raise_hushed g b s)
@[simp] theorem raise_fab (g b : Nat) (s : State) : (raise g b s).fab = s.fab :=
  congrArg (·.fab) (raise_hushed g b s)
@[simp] theorem raise_seqs (g b : Nat) (s : State) : (raise g b s).seqs = s.seqs :=
  congrArg (·.seqs) (raise_hushed g b s)
@[simp] theorem raise_trigout (g b : Nat) (s : State) : (raise g b s).trigout = s.trigout :=
  congrArg (·.trigout) (raise_hushed g b s)
@[simp] theorem raise_ring (g b : Nat) (s : State) : (raise g b s).ring = s.ring :=
  congrArg (·.ring) (raise_hushed g b s)
@[simp] theorem raise_cmp (g b : Nat) (s : State) : (raise g b s).cmp = s.cmp :=
  congrArg (·.cmp) (raise_hushed g b s)
@[simp] theorem raise_eq (g b : Nat) (s : State) : (raise g b s).eq = s.eq :=
  congrArg (·.eq) (raise_hushed g b s)
@[simp] theorem raise_tal (g b : Nat) (s : State) : (raise g b s).tal = s.tal :=
  congrArg (·.tal) (raise_hushed g b s)
@[simp] theorem raise_sealer (g b : Nat) (s : State) : (raise g b s).sealer = s.sealer :=
  congrArg (·.sealer) (raise_hushed g b s)
@[simp] theorem raise_tm (g b : Nat) (s : State) : (raise g b s).tm = s.tm :=
  congrArg (·.tm) (raise_hushed g b s)
@[simp] theorem raise_sch (g b : Nat) (s : State) : (raise g b s).sch = s.sch :=
  congrArg (·.sch) (raise_hushed g b s)
@[simp] theorem raise_rl (g b : Nat) (s : State) : (raise g b s).rl = s.rl :=
  congrArg (·.rl) (raise_hushed g b s)
@[simp] theorem raise_pll (g b : Nat) (s : State) : (raise g b s).pll = s.pll :=
  congrArg (·.pll) (raise_hushed g b s)
@[simp] theorem raise_mb (g b : Nat) (s : State) : (raise g b s).mb = s.mb :=
  congrArg (·.mb) (raise_hushed g b s)
@[simp] theorem raise_summit (g b : Nat) (s : State) : (raise g b s).summit = s.summit :=
  congrArg (·.summit) (raise_hushed g b s)
@[simp] theorem raise_flt (g b : Nat) (s : State) : (raise g b s).flt = s.flt :=
  congrArg (·.flt) (raise_hushed g b s)
@[simp] theorem raise_mem (g b : Nat) (s : State) : (raise g b s).mem = s.mem :=
  congrArg (·.mem) (raise_hushed g b s)
@[simp] theorem raise_snap (g b : Nat) (s : State) : (raise g b s).snap = s.snap :=
  congrArg (·.snap) (raise_hushed g b s)
@[simp] theorem raise_freeCtr (g b : Nat) (s : State) : (raise g b s).freeCtr = s.freeCtr :=
  congrArg (·.freeCtr) (raise_hushed g b s)
@[simp] theorem raise_out (g b : Nat) (s : State) : (raise g b s).out = s.out :=
  congrArg (·.out) (raise_hushed g b s)
@[simp] theorem raise_pending (g b : Nat) (s : State) : (raise g b s).pending = s.pending :=
  congrArg (·.pending) (raise_hushed g b s)

@[simp] theorem logFault_dev (source severity : Nat) (info : Word) (injected : Bool) (s : State) : (logFault source severity info injected s).dev = s.dev :=
  congrArg (·.dev) (logFault_hushed source severity info injected s)
@[simp] theorem logFault_cfg (source severity : Nat) (info : Word) (injected : Bool) (s : State) : (logFault source severity info injected s).cfg = s.cfg :=
  congrArg (·.cfg) (logFault_hushed source severity info injected s)
@[simp] theorem logFault_inputs (source severity : Nat) (info : Word) (injected : Bool) (s : State) : (logFault source severity info injected s).inputs = s.inputs :=
  congrArg (·.inputs) (logFault_hushed source severity info injected s)
@[simp] theorem logFault_grpMask (source severity : Nat) (info : Word) (injected : Bool) (s : State) : (logFault source severity info injected s).grpMask = s.grpMask :=
  congrArg (·.grpMask) (logFault_hushed source severity info injected s)
@[simp] theorem logFault_bcastAgree (source severity : Nat) (info : Word) (injected : Bool) (s : State) : (logFault source severity info injected s).bcastAgree = s.bcastAgree :=
  congrArg (·.bcastAgree) (logFault_hushed source severity info injected s)
@[simp] theorem logFault_pods (source severity : Nat) (info : Word) (injected : Bool) (s : State) : (logFault source severity info injected s).pods = s.pods :=
  congrArg (·.pods) (logFault_hushed source severity info injected s)
@[simp] theorem logFault_podc (source severity : Nat) (info : Word) (injected : Bool) (s : State) : (logFault source severity info injected s).podc = s.podc :=
  congrArg (·.podc) (logFault_hushed source severity info injected s)
@[simp] theorem logFault_fab (source severity : Nat) (info : Word) (injected : Bool) (s : State) : (logFault source severity info injected s).fab = s.fab :=
  congrArg (·.fab) (logFault_hushed source severity info injected s)
@[simp] theorem logFault_seqs (source severity : Nat) (info : Word) (injected : Bool) (s : State) : (logFault source severity info injected s).seqs = s.seqs :=
  congrArg (·.seqs) (logFault_hushed source severity info injected s)
@[simp] theorem logFault_trigout (source severity : Nat) (info : Word) (injected : Bool) (s : State) : (logFault source severity info injected s).trigout = s.trigout :=
  congrArg (·.trigout) (logFault_hushed source severity info injected s)
@[simp] theorem logFault_ring (source severity : Nat) (info : Word) (injected : Bool) (s : State) : (logFault source severity info injected s).ring = s.ring :=
  congrArg (·.ring) (logFault_hushed source severity info injected s)
@[simp] theorem logFault_cmp (source severity : Nat) (info : Word) (injected : Bool) (s : State) : (logFault source severity info injected s).cmp = s.cmp :=
  congrArg (·.cmp) (logFault_hushed source severity info injected s)
@[simp] theorem logFault_eq (source severity : Nat) (info : Word) (injected : Bool) (s : State) : (logFault source severity info injected s).eq = s.eq :=
  congrArg (·.eq) (logFault_hushed source severity info injected s)
@[simp] theorem logFault_tal (source severity : Nat) (info : Word) (injected : Bool) (s : State) : (logFault source severity info injected s).tal = s.tal :=
  congrArg (·.tal) (logFault_hushed source severity info injected s)
@[simp] theorem logFault_sealer (source severity : Nat) (info : Word) (injected : Bool) (s : State) : (logFault source severity info injected s).sealer = s.sealer :=
  congrArg (·.sealer) (logFault_hushed source severity info injected s)
@[simp] theorem logFault_tm (source severity : Nat) (info : Word) (injected : Bool) (s : State) : (logFault source severity info injected s).tm = s.tm :=
  congrArg (·.tm) (logFault_hushed source severity info injected s)
@[simp] theorem logFault_sch (source severity : Nat) (info : Word) (injected : Bool) (s : State) : (logFault source severity info injected s).sch = s.sch :=
  congrArg (·.sch) (logFault_hushed source severity info injected s)
@[simp] theorem logFault_rl (source severity : Nat) (info : Word) (injected : Bool) (s : State) : (logFault source severity info injected s).rl = s.rl :=
  congrArg (·.rl) (logFault_hushed source severity info injected s)
@[simp] theorem logFault_pll (source severity : Nat) (info : Word) (injected : Bool) (s : State) : (logFault source severity info injected s).pll = s.pll :=
  congrArg (·.pll) (logFault_hushed source severity info injected s)
@[simp] theorem logFault_mb (source severity : Nat) (info : Word) (injected : Bool) (s : State) : (logFault source severity info injected s).mb = s.mb :=
  congrArg (·.mb) (logFault_hushed source severity info injected s)
@[simp] theorem logFault_summit (source severity : Nat) (info : Word) (injected : Bool) (s : State) : (logFault source severity info injected s).summit = s.summit :=
  congrArg (·.summit) (logFault_hushed source severity info injected s)
@[simp] theorem logFault_flt (source severity : Nat) (info : Word) (injected : Bool) (s : State) : (logFault source severity info injected s).flt = s.flt :=
  congrArg (·.flt) (logFault_hushed source severity info injected s)
@[simp] theorem logFault_mem (source severity : Nat) (info : Word) (injected : Bool) (s : State) : (logFault source severity info injected s).mem = s.mem :=
  congrArg (·.mem) (logFault_hushed source severity info injected s)
@[simp] theorem logFault_snap (source severity : Nat) (info : Word) (injected : Bool) (s : State) : (logFault source severity info injected s).snap = s.snap :=
  congrArg (·.snap) (logFault_hushed source severity info injected s)
@[simp] theorem logFault_freeCtr (source severity : Nat) (info : Word) (injected : Bool) (s : State) : (logFault source severity info injected s).freeCtr = s.freeCtr :=
  congrArg (·.freeCtr) (logFault_hushed source severity info injected s)
@[simp] theorem logFault_out (source severity : Nat) (info : Word) (injected : Bool) (s : State) : (logFault source severity info injected s).out = s.out :=
  congrArg (·.out) (logFault_hushed source severity info injected s)
@[simp] theorem logFault_pending (source severity : Nat) (info : Word) (injected : Bool) (s : State) : (logFault source severity info injected s).pending = s.pending :=
  congrArg (·.pending) (logFault_hushed source severity info injected s)

end Sys2Proof.Machine
end

