-- ==== Sys2Proof/Laws/Memory.lean ====
section
/-! SUPPORT. The laws of a memory: every operation keeps the canonical form, a read after a write of the same byte gives the
byte written, and a write leaves every other byte alone. -/

namespace Sys2Proof.Machine

theorem mem_cellsOf {c : Host.Cell} : ∀ {bs : List Byte} {a : Nat},
    c ∈ cellsOf a bs → a ≤ c.1 ∧ c.1 < a + bs.length ∧ c.2 ≠ 0
  | [], _, h => by simp [cellsOf] at h
  | b :: bs, a, h => by
    unfold cellsOf at h
    split at h
    · have := mem_cellsOf h
      simp only [List.length_cons]
      exact ⟨by omega, by omega, this.2.2⟩
    · rcases List.mem_cons.mp h with rfl | h
      · rename_i hb
        exact ⟨Nat.le_refl _, by simp, hb⟩
      · have := mem_cellsOf h
        simp only [List.length_cons]
        exact ⟨by omega, by omega, this.2.2⟩

theorem cellsOf_sorted : ∀ (bs : List Byte) (a : Nat), (cellsOf a bs).Pairwise fun c d => c.1 < d.1
  | [], _ => by simp [cellsOf]
  | b :: bs, a => by
    unfold cellsOf
    split
    · exact cellsOf_sorted bs (a + 1)
    · refine List.Pairwise.cons (fun d hd => ?_) (cellsOf_sorted bs (a + 1))
      have := mem_cellsOf hd
      show a < d.1
      omega

/-- The canonical form says: strictly rising addresses, no zero byte. -/
theorem Memory.wf_iff {m : List Host.Cell} :
    Memory.wf m = true ↔ (m.Pairwise fun c d => c.1 < d.1) ∧ ∀ c ∈ m, c.2 ≠ 0 := by
  simp [Memory.wf]

@[simp] theorem Memory.wf_nil : Memory.wf [] = true := rfl

/-- A write keeps the canonical form. -/
theorem memWrite_wf {m : List Host.Cell} (h : Memory.wf m = true) (a : Nat) (bs : List Byte) :
    Memory.wf (memWrite m a bs) = true := by
  obtain ⟨hs, hz⟩ := Memory.wf_iff.mp h
  refine Memory.wf_iff.mpr ⟨?_, fun c hc => ?_⟩
  · unfold memWrite
    refine List.pairwise_append.mpr ⟨List.pairwise_append.mpr ⟨hs.filter _, cellsOf_sorted bs a, ?_⟩, hs.filter _, ?_⟩
    · intro c hc d hd
      have h1 : c.1 < a := by simpa using (List.mem_filter.mp hc).2
      have h2 := mem_cellsOf hd
      omega
    · intro c hc d hd
      have h2 : a + bs.length ≤ d.1 := by simpa using (List.mem_filter.mp hd).2
      rcases List.mem_append.mp hc with hc | hc
      · have h1 : c.1 < a := by simpa using (List.mem_filter.mp hc).2
        omega
      · have h1 := mem_cellsOf hc
        omega
  · simp only [memWrite, List.mem_append, List.mem_filter] at hc
    rcases hc with (hc | hc) | hc
    · exact hz c hc.1
    · exact (mem_cellsOf hc).2.2
    · exact hz c hc.1

/-- A write with byte enables keeps the canonical form. -/
theorem memWriteEn_wf : ∀ (bs : List (Option Byte)) {m : List Host.Cell} (_ : Memory.wf m = true) (a : Nat),
    Memory.wf (memWriteEn m a bs) = true
  | [], _, h, _ => h
  | none :: bs, _, h, a => memWriteEn_wf bs h (a + 1)
  | some b :: bs, _, h, a => memWriteEn_wf bs (memWrite_wf h a [b]) (a + 1)

/-- A write that wraps at the memory's end keeps the canonical form. -/
theorem memWriteMod_wf {m : List Host.Cell} (h : Memory.wf m = true) (cap p : Nat) (bs : List Byte) :
    Memory.wf (memWriteMod cap m p bs) = true := by
  unfold memWriteMod
  dsimp only
  split
  · exact memWrite_wf h _ _
  · exact memWrite_wf (memWrite_wf h _ _) _ _

/-- Reading a byte is finding its cell. -/
theorem memByte_append (m n : List Host.Cell) (a : Nat) (h : ∀ c ∈ m, c.1 ≠ a) : memByte (m ++ n) a = memByte n a := by
  have : m.find? (fun c => c.1 == a) = none := by simpa using h
  simp [memByte, List.find?_append, this]

theorem memByte_append_left (m n : List Host.Cell) (a : Nat) (h : ∀ c ∈ n, c.1 ≠ a) : memByte (m ++ n) a = memByte m a := by
  have hn : n.find? (fun c => c.1 == a) = none := by simpa using h
  unfold memByte
  rw [List.find?_append, hn]
  cases m.find? (fun c => c.1 == a) <;> rfl

theorem memByte_filter (m : List Host.Cell) (p : Host.Cell → Bool) (a : Nat) (h : ∀ c : Host.Cell, c.1 = a → p c = true) :
    memByte (m.filter p) a = memByte m a := by
  induction m with
  | nil => rfl
  | cons c m ih =>
    by_cases hc : c.1 = a
    · simp [memByte, h c hc, hc]
    · have hb : (c.1 == a) = false := by simpa using hc
      by_cases hp : p c = true
      · simpa [memByte, List.filter_cons, hp, List.find?_cons, hb] using ih
      · simpa [memByte, List.filter_cons, hp, List.find?_cons, hb] using ih

theorem memByte_cellsOf : ∀ (bs : List Byte) (a k : Nat), k < bs.length → memByte (cellsOf a bs) (a + k) = bs.getD k 0
  | [], _, _, h => by simp at h
  | b :: bs, a, 0, _ => by
    unfold cellsOf
    split
    · rename_i hb
      have : (cellsOf (a + 1) bs).find? (fun c => c.1 == a) = none := by
        simp only [List.find?_eq_none, beq_iff_eq]
        intro c hc
        have := mem_cellsOf hc
        omega
      simp [memByte, this, hb]
    · simp [memByte]
  | b :: bs, a, k + 1, h => by
    have h' : k < bs.length := by simpa using h
    have ih := memByte_cellsOf bs (a + 1) k h'
    have ha : a + 1 + k = a + (k + 1) := by omega
    rw [ha] at ih
    unfold cellsOf
    split
    · simpa using ih
    · have hne : (a == a + (k + 1)) = false := by simp
      simpa [memByte, List.find?_cons, hne] using ih

/-- A byte inside a write reads as written. -/
theorem memByte_memWrite_in (m : List Host.Cell) (a k : Nat) (bs : List Byte) (h : k < bs.length) :
    memByte (memWrite m a bs) (a + k) = bs.getD k 0 := by
  unfold memWrite
  rw [memByte_append_left, memByte_append, memByte_cellsOf bs a k h]
  · intro c hc
    have : c.1 < a := by simpa using (List.mem_filter.mp hc).2
    omega
  · intro c hc
    have : a + bs.length ≤ c.1 := by simpa using (List.mem_filter.mp hc).2
    omega

/-- A byte outside a write reads as before. -/
theorem memByte_memWrite_out (m : List Host.Cell) (a x : Nat) (bs : List Byte) (h : x < a ∨ a + bs.length ≤ x) :
    memByte (memWrite m a bs) x = memByte m x := by
  have hc : ∀ c ∈ cellsOf a bs, c.1 ≠ x := by
    intro c hc
    have := mem_cellsOf hc
    omega
  unfold memWrite
  rcases h with h | h
  · rw [List.append_assoc, memByte_append_left, memByte_filter]
    · intro c hx
      simp; omega
    · intro c hm
      rcases List.mem_append.mp hm with hm | hm
      · exact hc c hm
      · have : a + bs.length ≤ c.1 := by simpa using (List.mem_filter.mp hm).2
        omega
  · rw [memByte_append, memByte_filter]
    · intro c hx
      simp; omega
    · intro c hm
      rcases List.mem_append.mp hm with hm | hm
      · have : c.1 < a := by simpa using (List.mem_filter.mp hm).2
        omega
      · exact hc c hm

/-- What was written is read back. -/
theorem memRead_memWrite (m : List Host.Cell) (a : Nat) (bs : List Byte) :
    memRead (memWrite m a bs) a bs.length = bs := by
  apply List.ext_getElem
  · simp [memRead]
  · intro i h1 h2
    simp [memRead, memByte_memWrite_in m a i bs h2, h2]

/-- A disjoint read is unchanged by a write. -/
theorem memRead_memWrite_out (m : List Host.Cell) (a x n : Nat) (bs : List Byte) (h : x + n ≤ a ∨ a + bs.length ≤ x) :
    memRead (memWrite m a bs) x n = memRead m x n := by
  unfold memRead
  apply List.map_congr_left
  intro i hi
  have := List.mem_range.mp hi
  exact memByte_memWrite_out m a (x + i) bs (by omega)

end Sys2Proof.Machine
end

