-- ==== Sys2Proof/Laws/Mailbox.lean ====
section
/-! SUPPORT. How a mailbox command completes, once: State.completes for a command the host rang itself. -/

namespace Sys2Proof.Machine

@[simp] theorem padTo_length (n : Nat) (bs : List Byte) : (padTo n bs).length = n := by
  simp [padTo]; omega

theorem hasEvent_mbDone (v : Variant) {m : Nat} (hm : m < 8) : hasEvent v 0 m = true := by
  interval_cases m <;> cases v <;> decide

/-- A release of claims, seen from what a completion does not write. -/
theorem cwRelease_frame (m : Nat) (s : State) :
    ∃ c : Tab 8 Window, cwRelease m s = { s with cw := c } ∧
      (c.map fun w => { w with claimed := false, out := [] }) = s.cw.map fun w => { w with claimed := false, out := [] } := by
  unfold cwRelease
  generalize List.range 7 = l
  induction l using List.reverseRecOn with
  | nil => exact ⟨s.cw, rfl, rfl⟩
  | append_singleton l k ih =>
    obtain ⟨c, h, hc⟩ := ih
    rw [List.foldl_append, h]
    refine ⟨_, rfl, ?_⟩
    rw [← hc]
    unfold tabMod
    split
    · refine Vector.ext fun i hi => ?_
      simp only [Vector.getElem_map, Vector.getElem_set]
      split
      · subst_vars
        split <;> simp_all
      · rfl
    · rfl

theorem map_tabMod {n : Nat} {α β : Type} (t : Tab n α) (i : Nat) (f : α → α) (g : α → β) (f' : β → β)
    (h : ∀ x, g (f x) = f' (g x)) : (tabMod t i f).map g = tabMod (t.map g) i f' := by
  unfold tabMod
  split
  · refine Vector.ext fun j hj => ?_
    simp only [Vector.getElem_map, Vector.getElem_set]
    split <;> simp_all
  · rfl

/-- States that agree but for the mailbox, the scratchpad, injected corruption and claims. -/
theorem unanswered_of {m : Nat} {s : State} {c : Tab 8 Window} {sp : List Host.Cell} {co : List (Nat × Nat × Nat)}
    {f : Mailbox → Mailbox}
    (hc : (c.map fun w => { w with claimed := false, out := [] }) = s.cw.map fun w => { w with claimed := false, out := [] }) :
    State.unanswered m { s with
      cw := c, summit := { s.summit with scratchpad := sp }, mem := { s.mem with corrupt := co }, mb := tabMod s.mb m f } =
    State.unanswered m s := by
  have h7 := fun d : Tab 8 Window =>
    map_tabMod d 7 (fun w => { w with prod := 0, cons := 0 }) (fun w => { w with claimed := false, out := [] })
      (fun w => { w with prod := 0, cons := 0 }) fun _ => rfl
  simp only [State.unanswered, State.hushed, tabMod_tabMod, h7, hc, Function.comp_def]

/-- How a command that the host rang itself completes. -/
theorem mbComplete_completes {m : Nat} (hm : m < 8) (r : Reply) {s : State} (ht : (mbOf s m).tunnel = none) :
    s.completes m r.status r.detail r.body (mbComplete m r s) := by
  obtain ⟨c, hr, hc⟩ := cwRelease_frame m s
  let f : Mailbox → Mailbox := fun q => { q with
    state := .done, status := r.status, detail := r.detail, time := mbMicros (mbOf s m) s, keyClass := 0, key := 0 }
  have he : mbComplete m r s =
      raise 0 m (modMb m f (scratchWrite (256 * m) (padTo 256 r.body) { s with cw := c })) := by
    simp only [mbComplete, ht, hr]
    rfl
  have hR := raises_raise 0 m (modMb m f (scratchWrite (256 * m) (padTo 256 r.body) { s with cw := c }))
  rw [← he] at hR
  have hmb : (mbComplete m r s).mb = tabMod s.mb m f := by rw [he, raise_mb]; rfl
  have hsp : (mbComplete m r s).summit.scratchpad = memWrite s.summit.scratchpad (256 * m) (padTo 256 r.body) := by
    rw [he, raise_summit]; rfl
  have hq : mbOf (mbComplete m r s) m = f (mbOf s m) := by
    unfold mbOf
    rw [hmb, tabGet_tabMod_lt s.mb f hm _ s.mb[0], if_pos rfl]
  refine ⟨?_, ?_, ?_, ?_, ?_, ?_, ?_, ?_⟩
  · rw [State.answered, hq]
    exact ⟨rfl, rfl⟩
  · rw [hq]
  · rw [hsp]
    simpa using memRead_memWrite s.summit.scratchpad (256 * m) (padTo 256 r.body)
  · intro a ha
    rw [hsp]
    exact memByte_memWrite_out _ _ _ _ (by simpa using ha)
  · exact hR.marked (0, m) (by simp) (hasEvent_mbDone _ hm)
  · exact fun g b h => hR.kept g b h
  · exact fun g b h => hR.others g b (by simpa using h)
  · have hu : ∀ {x y : State}, x.hushed = y.hushed → x.unanswered m = y.unanswered m := by
      intro x y h
      have h1 := congrArg (·.mb) h
      have h2 := congrArg (·.summit) h
      have h3 := congrArg (·.mem) h
      simp only [State.unanswered, h]
      simp only [State.hushed] at h1 h2 h3
      rw [h1, h2, h3]
    rw [hu hR.hushed]
    exact unanswered_of hc

/-- The command of a served mailbox, from what its meaning answers. -/
theorem command_completes {m : Fin 8} {op : Nat} {f : Cmd} {s u : State} {r : Reply} (hs : s.serves m.val op = true)
    (hf : f (s.request m.val) s = (u, some r)) (ht : (mbOf u m.val).tunnel = (mbOf s m.val).tunnel) :
    u.completes m.val r.status r.detail r.body (command m.val op f s) := by
  simp only [State.serves, Bool.and_eq_true, Option.isNone_iff_eq_none] at hs
  have : command m.val op f s = mbComplete m.val r u := by
    simp only [command, hs.1, if_true]
    simp only [State.request] at hf
    rw [hf]
  rw [this]
  exact mbComplete_completes m.isLt r (ht.trans hs.2)

/-- The command of a served mailbox that goes on. -/
theorem command_waits {m : Fin 8} {op : Nat} {f : Cmd} {s u : State} (hs : s.serves m.val op = true)
    (hf : f (s.request m.val) s = (u, none)) : command m.val op f s = u := by
  simp only [State.serves, Bool.and_eq_true] at hs
  simp only [command, hs.1, if_true]
  simp only [State.request] at hf
  rw [hf]

end Sys2Proof.Machine
end

