-- ==== Sys2Proof/Laws/Host.lean ====
section
/-! SUPPORT. What an access of the host does once: reached, it acts on the state with its unlock spent; otherwise the state
of the device decides. -/

namespace Sys2Proof.Machine

theorem barWrite_reached {act : Nat → State → State} {s : State} (h : s.reached = true) :
    barWrite act s = act s.cfg.unlock s.spent := by
  simp only [State.reached, Bool.and_eq_true, Bool.not_eq_true'] at h
  simp [barWrite, h, takeUnlock, State.spent]

theorem barRead_reached {bar off n : Nat} {act : State → State} {s : State} (h : s.reached = true) :
    barRead bar off n act s = act s := by
  simp only [State.reached, Bool.and_eq_true, Bool.not_eq_true'] at h
  simp [barRead, h]

theorem memWriteTlp_reached {bar : Nat} {act : State → State} {s : State} (h : s.reached = true) :
    memWriteTlp bar act s = act s := by
  simp only [State.reached, Bool.and_eq_true, Bool.not_eq_true'] at h
  simp [memWriteTlp, h]

@[simp] theorem special_full (off : Nat) (v : Word) (act : State → State) (s : State) : special off v 0xF#4 act s = act s := rfl

theorem special_narrow {off : Nat} {v : Word} {be : BitVec 4} {act : State → State} {s : State} (h : be ≠ 0xF#4) :
    special off v be act s = refuseWidth off v be s := by
  simp [special, fullWidth, h]

@[simp] theorem keyed_full (c off : Nat) (v : Word) (act : State → State) (s : State) : keyed c c off v 0xF#4 act s = act s := by
  simp [keyed, fullWidth]

theorem keyed_locked {c cls off : Nat} {v : Word} {act : State → State} {s : State} (h : cls ≠ c) :
    keyed c cls off v 0xF#4 act s = refuseWrite off v 0xF#4 s := by
  simp [keyed, fullWidth, h]

theorem keyed_narrow {c cls off : Nat} {v : Word} {be : BitVec 4} {act : State → State} {s : State} (h : be ≠ 0xF#4) :
    keyed c cls off v be act s = refuseWidth off v be s := by
  simp [keyed, fullWidth, h]

theorem raises_refuseWrite (off : Nat) (v : Word) (be : BitVec 4) (s : State) : s.raises [(1, 0)] (refuseWrite off v be s) :=
  raises_raiseWith false 1 0 _ s

theorem raises_refuseWidth (off : Nat) (v : Word) (be : BitVec 4) (s : State) : s.raises [(1, 1)] (refuseWidth off v be s) :=
  raises_raiseWith false 1 1 _ s

theorem raises_refuseWrite64 (off : Nat) (v : Word64) (be : BitVec 8) (s : State) :
    s.raises [(1, 0)] (refuseWrite64 off v be s) := raises_raiseWith false 1 0 _ s

theorem raises_refuseWidth64 (off : Nat) (v : Word64) (be : BitVec 8) (s : State) :
    s.raises [(1, 1)] (refuseWidth64 off v be s) := raises_raiseWith false 1 1 _ s

end Sys2Proof.Machine
end

