-- ==== Sys2Proof/Laws/Keeps.lean ====
section
/-! SUPPORT. What every operation of the model keeps: the queue, the variant, the canonical form of the memories, and that
no RAW bit stands for an event that does not exist. One lemma per operation; a chain of them runs from a start state. -/

namespace Sys2Proof.Machine

/-- What no command changes or spoils. -/
structure Keeps (s t : State) : Prop where
  queue    : t.pending = s.pending
  variant  : t.dev.variant = s.dev.variant
  memories : s.memoriesCanonical = true → t.memoriesCanonical = true
  raw      : s.rawExists = true → t.rawExists = true

theorem Keeps.refl (s : State) : Keeps s s := ⟨rfl, rfl, id, id⟩

theorem Keeps.trans {s t u : State} (h : Keeps s t) (k : Keeps t u) : Keeps s u :=
  ⟨k.1.trans h.1, k.2.trans h.2, fun x => k.3 (h.3 x), fun x => k.4 (h.4 x)⟩

/-- An update of other fields keeps all. -/
theorem Keeps.of {s x t : State} (h : Keeps s x) (hq : t.pending = x.pending) (hv : t.dev.variant = x.dev.variant)
    (hm : t.ring.mem = x.ring.mem) (hp : t.summit.scratchpad = x.summit.scratchpad) (hd : t.tal.die = x.tal.die)
    (hg : t.snap = x.snap) (hr : t.evt.raw = x.evt.raw) : Keeps s t :=
  h.trans ⟨hq, hv, by simp [State.memoriesCanonical, hm, hp, hd, hg], by simp [State.rawExists, hr, hv]⟩

/-- An update of other fields keeps all, said of the updated record itself. -/
theorem Keeps.lit {s x : State} {dev' : Dev} {cfg' : Cfg} {inputs' : Tab 272 Input} {grpMask' : Tab 72 Word}
    {bcastAgree' : Word} {pods' : Tab 16 Pod} {podc' : Podc} {fab' : Fab} {seqs' : Tab 4 Seq} {trigout' : Tab 4
    Trigout} {ring' : Ring} {ret' : Ret} {cmp' : Cmp} {eq' : Eq} {tal' : Talus} {sealer' : Sealer} {tm' : Tm} {sch' :
    Sch} {rl' : Rl} {pll' : Pll} {pcie' : Pcie} {mb' : Tab 8 Mailbox} {cw' : Tab 8 Window} {summit' : Summit} {evt' :
    Events} {flt' : Flt} {mem' : MemInt} {freeCtr' : Nat} {out' : List Output}
    (h : Keeps s x) (hv : dev'.variant = x.dev.variant) (hm : ring'.mem = x.ring.mem)
    (hp : summit'.scratchpad = x.summit.scratchpad) (hd : tal'.die = x.tal.die) (hr : evt'.raw = x.evt.raw) :
    Keeps s { dev := dev', cfg := cfg', inputs := inputs', grpMask := grpMask', bcastAgree := bcastAgree',
              pods := pods', podc := podc', fab := fab', seqs := seqs', trigout := trigout', ring := ring',
              ret := ret', cmp := cmp', eq := eq', tal := tal', sealer := sealer', tm := tm', sch := sch',
              rl := rl', pll := pll', pcie := pcie', mb := mb', cw := cw', summit := summit', evt := evt',
              flt := flt', mem := mem', snap := x.snap, freeCtr := freeCtr', out := out', pending := x.pending } :=
  Keeps.of h rfl hv hm hp hd rfl hr

theorem Keeps.ite {s a b : State} {c : Prop} [Decidable c] (ha : Keeps s a) (hb : Keeps s b) :
    Keeps s (if c then a else b) := by
  split
  · exact ha
  · exact hb

theorem Keeps.iteFst {α : Type} {s : State} {a b : State × α} {c : Prop} [Decidable c] (ha : Keeps s a.1) (hb : Keeps s b.1) :
    Keeps s (if c then a else b).1 := by
  split
  · exact ha
  · exact hb

theorem Keeps.foldl {α : Type} {s : State} {f : State → α → State} (hf : ∀ x a, Keeps s x → Keeps s (f x a)) :
    ∀ (l : List α) {x : State}, Keeps s x → Keeps s (l.foldl f x)
  | [], _, h => h
  | a :: l, _, h => Keeps.foldl hf l (hf _ a h)

theorem rawExists_iff {s : State} : s.rawExists = true ↔
    ∀ g < 16, ∀ b < 32, (tabGet s.evt.raw g 0).getLsbD b = true → hasEvent s.dev.variant g b = true := by
  simp only [State.rawExists, List.all_eq_true, List.mem_range, Bool.or_eq_true, Bool.not_eq_true']
  exact forall₂_congr fun g _ => forall₂_congr fun b _ => by cases (tabGet s.evt.raw g 0).getLsbD b <;> simp

/-- RAW words whose bits all stood before, or exist. -/
theorem rawExists_of {s t : State} (hv : t.dev.variant = s.dev.variant)
    (h : ∀ g < 16, ∀ b < 32, (tabGet t.evt.raw g 0).getLsbD b = true →
      (tabGet s.evt.raw g 0).getLsbD b = true ∨ hasEvent s.dev.variant g b = true)
    (hs : s.rawExists = true) : t.rawExists = true :=
  rawExists_iff.mpr fun g hg b hb ht => by
    rw [hv]
    exact (h g hg b hb ht).elim (rawExists_iff.mp hs g hg b hb) id

/-- Writes of memories that keep their canonical forms. -/
theorem Keeps.mem {s x t : State} (h : Keeps s x) (hq : t.pending = x.pending) (hv : t.dev.variant = x.dev.variant)
    (hm : Memory.wf x.ring.mem = true → Memory.wf t.ring.mem = true)
    (hp : Memory.wf x.summit.scratchpad = true → Memory.wf t.summit.scratchpad = true)
    (hd : Memory.wf x.tal.die = true → Memory.wf t.tal.die = true)
    (hg : Memory.wf x.snap.page = true ∧ Memory.wf x.snap.taking = true →
      Memory.wf t.snap.page = true ∧ Memory.wf t.snap.taking = true)
    (hr : t.evt.raw = x.evt.raw) : Keeps s t := by
  refine h.trans ⟨hq, hv, ?_, by simp [State.rawExists, hr, hv]⟩
  simp only [State.memoriesCanonical, Bool.and_eq_true]
  exact fun ⟨⟨⟨⟨a, b⟩, c⟩, d⟩, e⟩ => ⟨⟨⟨⟨hm a, hp b⟩, hd c⟩, (hg ⟨d, e⟩).1⟩, (hg ⟨d, e⟩).2⟩

theorem Keeps.overrun {s x : State} {b : Bool} (h : Keeps s x) : Keeps s { x with snap := { x.snap with overrun := b } } :=
  h.mem rfl rfl id id id id rfl

theorem canonical_iff {s : State} : s.memoriesCanonical = true ↔
    Memory.wf s.ring.mem = true ∧ Memory.wf s.summit.scratchpad = true ∧ Memory.wf s.tal.die = true ∧
      Memory.wf s.snap.page = true ∧ Memory.wf s.snap.taking = true := by
  simp [State.memoriesCanonical, and_assoc]

end Sys2Proof.Machine
end

