-- ==== Sys2Proof/Laws/KeepsOps.lean ====
section
/-! SUPPORT. What every operation of the shared operations, events, mailboxes, the front end, the fabric and faults keeps. -/

namespace Sys2Proof.Machine

/-! ## Ops -/

theorem emitOut_keeps {s₀ : State} (o : Output) (s : State) (hk : Keeps s₀ s) : Keeps s₀ (emitOut o s) := by
  unfold emitOut
  dsimp only
  repeat' first | with_reducible assumption | exact Keeps.lit (by with_reducible assumption) rfl rfl rfl rfl rfl

theorem freeBits_keeps {s₀ : State} (w : Nat) (s : State) (hk : Keeps s₀ s) : Keeps s₀ (freeBits w s).2 := by
  unfold freeBits
  dsimp only
  repeat' first | with_reducible assumption | exact Keeps.lit (by with_reducible assumption) rfl rfl rfl rfl rfl

theorem modPod_keeps {s₀ : State} (p : Nat) (f : Pod → Pod) (s : State) (hk : Keeps s₀ s) :
    Keeps s₀ (modPod p f s) := by
  unfold modPod
  repeat' first | with_reducible assumption | exact Keeps.lit (by with_reducible assumption) rfl rfl rfl rfl rfl

theorem modInput_keeps {s₀ : State} (n : Nat) (f : Input → Input) (s : State) (hk : Keeps s₀ s) :
    Keeps s₀ (modInput n f s) := by
  unfold modInput
  repeat' first | with_reducible assumption | exact Keeps.lit (by with_reducible assumption) rfl rfl rfl rfl rfl

theorem modSeq_keeps {s₀ : State} (j : Nat) (f : Seq → Seq) (s : State) (hk : Keeps s₀ s) :
    Keeps s₀ (modSeq j f s) := by
  unfold modSeq
  repeat' first | with_reducible assumption | exact Keeps.lit (by with_reducible assumption) rfl rfl rfl rfl rfl

theorem modMb_keeps {s₀ : State} (m : Nat) (f : Mailbox → Mailbox) (s : State) (hk : Keeps s₀ s) :
    Keeps s₀ (modMb m f s) := by
  unfold modMb
  repeat' first | with_reducible assumption | exact Keeps.lit (by with_reducible assumption) rfl rfl rfl rfl rfl

theorem modCw_keeps {s₀ : State} (k : Nat) (f : Window → Window) (s : State) (hk : Keeps s₀ s) :
    Keeps s₀ (modCw k f s) := by
  unfold modCw
  repeat' first | with_reducible assumption | exact Keeps.lit (by with_reducible assumption) rfl rfl rfl rfl rfl

/-! ## Flags -/

theorem logEntry_keeps {s₀ : State} (kind eflags code : Nat) (data : List Byte) (s : State) (hk : Keeps s₀ s) :
    Keeps s₀ (logEntry kind eflags code data s) := by
  unfold logEntry
  dsimp only
  repeat' first
      | with_reducible assumption | intro _ | with_reducible apply Keeps.ite | with_reducible apply modCw_keeps
      | exact Keeps.lit (by with_reducible assumption) rfl rfl rfl rfl rfl

theorem logCopy_keeps {s₀ : State} (kind code : Nat) (s : State) (hk : Keeps s₀ s) :
    Keeps s₀ (logCopy kind code s) := by
  unfold logCopy
  dsimp only
  repeat' first
      | with_reducible assumption | with_reducible apply Keeps.ite
      | exact Keeps.lit (by with_reducible assumption) rfl rfl rfl rfl rfl | split

theorem pendVector_keeps {s₀ : State} (g b : Nat) (s : State) (hk : Keeps s₀ s) : Keeps s₀ (pendVector g b s) := by
  unfold pendVector
  dsimp only
  repeat' first | with_reducible assumption | exact Keeps.lit (by with_reducible assumption) rfl rfl rfl rfl rfl

theorem raiseOne_keeps {s₀ : State} (forced : Bool) (g b : Nat) (data : List Byte) (s : State) (h : Keeps s₀ s) :
    Keeps s₀ (raiseOne forced g b data s) := by
  unfold raiseOne
  split
  · rename_i he
    have hw : Keeps s { s with evt := { s.evt with
        raw := tabMod s.evt.raw g fun w => w ||| BitVec.ofNat 32 (2 ^ b) } } :=
      ⟨rfl, rfl, id, rawExists_of rfl fun g' _ b' hb' ht => by
        rw [tabGet_tabMod] at ht
        split at ht
        · rename_i hg
          rw [BitVec.getLsbD_or, Bool.or_eq_true, BitVec.getLsbD_ofNat, Nat.testBit_two_pow] at ht
          rcases ht with ht | ht
          · exact .inl ht
          · refine .inr ?_
            have : b = b' := by simpa [hb'] using ht
            rw [hg.1, ← this]
            exact he
        · exact .inl ht⟩
    dsimp only
    split
    · exact pendVector_keeps _ _ _ (logCopy_keeps _ _ _ (logEntry_keeps _ _ _ _ _ (h.trans hw)))
    · exact logCopy_keeps _ _ _ (logEntry_keeps _ _ _ _ _ (h.trans hw))
  · exact h

theorem raiseOverflow_keeps {s₀ : State} (before : State) (kind code : Nat) (s : State) (hk : Keeps s₀ s) :
    Keeps s₀ (raiseOverflow before kind code s) := by
  unfold raiseOverflow
  repeat' first | with_reducible assumption | with_reducible apply Keeps.ite | with_reducible apply raiseOne_keeps

theorem raiseLogReady_keeps {s₀ : State} (before : State) (s : State) (hk : Keeps s₀ s) :
    Keeps s₀ (raiseLogReady before s) := by
  unfold raiseLogReady
  repeat' first | with_reducible assumption | with_reducible apply Keeps.ite | with_reducible apply raiseOne_keeps

theorem raiseWith_keeps {s₀ : State} (forced : Bool) (g b : Nat) (data : List Byte) (s : State) (hk : Keeps s₀ s) :
    Keeps s₀ (raiseWith forced g b data s) := by
  unfold raiseWith
  repeat' first
      | with_reducible assumption | with_reducible apply Keeps.ite | with_reducible apply raiseLogReady_keeps
      | with_reducible apply raiseOverflow_keeps | with_reducible apply raiseOne_keeps

theorem raise_keeps {s₀ : State} (g b : Nat) (s : State) (hk : Keeps s₀ s) : Keeps s₀ (raise g b s) := by
  unfold raise
  repeat' first | with_reducible assumption | with_reducible apply raiseWith_keeps

theorem logFault_keeps {s₀ : State} (source severity : Nat) (info : Word) (injected : Bool) (s : State)
    (hk : Keeps s₀ s) :
    Keeps s₀ (logFault source severity info injected s) := by
  unfold logFault
  dsimp only
  repeat' first
      | with_reducible assumption | with_reducible apply logCopy_keeps | with_reducible apply logEntry_keeps
      | with_reducible apply raiseLogReady_keeps | with_reducible apply raiseOverflow_keeps

theorem refuseWrite_keeps {s₀ : State} (off : Nat) (v : Word) (be : BitVec 4) (s : State) (hk : Keeps s₀ s) :
    Keeps s₀ (refuseWrite off v be s) := by
  unfold refuseWrite
  repeat' first | with_reducible assumption | with_reducible apply raiseWith_keeps

theorem refuseWidth_keeps {s₀ : State} (off : Nat) (v : Word) (be : BitVec 4) (s : State) (hk : Keeps s₀ s) :
    Keeps s₀ (refuseWidth off v be s) := by
  unfold refuseWidth
  repeat' first | with_reducible assumption | with_reducible apply raiseWith_keeps

theorem refuseWrite64_keeps {s₀ : State} (off : Nat) (v : Word64) (be : BitVec 8) (s : State) (hk : Keeps s₀ s) :
    Keeps s₀ (refuseWrite64 off v be s) := by
  unfold refuseWrite64
  repeat' first | with_reducible assumption | with_reducible apply raiseWith_keeps

theorem refuseWidth64_keeps {s₀ : State} (off : Nat) (v : Word64) (be : BitVec 8) (s : State) (hk : Keeps s₀ s) :
    Keeps s₀ (refuseWidth64 off v be s) := by
  unfold refuseWidth64
  repeat' first | with_reducible assumption | with_reducible apply raiseWith_keeps

theorem takeUnlock_keeps {s₀ : State} (s : State) (hk : Keeps s₀ s) : Keeps s₀ (takeUnlock s).2 := by
  unfold takeUnlock
  dsimp only
  repeat' first | with_reducible assumption | exact Keeps.lit (by with_reducible assumption) rfl rfl rfl rfl rfl

/-! ## Image -/

theorem holdReference_keeps {s₀ : State} (s : State) (hk : Keeps s₀ s) : Keeps s₀ (holdReference s) := by
  unfold holdReference
  dsimp only
  repeat' first | with_reducible assumption | exact Keeps.lit (by with_reducible assumption) rfl rfl rfl rfl rfl

theorem applyDeskew_keeps {s₀ : State} (p : Nat) (s : State) (hk : Keeps s₀ s) : Keeps s₀ (applyDeskew p s) := by
  unfold applyDeskew
  repeat' first
      | with_reducible assumption | intro _ | with_reducible apply Keeps.ite | with_reducible apply raise_keeps

theorem reloadSeqs_keeps {s₀ : State} (s : State) (hk : Keeps s₀ s) : Keeps s₀ (reloadSeqs s) := by
  unfold reloadSeqs
  repeat' first
      | with_reducible assumption | intro _ | with_reducible apply Keeps.foldl | with_reducible apply Keeps.ite
      | with_reducible apply modSeq_keeps
      | exact Keeps.lit (by
            first
              | with_reducible assumption
              | (with_reducible apply modSeq_keeps; with_reducible assumption)) rfl rfl rfl rfl rfl | split
      | refine Keeps.lit ?_ rfl rfl rfl rfl rfl

theorem clearDisabled_keeps {s₀ : State} (s : State) (hk : Keeps s₀ s) : Keeps s₀ (clearDisabled s) := by
  unfold clearDisabled
  repeat' first
      | with_reducible assumption | intro _ | with_reducible apply Keeps.ite
      | exact Keeps.lit (by with_reducible assumption) rfl rfl rfl rfl rfl

theorem resetStaged_keeps {s₀ : State} (s : State) (hk : Keeps s₀ s) : Keeps s₀ (resetStaged s) := by
  unfold resetStaged
  repeat' first | with_reducible assumption | exact Keeps.lit (by with_reducible assumption) rfl rfl rfl rfl rfl

theorem activateImage_keeps {s₀ : State} (s : State) (hk : Keeps s₀ s) : Keeps s₀ (activateImage s) := by
  unfold activateImage
  dsimp only
  repeat' first
      | with_reducible assumption | intro _ | with_reducible apply Keeps.foldl | with_reducible apply Keeps.ite
      | with_reducible apply clearDisabled_keeps | with_reducible apply reloadSeqs_keeps
      | with_reducible apply applyDeskew_keeps | with_reducible apply raise_keeps
      | exact Keeps.lit (by
            first
              | with_reducible assumption
              | (with_reducible apply clearDisabled_keeps; with_reducible assumption)
              | (with_reducible apply reloadSeqs_keeps; with_reducible assumption)
              | (with_reducible apply applyDeskew_keeps; with_reducible assumption)
              | (with_reducible apply raise_keeps; with_reducible assumption)) rfl rfl rfl rfl rfl | split

theorem resetActive_keeps {s₀ : State} (s : State) (hk : Keeps s₀ s) : Keeps s₀ (resetActive s) := by
  unfold resetActive
  dsimp only
  repeat' first
      | with_reducible assumption | with_reducible apply activateImage_keeps
      | exact Keeps.lit (by
            first
              | with_reducible assumption
              | (with_reducible apply activateImage_keeps; with_reducible assumption)) rfl rfl rfl rfl rfl
      | refine Keeps.lit ?_ rfl rfl rfl rfl rfl

/-! ## Record -/

theorem pushCairn_keeps {s₀ : State} (code instant unit pod : Nat) (payload : List Byte) (s : State)
    (hk : Keeps s₀ s) :
    Keeps s₀ (pushCairn code instant unit pod payload s) := by
  unfold pushCairn
  dsimp only
  repeat' first | with_reducible assumption | exact Keeps.lit (by with_reducible assumption) rfl rfl rfl rfl rfl

theorem pushCairnIf_keeps {s₀ : State} (code instant unit pod : Nat) (payload : List Byte) (s : State)
    (hk : Keeps s₀ s) :
    Keeps s₀ (pushCairnIf code instant unit pod payload s) := by
  unfold pushCairnIf
  repeat' first | with_reducible assumption | with_reducible apply Keeps.ite | with_reducible apply pushCairn_keeps

theorem pushGap_keeps {s₀ : State} (cause detail pods pod start : Nat) (stop : Option Nat) (s : State)
    (hk : Keeps s₀ s) :
    Keeps s₀ (pushGap cause detail pods pod start stop s) := by
  unfold pushGap
  dsimp only
  repeat' first | with_reducible assumption | exact Keeps.lit (by with_reducible assumption) rfl rfl rfl rfl rfl

theorem countGap_keeps {s₀ : State} (g : Gap) (s : State) (hk : Keeps s₀ s) : Keeps s₀ (countGap g s) := by
  unfold countGap
  dsimp only
  repeat' first
      | with_reducible assumption | with_reducible apply raise_keeps
      | exact Keeps.lit (by
            first
              | with_reducible assumption
              | (with_reducible apply raise_keeps; with_reducible assumption)) rfl rfl rfl rfl rfl
      | refine Keeps.lit ?_ rfl rfl rfl rfl rfl

theorem moveH_keeps {s₀ : State} (s : State) (hk : Keeps s₀ s) : Keeps s₀ (moveH s) := by
  unfold moveH
  repeat' first
      | with_reducible assumption | exact Keeps.lit (by with_reducible assumption) rfl rfl rfl rfl rfl
      | refine Keeps.lit ?_ rfl rfl rfl rfl rfl

theorem evalMarks_keeps {s₀ : State} (s : State) (hk : Keeps s₀ s) : Keeps s₀ (evalMarks s) := by
  unfold evalMarks
  dsimp only
  repeat' first
      | with_reducible assumption | with_reducible apply Keeps.ite | with_reducible apply raise_keeps
      | exact Keeps.lit (by with_reducible assumption) rfl rfl rfl rfl rfl

theorem addRequest_keeps {s₀ : State} (c t : Nat) (s : State) (hk : Keeps s₀ s) : Keeps s₀ (addRequest c t s) := by
  unfold addRequest
  dsimp only
  repeat' first
      | with_reducible assumption | intro _ | with_reducible apply Keeps.ite | with_reducible apply raise_keeps
      | exact Keeps.lit (by with_reducible assumption) rfl rfl rfl rfl rfl

theorem acceptCauseAt_keeps {s₀ : State} (row cause : Nat) (s : State) (hk : Keeps s₀ s) :
    Keeps s₀ (acceptCauseAt row cause s) := by
  unfold acceptCauseAt
  dsimp only
  repeat' first
      | with_reducible assumption | exact Keeps.lit (by with_reducible assumption) rfl rfl rfl rfl rfl | split

theorem acceptCause_keeps {s₀ : State} (cause : Nat) (s : State) (hk : Keeps s₀ s) :
    Keeps s₀ (acceptCause cause s) := by
  unfold acceptCause
  repeat' first | with_reducible assumption | with_reducible apply acceptCauseAt_keeps

theorem requestStop_keeps {s₀ : State} (cause : Nat) (s : State) (hk : Keeps s₀ s) :
    Keeps s₀ (requestStop cause s) := by
  unfold requestStop
  repeat' first
      | with_reducible assumption | with_reducible apply acceptCause_keeps
      | exact Keeps.lit (by
            first
              | with_reducible assumption
              | (with_reducible apply acceptCause_keeps; with_reducible assumption)) rfl rfl rfl rfl rfl | split

theorem handFrame_keeps {s₀ : State} (f : Frame) (s : State) (hk : Keeps s₀ s) : Keeps s₀ (handFrame f s) := by
  unfold handFrame
  repeat' first | with_reducible assumption | exact Keeps.lit (by with_reducible assumption) rfl rfl rfl rfl rfl

theorem emitFrame_keeps {s₀ : State} (type unit pod flags : Nat) (t0 : Nat × Nat) (row : Option Nat) (pods : Nat)
    (body : List Byte) (s : State) (hk : Keeps s₀ s) :
    Keeps s₀ (emitFrame type unit pod flags t0 row pods body s) := by
  unfold emitFrame
  dsimp only
  repeat' first
      | with_reducible assumption | intro _ | with_reducible apply handFrame_keeps
      | exact Keeps.lit (by
            first
              | with_reducible assumption
              | (with_reducible apply handFrame_keeps; with_reducible assumption)) rfl rfl rfl rfl rfl

/-! ## ExportOps -/

theorem modOpen_keeps {s₀ : State} (f : Extent → Extent) (s : State) (hk : Keeps s₀ s) : Keeps s₀ (modOpen f s) := by
  unfold modOpen
  repeat' first | with_reducible assumption | exact Keeps.lit (by with_reducible assumption) rfl rfl rfl rfl rfl

theorem modExtent_keeps {s₀ : State} (n : Nat) (f : Extent → Extent) (s : State) (hk : Keeps s₀ s) :
    Keeps s₀ (modExtent n f s) := by
  unfold modExtent
  dsimp only
  repeat' first
      | with_reducible assumption | intro _ | with_reducible apply Keeps.ite
      | exact Keeps.lit (by with_reducible assumption) rfl rfl rfl rfl rfl

theorem makeDurable_keeps {s₀ : State} (x : Extent) (s : State) (hk : Keeps s₀ s) : Keeps s₀ (makeDurable x s) := by
  unfold makeDurable
  dsimp only
  repeat' first
      | with_reducible assumption | intro _ | with_reducible apply modExtent_keeps
      | exact Keeps.lit (by
            first
              | with_reducible assumption
              | (with_reducible apply modExtent_keeps; with_reducible assumption)) rfl rfl rfl rfl rfl | split
      | refine Keeps.lit ?_ rfl rfl rfl rfl rfl

theorem feedChain_keeps {s₀ : State} (n : Nat) (s : State) (hk : Keeps s₀ s) : Keeps s₀ (feedChain n s) := by
  unfold feedChain
  dsimp only
  repeat' first | with_reducible assumption | exact Keeps.lit (by with_reducible assumption) rfl rfl rfl rfl rfl

theorem sealTick_keeps {s₀ : State} (s : State) (hk : Keeps s₀ s) : Keeps s₀ (sealTick s) := by
  unfold sealTick
  dsimp only
  repeat' first
      | with_reducible assumption | with_reducible apply Keeps.ite
      | exact Keeps.lit (by with_reducible assumption) rfl rfl rfl rfl rfl

theorem afterRelease_keeps {s₀ : State} (s : State) (hk : Keeps s₀ s) : Keeps s₀ (afterRelease s) := by
  unfold afterRelease
  dsimp only
  repeat' first
      | with_reducible assumption | intro _ | with_reducible apply Keeps.foldl | with_reducible apply Keeps.ite
      | with_reducible apply makeDurable_keeps | exact Keeps.lit (by with_reducible assumption) rfl rfl rfl rfl rfl

theorem finishExtent_keeps {s₀ : State} (s : State) (hk : Keeps s₀ s) : Keeps s₀ (finishExtent s) := by
  unfold finishExtent
  dsimp only
  repeat' first
      | with_reducible assumption | intro _ | with_reducible apply Keeps.ite | with_reducible apply afterRelease_keeps
      | exact Keeps.lit (by
            first
              | with_reducible assumption
              | (with_reducible apply afterRelease_keeps; with_reducible assumption)) rfl rfl rfl rfl rfl | split

theorem dueClose_keeps {s₀ : State} (s : State) (hk : Keeps s₀ s) : Keeps s₀ (dueClose s) := by
  unfold dueClose
  dsimp only
  repeat' first
      | with_reducible assumption | with_reducible apply Keeps.ite
      | exact Keeps.lit (by with_reducible assumption) rfl rfl rfl rfl rfl

theorem closeBlock_keeps {s₀ : State} (s : State) (hk : Keeps s₀ s) : Keeps s₀ (closeBlock s) := by
  unfold closeBlock
  dsimp only
  repeat' first
      | with_reducible assumption | intro _ | with_reducible apply Keeps.ite | with_reducible apply modOpen_keeps
      | exact Keeps.lit (by
            first
              | with_reducible assumption
              | (with_reducible apply modOpen_keeps; with_reducible assumption)) rfl rfl rfl rfl rfl | split

theorem closeExtent_keeps {s₀ : State} (f : Extent → Extent) (s : State) (hk : Keeps s₀ s) :
    Keeps s₀ (closeExtent f s) := by
  unfold closeExtent
  dsimp only
  repeat' first
      | with_reducible assumption | intro _ | with_reducible apply finishExtent_keeps
      | with_reducible apply modOpen_keeps | with_reducible apply closeBlock_keeps

theorem pushWords_keeps {s₀ : State} (s : State) (hk : Keeps s₀ s) : Keeps s₀ (pushWords s) := by
  unfold pushWords
  dsimp only
  repeat' first
      | with_reducible assumption | intro _ | with_reducible apply freeBits_keeps
      | exact Keeps.lit (by
            first
              | with_reducible assumption
              | (with_reducible apply freeBits_keeps; with_reducible assumption)) rfl rfl rfl rfl rfl | split

theorem clearHold_keeps {s₀ : State} (s : State) (hk : Keeps s₀ s) : Keeps s₀ (clearHold s) := by
  unfold clearHold
  dsimp only
  repeat' first
      | with_reducible assumption | with_reducible apply Keeps.ite
      | exact Keeps.lit (by with_reducible assumption) rfl rfl rfl rfl rfl

theorem releaseTo_keeps {s₀ : State} (upto : Nat) (s : State) (hk : Keeps s₀ s) : Keeps s₀ (releaseTo upto s) := by
  unfold releaseTo
  dsimp only
  repeat' first
      | with_reducible assumption | intro _ | with_reducible apply Keeps.foldl | with_reducible apply modExtent_keeps
      | exact Keeps.lit (by with_reducible assumption) rfl rfl rfl rfl rfl

theorem releaseChunks_keeps {s₀ : State} : ∀ (n : Nat) (s : State), Keeps s₀ s → Keeps s₀ (releaseChunks n s)
  | 0, _, h => h
  | n + 1, s, h => by
    unfold releaseChunks
    split
    · split
      · exact releaseChunks_keeps n _ (modExtent_keeps _ _ _ (releaseTo_keeps _ _ (Keeps.lit h rfl rfl rfl rfl rfl)))
      · exact h
    · exact h

theorem releaseAll_keeps {s₀ : State} (s : State) (hk : Keeps s₀ s) : Keeps s₀ (releaseAll s) := by
  unfold releaseAll
  repeat' first
      | with_reducible assumption | with_reducible apply clearHold_keeps | with_reducible apply afterRelease_keeps
      | with_reducible apply releaseChunks_keeps

theorem rewindUnit_keeps {s₀ : State} (s : State) (hk : Keeps s₀ s) : Keeps s₀ (rewindUnit s) := by
  unfold rewindUnit
  repeat' first
      | with_reducible assumption | intro _ | with_reducible apply Keeps.ite | with_reducible apply modExtent_keeps
      | exact Keeps.lit (by
            first
              | with_reducible assumption
              | (with_reducible apply modExtent_keeps; with_reducible assumption)) rfl rfl rfl rfl rfl | split

theorem rewind_keeps {s₀ : State} (s : State) (hk : Keeps s₀ s) : Keeps s₀ (rewind s) := by
  unfold rewind
  dsimp only
  repeat' first
      | with_reducible assumption | with_reducible apply Keeps.ite | with_reducible apply raise_keeps
      | with_reducible apply rewindUnit_keeps | exact Keeps.lit (by with_reducible assumption) rfl rfl rfl rfl rfl

theorem closeFrozenBank_keeps {s₀ : State} (s : State) (hk : Keeps s₀ s) : Keeps s₀ (closeFrozenBank s) := by
  unfold closeFrozenBank
  dsimp only
  repeat' first
      | with_reducible assumption | with_reducible apply Keeps.ite
      | exact Keeps.lit (by with_reducible assumption) rfl rfl rfl rfl rfl

theorem freezeRecord_keeps {s₀ : State} (s : State) (hk : Keeps s₀ s) : Keeps s₀ (freezeRecord s) := by
  unfold freezeRecord
  dsimp only
  repeat' first
      | with_reducible assumption | intro _ | with_reducible apply closeExtent_keeps
      | with_reducible apply closeFrozenBank_keeps
      | exact Keeps.lit (by
            first
              | with_reducible assumption
              | (with_reducible apply closeExtent_keeps; with_reducible assumption)
              | (with_reducible apply closeFrozenBank_keeps; with_reducible assumption)) rfl rfl rfl rfl rfl
      | refine Keeps.lit ?_ rfl rfl rfl rfl rfl

theorem fenceLane_keeps {s₀ : State} (i : Nat) (s : State) (hk : Keeps s₀ s) : Keeps s₀ (fenceLane i s) := by
  unfold fenceLane
  dsimp only
  repeat' first
      | with_reducible assumption | intro _ | with_reducible apply Keeps.ite | with_reducible apply raise_keeps
      | exact Keeps.lit (by with_reducible assumption) rfl rfl rfl rfl rfl

theorem dieWrite_keeps {s₀ : State} (a : Nat) (bs : List Byte) (s : State) (h : Keeps s₀ s) :
    Keeps s₀ (dieWrite a bs s) :=
  h.mem rfl rfl id id (fun w => memWrite_wf w a bs) id rfl

theorem noteDieUe_keeps {s₀ : State} (us : List Nat) (s : State) (hk : Keeps s₀ s) : Keeps s₀ (noteDieUe us s) := by
  unfold noteDieUe
  dsimp only
  repeat' first
      | with_reducible assumption | intro _ | exact Keeps.lit (by with_reducible assumption) rfl rfl rfl rfl rfl
      | refine Keeps.lit ?_ rfl rfl rfl rfl rfl

theorem writeRecord_keeps {s₀ : State} (base : Nat) (fields : List Byte) (s : State) (hk : Keeps s₀ s) :
    Keeps s₀ (writeRecord base fields s) := by
  unfold writeRecord
  dsimp only
  repeat' first
      | with_reducible assumption | intro _ | with_reducible apply Keeps.ite | with_reducible apply dieWrite_keeps

theorem writeFormat_keeps {s₀ : State} (f : FormatRec) (s : State) (hk : Keeps s₀ s) :
    Keeps s₀ (writeFormat f s) := by
  unfold writeFormat
  dsimp only
  repeat' first
      | with_reducible assumption | with_reducible apply writeRecord_keeps
      | exact Keeps.lit (by
            first
              | with_reducible assumption
              | (with_reducible apply writeRecord_keeps; with_reducible assumption)) rfl rfl rfl rfl rfl

theorem clearQuiet_keeps {s₀ : State} (s : State) (hk : Keeps s₀ s) : Keeps s₀ (clearQuiet s) := by
  unfold clearQuiet
  repeat' first
      | with_reducible assumption | intro _ | with_reducible apply Keeps.ite | with_reducible apply writeRecord_keeps

theorem applyReshape_keeps {s₀ : State} (s : State) (hk : Keeps s₀ s) : Keeps s₀ (applyReshape s) := by
  unfold applyReshape
  dsimp only
  repeat' first
      | with_reducible assumption | with_reducible apply writeFormat_keeps
      | exact Keeps.lit (by
            first
              | with_reducible assumption
              | (with_reducible apply writeFormat_keeps; with_reducible assumption)) rfl rfl rfl rfl rfl | split
      | refine Keeps.lit ?_ rfl rfl rfl rfl rfl

/-! ## RlOps -/

theorem modPort_keeps {s₀ : State} (p : Nat) (f : Port → Port) (s : State) (hk : Keeps s₀ s) :
    Keeps s₀ (modPort p f s) := by
  unfold modPort
  repeat' first | with_reducible assumption | exact Keeps.lit (by with_reducible assumption) rfl rfl rfl rfl rfl

theorem cairnNow_keeps {s₀ : State} (code : Nat) (payload : List Byte) (s : State) (hk : Keeps s₀ s) :
    Keeps s₀ (cairnNow code payload s) := by
  unfold cairnNow
  repeat' first | with_reducible assumption | with_reducible apply pushCairnIf_keeps

theorem sendNext_keeps {s₀ : State} (p : Nat) (s : State) (hk : Keeps s₀ s) : Keeps s₀ (sendNext p s) := by
  unfold sendNext
  dsimp only
  repeat' first
      | with_reducible assumption | intro _ | with_reducible apply Keeps.ite | with_reducible apply emitOut_keeps
      | with_reducible apply modPort_keeps
      | exact Keeps.lit (by
            first
              | with_reducible assumption
              | (with_reducible apply emitOut_keeps; with_reducible assumption)
              | (with_reducible apply modPort_keeps; with_reducible assumption)) rfl rfl rfl rfl rfl | split
      | refine Keeps.lit ?_ rfl rfl rfl rfl rfl

theorem txFrame_keeps {s₀ : State} (p : Nat) (flooded : Bool) (t : TxFrame) (s : State) (hk : Keeps s₀ s) :
    Keeps s₀ (txFrame p flooded t s) := by
  unfold txFrame
  repeat' first
      | with_reducible assumption | intro _ | with_reducible apply Keeps.ite | with_reducible apply sendNext_keeps
      | with_reducible apply modPort_keeps
      | exact Keeps.lit (by
            first
              | with_reducible assumption
              | (with_reducible apply sendNext_keeps; with_reducible assumption)
              | (with_reducible apply modPort_keeps; with_reducible assumption)) rfl rfl rfl rfl rfl | split
      | refine Keeps.lit ?_ rfl rfl rfl rfl rfl

theorem dropQueue_keeps {s₀ : State} (p : Nat) (s : State) (hk : Keeps s₀ s) : Keeps s₀ (dropQueue p s) := by
  unfold dropQueue
  repeat' first
      | with_reducible assumption | intro _ | with_reducible apply modPort_keeps
      | exact Keeps.lit (by
            first
              | with_reducible assumption
              | (with_reducible apply modPort_keeps; with_reducible assumption)) rfl rfl rfl rfl rfl
      | refine Keeps.lit ?_ rfl rfl rfl rfl rfl

theorem txTick_keeps {s₀ : State} (s : State) (hk : Keeps s₀ s) : Keeps s₀ (txTick s) := by
  unfold txTick
  repeat' first
      | with_reducible assumption | intro _ | with_reducible apply Keeps.foldl | with_reducible apply sendNext_keeps

theorem sendLocal_keeps {s₀ : State} (p type : Nat) (body : List Byte) (s : State) (hk : Keeps s₀ s) :
    Keeps s₀ (sendLocal p type body s) := by
  unfold sendLocal
  repeat' first | with_reducible assumption | with_reducible apply txFrame_keeps

theorem floodOn_keeps {s₀ : State} (except : Option Nat) (type origin dest hop oseq : Nat) (body : List Byte)
    (s : State) (hk : Keeps s₀ s) :
    Keeps s₀ (floodOn except type origin dest hop oseq body s) := by
  unfold floodOn
  repeat' first
      | with_reducible assumption | intro _ | with_reducible apply Keeps.foldl | with_reducible apply Keeps.ite
      | with_reducible apply txFrame_keeps | split

theorem recordOrigin_keeps {s₀ : State} (origin oseq : Nat) (s : State) (hk : Keeps s₀ s) :
    Keeps s₀ (recordOrigin origin oseq s) := by
  unfold recordOrigin
  dsimp only
  repeat' first
      | with_reducible assumption | intro _ | exact Keeps.lit (by with_reducible assumption) rfl rfl rfl rfl rfl

theorem originate_keeps {s₀ : State} (type dest : Nat) (body : List Byte) (s : State) (hk : Keeps s₀ s) :
    Keeps s₀ (originate type dest body s) := by
  unfold originate
  dsimp only
  repeat' first
      | with_reducible assumption | with_reducible apply recordOrigin_keeps | with_reducible apply floodOn_keeps
      | exact Keeps.lit (by with_reducible assumption) rfl rfl rfl rfl rfl

theorem originateDisc_keeps {s₀ : State} (type : Nat) (body : List Byte) (s : State) (hk : Keeps s₀ s) :
    Keeps s₀ (originateDisc type body s) := by
  unfold originateDisc
  repeat' first | with_reducible assumption | with_reducible apply floodOn_keeps

theorem forwardAs_keeps {s₀ : State} (bad : Bool) (p : Nat) (f : List Byte) (s : State) (hk : Keeps s₀ s) :
    Keeps s₀ (forwardAs bad p f s) := by
  unfold forwardAs
  repeat' first
      | with_reducible assumption | intro _ | with_reducible apply Keeps.foldl | with_reducible apply Keeps.ite
      | with_reducible apply txFrame_keeps | split

theorem forward_keeps {s₀ : State} (p : Nat) (f : List Byte) (s : State) (hk : Keeps s₀ s) :
    Keeps s₀ (forward p f s) := by
  unfold forward
  repeat' first | with_reducible assumption | with_reducible apply forwardAs_keeps

theorem lseqGap_keeps {s₀ : State} (p gap : Nat) (s : State) (hk : Keeps s₀ s) : Keeps s₀ (lseqGap p gap s) := by
  unfold lseqGap
  dsimp only
  repeat' first
      | with_reducible assumption | intro _ | with_reducible apply Keeps.ite | with_reducible apply modPort_keeps
      | with_reducible apply raise_keeps | with_reducible apply cairnNow_keeps

theorem rxFrame_keeps {s₀ : State} (p : Nat) (f : List Byte) (s : State) (hk : Keeps s₀ s) :
    Keeps s₀ (rxFrame p f s) := by
  unfold rxFrame
  dsimp only
  repeat' first
      | with_reducible assumption | intro _ | with_reducible apply Keeps.ite | with_reducible apply lseqGap_keeps
      | with_reducible apply modPort_keeps

theorem cutThrough_keeps {s₀ : State} (p : Nat) (f : List Byte) (s : State) (hk : Keeps s₀ s) :
    Keeps s₀ (cutThrough p f s) := by
  unfold cutThrough
  dsimp only
  repeat' first
      | with_reducible assumption | with_reducible apply Keeps.ite | with_reducible apply forwardAs_keeps | split

theorem rxBad_keeps {s₀ : State} (p : Nat) (f : List Byte) (s : State) (hk : Keeps s₀ s) :
    Keeps s₀ (rxBad p f s) := by
  unfold rxBad
  repeat' first
      | with_reducible assumption | intro _ | with_reducible apply Keeps.ite | with_reducible apply cutThrough_keeps
      | with_reducible apply modPort_keeps
      | exact Keeps.lit (by
            first
              | with_reducible assumption
              | (with_reducible apply cutThrough_keeps; with_reducible assumption)
              | (with_reducible apply modPort_keeps; with_reducible assumption)) rfl rfl rfl rfl rfl | split
      | refine Keeps.lit ?_ rfl rfl rfl rfl rfl

theorem rxTake_keeps {s₀ : State} (p type : Nat) (f : List Byte) (act : State → State) (s : State)
    (hact : ∀ x, Keeps s₀ x → Keeps s₀ (act x)) (hk : Keeps s₀ s) :
    Keeps s₀ (rxTake p type f act s) := by
  unfold rxTake
  repeat' first
      | with_reducible assumption | intro _ | with_reducible apply Keeps.ite | with_reducible apply rxFrame_keeps
      | with_reducible apply rxBad_keeps | apply hact | split

theorem rxLocal_keeps {s₀ : State} (p type : Nat) (f : List Byte) (act : List Byte → State → State) (s : State)
    (hact : ∀ a0 x, Keeps s₀ x → Keeps s₀ (act a0 x)) (hk : Keeps s₀ s) :
    Keeps s₀ (rxLocal p type f act s) := by
  unfold rxLocal
  repeat' first
      | with_reducible assumption | intro _ | with_reducible apply rxTake_keeps | with_reducible apply modPort_keeps
      | apply hact

theorem seeOrigin_keeps {s₀ : State} (origin : Nat) (s : State) (hk : Keeps s₀ s) :
    Keeps s₀ (seeOrigin origin s) := by
  unfold seeOrigin
  dsimp only
  repeat' first
      | with_reducible assumption | intro _ | with_reducible apply Keeps.ite
      | exact Keeps.lit (by with_reducible assumption) rfl rfl rfl rfl rfl

theorem rxFlood_keeps {s₀ : State} (p type : Nat) (f : List Byte) (act : List Byte → State → State) (s : State)
    (hact : ∀ a0 x, Keeps s₀ x → Keeps s₀ (act a0 x)) (hk : Keeps s₀ s) :
    Keeps s₀ (rxFlood p type f act s) := by
  unfold rxFlood
  dsimp only
  repeat' first
      | with_reducible assumption | intro _ | with_reducible apply Keeps.ite | with_reducible apply rxTake_keeps
      | with_reducible apply forward_keeps | with_reducible apply recordOrigin_keeps
      | with_reducible apply seeOrigin_keeps | apply hact

theorem startQualify_keeps {s₀ : State} (s : State) (hk : Keeps s₀ s) : Keeps s₀ (startQualify s) := by
  unfold startQualify
  dsimp only
  repeat' first
      | with_reducible assumption | intro _ | with_reducible apply Keeps.ite
      | exact Keeps.lit (by with_reducible assumption) rfl rfl rfl rfl rfl

theorem enterHoldover_keeps {s₀ : State} (free : Bool) (word : Int) (s : State) (hk : Keeps s₀ s) :
    Keeps s₀ (enterHoldover free word s) := by
  unfold enterHoldover
  dsimp only
  repeat' first
      | with_reducible assumption | with_reducible apply startQualify_keeps
      | exact Keeps.lit (by
            first
              | with_reducible assumption
              | (with_reducible apply startQualify_keeps; with_reducible assumption)) rfl rfl rfl rfl rfl
      | refine Keeps.lit ?_ rfl rfl rfl rfl rfl

theorem refStops_keeps {s₀ : State} (src : Nat) (word : Int) (s : State) (hk : Keeps s₀ s) :
    Keeps s₀ (refStops src word s) := by
  unfold refStops
  dsimp only
  repeat' first
      | with_reducible assumption | with_reducible apply Keeps.ite | with_reducible apply raise_keeps
      | with_reducible apply enterHoldover_keeps | with_reducible apply startQualify_keeps
      | exact Keeps.lit (by
            first
              | with_reducible assumption
              | (with_reducible apply raise_keeps; with_reducible assumption)
              | (with_reducible apply enterHoldover_keeps; with_reducible assumption)
              | (with_reducible apply startQualify_keeps; with_reducible assumption)) rfl rfl rfl rfl rfl | split
      | refine Keeps.lit ?_ rfl rfl rfl rfl rfl

theorem portBad_keeps {s₀ : State} (p : Nat) (s : State) (hk : Keeps s₀ s) : Keeps s₀ (portBad p s) := by
  unfold portBad
  repeat' first | with_reducible assumption | intro _ | with_reducible apply modPort_keeps

theorem portOutage_keeps {s₀ : State} (p : Nat) (s : State) (hk : Keeps s₀ s) : Keeps s₀ (portOutage p s) := by
  unfold portOutage
  dsimp only
  repeat' first | with_reducible assumption | intro _ | with_reducible apply modPort_keeps

theorem leaveUp_keeps {s₀ : State} (p : Nat) (dst : PortState) (s : State) (hk : Keeps s₀ s) :
    Keeps s₀ (leaveUp p dst s) := by
  unfold leaveUp
  dsimp only
  repeat' first
      | with_reducible assumption | intro _ | with_reducible apply Keeps.ite | with_reducible apply raise_keeps
      | with_reducible apply portOutage_keeps | with_reducible apply modPort_keeps
      | with_reducible apply dropQueue_keeps | with_reducible apply refStops_keeps
      | exact Keeps.lit (by
            first
              | with_reducible assumption
              | (with_reducible apply raise_keeps; with_reducible assumption)
              | (with_reducible apply portOutage_keeps; with_reducible assumption)
              | (with_reducible apply modPort_keeps; with_reducible assumption)
              | (with_reducible apply dropQueue_keeps; with_reducible assumption)
              | (with_reducible apply refStops_keeps; with_reducible assumption)) rfl rfl rfl rfl rfl | split
      | refine Keeps.lit ?_ rfl rfl rfl rfl rfl

theorem safePort_keeps {s₀ : State} (p : Nat) (s : State) (hk : Keeps s₀ s) : Keeps s₀ (safePort p s) := by
  unfold safePort
  dsimp only
  repeat' first
      | with_reducible assumption | intro _ | with_reducible apply Keeps.ite | with_reducible apply emitOut_keeps
      | with_reducible apply portOutage_keeps | with_reducible apply dropQueue_keeps
      | with_reducible apply modPort_keeps
      | exact Keeps.lit (by
            first
              | with_reducible assumption
              | (with_reducible apply emitOut_keeps; with_reducible assumption)
              | (with_reducible apply portOutage_keeps; with_reducible assumption)
              | (with_reducible apply dropQueue_keeps; with_reducible assumption)
              | (with_reducible apply modPort_keeps; with_reducible assumption)) rfl rfl rfl rfl rfl | split
      | refine Keeps.lit ?_ rfl rfl rfl rfl rfl

theorem disablePort_keeps {s₀ : State} (p : Nat) (s : State) (hk : Keeps s₀ s) : Keeps s₀ (disablePort p s) := by
  unfold disablePort
  dsimp only
  repeat' first
      | with_reducible assumption | intro _ | with_reducible apply Keeps.foldl | with_reducible apply leaveUp_keeps
      | with_reducible apply modPort_keeps | with_reducible apply raise_keeps

/-! ## Command -/

theorem healWords_keeps {s₀ : State} (mem lo hi : Nat) (s : State) (hk : Keeps s₀ s) :
    Keeps s₀ (healWords mem lo hi s) := by
  unfold healWords
  dsimp only
  repeat' first
      | with_reducible assumption | intro _ | exact Keeps.lit (by with_reducible assumption) rfl rfl rfl rfl rfl

theorem scratchWrite_keeps {s₀ : State} (o : Nat) (bs : List Byte) (s : State) (h : Keeps s₀ s) :
    Keeps s₀ (scratchWrite o bs s) :=
  healWords_keeps _ _ _ _ (h.mem rfl rfl id (fun w => memWrite_wf w o bs) id id rfl)

theorem ringWrite_keeps {s₀ : State} (w : Window) (p : Nat) (bs : List Byte) (s : State) (hk : Keeps s₀ s) :
    Keeps s₀ (ringWrite w p bs s) := by
  unfold ringWrite
  dsimp only
  repeat' first | with_reducible assumption | with_reducible apply Keeps.ite | with_reducible apply scratchWrite_keeps

theorem cwClaim_keeps {s₀ : State} (k m opcode : Nat) (host : Bool) (len : Nat) (out : List Byte) (s : State)
    (hk : Keeps s₀ s) :
    Keeps s₀ (cwClaim k m opcode host len out s) := by
  unfold cwClaim
  repeat' first | with_reducible assumption | intro _ | with_reducible apply modCw_keeps

theorem cwProduce_keeps {s₀ : State} (k : Nat) (s : State) (hk : Keeps s₀ s) : Keeps s₀ (cwProduce k s) := by
  unfold cwProduce
  dsimp only
  repeat' first
      | with_reducible assumption | intro _ | with_reducible apply Keeps.ite | with_reducible apply ringWrite_keeps
      | with_reducible apply modCw_keeps | with_reducible apply raise_keeps

theorem cwConsume_keeps {s₀ : State} (k : Nat) (s : State) (hk : Keeps s₀ s) : Keeps s₀ (cwConsume k s) := by
  unfold cwConsume
  dsimp only
  repeat' first
      | with_reducible assumption | intro _ | with_reducible apply Keeps.ite | with_reducible apply modCw_keeps
      | with_reducible apply raise_keeps

theorem cwRelease_keeps {s₀ : State} (m : Nat) (s : State) (hk : Keeps s₀ s) : Keeps s₀ (cwRelease m s) := by
  unfold cwRelease
  repeat' first
      | with_reducible assumption | intro _ | with_reducible apply Keeps.foldl | with_reducible apply Keeps.ite
      | with_reducible apply modCw_keeps

theorem sendTunnelResp_keeps {s₀ : State} (t : TunnelFrom) (status : Nat) (body : List Byte) (s : State)
    (hk : Keeps s₀ s) :
    Keeps s₀ (sendTunnelResp t status body s) := by
  unfold sendTunnelResp
  dsimp only
  repeat' first
      | with_reducible assumption | intro _ | with_reducible apply Keeps.foldl | with_reducible apply originate_keeps

theorem mbComplete_keeps {s₀ : State} (m : Nat) (r : Reply) (s : State) (hk : Keeps s₀ s) :
    Keeps s₀ (mbComplete m r s) := by
  unfold mbComplete
  dsimp only
  repeat' first
      | with_reducible assumption | intro _ | with_reducible apply cwRelease_keeps
      | with_reducible apply scratchWrite_keeps | with_reducible apply modMb_keeps | with_reducible apply raise_keeps
      | with_reducible apply sendTunnelResp_keeps
      | exact Keeps.lit (by
            first
              | with_reducible assumption
              | (with_reducible apply cwRelease_keeps; with_reducible assumption)
              | (with_reducible apply scratchWrite_keeps; with_reducible assumption)
              | (with_reducible apply modMb_keeps; with_reducible assumption)
              | (with_reducible apply raise_keeps; with_reducible assumption)
              | (with_reducible apply sendTunnelResp_keeps; with_reducible assumption)) rfl rfl rfl rfl rfl | split

theorem finishMb_keeps {s₀ : State} (m opcode : Nat) (r : Reply) (s : State) (hk : Keeps s₀ s) :
    Keeps s₀ (finishMb m opcode r s) := by
  unfold finishMb
  repeat' first | with_reducible assumption | with_reducible apply Keeps.ite | with_reducible apply mbComplete_keeps

theorem command_keeps {s₀ : State} (m opcode : Nat) (f : Cmd) (s : State)
    (hf : ∀ q x, Keeps s₀ x → Keeps s₀ (f q x).1) (h : Keeps s₀ s) : Keeps s₀ (command m opcode f s) := by
  have hq := hf (mbOf s m).req s h
  unfold command
  split
  · rcases hr : f (mbOf s m).req s with ⟨t, _ | r⟩
    · simpa [hr] using hq
    · exact mbComplete_keeps m r t (by simpa [hr] using hq)
  · exact h

theorem quit_keeps {s₀ : State} (st : Nat) (s : State) (hk : Keeps s₀ s) : Keeps s₀ (quit st s).1 := by
  unfold quit
  dsimp only
  repeat' with_reducible assumption

theorem quitClaimed_keeps {s₀ : State} (s : State) (hk : Keeps s₀ s) : Keeps s₀ (quitClaimed s).1 := by
  unfold quitClaimed
  dsimp only
  repeat' with_reducible assumption

theorem fillTransfer_keeps {s₀ : State} (k m : Nat) (data resp : List Byte) (s : State) (hk : Keeps s₀ s) :
    Keeps s₀ (fillTransfer k m data resp s) := by
  unfold fillTransfer
  dsimp only
  repeat' first
      | with_reducible assumption | intro _ | with_reducible apply Keeps.ite | with_reducible apply modMb_keeps
      | with_reducible apply modCw_keeps | with_reducible apply cwProduce_keeps
      | with_reducible apply mbComplete_keeps
      | exact Keeps.lit (by
            first
              | with_reducible assumption
              | (with_reducible apply modMb_keeps; with_reducible assumption)
              | (with_reducible apply modCw_keeps; with_reducible assumption)
              | (with_reducible apply cwProduce_keeps; with_reducible assumption)
              | (with_reducible apply mbComplete_keeps; with_reducible assumption)) rfl rfl rfl rfl rfl | split
      | refine Keeps.lit ?_ rfl rfl rfl rfl rfl

theorem startTransfer_keeps {s₀ : State} (k m opcode : Nat) (data resp : List Byte) (s : State) (hk : Keeps s₀ s) :
    Keeps s₀ (startTransfer k m opcode data resp s) := by
  unfold startTransfer
  repeat' first
      | with_reducible assumption | with_reducible apply fillTransfer_keeps | with_reducible apply cwClaim_keeps

theorem cancelLong_keeps {s₀ : State} (m : Nat) (s : State) (hk : Keeps s₀ s) : Keeps s₀ (cancelLong m s) := by
  unfold cancelLong
  dsimp only
  repeat' first
      | with_reducible assumption | intro _ | with_reducible apply Keeps.ite
      | exact Keeps.lit (by with_reducible assumption) rfl rfl rfl rfl rfl | split
      | refine Keeps.lit ?_ rfl rfl rfl rfl rfl

theorem abortAll_keeps {s₀ : State} (st : MbState) (detail : Nat) (s : State) (hk : Keeps s₀ s) :
    Keeps s₀ (abortAll st detail s) := by
  unfold abortAll
  repeat' first
      | with_reducible assumption | intro _ | with_reducible apply Keeps.foldl | with_reducible apply Keeps.ite
      | with_reducible apply mbComplete_keeps | with_reducible apply cancelLong_keeps

theorem kickTick_keeps {s₀ : State} (s : State) (hk : Keeps s₀ s) : Keeps s₀ (kickTick s) := by
  unfold kickTick
  dsimp only
  repeat' first
      | with_reducible assumption | with_reducible apply Keeps.ite
      | exact Keeps.lit (by with_reducible assumption) rfl rfl rfl rfl rfl

theorem pauseDuties_keeps {s₀ : State} (s : State) (hk : Keeps s₀ s) : Keeps s₀ (pauseDuties s) := by
  unfold pauseDuties
  dsimp only
  repeat' first
      | with_reducible assumption | intro _ | exact Keeps.lit (by with_reducible assumption) rfl rfl rfl rfl rfl

theorem haltSummit_keeps {s₀ : State} (n : Nat) (s : State) (h : Keeps s₀ s) :
    Keeps s₀ (if 3 ≤ n then
        let s := raise 0 13 { s with summit := { s.summit with state := .halted } }
        abortAll .queued 0x0003 s
      else s) := by
  split
  · exact abortAll_keeps _ _ _ (raise_keeps _ _ _ (Keeps.lit h rfl rfl rfl rfl rfl))
  · exact h

theorem restartSummit_keeps {s₀ : State} (watchdog : Bool) (s : State) (h : Keeps s₀ s) :
    Keeps s₀ (restartSummit watchdog s) := by
  have h0 : Keeps s₀ { s with summit := { s.summit with
      state := .restarting, restarts := min 255 (s.summit.restarts + 1), lastCause := watchdog,
      recent := recentRestarts s ++ [s.tm.ax5] } } := Keeps.lit h rfl rfl rfl rfl rfl
  unfold restartSummit
  exact haltSummit_keeps _ _ (pauseDuties_keeps _ (abortAll_keeps .running 0x0002 _ (raise_keeps 0 11 _ h0)))

/-! ## ArmOps -/

theorem disarmNow_keeps {s₀ : State} (j : Nat) (s : State) (hk : Keeps s₀ s) : Keeps s₀ (disarmNow j s) := by
  unfold disarmNow
  dsimp only
  repeat' first
      | with_reducible assumption | intro _ | with_reducible apply Keeps.ite | with_reducible apply raise_keeps
      | with_reducible apply modSeq_keeps
      | exact Keeps.lit (by
            first
              | with_reducible assumption
              | (with_reducible apply raise_keeps; with_reducible assumption)
              | (with_reducible apply modSeq_keeps; with_reducible assumption)) rfl rfl rfl rfl rfl | split

theorem disarmAll_keeps {s₀ : State} (s : State) (hk : Keeps s₀ s) : Keeps s₀ (disarmAll s) := by
  unfold disarmAll
  dsimp only
  repeat' first
      | with_reducible assumption | intro _ | with_reducible apply Keeps.foldl | with_reducible apply disarmNow_keeps
      | exact Keeps.lit (by
            first
              | with_reducible assumption
              | (with_reducible apply disarmNow_keeps; with_reducible assumption)) rfl rfl rfl rfl rfl
      | refine Keeps.lit ?_ rfl rfl rfl rfl rfl

theorem orderAt_keeps {s₀ : State} (k : Nat) (o : SeqOrder) (s : State) (hk : Keeps s₀ s) :
    Keeps s₀ (orderAt k o s) := by
  unfold orderAt
  dsimp only
  repeat' first
      | with_reducible assumption | exact Keeps.lit (by with_reducible assumption) rfl rfl rfl rfl rfl
      | refine Keeps.lit ?_ rfl rfl rfl rfl rfl

theorem disarmMask_keeps {s₀ : State} (m : Nat) (s : State) (hk : Keeps s₀ s) : Keeps s₀ (disarmMask m s) := by
  unfold disarmMask
  repeat' first
      | with_reducible assumption | intro _ | with_reducible apply Keeps.foldl | with_reducible apply Keeps.ite
      | with_reducible apply orderAt_keeps | with_reducible apply disarmNow_keeps | split

theorem disarmSeq_keeps {s₀ : State} (j : Nat) (s : State) (hk : Keeps s₀ s) : Keeps s₀ (disarmSeq j s) := by
  unfold disarmSeq
  repeat' first | with_reducible assumption | with_reducible apply disarmMask_keeps

theorem armNow_keeps {s₀ : State} (j first : Nat) (late : Bool) (s : State) (hk : Keeps s₀ s) :
    Keeps s₀ (armNow j first late s) := by
  unfold armNow
  dsimp only
  repeat' first
      | with_reducible assumption | intro _ | with_reducible apply Keeps.ite | with_reducible apply modSeq_keeps
      | with_reducible apply raise_keeps
      | exact Keeps.lit (by
            first
              | with_reducible assumption
              | (with_reducible apply modSeq_keeps; with_reducible assumption)
              | (with_reducible apply raise_keeps; with_reducible assumption)) rfl rfl rfl rfl rfl | split
      | refine Keeps.lit ?_ rfl rfl rfl rfl rfl

theorem armAll_keeps {s₀ : State} (m first : Nat) (late missed : Bool) (s : State) (hk : Keeps s₀ s) :
    Keeps s₀ (armAll m first late missed s) := by
  unfold armAll
  dsimp only
  repeat' first
      | with_reducible assumption | intro _ | with_reducible apply Keeps.foldl | with_reducible apply Keeps.ite
      | with_reducible apply armNow_keeps | with_reducible apply raise_keeps | split

theorem armMask_keeps {s₀ : State} (m first : Nat) (late missed : Bool) (mb : Option Nat) (s : State)
    (hk : Keeps s₀ s) :
    Keeps s₀ (armMask m first late missed mb s) := by
  unfold armMask
  repeat' first
      | with_reducible assumption | with_reducible apply Keeps.ite | with_reducible apply orderAt_keeps
      | with_reducible apply armAll_keeps | split

theorem armPending_keeps {s₀ : State} (j first : Nat) (s : State) (hk : Keeps s₀ s) :
    Keeps s₀ (armPending j first s) := by
  unfold armPending
  dsimp only
  repeat' first
      | with_reducible assumption | intro _ | with_reducible apply Keeps.ite | with_reducible apply modSeq_keeps
      | with_reducible apply raise_keeps

theorem pendNow_keeps {s₀ : State} (j : Nat) (w : ArmWait) (s : State) (hk : Keeps s₀ s) :
    Keeps s₀ (pendNow j w s) := by
  unfold pendNow
  repeat' first
      | with_reducible assumption | intro _ | with_reducible apply Keeps.ite | with_reducible apply modSeq_keeps

theorem pendSeq_keeps {s₀ : State} (j : Nat) (w : ArmWait) (s : State) (hk : Keeps s₀ s) :
    Keeps s₀ (pendSeq j w s) := by
  unfold pendSeq
  repeat' first
      | with_reducible assumption | with_reducible apply Keeps.ite | with_reducible apply orderAt_keeps
      | with_reducible apply pendNow_keeps | split

theorem dropArm_keeps {s₀ : State} (j : Nat) (s : State) (hk : Keeps s₀ s) : Keeps s₀ (dropArm j s) := by
  unfold dropArm
  repeat' first
      | with_reducible assumption | intro _ | with_reducible apply raise_keeps | with_reducible apply modSeq_keeps

theorem chainDisarm_keeps {s₀ : State} (group : Nat) (s : State) (hk : Keeps s₀ s) :
    Keeps s₀ (chainDisarm group s) := by
  unfold chainDisarm
  repeat' first | with_reducible assumption | intro _ | with_reducible apply disarmMask_keeps

theorem groupDone_keeps {s₀ : State} (group : Nat) (except : Option Nat) (sample : Nat) (byFrame : Bool) (s : State)
    (hk : Keeps s₀ s) :
    Keeps s₀ (groupDone group except sample byFrame s) := by
  unfold groupDone
  repeat' first
      | with_reducible assumption | intro _ | with_reducible apply Keeps.foldl | with_reducible apply Keeps.ite
      | with_reducible apply modSeq_keeps
      | exact Keeps.lit (by
            first
              | with_reducible assumption
              | (with_reducible apply modSeq_keeps; with_reducible assumption)) rfl rfl rfl rfl rfl | split

/-! ## Sampling -/

theorem judgeEdge_keeps {s₀ : State} (p tc : Nat) (s : State) (hk : Keeps s₀ s) : Keeps s₀ (judgeEdge p tc s) := by
  unfold judgeEdge
  dsimp only
  repeat' first
      | with_reducible assumption | intro _ | with_reducible apply Keeps.ite | with_reducible apply raise_keeps
      | with_reducible apply modPod_keeps

theorem judgeClocks_keeps {s₀ : State} (p t : Nat) (s : State) (hk : Keeps s₀ s) : Keeps s₀ (judgeClocks p t s) := by
  unfold judgeClocks
  dsimp only
  repeat' first
      | with_reducible assumption | intro _ | with_reducible apply Keeps.foldl | with_reducible apply judgeEdge_keeps
      | with_reducible apply modPod_keeps

/-! ## FrontEnd -/

theorem detectIn_keeps {s₀ : State} (n k place : Nat) (s : State) (hk : Keeps s₀ s) :
    Keeps s₀ (detectIn n k place s) := by
  unfold detectIn
  dsimp only
  repeat' first
      | with_reducible assumption | with_reducible apply Keeps.ite
      | exact Keeps.lit (by with_reducible assumption) rfl rfl rfl rfl rfl

theorem endHold_keeps {s₀ : State} (n : Nat) (s : State) (hk : Keeps s₀ s) : Keeps s₀ (endHold n s) := by
  unfold endHold
  dsimp only
  repeat' first
      | with_reducible assumption | intro _ | with_reducible apply Keeps.ite | with_reducible apply modInput_keeps
      | with_reducible apply detectIn_keeps
      | exact Keeps.lit (by
            first
              | with_reducible assumption
              | (with_reducible apply modInput_keeps; with_reducible assumption)
              | (with_reducible apply detectIn_keeps; with_reducible assumption)) rfl rfl rfl rfl rfl | split

theorem qualChange_keeps {s₀ : State} (n : Nat) (nl : Bool) (tx tev : Nat) (valid : Bool) (d : Nat) (s : State)
    (hk : Keeps s₀ s) :
    Keeps s₀ (qualChange n nl tx tev valid d s) := by
  unfold qualChange
  dsimp only
  repeat' first
      | with_reducible assumption | intro _ | with_reducible apply Keeps.ite | with_reducible apply endHold_keeps
      | with_reducible apply modInput_keeps | with_reducible apply detectIn_keeps
      | exact Keeps.lit (by
            first
              | with_reducible assumption
              | (with_reducible apply endHold_keeps; with_reducible assumption)
              | (with_reducible apply modInput_keeps; with_reducible assumption)
              | (with_reducible apply detectIn_keeps; with_reducible assumption)) rfl rfl rfl rfl rfl | split

theorem runt_keeps {s₀ : State} (n w t : Nat) (s : State) (hk : Keeps s₀ s) : Keeps s₀ (runt n w t s) := by
  unfold runt
  dsimp only
  repeat' first | with_reducible assumption | with_reducible apply Keeps.ite | with_reducible apply detectIn_keeps

theorem qualRunt_keeps {s₀ : State} (n : Nat) (upper out : Bool) (t : Nat) (level : Bool) (s : State)
    (hk : Keeps s₀ s) :
    Keeps s₀ (qualRunt n upper out t level s) := by
  unfold qualRunt
  dsimp only
  repeat' first
      | with_reducible assumption | intro _ | with_reducible apply Keeps.ite | with_reducible apply modInput_keeps
      | with_reducible apply runt_keeps
      | exact Keeps.lit (by
            first
              | with_reducible assumption
              | (with_reducible apply modInput_keeps; with_reducible assumption)
              | (with_reducible apply runt_keeps; with_reducible assumption)) rfl rfl rfl rfl rfl | split

theorem requalify_keeps {s₀ : State} (s : State) (hk : Keeps s₀ s) : Keeps s₀ (requalify s) := by
  unfold requalify
  dsimp only
  repeat' first
      | with_reducible assumption | intro _ | with_reducible apply Keeps.foldl | with_reducible apply Keeps.ite
      | with_reducible apply endHold_keeps | with_reducible apply modInput_keeps
      | exact Keeps.lit (by
            first
              | with_reducible assumption
              | (with_reducible apply endHold_keeps; with_reducible assumption)
              | (with_reducible apply modInput_keeps; with_reducible assumption)) rfl rfl rfl rfl rfl | split

theorem settleSuspect_keeps {s₀ : State} (s : State) (hk : Keeps s₀ s) : Keeps s₀ (settleSuspect s) := by
  unfold settleSuspect
  repeat' first
      | with_reducible assumption | with_reducible apply Keeps.ite | with_reducible apply requalify_keeps
      | exact Keeps.lit (by
            first
              | with_reducible assumption
              | (with_reducible apply requalify_keeps; with_reducible assumption)) rfl rfl rfl rfl rfl | split

theorem flagSamples_keeps {s₀ : State} (p t : Nat) (s : State) (hk : Keeps s₀ s) : Keeps s₀ (flagSamples p t s) := by
  unfold flagSamples
  dsimp only
  repeat' first
      | with_reducible assumption | intro _ | with_reducible apply Keeps.foldl | with_reducible apply raise_keeps
      | with_reducible apply modPod_keeps

theorem trimIdle_keeps {s₀ : State} (p t : Nat) (s : State) (hk : Keeps s₀ s) : Keeps s₀ (trimIdle p t s) := by
  unfold trimIdle
  dsimp only
  repeat' first
      | with_reducible assumption | intro _ | with_reducible apply Keeps.ite | with_reducible apply modPod_keeps

theorem levelChange_keeps {s₀ : State} (n : Nat) (nl : Bool) (t : Nat) (x : Nat × Bool × Nat) (s : State)
    (hk : Keeps s₀ s) :
    Keeps s₀ (levelChange n nl t x s) := by
  unfold levelChange
  dsimp only
  repeat' first
      | with_reducible assumption | intro _ | with_reducible apply Keeps.ite | with_reducible apply modInput_keeps
      | with_reducible apply qualChange_keeps | with_reducible apply flagSamples_keeps
      | with_reducible apply modPod_keeps

theorem applyEvent_keeps {s₀ : State} (n : Nat) (upper out : Bool) (grid t : Nat) (s : State) (hk : Keeps s₀ s) :
    Keeps s₀ (applyEvent n upper out grid t s) := by
  unfold applyEvent
  dsimp only
  repeat' first
      | with_reducible assumption | intro _ | with_reducible apply Keeps.ite | with_reducible apply qualRunt_keeps
      | with_reducible apply modInput_keeps | with_reducible apply modPod_keeps
      | with_reducible apply levelChange_keeps | with_reducible apply trimIdle_keeps
      | with_reducible apply judgeClocks_keeps

/-! ## Fabric -/

theorem fireCairn_keeps {s₀ : State} (j frm b cls group out place : Nat) (s : State) (hk : Keeps s₀ s) :
    Keeps s₀ (fireCairn j frm b cls group out place s) := by
  unfold fireCairn
  dsimp only
  repeat' first
      | with_reducible assumption | intro _ | with_reducible apply Keeps.ite | with_reducible apply pushCairnIf_keeps
      | exact Keeps.lit (by with_reducible assumption) rfl rfl rfl rfl rfl

theorem firePulses_keeps {s₀ : State} (mask k : Nat) (s : State) (hk : Keeps s₀ s) :
    Keeps s₀ (firePulses mask k s) := by
  unfold firePulses
  repeat' first
      | with_reducible assumption | intro _ | with_reducible apply Keeps.foldl | with_reducible apply Keeps.ite
      | exact Keeps.lit (by with_reducible assumption) rfl rfl rfl rfl rfl | split
      | refine Keeps.lit ?_ rfl rfl rfl rfl rfl

theorem fireFrame_keeps {s₀ : State} (j cls group place : Nat) (s : State) (hk : Keeps s₀ s) :
    Keeps s₀ (fireFrame j cls group place s) := by
  unfold fireFrame
  repeat' first | with_reducible assumption | with_reducible apply Keeps.ite | with_reducible apply originate_keeps

theorem emitFire_keeps {s₀ : State} (j frm b : Nat) (w : Branch) (group place : Nat) (s : State) (hk : Keeps s₀ s) :
    Keeps s₀ (emitFire j frm b w group place s) := by
  unfold emitFire
  dsimp only
  repeat' first
      | with_reducible assumption | intro _ | with_reducible apply Keeps.ite | with_reducible apply modSeq_keeps
      | with_reducible apply raise_keeps | with_reducible apply addRequest_keeps
      | with_reducible apply firePulses_keeps | with_reducible apply fireCairn_keeps
      | with_reducible apply fireFrame_keeps | with_reducible apply groupDone_keeps
      | exact Keeps.lit (by
            first
              | with_reducible assumption
              | (with_reducible apply modSeq_keeps; with_reducible assumption)
              | (with_reducible apply raise_keeps; with_reducible assumption)
              | (with_reducible apply addRequest_keeps; with_reducible assumption)
              | (with_reducible apply firePulses_keeps; with_reducible assumption)
              | (with_reducible apply fireCairn_keeps; with_reducible assumption)
              | (with_reducible apply fireFrame_keeps; with_reducible assumption)
              | (with_reducible apply groupDone_keeps; with_reducible assumption)) rfl rfl rfl rfl rfl | split
      | refine Keeps.lit ?_ rfl rfl rfl rfl rfl

theorem seqDone_keeps {s₀ : State} (j : Nat) (s : State) (hk : Keeps s₀ s) : Keeps s₀ (seqDone j s) := by
  unfold seqDone
  repeat' first
      | with_reducible assumption | intro _ | with_reducible apply raise_keeps | with_reducible apply modSeq_keeps

theorem takeBranch_keeps {s₀ : State} (j b : Nat) (w : Branch) (vals : List (Option Nat)) (p : Program) (inst : Nat)
    (s : State) (hk : Keeps s₀ s) :
    Keeps s₀ (takeBranch j b w vals p inst s) := by
  unfold takeBranch
  dsimp only
  repeat' first
      | with_reducible assumption | intro _ | with_reducible apply Keeps.ite | with_reducible apply modSeq_keeps
      | with_reducible apply raise_keeps | with_reducible apply emitFire_keeps | with_reducible apply seqDone_keeps
      | exact Keeps.lit (by with_reducible assumption) rfl rfl rfl rfl rfl

theorem blockStep_keeps {s₀ : State} (j : Nat) (s : State) (hk : Keeps s₀ s) : Keeps s₀ (blockStep j s) := by
  unfold blockStep
  dsimp only
  repeat' first
      | with_reducible assumption | intro _ | with_reducible apply Keeps.ite | with_reducible apply modSeq_keeps
      | with_reducible apply raise_keeps

theorem stepAt_keeps {s₀ : State} (j inst : Nat) (by_ : StepBy) (p : Program) (s : State) (hk : Keeps s₀ s) :
    Keeps s₀ (stepAt j inst by_ p s) := by
  unfold stepAt
  dsimp only
  repeat' first
      | with_reducible assumption | intro _ | with_reducible apply Keeps.ite | with_reducible apply modSeq_keeps
      | with_reducible apply blockStep_keeps | with_reducible apply takeBranch_keeps
      | exact Keeps.lit (by
            first
              | with_reducible assumption
              | (with_reducible apply modSeq_keeps; with_reducible assumption)
              | (with_reducible apply blockStep_keeps; with_reducible assumption)
              | (with_reducible apply takeBranch_keeps; with_reducible assumption)) rfl rfl rfl rfl rfl | split

theorem stepSeq_keeps {s₀ : State} (j : Nat) (s : State) (hk : Keeps s₀ s) : Keeps s₀ (stepSeq j s) := by
  unfold stepSeq
  repeat' first
      | with_reducible assumption | with_reducible apply stepAt_keeps
      | exact Keeps.lit (by
            first
              | with_reducible assumption
              | (with_reducible apply stepAt_keeps; with_reducible assumption)) rfl rfl rfl rfl rfl | split

theorem stepAll_keeps {s₀ : State} (s : State) (hk : Keeps s₀ s) : Keeps s₀ (stepAll s) := by
  unfold stepAll
  repeat' first
      | with_reducible assumption | intro _ | with_reducible apply Keeps.foldl | with_reducible apply stepSeq_keeps

theorem showSeqs_keeps {s₀ : State} (s : State) (hk : Keeps s₀ s) : Keeps s₀ (showSeqs s) := by
  unfold showSeqs
  repeat' first
      | with_reducible assumption | with_reducible apply Keeps.ite
      | exact Keeps.lit (by with_reducible assumption) rfl rfl rfl rfl rfl | split
      | refine Keeps.lit ?_ rfl rfl rfl rfl rfl

theorem leaveSample_keeps {s₀ : State} (s : State) (hk : Keeps s₀ s) : Keeps s₀ (leaveSample s) := by
  unfold leaveSample
  dsimp only
  repeat' first
      | with_reducible assumption | intro _ | with_reducible apply showSeqs_keeps | with_reducible apply stepAll_keeps
      | exact Keeps.lit (by
            first
              | with_reducible assumption
              | (with_reducible apply showSeqs_keeps; with_reducible assumption)
              | (with_reducible apply stepAll_keeps; with_reducible assumption)) rfl rfl rfl rfl rfl
      | refine Keeps.lit ?_ rfl rfl rfl rfl rfl

theorem countGroups_keeps {s₀ : State} (k : Nat) (s : State) (hk : Keeps s₀ s) : Keeps s₀ (countGroups k s) := by
  unfold countGroups
  dsimp only
  repeat' first
      | with_reducible assumption | intro _ | with_reducible apply Keeps.ite
      | exact Keeps.lit (by with_reducible assumption) rfl rfl rfl rfl rfl

theorem evalPatterns_keeps {s₀ : State} (k : Nat) (s : State) (hk : Keeps s₀ s) : Keeps s₀ (evalPatterns k s) := by
  unfold evalPatterns
  dsimp only
  repeat' first
      | with_reducible assumption | intro _ | exact Keeps.lit (by with_reducible assumption) rfl rfl rfl rfl rfl

theorem evalSuspect_keeps {s₀ : State} (k : Nat) (s : State) (hk : Keeps s₀ s) : Keeps s₀ (evalSuspect k s) := by
  unfold evalSuspect
  dsimp only
  repeat' first
      | with_reducible assumption | intro _ | with_reducible apply Keeps.ite | with_reducible apply requalify_keeps
      | exact Keeps.lit (by
            first
              | with_reducible assumption
              | (with_reducible apply requalify_keeps; with_reducible assumption)) rfl rfl rfl rfl rfl | split
      | refine Keeps.lit ?_ rfl rfl rfl rfl rfl

theorem takeDone_keeps {s₀ : State} (k j : Nat) (s : State) (hk : Keeps s₀ s) : Keeps s₀ (takeDone k j s) := by
  unfold takeDone
  dsimp only
  repeat' first
      | with_reducible assumption | intro _ | with_reducible apply Keeps.ite | with_reducible apply seqDone_keeps
      | with_reducible apply raise_keeps | with_reducible apply modSeq_keeps
      | exact Keeps.lit (by
            first
              | with_reducible assumption
              | (with_reducible apply seqDone_keeps; with_reducible assumption)
              | (with_reducible apply raise_keeps; with_reducible assumption)
              | (with_reducible apply modSeq_keeps; with_reducible assumption)) rfl rfl rfl rfl rfl | split

theorem takeOrder_keeps {s₀ : State} (s : State) (o : SeqOrder) (hk : Keeps s₀ s) : Keeps s₀ (takeOrder s o) := by
  unfold takeOrder
  dsimp only
  repeat' first
      | with_reducible assumption | intro _ | with_reducible apply Keeps.foldl | with_reducible apply Keeps.ite
      | with_reducible apply disarmNow_keeps | with_reducible apply mbComplete_keeps
      | with_reducible apply armAll_keeps | with_reducible apply pendNow_keeps
      | exact Keeps.lit (by
            first
              | with_reducible assumption
              | (with_reducible apply disarmNow_keeps; with_reducible assumption)
              | (with_reducible apply mbComplete_keeps; with_reducible assumption)
              | (with_reducible apply armAll_keeps; with_reducible assumption)
              | (with_reducible apply pendNow_keeps; with_reducible assumption)) rfl rfl rfl rfl rfl | split
      | refine Keeps.lit ?_ rfl rfl rfl rfl rfl

theorem takeTarget_keeps {s₀ : State} (k j : Nat) (s : State) (hk : Keeps s₀ s) : Keeps s₀ (takeTarget k j s) := by
  unfold takeTarget
  repeat' first
      | with_reducible assumption | with_reducible apply Keeps.ite | with_reducible apply armPending_keeps
      | exact Keeps.lit (by
            first
              | with_reducible assumption
              | (with_reducible apply armPending_keeps; with_reducible assumption)) rfl rfl rfl rfl rfl | split
      | refine Keeps.lit ?_ rfl rfl rfl rfl rfl

theorem takeOrders_keeps {s₀ : State} (k : Nat) (s : State) (hk : Keeps s₀ s) : Keeps s₀ (takeOrders k s) := by
  unfold takeOrders
  dsimp only
  repeat' first
      | with_reducible assumption | intro _ | with_reducible apply Keeps.foldl | with_reducible apply takeOrder_keeps
      | exact Keeps.lit (by with_reducible assumption) rfl rfl rfl rfl rfl

theorem showLive_keeps {s₀ : State} (s : State) (hk : Keeps s₀ s) : Keeps s₀ (showLive s) := by
  unfold showLive
  repeat' first
      | with_reducible assumption | with_reducible apply Keeps.ite
      | exact Keeps.lit (by with_reducible assumption) rfl rfl rfl rfl rfl

theorem enterSample_keeps {s₀ : State} (k : Nat) (s : State) (hk : Keeps s₀ s) : Keeps s₀ (enterSample k s) := by
  unfold enterSample
  dsimp only
  repeat' first
      | with_reducible assumption | intro _ | with_reducible apply Keeps.foldl | with_reducible apply Keeps.ite
      | with_reducible apply judgeClocks_keeps | with_reducible apply evalSuspect_keeps
      | with_reducible apply endHold_keeps | with_reducible apply evalPatterns_keeps
      | with_reducible apply countGroups_keeps | with_reducible apply takeTarget_keeps
      | with_reducible apply takeDone_keeps | with_reducible apply takeOrders_keeps
      | with_reducible apply showLive_keeps
      | exact Keeps.lit (by
            first
              | with_reducible assumption
              | (with_reducible apply judgeClocks_keeps; with_reducible assumption)
              | (with_reducible apply evalSuspect_keeps; with_reducible assumption)
              | (with_reducible apply endHold_keeps; with_reducible assumption)
              | (with_reducible apply evalPatterns_keeps; with_reducible assumption)
              | (with_reducible apply countGroups_keeps; with_reducible assumption)
              | (with_reducible apply takeTarget_keeps; with_reducible assumption)
              | (with_reducible apply takeDone_keeps; with_reducible assumption)
              | (with_reducible apply takeOrders_keeps; with_reducible assumption)
              | (with_reducible apply showLive_keeps; with_reducible assumption)) rfl rfl rfl rfl rfl | split
      | refine Keeps.lit ?_ rfl rfl rfl rfl rfl

theorem advanceBy_keeps {s₀ : State} : ∀ (n : Nat) (s : State), Keeps s₀ s → Keeps s₀ (advanceBy n s)
  | 0, _, h => h
  | n + 1, _, h => advanceBy_keeps n _ (enterSample_keeps _ _ (leaveSample_keeps _ h))

theorem evalBelow_keeps {s₀ : State} (n : Nat) (s : State) (hk : Keeps s₀ s) : Keeps s₀ (evalBelow n s) := by
  unfold evalBelow
  dsimp only
  repeat' first
      | with_reducible assumption | with_reducible apply Keeps.ite | with_reducible apply enterSample_keeps
      | with_reducible apply advanceBy_keeps | split

theorem advance_keeps {s₀ : State} (a : Nat) (s : State) (hk : Keeps s₀ s) : Keeps s₀ (advance a s) := by
  unfold advance
  repeat' first | with_reducible assumption | with_reducible apply evalBelow_keeps

theorem startFabric_keeps {s₀ : State} (first : Nat) (s : State) (hk : Keeps s₀ s) :
    Keeps s₀ (startFabric first s) := by
  unfold startFabric
  dsimp only
  repeat' first
      | with_reducible assumption | intro _ | with_reducible apply Keeps.ite
      | exact Keeps.lit (by with_reducible assumption) rfl rfl rfl rfl rfl | split
      | refine Keeps.lit ?_ rfl rfl rfl rfl rfl

theorem evalNow_keeps {s₀ : State} (s : State) (hk : Keeps s₀ s) : Keeps s₀ (evalNow s) := by
  unfold evalNow
  repeat' first | with_reducible assumption | with_reducible apply evalBelow_keeps

theorem stopFabric_keeps {s₀ : State} (n : Nat) (s : State) (hk : Keeps s₀ s) : Keeps s₀ (stopFabric n s) := by
  unfold stopFabric
  dsimp only
  repeat' first
      | with_reducible assumption | intro _ | with_reducible apply Keeps.foldl | with_reducible apply stepAll_keeps
      | with_reducible apply evalBelow_keeps | with_reducible apply takeOrder_keeps
      | exact Keeps.lit (by
            first
              | with_reducible assumption
              | (with_reducible apply stepAll_keeps; with_reducible assumption)
              | (with_reducible apply evalBelow_keeps; with_reducible assumption)
              | (with_reducible apply takeOrder_keeps; with_reducible assumption)) rfl rfl rfl rfl rfl
      | refine Keeps.lit ?_ rfl rfl rfl rfl rfl

theorem carrySeq_keeps {s₀ : State} (first j : Nat) (s : State) (hk : Keeps s₀ s) :
    Keeps s₀ (carrySeq first j s) := by
  unfold carrySeq
  dsimp only
  repeat' first
      | with_reducible assumption | intro _ | with_reducible apply modSeq_keeps
      | with_reducible apply armPending_keeps
      | exact Keeps.lit (by
            first
              | with_reducible assumption
              | (with_reducible apply modSeq_keeps; with_reducible assumption)
              | (with_reducible apply armPending_keeps; with_reducible assumption)) rfl rfl rfl rfl rfl | split

theorem carrySeqs_keeps {s₀ : State} (first : Nat) (s : State) (hk : Keeps s₀ s) : Keeps s₀ (carrySeqs first s) := by
  unfold carrySeqs
  dsimp only
  repeat' first
      | with_reducible assumption | intro _ | with_reducible apply Keeps.foldl | with_reducible apply carrySeq_keeps
      | exact Keeps.lit (by
            first
              | with_reducible assumption
              | (with_reducible apply carrySeq_keeps; with_reducible assumption)) rfl rfl rfl rfl rfl
      | refine Keeps.lit ?_ rfl rfl rfl rfl rfl

theorem armOnStart_keeps {s₀ : State} (m : Nat) (mb : Option Nat) (s : State) (hk : Keeps s₀ s) :
    Keeps s₀ (armOnStart m mb s) := by
  unfold armOnStart
  repeat' first
      | with_reducible assumption | intro _ | with_reducible apply Keeps.foldl | with_reducible apply Keeps.ite
      | with_reducible apply armMask_keeps | with_reducible apply pendSeq_keeps | split

theorem armInstant_keeps {s₀ : State} (j t : Nat) (late : Bool) (s : State) (hk : Keeps s₀ s) :
    Keeps s₀ (armInstant j t late s) := by
  unfold armInstant
  dsimp only
  repeat' first
      | with_reducible assumption | with_reducible apply Keeps.ite | with_reducible apply evalNow_keeps
      | with_reducible apply dropArm_keeps | with_reducible apply armMask_keeps | split

theorem chainArmSeq_keeps {s₀ : State} (j sec ns policy : Nat) (s : State) (hk : Keeps s₀ s) :
    Keeps s₀ (chainArmSeq j sec ns policy s) := by
  unfold chainArmSeq
  repeat' first
      | with_reducible assumption | with_reducible apply Keeps.ite | with_reducible apply dropArm_keeps
      | with_reducible apply armMask_keeps | with_reducible apply pendSeq_keeps | split

theorem chainArm_keeps {s₀ : State} (group sec ns policy : Nat) (s : State) (hk : Keeps s₀ s) :
    Keeps s₀ (chainArm group sec ns policy s) := by
  unfold chainArm
  repeat' first
      | with_reducible assumption | intro _ | with_reducible apply Keeps.foldl | with_reducible apply Keeps.ite
      | with_reducible apply chainArmSeq_keeps | with_reducible apply evalNow_keeps | split

theorem resetFab_keeps {s₀ : State} (s : State) (hk : Keeps s₀ s) : Keeps s₀ (resetFab s) := by
  unfold resetFab
  dsimp only
  repeat' first | with_reducible assumption | exact Keeps.lit (by with_reducible assumption) rfl rfl rfl rfl rfl

/-! ## PodOps -/

theorem setPod_keeps {s₀ : State} (p : Nat) (st : PodState) (s : State) (hk : Keeps s₀ s) :
    Keeps s₀ (setPod p st s) := by
  unfold setPod
  dsimp only
  repeat' first
      | with_reducible assumption | intro _ | with_reducible apply Keeps.ite | with_reducible apply modPod_keeps
      | exact Keeps.lit (by
            first
              | with_reducible assumption
              | (with_reducible apply modPod_keeps; with_reducible assumption)) rfl rfl rfl rfl rfl

theorem supplyCut_keeps {s₀ : State} (p : Nat) (s : State) (hk : Keeps s₀ s) : Keeps s₀ (supplyCut p s) := by
  unfold supplyCut
  repeat' first | with_reducible assumption | intro _ | with_reducible apply modPod_keeps

theorem absentNow_keeps {s₀ : State} (p : Nat) (s : State) (hk : Keeps s₀ s) : Keeps s₀ (absentNow p s) := by
  unfold absentNow
  dsimp only
  repeat' first
      | with_reducible assumption | intro _ | with_reducible apply Keeps.foldl | with_reducible apply Keeps.ite
      | with_reducible apply judgeClocks_keeps | with_reducible apply modInput_keeps
      | with_reducible apply modPod_keeps
      | exact Keeps.lit (by
            first
              | with_reducible assumption
              | (with_reducible apply judgeClocks_keeps; with_reducible assumption)
              | (with_reducible apply modInput_keeps; with_reducible assumption)
              | (with_reducible apply modPod_keeps; with_reducible assumption)) rfl rfl rfl rfl rfl | split
      | refine Keeps.lit ?_ rfl rfl rfl rfl rfl

theorem lowerCause_keeps {s₀ : State} (p cause : Nat) (s : State) (hk : Keeps s₀ s) :
    Keeps s₀ (lowerCause p cause s) := by
  unfold lowerCause
  dsimp only
  repeat' first
      | with_reducible assumption | intro _ | with_reducible apply Keeps.ite | with_reducible apply modPod_keeps
      | exact Keeps.lit (by
            first
              | with_reducible assumption
              | (with_reducible apply modPod_keeps; with_reducible assumption)) rfl rfl rfl rfl rfl | split
      | refine Keeps.lit ?_ rfl rfl rfl rfl rfl

theorem podGone_keeps {s₀ : State} (p cause : Nat) (s : State) (hk : Keeps s₀ s) : Keeps s₀ (podGone p cause s) := by
  unfold podGone
  dsimp only
  repeat' first
      | with_reducible assumption | intro _ | with_reducible apply Keeps.ite | with_reducible apply pushCairn_keeps
      | with_reducible apply modPod_keeps | with_reducible apply lowerCause_keeps
      | exact Keeps.lit (by
            first
              | with_reducible assumption
              | (with_reducible apply pushCairn_keeps; with_reducible assumption)
              | (with_reducible apply modPod_keeps; with_reducible assumption)
              | (with_reducible apply lowerCause_keeps; with_reducible assumption)) rfl rfl rfl rfl rfl | split
      | refine Keeps.lit ?_ rfl rfl rfl rfl rfl

theorem dropPod_keeps {s₀ : State} (p cause : Nat) (s : State) (hk : Keeps s₀ s) : Keeps s₀ (dropPod p cause s) := by
  unfold dropPod
  repeat' first
      | with_reducible assumption | with_reducible apply absentNow_keeps | with_reducible apply podGone_keeps

theorem closePodGap_keeps {s₀ : State} (p row : Nat) (s : State) (hk : Keeps s₀ s) :
    Keeps s₀ (closePodGap p row s) := by
  unfold closePodGap
  dsimp only
  repeat' first
      | with_reducible assumption | intro _ | with_reducible apply Keeps.ite | with_reducible apply modPod_keeps
      | with_reducible apply pushGap_keeps
      | exact Keeps.lit (by
            first
              | with_reducible assumption
              | (with_reducible apply modPod_keeps; with_reducible assumption)
              | (with_reducible apply pushGap_keeps; with_reducible assumption)) rfl rfl rfl rfl rfl | split

theorem finishOn_keeps {s₀ : State} (m : Nat) (s : State) (hk : Keeps s₀ s) : Keeps s₀ (finishOn m s) := by
  unfold finishOn
  dsimp only
  repeat' first
      | with_reducible assumption | intro _ | with_reducible apply Keeps.ite | with_reducible apply mbComplete_keeps

theorem settleOn_keeps {s₀ : State} (p : Nat) (s : State) (hk : Keeps s₀ s) : Keeps s₀ (settleOn p s) := by
  unfold settleOn
  dsimp only
  repeat' first
      | with_reducible assumption | intro _ | with_reducible apply Keeps.foldl | with_reducible apply finishOn_keeps
      | with_reducible apply modPod_keeps

theorem safePod_keeps {s₀ : State} (p : Nat) (s : State) (hk : Keeps s₀ s) : Keeps s₀ (safePod p s) := by
  unfold safePod
  dsimp only
  repeat' first
      | with_reducible assumption | intro _ | with_reducible apply absentNow_keeps
      | with_reducible apply supplyCut_keeps | with_reducible apply modPod_keeps | with_reducible apply setPod_keeps
      | exact Keeps.lit (by
            first
              | with_reducible assumption
              | (with_reducible apply absentNow_keeps; with_reducible assumption)
              | (with_reducible apply supplyCut_keeps; with_reducible assumption)
              | (with_reducible apply modPod_keeps; with_reducible assumption)
              | (with_reducible apply setPod_keeps; with_reducible assumption)) rfl rfl rfl rfl rfl | split

theorem releasePod_keeps {s₀ : State} (p : Nat) (s : State) (hk : Keeps s₀ s) : Keeps s₀ (releasePod p s) := by
  unfold releasePod
  dsimp only
  repeat' first
      | with_reducible assumption | intro _ | with_reducible apply Keeps.ite | with_reducible apply modPod_keeps
      | with_reducible apply setPod_keeps

theorem measureSupply_keeps {s₀ : State} (p : Nat) (s : State) (hk : Keeps s₀ s) : Keeps s₀ (measureSupply p s) := by
  unfold measureSupply
  dsimp only
  repeat' first
      | with_reducible assumption | intro _ | with_reducible apply Keeps.ite | with_reducible apply freeBits_keeps
      | with_reducible apply modPod_keeps

theorem measureSupplies_keeps {s₀ : State} (s : State) (hk : Keeps s₀ s) : Keeps s₀ (measureSupplies s) := by
  unfold measureSupplies
  repeat' first
      | with_reducible assumption | intro _ | with_reducible apply Keeps.foldl | with_reducible apply Keeps.ite
      | with_reducible apply measureSupply_keeps

/-! ## Faults -/

theorem updateFaultN_keeps {s₀ : State} (s : State) (hk : Keeps s₀ s) : Keeps s₀ (updateFaultN s) := by
  unfold updateFaultN
  repeat' first | with_reducible assumption | exact Keeps.lit (by with_reducible assumption) rfl rfl rfl rfl rfl

theorem pushHist_keeps {s₀ : State} (f : Nat) (sev : Severity) (info : Word) (inj : Bool) (s : State)
    (hk : Keeps s₀ s) :
    Keeps s₀ (pushHist f sev info inj s) := by
  unfold pushHist
  dsimp only
  repeat' first
      | with_reducible assumption | with_reducible apply Keeps.ite | with_reducible apply raise_keeps
      | exact Keeps.lit (by with_reducible assumption) rfl rfl rfl rfl rfl

theorem stopUnit_keeps {s₀ : State} (f : Nat) (info : Word) (unit : Nat) (s : State) (hk : Keeps s₀ s) :
    Keeps s₀ (stopUnit f info unit s) := by
  unfold stopUnit
  repeat' first
      | with_reducible assumption | intro _ | with_reducible apply Keeps.ite | with_reducible apply disablePort_keeps
      | with_reducible apply fenceLane_keeps | with_reducible apply restartSummit_keeps
      | with_reducible apply mbComplete_keeps | with_reducible apply cancelLong_keeps
      | with_reducible apply modSeq_keeps | with_reducible apply disarmNow_keeps
      | exact Keeps.lit (by
            first
              | with_reducible assumption
              | (with_reducible apply disablePort_keeps; with_reducible assumption)
              | (with_reducible apply fenceLane_keeps; with_reducible assumption)
              | (with_reducible apply restartSummit_keeps; with_reducible assumption)
              | (with_reducible apply mbComplete_keeps; with_reducible assumption)
              | (with_reducible apply cancelLong_keeps; with_reducible assumption)
              | (with_reducible apply modSeq_keeps; with_reducible assumption)
              | (with_reducible apply disarmNow_keeps; with_reducible assumption)) rfl rfl rfl rfl rfl | split
      | refine Keeps.lit ?_ rfl rfl rfl rfl rfl

theorem contain_keeps {s₀ : State} (f : Nat) (info : Word) (unit : Nat) (s : State) (hk : Keeps s₀ s) :
    Keeps s₀ (contain f info unit s) := by
  unfold contain
  dsimp only
  repeat' first
      | with_reducible assumption | intro _ | with_reducible apply Keeps.ite | with_reducible apply raise_keeps
      | with_reducible apply stopUnit_keeps | with_reducible apply cairnNow_keeps
      | with_reducible apply acceptCause_keeps
      | exact Keeps.lit (by
            first
              | with_reducible assumption
              | (with_reducible apply raise_keeps; with_reducible assumption)
              | (with_reducible apply stopUnit_keeps; with_reducible assumption)
              | (with_reducible apply cairnNow_keeps; with_reducible assumption)
              | (with_reducible apply acceptCause_keeps; with_reducible assumption)) rfl rfl rfl rfl rfl | split
      | refine Keeps.lit ?_ rfl rfl rfl rfl rfl

theorem restoreUnit_keeps {s₀ : State} (c : Contained) (s : State) (hk : Keeps s₀ s) :
    Keeps s₀ (restoreUnit c s) := by
  unfold restoreUnit
  repeat' first
      | with_reducible assumption | intro _ | with_reducible apply Keeps.ite | with_reducible apply modPort_keeps
      | with_reducible apply modSeq_keeps
      | exact Keeps.lit (by
            first
              | with_reducible assumption
              | (with_reducible apply modPort_keeps; with_reducible assumption)
              | (with_reducible apply modSeq_keeps; with_reducible assumption)) rfl rfl rfl rfl rfl | split
      | refine Keeps.lit ?_ rfl rfl rfl rfl rfl

theorem rejoinUnits_keeps {s₀ : State} (s : State) (hk : Keeps s₀ s) : Keeps s₀ (rejoinUnits s) := by
  unfold rejoinUnits
  dsimp only
  repeat' first
      | with_reducible assumption | intro _ | with_reducible apply Keeps.foldl | with_reducible apply Keeps.ite
      | with_reducible apply updateFaultN_keeps | with_reducible apply restoreUnit_keeps
      | exact Keeps.lit (by
            first
              | with_reducible assumption
              | (with_reducible apply updateFaultN_keeps; with_reducible assumption)
              | (with_reducible apply restoreUnit_keeps; with_reducible assumption)) rfl rfl rfl rfl rfl | split
      | refine Keeps.lit ?_ rfl rfl rfl rfl rfl

theorem freezeCapture_keeps {s₀ : State} (s : State) (hk : Keeps s₀ s) : Keeps s₀ (freezeCapture s) := by
  unfold freezeCapture
  dsimp only
  repeat' first
      | with_reducible assumption | intro _ | exact Keeps.lit (by with_reducible assumption) rfl rfl rfl rfl rfl
      | refine Keeps.lit ?_ rfl rfl rfl rfl rfl

theorem enterSafe_keeps {s₀ : State} (f : Nat) (s : State) (hk : Keeps s₀ s) : Keeps s₀ (enterSafe f s) := by
  unfold enterSafe
  dsimp only
  repeat' first
      | with_reducible assumption | intro _ | with_reducible apply Keeps.foldl | with_reducible apply moveH_keeps
      | with_reducible apply stopFabric_keeps | with_reducible apply updateFaultN_keeps
      | with_reducible apply raise_keeps | with_reducible apply freezeCapture_keeps
      | with_reducible apply freezeRecord_keeps | with_reducible apply disarmAll_keeps
      | with_reducible apply safePort_keeps | with_reducible apply safePod_keeps | with_reducible apply settleOn_keeps
      | exact Keeps.lit (by
            first
              | with_reducible assumption
              | (with_reducible apply moveH_keeps; with_reducible assumption)
              | (with_reducible apply stopFabric_keeps; with_reducible assumption)
              | (with_reducible apply updateFaultN_keeps; with_reducible assumption)
              | (with_reducible apply raise_keeps; with_reducible assumption)
              | (with_reducible apply freezeCapture_keeps; with_reducible assumption)
              | (with_reducible apply freezeRecord_keeps; with_reducible assumption)
              | (with_reducible apply disarmAll_keeps; with_reducible assumption)
              | (with_reducible apply safePort_keeps; with_reducible assumption)
              | (with_reducible apply safePod_keeps; with_reducible assumption)
              | (with_reducible apply settleOn_keeps; with_reducible assumption)) rfl rfl rfl rfl rfl
      | refine Keeps.lit ?_ rfl rfl rfl rfl rfl

theorem reloadCollector_keeps {s₀ : State} (s : State) (hk : Keeps s₀ s) : Keeps s₀ (reloadCollector s) := by
  unfold reloadCollector
  dsimp only
  repeat' first | with_reducible assumption | exact Keeps.lit (by with_reducible assumption) rfl rfl rfl rfl rfl

theorem latch_keeps {s₀ : State} (f : Nat) (info : Word) (unit : Nat) (inj : Bool) (sev : Severity) (s : State)
    (hk : Keeps s₀ s) :
    Keeps s₀ (latch f info unit inj sev s) := by
  unfold latch
  dsimp only
  repeat' first
      | with_reducible assumption | intro _ | with_reducible apply Keeps.ite | with_reducible apply logFault_keeps
      | with_reducible apply pushHist_keeps | with_reducible apply reloadCollector_keeps
      | with_reducible apply raise_keeps | with_reducible apply enterSafe_keeps | with_reducible apply contain_keeps
      | with_reducible apply updateFaultN_keeps
      | exact Keeps.lit (by
            first
              | with_reducible assumption
              | (with_reducible apply logFault_keeps; with_reducible assumption)
              | (with_reducible apply pushHist_keeps; with_reducible assumption)
              | (with_reducible apply reloadCollector_keeps; with_reducible assumption)
              | (with_reducible apply raise_keeps; with_reducible assumption)
              | (with_reducible apply enterSafe_keeps; with_reducible assumption)
              | (with_reducible apply contain_keeps; with_reducible assumption)
              | (with_reducible apply updateFaultN_keeps; with_reducible assumption)) rfl rfl rfl rfl rfl | split

theorem signalWith_keeps {s₀ : State} (f : Nat) (info : Word) (unit : Nat) (inj : Bool) (sev : Severity) (s : State)
    (hk : Keeps s₀ s) :
    Keeps s₀ (signalWith f info unit inj sev s) := by
  unfold signalWith
  repeat' first | with_reducible assumption | with_reducible apply Keeps.ite | with_reducible apply latch_keeps

theorem signalUnit_keeps {s₀ : State} (f : Nat) (info : Word) (unit : Nat) (s : State) (hk : Keeps s₀ s) :
    Keeps s₀ (signalUnit f info unit s) := by
  unfold signalUnit
  repeat' first | with_reducible assumption | with_reducible apply signalWith_keeps

theorem signal_keeps {s₀ : State} (f : Nat) (info : Word) (s : State) (hk : Keeps s₀ s) :
    Keeps s₀ (signal f info s) := by
  unfold signal
  repeat' first | with_reducible assumption | with_reducible apply signalUnit_keeps

theorem goLive_keeps {s₀ : State} (f : Nat) (info : Word) (s : State) (hk : Keeps s₀ s) :
    Keeps s₀ (goLive f info s) := by
  unfold goLive
  repeat' first
      | with_reducible assumption | with_reducible apply Keeps.ite | with_reducible apply signal_keeps
      | exact Keeps.lit (by with_reducible assumption) rfl rfl rfl rfl rfl

theorem settleRef_keeps {s₀ : State} (s : State) (hk : Keeps s₀ s) : Keeps s₀ (settleRef s) := by
  unfold settleRef
  repeat' first
      | with_reducible assumption | with_reducible apply Keeps.ite | with_reducible apply goLive_keeps | split

theorem goDead_keeps {s₀ : State} (f : Nat) (s : State) (hk : Keeps s₀ s) : Keeps s₀ (goDead f s) := by
  unfold goDead
  repeat' first | with_reducible assumption | exact Keeps.lit (by with_reducible assumption) rfl rfl rfl rfl rfl

theorem extLive_keeps {s₀ : State} (s : State) (hk : Keeps s₀ s) : Keeps s₀ (extLive s) := by
  unfold extLive
  repeat' first
      | with_reducible assumption | with_reducible apply Keeps.ite
      | exact Keeps.lit (by with_reducible assumption) rfl rfl rfl rfl rfl | split
      | refine Keeps.lit ?_ rfl rfl rfl rfl rfl

theorem latchFailed_keeps {s₀ : State} (s : State) (hk : Keeps s₀ s) : Keeps s₀ (latchFailed s) := by
  unfold latchFailed
  split
  · exact hk
  · exact signalWith_keeps _ _ _ _ _ _ (Keeps.lit hk rfl rfl rfl rfl rfl)

theorem latchLive_keeps {s₀ : State} (s : State) (hk : Keeps s₀ s) : Keeps s₀ (latchLive s) := by
  unfold latchLive
  repeat' first
      | with_reducible assumption | intro _ | with_reducible apply Keeps.foldl | with_reducible apply Keeps.ite
      | with_reducible apply signal_keeps | with_reducible apply latchFailed_keeps

theorem startCollector_keeps {s₀ : State} (s : State) (hk : Keeps s₀ s) : Keeps s₀ (startCollector s) := by
  unfold startCollector
  repeat' first
      | with_reducible assumption | with_reducible apply latchLive_keeps
      | exact Keeps.lit (by with_reducible assumption) rfl rfl rfl rfl rfl

theorem linkFault_keeps {s₀ : State} (p : Nat) (s : State) (hk : Keeps s₀ s) : Keeps s₀ (linkFault p s) := by
  unfold linkFault
  dsimp only
  repeat' first
      | with_reducible assumption | intro _ | with_reducible apply Keeps.ite | with_reducible apply modPort_keeps
      | with_reducible apply signalUnit_keeps

theorem lostPort_keeps {s₀ : State} (p : Nat) (s : State) (hk : Keeps s₀ s) : Keeps s₀ (lostPort p s) := by
  unfold lostPort
  repeat' first
      | with_reducible assumption | with_reducible apply settleRef_keeps | with_reducible apply linkFault_keeps

theorem protoMailbox_keeps {s₀ : State} (m : Nat) (s : State) (hk : Keeps s₀ s) : Keeps s₀ (protoMailbox m s) := by
  unfold protoMailbox
  dsimp only
  repeat' first
      | with_reducible assumption | with_reducible apply raise_keeps | with_reducible apply signal_keeps
      | exact Keeps.lit (by with_reducible assumption) rfl rfl rfl rfl rfl

theorem protoWindow_keeps {s₀ : State} (k : Nat) (s : State) (hk : Keeps s₀ s) : Keeps s₀ (protoWindow k s) := by
  unfold protoWindow
  dsimp only
  repeat' first
      | with_reducible assumption | with_reducible apply raise_keeps | with_reducible apply signal_keeps
      | exact Keeps.lit (by with_reducible assumption) rfl rfl rfl rfl rfl

/-! ## HostOps -/

theorem aerCorrectable_keeps {s₀ : State} (code : Nat) (s : State) (hk : Keeps s₀ s) :
    Keeps s₀ (aerCorrectable code s) := by
  unfold aerCorrectable
  dsimp only
  repeat' first
      | with_reducible assumption | with_reducible apply raise_keeps | with_reducible apply emitOut_keeps
      | exact Keeps.lit (by
            first
              | with_reducible assumption
              | (with_reducible apply raise_keeps; with_reducible assumption)
              | (with_reducible apply emitOut_keeps; with_reducible assumption)) rfl rfl rfl rfl rfl
      | refine Keeps.lit ?_ rfl rfl rfl rfl rfl

theorem aerUncorrectable_keeps {s₀ : State} (code : Nat) (s : State) (hk : Keeps s₀ s) :
    Keeps s₀ (aerUncorrectable code s) := by
  unfold aerUncorrectable
  dsimp only
  repeat' first
      | with_reducible assumption | with_reducible apply Keeps.ite | with_reducible apply emitOut_keeps
      | with_reducible apply signal_keeps | with_reducible apply raise_keeps
      | exact Keeps.lit (by
            first
              | with_reducible assumption
              | (with_reducible apply emitOut_keeps; with_reducible assumption)
              | (with_reducible apply signal_keeps; with_reducible assumption)
              | (with_reducible apply raise_keeps; with_reducible assumption)) rfl rfl rfl rfl rfl | split
      | refine Keeps.lit ?_ rfl rfl rfl rfl rfl

theorem aerAdvisory_keeps {s₀ : State} (code : Nat) (s : State) (hk : Keeps s₀ s) :
    Keeps s₀ (aerAdvisory code s) := by
  unfold aerAdvisory
  repeat' first
      | with_reducible assumption | with_reducible apply Keeps.ite | with_reducible apply aerUncorrectable_keeps
      | with_reducible apply aerCorrectable_keeps
      | exact Keeps.lit (by
            first
              | with_reducible assumption
              | (with_reducible apply aerUncorrectable_keeps; with_reducible assumption)
              | (with_reducible apply aerCorrectable_keeps; with_reducible assumption)) rfl rfl rfl rfl rfl | split
      | refine Keeps.lit ?_ rfl rfl rfl rfl rfl

theorem urRead_keeps {s₀ : State} (bar off : Nat) (s : State) (hk : Keeps s₀ s) : Keeps s₀ (urRead bar off s) := by
  unfold urRead
  repeat' first
      | with_reducible assumption | with_reducible apply aerAdvisory_keeps | with_reducible apply emitOut_keeps
      | exact Keeps.lit (by
            first
              | with_reducible assumption
              | (with_reducible apply aerAdvisory_keeps; with_reducible assumption)
              | (with_reducible apply emitOut_keeps; with_reducible assumption)) rfl rfl rfl rfl rfl
      | refine Keeps.lit ?_ rfl rfl rfl rfl rfl

theorem urWrite_keeps {s₀ : State} (s : State) (hk : Keeps s₀ s) : Keeps s₀ (urWrite s) := by
  unfold urWrite
  repeat' first | with_reducible assumption | with_reducible apply aerUncorrectable_keeps

theorem barWrite_keeps {s₀ : State} (act : Nat → State → State) (s : State) (hact : ∀ a0 x, Keeps s₀ x → Keeps s₀
    (act a0 x)) (hk : Keeps s₀ s) :
    Keeps s₀ (barWrite act s) := by
  unfold barWrite
  repeat' first
      | with_reducible assumption | intro _ | with_reducible apply Keeps.ite | with_reducible apply urWrite_keeps
      | with_reducible apply takeUnlock_keeps | apply hact | split

theorem barRead_keeps {s₀ : State} (bar off n : Nat) (act : State → State) (s : State)
    (hact : ∀ x, Keeps s₀ x → Keeps s₀ (act x)) (hk : Keeps s₀ s) :
    Keeps s₀ (barRead bar off n act s) := by
  unfold barRead
  repeat' first
      | with_reducible assumption | intro _ | with_reducible apply Keeps.ite | with_reducible apply urRead_keeps
      | with_reducible apply emitOut_keeps | apply hact | split

theorem memWriteTlp_keeps {s₀ : State} (bar : Nat) (act : State → State) (s : State)
    (hact : ∀ x, Keeps s₀ x → Keeps s₀ (act x)) (hk : Keeps s₀ s) :
    Keeps s₀ (memWriteTlp bar act s) := by
  unfold memWriteTlp
  repeat' first
      | with_reducible assumption | intro _ | with_reducible apply Keeps.ite | with_reducible apply urWrite_keeps
      | apply hact | split

theorem keyed_keeps {s₀ : State} (c cls off : Nat) (v : Word) (be : BitVec 4) (act : State → State) (s : State)
    (hact : ∀ x, Keeps s₀ x → Keeps s₀ (act x)) (hk : Keeps s₀ s) :
    Keeps s₀ (keyed c cls off v be act s) := by
  unfold keyed
  repeat' first
      | with_reducible assumption | intro _ | with_reducible apply Keeps.ite | with_reducible apply refuseWidth_keeps
      | with_reducible apply refuseWrite_keeps | apply hact

theorem special_keeps {s₀ : State} (off : Nat) (v : Word) (be : BitVec 4) (act : State → State) (s : State)
    (hact : ∀ x, Keeps s₀ x → Keeps s₀ (act x)) (hk : Keeps s₀ s) :
    Keeps s₀ (special off v be act s) := by
  unfold special
  repeat' first
      | with_reducible assumption | intro _ | with_reducible apply Keeps.ite | with_reducible apply refuseWidth_keeps
      | apply hact

/-! ## FaultCmds -/

theorem writeFltSev_keeps {s₀ : State} (i : Nat) (v : Word) (be : BitVec 4) (cls : Nat) (s : State)
    (hk : Keeps s₀ s) :
    Keeps s₀ (writeFltSev i v be cls s) := by
  unfold writeFltSev
  dsimp only
  repeat' first
      | with_reducible assumption | intro _ | with_reducible apply keyed_keeps
      | exact Keeps.lit (by with_reducible assumption) rfl rfl rfl rfl rfl

theorem feedExt_keeps {s₀ : State} (s : State) (hk : Keeps s₀ s) : Keeps s₀ (feedExt s) := by
  unfold feedExt
  repeat' first
      | with_reducible assumption | with_reducible apply Keeps.ite | with_reducible apply goLive_keeps
      | with_reducible apply goDead_keeps

theorem writeFltCtrl_keeps {s₀ : State} (v : Word) (be : BitVec 4) (cls : Nat) (s : State) (hk : Keeps s₀ s) :
    Keeps s₀ (writeFltCtrl v be cls s) := by
  unfold writeFltCtrl
  dsimp only
  repeat' first
      | with_reducible assumption | intro _ | with_reducible apply keyed_keeps
      | with_reducible apply updateFaultN_keeps | with_reducible apply feedExt_keeps
      | exact Keeps.lit (by with_reducible assumption) rfl rfl rfl rfl rfl

theorem clearStatus_keeps {s₀ : State} (bits : Word64) (s : State) (hk : Keeps s₀ s) :
    Keeps s₀ (clearStatus bits s) := by
  unfold clearStatus
  dsimp only
  repeat' first
      | with_reducible assumption | intro _ | with_reducible apply Keeps.ite | with_reducible apply updateFaultN_keeps
      | exact Keeps.lit (by
            first
              | with_reducible assumption
              | (with_reducible apply updateFaultN_keeps; with_reducible assumption)) rfl rfl rfl rfl rfl | split
      | refine Keeps.lit ?_ rfl rfl rfl rfl rfl

theorem writeFltStatus_keeps {s₀ : State} (hi : Bool) (v : Word) (be : BitVec 4) (s : State) (hk : Keeps s₀ s) :
    Keeps s₀ (writeFltStatus hi v be s) := by
  unfold writeFltStatus
  repeat' first
      | with_reducible assumption | with_reducible apply Keeps.ite | with_reducible apply special_keeps
      | with_reducible apply clearStatus_keeps

theorem writeHistPop_keeps {s₀ : State} (v : Word) (be : BitVec 4) (s : State) (hk : Keeps s₀ s) :
    Keeps s₀ (writeHistPop v be s) := by
  unfold writeHistPop
  dsimp only
  repeat' first
      | with_reducible assumption | intro _ | with_reducible apply Keeps.ite | with_reducible apply special_keeps
      | exact Keeps.lit (by with_reducible assumption) rfl rfl rfl rfl rfl

theorem retrainPort_keeps {s₀ : State} (p : Nat) (s : State) (hk : Keeps s₀ s) : Keeps s₀ (retrainPort p s) := by
  unfold retrainPort
  repeat' first
      | with_reducible assumption | with_reducible apply Keeps.ite | with_reducible apply lostPort_keeps
      | with_reducible apply leaveUp_keeps | split

theorem endSafe_keeps {s₀ : State} (s : State) (hk : Keeps s₀ s) : Keeps s₀ (endSafe s) := by
  unfold endSafe
  dsimp only
  repeat' first
      | with_reducible assumption | intro _ | with_reducible apply Keeps.foldl
      | with_reducible apply retrainPort_keeps | with_reducible apply releasePod_keeps
      | exact Keeps.lit (by with_reducible assumption) rfl rfl rfl rfl rfl

theorem releaseSafe_keeps {s₀ : State} (s : State) (hk : Keeps s₀ s) : Keeps s₀ (releaseSafe s) := by
  unfold releaseSafe
  dsimp only
  repeat' first
      | with_reducible assumption | with_reducible apply raise_keeps | with_reducible apply updateFaultN_keeps
      | with_reducible apply endSafe_keeps | exact Keeps.lit (by with_reducible assumption) rfl rfl rfl rfl rfl

theorem writeSafeRelease_keeps {s₀ : State} (v : Word) (be : BitVec 4) (cls : Nat) (s : State) (hk : Keeps s₀ s) :
    Keeps s₀ (writeSafeRelease v be cls s) := by
  unfold writeSafeRelease
  repeat' first
      | with_reducible assumption | intro _ | with_reducible apply Keeps.ite | with_reducible apply keyed_keeps
      | with_reducible apply refuseWrite_keeps | with_reducible apply releaseSafe_keeps
      | with_reducible apply raise_keeps

theorem judgeTemp_keeps {s₀ : State} (t : Int) (s : State) (hk : Keeps s₀ s) : Keeps s₀ (judgeTemp t s) := by
  unfold judgeTemp
  dsimp only
  repeat' first
      | with_reducible assumption | with_reducible apply Keeps.ite | with_reducible apply goLive_keeps
      | with_reducible apply goDead_keeps

theorem railFine_keeps {s₀ : State} (r : Nat) (s : State) (hk : Keeps s₀ s) : Keeps s₀ (railFine r s) := by
  unfold railFine
  dsimp only
  repeat' first
      | with_reducible assumption | with_reducible apply Keeps.ite | with_reducible apply goDead_keeps
      | exact Keeps.lit (by
            first
              | with_reducible assumption
              | (with_reducible apply goDead_keeps; with_reducible assumption)) rfl rfl rfl rfl rfl | split
      | refine Keeps.lit ?_ rfl rfl rfl rfl rfl

theorem bankLost_keeps {s₀ : State} (r : Nat) (s : State) (hk : Keeps s₀ s) : Keeps s₀ (bankLost r s) := by
  unfold bankLost
  dsimp only
  repeat' first
      | with_reducible assumption | with_reducible apply Keeps.ite | with_reducible apply railFine_keeps
      | with_reducible apply feedExt_keeps
      | exact Keeps.lit (by
            first
              | with_reducible assumption
              | (with_reducible apply railFine_keeps; with_reducible assumption)
              | (with_reducible apply feedExt_keeps; with_reducible assumption)) rfl rfl rfl rfl rfl | split
      | refine Keeps.lit ?_ rfl rfl rfl rfl rfl

theorem rebuildStatus_keeps {s₀ : State} (s : State) (hk : Keeps s₀ s) : Keeps s₀ (rebuildStatus s) := by
  unfold rebuildStatus
  dsimp only
  repeat' first
      | with_reducible assumption | intro _ | with_reducible apply updateFaultN_keeps
      | exact Keeps.lit (by
            first
              | with_reducible assumption
              | (with_reducible apply updateFaultN_keeps; with_reducible assumption)) rfl rfl rfl rfl rfl
      | refine Keeps.lit ?_ rfl rfl rfl rfl rfl

end Sys2Proof.Machine
end

