-- ==== Sys2Proof/Laws/KeepsTime.lean ====
section
/-! SUPPORT. What every operation of time, the scheduler, Ridgeline and the clocks keeps. -/

namespace Sys2Proof.Machine

/-! ## TimeAxes -/

theorem setHeldLow_keeps {s₀ : State} (off : Nat) (w : Word) (s : State) (hk : Keeps s₀ s) :
    Keeps s₀ (setHeldLow off w s) := by
  unfold setHeldLow
  dsimp only
  repeat' first
      | with_reducible assumption | intro _ | exact Keeps.lit (by with_reducible assumption) rfl rfl rfl rfl rfl

theorem dropHeldLow_keeps {s₀ : State} (off : Nat) (s : State) (hk : Keeps s₀ s) : Keeps s₀ (dropHeldLow off s) := by
  unfold dropHeldLow
  dsimp only
  repeat' first
      | with_reducible assumption | intro _ | exact Keeps.lit (by with_reducible assumption) rfl rfl rfl rfl rfl

theorem write64_keeps {s₀ : State} (off : Nat) (isAct : Bool) (live v : Word64) (be : BitVec 8)
    (act : Word64 → State → State) (s : State) (hact : ∀ a0 x, Keeps s₀ x → Keeps s₀ (act a0 x)) (hk : Keeps s₀ s) :
    Keeps s₀ (write64 off isAct live v be act s) := by
  unfold write64
  dsimp only
  repeat' first
      | with_reducible assumption | intro _ | with_reducible apply Keeps.ite
      | with_reducible apply refuseWidth64_keeps | with_reducible apply setHeldLow_keeps
      | with_reducible apply dropHeldLow_keeps | apply hact | split

theorem spanA_keeps {s₀ : State} (step : Bool) (s : State) (hk : Keeps s₀ s) : Keeps s₀ (spanA step s) := by
  unfold spanA
  dsimp only
  repeat' first | with_reducible assumption | exact Keeps.lit (by with_reducible assumption) rfl rfl rfl rfl rfl

theorem spanB_keeps {s₀ : State} (step : Bool) (s : State) (hk : Keeps s₀ s) : Keeps s₀ (spanB step s) := by
  unfold spanB
  dsimp only
  repeat' first | with_reducible assumption | exact Keeps.lit (by with_reducible assumption) rfl rfl rfl rfl rfl

theorem setIncrA_keeps {s₀ : State} (v : Word64) (s : State) (hk : Keeps s₀ s) : Keeps s₀ (setIncrA v s) := by
  unfold setIncrA
  dsimp only
  repeat' first
      | with_reducible assumption | with_reducible apply Keeps.ite | with_reducible apply spanA_keeps
      | with_reducible apply raise_keeps | exact Keeps.lit (by with_reducible assumption) rfl rfl rfl rfl rfl

theorem setIncrB_keeps {s₀ : State} (v : Word64) (s : State) (hk : Keeps s₀ s) : Keeps s₀ (setIncrB v s) := by
  unfold setIncrB
  dsimp only
  repeat' first
      | with_reducible assumption | with_reducible apply Keeps.ite | with_reducible apply spanB_keeps
      | with_reducible apply raise_keeps | exact Keeps.lit (by with_reducible assumption) rfl rfl rfl rfl rfl

theorem refuseStepA_keeps {s₀ : State} (s : State) (hk : Keeps s₀ s) : Keeps s₀ (refuseStepA s) := by
  unfold refuseStepA
  dsimp only
  repeat' first
      | with_reducible assumption | with_reducible apply raise_keeps
      | exact Keeps.lit (by with_reducible assumption) rfl rfl rfl rfl rfl

theorem setStepA_keeps {s₀ : State} (cls : Nat) (be : BitVec 8) (v : Word64) (s : State) (hk : Keeps s₀ s) :
    Keeps s₀ (setStepA cls be v s) := by
  unfold setStepA
  dsimp only
  repeat' first
      | with_reducible assumption | with_reducible apply Keeps.ite | with_reducible apply refuseWrite64_keeps
      | with_reducible apply refuseStepA_keeps | exact Keeps.lit (by with_reducible assumption) rfl rfl rfl rfl rfl

theorem setStepB_keeps {s₀ : State} (v : Word64) (s : State) (hk : Keeps s₀ s) : Keeps s₀ (setStepB v s) := by
  unfold setStepB
  repeat' first
      | with_reducible assumption | with_reducible apply Keeps.ite | with_reducible apply raise_keeps
      | exact Keeps.lit (by with_reducible assumption) rfl rfl rfl rfl rfl

theorem writeIncrA_keeps {s₀ : State} (v : Word64) (be : BitVec 8) (s : State) (hk : Keeps s₀ s) :
    Keeps s₀ (writeIncrA v be s) := by
  unfold writeIncrA
  repeat' first | with_reducible assumption | with_reducible apply write64_keeps | with_reducible apply setIncrA_keeps

theorem writeIncrB_keeps {s₀ : State} (v : Word64) (be : BitVec 8) (s : State) (hk : Keeps s₀ s) :
    Keeps s₀ (writeIncrB v be s) := by
  unfold writeIncrB
  repeat' first | with_reducible assumption | with_reducible apply write64_keeps | with_reducible apply setIncrB_keeps

theorem writeStepA_keeps {s₀ : State} (v : Word64) (be : BitVec 8) (cls : Nat) (s : State) (hk : Keeps s₀ s) :
    Keeps s₀ (writeStepA v be cls s) := by
  unfold writeStepA
  repeat' first
      | with_reducible assumption | with_reducible apply Keeps.ite | with_reducible apply refuseWrite64_keeps
      | with_reducible apply write64_keeps | with_reducible apply setStepA_keeps | split

theorem writeStepB_keeps {s₀ : State} (v : Word64) (be : BitVec 8) (s : State) (hk : Keeps s₀ s) :
    Keeps s₀ (writeStepB v be s) := by
  unfold writeStepB
  repeat' first | with_reducible assumption | with_reducible apply write64_keeps | with_reducible apply setStepB_keeps

theorem writeStepLimit_keeps {s₀ : State} (v : Word) (be : BitVec 4) (cls : Nat) (s : State) (hk : Keeps s₀ s) :
    Keeps s₀ (writeStepLimit v be cls s) := by
  unfold writeStepLimit
  dsimp only
  repeat' first
      | with_reducible assumption | intro _ | with_reducible apply keyed_keeps
      | exact Keeps.lit (by with_reducible assumption) rfl rfl rfl rfl rfl

theorem applyStepA_keeps {s₀ : State} (s : State) (hk : Keeps s₀ s) : Keeps s₀ (applyStepA s) := by
  unfold applyStepA
  dsimp only
  repeat' first
      | with_reducible assumption | with_reducible apply spanA_keeps | with_reducible apply raiseWith_keeps
      | with_reducible apply cairnNow_keeps
      | exact Keeps.lit (by
            first
              | with_reducible assumption
              | (with_reducible apply spanA_keeps; with_reducible assumption)
              | (with_reducible apply raiseWith_keeps; with_reducible assumption)
              | (with_reducible apply cairnNow_keeps; with_reducible assumption)) rfl rfl rfl rfl rfl | split

theorem bCairn_keeps {s₀ : State} (old new reason : Nat) (s : State) (hk : Keeps s₀ s) :
    Keeps s₀ (bCairn old new reason s) := by
  unfold bCairn
  repeat' first | with_reducible assumption | with_reducible apply cairnNow_keeps

theorem doStepB_keeps {s₀ : State} (d : Int) (s : State) (hk : Keeps s₀ s) : Keeps s₀ (doStepB d s) := by
  unfold doStepB
  dsimp only
  repeat' first
      | with_reducible assumption | with_reducible apply spanB_keeps | with_reducible apply bCairn_keeps
      | with_reducible apply raise_keeps | exact Keeps.lit (by with_reducible assumption) rfl rfl rfl rfl rfl

theorem applyStepB_keeps {s₀ : State} (s : State) (hk : Keeps s₀ s) : Keeps s₀ (applyStepB s) := by
  unfold applyStepB
  repeat' first
      | with_reducible assumption | with_reducible apply doStepB_keeps
      | exact Keeps.lit (by
            first
              | with_reducible assumption
              | (with_reducible apply doStepB_keeps; with_reducible assumption)) rfl rfl rfl rfl rfl | split

theorem countTick_keeps {s₀ : State} (s : State) (hk : Keeps s₀ s) : Keeps s₀ (countTick s) := by
  unfold countTick
  dsimp only
  repeat' first
      | with_reducible assumption | with_reducible apply Keeps.ite
      | exact Keeps.lit (by with_reducible assumption) rfl rfl rfl rfl rfl

theorem setAxis_keeps {s₀ : State} (s : State) (c : AxisSet) (hk : Keeps s₀ s) : Keeps s₀ (setAxis s c) := by
  unfold setAxis
  repeat' first
      | with_reducible assumption | with_reducible apply Keeps.ite
      | exact Keeps.lit (by with_reducible assumption) rfl rfl rfl rfl rfl

theorem setAxes_keeps {s₀ : State} (s : State) (hk : Keeps s₀ s) : Keeps s₀ (setAxes s) := by
  unfold setAxes
  repeat' first
      | with_reducible assumption | intro _ | with_reducible apply Keeps.foldl | with_reducible apply setAxis_keeps
      | exact Keeps.lit (by with_reducible assumption) rfl rfl rfl rfl rfl

theorem clockTick_keeps {s₀ : State} (s : State) (hk : Keeps s₀ s) : Keeps s₀ (clockTick s) := by
  unfold clockTick
  repeat' first
      | with_reducible assumption | with_reducible apply applyStepB_keeps | with_reducible apply applyStepA_keeps
      | with_reducible apply setAxes_keeps | with_reducible apply countTick_keeps

theorem holdPps_keeps {s₀ : State} (s : State) (hk : Keeps s₀ s) : Keeps s₀ (holdPps s) := by
  unfold holdPps
  repeat' first
      | with_reducible assumption | with_reducible apply Keeps.ite
      | exact Keeps.lit (by with_reducible assumption) rfl rfl rfl rfl rfl

theorem switchSource_keeps {s₀ : State} (new reason : Nat) (s : State) (hk : Keeps s₀ s) :
    Keeps s₀ (switchSource new reason s) := by
  unfold switchSource
  dsimp only
  repeat' first
      | with_reducible assumption | with_reducible apply Keeps.ite | with_reducible apply spanB_keeps
      | with_reducible apply holdPps_keeps | with_reducible apply raise_keeps | with_reducible apply bCairn_keeps
      | with_reducible apply doStepB_keeps | exact Keeps.lit (by with_reducible assumption) rfl rfl rfl rfl rfl

theorem reselect_keeps {s₀ : State} (s : State) (hk : Keeps s₀ s) : Keeps s₀ (reselect s) := by
  unfold reselect
  dsimp only
  repeat' first | with_reducible assumption | with_reducible apply Keeps.ite | with_reducible apply switchSource_keeps

theorem timeSourceCmd_keeps {s₀ : State}  (y0 : List Byte) (y1 : State) (hk : Keeps s₀ y1) :
    Keeps s₀ (timeSourceCmd y0 y1).1 := by
  unfold timeSourceCmd
  dsimp only
  repeat' first
      | with_reducible assumption | intro _ | with_reducible apply Keeps.ite | with_reducible apply quit_keeps
      | with_reducible apply switchSource_keeps
      | exact Keeps.lit (by
            first
              | with_reducible assumption
              | (with_reducible apply quit_keeps; with_reducible assumption)
              | (with_reducible apply switchSource_keeps; with_reducible assumption)) rfl rfl rfl rfl rfl | split

theorem axisCmd_keeps {s₀ : State}  (y0 : List Byte) (y1 : State) (hk : Keeps s₀ y1) :
    Keeps s₀ (axisCmd y0 y1).1 := by
  unfold axisCmd
  dsimp only
  repeat' first
      | with_reducible assumption | intro _ | with_reducible apply Keeps.ite | with_reducible apply quit_keeps
      | with_reducible apply setAxes_keeps
      | exact Keeps.lit (by
            first
              | with_reducible assumption
              | (with_reducible apply quit_keeps; with_reducible assumption)
              | (with_reducible apply setAxes_keeps; with_reducible assumption)) rfl rfl rfl rfl rfl | split

/-! ## Sched -/

theorem askSeal_keeps {s₀ : State} (reason : Nat) (forMb after : Option Nat) (s : State) (hk : Keeps s₀ s) :
    Keeps s₀ (askSeal reason forMb after s) := by
  unfold askSeal
  dsimp only
  repeat' first | with_reducible assumption | exact Keeps.lit (by with_reducible assumption) rfl rfl rfl rfl rfl

theorem setSf_keeps {s₀ : State} (k : Nat) (v : Bool) (t : Nat) (s : State) (hk : Keeps s₀ s) :
    Keeps s₀ (setSf k v t s) := by
  unfold setSf
  dsimp only
  repeat' first
      | with_reducible assumption | intro _ | with_reducible apply Keeps.ite
      | exact Keeps.lit (by with_reducible assumption) rfl rfl rfl rfl rfl

theorem actEpoch_keeps {s₀ : State} (t : Nat) (s : State) (hk : Keeps s₀ s) : Keeps s₀ (actEpoch t s).2 := by
  unfold actEpoch
  dsimp only
  repeat' first
      | with_reducible assumption | with_reducible apply Keeps.ite | with_reducible apply raise_keeps
      | with_reducible apply holdReference_keeps | with_reducible apply acceptCauseAt_keeps
      | exact Keeps.lit (by
            first
              | with_reducible assumption
              | (with_reducible apply raise_keeps; with_reducible assumption)
              | (with_reducible apply holdReference_keeps; with_reducible assumption)
              | (with_reducible apply acceptCauseAt_keeps; with_reducible assumption)) rfl rfl rfl rfl rfl | split

theorem actArm_keeps {s₀ : State} (mask t : Nat) (late : Bool) (s : State) (hk : Keeps s₀ s) :
    Keeps s₀ (actArm mask t late s).2 := by
  unfold actArm
  dsimp only
  repeat' first
      | with_reducible assumption | intro _ | with_reducible apply Keeps.foldl | with_reducible apply armInstant_keeps

theorem actEffect_keeps {s₀ : State} (act arg t : Nat) (late : Bool) (s : State) (hk : Keeps s₀ s) :
    Keeps s₀ (actEffect act arg t late s).2 := by
  unfold actEffect
  repeat' first
      | with_reducible assumption | intro _ | with_reducible apply Keeps.foldl | with_reducible apply Keeps.ite
      | with_reducible apply setSf_keeps | with_reducible apply actArm_keeps | with_reducible apply disarmSeq_keeps
      | with_reducible apply actEpoch_keeps | with_reducible apply addRequest_keeps
      | with_reducible apply askSeal_keeps
      | exact Keeps.lit (by
            first
              | with_reducible assumption
              | (with_reducible apply setSf_keeps; with_reducible assumption)
              | (with_reducible apply actArm_keeps; with_reducible assumption)
              | (with_reducible apply disarmSeq_keeps; with_reducible assumption)
              | (with_reducible apply actEpoch_keeps; with_reducible assumption)
              | (with_reducible apply addRequest_keeps; with_reducible assumption)
              | (with_reducible apply askSeal_keeps; with_reducible assumption)) rfl rfl rfl rfl rfl | split

theorem modSlot_keeps {s₀ : State} (n : Nat) (f : Slot64 → Slot64) (s : State) (hk : Keeps s₀ s) :
    Keeps s₀ (modSlot n f s) := by
  unfold modSlot
  repeat' first | with_reducible assumption | exact Keeps.lit (by with_reducible assumption) rfl rfl rfl rfl rfl

theorem slotOutcome_keeps {s₀ : State} (n outcome instant : Nat) (cfg : Word) (target : Nat) (s : State)
    (hk : Keeps s₀ s) :
    Keeps s₀ (slotOutcome n outcome instant cfg target s) := by
  unfold slotOutcome
  dsimp only
  repeat' first
      | with_reducible assumption | intro _ | with_reducible apply Keeps.ite | with_reducible apply modSlot_keeps
      | with_reducible apply raise_keeps | with_reducible apply pushCairnIf_keeps

theorem reloadSlot_keeps {s₀ : State} (n : Nat) (s : State) (hk : Keeps s₀ s) : Keeps s₀ (reloadSlot n s) := by
  unfold reloadSlot
  dsimp only
  repeat' first
      | with_reducible assumption | intro _ | with_reducible apply Keeps.ite | with_reducible apply modSlot_keeps
      | with_reducible apply raise_keeps

theorem queueFull_keeps {s₀ : State} (n : Nat) (cfg : Word) (target : Nat) (s : State) (hk : Keeps s₀ s) :
    Keeps s₀ (queueFull n cfg target s) := by
  unfold queueFull
  dsimp only
  repeat' first
      | with_reducible assumption | with_reducible apply slotOutcome_keeps | with_reducible apply signal_keeps
      | with_reducible apply raise_keeps
      | exact Keeps.lit (by
            first
              | with_reducible assumption
              | (with_reducible apply slotOutcome_keeps; with_reducible assumption)) rfl rfl rfl rfl rfl

theorem dispatchSlot_keeps {s₀ : State} (n outcome instant : Nat) (s : State) (hk : Keeps s₀ s) :
    Keeps s₀ (dispatchSlot n outcome instant s) := by
  unfold dispatchSlot
  dsimp only
  repeat' first
      | with_reducible assumption | intro _ | with_reducible apply Keeps.ite | with_reducible apply slotOutcome_keeps
      | with_reducible apply actEffect_keeps | with_reducible apply modSlot_keeps
      | with_reducible apply queueFull_keeps | with_reducible apply reloadSlot_keeps
      | exact Keeps.lit (by with_reducible assumption) rfl rfl rfl rfl rfl

theorem judgePast_keeps {s₀ : State} (n : Nat) (s : State) (hk : Keeps s₀ s) : Keeps s₀ (judgePast n s) := by
  unfold judgePast
  dsimp only
  repeat' first
      | with_reducible assumption | with_reducible apply Keeps.ite | with_reducible apply reloadSlot_keeps
      | with_reducible apply slotOutcome_keeps | with_reducible apply dispatchSlot_keeps

theorem noteReached_keeps {s₀ : State} (n : Nat) (s : State) (hk : Keeps s₀ s) : Keeps s₀ (noteReached n s) := by
  unfold noteReached
  repeat' first
      | with_reducible assumption | intro _ | with_reducible apply Keeps.ite | with_reducible apply modSlot_keeps

theorem noteAll_keeps {s₀ : State} (s : State) (hk : Keeps s₀ s) : Keeps s₀ (noteAll s) := by
  unfold noteAll
  repeat' first
      | with_reducible assumption | intro _ | with_reducible apply Keeps.foldl
      | with_reducible apply noteReached_keeps

theorem dispatchDue_keeps {s₀ : State} (n : Nat) (s : State) (hk : Keeps s₀ s) : Keeps s₀ (dispatchDue n s) := by
  unfold dispatchDue
  repeat' first
      | with_reducible assumption | with_reducible apply dispatchSlot_keeps | with_reducible apply judgePast_keeps
      | exact Keeps.lit (by
            first
              | with_reducible assumption
              | (with_reducible apply dispatchSlot_keeps; with_reducible assumption)
              | (with_reducible apply judgePast_keeps; with_reducible assumption)) rfl rfl rfl rfl rfl | split

theorem dispatchThrough_keeps {s₀ : State} (n : Nat) (s : State) (hk : Keeps s₀ s) :
    Keeps s₀ (dispatchThrough n s) := by
  unfold dispatchThrough
  repeat' first
      | with_reducible assumption | intro _ | with_reducible apply Keeps.foldl
      | with_reducible apply dispatchDue_keeps
      | exact Keeps.lit (by
            first
              | with_reducible assumption
              | (with_reducible apply dispatchDue_keeps; with_reducible assumption)) rfl rfl rfl rfl rfl | split

theorem takeArm_keeps {s₀ : State} (n : Nat) (s : State) (hk : Keeps s₀ s) : Keeps s₀ (takeArm n s) := by
  unfold takeArm
  dsimp only
  repeat' first
      | with_reducible assumption | intro _ | with_reducible apply Keeps.ite | with_reducible apply modSlot_keeps
      | with_reducible apply raise_keeps

theorem slotTick_keeps {s₀ : State} (s : State) (hk : Keeps s₀ s) : Keeps s₀ (slotTick s) := by
  unfold slotTick
  dsimp only
  repeat' first
      | with_reducible assumption | intro _ | with_reducible apply Keeps.foldl | with_reducible apply Keeps.ite
      | with_reducible apply takeArm_keeps | with_reducible apply noteAll_keeps
      | with_reducible apply dispatchThrough_keeps

theorem judgeAllClocks_keeps {s₀ : State} (s : State) (hk : Keeps s₀ s) : Keeps s₀ (judgeAllClocks s) := by
  unfold judgeAllClocks
  repeat' first
      | with_reducible assumption | intro _ | with_reducible apply Keeps.foldl | with_reducible apply Keeps.ite
      | with_reducible apply judgeClocks_keeps

theorem slewTick_keeps {s₀ : State} (s : State) (hk : Keeps s₀ s) : Keeps s₀ (slewTick s) := by
  unfold slewTick
  dsimp only
  repeat' first
      | with_reducible assumption | with_reducible apply Keeps.ite | with_reducible apply freeBits_keeps
      | exact Keeps.lit (by
            first
              | with_reducible assumption
              | (with_reducible apply freeBits_keeps; with_reducible assumption)) rfl rfl rfl rfl rfl | split
      | refine Keeps.lit ?_ rfl rfl rfl rfl rfl

theorem disarmSlot_keeps {s₀ : State} (n : Nat) (s : State) (hk : Keeps s₀ s) : Keeps s₀ (disarmSlot n s) := by
  unfold disarmSlot
  repeat' first
      | with_reducible assumption | intro _ | with_reducible apply modSlot_keeps
      | with_reducible apply dispatchThrough_keeps

theorem writeSchCtrl_keeps {s₀ : State} (n : Nat) (v : Word) (be : BitVec 4) (s : State) (hk : Keeps s₀ s) :
    Keeps s₀ (writeSchCtrl n v be s) := by
  unfold writeSchCtrl
  repeat' first
      | with_reducible assumption | intro _ | with_reducible apply Keeps.ite | with_reducible apply special_keeps
      | with_reducible apply disarmSlot_keeps | with_reducible apply modSlot_keeps

theorem writeSfBits_keeps {s₀ : State} (mask v : Nat) (s : State) (hk : Keeps s₀ s) :
    Keeps s₀ (writeSfBits mask v s) := by
  unfold writeSfBits
  repeat' first
      | with_reducible assumption | intro _ | with_reducible apply Keeps.foldl | with_reducible apply setSf_keeps

theorem writeSf_keeps {s₀ : State} (v : Word) (be : BitVec 4) (s : State) (hk : Keeps s₀ s) :
    Keeps s₀ (writeSf v be s) := by
  unfold writeSf
  repeat' first | with_reducible assumption | with_reducible apply writeSfBits_keeps

/-! ## RlLink -/

theorem pumpRecord_keeps {s₀ : State} : ∀ (n p : Nat) (s : State), Keeps s₀ s → Keeps s₀ (pumpRecord n p s)
  | 0, _, _, h => h
  | n + 1, p, s, h => by
    unfold pumpRecord
    dsimp only
    split
    · exact h
    · split
      · exact pumpRecord_keeps n p _ (sendLocal_keeps _ _ _ _ (modPort_keeps _ _ _ h))
      · exact h

theorem pumpPort_keeps {s₀ : State} (p : Nat) (s : State) (hk : Keeps s₀ s) : Keeps s₀ (pumpPort p s) := by
  unfold pumpPort
  repeat' first | with_reducible assumption | with_reducible apply pumpRecord_keeps

theorem queueRecord_keeps {s₀ : State} (p : Nat) (bytes : List Byte) (s : State) (hk : Keeps s₀ s) :
    Keeps s₀ (queueRecord p bytes s) := by
  unfold queueRecord
  dsimp only
  repeat' first | with_reducible assumption | intro _ | with_reducible apply modPort_keeps

theorem forwardOn_keeps {s₀ : State} (p : Nat) (f : Frame) (s : State) (hk : Keeps s₀ s) :
    Keeps s₀ (forwardOn p f s) := by
  unfold forwardOn
  dsimp only
  repeat' first
      | with_reducible assumption | intro _ | with_reducible apply Keeps.ite | with_reducible apply modPort_keeps
      | with_reducible apply pumpPort_keeps | with_reducible apply queueRecord_keeps
      | with_reducible apply raise_keeps
      | exact Keeps.lit (by
            first
              | with_reducible assumption
              | (with_reducible apply modPort_keeps; with_reducible assumption)
              | (with_reducible apply pumpPort_keeps; with_reducible assumption)
              | (with_reducible apply queueRecord_keeps; with_reducible assumption)
              | (with_reducible apply raise_keeps; with_reducible assumption)) rfl rfl rfl rfl rfl | split

theorem forwardRecord_keeps {s₀ : State} (f : Frame) (s : State) (hk : Keeps s₀ s) :
    Keeps s₀ (forwardRecord f s) := by
  unfold forwardRecord
  repeat' first
      | with_reducible assumption | intro _ | with_reducible apply Keeps.foldl | with_reducible apply forwardOn_keeps

theorem emitRet_keeps {s₀ : State} (type unit pod flags : Nat) (t0 : Nat × Nat) (row : Option Nat) (pods : Nat)
    (body : List Byte) (s : State) (hk : Keeps s₀ s) :
    Keeps s₀ (emitRet type unit pod flags t0 row pods body s) := by
  unfold emitRet
  dsimp only
  repeat' first
      | with_reducible assumption | with_reducible apply emitFrame_keeps | with_reducible apply forwardRecord_keeps
      | exact Keeps.lit (by
            first
              | with_reducible assumption
              | (with_reducible apply emitFrame_keeps; with_reducible assumption)
              | (with_reducible apply forwardRecord_keeps; with_reducible assumption)) rfl rfl rfl rfl rfl | split

theorem dropBounds_keeps {s₀ : State} (d : FwdDrop) (s : State) (hk : Keeps s₀ s) : Keeps s₀ (dropBounds d s).2 := by
  unfold dropBounds
  dsimp only
  repeat' first
      | with_reducible assumption | with_reducible apply freeBits_keeps
      | exact Keeps.lit (by
            first
              | with_reducible assumption
              | (with_reducible apply freeBits_keeps; with_reducible assumption)) rfl rfl rfl rfl rfl | split

theorem endDrop_keeps {s₀ : State} (p : Nat) (s : State) (hk : Keeps s₀ s) : Keeps s₀ (endDrop p s) := by
  unfold endDrop
  dsimp only
  repeat' first
      | with_reducible assumption | intro _ | with_reducible apply Keeps.ite | with_reducible apply dropBounds_keeps
      | with_reducible apply queueRecord_keeps | with_reducible apply modPort_keeps
      | with_reducible apply countGap_keeps
      | exact Keeps.lit (by
            first
              | with_reducible assumption
              | (with_reducible apply dropBounds_keeps; with_reducible assumption)
              | (with_reducible apply queueRecord_keeps; with_reducible assumption)
              | (with_reducible apply modPort_keeps; with_reducible assumption)
              | (with_reducible apply countGap_keeps; with_reducible assumption)) rfl rfl rfl rfl rfl | split
      | refine Keeps.lit ?_ rfl rfl rfl rfl rfl

theorem grantCredit_keeps {s₀ : State} (p : Nat) (force : Bool) (s : State) (hk : Keeps s₀ s) :
    Keeps s₀ (grantCredit p force s) := by
  unfold grantCredit
  dsimp only
  repeat' first
      | with_reducible assumption | intro _ | with_reducible apply Keeps.ite | with_reducible apply modPort_keeps
      | with_reducible apply sendLocal_keeps
      | exact Keeps.lit (by
            first
              | with_reducible assumption
              | (with_reducible apply modPort_keeps; with_reducible assumption)
              | (with_reducible apply sendLocal_keeps; with_reducible assumption)) rfl rfl rfl rfl rfl | split
      | refine Keeps.lit ?_ rfl rfl rfl rfl rfl

theorem grantAll_keeps {s₀ : State} (s : State) (hk : Keeps s₀ s) : Keeps s₀ (grantAll s) := by
  unfold grantAll
  repeat' first
      | with_reducible assumption | intro _ | with_reducible apply Keeps.foldl
      | with_reducible apply grantCredit_keeps

theorem resendRecord_keeps {s₀ : State} (p : Nat) (s : State) (hk : Keeps s₀ s) : Keeps s₀ (resendRecord p s) := by
  unfold resendRecord
  repeat' first
      | with_reducible assumption | intro _ | with_reducible apply modPort_keeps
      | exact Keeps.lit (by
            first
              | with_reducible assumption
              | (with_reducible apply modPort_keeps; with_reducible assumption)) rfl rfl rfl rfl rfl
      | refine Keeps.lit ?_ rfl rfl rfl rfl rfl

theorem takeForwarded_keeps {s₀ : State} (p : Nat) (bs : List Byte) (s : State) (hk : Keeps s₀ s) :
    Keeps s₀ (takeForwarded p bs s) := by
  unfold takeForwarded
  dsimp only
  repeat' first
      | with_reducible assumption | intro _ | with_reducible apply Keeps.ite | with_reducible apply modPort_keeps
      | with_reducible apply handFrame_keeps | with_reducible apply grantCredit_keeps
      | with_reducible apply sendLocal_keeps
      | exact Keeps.lit (by
            first
              | with_reducible assumption
              | (with_reducible apply modPort_keeps; with_reducible assumption)
              | (with_reducible apply handFrame_keeps; with_reducible assumption)
              | (with_reducible apply grantCredit_keeps; with_reducible assumption)
              | (with_reducible apply sendLocal_keeps; with_reducible assumption)) rfl rfl rfl rfl rfl | split
      | refine Keeps.lit ?_ rfl rfl rfl rfl rfl

theorem judgeGood_keeps {s₀ : State} (p : Nat) (s : State) (hk : Keeps s₀ s) : Keeps s₀ (judgeGood p s) := by
  unfold judgeGood
  dsimp only
  repeat' first
      | with_reducible assumption | intro _ | with_reducible apply Keeps.ite | with_reducible apply modPort_keeps

theorem servo_keeps {s₀ : State} (p rate : Nat) (s : State) (hk : Keeps s₀ s) : Keeps s₀ (servo p rate s) := by
  unfold servo
  dsimp only
  repeat' first
      | with_reducible assumption | with_reducible apply Keeps.ite | with_reducible apply freeBits_keeps
      | with_reducible apply spanB_keeps
      | exact Keeps.lit (by
            first
              | with_reducible assumption
              | (with_reducible apply freeBits_keeps; with_reducible assumption)
              | (with_reducible apply spanB_keeps; with_reducible assumption)) rfl rfl rfl rfl rfl | split
      | refine Keeps.lit ?_ rfl rfl rfl rfl rfl

/-! ## RlChain -/

theorem applyFire_keeps {s₀ : State} (p origin : Nat) (b : List Byte) (s : State) (hk : Keeps s₀ s) :
    Keeps s₀ (applyFire p origin b s) := by
  unfold applyFire
  dsimp only
  repeat' first
      | with_reducible assumption | with_reducible apply Keeps.ite | with_reducible apply raise_keeps
      | with_reducible apply groupDone_keeps | with_reducible apply pushCairnIf_keeps
      | exact Keeps.lit (by
            first
              | with_reducible assumption
              | (with_reducible apply raise_keeps; with_reducible assumption)
              | (with_reducible apply groupDone_keeps; with_reducible assumption)
              | (with_reducible apply pushCairnIf_keeps; with_reducible assumption)) rfl rfl rfl rfl rfl | split
      | refine Keeps.lit ?_ rfl rfl rfl rfl rfl

theorem actTimed_keeps {s₀ : State} (action arg t : Nat) (late : Bool) (s : State) (hk : Keeps s₀ s) :
    Keeps s₀ (actTimed action arg t late s) := by
  unfold actTimed
  dsimp only
  repeat' first
      | with_reducible assumption | with_reducible apply Keeps.ite | with_reducible apply raise_keeps
      | with_reducible apply actEffect_keeps

theorem timedPast_keeps {s₀ : State} (e : Timed) (s : State) (hk : Keeps s₀ s) : Keeps s₀ (timedPast e s) := by
  unfold timedPast
  repeat' first
      | with_reducible assumption | with_reducible apply Keeps.ite | with_reducible apply actTimed_keeps
      | with_reducible apply raise_keeps

theorem applyTimed_keeps {s₀ : State} (e : Timed) (s : State) (hk : Keeps s₀ s) : Keeps s₀ (applyTimed e s) := by
  unfold applyTimed
  repeat' first
      | with_reducible assumption | with_reducible apply Keeps.ite | with_reducible apply raise_keeps
      | with_reducible apply timedPast_keeps | exact Keeps.lit (by with_reducible assumption) rfl rfl rfl rfl rfl

theorem missTimed_keeps {s₀ : State} (p : Nat) (s : State) (hk : Keeps s₀ s) : Keeps s₀ (missTimed p s) := by
  unfold missTimed
  repeat' first
      | with_reducible assumption | intro _ | with_reducible apply raise_keeps | with_reducible apply modPort_keeps

theorem timedCmd_keeps {s₀ : State}  (y0 : List Byte) (y1 : State) (hk : Keeps s₀ y1) :
    Keeps s₀ (timedCmd y0 y1).1 := by
  unfold timedCmd
  dsimp only
  repeat' first
      | with_reducible assumption | intro _ | with_reducible apply Keeps.ite | with_reducible apply quit_keeps
      | with_reducible apply modPort_keeps | with_reducible apply missTimed_keeps
      | exact Keeps.lit (by
            first
              | with_reducible assumption
              | (with_reducible apply quit_keeps; with_reducible assumption)
              | (with_reducible apply modPort_keeps; with_reducible assumption)
              | (with_reducible apply missTimed_keeps; with_reducible assumption)) rfl rfl rfl rfl rfl | split

theorem startTunnelled_keeps {s₀ : State} (port : Nat) (t : TunnelIn) (req : List Byte) (s : State)
    (hk : Keeps s₀ s) :
    Keeps s₀ (startTunnelled port t req s) := by
  unfold startTunnelled
  dsimp only
  repeat' first
      | with_reducible assumption | intro _ | with_reducible apply Keeps.ite
      | with_reducible apply sendTunnelResp_keeps | with_reducible apply modMb_keeps
      | exact Keeps.lit (by
            first
              | with_reducible assumption
              | (with_reducible apply sendTunnelResp_keeps; with_reducible assumption)
              | (with_reducible apply modMb_keeps; with_reducible assumption)) rfl rfl rfl rfl rfl | split
      | refine Keeps.lit ?_ rfl rfl rfl rfl rfl

theorem tunnelCmd_keeps {s₀ : State} (m : Nat) (y0 : List Byte) (y1 : State) (hk : Keeps s₀ y1) :
    Keeps s₀ (tunnelCmd m y0 y1).1 := by
  unfold tunnelCmd
  dsimp only
  repeat' first
      | with_reducible assumption | intro _ | with_reducible apply Keeps.foldl | with_reducible apply Keeps.ite
      | with_reducible apply quit_keeps | with_reducible apply originate_keeps
      | exact Keeps.lit (by
            first
              | with_reducible assumption
              | (with_reducible apply quit_keeps; with_reducible assumption)
              | (with_reducible apply originate_keeps; with_reducible assumption)) rfl rfl rfl rfl rfl | split

theorem setAddress_keeps {s₀ : State} (a : Nat) (s : State) (hk : Keeps s₀ s) : Keeps s₀ (setAddress a s) := by
  unfold setAddress
  repeat' first
      | with_reducible assumption | with_reducible apply Keeps.ite | with_reducible apply raise_keeps
      | exact Keeps.lit (by with_reducible assumption) rfl rfl rfl rfl rfl

theorem noteSession_keeps {s₀ : State} (n : Nat) (s : State) (hk : Keeps s₀ s) : Keeps s₀ (noteSession n s) := by
  unfold noteSession
  dsimp only
  repeat' first
      | with_reducible assumption | with_reducible apply Keeps.ite
      | exact Keeps.lit (by with_reducible assumption) rfl rfl rfl rfl rfl

theorem rxDisc_keeps {s₀ : State} (p type : Nat) (key : List Byte) (f : List Byte) (act : State → State) (s : State)
    (hact : ∀ x, Keeps s₀ x → Keeps s₀ (act x)) (hk : Keeps s₀ s) :
    Keeps s₀ (rxDisc p type key f act s) := by
  unfold rxDisc
  dsimp only
  repeat' first
      | with_reducible assumption | intro _ | with_reducible apply Keeps.ite | with_reducible apply noteSession_keeps
      | with_reducible apply forward_keeps | apply hact
      | exact Keeps.lit (by
            first
              | with_reducible assumption
              | (with_reducible apply noteSession_keeps; with_reducible assumption)) rfl rfl rfl rfl rfl

theorem noteReply_keeps {s₀ : State} (f : List Byte) (s : State) (hk : Keeps s₀ s) : Keeps s₀ (noteReply f s) := by
  unfold noteReply
  dsimp only
  repeat' first | with_reducible assumption | exact Keeps.lit (by with_reducible assumption) rfl rfl rfl rfl rfl

theorem assignUnit_keeps {s₀ : State} (session : Nat) (s : State) (u : RlUnit) (hk : Keeps s₀ s) :
    Keeps s₀ (assignUnit session s u) := by
  unfold assignUnit
  dsimp only
  repeat' first
      | with_reducible assumption | with_reducible apply Keeps.ite | with_reducible apply originateDisc_keeps
      | exact Keeps.lit (by with_reducible assumption) rfl rfl rfl rfl rfl

theorem endSession_keeps {s₀ : State} (r : RlSession) (s : State) (hk : Keeps s₀ s) : Keeps s₀ (endSession r s) := by
  unfold endSession
  dsimp only
  repeat' first
      | with_reducible assumption | intro _ | with_reducible apply Keeps.foldl | with_reducible apply Keeps.ite
      | with_reducible apply setAddress_keeps | with_reducible apply assignUnit_keeps
      | with_reducible apply raise_keeps | with_reducible apply fillTransfer_keeps
      | exact Keeps.lit (by
            first
              | with_reducible assumption
              | (with_reducible apply setAddress_keeps; with_reducible assumption)
              | (with_reducible apply assignUnit_keeps; with_reducible assumption)
              | (with_reducible apply raise_keeps; with_reducible assumption)
              | (with_reducible apply fillTransfer_keeps; with_reducible assumption)) rfl rfl rfl rfl rfl | split
      | refine Keeps.lit ?_ rfl rfl rfl rfl rfl

theorem discoverCmd_keeps {s₀ : State} (m : Nat) (y0 : List Byte) (y1 : State) (hk : Keeps s₀ y1) :
    Keeps s₀ (discoverCmd m y0 y1).1 := by
  unfold discoverCmd
  dsimp only
  repeat' first
      | with_reducible assumption | intro _ | with_reducible apply Keeps.ite | with_reducible apply quit_keeps
      | with_reducible apply quitClaimed_keeps | with_reducible apply cwClaim_keeps
      | with_reducible apply originateDisc_keeps
      | exact Keeps.lit (by
            first
              | with_reducible assumption
              | (with_reducible apply quit_keeps; with_reducible assumption)
              | (with_reducible apply quitClaimed_keeps; with_reducible assumption)
              | (with_reducible apply cwClaim_keeps; with_reducible assumption)
              | (with_reducible apply originateDisc_keeps; with_reducible assumption)) rfl rfl rfl rfl rfl | split

theorem setPort_keeps {s₀ : State} (p fl mask : Nat) (asym : Int) (s : State) (hk : Keeps s₀ s) :
    Keeps s₀ (setPort p fl mask asym s) := by
  unfold setPort
  dsimp only
  repeat' first
      | with_reducible assumption | intro _ | with_reducible apply Keeps.ite | with_reducible apply modPort_keeps
      | with_reducible apply settleRef_keeps | with_reducible apply disablePort_keeps
      | with_reducible apply grantCredit_keeps
      | exact Keeps.lit (by
            first
              | with_reducible assumption
              | (with_reducible apply modPort_keeps; with_reducible assumption)
              | (with_reducible apply settleRef_keeps; with_reducible assumption)
              | (with_reducible apply disablePort_keeps; with_reducible assumption)
              | (with_reducible apply grantCredit_keeps; with_reducible assumption)) rfl rfl rfl rfl rfl | split
      | refine Keeps.lit ?_ rfl rfl rfl rfl rfl

theorem portCfgCmd_keeps {s₀ : State}  (y0 : List Byte) (y1 : State) (hk : Keeps s₀ y1) :
    Keeps s₀ (portCfgCmd y0 y1).1 := by
  unfold portCfgCmd
  dsimp only
  repeat' first
      | with_reducible assumption | intro _ | with_reducible apply Keeps.ite | with_reducible apply quit_keeps
      | with_reducible apply setPort_keeps | split

/-! ## Clock -/

theorem openSuspect_keeps {s₀ : State} (reason : Nat) (s : State) (hk : Keeps s₀ s) :
    Keeps s₀ (openSuspect reason s) := by
  unfold openSuspect
  dsimp only
  repeat' first
      | with_reducible assumption | intro _ | with_reducible apply Keeps.ite | with_reducible apply cairnNow_keeps
      | with_reducible apply settleSuspect_keeps | with_reducible apply evalNow_keeps
      | exact Keeps.lit (by
            first
              | with_reducible assumption
              | (with_reducible apply cairnNow_keeps; with_reducible assumption)
              | (with_reducible apply settleSuspect_keeps; with_reducible assumption)
              | (with_reducible apply evalNow_keeps; with_reducible assumption)) rfl rfl rfl rfl rfl | split
      | refine Keeps.lit ?_ rfl rfl rfl rfl rfl

theorem closeSuspect_keeps {s₀ : State} (s : State) (hk : Keeps s₀ s) : Keeps s₀ (closeSuspect s) := by
  unfold closeSuspect
  dsimp only
  repeat' first
      | with_reducible assumption | with_reducible apply cairnNow_keeps
      | exact Keeps.lit (by
            first
              | with_reducible assumption
              | (with_reducible apply cairnNow_keeps; with_reducible assumption)) rfl rfl rfl rfl rfl | split

theorem startRealign_keeps {s₀ : State} (s : State) (hk : Keeps s₀ s) : Keeps s₀ (startRealign s) := by
  unfold startRealign
  dsimp only
  repeat' first
      | with_reducible assumption | with_reducible apply Keeps.ite
      | exact Keeps.lit (by with_reducible assumption) rfl rfl rfl rfl rfl

theorem realignBoundary_keeps {s₀ : State} (s : State) (hk : Keeps s₀ s) : Keeps s₀ (realignBoundary s) := by
  unfold realignBoundary
  dsimp only
  repeat' first
      | with_reducible assumption | with_reducible apply Keeps.ite
      | exact Keeps.lit (by with_reducible assumption) rfl rfl rfl rfl rfl

theorem clearRealign_keeps {s₀ : State} (s : State) (hk : Keeps s₀ s) : Keeps s₀ (clearRealign s) := by
  unfold clearRealign
  dsimp only
  repeat' first | with_reducible assumption | exact Keeps.lit (by with_reducible assumption) rfl rfl rfl rfl rfl

theorem phaseCairn_keeps {s₀ : State} (pll : Nat) (step pbo : Int) (s : State) (hk : Keeps s₀ s) :
    Keeps s₀ (phaseCairn pll step pbo s) := by
  unfold phaseCairn
  repeat' first | with_reducible assumption | with_reducible apply cairnNow_keeps

theorem absorbS_keeps {s₀ : State} (d : Int) (s : State) (hk : Keeps s₀ s) : Keeps s₀ (absorbS d s) := by
  unfold absorbS
  dsimp only
  repeat' first
      | with_reducible assumption | with_reducible apply phaseCairn_keeps
      | exact Keeps.lit (by with_reducible assumption) rfl rfl rfl rfl rfl

theorem absorbL_keeps {s₀ : State} (d : Int) (s : State) (hk : Keeps s₀ s) : Keeps s₀ (absorbL d s) := by
  unfold absorbL
  dsimp only
  repeat' first
      | with_reducible assumption | with_reducible apply phaseCairn_keeps
      | exact Keeps.lit (by with_reducible assumption) rfl rfl rfl rfl rfl

theorem countStep_keeps {s₀ : State} (s : State) (hk : Keeps s₀ s) : Keeps s₀ (countStep s) := by
  unfold countStep
  repeat' first
      | with_reducible assumption | with_reducible apply startRealign_keeps | with_reducible apply raise_keeps
      | exact Keeps.lit (by with_reducible assumption) rfl rfl rfl rfl rfl

theorem lockS_keeps {s₀ : State} (s : State) (hk : Keeps s₀ s) : Keeps s₀ (lockS s) := by
  unfold lockS
  repeat' first
      | with_reducible assumption | with_reducible apply closeSuspect_keeps | with_reducible apply goDead_keeps
      | with_reducible apply raise_keeps
      | exact Keeps.lit (by
            first
              | with_reducible assumption
              | (with_reducible apply closeSuspect_keeps; with_reducible assumption)
              | (with_reducible apply goDead_keeps; with_reducible assumption)
              | (with_reducible apply raise_keeps; with_reducible assumption)) rfl rfl rfl rfl rfl
      | refine Keeps.lit ?_ rfl rfl rfl rfl rfl

theorem lockL_keeps {s₀ : State} (s : State) (hk : Keeps s₀ s) : Keeps s₀ (lockL s) := by
  unfold lockL
  dsimp only
  repeat' first
      | with_reducible assumption | intro _ | with_reducible apply Keeps.foldl | with_reducible apply modPort_keeps
      | with_reducible apply goDead_keeps | with_reducible apply raise_keeps
      | exact Keeps.lit (by
            first
              | with_reducible assumption
              | (with_reducible apply modPort_keeps; with_reducible assumption)
              | (with_reducible apply goDead_keeps; with_reducible assumption)
              | (with_reducible apply raise_keeps; with_reducible assumption)) rfl rfl rfl rfl rfl
      | refine Keeps.lit ?_ rfl rfl rfl rfl rfl

theorem unlockL_keeps {s₀ : State} (s : State) (hk : Keeps s₀ s) : Keeps s₀ (unlockL s) := by
  unfold unlockL
  dsimp only
  repeat' first
      | with_reducible assumption | intro _ | with_reducible apply Keeps.foldl | with_reducible apply Keeps.ite
      | with_reducible apply signal_keeps | with_reducible apply raise_keeps | with_reducible apply lostPort_keeps
      | with_reducible apply leaveUp_keeps
      | exact Keeps.lit (by
            first
              | with_reducible assumption
              | (with_reducible apply signal_keeps; with_reducible assumption)
              | (with_reducible apply raise_keeps; with_reducible assumption)
              | (with_reducible apply lostPort_keeps; with_reducible assumption)
              | (with_reducible apply leaveUp_keeps; with_reducible assumption)) rfl rfl rfl rfl rfl | split
      | refine Keeps.lit ?_ rfl rfl rfl rfl rfl

theorem readDcoS_keeps {s₀ : State} (ppb : Int) (s : State) (hk : Keeps s₀ s) : Keeps s₀ (readDcoS ppb s) := by
  unfold readDcoS
  dsimp only
  repeat' first
      | with_reducible assumption | with_reducible apply Keeps.ite | with_reducible apply requestStop_keeps
      | with_reducible apply raise_keeps
      | exact Keeps.lit (by
            first
              | with_reducible assumption
              | (with_reducible apply requestStop_keeps; with_reducible assumption)
              | (with_reducible apply raise_keeps; with_reducible assumption)) rfl rfl rfl rfl rfl | split
      | refine Keeps.lit ?_ rfl rfl rfl rfl rfl

theorem closeAtLastBlock_keeps {s₀ : State} (s : State) (hk : Keeps s₀ s) : Keeps s₀ (closeAtLastBlock s) := by
  unfold closeAtLastBlock
  dsimp only
  repeat' first
      | with_reducible assumption | intro _ | with_reducible apply Keeps.ite
      | exact Keeps.lit (by with_reducible assumption) rfl rfl rfl rfl rfl | split
      | refine Keeps.lit ?_ rfl rfl rfl rfl rfl

theorem switchRef_keeps {s₀ : State} (s : State) (hk : Keeps s₀ s) : Keeps s₀ (switchRef s) := by
  unfold switchRef
  dsimp only
  repeat' first
      | with_reducible assumption | with_reducible apply Keeps.ite | with_reducible apply startQualify_keeps
      | with_reducible apply enterHoldover_keeps
      | exact Keeps.lit (by
            first
              | with_reducible assumption
              | (with_reducible apply startQualify_keeps; with_reducible assumption)
              | (with_reducible apply enterHoldover_keeps; with_reducible assumption)) rfl rfl rfl rfl rfl | split
      | refine Keeps.lit ?_ rfl rfl rfl rfl rfl

theorem pllTail_keeps {s₀ : State} (b c : Bool) (fl qm : Nat) (s : State) (h : Keeps s₀ s) :
    Keeps s₀ (
      let s := if b then
          (if fl = 1 then startRealign { s with pll := { s.pll with realign := true } } else clearRealign s) else s
      if c then { s with pll := { s.pll with qualMs := qm } } else s) := by
  have h1 : Keeps s₀ (if b then
      (if fl = 1 then startRealign { s with pll := { s.pll with realign := true } } else clearRealign s) else s) :=
    Keeps.ite (Keeps.ite (startRealign_keeps _ (Keeps.lit h rfl rfl rfl rfl rfl)) (clearRealign_keeps _ h)) h
  exact Keeps.ite (Keeps.lit h1 rfl rfl rfl rfl rfl) h1

theorem pllCmd_keeps {s₀ : State} (key : Nat) (q : List Byte) (s : State) (h : Keeps s₀ s) :
    Keeps s₀ (pllCmd key q s).1 := by
  unfold pllCmd
  extract_lets op ops sel alt fr pp bs bl div fl qm rl on badRef badBw badOut badQual change v1 s1 s2 v2 s3 v3 s4 v4 s5 v5 s6
  have h1 : Keeps s₀ s1 := Keeps.ite (Keeps.lit h rfl rfl rfl rfl rfl) h
  clear_value s1
  have h2 : Keeps s₀ s2 := Keeps.ite (switchRef_keeps _ h1) (Keeps.ite (startQualify_keeps _ h1) h1)
  clear_value s2
  have h3 : Keeps s₀ s3 := Keeps.ite (Keeps.lit h2 rfl rfl rfl rfl rfl) h2
  clear_value s3
  have h4 : Keeps s₀ s4 := Keeps.ite (Keeps.lit h3 rfl rfl rfl rfl rfl) h3
  clear_value s4
  exact Keeps.iteFst h (Keeps.iteFst h (Keeps.iteFst h (Keeps.iteFst h (pllTail_keeps _ _ _ _ s4 h4))))

end Sys2Proof.Machine
end

