-- ==== Sys2Proof/Laws/KeepsHost.lean ====
section
/-! SUPPORT. What every operation of the endpoint and the mailboxes keeps. -/

namespace Sys2Proof.Machine

/-! ## Pcie -/

theorem sendLtr_keeps {s₀ : State} (s : State) (hk : Keeps s₀ s) : Keeps s₀ (sendLtr s) := by
  unfold sendLtr
  dsimp only
  repeat' first
      | with_reducible assumption | with_reducible apply Keeps.ite | with_reducible apply emitOut_keeps
      | exact Keeps.lit (by
            first
              | with_reducible assumption
              | (with_reducible apply emitOut_keeps; with_reducible assumption)) rfl rfl rfl rfl rfl

theorem refuseInbound_keeps {s₀ : State} (off : Nat) (acc : MemAccess) (s : State) (hk : Keeps s₀ s) :
    Keeps s₀ (refuseInbound off acc s) := by
  unfold refuseInbound
  repeat' first
      | with_reducible assumption | with_reducible apply raise_keeps | with_reducible apply urRead_keeps
      | exact Keeps.lit (by
            first
              | with_reducible assumption
              | (with_reducible apply raise_keeps; with_reducible assumption)
              | (with_reducible apply urRead_keeps; with_reducible assumption)) rfl rfl rfl rfl rfl | split

theorem scratchStore_keeps {s₀ : State} (o : Nat) (bs : List (Option Byte)) (s : State) (h : Keeps s₀ s) :
    Keeps s₀ (scratchStore o bs s) := by
  unfold scratchStore
  dsimp only
  split
  · exact h
  · exact healWords_keeps _ _ _ _ (h.mem rfl rfl id (fun w => memWriteEn_wf _ w o) id id rfl)

theorem inbound_keeps {s₀ : State} (off : Nat) (acc : MemAccess) (ok : Bool) (data : Nat → Nat → State → List Byte)
    (store : Nat → List (Option Byte) → State → State) (s : State) (hstore : ∀ a0 a1 x, Keeps s₀ x → Keeps s₀
    (store a0 a1 x)) (hk : Keeps s₀ s) :
    Keeps s₀ (inbound off acc ok data store s) := by
  unfold inbound
  repeat' first
      | with_reducible assumption | intro _ | with_reducible apply Keeps.ite | with_reducible apply barRead_keeps
      | with_reducible apply emitOut_keeps | with_reducible apply refuseInbound_keeps
      | with_reducible apply memWriteTlp_keeps | apply hstore
      | exact Keeps.lit (by
            first
              | with_reducible assumption
              | (with_reducible apply barRead_keeps; with_reducible assumption)
              | (with_reducible apply emitOut_keeps; with_reducible assumption)
              | (with_reducible apply refuseInbound_keeps; with_reducible assumption)
              | (with_reducible apply memWriteTlp_keeps; with_reducible assumption)) rfl rfl rfl rfl rfl | split
      | refine Keeps.lit ?_ rfl rfl rfl rfl rfl

theorem cwStore_keeps {s₀ : State} (k : Nat) : ∀ (bs : List (Option Byte)) (o : Nat) (s : State),
    Keeps s₀ s → Keeps s₀ (cwStore k o bs s)
  | [], _, _, h => h
  | b :: bs, o, _, h => cwStore_keeps k bs (o + 1) _ (Keeps.ite h (scratchStore_keeps _ _ _ h))

theorem writePwCommit_keeps {s₀ : State} (v : Word) (be : BitVec 4) (s : State) (hk : Keeps s₀ s) :
    Keeps s₀ (writePwCommit v be s) := by
  unfold writePwCommit
  dsimp only
  repeat' first
      | with_reducible assumption | intro _ | with_reducible apply Keeps.ite | with_reducible apply special_keeps
      | with_reducible apply raise_keeps | exact Keeps.lit (by with_reducible assumption) rfl rfl rfl rfl rfl

/-! ## Summit -/

theorem latchKey_keeps {s₀ : State} (m cls : Nat) (s : State) (hk : Keeps s₀ s) : Keeps s₀ (latchKey m cls s) := by
  unfold latchKey
  dsimp only
  repeat' first
      | with_reducible assumption | intro _ | with_reducible apply Keeps.ite | with_reducible apply modMb_keeps

theorem writeMbCmd_keeps {s₀ : State} (m : Nat) (v : Word) (be : BitVec 4) (s : State) (hk : Keeps s₀ s) :
    Keeps s₀ (writeMbCmd m v be s) := by
  unfold writeMbCmd
  dsimp only
  repeat' first
      | with_reducible assumption | intro _ | with_reducible apply Keeps.ite | with_reducible apply refuseWrite_keeps
      | with_reducible apply modMb_keeps

theorem ring_keeps {s₀ : State} (m : Nat) (s : State) (hk : Keeps s₀ s) : Keeps s₀ (ring m s) := by
  unfold ring
  dsimp only
  repeat' first
      | with_reducible assumption | intro _ | with_reducible apply Keeps.ite | with_reducible apply protoMailbox_keeps
      | with_reducible apply modMb_keeps | with_reducible apply mbComplete_keeps
      | exact Keeps.lit (by
            first
              | with_reducible assumption
              | (with_reducible apply protoMailbox_keeps; with_reducible assumption)
              | (with_reducible apply modMb_keeps; with_reducible assumption)
              | (with_reducible apply mbComplete_keeps; with_reducible assumption)) rfl rfl rfl rfl rfl | split
      | refine Keeps.lit ?_ rfl rfl rfl rfl rfl

theorem writeDoorbell_keeps {s₀ : State} (m : Nat) (v : Word) (be : BitVec 4) (s : State) (hk : Keeps s₀ s) :
    Keeps s₀ (writeDoorbell m v be s) := by
  unfold writeDoorbell
  repeat' first
      | with_reducible assumption | intro _ | with_reducible apply Keeps.ite | with_reducible apply special_keeps
      | with_reducible apply ring_keeps

theorem writeCwCfg_keeps {s₀ : State} (k : Nat) (v : Word) (be : BitVec 4) (s : State) (hk : Keeps s₀ s) :
    Keeps s₀ (writeCwCfg k v be s) := by
  unfold writeCwCfg
  dsimp only
  repeat' first
      | with_reducible assumption | intro _ | with_reducible apply Keeps.ite | with_reducible apply refuseWrite_keeps
      | with_reducible apply modCw_keeps | with_reducible apply protoWindow_keeps

theorem writeCwProd_keeps {s₀ : State} (k : Nat) (v : Word) (be : BitVec 4) (s : State) (hk : Keeps s₀ s) :
    Keeps s₀ (writeCwProd k v be s) := by
  unfold writeCwProd
  dsimp only
  repeat' first
      | with_reducible assumption | intro _ | with_reducible apply Keeps.ite | with_reducible apply refuseWrite_keeps
      | with_reducible apply cwConsume_keeps | with_reducible apply modCw_keeps
      | with_reducible apply protoWindow_keeps

theorem produceMore_keeps {s₀ : State} (k : Nat) (s : State) (hk : Keeps s₀ s) : Keeps s₀ (produceMore k s) := by
  unfold produceMore
  dsimp only
  repeat' first
      | with_reducible assumption | with_reducible apply Keeps.ite | with_reducible apply cwProduce_keeps
      | with_reducible apply mbComplete_keeps

theorem writeCwCons_keeps {s₀ : State} (k : Nat) (v : Word) (be : BitVec 4) (s : State) (hk : Keeps s₀ s) :
    Keeps s₀ (writeCwCons k v be s) := by
  unfold writeCwCons
  dsimp only
  repeat' first
      | with_reducible assumption | intro _ | with_reducible apply Keeps.ite | with_reducible apply refuseWrite_keeps
      | with_reducible apply modCw_keeps | with_reducible apply produceMore_keeps
      | with_reducible apply protoWindow_keeps

theorem scanPods_keeps {s₀ : State} (s : State) (hk : Keeps s₀ s) : Keeps s₀ (scanPods s) := by
  unfold scanPods
  repeat' first
      | with_reducible assumption | intro _ | with_reducible apply Keeps.foldl | with_reducible apply Keeps.ite
      | with_reducible apply setPod_keeps

theorem startFirmware_keeps {s₀ : State} (s : State) (hk : Keeps s₀ s) : Keeps s₀ (startFirmware s) := by
  unfold startFirmware
  dsimp only
  repeat' first
      | with_reducible assumption | with_reducible apply Keeps.ite | with_reducible apply scanPods_keeps
      | with_reducible apply startCollector_keeps
      | exact Keeps.lit (by
            first
              | with_reducible assumption
              | (with_reducible apply scanPods_keeps; with_reducible assumption)
              | (with_reducible apply startCollector_keeps; with_reducible assumption)) rfl rfl rfl rfl rfl | split
      | refine Keeps.lit ?_ rfl rfl rfl rfl rfl

theorem setSlot_keeps {s₀ : State} (n : Nat) (x : Slot) (s : State) (hk : Keeps s₀ s) : Keeps s₀ (setSlot n x s) := by
  unfold setSlot
  dsimp only
  repeat' first
      | with_reducible assumption | intro _ | exact Keeps.lit (by with_reducible assumption) rfl rfl rfl rfl rfl

theorem bootSlot_keeps {s₀ : State} (n : Nat) (i : SlotImage) (s : State) (hk : Keeps s₀ s) :
    Keeps s₀ (bootSlot n i s) := by
  unfold bootSlot
  dsimp only
  repeat' first
      | with_reducible assumption | with_reducible apply Keeps.ite | with_reducible apply setSlot_keeps
      | with_reducible apply raise_keeps | with_reducible apply signal_keeps

theorem runSlot_keeps {s₀ : State} (n : Nat) (s : State) (hk : Keeps s₀ s) : Keeps s₀ (runSlot n s) := by
  unfold runSlot
  dsimp only
  repeat' first | with_reducible assumption | exact Keeps.lit (by with_reducible assumption) rfl rfl rfl rfl rfl

theorem nopCmd_keeps {s₀ : State}  (y0 : List Byte) (y1 : State) (hk : Keeps s₀ y1) : Keeps s₀ (nopCmd y0 y1).1 := by
  unfold nopCmd
  repeat' first
      | with_reducible assumption | intro _ | with_reducible apply Keeps.ite | with_reducible apply quit_keeps | split

theorem eraseSlotA_keeps {s₀ : State} (s : State) (hk : Keeps s₀ s) : Keeps s₀ (eraseSlotA s) := by
  unfold eraseSlotA
  dsimp only
  repeat' first
      | with_reducible assumption | intro _ | exact Keeps.lit (by with_reducible assumption) rfl rfl rfl rfl rfl

theorem fwStageCmd_keeps {s₀ : State} (m : Nat) (y0 : List Byte) (y1 : State) (hk : Keeps s₀ y1) :
    Keeps s₀ (fwStageCmd m y0 y1).1 := by
  unfold fwStageCmd
  dsimp only
  repeat' first
      | with_reducible assumption | intro _ | with_reducible apply Keeps.ite | with_reducible apply quit_keeps
      | with_reducible apply quitClaimed_keeps | with_reducible apply cwClaim_keeps
      | with_reducible apply eraseSlotA_keeps
      | exact Keeps.lit (by
            first
              | with_reducible assumption
              | (with_reducible apply quit_keeps; with_reducible assumption)
              | (with_reducible apply quitClaimed_keeps; with_reducible assumption)
              | (with_reducible apply cwClaim_keeps; with_reducible assumption)
              | (with_reducible apply eraseSlotA_keeps; with_reducible assumption)) rfl rfl rfl rfl rfl | split

theorem endFw_keeps {s₀ : State} (s : State) (hk : Keeps s₀ s) : Keeps s₀ (endFw s) := by
  unfold endFw
  repeat' first | with_reducible assumption | exact Keeps.lit (by with_reducible assumption) rfl rfl rfl rfl rfl

theorem fwCommitCmd_keeps {s₀ : State} (m : Nat) (y0 : List Byte) (y1 : State) (hk : Keeps s₀ y1) :
    Keeps s₀ (fwCommitCmd m y0 y1).1 := by
  unfold fwCommitCmd
  dsimp only
  repeat' first
      | with_reducible assumption | intro _ | with_reducible apply Keeps.ite | with_reducible apply quit_keeps
      | with_reducible apply setSlot_keeps
      | exact Keeps.lit (by
            first
              | with_reducible assumption
              | (with_reducible apply quit_keeps; with_reducible assumption)
              | (with_reducible apply setSlot_keeps; with_reducible assumption)) rfl rfl rfl rfl rfl | split
      | refine Keeps.lit ?_ rfl rfl rfl rfl rfl

theorem fwInfoCmd_keeps {s₀ : State}  (y0 : List Byte) (y1 : State) (hk : Keeps s₀ y1) :
    Keeps s₀ (fwInfoCmd y0 y1).1 := by
  unfold fwInfoCmd
  dsimp only
  repeat' first
      | with_reducible assumption | intro _ | with_reducible apply Keeps.ite | with_reducible apply quit_keeps | split

end Sys2Proof.Machine
end

