-- ==== Sys2Proof/Laws/KeepsCapture.lean ====
section
/-! SUPPORT. What every operation of the sequencers, the pods and the channels keeps. -/

namespace Sys2Proof.Machine

/-! ## Traverse -/

theorem modStaged_keeps {s₀ : State} (f : Image → Image) (s : State) (hk : Keeps s₀ s) :
    Keeps s₀ (modStaged f s) := by
  unfold modStaged
  repeat' first | with_reducible assumption | exact Keeps.lit (by with_reducible assumption) rfl rfl rfl rfl rfl

theorem fabCmd_keeps {s₀ : State}  (y0 : List Byte) (y1 : State) (hk : Keeps s₀ y1) : Keeps s₀ (fabCmd y0 y1).1 := by
  unfold fabCmd
  dsimp only
  repeat' first
      | with_reducible assumption | intro _ | with_reducible apply Keeps.ite | with_reducible apply quit_keeps
      | with_reducible apply modStaged_keeps | split

theorem setBuffer_keeps {s₀ : State} (j : Nat) (b : Option Program) (s : State) (hk : Keeps s₀ s) :
    Keeps s₀ (setBuffer j b s) := by
  unfold setBuffer
  repeat' first | with_reducible assumption | intro _ | with_reducible apply modSeq_keeps

theorem closeLoad_keeps {s₀ : State} (j : Nat) (p : Program) (s : State) (hk : Keeps s₀ s) :
    Keeps s₀ (closeLoad j p s).1 := by
  unfold closeLoad
  dsimp only
  repeat' first
      | with_reducible assumption | intro _ | with_reducible apply Keeps.ite | with_reducible apply setBuffer_keeps
      | with_reducible apply quit_keeps | with_reducible apply modStaged_keeps
      | exact Keeps.lit (by
            first
              | with_reducible assumption
              | (with_reducible apply setBuffer_keeps; with_reducible assumption)
              | (with_reducible apply quit_keeps; with_reducible assumption)
              | (with_reducible apply modStaged_keeps; with_reducible assumption)) rfl rfl rfl rfl rfl | split

theorem loadCmd_keeps {s₀ : State}  (y0 : List Byte) (y1 : State) (hk : Keeps s₀ y1) :
    Keeps s₀ (loadCmd y0 y1).1 := by
  unfold loadCmd
  dsimp only
  repeat' first
      | with_reducible assumption | intro _ | with_reducible apply Keeps.ite | with_reducible apply quit_keeps
      | with_reducible apply setBuffer_keeps | with_reducible apply closeLoad_keeps
      | with_reducible apply modStaged_keeps
      | exact Keeps.lit (by
            first
              | with_reducible assumption
              | (with_reducible apply quit_keeps; with_reducible assumption)
              | (with_reducible apply setBuffer_keeps; with_reducible assumption)
              | (with_reducible apply closeLoad_keeps; with_reducible assumption)
              | (with_reducible apply modStaged_keeps; with_reducible assumption)) rfl rfl rfl rfl rfl | split
      | refine Keeps.lit ?_ rfl rfl rfl rfl rfl

theorem chainDrop_keeps {s₀ : State} (m : Nat) (s : State) (hk : Keeps s₀ s) : Keeps s₀ (chainDrop m s) := by
  unfold chainDrop
  repeat' first
      | with_reducible assumption | intro _ | with_reducible apply Keeps.foldl | with_reducible apply Keeps.ite
      | with_reducible apply dropArm_keeps | split

theorem chainMaster_keeps {s₀ : State} (m sec ns policy : Nat) (s : State) (hk : Keeps s₀ s) :
    Keeps s₀ (chainMaster m sec ns policy s) := by
  unfold chainMaster
  repeat' first
      | with_reducible assumption | intro _ | with_reducible apply Keeps.foldl | with_reducible apply chainArm_keeps
      | with_reducible apply originate_keeps

theorem armCmd_keeps {s₀ : State} (mb : Nat) (y0 : List Byte) (y1 : State) (hk : Keeps s₀ y1) :
    Keeps s₀ (armCmd mb y0 y1).1 := by
  unfold armCmd
  dsimp only
  repeat' first
      | with_reducible assumption | intro _ | with_reducible apply Keeps.ite | with_reducible apply quit_keeps
      | with_reducible apply evalNow_keeps | with_reducible apply chainDrop_keeps
      | with_reducible apply chainMaster_keeps | with_reducible apply armOnStart_keeps
      | with_reducible apply armMask_keeps
      | exact Keeps.lit (by
            first
              | with_reducible assumption
              | (with_reducible apply quit_keeps; with_reducible assumption)
              | (with_reducible apply evalNow_keeps; with_reducible assumption)
              | (with_reducible apply chainDrop_keeps; with_reducible assumption)
              | (with_reducible apply chainMaster_keeps; with_reducible assumption)
              | (with_reducible apply armOnStart_keeps; with_reducible assumption)
              | (with_reducible apply armMask_keeps; with_reducible assumption)) rfl rfl rfl rfl rfl | split
      | refine Keeps.lit ?_ rfl rfl rfl rfl rfl

theorem disarmCmd_keeps {s₀ : State} (mb : Nat) (y0 : List Byte) (y1 : State) (hk : Keeps s₀ y1) :
    Keeps s₀ (disarmCmd mb y0 y1).1 := by
  unfold disarmCmd
  dsimp only
  repeat' first
      | with_reducible assumption | intro _ | with_reducible apply Keeps.foldl | with_reducible apply Keeps.ite
      | with_reducible apply quit_keeps | with_reducible apply orderAt_keeps | with_reducible apply disarmMask_keeps
      | with_reducible apply chainDisarm_keeps | with_reducible apply originate_keeps | split

theorem outCfgCmd_keeps {s₀ : State}  (y0 : List Byte) (y1 : State) (hk : Keeps s₀ y1) :
    Keeps s₀ (outCfgCmd y0 y1).1 := by
  unfold outCfgCmd
  dsimp only
  repeat' first
      | with_reducible assumption | intro _ | with_reducible apply Keeps.ite | with_reducible apply quit_keeps
      | with_reducible apply modStaged_keeps
      | exact Keeps.lit (by
            first
              | with_reducible assumption
              | (with_reducible apply quit_keeps; with_reducible assumption)
              | (with_reducible apply modStaged_keeps; with_reducible assumption)) rfl rfl rfl rfl rfl | split

/-! ## Pods -/

theorem activatePod_keeps {s₀ : State} (p : Nat) (s : State) (hk : Keeps s₀ s) : Keeps s₀ (activatePod p s) := by
  unfold activatePod
  repeat' first
      | with_reducible assumption | with_reducible apply raise_keeps | with_reducible apply applyDeskew_keeps
      | with_reducible apply setPod_keeps

theorem enterCapture_keeps {s₀ : State} (p row : Nat) (s : State) (hk : Keeps s₀ s) :
    Keeps s₀ (enterCapture p row s) := by
  unfold enterCapture
  dsimp only
  repeat' first
      | with_reducible assumption | intro _ | with_reducible apply Keeps.foldl | with_reducible apply modPod_keeps
      | with_reducible apply modInput_keeps
      | exact Keeps.lit (by
            first
              | with_reducible assumption
              | (with_reducible apply modPod_keeps; with_reducible assumption)
              | (with_reducible apply modInput_keeps; with_reducible assumption)) rfl rfl rfl rfl rfl
      | refine Keeps.lit ?_ rfl rfl rfl rfl rfl

theorem joinAt_keeps {s₀ : State} (p row : Nat) (s : State) (hk : Keeps s₀ s) : Keeps s₀ (joinAt p row s) := by
  unfold joinAt
  dsimp only
  repeat' first
      | with_reducible assumption | intro _ | with_reducible apply Keeps.ite | with_reducible apply activatePod_keeps
      | with_reducible apply closePodGap_keeps | with_reducible apply pushCairn_keeps
      | with_reducible apply enterCapture_keeps | exact Keeps.lit (by with_reducible assumption) rfl rfl rfl rfl rfl

theorem joinPod_keeps {s₀ : State} (p : Nat) (s : State) (hk : Keeps s₀ s) : Keeps s₀ (joinPod p s) := by
  unfold joinPod
  repeat' first
      | with_reducible assumption | with_reducible apply Keeps.ite | with_reducible apply activatePod_keeps
      | with_reducible apply modPod_keeps | with_reducible apply joinAt_keeps
      | exact Keeps.lit (by
            first
              | with_reducible assumption
              | (with_reducible apply activatePod_keeps; with_reducible assumption)
              | (with_reducible apply modPod_keeps; with_reducible assumption)
              | (with_reducible apply joinAt_keeps; with_reducible assumption)) rfl rfl rfl rfl rfl | split
      | refine Keeps.lit ?_ rfl rfl rfl rfl rfl

theorem reachJoining_keeps {s₀ : State} (p : Nat) (s : State) (hk : Keeps s₀ s) : Keeps s₀ (reachJoining p s) := by
  unfold reachJoining
  dsimp only
  repeat' first
      | with_reducible assumption | with_reducible apply Keeps.ite | with_reducible apply setPod_keeps
      | with_reducible apply joinPod_keeps | with_reducible apply settleOn_keeps

theorem setSupply_keeps {s₀ : State} (p : Nat) (s : State) (hk : Keeps s₀ s) : Keeps s₀ (setSupply p s) := by
  unfold setSupply
  dsimp only
  repeat' first
      | with_reducible assumption | intro _ | with_reducible apply Keeps.ite | with_reducible apply modPod_keeps

theorem startSupply_keeps {s₀ : State} (p : Nat) (s : State) (hk : Keeps s₀ s) : Keeps s₀ (startSupply p s) := by
  unfold startSupply
  dsimp only
  repeat' first
      | with_reducible assumption | intro _ | with_reducible apply Keeps.ite | with_reducible apply setSupply_keeps
      | with_reducible apply reachJoining_keeps | with_reducible apply modPod_keeps
      | with_reducible apply setPod_keeps

theorem identify_keeps {s₀ : State} (p : Nat) (s : State) (hk : Keeps s₀ s) : Keeps s₀ (identify p s) := by
  unfold identify
  repeat' first
      | with_reducible assumption | intro _ | with_reducible apply modPod_keeps | with_reducible apply setPod_keeps

theorem rejectPod_keeps {s₀ : State} (p reason : Nat) (s : State) (hk : Keeps s₀ s) :
    Keeps s₀ (rejectPod p reason s) := by
  unfold rejectPod
  repeat' first
      | with_reducible assumption | intro _ | with_reducible apply raise_keeps | with_reducible apply modPod_keeps
      | with_reducible apply setPod_keeps

theorem supplyFault_keeps {s₀ : State} (p : Nat) (s : State) (hk : Keeps s₀ s) : Keeps s₀ (supplyFault p s) := by
  unfold supplyFault
  dsimp only
  repeat' first
      | with_reducible assumption | intro _ | with_reducible apply Keeps.ite | with_reducible apply supplyCut_keeps
      | with_reducible apply dropPod_keeps | with_reducible apply modPod_keeps | with_reducible apply setPod_keeps
      | with_reducible apply signalUnit_keeps | with_reducible apply raise_keeps | with_reducible apply settleOn_keeps

theorem supplyOvervolt_keeps {s₀ : State} (p : Nat) (s : State) (hk : Keeps s₀ s) :
    Keeps s₀ (supplyOvervolt p s) := by
  unfold supplyOvervolt
  dsimp only
  repeat' first
      | with_reducible assumption | intro _ | with_reducible apply Keeps.ite | with_reducible apply supplyCut_keeps
      | with_reducible apply dropPod_keeps | with_reducible apply modPod_keeps | with_reducible apply setPod_keeps
      | with_reducible apply signalUnit_keeps | with_reducible apply raise_keeps | with_reducible apply settleOn_keeps

theorem emptyPort_keeps {s₀ : State} (p : Nat) (s : State) (hk : Keeps s₀ s) : Keeps s₀ (emptyPort p s) := by
  unfold emptyPort
  dsimp only
  repeat' first
      | with_reducible assumption | intro _ | with_reducible apply setPod_keeps | with_reducible apply supplyCut_keeps
      | with_reducible apply settleOn_keeps | with_reducible apply modPod_keeps

theorem powerOn_keeps {s₀ : State} (m p : Nat) (s : State) (hk : Keeps s₀ s) : Keeps s₀ (powerOn m p s) := by
  unfold powerOn
  dsimp only
  repeat' first
      | with_reducible assumption | intro _ | with_reducible apply Keeps.ite | with_reducible apply modPod_keeps
      | with_reducible apply startSupply_keeps

theorem powerOffNow_keeps {s₀ : State} (p : Nat) (s : State) (hk : Keeps s₀ s) : Keeps s₀ (powerOffNow p s) := by
  unfold powerOffNow
  repeat' first
      | with_reducible assumption | with_reducible apply Keeps.ite | with_reducible apply settleOn_keeps
      | with_reducible apply setPod_keeps | with_reducible apply supplyCut_keeps
      | with_reducible apply absentNow_keeps

theorem applyOffs_keeps {s₀ : State} (s : State) (hk : Keeps s₀ s) : Keeps s₀ (applyOffs s) := by
  unfold applyOffs
  repeat' first
      | with_reducible assumption | intro _ | with_reducible apply Keeps.foldl | with_reducible apply Keeps.ite
      | with_reducible apply powerOffNow_keeps

theorem powerOff_keeps {s₀ : State} (p : Nat) (s : State) (hk : Keeps s₀ s) : Keeps s₀ (powerOff p s) := by
  unfold powerOff
  repeat' first
      | with_reducible assumption | intro _ | with_reducible apply Keeps.ite | with_reducible apply modPod_keeps
      | with_reducible apply powerOffNow_keeps

theorem podPowerCmd_keeps {s₀ : State} (m : Nat) (y0 : List Byte) (y1 : State) (hk : Keeps s₀ y1) :
    Keeps s₀ (podPowerCmd m y0 y1).1 := by
  unfold podPowerCmd
  dsimp only
  repeat' first
      | with_reducible assumption | intro _ | with_reducible apply Keeps.foldl | with_reducible apply Keeps.ite
      | with_reducible apply quit_keeps | with_reducible apply powerOn_keeps | with_reducible apply powerOff_keeps
      | split

theorem podInfoCmd_keeps {s₀ : State} (reread : Option (List Byte)) (y0 : List Byte) (y1 : State) (hk : Keeps s₀ y1) :
    Keeps s₀ (podInfoCmd reread y0 y1).1 := by
  unfold podInfoCmd
  dsimp only
  repeat' first
      | with_reducible assumption | intro _ | with_reducible apply Keeps.ite | with_reducible apply quit_keeps
      | with_reducible apply modPod_keeps | with_reducible apply raise_keeps
      | exact Keeps.lit (by
            first
              | with_reducible assumption
              | (with_reducible apply quit_keeps; with_reducible assumption)
              | (with_reducible apply modPod_keeps; with_reducible assumption)
              | (with_reducible apply raise_keeps; with_reducible assumption)) rfl rfl rfl rfl rfl | split

theorem telemGood_keeps {s₀ : State} (p : Nat) (t : BitVec 16) (s : State) (hk : Keeps s₀ s) :
    Keeps s₀ (telemGood p t s) := by
  unfold telemGood
  dsimp only
  repeat' first
      | with_reducible assumption | intro _ | with_reducible apply Keeps.ite | with_reducible apply modPod_keeps
      | with_reducible apply raise_keeps

theorem telemBad_keeps {s₀ : State} (p : Nat) (s : State) (hk : Keeps s₀ s) : Keeps s₀ (telemBad p s) := by
  unfold telemBad
  dsimp only
  repeat' first
      | with_reducible assumption | intro _ | with_reducible apply Keeps.ite | with_reducible apply modPod_keeps
      | with_reducible apply raise_keeps

theorem keyArm_keeps {s₀ : State} (k : Nat) (s : State) (hk : Keeps s₀ s) : Keeps s₀ (keyArm k s) := by
  unfold keyArm
  repeat' first
      | with_reducible assumption | intro _ | with_reducible apply Keeps.foldl | with_reducible apply Keeps.ite
      | with_reducible apply pendSeq_keeps | with_reducible apply armMask_keeps | split

theorem keyAct_keeps {s₀ : State} (k : Nat) (s : State) (hk : Keeps s₀ s) : Keeps s₀ (keyAct k s) := by
  unfold keyAct
  repeat' first
      | with_reducible assumption | with_reducible apply keyArm_keeps | with_reducible apply requestStop_keeps
      | with_reducible apply pushCairn_keeps | with_reducible apply askSeal_keeps
      | exact Keeps.lit (by
            first
              | with_reducible assumption
              | (with_reducible apply keyArm_keeps; with_reducible assumption)
              | (with_reducible apply requestStop_keeps; with_reducible assumption)
              | (with_reducible apply pushCairn_keeps; with_reducible assumption)
              | (with_reducible apply askSeal_keeps; with_reducible assumption)) rfl rfl rfl rfl rfl | split

/-! ## Calib -/

theorem modCal_keeps {s₀ : State} (p : Nat) (f : Cal → Cal) (s : State) (hk : Keeps s₀ s) :
    Keeps s₀ (modCal p f s) := by
  unfold modCal
  repeat' first | with_reducible assumption | intro _ | with_reducible apply modPod_keeps

theorem calCairn_keeps {s₀ : State} (p kind input : Nat) (r : Option Int) (s : State) (hk : Keeps s₀ s) :
    Keeps s₀ (calCairn p kind input r s) := by
  unfold calCairn
  repeat' first | with_reducible assumption | with_reducible apply pushCairnIf_keeps

theorem endRotation_keeps {s₀ : State} (p : Nat) (s : State) (hk : Keeps s₀ s) : Keeps s₀ (endRotation p s) := by
  unfold endRotation
  dsimp only
  repeat' first
      | with_reducible assumption | intro _ | with_reducible apply Keeps.ite | with_reducible apply modCal_keeps
      | with_reducible apply raise_keeps | with_reducible apply calCairn_keeps

theorem nextInput_keeps {s₀ : State} (p k : Nat) (s : State) (hk : Keeps s₀ s) : Keeps s₀ (nextInput p k s) := by
  unfold nextInput
  dsimp only
  repeat' first
      | with_reducible assumption | intro _ | with_reducible apply Keeps.ite | with_reducible apply modCal_keeps
      | with_reducible apply endRotation_keeps

theorem abortSwap_keeps {s₀ : State} (p k : Nat) (r : Option Int) (s : State) (hk : Keeps s₀ s) :
    Keeps s₀ (abortSwap p k r s) := by
  unfold abortSwap
  dsimp only
  repeat' first
      | with_reducible assumption | intro _ | with_reducible apply Keeps.ite | with_reducible apply modCal_keeps
      | with_reducible apply calCairn_keeps | with_reducible apply raise_keeps | with_reducible apply modInput_keeps
      | with_reducible apply signal_keeps | with_reducible apply nextInput_keeps

theorem foldResid_keeps {s₀ : State} (p : Nat) (r : Int) (s : State) (hk : Keeps s₀ s) :
    Keeps s₀ (foldResid p r s) := by
  unfold foldResid
  repeat' first
      | with_reducible assumption | intro _ | with_reducible apply modCal_keeps
      | exact Keeps.lit (by
            first
              | with_reducible assumption
              | (with_reducible apply modCal_keeps; with_reducible assumption)) rfl rfl rfl rfl rfl | split

theorem noSpare_keeps {s₀ : State} (p : Nat) (s : State) (hk : Keeps s₀ s) : Keeps s₀ (noSpare p s) := by
  unfold noSpare
  dsimp only
  repeat' first
      | with_reducible assumption | intro _ | with_reducible apply Keeps.foldl | with_reducible apply Keeps.ite
      | with_reducible apply modCal_keeps | with_reducible apply modInput_keeps | with_reducible apply freeBits_keeps
      | with_reducible apply signal_keeps

theorem failPair_keeps {s₀ : State} (p pair : Nat) (s : State) (hk : Keeps s₀ s) : Keeps s₀ (failPair p pair s) := by
  unfold failPair
  dsimp only
  repeat' first
      | with_reducible assumption | intro _ | with_reducible apply Keeps.ite | with_reducible apply raise_keeps
      | with_reducible apply modCal_keeps | with_reducible apply freeBits_keeps | with_reducible apply calCairn_keeps
      | with_reducible apply noSpare_keeps

theorem calRunCmd_keeps {s₀ : State}  (y0 : List Byte) (y1 : State) (hk : Keeps s₀ y1) :
    Keeps s₀ (calRunCmd y0 y1).1 := by
  unfold calRunCmd
  dsimp only
  repeat' first
      | with_reducible assumption | intro _ | with_reducible apply Keeps.foldl | with_reducible apply Keeps.ite
      | with_reducible apply quit_keeps | with_reducible apply modCal_keeps
      | exact Keeps.lit (by
            first
              | with_reducible assumption
              | (with_reducible apply quit_keeps; with_reducible assumption)
              | (with_reducible apply modCal_keeps; with_reducible assumption)) rfl rfl rfl rfl rfl | split

theorem calStatusCmd_keeps {s₀ : State}  (y0 : List Byte) (y1 : State) (hk : Keeps s₀ y1) :
    Keeps s₀ (calStatusCmd y0 y1).1 := by
  unfold calStatusCmd
  dsimp only
  repeat' first
      | with_reducible assumption | intro _ | with_reducible apply Keeps.ite | with_reducible apply quit_keeps | split

/-! ## Chan -/

theorem chWrite_keeps {s₀ : State} (n r : Nat) (f : Word → Word) (s : State) (hk : Keeps s₀ s) :
    Keeps s₀ (chWrite n r f s) := by
  unfold chWrite
  repeat' first
      | with_reducible assumption | intro _ | with_reducible apply Keeps.ite | with_reducible apply modStaged_keeps

theorem aliasWrite_keeps {s₀ : State} (a : Alias) (off : Nat) (f : Word → Word) (s : State) (hk : Keeps s₀ s) :
    Keeps s₀ (aliasWrite a off f s) := by
  unfold aliasWrite
  repeat' first
      | with_reducible assumption | intro _ | with_reducible apply Keeps.foldl | with_reducible apply chWrite_keeps

theorem aliasRead_keeps {s₀ : State} (a : Alias) (off : Nat) (s : State) (hk : Keeps s₀ s) :
    Keeps s₀ (aliasRead a off s).2 := by
  unfold aliasRead
  dsimp only
  repeat' first
      | with_reducible assumption | exact Keeps.lit (by with_reducible assumption) rfl rfl rfl rfl rfl | split

theorem chanWrite_keeps {s₀ : State} (off : Nat) (f : Word → Word) (s : State) (hk : Keeps s₀ s) :
    Keeps s₀ (chanWrite off f s) := by
  unfold chanWrite
  repeat' first
      | with_reducible assumption | intro _ | with_reducible apply Keeps.ite | with_reducible apply chWrite_keeps
      | with_reducible apply aliasWrite_keeps
      | exact Keeps.lit (by
            first
              | with_reducible assumption
              | (with_reducible apply chWrite_keeps; with_reducible assumption)
              | (with_reducible apply aliasWrite_keeps; with_reducible assumption)) rfl rfl rfl rfl rfl | split

end Sys2Proof.Machine
end

