-- ==== Sys2Proof/Laws/KeepsRecord.lean ====
section
/-! SUPPORT. What every operation of the ring, retention, export, Talus and the sealer keeps. -/

namespace Sys2Proof.Machine

/-! ## Ring -/

theorem endEpisode_keeps {s₀ : State} (e : Option Episode) (s : State) (hk : Keeps s₀ s) :
    Keeps s₀ (endEpisode e s) := by
  unfold endEpisode
  repeat' first
      | with_reducible assumption | with_reducible apply Keeps.ite | with_reducible apply pushGap_keeps
      | exact Keeps.lit (by
            first
              | with_reducible assumption
              | (with_reducible apply pushGap_keeps; with_reducible assumption)) rfl rfl rfl rfl rfl | split

theorem startEpisode_keeps {s₀ : State} (cause : Nat) (s : State) (hk : Keeps s₀ s) :
    Keeps s₀ (startEpisode cause s) := by
  unfold startEpisode
  dsimp only
  repeat' first
      | with_reducible assumption | with_reducible apply Keeps.ite | with_reducible apply ring_keeps
      | with_reducible apply signal_keeps | with_reducible apply raise_keeps
      | exact Keeps.lit (by with_reducible assumption) rfl rfl rfl rfl rfl

theorem setEpisode_keeps {s₀ : State} (cause : Nat) (e : Option Episode) (s : State) (hk : Keeps s₀ s) :
    Keeps s₀ (setEpisode cause e s) := by
  unfold setEpisode
  repeat' first
      | with_reducible assumption | with_reducible apply Keeps.ite | with_reducible apply ring_keeps
      | exact Keeps.lit (by with_reducible assumption) rfl rfl rfl rfl rfl

theorem countLost_keeps {s₀ : State} (cause row pods : Nat) (s : State) (hk : Keeps s₀ s) :
    Keeps s₀ (countLost cause row pods s) := by
  unfold countLost
  dsimp only
  repeat' first
      | with_reducible assumption | with_reducible apply Keeps.ite | with_reducible apply ring_keeps
      | exact Keeps.lit (by with_reducible assumption) rfl rfl rfl rfl rfl

theorem loseRow_keeps {s₀ : State} (cause row pods : Nat) (s : State) (hk : Keeps s₀ s) :
    Keeps s₀ (loseRow cause row pods s) := by
  unfold loseRow
  dsimp only
  repeat' first
      | with_reducible assumption | with_reducible apply Keeps.ite | with_reducible apply countLost_keeps
      | with_reducible apply setEpisode_keeps | with_reducible apply startEpisode_keeps
      | with_reducible apply endEpisode_keeps
      | exact Keeps.lit (by
            first
              | with_reducible assumption
              | (with_reducible apply countLost_keeps; with_reducible assumption)
              | (with_reducible apply setEpisode_keeps; with_reducible assumption)
              | (with_reducible apply startEpisode_keeps; with_reducible assumption)
              | (with_reducible apply endEpisode_keeps; with_reducible assumption)) rfl rfl rfl rfl rfl | split

theorem stageRow_keeps {s₀ : State} (x : RowDesc × List Byte) (s : State) (hk : Keeps s₀ s) :
    Keeps s₀ (stageRow x s) := by
  unfold stageRow
  repeat' first
      | with_reducible assumption | with_reducible apply Keeps.ite | with_reducible apply ring_keeps
      | with_reducible apply loseRow_keeps | exact Keeps.lit (by with_reducible assumption) rfl rfl rfl rfl rfl

theorem encodeView_keeps {s₀ : State} (s : State) (hk : Keeps s₀ s) : Keeps s₀ (encodeView s) := by
  unfold encodeView
  dsimp only
  repeat' first
      | with_reducible assumption | intro _ | with_reducible apply Keeps.foldl | with_reducible apply Keeps.ite
      | with_reducible apply ring_keeps | with_reducible apply judgeClocks_keeps | with_reducible apply advance_keeps

theorem encodeRow_keeps {s₀ : State} (s : State) (hk : Keeps s₀ s) : Keeps s₀ (encodeRow s) := by
  unfold encodeRow
  dsimp only
  repeat' first
      | with_reducible assumption | with_reducible apply Keeps.ite | with_reducible apply ring_keeps
      | with_reducible apply encodeView_keeps | with_reducible apply stageRow_keeps
      | exact Keeps.lit (by
            first
              | with_reducible assumption
              | (with_reducible apply ring_keeps; with_reducible assumption)
              | (with_reducible apply encodeView_keeps; with_reducible assumption)
              | (with_reducible apply stageRow_keeps; with_reducible assumption)) rfl rfl rfl rfl rfl | split
      | refine Keeps.lit ?_ rfl rfl rfl rfl rfl

theorem passX_keeps {s₀ : State} (s : State) (hk : Keeps s₀ s) : Keeps s₀ (passX s) := by
  unfold passX
  dsimp only
  repeat' first
      | with_reducible assumption | intro _ | with_reducible apply Keeps.foldl | with_reducible apply Keeps.ite
      | with_reducible apply ring_keeps | with_reducible apply evalMarks_keeps | with_reducible apply moveH_keeps
      | exact Keeps.lit (by with_reducible assumption) rfl rfl rfl rfl rfl

theorem skipRows_keeps {s₀ : State} (n : Nat) (s : State) (hk : Keeps s₀ s) : Keeps s₀ (skipRows n s) := by
  unfold skipRows
  dsimp only
  repeat' first
      | with_reducible assumption | intro _ | with_reducible apply Keeps.foldl | with_reducible apply ring_keeps
      | with_reducible apply loseRow_keeps | with_reducible apply evalMarks_keeps
      | exact Keeps.lit (by
            first
              | with_reducible assumption
              | (with_reducible apply ring_keeps; with_reducible assumption)
              | (with_reducible apply loseRow_keeps; with_reducible assumption)
              | (with_reducible apply evalMarks_keeps; with_reducible assumption)) rfl rfl rfl rfl rfl | split
      | refine Keeps.lit ?_ rfl rfl rfl rfl rfl

theorem placeRow_keeps {s₀ : State} (d : RowDesc) (bytes : List Byte) (s : State) (h : Keeps s₀ s) :
    Keeps s₀ (placeRow d bytes s) := by
  unfold placeRow
  exact evalMarks_keeps _ (moveH_keeps _ (h.mem rfl rfl (fun w => memWriteMod_wf w _ _ _) id id id rfl))

theorem writeRow_keeps {s₀ : State} (d : RowDesc) (bytes : List Byte) (s : State) (hk : Keeps s₀ s) :
    Keeps s₀ (writeRow d bytes s) := by
  unfold writeRow
  dsimp only
  repeat' first
      | with_reducible assumption | with_reducible apply Keeps.ite | with_reducible apply ring_keeps
      | with_reducible apply placeRow_keeps | with_reducible apply loseRow_keeps | with_reducible apply skipRows_keeps

theorem correctedLine_keeps {s₀ : State} (s : State) (l : Nat) (hk : Keeps s₀ s) : Keeps s₀ (correctedLine s l) := by
  unfold correctedLine
  dsimp only
  repeat' first
      | with_reducible assumption | with_reducible apply Keeps.ite | with_reducible apply ring_keeps
      | with_reducible apply signal_keeps
      | exact Keeps.lit (by
            first
              | with_reducible assumption
              | (with_reducible apply ring_keeps; with_reducible assumption)
              | (with_reducible apply signal_keeps; with_reducible assumption)) rfl rfl rfl rfl rfl | split
      | refine Keeps.lit ?_ rfl rfl rfl rfl rfl

theorem badLine_keeps {s₀ : State} (s : State) (l : Nat) (hk : Keeps s₀ s) : Keeps s₀ (badLine s l) := by
  unfold badLine
  dsimp only
  repeat' first
      | with_reducible assumption | with_reducible apply Keeps.ite | with_reducible apply ring_keeps
      | with_reducible apply raise_keeps | with_reducible apply signal_keeps
      | exact Keeps.lit (by
            first
              | with_reducible assumption
              | (with_reducible apply ring_keeps; with_reducible assumption)
              | (with_reducible apply raise_keeps; with_reducible assumption)
              | (with_reducible apply signal_keeps; with_reducible assumption)) rfl rfl rfl rfl rfl | split
      | refine Keeps.lit ?_ rfl rfl rfl rfl rfl

theorem readLines_keeps {s₀ : State} (ls fixed bad : List Nat) (s : State) (hk : Keeps s₀ s) :
    Keeps s₀ (readLines ls fixed bad s) := by
  unfold readLines
  repeat' first
      | with_reducible assumption | intro _ | with_reducible apply Keeps.foldl | with_reducible apply badLine_keeps
      | with_reducible apply correctedLine_keeps

theorem salvage_keeps {s₀ : State} (d : RowDesc) (bad : List Nat) (set : Nat) (gaps : Bool) (s : State)
    (hk : Keeps s₀ s) :
    Keeps s₀ (salvage d bad set gaps s).2 := by
  unfold salvage
  dsimp only
  repeat' first
      | with_reducible assumption | intro _ | with_reducible apply Keeps.foldl | with_reducible apply Keeps.ite
      | with_reducible apply pushGap_keeps
      | exact Keeps.lit (by
            first
              | with_reducible assumption
              | (with_reducible apply pushGap_keeps; with_reducible assumption)) rfl rfl rfl rfl rfl | split

theorem readRow_keeps {s₀ : State} (d : RowDesc) (errs : List (Nat × EccErr)) (s : State) (hk : Keeps s₀ s) :
    Keeps s₀ (readRow d errs s) := by
  unfold readRow
  dsimp only
  repeat' first
      | with_reducible assumption | with_reducible apply Keeps.ite | with_reducible apply readLines_keeps
      | with_reducible apply salvage_keeps | with_reducible apply passX_keeps
      | exact Keeps.lit (by
            first
              | with_reducible assumption
              | (with_reducible apply readLines_keeps; with_reducible assumption)
              | (with_reducible apply salvage_keeps; with_reducible assumption)
              | (with_reducible apply passX_keeps; with_reducible assumption)) rfl rfl rfl rfl rfl | split
      | refine Keeps.lit ?_ rfl rfl rfl rfl rfl

theorem highWord_keeps {s₀ : State} (off : Nat) (v : Word64) (s : State) (hk : Keeps s₀ s) :
    Keeps s₀ (highWord off v s).2 := by
  unfold highWord
  dsimp only
  repeat' first
      | with_reducible assumption | intro _ | exact Keeps.lit (by with_reducible assumption) rfl rfl rfl rfl rfl
      | split

theorem readRingTag_keeps {s₀ : State} (wide : Bool) (s : State) (hk : Keeps s₀ s) :
    Keeps s₀ (readRingTag wide s) := by
  unfold readRingTag
  dsimp only
  repeat' first
      | with_reducible assumption | with_reducible apply Keeps.ite | with_reducible apply emitOut_keeps
      | with_reducible apply highWord_keeps | with_reducible apply ring_keeps
      | exact Keeps.lit (by
            first
              | with_reducible assumption
              | (with_reducible apply emitOut_keeps; with_reducible assumption)
              | (with_reducible apply highWord_keeps; with_reducible assumption)
              | (with_reducible apply ring_keeps; with_reducible assumption)) rfl rfl rfl rfl rfl | split
      | refine Keeps.lit ?_ rfl rfl rfl rfl rfl

theorem ringCfgCmd_keeps {s₀ : State}  (y0 : List Byte) (y1 : State) (hk : Keeps s₀ y1) :
    Keeps s₀ (ringCfgCmd y0 y1).1 := by
  unfold ringCfgCmd
  dsimp only
  repeat' first
      | with_reducible assumption | intro _ | with_reducible apply Keeps.ite | with_reducible apply quit_keeps
      | with_reducible apply modStaged_keeps | with_reducible apply evalMarks_keeps | with_reducible apply ring_keeps
      | exact Keeps.lit (by
            first
              | with_reducible assumption
              | (with_reducible apply quit_keeps; with_reducible assumption)
              | (with_reducible apply modStaged_keeps; with_reducible assumption)
              | (with_reducible apply evalMarks_keeps; with_reducible assumption)
              | (with_reducible apply ring_keeps; with_reducible assumption)) rfl rfl rfl rfl rfl | split
      | refine Keeps.lit ?_ rfl rfl rfl rfl rfl

/-! ## Retention -/

theorem modCur_keeps {s₀ : State} (f : EpochRec → EpochRec) (s : State) (hk : Keeps s₀ s) :
    Keeps s₀ (modCur f s) := by
  unfold modCur
  repeat' first | with_reducible assumption | exact Keeps.lit (by with_reducible assumption) rfl rfl rfl rfl rfl

theorem emitGap_keeps {s₀ : State} (s : State) (g : Gap) (hk : Keeps s₀ s) : Keeps s₀ (emitGap s g) := by
  unfold emitGap
  dsimp only
  repeat' first
      | with_reducible assumption | intro _ | with_reducible apply emitRet_keeps | with_reducible apply countGap_keeps
      | with_reducible apply modCur_keeps
      | exact Keeps.lit (by
            first
              | with_reducible assumption
              | (with_reducible apply emitRet_keeps; with_reducible assumption)
              | (with_reducible apply countGap_keeps; with_reducible assumption)
              | (with_reducible apply modCur_keeps; with_reducible assumption)) rfl rfl rfl rfl rfl | split
      | refine Keeps.lit ?_ rfl rfl rfl rfl rfl

theorem gapsOut_keeps {s₀ : State} (pick last : Gap → Bool) (s : State) (hk : Keeps s₀ s) :
    Keeps s₀ (gapsOut pick last s) := by
  unfold gapsOut
  dsimp only
  repeat' first
      | with_reducible assumption | intro _ | with_reducible apply Keeps.foldl | with_reducible apply emitGap_keeps
      | exact Keeps.lit (by with_reducible assumption) rfl rfl rfl rfl rfl

theorem emitCairn_keeps {s₀ : State} (late prior : Bool) (c : Cairn) (s : State) (hk : Keeps s₀ s) :
    Keeps s₀ (emitCairn late prior c s) := by
  unfold emitCairn
  dsimp only
  repeat' first
      | with_reducible assumption | intro _ | with_reducible apply Keeps.ite | with_reducible apply emitRet_keeps
      | with_reducible apply modCur_keeps | with_reducible apply raise_keeps
      | exact Keeps.lit (by
            first
              | with_reducible assumption
              | (with_reducible apply emitRet_keeps; with_reducible assumption)
              | (with_reducible apply modCur_keeps; with_reducible assumption)
              | (with_reducible apply raise_keeps; with_reducible assumption)) rfl rfl rfl rfl rfl | split
      | refine Keeps.lit ?_ rfl rfl rfl rfl rfl

theorem cairnsOut_keeps {s₀ : State} (r : Nat) (s : State) (hk : Keeps s₀ s) : Keeps s₀ (cairnsOut r s) := by
  unfold cairnsOut
  dsimp only
  repeat' first
      | with_reducible assumption | intro _ | with_reducible apply Keeps.foldl | with_reducible apply emitCairn_keeps
      | exact Keeps.lit (by
            first
              | with_reducible assumption
              | (with_reducible apply emitCairn_keeps; with_reducible assumption)) rfl rfl rfl rfl rfl | split
      | refine Keeps.lit ?_ rfl rfl rfl rfl rfl

theorem gapCairns_keeps {s₀ : State} (b e : Nat) (s : State) (hk : Keeps s₀ s) : Keeps s₀ (gapCairns b e s) := by
  unfold gapCairns
  dsimp only
  repeat' first
      | with_reducible assumption | intro _ | with_reducible apply Keeps.foldl | with_reducible apply emitCairn_keeps
      | exact Keeps.lit (by with_reducible assumption) rfl rfl rfl rfl rfl

theorem emitLog_keeps {s₀ : State} (s : State) (hk : Keeps s₀ s) : Keeps s₀ (emitLog s) := by
  unfold emitLog
  dsimp only
  repeat' first
      | with_reducible assumption | with_reducible apply emitRet_keeps
      | exact Keeps.lit (by
            first
              | with_reducible assumption
              | (with_reducible apply emitRet_keeps; with_reducible assumption)) rfl rfl rfl rfl rfl

theorem logFrames_keeps {s₀ : State} (all : Bool) : ∀ (n : Nat) (s : State), Keeps s₀ s → Keeps s₀ (logFrames all n s)
  | 0, _, h => h
  | n + 1, s, h => by
    unfold logFrames
    exact Keeps.ite (logFrames_keeps all n _ (emitLog_keeps _ h)) h

theorem windowCairn_keeps {s₀ : State} (r set cls : Nat) (tr : Nat × Int) (s : State) (hk : Keeps s₀ s) :
    Keeps s₀ (windowCairn r set cls tr s) := by
  unfold windowCairn
  dsimp only
  repeat' first
      | with_reducible assumption | intro _ | with_reducible apply Keeps.ite | with_reducible apply modCur_keeps
      | with_reducible apply emitCairn_keeps

theorem closeRun_keeps {s₀ : State} (s : State) (hk : Keeps s₀ s) : Keeps s₀ (closeRun s) := by
  unfold closeRun
  repeat' first
      | with_reducible assumption | intro _ | with_reducible apply pushGap_keeps | with_reducible apply modCur_keeps
      | exact Keeps.lit (by
            first
              | with_reducible assumption
              | (with_reducible apply pushGap_keeps; with_reducible assumption)
              | (with_reducible apply modCur_keeps; with_reducible assumption)) rfl rfl rfl rfl rfl | split

theorem judgeLost_keeps {s₀ : State} (r : Nat) (s : State) (hk : Keeps s₀ s) : Keeps s₀ (judgeLost r s) := by
  unfold judgeLost
  dsimp only
  repeat' first
      | with_reducible assumption | intro _ | with_reducible apply Keeps.ite | with_reducible apply ring_keeps
      | with_reducible apply closeRun_keeps | with_reducible apply modCur_keeps
      | exact Keeps.lit (by
            first
              | with_reducible assumption
              | (with_reducible apply ring_keeps; with_reducible assumption)
              | (with_reducible apply closeRun_keeps; with_reducible assumption)
              | (with_reducible apply modCur_keeps; with_reducible assumption)) rfl rfl rfl rfl rfl | split

theorem endBefore_keeps {s₀ : State} (cause r : Nat) (s : State) (hk : Keeps s₀ s) :
    Keeps s₀ (endBefore cause r s) := by
  unfold endBefore
  repeat' first
      | with_reducible assumption | with_reducible apply Keeps.ite | with_reducible apply setEpisode_keeps
      | with_reducible apply endEpisode_keeps
      | exact Keeps.lit (by
            first
              | with_reducible assumption
              | (with_reducible apply setEpisode_keeps; with_reducible assumption)
              | (with_reducible apply endEpisode_keeps; with_reducible assumption)) rfl rfl rfl rfl rfl | split

theorem emitBlock_keeps {s₀ : State} (cls : Nat → Nat) (d : RowDesc) (bytes : List Byte) (s : State) (b : BlockDesc)
    (hk : Keeps s₀ s) :
    Keeps s₀ (emitBlock cls d bytes s b) := by
  unfold emitBlock
  dsimp only
  repeat' first
      | with_reducible assumption | intro _ | with_reducible apply emitRet_keeps | with_reducible apply modCur_keeps

theorem emitWindowed_keeps {s₀ : State} (d : RowDesc) (s : State) (hk : Keeps s₀ s) :
    Keeps s₀ (emitWindowed d s) := by
  unfold emitWindowed
  dsimp only
  repeat' first
      | with_reducible assumption | intro _ | with_reducible apply Keeps.foldl | with_reducible apply Keeps.ite
      | with_reducible apply salvage_keeps | with_reducible apply readLines_keeps
      | with_reducible apply emitBlock_keeps
      | exact Keeps.lit (by
            first
              | with_reducible assumption
              | (with_reducible apply salvage_keeps; with_reducible assumption)
              | (with_reducible apply readLines_keeps; with_reducible assumption)
              | (with_reducible apply emitBlock_keeps; with_reducible assumption)) rfl rfl rfl rfl rfl | split
      | refine Keeps.lit ?_ rfl rfl rfl rfl rfl

theorem emitBlocks_keeps {s₀ : State} (policy r : Nat) (s : State) (hk : Keeps s₀ s) :
    Keeps s₀ (emitBlocks policy r s) := by
  unfold emitBlocks
  repeat' first
      | with_reducible assumption | intro _ | with_reducible apply Keeps.foldl | with_reducible apply emitBlock_keeps
      | with_reducible apply ring_keeps | with_reducible apply emitWindowed_keeps
      | exact Keeps.lit (by
            first
              | with_reducible assumption
              | (with_reducible apply emitBlock_keeps; with_reducible assumption)
              | (with_reducible apply ring_keeps; with_reducible assumption)
              | (with_reducible apply emitWindowed_keeps; with_reducible assumption)) rfl rfl rfl rfl rfl | split

theorem emitSummary_keeps {s₀ : State} (stop : Nat) (short : Bool) (s : State) (hk : Keeps s₀ s) :
    Keeps s₀ (emitSummary stop short s) := by
  unfold emitSummary
  dsimp only
  repeat' first
      | with_reducible assumption | intro _ | with_reducible apply emitRet_keeps | with_reducible apply modCur_keeps
      | exact Keeps.lit (by
            first
              | with_reducible assumption
              | (with_reducible apply emitRet_keeps; with_reducible assumption)
              | (with_reducible apply modCur_keeps; with_reducible assumption)) rfl rfl rfl rfl rfl | split

theorem countFires_keeps {s₀ : State} (r : Nat) (s : State) (hk : Keeps s₀ s) : Keeps s₀ (countFires r s) := by
  unfold countFires
  dsimp only
  repeat' first
      | with_reducible assumption | intro _ | with_reducible apply Keeps.foldl | with_reducible apply modCur_keeps
      | exact Keeps.lit (by
            first
              | with_reducible assumption
              | (with_reducible apply modCur_keeps; with_reducible assumption)) rfl rfl rfl rfl rfl

theorem summaryRow_keeps {s₀ : State} (r : Nat) (s : State) (hk : Keeps s₀ s) : Keeps s₀ (summaryRow r s) := by
  unfold summaryRow
  dsimp only
  repeat' first
      | with_reducible assumption | intro _ | with_reducible apply Keeps.ite | with_reducible apply countFires_keeps
      | with_reducible apply modCur_keeps | with_reducible apply emitSummary_keeps
      | exact Keeps.lit (by
            first
              | with_reducible assumption
              | (with_reducible apply countFires_keeps; with_reducible assumption)
              | (with_reducible apply modCur_keeps; with_reducible assumption)
              | (with_reducible apply emitSummary_keeps; with_reducible assumption)) rfl rfl rfl rfl rfl | split

theorem readAgain_keeps {s₀ : State} (d : RowDesc) (errs : List (Nat × EccErr)) (s : State) (hk : Keeps s₀ s) :
    Keeps s₀ (readAgain d errs s) := by
  unfold readAgain
  dsimp only
  repeat' first
      | with_reducible assumption | with_reducible apply readLines_keeps
      | exact Keeps.lit (by
            first
              | with_reducible assumption
              | (with_reducible apply readLines_keeps; with_reducible assumption)) rfl rfl rfl rfl rfl
      | refine Keeps.lit ?_ rfl rfl rfl rfl rfl

theorem windowStep_keeps {s₀ : State} (r : Nat) (s : State) (hk : Keeps s₀ s) : Keeps s₀ (windowStep r s) := by
  unfold windowStep
  dsimp only
  repeat' first
      | with_reducible assumption | with_reducible apply Keeps.ite | with_reducible apply windowCairn_keeps
      | exact Keeps.lit (by
            first
              | with_reducible assumption
              | (with_reducible apply windowCairn_keeps; with_reducible assumption)) rfl rfl rfl rfl rfl | split

theorem emitRow_keeps {s₀ : State} (r policy : Nat) (s : State) (hk : Keeps s₀ s) :
    Keeps s₀ (emitRow r policy s) := by
  unfold emitRow
  dsimp only
  repeat' first
      | with_reducible assumption | intro _ | with_reducible apply Keeps.ite | with_reducible apply endBefore_keeps
      | with_reducible apply ring_keeps | with_reducible apply judgeLost_keeps | with_reducible apply gapsOut_keeps
      | with_reducible apply windowStep_keeps | with_reducible apply emitBlocks_keeps
      | with_reducible apply summaryRow_keeps | with_reducible apply logFrames_keeps
      | with_reducible apply cairnsOut_keeps | with_reducible apply passX_keeps
      | exact Keeps.lit (by
            first
              | with_reducible assumption
              | (with_reducible apply endBefore_keeps; with_reducible assumption)
              | (with_reducible apply ring_keeps; with_reducible assumption)
              | (with_reducible apply judgeLost_keeps; with_reducible assumption)
              | (with_reducible apply gapsOut_keeps; with_reducible assumption)
              | (with_reducible apply windowStep_keeps; with_reducible assumption)
              | (with_reducible apply emitBlocks_keeps; with_reducible assumption)
              | (with_reducible apply summaryRow_keeps; with_reducible assumption)
              | (with_reducible apply logFrames_keeps; with_reducible assumption)
              | (with_reducible apply cairnsOut_keeps; with_reducible assumption)
              | (with_reducible apply passX_keeps; with_reducible assumption)) rfl rfl rfl rfl rfl | split
      | refine Keeps.lit ?_ rfl rfl rfl rfl rfl

theorem startInput_keeps {s₀ : State} (row n : Nat) (s : State) (hk : Keeps s₀ s) :
    Keeps s₀ (startInput row n s) := by
  unfold startInput
  repeat' first
      | with_reducible assumption | intro _ | with_reducible apply Keeps.ite | with_reducible apply modInput_keeps

theorem clipFirst_keeps {s₀ : State} (row : Nat) (s : State) (hk : Keeps s₀ s) : Keeps s₀ (clipFirst row s) := by
  unfold clipFirst
  dsimp only
  repeat' first
      | with_reducible assumption | intro _ | with_reducible apply Keeps.ite | with_reducible apply raise_keeps
      | exact Keeps.lit (by
            first
              | with_reducible assumption
              | (with_reducible apply raise_keeps; with_reducible assumption)) rfl rfl rfl rfl rfl | split
      | refine Keeps.lit ?_ rfl rfl rfl rfl rfl

theorem startIntake_keeps {s₀ : State} (row : Nat) (s : State) (hk : Keeps s₀ s) : Keeps s₀ (startIntake row s) := by
  unfold startIntake
  extract_lets s1 s2 s3 v1 v2 s4
  have hs1 : Keeps s₀ s1 := by
    unfold s1
    repeat' first
        | with_reducible assumption | intro _ | with_reducible apply Keeps.foldl | with_reducible apply Keeps.ite
        | with_reducible apply joinAt_keeps | with_reducible apply startInput_keeps | with_reducible apply ring_keeps
        | with_reducible apply clipFirst_keeps | with_reducible apply carrySeqs_keeps
        | with_reducible apply startFabric_keeps
        | exact Keeps.lit (by
              first
                | with_reducible assumption
                | (with_reducible apply joinAt_keeps; with_reducible assumption)
                | (with_reducible apply startInput_keeps; with_reducible assumption)
                | (with_reducible apply ring_keeps; with_reducible assumption)
                | (with_reducible apply clipFirst_keeps; with_reducible assumption)
                | (with_reducible apply carrySeqs_keeps; with_reducible assumption)
                | (with_reducible apply startFabric_keeps; with_reducible assumption)) rfl rfl rfl rfl rfl | split
        | refine Keeps.lit ?_ rfl rfl rfl rfl rfl
  clear_value s1
  have hs2 : Keeps s₀ s2 := by
    unfold s2
    repeat' first
        | with_reducible assumption | intro _ | with_reducible apply Keeps.foldl | with_reducible apply Keeps.ite
        | with_reducible apply joinAt_keeps | with_reducible apply startInput_keeps | with_reducible apply ring_keeps
        | with_reducible apply clipFirst_keeps | with_reducible apply carrySeqs_keeps
        | with_reducible apply startFabric_keeps
        | exact Keeps.lit (by
              first
                | with_reducible assumption
                | (with_reducible apply joinAt_keeps; with_reducible assumption)
                | (with_reducible apply startInput_keeps; with_reducible assumption)
                | (with_reducible apply ring_keeps; with_reducible assumption)
                | (with_reducible apply clipFirst_keeps; with_reducible assumption)
                | (with_reducible apply carrySeqs_keeps; with_reducible assumption)
                | (with_reducible apply startFabric_keeps; with_reducible assumption)) rfl rfl rfl rfl rfl | split
        | refine Keeps.lit ?_ rfl rfl rfl rfl rfl
  clear_value s2
  have hs3 : Keeps s₀ s3 := by
    unfold s3
    repeat' first
        | with_reducible assumption | intro _ | with_reducible apply Keeps.foldl | with_reducible apply Keeps.ite
        | with_reducible apply joinAt_keeps | with_reducible apply startInput_keeps | with_reducible apply ring_keeps
        | with_reducible apply clipFirst_keeps | with_reducible apply carrySeqs_keeps
        | with_reducible apply startFabric_keeps
        | exact Keeps.lit (by
              first
                | with_reducible assumption
                | (with_reducible apply joinAt_keeps; with_reducible assumption)
                | (with_reducible apply startInput_keeps; with_reducible assumption)
                | (with_reducible apply ring_keeps; with_reducible assumption)
                | (with_reducible apply clipFirst_keeps; with_reducible assumption)
                | (with_reducible apply carrySeqs_keeps; with_reducible assumption)
                | (with_reducible apply startFabric_keeps; with_reducible assumption)) rfl rfl rfl rfl rfl | split
        | refine Keeps.lit ?_ rfl rfl rfl rfl rfl
  clear_value s3
  have hs4 : Keeps s₀ s4 := by
    unfold s4
    repeat' first
        | with_reducible assumption | intro _ | with_reducible apply Keeps.foldl | with_reducible apply Keeps.ite
        | with_reducible apply joinAt_keeps | with_reducible apply startInput_keeps | with_reducible apply ring_keeps
        | with_reducible apply clipFirst_keeps | with_reducible apply carrySeqs_keeps
        | with_reducible apply startFabric_keeps
        | exact Keeps.lit (by
              first
                | with_reducible assumption
                | (with_reducible apply joinAt_keeps; with_reducible assumption)
                | (with_reducible apply startInput_keeps; with_reducible assumption)
                | (with_reducible apply ring_keeps; with_reducible assumption)
                | (with_reducible apply clipFirst_keeps; with_reducible assumption)
                | (with_reducible apply carrySeqs_keeps; with_reducible assumption)
                | (with_reducible apply startFabric_keeps; with_reducible assumption)) rfl rfl rfl rfl rfl | split
        | refine Keeps.lit ?_ rfl rfl rfl rfl rfl
  clear_value s4
  repeat' first
      | with_reducible assumption | intro _ | with_reducible apply Keeps.foldl | with_reducible apply Keeps.ite
      | with_reducible apply joinAt_keeps | with_reducible apply startInput_keeps | with_reducible apply ring_keeps
      | with_reducible apply clipFirst_keeps | with_reducible apply carrySeqs_keeps
      | with_reducible apply startFabric_keeps
      | exact Keeps.lit (by
            first
              | with_reducible assumption
              | (with_reducible apply joinAt_keeps; with_reducible assumption)
              | (with_reducible apply startInput_keeps; with_reducible assumption)
              | (with_reducible apply ring_keeps; with_reducible assumption)
              | (with_reducible apply clipFirst_keeps; with_reducible assumption)
              | (with_reducible apply carrySeqs_keeps; with_reducible assumption)
              | (with_reducible apply startFabric_keeps; with_reducible assumption)) rfl rfl rfl rfl rfl | split
      | refine Keeps.lit ?_ rfl rfl rfl rfl rfl

theorem encodeUpTo_keeps {s₀ : State} : ∀ (n row : Nat) (s : State), Keeps s₀ s → Keeps s₀ (encodeUpTo n row s)
  | 0, _, _, h => h
  | n + 1, row, s, h => by
    unfold encodeUpTo
    exact Keeps.ite (encodeUpTo_keeps n row _ (encodeRow_keeps _ h)) h

theorem writeStaged_keeps {s₀ : State} : ∀ (n : Nat) (s : State), Keeps s₀ s → Keeps s₀ (writeStaged n s)
  | 0, _, h => h
  | n + 1, s, h => by
    unfold writeStaged
    split
    · exact h
    · exact writeStaged_keeps n _ (writeRow_keeps _ _ _ (Keeps.lit h rfl rfl rfl rfl rfl))

theorem boundaryPod_keeps {s₀ : State} (row p : Nat) (s : State) (hk : Keeps s₀ s) :
    Keeps s₀ (boundaryPod row p s) := by
  unfold boundaryPod
  repeat' first
      | with_reducible assumption | with_reducible apply Keeps.ite | with_reducible apply closePodGap_keeps
      | exact Keeps.lit (by
            first
              | with_reducible assumption
              | (with_reducible apply closePodGap_keeps; with_reducible assumption)) rfl rfl rfl rfl rfl | split

theorem atBoundary_keeps {s₀ : State} (b : Boundary) (s : State) (hk : Keeps s₀ s) : Keeps s₀ (atBoundary b s) := by
  unfold atBoundary
  extract_lets s1 s2 s3 s4 v1 v2 s5 s6 v3 v4 s7 v5
  have hs1 : Keeps s₀ s1 := by
    unfold s1
    repeat' first
        | with_reducible assumption | intro _ | with_reducible apply Keeps.foldl | with_reducible apply Keeps.ite
        | with_reducible apply encodeUpTo_keeps | with_reducible apply ring_keeps
        | with_reducible apply writeStaged_keeps | with_reducible apply stopFabric_keeps
        | with_reducible apply boundaryPod_keeps | with_reducible apply applyOffs_keeps
        | with_reducible apply activateImage_keeps | with_reducible apply resetFab_keeps
        | with_reducible apply resetActive_keeps | with_reducible apply realignBoundary_keeps
        | exact Keeps.lit (by
              first
                | with_reducible assumption
                | (with_reducible apply encodeUpTo_keeps; with_reducible assumption)
                | (with_reducible apply ring_keeps; with_reducible assumption)
                | (with_reducible apply writeStaged_keeps; with_reducible assumption)
                | (with_reducible apply stopFabric_keeps; with_reducible assumption)
                | (with_reducible apply boundaryPod_keeps; with_reducible assumption)
                | (with_reducible apply applyOffs_keeps; with_reducible assumption)
                | (with_reducible apply activateImage_keeps; with_reducible assumption)
                | (with_reducible apply resetFab_keeps; with_reducible assumption)
                | (with_reducible apply resetActive_keeps; with_reducible assumption)
                | (with_reducible apply realignBoundary_keeps; with_reducible assumption)) rfl rfl rfl rfl rfl | split
        | refine Keeps.lit ?_ rfl rfl rfl rfl rfl
  clear_value s1
  have hs2 : Keeps s₀ s2 := by
    unfold s2
    repeat' first
        | with_reducible assumption | intro _ | with_reducible apply Keeps.foldl | with_reducible apply Keeps.ite
        | with_reducible apply encodeUpTo_keeps | with_reducible apply ring_keeps
        | with_reducible apply writeStaged_keeps | with_reducible apply stopFabric_keeps
        | with_reducible apply boundaryPod_keeps | with_reducible apply applyOffs_keeps
        | with_reducible apply activateImage_keeps | with_reducible apply resetFab_keeps
        | with_reducible apply resetActive_keeps | with_reducible apply realignBoundary_keeps
        | exact Keeps.lit (by
              first
                | with_reducible assumption
                | (with_reducible apply encodeUpTo_keeps; with_reducible assumption)
                | (with_reducible apply ring_keeps; with_reducible assumption)
                | (with_reducible apply writeStaged_keeps; with_reducible assumption)
                | (with_reducible apply stopFabric_keeps; with_reducible assumption)
                | (with_reducible apply boundaryPod_keeps; with_reducible assumption)
                | (with_reducible apply applyOffs_keeps; with_reducible assumption)
                | (with_reducible apply activateImage_keeps; with_reducible assumption)
                | (with_reducible apply resetFab_keeps; with_reducible assumption)
                | (with_reducible apply resetActive_keeps; with_reducible assumption)
                | (with_reducible apply realignBoundary_keeps; with_reducible assumption)) rfl rfl rfl rfl rfl | split
        | refine Keeps.lit ?_ rfl rfl rfl rfl rfl
  clear_value s2
  have hs3 : Keeps s₀ s3 := by
    unfold s3
    repeat' first
        | with_reducible assumption | intro _ | with_reducible apply Keeps.foldl | with_reducible apply Keeps.ite
        | with_reducible apply encodeUpTo_keeps | with_reducible apply ring_keeps
        | with_reducible apply writeStaged_keeps | with_reducible apply stopFabric_keeps
        | with_reducible apply boundaryPod_keeps | with_reducible apply applyOffs_keeps
        | with_reducible apply activateImage_keeps | with_reducible apply resetFab_keeps
        | with_reducible apply resetActive_keeps | with_reducible apply realignBoundary_keeps
        | exact Keeps.lit (by
              first
                | with_reducible assumption
                | (with_reducible apply encodeUpTo_keeps; with_reducible assumption)
                | (with_reducible apply ring_keeps; with_reducible assumption)
                | (with_reducible apply writeStaged_keeps; with_reducible assumption)
                | (with_reducible apply stopFabric_keeps; with_reducible assumption)
                | (with_reducible apply boundaryPod_keeps; with_reducible assumption)
                | (with_reducible apply applyOffs_keeps; with_reducible assumption)
                | (with_reducible apply activateImage_keeps; with_reducible assumption)
                | (with_reducible apply resetFab_keeps; with_reducible assumption)
                | (with_reducible apply resetActive_keeps; with_reducible assumption)
                | (with_reducible apply realignBoundary_keeps; with_reducible assumption)) rfl rfl rfl rfl rfl | split
        | refine Keeps.lit ?_ rfl rfl rfl rfl rfl
  clear_value s3
  have hs4 : Keeps s₀ s4 := by
    unfold s4
    repeat' first
        | with_reducible assumption | intro _ | with_reducible apply Keeps.foldl | with_reducible apply Keeps.ite
        | with_reducible apply encodeUpTo_keeps | with_reducible apply ring_keeps
        | with_reducible apply writeStaged_keeps | with_reducible apply stopFabric_keeps
        | with_reducible apply boundaryPod_keeps | with_reducible apply applyOffs_keeps
        | with_reducible apply activateImage_keeps | with_reducible apply resetFab_keeps
        | with_reducible apply resetActive_keeps | with_reducible apply realignBoundary_keeps
        | exact Keeps.lit (by
              first
                | with_reducible assumption
                | (with_reducible apply encodeUpTo_keeps; with_reducible assumption)
                | (with_reducible apply ring_keeps; with_reducible assumption)
                | (with_reducible apply writeStaged_keeps; with_reducible assumption)
                | (with_reducible apply stopFabric_keeps; with_reducible assumption)
                | (with_reducible apply boundaryPod_keeps; with_reducible assumption)
                | (with_reducible apply applyOffs_keeps; with_reducible assumption)
                | (with_reducible apply activateImage_keeps; with_reducible assumption)
                | (with_reducible apply resetFab_keeps; with_reducible assumption)
                | (with_reducible apply resetActive_keeps; with_reducible assumption)
                | (with_reducible apply realignBoundary_keeps; with_reducible assumption)) rfl rfl rfl rfl rfl | split
        | refine Keeps.lit ?_ rfl rfl rfl rfl rfl
  clear_value s4
  have hs5 : Keeps s₀ s5 := by
    unfold s5
    repeat' first
        | with_reducible assumption | intro _ | with_reducible apply Keeps.foldl | with_reducible apply Keeps.ite
        | with_reducible apply encodeUpTo_keeps | with_reducible apply ring_keeps
        | with_reducible apply writeStaged_keeps | with_reducible apply stopFabric_keeps
        | with_reducible apply boundaryPod_keeps | with_reducible apply applyOffs_keeps
        | with_reducible apply activateImage_keeps | with_reducible apply resetFab_keeps
        | with_reducible apply resetActive_keeps | with_reducible apply realignBoundary_keeps
        | exact Keeps.lit (by
              first
                | with_reducible assumption
                | (with_reducible apply encodeUpTo_keeps; with_reducible assumption)
                | (with_reducible apply ring_keeps; with_reducible assumption)
                | (with_reducible apply writeStaged_keeps; with_reducible assumption)
                | (with_reducible apply stopFabric_keeps; with_reducible assumption)
                | (with_reducible apply boundaryPod_keeps; with_reducible assumption)
                | (with_reducible apply applyOffs_keeps; with_reducible assumption)
                | (with_reducible apply activateImage_keeps; with_reducible assumption)
                | (with_reducible apply resetFab_keeps; with_reducible assumption)
                | (with_reducible apply resetActive_keeps; with_reducible assumption)
                | (with_reducible apply realignBoundary_keeps; with_reducible assumption)) rfl rfl rfl rfl rfl | split
        | refine Keeps.lit ?_ rfl rfl rfl rfl rfl
  clear_value s5
  have hs6 : Keeps s₀ s6 := by
    unfold s6
    repeat' first
        | with_reducible assumption | intro _ | with_reducible apply Keeps.foldl | with_reducible apply Keeps.ite
        | with_reducible apply encodeUpTo_keeps | with_reducible apply ring_keeps
        | with_reducible apply writeStaged_keeps | with_reducible apply stopFabric_keeps
        | with_reducible apply boundaryPod_keeps | with_reducible apply applyOffs_keeps
        | with_reducible apply activateImage_keeps | with_reducible apply resetFab_keeps
        | with_reducible apply resetActive_keeps | with_reducible apply realignBoundary_keeps
        | exact Keeps.lit (by
              first
                | with_reducible assumption
                | (with_reducible apply encodeUpTo_keeps; with_reducible assumption)
                | (with_reducible apply ring_keeps; with_reducible assumption)
                | (with_reducible apply writeStaged_keeps; with_reducible assumption)
                | (with_reducible apply stopFabric_keeps; with_reducible assumption)
                | (with_reducible apply boundaryPod_keeps; with_reducible assumption)
                | (with_reducible apply applyOffs_keeps; with_reducible assumption)
                | (with_reducible apply activateImage_keeps; with_reducible assumption)
                | (with_reducible apply resetFab_keeps; with_reducible assumption)
                | (with_reducible apply resetActive_keeps; with_reducible assumption)
                | (with_reducible apply realignBoundary_keeps; with_reducible assumption)) rfl rfl rfl rfl rfl | split
        | refine Keeps.lit ?_ rfl rfl rfl rfl rfl
  clear_value s6
  have hs7 : Keeps s₀ s7 := by
    unfold s7
    repeat' first
        | with_reducible assumption | intro _ | with_reducible apply Keeps.foldl | with_reducible apply Keeps.ite
        | with_reducible apply encodeUpTo_keeps | with_reducible apply ring_keeps
        | with_reducible apply writeStaged_keeps | with_reducible apply stopFabric_keeps
        | with_reducible apply boundaryPod_keeps | with_reducible apply applyOffs_keeps
        | with_reducible apply activateImage_keeps | with_reducible apply resetFab_keeps
        | with_reducible apply resetActive_keeps | with_reducible apply realignBoundary_keeps
        | exact Keeps.lit (by
              first
                | with_reducible assumption
                | (with_reducible apply encodeUpTo_keeps; with_reducible assumption)
                | (with_reducible apply ring_keeps; with_reducible assumption)
                | (with_reducible apply writeStaged_keeps; with_reducible assumption)
                | (with_reducible apply stopFabric_keeps; with_reducible assumption)
                | (with_reducible apply boundaryPod_keeps; with_reducible assumption)
                | (with_reducible apply applyOffs_keeps; with_reducible assumption)
                | (with_reducible apply activateImage_keeps; with_reducible assumption)
                | (with_reducible apply resetFab_keeps; with_reducible assumption)
                | (with_reducible apply resetActive_keeps; with_reducible assumption)
                | (with_reducible apply realignBoundary_keeps; with_reducible assumption)) rfl rfl rfl rfl rfl | split
        | refine Keeps.lit ?_ rfl rfl rfl rfl rfl
  clear_value s7
  repeat' first
      | with_reducible assumption | intro _ | with_reducible apply Keeps.foldl | with_reducible apply Keeps.ite
      | with_reducible apply encodeUpTo_keeps | with_reducible apply ring_keeps
      | with_reducible apply writeStaged_keeps | with_reducible apply stopFabric_keeps
      | with_reducible apply boundaryPod_keeps | with_reducible apply applyOffs_keeps
      | with_reducible apply activateImage_keeps | with_reducible apply resetFab_keeps
      | with_reducible apply resetActive_keeps | with_reducible apply realignBoundary_keeps
      | exact Keeps.lit (by
            first
              | with_reducible assumption
              | (with_reducible apply encodeUpTo_keeps; with_reducible assumption)
              | (with_reducible apply ring_keeps; with_reducible assumption)
              | (with_reducible apply writeStaged_keeps; with_reducible assumption)
              | (with_reducible apply stopFabric_keeps; with_reducible assumption)
              | (with_reducible apply boundaryPod_keeps; with_reducible assumption)
              | (with_reducible apply applyOffs_keeps; with_reducible assumption)
              | (with_reducible apply activateImage_keeps; with_reducible assumption)
              | (with_reducible apply resetFab_keeps; with_reducible assumption)
              | (with_reducible apply resetActive_keeps; with_reducible assumption)
              | (with_reducible apply realignBoundary_keeps; with_reducible assumption)) rfl rfl rfl rfl rfl | split
      | refine Keeps.lit ?_ rfl rfl rfl rfl rfl

theorem cutEpisode_keeps {s₀ : State} (cause r : Nat) (s : State) (hk : Keeps s₀ s) :
    Keeps s₀ (cutEpisode cause r s) := by
  unfold cutEpisode
  repeat' first
      | with_reducible assumption | with_reducible apply Keeps.ite | with_reducible apply setEpisode_keeps
      | with_reducible apply endEpisode_keeps
      | exact Keeps.lit (by
            first
              | with_reducible assumption
              | (with_reducible apply setEpisode_keeps; with_reducible assumption)
              | (with_reducible apply endEpisode_keeps; with_reducible assumption)) rfl rfl rfl rfl rfl | split

theorem enterIdle_keeps {s₀ : State} (s : State) (hk : Keeps s₀ s) : Keeps s₀ (enterIdle s) := by
  unfold enterIdle
  dsimp only
  repeat' first
      | with_reducible assumption | intro _ | with_reducible apply Keeps.foldl | with_reducible apply ring_keeps
      | with_reducible apply joinPod_keeps | with_reducible apply disarmAll_keeps
      | with_reducible apply evalMarks_keeps | with_reducible apply raise_keeps
      | exact Keeps.lit (by
            first
              | with_reducible assumption
              | (with_reducible apply ring_keeps; with_reducible assumption)
              | (with_reducible apply joinPod_keeps; with_reducible assumption)
              | (with_reducible apply disarmAll_keeps; with_reducible assumption)
              | (with_reducible apply evalMarks_keeps; with_reducible assumption)
              | (with_reducible apply raise_keeps; with_reducible assumption)) rfl rfl rfl rfl rfl
      | refine Keeps.lit ?_ rfl rfl rfl rfl rfl

theorem openEndGap_keeps {s₀ : State} (e : EpochRec) (s : State) (hk : Keeps s₀ s) : Keeps s₀ (openEndGap e s) := by
  unfold openEndGap
  repeat' first
      | with_reducible assumption | with_reducible apply Keeps.ite | with_reducible apply pushGap_keeps | split

theorem idleOnceEmpty_keeps {s₀ : State} (s : State) (hk : Keeps s₀ s) : Keeps s₀ (idleOnceEmpty s) := by
  unfold idleOnceEmpty
  repeat' first
      | with_reducible assumption | intro _ | with_reducible apply Keeps.ite | with_reducible apply enterIdle_keeps

theorem closeEpoch_keeps {s₀ : State} (b : Boundary) (e : EpochRec) (s : State) (hk : Keeps s₀ s) :
    Keeps s₀ (closeEpoch b e s) := by
  unfold closeEpoch
  dsimp only
  repeat' first
      | with_reducible assumption | intro _ | with_reducible apply Keeps.foldl | with_reducible apply Keeps.ite
      | with_reducible apply cutEpisode_keeps | with_reducible apply openEndGap_keeps
      | with_reducible apply closeRun_keeps | with_reducible apply countFires_keeps
      | with_reducible apply gapsOut_keeps | with_reducible apply windowCairn_keeps
      | with_reducible apply emitCairn_keeps | with_reducible apply emitSummary_keeps
      | with_reducible apply logFrames_keeps | with_reducible apply pushGap_keeps | with_reducible apply emitRet_keeps
      | with_reducible apply raise_keeps
      | exact Keeps.lit (by
            first
              | with_reducible assumption
              | (with_reducible apply cutEpisode_keeps; with_reducible assumption)
              | (with_reducible apply openEndGap_keeps; with_reducible assumption)
              | (with_reducible apply closeRun_keeps; with_reducible assumption)
              | (with_reducible apply countFires_keeps; with_reducible assumption)
              | (with_reducible apply gapsOut_keeps; with_reducible assumption)
              | (with_reducible apply windowCairn_keeps; with_reducible assumption)
              | (with_reducible apply emitCairn_keeps; with_reducible assumption)
              | (with_reducible apply emitSummary_keeps; with_reducible assumption)
              | (with_reducible apply logFrames_keeps; with_reducible assumption)
              | (with_reducible apply pushGap_keeps; with_reducible assumption)
              | (with_reducible apply emitRet_keeps; with_reducible assumption)
              | (with_reducible apply raise_keeps; with_reducible assumption)) rfl rfl rfl rfl rfl | split
      | refine Keeps.lit ?_ rfl rfl rfl rfl rfl

theorem openEpoch_keeps {s₀ : State} (row tb g : Nat) (x : Nat × Nat × List Byte) (s : State) (hk : Keeps s₀ s) :
    Keeps s₀ (openEpoch row tb g x s) := by
  unfold openEpoch
  dsimp only
  repeat' first
      | with_reducible assumption | with_reducible apply emitRow_keeps | with_reducible apply readRow_keeps
      | with_reducible apply raise_keeps | with_reducible apply emitRet_keeps
      | exact Keeps.lit (by
            first
              | with_reducible assumption
              | (with_reducible apply emitRow_keeps; with_reducible assumption)
              | (with_reducible apply readRow_keeps; with_reducible assumption)
              | (with_reducible apply raise_keeps; with_reducible assumption)
              | (with_reducible apply emitRet_keeps; with_reducible assumption)) rfl rfl rfl rfl rfl
      | refine Keeps.lit ?_ rfl rfl rfl rfl rfl

theorem intakeGaps_keeps {s₀ : State} (b : Boundary) (row pods : Nat) (s : State) (hk : Keeps s₀ s) :
    Keeps s₀ (intakeGaps b row pods s) := by
  unfold intakeGaps
  dsimp only
  repeat' first
      | with_reducible assumption | intro _ | with_reducible apply Keeps.ite | with_reducible apply pushGap_keeps
      | with_reducible apply gapCairns_keeps | with_reducible apply gapsOut_keeps

theorem actHeld_keeps {s₀ : State} (s : State) (hk : Keeps s₀ s) : Keeps s₀ (actHeld s) := by
  unfold actHeld
  dsimp only
  repeat' first
      | with_reducible assumption | with_reducible apply Keeps.ite | with_reducible apply acceptCauseAt_keeps
      | with_reducible apply acceptCause_keeps
      | exact Keeps.lit (by
            first
              | with_reducible assumption
              | (with_reducible apply acceptCauseAt_keeps; with_reducible assumption)
              | (with_reducible apply acceptCause_keeps; with_reducible assumption)) rfl rfl rfl rfl rfl | split
      | refine Keeps.lit ?_ rfl rfl rfl rfl rfl

theorem epochOpened_keeps {s₀ : State} (s : State) (hk : Keeps s₀ s) : Keeps s₀ (epochOpened s) := by
  unfold epochOpened
  repeat' first
      | with_reducible assumption | with_reducible apply grantAll_keeps | with_reducible apply rejoinUnits_keeps

theorem crcRefused_keeps {s₀ : State} (s : State) (hk : Keeps s₀ s) : Keeps s₀ (crcRefused s).1 := by
  unfold crcRefused
  dsimp only
  repeat' first | with_reducible assumption | with_reducible apply raise_keeps

theorem epochCommitCmd_keeps {s₀ : State}  (y0 : List Byte) (y1 : State) (hk : Keeps s₀ y1) :
    Keeps s₀ (epochCommitCmd y0 y1).1 := by
  unfold epochCommitCmd
  dsimp only
  repeat' first
      | with_reducible assumption | intro _ | with_reducible apply Keeps.ite | with_reducible apply quit_keeps
      | with_reducible apply crcRefused_keeps | with_reducible apply acceptCause_keeps
      | with_reducible apply holdReference_keeps | with_reducible apply applyOffs_keeps
      | with_reducible apply activateImage_keeps | with_reducible apply applyReshape_keeps
      | exact Keeps.lit (by
            first
              | with_reducible assumption
              | (with_reducible apply quit_keeps; with_reducible assumption)
              | (with_reducible apply crcRefused_keeps; with_reducible assumption)
              | (with_reducible apply acceptCause_keeps; with_reducible assumption)
              | (with_reducible apply holdReference_keeps; with_reducible assumption)
              | (with_reducible apply applyOffs_keeps; with_reducible assumption)
              | (with_reducible apply activateImage_keeps; with_reducible assumption)
              | (with_reducible apply applyReshape_keeps; with_reducible assumption)) rfl rfl rfl rfl rfl | split

theorem startAcq_keeps {s₀ : State} (row : Nat) (s : State) (hk : Keeps s₀ s) : Keeps s₀ (startAcq row s) := by
  unfold startAcq
  extract_lets s1 v1 v2 v3 s2 s3
  have hs1 : Keeps s₀ s1 := by
    unfold s1
    repeat' first
        | with_reducible assumption | intro _ | with_reducible apply applyOffs_keeps
        | with_reducible apply activateImage_keeps | with_reducible apply holdReference_keeps
        | with_reducible apply ring_keeps | with_reducible apply emitRow_keeps | with_reducible apply readRow_keeps
        | with_reducible apply epochOpened_keeps | with_reducible apply startIntake_keeps
        | with_reducible apply evalMarks_keeps
        | exact Keeps.lit (by
              first
                | with_reducible assumption
                | (with_reducible apply applyOffs_keeps; with_reducible assumption)
                | (with_reducible apply activateImage_keeps; with_reducible assumption)
                | (with_reducible apply holdReference_keeps; with_reducible assumption)
                | (with_reducible apply ring_keeps; with_reducible assumption)
                | (with_reducible apply emitRow_keeps; with_reducible assumption)
                | (with_reducible apply readRow_keeps; with_reducible assumption)
                | (with_reducible apply epochOpened_keeps; with_reducible assumption)
                | (with_reducible apply startIntake_keeps; with_reducible assumption)
                | (with_reducible apply evalMarks_keeps; with_reducible assumption)) rfl rfl rfl rfl rfl
        | refine Keeps.lit ?_ rfl rfl rfl rfl rfl
  clear_value s1
  have hs2 : Keeps s₀ s2 := by
    unfold s2
    repeat' first
        | with_reducible assumption | intro _ | with_reducible apply applyOffs_keeps
        | with_reducible apply activateImage_keeps | with_reducible apply holdReference_keeps
        | with_reducible apply ring_keeps | with_reducible apply emitRow_keeps | with_reducible apply readRow_keeps
        | with_reducible apply epochOpened_keeps | with_reducible apply startIntake_keeps
        | with_reducible apply evalMarks_keeps
        | exact Keeps.lit (by
              first
                | with_reducible assumption
                | (with_reducible apply applyOffs_keeps; with_reducible assumption)
                | (with_reducible apply activateImage_keeps; with_reducible assumption)
                | (with_reducible apply holdReference_keeps; with_reducible assumption)
                | (with_reducible apply ring_keeps; with_reducible assumption)
                | (with_reducible apply emitRow_keeps; with_reducible assumption)
                | (with_reducible apply readRow_keeps; with_reducible assumption)
                | (with_reducible apply epochOpened_keeps; with_reducible assumption)
                | (with_reducible apply startIntake_keeps; with_reducible assumption)
                | (with_reducible apply evalMarks_keeps; with_reducible assumption)) rfl rfl rfl rfl rfl
        | refine Keeps.lit ?_ rfl rfl rfl rfl rfl
  clear_value s2
  have hs3 : Keeps s₀ s3 := by
    unfold s3
    repeat' first
        | with_reducible assumption | intro _ | with_reducible apply applyOffs_keeps
        | with_reducible apply activateImage_keeps | with_reducible apply holdReference_keeps
        | with_reducible apply ring_keeps | with_reducible apply emitRow_keeps | with_reducible apply readRow_keeps
        | with_reducible apply epochOpened_keeps | with_reducible apply startIntake_keeps
        | with_reducible apply evalMarks_keeps
        | exact Keeps.lit (by
              first
                | with_reducible assumption
                | (with_reducible apply applyOffs_keeps; with_reducible assumption)
                | (with_reducible apply activateImage_keeps; with_reducible assumption)
                | (with_reducible apply holdReference_keeps; with_reducible assumption)
                | (with_reducible apply ring_keeps; with_reducible assumption)
                | (with_reducible apply emitRow_keeps; with_reducible assumption)
                | (with_reducible apply readRow_keeps; with_reducible assumption)
                | (with_reducible apply epochOpened_keeps; with_reducible assumption)
                | (with_reducible apply startIntake_keeps; with_reducible assumption)
                | (with_reducible apply evalMarks_keeps; with_reducible assumption)) rfl rfl rfl rfl rfl
        | refine Keeps.lit ?_ rfl rfl rfl rfl rfl
  clear_value s3
  repeat' first
      | with_reducible assumption | intro _ | with_reducible apply applyOffs_keeps
      | with_reducible apply activateImage_keeps | with_reducible apply holdReference_keeps
      | with_reducible apply ring_keeps | with_reducible apply emitRow_keeps | with_reducible apply readRow_keeps
      | with_reducible apply epochOpened_keeps | with_reducible apply startIntake_keeps
      | with_reducible apply evalMarks_keeps
      | exact Keeps.lit (by
            first
              | with_reducible assumption
              | (with_reducible apply applyOffs_keeps; with_reducible assumption)
              | (with_reducible apply activateImage_keeps; with_reducible assumption)
              | (with_reducible apply holdReference_keeps; with_reducible assumption)
              | (with_reducible apply ring_keeps; with_reducible assumption)
              | (with_reducible apply emitRow_keeps; with_reducible assumption)
              | (with_reducible apply readRow_keeps; with_reducible assumption)
              | (with_reducible apply epochOpened_keeps; with_reducible assumption)
              | (with_reducible apply startIntake_keeps; with_reducible assumption)
              | (with_reducible apply evalMarks_keeps; with_reducible assumption)) rfl rfl rfl rfl rfl
      | refine Keeps.lit ?_ rfl rfl rfl rfl rfl

theorem acqStartCmd_keeps {s₀ : State}  (y0 : List Byte) (y1 : State) (hk : Keeps s₀ y1) :
    Keeps s₀ (acqStartCmd y0 y1).1 := by
  unfold acqStartCmd
  dsimp only
  repeat' first
      | with_reducible assumption | intro _ | with_reducible apply Keeps.ite | with_reducible apply quit_keeps
      | with_reducible apply crcRefused_keeps | with_reducible apply startAcq_keeps | split

theorem acqStopCmd_keeps {s₀ : State}  (y0 : List Byte) (y1 : State) (hk : Keeps s₀ y1) :
    Keeps s₀ (acqStopCmd y0 y1).1 := by
  unfold acqStopCmd
  dsimp only
  repeat' first
      | with_reducible assumption | intro _ | with_reducible apply Keeps.ite | with_reducible apply quit_keeps
      | with_reducible apply requestStop_keeps
      | exact Keeps.lit (by
            first
              | with_reducible assumption
              | (with_reducible apply quit_keeps; with_reducible assumption)
              | (with_reducible apply requestStop_keeps; with_reducible assumption)) rfl rfl rfl rfl rfl | split

theorem retainSetCmd_keeps {s₀ : State}  (y0 : List Byte) (y1 : State) (hk : Keeps s₀ y1) :
    Keeps s₀ (retainSetCmd y0 y1).1 := by
  unfold retainSetCmd
  dsimp only
  repeat' first
      | with_reducible assumption | intro _ | with_reducible apply Keeps.ite | with_reducible apply quit_keeps
      | with_reducible apply modStaged_keeps
      | exact Keeps.lit (by
            first
              | with_reducible assumption
              | (with_reducible apply quit_keeps; with_reducible assumption)
              | (with_reducible apply modStaged_keeps; with_reducible assumption)) rfl rfl rfl rfl rfl | split

theorem markCmd_keeps {s₀ : State}  (y0 : List Byte) (y1 : State) (hk : Keeps s₀ y1) :
    Keeps s₀ (markCmd y0 y1).1 := by
  unfold markCmd
  dsimp only
  repeat' first
      | with_reducible assumption | intro _ | with_reducible apply Keeps.ite | with_reducible apply quit_keeps
      | with_reducible apply pushCairn_keeps | with_reducible apply addRequest_keeps | split

/-! ## Export -/

theorem packFrame_keeps {s₀ : State} (f : Frame) (x : Extent) (s : State) (hk : Keeps s₀ s) :
    Keeps s₀ (packFrame f x s) := by
  unfold packFrame
  dsimp only
  repeat' first
      | with_reducible assumption | intro _ | with_reducible apply Keeps.ite | with_reducible apply closeExtent_keeps
      | exact Keeps.lit (by with_reducible assumption) rfl rfl rfl rfl rfl

theorem closeBefore_keeps {s₀ : State} (n : Nat) (x : Extent) (s : State) (hk : Keeps s₀ s) :
    Keeps s₀ (closeBefore n x s) := by
  unfold closeBefore
  repeat' first
      | with_reducible assumption | with_reducible apply Keeps.ite | with_reducible apply closeBlock_keeps
      | exact Keeps.lit (by
            first
              | with_reducible assumption
              | (with_reducible apply closeBlock_keeps; with_reducible assumption)) rfl rfl rfl rfl rfl | split

theorem takeFrame_keeps {s₀ : State} (f : Frame) (x : Extent) (s : State) (hk : Keeps s₀ s) :
    Keeps s₀ (takeFrame f x s) := by
  unfold takeFrame
  dsimp only
  repeat' first
      | with_reducible assumption | intro _ | with_reducible apply Keeps.ite | with_reducible apply closeBefore_keeps
      | with_reducible apply closeExtent_keeps | with_reducible apply packFrame_keeps

theorem withdraw_keeps {s₀ : State} (i : Nat) (d : Stored) (s : State) (hk : Keeps s₀ s) :
    Keeps s₀ (withdraw i d s) := by
  unfold withdraw
  dsimp only
  repeat' first
      | with_reducible assumption | intro _ | with_reducible apply Keeps.ite
      | exact Keeps.lit (by with_reducible assumption) rfl rfl rfl rfl rfl | split
      | refine Keeps.lit ?_ rfl rfl rfl rfl rfl

theorem laneStored_keeps {s₀ : State} (i : Nat) (d : Stored) (bad : Bool) (s : State) (hk : Keeps s₀ s) :
    Keeps s₀ (laneStored i d bad s) := by
  unfold laneStored
  dsimp only
  repeat' first
      | with_reducible assumption | intro _ | with_reducible apply Keeps.ite | with_reducible apply withdraw_keeps
      | exact Keeps.lit (by
            first
              | with_reducible assumption
              | (with_reducible apply withdraw_keeps; with_reducible assumption)) rfl rfl rfl rfl rfl

theorem verifyFail_keeps {s₀ : State} (i : Nat) (raw : List Byte) (s : State) (hk : Keeps s₀ s) :
    Keeps s₀ (verifyFail i raw s) := by
  unfold verifyFail
  dsimp only
  repeat' first
      | with_reducible assumption | intro _ | with_reducible apply Keeps.ite | with_reducible apply laneStored_keeps
      | with_reducible apply raise_keeps | with_reducible apply signalUnit_keeps
      | with_reducible apply fenceLane_keeps
      | exact Keeps.lit (by
            first
              | with_reducible assumption
              | (with_reducible apply laneStored_keeps; with_reducible assumption)) rfl rfl rfl rfl rfl

theorem storeBlock_keeps {s₀ : State} (i : Nat) (b : Block) (packed : List Byte) (s : State) (hk : Keeps s₀ s) :
    Keeps s₀ (storeBlock i b packed s) := by
  unfold storeBlock
  dsimp only
  repeat' first
      | with_reducible assumption | intro _ | with_reducible apply Keeps.ite | with_reducible apply laneStored_keeps
      | with_reducible apply verifyFail_keeps | exact Keeps.lit (by with_reducible assumption) rfl rfl rfl rfl rfl

theorem riseStall_keeps {s₀ : State} (s : State) (hk : Keeps s₀ s) : Keeps s₀ (riseStall s) := by
  unfold riseStall
  dsimp only
  repeat' first
      | with_reducible assumption | with_reducible apply Keeps.ite | with_reducible apply raise_keeps
      | exact Keeps.lit (by with_reducible assumption) rfl rfl rfl rfl rfl

theorem closePacket_keeps {s₀ : State} (b : Block) (d : Stored) (s : State) (hk : Keeps s₀ s) :
    Keeps s₀ (closePacket b d s) := by
  unfold closePacket
  dsimp only
  repeat' first
      | with_reducible assumption | intro _ | with_reducible apply Keeps.ite
      | with_reducible apply closeFrozenBank_keeps | with_reducible apply finishExtent_keeps
      | with_reducible apply feedChain_keeps | with_reducible apply modExtent_keeps
      | with_reducible apply applyReshape_keeps
      | exact Keeps.lit (by
            first
              | with_reducible assumption
              | (with_reducible apply closeFrozenBank_keeps; with_reducible assumption)
              | (with_reducible apply finishExtent_keeps; with_reducible assumption)
              | (with_reducible apply feedChain_keeps; with_reducible assumption)
              | (with_reducible apply modExtent_keeps; with_reducible assumption)
              | (with_reducible apply applyReshape_keeps; with_reducible assumption)) rfl rfl rfl rfl rfl | split
      | refine Keeps.lit ?_ rfl rfl rfl rfl rfl

theorem modDrive_keeps {s₀ : State} (d : Nat) (f : Drive → Drive) (s : State) (hk : Keeps s₀ s) :
    Keeps s₀ (modDrive d f s) := by
  unfold modDrive
  repeat' first | with_reducible assumption | exact Keeps.lit (by with_reducible assumption) rfl rfl rfl rfl rfl

theorem submit_keeps {s₀ : State} (d : Nat) (c : DriveCmd) (entry : Nat → List Byte) (s : State) (hk : Keeps s₀ s) :
    Keeps s₀ (submit d c entry s) := by
  unfold submit
  dsimp only
  repeat' first
      | with_reducible assumption | intro _ | with_reducible apply scratchWrite_keeps
      | with_reducible apply modDrive_keeps | with_reducible apply emitOut_keeps

theorem submitWrite_keeps {s₀ : State} (d : Nat) (x : Extent) (lo hi : Nat) (s : State) (hk : Keeps s₀ s) :
    Keeps s₀ (submitWrite d x lo hi s).2 := by
  unfold submitWrite
  dsimp only
  repeat' first
      | with_reducible assumption | intro _ | with_reducible apply Keeps.ite | with_reducible apply scratchWrite_keeps
      | with_reducible apply submit_keeps

theorem issueFlushes_keeps {s₀ : State} (s : State) (hk : Keeps s₀ s) : Keeps s₀ (issueFlushes s) := by
  unfold issueFlushes
  dsimp only
  repeat' first
      | with_reducible assumption | intro _ | with_reducible apply Keeps.foldl | with_reducible apply Keeps.ite
      | with_reducible apply submit_keeps

theorem swapBanks_keeps {s₀ : State} (s : State) (hk : Keeps s₀ s) : Keeps s₀ (swapBanks s) := by
  unfold swapBanks
  dsimp only
  repeat' first
      | with_reducible assumption | intro _ | with_reducible apply Keeps.ite | with_reducible apply raise_keeps
      | exact Keeps.lit (by with_reducible assumption) rfl rfl rfl rfl rfl

theorem postWrites_keeps {s₀ : State} : ∀ (n a : Nat) (bs : List Byte) (s : State),
    Keeps s₀ s → Keeps s₀ (postWrites n a bs s)
  | 0, _, _, _, h => h
  | n + 1, _, _, _, h => by
    unfold postWrites
    exact Keeps.ite h (postWrites_keeps n _ _ _ (emitOut_keeps _ _ h))

theorem popTo_keeps {s₀ : State} (rd : Nat) (s : State) (hk : Keeps s₀ s) : Keeps s₀ (popTo rd s) := by
  unfold popTo
  dsimp only
  repeat' first | with_reducible assumption | exact Keeps.lit (by with_reducible assumption) rfl rfl rfl rfl rfl

theorem windowChunk_keeps {s₀ : State} (x : Extent) (ps : List Packet) (s : State) (hk : Keeps s₀ s) :
    Keeps s₀ (windowChunk x ps s) := by
  unfold windowChunk
  dsimp only
  repeat' first
      | with_reducible assumption | intro _ | with_reducible apply popTo_keeps | with_reducible apply emitOut_keeps
      | with_reducible apply postWrites_keeps
      | exact Keeps.lit (by
            first
              | with_reducible assumption
              | (with_reducible apply popTo_keeps; with_reducible assumption)) rfl rfl rfl rfl rfl

theorem driveChunk_keeps {s₀ : State} (x : Extent) (s : State) (hk : Keeps s₀ s) : Keeps s₀ (driveChunk x s) := by
  unfold driveChunk
  dsimp only
  repeat' first
      | with_reducible assumption | with_reducible apply Keeps.ite | with_reducible apply submitWrite_keeps
      | with_reducible apply popTo_keeps
      | exact Keeps.lit (by
            first
              | with_reducible assumption
              | (with_reducible apply submitWrite_keeps; with_reducible assumption)
              | (with_reducible apply popTo_keeps; with_reducible assumption)) rfl rfl rfl rfl rfl | split
      | refine Keeps.lit ?_ rfl rfl rfl rfl rfl

theorem nextChunk_keeps {s₀ : State} (s : State) (hk : Keeps s₀ s) : Keeps s₀ (nextChunk s) := by
  unfold nextChunk
  dsimp only
  repeat' first
      | with_reducible assumption | intro _ | with_reducible apply Keeps.ite | with_reducible apply driveChunk_keeps
      | with_reducible apply windowChunk_keeps
      | exact Keeps.lit (by
            first
              | with_reducible assumption
              | (with_reducible apply driveChunk_keeps; with_reducible assumption)
              | (with_reducible apply windowChunk_keeps; with_reducible assumption)) rfl rfl rfl rfl rfl | split

theorem dropTag_keeps {s₀ : State} (tag : Nat) (s : State) (hk : Keeps s₀ s) : Keeps s₀ (dropTag tag s) := by
  unfold dropTag
  dsimp only
  repeat' first
      | with_reducible assumption | intro _ | exact Keeps.lit (by with_reducible assumption) rfl rfl rfl rfl rfl

theorem rewindFor_keeps {s₀ : State} (tag : Nat) (s : State) (hk : Keeps s₀ s) : Keeps s₀ (rewindFor tag s) := by
  unfold rewindFor
  repeat' first | with_reducible assumption | with_reducible apply Keeps.ite | with_reducible apply rewind_keeps

theorem meetChunk_keeps {s₀ : State} (p : Chunk → Bool) (s : State) (hk : Keeps s₀ s) : Keeps s₀ (meetChunk p s) := by
  unfold meetChunk
  dsimp only
  repeat' first
      | with_reducible assumption | intro _ | with_reducible apply Keeps.ite | with_reducible apply releaseAll_keeps
      | exact Keeps.lit (by with_reducible assumption) rfl rfl rfl rfl rfl

theorem badFlush_keeps {s₀ : State} (tag addr : Nat) (poisoned : Bool) (s : State) (hk : Keeps s₀ s) :
    Keeps s₀ (badFlush tag addr poisoned s) := by
  unfold badFlush
  dsimp only
  repeat' first
      | with_reducible assumption | with_reducible apply Keeps.ite | with_reducible apply aerAdvisory_keeps
      | with_reducible apply raise_keeps | with_reducible apply raiseWith_keeps | with_reducible apply rewindFor_keeps
      | exact Keeps.lit (by
            first
              | with_reducible assumption
              | (with_reducible apply aerAdvisory_keeps; with_reducible assumption)
              | (with_reducible apply raise_keeps; with_reducible assumption)
              | (with_reducible apply raiseWith_keeps; with_reducible assumption)
              | (with_reducible apply rewindFor_keeps; with_reducible assumption)) rfl rfl rfl rfl rfl | split
      | refine Keeps.lit ?_ rfl rfl rfl rfl rfl

theorem flushTimeout_keeps {s₀ : State} (tag addr : Nat) (s : State) (hk : Keeps s₀ s) :
    Keeps s₀ (flushTimeout tag addr s) := by
  unfold flushTimeout
  dsimp only
  repeat' first
      | with_reducible assumption | with_reducible apply dropTag_keeps | with_reducible apply raise_keeps
      | with_reducible apply signal_keeps | with_reducible apply aerAdvisory_keeps
      | with_reducible apply rewindFor_keeps
      | exact Keeps.lit (by
            first
              | with_reducible assumption
              | (with_reducible apply dropTag_keeps; with_reducible assumption)
              | (with_reducible apply raise_keeps; with_reducible assumption)
              | (with_reducible apply signal_keeps; with_reducible assumption)
              | (with_reducible apply aerAdvisory_keeps; with_reducible assumption)
              | (with_reducible apply rewindFor_keeps; with_reducible assumption)) rfl rfl rfl rfl rfl
      | refine Keeps.lit ?_ rfl rfl rfl rfl rfl

theorem freeBytes_keeps {s₀ : State} : ∀ (n : Nat) (s : State), Keeps s₀ s → Keeps s₀ (freeBytes n s).2
  | 0, _, h => h
  | n + 1, _, h => freeBytes_keeps n _ (freeBits_keeps 64 _ h)

theorem resetExtents_keeps {s₀ : State} (lost : Nat → Bool) (s : State) (hk : Keeps s₀ s) :
    Keeps s₀ (resetExtents lost s) := by
  unfold resetExtents
  dsimp only
  repeat' first
      | with_reducible assumption | exact Keeps.lit (by with_reducible assumption) rfl rfl rfl rfl rfl | split

theorem displaceBlocks_keeps {s₀ : State} (s : State) (hk : Keeps s₀ s) : Keeps s₀ (displaceBlocks s) := by
  unfold displaceBlocks
  dsimp only
  repeat' first
      | with_reducible assumption | intro _ | exact Keeps.lit (by with_reducible assumption) rfl rfl rfl rfl rfl

theorem withoutBlock_keeps {s₀ : State} (n : Nat) (s : State) (hk : Keeps s₀ s) : Keeps s₀ (withoutBlock n s) := by
  unfold withoutBlock
  dsimp only
  repeat' first
      | with_reducible assumption | intro _ | exact Keeps.lit (by with_reducible assumption) rfl rfl rfl rfl rfl

theorem dropOpen_keeps {s₀ : State} (s : State) (hk : Keeps s₀ s) : Keeps s₀ (dropOpen s).2 := by
  unfold dropOpen
  repeat' first
      | with_reducible assumption | intro _ | with_reducible apply withoutBlock_keeps
      | exact Keeps.lit (by
            first
              | with_reducible assumption
              | (with_reducible apply withoutBlock_keeps; with_reducible assumption)) rfl rfl rfl rfl rfl | split

theorem boundaryLost_keeps {s₀ : State} (ps : List Packet) (s : State) (hk : Keeps s₀ s) :
    Keeps s₀ (boundaryLost ps s) := by
  unfold boundaryLost
  repeat' first
      | with_reducible assumption | intro _ | with_reducible apply Keeps.ite | with_reducible apply applyReshape_keeps
      | exact Keeps.lit (by
            first
              | with_reducible assumption
              | (with_reducible apply applyReshape_keeps; with_reducible assumption)) rfl rfl rfl rfl rfl | split
      | refine Keeps.lit ?_ rfl rfl rfl rfl rfl

theorem forceReset_keeps {s₀ : State} (extra : List Packet) (s : State) (hk : Keeps s₀ s) :
    Keeps s₀ (forceReset extra s) := by
  unfold forceReset
  dsimp only
  repeat' first
      | with_reducible assumption | intro _ | with_reducible apply dropOpen_keeps | with_reducible apply raise_keeps
      | with_reducible apply boundaryLost_keeps | with_reducible apply displaceBlocks_keeps
      | with_reducible apply resetExtents_keeps | with_reducible apply idleOnceEmpty_keeps
      | with_reducible apply closeFrozenBank_keeps | with_reducible apply afterRelease_keeps
      | exact Keeps.lit (by
            first
              | with_reducible assumption
              | (with_reducible apply dropOpen_keeps; with_reducible assumption)
              | (with_reducible apply raise_keeps; with_reducible assumption)
              | (with_reducible apply boundaryLost_keeps; with_reducible assumption)
              | (with_reducible apply displaceBlocks_keeps; with_reducible assumption)
              | (with_reducible apply resetExtents_keeps; with_reducible assumption)
              | (with_reducible apply idleOnceEmpty_keeps; with_reducible assumption)
              | (with_reducible apply closeFrozenBank_keeps; with_reducible assumption)
              | (with_reducible apply afterRelease_keeps; with_reducible assumption)) rfl rfl rfl rfl rfl
      | refine Keeps.lit ?_ rfl rfl rfl rfl rfl

theorem comparePointers_keeps {s₀ : State} (s : State) (hk : Keeps s₀ s) : Keeps s₀ (comparePointers s) := by
  unfold comparePointers
  repeat' first
      | with_reducible assumption | with_reducible apply Keeps.ite | with_reducible apply forceReset_keeps
      | with_reducible apply signal_keeps

theorem resetGap_keeps {s₀ : State} (l : Option (Nat × Nat) × Option (Nat × Nat) × Nat) (s : State)
    (hk : Keeps s₀ s) :
    Keeps s₀ (resetGap l s) := by
  unfold resetGap
  dsimp only
  repeat' first
      | with_reducible assumption | with_reducible apply Keeps.ite | with_reducible apply freeBits_keeps
      | with_reducible apply emitRow_keeps
      | exact Keeps.lit (by
            first
              | with_reducible assumption
              | (with_reducible apply freeBits_keeps; with_reducible assumption)
              | (with_reducible apply emitRow_keeps; with_reducible assumption)) rfl rfl rfl rfl rfl | split

theorem setPause_keeps {s₀ : State} (on : Bool) (s : State) (hk : Keeps s₀ s) : Keeps s₀ (setPause on s) := by
  unfold setPause
  dsimp only
  repeat' first
      | with_reducible assumption | with_reducible apply Keeps.ite | with_reducible apply raise_keeps
      | with_reducible apply rewind_keeps
      | exact Keeps.lit (by
            first
              | with_reducible assumption
              | (with_reducible apply raise_keeps; with_reducible assumption)
              | (with_reducible apply rewind_keeps; with_reducible assumption)) rfl rfl rfl rfl rfl | split
      | refine Keeps.lit ?_ rfl rfl rfl rfl rfl

theorem expCfgCmd_keeps {s₀ : State}  (y0 : List Byte) (y1 : State) (hk : Keeps s₀ y1) :
    Keeps s₀ (expCfgCmd y0 y1).1 := by
  unfold expCfgCmd
  dsimp only
  repeat' first
      | with_reducible assumption | intro _ | with_reducible apply Keeps.ite | with_reducible apply quit_keeps
      | with_reducible apply setPause_keeps
      | exact Keeps.lit (by
            first
              | with_reducible assumption
              | (with_reducible apply quit_keeps; with_reducible assumption)
              | (with_reducible apply setPause_keeps; with_reducible assumption)) rfl rfl rfl rfl rfl | split

theorem pullBad_keeps {s₀ : State} (s : State) (hk : Keeps s₀ s) : Keeps s₀ (pullBad s) := by
  unfold pullBad
  repeat' first
      | with_reducible assumption | with_reducible apply raise_keeps
      | exact Keeps.lit (by with_reducible assumption) rfl rfl rfl rfl rfl

theorem writePullRelease_keeps {s₀ : State} (v : Word) (be : BitVec 4) (s : State) (hk : Keeps s₀ s) :
    Keeps s₀ (writePullRelease v be s) := by
  unfold writePullRelease
  dsimp only
  repeat' first
      | with_reducible assumption | intro _ | with_reducible apply Keeps.ite | with_reducible apply special_keeps
      | with_reducible apply clearHold_keeps | with_reducible apply afterRelease_keeps
      | with_reducible apply releaseTo_keeps | with_reducible apply raise_keeps

theorem durableAck_keeps {s₀ : State} (v : Word64) (s : State) (hk : Keeps s₀ s) : Keeps s₀ (durableAck v s) := by
  unfold durableAck
  dsimp only
  repeat' first
      | with_reducible assumption | intro _ | with_reducible apply Keeps.foldl | with_reducible apply Keeps.ite
      | with_reducible apply raise_keeps | with_reducible apply makeDurable_keeps

theorem writeDurableAck_keeps {s₀ : State} (v : Word64) (be : BitVec 8) (s : State) (hk : Keeps s₀ s) :
    Keeps s₀ (writeDurableAck v be s) := by
  unfold writeDurableAck
  repeat' first
      | with_reducible assumption | with_reducible apply write64_keeps | with_reducible apply durableAck_keeps

theorem handPad_keeps {s₀ : State} (x : Extent) (l : LastFrame) (s : State) (hk : Keeps s₀ s) :
    Keeps s₀ (handPad x l s) := by
  unfold handPad
  dsimp only
  repeat' first
      | with_reducible assumption | with_reducible apply freeBits_keeps | with_reducible apply closeBlock_keeps
      | exact Keeps.lit (by
            first
              | with_reducible assumption
              | (with_reducible apply freeBits_keeps; with_reducible assumption)
              | (with_reducible apply closeBlock_keeps; with_reducible assumption)) rfl rfl rfl rfl rfl | split

theorem closeAhead_keeps {s₀ : State} (s : State) (hk : Keeps s₀ s) : Keeps s₀ (closeAhead s) := by
  unfold closeAhead
  dsimp only
  repeat' first
      | with_reducible assumption | with_reducible apply closeBlock_keeps
      | exact Keeps.lit (by
            first
              | with_reducible assumption
              | (with_reducible apply closeBlock_keeps; with_reducible assumption)) rfl rfl rfl rfl rfl
      | refine Keeps.lit ?_ rfl rfl rfl rfl rfl

/-! ## Talus -/

theorem evalStore_keeps {s₀ : State} (s : State) (hk : Keeps s₀ s) : Keeps s₀ (evalStore s) := by
  unfold evalStore
  dsimp only
  repeat' first
      | with_reducible assumption | with_reducible apply Keeps.ite | with_reducible apply raise_keeps
      | exact Keeps.lit (by
            first
              | with_reducible assumption
              | (with_reducible apply raise_keeps; with_reducible assumption)) rfl rfl rfl rfl rfl | split

theorem evalWear_keeps {s₀ : State} (s : State) (hk : Keeps s₀ s) : Keeps s₀ (evalWear s) := by
  unfold evalWear
  dsimp only
  repeat' first
      | with_reducible assumption | with_reducible apply Keeps.ite | with_reducible apply raise_keeps
      | exact Keeps.lit (by with_reducible assumption) rfl rfl rfl rfl rfl

theorem showWaits_keeps {s₀ : State} (w : Waits) (s : State) (hk : Keeps s₀ s) : Keeps s₀ (showWaits w s) := by
  unfold showWaits
  dsimp only
  repeat' first
      | with_reducible assumption | with_reducible apply Keeps.ite | with_reducible apply raise_keeps
      | exact Keeps.lit (by with_reducible assumption) rfl rfl rfl rfl rfl

theorem headSeqNo_keeps {s₀ : State} (s : State) (hk : Keeps s₀ s) : Keeps s₀ (headSeqNo s).2 := by
  unfold headSeqNo
  dsimp only
  repeat' first
      | with_reducible assumption | intro _ | with_reducible apply Keeps.ite | with_reducible apply freeBits_keeps
      | exact Keeps.lit (by
            first
              | with_reducible assumption
              | (with_reducible apply freeBits_keeps; with_reducible assumption)) rfl rfl rfl rfl rfl | split

theorem headFirst_keeps {s₀ : State} (h : Block) (keep : List Nat) (n : Nat) (s : State) (hk : Keeps s₀ s) :
    Keeps s₀ (headFirst h keep n s) := by
  unfold headFirst
  dsimp only
  repeat' first
      | with_reducible assumption | intro _ | with_reducible apply Keeps.ite
      | exact Keeps.lit (by with_reducible assumption) rfl rfl rfl rfl rfl

theorem headLast_keeps {s₀ : State} (h : Block) (s : State) (hk : Keeps s₀ s) : Keeps s₀ (headLast h s) := by
  unfold headLast
  dsimp only
  repeat' first | with_reducible assumption | exact Keeps.lit (by with_reducible assumption) rfl rfl rfl rfl rfl

theorem openExtent_keeps {s₀ : State} (f : FormatRec) (p : Place) (fr : Frame) (s : State) (hk : Keeps s₀ s) :
    Keeps s₀ (openExtent f p fr s) := by
  unfold openExtent
  extract_lets n prev ovr r t0 body head bs k kept room epochEnds openStays ends x first h keep s1 v1 v2 s2 s3 v3 s4
  have hs1 : Keeps s₀ s1 := by
    unfold s1
    repeat' first
        | with_reducible assumption | intro _ | with_reducible apply Keeps.ite | with_reducible apply headSeqNo_keeps
        | with_reducible apply clearQuiet_keeps | with_reducible apply headFirst_keeps
        | with_reducible apply headLast_keeps | with_reducible apply writeFormat_keeps
        | with_reducible apply evalStore_keeps
        | exact Keeps.lit (by
              first
                | with_reducible assumption
                | (with_reducible apply headSeqNo_keeps; with_reducible assumption)
                | (with_reducible apply clearQuiet_keeps; with_reducible assumption)
                | (with_reducible apply headFirst_keeps; with_reducible assumption)
                | (with_reducible apply headLast_keeps; with_reducible assumption)
                | (with_reducible apply writeFormat_keeps; with_reducible assumption)
                | (with_reducible apply evalStore_keeps; with_reducible assumption)) rfl rfl rfl rfl rfl | split
        | refine Keeps.lit ?_ rfl rfl rfl rfl rfl
  clear_value s1
  have hs2 : Keeps s₀ s2 := by
    unfold s2
    repeat' first
        | with_reducible assumption | intro _ | with_reducible apply Keeps.ite | with_reducible apply headSeqNo_keeps
        | with_reducible apply clearQuiet_keeps | with_reducible apply headFirst_keeps
        | with_reducible apply headLast_keeps | with_reducible apply writeFormat_keeps
        | with_reducible apply evalStore_keeps
        | exact Keeps.lit (by
              first
                | with_reducible assumption
                | (with_reducible apply headSeqNo_keeps; with_reducible assumption)
                | (with_reducible apply clearQuiet_keeps; with_reducible assumption)
                | (with_reducible apply headFirst_keeps; with_reducible assumption)
                | (with_reducible apply headLast_keeps; with_reducible assumption)
                | (with_reducible apply writeFormat_keeps; with_reducible assumption)
                | (with_reducible apply evalStore_keeps; with_reducible assumption)) rfl rfl rfl rfl rfl | split
        | refine Keeps.lit ?_ rfl rfl rfl rfl rfl
  clear_value s2
  have hs3 : Keeps s₀ s3 := by
    unfold s3
    repeat' first
        | with_reducible assumption | intro _ | with_reducible apply Keeps.ite | with_reducible apply headSeqNo_keeps
        | with_reducible apply clearQuiet_keeps | with_reducible apply headFirst_keeps
        | with_reducible apply headLast_keeps | with_reducible apply writeFormat_keeps
        | with_reducible apply evalStore_keeps
        | exact Keeps.lit (by
              first
                | with_reducible assumption
                | (with_reducible apply headSeqNo_keeps; with_reducible assumption)
                | (with_reducible apply clearQuiet_keeps; with_reducible assumption)
                | (with_reducible apply headFirst_keeps; with_reducible assumption)
                | (with_reducible apply headLast_keeps; with_reducible assumption)
                | (with_reducible apply writeFormat_keeps; with_reducible assumption)
                | (with_reducible apply evalStore_keeps; with_reducible assumption)) rfl rfl rfl rfl rfl | split
        | refine Keeps.lit ?_ rfl rfl rfl rfl rfl
  clear_value s3
  have hs4 : Keeps s₀ s4 := by
    unfold s4
    repeat' first
        | with_reducible assumption | intro _ | with_reducible apply Keeps.ite | with_reducible apply headSeqNo_keeps
        | with_reducible apply clearQuiet_keeps | with_reducible apply headFirst_keeps
        | with_reducible apply headLast_keeps | with_reducible apply writeFormat_keeps
        | with_reducible apply evalStore_keeps
        | exact Keeps.lit (by
              first
                | with_reducible assumption
                | (with_reducible apply headSeqNo_keeps; with_reducible assumption)
                | (with_reducible apply clearQuiet_keeps; with_reducible assumption)
                | (with_reducible apply headFirst_keeps; with_reducible assumption)
                | (with_reducible apply headLast_keeps; with_reducible assumption)
                | (with_reducible apply writeFormat_keeps; with_reducible assumption)
                | (with_reducible apply evalStore_keeps; with_reducible assumption)) rfl rfl rfl rfl rfl | split
        | refine Keeps.lit ?_ rfl rfl rfl rfl rfl
  clear_value s4
  repeat' first
      | with_reducible assumption | intro _ | with_reducible apply Keeps.ite | with_reducible apply headSeqNo_keeps
      | with_reducible apply clearQuiet_keeps | with_reducible apply headFirst_keeps
      | with_reducible apply headLast_keeps | with_reducible apply writeFormat_keeps
      | with_reducible apply evalStore_keeps
      | exact Keeps.lit (by
            first
              | with_reducible assumption
              | (with_reducible apply headSeqNo_keeps; with_reducible assumption)
              | (with_reducible apply clearQuiet_keeps; with_reducible assumption)
              | (with_reducible apply headFirst_keeps; with_reducible assumption)
              | (with_reducible apply headLast_keeps; with_reducible assumption)
              | (with_reducible apply writeFormat_keeps; with_reducible assumption)
              | (with_reducible apply evalStore_keeps; with_reducible assumption)) rfl rfl rfl rfl rfl | split
      | refine Keeps.lit ?_ rfl rfl rfl rfl rfl

theorem slotDone_keeps {s₀ : State} (x : Extent) (s : State) (hk : Keeps s₀ s) : Keeps s₀ (slotDone x s) := by
  unfold slotDone
  dsimp only
  repeat' first | with_reducible assumption | exact Keeps.lit (by with_reducible assumption) rfl rfl rfl rfl rfl

theorem slotFailed_keeps {s₀ : State} (x : Extent) (s : State) (hk : Keeps s₀ s) : Keeps s₀ (slotFailed x s) := by
  unfold slotFailed
  dsimp only
  repeat' first
      | with_reducible assumption | intro _ | with_reducible apply Keeps.ite | with_reducible apply modExtent_keeps
      | with_reducible apply freeBits_keeps | with_reducible apply slotDone_keeps | with_reducible apply raise_keeps
      | with_reducible apply signal_keeps | with_reducible apply dieWrite_keeps

theorem slotUncorrectable_keeps {s₀ : State} (head : Option Nat) (i : Nat) (s : State) (hk : Keeps s₀ s) :
    Keeps s₀ (slotUncorrectable head i s) := by
  unfold slotUncorrectable
  dsimp only
  repeat' first
      | with_reducible assumption | with_reducible apply Keeps.ite | with_reducible apply noteDieUe_keeps
      | with_reducible apply raise_keeps | with_reducible apply signal_keeps
      | exact Keeps.lit (by
            first
              | with_reducible assumption
              | (with_reducible apply noteDieUe_keeps; with_reducible assumption)
              | (with_reducible apply raise_keeps; with_reducible assumption)
              | (with_reducible apply signal_keeps; with_reducible assumption)) rfl rfl rfl rfl rfl | split
      | refine Keeps.lit ?_ rfl rfl rfl rfl rfl

theorem restUncorrectable_keeps {s₀ : State} (part : Nat) (s : State) (hk : Keeps s₀ s) :
    Keeps s₀ (restUncorrectable part s) := by
  unfold restUncorrectable
  dsimp only
  repeat' first
      | with_reducible assumption | with_reducible apply Keeps.ite | with_reducible apply raise_keeps
      | with_reducible apply signal_keeps | exact Keeps.lit (by with_reducible assumption) rfl rfl rfl rfl rfl

theorem recoverSeals_keeps {s₀ : State} (f : FormatRec) (ue : List Nat) (s : State) (hk : Keeps s₀ s) :
    Keeps s₀ (recoverSeals f ue s) := by
  unfold recoverSeals
  dsimp only
  repeat' first
      | with_reducible assumption | intro _ | with_reducible apply Keeps.foldl | with_reducible apply Keeps.ite
      | with_reducible apply restUncorrectable_keeps
      | exact Keeps.lit (by
            first
              | with_reducible assumption
              | (with_reducible apply restUncorrectable_keeps; with_reducible assumption)) rfl rfl rfl rfl rfl | split
      | refine Keeps.lit ?_ rfl rfl rfl rfl rfl

theorem recordErrors_keeps {s₀ : State} (ue : List Nat) (s : State) (hk : Keeps s₀ s) :
    Keeps s₀ (recordErrors ue s) := by
  unfold recordErrors
  dsimp only
  repeat' first
      | with_reducible assumption | intro _ | with_reducible apply Keeps.foldl
      | with_reducible apply restUncorrectable_keeps

theorem recoverStore_keeps {s₀ : State} (f : FormatRec) (ue : List Nat) (s : State) (hk : Keeps s₀ s) :
    Keeps s₀ (recoverStore f ue s) := by
  unfold recoverStore
  dsimp only
  repeat' first
      | with_reducible assumption | intro _ | with_reducible apply Keeps.foldl | with_reducible apply Keeps.ite
      | with_reducible apply slotUncorrectable_keeps | with_reducible apply raise_keeps
      | with_reducible apply recoverSeals_keeps
      | exact Keeps.lit (by
            first
              | with_reducible assumption
              | (with_reducible apply slotUncorrectable_keeps; with_reducible assumption)
              | (with_reducible apply raise_keeps; with_reducible assumption)
              | (with_reducible apply recoverSeals_keeps; with_reducible assumption)) rfl rfl rfl rfl rfl | split
      | refine Keeps.lit ?_ rfl rfl rfl rfl rfl

theorem formatNew_keeps {s₀ : State} (n size : Nat) (s : State) (hk : Keeps s₀ s) :
    Keeps s₀ (formatNew n size s) := by
  unfold formatNew
  dsimp only
  repeat' first
      | with_reducible assumption | intro _ | with_reducible apply writeFormat_keeps
      | exact Keeps.lit (by
            first
              | with_reducible assumption
              | (with_reducible apply writeFormat_keeps; with_reducible assumption)) rfl rfl rfl rfl rfl | split
      | refine Keeps.lit ?_ rfl rfl rfl rfl rfl

theorem talusFormatCmd_keeps {s₀ : State}  (y0 : List Byte) (y1 : State) (hk : Keeps s₀ y1) :
    Keeps s₀ (talusFormatCmd y0 y1).1 := by
  unfold talusFormatCmd
  dsimp only
  repeat' first
      | with_reducible assumption | intro _ | with_reducible apply Keeps.ite | with_reducible apply quit_keeps
      | with_reducible apply formatNew_keeps | with_reducible apply applyReshape_keeps
      | exact Keeps.lit (by
            first
              | with_reducible assumption
              | (with_reducible apply quit_keeps; with_reducible assumption)
              | (with_reducible apply formatNew_keeps; with_reducible assumption)
              | (with_reducible apply applyReshape_keeps; with_reducible assumption)) rfl rfl rfl rfl rfl | split

theorem talusWindowCmd_keeps {s₀ : State}  (y0 : List Byte) (y1 : State) (hk : Keeps s₀ y1) :
    Keeps s₀ (talusWindowCmd y0 y1).1 := by
  unfold talusWindowCmd
  dsimp only
  repeat' first
      | with_reducible assumption | intro _ | with_reducible apply Keeps.ite | with_reducible apply quit_keeps
      | exact Keeps.lit (by
            first
              | with_reducible assumption
              | (with_reducible apply quit_keeps; with_reducible assumption)) rfl rfl rfl rfl rfl | split

theorem startDrive_keeps {s₀ : State} (d : Nat) (s : State) (hk : Keeps s₀ s) : Keeps s₀ (startDrive d s) := by
  unfold startDrive
  dsimp only
  repeat' first
      | with_reducible assumption | intro _ | with_reducible apply scratchWrite_keeps
      | with_reducible apply modDrive_keeps

theorem talusDriveCmd_keeps {s₀ : State}  (y0 : List Byte) (y1 : State) (hk : Keeps s₀ y1) :
    Keeps s₀ (talusDriveCmd y0 y1).1 := by
  unfold talusDriveCmd
  dsimp only
  repeat' first
      | with_reducible assumption | intro _ | with_reducible apply Keeps.ite | with_reducible apply quit_keeps
      | with_reducible apply modDrive_keeps | with_reducible apply startDrive_keeps
      | exact Keeps.lit (by
            first
              | with_reducible assumption
              | (with_reducible apply quit_keeps; with_reducible assumption)
              | (with_reducible apply modDrive_keeps; with_reducible assumption)
              | (with_reducible apply startDrive_keeps; with_reducible assumption)) rfl rfl rfl rfl rfl | split

theorem driveFails_keeps {s₀ : State} (d status : Nat) (c : DriveCmd) (s : State) (hk : Keeps s₀ s) :
    Keeps s₀ (driveFails d status c s) := by
  unfold driveFails
  dsimp only
  repeat' first
      | with_reducible assumption | intro _ | with_reducible apply Keeps.ite | with_reducible apply modDrive_keeps
      | with_reducible apply raise_keeps | with_reducible apply rewind_keeps | with_reducible apply signal_keeps

theorem driveSucceeds_keeps {s₀ : State} (d : Nat) (c : DriveCmd) (s : State) (hk : Keeps s₀ s) :
    Keeps s₀ (driveSucceeds d c s) := by
  unfold driveSucceeds
  dsimp only
  repeat' first
      | with_reducible assumption | intro _ | with_reducible apply Keeps.ite | with_reducible apply modDrive_keeps
      | with_reducible apply makeDurable_keeps | with_reducible apply meetChunk_keeps
      | exact Keeps.lit (by
            first
              | with_reducible assumption
              | (with_reducible apply modDrive_keeps; with_reducible assumption)
              | (with_reducible apply makeDurable_keeps; with_reducible assumption)
              | (with_reducible apply meetChunk_keeps; with_reducible assumption)) rfl rfl rfl rfl rfl | split

theorem consumeCq_keeps {s₀ : State} (d : Nat) (entry : List Byte) (s : State) (hk : Keeps s₀ s) :
    Keeps s₀ (consumeCq d entry s) := by
  unfold consumeCq
  dsimp only
  repeat' first
      | with_reducible assumption | intro _ | with_reducible apply Keeps.ite | with_reducible apply modDrive_keeps
      | with_reducible apply emitOut_keeps | with_reducible apply issueFlushes_keeps
      | with_reducible apply driveSucceeds_keeps | with_reducible apply driveFails_keeps
      | exact Keeps.lit (by
            first
              | with_reducible assumption
              | (with_reducible apply modDrive_keeps; with_reducible assumption)
              | (with_reducible apply emitOut_keeps; with_reducible assumption)
              | (with_reducible apply issueFlushes_keeps; with_reducible assumption)
              | (with_reducible apply driveSucceeds_keeps; with_reducible assumption)
              | (with_reducible apply driveFails_keeps; with_reducible assumption)) rfl rfl rfl rfl rfl | split

theorem talusCfgCmd_keeps {s₀ : State}  (y0 : List Byte) (y1 : State) (hk : Keeps s₀ y1) :
    Keeps s₀ (talusCfgCmd y0 y1).1 := by
  unfold talusCfgCmd
  dsimp only
  repeat' first
      | with_reducible assumption | intro _ | with_reducible apply Keeps.ite | with_reducible apply quit_keeps
      | with_reducible apply evalWear_keeps | with_reducible apply evalStore_keeps
      | with_reducible apply afterRelease_keeps
      | exact Keeps.lit (by
            first
              | with_reducible assumption
              | (with_reducible apply quit_keeps; with_reducible assumption)
              | (with_reducible apply evalWear_keeps; with_reducible assumption)
              | (with_reducible apply evalStore_keeps; with_reducible assumption)
              | (with_reducible apply afterRelease_keeps; with_reducible assumption)) rfl rfl rfl rfl rfl | split

theorem talusMapReadCmd_keeps {s₀ : State}  (y0 : List Byte) (y1 : State) (hk : Keeps s₀ y1) :
    Keeps s₀ (talusMapReadCmd y0 y1).1 := by
  unfold talusMapReadCmd
  dsimp only
  repeat' first
      | with_reducible assumption | intro _ | with_reducible apply Keeps.foldl | with_reducible apply Keeps.ite
      | with_reducible apply quit_keeps | with_reducible apply slotUncorrectable_keeps | split

theorem setArchived_keeps {s₀ : State} (be : BitVec 8) (v : Word64) (s : State) (hk : Keeps s₀ s) :
    Keeps s₀ (setArchived be v s) := by
  unfold setArchived
  dsimp only
  repeat' first
      | with_reducible assumption | with_reducible apply Keeps.ite | with_reducible apply refuseWrite64_keeps
      | with_reducible apply evalStore_keeps | exact Keeps.lit (by with_reducible assumption) rfl rfl rfl rfl rfl

theorem writeArchived_keeps {s₀ : State} (v : Word64) (be : BitVec 8) (s : State) (hk : Keeps s₀ s) :
    Keeps s₀ (writeArchived v be s) := by
  unfold writeArchived
  repeat' first
      | with_reducible assumption | with_reducible apply write64_keeps | with_reducible apply setArchived_keeps

theorem writeGeometry_keeps {s₀ : State} (v : Word) (be : BitVec 4) (s : State) (hk : Keeps s₀ s) :
    Keeps s₀ (writeGeometry v be s) := by
  unfold writeGeometry
  dsimp only
  repeat' first
      | with_reducible assumption | intro _ | with_reducible apply Keeps.ite | with_reducible apply special_keeps
      | with_reducible apply refuseWrite_keeps | exact Keeps.lit (by with_reducible assumption) rfl rfl rfl rfl rfl

theorem recBad_keeps {s₀ : State} (s : State) (hk : Keeps s₀ s) : Keeps s₀ (recBad s) := by
  unfold recBad
  repeat' first | with_reducible assumption | exact Keeps.lit (by with_reducible assumption) rfl rfl rfl rfl rfl

/-! ## Seal -/

theorem completeSeals_keeps {s₀ : State} (ms : List Nat) (r : Reply) (s : State) (hk : Keeps s₀ s) :
    Keeps s₀ (completeSeals ms r s) := by
  unfold completeSeals
  repeat' first
      | with_reducible assumption | intro _ | with_reducible apply Keeps.foldl | with_reducible apply Keeps.ite
      | with_reducible apply mbComplete_keeps

theorem startSeal_keeps {s₀ : State} (d : SealDue) (s : State) (hk : Keeps s₀ s) : Keeps s₀ (startSeal d s) := by
  unfold startSeal
  dsimp only
  repeat' first
      | with_reducible assumption | intro _ | with_reducible apply Keeps.ite | with_reducible apply raise_keeps
      | exact Keeps.lit (by with_reducible assumption) rfl rfl rfl rfl rfl

theorem freshSig_keeps {s₀ : State} (context message : List Byte) (s : State) (hk : Keeps s₀ s) :
    Keeps s₀ (freshSig context message s).2 := by
  unfold freshSig
  dsimp only
  repeat' first | with_reducible assumption | with_reducible apply freeBytes_keeps

theorem sealDoneRegs_keeps {s₀ : State} (j : SealJob) (digest : List Byte) (s : State) (hk : Keeps s₀ s) :
    Keeps s₀ (sealDoneRegs j digest s) := by
  unfold sealDoneRegs
  dsimp only
  repeat' first
      | with_reducible assumption | with_reducible apply Keeps.ite
      | exact Keeps.lit (by with_reducible assumption) rfl rfl rfl rfl rfl

theorem emitSeal_keeps {s₀ : State} (j : SealJob) (s : State) (hk : Keeps s₀ s) : Keeps s₀ (emitSeal j s) := by
  unfold emitSeal
  dsimp only
  repeat' first
      | with_reducible assumption | intro _ | with_reducible apply freshSig_keeps
      | with_reducible apply handFrame_keeps | with_reducible apply sealDoneRegs_keeps
      | with_reducible apply completeSeals_keeps | with_reducible apply raise_keeps
      | exact Keeps.lit (by
            first
              | with_reducible assumption
              | (with_reducible apply freshSig_keeps; with_reducible assumption)
              | (with_reducible apply handFrame_keeps; with_reducible assumption)
              | (with_reducible apply sealDoneRegs_keeps; with_reducible assumption)
              | (with_reducible apply completeSeals_keeps; with_reducible assumption)
              | (with_reducible apply raise_keeps; with_reducible assumption)) rfl rfl rfl rfl rfl
      | refine Keeps.lit ?_ rfl rfl rfl rfl rfl

theorem dropSeal_keeps {s₀ : State} (j : SealJob) (s : State) (hk : Keeps s₀ s) : Keeps s₀ (dropSeal j s) := by
  unfold dropSeal
  dsimp only
  repeat' first
      | with_reducible assumption | intro _ | with_reducible apply sealDoneRegs_keeps
      | with_reducible apply completeSeals_keeps
      | exact Keeps.lit (by
            first
              | with_reducible assumption
              | (with_reducible apply sealDoneRegs_keeps; with_reducible assumption)) rfl rfl rfl rfl rfl

theorem startAttest_keeps {s₀ : State} (s : State) (hk : Keeps s₀ s) : Keeps s₀ (startAttest s) := by
  unfold startAttest
  repeat' first
      | with_reducible assumption | with_reducible apply Keeps.ite
      | exact Keeps.lit (by with_reducible assumption) rfl rfl rfl rfl rfl | split
      | refine Keeps.lit ?_ rfl rfl rfl rfl rfl

theorem attestCmd_keeps {s₀ : State} (m : Nat) (y0 : List Byte) (y1 : State) (hk : Keeps s₀ y1) :
    Keeps s₀ (attestCmd m y0 y1).1 := by
  unfold attestCmd
  dsimp only
  repeat' first
      | with_reducible assumption | intro _ | with_reducible apply Keeps.ite | with_reducible apply quit_keeps
      | with_reducible apply quitClaimed_keeps | with_reducible apply cwClaim_keeps
      | with_reducible apply startAttest_keeps
      | exact Keeps.lit (by
            first
              | with_reducible assumption
              | (with_reducible apply quit_keeps; with_reducible assumption)
              | (with_reducible apply quitClaimed_keeps; with_reducible assumption)
              | (with_reducible apply cwClaim_keeps; with_reducible assumption)
              | (with_reducible apply startAttest_keeps; with_reducible assumption)) rfl rfl rfl rfl rfl | split
      | refine Keeps.lit ?_ rfl rfl rfl rfl rfl

theorem sendReport_keeps {s₀ : State} (a : AttestJob) (data : List Byte) (s : State) (hk : Keeps s₀ s) :
    Keeps s₀ (sendReport a data s) := by
  unfold sendReport
  dsimp only
  repeat' first
      | with_reducible assumption | intro _ | with_reducible apply Keeps.ite | with_reducible apply modMb_keeps
      | with_reducible apply modCw_keeps | with_reducible apply cwProduce_keeps
      | with_reducible apply mbComplete_keeps

theorem finishAttest_keeps {s₀ : State} (a : AttestJob) (body : List Byte) (s : State) (hk : Keeps s₀ s) :
    Keeps s₀ (finishAttest a body s) := by
  unfold finishAttest
  dsimp only
  repeat' first
      | with_reducible assumption | with_reducible apply Keeps.ite | with_reducible apply freshSig_keeps
      | with_reducible apply raise_keeps | with_reducible apply sendReport_keeps
      | exact Keeps.lit (by with_reducible assumption) rfl rfl rfl rfl rfl

theorem dropEntry_keeps {s₀ : State} (k : Nat) (s : State) (hk : Keeps s₀ s) : Keeps s₀ (dropEntry k s) := by
  unfold dropEntry
  dsimp only
  repeat' first
      | with_reducible assumption | intro _ | exact Keeps.lit (by with_reducible assumption) rfl rfl rfl rfl rfl
      | refine Keeps.lit ?_ rfl rfl rfl rfl rfl

theorem fenceCore_keeps {s₀ : State} (c : Nat) (s : State) (hk : Keeps s₀ s) : Keeps s₀ (fenceCore c s) := by
  unfold fenceCore
  dsimp only
  repeat' first
      | with_reducible assumption | with_reducible apply Keeps.ite | with_reducible apply raise_keeps
      | with_reducible apply signal_keeps | exact Keeps.lit (by with_reducible assumption) rfl rfl rfl rfl rfl

theorem sealCfgCmd_keeps {s₀ : State}  (y0 : List Byte) (y1 : State) (hk : Keeps s₀ y1) :
    Keeps s₀ (sealCfgCmd y0 y1).1 := by
  unfold sealCfgCmd
  dsimp only
  repeat' first
      | with_reducible assumption | intro _ | with_reducible apply Keeps.ite | with_reducible apply quit_keeps
      | exact Keeps.lit (by
            first
              | with_reducible assumption
              | (with_reducible apply quit_keeps; with_reducible assumption)) rfl rfl rfl rfl rfl | split
      | refine Keeps.lit ?_ rfl rfl rfl rfl rfl

theorem sealNowCmd_keeps {s₀ : State} (m : Nat) (y0 : List Byte) (y1 : State) (hk : Keeps s₀ y1) :
    Keeps s₀ (sealNowCmd m y0 y1).1 := by
  unfold sealNowCmd
  repeat' first
      | with_reducible assumption | intro _ | with_reducible apply Keeps.ite | with_reducible apply quit_keeps
      | with_reducible apply askSeal_keeps | with_reducible apply dueClose_keeps
      | exact Keeps.lit (by
            first
              | with_reducible assumption
              | (with_reducible apply quit_keeps; with_reducible assumption)
              | (with_reducible apply askSeal_keeps; with_reducible assumption)
              | (with_reducible apply dueClose_keeps; with_reducible assumption)) rfl rfl rfl rfl rfl | split

theorem identityCmd_keeps {s₀ : State} (m : Nat) (y0 : List Byte) (y1 : State) (hk : Keeps s₀ y1) :
    Keeps s₀ (identityCmd m y0 y1).1 := by
  unfold identityCmd
  dsimp only
  repeat' first
      | with_reducible assumption | intro _ | with_reducible apply Keeps.ite | with_reducible apply quit_keeps
      | with_reducible apply quitClaimed_keeps | with_reducible apply startTransfer_keeps | split

end Sys2Proof.Machine
end

