-- ==== Sys2Proof/Laws/KeepsControl.lean ====
section
/-! SUPPORT. What every operation of integrity, registers and resets keeps. -/

namespace Sys2Proof.Machine

/-! ## Integrity -/

theorem healWord_keeps {s₀ : State} (m w : Nat) (s : State) (hk : Keeps s₀ s) : Keeps s₀ (healWord m w s) := by
  unfold healWord
  dsimp only
  repeat' first
      | with_reducible assumption | intro _ | exact Keeps.lit (by with_reducible assumption) rfl rfl rfl rfl rfl

theorem correctWord_keeps {s₀ : State} (m w : Nat) (s : State) (hk : Keeps s₀ s) : Keeps s₀ (correctWord m w s) := by
  unfold correctWord
  dsimp only
  repeat' first
      | with_reducible assumption | with_reducible apply Keeps.ite | with_reducible apply healWord_keeps
      | with_reducible apply signal_keeps
      | exact Keeps.lit (by
            first
              | with_reducible assumption
              | (with_reducible apply healWord_keeps; with_reducible assumption)) rfl rfl rfl rfl rfl

theorem loseLaneBlock_keeps {s₀ : State} (i : Nat) (s : State) (hk : Keeps s₀ s) : Keeps s₀ (loseLaneBlock i s) := by
  unfold loseLaneBlock
  repeat' first
      | with_reducible assumption | with_reducible apply forceReset_keeps | with_reducible apply withoutBlock_keeps
      | exact Keeps.lit (by
            first
              | with_reducible assumption
              | (with_reducible apply forceReset_keeps; with_reducible assumption)
              | (with_reducible apply withoutBlock_keeps; with_reducible assumption)) rfl rfl rfl rfl rfl | split

theorem loseStaged_keeps {s₀ : State} (i : Nat) (s : State) (hk : Keeps s₀ s) : Keeps s₀ (loseStaged i s) := by
  unfold loseStaged
  dsimp only
  repeat' first
      | with_reducible assumption | with_reducible apply ring_keeps | with_reducible apply endEpisode_keeps
      | with_reducible apply loseRow_keeps
      | exact Keeps.lit (by
            first
              | with_reducible assumption
              | (with_reducible apply ring_keeps; with_reducible assumption)
              | (with_reducible apply endEpisode_keeps; with_reducible assumption)
              | (with_reducible apply loseRow_keeps; with_reducible assumption)) rfl rfl rfl rfl rfl | split
      | refine Keeps.lit ?_ rfl rfl rfl rfl rfl

theorem loseInput_keeps {s₀ : State} (i word : Nat) (s : State) (hk : Keeps s₀ s) :
    Keeps s₀ (loseInput i word s) := by
  unfold loseInput
  dsimp only
  repeat' first
      | with_reducible assumption | with_reducible apply salvage_keeps
      | exact Keeps.lit (by
            first
              | with_reducible assumption
              | (with_reducible apply salvage_keeps; with_reducible assumption)) rfl rfl rfl rfl rfl | split

theorem loseForward_keeps {s₀ : State} (p : Nat) (s : State) (hk : Keeps s₀ s) : Keeps s₀ (loseForward p s) := by
  unfold loseForward
  dsimp only
  repeat' first
      | with_reducible assumption | intro _ | with_reducible apply Keeps.ite | with_reducible apply modPort_keeps
      | with_reducible apply endDrop_keeps | with_reducible apply raise_keeps

theorem loseEntry_keeps {s₀ : State} (word : Nat) (s : State) (hk : Keeps s₀ s) : Keeps s₀ (loseEntry word s) := by
  unfold loseEntry
  dsimp only
  repeat' first
      | with_reducible assumption | intro _ | with_reducible apply Keeps.ite
      | exact Keeps.lit (by with_reducible assumption) rfl rfl rfl rfl rfl

theorem uncorrectable_keeps {s₀ : State} (m word unit : Nat) (s : State) (hk : Keeps s₀ s) :
    Keeps s₀ (uncorrectable m word unit s) := by
  unfold uncorrectable
  repeat' first
      | with_reducible assumption | with_reducible apply Keeps.ite | with_reducible apply mbComplete_keeps
      | with_reducible apply cancelLong_keeps | with_reducible apply forceReset_keeps
      | with_reducible apply loseLaneBlock_keeps | with_reducible apply loseStaged_keeps
      | with_reducible apply loseInput_keeps | with_reducible apply loseForward_keeps
      | with_reducible apply loseEntry_keeps
      | exact Keeps.lit (by
            first
              | with_reducible assumption
              | (with_reducible apply mbComplete_keeps; with_reducible assumption)
              | (with_reducible apply cancelLong_keeps; with_reducible assumption)
              | (with_reducible apply forceReset_keeps; with_reducible assumption)
              | (with_reducible apply loseLaneBlock_keeps; with_reducible assumption)
              | (with_reducible apply loseStaged_keeps; with_reducible assumption)
              | (with_reducible apply loseInput_keeps; with_reducible assumption)
              | (with_reducible apply loseForward_keeps; with_reducible assumption)
              | (with_reducible apply loseEntry_keeps; with_reducible assumption)) rfl rfl rfl rfl rfl | split

theorem sramError_keeps {s₀ : State} (m word unit : Nat) (ue : Bool) (s : State) (hk : Keeps s₀ s) :
    Keeps s₀ (sramError m word unit ue s) := by
  unfold sramError
  dsimp only
  repeat' first
      | with_reducible assumption | with_reducible apply Keeps.ite | with_reducible apply healWord_keeps
      | with_reducible apply uncorrectable_keeps | with_reducible apply raise_keeps
      | with_reducible apply signalUnit_keeps | with_reducible apply correctWord_keeps
      | exact Keeps.lit (by with_reducible assumption) rfl rfl rfl rfl rfl

theorem destroyMem_keeps {s₀ : State} (m lo hi : Nat) (s : State) (h : Keeps s₀ s) :
    Keeps s₀ (destroyMem m lo hi s) := by
  have h1 := healWords_keeps m lo hi s h
  unfold destroyMem
  refine Keeps.ite ?_ (Keeps.ite ?_ h1)
  · exact evalMarks_keeps _ (h1.mem rfl rfl (fun _ => rfl) id id id rfl)
  · exact h1.mem rfl rfl id (fun w => memWrite_wf w _ _) id id rfl

theorem marchRunCmd_keeps {s₀ : State} (m : Nat) (y0 : List Byte) (y1 : State) (hk : Keeps s₀ y1) :
    Keeps s₀ (marchRunCmd m y0 y1).1 := by
  unfold marchRunCmd
  dsimp only
  repeat' first
      | with_reducible assumption | intro _ | with_reducible apply Keeps.ite | with_reducible apply quit_keeps
      | with_reducible apply destroyMem_keeps
      | exact Keeps.lit (by
            first
              | with_reducible assumption
              | (with_reducible apply quit_keeps; with_reducible assumption)
              | (with_reducible apply destroyMem_keeps; with_reducible assumption)) rfl rfl rfl rfl rfl | split

theorem exhausted_keeps {s₀ : State} (c : March) (firstFail : Nat) (s : State) (hk : Keeps s₀ s) :
    Keeps s₀ (exhausted c firstFail s) := by
  unfold exhausted
  dsimp only
  repeat' first
      | with_reducible assumption | with_reducible apply Keeps.ite | with_reducible apply raise_keeps
      | with_reducible apply signalWith_keeps

theorem selftestCmd_keeps {s₀ : State} (m : Nat) (y0 : List Byte) (y1 : State) (hk : Keeps s₀ y1) :
    Keeps s₀ (selftestCmd m y0 y1).1 := by
  unfold selftestCmd
  dsimp only
  repeat' first
      | with_reducible assumption | intro _ | with_reducible apply Keeps.ite | with_reducible apply quit_keeps
      | exact Keeps.lit (by
            first
              | with_reducible assumption
              | (with_reducible apply quit_keeps; with_reducible assumption)) rfl rfl rfl rfl rfl | split
      | refine Keeps.lit ?_ rfl rfl rfl rfl rfl

theorem selftestFaults_keeps {s₀ : State} (f : Nat) (s : State) (hk : Keeps s₀ s) :
    Keeps s₀ (selftestFaults f s) := by
  unfold selftestFaults
  dsimp only
  repeat' first
      | with_reducible assumption | with_reducible apply Keeps.ite | with_reducible apply signal_keeps
      | with_reducible apply freeBits_keeps | with_reducible apply signalUnit_keeps

theorem scrubFinds_keeps {s₀ : State} (m u : Nat) (s : State) (hk : Keeps s₀ s) : Keeps s₀ (scrubFinds m u s) := by
  unfold scrubFinds
  repeat' first
      | with_reducible assumption | intro _ | with_reducible apply Keeps.foldl | with_reducible apply sramError_keeps

theorem rewindScrub_keeps {s₀ : State} (m : Nat) (s : State) (hk : Keeps s₀ s) : Keeps s₀ (rewindScrub m s) := by
  unfold rewindScrub
  dsimp only
  repeat' first
      | with_reducible assumption | with_reducible apply Keeps.ite | with_reducible apply ring_keeps
      | exact Keeps.lit (by with_reducible assumption) rfl rfl rfl rfl rfl

theorem scrubCmd_keeps {s₀ : State}  (y0 : List Byte) (y1 : State) (hk : Keeps s₀ y1) :
    Keeps s₀ (scrubCmd y0 y1).1 := by
  unfold scrubCmd
  dsimp only
  repeat' first
      | with_reducible assumption | intro _ | with_reducible apply Keeps.ite | with_reducible apply quit_keeps
      | exact Keeps.lit (by
            first
              | with_reducible assumption
              | (with_reducible apply quit_keeps; with_reducible assumption)) rfl rfl rfl rfl rfl | split

theorem injectUnit_keeps {s₀ : State} (f : Nat) (info : Nat) (s : State) (hk : Keeps s₀ s) :
    Keeps s₀ (injectUnit f info s).2 := by
  unfold injectUnit
  dsimp only
  repeat' first
      | with_reducible assumption | intro _ | with_reducible apply Keeps.ite | with_reducible apply freeBits_keeps
      | split

theorem injectEcc_keeps {s₀ : State} (m bits w : Nat) (s : State) (hk : Keeps s₀ s) :
    Keeps s₀ (injectEcc m bits w s) := by
  unfold injectEcc
  dsimp only
  repeat' first
      | with_reducible assumption | with_reducible apply Keeps.ite | with_reducible apply ring_keeps
      | with_reducible apply healWord_keeps
      | exact Keeps.lit (by
            first
              | with_reducible assumption
              | (with_reducible apply ring_keeps; with_reducible assumption)
              | (with_reducible apply healWord_keeps; with_reducible assumption)) rfl rfl rfl rfl rfl

theorem faultInjectCmd_keeps {s₀ : State}  (y0 : List Byte) (y1 : State) (hk : Keeps s₀ y1) :
    Keeps s₀ (faultInjectCmd y0 y1).1 := by
  unfold faultInjectCmd
  dsimp only
  repeat' first
      | with_reducible assumption | intro _ | with_reducible apply Keeps.ite | with_reducible apply quit_keeps
      | with_reducible apply injectEcc_keeps | with_reducible apply injectUnit_keeps
      | with_reducible apply signalWith_keeps | with_reducible apply settleRef_keeps | split

theorem logReadCmd_keeps {s₀ : State}  (y0 : List Byte) (y1 : State) (hk : Keeps s₀ y1) :
    Keeps s₀ (logReadCmd y0 y1).1 := by
  unfold logReadCmd
  dsimp only
  repeat' first
      | with_reducible assumption | intro _ | with_reducible apply Keeps.ite | with_reducible apply quit_keeps | split

theorem devInfoCmd_keeps {s₀ : State}  (y0 : List Byte) (y1 : State) (hk : Keeps s₀ y1) :
    Keeps s₀ (devInfoCmd y0 y1).1 := by
  unfold devInfoCmd
  dsimp only
  repeat' with_reducible assumption

/-! ## Regs -/

theorem readReg_keeps {s₀ : State} (off : Nat) (s : State) (hk : Keeps s₀ s) : Keeps s₀ (readReg off s) := by
  unfold readReg
  dsimp only
  repeat' first
      | with_reducible assumption | intro _ | with_reducible apply Keeps.ite | with_reducible apply readRingTag_keeps
      | with_reducible apply emitOut_keeps | with_reducible apply highWord_keeps
      | exact Keeps.lit (by
            first
              | with_reducible assumption
              | (with_reducible apply readRingTag_keeps; with_reducible assumption)
              | (with_reducible apply emitOut_keeps; with_reducible assumption)
              | (with_reducible apply highWord_keeps; with_reducible assumption)) rfl rfl rfl rfl rfl | split
      | refine Keeps.lit ?_ rfl rfl rfl rfl rfl

theorem writeSnapCtrl_keeps {s₀ : State} (v : Word) (be : BitVec 4) (s : State) (h : Keeps s₀ s) :
    Keeps s₀ (writeSnapCtrl v be s) := by
  refine special_keeps _ _ _ _ _ (fun x hx => ?_) h
  exact Keeps.ite hx (Keeps.ite (hx.mem rfl rfl id id id id rfl) (hx.mem rfl rfl id id id id rfl))

theorem memWrites_wf : ∀ (ps : List (Nat × List Byte)) {m : List Host.Cell} (_ : Memory.wf m = true),
    Memory.wf (ps.foldl (fun m p => memWrite m p.1 p.2) m) = true
  | [], _, h => h
  | p :: ps, _, h => memWrites_wf ps (memWrite_wf h p.1 p.2)

/-- A snapshot page is in canonical form. -/

theorem snapPage_wf (s : State) : Memory.wf (snapPage s) = true := memWrites_wf _ rfl

theorem snapTick_keeps {s₀ : State} (s : State) (h : Keeps s₀ s) : Keeps s₀ (snapTick s) := by
  unfold snapTick
  split
  · exact Keeps.ite (h.mem rfl rfl id id id (fun w => ⟨w.1, snapPage_wf s⟩) rfl) h
  · exact h

/-! ## Tick -/

theorem tick_keeps {s₀ : State} (s : State) (hk : Keeps s₀ s) : Keeps s₀ (tick s) := by
  unfold tick
  dsimp only
  repeat' first
      | with_reducible assumption | with_reducible apply Keeps.ite | with_reducible apply kickTick_keeps
      | with_reducible apply sealTick_keeps | with_reducible apply pushWords_keeps
      | with_reducible apply slotTick_keeps | with_reducible apply clockTick_keeps
      | with_reducible apply snapTick_keeps | with_reducible apply judgeAllClocks_keeps
      | with_reducible apply measureSupplies_keeps | with_reducible apply slewTick_keeps
      | with_reducible apply txTick_keeps | with_reducible apply grantAll_keeps | split

/-! ## Control -/

theorem writeUnlock_keeps {s₀ : State} (v : Word) (be : BitVec 4) (s : State) (hk : Keeps s₀ s) :
    Keeps s₀ (writeUnlock v be s) := by
  unfold writeUnlock
  repeat' first
      | with_reducible assumption | with_reducible apply Keeps.ite | with_reducible apply refuseWidth_keeps
      | with_reducible apply raiseWith_keeps
      | exact Keeps.lit (by
            first
              | with_reducible assumption
              | (with_reducible apply refuseWidth_keeps; with_reducible assumption)
              | (with_reducible apply raiseWith_keeps; with_reducible assumption)) rfl rfl rfl rfl rfl | split
      | refine Keeps.lit ?_ rfl rfl rfl rfl rfl

theorem latchRef_keeps {s₀ : State} (s : State) (hk : Keeps s₀ s) : Keeps s₀ (latchRef s) := by
  unfold latchRef
  repeat' first | with_reducible assumption | exact Keeps.lit (by with_reducible assumption) rfl rfl rfl rfl rfl

theorem setOpen_keeps {s₀ : State} (v : Bool) (s : State) (hk : Keeps s₀ s) : Keeps s₀ (setOpen v s) := by
  unfold setOpen
  dsimp only
  repeat' first | with_reducible assumption | exact Keeps.lit (by with_reducible assumption) rfl rfl rfl rfl rfl

theorem writeCfgCtrl_keeps {s₀ : State} (v : Word) (be : BitVec 4) (s : State) (hk : Keeps s₀ s) :
    Keeps s₀ (writeCfgCtrl v be s) := by
  unfold writeCfgCtrl
  dsimp only
  repeat' first
      | with_reducible assumption | intro _ | with_reducible apply Keeps.ite | with_reducible apply special_keeps
      | with_reducible apply latchRef_keeps | with_reducible apply setOpen_keeps

theorem mismatch_keeps {s₀ : State} (sect : Nat) (s : State) (hk : Keeps s₀ s) : Keeps s₀ (mismatch sect s) := by
  unfold mismatch
  dsimp only
  repeat' first
      | with_reducible assumption | with_reducible apply Keeps.ite | with_reducible apply raise_keeps
      | with_reducible apply signal_keeps | exact Keeps.lit (by with_reducible assumption) rfl rfl rfl rfl rfl

theorem writeEvtForce_keeps {s₀ : State} (g : Nat) (v : Word) (be : BitVec 4) (s : State) (hk : Keeps s₀ s) :
    Keeps s₀ (writeEvtForce g v be s) := by
  unfold writeEvtForce
  repeat' first
      | with_reducible assumption | intro _ | with_reducible apply Keeps.foldl | with_reducible apply special_keeps
      | with_reducible apply raiseWith_keeps

theorem writeEvtClear_keeps {s₀ : State} (off g : Nat) (v : Word) (be : BitVec 4) (s : State) (h : Keeps s₀ s) :
    Keeps s₀ (writeEvtClear off g v be s) := by
  refine special_keeps _ _ _ _ _ (fun x hx => ?_) h
  refine hx.trans ⟨rfl, rfl, id, rawExists_of rfl fun g' _ b hb ht => .inl ?_⟩
  dsimp only at ht
  rw [tabGet_tabMod] at ht
  split at ht
  · simp only [BitVec.getLsbD_and, Bool.and_eq_true] at ht
    exact ht.1
  · exact ht

theorem setEnable_keeps {s₀ : State} (g : Nat) (f : Word → Word) (s : State) (hk : Keeps s₀ s) :
    Keeps s₀ (setEnable g f s) := by
  unfold setEnable
  dsimp only
  repeat' first
      | with_reducible assumption | intro _ | with_reducible apply Keeps.foldl | with_reducible apply pendVector_keeps
      | exact Keeps.lit (by with_reducible assumption) rfl rfl rfl rfl rfl

theorem setVectors_keeps {s₀ : State} (g w : Nat) (f : Word → Word) (s : State) (hk : Keeps s₀ s) :
    Keeps s₀ (setVectors g w f s) := by
  unfold setVectors
  dsimp only
  repeat' first
      | with_reducible assumption | intro _ | with_reducible apply Keeps.foldl | with_reducible apply Keeps.ite
      | exact Keeps.lit (by with_reducible assumption) rfl rfl rfl rfl rfl

/-! ## Resets -/

theorem resetEvents_keeps {s₀ : State} (s : State) (h : Keeps s₀ s) : Keeps s₀ (resetEvents s) :=
  h.trans ⟨rfl, rfl, id, fun _ => rawExists_iff.mpr fun g _ b _ hb => by
    simp [resetEvents, Events.reset, tabGet] at hb⟩

theorem resetChan_keeps {s₀ : State} (s : State) (hk : Keeps s₀ s) : Keeps s₀ (resetChan s) := by
  unfold resetChan
  repeat' first
      | with_reducible assumption | intro _ | exact Keeps.lit (by with_reducible assumption) rfl rfl rfl rfl rfl

theorem resetRingRegs_keeps {s₀ : State} (s : State) (hk : Keeps s₀ s) : Keeps s₀ (resetRingRegs s) := by
  unfold resetRingRegs
  dsimp only
  repeat' first
      | with_reducible assumption | with_reducible apply ring_keeps
      | exact Keeps.lit (by with_reducible assumption) rfl rfl rfl rfl rfl

theorem resetExport_keeps {s₀ : State} (s : State) (hk : Keeps s₀ s) : Keeps s₀ (resetExport s) := by
  unfold resetExport
  dsimp only
  repeat' first
      | with_reducible assumption | with_reducible apply Keeps.ite | with_reducible apply rewind_keeps
      | with_reducible apply raise_keeps | exact Keeps.lit (by with_reducible assumption) rfl rfl rfl rfl rfl

theorem resetTalRegs_keeps {s₀ : State} (s : State) (hk : Keeps s₀ s) : Keeps s₀ (resetTalRegs s) := by
  unfold resetTalRegs
  dsimp only
  repeat' first | with_reducible assumption | exact Keeps.lit (by with_reducible assumption) rfl rfl rfl rfl rfl

theorem resetTimed_keeps {s₀ : State} (s : State) (hk : Keeps s₀ s) : Keeps s₀ (resetTimed s) := by
  unfold resetTimed
  dsimp only
  repeat' first
      | with_reducible assumption | intro _ | exact Keeps.lit (by with_reducible assumption) rfl rfl rfl rfl rfl

theorem resetPodc_keeps {s₀ : State} (s : State) (hk : Keeps s₀ s) : Keeps s₀ (resetPodc s) := by
  unfold resetPodc
  dsimp only
  repeat' first | with_reducible assumption | exact Keeps.lit (by with_reducible assumption) rfl rfl rfl rfl rfl

theorem resetViews_keeps {s₀ : State} (s : State) (h : Keeps s₀ s) : Keeps s₀ (resetViews s) :=
  h.mem rfl rfl id id id (fun _ => ⟨rfl, rfl⟩) rfl

theorem cancelNext_keeps {s₀ : State} (b : Boundary) (s : State) (hk : Keeps s₀ s) : Keeps s₀ (cancelNext b s) := by
  unfold cancelNext
  dsimp only
  repeat' first
      | with_reducible assumption | intro _ | with_reducible apply Keeps.ite | with_reducible apply stopFabric_keeps
      | with_reducible apply ring_keeps
      | exact Keeps.lit (by
            first
              | with_reducible assumption
              | (with_reducible apply stopFabric_keeps; with_reducible assumption)
              | (with_reducible apply ring_keeps; with_reducible assumption)) rfl rfl rfl rfl rfl | split
      | refine Keeps.lit ?_ rfl rfl rfl rfl rfl

theorem endEpochByReset_keeps {s₀ : State} (s : State) (hk : Keeps s₀ s) : Keeps s₀ (endEpochByReset s) := by
  unfold endEpochByReset
  repeat' first
      | with_reducible assumption | with_reducible apply acceptCause_keeps | with_reducible apply idleOnceEmpty_keeps
      | with_reducible apply cancelNext_keeps
      | exact Keeps.lit (by
            first
              | with_reducible assumption
              | (with_reducible apply acceptCause_keeps; with_reducible assumption)
              | (with_reducible apply idleOnceEmpty_keeps; with_reducible assumption)
              | (with_reducible apply cancelNext_keeps; with_reducible assumption)) rfl rfl rfl rfl rfl | split

theorem resetSeqs_keeps {s₀ : State} (s : State) (hk : Keeps s₀ s) : Keeps s₀ (resetSeqs s) := by
  unfold resetSeqs
  dsimp only
  repeat' first
      | with_reducible assumption | intro _ | with_reducible apply disarmAll_keeps
      | with_reducible apply evalNow_keeps
      | exact Keeps.lit (by
            first
              | with_reducible assumption
              | (with_reducible apply disarmAll_keeps; with_reducible assumption)
              | (with_reducible apply evalNow_keeps; with_reducible assumption)) rfl rfl rfl rfl rfl
      | refine Keeps.lit ?_ rfl rfl rfl rfl rfl

theorem clearPrograms_keeps {s₀ : State} (s : State) (hk : Keeps s₀ s) : Keeps s₀ (clearPrograms s) := by
  unfold clearPrograms
  dsimp only
  repeat' first | with_reducible assumption | exact Keeps.lit (by with_reducible assumption) rfl rfl rfl rfl rfl

theorem resetImages_keeps {s₀ : State} (s : State) (hk : Keeps s₀ s) : Keeps s₀ (resetImages s) := by
  unfold resetImages
  dsimp only
  repeat' first
      | with_reducible assumption | with_reducible apply Keeps.ite | with_reducible apply clearPrograms_keeps
      | with_reducible apply resetStaged_keeps | with_reducible apply resetFab_keeps
      | with_reducible apply resetActive_keeps

theorem resetHostSide_keeps {s₀ : State} (s : State) (hk : Keeps s₀ s) : Keeps s₀ (resetHostSide s) := by
  unfold resetHostSide
  dsimp only
  repeat' first
      | with_reducible assumption | with_reducible apply resetSeqs_keeps | with_reducible apply endEpochByReset_keeps
      | with_reducible apply resetExport_keeps | with_reducible apply resetViews_keeps
      | with_reducible apply resetPodc_keeps | with_reducible apply resetTimed_keeps
      | with_reducible apply resetTalRegs_keeps | with_reducible apply resetRingRegs_keeps
      | with_reducible apply resetChan_keeps | with_reducible apply resetImages_keeps

theorem cmdOf_keeps {s₀ : State} (m opcode : Nat) (s : State) {f : Cmd} (hf : cmdOf m opcode s = some f)
    (q : List Byte) (x : State) (h : Keeps s₀ x) : Keeps s₀ (f q x).1 := by
  unfold cmdOf at hf
  split at hf <;> cases hf
  · exact nopCmd_keeps q x h
  · exact devInfoCmd_keeps q x h
  · exact selftestCmd_keeps _ q x h
  · exact logReadCmd_keeps q x h
  · exact podInfoCmd_keeps _ q x h
  · exact podPowerCmd_keeps _ q x h
  · exact calRunCmd_keeps q x h
  · exact calStatusCmd_keeps q x h
  · exact loadCmd_keeps q x h
  · exact armCmd_keeps _ q x h
  · exact disarmCmd_keeps _ q x h
  · exact fabCmd_keeps q x h
  · exact outCfgCmd_keeps q x h
  · exact epochCommitCmd_keeps q x h
  · exact acqStartCmd_keeps q x h
  · exact acqStopCmd_keeps q x h
  · exact retainSetCmd_keeps q x h
  · exact markCmd_keeps q x h
  · exact ringCfgCmd_keeps q x h
  · exact expCfgCmd_keeps q x h
  · exact talusFormatCmd_keeps q x h
  · exact talusWindowCmd_keeps q x h
  · exact talusDriveCmd_keeps q x h
  · exact talusCfgCmd_keeps q x h
  · exact talusMapReadCmd_keeps q x h
  · exact timeSourceCmd_keeps q x h
  · exact axisCmd_keeps q x h
  · exact discoverCmd_keeps _ q x h
  · exact portCfgCmd_keeps q x h
  · exact tunnelCmd_keeps _ q x h
  · exact timedCmd_keeps q x h
  · exact attestCmd_keeps _ q x h
  · exact identityCmd_keeps _ q x h
  · exact sealCfgCmd_keeps q x h
  · exact sealNowCmd_keeps _ q x h
  · exact marchRunCmd_keeps _ q x h
  · exact scrubCmd_keeps q x h
  · exact faultInjectCmd_keeps q x h
  · exact fwStageCmd_keeps _ q x h
  · exact fwCommitCmd_keeps _ q x h
  · exact fwInfoCmd_keeps q x h
  · exact pllCmd_keeps _ q x h

theorem completeInside_keeps {s₀ : State} (m : Nat) (s : State) (h : Keeps s₀ s) : Keeps s₀ (completeInside m s) := by
  unfold completeInside
  dsimp only
  split
  · split
    · rename_i hf
      exact cmdOf_keeps m _ s hf _ s h
    · exact h
  · exact h

theorem detach_keeps {s₀ : State} (m : Nat) (s : State) (hk : Keeps s₀ s) : Keeps s₀ (detach m s) := by
  unfold detach
  dsimp only
  repeat' first
      | with_reducible assumption | with_reducible apply Keeps.ite | with_reducible apply cancelLong_keeps
      | exact Keeps.lit (by
            first
              | with_reducible assumption
              | (with_reducible apply cancelLong_keeps; with_reducible assumption)) rfl rfl rfl rfl rfl | split
      | refine Keeps.lit ?_ rfl rfl rfl rfl rfl

theorem emptyMailboxes_keeps {s₀ : State} (s : State) (hk : Keeps s₀ s) : Keeps s₀ (emptyMailboxes s) := by
  unfold emptyMailboxes
  dsimp only
  repeat' first
      | with_reducible assumption | intro _ | with_reducible apply Keeps.ite
      | exact Keeps.lit (by with_reducible assumption) rfl rfl rfl rfl rfl

theorem flrMailboxes_keeps {s₀ : State} (s : State) (hk : Keeps s₀ s) : Keeps s₀ (flrMailboxes s) := by
  unfold flrMailboxes
  dsimp only
  repeat' first
      | with_reducible assumption | intro _ | with_reducible apply Keeps.foldl | with_reducible apply Keeps.ite
      | with_reducible apply completeInside_keeps | with_reducible apply emptyMailboxes_keeps
      | with_reducible apply detach_keeps

theorem abandonReads_keeps {s₀ : State} (s : State) (hk : Keeps s₀ s) : Keeps s₀ (abandonReads s) := by
  unfold abandonReads
  dsimp only
  repeat' first
      | with_reducible assumption | intro _ | with_reducible apply tick_keeps
      | exact Keeps.lit (by with_reducible assumption) rfl rfl rfl rfl rfl

theorem resetConfigSpace_keeps {s₀ : State} (s : State) (hk : Keeps s₀ s) : Keeps s₀ (resetConfigSpace s) := by
  unfold resetConfigSpace
  dsimp only
  repeat' first
      | with_reducible assumption | intro _ | exact Keeps.lit (by with_reducible assumption) rfl rfl rfl rfl rfl
      | refine Keeps.lit ?_ rfl rfl rfl rfl rfl

theorem startFlr_keeps {s₀ : State} (cause : Nat) (s : State) (hk : Keeps s₀ s) : Keeps s₀ (startFlr cause s) := by
  unfold startFlr
  dsimp only
  repeat' first
      | with_reducible assumption | with_reducible apply resetEvents_keeps | with_reducible apply resetHostSide_keeps
      | with_reducible apply flrMailboxes_keeps | with_reducible apply abandonReads_keeps
      | with_reducible apply resetConfigSpace_keeps
      | exact Keeps.lit (by
            first
              | with_reducible assumption
              | (with_reducible apply resetEvents_keeps; with_reducible assumption)
              | (with_reducible apply resetHostSide_keeps; with_reducible assumption)
              | (with_reducible apply flrMailboxes_keeps; with_reducible assumption)
              | (with_reducible apply abandonReads_keeps; with_reducible assumption)
              | (with_reducible apply resetConfigSpace_keeps; with_reducible assumption)) rfl rfl rfl rfl rfl
      | refine Keeps.lit ?_ rfl rfl rfl rfl rfl

theorem abandonCommands_keeps {s₀ : State} (s : State) (hk : Keeps s₀ s) : Keeps s₀ (abandonCommands s) := by
  unfold abandonCommands
  dsimp only
  repeat' first
      | with_reducible assumption | intro _ | with_reducible apply Keeps.foldl | with_reducible apply cancelLong_keeps
      | exact Keeps.lit (by
            first
              | with_reducible assumption
              | (with_reducible apply cancelLong_keeps; with_reducible assumption)) rfl rfl rfl rfl rfl
      | refine Keeps.lit ?_ rfl rfl rfl rfl rfl

theorem rebootSummit_keeps {s₀ : State} (s : State) (hk : Keeps s₀ s) : Keeps s₀ (rebootSummit s) := by
  unfold rebootSummit
  dsimp only
  repeat' first
      | with_reducible assumption | with_reducible apply pauseDuties_keeps | with_reducible apply tick_keeps
      | exact Keeps.lit (by
            first
              | with_reducible assumption
              | (with_reducible apply pauseDuties_keeps; with_reducible assumption)
              | (with_reducible apply tick_keeps; with_reducible assumption)) rfl rfl rfl rfl rfl
      | refine Keeps.lit ?_ rfl rfl rfl rfl rfl

theorem resetCollector_keeps {s₀ : State} (s : State) (hk : Keeps s₀ s) : Keeps s₀ (resetCollector s) := by
  unfold resetCollector
  dsimp only
  repeat' first
      | with_reducible assumption | intro _ | with_reducible apply Keeps.ite | with_reducible apply extLive_keeps
      | with_reducible apply updateFaultN_keeps | with_reducible apply latchLive_keeps
      | exact Keeps.lit (by
            first
              | with_reducible assumption
              | (with_reducible apply extLive_keeps; with_reducible assumption)
              | (with_reducible apply updateFaultN_keeps; with_reducible assumption)
              | (with_reducible apply latchLive_keeps; with_reducible assumption)) rfl rfl rfl rfl rfl | split
      | refine Keeps.lit ?_ rfl rfl rfl rfl rfl

theorem endSafeByReset_keeps {s₀ : State} (s : State) (hk : Keeps s₀ s) : Keeps s₀ (endSafeByReset s) := by
  unfold endSafeByReset
  repeat' first
      | with_reducible assumption | with_reducible apply Keeps.ite | with_reducible apply raise_keeps
      | with_reducible apply endSafe_keeps

theorem resetSoftOnly_keeps {s₀ : State} (s : State) (hk : Keeps s₀ s) : Keeps s₀ (resetSoftOnly s) := by
  unfold resetSoftOnly
  dsimp only
  repeat' first
      | with_reducible assumption | intro _ | with_reducible apply tick_keeps
      | exact Keeps.lit (by with_reducible assumption) rfl rfl rfl rfl rfl

theorem startSoft_keeps {s₀ : State} (s : State) (hk : Keeps s₀ s) : Keeps s₀ (startSoft s) := by
  unfold startSoft
  dsimp only
  repeat' first
      | with_reducible assumption | with_reducible apply resetEvents_keeps
      | with_reducible apply abandonCommands_keeps | with_reducible apply resetSoftOnly_keeps
      | with_reducible apply resetCollector_keeps | with_reducible apply rebootSummit_keeps
      | with_reducible apply resetHostSide_keeps | with_reducible apply endSafeByReset_keeps
      | exact Keeps.lit (by with_reducible assumption) rfl rfl rfl rfl rfl

theorem writeSoftReset_keeps {s₀ : State} (v : Word) (be : BitVec 4) (cls : Nat) (s : State) (hk : Keeps s₀ s) :
    Keeps s₀ (writeSoftReset v be cls s) := by
  unfold writeSoftReset
  repeat' first
      | with_reducible assumption | intro _ | with_reducible apply Keeps.ite | with_reducible apply keyed_keeps
      | with_reducible apply startSoft_keeps | with_reducible apply refuseWrite_keeps

theorem afterReset_keeps {s₀ : State} (s : State) (h : Keeps s₀ s) : Keeps s₀ (afterReset s) := by
  unfold afterReset
  refine extLive_keeps _ (h.trans ⟨rfl, rfl, fun w => ?_, fun _ => rawExists_iff.mpr fun g _ b _ hb => ?_⟩)
  · have hd := (canonical_iff.mp w).2.2.1
    exact canonical_iff.mpr ⟨rfl, rfl, hd, rfl, rfl⟩
  · simp [State.resetOf, Events.reset, tabGet] at hb

/-! ## RegWrite -/

theorem setPpsCfg_keeps {s₀ : State} (f : Word → Word) (s : State) (hk : Keeps s₀ s) : Keeps s₀ (setPpsCfg f s) := by
  unfold setPpsCfg
  dsimp only
  repeat' first
      | with_reducible assumption | with_reducible apply Keeps.ite | with_reducible apply holdPps_keeps
      | exact Keeps.lit (by
            first
              | with_reducible assumption
              | (with_reducible apply holdPps_keeps; with_reducible assumption)) rfl rfl rfl rfl rfl | split
      | refine Keeps.lit ?_ rfl rfl rfl rfl rfl

theorem rwPodc_keeps {s₀ : State} (o : Nat) (f : Word → Word) (s : State) (hk : Keeps s₀ s) :
    Keeps s₀ (rwPodc o f s) := by
  unfold rwPodc
  dsimp only
  repeat' first
      | with_reducible assumption | with_reducible apply Keeps.ite
      | exact Keeps.lit (by with_reducible assumption) rfl rfl rfl rfl rfl | split

theorem rwPcie_keeps {s₀ : State} (o : Nat) (f : Word → Word) (s : State) (hk : Keeps s₀ s) :
    Keeps s₀ (rwPcie o f s) := by
  unfold rwPcie
  dsimp only
  repeat' first
      | with_reducible assumption | with_reducible apply Keeps.ite
      | exact Keeps.lit (by with_reducible assumption) rfl rfl rfl rfl rfl | split

theorem rwModify_keeps {s₀ : State} (off : Nat) (f : Word → Word) (s : State) (hk : Keeps s₀ s) :
    Keeps s₀ (rwModify off f s) := by
  unfold rwModify
  dsimp only
  repeat' first
      | with_reducible assumption | with_reducible apply Keeps.ite | with_reducible apply chanWrite_keeps
      | with_reducible apply setOpen_keeps | with_reducible apply setEnable_keeps
      | with_reducible apply setVectors_keeps | with_reducible apply setPpsCfg_keeps
      | with_reducible apply writeSfBits_keeps | with_reducible apply rwPodc_keeps | with_reducible apply rwPcie_keeps
      | with_reducible apply ring_keeps
      | exact Keeps.lit (by
            first
              | with_reducible assumption
              | (with_reducible apply chanWrite_keeps; with_reducible assumption)
              | (with_reducible apply setOpen_keeps; with_reducible assumption)
              | (with_reducible apply setEnable_keeps; with_reducible assumption)
              | (with_reducible apply setVectors_keeps; with_reducible assumption)
              | (with_reducible apply setPpsCfg_keeps; with_reducible assumption)
              | (with_reducible apply writeSfBits_keeps; with_reducible assumption)
              | (with_reducible apply rwPodc_keeps; with_reducible assumption)
              | (with_reducible apply rwPcie_keeps; with_reducible assumption)
              | (with_reducible apply ring_keeps; with_reducible assumption)) rfl rfl rfl rfl rfl | split

theorem writeSchCfg_keeps {s₀ : State} (n : Nat) (v : Word) (be : BitVec 4) (s : State) (hk : Keeps s₀ s) :
    Keeps s₀ (writeSchCfg n v be s) := by
  unfold writeSchCfg
  repeat' first
      | with_reducible assumption | intro _ | with_reducible apply Keeps.ite | with_reducible apply refuseWrite_keeps
      | with_reducible apply modSlot_keeps
      | exact Keeps.lit (by
            first
              | with_reducible assumption
              | (with_reducible apply refuseWrite_keeps; with_reducible assumption)
              | (with_reducible apply modSlot_keeps; with_reducible assumption)) rfl rfl rfl rfl rfl | split
      | refine Keeps.lit ?_ rfl rfl rfl rfl rfl

theorem writeSchTarget_keeps {s₀ : State} (n : Nat) (v : Word64) (be : BitVec 8) (s : State) (hk : Keeps s₀ s) :
    Keeps s₀ (writeSchTarget n v be s) := by
  unfold writeSchTarget
  repeat' first
      | with_reducible assumption | intro _ | with_reducible apply Keeps.ite
      | with_reducible apply refuseWrite64_keeps | with_reducible apply write64_keeps
      | with_reducible apply modSlot_keeps

theorem writeSchPeriod_keeps {s₀ : State} (n : Nat) (v : Word64) (be : BitVec 8) (s : State) (hk : Keeps s₀ s) :
    Keeps s₀ (writeSchPeriod n v be s) := by
  unfold writeSchPeriod
  repeat' first
      | with_reducible assumption | intro _ | with_reducible apply Keeps.ite
      | with_reducible apply refuseWrite64_keeps | with_reducible apply write64_keeps
      | with_reducible apply modSlot_keeps

theorem clearCfgStatus_keeps {s₀ : State} (v : Word) (s : State) (hk : Keeps s₀ s) :
    Keeps s₀ (clearCfgStatus v s) := by
  unfold clearCfgStatus
  repeat' first
      | with_reducible assumption | with_reducible apply Keeps.ite
      | exact Keeps.lit (by with_reducible assumption) rfl rfl rfl rfl rfl

theorem clearEqStatus_keeps {s₀ : State} (v : Word) (s : State) (hk : Keeps s₀ s) : Keeps s₀ (clearEqStatus v s) := by
  unfold clearEqStatus
  dsimp only
  repeat' first | with_reducible assumption | exact Keeps.lit (by with_reducible assumption) rfl rfl rfl rfl rfl

theorem clearSchStatus_keeps {s₀ : State} (n : Nat) (v : Word) (s : State) (hk : Keeps s₀ s) :
    Keeps s₀ (clearSchStatus n v s) := by
  unfold clearSchStatus
  repeat' first | with_reducible assumption | intro _ | with_reducible apply modSlot_keeps

theorem clearRingMarks_keeps {s₀ : State} (v : Word) (s : State) (hk : Keeps s₀ s) :
    Keeps s₀ (clearRingMarks v s) := by
  unfold clearRingMarks
  dsimp only
  repeat' first
      | with_reducible assumption | with_reducible apply ring_keeps
      | exact Keeps.lit (by with_reducible assumption) rfl rfl rfl rfl rfl

theorem clearStoreMarks_keeps {s₀ : State} (v : Word) (s : State) (hk : Keeps s₀ s) :
    Keeps s₀ (clearStoreMarks v s) := by
  unfold clearStoreMarks
  dsimp only
  repeat' first | with_reducible assumption | exact Keeps.lit (by with_reducible assumption) rfl rfl rfl rfl rfl

theorem writeMb_keeps {s₀ : State} (o : Nat) (v : Word) (be : BitVec 4) (cls : Nat) (s : State) (hk : Keeps s₀ s) :
    Keeps s₀ (writeMb o v be cls s) := by
  unfold writeMb
  dsimp only
  repeat' first
      | with_reducible assumption | with_reducible apply Keeps.ite | with_reducible apply latchKey_keeps
      | with_reducible apply writeMbCmd_keeps | with_reducible apply writeDoorbell_keeps
      | with_reducible apply writeCwCfg_keeps | with_reducible apply writeCwProd_keeps
      | with_reducible apply writeCwCons_keeps
      | exact Keeps.lit (by
            first
              | with_reducible assumption
              | (with_reducible apply latchKey_keeps; with_reducible assumption)
              | (with_reducible apply writeMbCmd_keeps; with_reducible assumption)
              | (with_reducible apply writeDoorbell_keeps; with_reducible assumption)
              | (with_reducible apply writeCwCfg_keeps; with_reducible assumption)
              | (with_reducible apply writeCwProd_keeps; with_reducible assumption)
              | (with_reducible apply writeCwCons_keeps; with_reducible assumption)) rfl rfl rfl rfl rfl | split
      | refine Keeps.lit ?_ rfl rfl rfl rfl rfl

theorem writeFlt_keeps {s₀ : State} (o : Nat) (v : Word) (be : BitVec 4) (cls : Nat) (s : State) (hk : Keeps s₀ s) :
    Keeps s₀ (writeFlt o v be cls s) := by
  unfold writeFlt
  dsimp only
  repeat' first
      | with_reducible assumption | intro _ | with_reducible apply writeFltStatus_keeps
      | with_reducible apply writeFltCtrl_keeps | with_reducible apply writeSafeRelease_keeps
      | with_reducible apply writeFltSev_keeps | with_reducible apply special_keeps
      | with_reducible apply writeHistPop_keeps
      | exact Keeps.lit (by
            first
              | with_reducible assumption
              | (with_reducible apply writeFltStatus_keeps; with_reducible assumption)
              | (with_reducible apply writeFltCtrl_keeps; with_reducible assumption)
              | (with_reducible apply writeSafeRelease_keeps; with_reducible assumption)
              | (with_reducible apply writeFltSev_keeps; with_reducible assumption)
              | (with_reducible apply special_keeps; with_reducible assumption)
              | (with_reducible apply writeHistPop_keeps; with_reducible assumption)) rfl rfl rfl rfl rfl | split

theorem writeEvt_keeps {s₀ : State} (o : Nat) (v : Word) (be : BitVec 4) (s : State) (hk : Keeps s₀ s) :
    Keeps s₀ (writeEvt o v be s) := by
  unfold writeEvt
  repeat' first
      | with_reducible assumption | with_reducible apply Keeps.ite | with_reducible apply writeEvtClear_keeps
      | with_reducible apply writeEvtForce_keeps | with_reducible apply rwModify_keeps
      | exact Keeps.lit (by
            first
              | with_reducible assumption
              | (with_reducible apply writeEvtClear_keeps; with_reducible assumption)
              | (with_reducible apply writeEvtForce_keeps; with_reducible assumption)
              | (with_reducible apply rwModify_keeps; with_reducible assumption)) rfl rfl rfl rfl rfl | split

theorem writeSch_keeps {s₀ : State} (o : Nat) (v : Word) (be : BitVec 4) (s : State) (hk : Keeps s₀ s) :
    Keeps s₀ (writeSch o v be s) := by
  unfold writeSch
  repeat' first
      | with_reducible assumption | with_reducible apply Keeps.ite | with_reducible apply writeSchCfg_keeps
      | with_reducible apply writeSchCtrl_keeps | with_reducible apply special_keeps
      | with_reducible apply clearSchStatus_keeps | with_reducible apply writeSf_keeps
      | exact Keeps.lit (by
            first
              | with_reducible assumption
              | (with_reducible apply writeSchCfg_keeps; with_reducible assumption)
              | (with_reducible apply writeSchCtrl_keeps; with_reducible assumption)
              | (with_reducible apply special_keeps; with_reducible assumption)
              | (with_reducible apply clearSchStatus_keeps; with_reducible assumption)
              | (with_reducible apply writeSf_keeps; with_reducible assumption)) rfl rfl rfl rfl rfl | split

theorem writePodc_keeps {s₀ : State} (o : Nat) (v : Word) (be : BitVec 4) (s : State) (hk : Keeps s₀ s) :
    Keeps s₀ (writePodc o v be s) := by
  unfold writePodc
  dsimp only
  repeat' first
      | with_reducible assumption | intro _ | with_reducible apply special_keeps | with_reducible apply rwPodc_keeps
      | exact Keeps.lit (by
            first
              | with_reducible assumption
              | (with_reducible apply special_keeps; with_reducible assumption)
              | (with_reducible apply rwPodc_keeps; with_reducible assumption)) rfl rfl rfl rfl rfl | split

theorem writeReg_keeps {s₀ : State} (off : Nat) (v : Word) (be : BitVec 4) (cls : Nat) (s : State) (hk : Keeps s₀ s) :
    Keeps s₀ (writeReg off v be cls s) := by
  unfold writeReg
  dsimp only
  repeat' first
      | (apply Keeps.overrun; with_reducible assumption) | with_reducible assumption | intro _
      | with_reducible apply Keeps.ite | with_reducible apply chanWrite_keeps
      | with_reducible apply writeSoftReset_keeps | with_reducible apply rwModify_keeps
      | with_reducible apply writeUnlock_keeps | with_reducible apply writeCfgCtrl_keeps
      | with_reducible apply special_keeps | with_reducible apply clearCfgStatus_keeps
      | with_reducible apply writeMb_keeps | with_reducible apply writeEvt_keeps | with_reducible apply writeFlt_keeps
      | with_reducible apply writeStepLimit_keeps | with_reducible apply writeSch_keeps
      | with_reducible apply clearEqStatus_keeps | with_reducible apply writePullRelease_keeps
      | with_reducible apply writeSnapCtrl_keeps | with_reducible apply writePodc_keeps
      | with_reducible apply writePwCommit_keeps | with_reducible apply clearRingMarks_keeps
      | with_reducible apply writeGeometry_keeps | with_reducible apply clearStoreMarks_keeps
      | exact Keeps.lit (by
            first
              | with_reducible assumption
              | (with_reducible apply chanWrite_keeps; with_reducible assumption)
              | (with_reducible apply writeSoftReset_keeps; with_reducible assumption)
              | (with_reducible apply rwModify_keeps; with_reducible assumption)
              | (with_reducible apply writeUnlock_keeps; with_reducible assumption)
              | (with_reducible apply writeCfgCtrl_keeps; with_reducible assumption)
              | (with_reducible apply special_keeps; with_reducible assumption)
              | (with_reducible apply clearCfgStatus_keeps; with_reducible assumption)
              | (with_reducible apply writeMb_keeps; with_reducible assumption)
              | (with_reducible apply writeEvt_keeps; with_reducible assumption)
              | (with_reducible apply writeFlt_keeps; with_reducible assumption)
              | (with_reducible apply writeStepLimit_keeps; with_reducible assumption)
              | (with_reducible apply writeSch_keeps; with_reducible assumption)
              | (with_reducible apply clearEqStatus_keeps; with_reducible assumption)
              | (with_reducible apply writePullRelease_keeps; with_reducible assumption)
              | (with_reducible apply writeSnapCtrl_keeps; with_reducible assumption)
              | (with_reducible apply writePodc_keeps; with_reducible assumption)
              | (with_reducible apply writePwCommit_keeps; with_reducible assumption)
              | (with_reducible apply clearRingMarks_keeps; with_reducible assumption)
              | (with_reducible apply writeGeometry_keeps; with_reducible assumption)
              | (with_reducible apply clearStoreMarks_keeps; with_reducible assumption)) rfl rfl rfl rfl rfl | split

theorem writeWide_keeps {s₀ : State} (off : Nat) (v : Word64) (be : BitVec 8) (cls : Nat) (s : State)
    (hk : Keeps s₀ s) :
    Keeps s₀ (writeWide off v be cls s) := by
  unfold writeWide
  repeat' first
      | with_reducible assumption | with_reducible apply Keeps.ite | with_reducible apply writeIncrA_keeps
      | with_reducible apply writeStepA_keeps | with_reducible apply writeIncrB_keeps
      | with_reducible apply writeStepB_keeps | with_reducible apply writeDurableAck_keeps
      | with_reducible apply writeArchived_keeps | with_reducible apply writeSchTarget_keeps
      | with_reducible apply writeSchPeriod_keeps
      | exact Keeps.lit (by
            first
              | with_reducible assumption
              | (with_reducible apply writeIncrA_keeps; with_reducible assumption)
              | (with_reducible apply writeStepA_keeps; with_reducible assumption)
              | (with_reducible apply writeIncrB_keeps; with_reducible assumption)
              | (with_reducible apply writeStepB_keeps; with_reducible assumption)
              | (with_reducible apply writeDurableAck_keeps; with_reducible assumption)
              | (with_reducible apply writeArchived_keeps; with_reducible assumption)
              | (with_reducible apply writeSchTarget_keeps; with_reducible assumption)
              | (with_reducible apply writeSchPeriod_keeps; with_reducible assumption)) rfl rfl rfl rfl rfl | split

theorem writeMsix_keeps {s₀ : State} (off : Nat) (v : Word) (s : State) (hk : Keeps s₀ s) :
    Keeps s₀ (writeMsix off v s) := by
  unfold writeMsix
  dsimp only
  repeat' first
      | with_reducible assumption | intro _ | with_reducible apply Keeps.ite
      | exact Keeps.lit (by with_reducible assumption) rfl rfl rfl rfl rfl

theorem aliasWhole_keeps {s₀ : State} (op : AliasOp) (base : Nat) (m : Word64) (s : State) (hk : Keeps s₀ s) :
    Keeps s₀ (aliasWhole op base m s) := by
  unfold aliasWhole
  repeat' first
      | with_reducible assumption | with_reducible apply Keeps.ite | with_reducible apply writeWide_keeps | split

theorem aliasWide_keeps {s₀ : State} (op : AliasOp) (off : Nat) (v : Word) (be : BitVec 4) (s : State)
    (hk : Keeps s₀ s) :
    Keeps s₀ (aliasWide op off v be s) := by
  unfold aliasWide
  dsimp only
  repeat' first
      | with_reducible assumption | with_reducible apply Keeps.ite | with_reducible apply writeWide_keeps
      | with_reducible apply refuseWidth_keeps | split

theorem aliasAccess_keeps {s₀ : State} (op : AliasOp) (off : Nat) (v : Word) (be : BitVec 4) (s : State)
    (hk : Keeps s₀ s) :
    Keeps s₀ (aliasAccess op off v be s) := by
  unfold aliasAccess
  repeat' first
      | with_reducible assumption | with_reducible apply Keeps.ite | with_reducible apply aliasWide_keeps
      | with_reducible apply refuseWidth_keeps | with_reducible apply rwModify_keeps | split

theorem tlpAccess_keeps {s₀ : State} (off : Nat) (bytes : List (Option Byte)) (a : Nat) (cls : Nat) (s : State)
    (hk : Keeps s₀ s) :
    Keeps s₀ (tlpAccess off bytes a cls s) := by
  unfold tlpAccess
  dsimp only
  repeat' first
      | with_reducible assumption | with_reducible apply Keeps.ite | with_reducible apply aliasWhole_keeps
      | with_reducible apply aliasAccess_keeps | with_reducible apply writeMsix_keeps
      | with_reducible apply writeWide_keeps | with_reducible apply writeReg_keeps | split

theorem tlpAccesses_keeps {s₀ : State} (off : Nat) (bytes : List (Option Byte)) (cls : Nat) (s : State)
    (hk : Keeps s₀ s) :
    Keeps s₀ (tlpAccesses off bytes cls s) := by
  unfold tlpAccesses
  dsimp only
  repeat' first
      | with_reducible assumption | intro _ | with_reducible apply Keeps.foldl | with_reducible apply Keeps.ite
      | with_reducible apply tlpAccess_keeps

end Sys2Proof.Machine
end

