-- ==== Sys2Proof/Laws/PerInstr.lean ====
section
/-! SUPPORT. The family Names: the constructors of Instr stand in the order of the opcode table, each at its mnemonic. -/

namespace Sys2Proof.Laws.Names

/-- Rows 0 to 31 of the opcode table. -/
def rows0 : List String :=
  ["DEV_INFO", "ACQ_START", "EPOCH_COMMIT", "ACQ_STOP", "EPOCH_BOUNDARY", "INTAKE_RESUME", "EPOCH_CLOSE_EMIT",
   "EPOCH_OPEN_EMIT", "ROW_ENCODE", "RING_ROW_WRITE", "RING_RATE_EVAL", "RET_ROW_READ", "RING_SCRUB_READ",
   "RING_CE_INTERVAL", "BAR2_READ", "BAR2_WRITE", "RING_TAG_READ", "RING_CFG", "POD_PRESENCE_LOW",
   "POD_DEBOUNCE_DONE", "DESCRIPTOR_READ_DONE", "DESCRIPTOR_READ_ERROR", "POD_POWER_GOOD_CHECK", "POD_JOIN",
   "POD_REMOVAL", "POD_SUPPLY_FAULT", "POD_OVERVOLT", "POD_POWER", "POD_INFO", "TELEM_PERIOD", "TELEM_READ_DONE",
   "KEY_PRESS"]

/-- Rows 32 to 63 of the opcode table. -/
def rows1 : List String :=
  ["KEY_RELEASE", "COMPARATOR_EVENT", "CAL_ROTATION_START", "CAL_SWAP_START", "CAL_SHADOW_DONE", "CAL_SWAP",
   "CAL_SWAP_ABORT", "CAL_PAIR_DONE", "CAL_RUN", "CAL_STATUS", "CH_ALIAS_WRITE", "CH_ALIAS_READ", "TRV_STEP",
   "QUAL_TIMEOUT", "FAB_TIMER_EXPIRE", "COUNTER_AT_LIMIT", "TRIGIN_HIGH", "FAB_CFG", "TRV_LOAD", "TRV_ARM",
   "TRV_DISARM", "TRV_OUT_CFG", "TRV_ARM_TARGET", "TRIGOUT_PULSE_END", "RET_ROW_EMIT", "LOG_FRAME_DUE", "RETAIN_SET",
   "MARK", "COMPRESS_FRAME_IN", "BLOCK_FLUSH_TIMEOUT", "LANE_BLOCK_DONE", "PACKET_OPEN"]

/-- Rows 64 to 95 of the opcode table. -/
def rows2 : List String :=
  ["PACKET_CLOSE", "EQ_BANK_SWAP", "EXPORT_CHUNK_CLOSE", "FLUSH_READ_CPL", "FLUSH_READ_TIMEOUT", "CPL_UNEXPECTED",
   "TAG_QUARANTINE_END", "EQ_POINTER_MISMATCH", "EQ_RESET_DONE", "EXP_CFG", "PULL_WINDOW_READ", "PULL_WINDOW_WRITE",
   "EXP_PULL_RELEASE", "EXP_DURABLE_ACK", "PAD_INSERT", "EXTENT_OPEN", "EXT_CLOSE_DEADLINE", "MAP_SLOT_WRITE",
   "QUIET_RECORD_WRITE", "TALUS_RECOVERY", "TALUS_FORMAT", "TALUS_WINDOW_SET", "TALUS_DRIVE_ATTACH", "TALUS_CFG",
   "TALUS_MAP_READ", "NVME_CQ_ENTRY", "NVME_CMD_TIMEOUT", "TALUS_ARCHIVED_WRITE", "TALUS_GEOMETRY_LOCK",
   "REC_WINDOW_READ", "REC_WINDOW_WRITE", "MAP_SCRUB_READ"]

/-- Rows 96 to 127 of the opcode table. -/
def rows3 : List String :=
  ["SEAL_DUE", "SEAL_START", "SEAL_SIGN_DONE", "SEAL_DEADLINE", "SEAL_INDEX_WRITE", "KECCAK_SELFTEST", "SEAL_CFG",
   "SEAL_NOW", "IDENTITY_GET", "ATTEST", "ATTEST_DONE", "FW_BOOT_VERIFY", "TIME_A_INCR", "TIME_A_STEP",
   "TIME_A_STEP_APPLY", "TIME_A_STEP_LIMIT", "TIME_INTEGRITY", "TIME_B_INCR", "TIME_B_STEP", "TIME_B_STEP_APPLY",
   "TIME_SOURCE_SET", "TIME_B_SOURCE_SWITCH", "TIME_B_REVERT", "PPS_IN_EDGE", "PPS_IN_MISSING", "PPS_OUT_START",
   "PPS_OUT_END", "ENC_INPUT_CHANGE", "MAINS_ZC_EDGE", "MAINS_LOST", "AXIS_CFG", "SCH_ARM"]

/-- Rows 128 to 159 of the opcode table. -/
def rows4 : List String :=
  ["SCH_DISARM", "SCH_SLOT_REACHED", "SCH_ACTION_EXECUTE", "SCH_SF", "RL_PORT_UP", "RL_PORT_DOWN",
   "RL_TRAIN_TIMEOUT", "FAULT_IDLE_RX", "RL_FRAME_BAD", "TIME_FRAME_RX", "TIME_FRAME_TX", "RL_TIME_LOSS",
   "DELAY_REQ_TX", "DELAY_REQ_RX", "DELAY_RESP_RX", "CREDIT_ACK_RX", "FIRE_FRAME_RX", "ARM_FRAME_RX",
   "DISARM_FRAME_RX", "TIMED_FRAME_RX", "RL_TIMED_LAUNCH", "RL_TIMED_APPLY", "TUNNEL_REQ_RX", "TUNNEL_RESP_RX",
   "RL_TUNNEL_TIMEOUT", "RECORD_FRAME_RX", "DISCOVER_RX", "DISCOVER_REPLY_RX", "ASSIGN_RX", "RL_DISCOVER_ASSIGN",
   "RL_ORIGIN_EXPIRE", "RL_DISCOVER"]

/-- Rows 160 to 191 of the opcode table. -/
def rows5 : List String :=
  ["RL_PORT_CFG", "RL_TUNNEL", "RL_TIMED", "PLLS_LOCKED", "PLLS_UNLOCKED", "PLLL_LOCKED", "PLLL_UNLOCKED",
   "DCO_RANGE", "DCO_FAIL", "REF_LOST", "REF_GOOD", "REF_QUALIFIED", "REF_PHASE_HIT", "REALIGN_DONE", "PLL_CFG",
   "BAR0_WRITE", "REG_ALIAS_WRITE", "REG64_LOW_READ", "CFG_UNLOCK", "CFG_LATCH_REF", "CFG_COMMIT", "CFG_OPEN",
   "CFG_SCAN_PASS", "DEV_SOFT_RESET", "DEV_READY", "SNAP_TAKE", "SNAP_COMPLETE", "EVT_FORCE", "EVT_CLEAR",
   "EVT_ENABLE_WRITE", "MSIX_SEND", "SCRATCHPAD_ACCESS"]

/-- Rows 192 to 223 of the opcode table. -/
def rows6 : List String :=
  ["CW_WINDOW_ACCESS", "PW_INBOUND_ACCESS", "PW_COMMIT", "PW_COMMIT_SWITCH", "BME_CLEARED", "BME_SET", "D3HOT_ENTRY",
   "D3HOT_EXIT", "LTR_ENABLE", "ASPM_L1_ENTRY", "FLR", "FLR_DONE", "LINK_DOWN", "HOT_RESET", "LINK_UP",
   "LINK_CHANGE", "INBOUND_POISONED_WRITE", "MB_DOORBELL", "MB_COMMAND_START", "CW_CFG_WRITE", "CW_PROD_WRITE",
   "CW_CONS_WRITE", "CW_STALL", "SUMMIT_LOCKSTEP", "SUMMIT_WATCHDOG", "SUMMIT_READY", "NOP", "FW_STAGE", "FW_COMMIT",
   "FW_INFO", "DIE_TEMP_SAMPLE", "RAIL_MONITOR"]

/-- Rows 224 to 252 of the opcode table. -/
def rows7 : List String :=
  ["EXT_FAULT_IN", "FLT_SAFE_RELEASE", "FLT_HIST_POP", "FLT_STATUS_CLEAR", "FLT_SEV_WRITE", "FLT_CTRL_WRITE",
   "COLLECTOR_PARITY", "SRAM_ECC_ERROR", "SRAM_CE_INTERVAL", "SCRUB_PASS_DONE", "SCRUB_LATE", "LOG_READ",
   "MARCH_RUN", "DEV_SELFTEST", "SCRUB_CFG", "FAULT_INJECT", "POWER_ON", "CORE_BROWNOUT", "COLD_RESET",
   "PERST_ASSERT", "PERST_RELEASE", "RL_PEER_FAULT_END", "TRIGOUT_CONTENTION", "RAIL_BACK_IN_RANGE",
   "EXT_FAULT_IN_END", "MARCH_DONE", "FW_STAGED", "FW_COMMITTED", "SELFTEST_DONE"]

/-- Row `n` of the opcode table, none past its end. -/
def tableRow (n : Nat) : Option String :=
  match n / 32 with
  | 0 => rows0[n % 32]?
  | 1 => rows1[n % 32]?
  | 2 => rows2[n % 32]?
  | 3 => rows3[n % 32]?
  | 4 => rows4[n % 32]?
  | 5 => rows5[n % 32]?
  | 6 => rows6[n % 32]?
  | 7 => rows7[n % 32]?
  | _ => none

/-- The mnemonic of a command. -/
def mnemonic : Instr → String
  | .devInfo _ => "DEV_INFO"
  | .acqStart _ => "ACQ_START"
  | .epochCommit _ => "EPOCH_COMMIT"
  | .acqStop _ => "ACQ_STOP"
  | .epochBoundary => "EPOCH_BOUNDARY"
  | .intakeResume _ => "INTAKE_RESUME"
  | .epochCloseEmit => "EPOCH_CLOSE_EMIT"
  | .epochOpenEmit => "EPOCH_OPEN_EMIT"
  | .rowEncode => "ROW_ENCODE"
  | .ringRowWrite => "RING_ROW_WRITE"
  | .ringRateEval => "RING_RATE_EVAL"
  | .retRowRead _ => "RET_ROW_READ"
  | .ringScrubRead _ _ => "RING_SCRUB_READ"
  | .ringCeInterval => "RING_CE_INTERVAL"
  | .bar2Read _ _ _ => "BAR2_READ"
  | .bar2Write _ _ => "BAR2_WRITE"
  | .ringTagRead _ => "RING_TAG_READ"
  | .ringCfg _ => "RING_CFG"
  | .podPresenceLow _ => "POD_PRESENCE_LOW"
  | .podDebounceDone _ _ => "POD_DEBOUNCE_DONE"
  | .descriptorReadDone _ _ => "DESCRIPTOR_READ_DONE"
  | .descriptorReadError _ => "DESCRIPTOR_READ_ERROR"
  | .podPowerGoodCheck _ _ _ => "POD_POWER_GOOD_CHECK"
  | .podJoin _ => "POD_JOIN"
  | .podRemoval _ => "POD_REMOVAL"
  | .podSupplyFault _ => "POD_SUPPLY_FAULT"
  | .podOvervolt _ => "POD_OVERVOLT"
  | .podPower _ => "POD_POWER"
  | .podInfo _ _ => "POD_INFO"
  | .telemPeriod => "TELEM_PERIOD"
  | .telemReadDone _ _ => "TELEM_READ_DONE"
  | .keyPress _ => "KEY_PRESS"
  | .keyRelease _ => "KEY_RELEASE"
  | .comparatorEvent _ _ _ _ => "COMPARATOR_EVENT"
  | .calRotationStart _ => "CAL_ROTATION_START"
  | .calSwapStart _ => "CAL_SWAP_START"
  | .calShadowDone _ _ => "CAL_SHADOW_DONE"
  | .calSwap _ => "CAL_SWAP"
  | .calSwapAbort _ => "CAL_SWAP_ABORT"
  | .calPairDone _ _ _ _ _ => "CAL_PAIR_DONE"
  | .calRun _ => "CAL_RUN"
  | .calStatus _ => "CAL_STATUS"
  | .chAliasWrite _ _ _ => "CH_ALIAS_WRITE"
  | .chAliasRead _ => "CH_ALIAS_READ"
  | .trvStep _ _ => "TRV_STEP"
  | .qualTimeout _ => "QUAL_TIMEOUT"
  | .fabTimerExpire _ => "FAB_TIMER_EXPIRE"
  | .counterAtLimit _ => "COUNTER_AT_LIMIT"
  | .triginHigh _ _ => "TRIGIN_HIGH"
  | .fabCfg _ => "FAB_CFG"
  | .trvLoad _ => "TRV_LOAD"
  | .trvArm _ => "TRV_ARM"
  | .trvDisarm _ => "TRV_DISARM"
  | .trvOutCfg _ => "TRV_OUT_CFG"
  | .trvArmTarget _ => "TRV_ARM_TARGET"
  | .trigoutPulseEnd _ => "TRIGOUT_PULSE_END"
  | .retRowEmit => "RET_ROW_EMIT"
  | .logFrameDue => "LOG_FRAME_DUE"
  | .retainSet _ => "RETAIN_SET"
  | .mark _ => "MARK"
  | .compressFrameIn => "COMPRESS_FRAME_IN"
  | .blockFlushTimeout => "BLOCK_FLUSH_TIMEOUT"
  | .laneBlockDone _ _ => "LANE_BLOCK_DONE"
  | .packetOpen => "PACKET_OPEN"
  | .packetClose => "PACKET_CLOSE"
  | .eqBankSwap => "EQ_BANK_SWAP"
  | .exportChunkClose => "EXPORT_CHUNK_CLOSE"
  | .flushReadCpl _ _ _ => "FLUSH_READ_CPL"
  | .flushReadTimeout _ => "FLUSH_READ_TIMEOUT"
  | .cplUnexpected _ => "CPL_UNEXPECTED"
  | .tagQuarantineEnd _ => "TAG_QUARANTINE_END"
  | .eqPointerMismatch => "EQ_POINTER_MISMATCH"
  | .eqResetDone => "EQ_RESET_DONE"
  | .expCfg _ => "EXP_CFG"
  | .pullWindowRead _ _ => "PULL_WINDOW_READ"
  | .pullWindowWrite _ _ => "PULL_WINDOW_WRITE"
  | .expPullRelease _ _ => "EXP_PULL_RELEASE"
  | .expDurableAck _ _ => "EXP_DURABLE_ACK"
  | .padInsert => "PAD_INSERT"
  | .extentOpen => "EXTENT_OPEN"
  | .extCloseDeadline => "EXT_CLOSE_DEADLINE"
  | .mapSlotWrite _ => "MAP_SLOT_WRITE"
  | .quietRecordWrite => "QUIET_RECORD_WRITE"
  | .talusRecovery _ => "TALUS_RECOVERY"
  | .talusFormat _ => "TALUS_FORMAT"
  | .talusWindowSet _ => "TALUS_WINDOW_SET"
  | .talusDriveAttach _ => "TALUS_DRIVE_ATTACH"
  | .talusCfg _ => "TALUS_CFG"
  | .talusMapRead _ => "TALUS_MAP_READ"
  | .nvmeCqEntry _ _ => "NVME_CQ_ENTRY"
  | .nvmeCmdTimeout _ => "NVME_CMD_TIMEOUT"
  | .talusArchivedWrite _ _ => "TALUS_ARCHIVED_WRITE"
  | .talusGeometryLock _ _ => "TALUS_GEOMETRY_LOCK"
  | .recWindowRead _ _ => "REC_WINDOW_READ"
  | .recWindowWrite _ _ => "REC_WINDOW_WRITE"
  | .mapScrubRead _ => "MAP_SCRUB_READ"
  | .sealDue => "SEAL_DUE"
  | .sealStart => "SEAL_START"
  | .sealSignDone => "SEAL_SIGN_DONE"
  | .sealDeadline => "SEAL_DEADLINE"
  | .sealIndexWrite _ => "SEAL_INDEX_WRITE"
  | .keccakSelftest _ => "KECCAK_SELFTEST"
  | .sealCfg _ => "SEAL_CFG"
  | .sealNow _ => "SEAL_NOW"
  | .identityGet _ => "IDENTITY_GET"
  | .attest _ => "ATTEST"
  | .attestDone _ => "ATTEST_DONE"
  | .fwBootVerify _ _ => "FW_BOOT_VERIFY"
  | .timeAIncr _ _ => "TIME_A_INCR"
  | .timeAStep _ _ => "TIME_A_STEP"
  | .timeAStepApply => "TIME_A_STEP_APPLY"
  | .timeAStepLimit _ _ => "TIME_A_STEP_LIMIT"
  | .timeIntegrity _ => "TIME_INTEGRITY"
  | .timeBIncr _ _ => "TIME_B_INCR"
  | .timeBStep _ _ => "TIME_B_STEP"
  | .timeBStepApply => "TIME_B_STEP_APPLY"
  | .timeSourceSet _ => "TIME_SOURCE_SET"
  | .timeBSourceSwitch => "TIME_B_SOURCE_SWITCH"
  | .timeBRevert => "TIME_B_REVERT"
  | .ppsInEdge _ => "PPS_IN_EDGE"
  | .ppsInMissing => "PPS_IN_MISSING"
  | .ppsOutStart => "PPS_OUT_START"
  | .ppsOutEnd => "PPS_OUT_END"
  | .encInputChange _ _ _ _ => "ENC_INPUT_CHANGE"
  | .mainsZcEdge _ => "MAINS_ZC_EDGE"
  | .mainsLost => "MAINS_LOST"
  | .axisCfg _ => "AXIS_CFG"
  | .schArm _ => "SCH_ARM"
  | .schDisarm _ => "SCH_DISARM"
  | .schSlotReached _ => "SCH_SLOT_REACHED"
  | .schActionExecute => "SCH_ACTION_EXECUTE"
  | .schSf _ _ => "SCH_SF"
  | .rlPortUp _ _ _ => "RL_PORT_UP"
  | .rlPortDown _ => "RL_PORT_DOWN"
  | .rlTrainTimeout _ => "RL_TRAIN_TIMEOUT"
  | .faultIdleRx _ => "FAULT_IDLE_RX"
  | .rlFrameBad _ => "RL_FRAME_BAD"
  | .timeFrameRx _ _ => "TIME_FRAME_RX"
  | .timeFrameTx _ => "TIME_FRAME_TX"
  | .rlTimeLoss _ => "RL_TIME_LOSS"
  | .delayReqTx _ => "DELAY_REQ_TX"
  | .delayReqRx _ _ => "DELAY_REQ_RX"
  | .delayRespRx _ _ => "DELAY_RESP_RX"
  | .creditAckRx _ _ => "CREDIT_ACK_RX"
  | .fireFrameRx _ _ => "FIRE_FRAME_RX"
  | .armFrameRx _ _ => "ARM_FRAME_RX"
  | .disarmFrameRx _ _ => "DISARM_FRAME_RX"
  | .timedFrameRx _ _ => "TIMED_FRAME_RX"
  | .rlTimedLaunch _ => "RL_TIMED_LAUNCH"
  | .rlTimedApply _ => "RL_TIMED_APPLY"
  | .tunnelReqRx _ _ => "TUNNEL_REQ_RX"
  | .tunnelRespRx _ _ => "TUNNEL_RESP_RX"
  | .rlTunnelTimeout _ => "RL_TUNNEL_TIMEOUT"
  | .recordFrameRx _ _ => "RECORD_FRAME_RX"
  | .discoverRx _ _ => "DISCOVER_RX"
  | .discoverReplyRx _ _ => "DISCOVER_REPLY_RX"
  | .assignRx _ _ => "ASSIGN_RX"
  | .rlDiscoverAssign => "RL_DISCOVER_ASSIGN"
  | .rlOriginExpire _ => "RL_ORIGIN_EXPIRE"
  | .rlDiscover _ => "RL_DISCOVER"
  | .rlPortCfg _ => "RL_PORT_CFG"
  | .rlTunnel _ => "RL_TUNNEL"
  | .rlTimed _ => "RL_TIMED"
  | .pllsLocked _ => "PLLS_LOCKED"
  | .pllsUnlocked _ => "PLLS_UNLOCKED"
  | .plllLocked => "PLLL_LOCKED"
  | .plllUnlocked => "PLLL_UNLOCKED"
  | .dcoRange _ => "DCO_RANGE"
  | .dcoFail => "DCO_FAIL"
  | .refLost _ _ _ => "REF_LOST"
  | .refGood _ => "REF_GOOD"
  | .refQualified _ _ => "REF_QUALIFIED"
  | .refPhaseHit _ _ => "REF_PHASE_HIT"
  | .realignDone => "REALIGN_DONE"
  | .pllCfg _ => "PLL_CFG"
  | .bar0Write _ _ => "BAR0_WRITE"
  | .regAliasWrite _ _ _ _ => "REG_ALIAS_WRITE"
  | .reg64LowRead _ => "REG64_LOW_READ"
  | .cfgUnlock _ _ => "CFG_UNLOCK"
  | .cfgLatchRef _ _ => "CFG_LATCH_REF"
  | .cfgCommit _ _ => "CFG_COMMIT"
  | .cfgOpen _ _ => "CFG_OPEN"
  | .cfgScanPass _ => "CFG_SCAN_PASS"
  | .devSoftReset _ _ => "DEV_SOFT_RESET"
  | .devReady => "DEV_READY"
  | .snapTake _ _ => "SNAP_TAKE"
  | .snapComplete => "SNAP_COMPLETE"
  | .evtForce _ _ _ => "EVT_FORCE"
  | .evtClear _ _ _ => "EVT_CLEAR"
  | .evtEnableWrite _ _ _ => "EVT_ENABLE_WRITE"
  | .msixSend _ => "MSIX_SEND"
  | .scratchpadAccess _ _ => "SCRATCHPAD_ACCESS"
  | .cwWindowAccess _ _ _ => "CW_WINDOW_ACCESS"
  | .pwInboundAccess _ _ => "PW_INBOUND_ACCESS"
  | .pwCommit _ _ => "PW_COMMIT"
  | .pwCommitSwitch => "PW_COMMIT_SWITCH"
  | .bmeCleared => "BME_CLEARED"
  | .bmeSet _ _ _ _ _ => "BME_SET"
  | .d3hotEntry => "D3HOT_ENTRY"
  | .d3hotExit => "D3HOT_EXIT"
  | .ltrEnable _ _ _ => "LTR_ENABLE"
  | .aspmL1Entry => "ASPM_L1_ENTRY"
  | .flr => "FLR"
  | .flrDone => "FLR_DONE"
  | .linkDown => "LINK_DOWN"
  | .hotReset => "HOT_RESET"
  | .linkUp _ _ => "LINK_UP"
  | .linkChange _ _ => "LINK_CHANGE"
  | .inboundPoisonedWrite _ _ => "INBOUND_POISONED_WRITE"
  | .mbDoorbell _ _ _ => "MB_DOORBELL"
  | .mbCommandStart _ => "MB_COMMAND_START"
  | .cwCfgWrite _ _ _ => "CW_CFG_WRITE"
  | .cwProdWrite _ _ _ => "CW_PROD_WRITE"
  | .cwConsWrite _ _ _ => "CW_CONS_WRITE"
  | .cwStall _ => "CW_STALL"
  | .summitLockstep => "SUMMIT_LOCKSTEP"
  | .summitWatchdog => "SUMMIT_WATCHDOG"
  | .summitReady => "SUMMIT_READY"
  | .nop _ => "NOP"
  | .fwStage _ => "FW_STAGE"
  | .fwCommit _ => "FW_COMMIT"
  | .fwInfo _ => "FW_INFO"
  | .dieTempSample _ => "DIE_TEMP_SAMPLE"
  | .railMonitor _ => "RAIL_MONITOR"
  | .extFaultIn => "EXT_FAULT_IN"
  | .fltSafeRelease _ _ => "FLT_SAFE_RELEASE"
  | .fltHistPop _ _ => "FLT_HIST_POP"
  | .fltStatusClear _ _ _ => "FLT_STATUS_CLEAR"
  | .fltSevWrite _ _ _ => "FLT_SEV_WRITE"
  | .fltCtrlWrite _ _ => "FLT_CTRL_WRITE"
  | .collectorParity => "COLLECTOR_PARITY"
  | .sramEccError _ _ _ _ => "SRAM_ECC_ERROR"
  | .sramCeInterval => "SRAM_CE_INTERVAL"
  | .scrubPassDone _ _ => "SCRUB_PASS_DONE"
  | .scrubLate _ => "SCRUB_LATE"
  | .logRead _ => "LOG_READ"
  | .marchRun _ => "MARCH_RUN"
  | .devSelftest _ => "DEV_SELFTEST"
  | .scrubCfg _ => "SCRUB_CFG"
  | .faultInject _ => "FAULT_INJECT"
  | .powerOn => "POWER_ON"
  | .coreBrownout => "CORE_BROWNOUT"
  | .coldReset => "COLD_RESET"
  | .perstAssert => "PERST_ASSERT"
  | .perstRelease => "PERST_RELEASE"
  | .rlPeerFaultEnd _ => "RL_PEER_FAULT_END"
  | .trigoutContention _ => "TRIGOUT_CONTENTION"
  | .railBackInRange _ => "RAIL_BACK_IN_RANGE"
  | .extFaultInEnd => "EXT_FAULT_IN_END"
  | .marchDone _ _ _ _ _ => "MARCH_DONE"
  | .fwStaged _ _ _ => "FW_STAGED"
  | .fwCommitted _ _ => "FW_COMMITTED"
  | .selftestDone _ _ => "SELFTEST_DONE"

/-- A constructor stands where the opcode table has its mnemonic. -/
def Statement (i : Instr) : Prop := tableRow i.ctorIdx = some (mnemonic i)

theorem devInfo (m : Fin 8) : Statement (.devInfo m) :=
  (rfl : tableRow 0 = some "DEV_INFO")
theorem acqStart (m : Fin 8) : Statement (.acqStart m) :=
  (rfl : tableRow 1 = some "ACQ_START")
theorem epochCommit (m : Fin 8) : Statement (.epochCommit m) :=
  (rfl : tableRow 2 = some "EPOCH_COMMIT")
theorem acqStop (m : Fin 8) : Statement (.acqStop m) :=
  (rfl : tableRow 3 = some "ACQ_STOP")
theorem epochBoundary : Statement (.epochBoundary) :=
  (rfl : tableRow 4 = some "EPOCH_BOUNDARY")
theorem intakeResume (row : Nat) : Statement (.intakeResume row) :=
  (rfl : tableRow 5 = some "INTAKE_RESUME")
theorem epochCloseEmit : Statement (.epochCloseEmit) :=
  (rfl : tableRow 6 = some "EPOCH_CLOSE_EMIT")
theorem epochOpenEmit : Statement (.epochOpenEmit) :=
  (rfl : tableRow 7 = some "EPOCH_OPEN_EMIT")
theorem rowEncode : Statement (.rowEncode) :=
  (rfl : tableRow 8 = some "ROW_ENCODE")
theorem ringRowWrite : Statement (.ringRowWrite) :=
  (rfl : tableRow 9 = some "RING_ROW_WRITE")
theorem ringRateEval : Statement (.ringRateEval) :=
  (rfl : tableRow 10 = some "RING_RATE_EVAL")
theorem retRowRead (errs : List (Nat × EccErr)) : Statement (.retRowRead errs) :=
  (rfl : tableRow 11 = some "RET_ROW_READ")
theorem ringScrubRead (line : Nat) (err : EccErr) : Statement (.ringScrubRead line err) :=
  (rfl : tableRow 12 = some "RING_SCRUB_READ")
theorem ringCeInterval : Statement (.ringCeInterval) :=
  (rfl : tableRow 13 = some "RING_CE_INTERVAL")
theorem bar2Read (off len : Nat) (errs : List (Nat × EccErr)) : Statement (.bar2Read off len errs) :=
  (rfl : tableRow 14 = some "BAR2_READ")
theorem bar2Write (off : Nat) (data : List Byte) : Statement (.bar2Write off data) :=
  (rfl : tableRow 15 = some "BAR2_WRITE")
theorem ringTagRead (wide : Bool) : Statement (.ringTagRead wide) :=
  (rfl : tableRow 16 = some "RING_TAG_READ")
theorem ringCfg (m : Fin 8) : Statement (.ringCfg m) :=
  (rfl : tableRow 17 = some "RING_CFG")
theorem podPresenceLow (p : Fin 16) : Statement (.podPresenceLow p) :=
  (rfl : tableRow 18 = some "POD_PRESENCE_LOW")
theorem podDebounceDone (p : Fin 16) (low : Bool) : Statement (.podDebounceDone p low) :=
  (rfl : tableRow 19 = some "POD_DEBOUNCE_DONE")
theorem descriptorReadDone (p : Fin 16) (desc : List Byte) : Statement (.descriptorReadDone p desc) :=
  (rfl : tableRow 20 = some "DESCRIPTOR_READ_DONE")
theorem descriptorReadError (p : Fin 16) : Statement (.descriptorReadError p) :=
  (rfl : tableRow 21 = some "DESCRIPTOR_READ_ERROR")
theorem podPowerGoodCheck (p : Fin 16) (mv ma : Nat) : Statement (.podPowerGoodCheck p mv ma) :=
  (rfl : tableRow 22 = some "POD_POWER_GOOD_CHECK")
theorem podJoin (p : Fin 16) : Statement (.podJoin p) :=
  (rfl : tableRow 23 = some "POD_JOIN")
theorem podRemoval (p : Fin 16) : Statement (.podRemoval p) :=
  (rfl : tableRow 24 = some "POD_REMOVAL")
theorem podSupplyFault (p : Fin 16) : Statement (.podSupplyFault p) :=
  (rfl : tableRow 25 = some "POD_SUPPLY_FAULT")
theorem podOvervolt (p : Fin 16) : Statement (.podOvervolt p) :=
  (rfl : tableRow 26 = some "POD_OVERVOLT")
theorem podPower (m : Fin 8) : Statement (.podPower m) :=
  (rfl : tableRow 27 = some "POD_POWER")
theorem podInfo (m : Fin 8) (reread : Option (List Byte)) : Statement (.podInfo m reread) :=
  (rfl : tableRow 28 = some "POD_INFO")
theorem telemPeriod : Statement (.telemPeriod) :=
  (rfl : tableRow 29 = some "TELEM_PERIOD")
theorem telemReadDone (p : Fin 16) (temp : Option (BitVec 16)) : Statement (.telemReadDone p temp) :=
  (rfl : tableRow 30 = some "TELEM_READ_DONE")
theorem keyPress (k : Fin 8) : Statement (.keyPress k) :=
  (rfl : tableRow 31 = some "KEY_PRESS")
theorem keyRelease (k : Fin 8) : Statement (.keyRelease k) :=
  (rfl : tableRow 32 = some "KEY_RELEASE")
theorem comparatorEvent (n : Fin 272) (upper : Bool) (out : Bool) (grid : Nat) :
    Statement (.comparatorEvent n upper out grid) :=
  (rfl : tableRow 33 = some "COMPARATOR_EVENT")
theorem calRotationStart (p : Fin 16) : Statement (.calRotationStart p) :=
  (rfl : tableRow 34 = some "CAL_ROTATION_START")
theorem calSwapStart (p : Fin 16) : Statement (.calSwapStart p) :=
  (rfl : tableRow 35 = some "CAL_SWAP_START")
theorem calShadowDone (p : Fin 16) (passes : List CalPass) : Statement (.calShadowDone p passes) :=
  (rfl : tableRow 36 = some "CAL_SHADOW_DONE")
theorem calSwap (p : Fin 16) : Statement (.calSwap p) :=
  (rfl : tableRow 37 = some "CAL_SWAP")
theorem calSwapAbort (p : Fin 16) : Statement (.calSwapAbort p) :=
  (rfl : tableRow 38 = some "CAL_SWAP_ABORT")
theorem calPairDone (p : Fin 16) (pair : Fin 19) (ok : Bool) (trimU trimL : Int) :
    Statement (.calPairDone p pair ok trimU trimL) :=
  (rfl : tableRow 39 = some "CAL_PAIR_DONE")
theorem calRun (m : Fin 8) : Statement (.calRun m) :=
  (rfl : tableRow 40 = some "CAL_RUN")
theorem calStatus (m : Fin 8) : Statement (.calStatus m) :=
  (rfl : tableRow 41 = some "CAL_STATUS")
theorem chAliasWrite (off : Nat) (v : Word) (be : BitVec 4) : Statement (.chAliasWrite off v be) :=
  (rfl : tableRow 42 = some "CH_ALIAS_WRITE")
theorem chAliasRead (off : Nat) : Statement (.chAliasRead off) :=
  (rfl : tableRow 43 = some "CH_ALIAS_READ")
theorem trvStep (j : Fin 4) (sample : Nat) : Statement (.trvStep j sample) :=
  (rfl : tableRow 44 = some "TRV_STEP")
theorem qualTimeout (n : Fin 272) : Statement (.qualTimeout n) :=
  (rfl : tableRow 45 = some "QUAL_TIMEOUT")
theorem fabTimerExpire (t : Fin 16) : Statement (.fabTimerExpire t) :=
  (rfl : tableRow 46 = some "FAB_TIMER_EXPIRE")
theorem counterAtLimit (c : Fin 32) : Statement (.counterAtLimit c) :=
  (rfl : tableRow 47 = some "COUNTER_AT_LIMIT")
theorem triginHigh (x : Fin 4) (sample : Nat) : Statement (.triginHigh x sample) :=
  (rfl : tableRow 48 = some "TRIGIN_HIGH")
theorem fabCfg (m : Fin 8) : Statement (.fabCfg m) :=
  (rfl : tableRow 49 = some "FAB_CFG")
theorem trvLoad (m : Fin 8) : Statement (.trvLoad m) :=
  (rfl : tableRow 50 = some "TRV_LOAD")
theorem trvArm (m : Fin 8) : Statement (.trvArm m) :=
  (rfl : tableRow 51 = some "TRV_ARM")
theorem trvDisarm (m : Fin 8) : Statement (.trvDisarm m) :=
  (rfl : tableRow 52 = some "TRV_DISARM")
theorem trvOutCfg (m : Fin 8) : Statement (.trvOutCfg m) :=
  (rfl : tableRow 53 = some "TRV_OUT_CFG")
theorem trvArmTarget (j : Fin 4) : Statement (.trvArmTarget j) :=
  (rfl : tableRow 54 = some "TRV_ARM_TARGET")
theorem trigoutPulseEnd (x : Fin 4) : Statement (.trigoutPulseEnd x) :=
  (rfl : tableRow 55 = some "TRIGOUT_PULSE_END")
theorem retRowEmit : Statement (.retRowEmit) :=
  (rfl : tableRow 56 = some "RET_ROW_EMIT")
theorem logFrameDue : Statement (.logFrameDue) :=
  (rfl : tableRow 57 = some "LOG_FRAME_DUE")
theorem retainSet (m : Fin 8) : Statement (.retainSet m) :=
  (rfl : tableRow 58 = some "RETAIN_SET")
theorem mark (m : Fin 8) : Statement (.mark m) :=
  (rfl : tableRow 59 = some "MARK")
theorem compressFrameIn : Statement (.compressFrameIn) :=
  (rfl : tableRow 60 = some "COMPRESS_FRAME_IN")
theorem blockFlushTimeout : Statement (.blockFlushTimeout) :=
  (rfl : tableRow 61 = some "BLOCK_FLUSH_TIMEOUT")
theorem laneBlockDone (lane : Fin 8) (packed : List Byte) : Statement (.laneBlockDone lane packed) :=
  (rfl : tableRow 62 = some "LANE_BLOCK_DONE")
theorem packetOpen : Statement (.packetOpen) :=
  (rfl : tableRow 63 = some "PACKET_OPEN")
theorem packetClose : Statement (.packetClose) :=
  (rfl : tableRow 64 = some "PACKET_CLOSE")
theorem eqBankSwap : Statement (.eqBankSwap) :=
  (rfl : tableRow 65 = some "EQ_BANK_SWAP")
theorem exportChunkClose : Statement (.exportChunkClose) :=
  (rfl : tableRow 66 = some "EXPORT_CHUNK_CLOSE")
theorem flushReadCpl (tag : Nat) (ok : Bool) (poisoned : Bool) : Statement (.flushReadCpl tag ok poisoned) :=
  (rfl : tableRow 67 = some "FLUSH_READ_CPL")
theorem flushReadTimeout (tag : Nat) : Statement (.flushReadTimeout tag) :=
  (rfl : tableRow 68 = some "FLUSH_READ_TIMEOUT")
theorem cplUnexpected (tag : Nat) : Statement (.cplUnexpected tag) :=
  (rfl : tableRow 69 = some "CPL_UNEXPECTED")
theorem tagQuarantineEnd (tag : Nat) : Statement (.tagQuarantineEnd tag) :=
  (rfl : tableRow 70 = some "TAG_QUARANTINE_END")
theorem eqPointerMismatch : Statement (.eqPointerMismatch) :=
  (rfl : tableRow 71 = some "EQ_POINTER_MISMATCH")
theorem eqResetDone : Statement (.eqResetDone) :=
  (rfl : tableRow 72 = some "EQ_RESET_DONE")
theorem expCfg (m : Fin 8) : Statement (.expCfg m) :=
  (rfl : tableRow 73 = some "EXP_CFG")
theorem pullWindowRead (off len : Nat) : Statement (.pullWindowRead off len) :=
  (rfl : tableRow 74 = some "PULL_WINDOW_READ")
theorem pullWindowWrite (off : Nat) (data : List Byte) : Statement (.pullWindowWrite off data) :=
  (rfl : tableRow 75 = some "PULL_WINDOW_WRITE")
theorem expPullRelease (v : Word) (be : BitVec 4) : Statement (.expPullRelease v be) :=
  (rfl : tableRow 76 = some "EXP_PULL_RELEASE")
theorem expDurableAck (v : Word64) (be : BitVec 8) : Statement (.expDurableAck v be) :=
  (rfl : tableRow 77 = some "EXP_DURABLE_ACK")
theorem padInsert : Statement (.padInsert) :=
  (rfl : tableRow 78 = some "PAD_INSERT")
theorem extentOpen : Statement (.extentOpen) :=
  (rfl : tableRow 79 = some "EXTENT_OPEN")
theorem extCloseDeadline : Statement (.extCloseDeadline) :=
  (rfl : tableRow 80 = some "EXT_CLOSE_DEADLINE")
theorem mapSlotWrite (ok : Bool) : Statement (.mapSlotWrite ok) :=
  (rfl : tableRow 81 = some "MAP_SLOT_WRITE")
theorem quietRecordWrite : Statement (.quietRecordWrite) :=
  (rfl : tableRow 82 = some "QUIET_RECORD_WRITE")
theorem talusRecovery (ue : List Nat) : Statement (.talusRecovery ue) :=
  (rfl : tableRow 83 = some "TALUS_RECOVERY")
theorem talusFormat (m : Fin 8) : Statement (.talusFormat m) :=
  (rfl : tableRow 84 = some "TALUS_FORMAT")
theorem talusWindowSet (m : Fin 8) : Statement (.talusWindowSet m) :=
  (rfl : tableRow 85 = some "TALUS_WINDOW_SET")
theorem talusDriveAttach (m : Fin 8) : Statement (.talusDriveAttach m) :=
  (rfl : tableRow 86 = some "TALUS_DRIVE_ATTACH")
theorem talusCfg (m : Fin 8) : Statement (.talusCfg m) :=
  (rfl : tableRow 87 = some "TALUS_CFG")
theorem talusMapRead (m : Fin 8) : Statement (.talusMapRead m) :=
  (rfl : tableRow 88 = some "TALUS_MAP_READ")
theorem nvmeCqEntry (d : Fin 4) (entry : List Byte) : Statement (.nvmeCqEntry d entry) :=
  (rfl : tableRow 89 = some "NVME_CQ_ENTRY")
theorem nvmeCmdTimeout (d : Fin 4) : Statement (.nvmeCmdTimeout d) :=
  (rfl : tableRow 90 = some "NVME_CMD_TIMEOUT")
theorem talusArchivedWrite (v : Word64) (be : BitVec 8) : Statement (.talusArchivedWrite v be) :=
  (rfl : tableRow 91 = some "TALUS_ARCHIVED_WRITE")
theorem talusGeometryLock (v : Word) (be : BitVec 4) : Statement (.talusGeometryLock v be) :=
  (rfl : tableRow 92 = some "TALUS_GEOMETRY_LOCK")
theorem recWindowRead (off len : Nat) : Statement (.recWindowRead off len) :=
  (rfl : tableRow 93 = some "REC_WINDOW_READ")
theorem recWindowWrite (off : Nat) (data : List Byte) : Statement (.recWindowWrite off data) :=
  (rfl : tableRow 94 = some "REC_WINDOW_WRITE")
theorem mapScrubRead (err : EccErr) : Statement (.mapScrubRead err) :=
  (rfl : tableRow 95 = some "MAP_SCRUB_READ")
theorem sealDue : Statement (.sealDue) :=
  (rfl : tableRow 96 = some "SEAL_DUE")
theorem sealStart : Statement (.sealStart) :=
  (rfl : tableRow 97 = some "SEAL_START")
theorem sealSignDone : Statement (.sealSignDone) :=
  (rfl : tableRow 98 = some "SEAL_SIGN_DONE")
theorem sealDeadline : Statement (.sealDeadline) :=
  (rfl : tableRow 99 = some "SEAL_DEADLINE")
theorem sealIndexWrite (ok : Bool) : Statement (.sealIndexWrite ok) :=
  (rfl : tableRow 100 = some "SEAL_INDEX_WRITE")
theorem keccakSelftest (fail : List (Fin 12)) : Statement (.keccakSelftest fail) :=
  (rfl : tableRow 101 = some "KECCAK_SELFTEST")
theorem sealCfg (m : Fin 8) : Statement (.sealCfg m) :=
  (rfl : tableRow 102 = some "SEAL_CFG")
theorem sealNow (m : Fin 8) : Statement (.sealNow m) :=
  (rfl : tableRow 103 = some "SEAL_NOW")
theorem identityGet (m : Fin 8) : Statement (.identityGet m) :=
  (rfl : tableRow 104 = some "IDENTITY_GET")
theorem attest (m : Fin 8) : Statement (.attest m) :=
  (rfl : tableRow 105 = some "ATTEST")
theorem attestDone (m : Fin 8) : Statement (.attestDone m) :=
  (rfl : tableRow 106 = some "ATTEST_DONE")
theorem fwBootVerify (a b : SlotImage) : Statement (.fwBootVerify a b) :=
  (rfl : tableRow 107 = some "FW_BOOT_VERIFY")
theorem timeAIncr (v : Word64) (be : BitVec 8) : Statement (.timeAIncr v be) :=
  (rfl : tableRow 108 = some "TIME_A_INCR")
theorem timeAStep (v : Word64) (be : BitVec 8) : Statement (.timeAStep v be) :=
  (rfl : tableRow 109 = some "TIME_A_STEP")
theorem timeAStepApply : Statement (.timeAStepApply) :=
  (rfl : tableRow 110 = some "TIME_A_STEP_APPLY")
theorem timeAStepLimit (v : Word) (be : BitVec 4) : Statement (.timeAStepLimit v be) :=
  (rfl : tableRow 111 = some "TIME_A_STEP_LIMIT")
theorem timeIntegrity (copy1 : Time) : Statement (.timeIntegrity copy1) :=
  (rfl : tableRow 112 = some "TIME_INTEGRITY")
theorem timeBIncr (v : Word64) (be : BitVec 8) : Statement (.timeBIncr v be) :=
  (rfl : tableRow 113 = some "TIME_B_INCR")
theorem timeBStep (v : Word64) (be : BitVec 8) : Statement (.timeBStep v be) :=
  (rfl : tableRow 114 = some "TIME_B_STEP")
theorem timeBStepApply : Statement (.timeBStepApply) :=
  (rfl : tableRow 115 = some "TIME_B_STEP_APPLY")
theorem timeSourceSet (m : Fin 8) : Statement (.timeSourceSet m) :=
  (rfl : tableRow 116 = some "TIME_SOURCE_SET")
theorem timeBSourceSwitch : Statement (.timeBSourceSwitch) :=
  (rfl : tableRow 117 = some "TIME_B_SOURCE_SWITCH")
theorem timeBRevert : Statement (.timeBRevert) :=
  (rfl : tableRow 118 = some "TIME_B_REVERT")
theorem ppsInEdge (e : PpsEdge) : Statement (.ppsInEdge e) :=
  (rfl : tableRow 119 = some "PPS_IN_EDGE")
theorem ppsInMissing : Statement (.ppsInMissing) :=
  (rfl : tableRow 120 = some "PPS_IN_MISSING")
theorem ppsOutStart : Statement (.ppsOutStart) :=
  (rfl : tableRow 121 = some "PPS_OUT_START")
theorem ppsOutEnd : Statement (.ppsOutEnd) :=
  (rfl : tableRow 122 = some "PPS_OUT_END")
theorem encInputChange (e : Fin 2) (a b z : Bool) : Statement (.encInputChange e a b z) :=
  (rfl : tableRow 123 = some "ENC_INPUT_CHANGE")
theorem mainsZcEdge (rising : Bool) : Statement (.mainsZcEdge rising) :=
  (rfl : tableRow 124 = some "MAINS_ZC_EDGE")
theorem mainsLost : Statement (.mainsLost) :=
  (rfl : tableRow 125 = some "MAINS_LOST")
theorem axisCfg (m : Fin 8) : Statement (.axisCfg m) :=
  (rfl : tableRow 126 = some "AXIS_CFG")
theorem schArm (n : Fin 64) : Statement (.schArm n) :=
  (rfl : tableRow 127 = some "SCH_ARM")
theorem schDisarm (n : Fin 64) : Statement (.schDisarm n) :=
  (rfl : tableRow 128 = some "SCH_DISARM")
theorem schSlotReached (n : Fin 64) : Statement (.schSlotReached n) :=
  (rfl : tableRow 129 = some "SCH_SLOT_REACHED")
theorem schActionExecute : Statement (.schActionExecute) :=
  (rfl : tableRow 130 = some "SCH_ACTION_EXECUTE")
theorem schSf (v : Word) (be : BitVec 4) : Statement (.schSf v be) :=
  (rfl : tableRow 131 = some "SCH_SF")
theorem rlPortUp (p : Fin 3) (serial : List Byte) (restarts : Byte) : Statement (.rlPortUp p serial restarts) :=
  (rfl : tableRow 132 = some "RL_PORT_UP")
theorem rlPortDown (p : Fin 3) : Statement (.rlPortDown p) :=
  (rfl : tableRow 133 = some "RL_PORT_DOWN")
theorem rlTrainTimeout (p : Fin 3) : Statement (.rlTrainTimeout p) :=
  (rfl : tableRow 134 = some "RL_TRAIN_TIMEOUT")
theorem faultIdleRx (p : Fin 3) : Statement (.faultIdleRx p) :=
  (rfl : tableRow 135 = some "FAULT_IDLE_RX")
theorem rlFrameBad (r : RxBlocks) : Statement (.rlFrameBad r) :=
  (rfl : tableRow 136 = some "RL_FRAME_BAD")
theorem timeFrameRx (p : Fin 3) (f : List Byte) : Statement (.timeFrameRx p f) :=
  (rfl : tableRow 137 = some "TIME_FRAME_RX")
theorem timeFrameTx (p : Fin 3) : Statement (.timeFrameTx p) :=
  (rfl : tableRow 138 = some "TIME_FRAME_TX")
theorem rlTimeLoss (p : Fin 3) : Statement (.rlTimeLoss p) :=
  (rfl : tableRow 139 = some "RL_TIME_LOSS")
theorem delayReqTx (p : Fin 3) : Statement (.delayReqTx p) :=
  (rfl : tableRow 140 = some "DELAY_REQ_TX")
theorem delayReqRx (p : Fin 3) (f : List Byte) : Statement (.delayReqRx p f) :=
  (rfl : tableRow 141 = some "DELAY_REQ_RX")
theorem delayRespRx (p : Fin 3) (f : List Byte) : Statement (.delayRespRx p f) :=
  (rfl : tableRow 142 = some "DELAY_RESP_RX")
theorem creditAckRx (p : Fin 3) (f : List Byte) : Statement (.creditAckRx p f) :=
  (rfl : tableRow 143 = some "CREDIT_ACK_RX")
theorem fireFrameRx (p : Fin 3) (f : List Byte) : Statement (.fireFrameRx p f) :=
  (rfl : tableRow 144 = some "FIRE_FRAME_RX")
theorem armFrameRx (p : Fin 3) (f : List Byte) : Statement (.armFrameRx p f) :=
  (rfl : tableRow 145 = some "ARM_FRAME_RX")
theorem disarmFrameRx (p : Fin 3) (f : List Byte) : Statement (.disarmFrameRx p f) :=
  (rfl : tableRow 146 = some "DISARM_FRAME_RX")
theorem timedFrameRx (p : Fin 3) (f : List Byte) : Statement (.timedFrameRx p f) :=
  (rfl : tableRow 147 = some "TIMED_FRAME_RX")
theorem rlTimedLaunch (p : Fin 3) : Statement (.rlTimedLaunch p) :=
  (rfl : tableRow 148 = some "RL_TIMED_LAUNCH")
theorem rlTimedApply (i : Nat) : Statement (.rlTimedApply i) :=
  (rfl : tableRow 149 = some "RL_TIMED_APPLY")
theorem tunnelReqRx (p : Fin 3) (f : List Byte) : Statement (.tunnelReqRx p f) :=
  (rfl : tableRow 150 = some "TUNNEL_REQ_RX")
theorem tunnelRespRx (p : Fin 3) (f : List Byte) : Statement (.tunnelRespRx p f) :=
  (rfl : tableRow 151 = some "TUNNEL_RESP_RX")
theorem rlTunnelTimeout (m : Fin 8) : Statement (.rlTunnelTimeout m) :=
  (rfl : tableRow 152 = some "RL_TUNNEL_TIMEOUT")
theorem recordFrameRx (p : Fin 3) (f : List Byte) : Statement (.recordFrameRx p f) :=
  (rfl : tableRow 153 = some "RECORD_FRAME_RX")
theorem discoverRx (p : Fin 3) (f : List Byte) : Statement (.discoverRx p f) :=
  (rfl : tableRow 154 = some "DISCOVER_RX")
theorem discoverReplyRx (p : Fin 3) (f : List Byte) : Statement (.discoverReplyRx p f) :=
  (rfl : tableRow 155 = some "DISCOVER_REPLY_RX")
theorem assignRx (p : Fin 3) (f : List Byte) : Statement (.assignRx p f) :=
  (rfl : tableRow 156 = some "ASSIGN_RX")
theorem rlDiscoverAssign : Statement (.rlDiscoverAssign) :=
  (rfl : tableRow 157 = some "RL_DISCOVER_ASSIGN")
theorem rlOriginExpire (i : Nat) : Statement (.rlOriginExpire i) :=
  (rfl : tableRow 158 = some "RL_ORIGIN_EXPIRE")
theorem rlDiscover (m : Fin 8) : Statement (.rlDiscover m) :=
  (rfl : tableRow 159 = some "RL_DISCOVER")
theorem rlPortCfg (m : Fin 8) : Statement (.rlPortCfg m) :=
  (rfl : tableRow 160 = some "RL_PORT_CFG")
theorem rlTunnel (m : Fin 8) : Statement (.rlTunnel m) :=
  (rfl : tableRow 161 = some "RL_TUNNEL")
theorem rlTimed (m : Fin 8) : Statement (.rlTimed m) :=
  (rfl : tableRow 162 = some "RL_TIMED")
theorem pllsLocked (phErr : Int) : Statement (.pllsLocked phErr) :=
  (rfl : tableRow 163 = some "PLLS_LOCKED")
theorem pllsUnlocked (phErr : Int) : Statement (.pllsUnlocked phErr) :=
  (rfl : tableRow 164 = some "PLLS_UNLOCKED")
theorem plllLocked : Statement (.plllLocked) :=
  (rfl : tableRow 165 = some "PLLL_LOCKED")
theorem plllUnlocked : Statement (.plllUnlocked) :=
  (rfl : tableRow 166 = some "PLLL_UNLOCKED")
theorem dcoRange (r : DcoReading) : Statement (.dcoRange r) :=
  (rfl : tableRow 167 = some "DCO_RANGE")
theorem dcoFail : Statement (.dcoFail) :=
  (rfl : tableRow 168 = some "DCO_FAIL")
theorem refLost (src : Fin 5) (missing : Bool) (avgPpb : Int) : Statement (.refLost src missing avgPpb) :=
  (rfl : tableRow 169 = some "REF_LOST")
theorem refGood (src : Fin 5) : Statement (.refGood src) :=
  (rfl : tableRow 170 = some "REF_GOOD")
theorem refQualified (dS dL : Int) : Statement (.refQualified dS dL) :=
  (rfl : tableRow 171 = some "REF_QUALIFIED")
theorem refPhaseHit (dS dL : Int) : Statement (.refPhaseHit dS dL) :=
  (rfl : tableRow 172 = some "REF_PHASE_HIT")
theorem realignDone : Statement (.realignDone) :=
  (rfl : tableRow 173 = some "REALIGN_DONE")
theorem pllCfg (m : Fin 8) : Statement (.pllCfg m) :=
  (rfl : tableRow 174 = some "PLL_CFG")
theorem bar0Write (off : Nat) (bytes : List (Option Byte)) : Statement (.bar0Write off bytes) :=
  (rfl : tableRow 175 = some "BAR0_WRITE")
theorem regAliasWrite (op : AliasOp) (off : Nat) (v : Word) (be : BitVec 4) : Statement (.regAliasWrite op off v be) :=
  (rfl : tableRow 176 = some "REG_ALIAS_WRITE")
theorem reg64LowRead (off : Nat) : Statement (.reg64LowRead off) :=
  (rfl : tableRow 177 = some "REG64_LOW_READ")
theorem cfgUnlock (v : Word) (be : BitVec 4) : Statement (.cfgUnlock v be) :=
  (rfl : tableRow 178 = some "CFG_UNLOCK")
theorem cfgLatchRef (v : Word) (be : BitVec 4) : Statement (.cfgLatchRef v be) :=
  (rfl : tableRow 179 = some "CFG_LATCH_REF")
theorem cfgCommit (v : Word) (be : BitVec 4) : Statement (.cfgCommit v be) :=
  (rfl : tableRow 180 = some "CFG_COMMIT")
theorem cfgOpen (v : Word) (be : BitVec 4) : Statement (.cfgOpen v be) :=
  (rfl : tableRow 181 = some "CFG_OPEN")
theorem cfgScanPass (upset : List (Nat × Byte)) : Statement (.cfgScanPass upset) :=
  (rfl : tableRow 182 = some "CFG_SCAN_PASS")
theorem devSoftReset (v : Word) (be : BitVec 4) : Statement (.devSoftReset v be) :=
  (rfl : tableRow 183 = some "DEV_SOFT_RESET")
theorem devReady : Statement (.devReady) :=
  (rfl : tableRow 184 = some "DEV_READY")
theorem snapTake (v : Word) (be : BitVec 4) : Statement (.snapTake v be) :=
  (rfl : tableRow 185 = some "SNAP_TAKE")
theorem snapComplete : Statement (.snapComplete) :=
  (rfl : tableRow 186 = some "SNAP_COMPLETE")
theorem evtForce (g : Fin 16) (v : Word) (be : BitVec 4) : Statement (.evtForce g v be) :=
  (rfl : tableRow 187 = some "EVT_FORCE")
theorem evtClear (g : Fin 16) (v : Word) (be : BitVec 4) : Statement (.evtClear g v be) :=
  (rfl : tableRow 188 = some "EVT_CLEAR")
theorem evtEnableWrite (g : Fin 16) (v : Word) (be : BitVec 4) : Statement (.evtEnableWrite g v be) :=
  (rfl : tableRow 189 = some "EVT_ENABLE_WRITE")
theorem msixSend (vec : Fin 64) : Statement (.msixSend vec) :=
  (rfl : tableRow 190 = some "MSIX_SEND")
theorem scratchpadAccess (rid : Nat) (acc : MemAccess) : Statement (.scratchpadAccess rid acc) :=
  (rfl : tableRow 191 = some "SCRATCHPAD_ACCESS")
theorem cwWindowAccess (rid : Nat) (k : Fin 8) (acc : MemAccess) : Statement (.cwWindowAccess rid k acc) :=
  (rfl : tableRow 192 = some "CW_WINDOW_ACCESS")
theorem pwInboundAccess (rid : Nat) (acc : MemAccess) : Statement (.pwInboundAccess rid acc) :=
  (rfl : tableRow 193 = some "PW_INBOUND_ACCESS")
theorem pwCommit (v : Word) (be : BitVec 4) : Statement (.pwCommit v be) :=
  (rfl : tableRow 194 = some "PW_COMMIT")
theorem pwCommitSwitch : Statement (.pwCommitSwitch) :=
  (rfl : tableRow 195 = some "PW_COMMIT_SWITCH")
theorem bmeCleared : Statement (.bmeCleared) :=
  (rfl : tableRow 196 = some "BME_CLEARED")
theorem bmeSet (msixEn funcMask tag10 aspmEn : Bool) (link : LinkCtl) :
    Statement (.bmeSet msixEn funcMask tag10 aspmEn link) :=
  (rfl : tableRow 197 = some "BME_SET")
theorem d3hotEntry : Statement (.d3hotEntry) :=
  (rfl : tableRow 198 = some "D3HOT_ENTRY")
theorem d3hotExit : Statement (.d3hotExit) :=
  (rfl : tableRow 199 = some "D3HOT_EXIT")
theorem ltrEnable (on : Bool) (maxSnoop maxNoSnoop : Nat) : Statement (.ltrEnable on maxSnoop maxNoSnoop) :=
  (rfl : tableRow 200 = some "LTR_ENABLE")
theorem aspmL1Entry : Statement (.aspmL1Entry) :=
  (rfl : tableRow 201 = some "ASPM_L1_ENTRY")
theorem flr : Statement (.flr) :=
  (rfl : tableRow 202 = some "FLR")
theorem flrDone : Statement (.flrDone) :=
  (rfl : tableRow 203 = some "FLR_DONE")
theorem linkDown : Statement (.linkDown) :=
  (rfl : tableRow 204 = some "LINK_DOWN")
theorem hotReset : Statement (.hotReset) :=
  (rfl : tableRow 205 = some "HOT_RESET")
theorem linkUp (gen width : Nat) : Statement (.linkUp gen width) :=
  (rfl : tableRow 206 = some "LINK_UP")
theorem linkChange (gen width : Nat) : Statement (.linkChange gen width) :=
  (rfl : tableRow 207 = some "LINK_CHANGE")
theorem inboundPoisonedWrite (e : RxError) (off : Nat) : Statement (.inboundPoisonedWrite e off) :=
  (rfl : tableRow 208 = some "INBOUND_POISONED_WRITE")
theorem mbDoorbell (m : Fin 8) (v : Word) (be : BitVec 4) : Statement (.mbDoorbell m v be) :=
  (rfl : tableRow 209 = some "MB_DOORBELL")
theorem mbCommandStart (m : Fin 8) : Statement (.mbCommandStart m) :=
  (rfl : tableRow 210 = some "MB_COMMAND_START")
theorem cwCfgWrite (k : Fin 8) (v : Word) (be : BitVec 4) : Statement (.cwCfgWrite k v be) :=
  (rfl : tableRow 211 = some "CW_CFG_WRITE")
theorem cwProdWrite (k : Fin 8) (v : Word) (be : BitVec 4) : Statement (.cwProdWrite k v be) :=
  (rfl : tableRow 212 = some "CW_PROD_WRITE")
theorem cwConsWrite (k : Fin 8) (v : Word) (be : BitVec 4) : Statement (.cwConsWrite k v be) :=
  (rfl : tableRow 213 = some "CW_CONS_WRITE")
theorem cwStall (k : Fin 8) : Statement (.cwStall k) :=
  (rfl : tableRow 214 = some "CW_STALL")
theorem summitLockstep : Statement (.summitLockstep) :=
  (rfl : tableRow 215 = some "SUMMIT_LOCKSTEP")
theorem summitWatchdog : Statement (.summitWatchdog) :=
  (rfl : tableRow 216 = some "SUMMIT_WATCHDOG")
theorem summitReady : Statement (.summitReady) :=
  (rfl : tableRow 217 = some "SUMMIT_READY")
theorem nop (m : Fin 8) : Statement (.nop m) :=
  (rfl : tableRow 218 = some "NOP")
theorem fwStage (m : Fin 8) : Statement (.fwStage m) :=
  (rfl : tableRow 219 = some "FW_STAGE")
theorem fwCommit (m : Fin 8) : Statement (.fwCommit m) :=
  (rfl : tableRow 220 = some "FW_COMMIT")
theorem fwInfo (m : Fin 8) : Statement (.fwInfo m) :=
  (rfl : tableRow 221 = some "FW_INFO")
theorem dieTempSample (t : BitVec 16) : Statement (.dieTempSample t) :=
  (rfl : tableRow 222 = some "DIE_TEMP_SAMPLE")
theorem railMonitor (l : RailLevel) : Statement (.railMonitor l) :=
  (rfl : tableRow 223 = some "RAIL_MONITOR")
theorem extFaultIn : Statement (.extFaultIn) :=
  (rfl : tableRow 224 = some "EXT_FAULT_IN")
theorem fltSafeRelease (v : Word) (be : BitVec 4) : Statement (.fltSafeRelease v be) :=
  (rfl : tableRow 225 = some "FLT_SAFE_RELEASE")
theorem fltHistPop (v : Word) (be : BitVec 4) : Statement (.fltHistPop v be) :=
  (rfl : tableRow 226 = some "FLT_HIST_POP")
theorem fltStatusClear (hi : Bool) (v : Word) (be : BitVec 4) : Statement (.fltStatusClear hi v be) :=
  (rfl : tableRow 227 = some "FLT_STATUS_CLEAR")
theorem fltSevWrite (i : Fin 4) (v : Word) (be : BitVec 4) : Statement (.fltSevWrite i v be) :=
  (rfl : tableRow 228 = some "FLT_SEV_WRITE")
theorem fltCtrlWrite (v : Word) (be : BitVec 4) : Statement (.fltCtrlWrite v be) :=
  (rfl : tableRow 229 = some "FLT_CTRL_WRITE")
theorem collectorParity : Statement (.collectorParity) :=
  (rfl : tableRow 230 = some "COLLECTOR_PARITY")
theorem sramEccError (mem : Nat) (word : Nat) (unit : Nat) (uncorrectable : Bool) :
    Statement (.sramEccError mem word unit uncorrectable) :=
  (rfl : tableRow 231 = some "SRAM_ECC_ERROR")
theorem sramCeInterval : Statement (.sramCeInterval) :=
  (rfl : tableRow 232 = some "SRAM_CE_INTERVAL")
theorem scrubPassDone (mem : Fin 11) (unit : Nat) : Statement (.scrubPassDone mem unit) :=
  (rfl : tableRow 233 = some "SCRUB_PASS_DONE")
theorem scrubLate (mem : Fin 11) : Statement (.scrubLate mem) :=
  (rfl : tableRow 234 = some "SCRUB_LATE")
theorem logRead (m : Fin 8) : Statement (.logRead m) :=
  (rfl : tableRow 235 = some "LOG_READ")
theorem marchRun (m : Fin 8) : Statement (.marchRun m) :=
  (rfl : tableRow 236 = some "MARCH_RUN")
theorem devSelftest (m : Fin 8) : Statement (.devSelftest m) :=
  (rfl : tableRow 237 = some "DEV_SELFTEST")
theorem scrubCfg (m : Fin 8) : Statement (.scrubCfg m) :=
  (rfl : tableRow 238 = some "SCRUB_CFG")
theorem faultInject (m : Fin 8) : Statement (.faultInject m) :=
  (rfl : tableRow 239 = some "FAULT_INJECT")
theorem powerOn : Statement (.powerOn) :=
  (rfl : tableRow 240 = some "POWER_ON")
theorem coreBrownout : Statement (.coreBrownout) :=
  (rfl : tableRow 241 = some "CORE_BROWNOUT")
theorem coldReset : Statement (.coldReset) :=
  (rfl : tableRow 242 = some "COLD_RESET")
theorem perstAssert : Statement (.perstAssert) :=
  (rfl : tableRow 243 = some "PERST_ASSERT")
theorem perstRelease : Statement (.perstRelease) :=
  (rfl : tableRow 244 = some "PERST_RELEASE")
theorem rlPeerFaultEnd (p : Fin 3) : Statement (.rlPeerFaultEnd p) :=
  (rfl : tableRow 245 = some "RL_PEER_FAULT_END")
theorem trigoutContention (x : Fin 4) : Statement (.trigoutContention x) :=
  (rfl : tableRow 246 = some "TRIGOUT_CONTENTION")
theorem railBackInRange (r : Nat) : Statement (.railBackInRange r) :=
  (rfl : tableRow 247 = some "RAIL_BACK_IN_RANGE")
theorem extFaultInEnd : Statement (.extFaultInEnd) :=
  (rfl : tableRow 248 = some "EXT_FAULT_IN_END")
theorem marchDone (m : Fin 8) (fails repaired firstFail us : Nat) : Statement (.marchDone m fails repaired firstFail us) :=
  (rfl : tableRow 249 = some "MARCH_DONE")
theorem fwStaged (m : Fin 8) (back : FlashRead) (flashOk : Bool) : Statement (.fwStaged m back flashOk) :=
  (rfl : tableRow 250 = some "FW_STAGED")
theorem fwCommitted (m : Fin 8) (flashOk : Bool) : Statement (.fwCommitted m flashOk) :=
  (rfl : tableRow 251 = some "FW_COMMITTED")
theorem selftestDone (m : Fin 8) (failed : Byte) : Statement (.selftestDone m failed) :=
  (rfl : tableRow 252 = some "SELFTEST_DONE")

end Sys2Proof.Laws.Names
end

