-- ==== Sys2Proof/Laws/Slh.lean ====
section
/-! SUPPORT. A signature that a key makes verifies under its public key (R353, R358). -/

namespace Sys2Proof.Machine

theorem leBytes_length (n v : Nat) : (leBytes n v).length = n := by
  induction n generalizing v with
  | zero => rfl
  | succ n ih => simp [leBytes, ih]

theorem keccakF_length (a : List Nat) : (keccakF a).length = 25 := by
  simp [keccakF, kRounds, kChiIota]

theorem kAbsorb_length (n : Nat) (bs : List Byte) (a : List Nat) (h : a.length = 25) : (kAbsorb n bs a).length = 25 := by
  induction n generalizing bs a with
  | zero => exact h
  | succ n ih => exact ih _ _ (keccakF_length _)

theorem flatMap_leBytes_length (l : List Nat) : (l.flatMap (leBytes 8)).length = 8 * l.length := by
  induction l with
  | nil => rfl
  | cons x l ih => simp [List.flatMap_cons, leBytes_length, ih]; omega

@[simp] theorem shake256_length (bs : List Byte) : (shake256 bs).length = 32 := by
  rw [shake256, flatMap_leBytes_length, List.length_take, kAbsorb_length _ _ _ (by rfl)]
  rfl

/-! ## Cutting a signature into its parts -/

theorem slhParts_flatten (l : List (List Byte)) (h : ∀ x ∈ l, x.length = 32) : slhParts l.length l.flatten = l := by
  induction l with
  | nil => rfl
  | cons x l ih =>
    have hx := h x (by simp)
    simp only [List.length_cons, slhParts, List.flatten_cons]
    rw [List.take_left' hx, List.drop_left' hx, ih fun y hy => h y (by simp [hy])]

theorem flatten_length (l : List (List Byte)) (h : ∀ x ∈ l, x.length = 32) : l.flatten.length = 32 * l.length := by
  induction l with
  | nil => rfl
  | cons x l ih =>
    simp only [List.flatten_cons, List.length_append, List.length_cons, h x (by simp), ih fun y hy => h y (by simp [hy])]
    omega

/-! ## Merkle trees -/

section tree
variable (leaf : Nat → List Byte) (join : Nat → Nat → List Byte → List Byte → List Byte)

/-- Joining a node with its sibling gives the parent. -/
theorem join_sibling (z i : Nat) :
    (if i % 2 = 0 then join (z + 1) (i / 2) (treeNode leaf join z i) (treeNode leaf join z (sibling i))
      else join (z + 1) (i / 2) (treeNode leaf join z (sibling i)) (treeNode leaf join z i)) =
      treeNode leaf join (z + 1) (i / 2) := by
  unfold sibling
  split
  · have h : 2 * (i / 2) = i := by omega
    simp [treeNode, h]
  · have h : 2 * (i / 2) = i - 1 := by omega
    have h' : i - 1 + 1 = i := by omega
    simp [treeNode, h, h']

theorem climb_node (h z i : Nat) :
    climb join z i (treeNode leaf join z i) ((List.range h).map fun j => treeNode leaf join (z + j) (sibling (i / 2 ^ j))) =
      treeNode leaf join (z + h) (i / 2 ^ h) := by
  induction h generalizing z i with
  | zero => simp [climb]
  | succ h ih =>
    rw [List.range_succ_eq_map, List.map_cons, List.map_map]
    simp only [climb, pow_zero, Nat.div_one, Nat.add_zero]
    rw [join_sibling]
    have e : (List.range h).map ((fun j => treeNode leaf join (z + j) (sibling (i / 2 ^ j))) ∘ Nat.succ) =
        (List.range h).map fun j => treeNode leaf join (z + 1 + j) (sibling (i / 2 / 2 ^ j)) := by
      apply List.map_congr_left
      intro j _
      simp only [Function.comp, Nat.succ_eq_add_one, Nat.div_div_eq_div_mul, pow_succ']
      rw [show z + (j + 1) = z + 1 + j by omega]
    rw [e, ih, Nat.div_div_eq_div_mul, pow_succ', show z + 1 + h = z + (h + 1) by omega]

/-- A leaf climbs along its authentication path to the node above it. -/
theorem climb_authPath (h i : Nat) : climb join 0 i (leaf i) (authPath leaf join h i) = treeNode leaf join h (i / 2 ^ h) := by
  have := climb_node leaf join h 0 i
  simpa [treeNode, authPath] using this

theorem treeNode_length (hl : ∀ i, (leaf i).length = 32) (hj : ∀ z i x y, (join z i x y).length = 32) (z i : Nat) :
    (treeNode leaf join z i).length = 32 := by
  cases z with
  | zero => exact hl i
  | succ z => exact hj _ _ _ _

end tree

/-! ## WOTS+ -/

theorem wotsChain_add (step : Nat → List Byte → List Byte) (i a b : Nat) (x : List Byte) :
    wotsChain step (i + a) b (wotsChain step i a x) = wotsChain step i (a + b) x := by
  induction a generalizing i x with
  | zero => simp [wotsChain]
  | succ a ih =>
    rw [show i + (a + 1) = i + 1 + a by omega, show a + 1 + b = (a + b) + 1 by omega]
    simp only [wotsChain]
    exact ih (i + 1) (step i x)

theorem wotsChain_length (step : Nat → List Byte → List Byte) (h : ∀ i x, (step i x).length = 32) (i n : Nat) (x : List Byte)
    (hx : x.length = 32) : (wotsChain step i n x).length = 32 := by
  induction n generalizing i x with
  | zero => exact hx
  | succ n ih => exact ih _ _ (h i x)

theorem slhDigits_lt (b n : Nat) (bs : List Byte) (x : Nat) (h : x ∈ slhDigits b n bs) : x < 2 ^ b := by
  simp only [slhDigits, List.mem_map] at h
  obtain ⟨i, _, rfl⟩ := h
  exact Nat.mod_lt _ (by positivity)

theorem wotsDigit_le (m : List Byte) (c : Nat) : wotsDigit m c ≤ 15 := by
  unfold wotsDigit
  rw [List.getD_eq_getElem?_getD]
  cases h : (wotsDigits m)[c]? with
  | none => simp
  | some x =>
    have hx := List.mem_of_getElem? h
    simp only [wotsDigits, List.mem_append] at hx
    rcases hx with hx | hx <;> exact Nat.le_of_lt_succ (by simpa using slhDigits_lt _ _ _ _ hx)

theorem getD_map_range {n c : Nat} (f : Nat → List Byte) (h : c < n) : ((List.range n).map f).getD c [] = f c := by
  simp [List.getD_eq_getElem?_getD, List.getElem?_map, List.getElem?_range h]

/-- A WOTS+ signature leads to the leaf of its key pair. -/
theorem wotsFrom_sign (key : SlhKey) (layer tree kp : Nat) (m : List Byte) :
    wotsFrom (pubSeed key) layer tree kp m (wotsSign key layer tree kp m) = wotsLeaf key layer tree kp := by
  unfold wotsFrom wotsLeaf
  congr 1
  apply List.map_congr_left
  intro c hc
  rw [wotsSign, getD_map_range _ (List.mem_range.mp hc)]
  have h := wotsChain_add (wotsStep (pubSeed key) layer tree kp c) 0 (wotsDigit m c) (15 - wotsDigit m c)
    (wotsSecret key layer tree kp c)
  rw [Nat.zero_add, Nat.add_sub_cancel' (wotsDigit_le m c)] at h
  exact h

theorem wotsSign_length (key : SlhKey) (layer tree kp : Nat) (m : List Byte) : (wotsSign key layer tree kp m).length = 67 := by
  simp [wotsSign]

theorem wotsSign_parts (key : SlhKey) (layer tree kp : Nat) (m x : List Byte) (h : x ∈ wotsSign key layer tree kp m) :
    x.length = 32 := by
  simp only [wotsSign, List.mem_map] at h
  obtain ⟨c, _, rfl⟩ := h
  exact wotsChain_length _ (fun _ _ => by simp [wotsStep]) _ _ _ (by simp [wotsSecret])

theorem authPath_parts (leaf : Nat → List Byte) (join : Nat → Nat → List Byte → List Byte → List Byte)
    (hl : ∀ i, (leaf i).length = 32) (hj : ∀ z i x y, (join z i x y).length = 32) (h i : Nat) (x : List Byte)
    (hx : x ∈ authPath leaf join h i) : x.length = 32 := by
  simp only [authPath, List.mem_map] at hx
  obtain ⟨j, _, rfl⟩ := hx
  exact treeNode_length leaf join hl hj _ _

theorem authPath_length (leaf : Nat → List Byte) (join : Nat → Nat → List Byte → List Byte → List Byte) (h i : Nat) :
    (authPath leaf join h i).length = h := by simp [authPath]

/-! ## The hypertree -/

theorem layerFrom_sign (p : SlhSet) (key : SlhKey) (layer t i : Nat) (m : List Byte) (hi : i < 2 ^ p.h) :
    layerFrom (pubSeed key) layer t i m (wotsSign key layer t i m ++
      authPath (wotsLeaf key layer t) (layerJoin (pubSeed key) layer t) p.h i) = layerRoot p key layer t := by
  unfold layerFrom layerRoot
  rw [List.take_left' (wotsSign_length ..), List.drop_left' (wotsSign_length ..), wotsFrom_sign, climb_authPath,
    Nat.div_eq_of_lt hi]

theorem hyperFrom_sign (p : SlhSet) (key : SlhKey) (n layer t i : Nat) (m : List Byte) (hi : i < 2 ^ p.h) :
    hyperFrom p (pubSeed key) (n + 1) layer t i m (hyperSign p key (n + 1) layer t i m) =
      layerRoot p key (layer + n) (t / 2 ^ (p.h * n)) := by
  induction n generalizing layer t i m with
  | zero =>
    have hl : (wotsSign key layer t i m ++
        authPath (wotsLeaf key layer t) (layerJoin (pubSeed key) layer t) p.h i).length = 67 + p.h := by
      simp [wotsSign_length, authPath_length]
    rw [hyperFrom, hyperSign, List.take_left' hl, layerFrom_sign p key layer t i m hi]
    simp [hyperFrom]
  | succ n ih =>
    have hl : (wotsSign key layer t i m ++
        authPath (wotsLeaf key layer t) (layerJoin (pubSeed key) layer t) p.h i).length = 67 + p.h := by
      simp [wotsSign_length, authPath_length]
    rw [hyperFrom, hyperSign, List.take_left' hl, List.drop_left' hl, layerFrom_sign p key layer t i m hi,
      ih _ _ _ _ (Nat.mod_lt _ (by positivity)), Nat.div_div_eq_div_mul, ← pow_add,
      show layer + 1 + n = layer + (n + 1) by omega, show p.h + p.h * n = p.h * (n + 1) by ring]

theorem hyperSign_length (p : SlhSet) (key : SlhKey) (n layer t i : Nat) (m : List Byte) :
    (hyperSign p key n layer t i m).length = n * (67 + p.h) := by
  induction n generalizing layer t i m with
  | zero => simp [hyperSign]
  | succ n ih => simp [hyperSign, wotsSign_length, authPath_length, ih]; ring

theorem hyperSign_parts (p : SlhSet) (key : SlhKey) (n layer t i : Nat) (m x : List Byte)
    (h : x ∈ hyperSign p key n layer t i m) : x.length = 32 := by
  induction n generalizing layer t i m with
  | zero => simp [hyperSign] at h
  | succ n ih =>
    simp only [hyperSign, List.mem_append] at h
    rcases h with (h | h) | h
    · exact wotsSign_parts _ _ _ _ _ _ h
    · exact authPath_parts _ _ (fun _ => by simp [wotsLeaf, wotsKey]) (fun _ _ _ _ => by simp [layerJoin]) _ _ _ h
    · exact ih _ _ _ _ h

/-! ## FORS -/

theorem slhDigits_length (b n : Nat) (bs : List Byte) : (slhDigits b n bs).length = n := by simp [slhDigits]

/-- The tree that a pick lies in. -/
theorem forsPicks_div (p : SlhSet) (md : List Byte) : (forsPicks p md).map (· / 2 ^ p.a) = List.range p.k := by
  unfold forsPicks
  rw [List.map_map]
  conv_rhs => rw [← List.map_id (List.range p.k)]
  apply List.map_congr_left
  intro i hi
  have hi := List.mem_range.mp hi
  have hm : (slhDigits p.a p.k md).getD i 0 < 2 ^ p.a := by
    have hl : i < (slhDigits p.a p.k md).length := by rw [slhDigits_length]; exact hi
    rw [List.getD_eq_getElem _ _ hl]
    exact slhDigits_lt _ _ _ _ (List.getElem_mem hl)
  simp only [Function.comp, id]
  rw [Nat.add_comm, Nat.add_mul_div_right _ _ (by positivity), Nat.div_eq_of_lt hm, Nat.zero_add]

theorem forsRoots_sign (p : SlhSet) (key : SlhKey) (tree kp : Nat) (gs : List Nat) :
    forsRoots p (pubSeed key) tree kp gs (gs.flatMap fun g =>
      forsSecret key tree kp g :: authPath (forsOwn key tree kp) (forsJoin (pubSeed key) tree kp) p.a g) =
      gs.map fun g => treeNode (forsOwn key tree kp) (forsJoin (pubSeed key) tree kp) p.a (g / 2 ^ p.a) := by
  induction gs with
  | nil => rfl
  | cons g gs ih =>
    have hl : (authPath (forsOwn key tree kp) (forsJoin (pubSeed key) tree kp) p.a g).length = p.a := authPath_length ..
    simp only [List.flatMap_cons, List.cons_append, forsRoots, List.headD_cons, List.drop_succ_cons, List.drop_zero,
      List.map_cons]
    rw [List.take_left' hl, List.drop_left' hl, ih]
    congr 1
    exact climb_authPath (forsOwn key tree kp) (forsJoin (pubSeed key) tree kp) p.a g

theorem forsFrom_sign (p : SlhSet) (key : SlhKey) (tree kp : Nat) (md : List Byte) :
    forsFrom p (pubSeed key) tree kp md (forsSign p key tree kp md) = forsRoot p key tree kp := by
  unfold forsFrom forsRoot forsSign
  rw [forsRoots_sign, ← forsPicks_div p md, List.map_map]
  rfl

theorem forsSign_length (p : SlhSet) (key : SlhKey) (tree kp : Nat) (md : List Byte) :
    (forsSign p key tree kp md).length = p.k * (p.a + 1) := by
  have h (gs : List Nat) : (gs.flatMap fun g => forsSecret key tree kp g ::
      authPath (forsOwn key tree kp) (forsJoin (pubSeed key) tree kp) p.a g).length = gs.length * (p.a + 1) := by
    induction gs with
    | nil => simp
    | cons g gs ih => simp only [List.flatMap_cons, List.length_append, ih, List.length_cons, authPath_length]; ring
  rw [forsSign, h]
  simp [forsPicks]

theorem forsSign_parts (p : SlhSet) (key : SlhKey) (tree kp : Nat) (md x : List Byte) (h : x ∈ forsSign p key tree kp md) :
    x.length = 32 := by
  simp only [forsSign, List.mem_flatMap, List.mem_cons] at h
  obtain ⟨g, _, rfl | h⟩ := h
  · simp [forsSecret]
  · exact authPath_parts _ _ (fun _ => by simp [forsOwn, forsLeaf]) (fun _ _ _ _ => by simp [forsJoin]) _ _ _ h

/-! ## The whole -/

theorem pubSeed_length (key : SlhKey) : (pubSeed key).length = 32 := by simp [pubSeed, padTo]; omega

theorem layerRoot_length (p : SlhSet) (key : SlhKey) (layer t : Nat) : (layerRoot p key layer t).length = 32 :=
  treeNode_length _ _ (fun _ => by simp [wotsLeaf, wotsKey]) (fun _ _ _ _ => by simp [layerJoin]) _ _

theorem slhPublic_length (p : SlhSet) (key : SlhKey) : (slhPublic p key).length = 64 := by
  simp [slhPublic, pubSeed_length, layerRoot_length]

theorem slhSign_length (p : SlhSet) (key : SlhKey) (context m entropy : List Byte) :
    (slhSign p key context m entropy).length = 32 * (slhLen p + 1) := by
  unfold slhSign slhWith
  simp only [List.length_append, shake256_length]
  rw [flatten_length]
  · simp only [List.length_append, forsSign_length, hyperSign_length, slhLen]; ring
  · intro x hx
    rcases List.mem_append.mp hx with h | h
    · exact forsSign_parts _ _ _ _ _ _ h
    · exact hyperSign_parts _ _ _ _ _ _ _ _ h

/-- A signature verifies under the public key of the key that made it (R353, R358). -/
theorem slhVerify_sign (p : SlhSet) (hd : 0 < p.d) (key : SlhKey) (context m entropy : List Byte) :
    slhVerify p (slhPublic p key) context m (slhSign p key context m entropy) = true := by
  have hlen := slhSign_length p key context m entropy
  unfold slhVerify
  simp only [Bool.and_eq_true, beq_iff_eq]
  refine ⟨⟨hlen, slhPublic_length p key⟩, ?_⟩
  obtain ⟨n, hn⟩ : ∃ n, p.d = n + 1 := ⟨p.d - 1, by omega⟩
  unfold slhSign
  generalize hr : shake256 (key.prf ++ entropy ++ slhMessage context m) = r
  have hr32 : r.length = 32 := by rw [← hr]; exact shake256_length _
  unfold slhWith
  dsimp only
  generalize hx : slhPick p (slhPublic p key) r (slhMessage context m) = x
  simp only [List.take_left' hr32, List.drop_left' hr32, hx]
  have hleaf : x.2.2 < 2 ^ p.h := by rw [← hx]; exact Nat.mod_lt _ (by positivity)
  have htree : x.2.1 < 2 ^ (p.h * (p.d - 1)) := by rw [← hx]; exact Nat.mod_lt _ (by positivity)
  have hparts : ∀ y ∈ forsSign p key x.2.1 x.2.2 x.1 ++ hyperSign p key p.d 0 x.2.1 x.2.2 (forsRoot p key x.2.1 x.2.2),
      y.length = 32 := by
    intro y hy
    rcases List.mem_append.mp hy with h | h
    · exact forsSign_parts _ _ _ _ _ _ h
    · exact hyperSign_parts _ _ _ _ _ _ _ _ h
  have hl : slhLen p =
      (forsSign p key x.2.1 x.2.2 x.1 ++ hyperSign p key p.d 0 x.2.1 x.2.2 (forsRoot p key x.2.1 x.2.2)).length := by
    simp [forsSign_length, hyperSign_length, slhLen]
  rw [hl, slhParts_flatten _ hparts, List.take_left' (forsSign_length ..), List.drop_left' (forsSign_length ..)]
  have hs : (slhPublic p key).take 32 = pubSeed key := List.take_left' (pubSeed_length key)
  have hroot : (slhPublic p key).drop 32 = layerRoot p key (p.d - 1) 0 := List.drop_left' (pubSeed_length key)
  rw [hs, hroot, forsFrom_sign, hn, hyperFrom_sign p key n 0 _ _ _ hleaf]
  have h0 : x.2.1 / 2 ^ (p.h * n) = 0 := Nat.div_eq_of_lt (by rw [hn] at htree; simpa using htree)
  rw [h0]
  simp

theorem keyIdOf_length (pk : List Byte) : (keyIdOf pk).length = 8 := by simp [keyIdOf]

end Sys2Proof.Machine
end

