-- ==== Sys2Proof/Laws/Wide.lean ====
section
/-! SUPPORT. A full-width write of a 64-bit register acts at once on the whole value (R537), and what a tick does. -/

namespace Sys2Proof.Machine

theorem mergeBits_full (old v : Word) : mergeBits old v 0xF#4 0xFFFFFFFF = v := by
  unfold mergeBits
  have h : beMask 0xF#4 &&& 0xFFFFFFFF = BitVec.allOnes 32 := by decide
  dsimp only
  rw [h]
  show old &&& ~~~(BitVec.allOnes 32) ||| v &&& BitVec.allOnes 32 = v
  rw [BitVec.not_allOnes, BitVec.and_zero, BitVec.zero_or, BitVec.and_allOnes]

theorem write64_full (off : Nat) (isAct : Bool) (live v : Word64) (act : Word64 → State → State) (s : State) :
    write64 off isAct live v 0xFF#8 act s =
      if isAct || isTarget off then setHeldLow off (v.truncate 32) (act v s) else dropHeldLow off (act v s) := by
  have h1 : (0xFF#8).extractLsb' 0 4 = 0xF#4 := by decide
  have h2 : (0xFF#8).extractLsb' 4 4 = 0xF#4 := by decide
  have h3 : v.extractLsb' 32 32 ++ v.truncate 32 = v := by
    have : v.truncate 32 = v.extractLsb' 0 32 := by
      ext i hi
      simp
    rw [this]
    exact (BitVec.extractLsb'_append_extractLsb'_eq_extractLsb' (by decide)).trans (by simp)
  unfold write64
  simp only [h1, h2, mergeBits_full, h3]
  cases isAct <;> cases isTarget off <;> simp

/-- While the device is held in reset no tick does anything. -/
theorem tick_held {s : State} (h : (s.dev.perst || !s.dev.powered) = true) : tick s = s := by
  simp [tick, h]

/-- What a tick does otherwise. -/
theorem tick_running {s : State} (h : (s.dev.perst || !s.dev.powered) = false) :
    tick s = snapTick (judgeAllClocks (measureSupplies (slewTick (txTick (grantAll (kickTick (sealTick (pushWords
      (slotTick (clockTick s)))))))))) := by
  simp [tick, h]

end Sys2Proof.Machine
end

