-- ==== Sys2Proof/Tests/Slice0.lean ====
section
/-! SUPPORT. The model's own tests: small states, one-step tests, an ill-formed term for each check of WellFormed, and for
each obligation states that meet the hypotheses of each of its clauses. -/

namespace Sys2Proof.Machine

-- one theorem at a time: a task per theorem would ask for more threads than the memory limit allows
set_option Elab.async false

/-! ## Small states -/

/-- A device whose BAR0 holds a pending unlock of class `c`. -/
def Tests.unlocked (c : Nat) : State := { State.reset with cfg := { State.reset.cfg with unlock := c } }

/-- A device whose fault collector runs. -/
def Tests.collecting : State := { State.reset with flt := { State.reset.flt with on := true } }

/-- `s` with mailbox `m` RUNNING a command that the host rang: its opcode and request. -/
def Tests.running (m op : Nat) (q : List Byte) (s : State) : State :=
  modMb m (fun x => { x with state := .running, opcode := op, req := padTo 256 q }) s

/-- `s` while acquisition is RUNNING. -/
def Tests.acquiring (s : State) : State := { s with dev := { s.dev with acq := .running } }

/-- A device with chain address 1 whose Ridgeline ports are UP. -/
def Tests.linked : State :=
  { State.reset with rl := { State.reset.rl with addr := 1, ports := Vector.replicate 3 { Port.reset with state := .up } } }


/-- The first 252 bytes of a good descriptor: a supply of 3,300 mV and 100 mA, a temperature limit of 85 degrees, a sensor. -/
def Tests.descriptorBody : List Byte :=
  leBytes 4 0x50444E52 ++ [1, 0, 0, 0, 1, 0, 0, 0, 0, 0, 1, 0] ++ [1, 0] ++ leBytes 2 3300 ++ leBytes 2 100 ++ leBytes 2 1360 ++
    zeros 66 ++ [1, 0x48] ++ zeros 160

/-- A good descriptor with its CRC. -/
def Tests.descriptor : List Byte := Tests.descriptorBody ++ leBytes 4 (crc32c Tests.descriptorBody)

/-- The descriptor of a pod that needs no supply. -/
def Tests.unsupplied : List Byte :=
  let b := leBytes 4 0x50444E52 ++ [1, 0, 0, 0, 1, 0, 0, 0, 0, 0, 1, 0] ++ zeros 236
  b ++ leBytes 4 (crc32c b)

/-- An epoch as it stands when it opens. -/
def Tests.epoch : EpochRec :=
  { number := 1, retain := State.reset.cfg.active.retain, level := 0, openSeq := 0, firstRow := 0, frames := 1, blocks := 0,
    gaps := 0, cairns := 0, gapSamples := 0, fires := Vector.replicate 4 0, truncated := 0, prevSet := (0, 0), seen := 0,
    sumFirst := 0, sumPods := 0, sumFires := Vector.replicate 4 0, gapRanges := [], lostRun := none, gapRow := 0,
    noIntake := false, sumCounts := [], active := 0, enabled := [] }

/-- `s` with CFG_CRC_REF equal to the CRC of its staged image. -/
def Tests.checked (s : State) : State := { s with cfg := { s.cfg with crcRef := stagedCrc s } }

/-- `s` with a CFG_CRC_REF that differs from it. -/
def Tests.unchecked (s : State) : State := { s with cfg := { s.cfg with crcRef := stagedCrc s + 1 } }

theorem Tests.checked_matches (s : State) : crcMatches (Tests.checked s) = true := beq_self_eq_true (stagedCrc s)

theorem Tests.unchecked_differs (s : State) : crcMatches (Tests.unchecked s) = false := by
  have h : ∀ x : Word, (x + 1 == x) = false := by
    intro x
    have : x + 1 ≠ x := by bv_omega
    simp
  exact h (stagedCrc s)

/-- A retention frame of 64 bytes. -/
def Tests.frame : Frame := { type := 0x20, seq := 7, epoch := 1, row := none, pods := 0, bytes := zeros 64 }

/-- Extent 3, open, with a place in store window 0. -/
def Tests.extent : Extent :=
  { seq := 3, fmt := 1, size := 2, place := { target := 0, pos := 0, addr := 0x100000 }, prev := [], bytes := [], closing := false,
    closed := false, restart := false, short := false, fault := false, reset := false, lastSeq := 0, lastEpoch := 0,
    releasedBytes := 0, relLen := 0, relSeq := 0, relEpoch := 0, durable := false, chain := [], tries := 0, sealFrames := [] }

/-- A block of extent 3 with one frame. -/
def Tests.block : Block := { no := 0, frames := [Tests.frame], head := false, forced := false, ext := 3, max := 16384, flush := 1000 }

/-- The packet of that block, stored without compression. -/
def Tests.packet : Packet :=
  { words := 2, bytes := zeros 80, ext := 3, off := 0, lastSeq := 7, seqLo := 7, seqHi := 7, rows := none, pods := 0, lastEpoch := 1,
    epochClose := false, seals := [] }

/-- A device whose extent 3 is open. -/
def Tests.storing : State := { State.reset with tal := { State.reset.tal with opened := some Tests.extent, nextExt := 4 } }

/-- Such a device whose draining bank holds one packet. -/
def Tests.exporting : State :=
  { Tests.storing with
    eq := { State.reset.eq with banks := tabMod State.reset.eq.banks State.reset.eq.drain fun _ => [Tests.packet] },
    pcie := { State.reset.pcie with bme := true } }

/-- A frame longer than the smallest extent. -/
def Tests.longFrame : Frame := { Tests.frame with bytes := zeros 2000000 }

theorem Tests.longFrame_length : Tests.longFrame.bytes.length = 2000000 := List.length_replicate ..

/-- An extent of the smallest size that is full. -/
def Tests.fullExtent : Extent := { Tests.extent with size := 0, bytes := zeros 1048576 }

theorem Tests.fullExtent_length : Tests.fullExtent.bytes.length = 1048576 := List.length_replicate ..

theorem Tests.fullExtent_room (s : State) : extRoom Tests.fullExtent s = 0 := by
  have h : extBytes Tests.fullExtent.size = 1048576 := rfl
  unfold extRoom extReserved
  rw [Tests.fullExtent_length, h]
  omega

/-- The format of a store of 256 extents of 1 MiB. -/
def Tests.format : FormatRec := { id := 1, size := 0, nExt := 256, firstExt := 0, nextBase := 0 }

/-- A device with that format whose store window 0 covers it all. -/
def Tests.formatted : State :=
  { State.reset with tal := { State.reset.tal with
      fmt := some Tests.format,
      windows := tabMod State.reset.tal.windows 0 fun _ => { enable := true, base := 0x100000, first := 0, count := 256, used := false } } }

/-- Extent 3, closed, wholly released and durable. -/
def Tests.durable : Extent :=
  { Tests.extent with closing := true, closed := true, bytes := zeros 80, releasedBytes := 80, durable := true, lastSeq := 9 }

/-- A device whose oldest closed extent is durable. -/
def Tests.slotting : State :=
  { Tests.formatted with tal := { Tests.formatted.tal with pending := [Tests.durable], nextExt := 4 } }

/-- A map entry of extent 3. -/
def Tests.entry : List Byte := mapEntry Tests.durable

/-- A device whose drive 1 is ACTIVE with one Write outstanding. -/
def Tests.driving : State :=
  { Tests.formatted with
    dev := { State.reset.dev with powered := true }, pcie := { State.reset.pcie with bme := true },
    tal := { Tests.formatted.tal with
      pending := [Tests.durable],
      drives := tabMod State.reset.tal.drives 1 fun d =>
        { d with state := 1, phase := true, cmds := [{ cid := 4, flush := false, ext := 3, lo := 0, hi := 80, prp := 0, rung := 0 }] } } }

/-- The header of a firmware image of version 0x10203 for every variant, with a body of four zero bytes, of the issuer with
this ISSUER_KEY_ID (R360). -/
def Tests.headerOf (issuer : List Byte) : List Byte :=
  leBytes 4 0x57464E52 ++ leBytes 4 256 ++ leBytes 4 0x10203 ++ leBytes 4 4 ++ zeros 8 ++ issuer ++ shake256 (zeros 4) ++
    [0xF] ++ zeros 191

/-- Such a header of the issuer whose key the boot ROM holds. -/
def Tests.imageHeader : List Byte := Tests.headerOf (keyIdOf (slhPublic slhSmall Config.firmwareKey))

/-- A signature of that issuer over it. -/
def Tests.imageSig : List Byte := slhSign slhSmall Config.firmwareKey fwContext Tests.imageHeader []

/-- The image of that header and signature. -/
def Tests.image : SlotImage := .image Tests.imageHeader (zeros 4) Tests.imageSig

/-- Its bytes as FW_STAGE receives them: header, body and signature (R360). -/
def Tests.imageBytes : List Byte := Tests.imageHeader ++ zeros 4 ++ Tests.imageSig

theorem Tests.headerOf_fields (k : List Byte) (hk : k.length = 8) :
    imgMagic (Tests.headerOf k) = 0x57464E52 ∧ imgHdrLen (Tests.headerOf k) = 256 ∧ imgBodyLen (Tests.headerOf k) = 4 ∧
      imgMinBootrom (Tests.headerOf k) = 0 ∧ imgRollback (Tests.headerOf k) = 0 ∧ imgVariants (Tests.headerOf k) = 15 ∧
      shake256 (padTo 4 (zeros 4)) = imgDigest (Tests.headerOf k) ∧ imgIssuer (Tests.headerOf k) = k ∧
      (Tests.headerOf k).length = 256 := by
  obtain ⟨a, b, c, d, e, f, g, h, rfl⟩ : ∃ a b c d e f g h, k = [a, b, c, d, e, f, g, h] := by
    match k, hk with
    | [a, b, c, d, e, f, g, h], _ => exact ⟨a, b, c, d, e, f, g, h, rfl⟩
  obtain ⟨x, hx, hl⟩ : ∃ x, shake256 (zeros 4) = x ∧ x.length = 32 := ⟨_, rfl, shake256_length _⟩
  have hz : padTo 4 (zeros 4) = zeros 4 := by decide
  obtain ⟨z, hy, hlz⟩ : ∃ z, zeros 191 = z ∧ z.length = 191 := ⟨_, rfl, List.length_replicate ..⟩
  unfold Tests.headerOf
  rw [hz, hx, hy]
  have hm : imgMagic (leBytes 4 0x57464E52 ++ leBytes 4 256 ++ leBytes 4 0x10203 ++ leBytes 4 4 ++ zeros 8 ++
      [a, b, c, d, e, f, g, h] ++ x ++ [0xF] ++ z) = 0x57464E52 := by
    simp [imgMagic, fieldAt, leBytes, zeros]
    rfl
  refine ⟨hm, rfl, rfl, rfl, rfl, ?_, ?_, rfl, ?_⟩
  · simp [imgVariants, fieldAt, hl, leBytes, zeros]
    rfl
  · simp [imgDigest, List.drop_append, hl, leBytes, zeros, padTo]
  · simp [hl, hlz, leBytes, zeros]

/-- Every check accepts it. -/
theorem Tests.image_good (size : Option Nat) (s : State) (hs : size = none ∨ size = some 30052)
    (hv : s.dev.variant = .x9256) (hf : s.summit.floor = 0) : slotFail size Tests.image s = 0 := by
  have hk := keyIdOf_length (slhPublic slhSmall Config.firmwareKey)
  obtain ⟨h1, h2, h3, h4, h5, h6, h7, h8, h9⟩ := Tests.headerOf_fields _ hk
  have hr : romKey (imgIssuer (Tests.headerOf (keyIdOf (slhPublic slhSmall Config.firmwareKey)))) =
      some (slhPublic slhSmall Config.firmwareKey) := by
    rw [h8]
    simp [romKey, romKeys]
  have hp : padTo 256 (Tests.headerOf (keyIdOf (slhPublic slhSmall Config.firmwareKey))) =
      Tests.headerOf (keyIdOf (slhPublic slhSmall Config.firmwareKey)) := by simp [padTo, h9]
  have hg : imgSigned Tests.imageHeader Tests.imageSig = true := by
    unfold imgSigned
    rw [Tests.imageHeader, hr]
    simp only
    rw [hp]
    exact slhVerify_sign slhSmall (by decide) _ _ _ _
  have hb : ¬ Config.flashBytes / 2 < 30052 := by simp only [Config.flashBytes]; omega
  simp only [slotFail, Tests.image, hg]
  unfold Tests.imageHeader
  rw [hr]
  rcases hs with rfl | rfl <;> simp [h1, h2, h3, h4, h5, h6, h7, hb, hv, hf, Variant.code]

theorem Tests.imageBytes_length : Tests.imageBytes.length = 30052 := by
  have hk := keyIdOf_length (slhPublic slhSmall Config.firmwareKey)
  obtain ⟨-, -, -, -, -, -, -, -, h9⟩ := Tests.headerOf_fields _ hk
  simp only [Tests.imageBytes, List.length_append, Tests.imageHeader, h9, Tests.imageSig, slhSign_length]
  simp [zeros]
  rfl

theorem Tests.imageBytes_staged : stagedImage (Tests.imageBytes.take 30052) = Tests.image := by
  have hk := keyIdOf_length (slhPublic slhSmall Config.firmwareKey)
  obtain ⟨-, -, h3, -, -, -, -, -, h9⟩ := Tests.headerOf_fields _ hk
  have hs : Tests.imageSig.length = 29792 := (slhSign_length ..).trans rfl
  have h9 : Tests.imageHeader.length = 256 := h9
  have hz : (zeros 4).length = 4 := by simp [zeros]
  have ht : Tests.imageBytes.take 30052 = Tests.imageBytes :=
    List.take_of_length_le (by rw [Tests.imageBytes_length])
  rw [ht]
  have h256 : Tests.imageBytes.take 256 = Tests.imageHeader := by
    unfold Tests.imageBytes
    rw [List.append_assoc, List.take_left' h9]
  have hd : Tests.imageBytes.drop 256 = zeros 4 ++ Tests.imageSig := by
    unfold Tests.imageBytes
    rw [List.append_assoc, List.drop_left' h9]
  have hb : imgBodyLen Tests.imageHeader = 4 := h3
  unfold stagedImage
  simp only [h256, hb, ← List.drop_drop, hd, Tests.image]
  rw [List.take_left' hz, List.drop_left' hz, List.take_of_length_le (by rw [hs])]

/-- A device whose counters reach their limit of 1 with the first increment. -/
def Tests.limiting : State :=
  { State.reset with
    fab := { State.reset.fab with running := true, entered := true }, tm := { State.reset.tm with ax5 := 2 },
    cfg := { State.reset.cfg with active := { State.reset.cfg.active with
      counters := Vector.replicate 32 { wrap := false, autoClr := false, incTerm := 1, limit := 1, preload := 0 } } } }

/-- A fold keeps a state that no step of it changes. -/
theorem Tests.foldl_keeps {α β : Type} (f : α → β → α) (s : α) : ∀ l : List β, (∀ n ∈ l, f s n = s) → l.foldl f s = s
  | [], _ => rfl
  | b :: l, h => by
    rw [List.foldl_cons, h b (List.mem_cons_self ..)]
    exact Tests.foldl_keeps f s l fun n hn => h n (List.mem_cons_of_mem _ hn)

/-- That device in sample 1, before holds end. -/
def Tests.lim1 : State :=
  evalSuspect 1 ((List.range 16).foldl (fun s p => if clocked p s then judgeClocks p (256 * 1) s else s)
    (leaveSample Tests.limiting))

/-- The holds of sample 1 end. -/
def Tests.endHolds (s : State) : State :=
  (List.range 272).foldl (fun s n => if !inputAbsent n s ∧ holdDue n 1 s then endHold n s else s) s

theorem Tests.endHolds_absent (s : State) (h : ∀ n < 272, inputAbsent n s = true) : Tests.endHolds s = s := by
  unfold Tests.endHolds
  refine Tests.foldl_keeps _ _ _ fun n hn => ?_
  simp [h n (List.mem_range.mp hn)]

theorem Tests.lim1_quiet : Tests.endHolds Tests.lim1 = Tests.lim1 := Tests.endHolds_absent _ (by decide +kernel)

/-- What enterSample does in sample 1 after the holds have ended. -/
def Tests.limRest (s : State) : State :=
  let s := { s with fab := { s.fab with dets := s.fab.dets.map fun d => { d with sample := max d.sample 1 } } }
  let s := evalPatterns 1 (countGroups 1 s)
  let s := (List.range 4).foldl (fun s j => takeTarget 1 j (takeDone 1 j s)) (takeOrders 1 s)
  showLive { s with fab := { s.fab with sample := 1, entered := true }, seqs := s.seqs.map (seqStart 1) }

theorem Tests.enters (s : State) :
    enterSample 1 s = Tests.limRest (Tests.endHolds (evalSuspect 1
      ((List.range 16).foldl (fun s p => if clocked p s then judgeClocks p (256 * 1) s else s) s))) := by
  unfold Tests.endHolds
  rfl

theorem Tests.limiting_limits :
    (advance (Tests.limiting.fab.sample + 1) Tests.limiting).fab.counters[(31 : Fin 32)].atLimit ≠ none := by
  have h : advance (Tests.limiting.fab.sample + 1) Tests.limiting = enterSample 1 (leaveSample Tests.limiting) := by
    have e : min (Tests.limiting.fab.sample + 1 + 1) (fabReach Tests.limiting) = 2 := by decide +kernel
    simp only [advance, e]
    simp only [evalBelow]
    rw [if_neg (by decide), if_pos (show Tests.limiting.fab.entered = true from rfl)]
    rfl
  rw [h, Tests.enters, ← Tests.lim1, Tests.lim1_quiet]
  decide +kernel

/-! ## Ill-formed terms: one for each check of WellFormed -/

/-- Ill-formed commands of pods, calibration and capture memory, one for each check. -/
theorem test_wf_PodsAndCalibration :
    ([.descriptorReadDone 0 (zeros 255),
      .podInfo 0 (some (zeros 257)),
      .calPairDone 0 0 true 32768 0,
      .calPairDone 0 0 true 0 (-32769),
      .bar2Read 0xFFFFFFFFF 2 [],
      .bar2Read 0 0 [],
      .bar2Write 0x1000000000 [1],
      .chAliasWrite 0x107FFC 0 0,
      .chAliasWrite 0x108640 0 0,
      .chAliasRead 0x108002,
      .chAliasRead 0x108640] : List Instr).any Instr.wf = false := by decide +kernel

/-- Ill-formed commands of export and the store, one for each check. -/
theorem test_wf_ExportAndStore :
    ([.pullWindowRead 0x7FFFFF 2,
      .pullWindowWrite 0x800000 [0],
      .recWindowRead 0x800000 1,
      .recWindowWrite 0 [],
      .flushReadCpl 1024 true false,
      .flushReadTimeout 1024,
      .cplUnexpected 1024,
      .tagQuarantineEnd 1024,
      .nvmeCqEntry 0 (zeros 15)] : List Instr).any Instr.wf = false := by decide +kernel

/-- Ill-formed commands of firmware images, time and Ridgeline, one for each check. -/
theorem test_wf_ImagesTimeAndLinks :
    ([.fwBootVerify (.image (zeros 255) [] []) .empty,
      .fwBootVerify .empty (.image (zeros 257) [] []),
      .fwBootVerify .empty (.image (zeros 256) [] (zeros 29)),
      .timeIntegrity ⟨2 ^ 48, 0, 0⟩,
      .timeIntegrity ⟨0, 1000000000, 0⟩,
      .timeIntegrity ⟨0, 0, 2 ^ 32⟩,
      .rlPortUp 0 (zeros 12) 0,
      .timeFrameRx 0 (zeros 16),
      .fireFrameRx 0 (zeros 136),
      .recordFrameRx 0 (zeros 28)] : List Instr).any Instr.wf = false := by decide +kernel

/-- Ill-formed commands of accesses of the host, one for each check. -/
theorem test_wf_HostAccesses :
    ([.bar0Write 0xFFFFFF [some 0, some 0],
      .regAliasWrite .set 2 0 0,
      .regAliasWrite .set 0x400000 0 0,
      .reg64LowRead 6,
      .reg64LowRead 0x1000000,
      .scratchpadAccess 65536 (.read 0 4),
      .scratchpadAccess 0 (.read 0x1000000 1),
      .scratchpadAccess 0 (.write 0x17FFFFF [none, none]),
      .cwWindowAccess 65536 0 (.read 0 4),
      .cwWindowAccess 0 0 (.read 0xFFFFF 2),
      .pwInboundAccess 65536 (.read 0 4),
      .pwInboundAccess 0 (.read 0x1000000 1)] : List Instr).any Instr.wf = false := by decide +kernel

/-- Ill-formed commands of the endpoint, the rails and the memories, one for each check. -/
theorem test_wf_LinkAndMemories :
    ([.bmeSet true true true true ⟨16, 0, Vector.replicate 3 0, false, false, 0, 0, 0, 0, 0⟩,
      .bmeSet true true true true ⟨0, 3, Vector.replicate 3 0, false, false, 0, 0, 0, 0, 0⟩,
      .ltrEnable true 65536 0,
      .ltrEnable true 0 65536,
      .linkUp 0 16,
      .linkChange 5 12,
      .railMonitor ⟨11, false⟩,
      .railMonitor ⟨5, true⟩,
      .rlFrameBad ⟨0, [⟨true, zeros 7⟩]⟩,
      .railBackInRange 11,
      .sramEccError 11 0 0 false,
      .marchDone 0 (2 ^ 32) 0 0 0] : List Instr).any Instr.wf = false := by decide +kernel

theorem test_wf_frame : Instr.wf (.timeFrameRx 0 (zeros 24)) = true := by decide +kernel

/-! ## The spec's worked values -/

/-- The CRC of "123456789" (R547). -/
theorem test_crc_check_value : crc32c [0x31, 0x32, 0x33, 0x34, 0x35, 0x36, 0x37, 0x38, 0x39] = 0xE3069283 := by decide +kernel

/-- The unit of spec/00_scope.md's example, an RNK-9128-X. -/
theorem test_device_9128x :
    (regRead 0x00 (State.resetOf .x9128), regRead 0x10 (State.resetOf .x9128), regRead 0x14 (State.resetOf .x9128)) =
      (0x91281E5D#32, 0x0F432008#32, 0x07B000FF#32) := by decide +kernel

/-- CH53 of spec/03_front_end.md's example: thresholds 547 and 535, V_T at the midpoint. -/
theorem test_crossing_example :
    crossing { thr := 0x02230217, vt := 0, deskew := 0, ctrl := 0, qual := Vector.replicate 4 0, state := 0, stateWin := 0 } true (some 9672) 9792 = (9732, true, 120) := by
  decide +kernel

/-- The LTR values of spec/01_architecture.md's example. -/
theorem test_ltr_example : (ltrEncode 1579032, ltrEncode 3000000) = (0x8C30, 0x8C5B) := by decide +kernel

/-- S1 B0 of spec/06_traverse.md's example: W0 and not T0 and C0; it fires class 0 with TRIGOUT0 and stops. -/
theorem test_branch_example :
    brTerms 0x300000000412202000406020#128 = [0x20, 0x60, 0x40, 0x00] ∧ brValid 0x300000000412202000406020#128 = true ∧
      brStop 0x300000000412202000406020#128 = true ∧ brFire 0x300000000412202000406020#128 = true ∧
      brTout 0x300000000412202000406020#128 = 1 ∧ brClass 0x300000000412202000406020#128 = 0 ∧
      brHolds 0x300000000412202000406020#128 [some 1, none, some 1, none] = true ∧
      brHolds 0x300000000412202000406020#128 [some 1, some 1, some 1, none] = false := by decide +kernel

/-- EVT_VEC8_0 and EVT_VEC14_0 before spec/16_registers.md's example. -/
theorem test_vector_bytes_reset : regRead 0x3500 State.reset = 0x20202020#32 ∧ regRead 0x35C0 State.reset = 0x38383838#32 := by
  decide +kernel

/-! ## One step on a small state -/

/-- The state behind a next state. -/
def Tests.after : Host.Outcome State Fault Refusal → State
  | .next t => t
  | _ => State.reset

/-- EVT_ENABLE8 of spec/16_registers.md's example through its SET alias. -/
theorem test_enable_alias_set :
    regRead 0x3108 (Tests.after (exec (.regAliasWrite .set 0x3108 4 15)
      { State.reset with evt := { State.reset.evt with enable := tabMod State.reset.evt.enable 8 fun _ => 0x00030000 } })) =
      0x00030004#32 := by decide +kernel

/-- The die at 125.0625 degrees of spec/17_faults.md's example: F21 and F22 latch, acquisition freezes. -/
theorem test_die_temperature :
    (fun t => (regRead 0x4000 t, t.dev.acq)) (Tests.after (exec (.dieTempSample 0x07D1)
      { Tests.acquiring Tests.collecting with tm := { State.reset.tm with tick := 250000 } })) =
      (0x00600000#32, Acq.frozen) := by decide +kernel

/-- EVT_VEC8_0 of spec/16_registers.md's example: a write of one byte merges. -/
theorem test_vector_byte_write :
    regRead 0x3500 (Tests.after (exec (.bar0Write 0x3502 [some 0x0A]) State.reset)) = 0x200A2020#32 := by decide +kernel

/-- A forced event sets its RAW bit (R560). -/
theorem test_event_force :
    regRead 0x3100 (Tests.after (exec (.evtForce 8 0x00010000 15) State.reset)) = 0x00010000#32 := by decide +kernel

/-- A write of the right key arms the unlock of its class (R539). -/
theorem test_unlock : (Tests.after (exec (.cfgUnlock 0xC0DE0005 15) State.reset)).cfg.unlock = 5 := by decide +kernel

/-- A byte enable that is off leaves its byte of DEV_SCRATCH (R533). -/
theorem test_byte_enable :
    (Tests.after (exec (.bar0Write 0x18 [some 0x11, none, some 0x33, none]) State.reset)).dev.scratch = 0x00330011#32 := by
  decide +kernel

/-- The step takes the command in front and leaves the rest of the queue. -/
theorem test_step_front :
    (Tests.after (step { State.reset with pending := [.cfgUnlock 0xC0DE0005 15, .devReady] })).pending = [.devReady] := by
  decide +kernel

/-- A memory that lists what an unlisted address reads as is not in canonical form. -/
theorem test_memory_form : (Memory.wf [(4, 0)] || Memory.wf [(4, 1), (3, 1)]) = false := by decide +kernel

/-! ## Every hypothesis can be met -/

theorem witness_StepRunsFront :
    (∃ (c : Instr) (q : List Instr) (s : State), s.pending = c :: q) ∧
    (∃ (s : State), s.pending = []) :=
  ⟨⟨.acqStop 1, [.nop 2], { State.reset with pending := [.acqStop 1, .nop 2] }, by decide +kernel⟩,
   ⟨State.reset, by decide +kernel⟩⟩

theorem witness_StepKeepsMemories :
    ∃ (s t : State), (s.memoriesCanonical = true) ∧ (step s = .next t) :=
  ⟨{ State.reset with pending := [.nop 1] }, State.reset, ⟨by decide +kernel, rfl⟩⟩

theorem witness_StepKeepsVariant :
    (∃ (s t : State), (s.rawExists = true) ∧ (step s = .next t)) ∧
    (∃ (s t : State), step s = .next t) :=
  ⟨⟨{ State.reset with pending := [.nop 1] }, State.reset, ⟨by decide +kernel, rfl⟩⟩,
   ⟨{ State.reset with pending := [.nop 1] }, State.reset, rfl⟩⟩

theorem witness_StoreOutlivesSteps :
    (∃ (c : Instr) (s t : State), (exec c s = .next t) ∧ (∀ b, c ≠ .mapSlotWrite b) ∧ (∀ b, c ≠ .sealIndexWrite b)) ∧
    (∃ (s t : State), step s = .next t) :=
  ⟨⟨.nop 1, State.reset, State.reset, ⟨rfl, by decide, by decide⟩⟩,
   ⟨{ State.reset with pending := [.nop 1] }, State.reset, rfl⟩⟩

theorem witness_UnservedCommands :
    ∃ (p : (Fin 8 → Instr) × Nat) (d : Option (List Byte)) (s : State) (m : Fin 8), (p ∈ [(.devInfo, 0x0001),
      (.acqStart, 0x0402), (.epochCommit, 0x0401), (.acqStop, 0x0403), (.ringCfg, 0x0406), (.podPower, 0x0102),
      (fun k => .podInfo k d, 0x0101), (.calRun, 0x0201), (.calStatus, 0x0202), (.fabCfg, 0x0304), (.trvLoad,
      0x0301), (.trvArm, 0x0302), (.trvDisarm, 0x0303), (.trvOutCfg, 0x0305), (.retainSet, 0x0404), (.mark, 0x0405),
      (.expCfg, 0x0407), (.talusFormat, 0x0501), (.talusWindowSet, 0x0502), (.talusDriveAttach, 0x0503), (.talusCfg,
      0x0504), (.talusMapRead, 0x0505), (.sealCfg, 0x0803), (.sealNow, 0x0804), (.identityGet, 0x0802), (.attest,
      0x0801), (.timeSourceSet, 0x0601), (.axisCfg, 0x0602), (.rlDiscover, 0x0701), (.rlPortCfg, 0x0702), (.rlTunnel,
      0x0703), (.rlTimed, 0x0704), (.pllCfg, 0x0B01), (.nop, 0x0000), (.fwStage, 0x0A01), (.fwCommit, 0x0A02),
      (.fwInfo, 0x0A03), (.logRead, 0x0003), (.marchRun, 0x0901), (.devSelftest, 0x0002), (.scrubCfg, 0x0902),
      (.faultInject, 0x0903)]) ∧ (mbRuns m.val p.2 s = false) :=
  ⟨(Instr.devInfo, 1), none, State.reset, 1, ⟨List.mem_cons_self, by decide +kernel⟩⟩

theorem witness_HostReach :
    (∃ (s : State) (c : Instr) (m : Fin 8) (g : Fin 16) (i : Fin 4) (n : Fin 64) (b : Bool) (v : Word) (be : BitVec 4) (x : Word64) (e : BitVec 8),
       (c ∈ [.mbDoorbell m v be, .cwCfgWrite m v be, .cwProdWrite m v be, .cwConsWrite m v be, .cfgUnlock v be,
       .cfgLatchRef v be, .cfgCommit v be, .cfgOpen v be, .evtForce g v be, .evtClear g v be, .evtEnableWrite g v be,
       .expPullRelease v be, .expDurableAck x e, .fltSevWrite i v be, .fltCtrlWrite v be, .fltStatusClear b v be,
       .fltHistPop v be, .fltSafeRelease v be, .pwCommit v be, .snapTake v be, .devSoftReset v be, .schArm n,
       .schDisarm n, .schSf v be, .talusArchivedWrite x e, .talusGeometryLock v be, .timeAIncr x e, .timeAStep x e,
       .timeAStepLimit v be, .timeBIncr x e, .timeBStep x e]) ∧ (alive s = false ∨ (s.pcie.d3hot = false ∧
       s.dev.softPending = true))) ∧
    (∃ (s : State) (c : Instr) (m : Fin 8) (g : Fin 16) (i : Fin 4) (n : Fin 64) (b : Bool) (v : Word) (be : BitVec 4) (x : Word64) (e : BitVec 8),
       (c ∈ [.mbDoorbell m v be, .cwCfgWrite m v be, .cwProdWrite m v be, .cwConsWrite m v be, .cfgUnlock v be,
       .cfgLatchRef v be, .cfgCommit v be, .cfgOpen v be, .evtForce g v be, .evtClear g v be, .evtEnableWrite g v be,
       .expPullRelease v be, .expDurableAck x e, .fltSevWrite i v be, .fltCtrlWrite v be, .fltStatusClear b v be,
       .fltHistPop v be, .fltSafeRelease v be, .pwCommit v be, .snapTake v be, .devSoftReset v be, .schArm n,
       .schDisarm n, .schSf v be, .talusArchivedWrite x e, .talusGeometryLock v be, .timeAIncr x e, .timeAStep x e,
       .timeAStepLimit v be, .timeBIncr x e, .timeBStep x e]) ∧ (alive s = true) ∧ (s.pcie.d3hot = true)) ∧
    (∃ (c : Instr), (∀ a b, c ≠ .bar0Write a b) ∧ (∀ p a v e, c ≠ .regAliasWrite p a v e) ∧ (∀ a n l,
       c ≠ .bar2Read a n l) ∧ (∀ a d, c ≠ .bar2Write a d)) ∧
    (∃ (a n : Nat) (b : List (Option Byte)) (d : List Byte), (a + b.length ≤ 0x1000000) ∧ (a < 0x400000) ∧
       (a + n ≤ 0x1000000000) ∧ (a + d.length ≤ 0x1000000000)) :=
  ⟨⟨{ State.reset with dev := { State.reset.dev with perst := true } }, .mbDoorbell 1 2 3, 1, 2, 3, 4, true, 2, 3, 5, 6, ⟨List.mem_cons_self, by decide +kernel⟩⟩,
   ⟨{ State.reset with pcie := { State.reset.pcie with d3hot := true } }, .mbDoorbell 1 2 3, 1, 2, 3, 4, true, 2, 3, 5, 6, ⟨List.mem_cons_self, by decide +kernel, by decide +kernel⟩⟩,
   ⟨.nop 1, ⟨by simp, by simp, by simp, by simp⟩⟩,
   ⟨0x3FFFFC, 4, [none, none, some 1], [1, 2], by decide +kernel⟩⟩

theorem witness_UnlockArms :
    (∃ (s : State) (v : Word), (s.reached = true) ∧ (0xC0DE0001 ≤ v.toNat ∧ v.toNat ≤ 0xC0DE0005)) ∧
    (∃ (s : State) (v : Word), (s.reached = true) ∧ (v.toNat < 0xC0DE0001 ∨ 0xC0DE0005 < v.toNat)) ∧
    (∃ (s : State) (be : BitVec 4), (s.reached = true) ∧ (be ≠ 0xF#4)) :=
  ⟨⟨State.reset, 0xC0DE0005, by decide +kernel⟩,
   ⟨Tests.unlocked 3, 0xC0DE0006, by decide +kernel⟩,
   ⟨Tests.unlocked 3, 7, by decide +kernel⟩⟩

theorem witness_ControlRegisters :
    (∃ (s : State) (v : Word), (s.reached = true) ∧ (v.getLsbD 2 = true)) ∧
    (∃ (s : State) (v : Word), (s.reached = true) ∧ (v.getLsbD 1 = true) ∧ (v.getLsbD 2 = false)) ∧
    (∃ (s : State) (v : Word), (s.reached = true) ∧ (v.getLsbD 0 = true) ∧ (v.getLsbD 1 = false) ∧ (v.getLsbD 2 =
       false)) ∧
    (∃ (s : State) (be : BitVec 4), (s.reached = true) ∧ (be ≠ 0xF#4)) ∧
    (∃ (s : State) (a n : Nat), (s.reached = true) ∧ (a % 8 = 0) ∧ (wideReg a s = some n)) ∧
    (∃ (s : State) (a n : Nat) (l : Word), (s.reached = true) ∧ (a % 8 = 0) ∧ (a ≠ 0xD068) ∧ (wideReg a s =
       some n) ∧ (s.tm.latches.find? (fun x => x.1 == a) = some (a, l))) ∧
    (∃ (s : State) (a : Nat), (s.reached = true) ∧ (a % 4 = 0) ∧ (a ≠ 0xD06C) ∧ (wideReg (a / 8 * 8) s = none)) ∧
    (∃ (a : Nat), a % 4 ≠ 0) ∧
    (∃ (s : State), s.reached = true) ∧
    (∃ (s : State), s.reached = true) ∧
    (∃ (s : State), s.reached = true) ∧
    (∃ (s : State) (be : BitVec 4), (s.reached = true) ∧ (be ≠ 0xF#4)) ∧
    (∃ (s : State), s.reached = true) ∧
    (∃ (s : State) (v : Word), (s.reached = true) ∧ (v.getLsbD 0 = true) ∧ (s.snap.busy = false)) ∧
    (∃ (s : State) (v : Word), (s.reached = true) ∧ (v.getLsbD 0 = true) ∧ (s.snap.busy = true)) ∧
    (∃ (s : State) (v : Word), (s.reached = true) ∧ (v.getLsbD 0 = false)) ∧
    (∃ (s : State) (e : Nat), s.snap.edge = some e) ∧
    (∃ (s : State), (s.snap.busy = true) ∧ (s.snap.edge = none)) ∧
    (∃ (s : State), s.snap.busy = false ∨ s.snap.edge ≠ none) :=
  ⟨⟨State.reset, 4, by decide +kernel⟩,
   ⟨{ State.reset with cfg := { State.reset.cfg with opened := true } }, 3, by decide +kernel⟩,
   ⟨State.reset, 1, by decide +kernel⟩,
   ⟨State.reset, 8, by decide +kernel⟩,
   ⟨State.reset, 0x5008, 0x0400000000, by decide +kernel⟩,
   ⟨{ State.reset with tm := { State.reset.tm with latches := [(0x5008, 7)] } }, 0x5008, 0x0400000000, 7, by decide +kernel⟩,
   ⟨State.reset, 0, by decide +kernel⟩,
   ⟨2, by decide +kernel⟩,
   ⟨State.reset, by decide +kernel⟩,
   ⟨State.reset, by decide +kernel⟩,
   ⟨State.reset, by decide +kernel⟩,
   ⟨State.reset, 7, by decide +kernel⟩,
   ⟨{ State.reset with evt := { State.reset.evt with raw := Vector.replicate 16 3 } }, by decide +kernel⟩,
   ⟨State.reset, 1, by decide +kernel⟩,
   ⟨{ State.reset with snap := { State.reset.snap with busy := true } }, 1, by decide +kernel⟩,
   ⟨State.reset, 2, by decide +kernel⟩,
   ⟨{ State.reset with snap := { State.reset.snap with busy := true, edge := some 40 }, tm := { State.reset.tm with ax5 := 40 } }, 40, by decide +kernel⟩,
   ⟨{ State.reset with snap := { State.reset.snap with busy := true } }, by decide +kernel⟩,
   ⟨State.reset, by decide +kernel⟩⟩

theorem witness_DeviceResets :
    (∃ (s : State), alive s = true) ∧
    (∃ (s : State), (alive s = true) ∧ (s.pcie.dlUp = true)) ∧
    (∃ (s : State), (alive s = true) ∧ (s.pcie.dlUp = true)) ∧
    (∃ (s : State), alive s = false) ∧
    (∃ (s : State), s.pcie.flr = true) ∧
    (∃ (s : State), s.pcie.flr = false) ∧
    (∃ (s : State), (s.reached = true) ∧ (s.cfg.unlock = 3)) ∧
    (∃ (s : State) (v : Word), (s.reached = true) ∧ (v ≠ 1 ∨ s.cfg.unlock ≠ 3)) ∧
    (∃ (s : State) (be : BitVec 4), (s.reached = true) ∧ (be ≠ 0xF#4)) ∧
    (∃ (s : State), (alive s = true) ∧ (s.dev.ready = false) ∧ (startedUp s = true)) ∧
    (∃ (s : State), alive s = false ∨ s.dev.ready = true ∨ startedUp s = false) ∧
    (∃ (s : State), s.dev.perst = false) ∧
    (∃ (s : State), s.dev.perst = true) ∧
    (∃ (s : State), s.dev.powered = false) ∧
    (∃ (s : State), s.dev.powered = true) :=
  ⟨⟨{ (Tests.running 1 0x0B01 [] State.reset) with dev := { State.reset.dev with powered := true, ready := true, scratch := 5 }, pcie := { State.reset.pcie with bme := true, dlUp := true, tags := [(3, 64)] } }, by decide +kernel⟩,
   ⟨{ (Tests.running 1 0x0B01 [] State.reset) with dev := { State.reset.dev with powered := true, ready := true, scratch := 5 }, pcie := { State.reset.pcie with bme := true, dlUp := true, tags := [(3, 64)] } }, by decide +kernel⟩,
   ⟨{ (Tests.running 1 0x0B01 [] State.reset) with dev := { State.reset.dev with powered := true, ready := true, scratch := 5 }, pcie := { State.reset.pcie with bme := true, dlUp := true, tags := [(3, 64)] } }, by decide +kernel⟩,
   ⟨{ State.reset with dev := { State.reset.dev with powered := false } }, by decide +kernel⟩,
   ⟨{ State.reset with pcie := { State.reset.pcie with flr := true } }, by decide +kernel⟩,
   ⟨State.reset, by decide +kernel⟩,
   ⟨{ (Tests.unlocked 3) with dev := { State.reset.dev with ready := true } }, by decide +kernel⟩,
   ⟨Tests.unlocked 2, 1, by decide +kernel⟩,
   ⟨Tests.unlocked 3, 3, by decide +kernel⟩,
   ⟨{ State.reset with dev := { State.reset.dev with bootrom := true } }, by decide +kernel⟩,
   ⟨State.reset, by decide +kernel⟩,
   ⟨{ (Tests.running 1 0x0B01 [] State.reset) with dev := { State.reset.dev with powered := true, ready := true, scratch := 5 }, pcie := { State.reset.pcie with bme := true, dlUp := true, tags := [(3, 64)] } }, by decide +kernel⟩,
   ⟨{ State.reset with dev := { State.reset.dev with perst := true } }, by decide +kernel⟩,
   ⟨{ State.reset with dev := { State.reset.dev with powered := false } }, by decide +kernel⟩,
   ⟨{ (Tests.running 1 0x0B01 [] State.reset) with dev := { State.reset.dev with powered := true, ready := true, scratch := 5 }, pcie := { State.reset.pcie with bme := true, dlUp := true, tags := [(3, 64)] } }, by decide +kernel⟩⟩

theorem witness_RegisterWrites :
    (∃ (s : State), s.reached = true) ∧
    (∃ (s : State), s.reached = true) ∧
    (∃ (s : State) (a : Nat), (s.reached = true) ∧ (a % 4 = 0) ∧ (a < 0x20000) ∧ (wideReg (a / 8 * 8) s.spent =
       none)) ∧
    (∃ (s : State) (a n : Nat) (b : List Byte), (s.reached = true) ∧ (a % 8 = 0) ∧ (a < 0x20000) ∧ (b.length = 8) ∧
       (wideReg a s.spent = some n)) ∧
    (∃ (s : State) (a : Nat), (s.reached = true) ∧ (a ∈ [0x0, 0x4, 0x8, 0x10, 0x14, 0x1C, 0x1008, 0x1010, 0x1014,
       0x101C, 0x1020, 0x3200, 0xD034, 0x11020])) ∧
    (∃ (s : State) (a : Nat) (b : List (Option Byte)), (s.reached = true) ∧ (a + b.length ≤ 0x1000000)) ∧
    (∃ (a : Nat) (b : List (Option Byte)), 0x1000000 < a + b.length) ∧
    (∃ (s : State), s.reached = true) ∧
    (∃ (s : State), s.reached = true) ∧
    (∃ (s : State) (a : Nat) (be : BitVec 4), (s.reached = true) ∧ (a % 4 = 0) ∧ (a < 0x20000) ∧
       (wideReg (a / 8 * 8) s.spent = none) ∧ (isSpecial a = true) ∧ (be ≠ 0xF#4)) ∧
    (∃ (s : State) (a : Nat), (s.reached = true) ∧ (a < 0x400000)) ∧
    (∃ (a : Nat), 0x400000 ≤ a) :=
  ⟨⟨Tests.unlocked 1, by decide +kernel⟩,
   ⟨Tests.unlocked 1, by decide +kernel⟩,
   ⟨Tests.unlocked 4, 0x4010, by decide +kernel⟩,
   ⟨Tests.unlocked 1, 0x5010, 0, [1, 2, 3, 4, 5, 6, 7, 8], by decide +kernel⟩,
   ⟨State.reset, 0x3200, by decide +kernel⟩,
   ⟨Tests.unlocked 1, 0x1A, [some 7, none], by decide +kernel⟩,
   ⟨0xFFFFFF, [none, none], by decide +kernel⟩,
   ⟨Tests.unlocked 1, by decide +kernel⟩,
   ⟨Tests.unlocked 1, by decide +kernel⟩,
   ⟨Tests.unlocked 1, 0x4010, 7, by decide +kernel⟩,
   ⟨Tests.unlocked 1, 0x18, by decide +kernel⟩,
   ⟨0x400000, by decide +kernel⟩⟩

theorem witness_FaultRegisterWrites :
    (∃ (s : State), (s.reached = true) ∧ (s.cfg.unlock = 4)) ∧
    (∃ (s : State) (be : BitVec 4), (s.reached = true) ∧ (be ≠ 0xF#4)) ∧
    (∃ (s : State), (s.reached = true) ∧ (s.cfg.unlock ≠ 4)) ∧
    (∃ (s : State), (s.reached = true) ∧ (s.cfg.unlock = 4)) ∧
    (∃ (s : State), s.reached = true) ∧
    (∃ (s : State) (v : Word), (s.reached = true) ∧ (v.getLsbD 0 = true)) :=
  ⟨⟨Tests.unlocked 4, by decide +kernel⟩,
   ⟨State.reset, 3, by decide +kernel⟩,
   ⟨State.reset, by decide +kernel⟩,
   ⟨Tests.unlocked 4, by decide +kernel⟩,
   ⟨State.reset, by decide +kernel⟩,
   ⟨State.reset, 1, by decide +kernel⟩⟩

theorem witness_FaultConditions :
    (∃ (s : State) (x : BitVec 16), (s.dev.tempAt + msTicks s ≤ s.tm.tick) ∧ (x.toInt ≤ 1680)) ∧
    (∃ (s : State) (x : BitVec 16), (s.dev.tempAt + msTicks s ≤ s.tm.tick) ∧ (1760 < x.toInt) ∧ (x.toInt ≤ 1840)) ∧
    (∃ (s : State) (x : BitVec 16), (s.dev.tempAt + msTicks s ≤ s.tm.tick) ∧ (2000 < x.toInt)) ∧
    (∃ (s : State) (x : BitVec 16), (s.dev.tempAt + msTicks s ≤ s.tm.tick) ∧ (1680 < x.toInt) ∧ (x.toInt ≤ 1760)) ∧
    (∃ (s : State) (x : BitVec 16), (s.dev.tempAt + msTicks s ≤ s.tm.tick) ∧ (1840 < x.toInt) ∧ (x.toInt ≤ 2000)) ∧
    (∃ (s : State), s.tm.tick < s.dev.tempAt + msTicks s) ∧
    (∃ (s : State) (r : Nat), (r ≤ 10) ∧ (r ∉ s.dev.badRails)) ∧
    (∃ (s : State) (r : Nat), r ∈ s.dev.badRails) ∧
    (∃ (b : Fin 4), b ≠ 3) ∧
    (∃ (s : State) (r : Nat), s.dev.badRails = [r]) ∧
    (∃ (s : State), (s.flt.extEn = true) ∧ (bankOn .faultInN s = true)) ∧
    (∃ (s : State), s.flt.on = true) ∧
    (∃ (s : State) (x : Fin 4), (trigDriven x.val s = true) ∧ ((contendedPins s).testBit x.val = false)) ∧
    (∃ (s : State) (x : Fin 4), (contendedPins s).testBit x.val = true) :=
  ⟨⟨{ State.reset with tm := { State.reset.tm with tick := 250000 } }, 0xFF00, by decide +kernel⟩,
   ⟨{ State.reset with tm := { State.reset.tm with tick := 250000 } }, 1800, by decide +kernel⟩,
   ⟨{ State.reset with tm := { State.reset.tm with tick := 250000 } }, 2001, by decide +kernel⟩,
   ⟨{ State.reset with tm := { State.reset.tm with tick := 250000 } }, 1700, by decide +kernel⟩,
   ⟨{ State.reset with tm := { State.reset.tm with tick := 250000 } }, 2000, by decide +kernel⟩,
   ⟨State.reset, by decide +kernel⟩,
   ⟨State.reset, 10, by decide +kernel⟩,
   ⟨{ State.reset with dev := { State.reset.dev with badRails := [4] } }, 4, by decide +kernel⟩,
   ⟨0, by decide +kernel⟩,
   ⟨{ State.reset with dev := { State.reset.dev with badRails := [4] } }, 4, by decide +kernel⟩,
   ⟨State.reset, by decide +kernel⟩,
   ⟨Tests.collecting, by decide +kernel⟩,
   ⟨{ State.reset with cfg := { State.reset.cfg with active := { State.reset.cfg.active with tout := Vector.replicate 4 1 } } }, 3, by decide +kernel⟩,
   ⟨{ State.reset with cfg := { State.reset.cfg with active := { State.reset.cfg.active with tout := Vector.replicate 4 1 } }, trigout := tabMod State.reset.trigout 3 fun t => { t with contended := some false } }, 3, by decide +kernel⟩⟩

theorem witness_FaultLatching :
    (∃ (s : State) (f : Nat), (s.flt.on = true) ∧ (hasSource s.dev.variant f = true) ∧ (f ≠ 0) ∧
       (s.flt.status.getLsbD f = false) ∧ (sevInForce f s = .record)) ∧
    (∃ (s : State) (f : Nat), (s.flt.on = true) ∧ (hasSource s.dev.variant f = true) ∧ (f ≠ 0) ∧
       (s.flt.status.getLsbD f = false) ∧ (sevInForce f s = .notify)) ∧
    (∃ (s : State) (f : Nat), s.flt.on = false ∨ hasSource s.dev.variant f = false ∨ s.flt.status.getLsbD f = true) ∧
    (∃ (s : State), (s.reached = true) ∧ (s.cfg.unlock = 2) ∧ (releasable s.spent = true) ∧ (∀ p < 3,
       (portOf s p).state ≠ .up)) ∧
    (∃ (s : State), (s.reached = true) ∧ (s.cfg.unlock = 2) ∧ (releasable s.spent = true)) ∧
    (∃ (s : State), (s.reached = true) ∧ (s.cfg.unlock = 2) ∧ (releasable s.spent = false)) :=
  ⟨⟨Tests.collecting, 26, by decide +kernel⟩,
   ⟨Tests.collecting, 4, by decide +kernel⟩,
   ⟨State.reset, 25, by decide +kernel⟩,
   ⟨{ Tests.unlocked 2 with dev := { State.reset.dev with safe := true, acq := .frozen } }, by decide +kernel⟩,
   ⟨{ Tests.unlocked 2 with dev := { State.reset.dev with safe := true, acq := .frozen } }, by decide +kernel⟩,
   ⟨Tests.unlocked 2, by decide +kernel⟩⟩

theorem witness_MemoryErrors :
    (∃ (s : State) (mem word : Nat), (1 ≤ mem) ∧ (mem ≤ 9) ∧ (word < memWords s.dev.variant mem) ∧ (mem ≠ 7) ∧
       (s.mem.ceCount < s.mem.ceLimit ∨ s.mem.ceSignalled = true)) ∧
    (∃ (s : State) (mem word : Nat), (1 ≤ mem) ∧ (mem ≤ 9) ∧ (word < memWords s.dev.variant mem) ∧ (mem ≠ 7) ∧
       (s.mem.ceLimit ≤ s.mem.ceCount) ∧ (s.mem.ceSignalled = false)) ∧
    (∃ (s : State) (mem word : Nat), (1 ≤ mem) ∧ (mem ≤ 9) ∧ (word < memWords s.dev.variant mem)) ∧
    (∃ (mem word : Nat), (mem = 3) ∧ (word < 524288)) ∧
    (∃ (s : State) (word : Nat) (m : Fin 8), (word < 32768) ∧ ((mbOf s m.val).state = .running) ∧
       ((mbOf s m.val).tunnel = none)) ∧
    (∃ (word : Nat), word < 8192) ∧
    (∃ (s : State) (mem word : Nat), mem = 0 ∨ 9 < mem ∨ memWords s.dev.variant mem ≤ word) ∧
    (∃ (s : State), (s.mem.ceFrom + 250000000 ≤ s.tm.tick) ∧ (s.mem.ceCount ≤ s.mem.ceLimit ∨ s.mem.ceSignalled =
       true)) ∧
    (∃ (s : State), s.tm.tick < s.mem.ceFrom + 250000000) ∧
    (∃ (s : State), (s.mem.ceFrom + 250000000 ≤ s.tm.tick) ∧ (s.mem.ceLimit < s.mem.ceCount) ∧ (s.mem.ceSignalled =
       false) ∧ (s.flt.on = true)) ∧
    (∃ (s : State) (p : Fin 11) (b n : Nat), (scrubRuns p.val s = true) ∧ (passRead p.val s = true) ∧
       ((scrubOf p.val s).run = some (b, n)) ∧ (∀ c ∈ s.mem.corrupt, c.1 ≠ p.val)) ∧
    (∃ (s : State) (p : Fin 11) (w b n : Nat), (scrubRuns p.val s = true) ∧ ((scrubOf p.val s).run = some (b, n)) ∧
       (p.val = 4) ∧ (s.mem.corrupt = [(4, w, 1)]) ∧ (s.mem.ceCount < s.mem.ceLimit)) ∧
    (∃ (s : State) (p : Fin 11) (b n : Nat), ((scrubOf p.val s).run = some (b, n)) ∧ ((scrubOf p.val s).late =
       false) ∧ (b + 2000 * msTicks s * n < s.tm.tick)) ∧
    (∃ (s : State) (p : Fin 11) (b n : Nat), ((scrubOf p.val s).run = some (b, n)) ∧ ((scrubOf p.val s).late =
       true ∨ s.tm.tick ≤ b + 2000 * msTicks s * n)) ∧
    (∃ (s : State) (p : Fin 11), scrubRuns p.val s = false ∨ passRead p.val s = false) ∧
    (∃ (s : State) (m : Fin 8), (s.serves m.val 0x0901 = true) ∧ ((s.arg m.val 0 1) ≤ 9) ∧
       (zeroAt (s.request m.val) 3 1 = true) ∧ (zeroAt (s.request m.val) 24 232 = true) ∧
       (s.arg m.val 8 8 < memWords s.dev.variant (s.arg m.val 0 1)) ∧
       (s.arg m.val 8 8 + s.arg m.val 16 8 ≤ memWords s.dev.variant (s.arg m.val 0 1)) ∧ (s.arg m.val 1 1 = 0) ∧
       (s.arg m.val 4 4 = 0) ∧ (s.arg m.val 2 1 ≤ 1) ∧ (s.mem.march = none)) ∧
    (∃ (s : State) (m : Fin 8), (s.serves m.val 0x0901 = true) ∧ ((s.arg m.val 0 1) ≤ 9) ∧
       (zeroAt (s.request m.val) 3 1 = true) ∧ (zeroAt (s.request m.val) 24 232 = true) ∧
       (s.arg m.val 8 8 < memWords s.dev.variant (s.arg m.val 0 1)) ∧
       (s.arg m.val 8 8 + s.arg m.val 16 8 ≤ memWords s.dev.variant (s.arg m.val 0 1)) ∧ ((s.arg m.val 0 1) = 0) ∧
       (s.arg m.val 1 1 = 1) ∧ (s.arg m.val 4 4 = 0x4843524D) ∧ (s.arg m.val 2 1 ≤ 3) ∧ (s.mem.march = none) ∧
       (s.dev.acq = .idle) ∧ (occupied s.eq = 0)) ∧
    (∃ (s : State) (m : Fin 8), (s.serves m.val 0x0901 = true) ∧ ((s.arg m.val 0 1) ≤ 9) ∧
       (zeroAt (s.request m.val) 3 1 = true) ∧ (zeroAt (s.request m.val) 24 232 = true) ∧
       (s.arg m.val 8 8 < memWords s.dev.variant (s.arg m.val 0 1)) ∧
       (s.arg m.val 8 8 + s.arg m.val 16 8 ≤ memWords s.dev.variant (s.arg m.val 0 1)) ∧ (s.arg m.val 1 1 = 1) ∧
       (s.arg m.val 4 4 = 0x4843524D) ∧ (s.arg m.val 2 1 ≤ 1) ∧ (s.mem.march ≠ none ∨ memBusy (s.arg m.val 0 1) s =
       true)) ∧
    (∃ (s : State) (m : Fin 8), (s.serves m.val 0x0901 = true) ∧
       (9 < (s.arg m.val 0 1) ∨ memWords s.dev.variant (s.arg m.val 0 1) ≤ s.arg m.val 8 8 ∨ (s.arg m.val 1 1 = 1 ∧
       s.arg m.val 4 4 ≠ 0x4843524D))) ∧
    (∃ (s : State) (m : Fin 8) (c : March), (s.mem.march = some c) ∧ (c.mb = m.val) ∧ (s.serves m.val 0x0901 = true)) ∧
    (∃ (s : State) (m : Fin 8) (c : March) (k : Nat), (s.mem.march = some c) ∧ (c.mb = m.val) ∧
       (s.serves m.val 0x0901 = true) ∧ (0 < k) ∧ (c.flags.testBit 0 = false)) ∧
    (∃ (s : State) (m : Fin 8) (c : March) (k r : Nat), (s.mem.march = some c) ∧ (c.mb = m.val) ∧
       (s.serves m.val 0x0901 = true) ∧ (0 < k) ∧ (k ≤ r) ∧ (c.flags.testBit 0 = true)) ∧
    (∃ (s : State) (m : Fin 8) (c : March) (k r : Nat), (s.mem.march = some c) ∧ (c.mb = m.val) ∧
       (s.serves m.val 0x0901 = true) ∧ (r < k) ∧ (c.flags.testBit 0 = true)) ∧
    (∃ (s : State) (m : Fin 8), (s.mem.march.all (fun c => c.mb != m.val) = true) ∧ (s.mem.march.isSome =
       true ∨ startTests s = false)) ∧
    (∃ (s : State), (s.mem.march = none) ∧ (startTests s = true)) ∧
    (∃ (s : State) (k r : Nat), (s.mem.march = none) ∧ (startTests s = true) ∧ (k ≠ 0) ∧ (k ≤ r)) ∧
    (∃ (s : State) (k r f : Nat), (s.mem.march = none) ∧ (startTests s = true) ∧ (r < k) ∧ (1 ≤ f / 2 ^ 27) ∧
       (f / 2 ^ 27 ≤ 9)) ∧
    (∃ (s : State) (k r f : Nat), (s.mem.march = none) ∧ (startTests s = true) ∧ (r < k) ∧ (f / 2 ^ 27 = 0)) :=
  ⟨⟨{ State.reset with mem := { State.reset.mem with ceLimit := 4, corrupt := [(9, 16383, 1)] } }, 9, 16383, by decide +kernel⟩,
   ⟨{ Tests.collecting with mem := { State.reset.mem with ceLimit := 4, ceCount := 4 } }, 1, 0, by decide +kernel⟩,
   ⟨Tests.collecting, 2, 32767, by decide +kernel⟩,
   ⟨3, 524287, by decide +kernel⟩,
   ⟨Tests.running 1 0x0003 ([]) State.reset, 32767, 1, by decide +kernel⟩,
   ⟨8191, by decide +kernel⟩,
   ⟨State.reset, 9, 16384, by decide +kernel⟩,
   ⟨{ ({ State.reset with mem := { State.reset.mem with ceCount := 3 } }) with tm := { State.reset.tm with tick := 250000000 } }, by decide +kernel⟩,
   ⟨{ State.reset with mem := { State.reset.mem with ceCount := 3 } }, by decide +kernel⟩,
   ⟨{ Tests.collecting with mem := { State.reset.mem with ceLimit := 4, ceCount := 5 }, tm := { State.reset.tm with tick := 250000000 } }, by decide +kernel⟩,
   ⟨{ ({ State.reset with mem := { State.reset.mem with scrub := tabMod State.reset.mem.scrub 4 fun q => { q with enable := true, passS := 7, run := some (250000000, 5), late := true } } }) with tm := { State.reset.tm with tick := 500000000 } }, 4, 250000000, 5, by decide +kernel⟩,
   ⟨{ ({ State.reset with mem := { State.reset.mem with scrub := tabMod State.reset.mem.scrub 4 fun q => { q with enable := true, passS := 7, run := some (250000000, 5), late := true }, ceLimit := 5, corrupt := [(4, 9, 1)] } }) with tm := { State.reset.tm with tick := 500000000 } }, 4, 9, 250000000, 5, by decide +kernel⟩,
   ⟨{ ({ State.reset with mem := { State.reset.mem with scrub := tabMod State.reset.mem.scrub 4 fun q => { q with enable := true, passS := 7, run := some (250000000, 5), late := false } } }) with tm := { State.reset.tm with tick := 2750000001 } }, 4, 250000000, 5, by decide +kernel⟩,
   ⟨{ ({ State.reset with mem := { State.reset.mem with scrub := tabMod State.reset.mem.scrub 4 fun q => { q with enable := true, passS := 7, run := some (250000000, 5), late := false } } }) with tm := { State.reset.tm with tick := 2750000000 } }, 4, 250000000, 5, by decide +kernel⟩,
   ⟨{ State.reset with mem := { State.reset.mem with scrub := tabMod State.reset.mem.scrub 4 fun q => { q with run := none } } }, 4, by decide +kernel⟩,
   ⟨Tests.running 1 0x0901 ([9, 0, 1, 0, 0, 0, 0, 0] ++ leBytes 8 16383) State.reset, 1, by decide +kernel⟩,
   ⟨Tests.running 1 0x0901 ([0, 1, 2, 0] ++ leBytes 4 0x4843524D) State.reset, 1, by decide +kernel⟩,
   ⟨Tests.running 1 0x0901 ([9, 1, 1, 0] ++ leBytes 4 0x4843524D) State.reset, 1, by decide +kernel⟩,
   ⟨Tests.running 1 0x0901 ([1, 1]) State.reset, 1, by decide +kernel⟩,
   ⟨Tests.running 1 0x0901 ([]) ({ State.reset with mem := { State.reset.mem with march := some { mb := 1, mem := 4, kind := 0, flags := 1, start := 0, count := 8 } } }), 1, { mb := 1, mem := 4, kind := 0, flags := 1, start := 0, count := 8 }, by decide +kernel⟩,
   ⟨Tests.running 1 0x0901 ([]) ({ State.reset with mem := { State.reset.mem with march := some { mb := 1, mem := 4, kind := 0, flags := 0, start := 0, count := 8 } } }), 1, { mb := 1, mem := 4, kind := 0, flags := 0, start := 0, count := 8 }, 2, by decide +kernel⟩,
   ⟨Tests.running 1 0x0901 ([]) ({ State.reset with mem := { State.reset.mem with march := some { mb := 1, mem := 4, kind := 0, flags := 1, start := 0, count := 8 } } }), 1, { mb := 1, mem := 4, kind := 0, flags := 1, start := 0, count := 8 }, 2, 3, by decide +kernel⟩,
   ⟨Tests.running 1 0x0901 ([]) ({ State.reset with mem := { State.reset.mem with march := some { mb := 1, mem := 4, kind := 0, flags := 1, start := 0, count := 8 } } }), 1, { mb := 1, mem := 4, kind := 0, flags := 1, start := 0, count := 8 }, 2, 1, by decide +kernel⟩,
   ⟨{ State.reset with dev := { State.reset.dev with ready := true } }, 1, by decide +kernel⟩,
   ⟨{ State.reset with dev := { State.reset.dev with powered := true, perst := false } }, by decide +kernel⟩,
   ⟨{ State.reset with dev := { State.reset.dev with powered := true, perst := false } }, 3, 3, by decide +kernel⟩,
   ⟨{ State.reset with dev := { State.reset.dev with powered := true, perst := false } }, 3, 2, 0x8000001, by decide +kernel⟩,
   ⟨{ State.reset with dev := { State.reset.dev with powered := true, perst := false } }, 3, 0, 77, by decide +kernel⟩⟩

theorem witness_IntegrityCommands :
    (∃ (s : State) (m : Fin 8), (s.serves m.val 0x0002 = true) ∧ (0 < s.arg m.val 0 1 ∧ s.arg m.val 0 1 ≤ 31) ∧
       (zeroAt (s.request m.val) 1 255 = true) ∧ ((s.arg m.val 0 1).testBit 3 = true → s.dev.acq = .idle)) ∧
    (∃ (s : State) (m : Fin 8), (s.serves m.val 0x0002 = true) ∧ (s.arg m.val 0 1 = 0 ∨ 31 < s.arg m.val 0 1)) ∧
    (∃ (s : State) (m : Fin 8), (s.serves m.val 0x0002 = true) ∧ (s.arg m.val 0 1 ≤ 31) ∧
       (zeroAt (s.request m.val) 1 255 = true) ∧ ((s.arg m.val 0 1).testBit 3 = true) ∧ (s.dev.acq ≠ .idle)) ∧
    (∃ (s : State) (m : Fin 8) (x b : Byte), (s.serves m.val 0x0002 = true) ∧ (s.mem.tests.find? (fun t => t.1 ==
       m.val) = some (m.val, x.toNat)) ∧ (b &&& x = 0)) ∧
    (∃ (s : State) (m : Fin 8) (x b : Byte), (s.serves m.val 0x0002 = true) ∧ (s.mem.tests.find? (fun t => t.1 ==
       m.val) = some (m.val, x.toNat)) ∧ ((b &&& x).getLsbD 0 = true) ∧ (s.flt.on = true)) ∧
    (∃ (s : State) (m : Fin 8), s.mem.tests.find? (fun t => t.1 == m.val) = none) ∧
    (∃ (s : State) (m : Fin 8), (s.serves m.val 0x0902 = true) ∧ (s.arg m.val 1 1 ≤ 10) ∧ (s.arg m.val 2 1 ≤ 1) ∧
       (zeroAt (s.request m.val) 3 1 = true) ∧ (0 < s.arg m.val 4 4 ∧ s.arg m.val 4 4 ≤ 604800) ∧
       (0 < s.arg m.val 8 2) ∧ (zeroAt (s.request m.val) 10 246 = true) ∧ (s.arg m.val 0 1 = 0)) ∧
    (∃ (s : State) (m : Fin 8), (s.serves m.val 0x0902 = true) ∧ (s.arg m.val 1 1 ≤ 10) ∧ (s.arg m.val 2 1 ≤ 1) ∧
       (zeroAt (s.request m.val) 3 1 = true) ∧ (0 < s.arg m.val 4 4 ∧ s.arg m.val 4 4 ≤ 604800) ∧
       (0 < s.arg m.val 8 2) ∧ (zeroAt (s.request m.val) 10 246 = true) ∧ (s.arg m.val 0 1 = 1)) ∧
    (∃ (s : State) (m : Fin 8), (s.serves m.val 0x0902 = true) ∧ (10 < s.arg m.val 1 1 ∨ s.arg m.val 4 4 =
       0 ∨ 604800 < s.arg m.val 4 4)) ∧
    (∃ (s : State) (m : Fin 8), (s.serves m.val 0x0903 = true) ∧ (zeroAt (s.request m.val) 16 240 = true) ∧
       (s.arg m.val 0 1 = 1) ∧ (1 ≤ s.arg m.val 2 1) ∧ (s.arg m.val 2 1 ≤ 9) ∧ (1 ≤ s.arg m.val 3 1) ∧
       (s.arg m.val 3 1 ≤ 2) ∧ (s.arg m.val 8 8 < memWords s.dev.variant (s.arg m.val 2 1))) ∧
    (∃ (s : State) (m : Fin 8), (s.serves m.val 0x0903 = true) ∧ (zeroAt (s.request m.val) 16 240 = true) ∧
       (s.arg m.val 0 1 = 1) ∧ (s.arg m.val 2 1 = 0) ∧ (s.arg m.val 3 1 = 2) ∧
       (s.arg m.val 8 8 < memWords s.dev.variant 0)) ∧
    (∃ (s : State) (m : Fin 8), (s.serves m.val 0x0903 = true) ∧ (zeroAt (s.request m.val) 16 240 = true) ∧
       (s.arg m.val 0 1 = 0) ∧ (s.arg m.val 1 1 ≤ 38) ∧ (hasSource s.dev.variant (s.arg m.val 1 1) = true) ∧
       (s.arg m.val 1 1 ≠ 34) ∧ (s.arg m.val 1 1 ≠ 15) ∧ (s.arg m.val 1 1 ≠ 10) ∧ (s.arg m.val 1 1 ≠ 0) ∧ (s.flt.on =
       true) ∧ (s.flt.status.getLsbD (s.arg m.val 1 1) = false) ∧ (sevInForce (s.arg m.val 1 1) s = .notify)) ∧
    (∃ (s : State) (m : Fin 8), (s.serves m.val 0x0903 = true) ∧ (zeroAt (s.request m.val) 16 240 = true) ∧
       (s.arg m.val 0 1 = 0) ∧ (s.arg m.val 1 1 ≤ 38) ∧ (hasSource s.dev.variant (s.arg m.val 1 1) = false)) ∧
    (∃ (s : State) (m : Fin 8), (s.serves m.val 0x0903 = true) ∧ (1 < s.arg m.val 0 1 ∨ (s.arg m.val 0 1 = 0 ∧
       38 < s.arg m.val 1 1))) ∧
    (∃ (s : State) (m : Fin 8) (k : Nat), (s.serves m.val 0x0003 = true) ∧ (0 < s.arg m.val 4 1 ∧
       s.arg m.val 4 1 ≤ 7) ∧ (zeroAt (s.request m.val) 5 251 = true) ∧ (s.evt.log.length ≤ 4096) ∧
       (k < s.evt.log.length) ∧ (s.arg m.val 0 4 = ((oldestSeq s) + BitVec.ofNat 32 k).toNat)) ∧
    (∃ (s : State) (m : Fin 8), (s.serves m.val 0x0003 = true) ∧ (0 < s.arg m.val 4 1 ∧ s.arg m.val 4 1 ≤ 7) ∧
       (zeroAt (s.request m.val) 5 251 = true) ∧ (s.evt.log.length ≤ 4096) ∧ (s.arg m.val 0 4 = s.evt.next.toNat)) ∧
    (∃ (s : State) (m : Fin 8), (s.serves m.val 0x0003 = true) ∧ (s.arg m.val 4 1 = 0 ∨ 7 < s.arg m.val 4 1)) ∧
    (∃ (s : State) (m : Fin 8), s.serves m.val 0x0001 = true) :=
  ⟨⟨Tests.running 1 0x0002 ([31]) State.reset, 1, by decide +kernel⟩,
   ⟨Tests.running 1 0x0002 ([32]) State.reset, 1, by decide +kernel⟩,
   ⟨Tests.running 1 0x0002 ([8]) (Tests.acquiring State.reset), 1, by decide +kernel⟩,
   ⟨Tests.running 1 0x0002 ([31]) { Tests.collecting with mem := { State.reset.mem with tests := [(1, 31)] } }, 1, 31, 32, by decide +kernel⟩,
   ⟨Tests.running 1 0x0002 ([31]) { Tests.collecting with mem := { State.reset.mem with tests := [(1, 31)] } }, 1, 31, 33, by decide +kernel⟩,
   ⟨State.reset, 1, by decide +kernel⟩,
   ⟨Tests.running 1 0x0902 ([0, 10, 1, 0] ++ leBytes 4 604800 ++ leBytes 2 9) State.reset, 1, by decide +kernel⟩,
   ⟨Tests.running 1 0x0902 ([1, 10, 1, 0] ++ leBytes 4 604800 ++ leBytes 2 9) State.reset, 1, by decide +kernel⟩,
   ⟨Tests.running 1 0x0902 ([0, 11]) State.reset, 1, by decide +kernel⟩,
   ⟨Tests.running 1 0x0903 ([1, 0, 2, 2, 0, 0, 0, 0] ++ leBytes 8 7) State.reset, 1, by decide +kernel⟩,
   ⟨Tests.running 1 0x0903 ([1, 0, 0, 2, 0, 0, 0, 0] ++ leBytes 8 7) State.reset, 1, by decide +kernel⟩,
   ⟨Tests.running 1 0x0903 ([0, 21]) Tests.collecting, 1, by decide +kernel⟩,
   ⟨Tests.running 1 0x0903 ([0, 32]) (State.resetOf .b9128), 1, by decide +kernel⟩,
   ⟨Tests.running 1 0x0903 ([0, 39]) State.reset, 1, by decide +kernel⟩,
   ⟨Tests.running 1 0x0003 ([4, 0, 0, 0, 7]) { State.reset with evt := { State.reset.evt with next := 6, log := List.replicate 3 { seq := 0, kind := 0, eflags := 0, code := 0, sec := 0, ns := 0, data := [] } } }, 1, 1, by decide +kernel⟩,
   ⟨Tests.running 1 0x0003 ([6, 0, 0, 0, 7]) { State.reset with evt := { State.reset.evt with next := 6, log := List.replicate 3 { seq := 0, kind := 0, eflags := 0, code := 0, sec := 0, ns := 0, data := [] } } }, 1, by decide +kernel⟩,
   ⟨Tests.running 1 0x0003 ([6, 0, 0, 0, 8]) State.reset, 1, by decide +kernel⟩,
   ⟨Tests.running 1 0x0001 ([9]) State.reset, 1, by decide +kernel⟩⟩

theorem witness_EndpointMessages :
    (∃ (s : State) (v : Fin 64), (s.pcie.pba.getLsbD v.val = true) ∧ (s.pcie.msixEn = true) ∧ (s.pcie.funcMask =
       false) ∧ ((msixWord (4 * v.val + 3) s).getLsbD 0 = false) ∧ (s.pcie.bme = true) ∧ (s.pcie.d3hot = false)) ∧
    (∃ (s : State) (v : Fin 64), s.pcie.pba.getLsbD v.val = false ∨ s.pcie.msixEn = false ∨ s.pcie.funcMask =
       true ∨ (msixWord (4 * v.val + 3) s).getLsbD 0 = true ∨ s.pcie.bme = false ∨ s.pcie.d3hot = true) ∧
    (∃ (s : State), (configServed s = true) ∧ (s.pcie.ltrEn = false) ∧ (s.pcie.d3hot = false)) ∧
    (∃ (s : State), configServed s = true) ∧
    (∃ (s : State), configServed s = false) ∧
    (∃ (s : State) (t : Nat) (a : Nat × Nat), (t, a) ∈ s.pcie.tags) ∧
    (∃ (s : State) (t a x : Nat), (∀ e ∈ s.pcie.tags, e.1 ≠ t) ∧ (s.pcie.quarantine.find? (fun e => e.1 = t) =
       some (t, a, x, false)) ∧ (s.pcie.aer.uncSev.getLsbD (aerUncBit 1) = false)) ∧
    (∃ (s : State) (t a x : Nat), (∀ e ∈ s.pcie.tags, e.1 ≠ t) ∧ (s.pcie.quarantine.find? (fun e => e.1 = t) =
       some (t, a, x, true))) ∧
    (∃ (s : State) (t : Nat), (∀ e ∈ s.pcie.tags, e.1 ≠ t) ∧ (∀ e ∈ s.pcie.quarantine, e.1 ≠ t) ∧
       (s.pcie.aer.uncSev.getLsbD (aerUncBit 1) = false)) ∧
    (∃ (s : State) (b : Fin 6), (alive s = true) ∧ (b ≠ 0) ∧ (aerMasked 3 s = false)) ∧
    (∃ (s : State), (alive s = true) ∧ (aerMasked 3 s = false)) ∧
    (∃ (s : State), (alive s = true) ∧ (aerMasked 5 s = true)) ∧
    (∃ (s : State), alive s = true) ∧
    (∃ (s : State), s.pcie.aer.ecrcChk = false) ∧
    (∃ (s : State), alive s = false) :=
  ⟨⟨{ State.reset with pcie := { State.reset.pcie with pba := 0xFFFFFFFFFFFFFFFF, msixEn := true, bme := true, msixTable := Vector.replicate 256 0 } }, 63, by decide +kernel⟩,
   ⟨State.reset, 0, by decide +kernel⟩,
   ⟨{ State.reset with dev := { State.reset.dev with ready := true }, pcie := { State.reset.pcie with dlUp := true } }, by decide +kernel⟩,
   ⟨{ State.reset with dev := { State.reset.dev with ready := true }, pcie := { State.reset.pcie with ltrEn := true, ltrAny := true } }, by decide +kernel⟩,
   ⟨State.reset, by decide +kernel⟩,
   ⟨{ State.reset with pcie := { State.reset.pcie with tags := [(5, 0, 9)] } }, 5, (0, 9), by decide +kernel⟩,
   ⟨{ State.reset with pcie := { State.reset.pcie with quarantine := [(5, 64, 9, false)] } }, 5, 64, 9, by decide +kernel⟩,
   ⟨{ State.reset with pcie := { State.reset.pcie with quarantine := [(5, 64, 9, true)] } }, 5, 64, 9, by decide +kernel⟩,
   ⟨State.reset, 7, by decide +kernel⟩,
   ⟨State.reset, 1, by decide +kernel⟩,
   ⟨State.reset, by decide +kernel⟩,
   ⟨{ State.reset with pcie := { State.reset.pcie with aer := { State.reset.pcie.aer with uncMask := 0xFFFFFFFF } } }, by decide +kernel⟩,
   ⟨State.reset, by decide +kernel⟩,
   ⟨State.reset, by decide +kernel⟩,
   ⟨{ State.reset with dev := { State.reset.dev with perst := true } }, by decide +kernel⟩⟩

theorem witness_EndpointPower :
    (∃ (s : State), (configServed s = true) ∧ (s.pcie.bme = true)) ∧
    (∃ (s : State), configServed s = true) ∧
    (∃ (s : State), configServed s = true) ∧
    (∃ (s : State), (configServed s = true) ∧ (s.pcie.d3hot = true) ∧ (s.pcie.ltrEn = false)) ∧
    (∃ (s : State), (configServed s = true) ∧ (s.pcie.d3hot = true)) ∧
    (∃ (s : State), (s.pcie.aspmEn = true) ∧ (s.pcie.dlUp = true) ∧ (s.pcie.tags = []) ∧ (∀ v < 64, msixReady v s =
       false)) ∧
    (∃ (s : State) (g w : Nat), (coreUp s = true) ∧ (s.pcie.dlUp = false) ∧ (linkOk s.dev.variant g w = true)) ∧
    (∃ (s : State) (g w : Nat), (s.pcie.dlUp = true) ∧ (linkOk s.dev.variant g w = true) ∧ (g ≠ s.pcie.gen)) ∧
    (∃ (g w : Nat), g = 0 ∨ 5 < g ∨ w ∉ [1, 2, 4, 8, 16]) :=
  ⟨⟨{ State.reset with dev := { State.reset.dev with ready := true }, pcie := { State.reset.pcie with bme := true } }, by decide +kernel⟩,
   ⟨{ State.reset with dev := { State.reset.dev with ready := true }, pcie := { State.reset.pcie with dlUp := true } }, by decide +kernel⟩,
   ⟨{ State.reset with dev := { State.reset.dev with ready := true }, pcie := { State.reset.pcie with bme := true } }, by decide +kernel⟩,
   ⟨{ State.reset with dev := { State.reset.dev with ready := true }, pcie := { State.reset.pcie with d3hot := true } }, by decide +kernel⟩,
   ⟨{ State.reset with dev := { State.reset.dev with ready := true }, pcie := { State.reset.pcie with d3hot := true } }, by decide +kernel⟩,
   ⟨{ State.reset with pcie := { State.reset.pcie with aspmEn := true, dlUp := true } }, by decide +kernel⟩,
   ⟨State.reset, 5, 16, by decide +kernel⟩,
   ⟨{ State.reset with pcie := { State.reset.pcie with dlUp := true, gen := 5, width := 16 } }, 4, 8, by decide +kernel⟩,
   ⟨5, 12, by decide +kernel⟩⟩

theorem witness_PeerAccess :
    (∃ (s : State) (r x : Nat), (s.reached = true) ∧ (0x40000 ≤ x ∨ hostFiltered r s = false)) ∧
    (∃ (s : State) (r x : Nat), (s.reached = true) ∧ (0x40000 ≤ x ∨ hostFiltered r s = false)) ∧
    (∃ (s : State) (r x : Nat), (s.reached = true) ∧ (x < 0x40000) ∧ (hostFiltered r s = true) ∧
       (s.pcie.aer.uncSev.getLsbD (aerUncBit 2) = false)) ∧
    (∃ (s : State) (r : Nat), (s.reached = true) ∧ (hostFiltered r s = false)) ∧
    (∃ (s : State) (r : Nat) (k : Fin 8), (s.reached = true) ∧ (hostFiltered r s = false) ∧ (k.val ≠ 7) ∧
       (0 < (cwOf s k.val).size) ∧ ((cwOf s k.val).base + (cwOf s k.val).size ≤ 64)) ∧
    (∃ (s : State) (r : Nat), (s.reached = true) ∧ (hostFiltered r s = false)) ∧
    (∃ (s : State) (r x n : Nat), (s.reached = true) ∧ (x < 0x1000000) ∧ (pwAdmits (x / 0x200000) r (.read x n) s =
       true)) ∧
    (∃ (s : State) (r x n : Nat) (bs : List (Option Byte)), (s.reached = true) ∧
       (pwAdmits (x / 0x200000) r (.read x n) s = false) ∧ (pwAdmits (x / 0x200000) r (.write x bs) s = false) ∧
       (s.pcie.aer.uncSev.getLsbD (aerUncBit 2) = false)) ∧
    (∃ (s : State) (v : Word), (s.reached = true) ∧ (∀ n < 8, v.getLsbD n = true → pwBad n s = false)) ∧
    (∃ (s : State) (v : Word) (n : Nat), (s.reached = true) ∧ (n < 8) ∧ (v.getLsbD n = true) ∧ (pwBad n s = true)) ∧
    (∃ (s : State) (c : List (Nat × Word × Word)) (q : List (List (Nat × Word × Word))), s.pcie.pwCommits = c :: q) ∧
    (∃ (s : State) (n : Fin 8) (a b : Word) (q : List (List (Nat × Word × Word))), s.pcie.pwCommits = [(n.val, a,
       b)] :: q) ∧
    (∃ (s : State), s.pcie.pwCommits = []) :=
  ⟨⟨State.reset, 0, 0x3FFFC, by decide +kernel⟩,
   ⟨State.reset, 0, 0x3FFFF, by decide +kernel⟩,
   ⟨{ State.reset with pcie := { State.reset.pcie with hostRid := 0x10007 } }, 8, 0, by decide +kernel⟩,
   ⟨State.reset, 0, by decide +kernel⟩,
   ⟨State.reset, 0, 3, by decide +kernel⟩,
   ⟨State.reset, 0, by decide +kernel⟩,
   ⟨{ State.reset with pcie := { State.reset.pcie with pwCfgAct := Vector.replicate 8 0x80000000, pwMapAct := Vector.replicate 8 0x20030 } }, 0x4100, 0x200010, 8, by decide +kernel⟩,
   ⟨State.reset, 0, 0, 4, [some 1], by decide +kernel⟩,
   ⟨State.reset, 0xFF, by decide +kernel⟩,
   ⟨{ State.reset with pcie := { State.reset.pcie with pwCfg := Vector.replicate 8 0x80000000 } }, 2, 1, by decide +kernel⟩,
   ⟨{ State.reset with pcie := { State.reset.pcie with pwCommits := [[(1, 5, 6)]] } }, [(1, 5, 6)], [], by decide +kernel⟩,
   ⟨{ State.reset with pcie := { State.reset.pcie with pwCommits := [[(1, 5, 6)]] } }, 1, 5, 6, [], by decide +kernel⟩,
   ⟨State.reset, by decide +kernel⟩⟩

theorem witness_MailboxStart :
    (∃ (s : State) (m : Fin 8) (v : Word), (s.reached = true) ∧ (v.getLsbD 0 = true) ∧ ((mbOf s m.val).state =
       .idle ∨ (mbOf s m.val).state = .done) ∧ (bitsOf 31 25 (mbOf s m.val).cmd.toNat = 0) ∧
       (s.summit.state ≠ .halted)) ∧
    (∃ (s : State) (m : Fin 8) (v : Word), (s.reached = true) ∧ (v.getLsbD 0 = true) ∧ ((mbOf s m.val).state =
       .idle ∨ (mbOf s m.val).state = .done) ∧ (bitsOf 31 25 (mbOf s m.val).cmd.toNat ≠ 0) ∧ ((mbOf s m.val).tunnel =
       none)) ∧
    (∃ (s : State) (m : Fin 8) (v : Word), (s.reached = true) ∧ (v.getLsbD 0 = true) ∧ ((mbOf s m.val).state =
       .queued ∨ (mbOf s m.val).state = .running)) ∧
    (∃ (s : State) (v : Word), (s.reached = true) ∧ (v.getLsbD 0 = false) ∧ (s.cfg.unlock = 0)) ∧
    (∃ (s : State), s.reached = true) ∧
    (∃ (s : State) (be : BitVec 4), (s.reached = true) ∧ (be ≠ 0xF#4) ∧ (s.cfg.unlock = 0)) ∧
    (∃ (s : State) (m : Fin 8), (eligible m.val s = true) ∧ (s.summit.state = .running) ∧ ((mbOf s m.val).tunnel =
       none) ∧ ((mbOf s m.val).opcode ∈ opcodes) ∧ (s.dev.bootrom = false) ∧
       (lacksOpcode s.dev.variant (mbOf s m.val).opcode = false)) ∧
    (∃ (s : State) (m : Fin 8), (eligible m.val s = true) ∧ (s.summit.state = .running) ∧ ((mbOf s m.val).tunnel =
       none) ∧ ((mbOf s m.val).opcode ∉ opcodes)) ∧
    (∃ (s : State) (m : Fin 8), (eligible m.val s = true) ∧ (s.summit.state = .running) ∧ ((mbOf s m.val).tunnel =
       none) ∧ ((mbOf s m.val).opcode ∈ opcodes) ∧ (s.dev.bootrom = false) ∧
       (lacksOpcode s.dev.variant (mbOf s m.val).opcode = true)) ∧
    (∃ (s : State) (m : Fin 8), (eligible m.val s = true) ∧ (s.summit.state = .bootrom) ∧ ((mbOf s m.val).tunnel =
       none) ∧ ((mbOf s m.val).opcode ∈ opcodes) ∧ ((mbOf s m.val).opcode ∉ bootOpcodes) ∧ (s.dev.bootrom = true)) ∧
    (∃ (s : State) (m n : Fin 8), (mbBusy (mbOf s n.val) = true) ∧ ((mbOf s n.val).order < (mbOf s m.val).order) ∧
       ((mbOf s m.val).barrier = true ∨ (mbOf s n.val).barrier = true)) ∧
    (∃ (s : State), (s.summit.state ≠ .running) ∧ (s.summit.state ≠ .bootrom)) :=
  ⟨⟨Tests.unlocked 5, 7, 1, by decide +kernel⟩,
   ⟨modMb 7 (fun q => { q with cmd := 0x2000000 }) State.reset, 7, 1, by decide +kernel⟩,
   ⟨Tests.running 1 0 [] State.reset, 1, 1, by decide +kernel⟩,
   ⟨State.reset, 2, by decide +kernel⟩,
   ⟨Tests.unlocked 5, by decide +kernel⟩,
   ⟨State.reset, 1, by decide +kernel⟩,
   ⟨modMb 2 (fun q => { q with state := .queued, opcode := 0x0B01 }) ({ State.reset with summit := { State.reset.summit with state := .running } }), 2, by decide +kernel⟩,
   ⟨modMb 2 (fun q => { q with state := .queued, opcode := 0x0B02 }) ({ State.reset with summit := { State.reset.summit with state := .running } }), 2, by decide +kernel⟩,
   ⟨modMb 2 (fun q => { q with state := .queued, opcode := 0x0701 }) { State.resetOf .b9128 with summit := { State.reset.summit with state := .running } }, 2, by decide +kernel⟩,
   ⟨modMb 2 (fun q => { q with state := .queued, opcode := 0x0000 }) { State.reset with summit := { State.reset.summit with state := .bootrom }, dev := { State.reset.dev with bootrom := true } }, 2, by decide +kernel⟩,
   ⟨modMb 2 (fun q => { q with state := .queued, order := 1, barrier := true }) (modMb 3 (fun q => { q with state := .queued }) State.reset), 2, 3, by decide +kernel⟩,
   ⟨State.reset, by decide +kernel⟩⟩

theorem witness_WindowRegisters :
    (∃ (s : State) (k : Fin 8) (v : Word), (s.reached = true) ∧ (k.val ≠ 7) ∧ ((cwOf s k.val).claimed = false) ∧
       (cwCfgOk k.val (bitsOf 13 8 v.toNat) (bitsOf 5 0 v.toNat) s = true)) ∧
    (∃ (s : State) (k : Fin 8) (v : Word), (s.reached = true) ∧ (k.val ≠ 7) ∧ ((cwOf s k.val).claimed = false) ∧
       (cwCfgOk k.val (bitsOf 13 8 v.toNat) (bitsOf 5 0 v.toNat) s = false)) ∧
    (∃ (s : State) (k : Fin 8), (s.reached = true) ∧ (k.val ≠ 7) ∧ ((cwOf s k.val).claimed = true)) ∧
    (∃ (s : State), s.reached = true) ∧
    (∃ (s : State) (k : Fin 8) (v : Word), (s.reached = true) ∧ (k.val ≠ 7) ∧ ((cwOf s k.val).claimed = true) ∧
       ((cwOf s k.val).hostProduces = true) ∧
       (cwUnread (cwOf s k.val) + (v - (cwOf s k.val).prod).toNat ≤ cwSize (cwOf s k.val)) ∧
       (v.toNat ≤ (cwOf s k.val).len.toNat)) ∧
    (∃ (s : State) (k : Fin 8) (v : Word), (s.reached = true) ∧ (k.val ≠ 7) ∧ ((cwOf s k.val).claimed = true) ∧
       ((cwOf s k.val).hostProduces = true) ∧ ((cwOf s k.val).len.toNat < v.toNat)) ∧
    (∃ (s : State) (k : Fin 8), (s.reached = true) ∧ (k.val = 7 ∨ (cwOf s k.val).claimed =
       false ∨ (cwOf s k.val).hostProduces = false)) ∧
    (∃ (s : State) (v : Word), (s.reached = true) ∧ ((v - (cwOf s 7).cons).toNat ≤ cwUnread (cwOf s 7))) ∧
    (∃ (s : State) (k : Fin 8) (v : Word), (s.reached = true) ∧ (k.val ≠ 7) ∧ ((cwOf s k.val).claimed = true) ∧
       ((cwOf s k.val).hostProduces = false) ∧ ((v - (cwOf s k.val).cons).toNat ≤ cwUnread (cwOf s k.val)) ∧
       ((cwOf s k.val).out ≠ []) ∧
       ((cwOf s k.val).out.length ≤ cwSize (cwOf s k.val) - ((cwOf s k.val).prod - v).toNat) ∧
       ((cwOf s k.val).mb < 8) ∧ ((mbOf s (cwOf s k.val).mb).tunnel = none)) ∧
    (∃ (s : State) (k : Fin 8) (v : Word), (s.reached = true) ∧ (k.val ≠ 7) ∧ ((cwOf s k.val).claimed = true →
       (cwOf s k.val).hostProduces = false) ∧ ((v - (cwOf s k.val).cons).toNat ≤ cwUnread (cwOf s k.val))) ∧
    (∃ (s : State) (k : Fin 8) (v : Word), (s.reached = true) ∧ (k.val = 7 ∨ (cwOf s k.val).claimed =
       false ∨ (cwOf s k.val).hostProduces = false) ∧ (cwUnread (cwOf s k.val) < (v - (cwOf s k.val).cons).toNat)) ∧
    (∃ (s : State) (k : Fin 8), (k.val ≠ 7) ∧ ((cwOf s k.val).claimed = true) ∧ ((cwOf s k.val).hostProduces =
       false) ∧ ((cwOf s k.val).out ≠ []) ∧ ((cwOf s k.val).mb < 8) ∧ ((mbOf s (cwOf s k.val).mb).tunnel = none)) ∧
    (∃ (s : State) (k : Fin 8), (k.val ≠ 7) ∧ ((cwOf s k.val).claimed = true) ∧ ((cwOf s k.val).hostProduces =
       true) ∧ ((cwOf s k.val).inn.length < (cwOf s k.val).len.toNat) ∧ ((cwOf s k.val).mb < 8) ∧
       ((mbOf s (cwOf s k.val).mb).tunnel = none)) ∧
    (∃ (s : State) (k : Fin 8), k.val = 7 ∨ (cwOf s k.val).claimed = false) :=
  ⟨⟨State.reset, 0, 0x120, by decide +kernel⟩,
   ⟨State.reset, 0, 0x108, by decide +kernel⟩,
   ⟨modCw 3 (fun w => { w with claimed := true }) State.reset, 3, by decide +kernel⟩,
   ⟨State.reset, by decide +kernel⟩,
   ⟨modCw 3 (fun w => { w with claimed := true, hostProduces := true, len := 200, prod := 8, cons := 8 }) State.reset, 3, 200, by decide +kernel⟩,
   ⟨modCw 3 (fun w => { w with claimed := true, hostProduces := true, len := 200, prod := 8, cons := 8 }) State.reset, 3, 201, by decide +kernel⟩,
   ⟨State.reset, 3, by decide +kernel⟩,
   ⟨modCw 7 (fun w => { w with prod := 64 }) State.reset, 32, by decide +kernel⟩,
   ⟨modCw 3 (fun w => { w with claimed := true, mb := 1, len := 300, prod := 200, out := zeros 100 }) State.reset, 3, 100, by decide +kernel⟩,
   ⟨modCw 3 (fun w => { w with claimed := true, mb := 1, len := 300, prod := 200, out := zeros 100 }) State.reset, 3, 100, by decide +kernel⟩,
   ⟨State.reset, 3, 1, by decide +kernel⟩,
   ⟨modCw 3 (fun w => { w with claimed := true, mb := 1, len := 300, prod := 200, out := zeros 100 }) State.reset, 3, by decide +kernel⟩,
   ⟨modCw 3 (fun w => { w with claimed := true, hostProduces := true, len := 200, prod := 8, cons := 8 }) State.reset, 3, by decide +kernel⟩,
   ⟨State.reset, 7, by decide +kernel⟩⟩

theorem witness_ControllerStart :
    (∃ (s : State), (s.summit.state ≠ .halted) ∧ (coreUp s = true)) ∧
    (∃ (s : State), (s.summit.state ≠ .halted) ∧ (coreUp s = true) ∧
       (s.summit.lastKick + 100 * msTicks s ≤ s.tm.tick)) ∧
    (∃ (s : State), s.tm.tick < s.summit.lastKick + 100 * msTicks s) ∧
    (∃ (s : State), s.summit.state = .halted) ∧
    (∃ (s : State), (s.summit.verified = true) ∧ (s.summit.state = .boot) ∧ (s.dev.bootrom = false)) ∧
    (∃ (s : State) (i : Word) (l : List Word), (s.summit.verified = true) ∧ (s.summit.state = .boot) ∧
       (s.dev.bootrom = false) ∧ (s.flt.on = false) ∧ (s.mem.failed = i :: l)) ∧
    (∃ (s : State), (s.summit.verified = true) ∧ (s.summit.state = .restarting) ∧ (s.flt.on = true) ∧ (s.dev.safe =
       true) ∧ (s.dev.bootrom = false) ∧ (∀ p < 16, (podAt s p).present = true → (podAt s p).state ≠ .empty)) ∧
    (∃ (s : State), (s.summit.verified = true) ∧ (s.summit.state = .boot) ∧ (s.dev.bootrom = true)) ∧
    (∃ (s : State), s.summit.verified = false) ∧
    (∃ (s : State) (a : SlotImage), (s.summit.state = .boot ∨ s.summit.state = .restarting) ∧ (slotFail none a s =
       0)) ∧
    (∃ (s : State) (a b : SlotImage), (s.summit.state = .boot ∨ s.summit.state = .restarting) ∧
       (slotFail none a s ≠ 0) ∧ (slotFail none b s = 0)) ∧
    (∃ (s : State) (a b : SlotImage), (s.summit.state = .boot ∨ s.summit.state = .restarting) ∧
       (slotFail none a s ≠ 0) ∧ (∀ x : State, slotFail none b x ≠ 0)) ∧
    (∃ (s : State), (s.summit.state ≠ .boot) ∧ (s.summit.state ≠ .restarting)) :=
  ⟨⟨{ Tests.running 1 0 [] State.reset with tm := { State.reset.tm with tick := 25000000 } }, by decide +kernel⟩,
   ⟨{ Tests.running 1 0 [] State.reset with tm := { State.reset.tm with tick := 25000000 } }, by decide +kernel⟩,
   ⟨State.reset, by decide +kernel⟩,
   ⟨{ State.reset with summit := { State.reset.summit with state := .halted } }, by decide +kernel⟩,
   ⟨{ State.reset with summit := { State.reset.summit with verified := true } }, by decide +kernel⟩,
   ⟨{ State.reset with dev := { State.reset.dev with powered := true }, summit := { State.reset.summit with verified := true }, mem := { State.reset.mem with failed := [0x8000001] } }, 0x8000001, [], by decide +kernel⟩,
   ⟨{ Tests.collecting with dev := { State.reset.dev with safe := true }, summit := { State.reset.summit with verified := true, state := .restarting } }, by decide +kernel⟩,
   ⟨{ State.reset with dev := { State.reset.dev with bootrom := true }, summit := { State.reset.summit with verified := true } }, by decide +kernel⟩,
   ⟨State.reset, by decide +kernel⟩,
   ⟨State.reset, Tests.image, ⟨by decide, Tests.image_good none State.reset (.inl rfl) rfl rfl⟩⟩,
   ⟨State.reset, .empty, Tests.image, ⟨by decide, by decide, Tests.image_good none State.reset (.inl rfl) rfl rfl⟩⟩,
   ⟨State.reset, .empty, .empty, ⟨by decide, by decide, fun _ => by simp [slotFail]⟩⟩,
   ⟨{ State.reset with summit := { State.reset.summit with state := .running } }, by decide +kernel⟩⟩

theorem witness_FirmwareCommands :
    (∃ (s : State) (m : Fin 8), (s.serves m.val 0x0000 = true) ∧ (zeroAt (s.request m.val) 0 256 = true)) ∧
    (∃ (s : State) (m : Fin 8), (s.serves m.val 0x0000 = true) ∧ (zeroAt (s.request m.val) 0 256 = false)) ∧
    (∃ (s : State) (m : Fin 8), (s.serves m.val 0x0A01 = true) ∧ ((s.arg m.val 0 1) ≤ 6) ∧
       (zeroAt (s.request m.val) 1 3 = true) ∧ (zeroAt (s.request m.val) 8 248 = true) ∧ (s.arg m.val 4 4 % 4 = 0) ∧
       (30052 ≤ s.arg m.val 4 4) ∧ (s.arg m.val 4 4 ≤ Config.flashBytes / 2) ∧ (s.sealer.fw = none) ∧
       ((cwOf s (s.arg m.val 0 1)).claimed = false)) ∧
    (∃ (s : State) (m : Fin 8) (n : Nat), (s.serves m.val 0x0A01 = true) ∧ ((s.arg m.val 0 1) ≤ 6) ∧
       (zeroAt (s.request m.val) 1 3 = true) ∧ (zeroAt (s.request m.val) 8 248 = true) ∧ (s.arg m.val 4 4 % 4 = 0) ∧
       (30052 ≤ s.arg m.val 4 4) ∧ (s.arg m.val 4 4 ≤ Config.flashBytes / 2) ∧ (s.sealer.fw = some n)) ∧
    (∃ (s : State) (m : Fin 8) (r : FlashRead), (s.serves m.val 0x0A01 = true) ∧ (s.sealer.fw = some m.val) ∧
       (s.arg m.val 4 4 ≤ (cwOf s (s.arg m.val 0 1)).inn.length) ∧
       ((slotFail (some (s.arg m.val 4 4)) (stagedImage (readBack r ((cwOf s (s.arg m.val 0 1)).inn.take (s.arg m.val 4 4)))) s) =
       0)) ∧
    (∃ (s : State) (m : Fin 8) (r : FlashRead), (s.serves m.val 0x0A01 = true) ∧ (s.sealer.fw = some m.val) ∧
       (s.arg m.val 4 4 ≤ (cwOf s (s.arg m.val 0 1)).inn.length) ∧
       ((slotFail (some (s.arg m.val 4 4)) (stagedImage (readBack r ((cwOf s (s.arg m.val 0 1)).inn.take (s.arg m.val 4 4)))) s) ≠ 0)) ∧
    (∃ (s : State) (m : Fin 8), (s.serves m.val 0x0A01 = true) ∧ (s.sealer.fw = some m.val) ∧
       (s.arg m.val 4 4 ≤ (cwOf s (s.arg m.val 0 1)).inn.length)) ∧
    (∃ (s : State) (m : Fin 8), s.sealer.fw ≠ some m.val ∨ (cwOf s (s.arg m.val 0 1)).inn.length < s.arg m.val 4 4) ∧
    (∃ (s : State) (m : Fin 8), (s.serves m.val 0x0A02 = true) ∧ (s.arg m.val 0 1 ≤ 1) ∧
       (zeroAt (s.request m.val) 1 3 = true) ∧ (s.arg m.val 4 4 = 0x4D4D4F43) ∧ (zeroAt (s.request m.val) 8 248 =
       true) ∧ (s.sealer.fw = none) ∧ (s.dev.fwSlot = 0) ∧ (slotAFail s = 0)) ∧
    (∃ (s : State) (m : Fin 8), (s.serves m.val 0x0A02 = true) ∧ (s.arg m.val 0 1 ≤ 1) ∧
       (zeroAt (s.request m.val) 1 3 = true) ∧ (s.arg m.val 4 4 = 0x4D4D4F43) ∧ (zeroAt (s.request m.val) 8 248 =
       true) ∧ (s.sealer.fw = none) ∧ (s.dev.fwSlot = 0) ∧ (slotAFail s ≠ 0)) ∧
    (∃ (s : State) (m : Fin 8), (s.serves m.val 0x0A02 = true) ∧ (s.sealer.fw = some m.val) ∧ (s.arg m.val 0 1 = 1)) ∧
    (∃ (s : State) (m : Fin 8), (s.serves m.val 0x0A03 = true) ∧ (zeroAt (s.request m.val) 0 256 = true)) :=
  ⟨⟨Tests.running 1 0 [] State.reset, 1, by decide +kernel⟩,
   ⟨Tests.running 1 0 [0, 1] State.reset, 1, by decide +kernel⟩,
   ⟨Tests.running 1 0x0A01 [2, 0, 0, 0, 0x64, 0x75] State.reset, 1, ⟨by decide +kernel, by decide +kernel, by decide +kernel, by decide +kernel, by decide +kernel, by decide +kernel, Nat.le_trans (m := 30052) (by decide +kernel) (by simp only [Config.flashBytes]; omega), by decide +kernel, by decide +kernel⟩⟩,
   ⟨{ Tests.running 1 0x0A01 [2, 0, 0, 0, 0x64, 0x75] State.reset with sealer := { State.reset.sealer with fw := some 4 } }, 1, 4, ⟨by decide +kernel, by decide +kernel, by decide +kernel, by decide +kernel, by decide +kernel, by decide +kernel, Nat.le_trans (m := 30052) (by decide +kernel) (by simp only [Config.flashBytes]; omega), by decide +kernel⟩⟩,
   ⟨{ Tests.running 1 0x0A01 [2, 0, 0, 0, 0x64, 0x75] State.reset with sealer := { State.reset.sealer with fw := some 1 }, cw := tabMod State.reset.cw 2 fun w => { w with inn := Tests.imageBytes } }, 1, ⟨[]⟩, by
    have hq : ({ Tests.running 1 0x0A01 [2, 0, 0, 0, 0x64, 0x75] State.reset with sealer := { State.reset.sealer with fw := some 1 }, cw := tabMod State.reset.cw 2 fun w => { w with inn := Tests.imageBytes } } : State).arg (1 : Fin 8).val 4 4 = 30052 := by decide +kernel
    have hw : (cwOf ({ Tests.running 1 0x0A01 [2, 0, 0, 0, 0x64, 0x75] State.reset with sealer := { State.reset.sealer with fw := some 1 }, cw := tabMod State.reset.cw 2 fun w => { w with inn := Tests.imageBytes } }) (({ Tests.running 1 0x0A01 [2, 0, 0, 0, 0x64, 0x75] State.reset with sealer := { State.reset.sealer with fw := some 1 }, cw := tabMod State.reset.cw 2 fun w => { w with inn := Tests.imageBytes } } : State).arg (1 : Fin 8).val 0 1)).inn = Tests.imageBytes := by
      rw [show ({ Tests.running 1 0x0A01 [2, 0, 0, 0, 0x64, 0x75] State.reset with sealer := { State.reset.sealer with fw := some 1 }, cw := tabMod State.reset.cw 2 fun w => { w with inn := Tests.imageBytes } } : State).arg (1 : Fin 8).val 0 1 = 2 by decide +kernel]
      rfl
    rw [hq, hw]
    refine ⟨by decide +kernel, by decide +kernel, by rw [Tests.imageBytes_length], ?_⟩
    rw [show readBack ⟨[]⟩ (Tests.imageBytes.take 30052) = Tests.imageBytes.take 30052 from rfl, Tests.imageBytes_staged]
    exact Tests.image_good _ _ (.inr rfl) rfl rfl⟩,
   ⟨{ Tests.running 1 0x0A01 [2, 0, 0, 0, 8, 0] State.reset with sealer := { State.reset.sealer with fw := some 1 }, cw := tabMod State.reset.cw 2 fun w => { w with inn := zeros 8 } }, 1, ⟨[]⟩, by decide +kernel⟩,
   ⟨{ Tests.running 1 0x0A01 [2, 0, 0, 0, 8, 0] State.reset with sealer := { State.reset.sealer with fw := some 1 }, cw := tabMod State.reset.cw 2 fun w => { w with inn := zeros 8 } }, 1, by decide +kernel⟩,
   ⟨State.reset, 1, by decide +kernel⟩,
   ⟨setSlot 0 { Slot.reset with state := 1 } (Tests.running 1 0x0A02 [1, 0, 0, 0, 0x43, 0x4F, 0x4D, 0x4D] State.reset), 1, by decide +kernel⟩,
   ⟨setSlot 0 (slotOf_ .empty 1) (Tests.running 1 0x0A02 [1, 0, 0, 0, 0x43, 0x4F, 0x4D, 0x4D] State.reset), 1, by decide +kernel⟩,
   ⟨{ Tests.running 1 0x0A02 [1, 0, 0, 0, 0x43, 0x4F, 0x4D, 0x4D] State.reset with sealer := { State.reset.sealer with fw := some 1 } }, 1, by decide +kernel⟩,
   ⟨Tests.running 1 0x0A03 [] State.reset, 1, by decide +kernel⟩⟩

theorem witness_TimeIncrements :
    (∃ (s : State) (v : Word64), (s.reached = true) ∧ (incrOk (v.toNat % 2 ^ 40) = true)) ∧
    (∃ (s : State) (v : Word64), (s.reached = true) ∧ (incrOk (v.toNat % 2 ^ 40) = false)) ∧
    (∃ (s : State) (v : Word64), (s.reached = true) ∧ (incrOk (v.toNat % 2 ^ 40) = true)) ∧
    (∃ (s : State) (v : Word64), (s.reached = true) ∧ (incrOk (v.toNat % 2 ^ 40) = false)) ∧
    (∃ (s : State) (v : Word64), (s.reached = true) ∧ (s.cfg.unlock ≤ 1) ∧ (v ≠ 0) ∧ (s.tm.stepA = none) ∧
       (v.toInt.natAbs ≤ s.tm.stepLimit.toNat ∨ s.cfg.unlock = 1)) ∧
    (∃ (s : State) (v : Word64), (s.reached = true) ∧ (s.cfg.unlock ≤ 1) ∧ (v = 0 ∨ s.tm.stepA.isSome =
       true ∨ (s.tm.stepLimit.toNat < v.toInt.natAbs ∧ s.cfg.unlock ≠ 1))) ∧
    (∃ (s : State) (v : Word64), (s.reached = true) ∧ (s.tm.source = 1) ∧ (v ≠ 0) ∧ (s.tm.stepB = none)) ∧
    (∃ (s : State) (v : Word64), (s.reached = true) ∧ (s.tm.source ≠ 1 ∨ v = 0 ∨ s.tm.stepB.isSome = true)) ∧
    (∃ (s : State), (s.reached = true) ∧ (s.cfg.unlock = 1)) ∧
    (∃ (s : State) (d : Int) (k : Bool), (s.dev.powered = true) ∧ (s.dev.perst = false) ∧ (∀ n < 64,
       (slotOf s n).armReq = false ∧ (slotOf s n).armed = false ∧ (slotOf s n).due = none) ∧ (s.tm.stepA = some (d,
       k)) ∧ (s.tm.stepB = none)) ∧
    (∃ (s : State) (d : Int), (s.dev.powered = true) ∧ (s.dev.perst = false) ∧ (∀ n < 64, (slotOf s n).armReq =
       false ∧ (slotOf s n).armed = false ∧ (slotOf s n).due = none) ∧ (s.tm.stepA = none) ∧ (s.tm.stepB = some d)) ∧
    (∃ (s : State), s.tm.stepA.isSome = true ∨ s.tm.stepB.isSome = true) :=
  ⟨⟨State.reset, 0x0400000001, by decide +kernel⟩,
   ⟨State.reset, 0x0400FFFFFF, by decide +kernel⟩,
   ⟨State.reset, 0x0400000001, by decide +kernel⟩,
   ⟨State.reset, 0x0400FFFFFF, by decide +kernel⟩,
   ⟨State.reset, 1000, by decide +kernel⟩,
   ⟨State.reset, 1001, by decide +kernel⟩,
   ⟨{ State.reset with tm := { State.reset.tm with source := 1, bValid := true } }, 1000, by decide +kernel⟩,
   ⟨State.reset, 1000, by decide +kernel⟩,
   ⟨Tests.unlocked 1, by decide +kernel⟩,
   ⟨{ State.reset with tm := { State.reset.tm with source := 1, bValid := true, stepA := some (5, true), stepB := none } }, 5, true, by decide +kernel⟩,
   ⟨{ State.reset with tm := { State.reset.tm with source := 1, bValid := true, stepA := none, stepB := some (-5) } }, -5, by decide +kernel⟩,
   ⟨{ State.reset with tm := { State.reset.tm with source := 1, bValid := true, stepA := some (5, true), stepB := some 1 } }, by decide +kernel⟩⟩

theorem witness_TimeSources :
    (∃ (s : State), (s.dev.powered = true) ∧ (s.dev.perst = false) ∧ (∀ n < 64, (slotOf s n).armReq = false ∧
       (slotOf s n).armed = false ∧ (slotOf s n).due = none) ∧ (s.tm.stepA = none) ∧ (s.tm.stepB = none) ∧
       (s.tm.axisSet = []) ∧ (s.pending = [])) ∧
    (∃ (s : State), (s.dev.powered = true) ∧ (s.dev.perst = false) ∧ (s.pending = [])) ∧
    (∃ (s : State), (s.dev.powered = false ∨ s.dev.perst = true) ∧ (s.pending = [])) ∧
    (∃ (s : State) (x : Time), x ≠ s.tm.a) ∧
    (∃ (s : State), chooseSource s = s.tm.source) ∧
    (∃ (s : State), chooseSource s ≠ s.tm.source) ∧
    (∃ (s : State), (s.tm.revert = true) ∧ (s.tm.source = s.tm.secondary) ∧ (2 ≤ s.tm.secondary) ∧
       (2 ≤ s.tm.primary) ∧ (s.tm.primary ≠ s.tm.secondary) ∧ (sourceGood s.tm.primary s = true) ∧
       ((portOf s (s.tm.primary - 2)).goodSince + 1000 * msTicks s * s.tm.revertS ≤ s.tm.tick)) ∧
    (∃ (s : State) (m : Fin 8), (s.serves m.val 0x0601 = true) ∧ (s.arg m.val 0 1 = 1) ∧ (s.arg m.val 1 1 ≤ 1) ∧
       (s.arg m.val 2 1 = 0) ∧ (s.arg m.val 3 1 = 0) ∧ (s.arg m.val 4 2 = 0) ∧ (zeroAt (s.request m.val) 6 250 = true)) ∧
    (∃ (s : State) (m : Fin 8), (s.serves m.val 0x0601 = true) ∧ (s.arg m.val 0 1 = 0) ∧ (s.arg m.val 1 1 = 1) ∧
       (s.arg m.val 2 1 = 0) ∧ (s.arg m.val 3 1 = 0) ∧ (s.arg m.val 4 2 = 0) ∧ (zeroAt (s.request m.val) 6 250 = true)) ∧
    (∃ (s : State) (m : Fin 8), (s.serves m.val 0x0601 = true) ∧
       (1 < s.arg m.val 0 1 ∨ zeroAt (s.request m.val) 6 250 = false) ∧ (s.arg m.val 1 1 ≤ 1) ∧ (s.arg m.val 2 1 = 0)) :=
  ⟨⟨State.reset, by decide +kernel⟩,
   ⟨State.reset, by decide +kernel⟩,
   ⟨{ State.reset with dev := { State.reset.dev with perst := true } }, by decide +kernel⟩,
   ⟨State.reset, { sec := 1, ns := 0, frac := 0 }, by decide +kernel⟩,
   ⟨State.reset, by decide +kernel⟩,
   ⟨{ State.reset with tm := { State.reset.tm with primary := 1 } }, by decide +kernel⟩,
   ⟨{ State.reset with tm := { State.reset.tm with revert := true, primary := 2, secondary := 3, source := 3, bValid := true, tick := 5 }, rl := { State.reset.rl with ports := Vector.replicate 3 { Port.reset with good := true } } }, by decide +kernel⟩,
   ⟨Tests.running 2 0x0601 [1] State.reset, 2, by decide +kernel⟩,
   ⟨Tests.running 2 0x0601 [0, 1] State.reset, 2, by decide +kernel⟩,
   ⟨Tests.running 2 0x0601 [2] State.reset, 2, by decide +kernel⟩⟩

theorem witness_TimePins :
    (∃ (s : State) (r : Bool) (k : Fin 10), (s.tm.ppsCfg.getLsbD 0 = true) ∧ (r ≠ s.tm.ppsCfg.getLsbD 1) ∧
       (∀ x ∈ s.tm.ppsLast, x + 320000000000 ≤ 256 * (s.tm.ax5 + k.val)) ∧ (bankOn .ppsIn s = true)) ∧
    (∃ (s : State) (k : Fin 10) (x : Nat), (s.tm.ppsLast = some x) ∧ (256 * (s.tm.ax5 + k.val) < x + 320000000000)) ∧
    (∃ (s : State), (s.tm.ppsCfg.getLsbD 0 = true) ∧ (s.tm.ppsMissing = false) ∧ (∀ x ∈ s.tm.ppsLast,
       x + 704000000000 < nowU s) ∧ (s.tm.ppsFrom + 704000000000 < nowU s)) ∧
    (∃ (s : State), (ppsSource s = true) ∧ (ppsSecond s = true)) ∧
    (∃ (s : State), ppsSource s = false ∨ ppsSecond s = false) ∧
    (∃ (s : State), bankOn .ppsIn s = false) ∧
    (∃ (s : State) (x : Nat), (s.tm.ppsOut = some x) ∧ (x + msTicks s * ppsWidth s ≤ s.tm.tick ∨ ppsSource s =
       false)) ∧
    (∃ (s : State) (x : Nat), (s.tm.ppsOut = some x) ∧ (s.tm.tick < x + msTicks s * ppsWidth s) ∧ (ppsSource s =
       true)) ∧
    (∃ (s : State) (e : Fin 2), (encSeen s.tm.enc[e].movedA s.tm.enc[e].filt s.tm.tick = true) ∧
       (encSeen s.tm.enc[e].movedB s.tm.enc[e].filt s.tm.tick = true) ∧
       (encSeen s.tm.enc[e].movedZ s.tm.enc[e].filt s.tm.tick = true) ∧ (bankOn (.enc e 0) s = true) ∧
       (bankOn (.enc e 1) s = true) ∧ (bankOn (.enc e 2) s = true) ∧ (s.tm.enc[e].enable = false)) ∧
    (∃ (s : State) (e : Fin 2) (a b z : Bool), (encSeen s.tm.enc[e].movedA s.tm.enc[e].filt s.tm.tick = true) ∧
       (encSeen s.tm.enc[e].movedB s.tm.enc[e].filt s.tm.tick = true) ∧
       (encSeen s.tm.enc[e].movedZ s.tm.enc[e].filt s.tm.tick = true) ∧ (bankOn (.enc e 0) s = true) ∧
       (bankOn (.enc e 1) s = true) ∧ (bankOn (.enc e 2) s = true) ∧ (s.tm.enc[e].enable = true) ∧ (a =
       s.tm.enc[e].a ∨ b = s.tm.enc[e].b) ∧ (z = false ∨ s.tm.enc[e].z = true ∨ s.tm.enc[e].index = 0)) ∧
    (∃ (s : State) (e : Fin 2) (a b z : Bool), (encSeen s.tm.enc[e].movedA s.tm.enc[e].filt s.tm.tick = true) ∧
       (encSeen s.tm.enc[e].movedB s.tm.enc[e].filt s.tm.tick = true) ∧
       (encSeen s.tm.enc[e].movedZ s.tm.enc[e].filt s.tm.tick = true) ∧ (bankOn (.enc e 0) s = true) ∧
       (bankOn (.enc e 1) s = true) ∧ (bankOn (.enc e 2) s = true) ∧ (s.tm.enc[e].enable = true) ∧
       (a ≠ s.tm.enc[e].a) ∧ (b ≠ s.tm.enc[e].b) ∧ (z = false ∨ s.tm.enc[e].z = true ∨ s.tm.enc[e].index = 0)) ∧
    (∃ (s : State) (e : Fin 2) (a b : Bool), (encSeen s.tm.enc[e].movedA s.tm.enc[e].filt s.tm.tick = true) ∧
       (encSeen s.tm.enc[e].movedB s.tm.enc[e].filt s.tm.tick = true) ∧
       (encSeen s.tm.enc[e].movedZ s.tm.enc[e].filt s.tm.tick = true) ∧ (bankOn (.enc e 0) s = true) ∧
       (bankOn (.enc e 1) s = true) ∧ (bankOn (.enc e 2) s = true) ∧ (s.tm.enc[e].enable = true) ∧ (a =
       s.tm.enc[e].a ∨ b = s.tm.enc[e].b) ∧ (s.tm.enc[e].z = false) ∧ (s.tm.enc[e].index ≠ 0)) ∧
    (∃ (s : State), bankOn .mainsZc s = false) ∧
    (∃ (s : State) (r : Bool), (s.tm.mains.enable = true) ∧ (r = (s.tm.mains.mode == 0)) ∧ (bankOn .mainsZc s =
       true) ∧ (s.tm.mains.lastZc = none)) ∧
    (∃ (s : State) (r : Bool) (y : Nat), (5000000 ≤ s.tm.ax5) ∧ (s.tm.mains.enable = true) ∧ (r =
       (s.tm.mains.mode == 0)) ∧ (bankOn .mainsZc s = true) ∧ (s.tm.mains.lastZc = some y) ∧
       (35715000 ≤ s.tm.ax5 - 5000000 - y) ∧ (s.tm.ax5 - 5000000 - y ≤ 208332500)) ∧
    (∃ (s : State) (r : Bool) (y : Nat), (s.tm.mains.enable = true) ∧ (r = (s.tm.mains.mode == 0)) ∧
       (bankOn .mainsZc s = true) ∧ (s.tm.mains.lastZc = some y) ∧
       (s.tm.ax5 - 5000000 - y < 35715000 ∨ 208332500 < s.tm.ax5 - 5000000 - y)) ∧
    (∃ (s : State), (s.tm.mains.enable = true) ∧ (s.tm.mains.lost = false) ∧
       (s.tm.mains.since + 250000000 ≤ s.tm.ax5)) ∧
    (∃ (s : State), s.tm.mains.enable = false ∨ s.tm.mains.lost = true ∨ s.tm.ax5 < s.tm.mains.since + 250000000) ∧
    (∃ (s : State) (m : Fin 8), (s.serves m.val 0x0602 = true) ∧ (s.arg m.val 0 1 = 1) ∧ (s.arg m.val 1 1 = 4) ∧
       (s.arg m.val 2 1 ≤ 1) ∧ (s.arg m.val 3 1 ≤ 1) ∧ (s.arg m.val 4 1 = 0) ∧ (s.arg m.val 5 1 = 0) ∧
       (zeroAt (s.request m.val) 6 2 = true) ∧ (zeroAt (s.request m.val) 16 240 = true)) ∧
    (∃ (s : State) (m : Fin 8), (s.serves m.val 0x0602 = true) ∧ (s.arg m.val 0 1 = 0) ∧ (s.arg m.val 1 1 = 4) ∧
       (s.arg m.val 2 1 ∈ [0, 1, 4, 5]) ∧ (s.arg m.val 3 1 ≤ 1) ∧ (s.arg m.val 4 1 = 0) ∧ (s.arg m.val 5 1 = 0) ∧
       (zeroAt (s.request m.val) 6 2 = true) ∧ (zeroAt (s.request m.val) 16 240 = true)) ∧
    (∃ (s : State) (m : Fin 8), (s.serves m.val 0x0602 = true) ∧ (s.arg m.val 0 1 = 0) ∧ (2 ≤ s.arg m.val 1 1 ∧
       s.arg m.val 1 1 ≤ 3) ∧ (s.arg m.val 2 1 ≤ 7) ∧ (s.arg m.val 3 1 ≤ 2) ∧ (s.arg m.val 4 1 ≤ 2) ∧
       (s.arg m.val 5 1 ≤ 15) ∧ (zeroAt (s.request m.val) 6 2 = true) ∧ (zeroAt (s.request m.val) 16 240 = true)) ∧
    (∃ (s : State) (c : AxisSet) (n : Nat), (s.tm.axisSet = [c]) ∧ (c.axis = 4) ∧ (c.preset = some n)) :=
  ⟨⟨{ State.reset with tm := { State.reset.tm with ppsCfg := 1 } }, true, 9, by decide +kernel⟩,
   ⟨{ State.reset with tm := { State.reset.tm with ppsLast := some 5 } }, 9, 5, by decide +kernel⟩,
   ⟨{ State.reset with tm := { State.reset.tm with ppsCfg := 1, ax5 := 3000000000 } }, by decide +kernel⟩,
   ⟨{ State.reset with tm := { State.reset.tm with ppsCfg := 0x10 } }, by decide +kernel⟩,
   ⟨State.reset, by decide +kernel⟩,
   ⟨{ State.reset with dev := { State.reset.dev with vioOff := 2 } }, by decide +kernel⟩,
   ⟨{ State.reset with tm := { State.reset.tm with ppsOut := some 0 } }, 0, by decide +kernel⟩,
   ⟨{ State.reset with tm := { State.reset.tm with ppsCfg := 0x10, ppsOut := some 0 } }, 0, by decide +kernel⟩,
   ⟨State.reset, 1, by decide +kernel⟩,
   ⟨{ State.reset with tm := { State.reset.tm with enc := Vector.replicate 2 { enable := true, invert := false, mode := 2, index := 1, filt := 0, count := 0, latched := 0, errors := 0, a := false, b := false, z := false, movedA := none, movedB := some 4, movedZ := none, stepped := false }, tick := 5 } }, 0, true, false, false, by decide +kernel⟩,
   ⟨{ State.reset with tm := { State.reset.tm with enc := Vector.replicate 2 { enable := true, invert := false, mode := 2, index := 1, filt := 0, count := 0, latched := 0, errors := 0, a := false, b := false, z := false, movedA := none, movedB := some 4, movedZ := none, stepped := false }, tick := 5 } }, 0, true, true, false, by decide +kernel⟩,
   ⟨{ State.reset with tm := { State.reset.tm with enc := Vector.replicate 2 { enable := true, invert := false, mode := 2, index := 1, filt := 0, count := 0, latched := 0, errors := 0, a := false, b := false, z := false, movedA := none, movedB := some 4, movedZ := none, stepped := false }, tick := 5 } }, 1, true, false, by decide +kernel⟩,
   ⟨{ State.reset with dev := { State.reset.dev with vioOff := 15 } }, by decide +kernel⟩,
   ⟨{ State.reset with tm := { State.reset.tm with ax5 := 250000000, mains := { State.reset.tm.mains with enable := true, lastZc := none } } }, true, by decide +kernel⟩,
   ⟨{ State.reset with tm := { State.reset.tm with ax5 := 250000000, mains := { State.reset.tm.mains with enable := true, lastZc := some 200000000 } } }, true, 200000000, by decide +kernel⟩,
   ⟨{ State.reset with tm := { State.reset.tm with ax5 := 250000000, mains := { State.reset.tm.mains with enable := true, lastZc := some 244000000 } } }, true, 244000000, by decide +kernel⟩,
   ⟨{ State.reset with tm := { State.reset.tm with ax5 := 250000000, mains := { State.reset.tm.mains with enable := true, lastZc := none } } }, by decide +kernel⟩,
   ⟨State.reset, by decide +kernel⟩,
   ⟨Tests.running 7 0x0602 [1, 4] State.reset, 7, by decide +kernel⟩,
   ⟨Tests.running 7 0x0602 [0, 4, 5] State.reset, 7, by decide +kernel⟩,
   ⟨Tests.running 7 0x0602 [0, 3, 7, 2, 2, 15] State.reset, 7, by decide +kernel⟩,
   ⟨{ State.reset with tm := { State.reset.tm with axisSet := [{ axis := 4, enable := true, invert := false, mode := 1, index := 0, filt := 0, preset := some 9 }] } }, { axis := 4, enable := true, invert := false, mode := 1, index := 0, filt := 0, preset := some 9 }, 9, by decide +kernel⟩⟩

theorem witness_ClockLoops :
    (∃ (s : State) (e : Int), (s.pll.s.state = .freeRun ∨ s.pll.s.state = .acquiring) ∧ (e.natAbs < 100) ∧
       (refGood s.pll.ref s = true) ∧ (s.ret.suspect = none)) ∧
    (∃ (s : State) (e : Int) (r : Nat), (s.pll.s.state = .freeRun ∨ s.pll.s.state = .acquiring) ∧
       (e.natAbs < 100) ∧ (refGood s.pll.ref s = true) ∧ (s.ret.suspect = some r)) ∧
    (∃ (s : State) (e : Int), (s.pll.s.state = .locked) ∧ (1000 < e.natAbs) ∧ (refGood s.pll.ref s = true)) ∧
    (∃ (e : Int), (100 ≤ e.natAbs) ∧ (e.natAbs ≤ 1000)) ∧
    (∃ (s : State), (s.pll.l.state = .freeRun ∨ s.pll.l.state = .acquiring) ∧ (refGood s.pll.ref s = true)) ∧
    (∃ (s : State), (s.pll.l.state = .locked) ∧ (refGood s.pll.ref s = true)) ∧
    (∃ (s : State) (x : Int), (s.pll.l.state = .locked ∨ s.pll.l.state = .holdover) ∧ (2000000 < x.natAbs)) ∧
    (∃ (s : State) (x : Int), (x.natAbs ≤ 200000) ∧ (s.dev.backup = false)) ∧
    (∃ (s : State) (x : Int), (200000 < x.natAbs) ∧ (x.natAbs ≤ 2000000) ∧ (s.dev.backup = false) ∧
       (s.pll.dcoRange = false) ∧ (s.dev.acq = .idle)) ∧
    (∃ (s : State) (x : Int), (200000 < x.natAbs) ∧ (x.natAbs ≤ 2000000) ∧ (s.dev.backup = false) ∧
       (s.pll.dcoRange = false) ∧ (s.dev.acq = .draining)) ∧
    (∃ (s : State) (x : Int), 2000000 < x.natAbs ∨ s.dev.backup = true) ∧
    (∃ (s : State), s.dev.backup = false) ∧
    (∃ (s : State), s.dev.backup = true) :=
  ⟨⟨{ State.reset with pll := { State.reset.pll with good := 1 } }, -99, by decide +kernel⟩,
   ⟨{ State.reset with pll := { State.reset.pll with good := 1, suspect := true }, ret := { State.reset.ret with suspect := some 0 } }, 5, 0, by decide +kernel⟩,
   ⟨{ State.reset with pll := { State.reset.pll with good := 1, s := { state := .locked, pbo := 0 } } }, 1001, by decide +kernel⟩,
   ⟨100, by decide +kernel⟩,
   ⟨{ State.reset with pll := { State.reset.pll with good := 1 } }, by decide +kernel⟩,
   ⟨{ State.reset with pll := { State.reset.pll with good := 1, l := { state := .locked, pbo := 0 } } }, by decide +kernel⟩,
   ⟨{ State.reset with pll := { State.reset.pll with l := { state := .holdover, pbo := 0 } } }, 2000001, by decide +kernel⟩,
   ⟨State.reset, 200000, by decide +kernel⟩,
   ⟨State.reset, 200001, by decide +kernel⟩,
   ⟨{ State.reset with dev := { State.reset.dev with acq := .draining } }, 200001, by decide +kernel⟩,
   ⟨State.reset, 2000001, by decide +kernel⟩,
   ⟨State.reset, by decide +kernel⟩,
   ⟨{ State.reset with dev := { State.reset.dev with backup := true } }, by decide +kernel⟩⟩

theorem witness_ClockReferences :
    (∃ (s : State) (src : Fin 5), src.val ≠ s.pll.ref ∨ tracking s = false) ∧
    (∃ (s : State) (src : Fin 5), (src.val = s.pll.ref) ∧ (tracking s = true)) ∧
    (∃ (s : State) (src : Fin 5), (src.val < 2 ∨ (portOf s (src.val - 2)).state = .up) ∧
       (s.pll.s.state ≠ .holdover) ∧ (s.pll.l.state ≠ .holdover)) ∧
    (∃ (s : State) (src : Fin 5), (src.val < 2 ∨ (portOf s (src.val - 2)).state = .up) ∧ (s.pll.s.state =
       .holdover ∨ s.pll.l.state = .holdover) ∧ (s.pll.qualifying = none) ∧ (mayQualify src.val { s with
           pll := { s.pll with good := s.pll.good ||| 2 ^ src.val, missing := withoutBit src.val s.pll.missing, offRange := withoutBit src.val s.pll.offRange } } =
       true)) ∧
    (∃ (s : State), s.pll.qualifying = none) ∧
    (∃ (s : State) (src n : Nat) (x y : Int), (s.pll.qualifying = some (src, n)) ∧
       (foldPhase (tdcPeriod src s.pll.refInFreq s.pll.prepathCfg) x = x) ∧
       (foldPhase (tdcPeriod src s.pll.refInFreq s.pll.prepathCfg) y = y) ∧ (refGood src s = true) ∧
       (n + s.pll.qualMs * msTicks s ≤ s.tm.tick)) ∧
    (∃ (x y : Int), (x.natAbs ≤ 500) ∧ (y.natAbs ≤ 500)) ∧
    (∃ (s : State) (x : Int), (s.pll.s.state = .locked) ∧ (500 < x.natAbs)) ∧
    (∃ (s : State), (s.pll.realigning = true) ∧ (buildOut s = false)) ∧
    (∃ (s : State), s.pll.realigning = false ∨ buildOut s = true) ∧
    (∃ (s : State) (m : Fin 8), (s.serves m.val 0x0B01 = true) ∧ (s.arg m.val 0 1 = 1) ∧ (s.arg m.val 1 1 = 0) ∧
       (zeroAt (s.request m.val) 14 242 = true)) ∧
    (∃ (s : State) (m : Fin 8), (s.serves m.val 0x0B01 = true) ∧ (s.arg m.val 0 1 = 0) ∧ (s.arg m.val 1 1 = 16) ∧
       (10 ≤ s.arg m.val 12 2) ∧ (s.arg m.val 12 2 ≤ 60000) ∧ (zeroAt (s.request m.val) 14 242 = true)) ∧
    (∃ (s : State) (m : Fin 8), (s.serves m.val 0x0B01 = true) ∧ (s.arg m.val 0 1 = 0) ∧ (s.arg m.val 1 1 = 1) ∧
       (s.arg m.val 2 1 ≤ 1) ∧ (s.arg m.val 2 1 ≠ s.pll.refSel) ∧ (s.arg m.val 3 1 = 0xFF) ∧ (s.arg m.val 4 1 ≤ 2) ∧
       (s.arg m.val 5 1 ≤ 2) ∧ (zeroAt (s.request m.val) 14 242 = true) ∧ ((mbOf s m.val).key ≠ 5)) :=
  ⟨⟨State.reset, 1, by decide +kernel⟩,
   ⟨{ State.reset with pll := { State.reset.pll with s := { state := .locked, pbo := 0 } } }, 0, by decide +kernel⟩,
   ⟨State.reset, 1, by decide +kernel⟩,
   ⟨{ State.reset with pll := { State.reset.pll with s := { state := .holdover, pbo := 0 } } }, 0, by decide +kernel⟩,
   ⟨State.reset, by decide +kernel⟩,
   ⟨{ State.reset with pll := { State.reset.pll with good := 1, qualifying := some (0, 0), s := { state := .holdover, pbo := 0 } }, tm := { State.reset.tm with tick := 250000000 } }, 0, 0, 10, 10, by decide +kernel⟩,
   ⟨500, -500, by decide +kernel⟩,
   ⟨{ State.reset with pll := { State.reset.pll with s := { state := .locked, pbo := 0 } } }, 501, by decide +kernel⟩,
   ⟨{ State.reset with pll := { State.reset.pll with realigning := true } }, by decide +kernel⟩,
   ⟨State.reset, by decide +kernel⟩,
   ⟨(Tests.running 1 0x0B01 [1] State.reset), 1, by decide +kernel⟩,
   ⟨(Tests.running 1 0x0B01 [0, 16, 0, 0, 0, 0, 0, 0, 0, 0, 0, 0, 10] State.reset), 1, by decide +kernel⟩,
   ⟨(Tests.running 1 0x0B01 [0, 1, 1, 255] State.reset), 1, by decide +kernel⟩⟩

theorem witness_SchedulerSlots :
    (∃ (s : State), s.reached = true) ∧
    (∃ (s : State), s.reached = true) ∧
    (∃ (s : State), s.reached = true) ∧
    (∃ (s : State), s.reached = true) ∧
    (∃ (s : State), ∀ k < 64, (slotOf s k).due = none ∧ ((slotOf s k).armed = false ∨ slotReached k s = false)) ∧
    (∃ (s : State) (n : Fin 64), ((slotOf s n.val).due = none) ∧ ((slotOf s n.val).armed =
       false ∨ slotReached n.val s = false)) ∧
    (∃ (s : State) (n : Fin 64) (x : Nat), (∀ k < 64, k ≠ n.val → (slotOf s k).due = none ∧ ((slotOf s k).armed =
       false ∨ slotReached k s = false)) ∧ ((slotOf s n.val).due = none) ∧ ((slotOf s n.val).armed = true) ∧
       (slotReached n.val s = true) ∧ (slotInstant n.val s = some x) ∧ (3 ≤ schAction (slotOf s n.val).cfg) ∧
       (s.sch.queue.length < 16) ∧ ((slotOf s n.val).period = 0)) ∧
    (∃ (s : State) (n : Fin 64) (x : Nat), (∀ k < 64, k ≠ n.val → (slotOf s k).due = none ∧ ((slotOf s k).armed =
       false ∨ slotReached k s = false)) ∧ ((slotOf s n.val).due = none) ∧ ((slotOf s n.val).armed = true) ∧
       (slotReached n.val s = true) ∧ (slotInstant n.val s = some x) ∧ (schAction (slotOf s n.val).cfg = 1) ∧
       ((slotOf s n.val).period = 0) ∧ ((slotOf s n.val).cfg.getLsbD 14 = false) ∧ ((slotOf s n.val).cfg.getLsbD 15 =
       false)) ∧
    (∃ (s : State), s.sch.queue = []) ∧
    (∃ (s : State) (q : SchAction) (rest : List SchAction), (s.sch.queue = q :: rest) ∧ (schAction q.cfg = 6) ∧
       (q.slot < 64) ∧ (acquiring s = false) ∧ (q.cfg.getLsbD 14 = false) ∧ (q.cfg.getLsbD 15 = false)) ∧
    (∃ (s : State) (q : SchAction) (rest : List SchAction), (s.sch.queue = q :: rest) ∧ (schAction q.cfg = 6) ∧
       (q.slot < 64) ∧ (q.outcome = 0) ∧ (acquiring s = true) ∧ (q.cfg.getLsbD 14 = false) ∧ (q.cfg.getLsbD 15 =
       false)) :=
  ⟨⟨State.reset, by decide +kernel⟩,
   ⟨State.reset, by decide +kernel⟩,
   ⟨State.reset, by decide +kernel⟩,
   ⟨State.reset, by decide +kernel⟩,
   ⟨State.reset, by decide +kernel⟩,
   ⟨State.reset, 0, by decide +kernel⟩,
   ⟨{ State.reset with sch := { State.reset.sch with slots := tabMod State.reset.sch.slots 5 fun _ => { Slot64.reset with armed := true, cfg := 0x65 } } }, 5, 0, by decide +kernel⟩,
   ⟨{ State.reset with sch := { State.reset.sch with slots := tabMod State.reset.sch.slots 5 fun _ => { Slot64.reset with armed := true, cfg := 0x15 } } }, 5, 0, by decide +kernel⟩,
   ⟨State.reset, by decide +kernel⟩,
   ⟨{ State.reset with sch := { State.reset.sch with queue := [{ slot := 3, outcome := 0, instant := 0, target := 0, cfg := 0x60 }] } }, { slot := 3, outcome := 0, instant := 0, target := 0, cfg := 0x60 }, [], by decide +kernel⟩,
   ⟨Tests.acquiring { State.reset with sch := { State.reset.sch with queue := [{ slot := 3, outcome := 0, instant := 0, target := 0, cfg := 0x60 }] } }, { slot := 3, outcome := 0, instant := 0, target := 0, cfg := 0x60 }, [], by decide +kernel⟩⟩

theorem witness_RidgelineStates :
    (∃ (s : State) (p : Fin 3), (s.dev.variant.ridgeline = true) ∧ ((portOf s p.val).state = .training) ∧
       (s.pll.l.state = .locked ∨ s.pll.l.state = .holdover) ∧ (s.dev.safe = false)) ∧
    (∃ (s : State) (p : Fin 3), (portOf s p.val).state = .up) ∧
    (∃ (s : State) (p : Fin 3), (portOf s p.val).state ≠ .up) ∧
    (∃ (s : State) (p : Fin 3), (s.dev.variant.ridgeline = true) ∧ ((portOf s p.val).state =
       .training ∨ (portOf s p.val).state = .peerFault) ∧ (s.pll.l.state = .locked) ∧
       ((portOf s p.val).trainFrom + 100 * msTicks s ≤ s.tm.tick)) ∧
    (∃ (s : State) (p : Fin 3), s.tm.tick < (portOf s p.val).trainFrom + 100 * msTicks s ∨ (portOf s p.val).state =
       .up ∨ (portOf s p.val).state = .disabled ∨ s.pll.l.state ≠ .locked) ∧
    (∃ (s : State) (p : Fin 3), (portOf s p.val).faulted = true) ∧
    (∃ (s : State) (p : Fin 3), (portOf s p.val).state = .up) ∧
    (∃ (s : State) (p : Fin 3), (s.dev.variant.ridgeline = true) ∧ ((portOf s p.val).state = .training)) ∧
    (∃ (s : State) (p : Fin 3), (portOf s p.val).state = .disabled ∨ (portOf s p.val).state = .peerFault) ∧
    (∃ (s : State) (p : Fin 3), (portOf s p.val).state = .peerFault) ∧
    (∃ (s : State) (r : RxBlocks), (s.dev.variant.ridgeline = true) ∧ ((portOf s r.port.val).state = .up) ∧
       (rxGood (rxBytes r.blocks) = false) ∧ ((rxBytes r.blocks).length < 16)) ∧
    (∃ (s : State) (r : RxBlocks), (s.dev.variant.ridgeline = true) ∧ ((portOf s r.port.val).state = .up) ∧
       (rxGood (rxBytes r.blocks) = false)) ∧
    (∃ (s : State) (p q : Fin 3) (f : List Byte), (s.dev.variant.ridgeline = true) ∧ (s.dev.safe = false) ∧
       (16 ≤ f.length) ∧ (3 ≤ fieldAt f 1 1) ∧ (fieldAt f 1 1 ≤ 16) ∧ (forwards (padTo (8 * fieldAt f 1 1) f) s =
       true) ∧ (frHop (padTo (8 * fieldAt f 1 1) f) ≠ 0xFFFF) ∧ (p ≠ q) ∧ ((portOf s q.val).state = .up) ∧
       ((portOf s q.val).txq = []) ∧ ((portOf s q.val).txBusy ≤ nowU s)) ∧
    (∃ (s : State) (r : RxBlocks), s.dev.variant.ridgeline =
       false ∨ (portOf s r.port.val).state ≠ .up ∨ rxGood (rxBytes r.blocks) = true) ∧
    (∃ (s : State) (p : Fin 3) (x : TimeSeen), (portOf s p.val).lastTime = none ∨ ((portOf s p.val).lastTime =
       some x ∧ x.tick + 200 * usTicks s < s.tm.tick)) ∧
    (∃ (s : State) (p : Fin 3) (x : TimeSeen), ((portOf s p.val).lastTime = some x) ∧
       (s.tm.tick ≤ x.tick + 200 * usTicks s)) :=
  ⟨⟨{ State.reset with pll := { State.reset.pll with l := { state := .locked, pbo := 0 } } }, 2, by decide +kernel⟩,
   ⟨Tests.linked, 1, by decide +kernel⟩,
   ⟨State.reset, 1, by decide +kernel⟩,
   ⟨{ State.reset with pll := { State.reset.pll with l := { state := .locked, pbo := 0 } }, tm := { State.reset.tm with tick := 25000000 } }, 0, by decide +kernel⟩,
   ⟨State.reset, 0, by decide +kernel⟩,
   ⟨{ State.reset with rl := { State.reset.rl with ports := Vector.replicate 3 { Port.reset with faulted := true } } }, 1, by decide +kernel⟩,
   ⟨Tests.linked, 1, by decide +kernel⟩,
   ⟨State.reset, 1, by decide +kernel⟩,
   ⟨{ State.reset with rl := { State.reset.rl with ports := Vector.replicate 3 { Port.reset with state := .disabled } } }, 1, by decide +kernel⟩,
   ⟨{ State.reset with rl := { State.reset.rl with ports := Vector.replicate 3 { Port.reset with state := .peerFault } } }, 1, by decide +kernel⟩,
   ⟨Tests.linked, ⟨1, [⟨true, [0xB0, 0x10, 6]⟩, ⟨true, [0xA1]⟩]⟩, by decide +kernel⟩,
   ⟨Tests.linked, ⟨1, []⟩, by decide +kernel⟩,
   ⟨Tests.linked, 1, 2, [0x10, 6, 0, 0, 5, 0, 255, 255, 0, 0, 0, 0, 1, 0, 0, 0, 7], by decide +kernel⟩,
   ⟨State.reset, ⟨1, []⟩, by decide +kernel⟩,
   ⟨State.reset, 1, { tick := 0, ax5 := 0, tb := 0, holdover := false, root := 0, stratum := 0, upstream := 0 }, by decide +kernel⟩,
   ⟨{ State.reset with rl := { State.reset.rl with ports := Vector.replicate 3 { Port.reset with lastTime := some { tick := 0, ax5 := 0, tb := 0, holdover := false, root := 0, stratum := 0, upstream := 0 } } } }, 1, { tick := 0, ax5 := 0, tb := 0, holdover := false, root := 0, stratum := 0, upstream := 0 }, by decide +kernel⟩⟩

theorem witness_RidgelineFrames :
    (∃ (s : State) (p : Fin 3), (s.dev.variant.ridgeline = true) ∧ ((portOf s p.val).state = .up) ∧ (s.dev.safe =
       false) ∧ ((portOf s p.val).txq = []) ∧ ((portOf s p.val).txBusy ≤ nowU s)) ∧
    (∃ (s : State) (p : Fin 3), (s.dev.variant.ridgeline = true) ∧ ((portOf s p.val).state = .up) ∧ (s.dev.safe =
       false) ∧ ((portOf s p.val).txq = []) ∧ ((portOf s p.val).txBusy ≤ nowU s)) ∧
    (∃ (s : State) (p : Fin 3), (s.dev.variant.ridgeline = true) ∧ ((portOf s p.val).state = .up) ∧ (s.dev.safe =
       false) ∧ (nowU s < (portOf s p.val).txBusy)) ∧
    (∃ (t u : TxFrame) (l : List TxFrame), (firstTx l = some t) ∧ (u ∈ l)) ∧
    (∃ (s : State) (p : Fin 3), (portOf s p.val).state ≠ .up) ∧
    (∃ (s : State) (p : Fin 3) (f : List Byte), (rxOk p.val 0x01 f s = true) ∧ ((portOf s p.val).lseqRx =
       none ∨ (portOf s p.val).lseqRx = some (frLseq f))) ∧
    (∃ (s : State) (p : Fin 3) (f : List Byte), (rxOk p.val 0x02 f s = true) ∧ ((portOf s p.val).lseqRx =
       none ∨ (portOf s p.val).lseqRx = some (frLseq f)) ∧ (s.dev.safe = false) ∧ ((portOf s p.val).txq = []) ∧
       ((portOf s p.val).txBusy ≤ nowU s)) ∧
    (∃ (s : State) (p : Fin 3) (f : List Byte), (rxOk p.val 0x03 f s = true) ∧ ((portOf s p.val).lseqRx =
       none ∨ (portOf s p.val).lseqRx = some (frLseq f))) ∧
    (∃ (s : State) (p : Fin 3) (f : List Byte), (rxOk p.val 0x04 f s = true) ∧ ((portOf s p.val).lseqRx =
       none ∨ (portOf s p.val).lseqRx = some (frLseq f)) ∧ ((portOf s p.val).fwdBuf = []) ∧
       ((portOf s p.val).fwdDrop = none)) ∧
    (∃ (s : State) (p : Fin 3) (f : List Byte), (rxOk p.val 0x40 f s = true) ∧ ((portOf s p.val).lseqRx =
       none ∨ (portOf s p.val).lseqRx = some (frLseq f)) ∧ ((portOf s p.val).fwdRx = true) ∧
       (fieldAt (frBody f) 0 4 = (portOf s p.val).rseqRx) ∧ (fieldAt (frBody f) 4 1 = 1)) ∧
    (∃ (s : State) (p : Fin 3), s.dev.variant.ridgeline = false ∨ (portOf s p.val).state ≠ .up) ∧
    (∃ (s : State) (p : Fin 3) (f : List Byte) (c : Instr) (ty : Nat), (s.dev.variant.ridgeline = true) ∧
       ((portOf s p.val).state = .up) ∧ (frGood ty f = false) ∧ ((c, ty) ∈ [(.timeFrameRx p f, 0x01),
       (.delayReqRx p f, 0x02), (.delayRespRx p f, 0x03), (.creditAckRx p f, 0x04), (.recordFrameRx p f, 0x40),
       (.fireFrameRx p f, 0x10), (.armFrameRx p f, 0x11), (.disarmFrameRx p f, 0x12), (.timedFrameRx p f, 0x20),
       (.tunnelReqRx p f, 0x30), (.tunnelRespRx p f, 0x31), (.discoverRx p f, 0x50), (.discoverReplyRx p f, 0x51),
       (.assignRx p f, 0x52)])) ∧
    (∃ (s : State) (p : Fin 3) (f : List Byte) (ty : Nat), (rxOk p.val ty f s = true) ∧
       (newerOseq (frOrigin f) (frOseq f) (rxFrame p.val f s) = false)) ∧
    (∃ (s : State) (p : Fin 3) (f : List Byte) (ty : Nat), (rxOk p.val ty f s = true) ∧
       (newerOseq (frOrigin f) (frOseq f) (rxFrame p.val f s) = true) ∧ (frDest f ≠ 0xFFFF) ∧
       (frDest f ≠ s.rl.addr ∨ s.rl.addr = 0)) ∧
    (∃ (s : State) (p : Fin 3) (f : List Byte), (rxOk p.val 0x10 f s = true) ∧
       (newerOseq (frOrigin f) (frOseq f) (rxFrame p.val f s) = true) ∧ (frDest f = 0xFFFF ∨ (frDest f = s.rl.addr ∧
       s.rl.addr ≠ 0)) ∧ ((portOf s p.val).rfireAccept = true) ∧ (fieldAt (frBody f) 0 1 < 4) ∧
       ((portOf s p.val).classMask.testBit (fieldAt (frBody f) 0 1) = true)) ∧
    (∃ (s : State) (p : Fin 3) (f : List Byte), (rxOk p.val 0x11 f s = true) ∧
       (newerOseq (frOrigin f) (frOseq f) (rxFrame p.val f s) = true) ∧ (frDest f = 0xFFFF ∨ (frDest f = s.rl.addr ∧
       s.rl.addr ≠ 0))) ∧
    (∃ (s : State) (p : Fin 3) (f : List Byte), (rxOk p.val 0x12 f s = true) ∧
       (newerOseq (frOrigin f) (frOseq f) (rxFrame p.val f s) = true) ∧ (frDest f = 0xFFFF ∨ (frDest f = s.rl.addr ∧
       s.rl.addr ≠ 0))) ∧
    (∃ (s : State) (p : Fin 3) (f : List Byte), (rxOk p.val 0x20 f s = true) ∧
       (newerOseq (frOrigin f) (frOseq f) (rxFrame p.val f s) = true) ∧ (frDest f = 0xFFFF ∨ (frDest f = s.rl.addr ∧
       s.rl.addr ≠ 0)) ∧ (s.tm.bValid = true) ∧
       (timeBReached (bodyTime (frBody f) 0).sec (bodyTime (frBody f) 0).ns s = false) ∧ (s.rl.timed.length < 16)) :=
  ⟨⟨Tests.linked, 0, by decide +kernel⟩,
   ⟨Tests.linked, 0, by decide +kernel⟩,
   ⟨{ State.reset with rl := { State.reset.rl with addr := 1, ports := Vector.replicate 3 { Port.reset with state := .up, txBusy := 9 } } }, 0, by decide +kernel⟩,
   ⟨{ type := 1, origin := 0, dest := 0, hop := 0, oseq := 0, body := [], bad := false }, { type := 1, origin := 0, dest := 0, hop := 0, oseq := 0, body := [], bad := false }, [{ type := 1, origin := 0, dest := 0, hop := 0, oseq := 0, body := [], bad := false }], by decide +kernel⟩,
   ⟨State.reset, 0, by decide +kernel⟩,
   ⟨Tests.linked, 1, (rlBytes 1 0 5 0xFFFF 0 1 (zeros 28)), by decide +kernel⟩,
   ⟨Tests.linked, 1, (rlBytes 2 0 5 0xFFFF 0 1 (zeros 16)), by decide +kernel⟩,
   ⟨Tests.linked, 1, (rlBytes 3 0 5 0xFFFF 0 1 (zeros 48)), by decide +kernel⟩,
   ⟨Tests.linked, 1, (rlBytes 4 0 5 0xFFFF 0 1 (zeros 8)), by decide +kernel⟩,
   ⟨{ State.reset with rl := { State.reset.rl with ports := Vector.replicate 3 { Port.reset with state := .up, fwdRx := true } } }, 1, (rlBytes 0x40 0 5 0xFFFF 0 1 ([0, 0, 0, 0, 1] ++ zeros 99)), by decide +kernel⟩,
   ⟨State.reset, 0, by decide +kernel⟩,
   ⟨Tests.linked, 0, [], .timeFrameRx 0 [], 1, ⟨by decide +kernel, by decide +kernel, by decide +kernel, List.mem_cons_self⟩⟩,
   ⟨{ State.reset with rl := { State.reset.rl with ports := Vector.replicate 3 { Port.reset with state := .up }, origins := [(5, 1, 0)] } }, 1, (rlBytes 0x10 0 5 0xFFFF 0 1 (zeros 20)), 0x10, by decide +kernel⟩,
   ⟨Tests.linked, 1, (rlBytes 0x10 0 5 9 0 1 (zeros 20)), 0x10, by decide +kernel⟩,
   ⟨Tests.linked, 1, (rlBytes 0x10 0 5 0xFFFF 0 1 (zeros 20)), by decide +kernel⟩,
   ⟨Tests.linked, 1, (rlBytes 0x11 0 5 0xFFFF 0 1 (zeros 20)), by decide +kernel⟩,
   ⟨Tests.linked, 1, (rlBytes 0x12 0 5 0xFFFF 0 1 (zeros 4)), by decide +kernel⟩,
   ⟨{ Tests.linked with tm := { State.reset.tm with source := 1, bValid := true } }, 1, (rlBytes 0x20 0 5 0xFFFF 0 1 ([9] ++ zeros 23)), by decide +kernel⟩⟩

theorem witness_RidgelineTimed :
    (∃ (s : State) (m : Fin 8), (s.serves m.val 0x0704 = true) ∧ (s.arg m.val 1 1 = 2) ∧ (s.arg m.val 0 1 ≤ 2) ∧
       (s.arg m.val 2 1 ≤ 1) ∧ (s.arg m.val 3 1 ≤ 7) ∧ (s.arg m.val 12 4 ≤ 999999999) ∧
       (s.arg m.val 20 4 ≤ 999999999) ∧ (timeLt (s.arg m.val 16 4, s.arg m.val 20 4) (s.arg m.val 8 4,
       s.arg m.val 12 4) = false) ∧ (s.arg m.val 6 2 ≠ 0) ∧ (zeroAt (s.request m.val) 5 1 = true) ∧
       (zeroAt (s.request m.val) 28 228 = true) ∧ (s.dev.variant.ridgeline = true) ∧ (s.rl.addr ≠ 0) ∧ (s.tm.bValid =
       true)) ∧
    (∃ (s : State) (m : Fin 8), (s.serves m.val 0x0704 = true) ∧ (s.arg m.val 1 1 = 0) ∧ (s.arg m.val 0 1 = 0) ∧
       (s.arg m.val 2 1 ≤ 1) ∧ (s.arg m.val 3 1 ≤ 7) ∧ (s.arg m.val 12 4 ≤ 999999999) ∧
       (s.arg m.val 20 4 ≤ 999999999) ∧ (timeLt (s.arg m.val 16 4, s.arg m.val 20 4) (s.arg m.val 8 4,
       s.arg m.val 12 4) = false) ∧ (s.arg m.val 6 2 ≠ 0) ∧ (zeroAt (s.request m.val) 5 1 = true) ∧
       (zeroAt (s.request m.val) 28 228 = true) ∧ (s.dev.variant.ridgeline = true) ∧ (s.rl.addr ≠ 0) ∧ (s.tm.bValid =
       true) ∧ (s.tm.b.sec < 2 ^ 32) ∧ (timeBReached (s.arg m.val 8 4) (s.arg m.val 12 4) s = false) ∧
       ((portOf s 0).launch = [])) ∧
    (∃ (s : State) (p : Fin 3), (portOf s p.val).launch = []) ∧
    (∃ (s : State) (p : Fin 3) (e : Timed) (l : List Timed), ((portOf s p.val).launch = e :: l) ∧
       (timeBReached e.launch.1 e.launch.2 s = false)) ∧
    (∃ (s : State) (p : Fin 3) (e : Timed) (l : List Timed), ((portOf s p.val).launch = e :: l) ∧
       (timeBReached e.launch.1 e.launch.2 s = true) ∧ (e.dest ≠ 0xFFFF) ∧ (e.dest ≠ s.rl.addr)) ∧
    (∃ (s : State) (n : Nat) (e : Timed), (s.rl.timed[n]? = some e) ∧ (timeBReached e.apply.1 e.apply.2 s = false)) ∧
    (∃ (s : State) (n : Nat) (e : Timed) (x : Nat), (s.rl.timed[n]? = some e) ∧
       (timeBReached e.apply.1 e.apply.2 s = true) ∧ (reachInstant s.tm.segB (flatOf e.apply.1 e.apply.2) = some x)) ∧
    (∃ (s : State) (n : Nat) (e : Timed) (x : Nat), (s.dev.variant.ridgeline = true) ∧ (s.rl.timed[n]? = some e) ∧
       (timeBReached e.apply.1 e.apply.2 s = true) ∧ (reachInstant s.tm.segB (flatOf e.apply.1 e.apply.2) = some x) ∧
       (7 < e.action)) ∧
    (∃ (s : State) (n : Nat) (e : Nat × Nat × Nat), (s.rl.origins[n]? = some e) ∧
       (e.2.2 + 1000 * msTicks s ≤ s.tm.tick)) ∧
    (∃ (s : State) (n : Nat) (e : Nat × Nat × Nat), s.rl.origins[n]? = none ∨ (s.rl.origins[n]? = some e ∧
       s.tm.tick < e.2.2 + 1000 * msTicks s)) ∧
    (∃ (s : State) (m : Fin 8), (s.serves m.val 0x0703 = true) ∧ (s.arg m.val 0 2 ≠ 0) ∧
       (s.arg m.val 0 2 ≠ 0xFFFF) ∧ (s.arg m.val 0 2 ≠ s.rl.addr) ∧ (s.arg m.val 2 1 ≤ 7) ∧ (s.arg m.val 3 1 ≤ 1) ∧
       (s.arg m.val 6 2 ≠ 0) ∧ (s.arg m.val 6 2 ≤ 60000) ∧ (s.arg m.val 4 2 ≠ 0x0703) ∧
       (zeroAt (s.request m.val) 8 8 = true) ∧ (s.rl.addr ≠ 0)) ∧
    (∃ (s : State) (m : Fin 8) (x : Tunnel), (s.rl.tunnels.find? (fun e => e.mb == m.val) = some x) ∧
       (x.deadline ≤ s.tm.tick) ∧ ((mbOf s m.val).tunnel = none)) ∧
    (∃ (s : State) (m : Fin 8) (x : Tunnel), (s.rl.tunnels.find? (fun e => e.mb == m.val) = some x) ∧
       (s.tm.tick < x.deadline)) ∧
    (∃ (s : State) (m : Fin 8), s.rl.tunnels.find? (fun e => e.mb == m.val) = none) ∧
    (∃ (s : State) (p : Fin 3) (f : List Byte), (rxOk p.val 0x30 f s = true) ∧
       (newerOseq (frOrigin f) (frOseq f) (rxFrame p.val f s) = true) ∧ (frDest f = s.rl.addr) ∧ (s.rl.addr ≠ 0) ∧
       (s.rl.addr ≠ 0xFFFF) ∧ (firmwareUp s = true) ∧ (fieldAt (frBody f) 2 1 = 0) ∧ (fieldAt (frBody f) 6 1 ≤ 7) ∧
       (s.rl.inTunnel = [])) ∧
    (∃ (s : State) (p : Fin 3) (f : List Byte) (x : Tunnel), (rxOk p.val 0x31 f s = true) ∧
       (newerOseq (frOrigin f) (frOseq f) (rxFrame p.val f s) = true) ∧ (frDest f = s.rl.addr) ∧ (s.rl.addr ≠ 0) ∧
       (s.rl.addr ≠ 0xFFFF) ∧ (s.rl.tunnels.find? (fun e => e.ttag == fieldAt (frBody f) 0 2 && e.dest ==
       frOrigin f) = some x) ∧ (x.mb < 8) ∧ ((mbOf s x.mb).tunnel = none) ∧ (fieldAt (frBody f) 2 1 = 2) ∧
       (x.segs.find? (fun e => e.1 == 0) = some (0, zeros 96)) ∧ (x.segs.find? (fun e => e.1 == 1) = some (1,
       zeros 96))) :=
  ⟨⟨(Tests.running 3 0x0704 [1, 2, 0, 0, 0, 0, 9, 0] { Tests.linked with tm := { State.reset.tm with source := 1, bValid := true } }), 3, by decide +kernel⟩,
   ⟨(Tests.running 3 0x0704 [0, 0, 0, 1, 0, 0, 9, 0, 5, 0, 0, 0, 0, 0, 0, 0, 5] { Tests.linked with tm := { State.reset.tm with source := 1, bValid := true } }), 3, by decide +kernel⟩,
   ⟨State.reset, 0, by decide +kernel⟩,
   ⟨{ State.reset with rl := { State.reset.rl with ports := Vector.replicate 3 { Port.reset with state := .up, launch := [{ launch := (5, 0), apply := (9, 0), dest := 9, action := 1, arg := 0, policy := 0, tag := 0 }] } }, tm := { State.reset.tm with source := 1, bValid := false } }, 0, { launch := (5, 0), apply := (9, 0), dest := 9, action := 1, arg := 0, policy := 0, tag := 0 }, [], by decide +kernel⟩,
   ⟨{ State.reset with rl := { State.reset.rl with ports := Vector.replicate 3 { Port.reset with state := .up, launch := [{ launch := (0, 0), apply := (9, 0), dest := 9, action := 1, arg := 0, policy := 0, tag := 0 }] } }, tm := { State.reset.tm with source := 1, bValid := true } }, 0, { launch := (0, 0), apply := (9, 0), dest := 9, action := 1, arg := 0, policy := 0, tag := 0 }, [], by decide +kernel⟩,
   ⟨{ State.reset with rl := { State.reset.rl with timed := [{ launch := (0, 0), apply := (9, 0), dest := 9, action := 1, arg := 0, policy := 0, tag := 0 }] }, tm := { State.reset.tm with source := 1, bValid := true } }, 0, { launch := (0, 0), apply := (9, 0), dest := 9, action := 1, arg := 0, policy := 0, tag := 0 }, by decide +kernel⟩,
   ⟨{ State.reset with rl := { State.reset.rl with timed := [{ launch := (0, 0), apply := (0, 0), dest := 9, action := 9, arg := 0, policy := 0, tag := 0 }] }, tm := { State.reset.tm with source := 1, bValid := true } }, 0, { launch := (0, 0), apply := (0, 0), dest := 9, action := 9, arg := 0, policy := 0, tag := 0 }, 0, by decide +kernel⟩,
   ⟨{ State.reset with rl := { State.reset.rl with timed := [{ launch := (0, 0), apply := (0, 0), dest := 9, action := 9, arg := 0, policy := 0, tag := 0 }] }, tm := { State.reset.tm with source := 1, bValid := true } }, 0, { launch := (0, 0), apply := (0, 0), dest := 9, action := 9, arg := 0, policy := 0, tag := 0 }, 0, by decide +kernel⟩,
   ⟨{ State.reset with rl := { State.reset.rl with origins := [(5, 1, 0)] }, tm := { State.reset.tm with tick := 250000000 } }, 0, (5, 1, 0), by decide +kernel⟩,
   ⟨State.reset, 0, (5, 1, 0), by decide +kernel⟩,
   ⟨(Tests.running 1 0x0703 [9, 0, 0, 0, 0, 0, 10, 0] Tests.linked), 1, by decide +kernel⟩,
   ⟨{ (Tests.running 1 0x0703 [] Tests.linked) with rl := { Tests.linked.rl with tunnels := [{ mb := 1, ttag := 3, dest := 5, deadline := 0, status := 0, segs := [] }] } }, 1, { mb := 1, ttag := 3, dest := 5, deadline := 0, status := 0, segs := [] }, by decide +kernel⟩,
   ⟨{ (Tests.running 1 0x0703 [] Tests.linked) with rl := { Tests.linked.rl with tunnels := [{ mb := 1, ttag := 3, dest := 5, deadline := 7, status := 0, segs := [] }] } }, 1, { mb := 1, ttag := 3, dest := 5, deadline := 7, status := 0, segs := [] }, by decide +kernel⟩,
   ⟨State.reset, 1, by decide +kernel⟩,
   ⟨{ Tests.linked with summit := { State.reset.summit with state := .running } }, 1, (rlBytes 0x30 0 5 1 0 1 (zeros 104)), by decide +kernel⟩,
   ⟨{ (Tests.running 1 0x0703 [] Tests.linked) with rl := { Tests.linked.rl with tunnels := [{ mb := 1, ttag := 3, dest := 5, deadline := 0, status := 0, segs := [(0, zeros 96), (1, zeros 96)] }] } }, 1, (rlBytes 0x31 0 5 1 0 1 ([3, 0, 2, 3] ++ zeros 100)), { mb := 1, ttag := 3, dest := 5, deadline := 0, status := 0, segs := [(0, zeros 96), (1, zeros 96)] }, by decide +kernel⟩⟩

theorem witness_RidgelineDiscovery :
    (∃ (s : State) (p : Fin 3) (f : List Byte), (rxOk p.val 0x50 f s = true) ∧
       (s.rl.session < fieldAt (frBody f) 0 4)) ∧
    (∃ (s : State) (p q : Fin 3) (f : List Byte), (rxOk p.val 0x50 f s = true) ∧
       (s.rl.session < fieldAt (frBody f) 0 4) ∧ (firmwareUp s = true) ∧ (s.dev.safe = false) ∧
       ((portOf s q.val).state = .up)) ∧
    (∃ (s : State) (p : Fin 3) (f : List Byte), (rxOk p.val 0x50 f s = true) ∧ (fieldAt (frBody f) 0 4 =
       s.rl.session) ∧ ((0x50, []) ∉ s.rl.seen)) ∧
    (∃ (s : State) (p : Fin 3) (f : List Byte), (rxOk p.val 0x50 f s = true) ∧
       (fieldAt (frBody f) 0 4 < s.rl.session ∨ (fieldAt (frBody f) 0 4 = s.rl.session ∧ (0x50, []) ∈ s.rl.seen))) ∧
    (∃ (s : State) (p : Fin 3) (f : List Byte), rxOk p.val 0x51 f s = true) ∧
    (∃ (r : RlSession) (f : List Byte), (r.live = true) ∧ (fieldAt (frBody f) 0 4 = r.session) ∧
       (((frBody f).drop 4).take 16 ≠ serial) ∧ (∀ u ∈ r.units, u.serial ≠ ((frBody f).drop 4).take 16)) ∧
    (∃ (r : RlSession) (f : List Byte) (u : RlUnit), (r.live = true) ∧ (fieldAt (frBody f) 0 4 = r.session) ∧
       (((frBody f).drop 4).take 16 ≠ serial) ∧ (u ∈ r.units) ∧ (u.serial = ((frBody f).drop 4).take 16)) ∧
    (∃ (r : RlSession) (f : List Byte), r.live =
       false ∨ fieldAt (frBody f) 0 4 ≠ r.session ∨ ((frBody f).drop 4).take 16 = serial) ∧
    (∃ (s : State) (p : Fin 3) (f : List Byte), (rxOk p.val 0x52 f s = true) ∧
       (s.rl.session < fieldAt (frBody f) 0 4 ∨ (s.rl.session = fieldAt (frBody f) 0 4 ∧ (0x52,
       ((frBody f).drop 4).take 16) ∉ s.rl.seen))) ∧
    (∃ (s : State) (p : Fin 3) (f : List Byte), (rxOk p.val 0x52 f s = true) ∧
       (fieldAt (frBody f) 0 4 < s.rl.session ∨ (fieldAt (frBody f) 0 4 = s.rl.session ∧ (0x52,
       ((frBody f).drop 4).take 16) ∈ s.rl.seen))) ∧
    (∃ (s : State) (m : Fin 8), (s.serves m.val 0x0701 = true) ∧ (s.arg m.val 0 1 = 1) ∧ (s.arg m.val 1 1 ≤ 6) ∧
       (s.arg m.val 2 2 ≠ 0) ∧ (s.arg m.val 2 2 ≠ 0xFFFF) ∧ (zeroAt (s.request m.val) 4 252 = true)) ∧
    (∃ (s : State) (m : Fin 8), (s.serves m.val 0x0701 = true) ∧
       (1 < s.arg m.val 0 1 ∨ 6 < s.arg m.val 1 1 ∨ s.arg m.val 2 2 = 0 ∨ s.arg m.val 2 2 =
       0xFFFF ∨ zeroAt (s.request m.val) 4 252 = false)) ∧
    (∃ (s : State) (m : Fin 8), (s.serves m.val 0x0701 = true) ∧ (s.arg m.val 0 1 = 0) ∧ (s.arg m.val 1 1 ≤ 6) ∧
       (s.arg m.val 2 2 ≠ 0) ∧ (s.arg m.val 2 2 ≠ 0xFFFF) ∧ (zeroAt (s.request m.val) 4 252 = true) ∧ (∀ p < 3,
       (portOf s p).state ≠ .up)) ∧
    (∃ (s : State) (m : Fin 8) (p : Fin 3), (s.serves m.val 0x0701 = true) ∧ (s.arg m.val 0 1 = 0) ∧
       (s.arg m.val 1 1 ≤ 6) ∧ (s.arg m.val 2 2 ≠ 0) ∧ (s.arg m.val 2 2 ≠ 0xFFFF) ∧ (zeroAt (s.request m.val) 4 252 =
       true) ∧ ((portOf s p.val).state = .up) ∧ ((cwOf s (s.arg m.val 1 1)).claimed = true)) ∧
    (∃ (s : State) (m : Fin 8) (p : Fin 3), (s.serves m.val 0x0701 = true) ∧ (s.arg m.val 0 1 = 0) ∧
       (s.arg m.val 1 1 ≤ 6) ∧ (s.arg m.val 2 2 ≠ 0) ∧ (s.arg m.val 2 2 ≠ 0xFFFF) ∧ (zeroAt (s.request m.val) 4 252 =
       true) ∧ ((portOf s p.val).state = .up) ∧ ((cwOf s (s.arg m.val 1 1)).claimed = false)) ∧
    (∃ (s : State) (r : RlSession), (s.dev.variant.ridgeline = true) ∧ (s.rl.older = []) ∧ (s.rl.run = some r) ∧
       (r.live = true ∧ (r.lastNew + 2 * msTicks s ≤ s.tm.tick ∨ r.started + 1000 * msTicks s ≤ s.tm.tick))) ∧
    (∃ (s : State) (r : RlSession) (l : List RlSession), (s.dev.variant.ridgeline = true) ∧ (s.rl.older = r :: l) ∧
       (r.live = true ∧ (r.lastNew + 2 * msTicks s ≤ s.tm.tick ∨ r.started + 1000 * msTicks s ≤ s.tm.tick))) ∧
    (∃ (s : State) (r : RlSession) (m : Fin 8), (s.dev.variant.ridgeline = true) ∧ (s.rl.older = []) ∧ (s.rl.run =
       some r) ∧ (r.live = true ∧
       (r.lastNew + 2 * msTicks s ≤ s.tm.tick ∨ r.started + 1000 * msTicks s ≤ s.tm.tick)) ∧ (r.mb = some m.val) ∧
       ((mbOf s m.val).tunnel = none) ∧ (r.cw ≤ 6) ∧ (32 * r.units.length ≤ cwSize (cwOf s r.cw))) ∧
    (∃ (s : State), ∀ r ∈ s.rl.older ++ s.rl.run.toList, r.live = false ∨ (s.tm.tick < r.lastNew + 2 * msTicks s ∧
       s.tm.tick < r.started + 1000 * msTicks s)) ∧
    (∃ (s : State) (m : Fin 8), (s.serves m.val 0x0702 = true) ∧ (s.dev.variant.ridgeline = true) ∧
       (s.arg m.val 1 1 = 1) ∧ (s.arg m.val 0 1 ≤ 2) ∧ ((s.arg m.val 2 1) ≤ 15) ∧ (s.arg m.val 3 1 ≤ 15) ∧
       (-100000 ≤ signed 32 (s.arg m.val 4 4)) ∧ (signed 32 (s.arg m.val 4 4) ≤ 100000) ∧
       (zeroAt (s.request m.val) 8 248 = true) ∧ (∀ i < 3, (s.arg m.val 2 1).testBit 2 = true → i ≠ s.arg m.val 0 1 →
       (portOf s i).fwdTx = false)) ∧
    (∃ (s : State) (m : Fin 8), (s.serves m.val 0x0702 = true) ∧ (s.dev.variant.ridgeline = true) ∧
       (s.arg m.val 1 1 = 0) ∧ (s.arg m.val 0 1 ≤ 2) ∧ ((s.arg m.val 2 1) ≤ 15) ∧ (s.arg m.val 3 1 ≤ 15) ∧
       (-100000 ≤ signed 32 (s.arg m.val 4 4)) ∧ (signed 32 (s.arg m.val 4 4) ≤ 100000) ∧
       (zeroAt (s.request m.val) 8 248 = true) ∧ (∀ i < 3, (s.arg m.val 2 1).testBit 2 = true → i ≠ s.arg m.val 0 1 →
       (portOf s i).fwdTx = false) ∧ (((s.arg m.val 2 1).testBit 2 = (portOf s (s.arg m.val 0 1)).fwdTx ∧
       (s.arg m.val 2 1).testBit 3 = (portOf s (s.arg m.val 0 1)).fwdRx) ∨ s.dev.acq = .idle)) ∧
    (∃ (s : State) (m : Fin 8), (s.serves m.val 0x0702 = true) ∧ (s.dev.variant.ridgeline = true) ∧
       (2 < s.arg m.val 0 1 ∨ 1 < s.arg m.val 1 1 ∨ 15 < (s.arg m.val 2 1) ∨ 15 < s.arg m.val 3 1 ∨ signed 32 (s.arg m.val 4 4) < -100000 ∨ 100000 < signed 32 (s.arg m.val 4 4) ∨ zeroAt (s.request m.val) 8 248 =
       false ∨ ((s.arg m.val 2 1).testBit 2 = true ∧ (List.range 3).any (fun i => i !=
       s.arg m.val 0 1 && (portOf s i).fwdTx) = true))) ∧
    (∃ (s : State) (m : Fin 8), (s.serves m.val 0x0702 = true) ∧ (s.dev.variant.ridgeline = true) ∧
       (s.arg m.val 1 1 = 0) ∧ (s.arg m.val 0 1 ≤ 2) ∧ ((s.arg m.val 2 1) ≤ 15) ∧ (s.arg m.val 3 1 ≤ 15) ∧
       (-100000 ≤ signed 32 (s.arg m.val 4 4)) ∧ (signed 32 (s.arg m.val 4 4) ≤ 100000) ∧
       (zeroAt (s.request m.val) 8 248 = true) ∧ (∀ i < 3, (s.arg m.val 2 1).testBit 2 = true → i ≠ s.arg m.val 0 1 →
       (portOf s i).fwdTx = false) ∧
       ((s.arg m.val 2 1).testBit 2 ≠ (portOf s (s.arg m.val 0 1)).fwdTx ∨ (s.arg m.val 2 1).testBit 3 ≠ (portOf s (s.arg m.val 0 1)).fwdRx) ∧
       (s.dev.acq ≠ .idle)) :=
  ⟨⟨Tests.linked, 1, (rlBytes 0x50 0 5 0xFFFF 0 1 ([4, 0, 0, 0])), by decide +kernel⟩,
   ⟨{ Tests.linked with summit := { State.reset.summit with state := .running } }, 1, 2, (rlBytes 0x50 0 5 0xFFFF 0 1 ([4, 0, 0, 0])), by decide +kernel⟩,
   ⟨Tests.linked, 1, (rlBytes 0x50 0 5 0xFFFF 0 1 ([0, 0, 0, 0])), by decide +kernel⟩,
   ⟨{ Tests.linked with rl := { Tests.linked.rl with session := 9 } }, 1, (rlBytes 0x50 0 5 0xFFFF 0 1 ([4, 0, 0, 0])), by decide +kernel⟩,
   ⟨Tests.linked, 1, (rlBytes 0x51 0 5 0xFFFF 0 1 ([4] ++ zeros 67)), by decide +kernel⟩,
   ⟨{ live := true, mb := some 1, cw := 2, rootAddr := 1, session := 4, started := 0, lastNew := 0, units := [{ serial := serial, hop := 0, addr := 0, upMask := 0 }] }, (rlBytes 0x51 0 5 0xFFFF 0 1 [4, 0, 0, 0]), by decide +kernel⟩,
   ⟨{ live := true, mb := some 1, cw := 2, rootAddr := 1, session := 4, started := 0, lastNew := 0, units := [{ serial := serial, hop := 0, addr := 0, upMask := 0 }, { serial := [], hop := 4, addr := 0, upMask := 0 }] }, (rlBytes 0x51 0 5 0xFFFF 0 1 [4, 0, 0, 0]), { serial := [], hop := 4, addr := 0, upMask := 0 }, by decide +kernel⟩,
   ⟨{ live := true, mb := some 1, cw := 2, rootAddr := 1, session := 4, started := 0, lastNew := 0, units := [{ serial := serial, hop := 0, addr := 0, upMask := 0 }] }, (rlBytes 0x51 0 5 0xFFFF 0 1 ([5] ++ zeros 67)), by decide +kernel⟩,
   ⟨Tests.linked, 1, (rlBytes 0x52 0 5 0xFFFF 0 1 ([4] ++ zeros 23)), by decide +kernel⟩,
   ⟨{ Tests.linked with rl := { Tests.linked.rl with session := 9 } }, 1, (rlBytes 0x52 0 5 0xFFFF 0 1 ([4] ++ zeros 23)), by decide +kernel⟩,
   ⟨(Tests.running 1 0x0701 [1, 0, 1] State.reset), 1, by decide +kernel⟩,
   ⟨(Tests.running 1 0x0701 [0, 7, 1] State.reset), 1, by decide +kernel⟩,
   ⟨(Tests.running 1 0x0701 [0, 2, 1] State.reset), 1, by decide +kernel⟩,
   ⟨(Tests.running 1 0x0701 [0, 2, 1] { Tests.linked with cw := State.reset.cw.map fun w => { w with claimed := true } }), 1, 2, by decide +kernel⟩,
   ⟨(Tests.running 1 0x0701 [0, 2, 1] Tests.linked), 1, 2, by decide +kernel⟩,
   ⟨{ (Tests.running 1 0x0701 [0, 2, 1] Tests.linked) with rl := { Tests.linked.rl with run := some { live := true, mb := some 1, cw := 2, rootAddr := 1, session := 4, started := 0, lastNew := 0, units := [{ serial := serial, hop := 0, addr := 0, upMask := 0 }] } }, tm := { State.reset.tm with tick := 500000 } }, { live := true, mb := some 1, cw := 2, rootAddr := 1, session := 4, started := 0, lastNew := 0, units := [{ serial := serial, hop := 0, addr := 0, upMask := 0 }] }, ⟨by decide +kernel, rfl, rfl, rfl, Or.inl (by decide +kernel)⟩⟩,
   ⟨{ Tests.linked with rl := { Tests.linked.rl with older := [{ live := true, mb := some 1, cw := 2, rootAddr := 1, session := 4, started := 0, lastNew := 0, units := [{ serial := serial, hop := 0, addr := 0, upMask := 0 }] }] }, tm := { State.reset.tm with tick := 500000 } }, { live := true, mb := some 1, cw := 2, rootAddr := 1, session := 4, started := 0, lastNew := 0, units := [{ serial := serial, hop := 0, addr := 0, upMask := 0 }] }, [], ⟨by decide +kernel, rfl, rfl, Or.inl (by decide +kernel)⟩⟩,
   ⟨{ (Tests.running 1 0x0701 [0, 2, 1] Tests.linked) with rl := { Tests.linked.rl with run := some { live := true, mb := some 1, cw := 2, rootAddr := 1, session := 4, started := 0, lastNew := 0, units := [{ serial := serial, hop := 0, addr := 0, upMask := 0 }] } }, cw := State.reset.cw.map fun w => { w with size := 1, base := 1 }, tm := { State.reset.tm with tick := 500000 } }, { live := true, mb := some 1, cw := 2, rootAddr := 1, session := 4, started := 0, lastNew := 0, units := [{ serial := serial, hop := 0, addr := 0, upMask := 0 }] }, 1, ⟨by decide +kernel, rfl, rfl, ⟨rfl, Or.inl (by decide +kernel)⟩, rfl, by decide +kernel, by decide, by decide +kernel⟩⟩,
   ⟨State.reset, by decide +kernel⟩,
   ⟨(Tests.running 1 0x0702 [2, 1, 3, 15] State.reset), 1, by decide +kernel⟩,
   ⟨(Tests.running 1 0x0702 [2, 0, 3, 5] State.reset), 1, by decide +kernel⟩,
   ⟨(Tests.running 1 0x0702 [3, 0, 3, 5] State.reset), 1, by decide +kernel⟩,
   ⟨(Tests.running 1 0x0702 [2, 0, 7, 5] (Tests.acquiring State.reset)), 1, by decide +kernel⟩⟩

theorem witness_PodInsertion :
    (∃ (s : State) (p : Fin 16), (portLive p.val s = true) ∧ ((podAt s p.val).present = false) ∧
       ((podAt s p.val).state = .empty) ∧ (s.flt.on = true)) ∧
    (∃ (s : State) (p : Fin 16), (portLive p.val s = true) ∧ ((podAt s p.val).present = false) ∧ (s.flt.on = false)) ∧
    (∃ (s : State) (p : Fin 16), (podAt s p.val).present = true) ∧
    (∃ (s : State) (p : Fin 16), ((podAt s p.val).state = .debounce) ∧
       ((podAt s p.val).since + 50 * msTicks s ≤ s.tm.tick)) ∧
    (∃ (s : State) (p : Fin 16), s.tm.tick < (podAt s p.val).since + 50 * msTicks s) ∧
    (∃ (s : State) (p : Fin 16), (podAt s p.val).state = .debounce) ∧
    (∃ (s : State) (p : Fin 16), (podAt s p.val).state ≠ .debounce) ∧
    (∃ (s : State) (p : Fin 16) (d : List Byte), (canRead p.val s = true) ∧ (descReject (padTo 256 d) = 0) ∧
       (s.podc.autopwr.testBit p.val = false) ∧ (fieldAt (padTo 256 d) 16 1 = 1)) ∧
    (∃ (s : State) (p : Fin 16) (d : List Byte), (canRead p.val s = true) ∧ (descReject (padTo 256 d) = 0) ∧
       (s.podc.autopwr.testBit p.val = true) ∧ (fieldAt (padTo 256 d) 16 1 = 1)) ∧
    (∃ (s : State) (p : Fin 16) (d : List Byte), (canRead p.val s = true) ∧ (descReject (padTo 256 d) = 0) ∧
       (s.podc.autopwr.testBit p.val = true) ∧ (fieldAt (padTo 256 d) 16 1 = 0) ∧ (s.dev.acq ≠ .idle) ∧
       ((podAt s p.val).onFor = [])) ∧
    (∃ (d : List Byte), descVpod d % 10 ≠ 5) ∧
    (∃ (d : List Byte), descVpod d % 10 = 5) ∧
    (∃ (s : State) (p : Fin 16) (d : List Byte), (canRead p.val s = true) ∧ (descReject (padTo 256 d) ≠ 0)) ∧
    (∃ (s : State) (p : Fin 16), (canRead p.val s = true) ∧ ((podAt s p.val).readFails < 2)) ∧
    (∃ (s : State) (p : Fin 16), (canRead p.val s = true) ∧ ((podAt s p.val).readFails = 2)) ∧
    (∃ (s : State) (p : Fin 16), canRead p.val s = false) :=
  ⟨⟨{ Tests.collecting with dev := { State.reset.dev with powered := true } }, 15, by decide +kernel⟩,
   ⟨{ State.reset with dev := { State.reset.dev with powered := true } }, 15, by decide +kernel⟩,
   ⟨{ State.reset with pods := Vector.replicate 16 { (podAt State.reset 0) with present := true } }, 15, by decide +kernel⟩,
   ⟨{ { State.reset with pods := Vector.replicate 16 { (podAt State.reset 0) with state := .debounce } } with tm := { State.reset.tm with tick := 100000000 } }, 15, by decide +kernel⟩,
   ⟨State.reset, 15, by decide +kernel⟩,
   ⟨{ State.reset with pods := Vector.replicate 16 { (podAt State.reset 0) with state := .debounce } }, 15, by decide +kernel⟩,
   ⟨State.reset, 15, by decide +kernel⟩,
   ⟨{ { { State.reset with pods := Vector.replicate 16 { (podAt State.reset 0) with state := .identify } } with summit := { State.reset.summit with state := .running } } with podc := { State.reset.podc with autopwr := 0 } }, 3, Tests.descriptor, by decide +kernel⟩,
   ⟨{ { { State.reset with pods := Vector.replicate 16 { (podAt State.reset 0) with state := .identify } } with summit := { State.reset.summit with state := .running } } with podc := { State.reset.podc with autopwr := 0xFFFF } }, 3, Tests.descriptor, by decide +kernel⟩,
   ⟨{ Tests.acquiring ({ { State.reset with pods := Vector.replicate 16 { (podAt State.reset 0) with state := .identify } } with summit := { State.reset.summit with state := .running } }) with podc := { State.reset.podc with autopwr := 0xFFFF } }, 3, Tests.unsupplied, by decide +kernel⟩,
   ⟨Tests.descriptor, by decide +kernel⟩,
   ⟨(Tests.descriptor.set 18 0xE9), by decide +kernel⟩,
   ⟨{ { State.reset with pods := Vector.replicate 16 { (podAt State.reset 0) with state := .identify } } with summit := { State.reset.summit with state := .running } }, 3, [], by decide +kernel⟩,
   ⟨{ { State.reset with pods := Vector.replicate 16 { (podAt State.reset 0) with state := .identify } } with summit := { State.reset.summit with state := .running } }, 3, by decide +kernel⟩,
   ⟨{ { State.reset with pods := Vector.replicate 16 { (podAt State.reset 0) with state := .identify, readFails := 2 } } with summit := { State.reset.summit with state := .running } }, 3, by decide +kernel⟩,
   ⟨State.reset, 3, by decide +kernel⟩⟩

theorem witness_PodSupply :
    (∃ (s : State) (p : Fin 16) (mv : Nat), ((podAt s p.val).state = .powering) ∧
       (20 * (mv - (descVpod (descOf p.val s))) ≤ (descVpod (descOf p.val s))) ∧
       (20 * ((descVpod (descOf p.val s)) - mv) ≤ (descVpod (descOf p.val s))) ∧
       ((podAt s p.val).since + 5 * msTicks s / 2 ≤ s.tm.tick) ∧ (s.dev.acq ≠ .idle) ∧ ((podAt s p.val).onFor = [])) ∧
    (∃ (s : State) (p : Fin 16) (mv : Nat), ((podAt s p.val).state = .powering) ∧
       ((descVpod (descOf p.val s)) < 20 * (mv - (descVpod (descOf p.val s))) ∨ (descVpod (descOf p.val s)) < 20 * ((descVpod (descOf p.val s)) - mv)) ∧
       ((podAt s p.val).since + 5 * msTicks s / 2 ≤ s.tm.tick)) ∧
    (∃ (s : State) (p : Fin 16), s.tm.tick < (podAt s p.val).since + 5 * msTicks s / 2) ∧
    (∃ (s : State) (p : Fin 16), (podAt s p.val).state ≠ .powering) ∧
    (∃ (s : State) (p : Fin 16), (podLive (podAt s p.val) = true) ∧ ((podAt s p.val).supplyOn = true)) ∧
    (∃ (s : State) (p : Fin 16), ((podAt s p.val).supplyOn = true) ∧ ((podAt s p.val).state ≠ .empty)) ∧
    (∃ (s : State) (p : Fin 16), ((podAt s p.val).supplyOn = false) ∧ (droppedNow p.val s = false)) ∧
    (∃ (s : State) (p : Fin 16), ((podAt s p.val).state = .joining) ∧ (s.dev.acq = .idle)) ∧
    (∃ (s : State) (p : Fin 16) (r : Nat), ((podAt s p.val).state = .joining) ∧ (s.dev.acq ≠ .idle) ∧
       (joinRow p.val s = some r)) ∧
    (∃ (s : State) (p : Fin 16), (podAt s p.val).state ≠ .joining) ∧
    (∃ (s : State) (p : Fin 16), ((podAt s p.val).state ≠ .empty) ∧ ((podAt s p.val).state ≠ .debounce)) ∧
    (∃ (s : State) (p : Fin 16), (podAt s p.val).state = .empty) ∧
    (∃ (s : State) (p : Fin 16), (podAt s p.val).state = .debounce) :=
  ⟨⟨Tests.acquiring ({ { State.reset with pods := Vector.replicate 16 { (podAt State.reset 0) with state := .powering, desc := some Tests.descriptor } } with tm := { State.reset.tm with tick := 100000000 } }), 3, 3465, by decide +kernel⟩,
   ⟨Tests.acquiring ({ { State.reset with pods := Vector.replicate 16 { (podAt State.reset 0) with state := .powering, desc := some Tests.descriptor } } with tm := { State.reset.tm with tick := 100000000 } }), 3, 3466, by decide +kernel⟩,
   ⟨State.reset, 3, by decide +kernel⟩,
   ⟨State.reset, 3, by decide +kernel⟩,
   ⟨Tests.acquiring ({ State.reset with pods := Vector.replicate 16 { (podAt State.reset 0) with state := .active, supplyOn := true } }), 3, by decide +kernel⟩,
   ⟨{ State.reset with pods := Vector.replicate 16 { (podAt State.reset 0) with state := .powering, supplyOn := true } }, 3, by decide +kernel⟩,
   ⟨State.reset, 3, by decide +kernel⟩,
   ⟨{ State.reset with pods := Vector.replicate 16 { (podAt State.reset 0) with state := .joining } }, 3, by decide +kernel⟩,
   ⟨{ Tests.acquiring ({ State.reset with pods := Vector.replicate 16 { (podAt State.reset 0) with state := .joining } }) with ring := { State.reset.ring with intake := true } }, 3, 0, by decide +kernel⟩,
   ⟨State.reset, 3, by decide +kernel⟩,
   ⟨{ State.reset with pods := Vector.replicate 16 { (podAt State.reset 0) with state := .active, supplyOn := true, present := true } }, 3, by decide +kernel⟩,
   ⟨State.reset, 3, by decide +kernel⟩,
   ⟨{ State.reset with pods := Vector.replicate 16 { (podAt State.reset 0) with state := .debounce } }, 3, by decide +kernel⟩⟩

theorem witness_PodCommands :
    (∃ (s : State) (m : Fin 8), (s.serves m.val 0x0102 = true) ∧ (∀ p ∈ bitsSet 16 (s.arg m.val 0 2),
       s.dev.variant.hasPod p = true) ∧ ((s.arg m.val 0 2) ≠ 0) ∧ (zeroAt (s.request m.val) 3 253 = true) ∧
       (s.arg m.val 2 1 = 1) ∧ (s.dev.safe = false) ∧ (∀ p ∈ bitsSet 16 (s.arg m.val 0 2), podLive (podAt s p) = true)) ∧
    (∃ (s : State) (m : Fin 8) (p : Nat), (s.serves m.val 0x0102 = true) ∧ (∀ p ∈ bitsSet 16 (s.arg m.val 0 2),
       s.dev.variant.hasPod p = true) ∧ ((s.arg m.val 0 2) ≠ 0) ∧ (zeroAt (s.request m.val) 3 253 = true) ∧
       (s.arg m.val 2 1 = 1) ∧ (s.dev.safe = false) ∧ (∀ q ∈ bitsSet 16 (s.arg m.val 0 2), onRefused (podAt s q) =
       false) ∧ (p ∈ bitsSet 16 (s.arg m.val 0 2)) ∧ ((podAt s p).state = .unpowered) ∧ (fieldAt (descOf p s) 16 1 =
       1)) ∧
    (∃ (s : State) (m : Fin 8) (p : Nat), (s.serves m.val 0x0102 = true) ∧ (∀ p ∈ bitsSet 16 (s.arg m.val 0 2),
       s.dev.variant.hasPod p = true) ∧ ((s.arg m.val 0 2) ≠ 0) ∧ (zeroAt (s.request m.val) 3 253 = true) ∧
       (s.arg m.val 2 1 = 1) ∧ (s.dev.safe = false) ∧ (p ∈ bitsSet 16 (s.arg m.val 0 2)) ∧ (onRefused (podAt s p) =
       true)) ∧
    (∃ (s : State) (p : Nat), (p < 16) ∧ ((podAt s p).state = .unpowered) ∧ (fieldAt (descOf p s) 16 1 = 1)) ∧
    (∃ (s : State) (m : Fin 8), (s.serves m.val 0x0102 = true) ∧ (∀ p ∈ bitsSet 16 (s.arg m.val 0 2),
       s.dev.variant.hasPod p = true) ∧ ((s.arg m.val 0 2) ≠ 0) ∧ (zeroAt (s.request m.val) 3 253 = true) ∧
       (s.arg m.val 2 1 = 0) ∧ (s.dev.safe = false) ∧ (acquiring s = false)) ∧
    (∃ (s : State) (m : Fin 8), (s.serves m.val 0x0102 = true) ∧ (∀ p ∈ bitsSet 16 (s.arg m.val 0 2),
       s.dev.variant.hasPod p = true) ∧ ((s.arg m.val 0 2) ≠ 0) ∧ (zeroAt (s.request m.val) 3 253 = true) ∧
       (s.arg m.val 2 1 = 0) ∧ (s.dev.safe = false) ∧ (acquiring s = true)) ∧
    (∃ (s : State) (p : Nat), (powered (podAt s p) = true) ∧ (acquiring s = true)) ∧
    (∃ (s : State) (m : Fin 8), (s.serves m.val 0x0102 = true) ∧ (∀ p ∈ bitsSet 16 (s.arg m.val 0 2),
       s.dev.variant.hasPod p = true) ∧ ((s.arg m.val 0 2) ≠ 0) ∧ (zeroAt (s.request m.val) 3 253 = true) ∧
       (s.arg m.val 2 1 ≤ 1) ∧ (s.dev.safe = true)) ∧
    (∃ (s : State) (m : Fin 8) (p : Fin 16), (s.serves m.val 0x0101 = true) ∧ (s.arg m.val 0 1 = p.val) ∧
       (s.dev.variant.hasPod p.val = true) ∧ (zeroAt (s.request m.val) 2 254 = true) ∧ (s.arg m.val 1 1 = 0)) ∧
    (∃ (s : State) (m : Fin 8) (p : Fin 16) (d : List Byte), (s.serves m.val 0x0101 = true) ∧ (s.arg m.val 0 1 =
       p.val) ∧ (s.dev.variant.hasPod p.val = true) ∧ (zeroAt (s.request m.val) 2 254 = true) ∧ (s.arg m.val 1 1 =
       1) ∧ ((podAt s p.val).desc = some d)) ∧
    (∃ (s : State) (m : Fin 8) (p : Fin 16), (s.serves m.val 0x0101 = true) ∧ (s.arg m.val 0 1 = p.val) ∧
       (s.dev.variant.hasPod p.val = true) ∧ (zeroAt (s.request m.val) 2 254 = true) ∧ (s.arg m.val 1 1 = 1) ∧
       ((podAt s p.val).desc = none)) ∧
    (∃ (s : State) (m : Fin 8) (p : Fin 16) (d : List Byte), (s.serves m.val 0x0101 = true) ∧ (s.arg m.val 0 1 =
       p.val) ∧ (s.dev.variant.hasPod p.val = true) ∧ (zeroAt (s.request m.val) 2 254 = true) ∧ (s.arg m.val 1 1 =
       2) ∧ (rereadOk (podAt s p.val) = true) ∧ (padTo 256 d = descOf p.val s)) ∧
    (∃ (s : State) (m : Fin 8) (p : Fin 16) (d : List Byte), (s.serves m.val 0x0101 = true) ∧ (s.arg m.val 0 1 =
       p.val) ∧ (s.dev.variant.hasPod p.val = true) ∧ (zeroAt (s.request m.val) 2 254 = true) ∧ (s.arg m.val 1 1 =
       2) ∧ (rereadOk (podAt s p.val) = true) ∧ (padTo 256 d ≠ descOf p.val s)) ∧
    (∃ (s : State) (m : Fin 8) (p : Fin 16), (s.serves m.val 0x0101 = true) ∧ (s.arg m.val 0 1 = p.val) ∧
       (s.dev.variant.hasPod p.val = true) ∧ (zeroAt (s.request m.val) 2 254 = true) ∧ (s.arg m.val 1 1 = 2) ∧
       (rereadOk (podAt s p.val) = true)) :=
  ⟨⟨{ (Tests.running 1 0x0102 [8, 0, 1] State.reset) with pods := Vector.replicate 16 { (podAt State.reset 0) with state := .active } }, 1, by decide +kernel⟩,
   ⟨{ (Tests.running 1 0x0102 [8, 0, 1] State.reset) with pods := Vector.replicate 16 { (podAt State.reset 0) with state := .unpowered, desc := some Tests.descriptor } }, 1, 3, by decide +kernel⟩,
   ⟨Tests.running 1 0x0102 [8, 0, 1] State.reset, 1, 3, by decide +kernel⟩,
   ⟨{ State.reset with pods := Vector.replicate 16 { (podAt State.reset 0) with state := .unpowered, desc := some Tests.descriptor } }, 3, by decide +kernel⟩,
   ⟨{ (Tests.running 1 0x0102 [8] State.reset) with pods := Vector.replicate 16 { (podAt State.reset 0) with state := .unpowered } }, 1, by decide +kernel⟩,
   ⟨Tests.acquiring ({ (Tests.running 1 0x0102 [8] State.reset) with pods := Vector.replicate 16 { (podAt State.reset 0) with state := .active } }), 1, by decide +kernel⟩,
   ⟨Tests.acquiring ({ State.reset with pods := Vector.replicate 16 { (podAt State.reset 0) with state := .active } }), 3, by decide +kernel⟩,
   ⟨{ Tests.running 1 0x0102 [8] State.reset with dev := { State.reset.dev with safe := true } }, 1, by decide +kernel⟩,
   ⟨Tests.running 1 0x0101 [3] State.reset, 1, 3, by decide +kernel⟩,
   ⟨{ (Tests.running 1 0x0101 [3, 1] State.reset) with pods := Vector.replicate 16 { (podAt State.reset 0) with desc := some [1] } }, 1, 3, [1], by decide +kernel⟩,
   ⟨Tests.running 1 0x0101 [3, 1] State.reset, 1, 3, by decide +kernel⟩,
   ⟨{ (Tests.running 1 0x0101 [3, 2] State.reset) with pods := Vector.replicate 16 { (podAt State.reset 0) with state := .active, desc := some (zeros 256) } }, 1, 3, [], by decide +kernel⟩,
   ⟨{ (Tests.running 1 0x0101 [3, 2] State.reset) with pods := Vector.replicate 16 { (podAt State.reset 0) with state := .active, desc := some (zeros 256) } }, 1, 3, [1], by decide +kernel⟩,
   ⟨{ (Tests.running 1 0x0101 [3, 2] State.reset) with pods := Vector.replicate 16 { (podAt State.reset 0) with state := .active, desc := some (zeros 256) } }, 1, 3, by decide +kernel⟩⟩

theorem witness_PodTelemetry :
    (∃ (s : State), (s.podc.telemPeriod ≠ 0) ∧ (firmwareUp s = true) ∧
       (s.podc.telemAt + 100 * msTicks s * s.podc.telemPeriod ≤ s.tm.tick)) ∧
    (∃ (s : State), s.podc.telemPeriod = 0 ∨ firmwareUp s =
       false ∨ s.tm.tick < s.podc.telemAt + 100 * msTicks s * s.podc.telemPeriod) ∧
    (∃ (s : State) (p : Fin 16) (x : BitVec 16), ((podAt s p.val).telemBusy = true) ∧
       (x.toInt ≤ (descTempLimit (descOf p.val s))) ∧ ((descTempLimit (descOf p.val s)) - 80 < x.toInt)) ∧
    (∃ (s : State) (p : Fin 16) (x : BitVec 16), ((podAt s p.val).telemBusy = true) ∧
       (x.toInt ≤ (descTempLimit (descOf p.val s)) - 80)) ∧
    (∃ (s : State) (p : Fin 16) (x : BitVec 16), ((podAt s p.val).telemBusy = true) ∧
       ((descTempLimit (descOf p.val s)) < x.toInt) ∧ ((podAt s p.val).hot = false)) ∧
    (∃ (s : State) (p : Fin 16), ((podAt s p.val).telemBusy = true) ∧ ((podAt s p.val).telemFails < 2)) ∧
    (∃ (s : State) (p : Fin 16), ((podAt s p.val).telemBusy = true) ∧ ((podAt s p.val).telemFails = 2)) ∧
    (∃ (s : State) (p : Fin 16), (podAt s p.val).telemBusy = false) ∧
    (∃ (s : State), s.dev.standby = true) ∧
    (∃ (s : State) (k : Fin 8), (s.dev.standby = false) ∧ (coreUp s = true) ∧ (keyRefused k.val s = true)) ∧
    (∃ (s : State) (k : Fin 8), (s.dev.standby = false) ∧ (coreUp s = true) ∧ (keyRefused k.val s = false) ∧
       (keyApplied k.val s = 4)) ∧
    (∃ (s : State) (k : Fin 8), (s.dev.standby = false) ∧ (coreUp s = true) ∧ (keyRefused k.val s = false)) :=
  ⟨⟨{ { State.reset with pods := Vector.replicate 16 { (podAt State.reset 0) with state := .active, desc := some Tests.descriptor } } with podc := { State.reset.podc with telemPeriod := 10 }, tm := { State.reset.tm with tick := 250000000 }, summit := { State.reset.summit with state := .running } }, by decide +kernel⟩,
   ⟨State.reset, by decide +kernel⟩,
   ⟨{ State.reset with pods := Vector.replicate 16 { (podAt State.reset 0) with state := .active, desc := some Tests.descriptor, telemBusy := true } }, 3, 1360, by decide +kernel⟩,
   ⟨{ State.reset with pods := Vector.replicate 16 { (podAt State.reset 0) with state := .active, desc := some Tests.descriptor, telemBusy := true } }, 3, 1280, by decide +kernel⟩,
   ⟨{ State.reset with pods := Vector.replicate 16 { (podAt State.reset 0) with state := .active, desc := some Tests.descriptor, telemBusy := true } }, 3, 1361, by decide +kernel⟩,
   ⟨{ State.reset with pods := Vector.replicate 16 { (podAt State.reset 0) with state := .active, desc := some Tests.descriptor, telemBusy := true } }, 3, by decide +kernel⟩,
   ⟨{ State.reset with pods := Vector.replicate 16 { (podAt State.reset 0) with state := .active, desc := some Tests.descriptor, telemFails := 2, telemBusy := true } }, 3, by decide +kernel⟩,
   ⟨State.reset, 3, by decide +kernel⟩,
   ⟨{ State.reset with dev := { State.reset.dev with standby := true } }, by decide +kernel⟩,
   ⟨{ State.reset with podc := { State.reset.podc with keyCfg := Vector.replicate 8 0 } }, 1, by decide +kernel⟩,
   ⟨{ State.reset with podc := { State.reset.podc with keyCfg := Vector.replicate 8 4 } }, 1, by decide +kernel⟩,
   ⟨{ State.reset with podc := { State.reset.podc with keyCfg := Vector.replicate 8 4 } }, 1, by decide +kernel⟩⟩

theorem witness_CalibrationSteps :
    (∃ (s : State) (p : Fin 16), (calLive p.val s = true) ∧ (calSuspended s = false) ∧ ((calAt s p.val).rotating =
       none) ∧ (0 < spareCount (calAt s p.val)) ∧ ((calAt s p.val).startNext = true ∨ (calAt s p.val).sched =
       0 ∨ ((calAt s p.val).sched = 1 ∧
       (calAt s p.val).rotStart.all (fun t => decide (t + 1000 * msTicks s * (calAt s p.val).periodS ≤ s.tm.tick)) =
       true))) ∧
    (∃ (s : State) (p : Fin 16), calLive p.val s = false ∨ calSuspended s =
       true ∨ (calAt s p.val).rotating ≠ none ∨ ((calAt s p.val).startNext = false ∧ ((calAt s p.val).sched =
       2 ∨ ((calAt s p.val).sched = 1 ∧
       (calAt s p.val).rotStart.any (fun t => decide (s.tm.tick < t + 1000 * msTicks s * (calAt s p.val).periodS)) =
       true)))) ∧
    (∃ (s : State) (p : Fin 16) (k : Nat), (calLive p.val s = true) ∧ (calSuspended s = false) ∧
       ((calAt s p.val).rotating = some k) ∧ ((calAt s p.val).shadow = none) ∧
       (calHold (actCh s (inputIndex p.val k)) = false) ∧ ((calAt s p.val).spares ≠ []) ∧
       (stepDue 250 (calAt s p.val) s = true) ∧ ((calAt s p.val).resched = false)) ∧
    (∃ (s : State) (p : Fin 16) (k : Nat), (calLive p.val s = true) ∧ (calSuspended s = false) ∧
       ((calAt s p.val).rotating = some k) ∧ ((calAt s p.val).shadow = none) ∧
       (calHold (actCh s (inputIndex p.val k)) = true) ∧ (k < 16) ∧ (stepDue 250 (calAt s p.val) s = true) ∧
       ((calAt s p.val).resched = false)) ∧
    (∃ (s : State) (p : Fin 16), (calLive p.val s = true) ∧ (calSuspended s = false) ∧ ((calAt s p.val).rotating =
       some 16) ∧ ((calAt s p.val).shadow = none) ∧ (calHold (actCh s (inputIndex p.val 16)) = true) ∧
       ((calAt s p.val).rotCairn = false) ∧ ((calAt s p.val).rotMax = none) ∧ (stepDue 250 (calAt s p.val) s =
       true) ∧ ((calAt s p.val).resched = false)) ∧
    (∃ (s : State) (p : Fin 16) (k : Nat), (calLive p.val s = true) ∧ (calSuspended s = false) ∧
       ((calAt s p.val).rotating = some k) ∧ ((calAt s p.val).shadow = none) ∧ (stepDue 250 (calAt s p.val) s =
       true) ∧ ((calAt s p.val).resched = true)) ∧
    (∃ (s : State) (p : Fin 16), stepDue 100 (calAt s p.val) s = false) ∧
    (∃ (s : State) (p : Fin 16), (calAt s p.val).rotating = none ∨ calSuspended s = true) ∧
    (∃ (s : State) (p : Fin 16) (k a : Nat) (l : List Nat) (ps : List CalPass) (r : Int), ((calAt s p.val).shadow =
       some k) ∧ ((calAt s p.val).shadowDone = false) ∧ (calSuspended s = false) ∧ (stepDue 100 (calAt s p.val) s =
       true) ∧ ((podAt s p.val).state = .active) ∧ (measured ps = [r]) ∧ ((calAt s p.val).spares = a :: l)) ∧
    (∃ (s : State) (p : Fin 16) (k : Nat) (ps : List CalPass) (x y z : Int) (l : List Int),
       ((calAt s p.val).shadow = some k) ∧ ((calAt s p.val).shadowDone = false) ∧ (calSuspended s = false) ∧
       (stepDue 100 (calAt s p.val) s = true) ∧ ((podAt s p.val).state = .active) ∧ (measured ps =
       x :: y :: z :: l) ∧ (30 < z.natAbs)) ∧
    (∃ (s : State) (p : Fin 16) (k : Nat), ((calAt s p.val).shadow = some k) ∧ ((calAt s p.val).shadowDone =
       false) ∧ (calSuspended s = false) ∧ (stepDue 100 (calAt s p.val) s = true) ∧ ((podAt s p.val).state ≠ .active)) ∧
    (∃ (s : State) (p : Fin 16), (calAt s p.val).shadow = none ∨ calSuspended s = true) ∧
    (∃ (s : State) (p : Fin 16) (k a : Nat) (l : List Nat), ((calAt s p.val).shadow = some k) ∧
       ((calAt s p.val).shadowDone = true) ∧ (calSuspended s = false) ∧ ((calAt s p.val).spares = a :: l) ∧ (k < 16)) ∧
    (∃ (s : State) (p : Fin 16) (a : Nat) (l : List Nat), ((calAt s p.val).shadow = some 16) ∧
       ((calAt s p.val).shadowDone = true) ∧ (calSuspended s = false) ∧ ((calAt s p.val).spares = a :: l)) ∧
    (∃ (s : State) (p : Fin 16) (k : Nat), ((calAt s p.val).shadow = some k) ∧ ((calAt s p.val).shadowDone =
       true) ∧ (calSuspended s = false) ∧ (k < 17)) :=
  ⟨⟨{ State.reset with dev := { State.reset.dev with powered := true, ready := true }, summit := { State.reset.summit with state := .running }, pods := Vector.replicate 16 { (podAt State.reset 0) with cal := { (calAt State.reset 0) with calibrated := 2 ^ 19 - 1, sched := 1, rotStart := none } } }, 15, by decide +kernel⟩,
   ⟨State.reset, 15, by decide +kernel⟩,
   ⟨{ State.reset with dev := { State.reset.dev with powered := true, ready := true }, summit := { State.reset.summit with state := .running }, pods := Vector.replicate 16 { (podAt State.reset 0) with cal := { (calAt State.reset 0) with calibrated := 2 ^ 19 - 1, rotating := some 16, spares := [17] } } }, 15, 16, by decide +kernel⟩,
   ⟨{ { State.reset with dev := { State.reset.dev with powered := true, ready := true }, summit := { State.reset.summit with state := .running }, pods := Vector.replicate 16 { (podAt State.reset 0) with cal := { (calAt State.reset 0) with calibrated := 2 ^ 19 - 1, rotating := some 15, spares := [17] } } } with cfg := { State.reset.cfg with active := { State.reset.cfg.active with inputs := Vector.replicate 272 { (actCh State.reset 0) with ctrl := 0x100 } } } }, 15, 15, by decide +kernel⟩,
   ⟨{ { State.reset with dev := { State.reset.dev with powered := true, ready := true }, summit := { State.reset.summit with state := .running }, pods := Vector.replicate 16 { (podAt State.reset 0) with cal := { (calAt State.reset 0) with calibrated := 2 ^ 19 - 1, rotating := some 16, rotCairn := false, spares := [17] } } } with cfg := { State.reset.cfg with active := { State.reset.cfg.active with inputs := Vector.replicate 272 { (actCh State.reset 0) with ctrl := 0x100 } } } }, 15, by decide +kernel⟩,
   ⟨{ State.reset with dev := { State.reset.dev with powered := true, ready := true }, summit := { State.reset.summit with state := .running }, pods := Vector.replicate 16 { (podAt State.reset 0) with cal := { (calAt State.reset 0) with calibrated := 2 ^ 19 - 1, rotating := some 4, resched := true, spares := [17] } } }, 15, 4, by decide +kernel⟩,
   ⟨{ State.reset with dev := { State.reset.dev with powered := true, ready := true }, summit := { State.reset.summit with state := .running }, pods := Vector.replicate 16 { (podAt State.reset 0) with cal := { (calAt State.reset 0) with calibrated := 2 ^ 19 - 1, rotating := some 4, stepAt := some 0 } } }, 15, by decide +kernel⟩,
   ⟨State.reset, 15, by decide +kernel⟩,
   ⟨{ State.reset with dev := { State.reset.dev with powered := true, ready := true }, summit := { State.reset.summit with state := .running }, pods := Vector.replicate 16 { (podAt State.reset 0) with state := .active, cal := { (calAt State.reset 0) with calibrated := 2 ^ 19 - 1, shadow := some 4, spares := [17] } } }, 15, 4, 17, [], [{ residual := some 20 }], 20, by decide +kernel⟩,
   ⟨{ State.reset with dev := { State.reset.dev with powered := true, ready := true }, summit := { State.reset.summit with state := .running }, pods := Vector.replicate 16 { (podAt State.reset 0) with state := .active, cal := { (calAt State.reset 0) with calibrated := 2 ^ 19 - 1, shadow := some 4, spares := [17] } } }, 15, 4, [{ residual := some 20 }, { residual := some 20 }, { residual := some 31 }], 20, 20, 31, [], by decide +kernel⟩,
   ⟨{ State.reset with dev := { State.reset.dev with powered := true, ready := true }, summit := { State.reset.summit with state := .running }, pods := Vector.replicate 16 { (podAt State.reset 0) with cal := { (calAt State.reset 0) with calibrated := 2 ^ 19 - 1, shadow := some 4, spares := [17] } } }, 15, 4, by decide +kernel⟩,
   ⟨State.reset, 15, by decide +kernel⟩,
   ⟨{ State.reset with dev := { State.reset.dev with powered := true, ready := true }, summit := { State.reset.summit with state := .running }, pods := Vector.replicate 16 { (podAt State.reset 0) with cal := { (calAt State.reset 0) with calibrated := 2 ^ 19 - 1, shadow := some 4, shadowDone := true, shadowRes := some 9, spares := [17] } } }, 15, 4, 17, [], by decide +kernel⟩,
   ⟨{ State.reset with dev := { State.reset.dev with powered := true, ready := true }, summit := { State.reset.summit with state := .running }, pods := Vector.replicate 16 { (podAt State.reset 0) with cal := { (calAt State.reset 0) with calibrated := 2 ^ 19 - 1, shadow := some 16, shadowDone := true, spares := [17] } } }, 15, 17, [], by decide +kernel⟩,
   ⟨{ State.reset with dev := { State.reset.dev with powered := true, ready := true }, summit := { State.reset.summit with state := .running }, pods := Vector.replicate 16 { (podAt State.reset 0) with cal := { (calAt State.reset 0) with calibrated := 2 ^ 19 - 1, shadow := some 4, shadowDone := true, shadowRes := some 9, spares := [17], abortRun := Vector.replicate 17 2 } } }, 15, 4, by decide +kernel⟩⟩

theorem witness_FrontEndSettings :
    (∃ (s : State) (p : Fin 16) (a : Fin 19), (portLive p.val s = true) ∧ (firmwareUp s = true) ∧
       (a.val ∈ (calAt s p.val).detached)) ∧
    (∃ (s : State) (p : Fin 16) (a : Fin 19), (portLive p.val s = true) ∧ (firmwareUp s = true) ∧
       (a.val ∈ (calAt s p.val).detached)) ∧
    (∃ (s : State) (p : Fin 16) (a : Fin 19), (portLive p.val s = true) ∧ (firmwareUp s = true) ∧
       (a.val ∉ (calAt s p.val).detached) ∧ ((calAt s p.val).calibrated.testBit a.val = false)) ∧
    (∃ (s : State) (p : Fin 16) (a : Fin 19), (a.val ∉ (calAt s p.val).detached) ∧
       ((calAt s p.val).calibrated.testBit a.val = true)) ∧
    (∃ (s : State) (m : Fin 8), (s.serves m.val 0x0201 = true) ∧ (∀ p ∈ bitsSet 16 (s.arg m.val 0 2),
       s.dev.variant.hasPod p = true) ∧ ((s.arg m.val 0 2) ≠ 0) ∧ (s.arg m.val 6 1 ≤ 1) ∧
       (zeroAt (s.request m.val) 7 249 = true) ∧ (s.arg m.val 2 1 = 0) ∧ (calSuspended s = false)) ∧
    (∃ (s : State) (m : Fin 8), (s.serves m.val 0x0201 = true) ∧ (∀ p ∈ bitsSet 16 (s.arg m.val 0 2),
       s.dev.variant.hasPod p = true) ∧ ((s.arg m.val 0 2) ≠ 0) ∧ (s.arg m.val 6 1 ≤ 1) ∧
       (zeroAt (s.request m.val) 7 249 = true) ∧ (s.arg m.val 2 1 = 0) ∧ (calSuspended s = true)) ∧
    (∃ (s : State) (m : Fin 8), (s.serves m.val 0x0201 = true) ∧ (∀ p ∈ bitsSet 16 (s.arg m.val 0 2),
       s.dev.variant.hasPod p = true) ∧ ((s.arg m.val 0 2) ≠ 0) ∧ (s.arg m.val 6 1 ≤ 1) ∧
       (zeroAt (s.request m.val) 7 249 = true) ∧ (s.arg m.val 2 1 = 1) ∧ (s.arg m.val 3 1 = 1) ∧ (s.arg m.val 4 2 ≠ 0)) ∧
    (∃ (s : State) (m : Fin 8), (s.serves m.val 0x0201 = true) ∧ (∀ p ∈ bitsSet 16 (s.arg m.val 0 2),
       s.dev.variant.hasPod p = true) ∧ ((s.arg m.val 0 2) ≠ 0) ∧ (s.arg m.val 6 1 ≤ 1) ∧
       (zeroAt (s.request m.val) 7 249 = true) ∧ (s.arg m.val 2 1 = 1) ∧ (s.arg m.val 3 1 = 0 ∨ s.arg m.val 3 1 = 2)) ∧
    (∃ (s : State) (m : Fin 8) (p : Fin 16), (s.serves m.val 0x0202 = true) ∧ (s.arg m.val 0 1 = p.val) ∧
       (s.dev.variant.hasPod p.val = true) ∧ (zeroAt (s.request m.val) 1 255 = true)) ∧
    (∃ (s : State) (x : Nat) (a : Alias), (s.reached = true) ∧ (aliasOf x = some a)) ∧
    (∃ (s : State) (x n : Nat) (a : Alias) (l : List Nat), (s.reached = true) ∧ (aliasOf x = some a) ∧
       (members a s = n :: l)) ∧
    (∃ (s : State) (x u : Nat), (s.reached = true) ∧ (aliasOf x = some (.user u)) ∧ (members (.user u) s = [])) ∧
    (∃ (x : Nat), aliasOf x = none) :=
  ⟨⟨{ State.reset with dev := { State.reset.dev with powered := true, ready := true }, summit := { State.reset.summit with state := .running }, pods := Vector.replicate 16 { (podAt State.reset 0) with cal := { (calAt State.reset 0) with calibrated := 2 ^ 19 - 1, detached := [18] } } }, 15, 18, by decide +kernel⟩,
   ⟨{ State.reset with dev := { State.reset.dev with powered := true, ready := true }, summit := { State.reset.summit with state := .running }, pods := Vector.replicate 16 { (podAt State.reset 0) with cal := { (calAt State.reset 0) with calibrated := 2 ^ 19 - 1, detached := [18] } } }, 15, 18, by decide +kernel⟩,
   ⟨{ State.reset with dev := { State.reset.dev with powered := true, ready := true }, summit := { State.reset.summit with state := .running }, pods := Vector.replicate 16 { (podAt State.reset 0) with cal := { (calAt State.reset 0) with calibrated := 7, detached := [] } } }, 15, 18, by decide +kernel⟩,
   ⟨{ State.reset with dev := { State.reset.dev with powered := true, ready := true }, summit := { State.reset.summit with state := .running }, pods := Vector.replicate 16 { (podAt State.reset 0) with cal := { (calAt State.reset 0) with calibrated := 2 ^ 19 - 1, detached := [] } } }, 15, 18, by decide +kernel⟩,
   ⟨Tests.running 1 0x0201 [5] ({ State.reset with dev := { State.reset.dev with powered := true, ready := true }, summit := { State.reset.summit with state := .running }, pods := Vector.replicate 16 { (podAt State.reset 0) with cal := { (calAt State.reset 0) with calibrated := 2 ^ 19 - 1, detached := [] } } }), 1, by decide +kernel⟩,
   ⟨Tests.running 1 0x0201 [5] State.reset, 1, by decide +kernel⟩,
   ⟨Tests.running 1 0x0201 [5, 0, 1, 1, 10, 0, 1] State.reset, 1, by decide +kernel⟩,
   ⟨Tests.running 1 0x0201 [5, 0, 1, 2] State.reset, 1, by decide +kernel⟩,
   ⟨Tests.running 1 0x0202 [3] State.reset, 1, 3, by decide +kernel⟩,
   ⟨State.reset, 0x108008, .all, by decide +kernel⟩,
   ⟨State.reset, 0x108048, 0, .pod 0, [1, 2, 3, 4, 5, 6, 7, 8, 9, 10, 11, 12, 13, 14, 15, 256], by decide +kernel⟩,
   ⟨State.reset, 0x108440, 0, by decide +kernel⟩,
   ⟨0, by decide +kernel⟩⟩

theorem witness_ComparatorEvents :
    (∃ (s : State) (n : Fin 272) (up out : Bool) (g : Nat), (eventValid n.val up out g s = true) ∧
       (beforeJoin n.val (eventTime n.val up g s) s = false)) ∧
    (∃ (s : State) (n : Fin 272) (up out : Bool) (g : Nat), (eventValid n.val up out g s = true) ∧
       (beforeJoin n.val (eventTime n.val up g s) s = false) ∧ (s.fab.suspectTo = none) ∧
       ((if (if up then out else (inputAt s n.val).u) then true else if (if up then (inputAt s n.val).l else out) then (inputAt s n.val).level else false) ≠ (inputAt s n.val).level)) ∧
    (∃ (s : State) (n : Fin 272) (up out : Bool) (g : Nat), eventValid n.val up out g s =
       false ∨ beforeJoin n.val (eventTime n.val up g s) s = true) ∧
    (∃ (s : State) (n : Fin 272) (a b : Nat), (s.fab.running = true) ∧ (inputAbsent n.val s = false) ∧
       (qMode (actCh s n.val) = 4) ∧ ((inputAt s n.val).tStart = some (a, b)) ∧ (holdSample (actCh s n.val) (a,
       b) ≤ s.tm.ax5) ∧ (suppressed s (holdSample (actCh s n.val) (a, b)) = false) ∧ (∀ e ∈ s.fab.suspectTo,
       s.tm.ax5 < e)) ∧
    (∃ (s : State) (n : Fin 272), (s.fab.running = false ∨ inputAbsent n.val s = true ∨ holdDue n.val s.tm.ax5 s =
       false) ∧ (∀ e ∈ s.fab.suspectTo, s.tm.ax5 < e)) ∧
    (∃ (s : State) (k : Nat), (s.fab.running = true) ∧ (k < fabReach s) ∧ (s.fab.sample ≤ k)) ∧
    (∃ (s : State) (j : Fin 4) (i b : Nat) (by_ : StepBy) (p : Program) (w : Branch) (vs : List (Option Nat)),
       (s.fab.running = true) ∧ (s.fab.entered = true) ∧ (s.fab.sample < fabReach s) ∧ (nextStep j.val s = some (i,
       by_, p)) ∧ (examine by_ s ((List.range 4).map fun b => (b,
       tabGet p.words (4 * (seqOf s j.val).state + b) 0)) = (false, some (b, w, vs)))) ∧
    (∃ (s : State) (j : Fin 4) (i : Nat) (by_ : StepBy) (p : Program), (s.fab.running = true) ∧ (s.fab.entered =
       true) ∧ (s.fab.sample < fabReach s) ∧ (nextStep j.val s = some (i, by_, p)) ∧
       (examine by_ s ((List.range 4).map fun b => (b, tabGet p.words (4 * (seqOf s j.val).state + b) 0)) = (true,
       none))) ∧
    (∃ (s : State) (j : Fin 4) (i : Nat) (by_ : StepBy) (p : Program), (s.fab.running = true) ∧ (s.fab.entered =
       true) ∧ (s.fab.sample < fabReach s) ∧ (nextStep j.val s = some (i, by_, p)) ∧
       (examine by_ s ((List.range 4).map fun b => (b, tabGet p.words (4 * (seqOf s j.val).state + b) 0)) = (false,
       none))) ∧
    (∃ (s : State) (j : Fin 4), (s.fab.running = true) ∧ (s.fab.entered = true) ∧ (s.fab.sample < fabReach s) ∧
       (nextStep j.val s = none)) ∧
    (∃ (s : State) (k : Nat), s.fab.running = false ∨ fabReach s ≤ k ∨ k < s.fab.sample) :=
  ⟨⟨{ State.reset with dev := { State.reset.dev with powered := true }, pods := Vector.replicate 16 { (podAt State.reset 0) with state := .active }, cfg := { State.reset.cfg with active := { State.reset.cfg.active with inputs := Vector.replicate 272 { (actCh State.reset 0) with ctrl := 1 } } } }, 17, false, true, 100, by decide +kernel⟩,
   ⟨{ State.reset with dev := { State.reset.dev with powered := true }, pods := Vector.replicate 16 { (podAt State.reset 0) with state := .active }, cfg := { State.reset.cfg with active := { State.reset.cfg.active with inputs := Vector.replicate 272 { (actCh State.reset 0) with ctrl := 1 } } } }, 17, true, true, 100, by decide +kernel⟩,
   ⟨State.reset, 17, true, true, 100, by decide +kernel⟩,
   ⟨{ { State.reset with dev := { State.reset.dev with powered := true }, pods := Vector.replicate 16 { (podAt State.reset 0) with state := .active }, cfg := { State.reset.cfg with active := { State.reset.cfg.active with inputs := Vector.replicate 272 { (actCh State.reset 0) with ctrl := 1 } } } } with fab := { State.reset.fab with running := true }, inputs := Vector.replicate 272 { (inputAt State.reset 0) with tStart := some (5, 0) }, tm := { State.reset.tm with ax5 := 0x100004000 }, cfg := { State.reset.cfg with active := { State.reset.cfg.active with inputs := Vector.replicate 272 { (actCh State.reset 0) with ctrl := 1, qual := Vector.replicate 4 0x100004 } } } }, 17, 5, 0, by decide +kernel⟩,
   ⟨State.reset, 17, by decide +kernel⟩,
   ⟨{ State.reset with fab := { State.reset.fab with running := true }, tm := { State.reset.tm with ax5 := 1 } }, 0, by decide +kernel⟩,
   ⟨{ State.reset with dev := { State.reset.dev with powered := true, acq := .running }, tm := { State.reset.tm with ax5 := 1 }, fab := { State.reset.fab with running := true, entered := true }, seqs := Vector.replicate 4 { (seqOf State.reset 0) with mode := .armed }, cfg := { State.reset.cfg with active := { State.reset.cfg.active with progs := Vector.replicate 4 (some { step := 0, stepPod := 0, group := 0, oneShot := false, words := Vector.replicate 64 (BitVec.ofNat 128 (2 ^ 93 + 2 ^ 52 + 3 * 2 ^ 48 + 0xFFFF * 2 ^ 32)) }), inputs := Vector.replicate 272 { (actCh State.reset 0) with ctrl := 1, qual := Vector.replicate 4 0x100004 } } } }, 2, 0, 0, none, { step := 0, stepPod := 0, group := 0, oneShot := false, words := Vector.replicate 64 (BitVec.ofNat 128 (2 ^ 93 + 2 ^ 52 + 3 * 2 ^ 48 + 0xFFFF * 2 ^ 32)) }, (BitVec.ofNat 128 (2 ^ 93 + 2 ^ 52 + 3 * 2 ^ 48 + 0xFFFF * 2 ^ 32)), [none, none, none, none], by decide +kernel⟩,
   ⟨{ State.reset with dev := { State.reset.dev with powered := true, acq := .running }, tm := { State.reset.tm with ax5 := 1 }, fab := { State.reset.fab with running := true, entered := true, suspect := true }, seqs := Vector.replicate 4 { (seqOf State.reset 0) with mode := .armed }, cfg := { State.reset.cfg with active := { State.reset.cfg.active with progs := Vector.replicate 4 (some { step := 0, stepPod := 0, group := 0, oneShot := false, words := Vector.replicate 64 (BitVec.ofNat 128 (2 ^ 93 + 0x10 + 0xFFFF * 2 ^ 32)) }), inputs := Vector.replicate 272 { (actCh State.reset 0) with ctrl := 1, qual := Vector.replicate 4 0x100004 } } } }, 2, 0, none, { step := 0, stepPod := 0, group := 0, oneShot := false, words := Vector.replicate 64 (BitVec.ofNat 128 (2 ^ 93 + 0x10 + 0xFFFF * 2 ^ 32)) }, by decide +kernel⟩,
   ⟨{ State.reset with dev := { State.reset.dev with powered := true, acq := .running }, tm := { State.reset.tm with ax5 := 1 }, fab := { State.reset.fab with running := true, entered := true }, seqs := Vector.replicate 4 { (seqOf State.reset 0) with mode := .armed }, cfg := { State.reset.cfg with active := { State.reset.cfg.active with progs := Vector.replicate 4 (some { step := 0, stepPod := 0, group := 0, oneShot := false, words := Vector.replicate 64 (BitVec.ofNat 128 (2 ^ 93)) }), inputs := Vector.replicate 272 { (actCh State.reset 0) with ctrl := 1, qual := Vector.replicate 4 0x100004 } } } }, 2, 0, none, { step := 0, stepPod := 0, group := 0, oneShot := false, words := Vector.replicate 64 (BitVec.ofNat 128 (2 ^ 93)) }, by decide +kernel⟩,
   ⟨{ State.reset with fab := { State.reset.fab with running := true, entered := true }, tm := { State.reset.tm with ax5 := 1 } }, 1, by decide +kernel⟩,
   ⟨State.reset, 0, by decide +kernel⟩⟩

theorem witness_FabricSamples :
    (∃ (s : State) (x : Fin 16), (s.fab.running = true) ∧ (s.fab.timers[x].running = true) ∧
       (s.fab.timers[x].expired = none) ∧
       (max (s.fab.sample + 1) (sampleOf (s.fab.timers[x].tst + (timerCfg s x.val).limit * 640)) < fabReach s)) ∧
    (∃ (s : State) (x : Fin 16), s.fab.timers[x].running = false) ∧
    (∃ (s : State) (x : Fin 32), (s.fab.running = true) ∧ (s.fab.sample + 1 < fabReach s) ∧
       (s.fab.counters[x].atLimit = none) ∧ ((advance (s.fab.sample + 1) s).fab.counters[x].atLimit ≠ none)) ∧
    (∃ (s : State) (x : Fin 32), (advance (s.fab.sample + 1) s).fab.counters[x].atLimit = none) ∧
    (∃ (s : State) (x : Fin 4), (tabGet s.fab.trigin x.val none = none) ∧ (bankOn (.trigin x) s = true)) ∧
    (∃ (s : State) (x : Fin 4) (f l : Nat), (tabGet s.fab.trigin x.val none = some (f, l)) ∧
       (bankOn (.trigin x) s = true)) ∧
    (∃ (s : State) (x : Fin 4) (f l k : Nat), (tabGet s.fab.trigin x.val none = some (f, l)) ∧ (k ≤ l)) ∧
    (∃ (s : State) (x : Fin 4) (f l k : Nat), (tabGet s.fab.trigin x.val none = some (f, l)) ∧ (l + 1 < k) ∧
       (s.fab.running = false) ∧ (bankOn (.trigin x) s = true)) ∧
    (∃ (s : State) (x : Fin 4), bankOn (.trigin x) s = false) ∧
    (∃ (s : State) (x : Fin 4) (k : Nat) (l : List Nat), (s.trigout[x].requests = k :: l) ∧
       (pulseEnd x.val k s ≤ nowU s) ∧ (∀ n ∈ l, nowU s < pulseEnd x.val n s)) ∧
    (∃ (s : State) (x : Fin 4), ∀ n ∈ s.trigout[x].requests, nowU s < pulseEnd x.val n s) :=
  ⟨⟨{ State.reset with fab := { State.reset.fab with running := true, timers := Vector.replicate 16 { running := true, expired := none, tst := 0, elapsed := 0 } }, tm := { State.reset.tm with ax5 := 2 } }, 15, by decide +kernel⟩,
   ⟨State.reset, 15, by decide +kernel⟩,
   ⟨Tests.limiting, 31, ⟨rfl, by decide +kernel, rfl, Tests.limiting_limits⟩⟩,
   ⟨State.reset, 31, by decide +kernel⟩,
   ⟨State.reset, 3, by decide +kernel⟩,
   ⟨{ State.reset with fab := { State.reset.fab with trigin := Vector.replicate 4 (some (3, 8)) } }, 3, 3, 8, by decide +kernel⟩,
   ⟨{ State.reset with fab := { State.reset.fab with trigin := Vector.replicate 4 (some (3, 8)) } }, 3, 3, 8, 8, by decide +kernel⟩,
   ⟨{ State.reset with fab := { State.reset.fab with trigin := Vector.replicate 4 (some (3, 8)) } }, 3, 3, 8, 10, by decide +kernel⟩,
   ⟨{ State.reset with dev := { State.reset.dev with vioOff := 1 } }, 3, by decide +kernel⟩,
   ⟨{ State.reset with trigout := Vector.replicate 4 { requests := [0, 100], contained := false, contended := none }, tm := { State.reset.tm with ax5 := 200 } }, 3, 0, [100], by decide +kernel⟩,
   ⟨{ State.reset with trigout := Vector.replicate 4 { requests := [100], contained := false, contended := none }, tm := { State.reset.tm with ax5 := 200 } }, 3, by decide +kernel⟩⟩

theorem witness_FabricSettings :
    (∃ (s : State) (m : Fin 8), (s.serves m.val 0x0304 = true) ∧ (s.arg m.val 0 1 = 0) ∧ (s.arg m.val 1 1 ≤ 4) ∧
       (s.arg m.val 2 1 ≤ fabIndexMax (s.arg m.val 1 1)) ∧ (zeroAt (s.request m.val) 3 1 = true) ∧
       (fabAbsent s.dev.variant (s.arg m.val 1 1) (s.request m.val) = false) ∧
       (fabBodyOk (s.arg m.val 1 1) (s.request m.val) = true)) ∧
    (∃ (s : State) (m : Fin 8), (s.serves m.val 0x0304 = true) ∧ (s.arg m.val 0 1 = 0) ∧
       (fabAbsent s.dev.variant (s.arg m.val 1 1) (s.request m.val) = false) ∧
       (fabBodyOk (s.arg m.val 1 1) (s.request m.val) = false)) ∧
    (∃ (s : State) (m : Fin 8), (s.serves m.val 0x0304 = true) ∧ (s.arg m.val 0 1 = 1) ∧ (s.arg m.val 1 1 ≤ 4) ∧
       (s.arg m.val 2 1 ≤ fabIndexMax (s.arg m.val 1 1)) ∧ (zeroAt (s.request m.val) 3 1 = true) ∧
       (zeroAt (s.request m.val) 4 252 = true)) ∧
    (∃ (s : State) (m : Fin 8), (s.serves m.val 0x0304 = true) ∧ (s.arg m.val 0 1 = 2) ∧ (s.arg m.val 1 1 ≤ 4) ∧
       (s.arg m.val 2 1 ≤ fabIndexMax (s.arg m.val 1 1)) ∧ (zeroAt (s.request m.val) 3 1 = true) ∧
       (zeroAt (s.request m.val) 4 252 = true)) ∧
    (∃ (s : State) (m : Fin 8), (s.serves m.val 0x0305 = true) ∧ (s.arg m.val 0 1 = 0) ∧
       (zeroAt (s.request m.val) 1 3 = true) ∧ (zeroAt (s.request m.val) 20 236 = true) ∧
       (∀ w ∈ (toutWords (s.request m.val)), toutOk w = true ∧ maskAbsent s.dev.variant (bitsOf 7 4 w) = false)) ∧
    (∃ (s : State) (m : Fin 8), (s.serves m.val 0x0305 = true) ∧ (s.arg m.val 0 1 = 1 ∨ s.arg m.val 0 1 = 2) ∧
       (zeroAt (s.request m.val) 1 3 = true) ∧ (zeroAt (s.request m.val) 20 236 = true) ∧
       (∀ w ∈ (toutWords (s.request m.val)), toutOk w = true ∧ maskAbsent s.dev.variant (bitsOf 7 4 w) = false)) ∧
    (∃ (s : State) (m : Fin 8) (j : Fin 4), (s.serves m.val 0x0301 = true) ∧ (s.arg m.val 0 1 = j.val) ∧
       (s.dev.variant.hasSeq j.val = true) ∧ (loadAbsent s.dev.variant (s.request m.val) = false) ∧
       (loadBad (s.request m.val) = false) ∧ (s.arg m.val 1 1 = 0)) ∧
    (∃ (s : State) (m : Fin 8) (j : Fin 4) (p : Program), (s.serves m.val 0x0301 = true) ∧ (s.arg m.val 0 1 =
       j.val) ∧ (s.dev.variant.hasSeq j.val = true) ∧ (loadAbsent s.dev.variant (s.request m.val) = false) ∧
       (loadBad (s.request m.val) = false) ∧ (s.arg m.val 1 1 = 1) ∧ ((seqOf s j.val).buffer = some p)) ∧
    (∃ (s : State) (m : Fin 8) (j : Fin 4) (p : Program), (s.serves m.val 0x0301 = true) ∧ (s.arg m.val 0 1 =
       j.val) ∧ (s.dev.variant.hasSeq j.val = true) ∧ (loadAbsent s.dev.variant (s.request m.val) = false) ∧
       (loadBad (s.request m.val) = false) ∧ (s.arg m.val 1 1 = 2) ∧ ((seqOf s j.val).buffer = some p) ∧
       (programAbsent s.dev.variant p = false) ∧ (∀ w ∈ p.words.toList, branchBad w = false)) ∧
    (∃ (s : State) (m : Fin 8) (j : Fin 4) (p : Program) (w : Branch), (s.serves m.val 0x0301 = true) ∧
       (s.arg m.val 0 1 = j.val) ∧ (s.dev.variant.hasSeq j.val = true) ∧
       (loadAbsent s.dev.variant (s.request m.val) = false) ∧ (loadBad (s.request m.val) = false) ∧
       (s.arg m.val 1 1 = 2) ∧ ((seqOf s j.val).buffer = some p) ∧ (programAbsent s.dev.variant p = false) ∧
       (w ∈ p.words.toList) ∧ (branchBad w = true)) ∧
    (∃ (s : State) (m : Fin 8) (j : Fin 4), (s.serves m.val 0x0301 = true) ∧ (s.arg m.val 0 1 = j.val) ∧
       (s.dev.variant.hasSeq j.val = true) ∧ (loadAbsent s.dev.variant (s.request m.val) = false) ∧
       (loadBad (s.request m.val) = false) ∧ (s.arg m.val 1 1 = 1 ∨ s.arg m.val 1 1 = 2) ∧ ((seqOf s j.val).buffer =
       none)) ∧
    (∃ (s : State) (m : Fin 8) (j : Fin 4), (s.serves m.val 0x0301 = true) ∧ (s.arg m.val 0 1 = j.val) ∧
       (s.dev.variant.hasSeq j.val = true) ∧ (loadAbsent s.dev.variant (s.request m.val) = false) ∧
       (loadBad (s.request m.val) = false) ∧ (s.arg m.val 1 1 = 3)) ∧
    (∃ (s : State) (m : Fin 8) (j : Fin 4), (s.serves m.val 0x0301 = true) ∧ (s.arg m.val 0 1 = j.val) ∧
       (s.dev.variant.hasSeq j.val = true) ∧ (loadAbsent s.dev.variant (s.request m.val) = false) ∧
       (loadBad (s.request m.val) = false) ∧ (s.arg m.val 1 1 = 5)) ∧
    (∃ (s : State) (m : Fin 8), (s.serves m.val 0x0301 = true) ∧ (loadAbsent s.dev.variant (s.request m.val) = true)) :=
  ⟨⟨Tests.running 1 0x0304 [0, 4, 15, 0, 1] State.reset, 1, by decide +kernel⟩,
   ⟨Tests.running 1 0x0304 [0, 4, 15, 0, 4] State.reset, 1, by decide +kernel⟩,
   ⟨Tests.running 1 0x0304 [1, 0, 15] State.reset, 1, by decide +kernel⟩,
   ⟨Tests.running 1 0x0304 [2, 0, 15] State.reset, 1, by decide +kernel⟩,
   ⟨Tests.running 1 0x0305 [0, 0, 0, 0, 1, 0, 5] State.reset, 1, by decide +kernel⟩,
   ⟨Tests.running 1 0x0305 [2] State.reset, 1, by decide +kernel⟩,
   ⟨Tests.running 1 0x0301 [2, 0, 0, 0, 0, 0, 0, 0, 1, 15, 15, 1] State.reset, 1, 2, by decide +kernel⟩,
   ⟨modSeq 2 (fun q => { q with buffer := some { step := 0, stepPod := 0, group := 0, oneShot := false, words := Vector.replicate 64 (0#128 : BitVec 128) } }) (Tests.running 1 0x0301 [2, 1, 15, 1] State.reset), 1, 2, { step := 0, stepPod := 0, group := 0, oneShot := false, words := Vector.replicate 64 0 }, by decide +kernel⟩,
   ⟨modSeq 2 (fun q => { q with buffer := some { step := 0, stepPod := 0, group := 0, oneShot := false, words := Vector.replicate 64 (0#128 : BitVec 128) } }) (Tests.running 1 0x0301 [2, 2] State.reset), 1, 2, { step := 0, stepPod := 0, group := 0, oneShot := false, words := Vector.replicate 64 0 }, ⟨by decide +kernel, by decide +kernel, by decide +kernel, by decide +kernel, by decide +kernel, by decide +kernel, by decide +kernel, by decide +kernel, fun w hw => by
    have : w = 0 := by simpa using hw
    rw [this]
    decide +kernel⟩⟩,
   ⟨modSeq 2 (fun q => { q with buffer := some { step := 0, stepPod := 0, group := 0, oneShot := false, words := Vector.replicate 64 (BitVec.ofNat 128 (2 ^ 93 + 2) : BitVec 128) } }) (Tests.running 1 0x0301 [2, 2] State.reset), 1, 2, { step := 0, stepPod := 0, group := 0, oneShot := false, words := Vector.replicate 64 (BitVec.ofNat 128 (2 ^ 93 + 2)) }, (BitVec.ofNat 128 (2 ^ 93 + 2)), by decide +kernel⟩,
   ⟨Tests.running 1 0x0301 [2, 2] State.reset, 1, 2, by decide +kernel⟩,
   ⟨Tests.running 1 0x0301 [2, 3, 0, 3] State.reset, 1, 2, by decide +kernel⟩,
   ⟨Tests.running 1 0x0301 [2, 5] State.reset, 1, 2, by decide +kernel⟩,
   ⟨Tests.running 1 0x0301 [1, 0, 0, 0, 0, 0, 0, 0, 0, 0, 3] (State.resetOf .b9128), 1, by decide +kernel⟩⟩

theorem witness_SequencerArming :
    (∃ (s : State) (m : Fin 8), (s.serves m.val 0x0302 = true) ∧ (1 ≤ s.arg m.val 0 1) ∧ (s.arg m.val 0 1 ≤ 15) ∧
       (s.arg m.val 2 1 ≤ 1) ∧ (zeroAt (s.request m.val) 3 1 = true) ∧ (zeroAt (s.request m.val) 12 244 = true) ∧
       (s.arg m.val 8 4 ≤ 999999999) ∧ (maskAbsent s.dev.variant (s.arg m.val 0 1) = false) ∧ (s.arg m.val 1 1 = 0) ∧
       (armState (s.arg m.val 0 1) 0 s = false) ∧ (s.fab.running = false)) ∧
    (∃ (s : State) (m : Fin 8), (s.serves m.val 0x0302 = true) ∧ (1 ≤ s.arg m.val 0 1) ∧ (s.arg m.val 0 1 ≤ 15) ∧
       (s.arg m.val 2 1 ≤ 1) ∧ (zeroAt (s.request m.val) 3 1 = true) ∧ (zeroAt (s.request m.val) 12 244 = true) ∧
       (s.arg m.val 8 4 ≤ 999999999) ∧ (maskAbsent s.dev.variant (s.arg m.val 0 1) = false) ∧ (s.arg m.val 1 1 = 0) ∧
       (armState (s.arg m.val 0 1) 0 s = false) ∧ (s.fab.running = true)) ∧
    (∃ (s : State) (m : Fin 8), (s.serves m.val 0x0302 = true) ∧ (1 ≤ s.arg m.val 0 1) ∧ (s.arg m.val 0 1 ≤ 15) ∧
       (s.arg m.val 2 1 ≤ 1) ∧ (zeroAt (s.request m.val) 3 1 = true) ∧ (zeroAt (s.request m.val) 12 244 = true) ∧
       (s.arg m.val 8 4 ≤ 999999999) ∧ (maskAbsent s.dev.variant (s.arg m.val 0 1) = false) ∧ (s.arg m.val 1 1 = 1) ∧
       (armState (s.arg m.val 0 1) 1 s = false) ∧ (s.fab.running = false)) ∧
    (∃ (s : State) (m : Fin 8), (s.serves m.val 0x0302 = true) ∧ (1 ≤ s.arg m.val 0 1) ∧ (s.arg m.val 0 1 ≤ 15) ∧
       (s.arg m.val 2 1 ≤ 1) ∧ (zeroAt (s.request m.val) 3 1 = true) ∧ (zeroAt (s.request m.val) 12 244 = true) ∧
       (s.arg m.val 8 4 ≤ 999999999) ∧ (maskAbsent s.dev.variant (s.arg m.val 0 1) = false) ∧ (s.arg m.val 1 1 = 1) ∧
       (armState (s.arg m.val 0 1) 1 s = false) ∧ (s.fab.running = true)) ∧
    (∃ (s : State) (m : Fin 8) (k n x f : Nat), (s.fab.orders = [(n, .arm x f false false (some m.val))]) ∧
       (n ≤ k) ∧ (s.serves m.val 0x0302 = true)) ∧
    (∃ (s : State) (m : Fin 8), (s.serves m.val 0x0302 = true) ∧ (1 ≤ s.arg m.val 0 1) ∧ (s.arg m.val 0 1 ≤ 15) ∧
       (s.arg m.val 2 1 ≤ 1) ∧ (zeroAt (s.request m.val) 3 1 = true) ∧ (zeroAt (s.request m.val) 12 244 = true) ∧
       (s.arg m.val 8 4 ≤ 999999999) ∧ (maskAbsent s.dev.variant (s.arg m.val 0 1) = false) ∧ (s.arg m.val 1 1 = 0) ∧
       (armState (s.arg m.val 0 1) 0 s = true)) ∧
    (∃ (s : State) (m : Fin 8), (s.serves m.val 0x0302 = true) ∧ (1 ≤ s.arg m.val 0 1) ∧ (s.arg m.val 0 1 ≤ 15) ∧
       (s.arg m.val 2 1 ≤ 1) ∧ (zeroAt (s.request m.val) 3 1 = true) ∧ (zeroAt (s.request m.val) 12 244 = true) ∧
       (s.arg m.val 8 4 ≤ 999999999) ∧ (maskAbsent s.dev.variant (s.arg m.val 0 1) = false) ∧ (s.arg m.val 1 1 = 2) ∧
       (s.dev.variant.ridgeline = true) ∧ (∀ j ∈ bitsSet 4 (s.arg m.val 0 1), loadedActive j s = true →
       chainGroup j s ≠ 0) ∧ (armState (s.arg m.val 0 1) 2 s = false) ∧ (s.rl.addr ≠ 0) ∧
       (timeBReached (s.tm.b.sec / 2 ^ 32 * 2 ^ 32 + s.arg m.val 4 4) (s.arg m.val 8 4) s = false ∨ s.arg m.val 2 1 =
       0)) ∧
    (∃ (s : State) (m : Fin 8), (s.serves m.val 0x0302 = true) ∧ (1 ≤ s.arg m.val 0 1) ∧ (s.arg m.val 0 1 ≤ 15) ∧
       (s.arg m.val 2 1 ≤ 1) ∧ (zeroAt (s.request m.val) 3 1 = true) ∧ (zeroAt (s.request m.val) 12 244 = true) ∧
       (s.arg m.val 8 4 ≤ 999999999) ∧ (maskAbsent s.dev.variant (s.arg m.val 0 1) = false) ∧ (s.arg m.val 1 1 = 2) ∧
       (s.dev.variant.ridgeline = true) ∧ (∀ j ∈ bitsSet 4 (s.arg m.val 0 1), loadedActive j s = true →
       chainGroup j s ≠ 0) ∧ (armState (s.arg m.val 0 1) 2 s = false) ∧ (s.rl.addr ≠ 0) ∧
       (timeBReached (s.tm.b.sec / 2 ^ 32 * 2 ^ 32 + s.arg m.val 4 4) (s.arg m.val 8 4) s = true) ∧
       (s.arg m.val 2 1 = 1)) ∧
    (∃ (j : Nat), j < 4) ∧
    (∃ (s : State) (j : Nat), (j < 4) ∧ ((seqOf s j).mode = .idle) ∧ (loadedActive j s = true)) ∧
    (∃ (s : State) (m : Fin 8), (s.serves m.val 0x0303 = true) ∧ (1 ≤ s.arg m.val 0 1) ∧ (s.arg m.val 0 1 ≤ 15) ∧
       (s.arg m.val 1 1 = 0) ∧ (zeroAt (s.request m.val) 2 254 = true) ∧
       (maskAbsent s.dev.variant (s.arg m.val 0 1) = false) ∧ (s.fab.running = false)) ∧
    (∃ (s : State) (m : Fin 8), (s.serves m.val 0x0303 = true) ∧ (1 ≤ s.arg m.val 0 1) ∧ (s.arg m.val 0 1 ≤ 15) ∧
       (s.arg m.val 1 1 = 0) ∧ (zeroAt (s.request m.val) 2 254 = true) ∧
       (maskAbsent s.dev.variant (s.arg m.val 0 1) = false) ∧ (s.fab.running = true)) ∧
    (∃ (s : State) (m : Fin 8) (k n x : Nat), (s.fab.orders = [(n, .disarm x (some m.val))]) ∧ (n ≤ k) ∧
       (s.serves m.val 0x0303 = true)) ∧
    (∃ (s : State) (k : Nat), ∀ o ∈ s.fab.orders, k < o.1) ∧
    (∃ (s : State) (j : Nat), (j < 4) ∧ ((seqOf s j).mode = .armed) ∧ (loadedActive j s = true)) ∧
    (∃ (s : State) (j : Fin 4) (a b c : Nat), ((seqOf s j.val).mode = .pending) ∧ ((seqOf s j.val).wait =
       some (.atTimeB a b c)) ∧ (s.tm.bValid = true) ∧ (timeBReached a b s = true) ∧ (s.fab.running = false) ∧
       (armDiscarded j.val s = false)) ∧
    (∃ (s : State) (j : Fin 4) (a b c : Nat), ((seqOf s j.val).mode = .pending) ∧ ((seqOf s j.val).wait =
       some (.atTimeB a b c)) ∧ (s.tm.bValid = true) ∧ (timeBReached a b s = true) ∧ (s.fab.running = true)) ∧
    (∃ (s : State) (j : Fin 4) (a b c : Nat), ((seqOf s j.val).mode = .pending) ∧ ((seqOf s j.val).wait =
       some (.atTimeB a b c)) ∧ (timeBReached a b s = false)) ∧
    (∃ (s : State) (j : Fin 4) (a b c : Nat), ((seqOf s j.val).mode = .pending) ∧ ((seqOf s j.val).wait =
       some (.atTimeB a b c)) ∧ (s.tm.bValid = true) ∧ (timeBReached a b s = true) ∧ (s.fab.running = false) ∧
       (armDiscarded j.val s = true)) :=
  ⟨⟨{ Tests.running 1 0x0302 [5, 0] State.reset with cfg := { State.reset.cfg with active := { State.reset.cfg.active with progs := Vector.replicate 4 (some { step := 0, stepPod := 0, group := 0, oneShot := false, words := Vector.replicate 64 0 }) }, staged := { State.reset.cfg.active with progs := Vector.replicate 4 (some { step := 0, stepPod := 0, group := 0, oneShot := false, words := Vector.replicate 64 0 }) } }, dev := { State.reset.dev with acq := .running } }, 1, by decide +kernel⟩,
   ⟨{ { Tests.running 1 0x0302 [5, 0] State.reset with cfg := { State.reset.cfg with active := { State.reset.cfg.active with progs := Vector.replicate 4 (some { step := 0, stepPod := 0, group := 0, oneShot := false, words := Vector.replicate 64 0 }) }, staged := { State.reset.cfg.active with progs := Vector.replicate 4 (some { step := 0, stepPod := 0, group := 0, oneShot := false, words := Vector.replicate 64 0 }) } }, dev := { State.reset.dev with acq := .running } } with fab := { State.reset.fab with running := true } }, 1, by decide +kernel⟩,
   ⟨{ Tests.running 1 0x0302 [5, 1] State.reset with cfg := { State.reset.cfg with active := { State.reset.cfg.active with progs := Vector.replicate 4 (some { step := 0, stepPod := 0, group := 0, oneShot := false, words := Vector.replicate 64 0 }) }, staged := { State.reset.cfg.active with progs := Vector.replicate 4 (some { step := 0, stepPod := 0, group := 0, oneShot := false, words := Vector.replicate 64 0 }) } }, dev := { State.reset.dev with acq := .idle } }, 1, by decide +kernel⟩,
   ⟨{ { Tests.running 1 0x0302 [5, 1] State.reset with cfg := { State.reset.cfg with active := { State.reset.cfg.active with progs := Vector.replicate 4 (some { step := 0, stepPod := 0, group := 0, oneShot := false, words := Vector.replicate 64 0 }) }, staged := { State.reset.cfg.active with progs := Vector.replicate 4 (some { step := 0, stepPod := 0, group := 0, oneShot := false, words := Vector.replicate 64 0 }) } }, dev := { State.reset.dev with acq := .running } } with fab := { State.reset.fab with running := true } }, 1, by decide +kernel⟩,
   ⟨{ { { Tests.running 1 0x0302 [5] State.reset with cfg := { State.reset.cfg with active := { State.reset.cfg.active with progs := Vector.replicate 4 (some { step := 0, stepPod := 0, group := 0, oneShot := false, words := Vector.replicate 64 0 }) }, staged := { State.reset.cfg.active with progs := Vector.replicate 4 (some { step := 0, stepPod := 0, group := 0, oneShot := false, words := Vector.replicate 64 0 }) } }, dev := { State.reset.dev with acq := .running } } with fab := { State.reset.fab with running := true } } with fab := { State.reset.fab with running := true, orders := [(16, .arm 5 16 false false (some 1))] } }, 1, 16, 16, 5, 16, by decide +kernel⟩,
   ⟨{ Tests.running 1 0x0302 [5, 0] State.reset with cfg := { State.reset.cfg with active := { State.reset.cfg.active with progs := Vector.replicate 4 (some { step := 0, stepPod := 0, group := 0, oneShot := false, words := Vector.replicate 64 0 }) }, staged := { State.reset.cfg.active with progs := Vector.replicate 4 (some { step := 0, stepPod := 0, group := 0, oneShot := false, words := Vector.replicate 64 0 }) } }, dev := { State.reset.dev with acq := .idle } }, 1, by decide +kernel⟩,
   ⟨{ { Tests.running 1 0x0302 [5, 2, 0, 0, 1] State.reset with cfg := { State.reset.cfg with active := { State.reset.cfg.active with progs := Vector.replicate 4 (some { step := 0, stepPod := 0, group := 3, oneShot := false, words := Vector.replicate 64 0 }) }, staged := { State.reset.cfg.active with progs := Vector.replicate 4 (some { step := 0, stepPod := 0, group := 3, oneShot := false, words := Vector.replicate 64 0 }) } }, dev := { State.reset.dev with acq := .running } } with rl := Tests.linked.rl }, 1, by decide +kernel⟩,
   ⟨{ { Tests.running 1 0x0302 [5, 2, 1] State.reset with cfg := { State.reset.cfg with active := { State.reset.cfg.active with progs := Vector.replicate 4 (some { step := 0, stepPod := 0, group := 3, oneShot := false, words := Vector.replicate 64 0 }) }, staged := { State.reset.cfg.active with progs := Vector.replicate 4 (some { step := 0, stepPod := 0, group := 3, oneShot := false, words := Vector.replicate 64 0 }) } }, dev := { State.reset.dev with acq := .running } } with rl := Tests.linked.rl }, 1, by decide +kernel⟩,
   ⟨3, by decide +kernel⟩,
   ⟨modSeq 3 (fun q => { q with mode := .idle }) { State.reset with cfg := { State.reset.cfg with active := { State.reset.cfg.active with progs := Vector.replicate 4 (some { step := 0, stepPod := 0, group := 0, oneShot := false, words := Vector.replicate 64 0 }) }, staged := { State.reset.cfg.active with progs := Vector.replicate 4 (some { step := 0, stepPod := 0, group := 0, oneShot := false, words := Vector.replicate 64 0 }) } } }, 3, by decide +kernel⟩,
   ⟨Tests.running 1 0x0303 [5] State.reset, 1, by decide +kernel⟩,
   ⟨{ Tests.running 1 0x0303 [5] State.reset with fab := { State.reset.fab with running := true } }, 1, by decide +kernel⟩,
   ⟨{ Tests.running 1 0x0303 [5] State.reset with fab := { State.reset.fab with running := true, orders := [(16, .disarm 5 (some 1))] } }, 1, 16, 16, 5, by decide +kernel⟩,
   ⟨{ State.reset with fab := { State.reset.fab with running := true, orders := [(16, .disarm 5 (some 1))] } }, 15, by decide +kernel⟩,
   ⟨{ State.reset with cfg := { State.reset.cfg with active := { State.reset.cfg.active with progs := Vector.replicate 4 (some { step := 0, stepPod := 0, group := 0, oneShot := false, words := Vector.replicate 64 0 }) }, staged := { State.reset.cfg.active with progs := Vector.replicate 4 (some { step := 0, stepPod := 0, group := 0, oneShot := false, words := Vector.replicate 64 0 }) } }, seqs := Vector.replicate 4 { (seqOf State.reset 0) with mode := .armed } }, 2, by decide +kernel⟩,
   ⟨{ { Tests.running 1 0x0302 [5] State.reset with cfg := { State.reset.cfg with active := { State.reset.cfg.active with progs := Vector.replicate 4 (some { step := 0, stepPod := 0, group := 0, oneShot := false, words := Vector.replicate 64 0 }) }, staged := { State.reset.cfg.active with progs := Vector.replicate 4 (some { step := 0, stepPod := 0, group := 0, oneShot := false, words := Vector.replicate 64 0 }) } }, dev := { State.reset.dev with acq := .running } } with tm := { State.reset.tm with bValid := true }, seqs := Vector.replicate 4 { (seqOf State.reset 0) with mode := .pending, wait := some (.atTimeB 0 0 0) } }, 2, 0, 0, 0, by decide +kernel⟩,
   ⟨{ { { Tests.running 1 0x0302 [5] State.reset with cfg := { State.reset.cfg with active := { State.reset.cfg.active with progs := Vector.replicate 4 (some { step := 0, stepPod := 0, group := 0, oneShot := false, words := Vector.replicate 64 0 }) }, staged := { State.reset.cfg.active with progs := Vector.replicate 4 (some { step := 0, stepPod := 0, group := 0, oneShot := false, words := Vector.replicate 64 0 }) } }, dev := { State.reset.dev with acq := .running } } with tm := { State.reset.tm with bValid := true }, seqs := Vector.replicate 4 { (seqOf State.reset 0) with mode := .pending, wait := some (.atTimeB 0 0 0) } } with fab := { State.reset.fab with running := true } }, 2, 0, 0, 0, by decide +kernel⟩,
   ⟨{ { Tests.running 1 0x0302 [5] State.reset with cfg := { State.reset.cfg with active := { State.reset.cfg.active with progs := Vector.replicate 4 (some { step := 0, stepPod := 0, group := 0, oneShot := false, words := Vector.replicate 64 0 }) }, staged := { State.reset.cfg.active with progs := Vector.replicate 4 (some { step := 0, stepPod := 0, group := 0, oneShot := false, words := Vector.replicate 64 0 }) } }, dev := { State.reset.dev with acq := .running } } with tm := { State.reset.tm with bValid := true }, seqs := Vector.replicate 4 { (seqOf State.reset 0) with mode := .pending, wait := some (.atTimeB 1 0 0) } }, 2, 1, 0, 0, by decide +kernel⟩,
   ⟨{ { { Tests.running 1 0x0302 [5] State.reset with cfg := { State.reset.cfg with active := { State.reset.cfg.active with progs := Vector.replicate 4 (some { step := 0, stepPod := 0, group := 0, oneShot := false, words := Vector.replicate 64 0 }) }, staged := { State.reset.cfg.active with progs := Vector.replicate 4 (some { step := 0, stepPod := 0, group := 0, oneShot := false, words := Vector.replicate 64 0 }) } }, dev := { State.reset.dev with acq := .running } } with tm := { State.reset.tm with bValid := true }, seqs := Vector.replicate 4 { (seqOf State.reset 0) with mode := .pending, wait := some (.atTimeB 0 0 0) } } with dev := State.reset.dev }, 2, 0, 0, 0, by decide +kernel⟩⟩

theorem witness_RowEncoding :
    (∃ (s : State), (rowDue s = true) ∧ ((rowBlocks s.ring.capRow (encodeView s)) = [])) ∧
    (∃ (s : State), (rowDue s = true) ∧ ((rowBlocks s.ring.capRow (encodeView s)) ≠ []) ∧
       (stagingBytes (encodeView s) + (buildRow s.ring.capRow (rowBlocks s.ring.capRow (encodeView s)) (encodeView s)).1.len ≤ 0x80000)) ∧
    (∃ (s : State), (rowDue s = true) ∧ ((rowBlocks s.ring.capRow (encodeView s)) ≠ []) ∧
       (0x80000 < stagingBytes (encodeView s) + (buildRow s.ring.capRow (rowBlocks s.ring.capRow (encodeView s)) (encodeView s)).1.len)) ∧
    (∃ (s : State), rowDue s = false) ∧
    (∃ (s : State) (d : RowDesc) (b : List Byte) (l : List (RowDesc × List Byte)), (s.ring.staging = (d, b) :: l) ∧
       (acquiring s = true) ∧
       (s.ring.W + (if isAnchor d.row s then max 128 d.len else d.len) - keptFrom s ≤ s.dev.variant.ringCap)) ∧
    (∃ (s : State) (d : RowDesc) (b : List Byte) (l : List (RowDesc × List Byte)), (s.ring.staging = (d, b) :: l) ∧
       (acquiring s = true) ∧
       (s.dev.variant.ringCap < s.ring.W + (if isAnchor d.row s then max 128 d.len else d.len) - keptFrom s) ∧
       (s.cfg.active.hold = true)) ∧
    (∃ (s : State) (d : RowDesc) (b : List Byte) (l : List (RowDesc × List Byte)), (s.ring.staging = (d, b) :: l) ∧
       (acquiring s = true) ∧
       (s.dev.variant.ringCap < s.ring.W + (if isAnchor d.row s then max 128 d.len else d.len) - keptFrom s) ∧
       (s.cfg.active.hold = false)) ∧
    (∃ (s : State), s.ring.staging = [] ∨ acquiring s = false) :=
  ⟨⟨{ State.reset with dev := { State.reset.dev with powered := true, acq := .running }, ring := { State.reset.ring with intake := true }, tm := { State.reset.tm with ax5 := 256 }, fab := { State.reset.fab with running := false } }, by decide +kernel⟩,
   ⟨{ State.reset with dev := { State.reset.dev with powered := true, acq := .running }, ring := { State.reset.ring with intake := true }, tm := { State.reset.tm with ax5 := 256 }, fab := { State.reset.fab with running := false }, pods := Vector.replicate 16 { (podAt State.reset 0) with state := .active, capture := some { first := 0, joined := false, gone := none } }, cfg := { State.reset.cfg with active := { State.reset.cfg.active with inputs := Vector.replicate 272 { (actCh State.reset 0) with ctrl := 1 } } } }, by decide +kernel⟩,
   ⟨{ State.reset with dev := { State.reset.dev with powered := true, acq := .running }, ring := { State.reset.ring with intake := true, staging := [({ row := 0, pos := 0, len := 0x80000, anchor := false, dual := false, podMask := 1, rawMask := 0, blocks := [], t0 := (0, 0), suspect := false, counts := [] }, [])] }, tm := { State.reset.tm with ax5 := 256 }, fab := { State.reset.fab with running := false }, pods := Vector.replicate 16 { (podAt State.reset 0) with state := .active, capture := some { first := 0, joined := false, gone := none } }, cfg := { State.reset.cfg with active := { State.reset.cfg.active with inputs := Vector.replicate 272 { (actCh State.reset 0) with ctrl := 1 } } } }, by decide +kernel⟩,
   ⟨State.reset, by decide +kernel⟩,
   ⟨Tests.acquiring ({ State.reset with ring := { State.reset.ring with staging := [({ row := 0, pos := 0, len := 64, anchor := false, dual := false, podMask := 1, rawMask := 0, blocks := [], t0 := (0, 0), suspect := false, counts := [] }, [7])], X := 0, W := 64 } }), { row := 0, pos := 0, len := 64, anchor := false, dual := false, podMask := 1, rawMask := 0, blocks := [], t0 := (0, 0), suspect := false, counts := [] }, [7], [], by decide +kernel⟩,
   ⟨{ Tests.acquiring ({ State.reset with ring := { State.reset.ring with staging := [({ row := 0, pos := 0, len := 64, anchor := false, dual := false, podMask := 1, rawMask := 0, blocks := [], t0 := (0, 0), suspect := false, counts := [] }, [7])], X := 0, W := 0x1000000000000 } }) with cfg := { State.reset.cfg with active := { State.reset.cfg.active with hold := true } } }, { row := 0, pos := 0, len := 64, anchor := false, dual := false, podMask := 1, rawMask := 0, blocks := [], t0 := (0, 0), suspect := false, counts := [] }, [7], [], by decide +kernel⟩,
   ⟨{ Tests.acquiring ({ State.reset with ring := { State.reset.ring with staging := [({ row := 0, pos := 0, len := 64, anchor := false, dual := false, podMask := 1, rawMask := 0, blocks := [], t0 := (0, 0), suspect := false, counts := [] }, [7])], X := 0, W := 0x1000000000000 } }) with cfg := { State.reset.cfg with active := { State.reset.cfg.active with hold := false } } }, { row := 0, pos := 0, len := 64, anchor := false, dual := false, podMask := 1, rawMask := 0, blocks := [], t0 := (0, 0), suspect := false, counts := [] }, [7], [], by decide +kernel⟩,
   ⟨State.reset, by decide +kernel⟩⟩

theorem witness_RingReads :
    (∃ (s : State) (d : RowDesc), (nextRead s = some d) ∧ (mayRead d s = true) ∧ (windowed d.row s = false) ∧
       (s.ring.ueLines = []) ∧ (s.ring.ceLines = [])) ∧
    (∃ (s : State) (d : RowDesc), (nextRead s = some d) ∧ (mayRead d s = true)) ∧
    (∃ (s : State) (d : RowDesc), (firstDue s = none) ∧ (secondDue s = some d)) ∧
    (∃ (s : State), (∀ d, nextRead s = some d → mayRead d s = false) ∧ (secondDue s = none)) ∧
    (∃ (s : State) (n : Nat), (scrubRuns 0 s = true) ∧ (scrubAtEnd s = false) ∧ (n = scrubNext s) ∧
       ((linePos n s).isSome = true) ∧ (n ∉ s.ring.ueLines) ∧ (n ∉ s.ring.ceLines)) ∧
    (∃ (s : State) (n : Nat), (scrubRuns 0 s = true) ∧ (scrubAtEnd s = false) ∧ (n = scrubNext s) ∧
       ((linePos n s).isSome = true) ∧ (n ∉ s.ring.ueLines) ∧ (s.ring.ceCount < s.ring.ceLimit)) ∧
    (∃ (s : State) (n : Nat), (scrubRuns 0 s = true) ∧ (scrubAtEnd s = false) ∧ (n = scrubNext s) ∧
       ((linePos n s).isSome = true)) ∧
    (∃ (s : State), ((linePos s.ring.scrubPos s).isSome = true) ∧ (s.ring.scrubPos < s.dev.variant.ringCap / 64)) ∧
    (∃ (s : State) (n : Nat), scrubRuns 0 s = false ∨ scrubAtEnd s = true ∨ n ≠ scrubNext s ∨ linePos n s = none) ∧
    (∃ (s : State), (s.ring.ceFrom + 250000000 ≤ s.tm.tick) ∧
       (s.ring.ceCount ≤ s.ring.ceLimit ∨ s.ring.ceSignalled = true)) ∧
    (∃ (s : State), s.tm.tick < s.ring.ceFrom + 250000000) ∧
    (∃ (s : State), (s.ring.ceFrom + 250000000 ≤ s.tm.tick) ∧ (s.ring.ceLimit < s.ring.ceCount) ∧
       (s.ring.ceSignalled = false)) ∧
    (∃ (s : State), ltrMoved { s with
           ring := { s.ring with rateBytes := s.ring.windowBytes, windowBytes := 0, rate := s.ring.windowBytes * 10000 / 1048576 } } =
       false) ∧
    (∃ (s : State), ltrMoved { s with
           ring := { s.ring with rateBytes := s.ring.windowBytes, windowBytes := 0, rate := s.ring.windowBytes * 10000 / 1048576 } } =
       true) :=
  ⟨⟨{ Tests.acquiring State.reset with ring := { State.reset.ring with W := 64, rows := [{ row := 0, pos := 0, len := 64, anchor := false, dual := false, podMask := 1, rawMask := 0, blocks := [], t0 := (0, 0), suspect := false, counts := [] }] }, tm := { State.reset.tm with ax5 := 0x100000000 }, ret := { State.reset.ret with cur := some Tests.epoch } }, { row := 0, pos := 0, len := 64, anchor := false, dual := false, podMask := 1, rawMask := 0, blocks := [], t0 := (0, 0), suspect := false, counts := [] }, by decide +kernel⟩,
   ⟨{ Tests.acquiring State.reset with ring := { State.reset.ring with W := 64, rows := [{ row := 0, pos := 0, len := 64, anchor := false, dual := false, podMask := 1, rawMask := 0, blocks := [], t0 := (0, 0), suspect := false, counts := [] }] }, tm := { State.reset.tm with ax5 := 0x100000000 }, ret := { State.reset.ret with cur := some Tests.epoch } }, { row := 0, pos := 0, len := 64, anchor := false, dual := false, podMask := 1, rawMask := 0, blocks := [], t0 := (0, 0), suspect := false, counts := [] }, by decide +kernel⟩,
   ⟨{ Tests.acquiring State.reset with ring := { State.reset.ring with capRow := 9, W := 64, rows := [{ row := 0, pos := 0, len := 64, anchor := false, dual := false, podMask := 1, rawMask := 0, blocks := [{ pod := 0, off := 8, len := 8, type := 1 }], t0 := (0, 0), suspect := false, counts := [] }] }, tm := { State.reset.tm with ax5 := 0x100000000 }, ret := { State.reset.ret with cur := some { Tests.epoch with retain := { Tests.epoch.retain with policy := 1 } }, readRow := 1, requests := [{ cls := 0, pods := 1, first := 0, last := 5, asked := 0, trunc := 0 }] } }, { row := 0, pos := 0, len := 64, anchor := false, dual := false, podMask := 1, rawMask := 0, blocks := [{ pod := 0, off := 8, len := 8, type := 1 }], t0 := (0, 0), suspect := false, counts := [] }, by decide +kernel⟩,
   ⟨State.reset, ⟨fun d h => by simp [nextRead, State.reset, State.resetOf, Ring.reset] at h, rfl⟩⟩,
   ⟨{ { State.reset with ring := { State.reset.ring with W := 640, scrubPos := 9 } } with mem := { State.reset.mem with scrub := State.reset.mem.scrub.map fun x => { x with enable := true, run := some 0 } } }, 9, by decide +kernel⟩,
   ⟨{ { State.reset with ring := { State.reset.ring with W := 640, scrubPos := 9, ceLimit := 1 } } with mem := { State.reset.mem with scrub := State.reset.mem.scrub.map fun x => { x with enable := true, run := some 0 } } }, 9, by decide +kernel⟩,
   ⟨{ { State.reset with ring := { State.reset.ring with W := 640, scrubPos := 9 } } with mem := { State.reset.mem with scrub := State.reset.mem.scrub.map fun x => { x with enable := true, run := some 0 } } }, 9, by decide +kernel⟩,
   ⟨{ State.reset with ring := { State.reset.ring with W := 640, scrubPos := 9 } }, by decide +kernel⟩,
   ⟨State.reset, 9, by decide +kernel⟩,
   ⟨{ State.reset with tm := { State.reset.tm with tick := 250000000 } }, by decide +kernel⟩,
   ⟨State.reset, by decide +kernel⟩,
   ⟨{ { State.reset with ring := { State.reset.ring with ceLimit := 1, ceCount := 2 } } with tm := { State.reset.tm with tick := 250000000 } }, by decide +kernel⟩,
   ⟨{ State.reset with pcie := { State.reset.pcie with ltrBase := some (1, 0) } }, by decide +kernel⟩,
   ⟨State.reset, by decide +kernel⟩⟩

theorem witness_RingView :
    (∃ (s : State) (x n : Nat), (s.reached = true) ∧ (x + n ≤ bar2Size) ∧ (s.ring.ueLines = []) ∧ (s.ring.ceLines =
       [])) ∧
    (∃ (s : State) (x n : Nat), (s.reached = true) ∧ (x + n ≤ bar2Size) ∧ (0 < n)) ∧
    (∃ (s : State) (x : Nat) (d : List Byte), (s.reached = true) ∧ (x + d.length ≤ bar2Size)) ∧
    (∃ (x n : Nat) (d : List Byte), (bar2Size < x + n) ∧ (bar2Size < x + d.length)) ∧
    (∃ (s : State), s.reached = true) ∧
    (∃ (s : State), (s.reached = true) ∧ (∀ x ∈ s.tm.latches, x.1 ≠ 0xD068)) ∧
    (∃ (s : State) (m : Fin 8), (s.serves m.val 0x0406 = true) ∧ (zeroAt (s.request m.val) 5 1 = true) ∧
       (zeroAt (s.request m.val) 8 248 = true) ∧ (s.arg m.val 0 1 = 0)) ∧
    (∃ (s : State) (m : Fin 8), (s.serves m.val 0x0406 = true) ∧ (zeroAt (s.request m.val) 5 1 = true) ∧
       (zeroAt (s.request m.val) 8 248 = true) ∧ (s.arg m.val 0 1 = 3) ∧ (s.arg m.val 1 1 ≤ 1) ∧ (s.arg m.val 2 1 ≤ 1)) ∧
    (∃ (s : State) (m : Fin 8), (s.serves m.val 0x0406 = true) ∧ (zeroAt (s.request m.val) 5 1 = true) ∧
       (zeroAt (s.request m.val) 8 248 = true) ∧ (s.arg m.val 0 1 = 12) ∧ (s.arg m.val 3 1 ≠ 0) ∧
       (s.arg m.val 4 1 ≠ 0) ∧ (s.arg m.val 6 2 ≠ 0)) ∧
    (∃ (s : State) (m : Fin 8), (s.serves m.val 0x0406 = true) ∧ (15 < s.arg m.val 0 1)) :=
  ⟨⟨{ State.reset with ring := { State.reset.ring with W := 64 } }, 60, 8, by decide +kernel⟩,
   ⟨{ State.reset with ring := { State.reset.ring with W := 64 } }, 60, 8, by decide +kernel⟩,
   ⟨State.reset, 0, [1], by decide +kernel⟩,
   ⟨0x1000000000, 1, [1], by decide +kernel⟩,
   ⟨State.reset, by decide +kernel⟩,
   ⟨State.reset, by decide +kernel⟩,
   ⟨Tests.running 1 0x0406 [0] State.reset, 1, by decide +kernel⟩,
   ⟨Tests.running 1 0x0406 [3, 1, 1] State.reset, 1, by decide +kernel⟩,
   ⟨Tests.running 1 0x0406 [12, 0, 0, 128, 200, 0, 4] State.reset, 1, by decide +kernel⟩,
   ⟨Tests.running 1 0x0406 [16] State.reset, 1, by decide +kernel⟩⟩

theorem witness_RetentionRows :
    (∃ (s : State) (e : EpochRec), (s.ret.cur = some e) ∧ (acquiring s = true) ∧ (s.cmp.inq = []) ∧
       (ofEpoch s.ret.emitRow s = true) ∧ (rowSettled s.ret.emitRow s = true) ∧ (rowReady s.ret.emitRow e s = true)) ∧
    (∃ (s : State), s.ret.cur = none) ∧
    (∃ (s : State) (e : EpochRec), (s.ret.cur = some e) ∧ (rowSettled s.ret.emitRow s =
       false ∨ rowReady s.ret.emitRow e s = false)) ∧
    (∃ (s : State) (t : Nat) (l : List Nat), (s.ret.logTicks = t :: l) ∧ (t + msTicks s ≤ s.tm.tick)) ∧
    (∃ (s : State) (t : Nat) (l : List Nat), s.ret.logTicks = [] ∨ (s.ret.logTicks = t :: l ∧
       s.tm.tick < t + msTicks s)) ∧
    (∃ (s : State) (m : Fin 8), (s.serves m.val 0x0404 = true) ∧ (retainBad (s.request m.val) = false) ∧ (∀ c < 4,
       ∀ p ∈ bitsSet 16 (classReq (s.request m.val) c).pods, s.dev.variant.hasPod p = true) ∧ (s.arg m.val 0 1 = 0)) ∧
    (∃ (s : State) (m : Fin 8), (s.serves m.val 0x0404 = true) ∧ (retainBad (s.request m.val) = false) ∧ (∀ c < 4,
       ∀ p ∈ bitsSet 16 (classReq (s.request m.val) c).pods, s.dev.variant.hasPod p = true) ∧ (s.arg m.val 0 1 = 1)) ∧
    (∃ (s : State) (m : Fin 8), (s.serves m.val 0x0404 = true) ∧ (retainBad (s.request m.val) = false) ∧ (∀ c < 4,
       ∀ p ∈ bitsSet 16 (classReq (s.request m.val) c).pods, s.dev.variant.hasPod p = true) ∧ (s.arg m.val 0 1 = 2)) ∧
    (∃ (s : State) (m : Fin 8), (s.serves m.val 0x0404 = true) ∧ (retainBad (s.request m.val) = true)) ∧
    (∃ (s : State) (m : Fin 8), (s.serves m.val 0x0405 = true) ∧ (zeroAt (s.request m.val) 2 2 = true) ∧
       (zeroAt (s.request m.val) 40 216 = true) ∧ (acquiring s = true) ∧ (s.arg m.val 0 1 = 0)) ∧
    (∃ (s : State) (m : Fin 8), (s.serves m.val 0x0405 = true) ∧ (zeroAt (s.request m.val) 2 2 = true) ∧
       (zeroAt (s.request m.val) 40 216 = true) ∧ (acquiring s = true) ∧ (s.arg m.val 0 1 = 1) ∧ (s.arg m.val 1 1 ≤ 3)) ∧
    (∃ (s : State) (m : Fin 8), (s.serves m.val 0x0405 = true) ∧ (zeroAt (s.request m.val) 2 2 = true) ∧
       (zeroAt (s.request m.val) 40 216 = true) ∧ (s.arg m.val 0 1 = 0) ∧ (acquiring s = false)) :=
  ⟨⟨{ Tests.acquiring State.reset with tm := { State.reset.tm with ax5 := 0x1000000 }, ring := { State.reset.ring with capRow := 5 }, ret := { State.reset.ret with cur := some Tests.epoch } }, Tests.epoch, by decide +kernel⟩,
   ⟨State.reset, by decide +kernel⟩,
   ⟨{ Tests.acquiring State.reset with ret := { State.reset.ret with cur := some Tests.epoch } }, Tests.epoch, by decide +kernel⟩,
   ⟨{ State.reset with ret := { State.reset.ret with logPending := [{ seq := 0, kind := 0, eflags := 0, code := 0, sec := 0, ns := 0, data := [] }], logTicks := [5] }, tm := { State.reset.tm with tick := 250005 } }, 5, [], by decide +kernel⟩,
   ⟨State.reset, 0, [], by decide +kernel⟩,
   ⟨Tests.running 1 0x0404 [0, 1] State.reset, 1, by decide +kernel⟩,
   ⟨Tests.running 1 0x0404 [1] State.reset, 1, by decide +kernel⟩,
   ⟨Tests.running 1 0x0404 [2] State.reset, 1, by decide +kernel⟩,
   ⟨Tests.running 1 0x0404 [3] State.reset, 1, by decide +kernel⟩,
   ⟨Tests.running 1 0x0405 [0] (Tests.acquiring State.reset), 1, by decide +kernel⟩,
   ⟨Tests.running 1 0x0405 [1, 2] (Tests.acquiring State.reset), 1, by decide +kernel⟩,
   ⟨Tests.running 1 0x0405 [0] State.reset, 1, by decide +kernel⟩⟩

theorem witness_FrameSequence :
    ∃ (s : State) (policy : Nat), (policy ≠ 1) ∧ (s.cmp.inq = []) ∧ (s.ret.seq < 18446744073709551616) :=
  ⟨{ Tests.acquiring State.reset with tm := { State.reset.tm with ax5 := 0x1000000 }, ring := { State.reset.ring with capRow := 5 }, ret := { State.reset.ret with cur := some Tests.epoch } }, 0, by decide +kernel⟩

theorem witness_EpochBoundaries :
    (∃ (s : State) (b : Boundary), (s.ret.boundary = some b) ∧ (s.dev.acq = .running) ∧ (256 * b.row ≤ s.tm.ax5) ∧
       (s.ret.cur ≠ none)) ∧
    (∃ (s : State), s.ret.boundary = none) ∧
    (∃ (s : State) (b : Boundary), (s.ret.boundary = some b) ∧ (s.tm.ax5 < 256 * b.row)) ∧
    (∃ (s : State) (b : Boundary) (r : Nat), (s.ret.boundary = some b) ∧ (s.dev.acq = .draining) ∧
       (mayResume r b s = true)) ∧
    (∃ (s : State) (b : Boundary) (e : EpochRec), (s.ret.boundary = some b) ∧ (s.ret.cur = some e) ∧ (s.dev.acq =
       .draining) ∧ (s.ret.closed = false) ∧ (256 * b.row + 512 ≤ s.tm.ax5) ∧ (b.row ≤ s.ret.emitRow) ∧ (s.cmp.inq =
       [])) ∧
    (∃ (s : State) (b : Boundary), (s.ret.boundary = some b) ∧ (s.dev.acq = .draining) ∧ (s.ret.closed = true) ∧
       (endsIdle b.causes = true) ∧ (closeGone s = true)) ∧
    (∃ (s : State) (b : Boundary), s.dev.acq ≠ .draining ∨ s.ret.closed = false ∨ closeGone s =
       false ∨ (s.ret.boundary = some b ∧ endsIdle b.causes = false)) ∧
    (∃ (s : State) (b : Boundary) (x : Nat × Nat × List Byte) (r : Nat), (s.ret.boundary = some b) ∧
       (s.ret.nextFirst = some x) ∧ (s.dev.acq = .draining) ∧ (openRow b s = some r) ∧ (s.ret.closed = true) ∧
       (stagesEmpty s = true)) ∧
    (∃ (s : State) (b : Boundary) (x : Nat × Nat × List Byte) (r : Nat), (s.ret.boundary = some b) ∧
       (s.ret.nextFirst = some x) ∧ (s.dev.acq = .draining) ∧ (openRow b s = some r) ∧ (s.ret.closed = true) ∧
       (stagesEmpty s = true)) ∧
    (∃ (s : State) (x : Nat × Nat × List Byte) (r : Nat), (s.ret.boundary = none) ∧ (s.ret.nextFirst = some x) ∧
       (s.dev.acq = .running) ∧ (s.ret.intakeRow = some r) ∧ (256 * r ≤ s.tm.ax5) ∧ (stagesEmpty s = true)) ∧
    (∃ (s : State), s.ret.nextFirst = none) :=
  ⟨⟨{ Tests.acquiring State.reset with dev := { State.reset.dev with acq := .running }, tm := { State.reset.tm with ax5 := 0x1000000 }, ret := { State.reset.ret with cur := some Tests.epoch, boundary := some { causes := [5], row := 1, g := 4 } } }, { causes := [5], row := 1, g := 4 }, by decide +kernel⟩,
   ⟨State.reset, by decide +kernel⟩,
   ⟨{ { Tests.acquiring State.reset with dev := { State.reset.dev with acq := .running }, tm := { State.reset.tm with ax5 := 0x1000000 }, ret := { State.reset.ret with cur := some Tests.epoch, boundary := some { causes := [5], row := 1, g := 4 } } } with tm := State.reset.tm }, { causes := [5], row := 1, g := 4 }, by decide +kernel⟩,
   ⟨{ Tests.acquiring State.reset with dev := { State.reset.dev with acq := .draining }, tm := { State.reset.tm with ax5 := 0x1000000 }, ret := { State.reset.ret with cur := some Tests.epoch, boundary := some { causes := [5], row := 1, g := 4 } } }, { causes := [5], row := 1, g := 4 }, 5, by decide +kernel⟩,
   ⟨{ Tests.acquiring State.reset with dev := { State.reset.dev with acq := .draining }, tm := { State.reset.tm with ax5 := 0x1000000 }, ret := { State.reset.ret with cur := some Tests.epoch, boundary := some { causes := [5], row := 1, g := 4 }, emitRow := 1 } }, { causes := [5], row := 1, g := 4 }, Tests.epoch, by decide +kernel⟩,
   ⟨{ Tests.acquiring State.reset with dev := { State.reset.dev with acq := .draining }, tm := { State.reset.tm with ax5 := 0x1000000 }, ret := { State.reset.ret with cur := some Tests.epoch, boundary := some { causes := [1], row := 1, g := 4 }, emitRow := 1, closed := true } }, { causes := [1], row := 1, g := 4 }, by decide +kernel⟩,
   ⟨State.reset, { causes := [5], row := 1, g := 4 }, by decide +kernel⟩,
   ⟨{ Tests.acquiring State.reset with dev := { State.reset.dev with acq := .draining }, tm := { State.reset.tm with ax5 := 0x1000000 }, ret := { State.reset.ret with cur := some Tests.epoch, boundary := some { causes := [5], row := 1, g := 4 }, closed := true, intakeRow := some 5, nextFirst := some (0, 0, []) } }, { causes := [5], row := 1, g := 4 }, (0, 0, []), 5, by decide +kernel⟩,
   ⟨{ Tests.acquiring State.reset with dev := { State.reset.dev with acq := .draining }, tm := { State.reset.tm with ax5 := 0x1000000 }, ret := { State.reset.ret with cur := some Tests.epoch, boundary := some { causes := [5], row := 1, g := 4 }, closed := true, intakeRow := some 5, nextFirst := some (0, 0, []) } }, { causes := [5], row := 1, g := 4 }, (0, 0, []), 5, by decide +kernel⟩,
   ⟨{ Tests.acquiring State.reset with tm := { State.reset.tm with ax5 := 0x1000000 }, ret := { State.reset.ret with intakeRow := some 5, nextFirst := some (0, 0, []) } }, (0, 0, []), 5, by decide +kernel⟩,
   ⟨State.reset, by decide +kernel⟩⟩

theorem witness_AcquisitionCommands :
    (∃ (s : State) (m : Fin 8), (s.serves m.val 0x0401 = true) ∧ (zeroAt (s.request m.val) 0 256 = true) ∧
       (s.dev.acq = .running) ∧ (crcMatches s = true) ∧ (s.ret.boundary = none)) ∧
    (∃ (s : State) (m : Fin 8), (s.serves m.val 0x0401 = true) ∧ (zeroAt (s.request m.val) 0 256 = true) ∧
       (s.dev.acq = .idle) ∧ (crcMatches s = true) ∧ (s.tal.reshape = none)) ∧
    (∃ (s : State) (m : Fin 8), (s.serves m.val 0x0401 = true ∨ s.serves m.val 0x0402 = true) ∧
       (zeroAt (s.request m.val) 0 256 = true) ∧ (s.dev.acq = .idle) ∧ (crcMatches s = false)) ∧
    (∃ (s : State) (m : Fin 8), (s.serves m.val 0x0401 = true) ∧ (zeroAt (s.request m.val) 0 256 = true) ∧
       (s.dev.acq = .draining)) ∧
    (∃ (s : State) (m : Fin 8), (s.serves m.val 0x0401 = true) ∧ (zeroAt (s.request m.val) 0 256 = true) ∧
       (s.dev.acq = .frozen)) ∧
    (∃ (s : State) (m : Fin 8), (s.serves m.val 0x0402 = true) ∧ (zeroAt (s.request m.val) 0 256 = true) ∧
       (s.dev.acq = .idle) ∧ (crcMatches s = true) ∧ (hasEgress s = true) ∧ (s.dev.stopped = false)) ∧
    (∃ (s : State) (m : Fin 8), (s.serves m.val 0x0402 = true) ∧ (zeroAt (s.request m.val) 0 256 = true) ∧
       (s.dev.acq ≠ .idle)) ∧
    (∃ (s : State) (m : Fin 8), (s.serves m.val 0x0402 = true) ∧ (zeroAt (s.request m.val) 0 256 = true) ∧
       (s.dev.acq = .idle) ∧ (crcMatches s = true) ∧ (hasEgress s = false)) ∧
    (∃ (s : State) (m : Fin 8), (s.serves m.val 0x0403 = true) ∧ (zeroAt (s.request m.val) 0 256 = true) ∧
       (s.dev.acq = .running)) ∧
    (∃ (s : State) (m : Fin 8) (b : Boundary), (s.serves m.val 0x0403 = true) ∧ (zeroAt (s.request m.val) 0 256 =
       true) ∧ (s.dev.acq = .draining) ∧ (s.ret.boundary = some b)) ∧
    (∃ (s : State) (m : Fin 8), (s.serves m.val 0x0403 = true) ∧ (zeroAt (s.request m.val) 0 256 = true) ∧
       (s.dev.acq = .idle)) ∧
    (∃ (s : State), s.ret.boundary = none) :=
  ⟨⟨Tests.checked { Tests.running 1 0x0401 [] State.reset with dev := { State.reset.dev with acq := .running } }, 1, ⟨by decide +kernel, by decide +kernel, by decide +kernel, Tests.checked_matches _, by decide +kernel⟩⟩,
   ⟨Tests.checked { Tests.running 1 0x0401 [] State.reset with dev := { State.reset.dev with acq := .idle } }, 1, ⟨by decide +kernel, by decide +kernel, by decide +kernel, Tests.checked_matches _, by decide +kernel⟩⟩,
   ⟨Tests.unchecked { Tests.running 1 0x0401 [] State.reset with dev := { State.reset.dev with acq := .idle } }, 1, ⟨by decide +kernel, by decide +kernel, by decide +kernel, Tests.unchecked_differs _⟩⟩,
   ⟨Tests.checked { Tests.running 1 0x0401 [] State.reset with dev := { State.reset.dev with acq := .draining } }, 1, by decide +kernel⟩,
   ⟨Tests.checked { Tests.running 1 0x0401 [] State.reset with dev := { State.reset.dev with acq := .frozen } }, 1, by decide +kernel⟩,
   ⟨Tests.checked { Tests.running 1 0x0402 [] State.reset with dev := { State.reset.dev with acq := .idle }, eq := { State.reset.eq with pull := true }, tal := { State.reset.tal with fmt := some { id := 1, size := 0, nExt := 4, firstExt := 0, nextBase := 0 } } }, 1, ⟨by decide +kernel, by decide +kernel, by decide +kernel, Tests.checked_matches _, by decide +kernel, by decide +kernel⟩⟩,
   ⟨Tests.checked { Tests.running 1 0x0402 [] State.reset with dev := { State.reset.dev with acq := .running } }, 1, by decide +kernel⟩,
   ⟨Tests.checked { Tests.running 1 0x0402 [] State.reset with dev := { State.reset.dev with acq := .idle } }, 1, ⟨by decide +kernel, by decide +kernel, by decide +kernel, Tests.checked_matches _, by decide +kernel⟩⟩,
   ⟨Tests.checked { Tests.running 1 0x0403 [] State.reset with dev := { State.reset.dev with acq := .running } }, 1, by decide +kernel⟩,
   ⟨Tests.checked { Tests.running 1 0x0403 [] State.reset with dev := { State.reset.dev with acq := .draining }, ret := { State.reset.ret with boundary := some { causes := [5], row := 1, g := 4 } } }, 1, { causes := [5], row := 1, g := 4 }, by decide +kernel⟩,
   ⟨Tests.checked { Tests.running 1 0x0403 [] State.reset with dev := { State.reset.dev with acq := .idle } }, 1, by decide +kernel⟩,
   ⟨State.reset, by decide +kernel⟩⟩

theorem witness_RecordCompressor :
    (∃ (s : State) (f : Frame) (fs : List Frame) (x : Extent) (b : Block), (s.cmp.inq = f :: fs) ∧ (s.tal.opened =
       some x) ∧ (x.closing = false) ∧ (lanesOpen s.cmp = true) ∧ (s.cmp.opened = some b) ∧ (b.ext = x.seq) ∧
       (rawLen b + f.bytes.length ≤ b.max) ∧ (16 + rawLen b + f.bytes.length ≤ extRoom x s) ∧ (isEpochClose f = false)) ∧
    (∃ (s : State) (f : Frame) (fs : List Frame) (x : Extent), (s.cmp.inq = f :: fs) ∧ (s.tal.opened = some x) ∧
       (x.closing = false) ∧ (lanesOpen s.cmp = true) ∧ (s.cmp.opened = none) ∧ (16 + f.bytes.length ≤ extRoom x s) ∧
       (isEpochClose f = false)) ∧
    (∃ (s : State) (f : Frame) (fs : List Frame) (x : Extent) (b : Block), (s.cmp.inq = f :: fs) ∧ (s.tal.opened =
       some x) ∧ (x.closing = false) ∧ (lanesOpen s.cmp = true) ∧ (s.cmp.opened = some b) ∧ (b.ext = x.seq) ∧
       (b.max < rawLen b + f.bytes.length) ∧ (b.ext = x.seq) ∧ (lanesOpen (closeBlock s).cmp = true) ∧
       (s.tal.closeDue = false) ∧ (16 + f.bytes.length ≤ extRoom x (closeBlock s)) ∧ (isEpochClose f = false)) ∧
    (∃ (s : State) (f : Frame) (fs : List Frame) (x : Extent), (s.cmp.inq = f :: fs) ∧ (s.tal.opened = some x) ∧
       (x.closing = false) ∧ (lanesOpen s.cmp = true) ∧ (s.cmp.opened = none) ∧ (extRoom x s < 16 + f.bytes.length) ∧
       (∀ b ∈ inFlight s.cmp, b.ext ≠ x.seq)) ∧
    (∃ (s : State) (f : Frame) (fs : List Frame) (x : Extent), (s.cmp.inq = f :: fs) ∧ (s.tal.opened = some x) ∧
       (x.closing = false) ∧ (lanesOpen s.cmp = true) ∧ (s.cmp.opened = none) ∧ (16 + f.bytes.length ≤ extRoom x s) ∧
       (isEpochClose f = true)) ∧
    (∃ (s : State), s.cmp.inq = [] ∨ s.tal.opened = none ∨ lanesOpen s.cmp = false ∨ (∃ x, s.tal.opened = some x ∧
       (x.closing = true ∨ blockIn x s.cmp = false))) ∧
    (∃ (s : State) (b : Block), (s.cmp.inq = []) ∧ (s.cmp.opened = some b) ∧
       (s.cmp.lastAt + b.flush * usTicks s ≤ s.tm.tick)) ∧
    (∃ (s : State), s.cmp.inq ≠ [] ∨ s.cmp.opened = none ∨ (∃ b, s.cmp.opened = some b ∧
       s.tm.tick < s.cmp.lastAt + b.flush * usTicks s)) ∧
    (∃ (s : State) (l : Fin 8) (b : Block), (laneNext l.val s.cmp = some b) ∧ (b.head = true ∨ b.forced =
       true ∨ tabGet (s.cmp.lanes.map fun l => l.fenced) l.val false = true)) ∧
    (∃ (s : State) (l : Fin 8) (b : Block), (laneNext l.val s.cmp = some b) ∧ (b.head = false) ∧ (b.forced =
       false) ∧ (tabGet (s.cmp.lanes.map fun l => l.fenced) l.val false = false)) ∧
    (∃ (s : State) (l : Fin 8) (b : Block) (z : List Byte), (laneNext l.val s.cmp = some b) ∧ (b.head = false) ∧
       (b.forced = false) ∧ (tabGet (s.cmp.lanes.map fun l => l.fenced) l.val false = false) ∧
       (rawLen b ≤ z.length) ∧ (verifies z (rawBytes b) = false)) ∧
    (∃ (s : State) (l : Fin 8) (b : Block) (z : List Byte), (laneNext l.val s.cmp = some b) ∧ (b.head = false) ∧
       (b.forced = false) ∧ (tabGet (s.cmp.lanes.map fun l => l.fenced) l.val false = false) ∧
       (z.length < rawLen b) ∧ (verifies z (rawBytes b) = false)) ∧
    (∃ (s : State) (n : Nat) (b : Block) (d : Stored), (s.eq.openPkt = some n) ∧ (heldBlock n s.cmp = some (b,
       some d)) ∧ (chainShort s = false) ∧ (b.frames.any isEpochClose = true)) ∧
    (∃ (s : State) (l : Fin 8), laneNext l.val s.cmp = none) ∧
    (∃ (s : State) (x : Extent) (l : LastFrame) (q : Nat), (s.tal.opened = some x) ∧ (s.cmp.last = some l) ∧
       (s.tal.closeDue = true) ∧ (s.tal.closeAt + s.cmp.flushUs * usTicks s ≤ s.tm.tick) ∧ (lanesOpen s.cmp = true) ∧
       (x.closing = false) ∧ (s.cmp.opened = none) ∧ (80 ≤ extRoom x s) ∧ (l.seq = some q)) ∧
    (∃ (s : State) (x : Extent) (l : LastFrame), (s.tal.opened = some x) ∧ (s.cmp.last = some l) ∧
       (s.tal.closeDue = true) ∧ (s.tal.closeAt + s.cmp.flushUs * usTicks s ≤ s.tm.tick) ∧ (lanesOpen s.cmp = true) ∧
       (x.closing = false) ∧ (s.cmp.opened = none) ∧ (80 ≤ extRoom x s) ∧ (l.seq = none)) ∧
    (∃ (s : State) (x : Extent) (l : LastFrame) (b : Block), (s.tal.opened = some x) ∧ (s.cmp.last = some l) ∧
       (s.tal.closeDue = true) ∧ (s.tal.closeAt + s.cmp.flushUs * usTicks s ≤ s.tm.tick) ∧ (lanesOpen s.cmp = true) ∧
       (x.closing = false) ∧ (s.cmp.opened = some b) ∧ (b.ext = x.seq) ∧ (80 ≤ extRoom x (closeAhead s))) ∧
    (∃ (s : State) (x : Extent) (l : LastFrame) (b : Block), (s.tal.opened = some x) ∧ (s.cmp.last = some l) ∧
       (s.tal.closeDue = true) ∧ (s.tal.closeAt + s.cmp.flushUs * usTicks s ≤ s.tm.tick) ∧ (lanesOpen s.cmp = true) ∧
       (x.closing = false) ∧ (s.cmp.opened = some b) ∧ (b.ext = x.seq) ∧ (extRoom x (closeAhead s) < 80)) ∧
    (∃ (s : State) (x : Extent) (l : LastFrame), (s.tal.opened = some x) ∧ (s.cmp.last = some l) ∧
       (s.tal.closeDue = true) ∧ (s.tal.closeAt + s.cmp.flushUs * usTicks s ≤ s.tm.tick) ∧ (lanesOpen s.cmp = true) ∧
       (x.closing = false) ∧ (s.cmp.opened = none) ∧ (extRoom x s < 80)) ∧
    (∃ (s : State), s.tal.opened = none ∨ s.tal.closeDue = false ∨ s.cmp.last = none ∨ lanesOpen s.cmp =
       false ∨ s.tm.tick < s.tal.closeAt + s.cmp.flushUs * usTicks s) :=
  ⟨⟨{ Tests.storing with cmp := { State.reset.cmp with inq := [Tests.frame], opened := some Tests.block } }, Tests.frame, [], Tests.extent, Tests.block, by decide +kernel⟩,
   ⟨{ Tests.storing with cmp := { State.reset.cmp with inq := [Tests.frame] } }, Tests.frame, [], Tests.extent, by decide +kernel⟩,
   ⟨{ Tests.storing with cmp := { State.reset.cmp with inq := [Tests.frame], opened := some { Tests.block with max := 100 } } }, Tests.frame, [], Tests.extent, { Tests.block with max := 100 }, by decide +kernel⟩,
   ⟨{ Tests.storing with cmp := { State.reset.cmp with inq := [Tests.longFrame] }, tal := { Tests.storing.tal with opened := some { Tests.extent with size := 0 } } }, Tests.longFrame, [], { Tests.extent with size := 0 }, ⟨rfl, rfl, rfl, by decide +kernel, rfl, by rw [Tests.longFrame_length]; decide +kernel, by decide +kernel⟩⟩,
   ⟨{ Tests.storing with cmp := { State.reset.cmp with inq := [{ Tests.frame with type := 0x11 }] } }, { Tests.frame with type := 0x11 }, [], Tests.extent, by decide +kernel⟩,
   ⟨State.reset, by decide +kernel⟩,
   ⟨{ Tests.storing with cmp := { State.reset.cmp with opened := some Tests.block }, tm := { State.reset.tm with tick := 1000000000 } }, Tests.block, by decide +kernel⟩,
   ⟨State.reset, by decide +kernel⟩,
   ⟨{ Tests.storing with cmp := { State.reset.cmp with lanes := tabMod State.reset.cmp.lanes 7 fun l => { l with held := [({ Tests.block with no := 3, forced := true }, none)] } } }, 7, { Tests.block with no := 3, forced := true }, by decide +kernel⟩,
   ⟨{ Tests.storing with cmp := { State.reset.cmp with lanes := tabMod State.reset.cmp.lanes 7 fun l => { l with held := [({ Tests.block with no := 3 }, none)] } } }, 7, { Tests.block with no := 3 }, by decide +kernel⟩,
   ⟨{ Tests.storing with cmp := { State.reset.cmp with lanes := tabMod State.reset.cmp.lanes 7 fun l => { l with held := [({ Tests.block with no := 3 }, none)] } } }, 7, { Tests.block with no := 3 }, zeros 64, by decide +kernel⟩,
   ⟨{ Tests.storing with cmp := { State.reset.cmp with lanes := tabMod State.reset.cmp.lanes 7 fun l => { l with held := [({ Tests.block with no := 3 }, none)] } } }, 7, { Tests.block with no := 3 }, [1], by decide +kernel⟩,
   ⟨{ Tests.storing with cmp := { State.reset.cmp with nextPkt := 3, lanes := tabMod State.reset.cmp.lanes 7 fun l => { l with held := [({ Tests.block with no := 3, frames := [{ Tests.frame with type := 0x11 }] }, (some { method := 0, flags := 2, payload := zeros 64 }))] } }, eq := { Tests.storing.eq with openPkt := some 3 } }, 3, { Tests.block with no := 3, frames := [{ Tests.frame with type := 0x11 }] }, { method := 0, flags := 2, payload := zeros 64 }, by decide +kernel⟩,
   ⟨State.reset, 7, by decide +kernel⟩,
   ⟨{ Tests.storing with cmp := { State.reset.cmp with last := some { seq := some 7, epoch := 1, t0 := zeros 8, suspect := false } }, tal := { Tests.storing.tal with closeDue := true }, tm := { State.reset.tm with tick := 1000000000 } }, Tests.extent, { seq := some 7, epoch := 1, t0 := zeros 8, suspect := false }, 7, by decide +kernel⟩,
   ⟨{ Tests.storing with cmp := { State.reset.cmp with last := some { seq := none, epoch := 1, t0 := zeros 8, suspect := false } }, tal := { Tests.storing.tal with closeDue := true }, tm := { State.reset.tm with tick := 1000000000 } }, Tests.extent, { seq := none, epoch := 1, t0 := zeros 8, suspect := false }, by decide +kernel⟩,
   ⟨{ Tests.storing with cmp := { State.reset.cmp with opened := some Tests.block, last := some { seq := some 7, epoch := 1, t0 := zeros 8, suspect := false } }, tal := { Tests.storing.tal with closeDue := true }, tm := { State.reset.tm with tick := 1000000000 } }, Tests.extent, { seq := some 7, epoch := 1, t0 := zeros 8, suspect := false }, Tests.block, by decide +kernel⟩,
   ⟨{ Tests.storing with cmp := { State.reset.cmp with opened := some Tests.block, last := some { seq := some 7, epoch := 1, t0 := zeros 8, suspect := false } }, tal := { Tests.storing.tal with closeDue := true, opened := some Tests.fullExtent }, tm := { State.reset.tm with tick := 1000000000 } }, Tests.fullExtent, { seq := some 7, epoch := 1, t0 := zeros 8, suspect := false }, Tests.block, ⟨rfl, rfl, rfl, by decide +kernel, by decide +kernel, rfl, rfl, rfl, by rw [Tests.fullExtent_room]; decide⟩⟩,
   ⟨{ Tests.storing with cmp := { State.reset.cmp with last := some { seq := some 7, epoch := 1, t0 := zeros 8, suspect := false } }, tal := { Tests.storing.tal with closeDue := true, opened := some Tests.fullExtent }, tm := { State.reset.tm with tick := 1000000000 } }, Tests.fullExtent, { seq := some 7, epoch := 1, t0 := zeros 8, suspect := false }, ⟨rfl, rfl, rfl, by decide +kernel, by decide +kernel, rfl, rfl, by rw [Tests.fullExtent_room]; decide⟩⟩,
   ⟨State.reset, by decide +kernel⟩⟩

theorem witness_ExportQueue :
    (∃ (s : State) (b : Block) (d : Option Stored), (heldBlock s.cmp.nextPkt s.cmp = some (b, d)) ∧
       (packetMayOpen b s = true) ∧ (fillWords s.eq + rawLen b / 64 + 1 ≤ 32768)) ∧
    (∃ (s : State) (b : Block) (d : Option Stored), (heldBlock s.cmp.nextPkt s.cmp = some (b, d)) ∧
       (packetMayOpen b s = true) ∧ (32768 < fillWords s.eq + rawLen b / 64 + 1) ∧ (s.eq.stall = false) ∧
       (s.eq.stallSeen = false)) ∧
    (∃ (s : State) (b : Block) (d : Option Stored), (heldBlock s.cmp.nextPkt s.cmp = some (b, d)) ∧
       (packetMayOpen b s = true) ∧ (32768 < fillWords s.eq + rawLen b / 64 + 1) ∧ (s.eq.stall = false) ∧
       (s.eq.stallSeen = true)) ∧
    (∃ (s : State), s.eq.openPkt ≠ none ∨ s.eq.resetting = true ∨ s.eq.epochHold = true ∨ s.eq.fillClosed =
       true ∨ s.eq.frozen = true ∨ heldBlock s.cmp.nextPkt s.cmp = none) ∧
    (∃ (s : State) (n : Nat) (b : Block) (d : Stored), (s.eq.openPkt = some n) ∧ (heldBlock n s.cmp = some (b,
       some d)) ∧ (chainShort s = false)) ∧
    (∃ (s : State), (s.eq.openPkt.bind fun n => (heldBlock n s.cmp).bind fun h => h.2) = none ∨ chainShort s = true) ∧
    (∃ (s : State), (drainWords s.eq = s.eq.released) ∧ (s.eq.openPkt = none) ∧ (s.eq.resetting = false) ∧
       (bankPackets s.eq (fillBank s.eq) ≠ [])) ∧
    (∃ (s : State), drainWords s.eq ≠ s.eq.released ∨ s.eq.openPkt ≠ none ∨ s.eq.resetting = true) ∧
    (∃ (s : State) (p q : Packet) (x : Extent) (ps : List Packet), (egressPops s = true) ∧ (s.eq.resetting =
       false) ∧ (driveFailed s = false) ∧ (s.eq.chunks.length < 8) ∧ (uncovered s = some (p, x)) ∧ (onDrive x.place =
       false) ∧ (packetsFrom s.eq.rd (bankPackets s.eq s.eq.drain) = q :: ps) ∧ (q.ext = p.ext)) ∧
    (∃ (s : State) (p : Packet) (x : Extent) (h : Nat) (a : Bool), (egressPops s = true) ∧ (s.eq.resetting =
       false) ∧ (driveFailed s = false) ∧ (s.eq.chunks.length < 8) ∧ (uncovered s = some (p, x)) ∧ (onDrive x.place =
       true) ∧ (driveChunkEnd x (covered x s) s = some (h, a)) ∧ (drivesFree s = true) ∧ (halvesClear x s = true)) ∧
    (∃ (s : State), (s.tal.pending = []) ∧ (egressPops s = false ∨ s.eq.resetting = true ∨ driveFailed s =
       true ∨ 8 ≤ s.eq.chunks.length)) ∧
    (∃ (s : State) (tag a : Nat), tagAddr tag s = some a) ∧
    (∃ (s : State) (tag : Nat) (c : Chunk) (cs : List Chunk) (p : Packet) (ps : List Packet), (s.eq.chunks =
       c :: cs) ∧ (c.tag = some tag) ∧ (s.eq.released ≤ c.upto) ∧ (bankPackets s.eq s.eq.drain = p :: ps)) ∧
    (∃ (s : State) (tag a : Nat) (ok p : Bool), (tagAddr tag s = some a) ∧ (ok = false ∨ p = true)) ∧
    (∃ (s : State) (tag a d : Nat), (s.pcie.tags.find? (fun e => e.1 = tag) = some (tag, a, d)) ∧ (d ≤ s.tm.tick)) ∧
    (∃ (s : State) (tag a d : Nat), (s.pcie.tags.find? (fun e => e.1 = tag) = some (tag, a, d)) ∧ (s.tm.tick < d)) ∧
    (∃ (s : State) (tag : Nat), tagAddr tag s = none) ∧
    (∃ (s : State) (l : Option (Nat × Nat) × Option (Nat × Nat) × Nat) (ls : List (Option (Nat × Nat) × Option (Nat × Nat) × Nat)),
       (s.eq.resetting = true) ∧ (s.eq.lost = ls ++ [l])) ∧
    (∃ (s : State), s.eq.resetting = false) :=
  ⟨⟨{ Tests.storing with cmp := { State.reset.cmp with nextPkt := 3, lanes := tabMod State.reset.cmp.lanes 7 fun l => { l with held := [({ Tests.block with no := 3 }, none)] } } }, { Tests.block with no := 3 }, none, by decide +kernel⟩,
   ⟨{ Tests.storing with cmp := { State.reset.cmp with nextPkt := 3, lanes := tabMod State.reset.cmp.lanes 7 fun l => { l with held := [({ Tests.block with no := 3 }, none)] } }, eq := { Tests.storing.eq with banks := Vector.replicate 2 [{ Tests.packet with words := 32767 }] } }, { Tests.block with no := 3 }, none, by decide +kernel⟩,
   ⟨{ Tests.storing with cmp := { State.reset.cmp with nextPkt := 3, lanes := tabMod State.reset.cmp.lanes 7 fun l => { l with held := [({ Tests.block with no := 3 }, none)] } }, eq := { Tests.storing.eq with banks := Vector.replicate 2 [{ Tests.packet with words := 32767 }], stallSeen := true } }, { Tests.block with no := 3 }, none, by decide +kernel⟩,
   ⟨State.reset, by decide +kernel⟩,
   ⟨{ Tests.storing with cmp := { State.reset.cmp with nextPkt := 3, lanes := tabMod State.reset.cmp.lanes 7 fun l => { l with held := [({ Tests.block with no := 3 }, (some { method := 0, flags := 2, payload := zeros 64 }))] } }, eq := { Tests.storing.eq with openPkt := some 3 } }, 3, { Tests.block with no := 3 }, { method := 0, flags := 2, payload := zeros 64 }, by decide +kernel⟩,
   ⟨State.reset, by decide +kernel⟩,
   ⟨{ Tests.storing with eq := { Tests.storing.eq with banks := tabMod State.reset.eq.banks (fillBank State.reset.eq) fun _ => [Tests.packet] } }, by decide +kernel⟩,
   ⟨Tests.exporting, by decide +kernel⟩,
   ⟨Tests.exporting, Tests.packet, Tests.packet, Tests.extent, [], by decide +kernel⟩,
   ⟨{ Tests.exporting with tal := { Tests.exporting.tal with opened := some { Tests.extent with place := { target := 16, pos := 0, addr := 0 }, closed := true, closing := true, bytes := zeros 80 }, drives := tabMod State.reset.tal.drives 0 fun d => { d with state := 1, cfg := { d.cfg with mdtsKib := 128 } } } }, Tests.packet, { Tests.extent with place := { target := 16, pos := 0, addr := 0 }, closed := true, closing := true, bytes := zeros 80 }, 80, false, by decide +kernel⟩,
   ⟨State.reset, by decide +kernel⟩,
   ⟨{ Tests.exporting with pcie := { Tests.exporting.pcie with tags := [(5, 64, 0)] }, eq := { Tests.exporting.eq with rd := 2, chunks := [{ first := 0, upto := 2, ext := 3, lo := 0, hi := 80, tag := some 5, drive := none, met := false }] } }, 5, 64, by decide +kernel⟩,
   ⟨{ Tests.exporting with pcie := { Tests.exporting.pcie with tags := [(5, 64, 0)] }, eq := { Tests.exporting.eq with rd := 2, chunks := [{ first := 0, upto := 2, ext := 3, lo := 0, hi := 80, tag := some 5, drive := none, met := false }] } }, 5, { first := 0, upto := 2, ext := 3, lo := 0, hi := 80, tag := some 5, drive := none, met := false }, [], Tests.packet, [], by decide +kernel⟩,
   ⟨{ Tests.exporting with pcie := { Tests.exporting.pcie with tags := [(5, 64, 0)] }, eq := { Tests.exporting.eq with rd := 2, chunks := [{ first := 0, upto := 2, ext := 3, lo := 0, hi := 80, tag := some 5, drive := none, met := false }] } }, 5, 64, true, true, by decide +kernel⟩,
   ⟨{ Tests.exporting with pcie := { Tests.exporting.pcie with tags := [(5, 64, 0)] }, eq := { Tests.exporting.eq with rd := 2, chunks := [{ first := 0, upto := 2, ext := 3, lo := 0, hi := 80, tag := some 5, drive := none, met := false }] } }, 5, 64, 0, by decide +kernel⟩,
   ⟨{ Tests.exporting with pcie := { Tests.exporting.pcie with tags := [(5, 64, 9)] }, eq := { Tests.exporting.eq with rd := 2, chunks := [{ first := 0, upto := 2, ext := 3, lo := 0, hi := 80, tag := some 5, drive := none, met := false }] } }, 5, 64, 9, by decide +kernel⟩,
   ⟨State.reset, 5, by decide +kernel⟩,
   ⟨{ Tests.storing with eq := { Tests.storing.eq with resetting := true, lost := [(none, none, 0), (some (4, 9), none, 0)] } }, (some (4, 9), none, 0), [(none, none, 0)], by decide +kernel⟩,
   ⟨State.reset, by decide +kernel⟩⟩

theorem witness_ExportCommands :
    (∃ (s : State) (m : Fin 8), (s.serves m.val 0x0407 = true) ∧ (expBad (s.request m.val) = false) ∧
       (s.arg m.val 0 1 = 0) ∧ ((s.arg m.val 1 1).testBit 0 = false) ∧ ((s.arg m.val 1 1).testBit 1 = true →
       (s.arg m.val 3 1 == 1) = s.eq.pull ∨ (s.dev.acq = .idle ∧ occupied s.eq = 0))) ∧
    (∃ (s : State) (m : Fin 8), (s.serves m.val 0x0407 = true) ∧ (expBad (s.request m.val) = false) ∧
       (s.arg m.val 0 1 = 0) ∧ (s.arg m.val 1 1 = 1) ∧ (s.arg m.val 2 1 = 1) ∧ (s.eq.pull = false)) ∧
    (∃ (s : State) (m : Fin 8), (s.serves m.val 0x0407 = true) ∧ (expBad (s.request m.val) = false) ∧
       (s.arg m.val 0 1 = 0) ∧ (s.arg m.val 1 1 = 1) ∧ (s.arg m.val 2 1 = 0)) ∧
    (∃ (s : State) (m : Fin 8), (s.serves m.val 0x0407 = true) ∧ (expBad (s.request m.val) = false) ∧
       (s.arg m.val 0 1 = 1)) ∧
    (∃ (s : State) (m : Fin 8), (s.serves m.val 0x0407 = true) ∧ (expBad (s.request m.val) = true)) ∧
    (∃ (s : State) (m : Fin 8), (s.serves m.val 0x0407 = true) ∧ (expBad (s.request m.val) = false) ∧
       (s.arg m.val 0 1 = 0) ∧ ((s.arg m.val 1 1).testBit 1 = true) ∧ ((s.arg m.val 3 1 == 1) ≠ s.eq.pull) ∧
       (s.dev.acq ≠ .idle ∨ occupied s.eq ≠ 0)) ∧
    (∃ (s : State) (a n : Nat), (s.reached = true) ∧ (pullServed a n s = true)) ∧
    (∃ (s : State) (a n : Nat), (s.reached = true) ∧ (pullServed a n s = false)) ∧
    (∃ (s : State), s.reached = true) ∧
    (∃ (s : State) (v : Word), (s.reached = true) ∧ (s.eq.pull = true) ∧
       (s.eq.released + v.toNat % 65536 ≤ drainWords s.eq) ∧
       (packetEnd (s.eq.released + v.toNat % 65536) 0 (bankPackets s.eq s.eq.drain) = s.eq.released + v.toNat % 65536)) ∧
    (∃ (s : State) (v : Word), (s.reached = true) ∧ (s.eq.pull =
       false ∨ drainWords s.eq < s.eq.released + v.toNat % 65536 ∨ packetEnd (s.eq.released + v.toNat % 65536) 0 (bankPackets s.eq s.eq.drain) ≠ s.eq.released + v.toNat % 65536)) ∧
    (∃ (s : State) (be : BitVec 4), (s.reached = true) ∧ (be ≠ 0xF#4)) ∧
    (∃ (s : State) (v : Word64), (s.reached = true) ∧ (s.tal.durable = none) ∧
       (ackNames (v.toNat % 0x1000000000000) s = false) ∧ (v.toNat % 0x1000000000000 < s.tal.nextExt) ∧
       (s.tal.ackRelease = false) ∧ (directMode s = false)) ∧
    (∃ (s : State) (v : Word64), (s.reached = true) ∧ (s.tal.durable = none) ∧
       (ackNames (v.toNat % 0x1000000000000) s =
       true ∨ s.tal.nextExt ≤ v.toNat % 0x1000000000000 ∨ s.tal.ackRelease = true ∨ directMode s = true)) :=
  ⟨⟨Tests.running 1 0x0407 [0, 0x3E, 0, 1, 32, 1, 7, 0, 128] State.reset, 1, by decide +kernel⟩,
   ⟨Tests.running 1 0x0407 [0, 1, 1] State.reset, 1, by decide +kernel⟩,
   ⟨Tests.running 1 0x0407 [0, 1, 0] { State.reset with eq := { State.reset.eq with paused := true } }, 1, by decide +kernel⟩,
   ⟨Tests.running 1 0x0407 [1] State.reset, 1, by decide +kernel⟩,
   ⟨Tests.running 1 0x0407 [2] State.reset, 1, by decide +kernel⟩,
   ⟨Tests.running 1 0x0407 [0, 2, 0, 1] (Tests.acquiring State.reset), 1, by decide +kernel⟩,
   ⟨{ Tests.exporting with eq := { Tests.exporting.eq with pull := true } }, 0x200000 * Tests.exporting.eq.drain + 120, 8, by decide +kernel⟩,
   ⟨{ Tests.exporting with eq := { Tests.exporting.eq with pull := true } }, 0x200000 * Tests.exporting.eq.drain + 124, 8, by decide +kernel⟩,
   ⟨State.reset, by decide +kernel⟩,
   ⟨{ Tests.exporting with eq := { Tests.exporting.eq with pull := true } }, 2, by decide +kernel⟩,
   ⟨{ Tests.exporting with eq := { Tests.exporting.eq with pull := true } }, 1, by decide +kernel⟩,
   ⟨State.reset, 1, by decide +kernel⟩,
   ⟨{ Tests.storing with tal := { Tests.storing.tal with opened := none, ackRelease := false, pending := [{ Tests.extent with closed := true, bytes := zeros 80, releasedBytes := 80 }] } }, 3, by decide +kernel⟩,
   ⟨{ Tests.storing with tal := { Tests.storing.tal with opened := none, ackRelease := true, pending := [{ Tests.extent with closed := true, bytes := zeros 80, releasedBytes := 80 }] } }, 3, by decide +kernel⟩⟩

theorem witness_RecordExtents :
    (∃ (s : State) (f : FormatRec) (x : Frame) (p : Place), (s.tal.fmt = some f) ∧ (s.tal.opened = none) ∧
       (frameReady s = some x) ∧ (driveFailed s = false) ∧
       (displaced s ≠ [] ∨ s.cmp.opened ≠ none ∨ lanesOpen s.cmp = true) ∧ (placeOf f s.tal.nextExt s = some p) ∧
       ((waitsFor f s).rate = false) ∧ ((waitsFor f s).full = false) ∧ ((waitsFor f s).lag = false)) ∧
    (∃ (s : State) (f : FormatRec) (x : Frame), (s.tal.fmt = some f) ∧ (s.tal.opened = none) ∧ (frameReady s =
       some x) ∧ (driveFailed s = false) ∧ (displaced s ≠ [] ∨ s.cmp.opened ≠ none ∨ lanesOpen s.cmp = true) ∧
       (placeOf f s.tal.nextExt s = none) ∧ (s.tal.unmFor ≠ some s.tal.nextExt) ∧ ((waitsFor f s).full = false)) ∧
    (∃ (s : State) (f : FormatRec) (x : Frame) (p : Place), (s.tal.fmt = some f) ∧ (s.tal.opened = none) ∧
       (frameReady s = some x) ∧ (driveFailed s = false) ∧
       (displaced s ≠ [] ∨ s.cmp.opened ≠ none ∨ lanesOpen s.cmp = true) ∧ (placeOf f s.tal.nextExt s = some p) ∧
       ((waitsFor f s).full = true) ∧ (s.tal.waitFull = false)) ∧
    (∃ (s : State) (f : FormatRec) (x : Frame) (p : Place), (s.tal.fmt = some f) ∧ (s.tal.opened = none) ∧
       (frameReady s = some x) ∧ (driveFailed s = false) ∧
       (displaced s ≠ [] ∨ s.cmp.opened ≠ none ∨ lanesOpen s.cmp = true) ∧ (placeOf f s.tal.nextExt s = some p) ∧
       ((waitsFor f s).rate = true ∨ (waitsFor f s).lag = true) ∧ ((waitsFor f s).full = false)) ∧
    (∃ (s : State), s.tal.fmt = none ∨ s.tal.opened ≠ none ∨ frameReady s = none ∨ driveFailed s = true) ∧
    (∃ (s : State) (x : Extent), (s.tal.opened = some x) ∧ (x.closing = false) ∧ (closeTimeUp s = true) ∧
       (s.dev.acq ≠ .draining) ∧ (s.tal.closeDue = false)) ∧
    (∃ (s : State) (o : Nat), (s.tal.openTick = some o) ∧ (s.tal.extCloseS ≠ 0)) ∧
    (∃ (s : State), s.tal.opened = none ∨ s.tal.extCloseS = 0 ∨ closeTimeUp s = false ∨ s.dev.acq =
       .draining ∨ s.tal.closeDue = true) ∧
    (∃ (s : State) (x : Extent) (xs : List Extent), (s.tal.pending = x :: xs) ∧ (x.durable = true)) ∧
    (∃ (s : State) (x : Extent) (xs : List Extent), (s.tal.pending = x :: xs) ∧ (x.durable = true) ∧ (x.tries < 2)) ∧
    (∃ (s : State) (x : Extent) (xs : List Extent), (s.tal.pending = x :: xs) ∧ (x.durable = true) ∧ (2 ≤ x.tries)) ∧
    (∃ (s : State), s.tal.pending.head?.all (fun x => !x.durable) = true) ∧
    (∃ (s : State) (f : FormatRec) (d : Nat), (s.tal.fmt = some f) ∧ (s.tal.durable = some d) ∧ (s.dev.acq =
       .idle) ∧ (s.tal.drained = true) ∧ (s.tal.pending = []) ∧ (stagesEmpty s = true) ∧ (f.firstExt ≤ d)) ∧
    (∃ (s : State), s.tal.fmt = none ∨ s.tal.durable = none ∨ s.dev.acq ≠ .idle ∨ s.tal.drained =
       false ∨ s.tal.pending ≠ [] ∨ stagesEmpty s = false) ∧
    (∃ (s : State), (coreUp s = true) ∧ (scrubRuns 10 s = true) ∧ (s.tal.scrubRest < scrubEnd) ∧
       ((partUnits s.tal.scrubRest s.tal.scrubPos).any s.tal.dieUe.contains = false)) ∧
    (∃ (s : State) (e : EccErr), (coreUp s = true) ∧ (scrubRuns 10 s = true) ∧ (s.tal.scrubRest < scrubEnd) ∧ (e =
       .uncorrectable ∨ (partUnits s.tal.scrubRest s.tal.scrubPos).any s.tal.dieUe.contains = true)) ∧
    (∃ (t : Talus), t.scrubRest = 0) ∧
    (∃ (t : Talus), t.scrubRest ≠ 0) ∧
    (∃ (s : State), coreUp s = false ∨ scrubRuns 10 s = false ∨ scrubEnd ≤ s.tal.scrubRest) ∧
    (∃ (s : State) (f : FormatRec) (ue : List Nat) (n : Nat) (b : List Byte), (coreUp s = true) ∧ (firmwareUp s =
       true) ∧ (s.dev.ready = false) ∧ (s.tal.recovered = false) ∧ (dieFormat (noteDieUe ue s).tal.dieUe s =
       some f) ∧ (headEntry (validEntries f (noteDieUe ue s).tal.dieUe s.tal.die) = some (n, b)) ∧
       (quietSeq (unitBad (noteDieUe ue s).tal.dieUe quietBase) s.tal.die ≠ some n)) ∧
    (∃ (s : State) (f : FormatRec) (ue : List Nat) (n : Nat) (b : List Byte), (coreUp s = true) ∧ (firmwareUp s =
       true) ∧ (s.dev.ready = false) ∧ (s.tal.recovered = false) ∧ (dieFormat (noteDieUe ue s).tal.dieUe s =
       some f) ∧ (headEntry (validEntries f (noteDieUe ue s).tal.dieUe s.tal.die) = some (n, b)) ∧
       (quietSeq (unitBad (noteDieUe ue s).tal.dieUe quietBase) s.tal.die = some n)) ∧
    (∃ (s : State) (f : FormatRec) (ue : List Nat), (coreUp s = true) ∧ (firmwareUp s = true) ∧ (s.dev.ready =
       false) ∧ (s.tal.recovered = false) ∧ (dieFormat (noteDieUe ue s).tal.dieUe s = some f) ∧
       (headEntry (validEntries f (noteDieUe ue s).tal.dieUe s.tal.die) = none) ∧
       (quietSeq (unitBad (noteDieUe ue s).tal.dieUe quietBase) s.tal.die = none) ∧ (f.nextBase = f.firstExt)) ∧
    (∃ (s : State) (f : FormatRec) (ue : List Nat), (coreUp s = true) ∧ (firmwareUp s = true) ∧ (s.dev.ready =
       false) ∧ (s.tal.recovered = false) ∧ (dieFormat (noteDieUe ue s).tal.dieUe s = some f) ∧
       (headEntry (validEntries f (noteDieUe ue s).tal.dieUe s.tal.die) = none) ∧ (f.nextBase ≠ f.firstExt)) ∧
    (∃ (s : State) (ue : List Nat), (coreUp s = true) ∧ (firmwareUp s = true) ∧ (s.dev.ready = false) ∧
       (s.tal.recovered = false) ∧ (dieFormat (noteDieUe ue s).tal.dieUe s = none)) ∧
    (∃ (s : State), coreUp s = false ∨ firmwareUp s = false ∨ s.dev.ready = true ∨ s.tal.recovered = true) ∧
    (∃ (s : State) (base : Nat) (fs : List Byte), (fs.length ≤ 2040) ∧ (∀ i < 2,
       ∀ c ∈ recordCopy base fs.length i s.tal.die, c.1 < 4294967295)) :=
  ⟨⟨{ Tests.formatted with tal := { Tests.formatted.tal with nextExt := 5 }, cmp := { State.reset.cmp with inq := [Tests.frame] } }, Tests.format, Tests.frame, { target := 0, pos := 5, addr := 0x600000 }, by decide +kernel⟩,
   ⟨{ Tests.formatted with tal := { Tests.formatted.tal with windows := State.reset.tal.windows }, cmp := { State.reset.cmp with inq := [Tests.frame] } }, Tests.format, Tests.frame, by decide +kernel⟩,
   ⟨{ Tests.formatted with tal := { Tests.formatted.tal with nextExt := 300, storeFull := 2, durable := some 299 }, cmp := { State.reset.cmp with inq := [Tests.frame] } }, Tests.format, Tests.frame, { target := 0, pos := 44, addr := 0x2D00000 }, by decide +kernel⟩,
   ⟨{ Tests.formatted with tal := { Tests.formatted.tal with nextExt := 5, openTick := some 0 }, cmp := { State.reset.cmp with inq := [Tests.frame] } }, Tests.format, Tests.frame, { target := 0, pos := 5, addr := 0x600000 }, by decide +kernel⟩,
   ⟨State.reset, by decide +kernel⟩,
   ⟨{ Tests.storing with tal := { Tests.storing.tal with extCloseS := 5, openTick := some 0 }, tm := { State.reset.tm with tick := 1250000000 } }, Tests.extent, by decide +kernel⟩,
   ⟨{ Tests.storing with tal := { Tests.storing.tal with extCloseS := 5, openTick := some 7 }, tm := { State.reset.tm with tick := 1250000007 } }, 7, by decide +kernel⟩,
   ⟨State.reset, by decide +kernel⟩,
   ⟨Tests.slotting, Tests.durable, [], by decide +kernel⟩,
   ⟨Tests.slotting, Tests.durable, [], by decide +kernel⟩,
   ⟨{ Tests.slotting with tal := { Tests.slotting.tal with pending := [{ Tests.durable with tries := 2 }] } }, { Tests.durable with tries := 2 }, [], by decide +kernel⟩,
   ⟨State.reset, by decide +kernel⟩,
   ⟨{ Tests.formatted with tal := { Tests.formatted.tal with durable := some 9, drained := true } }, Tests.format, 9, by decide +kernel⟩,
   ⟨State.reset, by decide +kernel⟩,
   ⟨{ State.reset with dev := { State.reset.dev with powered := true }, mem := { State.reset.mem with scrub := tabMod State.reset.mem.scrub 10 fun q => { q with run := some 0 } }, tal := { State.reset.tal with scrubPos := 2097151 } }, by decide +kernel⟩,
   ⟨{ State.reset with dev := { State.reset.dev with powered := true }, mem := { State.reset.mem with scrub := tabMod State.reset.mem.scrub 10 fun q => { q with run := some 0 } }, tal := { State.reset.tal with scrubPos := 2097151 } }, .uncorrectable, by decide +kernel⟩,
   ⟨{ State.reset.tal with scrubPos := 2097151 }, by decide +kernel⟩,
   ⟨{ State.reset.tal with scrubRest := 65536 }, by decide +kernel⟩,
   ⟨{ State.reset with dev := { State.reset.dev with powered := false } }, by decide +kernel⟩,
   ⟨{ Tests.formatted with dev := { State.reset.dev with powered := true }, summit := { State.reset.summit with state := .running }, tal := { Tests.formatted.tal with die := (memWrite (writeRecord formatBase (formatBytes Tests.format) State.reset).tal.die 96 Tests.entry) } }, Tests.format, [5], 3, Tests.entry, by decide +kernel⟩,
   ⟨{ Tests.formatted with dev := { State.reset.dev with powered := true }, summit := { State.reset.summit with state := .running }, tal := { Tests.formatted.tal with die := (writeRecord quietBase (quietBytes (some 3)) { State.reset with tal := { State.reset.tal with die := (memWrite (writeRecord formatBase (formatBytes Tests.format) State.reset).tal.die 96 Tests.entry) } }).tal.die } }, Tests.format, [], 3, Tests.entry, by decide +kernel⟩,
   ⟨{ Tests.formatted with dev := { State.reset.dev with powered := true }, summit := { State.reset.summit with state := .running }, tal := { Tests.formatted.tal with die := (writeRecord formatBase (formatBytes Tests.format) State.reset).tal.die } }, Tests.format, [5], by decide +kernel⟩,
   ⟨{ Tests.formatted with dev := { State.reset.dev with powered := true }, summit := { State.reset.summit with state := .running }, tal := { Tests.formatted.tal with die := (writeRecord formatBase (formatBytes { Tests.format with nextBase := 1 }) State.reset).tal.die } }, { Tests.format with nextBase := 1 }, [5], by decide +kernel⟩,
   ⟨{ State.reset with dev := { State.reset.dev with powered := true }, summit := { State.reset.summit with state := .running } }, [1], by decide +kernel⟩,
   ⟨State.reset, by decide +kernel⟩,
   ⟨{ Tests.formatted with tal := { Tests.formatted.tal with die := (writeRecord quietBase (quietBytes (some 3)) State.reset).tal.die } }, quietBase, quietBytes none, by decide +kernel⟩⟩

theorem witness_TalusCommands :
    (∃ (s : State) (m : Fin 8), (s.serves m.val 0x0501 = true) ∧ (s.arg m.val 0 1 = 0) ∧ (s.arg m.val 1 1 ≤ 2) ∧
       (geometryOk (s.arg m.val 4 4) = true) ∧ (zeroAt (s.request m.val) 2 2 = true) ∧
       (zeroAt (s.request m.val) 12 244 = true) ∧ (s.arg m.val 8 4 = 0x54414C55) ∧ (s.tal.lock = false) ∧
       (s.dev.acq = .idle) ∧ (occupied s.eq = 0) ∧ (drivesHold (s.arg m.val 4 4) (s.arg m.val 1 1) s = true)) ∧
    (∃ (s : State) (m : Fin 8) (f : FormatRec), (s.serves m.val 0x0501 = true) ∧ (s.arg m.val 0 1 = 1) ∧
       (s.arg m.val 1 1 ≤ 2) ∧ (geometryOk (s.arg m.val 4 4) = true) ∧ (zeroAt (s.request m.val) 2 2 = true) ∧
       (zeroAt (s.request m.val) 12 244 = true) ∧ (s.arg m.val 8 4 = 0) ∧ (s.tal.lock = false) ∧ (s.dev.acq =
       .idle) ∧ (occupied s.eq = 0) ∧ (s.tal.fmt = some f) ∧ (drivesHold (s.arg m.val 4 4) (s.arg m.val 1 1) s = true)) ∧
    (∃ (s : State) (m : Fin 8) (f : FormatRec), (s.serves m.val 0x0501 = true) ∧ (s.arg m.val 0 1 = 1) ∧
       (s.arg m.val 1 1 ≤ 2) ∧ (geometryOk (s.arg m.val 4 4) = true) ∧ (zeroAt (s.request m.val) 2 2 = true) ∧
       (zeroAt (s.request m.val) 12 244 = true) ∧ (s.arg m.val 8 4 = 0) ∧ (s.tal.lock = false) ∧ (s.dev.acq =
       .running) ∧ (s.tal.fmt = some f) ∧ (drivesHold (s.arg m.val 4 4) (s.arg m.val 1 1) s = true)) ∧
    (∃ (s : State) (m : Fin 8), (s.serves m.val 0x0501 = true) ∧ (s.arg m.val 0 1 = 2) ∧
       (zeroAt (s.request m.val) 2 2 = true) ∧ (zeroAt (s.request m.val) 8 248 = true)) ∧
    (∃ (s : State) (m : Fin 8), (s.serves m.val 0x0501 = true) ∧ (s.arg m.val 0 1 = 1) ∧ (s.arg m.val 1 1 ≤ 2) ∧
       (geometryOk (s.arg m.val 4 4) = true) ∧ (zeroAt (s.request m.val) 2 2 = true) ∧
       (zeroAt (s.request m.val) 12 244 = true) ∧ (s.arg m.val 8 4 = 0) ∧ (s.tal.lock = true)) ∧
    (∃ (s : State) (m : Fin 8), (s.serves m.val 0x0501 = true) ∧
       (2 < s.arg m.val 0 1 ∨ s.arg m.val 8 4 ≠ (if s.arg m.val 0 1 = 0 then 0x54414C55 else 0))) ∧
    (∃ (s : State) (m : Fin 8), (s.serves m.val 0x0501 = true) ∧ (s.arg m.val 0 1 = 0) ∧ (s.arg m.val 1 1 ≤ 2) ∧
       (geometryOk (s.arg m.val 4 4) = true) ∧ (zeroAt (s.request m.val) 2 2 = true) ∧
       (zeroAt (s.request m.val) 12 244 = true) ∧ (s.arg m.val 8 4 = 0x54414C55) ∧ (s.tal.lock = false) ∧
       (s.dev.acq ≠ .idle)) ∧
    (∃ (s : State) (m : Fin 8) (f : FormatRec), (s.serves m.val 0x0502 = true) ∧ (s.arg m.val 0 1 ≤ 15) ∧
       (s.arg m.val 2 1 ≤ 1) ∧ (zeroAt (s.request m.val) 3 1 = true) ∧ (zeroAt (s.request m.val) 20 236 = true) ∧
       (s.arg m.val 1 1 = 0) ∧ (s.arg m.val 8 8 % 4096 = 0) ∧ (0 < s.arg m.val 16 4) ∧ (s.tal.fmt = some f) ∧
       (s.arg m.val 4 4 + s.arg m.val 16 4 ≤ f.nExt) ∧
       (s.arg m.val 8 8 + s.arg m.val 16 4 * extBytes f.size ≤ 18446744073709551616) ∧ (∀ d < 4,
       (driveOf s d).state = 0) ∧ ((s.arg m.val 2 1 = 1 → ∀ v < 16, v ≠ s.arg m.val 0 1 → (winOf s v).enable = true →
       (winOf s v).first + (winOf s v).count ≤ s.arg m.val 4 4 ∨ s.arg m.val 4 4 + s.arg m.val 16 4 ≤ (winOf s v).first))) ∧
    (∃ (s : State) (m : Fin 8), (s.serves m.val 0x0502 = true) ∧ (s.arg m.val 0 1 ≤ 15) ∧ (s.arg m.val 2 1 ≤ 1) ∧
       (zeroAt (s.request m.val) 3 1 = true) ∧ (zeroAt (s.request m.val) 20 236 = true) ∧ (s.arg m.val 1 1 = 1)) ∧
    (∃ (s : State) (m : Fin 8), (s.serves m.val 0x0502 = true) ∧ (s.arg m.val 0 1 ≤ 15) ∧ (s.arg m.val 2 1 ≤ 1) ∧
       (zeroAt (s.request m.val) 3 1 = true) ∧ (zeroAt (s.request m.val) 20 236 = true) ∧ (s.arg m.val 1 1 = 0) ∧
       (s.arg m.val 8 8 % 4096 = 0) ∧ (0 < s.arg m.val 16 4) ∧ (s.tal.fmt = none)) ∧
    (∃ (s : State) (m : Fin 8), (s.serves m.val 0x0502 = true) ∧
       (15 < s.arg m.val 0 1 ∨ 1 < s.arg m.val 1 1 ∨ (s.arg m.val 1 1 = 0 ∧ s.arg m.val 16 4 = 0))) ∧
    (∃ (s : State) (m : Fin 8) (f : FormatRec), (s.serves m.val 0x0503 = true) ∧ (driveBad (s.request m.val) =
       false) ∧ (s.arg m.val 1 1 = 0) ∧ (s.dev.acq = .idle) ∧ (occupied s.eq = 0) ∧ (s.tal.fmt = some f) ∧
       ((driveOf s (s.arg m.val 0 1)).state = 0) ∧
       (attachHolds (s.arg m.val 0 1) (driveSettings (s.request m.val)).lbaCount f s = true)) ∧
    (∃ (d : Nat), d < 4) ∧
    (∃ (s : State) (m : Fin 8) (f : FormatRec), (s.serves m.val 0x0503 = true) ∧ (driveBad (s.request m.val) =
       false) ∧ (s.arg m.val 1 1 = 1) ∧ (s.dev.acq = .idle) ∧ (occupied s.eq = 0) ∧ (s.tal.fmt = some f)) ∧
    (∃ (s : State) (m : Fin 8), (s.serves m.val 0x0503 = true) ∧ (driveBad (s.request m.val) = false) ∧
       (s.arg m.val 1 1 = 2) ∧ ((driveOf s (s.arg m.val 0 1)).state = 2)) ∧
    (∃ (s : State) (m : Fin 8), (s.serves m.val 0x0503 = true) ∧ (driveBad (s.request m.val) = false) ∧
       (s.arg m.val 1 1 = 3)) ∧
    (∃ (s : State) (m : Fin 8), (s.serves m.val 0x0503 = true) ∧ (driveBad (s.request m.val) = false) ∧
       (s.arg m.val 1 1 = 0) ∧ (s.dev.acq ≠ .idle)) ∧
    (∃ (s : State) (m : Fin 8), (s.serves m.val 0x0503 = true) ∧ (driveBad (s.request m.val) = true)) ∧
    (∃ (s : State) (m : Fin 8), (s.serves m.val 0x0504 = true) ∧ ((s.arg m.val 0 1) ≤ 15) ∧
       (zeroAt (s.request m.val) 5 1 = true) ∧ (zeroAt (s.request m.val) 8 248 = true) ∧
       ((s.arg m.val 0 1).testBit 0 = true → s.arg m.val 1 1 ≤ 1) ∧ ((s.arg m.val 0 1).testBit 1 = true →
       s.arg m.val 2 1 ≤ 2) ∧ ((s.arg m.val 0 1).testBit 2 = true → 0 < s.arg m.val 3 1 ∧ 0 < s.arg m.val 4 1) ∧
       ((s.arg m.val 0 1).testBit 0 = true → s.dev.acq = .idle)) ∧
    (∃ (s : State) (m : Fin 8), (s.serves m.val 0x0504 = true) ∧
       (15 < (s.arg m.val 0 1) ∨ ((s.arg m.val 0 1).testBit 0 = true ∧
       1 < s.arg m.val 1 1) ∨ ((s.arg m.val 0 1).testBit 1 = true ∧
       2 < s.arg m.val 2 1) ∨ ((s.arg m.val 0 1).testBit 2 = true ∧ (s.arg m.val 3 1 = 0 ∨ s.arg m.val 4 1 = 0)))) ∧
    (∃ (s : State) (m : Fin 8), (s.serves m.val 0x0504 = true) ∧ ((s.arg m.val 0 1) ≤ 15) ∧
       (zeroAt (s.request m.val) 5 1 = true) ∧ (zeroAt (s.request m.val) 8 248 = true) ∧
       ((s.arg m.val 0 1).testBit 0 = true → s.arg m.val 1 1 ≤ 1) ∧ ((s.arg m.val 0 1).testBit 1 = true →
       s.arg m.val 2 1 ≤ 2) ∧ ((s.arg m.val 0 1).testBit 2 = true → 0 < s.arg m.val 3 1 ∧ 0 < s.arg m.val 4 1) ∧
       ((s.arg m.val 0 1).testBit 0 = true) ∧ (s.dev.acq ≠ .idle)) ∧
    (∃ (s : State) (m : Fin 8), (s.serves m.val 0x0505 = true) ∧ (s.arg m.val 0 4 ≤ 2097151) ∧
       (0 < s.arg m.val 4 1 ∧ s.arg m.val 4 1 ≤ 7) ∧ (zeroAt (s.request m.val) 5 251 = true) ∧
       ((((List.range (s.arg m.val 4 1)).map fun k => (s.arg m.val 0 4 + k) % 2097152).filter s.tal.dieUe.contains) =
       [])) ∧
    (∃ (s : State) (m : Fin 8) (i : Nat), (s.serves m.val 0x0505 = true) ∧ (s.arg m.val 0 4 ≤ 2097151) ∧
       (0 < s.arg m.val 4 1 ∧ s.arg m.val 4 1 ≤ 7) ∧ (zeroAt (s.request m.val) 5 251 = true) ∧
       ((((List.range (s.arg m.val 4 1)).map fun k => (s.arg m.val 0 4 + k) % 2097152).filter s.tal.dieUe.contains) =
       [i])) ∧
    (∃ (s : State) (m : Fin 8), (s.serves m.val 0x0505 = true) ∧ (2097151 < s.arg m.val 0 4 ∨ s.arg m.val 4 1 =
       0 ∨ 7 < s.arg m.val 4 1)) ∧
    (∃ (s : State) (v : Word64), (s.reached = true) ∧ (s.tal.archived ≤ v.toNat % 0x1000000000000)) ∧
    (∃ (s : State) (v : Word64), (s.reached = true) ∧ (v.toNat % 0x1000000000000 < s.tal.archived)) ∧
    (∃ (s : State), (s.reached = true) ∧ (s.tal.lock = false)) ∧
    (∃ (s : State), (s.reached = true) ∧ (s.tal.lock = true)) ∧
    (∃ (s : State) (be : BitVec 4), (s.reached = true) ∧ (be ≠ 0xF#4)) :=
  ⟨⟨Tests.running 1 0x0501 ([0, 1, 0, 0] ++ leBytes 4 512 ++ leBytes 4 0x54414C55) Tests.formatted, 1, by decide +kernel⟩,
   ⟨Tests.running 1 0x0501 ([1, 1, 0, 0] ++ leBytes 4 512) Tests.formatted, 1, Tests.format, by decide +kernel⟩,
   ⟨Tests.running 1 0x0501 ([1, 1, 0, 0] ++ leBytes 4 512) (Tests.acquiring Tests.formatted), 1, Tests.format, by decide +kernel⟩,
   ⟨Tests.running 1 0x0501 ([2]) Tests.formatted, 1, by decide +kernel⟩,
   ⟨Tests.running 1 0x0501 ([1, 1, 0, 0] ++ leBytes 4 512) ({ Tests.formatted with tal := { Tests.formatted.tal with lock := true } }), 1, by decide +kernel⟩,
   ⟨Tests.running 1 0x0501 ([0, 1, 0, 0] ++ leBytes 4 512) Tests.formatted, 1, by decide +kernel⟩,
   ⟨Tests.running 1 0x0501 ([0, 1, 0, 0] ++ leBytes 4 512 ++ leBytes 4 0x54414C55) (Tests.acquiring Tests.formatted), 1, by decide +kernel⟩,
   ⟨Tests.running 1 0x0502 ([2, 0, 1, 0] ++ leBytes 4 0 ++ leBytes 8 0x10000 ++ leBytes 4 8) ({ Tests.formatted with tal := { Tests.formatted.tal with windows := State.reset.tal.windows } }), 1, Tests.format, by decide +kernel⟩,
   ⟨Tests.running 1 0x0502 ([15, 1]) Tests.formatted, 1, by decide +kernel⟩,
   ⟨Tests.running 1 0x0502 ([2, 0, 1, 0] ++ leBytes 4 0 ++ leBytes 8 0x10000 ++ leBytes 4 8) State.reset, 1, by decide +kernel⟩,
   ⟨Tests.running 1 0x0502 ([16]) Tests.formatted, 1, by decide +kernel⟩,
   ⟨Tests.running 1 0x0503 ([3, 0, 0, 63] ++ zeros 60 ++ leBytes 8 0x1000000 ++ leBytes 4 128) Tests.formatted, 1, Tests.format, by decide +kernel⟩,
   ⟨3, by decide +kernel⟩,
   ⟨Tests.running 1 0x0503 ([3, 1, 0, 63] ++ zeros 60 ++ leBytes 8 0x1000000 ++ leBytes 4 128) Tests.formatted, 1, Tests.format, by decide +kernel⟩,
   ⟨Tests.running 1 0x0503 ([3, 2, 0, 63] ++ zeros 60 ++ leBytes 8 0x1000000 ++ leBytes 4 128) ({ Tests.formatted with tal := { Tests.formatted.tal with drives := tabMod State.reset.tal.drives 3 fun d => { d with state := 2 } } }), 1, by decide +kernel⟩,
   ⟨Tests.running 1 0x0503 ([3, 3]) State.reset, 1, by decide +kernel⟩,
   ⟨Tests.running 1 0x0503 ([3, 0, 0, 63] ++ zeros 60 ++ leBytes 8 0x1000000 ++ leBytes 4 128) (Tests.acquiring Tests.formatted), 1, by decide +kernel⟩,
   ⟨Tests.running 1 0x0503 ([4, 3]) State.reset, 1, by decide +kernel⟩,
   ⟨Tests.running 1 0x0504 ([15, 1, 2, 200, 100, 0, 5]) Tests.formatted, 1, by decide +kernel⟩,
   ⟨Tests.running 1 0x0504 ([16]) Tests.formatted, 1, by decide +kernel⟩,
   ⟨Tests.running 1 0x0504 ([15, 1, 2, 200, 100, 0, 5]) (Tests.acquiring Tests.formatted), 1, by decide +kernel⟩,
   ⟨Tests.running 1 0x0505 (leBytes 4 2097151 ++ [2]) Tests.formatted, 1, by decide +kernel⟩,
   ⟨Tests.running 1 0x0505 (leBytes 4 2097151 ++ [2]) ({ Tests.formatted with tal := { Tests.formatted.tal with dieUe := [0] } }), 1, 0, by decide +kernel⟩,
   ⟨Tests.running 1 0x0505 ([0, 0, 0, 0, 8]) Tests.formatted, 1, by decide +kernel⟩,
   ⟨{ Tests.formatted with tal := { Tests.formatted.tal with archived := 4 } }, 4, by decide +kernel⟩,
   ⟨{ Tests.formatted with tal := { Tests.formatted.tal with archived := 4 } }, 3, by decide +kernel⟩,
   ⟨State.reset, by decide +kernel⟩,
   ⟨{ Tests.formatted with tal := { Tests.formatted.tal with lock := true } }, by decide +kernel⟩,
   ⟨State.reset, 8, by decide +kernel⟩⟩

theorem witness_StoreDrives :
    (∃ (s : State) (d : Fin 4) (e : List Byte) (c : DriveCmd), (s.reached = true) ∧ ((driveOf s d.val).state = 1) ∧
       (bitOf 0 (fieldAt (padTo 16 e) 14 1) = (driveOf s d.val).phase) ∧
       ((driveOf s d.val).cmds.find? (fun c => c.cid = fieldAt (padTo 16 e) 12 2) = some c) ∧
       (fieldAt (padTo 16 e) 14 2 / 2 = 0) ∧ (c.flush = false)) ∧
    (∃ (s : State) (d : Fin 4) (e : List Byte) (c : DriveCmd) (x : Extent), (s.reached = true) ∧
       ((driveOf s d.val).state = 1) ∧ (bitOf 0 (fieldAt (padTo 16 e) 14 1) = (driveOf s d.val).phase) ∧
       ((driveOf s d.val).cmds.find? (fun c => c.cid = fieldAt (padTo 16 e) 12 2) = some c) ∧
       (fieldAt (padTo 16 e) 14 2 / 2 = 0) ∧ (c.flush = true) ∧ (findExtent c.ext s = some x)) ∧
    (∃ (s : State) (d : Fin 4) (e : List Byte) (c : DriveCmd), (s.reached = true) ∧ ((driveOf s d.val).state = 1) ∧
       (bitOf 0 (fieldAt (padTo 16 e) 14 1) = (driveOf s d.val).phase) ∧
       ((driveOf s d.val).cmds.find? (fun c => c.cid = fieldAt (padTo 16 e) 12 2) = some c) ∧
       (fieldAt (padTo 16 e) 14 2 / 2 ≠ 0) ∧ ((driveOf s d.val).fails < 2)) ∧
    (∃ (s : State) (d : Fin 4) (e : List Byte) (c : DriveCmd), (s.reached = true) ∧ ((driveOf s d.val).state = 1) ∧
       (bitOf 0 (fieldAt (padTo 16 e) 14 1) = (driveOf s d.val).phase) ∧
       ((driveOf s d.val).cmds.find? (fun c => c.cid = fieldAt (padTo 16 e) 12 2) = some c) ∧
       (fieldAt (padTo 16 e) 14 2 / 2 ≠ 0) ∧ (2 ≤ (driveOf s d.val).fails)) ∧
    (∃ (s : State) (d : Fin 4) (e : List Byte), (s.reached = true) ∧ ((driveOf s d.val).state = 1) ∧
       (bitOf 0 (fieldAt (padTo 16 e) 14 1) = (driveOf s d.val).phase) ∧
       ((driveOf s d.val).cmds.find? (fun c => c.cid = fieldAt (padTo 16 e) 12 2) = none)) ∧
    (∃ (s : State) (d : Fin 4) (e : List Byte), (s.reached = true) ∧ ((driveOf s d.val).state = 1) ∧
       (bitOf 0 (fieldAt (padTo 16 e) 14 1) ≠ (driveOf s d.val).phase)) ∧
    (∃ (s : State) (d : Fin 4), (driveOf s d.val).state ≠ 1) ∧
    (∃ (s : State) (d : Fin 4), ((driveOf s d.val).state = 1) ∧ (alive s = true) ∧ (s.pcie.d3hot = true)) ∧
    (∃ (s : State) (d : Fin 4) (c : DriveCmd) (cs : List DriveCmd), ((driveOf s d.val).cmds = c :: cs) ∧
       ((driveOf s d.val).state = 1) ∧ (c.rung + 1000 * msTicks s ≤ s.tm.tick)) ∧
    (∃ (s : State) (d : Fin 4) (c : DriveCmd) (cs : List DriveCmd), ((driveOf s d.val).cmds = c :: cs) ∧
       (s.tm.tick < c.rung + 1000 * msTicks s)) ∧
    (∃ (s : State) (d : Fin 4), (driveOf s d.val).cmds = [] ∨ (driveOf s d.val).state ≠ 1) ∧
    (∃ (s : State) (a n : Nat) (x : Extent), (s.reached = true) ∧ (recExtent a n s = some x)) ∧
    (∃ (s : State) (a n : Nat), (s.reached = true) ∧ (recExtent a n s = none)) :=
  ⟨⟨Tests.driving, 1, zeros 12 ++ [4, 0, 1, 0], { cid := 4, flush := false, ext := 3, lo := 0, hi := 80, prp := 0, rung := 0 }, by decide +kernel⟩,
   ⟨{ Tests.driving with tal := { Tests.driving.tal with drives := tabMod State.reset.tal.drives 1 fun d => { d with state := 1, phase := true, cmds := [{ cid := 4, flush := true, ext := 3, lo := 0, hi := 0, prp := 0, rung := 0 }] }, pending := [{ Tests.durable with durable := false }] } }, 1, zeros 12 ++ [4, 0, 1, 0], { cid := 4, flush := true, ext := 3, lo := 0, hi := 0, prp := 0, rung := 0 }, { Tests.durable with durable := false }, by decide +kernel⟩,
   ⟨Tests.driving, 1, zeros 12 ++ [4, 0, 3, 0], { cid := 4, flush := false, ext := 3, lo := 0, hi := 80, prp := 0, rung := 0 }, by decide +kernel⟩,
   ⟨{ Tests.driving with tal := { Tests.driving.tal with drives := tabMod Tests.driving.tal.drives 1 fun d => { d with fails := 2 } } }, 1, zeros 12 ++ [4, 0, 3, 0], { cid := 4, flush := false, ext := 3, lo := 0, hi := 80, prp := 0, rung := 0 }, by decide +kernel⟩,
   ⟨Tests.driving, 1, zeros 12 ++ [5, 0, 1, 0], by decide +kernel⟩,
   ⟨Tests.driving, 1, [], by decide +kernel⟩,
   ⟨State.reset, 3, by decide +kernel⟩,
   ⟨{ Tests.driving with pcie := { Tests.driving.pcie with d3hot := true } }, 1, by decide +kernel⟩,
   ⟨{ Tests.driving with tm := { State.reset.tm with tick := 250000000 } }, 1, { cid := 4, flush := false, ext := 3, lo := 0, hi := 80, prp := 0, rung := 0 }, [], by decide +kernel⟩,
   ⟨Tests.driving, 1, { cid := 4, flush := false, ext := 3, lo := 0, hi := 80, prp := 0, rung := 0 }, [], by decide +kernel⟩,
   ⟨State.reset, 3, by decide +kernel⟩,
   ⟨Tests.driving, 0x400000, 80, Tests.durable, by decide +kernel⟩,
   ⟨Tests.driving, 0x3FFFFC, 8, by decide +kernel⟩⟩

theorem witness_Sealing :
    (∃ (s : State), (s.dev.variant.sealer = true) ∧ (s.sealer.enable = true) ∧ (0 < sealable s) ∧
       (∀ d ∈ s.sealer.due, 1 < d.reason) ∧ (s.sealer.extents ≤ sealable s ∨ intervalUp s = true)) ∧
    (∃ (s : State), s.dev.variant.sealer = true → s.sealer.enable = true → sealable s = 0 ∨ (∃ d ∈ s.sealer.due,
       d.reason ≤ 1) ∨ (sealable s < s.sealer.extents ∧ intervalUp s = false)) ∧
    (∃ (s : State) (d : SealDue), (firstDueSeal s = some d) ∧ (s.dev.variant.sealer = true) ∧ (acquiring s =
       true) ∧ (rateFree s = true) ∧ (s.sealer.signing = none) ∧ (attesting s = false) ∧ (0 < sealable s) ∧
       (s.tm.tick - d.tick ≤ s.sealer.intervalMs * msTicks s)) ∧
    (∃ (s : State) (d e : SealDue), (firstDueSeal s = some d) ∧ (e ∈ dueSeals s)) ∧
    (∃ (s : State) (d : SealDue), (firstDueSeal s = some d) ∧ (s.dev.variant.sealer = true) ∧ (acquiring s =
       true) ∧ (rateFree s = true) ∧ (s.sealer.signing = none) ∧ (attesting s = false) ∧ (0 < sealable s) ∧
       (s.sealer.intervalMs * msTicks s < s.tm.tick - d.tick)) ∧
    (∃ (s : State) (d : SealDue), (dueSeals s = [d]) ∧ (s.dev.variant.sealer = true) ∧ (acquiring s = true) ∧
       (rateFree s = true) ∧ (s.sealer.signing = none) ∧ (attesting s = false) ∧ (sealable s = 0) ∧ (d.forMb = none)) ∧
    (∃ (s : State) (d : SealDue) (m : Fin 8), (dueSeals s = [d]) ∧ (s.dev.variant.sealer = true) ∧ (acquiring s =
       true) ∧ (rateFree s = true) ∧ (s.sealer.signing = none) ∧ (attesting s = false) ∧ (sealable s = 0) ∧
       (d.forMb = some m.val) ∧ (s.serves m.val 0x0804 = true)) ∧
    (∃ (s : State), dueSeals s = [] ∨ acquiring s = false ∨ s.sealer.signing ≠ none ∨ attesting s =
       true ∨ rateFree s = false) ∧
    (∃ (s : State) (j : SealJob), (s.sealer.signing = some j) ∧ (signCores s = true) ∧ (j.emit = true)) ∧
    (∃ (s : State) (j : SealJob), (s.sealer.signing = some j) ∧ (signCores s = true) ∧ (j.emit = false)) ∧
    (∃ (s : State), s.sealer.signing = none ∨ signCores s = false) ∧
    (∃ (s : State), (s.dev.variant.sealer = true) ∧ (acquiring s = true) ∧ (s.sealer.enable = true) ∧
       (s.sealer.overdue = false) ∧ (4 * s.sealer.intervalMs * msTicks s ≤ s.sealer.timer) ∧
       (dueSeals s ≠ [] ∨ s.sealer.signing ≠ none)) ∧
    (∃ (s : State), acquiring s = false ∨ s.sealer.enable = false ∨ s.sealer.overdue =
       true ∨ s.sealer.timer < 4 * s.sealer.intervalMs * msTicks s) ∧
    (∃ (s : State) (e : SealEntry) (x n : Nat), (s.sealer.entries.find? (fun x => x.holder.isSome) = some e) ∧
       (e.holder = some (x, n))) ∧
    (∃ (s : State) (e : SealEntry) (x n : Nat), (s.sealer.entries.find? (fun x => x.holder.isSome) = some e) ∧
       (e.holder = some (x, n)) ∧ (e.tries < 2)) ∧
    (∃ (s : State) (e : SealEntry) (x n : Nat), (s.sealer.entries.find? (fun x => x.holder.isSome) = some e) ∧
       (e.holder = some (x, n)) ∧ (2 ≤ e.tries)) ∧
    (∃ (s : State), s.sealer.entries.find? (fun x => x.holder.isSome) = none) ∧
    (∃ (s : State) (c : Fin 12), (coreUp s = true ∧ (s.dev.ready =
       false ∨ s.sealer.testAt + 60000 * msTicks s ≤ s.tm.tick)) ∧ (s.sealer.fenced.testBit c.val = false)) ∧
    (∃ (s : State), coreUp s = true ∧ (s.dev.ready = false ∨ s.sealer.testAt + 60000 * msTicks s ≤ s.tm.tick)) ∧
    (∃ (s : State), coreUp s = false ∨ (s.dev.ready = true ∧ s.tm.tick < s.sealer.testAt + 60000 * msTicks s)) ∧
    (∃ (n : Nat) (c : Nat), (c < 10) ∧ (n.testBit c = true) ∧ (n.testBit 11 = false) ∧ (∀ k < 10, k ≠ c →
       n.testBit k = false)) ∧
    (∃ (s : State) (m : Fin 8), (s.serves m.val 0x0803 = true) ∧ (s.arg m.val 1 1 ≤ 1) ∧ (100 ≤ s.arg m.val 2 2 ∧
       s.arg m.val 2 2 ≤ 60000) ∧ (0 < s.arg m.val 4 4 ∧ s.arg m.val 4 4 ≤ 65536) ∧ (0 < s.arg m.val 8 1 ∧
       s.arg m.val 8 1 ≤ 100) ∧ (zeroAt (s.request m.val) 9 7 = true) ∧ (zeroAt (s.request m.val) 24 232 = true) ∧
       (s.arg m.val 0 1 = 0)) ∧
    (∃ (s : State) (m : Fin 8), (s.serves m.val 0x0803 = true) ∧ (s.arg m.val 1 1 ≤ 1) ∧ (100 ≤ s.arg m.val 2 2 ∧
       s.arg m.val 2 2 ≤ 60000) ∧ (0 < s.arg m.val 4 4 ∧ s.arg m.val 4 4 ≤ 65536) ∧ (0 < s.arg m.val 8 1 ∧
       s.arg m.val 8 1 ≤ 100) ∧ (zeroAt (s.request m.val) 9 7 = true) ∧ (zeroAt (s.request m.val) 24 232 = true) ∧
       (s.arg m.val 0 1 = 1)) ∧
    (∃ (s : State) (m : Fin 8), (s.serves m.val 0x0803 = true) ∧
       (1 < s.arg m.val 0 1 ∨ s.arg m.val 2 2 < 100 ∨ 60000 < s.arg m.val 2 2)) ∧
    (∃ (s : State) (m : Fin 8), (s.serves m.val 0x0804 = true) ∧ (s.arg m.val 0 1 ≤ 1) ∧
       (zeroAt (s.request m.val) 1 255 = true) ∧ (acquiring s = true) ∧ (s.sealer.enable = true) ∧ (s.arg m.val 0 1 =
       0 ∨ s.tal.opened = none)) ∧
    (∃ (s : State) (m : Fin 8) (x : Extent), (s.serves m.val 0x0804 = true) ∧ (s.arg m.val 0 1 ≤ 1) ∧
       (zeroAt (s.request m.val) 1 255 = true) ∧ (acquiring s = true) ∧ (s.sealer.enable = true) ∧ (s.arg m.val 0 1 =
       1) ∧ (s.tal.opened = some x)) ∧
    (∃ (s : State) (m : Fin 8), (s.serves m.val 0x0804 = true) ∧ (s.arg m.val 0 1 ≤ 1) ∧
       (zeroAt (s.request m.val) 1 255 = true) ∧ (acquiring s = false ∨ s.sealer.enable = false)) :=
  ⟨⟨{ State.reset with sealer := { State.reset.sealer with readyExt := 5, readyInfo := some (9, []) } }, by decide +kernel⟩,
   ⟨State.reset, by decide +kernel⟩,
   ⟨{ State.reset with sealer := { State.reset.sealer with due := [{ reason := 0, tick := 0, forMb := none, after := none }], readyExt := 5, readyInfo := some (9, []) }, dev := { State.reset.dev with acq := .running } }, { reason := 0, tick := 0, forMb := none, after := none }, by decide +kernel⟩,
   ⟨{ State.reset with sealer := { State.reset.sealer with due := [{ reason := 2, tick := 9, forMb := none, after := none }, { reason := 0, tick := 5, forMb := none, after := none }] } }, { reason := 0, tick := 5, forMb := none, after := none }, { reason := 2, tick := 9, forMb := none, after := none }, by decide +kernel⟩,
   ⟨{ State.reset with sealer := { State.reset.sealer with due := [{ reason := 0, tick := 0, forMb := none, after := none }], readyExt := 5, readyInfo := some (9, []) }, dev := { State.reset.dev with acq := .running }, tm := { State.reset.tm with tick := 250000001 } }, { reason := 0, tick := 0, forMb := none, after := none }, by decide +kernel⟩,
   ⟨{ State.reset with sealer := { State.reset.sealer with due := [{ reason := 0, tick := 0, forMb := none, after := none }] }, dev := { State.reset.dev with acq := .running } }, { reason := 0, tick := 0, forMb := none, after := none }, by decide +kernel⟩,
   ⟨Tests.running 1 0x0804 [] ({ State.reset with sealer := { State.reset.sealer with due := [{ reason := 2, tick := 0, forMb := some 1, after := none }] }, dev := { State.reset.dev with acq := .running } }), { reason := 2, tick := 0, forMb := some 1, after := none }, 1, by decide +kernel⟩,
   ⟨State.reset, by decide +kernel⟩,
   ⟨{ State.reset with sealer := { State.reset.sealer with signing := some { no := 7, first := 2, last := 5, lastSeq := 9, hLast := [], reason := 0, tA := { sec := 0, ns := 0, frac := 0 }, tB := none, delayUs := 3, mbs := [], emit := true, suspect := false } }, dev := { State.reset.dev with acq := .running } }, { no := 7, first := 2, last := 5, lastSeq := 9, hLast := [], reason := 0, tA := { sec := 0, ns := 0, frac := 0 }, tB := none, delayUs := 3, mbs := [], emit := true, suspect := false }, by decide +kernel⟩,
   ⟨{ State.reset with sealer := { State.reset.sealer with signing := some { no := 7, first := 2, last := 5, lastSeq := 9, hLast := [], reason := 0, tA := { sec := 0, ns := 0, frac := 0 }, tB := none, delayUs := 3, mbs := [], emit := false, suspect := false } } }, { no := 7, first := 2, last := 5, lastSeq := 9, hLast := [], reason := 0, tA := { sec := 0, ns := 0, frac := 0 }, tB := none, delayUs := 3, mbs := [], emit := false, suspect := false }, by decide +kernel⟩,
   ⟨State.reset, by decide +kernel⟩,
   ⟨{ State.reset with sealer := { State.reset.sealer with due := [{ reason := 0, tick := 0, forMb := none, after := none }], timer := 1000000000 }, dev := { State.reset.dev with acq := .running } }, by decide +kernel⟩,
   ⟨State.reset, by decide +kernel⟩,
   ⟨{ State.reset with sealer := { State.reset.sealer with entries := [{ no := 65539, first := 2, last := 5, t0 := (0, 0), hLast := [], body := [], sig := [], fmt := 1, tries := 0, holder := some (6, 64) }] } }, { no := 65539, first := 2, last := 5, t0 := (0, 0), hLast := [], body := [], sig := [], fmt := 1, tries := 0, holder := some (6, 64) }, 6, 64, by decide +kernel⟩,
   ⟨{ State.reset with sealer := { State.reset.sealer with entries := [{ no := 65539, first := 2, last := 5, t0 := (0, 0), hLast := [], body := [], sig := [], fmt := 1, tries := 1, holder := some (6, 64) }] } }, { no := 65539, first := 2, last := 5, t0 := (0, 0), hLast := [], body := [], sig := [], fmt := 1, tries := 1, holder := some (6, 64) }, 6, 64, by decide +kernel⟩,
   ⟨{ State.reset with sealer := { State.reset.sealer with entries := [{ no := 65539, first := 2, last := 5, t0 := (0, 0), hLast := [], body := [], sig := [], fmt := 1, tries := 2, holder := some (6, 64) }] } }, { no := 65539, first := 2, last := 5, t0 := (0, 0), hLast := [], body := [], sig := [], fmt := 1, tries := 2, holder := some (6, 64) }, 6, 64, by decide +kernel⟩,
   ⟨State.reset, by decide +kernel⟩,
   ⟨{ State.reset with dev := { State.reset.dev with powered := true } }, 11, by decide +kernel⟩,
   ⟨{ State.reset with dev := { State.reset.dev with powered := true } }, by decide +kernel⟩,
   ⟨{ State.reset with dev := { State.reset.dev with powered := true, ready := true } }, by decide +kernel⟩,
   ⟨8, 3, by decide +kernel⟩,
   ⟨Tests.running 1 0x0803 ([0, 0] ++ leBytes 2 60000 ++ leBytes 4 65536 ++ [100]) State.reset, 1, by decide +kernel⟩,
   ⟨Tests.running 1 0x0803 ([1, 0] ++ leBytes 2 60000 ++ leBytes 4 65536 ++ [100]) State.reset, 1, by decide +kernel⟩,
   ⟨Tests.running 1 0x0803 ([0, 0] ++ leBytes 2 60001) State.reset, 1, by decide +kernel⟩,
   ⟨Tests.running 1 0x0804 ([0]) (Tests.acquiring State.reset), 1, by decide +kernel⟩,
   ⟨Tests.running 1 0x0804 ([1]) (Tests.acquiring Tests.storing), 1, Tests.extent, by decide +kernel⟩,
   ⟨Tests.running 1 0x0804 ([1]) State.reset, 1, by decide +kernel⟩⟩

theorem witness_DeviceIdentity :
    (∃ (s : State) (m : Fin 8), (s.serves m.val 0x0801 = true) ∧ (s.arg m.val 32 1 ≤ 6) ∧
       (zeroAt (s.request m.val) 33 223 = true) ∧ (s.sealer.attest = none) ∧ ((cwOf s (s.arg m.val 32 1)).claimed =
       false)) ∧
    (∃ (s : State) (m : Fin 8) (a : AttestJob), (s.serves m.val 0x0801 = true) ∧ (s.arg m.val 32 1 ≤ 6) ∧
       (zeroAt (s.request m.val) 33 223 = true) ∧ (s.sealer.attest = some a)) ∧
    (∃ (s : State) (m : Fin 8), (s.serves m.val 0x0801 = true) ∧ (s.arg m.val 32 1 ≤ 6) ∧
       (zeroAt (s.request m.val) 33 223 = true) ∧ (s.sealer.attest = none) ∧ ((cwOf s (s.arg m.val 32 1)).claimed =
       true)) ∧
    (∃ (s : State) (m : Fin 8), (s.serves m.val 0x0801 = true) ∧ (6 < s.arg m.val 32 1)) ∧
    (∃ (s : State) (m : Fin 8) (a : AttestJob) (b : List Byte), (s.sealer.attest = some a) ∧ (a.mb = m.val) ∧
       (a.detached = true ∨ mbRuns m.val 0x0801 s = true) ∧ (signCores s = true) ∧ (a.report = some b)) ∧
    (∃ (s : State) (m : Fin 8) (a : AttestJob), (s.sealer.attest = some a) ∧ (a.mb = m.val) ∧ (a.detached =
       true ∨ mbRuns m.val 0x0801 s = true) ∧ (signCores s = true) ∧ (a.report = none) ∧ (s.sealer.signing = none) ∧
       (sealFirst a.since s = false)) ∧
    (∃ (s : State) (m : Fin 8) (a : AttestJob), (s.sealer.attest = some a) ∧ (a.mb = m.val) ∧ (a.detached =
       true ∨ mbRuns m.val 0x0801 s = true) ∧ (signCores s = true) ∧ (a.report = none) ∧
       (s.sealer.signing ≠ none ∨ sealFirst a.since s = true)) ∧
    (∃ (s : State), s.sealer.attest = none ∨ signCores s = false) ∧
    (∃ (s : State) (m : Fin 8), (s.serves m.val 0x0802 = true) ∧ (s.arg m.val 0 1 ≤ 6) ∧
       (zeroAt (s.request m.val) 1 255 = true) ∧ ((cwOf s (s.arg m.val 0 1)).claimed = false)) ∧
    (∃ (s : State) (m : Fin 8), (s.serves m.val 0x0802 = true) ∧ (s.arg m.val 0 1 ≤ 6) ∧
       (zeroAt (s.request m.val) 1 255 = true) ∧ ((cwOf s (s.arg m.val 0 1)).claimed = false) ∧
       (8 ≤ (cwOf s (s.arg m.val 0 1)).size)) ∧
    (∃ (s : State) (m : Fin 8), (s.serves m.val 0x0802 = true) ∧ (s.arg m.val 0 1 ≤ 6) ∧
       (zeroAt (s.request m.val) 1 255 = true) ∧ ((cwOf s (s.arg m.val 0 1)).claimed = false) ∧
       (0 < (cwOf s (s.arg m.val 0 1)).size) ∧ ((cwOf s (s.arg m.val 0 1)).size ≤ 7)) ∧
    (∃ (s : State) (m : Fin 8), (s.serves m.val 0x0802 = true) ∧ (s.arg m.val 0 1 ≤ 6) ∧
       (zeroAt (s.request m.val) 1 255 = true) ∧ ((cwOf s (s.arg m.val 0 1)).claimed = true)) ∧
    (∃ (s : State) (m : Fin 8), (s.serves m.val 0x0802 = true) ∧ (6 < s.arg m.val 0 1)) :=
  ⟨⟨Tests.running 1 0x0801 (List.replicate 32 7 ++ [6]) State.reset, 1, by decide +kernel⟩,
   ⟨Tests.running 1 0x0801 (List.replicate 32 7 ++ [6]) ({ State.reset with sealer := { State.reset.sealer with attest := some { mb := 2, nonce := [], window := 1, since := 0, report := none, detached := false } } }), 1, { mb := 2, nonce := [], window := 1, since := 0, report := none, detached := false }, by decide +kernel⟩,
   ⟨Tests.running 1 0x0801 (List.replicate 32 7 ++ [6]) (modCw 6 (fun w => { w with claimed := true, mb := 3 }) State.reset), 1, by decide +kernel⟩,
   ⟨Tests.running 1 0x0801 (List.replicate 32 7 ++ [7]) State.reset, 1, by decide +kernel⟩,
   ⟨Tests.running 1 0x0801 ([]) ({ State.reset with sealer := { State.reset.sealer with attest := some { mb := 1, nonce := [], window := 2, since := 0, report := some (zeros 256), detached := false } } }), 1, { mb := 1, nonce := [], window := 2, since := 0, report := some (zeros 256), detached := false }, zeros 256, by decide +kernel⟩,
   ⟨Tests.running 1 0x0801 ([]) ({ State.reset with sealer := { State.reset.sealer with attest := some { mb := 1, nonce := [], window := 2, since := 0, report := none, detached := false } } }), 1, { mb := 1, nonce := [], window := 2, since := 0, report := none, detached := false }, by decide +kernel⟩,
   ⟨Tests.running 1 0x0801 ([]) ({ State.reset with sealer := { State.reset.sealer with attest := some { mb := 1, nonce := [], window := 2, since := 0, report := none, detached := false }, due := [{ reason := 0, tick := 0, forMb := none, after := none }] }, dev := { State.reset.dev with acq := .running } }), 1, { mb := 1, nonce := [], window := 2, since := 0, report := none, detached := false }, by decide +kernel⟩,
   ⟨State.reset, by decide +kernel⟩,
   ⟨Tests.running 1 0x0802 ([6]) State.reset, 1, by decide +kernel⟩,
   ⟨Tests.running 1 0x0802 ([6]) (modCw 6 (fun w => { w with size := 8, base := 1 }) State.reset), 1, by decide +kernel⟩,
   ⟨Tests.running 1 0x0802 ([6]) State.reset, 1, by decide +kernel⟩,
   ⟨Tests.running 1 0x0802 ([6]) (modCw 6 (fun w => { w with claimed := true, mb := 3 }) State.reset), 1, by decide +kernel⟩,
   ⟨Tests.running 1 0x0802 ([7]) State.reset, 1, by decide +kernel⟩⟩

end Sys2Proof.Machine
end

/-! # The scope family: what every step keeps, and which commands complete

## Every command but the four accesses of a BAR keeps what the laws of Keeps name -/

namespace Sys2Proof.Machine

/-- The outcome is a next state, and one that keeps what no command changes or spoils. -/
def NextKeeps (s₀ : State) (o : Result) : Prop := ∃ t, o = .next t ∧ Keeps s₀ t

theorem NextKeeps.next {s₀ t : State} (h : Keeps s₀ t) : NextKeeps s₀ (.next t) := ⟨t, rfl, h⟩

theorem NextKeeps.ite {s₀ : State} {a b : Result} {c : Prop} [Decidable c] (ha : NextKeeps s₀ a)
    (hb : NextKeeps s₀ b) : NextKeeps s₀ (if c then a else b) := by
  split
  · exact ha
  · exact hb

/-- What a command that answers a next state keeps, said of that state. -/
theorem NextKeeps.keeps {s₀ t : State} {o : Result} (h : NextKeeps s₀ o) (ho : o = .next t) : Keeps s₀ t := by
  obtain ⟨u, hu, hk⟩ := h
  cases hu.symm.trans ho
  exact hk

section
variable {s₀ s : State} (hk : Keeps s₀ s)
include hk

/-! ### Inputs, fabric and sequencers (07 to 09) -/

theorem execComparatorEvent_nextKeeps (n : Fin 272) (upper out : Bool) (grid : Nat) :
    NextKeeps s₀ (execComparatorEvent n upper out grid s) := by
  unfold execComparatorEvent
  refine .ite (.next (applyEvent_keeps _ _ _ _ _ _ ?_)) (.next hk)
  split
  · exact .ite (requalify_keeps _ hk) hk
  · exact hk

theorem execQualTimeout_nextKeeps (n : Fin 272) : NextKeeps s₀ (execQualTimeout n s) :=
  have hs := settleSuspect_keeps _ hk
  .next (.ite (endHold_keeps _ _ hs) hs)

theorem execTrvStep_nextKeeps (j : Fin 4) (k : Nat) : NextKeeps s₀ (execTrvStep j k s) := by
  unfold execTrvStep
  exact .ite (.next (stepSeq_keeps _ _ (advance_keeps _ _ hk))) (.next hk)

theorem execTriginHigh_nextKeeps (x : Fin 4) (k : Nat) : NextKeeps s₀ (execTriginHigh x k s) := by
  unfold execTriginHigh
  exact .ite (.next hk) (.next (.lit (.ite (advance_keeps _ _ hk) hk) rfl rfl rfl rfl rfl))

theorem execTrvArmTarget_nextKeeps (j : Fin 4) : NextKeeps s₀ (execTrvArmTarget j s) := by
  unfold execTrvArmTarget
  refine .next ?_
  split
  · exact .ite (.ite (advance_keeps _ _ hk)
      (.ite (dropArm_keeps _ _ (disarmNow_keeps _ _ hk)) (armPending_keeps _ _ _ hk))) hk
  · exact hk

/-! ### Faults (17) -/

theorem execRailMonitor_nextKeeps (l : RailLevel) : NextKeeps s₀ (execRailMonitor l s) := by
  unfold execRailMonitor
  have hd : Keeps s₀ { s with dev := { s.dev with vioOff := withoutMask (bankMask l.rail) s.dev.vioOff } } :=
    .lit hk rfl rfl rfl rfl rfl
  exact .ite (.next (bankLost_keeps _ _ hk))
    (.ite (.next (goLive_keeps _ _ _ (.lit hd rfl rfl rfl rfl rfl))) (.next hd))

theorem execExtFaultIn_nextKeeps : NextKeeps s₀ (execExtFaultIn s) :=
  .next (.ite (feedExt_keeps _ (.lit hk rfl rfl rfl rfl rfl)) hk)

theorem execCollectorParity_nextKeeps : NextKeeps s₀ (execCollectorParity s) := by
  unfold execCollectorParity
  exact .ite (.next (rebuildStatus_keeps _ (feedExt_keeps _ (reloadCollector_keeps _
    (signalWith_keeps _ _ _ _ _ _ hk))))) (.next hk)

theorem execTrigoutContention_nextKeeps (x : Fin 4) : NextKeeps s₀ (execTrigoutContention x s) := by
  unfold execTrigoutContention
  exact .ite (.next (signalUnit_keeps _ _ _ _ (.lit hk rfl rfl rfl rfl rfl))) (.next hk)

/-! ### Time (11) -/

theorem execTimeIntegrity_nextKeeps (copy1 : Time) : NextKeeps s₀ (execTimeIntegrity copy1 s) := by
  unfold execTimeIntegrity
  exact .ite (.next hk) (.next (cairnNow_keeps _ _ _ (raise_keeps _ _ _ (signal_keeps _ _ _
    (.lit hk rfl rfl rfl rfl rfl)))))

theorem execTimeBRevert_nextKeeps : NextKeeps s₀ (execTimeBRevert s) := by
  unfold execTimeBRevert
  exact .ite (.next (switchSource_keeps _ _ _ hk)) (.next hk)

theorem execPpsInEdge_nextKeeps (e : PpsEdge) : NextKeeps s₀ (execPpsInEdge e s) := by
  unfold execPpsInEdge
  exact .ite (.next (raise_keeps _ _ _ (.lit hk rfl rfl rfl rfl rfl))) (.next hk)

theorem execPpsInMissing_nextKeeps : NextKeeps s₀ (execPpsInMissing s) := by
  unfold execPpsInMissing
  exact .ite (.next (raise_keeps _ _ _ (.lit hk rfl rfl rfl rfl rfl))) (.next hk)

theorem execPpsOutStart_nextKeeps : NextKeeps s₀ (execPpsOutStart s) := by
  unfold execPpsOutStart
  exact .ite (.next (.lit hk rfl rfl rfl rfl rfl)) (.next hk)

theorem execPpsOutEnd_nextKeeps : NextKeeps s₀ (execPpsOutEnd s) := by
  unfold execPpsOutEnd
  split
  · exact .next hk
  · exact .ite (.next (.lit hk rfl rfl rfl rfl rfl)) (.next hk)

theorem execEncInputChange_nextKeeps (e : Fin 2) (a b z : Bool) : NextKeeps s₀ (execEncInputChange e a b z s) := by
  unfold execEncInputChange
  dsimp only
  have hm (t : Tm) : Keeps s₀ { s with tm := t } := .lit hk rfl rfl rfl rfl rfl
  have hr (t : Tm) (c : Prop) [Decidable c] :
      Keeps s₀ (if c then raise 2 (10 + e.val) { s with tm := t } else { s with tm := t }) :=
    .ite (raise_keeps _ _ _ (hm t)) (hm t)
  exact .ite (.next (.ite (raise_keeps _ _ _ (hr _ _)) (hr _ _))) (.next (hm _))

theorem execMainsZcEdge_nextKeeps (rising : Bool) : NextKeeps s₀ (execMainsZcEdge rising s) := by
  unfold execMainsZcEdge
  have hm (t : Tm) : Keeps s₀ { s with tm := t } := .lit hk rfl rfl rfl rfl rfl
  exact .ite (.next (.ite (raise_keeps _ _ _ (hm _)) (hm _))) (.next hk)

theorem execMainsLost_nextKeeps : NextKeeps s₀ (execMainsLost s) := by
  unfold execMainsLost
  exact .ite (.next (raise_keeps _ _ _ (.lit hk rfl rfl rfl rfl rfl))) (.next hk)

theorem execSchActionExecute_nextKeeps : NextKeeps s₀ (execSchActionExecute s) := by
  unfold execSchActionExecute
  split
  · exact .next hk
  · exact .next (.ite (slotOutcome_keeps _ _ _ _ _ _
      (actEffect_keeps _ _ _ _ _ (modSlot_keeps _ _ _ (.lit hk rfl rfl rfl rfl rfl))))
      (slotOutcome_keeps _ _ _ _ _ _ (actEffect_keeps _ _ _ _ _ (modSlot_keeps _ _ _ (.lit hk rfl rfl rfl rfl rfl)))))

/-! ### Ridgeline (12) -/

theorem execCreditAckRx_nextKeeps (p : Fin 3) (f : List Byte) : NextKeeps s₀ (execCreditAckRx p f s) :=
  .next (rxLocal_keeps _ _ _ _ _ (fun _ _ h =>
    have hm := modPort_keeps _ _ _ h
    pumpPort_keeps _ _ (endDrop_keeps _ _ (.ite (resendRecord_keeps _ _ hm) hm))) hk)

theorem execRecordFrameRx_nextKeeps (p : Fin 3) (f : List Byte) : NextKeeps s₀ (execRecordFrameRx p f s) :=
  .next (rxLocal_keeps _ _ _ _ _ (fun _ _ h =>
    have hm := modPort_keeps _ _ _ h
    .ite h (.ite (takeForwarded_keeps _ _ _ hm) hm)) hk)

theorem execRlPortUp_nextKeeps (p : Fin 3) (peer : List Byte) (restarts : Byte) :
    NextKeeps s₀ (execRlPortUp p peer restarts s) := by
  unfold execRlPortUp
  exact .ite (.next (pumpPort_keeps _ _ (grantCredit_keeps _ _ _
    (.lit (raise_keeps _ _ _ (modPort_keeps _ _ _ hk)) rfl rfl rfl rfl rfl)))) (.next hk)

theorem execRlPortDown_nextKeeps (p : Fin 3) : NextKeeps s₀ (execRlPortDown p s) := by
  unfold execRlPortDown
  exact .ite (.next (lostPort_keeps _ _ (leaveUp_keeps _ _ _ hk))) (.next hk)

theorem execRlTrainTimeout_nextKeeps (p : Fin 3) : NextKeeps s₀ (execRlTrainTimeout p s) := by
  unfold execRlTrainTimeout
  exact .ite (.next (linkFault_keeps _ _ hk)) (.next hk)

theorem execFaultIdleRx_nextKeeps (p : Fin 3) : NextKeeps s₀ (execFaultIdleRx p s) := by
  unfold execFaultIdleRx
  have hl := raise_keeps 12 (6 + p.val) _ (leaveUp_keeps p.val .peerFault _ hk)
  dsimp only
  split
  · exact .next (lostPort_keeps _ _ hl)
  · exact .ite (.next hl) (.next hk)
  · exact .next hk

theorem execRlPeerFaultEnd_nextKeeps (p : Fin 3) : NextKeeps s₀ (execRlPeerFaultEnd p s) := by
  unfold execRlPeerFaultEnd
  exact .ite (.next (leaveUp_keeps _ _ _ hk)) (.next hk)

theorem execTimeFrameRx_nextKeeps (p : Fin 3) (f : List Byte) : NextKeeps s₀ (execTimeFrameRx p f s) :=
  .next (rxLocal_keeps _ _ _ _ _ (fun _ _ h => servo_keeps _ _ _ (judgeGood_keeps _ _ (modPort_keeps _ _ _ h))) hk)

theorem execRlTimeLoss_nextKeeps (p : Fin 3) : NextKeeps s₀ (execRlTimeLoss p s) := by
  unfold execRlTimeLoss
  refine .next ?_
  split
  · exact .ite hk (portBad_keeps _ _ hk)
  · exact portBad_keeps _ _ hk

theorem execDelayRespRx_nextKeeps (p : Fin 3) (f : List Byte) : NextKeeps s₀ (execDelayRespRx p f s) :=
  .next (rxLocal_keeps _ _ _ _ _ (fun _ _ h => judgeGood_keeps _ _ (modPort_keeps _ _ _ h)) hk)

theorem execRlTimedLaunch_nextKeeps (p : Fin 3) : NextKeeps s₀ (execRlTimedLaunch p s) := by
  unfold execRlTimedLaunch
  split
  · exact .next hk
  · have ht (q : Nat) (fl : Bool) (x : TxFrame) (o n : Nat) (f : Port → Port) (r : Rl) :
        Keeps s₀ (txFrame q fl x (recordOrigin o n { modPort p.val f s with rl := r })) :=
      txFrame_keeps _ _ _ _ (recordOrigin_keeps _ _ _ (.lit (modPort_keeps p.val f _ hk) rfl rfl rfl rfl rfl))
    exact .ite (.next (.ite (applyTimed_keeps _ _ (ht _ _ _ _ _ _ _)) (ht _ _ _ _ _ _ _))) (.next hk)

theorem execRlTimedApply_nextKeeps (i : Nat) : NextKeeps s₀ (execRlTimedApply i s) := by
  unfold execRlTimedApply
  split
  · exact .next hk
  · refine .ite ?_ (.next hk)
    dsimp only
    split
    · exact .next (actTimed_keeps _ _ _ _ _ (.lit hk rfl rfl rfl rfl rfl))
    · exact .next (timedPast_keeps _ _ (.lit hk rfl rfl rfl rfl rfl))

theorem execTunnelReqRx_nextKeeps (p : Fin 3) (f : List Byte) : NextKeeps s₀ (execTunnelReqRx p f s) := by
  refine .next (rxFlood_keeps _ _ _ _ _ (fun b x h => .ite h ?_) hk)
  dsimp only
  split
  · exact .lit h rfl rfl rfl rfl rfl
  · exact startTunnelled_keeps _ _ _ _ (.lit h rfl rfl rfl rfl rfl)

theorem execTunnelRespRx_nextKeeps (p : Fin 3) (f : List Byte) : NextKeeps s₀ (execTunnelRespRx p f s) := by
  refine .next (rxFlood_keeps _ _ _ _ _ (fun b x h => ?_) hk)
  split
  · exact h
  · refine .ite h ?_
    dsimp only
    split
    · exact .lit h rfl rfl rfl rfl rfl
    · exact mbComplete_keeps _ _ _ (.lit h rfl rfl rfl rfl rfl)

theorem execRlTunnelTimeout_nextKeeps (m : Fin 8) : NextKeeps s₀ (execRlTunnelTimeout m s) := by
  unfold execRlTunnelTimeout
  split
  · exact .next hk
  · exact .ite (.next hk) (.next (mbComplete_keeps _ _ _ (raise_keeps _ _ _ (.lit hk rfl rfl rfl rfl rfl))))

theorem execDiscoverRx_nextKeeps (p : Fin 3) (f : List Byte) : NextKeeps s₀ (execDiscoverRx p f s) :=
  .next (rxTake_keeps _ _ _ _ _ (fun _ h => rxDisc_keeps _ _ _ _ _ _
    (fun _ h => .ite (originateDisc_keeps _ _ _ h) h) h) hk)

theorem execDiscoverReplyRx_nextKeeps (p : Fin 3) (f : List Byte) : NextKeeps s₀ (execDiscoverReplyRx p f s) :=
  .next (rxTake_keeps _ _ _ _ _ (fun _ h => rxDisc_keeps _ _ _ _ _ _ (fun _ h => h) (noteReply_keeps _ _ h)) hk)

theorem execAssignRx_nextKeeps (p : Fin 3) (f : List Byte) : NextKeeps s₀ (execAssignRx p f s) :=
  .next (rxTake_keeps _ _ _ _ _ (fun _ h => rxDisc_keeps _ _ _ _ _ _ (fun x h =>
    have hr (r : Rl) : Keeps s₀ { x with rl := r } := .lit h rfl rfl rfl rfl rfl
    .ite (setAddress_keeps _ _ (hr _)) (hr _)) h) hk)

theorem execRlDiscoverAssign_nextKeeps : NextKeeps s₀ (execRlDiscoverAssign s) := by
  unfold execRlDiscoverAssign
  refine .next ?_
  split
  · exact hk
  · exact endSession_keeps _ _ hk

theorem execRlOriginExpire_nextKeeps (i : Nat) : NextKeeps s₀ (execRlOriginExpire i s) := by
  unfold execRlOriginExpire
  refine .next ?_
  split
  · exact .ite (.lit hk rfl rfl rfl rfl rfl) hk
  · exact hk

/-! ### Clocks (13) -/

theorem execPllsLocked_nextKeeps (phErr : Int) : NextKeeps s₀ (execPllsLocked phErr s) := by
  unfold execPllsLocked
  exact .ite (.next (lockS_keeps _ (.lit hk rfl rfl rfl rfl rfl))) (.next hk)

theorem execPllsUnlocked_nextKeeps (phErr : Int) : NextKeeps s₀ (execPllsUnlocked phErr s) := by
  unfold execPllsUnlocked
  exact .ite (.next (openSuspect_keeps _ _ (signal_keeps _ _ _ (raise_keeps _ _ _ (.lit hk rfl rfl rfl rfl rfl)))))
    (.next hk)

theorem execPlllLocked_nextKeeps : NextKeeps s₀ (execPlllLocked s) := by
  unfold execPlllLocked
  exact .ite (.next (lockL_keeps _ hk)) (.next hk)

theorem execPlllUnlocked_nextKeeps : NextKeeps s₀ (execPlllUnlocked s) := by
  unfold execPlllUnlocked
  exact .ite (.next (unlockL_keeps _ hk)) (.next hk)

theorem execDcoRange_nextKeeps (r : DcoReading) : NextKeeps s₀ (execDcoRange r s) := by
  unfold execDcoRange
  exact .ite (.next (readDcoS_keeps _ _ hk)) (.ite (.next (unlockL_keeps _ hk)) (.next hk))

theorem execDcoFail_nextKeeps : NextKeeps s₀ (execDcoFail s) := by
  unfold execDcoFail
  have hl (d : Dev) (p : Pll) (hd : d.variant = s.dev.variant) :
      Keeps s₀ (raise 13 7 (goLive 5 0 (spanB false (spanA false { s with dev := d, pll := p })))) :=
    raise_keeps _ _ _ (goLive_keeps _ _ _ (spanB_keeps _ _ (spanA_keeps _ _ (.lit hk hd rfl rfl rfl rfl))))
  exact .ite (.next hk)
    (.next (.ite (closeAtLastBlock_keeps _ (openSuspect_keeps _ _ (hl _ _ rfl))) (hl _ _ rfl)))

theorem execRefGood_nextKeeps (src : Fin 5) : NextKeeps s₀ (execRefGood src s) := by
  unfold execRefGood
  have hp (p : Pll) : Keeps s₀ { s with pll := p } := .lit hk rfl rfl rfl rfl rfl
  exact .ite (.next hk) (.ite (.next (.lit (hp _) rfl rfl rfl rfl rfl)) (.next (hp _)))

theorem execRefQualified_nextKeeps (dS dL : Int) : NextKeeps s₀ (execRefQualified dS dL s) := by
  unfold execRefQualified
  split
  · exact .next hk
  · refine .ite (.next hk) ?_
    dsimp only
    generalize hx : goDead 7 _ = x
    have hx : Keeps s₀ x := hx ▸ goDead_keeps _ _ (.lit hk rfl rfl rfl rfl rfl)
    generalize hy : (if x.pll.s.state = .holdover then lockS (absorbS dS x) else x) = y
    have hy : Keeps s₀ y := hy ▸ .ite (lockS_keeps _ (absorbS_keeps _ _ hx)) hx
    generalize hz : (if y.pll.l.state = .holdover then lockL (absorbL dL y) else y) = z
    have hz : Keeps s₀ z := hz ▸ .ite (lockL_keeps _ (absorbL_keeps _ _ hy)) hy
    have hc := countStep_keeps _ (raise_keeps 13 5 _ hz)
    exact .next (.ite (raise_keeps _ _ _ hc) hc)

theorem execRefPhaseHit_nextKeeps (dS dL : Int) : NextKeeps s₀ (execRefPhaseHit dS dL s) := by
  unfold execRefPhaseHit
  refine .ite (.next (countStep_keeps _ ?_)) (.next hk)
  have hs (c : Prop) [Decidable c] (d : Int) : Keeps s₀ (if c then absorbS d s else s) := .ite (absorbS_keeps _ _ hk) hk
  exact .ite (absorbL_keeps _ _ (hs _ _)) (hs _ _)

theorem execRealignDone_nextKeeps : NextKeeps s₀ (execRealignDone s) := by
  unfold execRealignDone
  exact .ite (.next (raise_keeps _ _ _ (.lit hk rfl rfl rfl rfl rfl))) (.next hk)

end

end Sys2Proof.Machine

namespace Sys2Proof.Machine

/-- The end of the tests of start-up for a memory raises events and notes a memory that stays faulty. -/
theorem startTested_keeps {s₀ : State} (fails repaired first : Nat) (s : State) (hk : Keeps s₀ s) :
    Keeps s₀ (startTested fails repaired first s) := by
  unfold startTested
  have h11 (c : Prop) [Decidable c] : Keeps s₀ (if c then raise 15 11 s else s) := .ite (raise_keeps _ _ _ hk) hk
  have h12 (c : Prop) [Decidable c] := raise_keeps 15 12 _ (h11 c)
  exact .ite (.ite (.lit (h12 _) rfl rfl rfl rfl rfl) (h12 _)) (h11 _)

theorem scrubOn_die (t : Talus) : (scrubOn t).die = t.die := by
  unfold scrubOn
  split
  · split <;> rfl
  · rfl

section
variable {s₀ s : State} (hk : Keeps s₀ s)
include hk

/-! ### The endpoint, its resets and the mailboxes (14, 15) -/

theorem execMsixSend_nextKeeps (vec : Fin 64) : NextKeeps s₀ (execMsixSend vec s) := by
  unfold execMsixSend
  exact .ite (.next (.lit (emitOut_keeps _ _ hk) rfl rfl rfl rfl rfl)) (.next hk)

theorem execLtrEnable_nextKeeps (on : Bool) (a b : Nat) : NextKeeps s₀ (execLtrEnable on a b s) := by
  unfold execLtrEnable
  have hp (p : Pcie) : Keeps s₀ { s with pcie := p } := .lit hk rfl rfl rfl rfl rfl
  exact .ite (.next hk) (.next (.ite (sendLtr_keeps _ (hp _)) (hp _)))

theorem execCplUnexpected_nextKeeps (tag : Nat) : NextKeeps s₀ (execCplUnexpected tag s) := by
  unfold execCplUnexpected
  have hr (d : List Byte) (p : Pcie) : Keeps s₀ (raiseWith false 14 4 d (aerAdvisory 1 { s with pcie := p })) :=
    raiseWith_keeps _ _ _ _ _ (aerAdvisory_keeps _ _ (.lit hk rfl rfl rfl rfl rfl))
  refine .ite (.next hk) ?_
  split
  · exact .ite (.next hk) (.next (hr _ _))
  · exact .next (hr _ _)

theorem execBmeCleared_nextKeeps : NextKeeps s₀ (execBmeCleared s) := by
  unfold execBmeCleared
  exact .ite (.next (raise_keeps _ _ _ (.lit hk rfl rfl rfl rfl rfl))) (.next hk)

theorem execD3hotExit_nextKeeps : NextKeeps s₀ (execD3hotExit s) := by
  unfold execD3hotExit
  exact .ite (.next (sendLtr_keeps _ (raise_keeps _ _ _ (.lit hk rfl rfl rfl rfl rfl)))) (.next hk)

theorem execAspmL1Entry_nextKeeps : NextKeeps s₀ (execAspmL1Entry s) := by
  unfold execAspmL1Entry
  exact .ite (.next (.lit hk rfl rfl rfl rfl rfl)) (.next hk)

theorem execLinkUp_nextKeeps (gen width : Nat) : NextKeeps s₀ (execLinkUp gen width s) := by
  unfold execLinkUp
  exact .ite (.next (raise_keeps _ _ _ (.lit hk rfl rfl rfl rfl rfl))) (.next hk)

theorem execLinkChange_nextKeeps (gen width : Nat) : NextKeeps s₀ (execLinkChange gen width s) := by
  unfold execLinkChange
  exact .ite (.next (raise_keeps _ _ _ (.lit hk rfl rfl rfl rfl rfl))) (.next hk)

theorem execLinkDown_nextKeeps : NextKeeps s₀ (execLinkDown s) :=
  .next (.ite (raise_keeps _ _ _ (signal_keeps _ _ _ (.lit (startFlr_keeps _ _ hk) rfl rfl rfl rfl rfl))) hk)

theorem execFlrDone_nextKeeps : NextKeeps s₀ (execFlrDone s) :=
  .next (.ite (raise_keeps _ _ _ (.lit hk rfl rfl rfl rfl rfl)) hk)

theorem execPwCommitSwitch_nextKeeps : NextKeeps s₀ (execPwCommitSwitch s) := by
  unfold execPwCommitSwitch
  split
  · exact .next hk
  · exact .next (raise_keeps _ _ _ (.lit hk rfl rfl rfl rfl rfl))

theorem execInboundPoisonedWrite_nextKeeps (e : RxError) (off : Nat) :
    NextKeeps s₀ (execInboundPoisonedWrite e off s) := by
  have uncorrectable (n : Nat) : NextKeeps s₀ (.next (if alive s then aerUncorrectable n s else s)) :=
    .next (.ite (aerUncorrectable_keeps _ _ hk) hk)
  have correctable (n : Nat) : NextKeeps s₀ (.next (if alive s then aerCorrectable n s else s)) :=
    .next (.ite (aerCorrectable_keeps _ _ hk) hk)
  cases e with
  | poisonedWrite bar =>
    unfold execInboundPoisonedWrite
    have hu (c : Prop) [Decidable c] : Keeps s₀ (if c then (takeUnlock s).2 else s) := .ite (takeUnlock_keeps _ hk) hk
    exact .ite (.next (aerUncorrectable_keeps _ _ (raise_keeps _ _ _ (.lit (hu _) rfl rfl rfl rfl rfl)))) (.next hk)
  | ecrc cpl =>
    unfold execInboundPoisonedWrite
    have ha := aerUncorrectable_keeps 4 s hk
    refine .ite (.next ?_) (.next hk)
    split
    · exact ha
    · split
      · exact dropTag_keeps _ _ (badFlush_keeps _ _ _ _ ha)
      · exact ha
  | internal bar len =>
    unfold execInboundPoisonedWrite
    have ha := aerUncorrectable_keeps 9 s hk
    refine .ite (.next ?_) (.next hk)
    dsimp only
    split
    · exact ha
    · exact emitOut_keeps _ _ (freeBytes_keeps _ _ ha)
  | malformed => exact uncorrectable 5
  | overflow => exact uncorrectable 6
  | flowControl => exact uncorrectable 7
  | dlProtocol => exact uncorrectable 8
  | receiver => exact correctable 10
  | badTlp => exact correctable 11
  | badDllp => exact correctable 12
  | replayTimeout => exact correctable 13
  | replayRollover => exact correctable 14
  | correctedInternal => exact correctable 15

theorem execMbCommandStart_nextKeeps (m : Fin 8) : NextKeeps s₀ (execMbCommandStart m s) := by
  unfold execMbCommandStart
  refine .ite ?_ (.next hk)
  dsimp only
  split
  · exact .next (mbComplete_keeps _ _ _ (modMb_keeps _ _ _ hk))
  · exact .next (modMb_keeps _ _ _ hk)

theorem execCwStall_nextKeeps (k : Fin 8) : NextKeeps s₀ (execCwStall k s) := by
  unfold execCwStall
  exact .ite (.next (mbComplete_keeps _ _ _ (raise_keeps _ _ _ (cancelLong_keeps _ _ hk)))) (.next hk)

theorem execSummitLockstep_nextKeeps : NextKeeps s₀ (execSummitLockstep s) := by
  unfold execSummitLockstep
  exact .ite (.next hk) (.next (restartSummit_keeps _ _ (signal_keeps _ _ _ hk)))

theorem execSummitWatchdog_nextKeeps : NextKeeps s₀ (execSummitWatchdog s) := by
  unfold execSummitWatchdog
  exact .ite (.next hk) (.next (restartSummit_keeps _ _ (signal_keeps _ _ _ hk)))

theorem execSummitReady_nextKeeps : NextKeeps s₀ (execSummitReady s) := by
  unfold execSummitReady
  have hf (x : Summit) (hx : x.scratchpad = s.summit.scratchpad) : Keeps s₀ (startFirmware { s with summit := x }) :=
    startFirmware_keeps _ (.lit hk rfl rfl hx rfl rfl)
  exact .ite (.next (.ite (raise_keeps _ _ _ (hf _ rfl)) (hf _ rfl))) (.next hk)

theorem execFwBootVerify_nextKeeps (a b : SlotImage) : NextKeeps s₀ (execFwBootVerify a b s) := by
  unfold execFwBootVerify
  have ha := bootSlot_keeps 0 a s hk
  have hb := bootSlot_keeps 1 b _ ha
  exact .ite (.ite (.next (runSlot_keeps _ _ ha)) (.ite (.next (raise_keeps _ _ _ (runSlot_keeps _ _ hb)))
    (.next (.lit hb rfl rfl rfl rfl rfl)))) (.next hk)

theorem execFwStaged_nextKeeps (m : Fin 8) (back : FlashRead) (flashOk : Bool) :
    NextKeeps s₀ (execFwStaged m back flashOk s) := by
  unfold execFwStaged
  have hs (x : Slot) : Keeps s₀ (setSlot 0 x (endFw s)) := setSlot_keeps _ _ _ (endFw_keeps _ hk)
  exact .ite (.ite (.next (finishMb_keeps _ _ _ _ (eraseSlotA_keeps _ (hs _))))
    (.ite (.next (finishMb_keeps _ _ _ _ (raise_keeps _ _ _ (hs _))))
      (.next (finishMb_keeps _ _ _ _ (eraseSlotA_keeps _ (hs _)))))) (.next hk)

theorem execFwCommitted_nextKeeps (m : Fin 8) (flashOk : Bool) : NextKeeps s₀ (execFwCommitted m flashOk s) := by
  unfold execFwCommitted
  have he := endFw_keeps _ hk
  have hs := setSlot_keeps 1 (endFw s).summit.slots[0] _ he
  exact .ite (.ite (.next (finishMb_keeps _ _ _ _ (setSlot_keeps _ _ _ (freeBits_keeps _ _ he))))
    (.next (finishMb_keeps _ _ _ _ (raise_keeps _ _ _ (.ite (.lit hs rfl rfl rfl rfl rfl) hs))))) (.next hk)

/-! ### Pods, keys and calibration (02 to 06) -/

theorem execPodPresenceLow_nextKeeps (p : Fin 16) : NextKeeps s₀ (execPodPresenceLow p s) := by
  unfold execPodPresenceLow
  have hm := modPod_keeps p.val (fun q => { q with present := true }) _ hk
  exact .ite (.next (.ite (setPod_keeps _ _ _ hm) hm)) (.next hk)

theorem execPodDebounceDone_nextKeeps (p : Fin 16) (low : Bool) : NextKeeps s₀ (execPodDebounceDone p low s) := by
  unfold execPodDebounceDone
  exact .ite (.next (.ite (.ite (identify_keeps _ _ hk) hk) (modPod_keeps _ _ _ (setPod_keeps _ _ _ hk)))) (.next hk)

theorem execDescriptorReadDone_nextKeeps (p : Fin 16) (desc : List Byte) :
    NextKeeps s₀ (execDescriptorReadDone p desc s) := by
  unfold execDescriptorReadDone
  have hm := modPod_keeps p.val (fun q => { q with desc := some (padTo 256 desc) }) _ hk
  have hr := raise_keeps 5 0 _ (setSupply_keeps p.val _ hm)
  exact .ite (.ite (.next (rejectPod_keeps _ _ _ hm))
    (.next (.ite (startSupply_keeps _ _ hr) (setPod_keeps _ _ _ hr)))) (.next hk)

theorem execDescriptorReadError_nextKeeps (p : Fin 16) : NextKeeps s₀ (execDescriptorReadError p s) := by
  unfold execDescriptorReadError
  have hm := modPod_keeps p.val (fun q => { q with readFails := q.readFails + 1 }) _ hk
  exact .ite (.next (.ite (rejectPod_keeps _ _ _ (modPod_keeps _ _ _ hm)) hm)) (.next hk)

theorem execPodPowerGoodCheck_nextKeeps (p : Fin 16) (mv ma : Nat) :
    NextKeeps s₀ (execPodPowerGoodCheck p mv ma s) := by
  unfold execPodPowerGoodCheck
  have hm := modPod_keeps p.val (fun q => { q with supplyMv := mv, supplyMa := ma }) _ hk
  exact .ite (.next (.ite (reachJoining_keeps _ _ hm) (supplyFault_keeps _ _ hm))) (.next hk)

theorem execPodRemoval_nextKeeps (p : Fin 16) : NextKeeps s₀ (execPodRemoval p s) := by
  unfold execPodRemoval
  split
  · exact .next (modPod_keeps _ _ _ hk)
  · exact .next hk
  · exact .next (raise_keeps _ _ _ (emptyPort_keeps _ _ (dropPod_keeps _ _ _ hk)))

theorem execTelemPeriod_nextKeeps : NextKeeps s₀ (execTelemPeriod s) := by
  unfold execTelemPeriod
  exact .ite (.next (.lit hk rfl rfl rfl rfl rfl)) (.next hk)

theorem execTelemReadDone_nextKeeps (p : Fin 16) (temp : Option (BitVec 16)) :
    NextKeeps s₀ (execTelemReadDone p temp s) := by
  cases temp with
  | none => exact .next (.ite (telemBad_keeps _ _ hk) hk)
  | some t => exact .next (.ite (telemGood_keeps _ _ _ hk) hk)

theorem execKeyPress_nextKeeps (k : Fin 8) : NextKeeps s₀ (execKeyPress k s) := by
  unfold execKeyPress
  have hr (d : List Byte) (x : Podc) : Keeps s₀ (raiseWith false 15 k.val d { s with podc := x }) :=
    raiseWith_keeps _ _ _ _ _ (.lit hk rfl rfl rfl rfl rfl)
  exact .ite (.next (.lit hk rfl rfl rfl rfl rfl))
    (.ite (.next (.ite (raiseWith_keeps _ _ _ _ _ (hr _ _)) (keyAct_keeps _ _ (hr _ _)))) (.next hk))

theorem execCalSwapStart_nextKeeps (p : Fin 16) : NextKeeps s₀ (execCalSwapStart p s) := by
  unfold execCalSwapStart
  refine .next ?_
  dsimp only
  split
  · exact hk
  · have hm := modCal_keeps p.val (fun c => { c with stepAt := some s.tm.tick }) _ hk
    exact .ite (.ite (modCal_keeps _ _ _ hm) (.ite (nextInput_keeps _ _ _ hm) (.ite hm (modCal_keeps _ _ _ hm)))) hk

theorem execCalShadowDone_nextKeeps (p : Fin 16) (passes : List CalPass) :
    NextKeeps s₀ (execCalShadowDone p passes s) := by
  unfold execCalShadowDone
  refine .next ?_
  dsimp only
  split
  · exact hk
  · have hf (l : List Int) : Keeps s₀ (l.foldl (fun s r => foldResid p.val r s) s) :=
      Keeps.foldl (fun _ _ h => foldResid_keeps _ _ _ h) l hk
    exact .ite hk (.ite (abortSwap_keeps _ _ _ _ (hf _)) (modCal_keeps _ _ _ (hf _)))

theorem execCalSwap_nextKeeps (p : Fin 16) : NextKeeps s₀ (execCalSwap p s) := by
  unfold execCalSwap
  refine .next ?_
  dsimp only
  split
  · exact .ite (nextInput_keeps _ _ _ (modCal_keeps _ _ _ (modInput_keeps _ _ _ hk))) hk
  · exact hk

theorem execCalSwapAbort_nextKeeps (p : Fin 16) : NextKeeps s₀ (execCalSwapAbort p s) := by
  unfold execCalSwapAbort
  refine .next ?_
  split
  · exact .ite (abortSwap_keeps _ _ _ _ hk) hk
  · exact hk

theorem execCalPairDone_nextKeeps (p : Fin 16) (pair : Fin 19) (ok : Bool) (u l : Int) :
    NextKeeps s₀ (execCalPairDone p pair ok u l s) :=
  have hm (f : Cal → Cal) : Keeps s₀ (modCal p.val f s) := modCal_keeps _ _ _ hk
  have hf := failPair_keeps p.val pair.val _ hk
  .next (.ite (.ite (.ite (hm _) hf) (.ite (.ite (hm _) (.ite hf hk)) hk)) hk)

theorem execChAliasWrite_nextKeeps (off : Nat) (v : Word) (be : BitVec 4) :
    NextKeeps s₀ (execChAliasWrite off v be s) := by
  unfold execChAliasWrite
  split
  · exact .next hk
  · exact .next (barWrite_keeps _ _ (fun _ _ h => aliasWrite_keeps _ _ _ _ h) hk)

theorem execChAliasRead_nextKeeps (off : Nat) : NextKeeps s₀ (execChAliasRead off s) := by
  unfold execChAliasRead
  split
  · exact .next hk
  · exact .next (barRead_keeps _ _ _ _ _ (fun _ h => emitOut_keeps _ _ (aliasRead_keeps _ _ _ h)) hk)

/-! ### The ring and retention (08 to 10) -/

theorem execRingRowWrite_nextKeeps : NextKeeps s₀ (execRingRowWrite s) := by
  unfold execRingRowWrite
  refine .next ?_
  split
  · exact hk
  · exact .ite (writeRow_keeps _ _ _ (.lit hk rfl rfl rfl rfl rfl)) hk

theorem execRingRateEval_nextKeeps : NextKeeps s₀ (execRingRateEval s) :=
  have hr (r : Ring) (h : r.mem = s.ring.mem) : Keeps s₀ { s with ring := r } := .lit hk rfl h rfl rfl rfl
  .next (.ite (sendLtr_keeps _ (hr _ rfl)) (hr _ rfl))

theorem execRingScrubRead_nextKeeps (line : Nat) (err : EccErr) : NextKeeps s₀ (execRingScrubRead line err s) := by
  unfold execRingScrubRead
  have hr : Keeps s₀ { s with ring := { s.ring with scrubPos := line + 1 } } := .lit hk rfl rfl rfl rfl rfl
  have hc := correctedLine_keeps _ line hr
  refine .ite (.next ?_) (.next hk)
  dsimp only
  split
  · exact badLine_keeps _ _ hr
  · exact badLine_keeps _ _ hr
  · exact .lit hc rfl rfl rfl rfl rfl
  · exact .lit hc rfl rfl rfl rfl rfl
  · exact hr

theorem execRingCeInterval_nextKeeps : NextKeeps s₀ (execRingCeInterval s) := by
  unfold execRingCeInterval
  have hr (r : Ring) (h : r.mem = s.ring.mem) : Keeps s₀ { s with ring := r } := .lit hk rfl h rfl rfl rfl
  exact .ite (.next hk) (.next (.ite (signal_keeps _ _ _ (hr _ rfl)) (hr _ rfl)))

theorem execRetRowRead_nextKeeps (errs : List (Nat × EccErr)) : NextKeeps s₀ (execRetRowRead errs s) := by
  unfold execRetRowRead
  refine .next ?_
  split
  · exact readRow_keeps _ _ _ hk
  · exact readAgain_keeps _ _ _ hk
  · exact hk

theorem execRetRowEmit_nextKeeps : NextKeeps s₀ (execRetRowEmit s) := by
  unfold execRetRowEmit
  refine .next ?_
  split
  · exact hk
  · exact .ite (emitRow_keeps _ _ _ hk) hk

theorem execEpochBoundary_nextKeeps : NextKeeps s₀ (execEpochBoundary s) := by
  unfold execEpochBoundary
  refine .next ?_
  split
  · exact hk
  · exact .ite (atBoundary_keeps _ _ hk) hk

theorem execIntakeResume_nextKeeps (row : Nat) : NextKeeps s₀ (execIntakeResume row s) := by
  unfold execIntakeResume
  refine .next ?_
  split
  · exact hk
  · exact .ite (startIntake_keeps _ _ hk) hk

theorem execEpochCloseEmit_nextKeeps : NextKeeps s₀ (execEpochCloseEmit s) := by
  unfold execEpochCloseEmit
  refine .next ?_
  split
  · exact .ite (closeEpoch_keeps _ _ _ hk) hk
  · exact hk

theorem execEpochOpenEmit_nextKeeps : NextKeeps s₀ (execEpochOpenEmit s) := by
  unfold execEpochOpenEmit
  refine .next ?_
  split
  · split
    · exact hk
    · exact .ite (actHeld_keeps _ (epochOpened_keeps _
        (.lit (intakeGaps_keeps _ _ _ _ (openEpoch_keeps _ _ _ _ _ hk)) rfl rfl rfl rfl rfl))) hk
  · split
    · exact hk
    · exact .ite (.lit (openEpoch_keeps _ _ _ _ _ hk) rfl rfl rfl rfl rfl) hk
  · exact hk

/-! ### Compression, the queue of extents and the store (10) -/

theorem execCompressFrameIn_nextKeeps : NextKeeps s₀ (execCompressFrameIn s) := by
  unfold execCompressFrameIn
  refine .next ?_
  split
  · exact .ite hk (takeFrame_keeps _ _ _ hk)
  · exact hk

theorem execLaneBlockDone_nextKeeps (lane : Fin 8) (packed : List Byte) :
    NextKeeps s₀ (execLaneBlockDone lane packed s) := by
  unfold execLaneBlockDone
  refine .next ?_
  split
  · exact .ite (storeBlock_keeps _ _ _ _ hk) hk
  · exact hk

theorem execPacketOpen_nextKeeps : NextKeeps s₀ (execPacketOpen s) := by
  unfold execPacketOpen
  refine .next ?_
  split
  · exact .ite (.ite (.lit hk rfl rfl rfl rfl rfl) (riseStall_keeps _ hk)) hk
  · exact hk

theorem execPacketClose_nextKeeps : NextKeeps s₀ (execPacketClose s) := by
  unfold execPacketClose
  refine .next ?_
  split
  · exact hk
  · split
    · exact .ite hk (idleOnceEmpty_keeps _ (issueFlushes_keeps _ (closePacket_keeps _ _ _ hk)))
    · exact hk

theorem execFlushReadCpl_nextKeeps (tag : Nat) (ok poisoned : Bool) :
    NextKeeps s₀ (execFlushReadCpl tag ok poisoned s) := by
  unfold execFlushReadCpl
  refine .next ?_
  split
  · exact hk
  · exact .ite (issueFlushes_keeps _ (meetChunk_keeps _ _ (dropTag_keeps _ _ hk)))
      (badFlush_keeps _ _ _ _ (dropTag_keeps _ _ hk))

theorem execFlushReadTimeout_nextKeeps (tag : Nat) : NextKeeps s₀ (execFlushReadTimeout tag s) := by
  unfold execFlushReadTimeout
  refine .next ?_
  split
  · exact hk
  · exact .ite (flushTimeout_keeps _ _ _ hk) hk

theorem execEqResetDone_nextKeeps : NextKeeps s₀ (execEqResetDone s) :=
  .next (.ite (.lit (Keeps.foldl (fun _ _ h => resetGap_keeps _ _ h) _ hk) rfl rfl rfl rfl rfl) hk)

theorem execPullWindowRead_nextKeeps (off len : Nat) : NextKeeps s₀ (execPullWindowRead off len s) :=
  .next (barRead_keeps _ _ _ _ _ (fun _ h => .ite (emitOut_keeps _ _ h) (emitOut_keeps _ _ (pullBad_keeps _ h))) hk)

theorem execPadInsert_nextKeeps : NextKeeps s₀ (execPadInsert s) := by
  unfold execPadInsert
  refine .next ?_
  split
  · exact .ite (.ite (.ite (closeExtent_keeps _ _ hk) (handPad_keeps _ _ _ hk))
      (.ite (closeBlock_keeps _ hk) (handPad_keeps _ _ _ (closeAhead_keeps _ hk)))) hk
  · exact hk

theorem execExtentOpen_nextKeeps : NextKeeps s₀ (execExtentOpen s) := by
  unfold execExtentOpen
  refine .next ?_
  split
  · refine .ite hk ?_
    split
    · exact .ite (showWaits_keeps _ _ hk) (openExtent_keeps _ _ _ _ hk)
    · exact showWaits_keeps _ _ hk
  · exact hk

theorem execExtCloseDeadline_nextKeeps : NextKeeps s₀ (execExtCloseDeadline s) := by
  unfold execExtCloseDeadline
  refine .next ?_
  split
  · exact .ite (dueClose_keeps _ hk) hk
  · exact hk

theorem execMapSlotWrite_nextKeeps (ok : Bool) : NextKeeps s₀ (execMapSlotWrite ok s) := by
  unfold execMapSlotWrite
  refine .next ?_
  split
  · have he (t : Talus) (h : t.die = s.tal.die) : Keeps s₀ (evalWear { s with tal := t }) :=
      evalWear_keeps _ (.lit hk rfl rfl rfl h rfl)
    have hd (a : Nat) (bs : List Byte) (x : Extent) : Keeps s₀ (slotDone x (dieWrite a bs
        (evalWear { s with tal := { s.tal with mapWrites := (s.tal.mapWrites + 1) % 2 ^ 64 } }))) :=
      slotDone_keeps _ _ (dieWrite_keeps _ _ _ (he _ rfl))
    exact .ite (.ite (.ite (raise_keeps _ _ _ (hd _ _ _)) (hd _ _ _)) (slotFailed_keeps _ _ (he _ rfl))) hk
  · exact hk

theorem execQuietRecordWrite_nextKeeps : NextKeeps s₀ (execQuietRecordWrite s) := by
  unfold execQuietRecordWrite
  refine .next ?_
  split
  · exact .ite (writeRecord_keeps _ _ _ (.lit hk rfl rfl rfl rfl rfl)) hk
  · exact hk

theorem execMapScrubRead_nextKeeps (err : EccErr) : NextKeeps s₀ (execMapScrubRead err s) := by
  unfold execMapScrubRead
  have hs : Keeps s₀ { s with tal := scrubOn s.tal } := .lit hk rfl rfl rfl (scrubOn_die _) rfl
  refine .ite (.next ?_) (.next hk)
  dsimp only
  split
  · exact hs
  · exact .lit hk rfl rfl rfl (scrubOn_die _) rfl
  · exact .ite (slotUncorrectable_keeps _ _ _ hs) (restUncorrectable_keeps _ _ hs)

theorem execTalusRecovery_nextKeeps (ue : List Nat) : NextKeeps s₀ (execTalusRecovery ue s) := by
  unfold execTalusRecovery
  have hr : Keeps s₀ (recordErrors (noteDieUe ue s).tal.dieUe
      { noteDieUe ue s with tal := { (noteDieUe ue s).tal with recovered := true } }) :=
    recordErrors_keeps _ _ (.lit (noteDieUe_keeps _ _ hk) rfl rfl rfl rfl rfl)
  refine .ite (.next ?_) (.next hk)
  dsimp only
  split
  · exact recoverStore_keeps _ _ _ hr
  · exact raise_keeps _ _ _ (.lit hr rfl rfl rfl rfl rfl)

theorem execNvmeCqEntry_nextKeeps (d : Fin 4) (entry : List Byte) : NextKeeps s₀ (execNvmeCqEntry d entry s) :=
  .next (.ite (memWriteTlp_keeps _ _ _ (fun _ h =>
    have hw := scratchWrite_keeps _ _ _ h
    .ite (consumeCq_keeps _ _ _ hw) hw) hk) hk)

theorem execNvmeCmdTimeout_nextKeeps (d : Fin 4) : NextKeeps s₀ (execNvmeCmdTimeout d s) := by
  unfold execNvmeCmdTimeout
  refine .next ?_
  split
  · exact .ite (issueFlushes_keeps _ (driveFails_keeps _ _ _ _ (freeBits_keeps _ _ hk))) hk
  · exact hk

theorem execRecWindowRead_nextKeeps (off len : Nat) : NextKeeps s₀ (execRecWindowRead off len s) := by
  refine .next (barRead_keeps _ _ _ _ _ (fun x h => ?_) hk)
  split
  · exact emitOut_keeps _ _ h
  · exact emitOut_keeps _ _ (recBad_keeps _ h)

/-! ### Seals, memories and the device (10, 15, 17) -/

theorem execSealStart_nextKeeps : NextKeeps s₀ (execSealStart s) := by
  unfold execSealStart
  refine .next ?_
  split
  · exact hk
  · exact .ite (.ite (startSeal_keeps _ _ hk) (completeSeals_keeps _ _ _ (.lit hk rfl rfl rfl rfl rfl))) hk

theorem execAttestDone_nextKeeps (m : Fin 8) : NextKeeps s₀ (execAttestDone m s) := by
  unfold execAttestDone
  refine .next ?_
  split
  · refine .ite ?_ hk
    split
    · exact finishAttest_keeps _ _ _ hk
    · exact startAttest_keeps _ hk
  · exact hk

theorem execSealSignDone_nextKeeps : NextKeeps s₀ (execSealSignDone s) := by
  unfold execSealSignDone
  refine .next ?_
  split
  · exact .ite (startAttest_keeps _ (.ite (emitSeal_keeps _ _ hk) (dropSeal_keeps _ _ hk))) hk
  · exact hk

theorem execSealIndexWrite_nextKeeps (ok : Bool) : NextKeeps s₀ (execSealIndexWrite ok s) := by
  unfold execSealIndexWrite
  refine .next ?_
  split
  · exact hk
  · exact .ite (dropEntry_keeps _ _ (dieWrite_keeps _ _ _ hk)) (.ite (.lit hk rfl rfl rfl rfl rfl)
      (dropEntry_keeps _ _ (raise_keeps _ _ _ (signal_keeps _ _ _ (dieWrite_keeps _ _ _ (freeBytes_keeps _ _ hk))))))

theorem execKeccakSelftest_nextKeeps (bad : List (Fin 12)) : NextKeeps s₀ (execKeccakSelftest bad s) :=
  .next (.ite (Keeps.foldl (fun _ _ h => fenceCore_keeps _ _ h) _ (.lit hk rfl rfl rfl rfl rfl)) hk)

theorem execSramCeInterval_nextKeeps : NextKeeps s₀ (execSramCeInterval s) := by
  unfold execSramCeInterval
  have hm (x : MemInt) : Keeps s₀ { s with mem := x } := .lit hk rfl rfl rfl rfl rfl
  exact .ite (.next hk) (.next (.ite (signal_keeps _ _ _ (hm _)) (hm _)))

theorem execMarchDone_nextKeeps (m : Fin 8) (fails repaired firstFail us : Nat) :
    NextKeeps s₀ (execMarchDone m fails repaired firstFail us s) := by
  unfold execMarchDone
  refine .next ?_
  split
  · exact .ite (startTested_keeps _ _ _ _ hk) hk
  · refine .ite hk (finishMb_keeps _ _ _ _ ?_)
    have h9 : Keeps s₀ (raise 15 9 { s with mem := { s.mem with march := none } }) :=
      raise_keeps _ _ _ (.lit hk rfl rfl rfl rfl rfl)
    have h10 (c : Prop) [Decidable c] := Keeps.ite (c := c) (raise_keeps 15 10 _ h9) h9
    have h11 (c d : Prop) [Decidable c] [Decidable d] := Keeps.ite (c := d) (raise_keeps 15 11 _ (h10 c)) (h10 c)
    exact .ite (exhausted_keeps _ _ _ (h11 _ _)) (h11 _ _)

theorem execSelftestDone_nextKeeps (m : Fin 8) (failed : Byte) : NextKeeps s₀ (execSelftestDone m failed s) := by
  unfold execSelftestDone
  refine .next ?_
  split
  · exact hk
  · exact finishMb_keeps _ _ _ _ (raise_keeps _ _ _ (selftestFaults_keeps _ _ (.lit hk rfl rfl rfl rfl rfl)))

theorem execScrubPassDone_nextKeeps (mem : Fin 11) (unit : Nat) : NextKeeps s₀ (execScrubPassDone mem unit s) := by
  unfold execScrubPassDone
  refine .next ?_
  split
  · exact hk
  · exact .ite (raise_keeps _ _ _ (scrubFinds_keeps _ _ _ (rewindScrub_keeps _ _ (.lit hk rfl rfl rfl rfl rfl)))) hk

theorem execScrubLate_nextKeeps (mem : Fin 11) : NextKeeps s₀ (execScrubLate mem s) := by
  unfold execScrubLate
  refine .next ?_
  split
  · exact hk
  · exact .ite (raise_keeps _ _ _ (.lit hk rfl rfl rfl rfl rfl)) hk

theorem execSnapComplete_nextKeeps : NextKeeps s₀ (execSnapComplete s) :=
  .next (.ite (.mem hk rfl rfl id id id (fun h => ⟨h.2, rfl⟩) rfl) hk)

theorem execCfgScanPass_nextKeeps (upset : List (Nat × Byte)) : NextKeeps s₀ (execCfgScanPass upset s) :=
  have hc (c : Cfg) : Keeps s₀ { s with cfg := c } := .lit hk rfl rfl rfl rfl rfl
  .next (.ite (hc _) (.ite (.lit (hc _) rfl rfl rfl rfl rfl) (mismatch_keeps _ _ (hc _))))

end

end Sys2Proof.Machine

namespace Sys2Proof.Machine

/-! ### The accesses of a BAR, and the dispatch -/

section
variable {s₀ s : State} (hk : Keeps s₀ s)
include hk

theorem execBar2Read_nextKeeps {off len : Nat} {errs : List (Nat × EccErr)} (h : off + len ≤ 0x1000000000) :
    NextKeeps s₀ (execBar2Read off len errs s) := by
  unfold execBar2Read
  rw [if_neg (show ¬bar2Size < off + len from Nat.not_lt.mpr h)]
  exact .next (barRead_keeps _ _ _ _ _ (fun _ h => emitOut_keeps _ _ (readLines_keeps _ _ _ _ h)) hk)

theorem execBar2Write_nextKeeps {off : Nat} {data : List Byte} (h : off + data.length ≤ 0x1000000000) :
    NextKeeps s₀ (execBar2Write off data s) := by
  unfold execBar2Write
  rw [if_neg (show ¬bar2Size < off + data.length from Nat.not_lt.mpr h)]
  exact .next (memWriteTlp_keeps _ _ _ (fun _ h => raise_keeps _ _ _ (.lit h rfl rfl rfl rfl rfl)) hk)

theorem execBar0Write_nextKeeps {off : Nat} {bytes : List (Option Byte)} (h : off + bytes.length ≤ 0x1000000) :
    NextKeeps s₀ (execBar0Write off bytes s) := by
  unfold execBar0Write
  rw [if_neg (Nat.not_lt.mpr h)]
  exact .next (barWrite_keeps _ _ (fun _ _ h => tlpAccesses_keeps _ _ _ _ h) hk)

theorem execRegAliasWrite_nextKeeps {op : AliasOp} {off : Nat} {v : Word} {be : BitVec 4} (h : off < 0x400000) :
    NextKeeps s₀ (execRegAliasWrite op off v be s) := by
  unfold execRegAliasWrite
  rw [if_neg (Nat.not_le.mpr h)]
  exact .next (barWrite_keeps _ _ (fun _ _ h => aliasAccess_keeps _ _ _ _ _ h) hk)

end

/-- The access a command makes lies within its BAR (REG_ALIAS_WRITE: within the registers); only four commands make one that
may not (log 53). -/
def withinBar : Instr → Prop
  | .bar0Write off bytes => off + bytes.length ≤ 0x1000000
  | .regAliasWrite _ off _ _ => off < 0x400000
  | .bar2Read off len _ => off + len ≤ 0x1000000000
  | .bar2Write off data => off + data.length ≤ 0x1000000000
  | _ => True

/-- Every command within its BAR answers a next state, which keeps what no command changes or spoils. -/
theorem exec_nextKeeps {s₀ s : State} (c : Instr) (hk : Keeps s₀ s) (h : withinBar c) : NextKeeps s₀ (exec c s) := by
  cases c with
  | devInfo m => exact .next (command_keeps _ _ _ _ devInfoCmd_keeps hk)
  | acqStart m => exact .next (command_keeps _ _ _ _ acqStartCmd_keeps hk)
  | epochCommit m => exact .next (command_keeps _ _ _ _ epochCommitCmd_keeps hk)
  | acqStop m => exact .next (command_keeps _ _ _ _ acqStopCmd_keeps hk)
  | epochBoundary => exact execEpochBoundary_nextKeeps hk
  | intakeResume row => exact execIntakeResume_nextKeeps hk row
  | epochCloseEmit => exact execEpochCloseEmit_nextKeeps hk
  | epochOpenEmit => exact execEpochOpenEmit_nextKeeps hk
  | rowEncode => exact .next (.ite (encodeRow_keeps _ hk) hk)
  | ringRowWrite => exact execRingRowWrite_nextKeeps hk
  | ringRateEval => exact execRingRateEval_nextKeeps hk
  | retRowRead errs => exact execRetRowRead_nextKeeps hk errs
  | ringScrubRead line err => exact execRingScrubRead_nextKeeps hk line err
  | ringCeInterval => exact execRingCeInterval_nextKeeps hk
  | bar2Read off len errs => exact execBar2Read_nextKeeps hk h
  | bar2Write off data => exact execBar2Write_nextKeeps hk h
  | ringTagRead wide => exact .next (barRead_keeps _ _ _ _ _ (fun _ h => readRingTag_keeps _ _ h) hk)
  | ringCfg m => exact .next (command_keeps _ _ _ _ ringCfgCmd_keeps hk)
  | podPresenceLow p => exact execPodPresenceLow_nextKeeps hk p
  | podDebounceDone p low => exact execPodDebounceDone_nextKeeps hk p low
  | descriptorReadDone p desc => exact execDescriptorReadDone_nextKeeps hk p desc
  | descriptorReadError p => exact execDescriptorReadError_nextKeeps hk p
  | podPowerGoodCheck p mv ma => exact execPodPowerGoodCheck_nextKeeps hk p mv ma
  | podJoin p => exact .next (joinPod_keeps _ _ hk)
  | podRemoval p => exact execPodRemoval_nextKeeps hk p
  | podSupplyFault p => exact .next (.ite (supplyFault_keeps _ _ hk) hk)
  | podOvervolt p => exact .next (.ite (supplyOvervolt_keeps _ _ hk) hk)
  | podPower m => exact .next (command_keeps _ _ _ _ (podPowerCmd_keeps _) hk)
  | podInfo m reread => exact .next (command_keeps _ _ _ _ (podInfoCmd_keeps _) hk)
  | telemPeriod => exact execTelemPeriod_nextKeeps hk
  | telemReadDone p temp => exact execTelemReadDone_nextKeeps hk p temp
  | keyPress k => exact execKeyPress_nextKeeps hk k
  | keyRelease k => exact .next (.lit hk rfl rfl rfl rfl rfl)
  | comparatorEvent n upper out grid => exact execComparatorEvent_nextKeeps hk n upper out grid
  | calRotationStart p => exact .next (.ite (modCal_keeps _ _ _ hk) hk)
  | calSwapStart p => exact execCalSwapStart_nextKeeps hk p
  | calShadowDone p passes => exact execCalShadowDone_nextKeeps hk p passes
  | calSwap p => exact execCalSwap_nextKeeps hk p
  | calSwapAbort p => exact execCalSwapAbort_nextKeeps hk p
  | calPairDone p pair ok trimU trimL => exact execCalPairDone_nextKeeps hk p pair ok trimU trimL
  | calRun m => exact .next (command_keeps _ _ _ _ calRunCmd_keeps hk)
  | calStatus m => exact .next (command_keeps _ _ _ _ calStatusCmd_keeps hk)
  | chAliasWrite off v be => exact execChAliasWrite_nextKeeps hk off v be
  | chAliasRead off => exact execChAliasRead_nextKeeps hk off
  | trvStep j sample => exact execTrvStep_nextKeeps hk j sample
  | qualTimeout n => exact execQualTimeout_nextKeeps hk n
  | fabTimerExpire t => exact .next (.ite (advance_keeps _ _ hk) hk)
  | counterAtLimit c => exact .next (.ite (advance_keeps _ _ hk) hk)
  | triginHigh x sample => exact execTriginHigh_nextKeeps hk x sample
  | fabCfg m => exact .next (command_keeps _ _ _ _ fabCmd_keeps hk)
  | trvLoad m => exact .next (command_keeps _ _ _ _ loadCmd_keeps hk)
  | trvArm m => exact .next (command_keeps _ _ _ _ (armCmd_keeps _) hk)
  | trvDisarm m => exact .next (command_keeps _ _ _ _ (disarmCmd_keeps _) hk)
  | trvOutCfg m => exact .next (command_keeps _ _ _ _ outCfgCmd_keeps hk)
  | trvArmTarget j => exact execTrvArmTarget_nextKeeps hk j
  | trigoutPulseEnd x => exact .next (.lit hk rfl rfl rfl rfl rfl)
  | retRowEmit => exact execRetRowEmit_nextKeeps hk
  | logFrameDue => exact .next (.ite (.lit hk rfl rfl rfl rfl rfl) hk)
  | retainSet m => exact .next (command_keeps _ _ _ _ retainSetCmd_keeps hk)
  | mark m => exact .next (command_keeps _ _ _ _ markCmd_keeps hk)
  | compressFrameIn => exact execCompressFrameIn_nextKeeps hk
  | blockFlushTimeout => exact .next (.ite (finishExtent_keeps _ (closeBlock_keeps _ hk)) hk)
  | laneBlockDone lane packed => exact execLaneBlockDone_nextKeeps hk lane packed
  | packetOpen => exact execPacketOpen_nextKeeps hk
  | packetClose => exact execPacketClose_nextKeeps hk
  | eqBankSwap => exact .next (.ite (swapBanks_keeps _ hk) hk)
  | exportChunkClose => exact .next (issueFlushes_keeps _ (.ite (nextChunk_keeps _ hk) hk))
  | flushReadCpl tag ok poisoned => exact execFlushReadCpl_nextKeeps hk tag ok poisoned
  | flushReadTimeout tag => exact execFlushReadTimeout_nextKeeps hk tag
  | cplUnexpected tag => exact execCplUnexpected_nextKeeps hk tag
  | tagQuarantineEnd tag => exact .next (.lit hk rfl rfl rfl rfl rfl)
  | eqPointerMismatch => exact .next (comparePointers_keeps _ (.lit hk rfl rfl rfl rfl rfl))
  | eqResetDone => exact execEqResetDone_nextKeeps hk
  | expCfg m => exact .next (command_keeps _ _ _ _ expCfgCmd_keeps hk)
  | pullWindowRead off len => exact execPullWindowRead_nextKeeps hk off len
  | pullWindowWrite off data => exact .next (memWriteTlp_keeps _ _ _ pullBad_keeps hk)
  | expPullRelease v be => exact .next (barWrite_keeps _ _ (fun _ _ h => writePullRelease_keeps _ _ _ h) hk)
  | expDurableAck v be => exact .next (barWrite_keeps _ _ (fun _ _ h => writeDurableAck_keeps _ _ _ h) hk)
  | padInsert => exact execPadInsert_nextKeeps hk
  | extentOpen => exact execExtentOpen_nextKeeps hk
  | extCloseDeadline => exact execExtCloseDeadline_nextKeeps hk
  | mapSlotWrite ok => exact execMapSlotWrite_nextKeeps hk ok
  | quietRecordWrite => exact execQuietRecordWrite_nextKeeps hk
  | talusRecovery ue => exact execTalusRecovery_nextKeeps hk ue
  | talusFormat m => exact .next (command_keeps _ _ _ _ talusFormatCmd_keeps hk)
  | talusWindowSet m => exact .next (command_keeps _ _ _ _ talusWindowCmd_keeps hk)
  | talusDriveAttach m => exact .next (command_keeps _ _ _ _ talusDriveCmd_keeps hk)
  | talusCfg m => exact .next (command_keeps _ _ _ _ talusCfgCmd_keeps hk)
  | talusMapRead m => exact .next (command_keeps _ _ _ _ talusMapReadCmd_keeps hk)
  | nvmeCqEntry d entry => exact execNvmeCqEntry_nextKeeps hk d entry
  | nvmeCmdTimeout d => exact execNvmeCmdTimeout_nextKeeps hk d
  | talusArchivedWrite v be => exact .next (barWrite_keeps _ _ (fun _ _ h => writeArchived_keeps _ _ _ h) hk)
  | talusGeometryLock v be => exact .next (barWrite_keeps _ _ (fun _ _ h => writeGeometry_keeps _ _ _ h) hk)
  | recWindowRead off len => exact execRecWindowRead_nextKeeps hk off len
  | recWindowWrite off data => exact .next (memWriteTlp_keeps _ _ _ recBad_keeps hk)
  | mapScrubRead err => exact execMapScrubRead_nextKeeps hk err
  | sealDue => exact .next (.ite (askSeal_keeps _ _ _ _ hk) hk)
  | sealStart => exact execSealStart_nextKeeps hk
  | sealSignDone => exact execSealSignDone_nextKeeps hk
  | sealDeadline => exact .next (.ite (raise_keeps _ _ _ (signal_keeps _ _ _ (.lit hk rfl rfl rfl rfl rfl))) hk)
  | sealIndexWrite ok => exact execSealIndexWrite_nextKeeps hk ok
  | keccakSelftest fail => exact execKeccakSelftest_nextKeeps hk fail
  | sealCfg m => exact .next (command_keeps _ _ _ _ sealCfgCmd_keeps hk)
  | sealNow m => exact .next (command_keeps _ _ _ _ (sealNowCmd_keeps _) hk)
  | identityGet m => exact .next (command_keeps _ _ _ _ (identityCmd_keeps _) hk)
  | attest m => exact .next (command_keeps _ _ _ _ (attestCmd_keeps _) hk)
  | attestDone m => exact execAttestDone_nextKeeps hk m
  | fwBootVerify a b => exact execFwBootVerify_nextKeeps hk a b
  | timeAIncr v be => exact .next (barWrite_keeps _ _ (fun _ _ h => writeIncrA_keeps _ _ _ h) hk)
  | timeAStep v be => exact .next (barWrite_keeps _ _ (fun _ _ h => writeStepA_keeps _ _ _ _ h) hk)
  | timeAStepApply => exact .next (.ite (tick_keeps _ hk) hk)
  | timeAStepLimit v be => exact .next (barWrite_keeps _ _ (fun _ _ h => writeStepLimit_keeps _ _ _ _ h) hk)
  | timeIntegrity copy1 => exact execTimeIntegrity_nextKeeps hk copy1
  | timeBIncr v be => exact .next (barWrite_keeps _ _ (fun _ _ h => writeIncrB_keeps _ _ _ h) hk)
  | timeBStep v be => exact .next (barWrite_keeps _ _ (fun _ _ h => writeStepB_keeps _ _ _ h) hk)
  | timeBStepApply => exact .next (.ite (tick_keeps _ hk) hk)
  | timeSourceSet m => exact .next (command_keeps _ _ _ _ timeSourceCmd_keeps hk)
  | timeBSourceSwitch => exact .next (reselect_keeps _ hk)
  | timeBRevert => exact execTimeBRevert_nextKeeps hk
  | ppsInEdge e => exact execPpsInEdge_nextKeeps hk e
  | ppsInMissing => exact execPpsInMissing_nextKeeps hk
  | ppsOutStart => exact execPpsOutStart_nextKeeps hk
  | ppsOutEnd => exact execPpsOutEnd_nextKeeps hk
  | encInputChange e a b z => exact execEncInputChange_nextKeeps hk e a b z
  | mainsZcEdge rising => exact execMainsZcEdge_nextKeeps hk rising
  | mainsLost => exact execMainsLost_nextKeeps hk
  | axisCfg m => exact .next (command_keeps _ _ _ _ axisCmd_keeps hk)
  | schArm n => exact .next (barWrite_keeps _ _ (fun _ _ h => writeSchCtrl_keeps _ _ _ _ h) hk)
  | schDisarm n => exact .next (barWrite_keeps _ _ (fun _ _ h => writeSchCtrl_keeps _ _ _ _ h) hk)
  | schSlotReached n => exact .next (dispatchThrough_keeps _ _ (noteAll_keeps _ hk))
  | schActionExecute => exact execSchActionExecute_nextKeeps hk
  | schSf v be => exact .next (barWrite_keeps _ _ (fun _ _ h => writeSf_keeps _ _ _ h) hk)
  | rlPortUp p serial restarts => exact execRlPortUp_nextKeeps hk p serial restarts
  | rlPortDown p => exact execRlPortDown_nextKeeps hk p
  | rlTrainTimeout p => exact execRlTrainTimeout_nextKeeps hk p
  | faultIdleRx p => exact execFaultIdleRx_nextKeeps hk p
  | rlFrameBad r => exact .next (.ite hk (rxBad_keeps _ _ _ hk))
  | timeFrameRx p f => exact execTimeFrameRx_nextKeeps hk p f
  | timeFrameTx p => exact .next (sendLocal_keeps _ _ _ _ hk)
  | rlTimeLoss p => exact execRlTimeLoss_nextKeeps hk p
  | delayReqTx p => exact .next (sendLocal_keeps _ _ _ _ hk)
  | delayReqRx p f => exact .next (rxLocal_keeps _ _ _ _ _ (fun _ _ h => sendLocal_keeps _ _ _ _ h) hk)
  | delayRespRx p f => exact execDelayRespRx_nextKeeps hk p f
  | creditAckRx p f => exact execCreditAckRx_nextKeeps hk p f
  | fireFrameRx p f => exact .next (rxFlood_keeps _ _ _ _ _ (fun _ _ h => applyFire_keeps _ _ _ _ h) hk)
  | armFrameRx p f => exact .next (rxFlood_keeps _ _ _ _ _ (fun _ _ h => chainArm_keeps _ _ _ _ _ h) hk)
  | disarmFrameRx p f => exact .next (rxFlood_keeps _ _ _ _ _ (fun _ _ h => chainDisarm_keeps _ _ h) hk)
  | timedFrameRx p f => exact .next (rxFlood_keeps _ _ _ _ _ (fun _ _ h => applyTimed_keeps _ _ h) hk)
  | rlTimedLaunch p => exact execRlTimedLaunch_nextKeeps hk p
  | rlTimedApply n => exact execRlTimedApply_nextKeeps hk n
  | tunnelReqRx p f => exact execTunnelReqRx_nextKeeps hk p f
  | tunnelRespRx p f => exact execTunnelRespRx_nextKeeps hk p f
  | rlTunnelTimeout m => exact execRlTunnelTimeout_nextKeeps hk m
  | recordFrameRx p f => exact execRecordFrameRx_nextKeeps hk p f
  | discoverRx p f => exact execDiscoverRx_nextKeeps hk p f
  | discoverReplyRx p f => exact execDiscoverReplyRx_nextKeeps hk p f
  | assignRx p f => exact execAssignRx_nextKeeps hk p f
  | rlDiscoverAssign => exact execRlDiscoverAssign_nextKeeps hk
  | rlOriginExpire n => exact execRlOriginExpire_nextKeeps hk n
  | rlDiscover m => exact .next (command_keeps _ _ _ _ (discoverCmd_keeps _) hk)
  | rlPortCfg m => exact .next (command_keeps _ _ _ _ portCfgCmd_keeps hk)
  | rlTunnel m => exact .next (command_keeps _ _ _ _ (tunnelCmd_keeps _) hk)
  | rlTimed m => exact .next (command_keeps _ _ _ _ timedCmd_keeps hk)
  | pllsLocked phErr => exact execPllsLocked_nextKeeps hk phErr
  | pllsUnlocked phErr => exact execPllsUnlocked_nextKeeps hk phErr
  | plllLocked => exact execPlllLocked_nextKeeps hk
  | plllUnlocked => exact execPlllUnlocked_nextKeeps hk
  | dcoRange r => exact execDcoRange_nextKeeps hk r
  | dcoFail => exact execDcoFail_nextKeeps hk
  | refLost src missing avgPpb => exact .next (settleRef_keeps _ (refStops_keeps _ _ _ (.lit hk rfl rfl rfl rfl rfl)))
  | refGood src => exact execRefGood_nextKeeps hk src
  | refQualified dS dL => exact execRefQualified_nextKeeps hk dS dL
  | refPhaseHit dS dL => exact execRefPhaseHit_nextKeeps hk dS dL
  | realignDone => exact execRealignDone_nextKeeps hk
  | pllCfg m => exact .next (command_keeps _ _ _ _ (pllCmd_keeps _) hk)
  | bar0Write off bytes => exact execBar0Write_nextKeeps hk h
  | regAliasWrite op off v be => exact execRegAliasWrite_nextKeeps hk h
  | reg64LowRead off =>
    exact .next (.ite hk (.ite (readReg_keeps _ _ hk) (barRead_keeps _ _ _ _ _ (readReg_keeps _) hk)))
  | cfgUnlock v be => exact .next (barWrite_keeps _ _ (fun _ _ h => writeUnlock_keeps _ _ _ h) hk)
  | cfgLatchRef v be => exact .next (barWrite_keeps _ _ (fun _ _ h => writeCfgCtrl_keeps _ _ _ h) hk)
  | cfgCommit v be => exact .next (barWrite_keeps _ _ (fun _ _ h => writeCfgCtrl_keeps _ _ _ h) hk)
  | cfgOpen v be => exact .next (barWrite_keeps _ _ (fun _ _ h => writeCfgCtrl_keeps _ _ _ h) hk)
  | cfgScanPass upset => exact execCfgScanPass_nextKeeps hk upset
  | devSoftReset v be => exact .next (barWrite_keeps _ _ (fun _ _ h => writeSoftReset_keeps _ _ _ _ h) hk)
  | devReady => exact .next (.ite (.lit hk rfl rfl rfl rfl rfl) hk)
  | snapTake v be => exact .next (barWrite_keeps _ _ (fun _ _ h => writeSnapCtrl_keeps _ _ _ h) hk)
  | snapComplete => exact execSnapComplete_nextKeeps hk
  | evtForce g v be => exact .next (barWrite_keeps _ _ (fun _ _ h => writeEvtForce_keeps _ _ _ _ h) hk)
  | evtClear g v be => exact .next (barWrite_keeps _ _ (fun _ _ h => writeEvtClear_keeps _ _ _ _ _ h) hk)
  | evtEnableWrite g v be => exact .next (barWrite_keeps _ _ (fun _ _ h => setEnable_keeps _ _ _ h) hk)
  | msixSend vec => exact execMsixSend_nextKeeps hk vec
  | scratchpadAccess rid acc => exact .next (inbound_keeps _ _ _ _ _ _ (fun _ _ _ h => scratchStore_keeps _ _ _ h) hk)
  | cwWindowAccess rid k acc => exact .next (inbound_keeps _ _ _ _ _ _ (fun _ _ _ h => cwStore_keeps _ _ _ _ h) hk)
  | pwInboundAccess rid acc => exact .next (inbound_keeps _ _ _ _ _ _ (fun _ _ _ h => scratchStore_keeps _ _ _ h) hk)
  | pwCommit v be => exact .next (barWrite_keeps _ _ (fun _ _ h => writePwCommit_keeps _ _ _ h) hk)
  | pwCommitSwitch => exact execPwCommitSwitch_nextKeeps hk
  | bmeCleared => exact execBmeCleared_nextKeeps hk
  | bmeSet msixEn funcMask tag10 aspmEn link => exact .next (.ite (.lit hk rfl rfl rfl rfl rfl) hk)
  | d3hotEntry => exact .next (.ite (.lit hk rfl rfl rfl rfl rfl) hk)
  | d3hotExit => exact execD3hotExit_nextKeeps hk
  | ltrEnable on maxSnoop maxNoSnoop => exact execLtrEnable_nextKeeps hk on maxSnoop maxNoSnoop
  | aspmL1Entry => exact execAspmL1Entry_nextKeeps hk
  | flr => exact .next (.ite (startFlr_keeps _ _ hk) hk)
  | flrDone => exact execFlrDone_nextKeeps hk
  | linkDown => exact execLinkDown_nextKeeps hk
  | hotReset => exact .next (.ite (startFlr_keeps _ _ hk) hk)
  | linkUp gen width => exact execLinkUp_nextKeeps hk gen width
  | linkChange gen width => exact execLinkChange_nextKeeps hk gen width
  | inboundPoisonedWrite e off => exact execInboundPoisonedWrite_nextKeeps hk e off
  | mbDoorbell m v be =>
    exact .next (barWrite_keeps _ _ (fun _ _ h => writeDoorbell_keeps _ _ _ _ (latchKey_keeps _ _ _ h)) hk)
  | mbCommandStart m => exact execMbCommandStart_nextKeeps hk m
  | cwCfgWrite k v be => exact .next (barWrite_keeps _ _ (fun _ _ h => writeCwCfg_keeps _ _ _ _ h) hk)
  | cwProdWrite k v be => exact .next (barWrite_keeps _ _ (fun _ _ h => writeCwProd_keeps _ _ _ _ h) hk)
  | cwConsWrite k v be => exact .next (barWrite_keeps _ _ (fun _ _ h => writeCwCons_keeps _ _ _ _ h) hk)
  | cwStall k => exact execCwStall_nextKeeps hk k
  | summitLockstep => exact execSummitLockstep_nextKeeps hk
  | summitWatchdog => exact execSummitWatchdog_nextKeeps hk
  | summitReady => exact execSummitReady_nextKeeps hk
  | nop m => exact .next (command_keeps _ _ _ _ nopCmd_keeps hk)
  | fwStage m => exact .next (command_keeps _ _ _ _ (fwStageCmd_keeps _) hk)
  | fwCommit m => exact .next (command_keeps _ _ _ _ (fwCommitCmd_keeps _) hk)
  | fwInfo m => exact .next (command_keeps _ _ _ _ fwInfoCmd_keeps hk)
  | dieTempSample t => exact .next (.ite (judgeTemp_keeps _ _ (.lit hk rfl rfl rfl rfl rfl)) hk)
  | railMonitor l => exact execRailMonitor_nextKeeps hk l
  | extFaultIn => exact execExtFaultIn_nextKeeps hk
  | fltSafeRelease v be => exact .next (barWrite_keeps _ _ (fun _ _ h => writeSafeRelease_keeps _ _ _ _ h) hk)
  | fltHistPop v be => exact .next (barWrite_keeps _ _ (fun _ _ h => writeHistPop_keeps _ _ _ h) hk)
  | fltStatusClear hi v be => exact .next (barWrite_keeps _ _ (fun _ _ h => writeFltStatus_keeps _ _ _ _ h) hk)
  | fltSevWrite n v be => exact .next (barWrite_keeps _ _ (fun _ _ h => writeFltSev_keeps _ _ _ _ _ h) hk)
  | fltCtrlWrite v be => exact .next (barWrite_keeps _ _ (fun _ _ h => writeFltCtrl_keeps _ _ _ _ h) hk)
  | collectorParity => exact execCollectorParity_nextKeeps hk
  | sramEccError mem word unit uncorrectable => exact .next (.ite (sramError_keeps _ _ _ _ _ hk) hk)
  | sramCeInterval => exact execSramCeInterval_nextKeeps hk
  | scrubPassDone mem unit => exact execScrubPassDone_nextKeeps hk mem unit
  | scrubLate mem => exact execScrubLate_nextKeeps hk mem
  | logRead m => exact .next (command_keeps _ _ _ _ logReadCmd_keeps hk)
  | marchRun m => exact .next (command_keeps _ _ _ _ (marchRunCmd_keeps _) hk)
  | devSelftest m => exact .next (command_keeps _ _ _ _ (selftestCmd_keeps _) hk)
  | scrubCfg m => exact .next (command_keeps _ _ _ _ scrubCmd_keeps hk)
  | faultInject m => exact .next (command_keeps _ _ _ _ faultInjectCmd_keeps hk)
  | powerOn => exact .next (.ite hk (afterReset_keeps _ (.lit hk rfl rfl rfl rfl rfl)))
  | coreBrownout => exact .next (.ite (afterReset_keeps _ (.lit hk rfl rfl rfl rfl rfl)) hk)
  | coldReset => exact .next (.lit (afterReset_keeps _ (.lit hk rfl rfl rfl rfl rfl)) rfl rfl rfl rfl rfl)
  | perstAssert => exact .next (.ite hk (afterReset_keeps _ (.lit hk rfl rfl rfl rfl rfl)))
  | perstRelease =>
    exact .next (.ite (.lit (afterReset_keeps _ (.lit hk rfl rfl rfl rfl rfl)) rfl rfl rfl rfl rfl) hk)
  | rlPeerFaultEnd p => exact execRlPeerFaultEnd_nextKeeps hk p
  | trigoutContention x => exact execTrigoutContention_nextKeeps hk x
  | railBackInRange r => exact .next (railFine_keeps _ _ (.lit hk rfl rfl rfl rfl rfl))
  | extFaultInEnd => exact .next (feedExt_keeps _ (.lit hk rfl rfl rfl rfl rfl))
  | marchDone m fails repaired firstFail us => exact execMarchDone_nextKeeps hk m fails repaired firstFail us
  | fwStaged m back flashOk => exact execFwStaged_nextKeeps hk m back flashOk
  | fwCommitted m flashOk => exact execFwCommitted_nextKeeps hk m flashOk
  | selftestDone m failed => exact execSelftestDone_nextKeeps hk m failed

/-- A command beyond its BAR is the fault of an access outside it. -/
theorem exec_outsideBar {c : Instr} (h : ¬withinBar c) (s : State) : ∃ k a, exec c s = .fault (.outsideBar k a) := by
  cases c
  case bar0Write off bytes => exact ⟨0, off, if_pos (Nat.lt_of_not_le h)⟩
  case regAliasWrite op off v be => exact ⟨0, off, if_pos (Nat.le_of_not_lt h)⟩
  case bar2Read off len errs => exact ⟨2, off, if_pos (Nat.lt_of_not_le h)⟩
  case bar2Write off data => exact ⟨2, off, if_pos (Nat.lt_of_not_le h)⟩
  all_goals exact absurd trivial h

/-- Whatever state a command answers keeps what no command changes or spoils. -/
theorem exec_keeps {s₀ s t : State} {c : Instr} (hk : Keeps s₀ s) (h : exec c s = .next t) : Keeps s₀ t := by
  by_cases hb : withinBar c
  · exact (exec_nextKeeps c hk hb).keeps h
  · obtain ⟨k, a, hf⟩ := exec_outsideBar hb s
    cases hf.symm.trans h

/-- The state whose next command has left the queue. -/
def State.fetched (s : State) : State := { s with pending := s.pending.tail }

theorem step_of_pending {c : Instr} {q : List Instr} {s : State} (h : s.pending = c :: q) :
    step s = exec c { s with pending := q } := by
  simp [step, h]

theorem step_of_idle {s : State} (h : s.pending = []) : step s = .next (tick s) := by
  simp [step, h]

/-- What a step keeps: all that a command keeps, of the state whose next command has left the queue. -/
theorem step_keeps {s t : State} (h : step s = .next t) : Keeps s.fetched t := by
  cases hq : s.pending with
  | nil =>
    rw [step_of_idle hq] at h
    cases h
    exact tick_keeps _ ⟨by simp [State.fetched, hq], rfl, id, id⟩
  | cons c q =>
    rw [step_of_pending hq] at h
    have he : s.fetched = { s with pending := q } := by simp [State.fetched, hq]
    exact he ▸ exec_keeps (.refl _) h

/-- Settles O4: a step keeps what the command at the front of the queue keeps, or the tick does. -/
theorem stepKeepsVariant : Obligations.StepKeepsVariant :=
  ⟨fun _ _ hr h => (step_keeps h).raw hr, fun _ _ h => ⟨(step_keeps h).queue, (step_keeps h).variant⟩⟩

/-- Settles O1: step is defined so. -/
theorem stepRunsFront : Obligations.StepRunsFront :=
  ⟨fun _ _ _ => rfl, fun _ _ _ => step_of_pending, fun _ => step_of_idle⟩

end Sys2Proof.Machine

/-! ## What the host reaches (O7) -/

namespace Sys2Proof.Machine

/-- In D3hot a posted write is an Unsupported Request, and it consumes the pending unlock all the same (R477, R540). -/
theorem barWrite_d3hot {act : Nat → State → State} {s : State} (ha : alive s = true) (hd : s.pcie.d3hot = true) :
    barWrite act s = urWrite s.spent := by
  simp [barWrite, ha, hd, takeUnlock, State.spent]

/-- A device in D3hot whose BAR0 holds a pending unlock of class 5. -/
def unlockedInD3hot : State :=
  { State.reset with cfg := { State.reset.cfg with unlock := 5 }, pcie := { State.reset.pcie with d3hot := true } }

/-- Refutes O7: in D3hot a write is not an Unsupported Request alone, for it consumes a pending unlock too (R540).
Which commands complete is said by exec_nextKeeps and exec_outsideBar. -/
theorem not_hostReach : ¬ Obligations.HostReach := by
  rintro ⟨-, h, -⟩
  have hx := (h unlockedInD3hot (.cfgLatchRef 0 0xF) 0 0 0 0 false 0 0xF 0 0 (by simp) (by decide +kernel)
    (by decide +kernel)).1
  have hr : exec (.cfgLatchRef 0 0xF) unlockedInD3hot = .next (urWrite unlockedInD3hot.spent) :=
    congrArg Host.Outcome.next (barWrite_d3hot (by decide +kernel) (by decide +kernel))
  have hu : urWrite unlockedInD3hot.spent = urWrite unlockedInD3hot := Host.Outcome.next.inj (hr.symm.trans hx)
  have h0 : (urWrite unlockedInD3hot.spent).cfg.unlock = 0 := by decide +kernel
  have h5 : (urWrite unlockedInD3hot).cfg.unlock = 5 := by decide +kernel
  rw [hu, h5] at h0
  exact absurd h0 (by decide)

/-! ## Fault injection at a Ridgeline port (O18) -/

/-- The completion of a mailbox command leaves the fault collector as it was. -/
theorem State.completes.flt {m status detail : Nat} {body : List Byte} {s t : State}
    (h : s.completes m status detail body t) : t.flt = s.flt :=
  congrArg (·.flt) h.rest

/-- A device in holdover, F7 not live, whose mailbox 0 runs a FAULT_INJECT that latches F27. -/
def injectingInHoldover : State :=
  modMb 0 (fun q => { q with state := .running, opcode := 0x0903, req := padTo 256 [0, 27] })
    { State.reset with
      flt := { State.reset.flt with on := true }
      pll := { State.reset.pll with s := { State.reset.pll.s with state := .holdover } } }

theorem faultInject_settles_reference {t : State} (h : exec (.faultInject 0) injectingInHoldover = .next t) :
    t.flt.live.getLsbD 7 = true := by
  have ht : command 0 0x0903 faultInjectCmd injectingInHoldover = t := Host.Outcome.next.inj h
  rw [← ht]
  decide +kernel

/-- Refutes O18: the latch of a Ridgeline port's source (F27 to F29) settles the reference as well, so in a holdover F7
goes live, and the response is not that of the state after the latch alone. -/
theorem not_integrityCommands : ¬ Obligations.IntegrityCommands := by
  rintro ⟨-, -, -, -, -, -, -, -, -, -, -, h, -⟩
  obtain ⟨u, t, hu, -, -, -, -, ht, hc⟩ := h injectingInHoldover 0 (by decide +kernel) (by decide +kernel)
    (by decide +kernel) (by decide +kernel) (by decide +kernel) (by decide +kernel) (by decide +kernel)
    (by decide +kernel) (by decide +kernel) (by decide +kernel) (by decide +kernel) (by decide +kernel)
  have h1 : t.flt.live.getLsbD 7 = true := faultInject_settles_reference ht
  have h2 : u.flt.live.getLsbD 7 = false := hu ▸ by decide +kernel
  rw [hc.flt, h2] at h1
  exact absurd h1 (by decide)

end Sys2Proof.Machine

/-! ## BAR0 writes and register aliases (O13) -/

namespace Sys2Proof.Machine

/-! ### The TLP as its accesses -/

theorem execBar0Write_reached {s : State} (h : s.reached = true) {a : Nat} {b : List (Option Byte)}
    (hb : a + b.length ≤ 0x1000000) : exec (.bar0Write a b) s = .next (tlpAccesses a b s.cfg.unlock s.spent) := by
  change execBar0Write a b s = _
  unfold execBar0Write
  rw [if_neg (Nat.not_lt.mpr hb), barWrite_reached h]

theorem execRegAliasWrite_reached {s : State} (h : s.reached = true) (op : AliasOp) {a : Nat} (v : Word) (be : BitVec 4)
    (ha : a < 0x400000) : exec (.regAliasWrite op a v be) s = .next (aliasAccess op (a / 4 * 4) v be s.spent) := by
  change execRegAliasWrite op a v be s = _
  unfold execRegAliasWrite
  rw [if_neg (Nat.not_le.mpr ha), barWrite_reached h]

/-- A TLP within one DWORD is one access. -/
theorem tlpAccesses_one {a : Nat} {b : List (Option Byte)} (hb : (a + b.length + 3) / 4 = a / 4 + 1) (cls : Nat)
    (s : State) : tlpAccesses a b cls s = tlpAccess a b (4 * (a / 4)) cls s := by
  have hn : (a + b.length + 3) / 4 - a / 4 = 1 := by omega
  simp [tlpAccesses, hn]

/-- An aligned TLP of eight bytes is two accesses, of which the first has the class of the unlock. -/
theorem tlpAccesses_two {a : Nat} (ha : a % 4 = 0) {b : List (Option Byte)} (hb : b.length = 8) (cls : Nat) (s : State) :
    tlpAccesses a b cls s = tlpAccess a b (a + 4) 0 (tlpAccess a b a cls s) := by
  have hn : (a + 8 + 3) / 4 - a / 4 = 2 := by omega
  have h0 : 4 * (a / 4) = a := by omega
  have h1 : 4 * (a / 4 + 1) = a + 4 := by omega
  simp [tlpAccesses, hb, hn, List.range_succ, h0, h1]

/-! ### The bytes of an access -/

theorem ofNat_leNat_four (b0 b1 b2 b3 : Byte) : BitVec.ofNat 32 (leNat [b0, b1, b2, b3]) = b3 ++ b2 ++ b1 ++ b0 := by
  have h0 := b0.isLt
  have h1 := b1.isLt
  have h2 := b2.isLt
  have h3 := b3.isLt
  apply BitVec.eq_of_toNat_eq
  rw [BitVec.toNat_append, BitVec.toNat_append, BitVec.toNat_append, ← Nat.shiftLeft_add_eq_or_of_lt h2,
    ← Nat.shiftLeft_add_eq_or_of_lt h1, ← Nat.shiftLeft_add_eq_or_of_lt h0]
  simp only [leNat, BitVec.toNat_ofNat, Nat.shiftLeft_eq]
  omega

theorem tlpByte_of_le {off a : Nat} (h : off ≤ a) (b : List (Option Byte)) : tlpByte off b a = b.getD (a - off) none :=
  if_neg (Nat.not_lt.mpr h)

/-- Every byte of a TLP is enabled. -/
theorem maskWhere_map_some (b : List Byte) :
    maskWhere (fun x : Option Byte => x.isSome) (b.map some) = maskOf (List.range b.length) := by
  unfold maskWhere
  rw [List.length_map, List.filter_eq_self.mpr]
  intro i hi
  simp [List.mem_range.mp hi]

/-- The bytes of a TLP from its own start are its list. -/
theorem tlpField_map_some (a : Nat) (b : List Byte) :
    tlpField a (b.map some) a b.length = (leNat b, maskOf (List.range b.length)) := by
  have hl : ((List.range b.length).map fun i => tlpByte a (b.map some) (a + i)) = b.map some := by
    apply List.ext_getElem
    · simp
    · intro i _ hi
      simp only [List.length_map] at hi
      simp [tlpByte_of_le (Nat.le_add_right a i), hi]
  unfold tlpField
  dsimp only
  rw [hl, maskWhere_map_some]
  simp

theorem maskOf_range_four : maskOf (List.range 4) = 0xF := by decide

theorem maskOf_range_eight : maskOf (List.range 8) = 0xFF := by decide

theorem tlpField_dword (a : Nat) (b0 b1 b2 b3 : Byte) :
    tlpField a [some b0, some b1, some b2, some b3] a 4 = (leNat [b0, b1, b2, b3], 0xF) :=
  (tlpField_map_some a [b0, b1, b2, b3]).trans (congrArg _ maskOf_range_four)

theorem tlpField_qword (a : Nat) {b : List Byte} (hb : b.length = 8) : tlpField a (b.map some) a 8 = (leNat b, 0xFF) := by
  have h := tlpField_map_some a b
  rw [hb] at h
  exact h.trans (congrArg _ maskOf_range_eight)

/-! ### One access -/

/-! Which offsets of a block are 64-bit registers does not depend on the state. -/

theorem fltWide_isSome (o : Nat) (s t : State) : (fltWide o s).isSome = (fltWide o t).isSome := by
  unfold fltWide
  split <;> simp only [Option.isSome_some, Option.isSome_none]

theorem timeWide_isSome (o : Nat) (s t : State) : (timeWide o s).isSome = (timeWide o t).isSome := by
  unfold timeWide
  split <;> simp only [Option.isSome_some, Option.isSome_none]

theorem expWide_isSome (o : Nat) (s t : State) : (expWide o s).isSome = (expWide o t).isSome := by
  unfold expWide
  split <;> simp only [Option.isSome_some, Option.isSome_none]

theorem ringWide_isSome (o : Nat) (s t : State) : (ringWide o s).isSome = (ringWide o t).isSome := by
  unfold ringWide
  split <;> simp only [Option.isSome_some, Option.isSome_none]

theorem retWide_isSome (o : Nat) (s t : State) : (retWide o s).isSome = (retWide o t).isSome := by
  unfold retWide
  split <;> simp only [Option.isSome_some, Option.isSome_none]

theorem talWide_isSome (o : Nat) (s t : State) : (talWide o s).isSome = (talWide o t).isSome := by
  unfold talWide
  split <;> simp only [Option.isSome_some, Option.isSome_none]

theorem sealWide_isSome (o : Nat) (s t : State) : (sealWide o s).isSome = (sealWide o t).isSome := by
  unfold sealWide
  generalize s.dev.variant.sealer = x
  generalize t.dev.variant.sealer = y
  dsimp only
  split <;> simp only [Option.isSome_some, Option.isSome_none]

theorem trvWide_isSome (o : Nat) (s t : State) : (trvWide o s).isSome = (trvWide o t).isSome := by
  unfold trvWide
  split <;> simp only [Option.isSome_some]

theorem rlWide_isSome (o : Nat) (s t : State) : (rlWide o s).isSome = (rlWide o t).isSome := by
  unfold rlWide
  split <;> simp only [Option.isSome_some]

theorem schWide_isSome (o : Nat) (s t : State) : (schWide o s).isSome = (schWide o t).isSome := by
  unfold schWide
  split
  · split <;> simp only [Option.isSome_some]
  · split <;> simp only [Option.isSome_some]

theorem fabWide_isSome (o : Nat) (s t : State) : (fabWide o s).isSome = (fabWide o t).isSome := by
  unfold fabWide
  split
  · simp only [Option.isSome_some]
  · split <;> simp only [Option.isSome_some]

/-- Which offsets are 64-bit registers does not depend on the state. -/
theorem wideReg_isSome (off : Nat) (s t : State) : (wideReg off s).isSome = (wideReg off t).isSome := by
  unfold wideReg
  split
  · exact fltWide_isSome _ s t
  · exact timeWide_isSome _ s t
  · exact schWide_isSome _ s t
  · exact expWide_isSome _ s t
  · exact trvWide_isSome _ s t
  · exact ringWide_isSome _ s t
  · exact fabWide_isSome _ s t
  · exact retWide_isSome _ s t
  · exact talWide_isSome _ s t
  · exact sealWide_isSome _ s t
  · exact rlWide_isSome _ s t
  · dsimp only
    split <;> simp only [Option.isSome_some]
  · rfl

/-- An aligned TLP of one DWORD of a 32-bit register below the MSI-X table is one full access of it. -/
theorem tlpAccess_dword {a : Nat} (ha : a < 0x20000) (b0 b1 b2 b3 : Byte) (cls : Nat) {s : State}
    (hw : wideReg (a / 8 * 8) s = none) :
    tlpAccess a [some b0, some b1, some b2, some b3] a cls s = writeReg a (b3 ++ b2 ++ b1 ++ b0) 0xF#4 cls s := by
  have h1 : ¬0x400000 ≤ a := by omega
  have h2 : ¬(0x20000 ≤ a ∧ a < 0x20400) := by omega
  have h3 : ¬(wideReg (a / 8 * 8) s).isSome = true := by simp [hw]
  unfold tlpAccess
  dsimp only
  rw [if_neg h1, if_neg h2, if_neg h3, tlpField_dword, if_neg (show ¬0xF = 0 by decide), ofNat_leNat_four]

/-- The first access of an aligned TLP of eight bytes to a 64-bit register is one access of the whole register. -/
theorem tlpAccess_qword_low {a : Nat} (ha : a < 0x20000) (h8 : a % 8 = 0) {b : List Byte} (hb : b.length = 8) (cls : Nat)
    {s : State} (hw : (wideReg a s).isSome = true) :
    tlpAccess a (b.map some) a cls s = writeWide a (BitVec.ofNat 64 (leNat b)) 0xFF#8 cls s := by
  have h1 : ¬0x400000 ≤ a := by omega
  have h2 : ¬(0x20000 ≤ a ∧ a < 0x20400) := by omega
  have h3 : a / 8 * 8 = a := by omega
  have hin : a ≤ a ∧ a + 8 ≤ a + (b.map some).length := by simp [hb]
  unfold tlpAccess
  dsimp only
  rw [h3, if_neg h1, if_neg h2, if_pos hw, if_pos hin, tlpField_qword a hb, if_pos ⟨rfl, show 0xFF ≠ 0 by decide⟩]

/-- Its second access is part of that one. -/
theorem tlpAccess_qword_high {a : Nat} (ha : a < 0x20000) (h8 : a % 8 = 0) {b : List Byte} (hb : b.length = 8) (cls : Nat)
    {s : State} (hw : (wideReg a s).isSome = true) : tlpAccess a (b.map some) (a + 4) cls s = s := by
  have h1 : ¬0x400000 ≤ a + 4 := by omega
  have h2 : ¬(0x20000 ≤ a + 4 ∧ a + 4 < 0x20400) := by omega
  have h3 : (a + 4) / 8 * 8 = a := by omega
  have hin : a ≤ a ∧ a + 8 ≤ a + (b.map some).length := by simp [hb]
  unfold tlpAccess
  dsimp only
  rw [h3, if_neg h1, if_neg h2, if_pos hw, if_pos hin, if_neg (by omega)]

/-- An aligned TLP of one DWORD acts as one full access of its 32-bit register. -/
theorem bar0Write_dword {s : State} (h : s.reached = true) {a : Nat} (h4 : a % 4 = 0) (ha : a < 0x20000)
    (hw : wideReg (a / 8 * 8) s.spent = none) (b0 b1 b2 b3 : Byte) :
    exec (.bar0Write a [some b0, some b1, some b2, some b3]) s =
      .next (writeReg a (b3 ++ b2 ++ b1 ++ b0) 0xF#4 s.cfg.unlock s.spent) := by
  have hn : 4 * (a / 4) = a := by omega
  rw [execBar0Write_reached h (show a + 4 ≤ _ by omega),
    tlpAccesses_one (show (a + 4 + 3) / 4 = a / 4 + 1 by omega), hn, tlpAccess_dword ha _ _ _ _ _ hw]

/-- An aligned TLP of eight bytes acts as one access of its 64-bit register. -/
theorem bar0Write_qword {s : State} (h : s.reached = true) {a : Nat} (h8 : a % 8 = 0) (ha : a < 0x20000)
    {b : List Byte} (hb : b.length = 8) (hw : (wideReg a s.spent).isSome = true) :
    exec (.bar0Write a (b.map some)) s =
      .next (writeWide a (BitVec.ofNat 64 (leNat b)) 0xFF#8 s.cfg.unlock s.spent) := by
  have hl : (b.map some).length = 8 := by simpa using hb
  rw [execBar0Write_reached h (by omega), tlpAccesses_two (by omega) hl, tlpAccess_qword_low ha h8 hb _ hw,
    tlpAccess_qword_high ha h8 hb _ (by rwa [wideReg_isSome a _ s.spent])]

/-! ### DEV_SCRATCH, the read-only registers and the aliases -/

theorem beMask_full : beMask 0xF#4 = BitVec.allOnes 32 := by decide

theorem mergeInto_full (v old : Word) : mergeInto v 0xF#4 old = v := by
  rw [mergeInto, beMask_full, BitVec.not_allOnes, BitVec.and_zero, BitVec.zero_or, BitVec.and_allOnes]

/-- DEV_SCRATCH is a plain register of the device block. -/
theorem writeReg_scratch (v : Word) (be : BitVec 4) (cls : Nat) (s : State) :
    writeReg 0x18 v be cls s = { s with dev := { s.dev with scratch := mergeInto v be s.dev.scratch } } := rfl

theorem rwModify_scratch (f : Word → Word) (s : State) :
    rwModify 0x18 f s = { s with dev := { s.dev with scratch := f s.dev.scratch } } := rfl

/-- A write to a read-only register, full width, changes nothing (R533). -/
theorem writeReg_readOnly {a : Nat} (ha : a ∈ [0x0, 0x4, 0x8, 0x10, 0x14, 0x1C, 0x1008, 0x1010, 0x1014, 0x101C, 0x1020,
    0x3200, 0xD034, 0x11020]) (v : Word) (be : BitVec 4) (cls : Nat) (s : State) : writeReg a v be cls s = s := by
  simp only [List.mem_cons, List.not_mem_nil, or_false] at ha
  rcases ha with rfl | rfl | rfl | rfl | rfl | rfl | rfl | rfl | rfl | rfl | rfl | rfl | rfl | rfl <;> rfl

theorem aliasAccess_scratch (op : AliasOp) (v : Word) (s : State) :
    aliasAccess op 0x18 v 0xF#4 s = { s with dev := { s.dev with scratch := aliasOn op v s.dev.scratch } } := by
  have hv : v &&& beMask 0xF#4 = v := by rw [beMask_full, BitVec.and_allOnes]
  change rwModify 0x18 (aliasOn op (v &&& beMask 0xF#4)) s = _
  rw [hv, rwModify_scratch]

/-- REG_ALIAS_WRITE of a special 32-bit register is refused when narrow (R538). -/
theorem aliasAccess_narrow {op : AliasOp} {a : Nat} {v : Word} {be : BitVec 4} {s : State} (ha : a < 0x20000)
    (hw : wideReg (a / 8 * 8) s = none) (hs : isSpecial a = true) (hb : be ≠ 0xF#4) :
    aliasAccess op a v be s = refuseWidth a v be s := by
  have h1 : ¬(0x20000 ≤ a ∧ a < 0x22000) := by omega
  simp [aliasAccess, h1, hw, hs, fullWidth, hb]

/-- A TLP of one byte at byte 2 of a DWORD enables that byte alone. -/
theorem tlpField_byte_two (b : Byte) : tlpField 0x1A [some b] 0x18 4 = (leNat [0, 0, b, 0], 0x4) := by
  have hl : ((List.range 4).map fun i => tlpByte 0x1A [some b] (0x18 + i)) = [none, none, some b, none] := rfl
  have hm : maskWhere (fun x : Option Byte => x.isSome) [none, none, some b, none] = 0x4 := by
    simp [maskWhere, maskOf, List.range_succ]
  unfold tlpField
  dsimp only
  rw [hl, hm]
  rfl

/-- A TLP of one byte of DEV_SCRATCH is an access of it with that byte enabled. -/
theorem tlpAccess_scratch_byte (b : Byte) (cls : Nat) (s : State) :
    tlpAccess 0x1A [some b] 0x18 cls s = writeReg 0x18 (0#8 ++ b ++ 0#8 ++ 0#8) 0x4#4 cls s := by
  have h1 : ¬0x400000 ≤ 0x18 := by decide
  have h2 : ¬(0x20000 ≤ 0x18 ∧ 0x18 < 0x20400) := by decide
  have h3 : ¬(wideReg (0x18 / 8 * 8) s).isSome = true := Bool.false_ne_true
  unfold tlpAccess
  dsimp only
  rw [if_neg h1, if_neg h2, if_neg h3, tlpField_byte_two, if_neg (show ¬0x4 = 0 by decide), ofNat_leNat_four]
  rfl

/-- An aligned DWORD above the registers is one full access of the 32-bit register it stands for. -/
theorem tlpAccess_alias_dword {a : Nat} (ha : 0x400000 ≤ a) (b0 b1 b2 b3 : Byte) (cls : Nat) {s : State}
    (hw : wideReg (a % 0x400000 / 8 * 8) s = none) :
    tlpAccess a [some b0, some b1, some b2, some b3] a cls s =
      aliasAccess (if a < 0x800000 then .set else if a < 0xC00000 then .clear else .toggle) (a % 0x400000)
        (b3 ++ b2 ++ b1 ++ b0) 0xF#4 s := by
  have h : ∀ p : Prop, ¬((wideReg (a % 0x400000 / 8 * 8) s).isSome = true ∧ p) := by simp [hw]
  unfold tlpAccess
  dsimp only
  rw [if_pos ha, if_neg (h _), tlpField_dword, if_neg (show ¬0xF = 0 by decide), ofNat_leNat_four]

theorem beMask_byte_two : ∀ i < 32, (beMask 0x4#4).getLsbD i = decide (16 ≤ i ∧ i < 24) := by decide

/-- Bits 16 to 23 of a DWORD are those of its byte 2. -/
theorem getLsbD_byte_two (b : Byte) {i : Nat} (hi : 16 ≤ i ∧ i < 24) :
    (0#8 ++ b ++ 0#8 ++ 0#8 : Word).getLsbD i = b.getLsbD (i - 16) := by
  have h1 : ¬i < 8 := by omega
  have h2 : ¬i - 8 < 8 := by omega
  have h3 : i - 8 - 8 < 8 := by omega
  have h4 : i - 8 - 8 = i - 16 := by omega
  rw [BitVec.getLsbD_append, if_neg h1, BitVec.getLsbD_append, if_neg h2, BitVec.getLsbD_append, if_pos h3, h4]

/-- A write with byte 2 alone enabled changes bits 16 to 23. -/
theorem mergeInto_byte_two (b : Byte) (old : Word) {i : Nat} (hi : i < 32) :
    (mergeInto (0#8 ++ b ++ 0#8 ++ 0#8) 0x4#4 old).getLsbD i =
      if 16 ≤ i ∧ i < 24 then b.getLsbD (i - 16) else old.getLsbD i := by
  simp only [mergeInto, BitVec.getLsbD_or, BitVec.getLsbD_and, BitVec.getLsbD_not, beMask_byte_two i hi]
  by_cases h : 16 ≤ i ∧ i < 24
  · simp only [getLsbD_byte_two b h, h, and_self, decide_true, Bool.not_true, Bool.and_false, Bool.false_or,
      Bool.and_true, if_true]
  · simp [h, hi]

/-! ### The obligation -/

theorem bar0Write_scratch {s : State} (h : s.reached = true) (b0 b1 b2 b3 : Byte) :
    exec (.bar0Write 0x18 [some b0, some b1, some b2, some b3]) s =
      .next { s.spent with dev := { s.dev with scratch := b3 ++ b2 ++ b1 ++ b0 } } := by
  rw [bar0Write_dword h (by decide) (by decide) rfl, writeReg_scratch, mergeInto_full]
  rfl

theorem bar0Write_scratch_byte {s : State} (h : s.reached = true) (b : Byte) :
    exec (.bar0Write 0x1A [some b]) s =
      .next { s.spent with dev := { s.dev with scratch := mergeInto (0#8 ++ b ++ 0#8 ++ 0#8) 0x4#4 s.dev.scratch } } := by
  rw [execBar0Write_reached h (show 0x1A + 1 ≤ 0x1000000 by decide),
    tlpAccesses_one (show (0x1A + 1 + 3) / 4 = 0x1A / 4 + 1 by decide)]
  exact congrArg _ (tlpAccess_scratch_byte b s.cfg.unlock s.spent)

theorem bar0Write_readOnly {s : State} (h : s.reached = true) {a : Nat} (ha : a ∈ [0x0, 0x4, 0x8, 0x10, 0x14, 0x1C,
    0x1008, 0x1010, 0x1014, 0x101C, 0x1020, 0x3200, 0xD034, 0x11020]) (b0 b1 b2 b3 : Byte) :
    exec (.bar0Write a [some b0, some b1, some b2, some b3]) s = .next s.spent := by
  have hp : a % 4 = 0 ∧ a < 0x20000 ∧ wideReg (a / 8 * 8) s.spent = none := by
    simp only [List.mem_cons, List.not_mem_nil, or_false] at ha
    rcases ha with rfl | rfl | rfl | rfl | rfl | rfl | rfl | rfl | rfl | rfl | rfl | rfl | rfl | rfl <;>
      exact ⟨by decide, by decide, rfl⟩
  obtain ⟨h4, hlt, hw⟩ := hp
  rw [bar0Write_dword h h4 hlt hw, writeReg_readOnly ha]

theorem regAliasWrite_scratch {s : State} (h : s.reached = true) (op : AliasOp) (v : Word) :
    exec (.regAliasWrite op 0x18 v 0xF#4) s =
      .next { s.spent with dev := { s.dev with scratch := aliasOn op v s.dev.scratch } } := by
  rw [execRegAliasWrite_reached h _ _ _ (by decide)]
  exact congrArg _ (aliasAccess_scratch op v s.spent)

/-- A DWORD written above the registers at DEV_SCRATCH is the REG_ALIAS_WRITE of that value. -/
theorem bar0Write_alias_scratch {s : State} (h : s.reached = true) {a : Nat} (ha : 0x400000 ≤ a)
    (ha' : a < 0x1000000) (h18 : a % 0x400000 = 0x18) (b0 b1 b2 b3 : Byte) :
    exec (.bar0Write a [some b0, some b1, some b2, some b3]) s =
      exec (.regAliasWrite (if a < 0x800000 then .set else if a < 0xC00000 then .clear else .toggle) 0x18
        (b3 ++ b2 ++ b1 ++ b0) 0xF#4) s := by
  have hn : 4 * (a / 4) = a := by omega
  have hw : wideReg (a % 0x400000 / 8 * 8) s.spent = none := by rw [h18]; rfl
  rw [execRegAliasWrite_reached h _ _ _ (show 0x18 < 0x400000 by decide),
    execBar0Write_reached h (show a + 4 ≤ 0x1000000 by omega),
    tlpAccesses_one (show (a + 4 + 3) / 4 = a / 4 + 1 by omega), hn, tlpAccess_alias_dword ha _ _ _ _ _ hw, h18]

theorem regAliasWrite_narrow {s : State} (h : s.reached = true) (op : AliasOp) {a : Nat} (v : Word) {be : BitVec 4}
    (h4 : a % 4 = 0) (ha : a < 0x20000) (hw : wideReg (a / 8 * 8) s.spent = none) (hs : isSpecial a = true)
    (hb : be ≠ 0xF#4) : exec (.regAliasWrite op a v be) s = .next (refuseWidth a v be s.spent) := by
  have hn : a / 4 * 4 = a := by omega
  rw [execRegAliasWrite_reached h _ _ _ (by omega), hn, aliasAccess_narrow ha hw hs hb]

/-- Settles O13, clause by clause: a TLP as its accesses, the bytes of DEV_SCRATCH, and the aliases. -/
theorem registerWrites : Obligations.RegisterWrites :=
  ⟨fun _ b0 b1 b2 b3 h => bar0Write_scratch h b0 b1 b2 b3,
   fun s b h => ⟨_, bar0Write_scratch_byte h b, rfl, fun _ hi => mergeInto_byte_two b s.dev.scratch hi⟩,
   fun _ _ b0 b1 b2 b3 h h4 ha hw => bar0Write_dword h h4 ha hw b0 b1 b2 b3,
   fun _ _ _ _ h h8 ha hb hw => bar0Write_qword h h8 ha hb (by rw [hw]; rfl),
   fun _ _ b0 b1 b2 b3 h ha => bar0Write_readOnly h ha b0 b1 b2 b3,
   fun _ _ _ h hb => execBar0Write_reached h hb,
   fun _ _ _ hb => if_pos hb,
   fun _ v h => ⟨regAliasWrite_scratch h .set v, regAliasWrite_scratch h .clear v, regAliasWrite_scratch h .toggle v⟩,
   fun _ b0 b1 b2 b3 h =>
    ⟨bar0Write_alias_scratch h (by decide) (by decide) rfl b0 b1 b2 b3,
     bar0Write_alias_scratch h (by decide) (by decide) rfl b0 b1 b2 b3⟩,
   fun _ op _ v be h h4 ha hw hs hb =>
    ⟨_, regAliasWrite_narrow h op v h4 ha hw hs hb, raises_refuseWidth _ v be _⟩,
   fun _ op _ v be h ha => execRegAliasWrite_reached h op v be ha,
   fun _ _ _ _ _ ha => if_pos ha⟩

end Sys2Proof.Machine

/-! ## The architecture family: the memories, reset, the endpoint, the ring and the acquisition commands

## Every step keeps the memories in their canonical form (O3) -/

namespace Sys2Proof.Machine

/-- Settles O3: what a step keeps (`step_keeps`) holds the canonical form, and fetching a command touches no memory. -/
theorem stepKeepsMemories : Obligations.StepKeepsMemories :=
  fun _ _ hs h => (step_keeps h).memories hs

end Sys2Proof.Machine

/-! ## The state after reset (O2) -/

namespace Sys2Proof.Machine

theorem tabGet_replicate {n : Nat} {α : Type} {i : Nat} (h : i < n) (a d : α) :
    tabGet (Vector.replicate n a) i d = a := by
  simp [tabGet, h]

theorem tabGet_ofFn {n : Nat} {α : Type} (f : Fin n → α) {i : Nat} (h : i < n) (d : α) :
    tabGet (Vector.ofFn f) i d = f ⟨i, h⟩ := by
  simp [tabGet, h]

theorem resetOf_rawExists (v : Variant) : (State.resetOf v).rawExists = true :=
  rawExists_iff.mpr fun g hg b _ h => by
    rw [show tabGet (State.resetOf v).evt.raw g 0 = 0 from tabGet_replicate hg _ _] at h
    simp at h

/-- Event Gg.b is signalled through vector 4g + b / 8 (R560). -/
theorem resetOf_vector (v : Variant) {g b : Nat} (hg : g < 16) (hb : b < 32) :
    tabGet (State.resetOf v).evt.vector (32 * g + b) 0 = BitVec.ofNat 6 (4 * g + b / 8) := by
  have h : 32 * g + b < 512 := by omega
  have hq : (32 * g + b) / 32 = g := by omega
  have hr : (32 * g + b) % 32 = b := by omega
  refine (tabGet_ofFn _ h _).trans ?_
  simp only [hq, hr]

/-- Settles O2: each value is the one that the reset record gives, a table's entry the one that fills the table. -/
theorem resetState : Obligations.ResetState :=
  ⟨fun v => ⟨canonical_iff.mpr ⟨rfl, rfl, rfl, rfl, rfl⟩, resetOf_rawExists v, rfl, rfl⟩,
   fun _ => ⟨rfl, rfl, rfl, rfl, rfl, rfl, rfl, rfl, rfl, rfl, rfl, rfl, rfl, rfl, rfl, rfl, rfl, rfl⟩,
   fun v => ⟨fun _ hm => congrArg (·.state) (tabGet_replicate hm Mailbox.reset _),
    fun _ hg => ⟨tabGet_replicate hg _ _, tabGet_replicate hg _ _⟩, fun _ hg _ hb => resetOf_vector v hg hb,
    fun _ hp => congrArg (·.state) (tabGet_replicate hp Pod.reset _)⟩⟩

end Sys2Proof.Machine

/-! ## Messages and error reports of the endpoint (O19) -/

namespace Sys2Proof.Machine

/-! ### Raises of events, of states that differ elsewhere -/

/-- Raises do not depend on the order in which their events are listed. -/
theorem State.raises.of_mem_iff {es fs : List (Nat × Nat)} {s t : State} (he : ∀ e, e ∈ fs ↔ e ∈ es)
    (h : s.raises es t) : s.raises fs t :=
  ⟨h.hushed, fun e hf => h.marked e ((he e).mp hf), h.kept, fun g b hn => h.others g b (by
    simp only [List.mem_append, ← he] at hn ⊢
    exact hn)⟩

/-- An update that neither reads nor writes what a raise writes may come before the raise or after it. -/
theorem State.raises.update {F : State → State} (hh : ∀ x, (F x).hushed = F x.hushed)
    (hr : ∀ x, (F x).evt.raw = x.evt.raw) (hv : ∀ x, (F x).dev.variant = x.dev.variant)
    {es : List (Nat × Nat)} {s t : State} (h : s.raises es t) : (F s).raises es (F t) := by
  have hb (x : State) (g b : Nat) : (F x).rawBit g b = x.rawBit g b := by rw [State.rawBit, hr, State.rawBit]
  refine ⟨by rw [hh, hh, h.hushed], fun e he hx => ?_, fun g b hs => ?_, fun g b hn => ?_⟩
  · rw [hb]
    exact h.marked e he (by rwa [hv] at hx)
  · rw [hb] at hs ⊢
    exact h.kept g b hs
  · rw [hb, hb]
    exact h.others g b hn

/-! ### MSI-X -/

/-- Whatever uses the host link ends L1 (R480). -/
theorem emitOut_link {o : Output} (h : usesLink o = true) (s : State) :
    emitOut o s = { s with out := s.out ++ [o], pcie := { s.pcie with inL1 := false } } := by
  simp [emitOut, h]

/-- The sending conditions of R476, one by one. -/
theorem msixReady_iff {v : Nat} {s : State} : msixReady v s = true ↔
    s.pcie.pba.getLsbD v = true ∧ s.pcie.msixEn = true ∧ s.pcie.funcMask = false ∧
      (msixWord (4 * v + 3) s).getLsbD 0 = false ∧ s.pcie.bme = true ∧ s.pcie.d3hot = false := by
  simp [msixReady, busMaster, and_assoc]

theorem msixSend_ready {s : State} {v : Fin 64} (h : msixReady v.val s = true) :
    exec (.msixSend v) s = .next { s with
      out := s.out ++ [.msix v.val ((msixWord (4 * v.val) s).toNat + 2 ^ 32 * (msixWord (4 * v.val + 1) s).toNat)
        (msixWord (4 * v.val + 2) s)]
      pcie := { s.pcie with inL1 := false, pba := s.pcie.pba &&& ~~~(BitVec.ofNat 64 (2 ^ v.val)) } } := by
  change execMsixSend v s = _
  rw [execMsixSend, if_pos h]
  dsimp only
  rw [emitOut_link rfl]

theorem msixSend_waits {s : State} {v : Fin 64} (h : ¬msixReady v.val s = true) : exec (.msixSend v) s = .next s :=
  if_neg h

/-! ### Latency tolerance -/

/-- A tolerance message, where LTR is enabled and the function is in D0 (R479). -/
theorem sendLtr_enabled {s : State} (he : s.pcie.ltrEn = true) (hd : s.pcie.d3hot = false) :
    sendLtr s = { s with
      out := s.out ++ [.ltr (ltrDue s)]
      pcie := { s.pcie with
        ltrSent := ltrDue s, ltrAny := true, ltrCapped := decide (ltrCap s < (halfHeadroom s).getD 3000001)
        ltrBase := some (ringFree s, s.ring.rateBytes), ltrCnt := s.pcie.ltrCnt + 1, inL1 := false } } := by
  unfold sendLtr
  rw [if_pos (by simp [he, hd])]
  dsimp only
  rw [emitOut_link rfl]
  rfl

theorem sendLtr_disabled {s : State} (h : s.pcie.ltrEn = false) : sendLtr s = s := by
  simp [sendLtr, h]

theorem ltrEnable_rise {s : State} (a b : Nat) (hc : configServed s = true) (he : s.pcie.ltrEn = false) :
    exec (.ltrEnable true a b) s = .next (sendLtr { s with
      pcie := { s.pcie with ltrEn := true, maxSnoop := a % 2 ^ 13, maxNoSnoop := b % 2 ^ 13, ltrAny := false } }) := by
  change execLtrEnable true a b s = _
  simp [execLtrEnable, hc, he]

theorem ltrEnable_off {s : State} (a b : Nat) (hc : configServed s = true) :
    exec (.ltrEnable false a b) s = .next { s with
      pcie := { s.pcie with ltrEn := false, maxSnoop := a % 2 ^ 13, maxNoSnoop := b % 2 ^ 13 } } := by
  change execLtrEnable false a b s = _
  simp [execLtrEnable, hc, sendLtr_disabled]

/-- Where configuration requests are not served, none of the rows that carry one acts. -/
theorem config_unserved {s : State} (h : configServed s = false) (on m f t p : Bool) (a b : Nat) (l : LinkCtl) :
    exec (.ltrEnable on a b) s = .next s ∧ exec (.bmeSet m f t p l) s = .next s ∧ exec .bmeCleared s = .next s ∧
      exec .d3hotEntry s = .next s ∧ exec .d3hotExit s = .next s := by
  have hn : ¬configServed s = true := by simp [h]
  exact ⟨if_pos (by simp [h]), congrArg _ (if_neg hn), if_neg fun hc => hn hc.1, congrArg _ (if_neg hn),
    if_neg fun hc => hn hc.1⟩

/-! ### Error reports (R477, log 78) -/

/-- The status bit and the message of an uncorrectable error. -/
def aerNoted (code : Nat) (s : State) : State :=
  { s with
    pcie := { s.pcie with
      inL1 := false, aer := { s.pcie.aer with uncStat := s.pcie.aer.uncStat ||| BitVec.ofNat 32 (2 ^ aerUncBit code) } }
    out := s.out ++ [.aer code] }

/-- A correctable error, counted, with its status bit and its message. -/
def aerCounted (code : Nat) (s : State) : State :=
  { s with
    pcie := { s.pcie with
      corr := s.pcie.corr + 1, inL1 := false
      aer := { s.pcie.aer with corStat := s.pcie.aer.corStat ||| BitVec.ofNat 32 (2 ^ aerCorBit code) } }
    out := s.out ++ [.aer code] }

/-- An advisory error: the status bit of the uncorrectable error besides. -/
def aerAdvised (code : Nat) (s : State) : State :=
  aerCounted code { s with
    pcie := { s.pcie with
      aer := { s.pcie.aer with uncStat := s.pcie.aer.uncStat ||| BitVec.ofNat 32 (2 ^ aerUncBit code) } } }

theorem aerCorrectable_eq (code : Nat) (s : State) : aerCorrectable code s = raise 14 6 (aerCounted code s) := by
  rw [aerCorrectable, emitOut_link rfl]
  rfl

theorem aerAdvisory_nonFatal {code : Nat} {s : State} (h : s.pcie.aer.uncSev.getLsbD (aerUncBit code) = false) :
    aerAdvisory code s = raise 14 6 (aerAdvised code s) := by
  rw [aerAdvisory, if_neg (by simp [h]), aerCorrectable_eq]
  rfl

theorem aerUncorrectable_eq (code : Nat) (s : State) : aerUncorrectable code s =
    if aerMasked code s then aerNoted code s else signal 24 0 (raise 14 7 (aerNoted code s)) := by
  unfold aerUncorrectable
  dsimp only
  rw [emitOut_link rfl]
  rfl

theorem aerMasked_raise (code g b : Nat) (s : State) : aerMasked code (raise g b s) = aerMasked code s :=
  congrArg (·.pcie.aer.uncMask.getLsbD (aerUncBit code)) (raise_hushed g b s)

theorem raises_aerNoted {es : List (Nat × Nat)} {s t : State} (code : Nat) (h : s.raises es t) :
    (aerNoted code s).raises es (aerNoted code t) :=
  h.update (F := aerNoted code) (fun _ => rfl) (fun _ => rfl) fun _ => rfl

/-! ### Completions that nothing waits for (R474) -/

/-- The report of an advisory Unexpected Completion, with G14.4. -/
theorem raises_unexpected (data : List Byte) {s : State} (h : s.pcie.aer.uncSev.getLsbD (aerUncBit 1) = false) :
    (aerAdvised 1 s).raises [(14, 4), (14, 6)] (raiseWith false 14 4 data (aerAdvisory 1 s)) := by
  rw [aerAdvisory_nonFatal h]
  exact ((raises_raise 14 6 _).append (raises_raiseWith false 14 4 data _)).of_mem_iff (by simp [or_comm])

theorem any_tag_false {tags : List (Nat × Nat × Nat)} {t : Nat} (h : ∀ e ∈ tags, e.1 ≠ t) :
    ¬(tags.any fun e => e.1 = t) = true := fun hc => by
  obtain ⟨e, he, ht⟩ := List.any_eq_true.mp hc
  exact h e he (of_decide_eq_true ht)

theorem cplUnexpected_outstanding {s : State} {t : Nat} {a : Nat × Nat} (h : (t, a) ∈ s.pcie.tags) :
    exec (.cplUnexpected t) s = .next s :=
  if_pos (List.any_eq_true.mpr ⟨_, h, by simp⟩)

theorem cplUnexpected_late {s : State} {t a x : Nat} (ht : ∀ e ∈ s.pcie.tags, e.1 ≠ t)
    (hq : s.pcie.quarantine.find? (fun e => e.1 = t) = some (t, a, x, false))
    (hs : s.pcie.aer.uncSev.getLsbD (aerUncBit 1) = false) : ∃ u, exec (.cplUnexpected t) s = .next u ∧
      (aerAdvised 1 { s with pcie := { s.pcie with lateCplCnt := s.pcie.lateCplCnt + 1 } }).raises [(14, 4), (14, 6)] u := by
  refine ⟨_, ?_, raises_unexpected (cplData t a) hs⟩
  change execCplUnexpected t s = _
  rw [execCplUnexpected, if_neg (any_tag_false ht), hq]
  rfl

theorem cplUnexpected_abandoned {s : State} {t a x : Nat} (ht : ∀ e ∈ s.pcie.tags, e.1 ≠ t)
    (hq : s.pcie.quarantine.find? (fun e => e.1 = t) = some (t, a, x, true)) : exec (.cplUnexpected t) s = .next s := by
  change execCplUnexpected t s = _
  rw [execCplUnexpected, if_neg (any_tag_false ht), hq]
  rfl

theorem cplUnexpected_stray {s : State} {t : Nat} (ht : ∀ e ∈ s.pcie.tags, e.1 ≠ t)
    (hq : ∀ e ∈ s.pcie.quarantine, e.1 ≠ t) (hs : s.pcie.aer.uncSev.getLsbD (aerUncBit 1) = false) :
    ∃ u, exec (.cplUnexpected t) s = .next u ∧
      (aerAdvised 1 { s with pcie := { s.pcie with badCplCnt := s.pcie.badCplCnt + 1 } }).raises [(14, 4), (14, 6)] u := by
  refine ⟨_, ?_, raises_unexpected (cplData t 0) hs⟩
  have hn : s.pcie.quarantine.find? (fun e => e.1 = t) = none := List.find?_eq_none.mpr (by simpa using hq)
  change execCplUnexpected t s = _
  rw [execCplUnexpected, if_neg (any_tag_false ht), hn]

/-- What stays quarantined after TAG_QUARANTINE_END of a tag. -/
theorem tagQuarantineEnd_frees (s : State) (t : Nat) :
    ∃ q, exec (.tagQuarantineEnd t) s = .next { s with pcie := { s.pcie with quarantine := q } } ∧
      ∀ e, e ∈ q ↔ e ∈ s.pcie.quarantine ∧ (e.1 ≠ t ∨ s.tm.tick < e.2.2.1) :=
  ⟨_, rfl, fun e => by simp [List.mem_filter]⟩

/-! ### Poisoned writes and the other errors received (R477) -/

/-- A poisoned write, its BAR's unlock spent or not: counted, G14.8, and an uncorrectable error. -/
theorem poisoned_reports {s : State} (hm : aerMasked 3 s = false) : ∃ u v : State,
    State.raises [(14, 7), (14, 8)] (aerNoted 3 { s with pcie := { s.pcie with poison := s.pcie.poison + 1 } }) u ∧
    v = signal 24 0 u ∧
    aerUncorrectable 3 (raise 14 8 { s with pcie := { s.pcie with poison := s.pcie.poison + 1 } }) = v := by
  refine ⟨raise 14 7 (aerNoted 3 (raise 14 8 { s with pcie := { s.pcie with poison := s.pcie.poison + 1 } })), _, ?_,
    rfl, ?_⟩
  · exact ((raises_aerNoted 3 (raises_raise 14 8 _)).append (raises_raise 14 7 _)).of_mem_iff (by simp [or_comm])
  · rw [aerUncorrectable_eq, aerMasked_raise, if_neg]
    exact fun h => Bool.false_ne_true (hm.symm.trans h)

theorem poisonedWrite_bar {s : State} (ha : alive s = true) {b : Fin 6} (hb : b ≠ 0) (x : Nat) :
    exec (.inboundPoisonedWrite (.poisonedWrite b) x) s =
      .next (aerUncorrectable 3 (raise 14 8 { s with pcie := { s.pcie with poison := s.pcie.poison + 1 } })) := by
  change execInboundPoisonedWrite (.poisonedWrite b) x s = _
  simp [execInboundPoisonedWrite, ha, hb]

theorem poisonedWrite_bar0 {s : State} (ha : alive s = true) (x : Nat) :
    exec (.inboundPoisonedWrite (.poisonedWrite 0) x) s =
      .next (aerUncorrectable 3 (raise 14 8 { s.spent with pcie := { s.pcie with poison := s.pcie.poison + 1 } })) := by
  change execInboundPoisonedWrite (.poisonedWrite 0) x s = _
  simp [execInboundPoisonedWrite, ha, takeUnlock, State.spent]

theorem malformed_masked {s : State} (ha : alive s = true) (hm : aerMasked 5 s = true) (x : Nat) :
    exec (.inboundPoisonedWrite .malformed x) s = .next (aerNoted 5 s) := by
  change Host.Outcome.next (if alive s then aerUncorrectable 5 s else s) = _
  rw [if_pos ha, aerUncorrectable_eq, if_pos hm]

theorem receiver_reports {s : State} (ha : alive s = true) (x : Nat) :
    exec (.inboundPoisonedWrite .receiver x) s = .next (raise 14 6 (aerCounted 10 s)) := by
  change Host.Outcome.next (if alive s then aerCorrectable 10 s else s) = _
  rw [if_pos ha, aerCorrectable_eq]

theorem ecrc_unchecked {s : State} (h : s.pcie.aer.ecrcChk = false) (c : Option Nat) (x : Nat) :
    exec (.inboundPoisonedWrite (.ecrc c) x) s = .next s :=
  if_neg fun hc => by simp [h] at hc

theorem inboundError_inReset {s : State} (h : alive s = false) (e : RxError) (x : Nat) :
    exec (.inboundPoisonedWrite e x) s = .next s := by
  change execInboundPoisonedWrite e x s = _
  cases e <;> simp [execInboundPoisonedWrite, h]

/-- Settles O19, clause by clause. -/
theorem endpointMessages : Obligations.EndpointMessages :=
  ⟨fun _ _ hp he hf hm hb hd => msixSend_ready (msixReady_iff.mpr ⟨hp, he, hf, hm, hb, hd⟩),
   fun _ _ h => msixSend_waits fun hr => by
    obtain ⟨hp, he, hf, hm, hb, hd⟩ := msixReady_iff.mp hr
    rw [hp, he, hf, hm, hb, hd] at h
    simp at h,
   fun _ a b hc he hd => ⟨_, rfl, (ltrEnable_rise a b hc he).trans (congrArg _ (sendLtr_enabled rfl hd))⟩,
   fun _ a b hc => ltrEnable_off a b hc,
   fun _ a b c d i j l h => config_unserved h a a b c d i j l,
   fun _ _ _ h => cplUnexpected_outstanding h,
   fun _ _ _ _ ht hq hs => cplUnexpected_late ht hq hs,
   fun _ _ _ _ ht hq => cplUnexpected_abandoned ht hq,
   fun _ _ ht hq hs => cplUnexpected_stray ht hq hs,
   tagQuarantineEnd_frees,
   fun _ _ x ha hb hm => by
    obtain ⟨u, v, hr, hv, he⟩ := poisoned_reports hm
    exact ⟨u, v, hr, hv, (poisonedWrite_bar ha hb x).trans (congrArg _ he)⟩,
   fun s x ha hm => by
    obtain ⟨u, v, hr, hv, he⟩ := poisoned_reports (s := s.spent) hm
    exact ⟨u, v, hr, hv, (poisonedWrite_bar0 ha x).trans (congrArg _ he)⟩,
   fun _ x ha hm => malformed_masked ha hm x,
   fun _ x ha => ⟨_, receiver_reports ha x, raises_raise 14 6 _⟩,
   fun _ c x h => ecrc_unchecked h c x,
   fun _ e x h => inboundError_inReset h e x⟩

end Sys2Proof.Machine

/-! ## Uncorrectable ring lines under a severity of SAFE (O47) -/

namespace Sys2Proof.Machine

/-- A device in a configuration scan that is to be compared (R550), its collector on, where the host has set the severity of F8
to SAFE (R568) and scrub has come to the last of ten written lines, all of which the ring keeps (R29). -/
def scrubbingUnderSafe : State :=
  { State.reset with
    cfg := { State.reset.cfg with unfit := false }
    ring := { State.reset.ring with W := 640, scrubPos := 9 }
    flt := { State.reset.flt with on := true, sev := tabMod State.reset.flt.sev 0 fun w => w ||| 0x30000 } }

/-- F8 then enters the safe state, where no scan is compared (R550, R571). -/
theorem scrub_uncorrectable_unfit {t : State} (h : exec (.ringScrubRead 9 .uncorrectable) scrubbingUnderSafe = .next t) :
    t.cfg.unfit = true := by
  have ht : (match exec (.ringScrubRead 9 .uncorrectable) scrubbingUnderSafe with
    | .next u => u.cfg.unfit
    | _ => false) = true := by decide +kernel
  rw [h] at ht
  exact ht

/-- Refutes O47: the severity of F8 is the host's to set (R568), and under SAFE an uncorrectable line at or after H enters the
safe state, which ends the scan of the configuration besides; so the part `cfg` of the state does not stay as it was. -/
theorem not_ringReads : ¬ Obligations.RingReads := by
  rintro ⟨-, -, -, -, -, -, h, -⟩
  obtain ⟨t, ht, -, -, -, -, -, -, -, hcfg, -⟩ := h scrubbingUnderSafe 9 (by decide +kernel) (by decide +kernel)
    (by decide +kernel) (by decide +kernel)
  have h1 : t.cfg.unfit = true := scrub_uncorrectable_unfit ht
  rw [hcfg] at h1
  exact Bool.false_ne_true h1

end Sys2Proof.Machine

/-! ## The acquisition commands (O52) -/

namespace Sys2Proof.Machine

/-! ### What a change of epoch leaves alone outside the configuration -/

/-- What decides how acquisition goes on: the device, the configuration, the store, and where intake stands. -/
def State.acqPart (s : State) : Dev × Cfg × Talus × Nat × Bool × Option Nat :=
  (s.dev, s.cfg, s.tal, s.ring.capRow, s.ring.intake, s.ret.intakeRow)

/-- `t` has the acquisition part of `s`, and no mailbox that the host rang itself has become a tunnelled one. -/
structure Spares (s t : State) : Prop where
  part   : t.acqPart = s.acqPart
  tunnel : ∀ m < 8, (mbOf s m).tunnel = none → (mbOf t m).tunnel = none

namespace Spares

theorem refl (s : State) : Spares s s := ⟨rfl, fun _ _ h => h⟩

theorem dev {s t : State} (h : Spares s t) : t.dev = s.dev := congrArg (·.1) h.part

theorem cfg {s t : State} (h : Spares s t) : t.cfg = s.cfg := congrArg (·.2.1) h.part

theorem tal {s t : State} (h : Spares s t) : t.tal = s.tal := congrArg (·.2.2.1) h.part

theorem capRow {s t : State} (h : Spares s t) : t.ring.capRow = s.ring.capRow := congrArg (·.2.2.2.1) h.part

theorem intake {s t : State} (h : Spares s t) : t.ring.intake = s.ring.intake := congrArg (·.2.2.2.2.1) h.part

theorem intakeRow {s t : State} (h : Spares s t) : t.ret.intakeRow = s.ret.intakeRow := congrArg (·.2.2.2.2.2) h.part

/-- An update of other parts. -/
theorem lit {s x t : State} (h : Spares s x) (hp : t.acqPart = x.acqPart) (hm : t.mb = x.mb) : Spares s t :=
  ⟨hp.trans h.part, fun m hlt hn => by simpa [mbOf, hm] using h.tunnel m hlt hn⟩

theorem ite {s a b : State} {c : Prop} [Decidable c] (ha : Spares s a) (hb : Spares s b) :
    Spares s (if c then a else b) := by
  split
  · exact ha
  · exact hb

theorem foldl {α : Type} {s : State} {f : State → α → State} (hf : ∀ x a, Spares s x → Spares s (f x a)) :
    ∀ (l : List α) {x : State}, Spares s x → Spares s (l.foldl f x)
  | [], _, h => h
  | a :: l, _, h => foldl hf l (hf _ a h)

end Spares

/-! ### Operations that spare it -/

section
variable {s₀ s : State} (hk : Spares s₀ s)
include hk

theorem raise_spares (g b : Nat) : Spares s₀ (raise g b s) := by
  have h : (raise g b s).hushed.acqPart = s.hushed.acqPart := by rw [raise_hushed]
  exact .lit hk h (raise_mb g b s)

theorem modPod_spares (p : Nat) (f : Pod → Pod) : Spares s₀ (modPod p f s) := .lit hk rfl rfl

theorem modInput_spares (n : Nat) (f : Input → Input) : Spares s₀ (modInput n f s) := .lit hk rfl rfl

theorem modSeq_spares (j : Nat) (f : Seq → Seq) : Spares s₀ (modSeq j f s) := .lit hk rfl rfl

theorem modPort_spares (p : Nat) (f : Port → Port) : Spares s₀ (modPort p f s) := .lit hk rfl rfl

theorem withRet_spares {r : Ret} (hr : r.intakeRow = s.ret.intakeRow) : Spares s₀ { s with ret := r } :=
  .lit hk (by simp [State.acqPart, hr]) rfl

theorem withFab_spares (f : Fab) : Spares s₀ { s with fab := f } := .lit hk rfl rfl

theorem withFlt_spares (f : Flt) : Spares s₀ { s with flt := f } := .lit hk rfl rfl

theorem withInputsPods_spares (i : Tab 272 Input) (p : Tab 16 Pod) : Spares s₀ { s with inputs := i, pods := p } :=
  .lit hk rfl rfl

theorem modMb_spares (m : Nat) {f : Mailbox → Mailbox} (hf : ∀ q, q.tunnel = none → (f q).tunnel = none) :
    Spares s₀ (modMb m f s) := by
  refine ⟨hk.part, fun n hn h => ?_⟩
  rw [mbOf_modMb m f s hn]
  split
  · exact hf _ (hk.tunnel n hn h)
  · exact hk.tunnel n hn h

theorem sendNext_spares (p : Nat) : Spares s₀ (sendNext p s) := by
  unfold sendNext
  refine .ite ?_ hk
  split
  · exact hk
  · exact .lit hk rfl rfl

theorem txFrame_spares (p : Nat) (flooded : Bool) (t : TxFrame) : Spares s₀ (txFrame p flooded t s) := by
  unfold txFrame
  exact .ite hk (.ite (sendNext_spares (modPort_spares hk _ _) p) (.ite (modPort_spares hk _ _) hk))

theorem originate_spares (type dest : Nat) (body : List Byte) : Spares s₀ (originate type dest body s) := by
  unfold originate floodOn
  exact Spares.foldl (fun _ _ h => .ite h (txFrame_spares h _ _ _)) _ (.lit hk rfl rfl)

theorem sendTunnelResp_spares (t : TunnelFrom) (status : Nat) (body : List Byte) :
    Spares s₀ (sendTunnelResp t status body s) := by
  unfold sendTunnelResp
  exact Spares.foldl (fun _ _ h => originate_spares h _ _ _) _ hk

theorem cwRelease_spares (m : Nat) : Spares s₀ (cwRelease m s) := by
  obtain ⟨c, hc, -⟩ := cwRelease_frame m s
  rw [hc]
  exact .lit hk rfl rfl

theorem scratchWrite_spares (o : Nat) (bs : List Byte) : Spares s₀ (scratchWrite o bs s) := .lit hk rfl rfl

theorem mbComplete_spares (m : Nat) (r : Reply) : Spares s₀ (mbComplete m r s) := by
  have hr := cwRelease_spares hk m
  unfold mbComplete
  dsimp only
  split
  · refine raise_spares (modMb_spares ?_ m ?_) 0 m
    · exact scratchWrite_spares hr _ _
    · exact fun _ h => h
  · exact sendTunnelResp_spares (modMb_spares hr m fun _ _ => rfl) _ _ _

/-! Pods -/

theorem judgeEdge_spares (p tc : Nat) : Spares s₀ (judgeEdge p tc s) := by
  have hp := modPod_spares hk p
  unfold judgeEdge
  exact .ite (raise_spares (hp _) _ _) (.ite (hp _) (.ite (raise_spares (hp _) _ _) (hp _)))

theorem judgeClocks_spares (p t : Nat) : Spares s₀ (judgeClocks p t s) := by
  unfold judgeClocks
  exact modPod_spares (Spares.foldl (fun _ tc h => judgeEdge_spares h p tc) _ hk) _ _

theorem absentNow_spares (p : Nat) : Spares s₀ (absentNow p s) := by
  have hj : Spares s₀ (if clocked p s then judgeClocks p (nowU s) s else s) := .ite (judgeClocks_spares hk _ _) hk
  have hi := Spares.foldl (f := fun s k => modInput (inputIndex p k) clearInput s)
    (fun _ _ h => modInput_spares h _ _) (List.range 17) hj
  unfold absentNow
  refine modPod_spares ?_ _ _
  exact withRet_spares hi rfl

theorem setPod_spares (p : Nat) (st : PodState) : Spares s₀ (setPod p st s) := by
  unfold setPod
  exact .ite hk (.lit hk rfl rfl)

theorem supplyCut_spares (p : Nat) : Spares s₀ (supplyCut p s) := modPod_spares hk _ _

theorem finishOn_spares (m : Nat) : Spares s₀ (finishOn m s) := by
  unfold finishOn
  exact .ite hk (.ite (mbComplete_spares hk m _) hk)

theorem settleOn_spares (p : Nat) : Spares s₀ (settleOn p s) := by
  unfold settleOn
  exact Spares.foldl (fun _ m h => finishOn_spares h m) _ (modPod_spares hk _ _)

theorem powerOffNow_spares (p : Nat) : Spares s₀ (powerOffNow p s) := by
  unfold powerOffNow
  exact .ite (settleOn_spares (setPod_spares (supplyCut_spares (absentNow_spares hk p) p) p _) p) hk

theorem applyOffs_spares : Spares s₀ (applyOffs s) := by
  unfold applyOffs
  exact Spares.foldl (fun _ p h => .ite (powerOffNow_spares h p) h) _ hk

theorem applyDeskew_spares (p : Nat) : Spares s₀ (applyDeskew p s) := by
  unfold applyDeskew
  exact .ite (raise_spares hk _ _) hk

theorem activatePod_spares (p : Nat) : Spares s₀ (activatePod p s) :=
  raise_spares (applyDeskew_spares (setPod_spares hk p _) p) _ _

theorem closePodGap_spares (p row : Nat) : Spares s₀ (closePodGap p row s) := by
  unfold closePodGap
  split
  · exact hk
  · exact .ite (.lit hk rfl rfl) (modPod_spares hk _ _)

theorem enterCapture_spares (p row : Nat) : Spares s₀ (enterCapture p row s) := by
  unfold enterCapture
  exact Spares.foldl (fun _ _ h => modInput_spares h _ _) _ (modPod_spares hk _ _)

theorem pushCairn_spares (code instant unit pod : Nat) (payload : List Byte) :
    Spares s₀ (pushCairn code instant unit pod payload s) := .lit hk rfl rfl

theorem joinAt_spares (p row : Nat) : Spares s₀ (joinAt p row s) := by
  unfold joinAt
  refine pushCairn_spares (enterCapture_spares (activatePod_spares (closePodGap_spares ?_ p row) p) p row) _ _ _ _ _
  exact withRet_spares hk rfl

/-! Intake, the fabric and the contained units -/

theorem evalMarks_spares : Spares s₀ (evalMarks s) := by
  have hr (a b : Mark) : Spares s₀ { s with ring := { s.ring with markA := a, markB := b } } := .lit hk rfl rfl
  unfold evalMarks
  dsimp only
  have ha (c : Prop) [Decidable c] (a b : Mark) : Spares s₀
      (if c then raise 8 0 { s with ring := { s.ring with markA := a, markB := b } }
        else { s with ring := { s.ring with markA := a, markB := b } }) := .ite (raise_spares (hr _ _) _ _) (hr _ _)
  exact .ite (raise_spares (ha _ _ _) _ _) (ha _ _ _)

theorem startInput_spares (row n : Nat) : Spares s₀ (startInput row n s) := by
  unfold startInput
  exact .ite hk (modInput_spares hk _ _)

theorem clipFirst_spares (row : Nat) : Spares s₀ (clipFirst row s) := by
  have hr (q : List Request) (n : Word) : Spares s₀ { s with ret := { s.ret with requests := q, truncCnt := n } } :=
    .lit hk rfl rfl
  unfold clipFirst
  exact .ite (hr _ _) (raise_spares (hr _ _) _ _)

theorem reloadSeqs_spares : Spares s₀ (reloadSeqs s) := by
  unfold reloadSeqs
  exact Spares.foldl (fun _ j h => modSeq_spares h j _) _ hk

theorem clearDisabled_spares : Spares s₀ (clearDisabled s) := withInputsPods_spares hk _ _

theorem startFabric_spares (first : Nat) : Spares s₀ (startFabric first s) := by
  unfold startFabric
  exact withFab_spares hk _

theorem armPending_spares (j first : Nat) : Spares s₀ (armPending j first s) := by
  unfold armPending
  exact .ite (raise_spares (modSeq_spares hk _ _) _ _) hk

theorem carrySeq_spares (first j : Nat) : Spares s₀ (carrySeq first j s) := by
  have hm := modSeq_spares hk j
  unfold carrySeq
  dsimp only
  split
  · exact modSeq_spares (hm _) _ _
  · exact modSeq_spares (armPending_spares (hm _) j first) _ _
  · exact hm _

theorem carrySeqs_spares (first : Nat) : Spares s₀ (carrySeqs first s) := by
  have hc := Spares.foldl (f := fun s j => carrySeq first j s) (fun _ j h => carrySeq_spares h first j) (List.range 4) hk
  unfold carrySeqs
  generalize (List.range 4).foldl (fun s j => carrySeq first j s) s = x at hc
  exact withFab_spares hc _

theorem restoreUnit_spares (c : Contained) : Spares s₀ (restoreUnit c s) := by
  unfold restoreUnit
  exact .ite (modPort_spares hk _ _) (.ite (.lit hk rfl rfl) (.ite (modSeq_spares hk _ _) hk))

theorem rejoinUnits_spares : Spares s₀ (rejoinUnits s) := by
  unfold rejoinUnits updateFaultN
  exact withFlt_spares (Spares.foldl (fun _ c h => .ite (withFlt_spares (restoreUnit_spares h c) _) h) _ hk) _

theorem grantCredit_spares (p : Nat) (force : Bool) : Spares s₀ (grantCredit p force s) := by
  unfold grantCredit sendLocal
  exact .ite (txFrame_spares (modPort_spares hk _ _) _ _ _) (.ite (txFrame_spares hk _ _ _) hk)

theorem epochOpened_spares : Spares s₀ (epochOpened s) := by
  unfold epochOpened grantAll
  exact Spares.foldl (fun _ p h => grantCredit_spares h p false) _ (rejoinUnits_spares hk)

end

/-! ### Activation, and the start of intake -/

/-- The staged image is active, its CRC the checked one (R262). -/
def State.committed (s : State) : State :=
  { s with cfg := { s.cfg with
      active := s.cfg.staged, crcChecked := s.cfg.crcRef, refSections := sectionCrcs s.dev.variant s.cfg.staged
      checkedValid := true, pendingRef := none } }

/-- Acquisition runs, and intake begins with a row unless a DCO failure has stopped it (R36, R449). -/
def State.started (row : Nat) (s : State) : State :=
  { s with
    dev := { s.dev with acq := .running }
    ring := { s.ring with capRow := row, intake := !s.dev.stopped }
    ret := { s.ret with intakeRow := some row } }

theorem activate_spares (s : State) : Spares s.committed (activateImage (holdReference s)) := by
  have hd := Spares.foldl (f := fun s p => applyDeskew p s) (fun _ p h => applyDeskew_spares h p) (List.range 16)
    (clearDisabled_spares (reloadSeqs_spares (.refl s.committed)))
  unfold activateImage
  exact .ite (raise_spares hd _ _) hd

theorem commit_spares (s : State) : Spares s.committed (applyOffs (activateImage (holdReference s))) :=
  applyOffs_spares (activate_spares s)

theorem startedBy_spares {s₀ s : State} (hk : Spares s₀ s) (row : Nat) {d : Dev} {g : Ring} {r : Ret}
    (hd : d = { s₀.dev with acq := .running }) (hc : g.capRow = row) (hi : g.intake = !s₀.dev.stopped)
    (hr : r.intakeRow = some row) : Spares (s₀.started row) { s with dev := d, ring := g, ret := r } :=
  ⟨by simp [State.acqPart, State.started, hd, hc, hi, hr, hk.cfg, hk.tal], hk.tunnel⟩

/-- The start of intake, where acquisition already runs. -/
theorem startIntake_spares {s₀ s : State} (hk : Spares { s₀ with dev := { s₀.dev with acq := .running } } s) (row : Nat) :
    Spares (s₀.started row) (startIntake row s) := by
  unfold startIntake
  extract_lets x y z v w u
  have hx : Spares _ x := withInputsPods_spares hk s.inputs (s.pods.map (startPod row))
  have hy : Spares _ y := Spares.foldl (fun _ p h => .ite (joinAt_spares h p row) h) _ hx
  have hz : Spares _ z := Spares.foldl (fun _ n h => startInput_spares h row n) _ hy
  clear_value z
  have hd := hz.dev
  have hi : (!z.dev.stopped) = !s₀.dev.stopped := by rw [hd]
  have hu : Spares (s₀.started row) u := startedBy_spares hz row hd rfl hi rfl
  exact carrySeqs_spares (startFabric_spares (clipFirst_spares hu row) _) _

theorem startAcq_spares (row : Nat) (s : State) : Spares (s.committed.started row) (startAcq row s) := by
  have hc := commit_spares s
  unfold startAcq
  generalize applyOffs (activateImage (holdReference s)) = x at hc
  refine epochOpened_spares (startIntake_spares (evalMarks_spares ?_) row)
  refine ⟨?_, hc.tunnel⟩
  simp [State.acqPart, hc.dev, hc.cfg, hc.tal, hc.capRow, hc.intake, hc.intakeRow]

/-- Without a RESHAPE that waits, the end of a recording unit's stages changes nothing. -/
theorem applyReshape_none {s : State} (h : s.tal.reshape = none) : applyReshape s = s := by
  simp [applyReshape, h]

/-! ### What each command answers (R262 to R264) -/

theorem acceptCause_first {s : State} (c : Nat) (h : s.ret.boundary = none) : acceptCause c s = { s with
    ret := { s.ret with boundary := some { causes := [c], row := nextRow s, g := intakeGap s.cfg.active s.cfg.staged } } } := by
  simp [acceptCause, acceptCauseAt, h]

theorem acceptCause_mb (c : Nat) (s : State) : (acceptCause c s).mb = s.mb := by
  unfold acceptCause acceptCauseAt
  split <;> rfl

/-- A mailbox that is served stays one that the host rang itself where no mailbox changes. -/
theorem tunnel_of_mb {s u : State} (h : u.mb = s.mb) (m : Nat) : (mbOf u m).tunnel = (mbOf s m).tunnel := by
  simp [mbOf, h]

theorem tunnel_of_serves {s : State} {m op : Nat} (h : s.serves m op = true) : (mbOf s m).tunnel = none := by
  simp only [State.serves, Bool.and_eq_true, Option.isNone_iff_eq_none] at h
  exact h.2

theorem Spares.tunnel_eq {s u : State} (h : Spares s u) {m : Fin 8} (hn : (mbOf s m.val).tunnel = none) :
    (mbOf u m.val).tunnel = (mbOf s m.val).tunnel :=
  (h.tunnel m.val m.isLt hn).trans hn.symm

section
variable {q : List Byte} {s : State} (hz : zeroAt q 0 256 = true)
include hz

theorem epochCommitCmd_running (ha : s.dev.acq = .running) (hc : crcMatches s = true) (hb : s.ret.boundary = none) :
    epochCommitCmd q s = (acceptCause 5 (holdReference s), some (okWith
      (acqBody (runningEpoch s + 1) (stagedCrc s).toNat (nextRow s) (intakeGap s.cfg.active s.cfg.staged) false))) := by
  have hh : (holdReference s).ret.boundary = none := hb
  simp only [epochCommitCmd, hz, ha, hc, acceptCause_first 5 hh, Bool.not_true, Bool.false_eq_true, if_false]
  rfl

theorem epochCommitCmd_idle (ha : s.dev.acq = .idle) (hc : crcMatches s = true) (hr : s.tal.reshape = none) :
    epochCommitCmd q s = (applyOffs (activateImage (holdReference s)),
      some (okWith (acqBody noEpoch (stagedCrc s).toNat 0 0 false))) := by
  have hn := applyReshape_none ((congrArg Talus.reshape (commit_spares s).tal).trans hr)
  simp only [epochCommitCmd, hz, ha, hc, hn, Bool.not_true, Bool.false_eq_true, if_false, ite_self]

theorem epochCommitCmd_mismatch (ha : s.dev.acq = .idle) (hc : crcMatches s = false) :
    epochCommitCmd q s = crcRefused s := by
  simp [epochCommitCmd, hz, ha, hc]

theorem epochCommitCmd_draining (ha : s.dev.acq = .draining) : epochCommitCmd q s = quit stBusy s := by
  simp [epochCommitCmd, hz, ha]

theorem epochCommitCmd_frozen (ha : s.dev.acq = .frozen) : epochCommitCmd q s = quit stState s := by
  simp [epochCommitCmd, hz, ha]

theorem acqStartCmd_starts (ha : s.dev.acq = .idle) (hc : crcMatches s = true) (he : hasEgress s = true) :
    acqStartCmd q s = (startAcq (nextRow s) s,
      some (okWith (acqBody (s.ret.epoch + 1) (stagedCrc s).toNat (nextRow s) 0 false))) := by
  simp [acqStartCmd, hz, ha, hc, he]

theorem acqStartCmd_mismatch (ha : s.dev.acq = .idle) (hc : crcMatches s = false) : acqStartCmd q s = crcRefused s := by
  simp [acqStartCmd, hz, ha, hc]

theorem acqStartCmd_notIdle (ha : s.dev.acq ≠ .idle) : acqStartCmd q s = quit stState s := by
  simp [acqStartCmd, hz, ha]

theorem acqStartCmd_noEgress (ha : s.dev.acq = .idle) (hc : crcMatches s = true) (he : hasEgress s = false) :
    acqStartCmd q s = quit stState s := by
  simp [acqStartCmd, hz, ha, hc, he]

theorem acqStopCmd_running (ha : s.dev.acq = .running) : acqStopCmd q s = (acceptCause 1 s, some (okWith
    (acqBody (runningEpoch s) 0 (((acceptCause 1 s).ret.boundary.map fun b => b.row).getD 0) 0 false))) := by
  simp [acqStopCmd, requestStop, hz, ha]

theorem acqStopCmd_draining (ha : s.dev.acq = .draining) {b : Boundary} (hb : s.ret.boundary = some b) :
    acqStopCmd q s = ({ s with ret := { s.ret with heldStop := some (min 1 (s.ret.heldStop.getD 1)) } },
      some (okWith (acqBody (if endsIdle b.causes then noEpoch else s.ret.epoch + 1) 0 0 0 true))) := by
  cases hi : endsIdle b.causes <;> simp [acqStopCmd, requestStop, hz, ha, hb, hi]

theorem acqStopCmd_idle (ha : s.dev.acq = .idle) :
    acqStopCmd q s = (s, some (okWith (acqBody noEpoch 0 0 0 false))) := by
  simp [acqStopCmd, hz, ha]

end

/-- A command that ends at once, changing nothing, completes with its status. -/
theorem command_quits {m : Fin 8} {op st : Nat} {f : Cmd} {s : State} (hs : s.serves m.val op = true)
    (hf : f (s.request m.val) s = quit st s) : s.completes m.val st 0 [] (command m.val op f s) :=
  command_completes hs hf rfl

/-- A command whose check of CFG_CRC_REF fails raises G8.23 and completes BAD_ARG (R262). -/
theorem command_crcRefused {m : Fin 8} {op : Nat} {f : Cmd} {s : State} (hs : s.serves m.val op = true)
    (hf : f (s.request m.val) s = crcRefused s) :
    (raise 8 23 s).completes m.val stBadArg 0 [] (command m.val op f s) :=
  command_completes hs hf (tunnel_of_mb (raise_mb 8 23 s) m.val)

/-- Settles O52, clause by clause. -/
theorem acquisitionCommands : Obligations.AcquisitionCommands :=
  ⟨fun _ m hs hz ha hc hb => ⟨_, _, rfl, rfl,
    command_completes hs (epochCommitCmd_running hz ha hc hb) (tunnel_of_mb (acceptCause_mb 5 _) m.val)⟩,
   fun s _ hs hz ha hc hr => ⟨_, _, rfl, congrArg Cfg.active (commit_spares s).cfg,
    congrArg Cfg.crcChecked (commit_spares s).cfg, rfl,
    command_completes hs (epochCommitCmd_idle hz ha hc hr) ((commit_spares s).tunnel_eq (tunnel_of_serves hs))⟩,
   fun s m hs hz ha hc => by
    refine ⟨raise 8 23 s, ?_⟩
    by_cases h1 : s.serves m.val 0x0401 = true
    · rw [if_pos h1]
      exact ⟨_, raises_raise 8 23 s, rfl, command_crcRefused h1 (epochCommitCmd_mismatch hz ha hc)⟩
    · rw [if_neg h1]
      exact ⟨_, raises_raise 8 23 s, rfl, command_crcRefused (hs.resolve_left h1) (acqStartCmd_mismatch hz ha hc)⟩,
   fun _ _ hs hz ha => ⟨_, rfl, command_quits hs (epochCommitCmd_draining hz ha)⟩,
   fun _ _ hs hz ha => ⟨_, rfl, command_quits hs (epochCommitCmd_frozen hz ha)⟩,
   fun s _ hs hz ha hc he hd => by
    have hu := startAcq_spares (nextRow s) s
    exact ⟨_, _, rfl, congrArg Dev.acq hu.dev, congrArg Cfg.active hu.cfg, hu.intake.trans (congrArg (!·) hd), hu.capRow,
      hu.intakeRow, rfl, command_completes hs (acqStartCmd_starts hz ha hc he) (hu.tunnel_eq (tunnel_of_serves hs))⟩,
   fun _ _ hs hz ha => ⟨_, rfl, command_quits hs (acqStartCmd_notIdle hz ha)⟩,
   fun _ _ hs hz ha hc he => ⟨_, rfl, command_quits hs (acqStartCmd_noEgress hz ha hc he)⟩,
   fun s m hs hz ha => ⟨_, _, rfl, rfl,
    command_completes hs (acqStopCmd_running hz ha) (tunnel_of_mb (acceptCause_mb 1 s) m.val)⟩,
   fun _ _ _ hs hz ha hb => ⟨_, _, rfl, rfl, command_completes hs (acqStopCmd_draining hz ha hb) rfl⟩,
   fun _ _ hs hz ha => ⟨_, rfl, command_completes hs (acqStopCmd_idle hz ha) rfl⟩,
   fun _ c hb => acceptCause_first c hb⟩

end Sys2Proof.Machine

/-! # The pod family: insertion, supply, commands, telemetry and keys

## Changes of one pod -/

namespace Sys2Proof.Machine

/-! ### One pod read and changed -/

@[simp] theorem podAt_modPod_self {p : Nat} (hp : p < 16) (f : Pod → Pod) (s : State) :
    podAt (modPod p f s) p = f (podAt s p) := by
  rw [podAt_modPod p f s hp, if_pos rfl]

@[simp] theorem descOf_modPod_self {p : Nat} (hp : p < 16) (f : Pod → Pod) (s : State) :
    descOf p (modPod p f s) = (f (podAt s p)).desc.getD [] := by
  rw [descOf, podAt_modPod_self hp]

@[simp] theorem modPod_modPod (p : Nat) (f g : Pod → Pod) (s : State) :
    modPod p g (modPod p f s) = modPod p (g ∘ f) s := by
  simp only [modPod, tabMod_tabMod]

/-- Only what a change makes of the entry itself counts. -/
theorem tabMod_congr {n : Nat} {α : Type} {t : Tab n α} {i : Nat} {f g : α → α} {d : α} (h : f (tabGet t i d) = g (tabGet t i d)) :
    tabMod t i f = tabMod t i g := by
  unfold tabMod
  split
  · rename_i hi
    rw [← tabGet_eq t i d hi, h]
  · rfl

theorem modPod_congr {p : Nat} {f g : Pod → Pod} {s : State} (h : f (podAt s p) = g (podAt s p)) :
    modPod p f s = modPod p g s := by
  simp only [modPod, tabMod_congr h]

/-- Pod `p` changed, and its PODC_PENDING bit set (R88). -/
def movePod (p : Nat) (f : Pod → Pod) (s : State) : State :=
  { modPod p f s with podc := { s.podc with pending := s.podc.pending ||| 2 ^ p } }

theorem podAt_movePod (p : Nat) {i : Nat} (f : Pod → Pod) (s : State) (hi : i < 16) :
    podAt (movePod p f s) i = if p = i then f (podAt s i) else podAt s i :=
  podAt_modPod p f s hi

@[simp] theorem podAt_movePod_self {p : Nat} (hp : p < 16) (f : Pod → Pod) (s : State) :
    podAt (movePod p f s) p = f (podAt s p) :=
  podAt_modPod_self hp f s

@[simp] theorem descOf_movePod_self {p : Nat} (hp : p < 16) (f : Pod → Pod) (s : State) :
    descOf p (movePod p f s) = (f (podAt s p)).desc.getD [] :=
  descOf_modPod_self hp f s

@[simp] theorem movePod_modPod (p : Nat) (f g : Pod → Pod) (s : State) :
    movePod p g (modPod p f s) = movePod p (g ∘ f) s := by
  simp only [movePod, modPod_modPod]
  rfl

@[simp] theorem modPod_movePod (p : Nat) (f g : Pod → Pod) (s : State) :
    modPod p g (movePod p f s) = movePod p (g ∘ f) s := by
  simp only [movePod, modPod, tabMod_tabMod]

theorem movePod_congr {p : Nat} {f g : Pod → Pod} {s : State} (h : f (podAt s p) = g (podAt s p)) :
    movePod p f s = movePod p g s := by
  simp only [movePod, modPod_congr h]

@[simp] theorem movePod_dev (p : Nat) (f : Pod → Pod) (s : State) : (movePod p f s).dev = s.dev := rfl
@[simp] theorem movePod_tm (p : Nat) (f : Pod → Pod) (s : State) : (movePod p f s).tm = s.tm := rfl

/-- What is said of a port whose pod moved: its pod is the one given, the other pods stay, and nothing else changes but its
PODC_PENDING bit. -/
theorem movePod_frame (p : Fin 16) (f : Pod → Pod) (s : State) : podAt (movePod p.val f s) p.val = f (podAt s p.val) ∧
    (∀ i < 16, i ≠ p.val → podAt (movePod p.val f s) i = podAt s i) ∧ movePod p.val f s = { s with
      pods := (movePod p.val f s).pods, podc := { s.podc with pending := s.podc.pending ||| 2 ^ p.val } } :=
  ⟨podAt_movePod_self p.isLt f s, fun i hi hn => by rw [podAt_movePod _ _ _ hi, if_neg (Ne.symm hn)], rfl⟩

theorem State.raises.movePod {es : List (Nat × Nat)} {s t : State} (h : s.raises es t) (p : Nat) (f : Pod → Pod) :
    (movePod p f s).raises es (movePod p f t) :=
  h.update (F := Machine.movePod p f) (fun _ => rfl) (fun _ => rfl) (fun _ => rfl)

@[simp] theorem podAt_raise (g b : Nat) (s : State) (p : Nat) : podAt (raise g b s) p = podAt s p := by
  simp [podAt]

/-! ### The state of a pod (R56, R88, R89) -/

/-- A pod as it enters a state (R89). -/
def Pod.enter (st : PodState) (now : Nat) (q : Pod) : Pod :=
  { q with
    state := st, since := now,
    supplyFault := if st = .empty ∨ st = .powering then false else q.supplyFault,
    overvolt := if st = .empty then false else q.overvolt,
    reject := if st = .rejected then q.reject else 0 }

theorem setPod_enters {p : Nat} {st : PodState} {s : State} (h : (podAt s p).state ≠ st) :
    setPod p st s = movePod p (Pod.enter st s.tm.tick) s := if_neg h

end Sys2Proof.Machine

namespace Sys2Proof.Machine

/-! ## Insertion of a pod (O36) -/

section
variable {s : State} {p : Fin 16}

/-! ### Presence and debounce (R57, R58) -/

theorem podPresenceLow_starts (hl : portLive p.val s = true) (hn : (podAt s p.val).present = false)
    (he : (podAt s p.val).state = .empty) (hf : s.flt.on = true) : exec (.podPresenceLow p) s = .next
      (movePod p.val (fun q => { q with present := true, state := .debounce, reject := 0, since := s.tm.tick }) s) := by
  change execPodPresenceLow p s = _
  simp only [execPodPresenceLow, hl, hn, Bool.not_false, and_self, if_true, p.isLt, podAt_modPod_self, he, modPod_flt, hf]
  rw [setPod_enters (by simp [he]), movePod_modPod]
  exact congrArg _ (movePod_congr rfl)

theorem podPresenceLow_noted (hl : portLive p.val s = true) (hn : (podAt s p.val).present = false)
    (hf : s.flt.on = false) :
    exec (.podPresenceLow p) s = .next (modPod p.val (fun q => { q with present := true }) s) := by
  change execPodPresenceLow p s = _
  simp [execPodPresenceLow, hl, hn, hf]

theorem podPresenceLow_present (hn : (podAt s p.val).present = true) : exec (.podPresenceLow p) s = .next s := by
  change execPodPresenceLow p s = _
  simp [execPodPresenceLow, hn]

theorem lasted_iff {n : Nat} : lasted p.val n s = true ↔ (podAt s p.val).since + n ≤ s.tm.tick := by
  simp [lasted]

theorem podDebounceDone_low (hd : (podAt s p.val).state = .debounce)
    (ht : (podAt s p.val).since + 50 * msTicks s ≤ s.tm.tick) : exec (.podDebounceDone p true) s = .next
      (movePod p.val (fun q => { q with
        state := .identify, reject := 0, vaux := !s.dev.safe, desc := none, readFails := 0
        waiting := s.dev.safe || !firmwareUp s, since := s.tm.tick }) s) := by
  change execPodDebounceDone p true s = _
  simp only [execPodDebounceDone, hd, if_true, lasted_iff.mpr ht, identify]
  rw [setPod_enters (by simp [hd]), modPod_movePod]
  exact congrArg _ (movePod_congr rfl)

theorem podDebounceDone_early (ht : s.tm.tick < (podAt s p.val).since + 50 * msTicks s) :
    exec (.podDebounceDone p true) s = .next s := by
  change execPodDebounceDone p true s = _
  simp [execPodDebounceDone, lasted, Nat.not_le.mpr ht]

theorem podDebounceDone_high (hd : (podAt s p.val).state = .debounce) : exec (.podDebounceDone p false) s = .next
      (movePod p.val (fun q => { q with
        state := .empty, reject := 0, supplyFault := false, overvolt := false, present := false
        since := s.tm.tick }) s) := by
  change execPodDebounceDone p false s = _
  simp only [execPodDebounceDone, hd, if_true, Bool.false_eq_true, if_false]
  rw [setPod_enters (by simp [hd]), modPod_movePod]
  exact congrArg _ (movePod_congr rfl)

theorem podDebounceDone_elsewhere (hd : (podAt s p.val).state ≠ .debounce) (b : Bool) :
    exec (.podDebounceDone p b) s = .next s :=
  if_neg hd

end

/-! ### The supply of an accepted pod (R58, R59, R71) -/

/-- A pod with the setpoint and the limit of its supply (R71), none where it needs no supply. -/
def Pod.supplied (q : Pod) : Pod :=
  let d := q.desc.getD []
  if fieldAt d 16 1 = 0 then { q with supplySet := 0, supplyLimit := 0 }
  else { q with supplySet := supplySetpoint d, supplyLimit := 12 * descIpod d }

section
variable {p : Nat} {s : State}

theorem setSupply_eq : setSupply p s = modPod p Pod.supplied s := by
  unfold setSupply
  dsimp only
  split
  · next h => exact modPod_congr (if_pos h).symm
  · next h => exact modPod_congr (if_neg h).symm

/-- Nothing else of the pod changes. -/
theorem supplied_eq (q : Pod) : ∃ a b, q.supplied = { q with supplySet := a, supplyLimit := b } := by
  unfold Pod.supplied
  dsimp only
  split
  · exact ⟨_, _, rfl⟩
  · exact ⟨_, _, rfl⟩

/-- A pod for which no POD_POWER ON waits has none to settle. -/
theorem settleOn_none (h : (podAt s p).onFor = []) : settleOn p s = s := by
  have hm : modPod p (fun q => { q with onFor := [] }) s = modPod p id s := modPod_congr (by rw [← h]; rfl)
  have hi : modPod p id s = s := by simp [modPod, tabMod]
  simp [settleOn, h, hm, hi]

/-- A supply starts to ramp to its setpoint (R58 step 5, R71). -/
theorem startSupply_powers (hp : p < 16) (hn : (podAt s p).state ≠ .powering) (hf : fieldAt (descOf p s) 16 1 = 1) :
    startSupply p s = movePod p (fun q => { q with
      state := .powering, supplyFault := false, reject := 0, supplyOn := true, since := s.tm.tick
      supplySet := supplySetpoint (descOf p s), supplyLimit := 12 * descIpod (descOf p s) }) s := by
  have h1 : ¬fieldAt (descOf p s) 16 1 = 0 := by omega
  have hs : (podAt s p).supplied = { podAt s p with
      supplySet := supplySetpoint (descOf p s), supplyLimit := 12 * descIpod (descOf p s) } := if_neg h1
  have hd : descOf p (modPod p Pod.supplied s) = descOf p s := by rw [descOf_modPod_self hp, hs]; rfl
  unfold startSupply
  dsimp only
  rw [setSupply_eq, hd, if_neg h1, setPod_enters (by rwa [podAt_modPod_self hp, hs]), movePod_modPod, modPod_movePod]
  refine movePod_congr ?_
  simp only [Function.comp_apply, hs]
  rfl

/-- A pod whose supply is good, or that needs none, is JOINING while acquisition runs (R58 step 6, R59). -/
theorem reachJoining_acquiring (hp : p < 16) (hn : (podAt s p).state ≠ .joining) (ha : s.dev.acq ≠ .idle)
    (ho : (podAt s p).onFor = []) : reachJoining p s = movePod p (Pod.enter .joining s.tm.tick) s := by
  unfold reachJoining
  dsimp only
  rw [setPod_enters hn, if_neg (by exact ha), settleOn_none (by rw [podAt_movePod_self hp]; exact ho)]

theorem startSupply_joins (hp : p < 16) (hn : (podAt s p).state ≠ .joining) (hf : fieldAt (descOf p s) 16 1 = 0)
    (ha : s.dev.acq ≠ .idle) (ho : (podAt s p).onFor = []) : startSupply p s = movePod p (fun q => { q with
      state := .joining, reject := 0, since := s.tm.tick, supplySet := 0, supplyLimit := 0 }) s := by
  have hs : (podAt s p).supplied = { podAt s p with supplySet := 0, supplyLimit := 0 } := if_pos hf
  have hd : descOf p (modPod p Pod.supplied s) = descOf p s := by rw [descOf_modPod_self hp, hs]; rfl
  unfold startSupply
  dsimp only
  rw [setSupply_eq, hd, if_pos hf, reachJoining_acquiring hp (by rwa [podAt_modPod_self hp, hs])
    (by rwa [modPod_dev]) (by rwa [podAt_modPod_self hp, hs]), movePod_modPod]
  refine movePod_congr ?_
  simp only [Function.comp_apply, hs]
  rfl

end

theorem supplySetpoint_nearest {d : List Byte} (h : descVpod d % 10 ≠ 5) : supplySetpoint d % 10 = 0 ∧
    supplySetpoint d < descVpod d + 5 ∧ descVpod d < supplySetpoint d + 5 := by
  simp only [supplySetpoint]
  omega

theorem supplySetpoint_tie {d : List Byte} (h : descVpod d % 10 = 5) : supplySetpoint d = descVpod d - 5 := by
  simp only [supplySetpoint]
  omega

/-! ### The descriptor (R58, R61, R69) -/

section
variable {s : State} {p : Fin 16}

theorem canRead_identify (h : canRead p.val s = true) : (podAt s p.val).state = .identify := by
  simp only [canRead, Bool.and_eq_true, beq_iff_eq] at h
  obtain ⟨⟨⟨hi, -⟩, -⟩, -⟩ := h
  exact hi

/-- A pod that moves after an event was raised is the pod that moved, and then the event. -/
theorem raises_movePod (p g b : Nat) {f k h : Pod → Pod} (hk : k (f (podAt s p)) = h (podAt s p)) :
    (movePod p h s).raises [(g, b)] (movePod p k (raise g b (modPod p f s))) := by
  have hm := (raises_raise g b (modPod p f s)).movePod p k
  rwa [movePod_modPod, movePod_congr (g := h) hk] at hm

/-- A rejected pod shows its reason and raises G5.3. -/
theorem rejectPod_eq {p : Nat} {x : State} (r : Nat) (hn : (podAt x p).state ≠ .rejected) : rejectPod p r x = raise 5 3
    (movePod p (fun q => { q with state := .rejected, reject := r, since := x.tm.tick }) x) := by
  unfold rejectPod
  rw [setPod_enters hn, modPod_movePod]
  rfl

/-- A pod with its descriptor stored and its supply set. -/
def Pod.described (d : List Byte) (q : Pod) : Pod := Pod.supplied { q with desc := some d }

theorem described_eq (d : List Byte) (q : Pod) :
    ∃ a b, q.described d = { q with desc := some d, supplySet := a, supplyLimit := b } := supplied_eq _

theorem described_needs {d : List Byte} (h : fieldAt d 16 1 = 1) (q : Pod) : q.described d =
    { q with desc := some d, supplySet := supplySetpoint d, supplyLimit := 12 * descIpod d } :=
  if_neg (show ¬fieldAt d 16 1 = 0 by omega)

theorem described_free {d : List Byte} (h : fieldAt d 16 1 = 0) (q : Pod) :
    q.described d = { q with desc := some d, supplySet := 0, supplyLimit := 0 } := if_pos h

section
variable (hr : canRead p.val s = true) {d : List Byte}
include hr

/-- A descriptor that passes its checks is stored and raises G5.0; then the supply starts, or the pod is UNPOWERED. -/
theorem descriptorReadDone_accepted (hd : descReject (padTo 256 d) = 0) : exec (.descriptorReadDone p d) s =
    .next (if s.podc.autopwr.testBit p.val
      then startSupply p.val (raise 5 0 (modPod p.val (Pod.described (padTo 256 d)) s))
      else setPod p.val .unpowered (raise 5 0 (modPod p.val (Pod.described (padTo 256 d)) s))) := by
  change execDescriptorReadDone p d s = _
  simp only [execDescriptorReadDone, hr, hd, if_true, ne_eq, not_true, if_false, setSupply_eq, modPod_modPod, raise_podc,
    modPod_podc]
  rfl

theorem descriptorReadDone_unpowered (hd : descReject (padTo 256 d) = 0)
    (ha : s.podc.autopwr.testBit p.val = false) (hf : fieldAt (padTo 256 d) 16 1 = 1) : ∃ t,
    exec (.descriptorReadDone p d) s = .next t ∧ State.raises [(5, 0)] (movePod p.val (fun q => { q with
      desc := some (padTo 256 d), state := .unpowered, reject := 0, since := s.tm.tick
      supplySet := supplySetpoint (padTo 256 d), supplyLimit := 12 * descIpod (padTo 256 d) }) s) t := by
  have hs := canRead_identify hr
  refine ⟨_, descriptorReadDone_accepted hr hd, ?_⟩
  rw [ha, if_neg Bool.false_ne_true, setPod_enters (by simp [described_needs hf, hs])]
  exact raises_movePod p.val 5 0 (by rw [described_needs hf, raise_tm, modPod_tm]; rfl)

theorem descriptorReadDone_powers (hd : descReject (padTo 256 d) = 0)
    (ha : s.podc.autopwr.testBit p.val = true) (hf : fieldAt (padTo 256 d) 16 1 = 1) : ∃ t,
    exec (.descriptorReadDone p d) s = .next t ∧ State.raises [(5, 0)] (movePod p.val (fun q => { q with
      desc := some (padTo 256 d), state := .powering, supplyFault := false, reject := 0, supplyOn := true
      since := s.tm.tick, supplySet := supplySetpoint (padTo 256 d)
      supplyLimit := 12 * descIpod (padTo 256 d) }) s) t := by
  have hs := canRead_identify hr
  have hx : descOf p.val (raise 5 0 (modPod p.val (Pod.described (padTo 256 d)) s)) = padTo 256 d := by
    simp [descOf, described_needs hf]
  refine ⟨_, descriptorReadDone_accepted hr hd, ?_⟩
  rw [ha, if_pos rfl, startSupply_powers p.isLt (by simp [described_needs hf, hs]) (by rwa [hx]), hx]
  exact raises_movePod p.val 5 0 (by rw [described_needs hf, raise_tm, modPod_tm])

theorem descriptorReadDone_joins (hd : descReject (padTo 256 d) = 0) (ha : s.podc.autopwr.testBit p.val = true)
    (hf : fieldAt (padTo 256 d) 16 1 = 0) (hi : s.dev.acq ≠ .idle) (ho : (podAt s p.val).onFor = []) : ∃ t,
    exec (.descriptorReadDone p d) s = .next t ∧ State.raises [(5, 0)] (movePod p.val (fun q => { q with
      desc := some (padTo 256 d), state := .joining, reject := 0, since := s.tm.tick, supplySet := 0
      supplyLimit := 0 }) s) t := by
  have hs := canRead_identify hr
  have hx : descOf p.val (raise 5 0 (modPod p.val (Pod.described (padTo 256 d)) s)) = padTo 256 d := by
    simp [descOf, described_free hf]
  refine ⟨_, descriptorReadDone_accepted hr hd, ?_⟩
  rw [ha, if_pos rfl, startSupply_joins p.isLt (by simp [described_free hf, hs]) (by rwa [hx]) (by simpa using hi)
    (by simpa [described_free hf] using ho)]
  exact raises_movePod p.val 5 0 (by rw [described_free hf, raise_tm, modPod_tm])

theorem descriptorReadDone_rejected (hd : descReject (padTo 256 d) ≠ 0) : ∃ t,
    exec (.descriptorReadDone p d) s = .next t ∧ State.raises [(5, 3)] (movePod p.val (fun q => { q with
      desc := some (padTo 256 d), state := .rejected, reject := descReject (padTo 256 d)
      since := s.tm.tick }) s) t := by
  have he : exec (.descriptorReadDone p d) s = .next (rejectPod p.val (descReject (padTo 256 d))
      (modPod p.val (fun q => { q with desc := some (padTo 256 d) }) s)) := by
    change execDescriptorReadDone p d s = _
    simp only [execDescriptorReadDone, hr, hd, if_true, ne_eq, not_false_eq_true]
  rw [he, rejectPod_eq _ (by simp [canRead_identify hr]), movePod_modPod]
  exact ⟨_, rfl, raises_raise 5 3 _⟩

theorem descriptorReadError_counts (hn : (podAt s p.val).readFails < 2) : exec (.descriptorReadError p) s =
    .next (modPod p.val (fun q => { q with readFails := q.readFails + 1 }) s) := by
  have h3 : ¬3 ≤ (podAt s p.val).readFails + 1 := by omega
  change execDescriptorReadError p s = _
  simp [execDescriptorReadError, hr, h3]

theorem descriptorReadError_third (hn : (podAt s p.val).readFails = 2) : ∃ t,
    exec (.descriptorReadError p) s = .next t ∧ State.raises [(5, 3)] (movePod p.val (fun q => { q with
      readFails := 3, desc := none, state := .rejected, reject := 1, since := s.tm.tick }) s) t := by
  have he : exec (.descriptorReadError p) s = .next (rejectPod p.val 1
      (modPod p.val (fun q => { q with readFails := q.readFails + 1, desc := none }) s)) := by
    change execDescriptorReadError p s = _
    simp [execDescriptorReadError, hr, hn, Function.comp_def]
  rw [he, rejectPod_eq _ (by simp [canRead_identify hr]), movePod_modPod, movePod_congr]
  · exact ⟨_, rfl, raises_raise 5 3 _⟩
  · simp [hn]

end

theorem descriptorRead_unready (hr : canRead p.val s = false) (d : List Byte) :
    exec (.descriptorReadDone p d) s = .next s ∧ exec (.descriptorReadError p) s = .next s := by
  constructor
  · change execDescriptorReadDone p d s = _
    simp [execDescriptorReadDone, hr]
  · change execDescriptorReadError p s = _
    simp [execDescriptorReadError, hr]

end

/-- Settles O36, clause by clause. -/
theorem podInsertion : Obligations.PodInsertion :=
  ⟨fun s p hl hn he hf => ⟨_, podPresenceLow_starts hl hn he hf, movePod_frame p _ s⟩,
   fun _ _ hl hn hf => podPresenceLow_noted hl hn hf,
   fun _ _ hn => podPresenceLow_present hn,
   fun s p hd ht => ⟨_, podDebounceDone_low hd ht, movePod_frame p _ s⟩,
   fun _ _ ht => podDebounceDone_early ht,
   fun s p hd => ⟨_, podDebounceDone_high hd, movePod_frame p _ s⟩,
   fun _ _ b hd => podDebounceDone_elsewhere hd b,
   fun _ _ _ hr hd ha hf => have ⟨t, ht, h⟩ := descriptorReadDone_unpowered hr hd ha hf; ⟨_, t, ht, rfl, h⟩,
   fun _ _ _ hr hd ha hf => have ⟨t, ht, h⟩ := descriptorReadDone_powers hr hd ha hf; ⟨_, t, ht, rfl, h⟩,
   fun _ _ _ hr hd ha hf hi ho => have ⟨t, ht, h⟩ := descriptorReadDone_joins hr hd ha hf hi ho; ⟨_, t, ht, rfl, h⟩,
   fun _ => supplySetpoint_nearest,
   fun _ => supplySetpoint_tie,
   fun _ _ _ hr hd => have ⟨t, ht, h⟩ := descriptorReadDone_rejected hr hd; ⟨_, t, ht, rfl, h⟩,
   fun _ _ hr hn => descriptorReadError_counts hr hn,
   fun _ _ hr hn => have ⟨t, ht, h⟩ := descriptorReadError_third hr hn; ⟨_, t, ht, rfl, h⟩,
   fun _ _ d hr => descriptorRead_unready hr d⟩

end Sys2Proof.Machine

/-! ## Telemetry of the pods, and the operator keys (O39) -/

namespace Sys2Proof.Machine

section
variable {s : State}

/-! ### Telemetry (R78, R80) -/

theorem podAt_map (f : Pod → Pod) (s : State) {i : Nat} (hi : i < 16) :
    podAt { s with pods := s.pods.map f } i = f (podAt s i) := by
  simp [podAt, tabGet_eq _ _ _ hi]

theorem telemPeriod_starts (hp : s.podc.telemPeriod ≠ 0) (hf : firmwareUp s = true)
    (ht : s.podc.telemAt + 100 * msTicks s * s.podc.telemPeriod ≤ s.tm.tick) : ∃ t, exec .telemPeriod s = .next t ∧
    t = { s with pods := t.pods, podc := { s.podc with telemAt := s.tm.tick } } ∧ ∀ i < 16, podAt t i =
      if rereadOk (podAt s i) && descTelem ((podAt s i).desc.getD []) then { podAt s i with telemBusy := true }
      else podAt s i :=
  ⟨_, if_pos ⟨hp, hf, ht⟩, rfl, fun _ hi => podAt_map _ s hi⟩

theorem telemPeriod_rests (h : s.podc.telemPeriod = 0 ∨ firmwareUp s = false ∨
    s.tm.tick < s.podc.telemAt + 100 * msTicks s * s.podc.telemPeriod) : exec .telemPeriod s = .next s := by
  refine if_neg fun ⟨hp, hf, ht⟩ => ?_
  rcases h with h | h | h
  · exact hp h
  · exact Bool.false_ne_true (h.symm.trans hf)
  · exact Nat.not_le.mpr h ht

section
variable {p : Fin 16} (hb : (podAt s p.val).telemBusy = true)
include hb

theorem telemReadDone_good (x : BitVec 16) : exec (.telemReadDone p (some x)) s = .next (telemGood p.val x s) :=
  congrArg _ (if_pos hb)

theorem telemReadDone_bad : exec (.telemReadDone p none) s = .next (telemBad p.val s) :=
  congrArg _ (if_pos hb)

/-- A reading within the limit, and not 5 °C below it, leaves the arming of POD_HOT as it is. -/
theorem telemReadDone_within {x : BitVec 16} (hl : x.toInt ≤ descTempLimit (descOf p.val s))
    (hr : descTempLimit (descOf p.val s) - 80 < x.toInt) : exec (.telemReadDone p (some x)) s =
    .next (modPod p.val (fun q => { q with telemBusy := false, temp := x, telemFails := 0, telemFail := false }) s) := by
  rw [telemReadDone_good hb]
  simp [telemGood, Int.not_lt.mpr hl, Int.not_le.mpr hr]

/-- A reading well below the limit arms POD_HOT again. -/
theorem telemReadDone_cool {x : BitVec 16} (hl : x.toInt ≤ descTempLimit (descOf p.val s) - 80) :
    exec (.telemReadDone p (some x)) s = .next (modPod p.val (fun q => { q with
      telemBusy := false, temp := x, telemFails := 0, telemFail := false, hot := false }) s) := by
  have hn : ¬descTempLimit (descOf p.val s) < x.toInt := by omega
  rw [telemReadDone_good hb]
  simp [telemGood, hn, hl]

theorem telemReadDone_hot {x : BitVec 16} (hl : descTempLimit (descOf p.val s) < x.toInt)
    (hh : (podAt s p.val).hot = false) : exec (.telemReadDone p (some x)) s = .next (raise 5 6
      (modPod p.val (fun q => { q with
        telemBusy := false, temp := x, telemFails := 0, telemFail := false, hot := true }) s)) := by
  rw [telemReadDone_good hb]
  simp [telemGood, hl, hh]

theorem telemReadDone_fails (hf : (podAt s p.val).telemFails < 2) : exec (.telemReadDone p none) s =
    .next (modPod p.val (fun q => { q with telemBusy := false, telemFails := q.telemFails + 1 }) s) := by
  have h3 : ¬(podAt s p.val).telemFails + 1 = 3 := by omega
  have hc : ¬3 ≤ (podAt s p.val).telemFails + 1 := by omega
  rw [telemReadDone_bad hb]
  unfold telemBad
  dsimp only
  rw [if_neg h3]
  exact congrArg _ (modPod_congr (by simp [hc]))

theorem telemReadDone_third (hf : (podAt s p.val).telemFails = 2) : exec (.telemReadDone p none) s =
    .next (raise 5 7 (modPod p.val (fun q => { q with
      telemBusy := false, telemFails := 3, telemFail := true }) s)) := by
  rw [telemReadDone_bad hb]
  simp [telemBad, hf]

end

theorem telemReadDone_idle {p : Fin 16} (hb : (podAt s p.val).telemBusy = false) (x : Option (BitVec 16)) :
    exec (.telemReadDone p x) s = .next s :=
  congrArg _ (if_neg (by simp [hb]))

/-! ### Keys (R81, R82, R84) -/

/-- Key `k` is live (R81). -/
def State.pressed (k : Nat) (s : State) : State := { s with podc := { s.podc with keyLive := s.podc.keyLive ||| 2 ^ k } }

theorem keyPress_standby (k : Fin 8) (hs : s.dev.standby = true) : exec (.keyPress k) s =
    .next { s with podc := { s.podc with stbyPress := s.podc.stbyPress ||| 2 ^ k.val } } :=
  if_pos hs

section
variable {k : Fin 8} (hs : s.dev.standby = false) (hc : coreUp s = true)
include hs hc

theorem keyPress_alive : exec (.keyPress k) s =
    .next (if keyRefused k.val s
      then raiseWith false 15 8 (keyData k.val s) (raiseWith false 15 k.val (keyData k.val s) (s.pressed k.val))
      else keyAct k.val (raiseWith false 15 k.val (keyData k.val s) (s.pressed k.val))) := by
  change execKeyPress k s = _
  simp only [execKeyPress, hs, hc, Bool.false_eq_true, if_true, if_false]
  rfl

theorem keyPress_refused (hr : keyRefused k.val s = true) : ∃ t, exec (.keyPress k) s = .next t ∧
    State.raises [(15, k.val), (15, 8)] (s.pressed k.val) t :=
  ⟨_, by rw [keyPress_alive hs hc, if_pos hr], (raises_raiseWith _ _ _ _ _).append (raises_raiseWith _ _ _ _ _)⟩

theorem keyPress_acts (hr : keyRefused k.val s = false) : ∃ u, State.raises [(15, k.val)] (s.pressed k.val) u ∧
    exec (.keyPress k) s = .next (keyAct k.val u) :=
  ⟨_, raises_raiseWith _ _ _ _ _, by rw [keyPress_alive hs hc, if_neg (by simp [hr])]⟩

end

/-- The function of a key is that of its register and the variant, which a raise does not change. -/
theorem keyApplied_raises {es : List (Nat × Nat)} {k : Nat} {s u : State} (h : (s.pressed k).raises es u) :
    keyApplied k u = keyApplied k s := by
  have hd : u.dev = s.dev := congrArg (·.dev) h.hushed
  have hk : u.podc.keyCfg = s.podc.keyCfg := congrArg (·.podc.keyCfg) h.hushed
  simp [keyApplied, keyFunc, hd, hk]

/-- EVENT_ONLY applies nothing (R82). -/
theorem keyAct_eventOnly {k : Nat} {u : State} (h : keyApplied k u = 4) : keyAct k u = u := by
  simp [keyAct, h]

end

/-- Settles O39, clause by clause. -/
theorem podTelemetry : Obligations.PodTelemetry :=
  ⟨fun _ hp hf ht => telemPeriod_starts hp hf ht,
   fun _ h => telemPeriod_rests h,
   fun _ _ _ hb hl hr => telemReadDone_within hb hl hr,
   fun _ _ _ hb hl => telemReadDone_cool hb hl,
   fun _ _ _ hb hl hh => ⟨_, telemReadDone_hot hb hl hh, raises_raise 5 6 _⟩,
   fun _ _ hb hf => telemReadDone_fails hb hf,
   fun _ _ hb hf => ⟨_, telemReadDone_third hb hf, raises_raise 5 7 _⟩,
   fun _ _ x hb => telemReadDone_idle hb x,
   fun _ k hs => keyPress_standby k hs,
   fun _ _ hs hc hr => keyPress_refused hs hc hr,
   fun _ _ hs hc hr h4 => by
    obtain ⟨u, hu, he⟩ := keyPress_acts hs hc hr
    exact ⟨u, by rw [he, keyAct_eventOnly ((keyApplied_raises hu).trans h4)], hu⟩,
   fun _ _ hs hc hr => keyPress_acts hs hc hr,
   fun _ _ => rfl⟩

end Sys2Proof.Machine

/-! ## What an operation leaves of the ports

The supply, the descriptor and the state of every pod, and the RAW bits that stand, through the completion of a mailbox
command, the judging of clock edges, the evaluation of the fabric, and what freezes the record. -/

namespace Sys2Proof.Machine

/-- What the port of a pod shows of it (R54, R56, R88, R89): all but its telemetry, its inputs and who waits for it. -/
def Pod.port (q : Pod) : PodState × Nat × Bool × Option (List Byte) × Bool × Bool × Nat × Bool × Bool :=
  (q.state, q.reject, q.present, q.desc, q.vaux, q.supplyOn, q.supplyMv, q.supplyFault, q.overvolt)

/-- The device, its configuration, the PODC registers and the fault collector. -/
abbrev State.ruling (s : State) : Dev × Cfg × Podc × Flt := (s.dev, s.cfg, s.podc, s.flt)

/-- `t` has the ports of `s`, what rules them, and every RAW bit of `s`. -/
structure Steady (s t : State) : Prop where
  ruling : t.ruling = s.ruling
  port   : ∀ i < 16, (podAt t i).port = (podAt s i).port
  raw    : ∀ g b, s.rawBit g b = true → t.rawBit g b = true

namespace Steady

theorem refl (s : State) : Steady s s := ⟨rfl, fun _ _ => rfl, fun _ _ h => h⟩

theorem trans {s t u : State} (h : Steady s t) (k : Steady t u) : Steady s u :=
  ⟨k.ruling.trans h.ruling, fun i hi => (k.port i hi).trans (h.port i hi), fun g b hb => k.raw g b (h.raw g b hb)⟩

theorem dev {s t : State} (h : Steady s t) : t.dev = s.dev := congrArg (·.1) h.ruling

theorem cfg {s t : State} (h : Steady s t) : t.cfg = s.cfg := congrArg (·.2.1) h.ruling

theorem podc {s t : State} (h : Steady s t) : t.podc = s.podc := congrArg (·.2.2.1) h.ruling

theorem flt {s t : State} (h : Steady s t) : t.flt = s.flt := congrArg (·.2.2.2) h.ruling

/-- An update of other parts. -/
theorem lit {s x t : State} (h : Steady s x) (hf : (t.ruling, t.pods, t.evt) = (x.ruling, x.pods, x.evt)) :
    Steady s t := by
  obtain ⟨hr, hf⟩ := Prod.mk.inj hf
  obtain ⟨hp, he⟩ := Prod.mk.inj hf
  exact h.trans ⟨hr, fun i _ => by simp [podAt, hp], fun g b hb => by simpa [State.rawBit, he] using hb⟩

theorem ite {s a b : State} {c : Prop} [Decidable c] (ha : Steady s a) (hb : Steady s b) :
    Steady s (if c then a else b) := by
  split
  · exact ha
  · exact hb

theorem foldl {α : Type} {s : State} {f : State → α → State} (hf : ∀ x a, Steady s x → Steady s (f x a)) (l : List α)
    {x : State} (hx : Steady s x) : Steady s (l.foldl f x) :=
  List.foldlRecOn l f hx fun x h a _ => hf x a h

end Steady

section
variable {s₀ s : State} (hk : Steady s₀ s)
include hk

/-! ### Events and pods -/

theorem raise_steady (g b : Nat) : Steady s₀ (raise g b s) := by
  have h := raises_raise g b s
  exact hk.trans ⟨congrArg (·.ruling) h.hushed, fun _ _ => by rw [podAt_raise], h.kept⟩

theorem raiseIf_steady (c : Prop) [Decidable c] (g b : Nat) : Steady s₀ (if c then raise g b s else s) :=
  .ite (raise_steady hk g b) hk

theorem modPod_steady (p : Nat) {f : Pod → Pod} (hf : ∀ q, (f q).port = q.port) :
    Steady s₀ (modPod p f s) := by
  refine hk.trans ⟨rfl, fun i hi => ?_, fun _ _ h => h⟩
  rw [podAt_modPod p f s hi]
  split
  · exact hf _
  · rfl

theorem judgeEdge_steady (p tc : Nat) : Steady s₀ (judgeEdge p tc s) := by
  unfold judgeEdge
  extract_lets q c ts fast en data w viol x
  refine .ite (raise_steady (modPod_steady hk p fun _ => by rfl) 6 5)
    (.ite (modPod_steady hk p fun _ => rfl) (raiseIf_steady ?_ _ 6 6))
  exact modPod_steady hk p fun _ => rfl

theorem judgeClocks_steady (p t : Nat) : Steady s₀ (judgeClocks p t s) := by
  unfold judgeClocks
  exact modPod_steady (Steady.foldl (fun _ tc h => judgeEdge_steady h p tc) _ hk) p fun _ => rfl

theorem judgeIf_steady (c : Prop) [Decidable c] (p t : Nat) : Steady s₀ (if c then judgeClocks p t s else s) :=
  .ite (judgeClocks_steady hk p t) hk

theorem absentNow_steady (p : Nat) : Steady s₀ (absentNow p s) := by
  have hj := judgeIf_steady hk (clocked p s) p (nowU s)
  have hi := Steady.foldl (f := fun s k => modInput (inputIndex p k) clearInput s) (fun _ _ h => h.lit rfl)
    (List.range 17) hj
  unfold absentNow
  dsimp only
  exact modPod_steady (hi.lit (by rfl)) p fun _ => rfl

theorem lowerCause_steady (p cause : Nat) : Steady s₀ (lowerCause p cause s) := by
  unfold lowerCause
  extract_lets x
  have hx : Steady s₀ x := modPod_steady hk p fun _ => rfl
  exact hx.lit rfl

theorem podGone_steady (p cause : Nat) : Steady s₀ (podGone p cause s) := by
  unfold podGone
  dsimp only
  refine .ite ?_ (.ite (lowerCause_steady hk p cause) (modPod_steady hk p fun _ => rfl))
  exact modPod_steady (hk.lit (by rfl)) p fun _ => rfl

/-- A pod that drops out of capture keeps what its port shows. -/
theorem dropPod_steady (p cause : Nat) : Steady s₀ (dropPod p cause s) := absentNow_steady (podGone_steady hk p cause) p

/-! ### Mailboxes (R499, R509) -/

theorem txFrame_steady (p : Nat) (flooded : Bool) (t : TxFrame) : Steady s₀ (txFrame p flooded t s) := by
  have hs {x : State} (h : Steady s₀ x) : Steady s₀ (sendNext p x) := by
    unfold sendNext
    refine .ite ?_ h
    split
    · exact h
    · exact h.lit rfl
  unfold txFrame
  exact .ite hk (.ite (hs (hk.lit (by rfl))) (.ite (hk.lit (by rfl)) hk))

theorem originate_steady (type dest : Nat) (body : List Byte) : Steady s₀ (originate type dest body s) := by
  unfold originate floodOn
  exact Steady.foldl (fun _ _ h => .ite h (txFrame_steady h _ _ _)) _ (hk.lit (by rfl))

theorem mbComplete_steady (m : Nat) (r : Reply) : Steady s₀ (mbComplete m r s) := by
  have hr : Steady s₀ (cwRelease m s) := by
    obtain ⟨c, hc, -⟩ := cwRelease_frame m s
    exact hc ▸ hk.lit rfl
  generalize hx : cwRelease m s = x at hr
  unfold mbComplete
  simp only [hx]
  split
  · have hw : Steady s₀ (scratchWrite (256 * m) (padTo 256 r.body) x) := hr.lit rfl
    exact raise_steady (hw.lit (by rfl)) 0 m
  · unfold sendTunnelResp
    exact Steady.foldl (fun _ _ h => originate_steady h _ _ _) _ (hr.lit (by rfl))

theorem finishOn_steady (m : Nat) : Steady s₀ (finishOn m s) := by
  unfold finishOn
  exact .ite hk (.ite (mbComplete_steady hk m _) hk)

theorem settleOn_steady (p : Nat) : Steady s₀ (settleOn p s) := by
  unfold settleOn
  exact Steady.foldl (fun _ m h => finishOn_steady h m) _ (modPod_steady hk p fun _ => rfl)

end
end Sys2Proof.Machine

/-! ## POD_POWER and POD_INFO (O38) -/

namespace Sys2Proof.Machine

theorem lt_of_mem_bitsSet {n m p : Nat} (h : p ∈ bitsSet n m) : p < n :=
  List.mem_range.mp (List.mem_filter.mp h).1

/-! ### Powering pods on (R73, R75, R76) -/

theorem powerOn_live {m p : Nat} {s : State} (h : podLive (podAt s p) = true) :
    powerOn m p s = modPod p (fun q => { q with offStaged := false }) s := by
  simp [powerOn, h]

theorem powerOn_powering {m p : Nat} {s : State} (hp : p < 16) (hs : (podAt s p).state = .powering)
    (hf : fieldAt (descOf p s) 16 1 = 1) :
    powerOn m p s = modPod p (fun q => { q with offStaged := false, onFor := q.onFor ++ [m] }) s := by
  have hd : ¬fieldAt ((podAt s p).desc.getD []) 16 1 = 0 := by
    rw [← descOf]
    omega
  simp [powerOn, hs, podLive, hp, hd, Function.comp_def]

theorem powerOn_unpowered {m p : Nat} {s : State} (hp : p < 16) (hs : (podAt s p).state = .unpowered)
    (hf : fieldAt (descOf p s) 16 1 = 1) : powerOn m p s = movePod p (fun q => { q with
      offStaged := false, onFor := q.onFor ++ [m], state := .powering, supplyFault := false, reject := 0
      supplyOn := true, since := s.tm.tick, supplySet := supplySetpoint (descOf p s)
      supplyLimit := 12 * descIpod (descOf p s) }) s := by
  have hd : ¬fieldAt ((podAt s p).desc.getD []) 16 1 = 0 := by
    rw [← descOf]
    omega
  have hw : powerOn m p s =
      startSupply p (modPod p (fun q => { q with offStaged := false, onFor := q.onFor ++ [m] }) s) := by
    simp [powerOn, hs, podLive, hp, hd, Function.comp_def]
  have hx : descOf p (modPod p (fun q => { q with offStaged := false, onFor := q.onFor ++ [m] }) s) = descOf p s :=
    descOf_modPod_self hp _ s
  rw [hw, startSupply_powers hp (by simp [hp, hs]) (by rwa [hx]), hx, movePod_modPod]
  rfl

/-! Where every pod named is live already, no mailbox changes and no pod stops being live. -/

/-- Every pod is as live in `x` as in `s`, and the mailboxes are the same. -/
def AsLive (s x : State) : Prop := x.mb = s.mb ∧ ∀ i < 16, podLive (podAt x i) = podLive (podAt s i)

theorem powerOn_asLive {m p : Nat} {s x : State} (hp : p < 16) (hl : podLive (podAt s p) = true) (h : AsLive s x) :
    AsLive s (powerOn m p x) := by
  obtain ⟨hm, hi⟩ := h
  rw [powerOn_live ((hi p hp).trans hl)]
  refine ⟨hm, fun i h16 => ?_⟩
  rw [podAt_modPod _ _ _ h16, ← hi i h16]
  split
  · rfl
  · rfl

/-! A pod that needs its supply waits for it, whatever happens to the others. -/

/-- Pod `p` needs a supply and has not been found live. -/
structure AwaitsSupply (p : Nat) (s : State) : Prop where
  state : (podAt s p).state = .unpowered ∨ (podAt s p).state = .powering
  needs : fieldAt (descOf p s) 16 1 = 1

namespace AwaitsSupply

theorem not_live {p : Nat} {s : State} (h : AwaitsSupply p s) : podLive (podAt s p) = false := by
  rcases h.state with hs | hs <;> simp [podLive, hs]

/-- The state and the descriptor of the pod decide. -/
theorem of_eq {p : Nat} {s t : State} (h : AwaitsSupply p s) (hs : (podAt t p).state = (podAt s p).state)
    (hd : (podAt t p).desc = (podAt s p).desc) : AwaitsSupply p t :=
  ⟨by rw [hs]; exact h.state, by rw [descOf, hd]; exact h.needs⟩

theorem steady {p : Nat} {s t : State} (hp : p < 16) (h : AwaitsSupply p s) (k : Steady s t) : AwaitsSupply p t :=
  h.of_eq (congrArg (·.1) (k.port p hp)) (congrArg (·.2.2.2.1) (k.port p hp))

section
variable {p i : Nat} {s : State} (hp : p < 16) (hi : i ≠ p) (h : AwaitsSupply p s)
include hp hi h

theorem modPod (f : Pod → Pod) : AwaitsSupply p (modPod i f s) := by
  have he : podAt (Machine.modPod i f s) p = podAt s p := by rw [podAt_modPod i f s hp, if_neg hi]
  exact h.of_eq (by rw [he]) (by rw [he])

theorem setPod (st : PodState) : AwaitsSupply p (setPod i st s) := by
  unfold Machine.setPod
  split
  · exact h
  · exact (h.modPod hp hi _).of_eq rfl rfl

theorem joinPod_idle (ha : s.dev.acq = .idle) : AwaitsSupply p (joinPod i s) := by
  have hw := (h.modPod hp hi clearCapture).setPod hp hi .active
  unfold joinPod activatePod applyDeskew
  rw [if_pos ha]
  split
  · exact h
  · exact hw.steady hp (raise_steady (raiseIf_steady (.refl _) _ 6 3) 5 1)

theorem reachJoining : AwaitsSupply p (reachJoining i s) := by
  have hj := h.setPod hp hi .joining
  unfold Machine.reachJoining
  dsimp only
  refine steady hp ?_ (settleOn_steady (.refl _) i)
  split
  · next ha => exact hj.joinPod_idle hp hi ha
  · exact hj

theorem startSupply : AwaitsSupply p (startSupply i s) := by
  have hs := h.modPod hp hi Pod.supplied
  unfold Machine.startSupply
  dsimp only
  rw [setSupply_eq]
  split
  · exact hs.reachJoining hp hi
  · exact (hs.setPod hp hi _).modPod hp hi _

end

theorem powerOn {p : Nat} {s : State} (hp : p < 16) (h : AwaitsSupply p s) (m i : Nat) :
    AwaitsSupply p (powerOn m i s) := by
  by_cases hi : i = p
  · subst hi
    rcases h.state with hs | hs
    · rw [powerOn_unpowered hp hs h.needs]
      exact ⟨.inr (by rw [podAt_movePod_self hp]), by rw [descOf_movePod_self hp]; exact h.needs⟩
    · rw [powerOn_powering hp hs h.needs]
      exact h.of_eq (by rw [podAt_modPod_self hp]) (by rw [podAt_modPod_self hp])
  · have h1 := h.modPod hp hi fun q => { q with offStaged := false }
    have h2 := h1.modPod hp hi fun q => { q with onFor := q.onFor ++ [m] }
    unfold Machine.powerOn
    dsimp only
    split_ifs
    · exact h1
    · exact h1.startSupply hp hi
    · exact h2
    · exact h2.startSupply hp hi

end AwaitsSupply

/-! ### Powering pods off (R75) -/

theorem powerOff_acquiring {p : Nat} {s : State} (hp : powered (podAt s p) = true) (ha : acquiring s = true) :
    powerOff p s = modPod p (fun q => { q with offStaged := true }) s := by
  simp [powerOff, hp, ha]

theorem powerOff_spares {s₀ s : State} (hk : Spares s₀ s) (p : Nat) : Spares s₀ (powerOff p s) := by
  unfold powerOff
  exact .ite (.ite (modPod_spares hk _ _) (powerOffNow_spares hk p)) hk

/-! ### POD_POWER's rules (R76) -/

/-- The pods that a POD_POWER of mailbox `m` names. -/
def State.namedPods (m : Nat) (s : State) : List Nat := bitsSet 16 (s.arg m 0 2)

section
variable {s : State} {m : Fin 8} (hv : ∀ p ∈ s.namedPods m.val, s.dev.variant.hasPod p = true)
  (h0 : s.arg m.val 0 2 ≠ 0) (hz : zeroAt (s.request m.val) 3 253 = true)
include hv h0 hz

/-- The rules of POD_POWER once its request is a good one. -/
theorem podPowerCmd_valid (ho : s.arg m.val 2 1 ≤ 1) : podPowerCmd m.val (s.request m.val) s =
    if s.dev.safe then quit stState s
    else if s.arg m.val 2 1 = 1 then
      if (s.namedPods m.val).any fun p => onRefused (podAt s p) then quit stState s
      else
        let u := (s.namedPods m.val).foldl (fun v p => powerOn m.val p v) s
        if (s.namedPods m.val).all fun p => podLive (podAt u p) then (u, some (okWith (leBytes 2 (s.arg m.val 0 2))))
        else (u, none)
    else ((s.namedPods m.val).foldl (fun v p => powerOff p v) s,
      some { status := if acquiring s then stPending else stOk, detail := 0, body := leBytes 2 (s.arg m.val 0 2) }) := by
  have hn : ¬((s.namedPods m.val).any fun p => !s.dev.variant.hasPod p) = true := by simpa using hv
  have hb : ¬(1 < s.arg m.val 2 1 ∨ s.arg m.val 0 2 = 0 ∨ (!zeroAt (s.request m.val) 3 253) = true) := by
    simp [hz, h0, Nat.not_lt.mpr ho]
  exact (if_neg hn).trans (if_neg hb)

theorem podPowerCmd_safe (ho : s.arg m.val 2 1 ≤ 1) (hs : s.dev.safe = true) :
    podPowerCmd m.val (s.request m.val) s = quit stState s := by
  rw [podPowerCmd_valid hv h0 hz ho, if_pos hs]

section
variable (ho : s.arg m.val 2 1 = 1) (hs : s.dev.safe = false)
include ho hs

theorem podPowerCmd_refused {p : Nat} (hp : p ∈ s.namedPods m.val) (hr : onRefused (podAt s p) = true) :
    podPowerCmd m.val (s.request m.val) s = quit stState s := by
  rw [podPowerCmd_valid hv h0 hz ho.le, hs, if_neg Bool.false_ne_true, if_pos ho, if_pos (List.any_eq_true.mpr ⟨p, hp, hr⟩)]

theorem podPowerCmd_on (hr : ∀ p ∈ s.namedPods m.val, onRefused (podAt s p) = false) :
    podPowerCmd m.val (s.request m.val) s =
      let u := (s.namedPods m.val).foldl (fun v p => powerOn m.val p v) s
      if (s.namedPods m.val).all fun p => podLive (podAt u p) then (u, some (okWith (leBytes 2 (s.arg m.val 0 2))))
      else (u, none) := by
  rw [podPowerCmd_valid hv h0 hz ho.le, hs, if_neg Bool.false_ne_true, if_pos ho, if_neg (by simpa using hr)]

end

theorem podPowerCmd_off (ho : s.arg m.val 2 1 = 0) (hs : s.dev.safe = false) :
    podPowerCmd m.val (s.request m.val) s = ((s.namedPods m.val).foldl (fun v p => powerOff p v) s,
      some { status := if acquiring s then stPending else stOk, detail := 0, body := leBytes 2 (s.arg m.val 0 2) }) := by
  rw [podPowerCmd_valid hv h0 hz (by omega), hs, if_neg Bool.false_ne_true, if_neg (by omega)]

variable (hm : s.serves m.val 0x0102 = true) (hs : s.dev.safe = false)
include hm hs

theorem podPower_allLive (ho : s.arg m.val 2 1 = 1) (hl : ∀ p ∈ s.namedPods m.val, podLive (podAt s p) = true) : ∃ t,
    exec (.podPower m) s = .next t ∧ ((s.namedPods m.val).foldl (fun v p => powerOn m.val p v) s).completes m.val stOk 0
      (leBytes 2 (s.arg m.val 0 2)) t := by
  have hr (p : Nat) (hp : p ∈ s.namedPods m.val) : onRefused (podAt s p) = false := by
    have := hl p hp
    simp only [podLive, Bool.or_eq_true, beq_iff_eq] at this
    rcases this with h | h <;> simp [onRefused, h]
  have hu : AsLive s ((s.namedPods m.val).foldl (fun v p => powerOn m.val p v) s) :=
    List.foldlRecOn _ _ ⟨rfl, fun _ _ => rfl⟩ fun _ hx p hp => powerOn_asLive (lt_of_mem_bitsSet hp) (hl p hp) hx
  have ha : ((s.namedPods m.val).all fun p =>
      podLive (podAt ((s.namedPods m.val).foldl (fun v p => powerOn m.val p v) s) p)) = true :=
    List.all_eq_true.mpr fun p hp => (hu.2 p (lt_of_mem_bitsSet hp)).trans (hl p hp)
  have hc := podPowerCmd_on hv h0 hz ho hs hr
  dsimp only at hc
  rw [if_pos ha] at hc
  exact ⟨_, rfl, command_completes hm hc (tunnel_of_mb hu.1 m.val)⟩

theorem podPower_waits {p : Nat} (ho : s.arg m.val 2 1 = 1)
    (hr : ∀ q ∈ s.namedPods m.val, onRefused (podAt s q) = false) (hp : p ∈ s.namedPods m.val)
    (hu : (podAt s p).state = .unpowered) (hf : fieldAt (descOf p s) 16 1 = 1) :
    exec (.podPower m) s = .next ((s.namedPods m.val).foldl (fun v p => powerOn m.val p v) s) := by
  have hw : AwaitsSupply p ((s.namedPods m.val).foldl (fun v p => powerOn m.val p v) s) :=
    List.foldlRecOn _ _ ⟨.inl hu, hf⟩ fun _ hx i _ => hx.powerOn (lt_of_mem_bitsSet hp) m.val i
  have ha : ¬((s.namedPods m.val).all fun p =>
      podLive (podAt ((s.namedPods m.val).foldl (fun v p => powerOn m.val p v) s) p)) = true :=
    fun h => Bool.false_ne_true (hw.not_live.symm.trans (List.all_eq_true.mp h p hp))
  have hc := podPowerCmd_on hv h0 hz ho hs hr
  dsimp only at hc
  rw [if_neg ha] at hc
  exact congrArg _ (command_waits hm hc)

theorem podPower_off (ho : s.arg m.val 2 1 = 0) : ∃ t, exec (.podPower m) s = .next t ∧
    ((s.namedPods m.val).foldl (fun v p => powerOff p v) s).completes m.val
      (if acquiring s then stPending else stOk) 0 (leBytes 2 (s.arg m.val 0 2)) t := by
  have hk : Spares s ((s.namedPods m.val).foldl (fun v p => powerOff p v) s) :=
    Spares.foldl (fun _ p h => powerOff_spares h p) _ (.refl s)
  exact ⟨_, rfl, command_completes hm (podPowerCmd_off hv h0 hz ho hs) (hk.tunnel_eq (tunnel_of_serves hm))⟩

end

/-! ### POD_INFO's rules (R77) -/

section
variable {s : State} {m : Fin 8} {p : Fin 16} (ha : s.arg m.val 0 1 = p.val)
  (hv : s.dev.variant.hasPod p.val = true) (hz : zeroAt (s.request m.val) 2 254 = true)
include ha hv hz

/-- The rules of POD_INFO once its request is a good one. -/
theorem podInfoCmd_valid (r : Option (List Byte)) {f : Nat} (hf : s.arg m.val 1 1 = f) (h3 : f ≤ 3) :
    podInfoCmd r (s.request m.val) s =
    if (bitOf 0 f ∧ (podAt s p.val).desc = none) ∨ (bitOf 1 f ∧ !rereadOk (podAt s p.val)) then quit stState s
    else if bitOf 1 f then
      let u := modPod p.val (fun q => { q with telemBusy := false }) s
      match r with
      | none => quit stInternal u
      | some d =>
        if padTo 256 d = descOf p.val u
        then (u, some (okWith (if bitOf 0 f then descOf p.val u else podInfoBody p.val false u)))
        else (raise 5 8 u, some (okWith
          (if bitOf 0 f then descOf p.val (raise 5 8 u) else podInfoBody p.val true (raise 5 8 u))))
    else (s, some (okWith (if bitOf 0 f then descOf p.val s else podInfoBody p.val false s))) := by
  have hn : ¬(s.arg m.val 0 1 < 16 ∧ (!s.dev.variant.hasPod (s.arg m.val 0 1)) = true) := by simp [ha, hv]
  have hb : ¬(15 < s.arg m.val 0 1 ∨ 3 < s.arg m.val 1 1 ∨ (!zeroAt (s.request m.val) 2 254) = true) := by
    have := p.isLt
    simp only [hz, Bool.not_true, Bool.false_eq_true, or_false, ha, hf]
    omega
  subst hf
  rw [← ha]
  exact (if_neg hn).trans (if_neg hb)

/-- A REREAD ends a telemetry read of the pod (R79), and its body is that of the state it leaves. -/
theorem podInfoCmd_reread (hf : s.arg m.val 1 1 = 2) (hr : rereadOk (podAt s p.val) = true)
    (r : Option (List Byte)) : podInfoCmd r (s.request m.val) s =
    let u := modPod p.val (fun q => { q with telemBusy := false }) s
    match r with
    | none => quit stInternal u
    | some d =>
      if padTo 256 d = descOf p.val s then (u, some (okWith (podInfoBody p.val false u)))
      else (raise 5 8 u, some (okWith (podInfoBody p.val true (raise 5 8 u)))) := by
  have hd : descOf p.val (modPod p.val (fun q => { q with telemBusy := false }) s) = descOf p.val s :=
    descOf_modPod_self p.isLt _ s
  rw [podInfoCmd_valid ha hv hz r hf (by decide)]
  simp only [hd]
  rw [if_neg (by simp [bitOf, hr])]
  rfl

variable (hm : s.serves m.val 0x0101 = true)
include hm

theorem podInfo_status (hf : s.arg m.val 1 1 = 0) (r : Option (List Byte)) : ∃ t, exec (.podInfo m r) s = .next t ∧
    s.completes m.val stOk 0 (podInfoBody p.val false s) t := by
  have hc : podInfoCmd r (s.request m.val) s = (s, some (okWith (podInfoBody p.val false s))) := by
    rw [podInfoCmd_valid ha hv hz r hf (by decide)]
    rfl
  exact ⟨_, rfl, command_completes hm hc rfl⟩

theorem podInfo_descriptor {d : List Byte} (hf : s.arg m.val 1 1 = 1) (hd : (podAt s p.val).desc = some d)
    (r : Option (List Byte)) : ∃ t, exec (.podInfo m r) s = .next t ∧ s.completes m.val stOk 0 d t := by
  have hc : podInfoCmd r (s.request m.val) s = (s, some (okWith d)) := by
    rw [podInfoCmd_valid ha hv hz r hf (by decide)]
    simp [show bitOf 0 1 = true from rfl, show bitOf 1 1 = false from rfl, descOf, hd]
  exact ⟨_, rfl, command_completes hm hc rfl⟩

theorem podInfo_undescribed (hf : s.arg m.val 1 1 = 1) (hd : (podAt s p.val).desc = none) (r : Option (List Byte)) :
    ∃ t, exec (.podInfo m r) s = .next t ∧ s.completes m.val stState 0 [] t := by
  have hc : podInfoCmd r (s.request m.val) s = quit stState s := by
    rw [podInfoCmd_valid ha hv hz r hf (by decide)]
    exact if_pos (.inl ⟨rfl, hd⟩)
  exact ⟨_, rfl, command_quits hm hc⟩

section
variable (hf : s.arg m.val 1 1 = 2) (hr : rereadOk (podAt s p.val) = true)
include hf hr

theorem podInfo_unchanged {d : List Byte} (hd : padTo 256 d = descOf p.val s) : ∃ t,
    exec (.podInfo m (some d)) s = .next t ∧ (modPod p.val (fun q => { q with telemBusy := false }) s).completes m.val
      stOk 0 (podInfoBody p.val false (modPod p.val (fun q => { q with telemBusy := false }) s)) t :=
  ⟨_, rfl, command_completes hm ((podInfoCmd_reread ha hv hz hf hr (some d)).trans (if_pos hd)) rfl⟩

theorem podInfo_changed {d : List Byte} (hd : padTo 256 d ≠ descOf p.val s) : ∃ u t,
    State.raises [(5, 8)] (modPod p.val (fun q => { q with telemBusy := false }) s) u ∧
      exec (.podInfo m (some d)) s = .next t ∧ u.completes m.val stOk 0 (podInfoBody p.val true u) t :=
  ⟨_, _, raises_raise 5 8 _, rfl, command_completes hm ((podInfoCmd_reread ha hv hz hf hr (some d)).trans (if_neg hd))
    (tunnel_of_mb (raise_mb 5 8 _) m.val)⟩

theorem podInfo_unreadable : ∃ t, exec (.podInfo m none) s = .next t ∧
    (modPod p.val (fun q => { q with telemBusy := false }) s).completes m.val stInternal 0 [] t :=
  ⟨_, rfl, command_completes hm (podInfoCmd_reread ha hv hz hf hr none) rfl⟩

end
end

/-- Settles O38, clause by clause. -/
theorem podCommands : Obligations.PodCommands :=
  ⟨fun _ _ hm hv h0 hz ho hs hl => have ⟨t, ht, hc⟩ := podPower_allLive hv h0 hz hm hs ho hl; ⟨_, t, rfl, ht, hc⟩,
   fun _ _ _ hm hv h0 hz ho hs hr hp hu hf => ⟨_, rfl, podPower_waits hv h0 hz hm hs ho hr hp hu hf⟩,
   fun _ _ _ hm hv h0 hz ho hs hp hr => ⟨_, rfl, command_quits hm (podPowerCmd_refused hv h0 hz ho hs hp hr)⟩,
   fun _ _ _ hp hu hf => powerOn_unpowered hp hu hf,
   fun _ _ hm hv h0 hz ho hs ha => by
    obtain ⟨t, ht, hc⟩ := podPower_off hv h0 hz hm hs ho
    rw [if_neg (by simp [ha])] at hc
    exact ⟨_, t, rfl, ht, hc⟩,
   fun _ _ hm hv h0 hz ho hs ha => by
    obtain ⟨t, ht, hc⟩ := podPower_off hv h0 hz hm hs ho
    rw [if_pos ha] at hc
    exact ⟨_, t, rfl, ht, hc⟩,
   fun _ _ hp ha => powerOff_acquiring hp ha,
   fun _ _ hm hv h0 hz ho hs => ⟨_, rfl, command_quits hm (podPowerCmd_safe hv h0 hz ho hs)⟩,
   fun _ _ _ r hm ha hv hz hf => podInfo_status ha hv hz hm hf r,
   fun _ _ _ r _ hm ha hv hz hf hd => podInfo_descriptor ha hv hz hm hf hd r,
   fun _ _ _ r hm ha hv hz hf hd => podInfo_undescribed ha hv hz hm hf hd r,
   fun _ _ _ _ hm ha hv hz hf hr hd => have ⟨t, ht, hc⟩ := podInfo_unchanged ha hv hz hm hf hr hd; ⟨_, t, rfl, ht, hc⟩,
   fun _ _ _ _ hm ha hv hz hf hr hd => podInfo_changed ha hv hz hm hf hr hd,
   fun _ _ _ hm ha hv hz hf hr => have ⟨t, ht, hc⟩ := podInfo_unreadable ha hv hz hm hf hr; ⟨_, t, rfl, ht, hc⟩⟩

end Sys2Proof.Machine

/-! ## What the entry of the safe state leaves of a faulted pod (R571, R74) -/

namespace Sys2Proof.Machine

section
variable {s₀ s : State} (hk : Steady s₀ s)
include hk

/-! ### The qualifiers and the sequencers -/

theorem detectIn_steady (n k place : Nat) : Steady s₀ (detectIn n k place s) := by
  unfold detectIn
  dsimp only
  exact .ite (hk.lit (by rfl)) hk

theorem endHold_steady (n : Nat) : Steady s₀ (endHold n s) := by
  unfold endHold
  dsimp only
  split
  · exact hk
  · next h _ => exact .ite (hk.lit (by rfl)) (detectIn_steady (hk.lit (by rfl)) n _ _)

theorem requalify_steady : Steady s₀ (requalify s) := by
  unfold requalify
  dsimp only
  split
  · next e _ _ =>
    refine Steady.foldl (fun x n h => .ite ?_ h) _ (hk.lit (by rfl))
    have hh : Steady s₀ (if holdDue n (e - 1) x then endHold n x else x) := .ite (endHold_steady h n) h
    exact hh.lit rfl
  · exact hk

theorem disarmNow_steady (j : Nat) : Steady s₀ (disarmNow j s) := by
  unfold disarmNow
  dsimp only
  split
  · exact hk
  · exact hk
  · exact raise_steady (hk.lit (by rfl)) 7 _

theorem armNow_steady (j first : Nat) (late : Bool) : Steady s₀ (armNow j first late s) := by
  unfold armNow
  exact .ite hk (raise_steady (hk.lit (by rfl)) 7 _)

theorem armAll_steady (m first : Nat) (late missed : Bool) : Steady s₀ (armAll m first late missed s) := by
  unfold armAll
  exact Steady.foldl (fun _ j h => .ite h (raiseIf_steady (armNow_steady h j first late) _ 7 _)) _ hk

theorem armPending_steady (j first : Nat) : Steady s₀ (armPending j first s) := by
  unfold armPending
  exact .ite (raise_steady (hk.lit (by rfl)) 7 _) hk

theorem pendNow_steady (j : Nat) (w : ArmWait) : Steady s₀ (pendNow j w s) := by
  unfold pendNow
  exact .ite hk (hk.lit (by rfl))

theorem takeOrder_steady (o : SeqOrder) : Steady s₀ (takeOrder s o) := by
  have hm (b op : Nat) (r : Reply) {x : State} (h : Steady s₀ x) :
      Steady s₀ (if mbRuns b op x then mbComplete b r x else x) := .ite (mbComplete_steady h b r) h
  unfold takeOrder
  split
  · next m mb =>
    have hd : Steady s₀ ((bitsSet 4 m).foldl (fun s j => disarmNow j s) s) :=
      Steady.foldl (fun _ j h => disarmNow_steady h j) _ hk
    cases mb with
    | none => exact hd
    | some b => exact hm b _ _ hd
  · next m first late missed mb =>
    have ha := armAll_steady hk m first late missed
    cases mb with
    | none => exact ha
    | some b => exact hm b _ _ ha
  · exact pendNow_steady hk _ _

theorem seqDone_steady (j : Nat) : Steady s₀ (seqDone j s) := raise_steady (hk.lit (by rfl)) 7 _

/-! ### One sample of the fabric (R190) -/

theorem evalSuspect_steady (k : Nat) : Steady s₀ (evalSuspect k s) := by
  have hq : Steady s₀ (match s.fab.suspectTo with
    | some e => if e ≤ k then requalify s else s
    | none => s) := by
    split
    · exact .ite (requalify_steady hk) hk
    · exact hk
  unfold evalSuspect
  extract_lets x now y
  have hy : Steady s₀ y := .ite (Steady.lit hq rfl) hq
  exact hy.lit rfl

theorem takeDone_steady (k j : Nat) : Steady s₀ (takeDone k j s) := by
  unfold takeDone
  split
  · exact hk
  · exact .ite (.ite (raiseIf_steady (seqDone_steady hk j) _ 7 _) (hk.lit (by rfl))) hk

theorem takeTarget_steady (k j : Nat) : Steady s₀ (takeTarget k j s) := by
  unfold takeTarget
  split
  · exact .ite (armPending_steady hk j k) hk
  · exact hk

theorem takeOrders_steady (k : Nat) : Steady s₀ (takeOrders k s) := by
  unfold takeOrders
  dsimp only
  exact Steady.foldl (fun _ o h => takeOrder_steady h o.2) _ (hk.lit (by rfl))

theorem evalPatterns_steady (k : Nat) : Steady s₀ (evalPatterns k (countGroups k s)) := by
  unfold evalPatterns countGroups
  exact hk.lit rfl

end

/-- The clock edges before sample `k` judged, and the holds due in it ended. -/
def settledFor (k : Nat) (s : State) : State :=
  (List.range 272).foldl (fun s n => if !inputAbsent n s ∧ holdDue n k s then endHold n s else s)
    (evalSuspect k ((List.range 16).foldl (fun s p => if clocked p s then judgeClocks p (256 * k) s else s) s))

/-- The terms of sample `k` evaluated, and the orders, group fires and targets due in it taken. -/
def orderedFor (k : Nat) (s : State) : State :=
  (List.range 4).foldl (fun s j => takeTarget k j (takeDone k j s)) (takeOrders k (evalPatterns k (countGroups k
    { s with fab := { s.fab with dets := s.fab.dets.map fun d => { d with sample := max d.sample k } } })))

/-- Sample `k` under evaluation, each sequencer as it stands at its start. -/
def openedFor (k : Nat) (s : State) : State :=
  { s with fab := { s.fab with sample := k, entered := true }, seqs := s.seqs.map (seqStart k) }

theorem enterSample_eq (k : Nat) (s : State) :
    enterSample k s = showLive (openedFor k (orderedFor k (settledFor k s))) := by
  unfold enterSample openedFor orderedFor settledFor
  generalize List.range 272 = l
  rfl

section
variable {s₀ s : State} (hk : Steady s₀ s)
include hk

theorem settledFor_steady (k : Nat) : Steady s₀ (settledFor k s) :=
  Steady.foldl (fun _ n h => .ite (endHold_steady h n) h) _
    (evalSuspect_steady (Steady.foldl (fun _ p h => judgeIf_steady h _ p _) _ hk) k)

theorem orderedFor_steady (k : Nat) : Steady s₀ (orderedFor k s) :=
  Steady.foldl (fun _ j h => takeTarget_steady (takeDone_steady h k j) k j) _
    (takeOrders_steady (evalPatterns_steady (hk.lit (by rfl)) k) k)

theorem showLive_steady : Steady s₀ (showLive s) := by
  unfold showLive
  exact .ite (hk.lit (by rfl)) hk

theorem openedFor_steady (k : Nat) : Steady s₀ (openedFor k s) := by
  unfold openedFor
  exact hk.lit rfl

theorem enterSample_steady (k : Nat) : Steady s₀ (enterSample k s) := by
  rw [enterSample_eq]
  exact showLive_steady (openedFor_steady (orderedFor_steady (settledFor_steady hk k) k) k)

/-! ### The steps of the sequencers (R212 to R215) -/

theorem addRequest_steady (c t : Nat) : Steady s₀ (addRequest c t s) := by
  unfold addRequest
  dsimp only
  exact .ite (.ite (hk.lit (by rfl)) (raise_steady (hk.lit (by rfl)) 8 20)) hk

theorem fireCairn_steady (j frm b cls group out place : Nat) : Steady s₀ (fireCairn j frm b cls group out place s) := by
  unfold fireCairn pushCairnIf
  exact .ite (hk.lit (by rfl)) (.ite (hk.lit (by rfl)) hk)

theorem firePulses_steady (mask k : Nat) : Steady s₀ (firePulses mask k s) := by
  unfold firePulses
  exact Steady.foldl (fun _ _ h => .ite (h.lit (by rfl)) h) _ hk

theorem fireFrame_steady (j cls group place : Nat) : Steady s₀ (fireFrame j cls group place s) := by
  unfold fireFrame
  exact .ite (originate_steady hk _ _ _) hk

theorem groupDone_steady (group : Nat) (except : Option Nat) (sample : Nat) (byFrame : Bool) :
    Steady s₀ (groupDone group except sample byFrame s) := by
  unfold groupDone
  refine .ite hk (Steady.foldl (fun _ j h => ?_) _ hk)
  split
  · exact h
  · exact .ite (h.lit (by rfl)) h

theorem emitFire_steady (j frm b : Nat) (w : Branch) (group place : Nat) :
    Steady s₀ (emitFire j frm b w group place s) := by
  unfold emitFire
  extract_lets cls k rlf out a x y z ret u v r
  have hx : Steady s₀ x := hk.lit rfl
  have hu : Steady s₀ u := (addRequest_steady (raise_steady hx 7 _) cls place).lit rfl
  have hv : Steady s₀ v := firePulses_steady (fireCairn_steady hu _ _ _ _ _ _ _) _ _
  have hr : Steady s₀ r := .ite (fireFrame_steady hv _ _ _ _) hv
  exact groupDone_steady hr _ _ _ _

theorem takeBranch_steady (j b : Nat) (w : Branch) (vals : List (Option Nat)) (p : Program) (inst : Nat) :
    Steady s₀ (takeBranch j b w vals p inst s) := by
  unfold takeBranch
  extract_lets frm place fab x y z u
  have hy : Steady s₀ y := hk.lit rfl
  have hz : Steady s₀ z := raiseIf_steady hy _ 7 _
  have hu : Steady s₀ u := .ite (emitFire_steady hz _ _ _ _ _ _) hz
  exact .ite (seqDone_steady hu j) hu

theorem stepSeq_steady (j : Nat) : Steady s₀ (stepSeq j s) := by
  have hs (inst : Nat) (by_ : StepBy) (p : Program) : Steady s₀ (stepAt j inst by_ p s) := by
    unfold stepAt blockStep
    dsimp only
    refine .ite (raiseIf_steady (hk.lit (by rfl)) _ 7 _) ?_
    split
    · exact takeBranch_steady (hk.lit (by rfl)) _ _ _ _ _ _
    · exact hk.lit rfl
  unfold stepSeq
  split
  · exact hs _ _ _
  · exact hk

theorem stepAll_steady : Steady s₀ (stepAll s) := by
  unfold stepAll
  exact Steady.foldl (fun _ j h => stepSeq_steady (stepSeq_steady h j) j) _ hk

theorem leaveSample_steady : Steady s₀ (leaveSample s) := by
  unfold leaveSample showSeqs
  have hx := stepAll_steady hk
  extract_lets fab live y
  have hy : Steady s₀ y := .ite (hx.lit (by rfl)) hx
  clear_value y
  exact hy.lit rfl

end

theorem advanceBy_steady {s₀ : State} : ∀ (n : Nat) {s : State}, Steady s₀ s → Steady s₀ (advanceBy n s)
  | 0, _, h => h
  | n + 1, _, h => advanceBy_steady n (enterSample_steady (leaveSample_steady h) _)

section
variable {s₀ s : State} (hk : Steady s₀ s)
include hk

theorem evalBelow_steady (n : Nat) : Steady s₀ (evalBelow n s) := by
  unfold evalBelow
  exact .ite hk (advanceBy_steady _ (.ite hk (enterSample_steady hk _)))

theorem stopFabric_steady (n : Nat) : Steady s₀ (stopFabric n s) := by
  unfold stopFabric
  extract_lets x os
  have hx : Steady s₀ x := stepAll_steady (evalBelow_steady hk _)
  clear_value x
  exact Steady.foldl (fun _ o h => takeOrder_steady h o.2) _ (hx.lit (by rfl))

/-! ### What else stops (R39, R434) -/

theorem disarmAll_steady : Steady s₀ (disarmAll s) := by
  have hd := Steady.foldl (f := fun s j => disarmNow j s) (fun _ j h => disarmNow_steady h j) (List.range 4) hk
  unfold disarmAll
  exact hd.lit rfl

theorem makeDurable_steady (x : Extent) : Steady s₀ (makeDurable x s) := by
  unfold makeDurable
  exact hk.lit rfl

theorem afterRelease_steady : Steady s₀ (afterRelease s) := by
  unfold afterRelease
  refine Steady.foldl (fun y e h => ?_) _ (hk.lit (by rfl))
  have hr : Steady s₀ (if y.sealer.readyExt < e.seq ∨ y.sealer.readyInfo = none then
      { y with sealer := { y.sealer with readyExt := e.seq, readyInfo := some (e.lastSeq, e.chain) } } else y) :=
    .ite (h.lit (by rfl)) h
  exact .ite (.ite (makeDurable_steady hr e) hr) h

theorem finishExtent_steady : Steady s₀ (finishExtent s) := by
  unfold finishExtent
  split
  · exact hk
  · exact .ite (afterRelease_steady (hk.lit (by rfl))) hk

theorem closeBlock_steady : Steady s₀ (closeBlock s) := by
  unfold closeBlock modOpen
  split
  · exact hk
  · exact .ite (hk.lit (by rfl)) (hk.lit (by rfl))

theorem closeExtent_steady (f : Extent → Extent) : Steady s₀ (closeExtent f s) := by
  unfold closeExtent modOpen
  exact finishExtent_steady ((closeBlock_steady hk).lit (by rfl))

theorem holdBank_steady : Steady s₀ (closeFrozenBank { s with eq := { s.eq with safeHold := true } }) := by
  unfold closeFrozenBank
  exact .ite (hk.lit (by rfl)) (hk.lit (by rfl))

theorem freezeRecord_steady : Steady s₀ (freezeRecord s) := by
  unfold freezeRecord
  exact holdBank_steady (closeExtent_steady (hk.lit (by rfl)) _)

theorem safePort_steady (p : Nat) : Steady s₀ (safePort p s) := by
  unfold safePort
  extract_lets q x y
  have hx : Steady s₀ x := .ite (hk.lit (by rfl)) hk
  clear_value x
  have hy : Steady s₀ y := .ite (hx.lit (by rfl)) hk
  clear_value y
  exact .ite hk (.ite (hy.lit (by rfl)) hy)

end
end Sys2Proof.Machine

/-! ## A pod whose supply failed stays FAULTED through what its fault sets off (R72, R74, R565, R571) -/

namespace Sys2Proof.Machine

/-- What a supply fault leaves of a port (R72, R89). -/
def Pod.failure (q : Pod) : PodState × Bool × Nat × Bool × Bool :=
  (q.state, q.supplyOn, q.supplyMv, q.supplyFault, q.overvolt)

/-- Pod `p` is FAULTED with its supply off and the flags given, and the event G5.`b` was raised. -/
structure Downed (p : Nat) (sf ov : Bool) (b : Nat) (s : State) : Prop where
  lt   : p < 16
  pod  : (podAt s p).failure = (.faulted, false, 0, sf, ov)
  marked : s.rawBit 5 b = true

section
variable {p b : Nat} {sf ov : Bool} {s t : State} (hd : Downed p sf ov b s)
include hd

theorem Downed.state : (podAt s p).state = .faulted := congrArg (·.1) hd.pod

theorem Downed.supplyOn : (podAt s p).supplyOn = false := congrArg (·.2.1) hd.pod

theorem Downed.supplyMv : (podAt s p).supplyMv = 0 := congrArg (·.2.2.1) hd.pod

theorem Downed.supplyFault : (podAt s p).supplyFault = sf := congrArg (·.2.2.2.1) hd.pod

theorem Downed.overvolt : (podAt s p).overvolt = ov := congrArg (·.2.2.2.2) hd.pod

theorem Downed.steady (h : Steady s t) : Downed p sf ov b t := by
  have hf := congrArg (fun x => (x.1, x.2.2.2.2.2)) (h.port p hd.lt)
  exact ⟨hd.lt, hf.trans hd.pod, h.raw 5 b hd.marked⟩

/-- An update of other parts. -/
theorem Downed.lit (hf : (t.pods, t.evt) = (s.pods, s.evt)) : Downed p sf ov b t := by
  simp only [Prod.mk.injEq] at hf
  obtain ⟨hp, he⟩ := hf
  exact ⟨hd.lt, by simpa [podAt, hp] using hd.pod, by simpa [State.rawBit, he] using hd.marked⟩

theorem downed_raise (g c : Nat) : Downed p sf ov b (raise g c s) := hd.steady (raise_steady (.refl s) g c)

/-- A change of a pod that cuts supplies at most. -/
theorem downed_modPod (i : Nat) {f : Pod → Pod} (hf : ∀ q, q.supplyOn = false → q.supplyMv = 0 → (f q).failure = q.failure) :
    Downed p sf ov b (modPod i f s) := by
  refine ⟨hd.lt, ?_, hd.marked⟩
  rw [podAt_modPod i f s hd.lt]
  split
  · rw [hf _ hd.supplyOn hd.supplyMv, hd.pod]
  · exact hd.pod

theorem downed_supplyCut (i : Nat) : Downed p sf ov b (supplyCut i s) :=
  downed_modPod hd i fun q h0 h1 => by simp [Pod.failure, h0, h1]

/-- A pod that enters FAULTED is another one. -/
theorem downed_setPod_faulted (i : Nat) : Downed p sf ov b (setPod i .faulted s) := by
  unfold setPod
  split
  · exact hd
  · next hn =>
    refine ⟨hd.lt, ?_, hd.marked⟩
    have hi : i ≠ p := fun h => hn (h ▸ hd.state)
    exact (congrArg Pod.failure ((podAt_modPod i _ s hd.lt).trans (if_neg hi))).trans hd.pod

/-! ### The safe state (R571) -/

theorem downed_safePod (i : Nat) : Downed p sf ov b (safePod i s) := by
  have ha := (downed_supplyCut hd i).steady (absentNow_steady (.refl _) i)
  unfold safePod
  extract_lets q x y
  have hy : Downed p sf ov b y := downed_modPod ha i fun _ _ _ => rfl
  split
  · exact downed_setPod_faulted hy i
  · exact downed_setPod_faulted hy i
  · exact downed_setPod_faulted hy i
  · exact downed_setPod_faulted hy i
  · exact hy

theorem downed_moveH : Downed p sf ov b (moveH s) := hd.lit rfl

theorem downed_updateFaultN : Downed p sf ov b (updateFaultN s) := hd.lit rfl

theorem downed_freezeCapture : Downed p sf ov b (freezeCapture s) := hd.lit rfl

theorem Downed.foldl {f : State → Nat → State} (l : List Nat)
    (hf : ∀ x i, Downed p sf ov b x → Downed p sf ov b (f x i)) : Downed p sf ov b (l.foldl f s) :=
  List.foldlRecOn l f hd fun x h i _ => hf x i h

theorem downed_enterSafe (f : Nat) : Downed p sf ov b (enterSafe f s) := by
  unfold enterSafe
  extract_lets x dev cfg flt y z u v w r
  have hx : Downed p sf ov b x := downed_moveH (hd.steady (stopFabric_steady (.refl s) _))
  clear_value x
  have hy : Downed p sf ov b y := hx.lit rfl
  have hz : Downed p sf ov b z := downed_updateFaultN (downed_raise hy 1 6)
  have hu : Downed p sf ov b u := downed_freezeCapture (hz.steady (freezeRecord_steady (.refl z)))
  have hv : Downed p sf ov b v := hu.steady (disarmAll_steady (.refl u))
  have hw : Downed p sf ov b w := hv.foldl _ fun x i h => h.steady (safePort_steady (.refl x) i)
  have hr : Downed p sf ov b r := hw.foldl _ fun _ i h => downed_safePod h i
  exact hr.foldl _ fun x i h => h.steady (settleOn_steady (.refl x) i)

/-! ### The latch of the fault (R564, R565) -/

theorem downed_pushHist (f : Nat) (sev : Severity) (info : Word) (inj : Bool) :
    Downed p sf ov b (pushHist f sev info inj s) := by
  unfold pushHist
  dsimp only
  split
  · split
    · exact downed_raise (hd.lit (by rfl)) 1 9
    · exact hd.lit rfl
  · exact hd.lit rfl

theorem downed_logFault (f sev : Nat) (info : Word) (inj : Bool) :
    Downed p sf ov b (logFault f sev info inj s) :=
  ⟨hd.lt, by simpa [podAt] using hd.pod, (raises_logFault f sev info inj s).kept _ _ hd.marked⟩

/-- A source other than F0 that contains no unit (R565). -/
theorem downed_latch {f : Nat} (h0 : f ≠ 0) {info : Word} {unit : Nat} (hu : hasUnit f info unit = false) (inj : Bool)
    (sev : Severity) : Downed p sf ov b (latch f info unit inj sev s) := by
  unfold latch
  simp only [if_neg h0, hu]
  refine downed_updateFaultN ?_
  generalize hx : (if sev = .record then _ else _) = x
  have hd' : Downed p sf ov b x := by
    have hl := downed_logFault (downed_pushHist (hd.lit (t := { s with flt := { s.flt with
      status := s.flt.status ||| BitVec.ofNat 64 (2 ^ f), latched := tabMod s.flt.latched f fun _ => sev,
      latchCnt := s.flt.latchCnt + 1 } }) rfl) f sev info inj) f sev.code info inj
    subst hx
    split
    · exact hl
    · exact downed_raise hl 1 4
  split
  · exact hd'
  · cases sev
    case safe => exact downed_enterSafe hd' f
    all_goals exact hd'

theorem downed_signalUnit {f : Nat} (h0 : f ≠ 0) {info : Word} {unit : Nat} (hu : hasUnit f info unit = false) :
    Downed p sf ov b (signalUnit f info unit s) := by
  unfold signalUnit signalWith
  split
  · exact downed_latch hd h0 hu _ _
  · exact hd

end

end Sys2Proof.Machine

/-! ## The supply of a pod, joining and removal (O37) -/

namespace Sys2Proof.Machine

/-! ### Supply faults (R58 step 6, R72) -/

section
variable {s : State} {p : Nat}

theorem podEvent_exists (v : Variant) {b : Nat} (hb : b ≤ 5) : hasEvent v 5 b = true := by
  interval_cases b <;> cases v <;> decide

theorem raise_marks_pod (s : State) {b : Nat} (hb : b ≤ 5) : (raise 5 b s).rawBit 5 b = true :=
  (raises_raise 5 b s).marked (5, b) (by simp) (podEvent_exists _ hb)

/-- FAULTED is entered with the supply and the flags as they stand. -/
theorem setPod_faulted_failure (hp : p < 16) (s : State) : (podAt (setPod p .faulted s) p).failure =
    (.faulted, (podAt s p).supplyOn, (podAt s p).supplyMv, (podAt s p).supplyFault, (podAt s p).overvolt) := by
  by_cases h : (podAt s p).state = .faulted
  · rw [setPod, if_pos h, Pod.failure, h]
  · rw [setPod_enters h, podAt_movePod_self hp]
    rfl

/-- A pod that drops out of capture with its supply cut, and then enters FAULTED. -/
theorem dropFaulted_failure (hp : p < 16) (cause : Nat) (s : State) :
    (podAt (setPod p .faulted (supplyCut p (dropPod p cause s))) p).failure =
      (.faulted, false, 0, (podAt s p).supplyFault, (podAt s p).overvolt) := by
  have hk := (dropPod_steady (.refl s) p cause).port p hp
  have hf : (podAt (dropPod p cause s) p).supplyFault = (podAt s p).supplyFault := congrArg (·.2.2.2.2.2.2.2.1) hk
  have ho : (podAt (dropPod p cause s) p).overvolt = (podAt s p).overvolt := congrArg (·.2.2.2.2.2.2.2.2) hk
  rw [setPod_faulted_failure hp, supplyCut, podAt_modPod_self hp]
  simp only [hf, ho]

/-- The fault is settled and its event raised. -/
theorem downed_raised {b : Nat} {sf ov : Bool} (hp : p < 16) (hb : b ≤ 5)
    (h : (podAt s p).failure = (.faulted, false, 0, sf, ov)) : Downed p sf ov b (raise 5 b (settleOn p s)) := by
  have hk := (raise_steady (settleOn_steady (.refl s) p) 5 b).port p hp
  have hf := congrArg (fun x => (x.1, x.2.2.2.2.2)) hk
  exact ⟨hp, hf.trans h, raise_marks_pod _ hb⟩

theorem supplyFault_downs (hp : p < 16) (hn : (podAt s p).state ≠ .empty) :
    Downed p true (podAt s p).overvolt 4 (supplyFault p s) := by
  have hf := dropFaulted_failure hp 1 s
  have he : ¬((podAt s p).state == .empty) = true := by simpa using hn
  unfold supplyFault
  simp only [if_neg he]
  refine downed_signalUnit (downed_raised hp (by decide) ?_) (by decide) (by simp [hasUnit])
  rw [podAt_modPod_self hp]
  simp only [Pod.failure, Prod.mk.injEq, true_and] at hf ⊢
  obtain ⟨hs, ho, hm, -, hv⟩ := hf
  exact ⟨hs, ho, hm, hv⟩

theorem supplyOvervolt_downs (hp : p < 16) (hn : (podAt s p).state ≠ .empty) :
    Downed p (podAt s p).supplyFault true 5 (supplyOvervolt p s) := by
  have hf := dropFaulted_failure hp 2 s
  have he : ¬((podAt s p).state == .empty) = true := by simpa using hn
  unfold supplyOvervolt
  simp only [if_neg he]
  refine downed_signalUnit (downed_raised hp (by decide) ?_) (by decide) (by simp [hasUnit])
  rw [podAt_modPod_self hp]
  simp only [Pod.failure, Prod.mk.injEq, and_true] at hf ⊢
  obtain ⟨hs, ho, hm, hv, -⟩ := hf
  exact ⟨hs, ho, hm, hv⟩

end

section
variable {s : State} {p : Fin 16}

section
variable {mv ma : Nat} (hs : (podAt s p.val).state = .powering)
  (ht : (podAt s p.val).since + 5 * msTicks s / 2 ≤ s.tm.tick)
include hs ht

/-- Once the soft start has lasted, the output decides. -/
theorem podPowerGoodCheck_checks : exec (.podPowerGoodCheck p mv ma) s = .next
    (if 20 * (mv - descVpod (descOf p.val s)) ≤ descVpod (descOf p.val s) ∧
        20 * (descVpod (descOf p.val s) - mv) ≤ descVpod (descOf p.val s)
      then reachJoining p.val (modPod p.val (fun q => { q with supplyMv := mv, supplyMa := ma }) s)
      else supplyFault p.val (modPod p.val (fun q => { q with supplyMv := mv, supplyMa := ma }) s)) := by
  have hd : descOf p.val (modPod p.val (fun q => { q with supplyMv := mv, supplyMa := ma }) s) = descOf p.val s := by
    rw [descOf_modPod_self p.isLt]
    rfl
  change execPodPowerGoodCheck p mv ma s = _
  simp only [execPodPowerGoodCheck, hs, lasted_iff.mpr ht, and_self, if_true, hd]

theorem podPowerGoodCheck_joins (hu : 20 * (mv - descVpod (descOf p.val s)) ≤ descVpod (descOf p.val s))
    (hl : 20 * (descVpod (descOf p.val s) - mv) ≤ descVpod (descOf p.val s)) (ha : s.dev.acq ≠ .idle)
    (ho : (podAt s p.val).onFor = []) : exec (.podPowerGoodCheck p mv ma) s = .next (movePod p.val (fun q => { q with
      supplyMv := mv, supplyMa := ma, state := .joining, reject := 0, since := s.tm.tick }) s) := by
  rw [podPowerGoodCheck_checks hs ht, if_pos ⟨hu, hl⟩, reachJoining_acquiring p.isLt (by simp [hs])
    (by rwa [modPod_dev]) (by simpa using ho), movePod_modPod]
  exact congrArg _ (movePod_congr rfl)

theorem podPowerGoodCheck_faults (hv : descVpod (descOf p.val s) < 20 * (mv - descVpod (descOf p.val s)) ∨
      descVpod (descOf p.val s) < 20 * (descVpod (descOf p.val s) - mv)) :
    ∃ t, exec (.podPowerGoodCheck p mv ma) s = .next t ∧ Downed p.val true (podAt s p.val).overvolt 4 t := by
  refine ⟨_, (podPowerGoodCheck_checks hs ht).trans (congrArg _ (if_neg (by omega))), ?_⟩
  have hd := supplyFault_downs (s := modPod p.val (fun q => { q with supplyMv := mv, supplyMa := ma }) s) p.isLt
    (by simp [hs])
  rwa [podAt_modPod_self p.isLt] at hd

end

theorem podPowerGoodCheck_early (ht : s.tm.tick < (podAt s p.val).since + 5 * msTicks s / 2) (mv ma : Nat) :
    exec (.podPowerGoodCheck p mv ma) s = .next s :=
  if_neg fun h => Nat.not_le.mpr ht (lasted_iff.mp h.2)

theorem podPowerGoodCheck_elsewhere (hs : (podAt s p.val).state ≠ .powering) (mv ma : Nat) :
    exec (.podPowerGoodCheck p mv ma) s = .next s :=
  if_neg fun h => hs h.1

theorem podSupplyFault_faults (hl : podLive (podAt s p.val) = true) (ho : (podAt s p.val).supplyOn = true) :
    ∃ t, exec (.podSupplyFault p) s = .next t ∧ Downed p.val true (podAt s p.val).overvolt 4 t :=
  ⟨_, congrArg Host.Outcome.next (if_pos (.inl ⟨hl, ho⟩)),
    supplyFault_downs p.isLt fun he => by simp [podLive, he] at hl⟩

theorem podOvervolt_faults (ho : (podAt s p.val).supplyOn = true) (hn : (podAt s p.val).state ≠ .empty) :
    ∃ t, exec (.podOvervolt p) s = .next t ∧ Downed p.val (podAt s p.val).supplyFault true 5 t :=
  ⟨_, congrArg Host.Outcome.next (if_pos (.inl ho)), supplyOvervolt_downs p.isLt hn⟩

theorem podSupply_off (ho : (podAt s p.val).supplyOn = false) (hd : droppedNow p.val s = false) :
    exec (.podSupplyFault p) s = .next s ∧ exec (.podOvervolt p) s = .next s :=
  ⟨congrArg Host.Outcome.next (if_neg (by simp [ho, hd])), congrArg Host.Outcome.next (if_neg (by simp [ho, hd]))⟩

end

/-! ### Joining (R58 step 7, R60, R66) -/

/-- `t` is `s` but for pod `p` and parts that show nothing of the pods, the configuration or the ring. -/
structure OnlyPod (p : Nat) (s t : State) : Prop where
  others : ∀ i < 16, i ≠ p → podAt t i = podAt s i
  cfg    : t.cfg = s.cfg
  ring   : t.ring = s.ring
  dev    : t.dev = s.dev

theorem OnlyPod.trans {p : Nat} {s t u : State} (h : OnlyPod p s t) (k : OnlyPod p t u) : OnlyPod p s u :=
  ⟨fun i hi hn => (k.others i hi hn).trans (h.others i hi hn), k.cfg.trans h.cfg, k.ring.trans h.ring,
    k.dev.trans h.dev⟩

/-- An update of other parts. -/
theorem OnlyPod.lit {p : Nat} {s t u : State} (h : OnlyPod p s t)
    (hf : (u.pods, u.cfg, u.ring, u.dev) = (t.pods, t.cfg, t.ring, t.dev)) : OnlyPod p s u := by
  simp only [Prod.mk.injEq] at hf
  obtain ⟨hp, hc, hg, hd⟩ := hf
  exact h.trans ⟨fun _ _ _ => by rw [podAt, hp, podAt], hc, hg, hd⟩

theorem OnlyPod.refl (p : Nat) (s : State) : OnlyPod p s s := ⟨fun _ _ _ => rfl, rfl, rfl, rfl⟩

theorem OnlyPod.ite {p : Nat} {s a b : State} {c : Prop} [Decidable c] (ha : OnlyPod p s a) (hb : OnlyPod p s b) :
    OnlyPod p s (if c then a else b) := by
  split
  · exact ha
  · exact hb

section
variable {s : State} {p : Nat}

theorem modPod_only (f : Pod → Pod) (s : State) : OnlyPod p s (modPod p f s) :=
  ⟨fun _ hi hn => (podAt_modPod p f s hi).trans (if_neg hn.symm), rfl, rfl, rfl⟩

theorem applyDeskew_hushed (p : Nat) (s : State) : (applyDeskew p s).hushed = s.hushed := by
  unfold applyDeskew
  split
  · exact (raises_raise 6 3 s).hushed
  · rfl

/-- A pod becomes ACTIVE, and nothing else changes but what the events write. -/
theorem activatePod_hushed (hn : (podAt s p).state ≠ .active) :
    (activatePod p s).hushed = (movePod p (Pod.enter .active s.tm.tick) s).hushed := by
  rw [activatePod, (raises_raise 5 1 _).hushed, applyDeskew_hushed, setPod_enters hn]

theorem activatePod_marks (p : Nat) (s : State) : (activatePod p s).rawBit 5 1 = true := raise_marks_pod _ (by decide)

theorem podAt_activatePod (hn : (podAt s p).state ≠ .active) (i : Nat) :
    podAt (activatePod p s) i = podAt (movePod p (Pod.enter .active s.tm.tick) s) i := by
  change podAt (activatePod p s).hushed i = podAt (movePod p (Pod.enter .active s.tm.tick) s).hushed i
  rw [activatePod_hushed hn]

theorem activatePod_only (hn : (podAt s p).state ≠ .active) : OnlyPod p s (activatePod p s) := by
  have h := activatePod_hushed hn
  refine ⟨fun i hi hne => ?_, congrArg (·.cfg) h, congrArg (·.ring) h, congrArg (·.dev) h⟩
  rw [podAt_activatePod hn, podAt_movePod _ _ _ hi, if_neg hne.symm]

theorem closePodGap_only (p row : Nat) (s : State) : OnlyPod p s (closePodGap p row s) := by
  have h := modPod_only (p := p) (fun q => { q with gapFrom := none }) s
  unfold closePodGap
  split
  · exact .refl p s
  · exact .ite (h.lit (by rfl)) h

theorem closePodGap_state (hp : p < 16) (row : Nat) (s : State) :
    (podAt (closePodGap p row s) p).state = (podAt s p).state := by
  have h : (podAt (modPod p (fun q => { q with gapFrom := none }) s) p).state = (podAt s p).state := by
    rw [podAt_modPod_self hp]
  unfold closePodGap
  split
  · rfl
  · dsimp only
    split
    · exact h
    · exact h

/-- A pod as it begins to capture at a row. -/
def Pod.capturing (row : Nat) (q : Pod) : Pod :=
  { leaveCapture q with capture := some { first := row, joined := true, gone := none } }

theorem enterCapture_eq (p row : Nat) (s : State) :
    ∃ i, enterCapture p row s = { modPod p (Pod.capturing row) s with inputs := i } := by
  unfold enterCapture
  refine List.foldlRecOn (motive := fun x : State => ∃ i, x = { modPod p (Pod.capturing row) s with inputs := i }) _ _
    ⟨s.inputs, rfl⟩ ?_
  rintro _ ⟨i, rfl⟩ k -
  exact ⟨_, rfl⟩

/-- A pod joins at once while nothing is recorded (R60). -/
theorem joinPod_idle (hs : (podAt s p).state = .joining) (ha : s.dev.acq = .idle) :
    joinPod p s = activatePod p (modPod p clearCapture s) := by
  rw [joinPod, if_neg (not_not_intro hs), if_pos ha]

theorem joinPod_row {r : Nat} (hs : (podAt s p).state = .joining) (ha : s.dev.acq ≠ .idle) (hr : joinRow p s = some r) :
    joinPod p s = joinAt p r s := by
  rw [joinPod, if_neg (not_not_intro hs), if_neg ha, hr]

end

section
variable {s : State} {p : Fin 16}

theorem podJoin_idle (hs : (podAt s p.val).state = .joining) (ha : s.dev.acq = .idle) : ∃ t,
    exec (.podJoin p) s = .next t ∧ podAt t p.val = Pod.enter .active s.tm.tick (clearCapture (podAt s p.val)) ∧
      t.podc.pending = s.podc.pending ||| 2 ^ p.val ∧ t.rawBit 5 1 = true ∧ t.inputs = s.inputs ∧ OnlyPod p.val s t := by
  have hn : (podAt (modPod p.val clearCapture s) p.val).state ≠ .active := by
    simp [clearCapture, hs]
  have h := activatePod_hushed hn
  refine ⟨_, congrArg Host.Outcome.next (joinPod_idle hs ha), ?_, congrArg (·.podc.pending) h, activatePod_marks _ _,
    congrArg (·.inputs) h, (modPod_only _ s).trans (activatePod_only hn)⟩
  rw [podAt_activatePod hn, podAt_movePod_self p.isLt, podAt_modPod_self p.isLt]
  rfl

theorem podJoin_row {r : Nat} (hs : (podAt s p.val).state = .joining) (ha : s.dev.acq ≠ .idle)
    (hr : joinRow p.val s = some r) : ∃ t, exec (.podJoin p) s = .next t ∧ (∃ q, podAt t p.val = Pod.capturing r q ∧
      q.state = .active) ∧ t.rawBit 5 1 = true ∧ OnlyPod p.val s t := by
  refine ⟨_, congrArg Host.Outcome.next (joinPod_row hs ha hr), ?_⟩
  unfold joinAt
  extract_lets d ret x y
  have hx : OnlyPod p.val s (closePodGap p.val r x) := ((OnlyPod.refl p.val s).lit (by rfl)).trans (closePodGap_only p.val r x)
  have hn : (podAt (closePodGap p.val r x) p.val).state ≠ .active := by
    rw [closePodGap_state p.isLt]
    exact fun h => PodState.noConfusion (hs.symm.trans h)
  have hy : OnlyPod p.val s y := hx.trans (activatePod_only hn)
  have hm : y.rawBit 5 1 = true := activatePod_marks _ _
  have hq : (podAt y p.val).state = .active := by
    rw [podAt_activatePod hn, podAt_movePod_self p.isLt]
    rfl
  clear_value y
  obtain ⟨i, hi⟩ := enterCapture_eq p.val r y
  rw [hi]
  exact ⟨⟨podAt y p.val, podAt_modPod_self p.isLt _ y, hq⟩, hm, (hy.trans (modPod_only _ y)).lit rfl⟩

theorem podJoin_elsewhere (hs : (podAt s p.val).state ≠ .joining) : exec (.podJoin p) s = .next s :=
  congrArg Host.Outcome.next (if_pos hs)

/-! ### Removal (R63) -/

/-- A removed pod's port (R63). -/
def Pod.emptied (now : Nat) (q : Pod) : Pod :=
  { Pod.enter .empty now { q with supplyOn := false, supplyMv := 0, supplyMa := 0, offStaged := false } with
    present := false, vaux := false, desc := none, supplySet := 0, supplyLimit := 0, readFails := 0, telemBusy := false,
    telemFails := 0, hot := false, waiting := false }

theorem emptyPort_eq {p : Nat} {x : State} (hp : p < 16) (hn : (podAt x p).state ≠ .empty) :
    emptyPort p x = settleOn p (movePod p (Pod.emptied x.tm.tick) x) := by
  unfold emptyPort supplyCut
  dsimp only
  rw [setPod_enters (by rwa [podAt_modPod_self hp]), movePod_modPod, modPod_movePod]
  rfl

theorem podRemoval_empties (he : (podAt s p.val).state ≠ .empty) (hd : (podAt s p.val).state ≠ .debounce) :
    exec (.podRemoval p) s = .next (raise 5 2 (emptyPort p.val (dropPod p.val 0 s))) := by
  change execPodRemoval p s = _
  unfold execPodRemoval
  split
  · contradiction
  · contradiction
  · rfl

theorem podRemoval_leaves (he : (podAt s p.val).state ≠ .empty) (hd : (podAt s p.val).state ≠ .debounce) :
    ∃ x t now, exec (.podRemoval p) s = .next t ∧ Steady s x ∧ Steady (movePod p.val (Pod.emptied now) x) t ∧
      t.rawBit 5 2 = true := by
  have hx := dropPod_steady (.refl s) p.val 0
  have hn : (podAt (dropPod p.val 0 s) p.val).state ≠ .empty := by
    have hs : (podAt (dropPod p.val 0 s) p.val).state = (podAt s p.val).state := congrArg (·.1) (hx.port p.val p.isLt)
    rwa [hs]
  refine ⟨dropPod p.val 0 s, _, (dropPod p.val 0 s).tm.tick, podRemoval_empties he hd, hx, ?_,
    raise_marks_pod _ (by decide)⟩
  rw [emptyPort_eq p.isLt hn]
  exact raise_steady (settleOn_steady (.refl _) p.val) 5 2

theorem podRemoval_vacant (h : (podAt s p.val).state = .empty) :
    exec (.podRemoval p) s = .next (modPod p.val (fun q => { q with present := false }) s) := by
  change execPodRemoval p s = _
  rw [execPodRemoval, h]

theorem podRemoval_debouncing (h : (podAt s p.val).state = .debounce) : exec (.podRemoval p) s = .next s := by
  change execPodRemoval p s = _
  rw [execPodRemoval, h]

end

section
variable {s : State} {p : Fin 16}

/-- What is left of a removed pod's port, and of the rest. -/
theorem podRemoval_clears (he : (podAt s p.val).state ≠ .empty) (hd : (podAt s p.val).state ≠ .debounce) :
    ∃ t, exec (.podRemoval p) s = .next t ∧
      (podAt t p.val).port = (.empty, 0, false, none, false, false, 0, false, false) ∧
      t.podc.pending = s.podc.pending ||| 2 ^ p.val ∧ t.rawBit 5 2 = true ∧
      (∀ i < 16, i ≠ p.val → (podAt t i).port = (podAt s i).port) ∧ t.cfg = s.cfg ∧ t.dev = s.dev ∧ t.flt = s.flt := by
  obtain ⟨x, t, now, ht, hx, hk, hm⟩ := podRemoval_leaves he hd
  refine ⟨t, ht, ?_, ?_, hm, fun i hi hn => ?_, hk.cfg.trans hx.cfg, hk.dev.trans hx.dev, hk.flt.trans hx.flt⟩
  · rw [hk.port p.val p.isLt, podAt_movePod_self p.isLt]
    rfl
  · rw [hk.podc, ← hx.podc]
    rfl
  · rw [hk.port i hi, podAt_movePod _ _ _ hi, if_neg hn.symm, hx.port i hi]

end

namespace PodFamily

/-- Settles O37, clause by clause. -/
theorem podSupply : Obligations.PodSupply := by
  refine ⟨fun s p mv ma hs hu hl ht ha ho => ⟨_, podPowerGoodCheck_joins hs ht hu hl ha ho, movePod_frame p _ s⟩,
    fun s p mv ma hs hv ht => ?_,
    fun _ _ mv ma ht => podPowerGoodCheck_early ht mv ma,
    fun _ _ mv ma hs => podPowerGoodCheck_elsewhere hs mv ma,
    fun s p hl ho => ?_,
    fun s p ho hn => ?_,
    fun _ _ ho hd => podSupply_off ho hd,
    fun s p hs ha => ?_,
    fun s p r hs ha hr => ?_,
    fun _ _ hs => podJoin_elsewhere hs,
    fun s p he hd => ?_,
    fun _ _ he => podRemoval_vacant he,
    fun _ _ hd => podRemoval_debouncing hd⟩
  · obtain ⟨t, he, h⟩ := podPowerGoodCheck_faults hs ht hv
    exact ⟨t, he, h.state, h.supplyOn, h.supplyMv, h.supplyFault, h.marked⟩
  · obtain ⟨t, he, h⟩ := podSupplyFault_faults hl ho
    exact ⟨t, he, h.state, h.supplyOn, h.supplyMv, h.supplyFault, h.marked⟩
  · obtain ⟨t, he, h⟩ := podOvervolt_faults ho hn
    exact ⟨t, he, h.state, h.supplyOn, h.supplyMv, h.overvolt, h.marked⟩
  · obtain ⟨t, he, hp, hb, hm, hi, h⟩ := podJoin_idle hs ha
    exact ⟨t, he, by rw [hp]; rfl, by rw [hp]; rfl, by rw [hp]; rfl, hb, hm, h.others, hi, h.cfg, h.ring, h.dev⟩
  · obtain ⟨t, he, ⟨q, hp, hq⟩, hm, h⟩ := podJoin_row hs ha hr
    exact ⟨t, he, by rw [hp]; exact hq, by rw [hp]; rfl, by rw [hp]; rfl, hm, h.others, h.cfg, h.ring, h.dev⟩
  · obtain ⟨t, ht, hp, hb, hm, ho, hc, hv, hf⟩ := podRemoval_clears he hd
    simp only [Pod.port, Prod.mk.injEq] at hp ho
    obtain ⟨hstate, hreject, hpresent, hdesc, hvaux, hon, -, hfault, hover⟩ := hp
    exact ⟨t, ht, hstate, hpresent, hon, hvaux, hdesc, hfault, hover, hreject, hb, hm, fun i hi hn => (ho i hi hn).1, hc,
      hv, hf⟩

end PodFamily

end Sys2Proof.Machine

/-! ## Rotations of a pod with one spare (O40) -/

namespace Sys2Proof.Machine

/-- A calibrated pod that has one spare pair left (R119), in a rotation at input 4 whose last step was 250 us ago. -/
def oneSpareLeft : State :=
  { State.reset with
    dev := { State.reset.dev with powered := true, ready := true }
    summit := { State.reset.summit with state := .running }
    tm := { State.reset.tm with tick := 250 * usTicks State.reset }
    pods := tabMod State.reset.pods 0 fun q => { q with cal := { q.cal with
      calibrated := 2 ^ 19 - 1, failed := [18], spares := [17], rotating := some 4, stepAt := some 0 } } }

/-- With one spare a step is due 500 us after the one before (R119), so none is taken yet. -/
theorem calSwapStart_oneSpare : exec (.calSwapStart 0) oneSpareLeft = .next oneSpareLeft := by
  have hs : spareCount (calAt oneSpareLeft 0) = 1 := by decide +kernel
  have hr : (calAt oneSpareLeft 0).rotating = some 4 := by decide +kernel
  have hd : stepDue 500 (calAt oneSpareLeft 0) oneSpareLeft = false := by decide +kernel
  change execCalSwapStart 0 oneSpareLeft = _
  simp only [execCalSwapStart, Fin.val_zero, hr, hs, le_refl, if_true, hd, Bool.false_eq_true, and_false, if_false]

/-- Refutes O40: a pod with one spare left takes its steps every 500 us (R119), so 250 us after a step none is due, and its
next input is not put in shadow. -/
theorem not_calibrationSteps : ¬ Obligations.CalibrationSteps := by
  rintro ⟨-, -, h, -⟩
  have hx := h oneSpareLeft 0 4 (by decide +kernel) (by decide +kernel) (by decide +kernel) (by decide +kernel)
    (by decide +kernel) (by decide +kernel) (by decide +kernel) (by decide +kernel)
  have hc := congrArg (fun s => (calAt s 0).shadow) (Host.Outcome.next.inj (calSwapStart_oneSpare.symm.trans hx))
  exact absurd hc (by decide +kernel)

end Sys2Proof.Machine

/-! ## The last spare lost under a severity of SAFE (O41) -/

namespace Sys2Proof.Machine

/-- A device whose collector is on and whose host has set the severity of F20 to SAFE (R568), in a configuration scan that is to
be compared (R550). One pair of pod 0 is out of use and another is detached for its reference calibration. -/
def lastSpareUnderSafe : State :=
  { State.reset with
    dev := { State.reset.dev with powered := true, ready := true }
    summit := { State.reset.summit with state := .running }
    cfg := { State.reset.cfg with unfit := false }
    flt := { State.reset.flt with on := true, sev := tabMod State.reset.flt.sev 1 fun w => w ||| 0x300 }
    pods := tabMod State.reset.pods 0 fun q => { q with cal := { q.cal with
      calibrated := 2 ^ 19 - 1, failed := [18], detached := [17], spares := [] } } }

/-- F20 then enters the safe state, where no scan is compared (R550, R571). -/
theorem calPairDone_failed_unfit {t : State} (h : exec (.calPairDone 0 17 false 0 0) lastSpareUnderSafe = .next t) :
    t.cfg.unfit = true := by
  have ht : (match exec (.calPairDone 0 17 false 0 0) lastSpareUnderSafe with
    | .next u => u.cfg.unfit
    | _ => false) = true := by decide +kernel
  rw [h] at ht
  exact ht

/-- Refutes O41: the pair that fails may be the last spare (R119), and the severity of the F20 which that signals is the host's
to set (R568): under SAFE it enters the safe state, which ends the scan of the configuration besides; so the part `cfg` of the
state does not stay as it was. -/
theorem not_frontEndSettings : ¬ Obligations.FrontEndSettings := by
  rintro ⟨-, h, -⟩
  obtain ⟨t, ht, -, -, -, -, -, hcfg⟩ := h lastSpareUnderSafe 0 17 0 0 (by decide +kernel) (by decide +kernel)
    (by decide +kernel)
  have hu : t.cfg.unfit = true := calPairDone_failed_unfit ht
  rw [hcfg] at hu
  exact Bool.false_ne_true hu

end Sys2Proof.Machine

/-! ## What the front end leaves of the inputs (O42) -/

namespace Sys2Proof.Machine

/-- Reading entry `j` after a change of entry `n`. -/
theorem inputAt_modInput (n : Nat) {j : Nat} (f : Input → Input) (s : State) (h : j < 272) :
    inputAt (modInput n f s) j = if n = j then f (inputAt s j) else inputAt s j :=
  tabGet_tabMod_lt s.inputs f h _ _

theorem modInput_modInput (n : Nat) (f g : Input → Input) (s : State) :
    modInput n g (modInput n f s) = modInput n (g ∘ f) s := by
  simp only [modInput, tabMod_tabMod]

theorem modInput_congr {n : Nat} {f g : Input → Input} {s : State} (h : f (inputAt s n) = g (inputAt s n)) :
    modInput n f s = modInput n g s := by
  simp only [modInput, tabMod_congr h]

/-- What an input shows of its comparators (R99, R129, R130): outputs, level, grid steps, edge count and transit. -/
def Input.shown (i : Input) : Bool × Bool × Bool × Option Nat × Option Nat × Word × Bool × Nat :=
  (i.u, i.l, i.level, i.uGrid, i.lGrid, i.edgeCnt, i.valid, i.transit)

/-- The parts of a state that the front end only reads. -/
def State.behind (s : State) : Dev × Cfg × Ring × Tm × Tab 8 Mailbox × Tab 4 Seq × Flt × List Output :=
  (s.dev, s.cfg, s.ring, s.tm, s.mb, s.seqs, s.flt, s.out)

/-- Every input shows the same in `t` as in `s`, and the parts that the front end only reads are the same. -/
structure Shows (s t : State) : Prop where
  behind : t.behind = s.behind
  shown  : ∀ j < 272, (inputAt t j).shown = (inputAt s j).shown

namespace Shows

theorem refl (s : State) : Shows s s := ⟨rfl, fun _ _ => rfl⟩

theorem trans {s t u : State} (h : Shows s t) (k : Shows t u) : Shows s u :=
  ⟨k.behind.trans h.behind, fun j hj => (k.shown j hj).trans (h.shown j hj)⟩

/-- An update of other parts. -/
theorem lit {s x t : State} (h : Shows s x) (hf : (t.behind, t.inputs) = (x.behind, x.inputs)) : Shows s t := by
  obtain ⟨hb, hi⟩ := Prod.mk.inj hf
  exact h.trans ⟨hb, fun _ _ => by simp only [inputAt, hi]⟩

theorem ite {s a b : State} {c : Prop} [Decidable c] (ha : Shows s a) (hb : Shows s b) :
    Shows s (if c then a else b) := by
  split
  · exact ha
  · exact hb

theorem foldl {α : Type} {s : State} {f : State → α → State} (hf : ∀ x a, Shows s x → Shows s (f x a)) (l : List α)
    {x : State} (hx : Shows s x) : Shows s (l.foldl f x) :=
  List.foldlRecOn l f hx fun x h a _ => hf x a h

/-- An update of what an input does not show. -/
theorem unseen {s x : State} (h : Shows s x) (n : Nat) {f : Input → Input} (hf : ∀ i, (f i).shown = i.shown) :
    Shows s (modInput n f x) := by
  refine h.trans ⟨rfl, fun j hj => ?_⟩
  rw [inputAt_modInput n f x hj]
  split
  · exact hf _
  · rfl

/-- The same update on both sides, of which an input shows no more than before tells. -/
theorem modInput {s t : State} (h : Shows s t) (n : Nat) {f : Input → Input}
    (hf : ∀ i k, k.shown = i.shown → (f k).shown = (f i).shown) : Shows (modInput n f s) (modInput n f t) := by
  refine ⟨h.behind, fun j hj => ?_⟩
  rw [inputAt_modInput n f t hj, inputAt_modInput n f s hj]
  split
  · exact hf _ _ (h.shown j hj)
  · exact h.shown j hj

end Shows

section
variable {s₀ s : State} (hk : Shows s₀ s)
include hk

/-! ### Events and state samples (R109 to R112) -/

theorem raise_shows (g b : Nat) : Shows s₀ (raise g b s) := hk.lit (by simp [State.behind])

theorem modPod_shows (p : Nat) (f : Pod → Pod) : Shows s₀ (modPod p f s) := hk.lit rfl

theorem judgeEdge_shows (p tc : Nat) : Shows s₀ (judgeEdge p tc s) := by
  unfold judgeEdge
  extract_lets q c ts fast en data w viol x
  have hx : Shows s₀ x := modPod_shows hk p _
  exact .ite (raise_shows (modPod_shows hk p _) 6 5) (.ite (modPod_shows hk p _) (.ite (raise_shows hx 6 6) hx))

theorem judgeClocks_shows (p t : Nat) : Shows s₀ (judgeClocks p t s) := by
  unfold judgeClocks
  exact modPod_shows (Shows.foldl (fun _ tc h => judgeEdge_shows h p tc) _ hk) p _

theorem flagSamples_shows (p t : Nat) : Shows s₀ (flagSamples p t s) := by
  unfold flagSamples
  exact Shows.foldl (fun _ _ h => raise_shows h 6 6) _ (modPod_shows hk p _)

theorem trimIdle_shows (p t : Nat) : Shows s₀ (trimIdle p t s) := by
  unfold trimIdle
  exact .ite (modPod_shows hk p _) hk

/-! ### The qualifiers (R177 to R188) -/

theorem detectIn_shows (n k place : Nat) : Shows s₀ (detectIn n k place s) := by
  unfold detectIn
  dsimp only
  exact .ite (hk.lit (by rfl)) hk

theorem endHold_shows (n : Nat) : Shows s₀ (endHold n s) := by
  unfold endHold
  dsimp only
  split
  · exact hk
  · next h _ =>
    have hi : Shows s₀ (modInput n (fun i => { i with tStart := none }) s) := hk.unseen n fun _ => rfl
    exact .ite hi (detectIn_shows hi n _ _)

theorem endDue_shows (n k : Nat) : Shows s₀ (if holdDue n k s then endHold n s else s) := .ite (endHold_shows hk n) hk

theorem requalify_shows : Shows s₀ (requalify s) := by
  unfold requalify
  dsimp only
  split
  · next e _ _ =>
    refine Shows.foldl (fun x n h => .ite ?_ h) _ (hk.lit (by rfl))
    exact (endDue_shows h n (e - 1)).unseen n fun _ => rfl
  · exact hk

theorem qualChange_shows (n : Nat) (nl : Bool) (tx tev : Nat) (valid : Bool) (d : Nat) :
    Shows s₀ (qualChange n nl tx tev valid d s) := by
  have hd (k place : Nat) : Shows s₀ (detectIn n k place s) := detectIn_shows hk n k place
  unfold qualChange
  dsimp only
  split
  · exact (endDue_shows hk n _).unseen n fun _ => rfl
  · split
    · exact .ite (hd _ _) hk
    · refine Shows.unseen ?_ n fun _ => rfl
      split
      · exact .ite (hd _ _) hk
      · exact hk
    · exact (endDue_shows hk n _).unseen n fun _ => rfl
    · exact .ite (hd _ _) hk
    · exact hk

theorem runt_shows (n w t : Nat) : Shows s₀ (runt n w t s) := .ite (detectIn_shows hk n _ _) hk

theorem qualRunt_shows (n : Nat) (upper out : Bool) (t : Nat) (level : Bool) :
    Shows s₀ (qualRunt n upper out t level s) := by
  have hi (h : Option Nat) : Shows s₀ (modInput n (fun i => { i with hi := h }) s) := hk.unseen n fun _ => rfl
  have lo (h : Option Nat) : Shows s₀ (modInput n (fun i => { i with lo := h }) s) := hk.unseen n fun _ => rfl
  unfold qualRunt
  refine .ite hk (.ite (hk.unseen n fun _ => rfl) (.ite ?_ (.ite ?_ hk)))
  · split
    · exact hi _
    · exact hi _
    · split
      · exact runt_shows (hi _) n _ t
      · exact hk
    · exact hk
  · split
    · exact lo _
    · exact lo _
    · split
      · exact runt_shows (lo _) n _ t
      · exact hk
    · exact hk

end

/-! ### A comparator event (R96, R99, R104) -/

/-- The level of an input after an event of a comparator (R96): high with U, kept with L alone, low with neither. -/
def Input.levelAfter (upper out : Bool) (i : Input) : Bool :=
  if (if upper then out else i.u) then true else if (if upper then i.l else out) then i.level else false

/-- An input whose comparator has made an event, but for its level (R99, R104). -/
def Input.observe (u l upper out : Bool) (grid t : Nat) (i : Input) : Input :=
  { i with
    u := u, l := l,
    uGrid := if upper then some grid else i.uGrid, lGrid := if upper then i.lGrid else some grid,
    upL := if !upper && out then some t else i.upL, downU := if upper && !out then some t else i.downU }

/-- An input whose level changed with a crossing (R104, R107, R130). -/
def Input.cross (nl : Bool) (x : Nat × Bool × Nat) (i : Input) : Input :=
  { i with level := nl, edgeCnt := i.edgeCnt + 1, transit := x.2.2, valid := x.2.1 }

theorem Input.shown_observe {i k : Input} (h : k.shown = i.shown) (u l upper out : Bool) (grid t : Nat) :
    (k.observe u l upper out grid t).shown = (i.observe u l upper out grid t).shown := by
  simp only [Input.shown, Prod.mk.injEq] at h
  simp [Input.shown, Input.observe, h]

theorem Input.shown_cross {i k : Input} (h : k.shown = i.shown) (nl : Bool) (x : Nat × Bool × Nat) :
    (k.cross nl x).shown = (i.cross nl x).shown := by
  simp only [Input.shown, Prod.mk.injEq] at h
  simp [Input.shown, Input.cross, h]

theorem levelChange_shows (n : Nat) (nl : Bool) (t : Nat) (x : Nat × Bool × Nat) (s : State) :
    Shows (modInput n (Input.cross nl x) s) (levelChange n nl t x s) := by
  have hk := Shows.refl (modInput n (Input.cross nl x) s)
  unfold levelChange
  extract_lets y z p e
  have hz : Shows (modInput n (Input.cross nl x) s) z :=
    .ite (qualChange_shows hk n nl _ t _ _) (.ite (hk.unseen n fun _ => rfl) hk)
  clear_value z
  exact .ite (.ite (flagSamples_shows hz p t) hz) (.ite (.ite (modPod_shows hz p _) hz) hz)

/-- The crossing of the level change that an event of a comparator makes at `t` (R104, R106). -/
def crossingAt (n : Nat) (upper out : Bool) (t : Nat) (s : State) : Nat × Bool × Nat :=
  let i := inputAt s n
  crossing (actCh s n) (i.levelAfter upper out) (pairedEvent i (i.levelAfter upper out) upper (epochStart (podOf n) t s)) t

/-- An input after an event of a comparator; `x` is the crossing of its level change, if it changes. -/
def Input.after (upper out : Bool) (grid t : Nat) (x : Nat × Bool × Nat) (i : Input) : Input :=
  let o := i.observe (if upper then out else i.u) (if upper then i.l else out) upper out grid t
  if i.levelAfter upper out = i.level then o else o.cross (i.levelAfter upper out) x

theorem Input.shown_after {i k : Input} (h : k.shown = i.shown) (upper out : Bool) (grid t : Nat)
    (x : Nat × Bool × Nat) : (k.after upper out grid t x).shown = (i.after upper out grid t x).shown := by
  have hs := h
  simp only [Input.shown, Prod.mk.injEq] at hs
  obtain ⟨hu, hl, hv, -⟩ := hs
  have hlv : k.levelAfter upper out = i.levelAfter upper out := by simp only [Input.levelAfter, hu, hl, hv]
  have ho := Input.shown_observe h (if upper then out else i.u) (if upper then i.l else out) upper out grid t
  unfold Input.after
  rw [hlv, hu, hl, hv]
  dsimp only
  split
  · exact ho
  · exact Input.shown_cross ho _ x

section
variable (upper out : Bool) (grid t : Nat) (x : Nat × Bool × Nat) (i : Input)

/-- What an input shows after an event, but for its level and what follows a change of it. -/
theorem Input.after_outputs : (i.after upper out grid t x).u = (if upper then out else i.u) ∧
    (i.after upper out grid t x).l = (if upper then i.l else out) ∧
    (if upper then (i.after upper out grid t x).uGrid else (i.after upper out grid t x).lGrid) = some grid := by
  unfold Input.after
  dsimp only
  split
  · cases upper
    · exact ⟨rfl, rfl, rfl⟩
    · exact ⟨rfl, rfl, rfl⟩
  · cases upper
    · exact ⟨rfl, rfl, rfl⟩
    · exact ⟨rfl, rfl, rfl⟩

theorem Input.after_level : (i.after upper out grid t x).level = i.levelAfter upper out ∧
    (i.after upper out grid t x).edgeCnt = if i.levelAfter upper out = i.level then i.edgeCnt else i.edgeCnt + 1 := by
  unfold Input.after
  dsimp only
  split
  · next h => exact ⟨h.symm, rfl⟩
  · exact ⟨rfl, rfl⟩

theorem Input.after_transit (h : i.levelAfter upper out ≠ i.level) :
    ((i.after upper out grid t x).valid, (i.after upper out grid t x).transit) = x.2 := by
  unfold Input.after
  dsimp only
  rw [if_neg h]
  rfl

end

/-- An event of a comparator changes what its input shows, and no more of what the others show. -/
theorem applyEvent_shows (n : Nat) (upper out : Bool) (grid t : Nat) (s : State) :
    Shows (modInput n (Input.after upper out grid t (crossingAt n upper out t s)) s) (applyEvent n upper out grid t s) := by
  unfold applyEvent
  extract_lets i u l nl ch p x e y z w v
  have hy : Shows s y := .ite (qualRunt_shows (.refl s) n upper out t _) (.refl s)
  have hz : Shows (modInput n (Input.observe u l upper out grid t) s) z :=
    hy.modInput n fun _ _ h => Input.shown_observe h _ _ _ _ _ _
  have hw : Shows (modInput n (Input.observe u l upper out grid t) s) w := modPod_shows hz p _
  have hv : Shows (modInput n (Input.after upper out grid t x) s) v := by
    by_cases hl : nl = i.level
    · have hi : Input.after upper out grid t x i = Input.observe u l upper out grid t i := if_pos hl
      have he : v = w := if_neg (by simp [ch, hl])
      rw [modInput_congr hi, he]
      exact hw
    · have hi : Input.after upper out grid t x i = (Input.cross nl x ∘ Input.observe u l upper out grid t) i := if_neg hl
      have he : v = levelChange n nl t x w := if_pos (by simp [ch, hl])
      have hm := hw.modInput n (f := Input.cross nl x) fun _ _ h => Input.shown_cross h nl x
      rw [modInput_congr hi, he, ← modInput_modInput]
      exact hm.trans (levelChange_shows n nl t x w)
  exact trimIdle_shows (judgeClocks_shows hv p _) p t

/-- The state in which a valid event at `t` is taken: where a suppression has ended, the qualifiers have started afresh
(R186). -/
def requalifiedAt (t : Nat) (s : State) : State :=
  match s.fab.suspectTo with
  | some e => if e ≤ sampleOf t then requalify s else s
  | none => s

theorem requalifiedAt_shows (t : Nat) (s : State) : Shows s (requalifiedAt t s) := by
  unfold requalifiedAt
  split
  · exact .ite (requalify_shows (.refl s)) (.refl s)
  · exact .refl s

section
variable {s : State} {n : Fin 272} {up out : Bool} {g : Nat}

theorem comparatorEvent_applies (hv : eventValid n.val up out g s = true)
    (hb : beforeJoin n.val (eventTime n.val up g s) s = false) : exec (.comparatorEvent n up out g) s =
      .next (applyEvent n.val up out g (eventTime n.val up g s) (requalifiedAt (eventTime n.val up g s) s)) := by
  change execComparatorEvent n up out g s = _
  unfold execComparatorEvent
  dsimp only
  rw [if_pos ⟨hv, by simp [hb]⟩]
  rfl

theorem comparatorEvent_refused (h : eventValid n.val up out g s = false ∨
    beforeJoin n.val (eventTime n.val up g s) s = true) : exec (.comparatorEvent n up out g) s = .next s := by
  refine if_neg fun ⟨hv, hb⟩ => ?_
  rcases h with h | h
  · exact Bool.false_ne_true (h.symm.trans hv)
  · simp [h] at hb

/-- What the inputs show after a valid event; without a suppression its crossing is judged in the state that it finds. -/
theorem comparatorEvent_shows (hv : eventValid n.val up out g s = true)
    (hb : beforeJoin n.val (eventTime n.val up g s) s = false) : ∃ t x, exec (.comparatorEvent n up out g) s = .next t ∧
      Shows (modInput n.val (Input.after up out g (eventTime n.val up g s) x) s) t ∧
      (s.fab.suspectTo = none → x = crossingAt n.val up out (eventTime n.val up g s) s) := by
  have hq (x : Nat × Bool × Nat) := (requalifiedAt_shows (eventTime n.val up g s) s).modInput n.val fun _ _ h =>
    Input.shown_after h up out g (eventTime n.val up g s) x
  refine ⟨_, _, comparatorEvent_applies hv hb, (hq _).trans (applyEvent_shows _ _ _ _ _ _), fun hs => ?_⟩
  rw [requalifiedAt, hs]

/-- The input of the event shows what the event makes of it. -/
theorem Shows.self {f : Input → Input} {t : State} (h : Shows (Machine.modInput n.val f s) t) :
    (inputAt t n.val).shown = (f (inputAt s n.val)).shown := by
  rw [h.shown n.val n.isLt, inputAt_modInput _ _ _ n.isLt, if_pos rfl]

theorem Shows.other {f : Input → Input} {t : State} (h : Shows (Machine.modInput n.val f s) t) {j : Nat} (hj : j < 272)
    (hn : j ≠ n.val) : (inputAt t j).shown = (inputAt s j).shown := by
  rw [h.shown j hj, inputAt_modInput _ _ _ hj, if_neg hn.symm]

theorem comparatorEvent_sets (hv : eventValid n.val up out g s = true)
    (hb : beforeJoin n.val (eventTime n.val up g s) s = false) : ∃ t, exec (.comparatorEvent n up out g) s = .next t ∧
      (inputAt t n.val).u = (if up then out else (inputAt s n.val).u) ∧
      (inputAt t n.val).l = (if up then (inputAt s n.val).l else out) ∧
      (inputAt t n.val).level = (inputAt s n.val).levelAfter up out ∧
      (inputAt t n.val).edgeCnt = (if (inputAt s n.val).levelAfter up out = (inputAt s n.val).level
        then (inputAt s n.val).edgeCnt else (inputAt s n.val).edgeCnt + 1) ∧
      (if up then (inputAt t n.val).uGrid else (inputAt t n.val).lGrid) = some g ∧
      (∀ j < 272, j ≠ n.val → (inputAt t j).u = (inputAt s j).u ∧ (inputAt t j).l = (inputAt s j).l ∧
        (inputAt t j).level = (inputAt s j).level ∧ (inputAt t j).edgeCnt = (inputAt s j).edgeCnt) ∧
      t.behind = s.behind := by
  obtain ⟨t, x, he, hs, -⟩ := comparatorEvent_shows hv hb
  have hn := hs.self
  simp only [Input.shown, Prod.mk.injEq] at hn
  obtain ⟨hu, hl, hlv, hug, hlg, hc, -⟩ := hn
  obtain ⟨hau, hal, hag⟩ := Input.after_outputs up out g (eventTime n.val up g s) x (inputAt s n.val)
  obtain ⟨hav, hac⟩ := Input.after_level up out g (eventTime n.val up g s) x (inputAt s n.val)
  refine ⟨t, he, hu.trans hau, hl.trans hal, hlv.trans hav, hc.trans hac, by rw [hug, hlg, hag], fun j hj hne => ?_,
    hs.behind⟩
  have ho := hs.other hj hne
  simp only [Input.shown, Prod.mk.injEq] at ho
  obtain ⟨hu, hl, hlv, -, -, hc, -⟩ := ho
  exact ⟨hu, hl, hlv, hc⟩

/-- Where no suppression has ended, a level change leaves its crossing in CH_TRANSIT (R107). -/
theorem comparatorEvent_transit (hv : eventValid n.val up out g s = true)
    (hb : beforeJoin n.val (eventTime n.val up g s) s = false) (hs : s.fab.suspectTo = none)
    (hl : (inputAt s n.val).levelAfter up out ≠ (inputAt s n.val).level) : ∃ t,
      exec (.comparatorEvent n up out g) s = .next t ∧ ((inputAt t n.val).valid, (inputAt t n.val).transit) =
        (crossingAt n.val up out (eventTime n.val up g s) s).2 := by
  obtain ⟨t, x, he, ht, hx⟩ := comparatorEvent_shows hv hb
  refine ⟨t, he, (congrArg (·.2.2.2.2.2.2) ht.self).trans ?_⟩
  rw [← hx hs]
  exact Input.after_transit up out g _ x _ hl

end

/-! ### Held levels (R182, R186) -/

theorem endHold_requalDue (n : Nat) (s : State) : (endHold n s).fab.requalDue = s.fab.requalDue := by
  unfold endHold detectIn
  dsimp only
  split
  · rfl
  · split
    · rfl
    · split
      · rfl
      · rfl

theorem requalify_settled {s : State} (h : s.fab.requalDue = false) : requalify s = s := by
  simp [requalify, h]

/-- The qualifiers start afresh once. -/
theorem requalify_once (s : State) : (requalify s).fab.requalDue = false ∨ requalify s = s := by
  unfold requalify
  dsimp only
  split
  · refine .inl (List.foldlRecOn (motive := fun x : State => x.fab.requalDue = false) _ _ rfl fun x hx n _ => ?_)
    split
    · split
      · exact (endHold_requalDue n x).trans hx
      · exact hx
    · exact hx
  · exact .inr rfl

theorem settleSuspect_cases (s : State) : settleSuspect s = requalify s ∨ settleSuspect s = s := by
  unfold settleSuspect
  split
  · split
    · exact .inl rfl
    · exact .inr rfl
  · exact .inr rfl

theorem settleSuspect_settled {s : State} (h : s.fab.requalDue = false) : settleSuspect s = s := by
  rcases settleSuspect_cases s with hs | hs
  · rw [hs, requalify_settled h]
  · exact hs

theorem settleSuspect_settleSuspect (s : State) : settleSuspect (settleSuspect s) = settleSuspect s := by
  rcases settleSuspect_cases s with hs | hs
  · rcases requalify_once s with hq | hq
    · rw [hs, settleSuspect_settled hq]
    · rw [hs.trans hq, hs.trans hq]
  · rw [hs, hs]

theorem settleSuspect_unended {s : State} (h : ∀ e ∈ s.fab.suspectTo, s.tm.ax5 < e) : settleSuspect s = s := by
  unfold settleSuspect
  split
  · next e he => exact if_neg (Nat.not_le.mpr (h e he))
  · rfl

section
variable {s : State} {n : Fin 272}

theorem qualTimeout_settles : exec (.qualTimeout n) s = exec (.qualTimeout n) (settleSuspect s) := by
  change execQualTimeout n s = execQualTimeout n (settleSuspect s)
  simp only [execQualTimeout, settleSuspect_settleSuspect]

theorem qualTimeout_detects {h : Nat × Nat} (hr : s.fab.running = true) (ha : inputAbsent n.val s = false)
    (hm : qMode (actCh s n.val) = 4) (hh : (inputAt s n.val).tStart = some h)
    (hd : holdSample (actCh s n.val) h ≤ s.tm.ax5) (hs : suppressed s (holdSample (actCh s n.val) h) = false)
    (he : ∀ e ∈ s.fab.suspectTo, s.tm.ax5 < e) : exec (.qualTimeout n) s =
      .next (detectIn n.val (holdSample (actCh s n.val) h) (h.1 + qT1 (actCh s n.val))
        (modInput n.val (fun i => { i with tStart := none }) s)) := by
  have hdue : holdDue n.val s.tm.ax5 s = true := by simp [holdDue, hm, hh, hd]
  have hx : suppressed (modInput n.val (fun i => { i with tStart := none }) s) (holdSample (actCh s n.val) h) = false := hs
  change execQualTimeout n s = _
  simp only [execQualTimeout, settleSuspect_unended he, hr, ha, hdue, Bool.not_false, and_self, if_true, endHold, hh, hx,
    Bool.false_eq_true, if_false]

theorem qualTimeout_undue (h : s.fab.running = false ∨ inputAbsent n.val s = true ∨ holdDue n.val s.tm.ax5 s = false)
    (he : ∀ e ∈ s.fab.suspectTo, s.tm.ax5 < e) : exec (.qualTimeout n) s = .next s := by
  change execQualTimeout n s = _
  simp only [execQualTimeout, settleSuspect_unended he]
  rcases h with h | h | h
  · simp [h]
  · simp [h]
  · simp [h]

end

end Sys2Proof.Machine

/-! ## One step of a sequencer (O42) -/

namespace Sys2Proof.Machine

/-- Reading entry `i` after a change of entry `j`. -/
theorem seqOf_modSeq (j : Nat) {i : Nat} (f : Seq → Seq) (s : State) (h : i < 4) :
    seqOf (modSeq j f s) i = if j = i then f (seqOf s i) else seqOf s i :=
  tabGet_tabMod_lt s.seqs f h _ _

@[simp] theorem seqOf_modSeq_self {j : Nat} (hj : j < 4) (f : Seq → Seq) (s : State) :
    seqOf (modSeq j f s) j = f (seqOf s j) := by
  rw [seqOf_modSeq j f s hj, if_pos rfl]

/-! ### What a fire leaves alone (R215, R222, R230, R245) -/

/-- The parts of a state that a fire does not write. -/
def State.unfired (s : State) : Fab × Tab 272 Input × Tab 16 Pod × Ring × Tm × Cfg × Tab 8 Mailbox × Dev :=
  (s.fab, s.inputs, s.pods, s.ring, s.tm, s.cfg, s.mb, s.dev)

/-- Sequencer `j` and the parts that a fire does not write are the same in `t` as in `s`. -/
structure Unfired (j : Nat) (s t : State) : Prop where
  parts : t.unfired = s.unfired
  seq   : seqOf t j = seqOf s j

namespace Unfired

theorem refl (j : Nat) (s : State) : Unfired j s s := ⟨rfl, rfl⟩

theorem trans {j : Nat} {s t u : State} (h : Unfired j s t) (k : Unfired j t u) : Unfired j s u :=
  ⟨k.parts.trans h.parts, k.seq.trans h.seq⟩

/-- An update of other parts. -/
theorem lit {j : Nat} {s x t : State} (h : Unfired j s x) (hf : (t.unfired, t.seqs) = (x.unfired, x.seqs)) :
    Unfired j s t := by
  obtain ⟨hp, hs⟩ := Prod.mk.inj hf
  exact h.trans ⟨hp, by simp only [seqOf, hs]⟩

theorem ite {j : Nat} {s a b : State} {c : Prop} [Decidable c] (ha : Unfired j s a) (hb : Unfired j s b) :
    Unfired j s (if c then a else b) := by
  split
  · exact ha
  · exact hb

theorem foldl {α : Type} {j : Nat} {s : State} {f : State → α → State} (hf : ∀ x a, Unfired j s x → Unfired j s (f x a))
    (l : List α) {x : State} (hx : Unfired j s x) : Unfired j s (l.foldl f x) :=
  List.foldlRecOn l f hx fun x h a _ => hf x a h

end Unfired

section
variable {j : Nat} {s₀ s : State} (hk : Unfired j s₀ s)
include hk

theorem raise_unfired (g b : Nat) : Unfired j s₀ (raise g b s) := hk.lit (by simp [State.unfired])

theorem addRequest_unfired (c t : Nat) : Unfired j s₀ (addRequest c t s) := by
  unfold addRequest
  dsimp only
  exact .ite (.ite (hk.lit (by rfl)) (raise_unfired (hk.lit (by rfl)) 8 20)) hk

theorem fireCairn_unfired (i frm b cls group out place : Nat) :
    Unfired j s₀ (fireCairn i frm b cls group out place s) := by
  unfold fireCairn pushCairnIf
  exact .ite (hk.lit (by rfl)) (.ite (hk.lit (by rfl)) hk)

theorem firePulses_unfired (mask k : Nat) : Unfired j s₀ (firePulses mask k s) := by
  unfold firePulses
  exact Unfired.foldl (fun _ _ h => .ite (h.lit (by rfl)) h) _ hk

theorem sendNext_unfired (p : Nat) : Unfired j s₀ (sendNext p s) := by
  unfold sendNext
  refine .ite ?_ hk
  split
  · exact hk
  · exact hk.lit rfl

theorem txFrame_unfired (p : Nat) (flooded : Bool) (t : TxFrame) : Unfired j s₀ (txFrame p flooded t s) := by
  unfold txFrame
  exact .ite hk (.ite (sendNext_unfired (hk.lit (by rfl)) p) (.ite (hk.lit (by rfl)) hk))

theorem fireFrame_unfired (i cls group place : Nat) : Unfired j s₀ (fireFrame i cls group place s) := by
  unfold fireFrame originate floodOn
  refine .ite ?_ hk
  exact Unfired.foldl (fun _ _ h => .ite h (txFrame_unfired h _ _ _)) _ (hk.lit (by rfl))

/-- A group fire makes other sequencers DONE, not the one that fires (R222). -/
theorem groupDone_unfired (hj : j < 4) (group sample : Nat) (byFrame : Bool) :
    Unfired j s₀ (groupDone group (some j) sample byFrame s) := by
  unfold groupDone
  refine .ite hk (Unfired.foldl (fun x i h => ?_) _ hk)
  split
  · exact h
  · split
    · next hc =>
      obtain ⟨-, -, he, -⟩ := hc
      have hi : i ≠ j := fun hij => he (by rw [hij])
      exact h.trans ⟨rfl, by rw [seqOf_modSeq _ _ _ hj, if_neg hi]⟩
    · exact h

end

/-- What a step decides of a sequencer (R209, R212, R223): mode, state, flag, last branch, steps and fires counted. -/
def Seq.course (q : Seq) : SeqMode × Nat × Bool × Nat × Word × Word :=
  (q.mode, q.state, q.flag, q.lastBranch, q.stepCnt, q.fireCnt)

/-- A blocked step counts and is noted (R214). -/
theorem blockStep_counts (j : Nat) (s : State) : Unfired j
    (modSeq j (fun q => { q with blockCnt := q.blockCnt + 1, blockNoted := true }) s) (blockStep j s) := by
  unfold blockStep
  exact .ite (raise_unfired (.refl j _) 7 _) (.refl j _)

section
variable {j : Nat} (hj : j < 4)
include hj

/-- A fire counts, and decides nothing else of the sequencer that makes it (R215). -/
theorem emitFire_counts (frm b : Nat) (w : Branch) (group place : Nat) (s : State) :
    (emitFire j frm b w group place s).unfired = s.unfired ∧ (seqOf (emitFire j frm b w group place s) j).course =
      { seqOf s j with fireCnt := (seqOf s j).fireCnt + 1 }.course := by
  unfold emitFire
  extract_lets cls k rlf out a x y z ret u v r
  have hx : x.unfired = s.unfired ∧ (seqOf x j).course = { seqOf s j with fireCnt := (seqOf s j).fireCnt + 1 }.course :=
    ⟨rfl, by rw [seqOf_modSeq_self hj]; rfl⟩
  clear_value x
  have hu : Unfired j x u := (addRequest_unfired (raise_unfired (.refl j x) 7 _) cls place).lit rfl
  have hv : Unfired j x v := firePulses_unfired (fireCairn_unfired hu _ _ _ _ _ _ _) _ _
  have hr : Unfired j x r := .ite (fireFrame_unfired hv _ _ _ _) hv
  have hd := groupDone_unfired hr hj group (k + 1) false
  exact ⟨hd.parts.trans hx.1, (congrArg Seq.course hd.seq).trans hx.2⟩

theorem seqDone_done (s : State) : (seqDone j s).unfired = s.unfired ∧
    (seqOf (seqDone j s) j).course = { seqOf s j with mode := .done }.course := by
  have h := raise_unfired (.refl j (modSeq j (fun q => { q with mode := .done, doneFrom := none }) s)) 7 (8 * j + 2)
  refine ⟨h.parts, (congrArg Seq.course h.seq).trans ?_⟩
  rw [seqOf_modSeq_self hj]
  rfl

/-- What becomes of a sequencer that takes a branch (R209, R212, R215, R223). -/
def Seq.taken (b : Nat) (w : Branch) (p : Program) (q : Seq) : Seq :=
  { q with
    state := brBits 51 48 w, flag := (q.flag || bitOf 90 w.toNat) && !bitOf 91 w.toNat, lastBranch := b,
    stepCnt := q.stepCnt + 1, fireCnt := if brFire w then q.fireCnt + 1 else q.fireCnt
    mode := if brStop w || (brFire w && p.oneShot) then .done else q.mode }

/-- A taken branch appends its requests and decides the course of its sequencer. -/
theorem takeBranch_takes (b : Nat) (w : Branch) (vs : List (Option Nat)) (p : Program) (i : Nat) (s : State) :
    (takeBranch j b w vs p i s).unfired =
        State.unfired { s with fab := { s.fab with reqs := s.fab.reqs ++ brRequests w (brPlace w vs i) } } ∧
      (seqOf (takeBranch j b w vs p i s) j).course = ((seqOf s j).taken b w p).course := by
  unfold takeBranch
  extract_lets frm place fab x y z u
  have hy : seqOf y j = { seqOf s j with
      state := brBits 51 48 w, stepCnt := (seqOf s j).stepCnt + 1, lastBranch := b
      flag := ((seqOf s j).flag || bitOf 90 w.toNat) && !bitOf 91 w.toNat } := seqOf_modSeq_self hj _ x
  have hz : Unfired j y z := .ite (raise_unfired (.refl j y) 7 _) (.refl j y)
  have hu : u.unfired = z.unfired ∧ (seqOf u j).course = { seqOf z j with
      fireCnt := if brFire w then (seqOf z j).fireCnt + 1 else (seqOf z j).fireCnt }.course := by
    by_cases hf : brFire w = true
    · simp only [u, hf, if_true]
      exact emitFire_counts hj _ _ _ _ _ z
    · simp only [u, hf]
      exact ⟨rfl, rfl⟩
  obtain ⟨hp, hc⟩ := hu
  rw [hz.seq, hy] at hc
  have hpx : u.unfired = x.unfired := hp.trans hz.parts
  clear_value u
  by_cases hs : (brStop w || (brFire w && p.oneShot)) = true
  · rw [if_pos hs]
    refine ⟨(seqDone_done hj u).1.trans hpx, (seqDone_done hj u).2.trans ?_⟩
    simp only [Seq.course, Prod.mk.injEq] at hc ⊢
    simp only [Seq.taken, if_pos hs, hc, and_self]
  · rw [if_neg hs]
    refine ⟨hpx, hc.trans ?_⟩
    simp only [Seq.course, Seq.taken, if_neg hs]

end

/-! ### Reaching a sample (R190) -/

theorem enterSample_sample (k : Nat) (s : State) : (enterSample k s).fab.sample = k := by
  rw [enterSample_eq]
  unfold showLive
  split
  · rfl
  · rfl

theorem advanceBy_sample : ∀ (n : Nat) (s : State), (advanceBy n s).fab.sample = s.fab.sample + n
  | 0, _ => rfl
  | n + 1, s => by
    rw [advanceBy, advanceBy_sample n, enterSample_sample]
    omega

section
variable {s : State} (hr : s.fab.running = true)
include hr

theorem advance_sample {k : Nat} (hk : k < fabReach s) (hs : s.fab.sample ≤ k) : (advance k s).fab.sample = k := by
  have hn : ¬(!s.fab.running ∨ k + 1 ≤ s.fab.sample) := fun h => h.elim (by simp [hr]) (by omega)
  have he : (if s.fab.entered then s else enterSample s.fab.sample s).fab.sample = s.fab.sample := by
    split
    · rfl
    · exact enterSample_sample _ s
  unfold advance evalBelow
  rw [Nat.min_eq_left hk]
  simp only [if_neg hn]
  rw [advanceBy_sample, he]
  omega

/-- A sample under evaluation is reached already. -/
theorem advance_entered (he : s.fab.entered = true) (hs : s.fab.sample < fabReach s) : advance s.fab.sample s = s := by
  have hn : ¬(!s.fab.running ∨ s.fab.sample + 1 ≤ s.fab.sample) := fun h => h.elim (by simp [hr]) (by omega)
  unfold advance evalBelow
  rw [Nat.min_eq_left (show s.fab.sample + 1 ≤ fabReach s from hs)]
  simp only [if_neg hn, he, if_true, Nat.add_sub_cancel, Nat.sub_self]
  rfl

end

/-- The four branches of the state that sequencer `j` is in, in priority order (R209, R212). -/
def branchesOf (j : Nat) (p : Program) (s : State) : List (Nat × Branch) :=
  (List.range 4).map fun b => (b, tabGet p.words (4 * (seqOf s j).state + b) 0)

section
variable {s : State} {j : Fin 4}

theorem trvStep_reaches {k : Nat} (hr : s.fab.running = true) (hk : k < fabReach s) (hs : s.fab.sample ≤ k) :
    exec (.trvStep j k) s = .next (stepSeq j.val (advance k s)) := if_pos ⟨hr, hk, hs⟩

theorem trvStep_outside {k : Nat} (h : s.fab.running = false ∨ fabReach s ≤ k ∨ k < s.fab.sample) :
    exec (.trvStep j k) s = .next s := by
  refine if_neg fun ⟨hr, hk, hs⟩ => ?_
  rcases h with h | h | h
  · exact Bool.false_ne_true (h.symm.trans hr)
  · omega
  · omega

/-- A sequencer with a step due is ARMED (R212). -/
theorem nextStep_armed {j : Nat} {r : Nat × StepBy × Program} (h : nextStep j s = some r) : (seqOf s j).mode = .armed := by
  by_contra hm
  unfold nextStep at h
  dsimp only at h
  split at h
  · exact Option.some_ne_none _ h.symm
  · rw [if_pos (.inl hm)] at h
    exact Option.some_ne_none _ h.symm

section
variable (hr : s.fab.running = true) (he : s.fab.entered = true) (hs : s.fab.sample < fabReach s)
include hr he hs

theorem trvStep_here : exec (.trvStep j s.fab.sample) s = .next (stepSeq j.val s) := by
  rw [trvStep_reaches hr hs le_rfl, advance_entered hr he hs]

theorem trvStep_none (hn : nextStep j.val s = none) : exec (.trvStep j s.fab.sample) s = .next s := by
  rw [trvStep_here hr he hs, stepSeq, hn]

variable {i : Nat} {by_ : StepBy} {p : Program} (hn : nextStep j.val s = some (i, by_, p))
include hn

theorem trvStep_some : exec (.trvStep j s.fab.sample) s = .next (stepAt j.val i by_ p s) := by
  rw [trvStep_here hr he hs, stepSeq, hn]

theorem trvStep_unheld (hx : examine by_ s (branchesOf j.val p s) = (false, none)) :
    exec (.trvStep j s.fab.sample) s = .next (modSeq j.val (fun q => { q with stepped := some i }) s) := by
  unfold branchesOf at hx
  rw [trvStep_some hr he hs hn, stepAt, hx]
  rfl

theorem trvStep_blocked (hx : examine by_ s (branchesOf j.val p s) = (true, none)) : ∃ t,
    exec (.trvStep j s.fab.sample) s = .next t ∧ seqOf t j.val = { seqOf s j.val with
      stepped := some i, blockCnt := (seqOf s j.val).blockCnt + 1, blockNoted := true } ∧ t.unfired = s.unfired := by
  unfold branchesOf at hx
  refine ⟨blockStep j.val (modSeq j.val (fun q => { q with stepped := some i }) s), ?_, ?_⟩
  · rw [trvStep_some hr he hs hn, stepAt, hx]
    rfl
  · have hb := blockStep_counts j.val (modSeq j.val (fun q => { q with stepped := some i }) s)
    refine ⟨hb.seq.trans ?_, hb.parts⟩
    rw [seqOf_modSeq_self j.isLt, seqOf_modSeq_self j.isLt]

theorem trvStep_taken {b : Nat} {w : Branch} {vs : List (Option Nat)}
    (hx : examine by_ s (branchesOf j.val p s) = (false, some (b, w, vs))) : ∃ t,
    exec (.trvStep j s.fab.sample) s = .next t ∧ (seqOf t j.val).course = ((seqOf s j.val).taken b w p).course ∧
    t.unfired = State.unfired { s with fab := { s.fab with reqs := s.fab.reqs ++ brRequests w (brPlace w vs i) } } := by
  unfold branchesOf at hx
  have ht := takeBranch_takes j.isLt b w vs p i (modSeq j.val (fun q => { q with stepped := some i }) s)
  rw [seqOf_modSeq_self j.isLt] at ht
  refine ⟨_, ?_, ht.2, ht.1⟩
  rw [trvStep_some hr he hs hn, stepAt, hx]
  rfl

end
end

/-- Settles O42, clause by clause. -/
theorem comparatorEvents : Obligations.ComparatorEvents := by
  refine ⟨fun _ _ _ _ _ hv hb => ?_,
    fun _ _ _ _ _ hv hb hs hl => comparatorEvent_transit hv hb hs hl,
    fun _ _ _ _ _ h => comparatorEvent_refused h,
    fun _ _ _ _ hr ha hm hh hd hs he => qualTimeout_detects hr ha hm hh hd hs he,
    fun _ _ h he => qualTimeout_undue h he,
    fun _ _ => qualTimeout_settles,
    fun _ _ _ hr hk hs => ⟨trvStep_reaches hr hk hs, advance_sample hr hk hs⟩,
    fun _ _ _ _ _ _ _ _ hr he hs hn hx => ?_,
    fun _ _ _ _ _ hr he hs hn hx => ?_,
    fun _ _ _ _ _ hr he hs hn hx => trvStep_unheld hr he hs hn hx,
    fun _ _ hr he hs hn => trvStep_none hr he hs hn,
    fun _ _ _ h => trvStep_outside h⟩
  · obtain ⟨t, ht, hu, hl, hlv, hc, hg, ho, hb⟩ := comparatorEvent_sets hv hb
    simp only [State.behind, Prod.mk.injEq] at hb
    exact ⟨t, ht, hu, hl, hlv, hc, hg, ho, hb⟩
  · obtain ⟨t, ht, hc, hp⟩ := trvStep_taken hr he hs hn hx
    simp only [Seq.course, Seq.taken, nextStep_armed hn, State.unfired, Prod.mk.injEq] at hc hp
    obtain ⟨hmode, hstate, hflag, hlast, hstep, hfire⟩ := hc
    obtain ⟨hfab, hin, hpods, hring, htm, hcfg, hmb, hdev⟩ := hp
    exact ⟨t, ht, hstate, hflag, hlast, hstep, hfire, hmode, by rw [hfab], hin, hpods, fun _ => hring, by rw [hring],
      by rw [hring], by rw [hring], by rw [hring], htm, hcfg, hmb, hdev⟩
  · obtain ⟨t, ht, hq, hp⟩ := trvStep_blocked hr he hs hn hx
    simp only [State.unfired, Prod.mk.injEq] at hp
    obtain ⟨hfab, hin, hpods, hring, htm, hcfg, -, hdev⟩ := hp
    exact ⟨t, ht, hq, hfab, hin, hpods, hring, htm, hdev, hcfg⟩

end Sys2Proof.Machine

/-! ## Rows enter the staging buffer (O46) -/

namespace Sys2Proof.Machine

/-- The encoder moves on to the period after row `r`, and the pods drop what the row has taken up (R139). -/
def State.rowPassed (r : Nat) (s : State) : State :=
  { s with ring := { s.ring with capRow := r + 1, capHist := noteCapture r s }, pods := s.pods.map (afterRow r) }

theorem stageRow_fits {x : RowDesc × List Byte} {s : State} (h : stagingBytes s + x.1.len ≤ 0x80000) :
    stageRow x s = { s with ring := { s.ring with staging := s.ring.staging ++ [x] } } := if_pos h

theorem stageRow_overflows {x : RowDesc × List Byte} {s : State} (h : 0x80000 < stagingBytes s + x.1.len) :
    stageRow x s = loseRow 3 x.1.row x.1.podMask s := if_neg h.not_ge

/-- Which pod groups capture holds does not depend on the rows staged. -/
theorem noteCapture_staging (r : Nat) (l : List (RowDesc × List Byte)) (s : State) :
    noteCapture r { s with ring := { s.ring with staging := l } } = noteCapture r s := rfl

section
variable {s : State}

theorem rowEncode_undue (h : rowDue s = false) : exec .rowEncode s = .next s := by
  change execRowEncode s = _
  rw [execRowEncode, h, if_neg Bool.false_ne_true]

variable (hd : rowDue s = true)
include hd

theorem rowEncode_due : exec .rowEncode s = .next (encodeRow s) := by
  change execRowEncode s = _
  rw [execRowEncode, hd, if_pos rfl]

theorem rowEncode_empty (hb : rowBlocks s.ring.capRow (encodeView s) = []) :
    exec .rowEncode s = .next ((encodeView s).rowPassed s.ring.capRow) := by
  simp only [rowEncode_due hd, encodeRow, if_pos hb, State.rowPassed]

theorem rowEncode_row (hb : rowBlocks s.ring.capRow (encodeView s) ≠ []) :
    exec .rowEncode s = .next ((stageRow (buildRow s.ring.capRow (rowBlocks s.ring.capRow (encodeView s)) (encodeView s))
      (encodeView s)).rowPassed s.ring.capRow) := by
  simp only [rowEncode_due hd, encodeRow, if_neg hb, State.rowPassed]

end

/-! ## The capture write (O46) -/

/-! ### What the fill watermarks and H leave alone (R157, R167, R168) -/

/-- The parts of the ring that the watermarks and H do not carry. -/
def Ring.stored (r : Ring) : Nat × Nat × List (RowDesc × List Byte) × List Host.Cell × List RowDesc × Option Nat × Bool × Nat :=
  (r.W, r.X, r.staging, r.mem, r.rows, r.wRow, r.fresh, r.lostRows)

/-- The parts of a state outside the ring that a row written to it leaves as they are. -/
def State.beside (s : State) : Dev × Cfg × Tab 16 Pod × Tm × Flt := (s.dev, s.cfg, s.pods, s.tm, s.flt)

@[simp] theorem raise_beside (g b : Nat) (s : State) : (raise g b s).beside = s.beside := by simp [State.beside]

theorem moveH_stored (s : State) : (moveH s).ring.stored = s.ring.stored := rfl

theorem moveH_beside (s : State) : (moveH s).beside = s.beside := rfl

section
variable (c : Prop) [Decidable c] (g b : Nat) (s : State)

theorem raiseIf_ring : (if c then raise g b s else s).ring = s.ring := by
  split
  · exact raise_ring g b s
  · rfl

theorem raiseIf_beside : (if c then raise g b s else s).beside = s.beside := by
  split
  · exact raise_beside g b s
  · rfl

end

/-- Of the parts shown here, evaluating the watermarks changes only the watermarks (R167, R168). -/
theorem evalMarks_changes_marks (s : State) : ∃ a b, (evalMarks s).ring = { s.ring with markA := a, markB := b } ∧
    (evalMarks s).beside = s.beside :=
  ⟨_, _, (raiseIf_ring _ 8 1 _).trans (raiseIf_ring _ 8 0 _), (raiseIf_beside _ 8 1 _).trans (raiseIf_beside _ 8 0 _)⟩

theorem evalMarks_stored (s : State) : (evalMarks s).ring.stored = s.ring.stored := by
  obtain ⟨a, b, hr, -⟩ := evalMarks_changes_marks s
  rw [hr]
  rfl

theorem evalMarks_beside (s : State) : (evalMarks s).beside = s.beside := by
  obtain ⟨-, -, -, hb⟩ := evalMarks_changes_marks s
  exact hb

/-! ### The row at the head of the staging buffer (R149, R152) -/

/-- A row tagged for its write: whether it is an anchor row, and the length it has then (R149). -/
def RowDesc.tagged (d : RowDesc) (s : State) : RowDesc :=
  { d with anchor := isAnchor d.row s, len := if isAnchor d.row s then max 128 d.len else d.len }

/-- The state with other rows staged. -/
def State.withStaging (s : State) (l : List (RowDesc × List Byte)) : State :=
  { s with ring := { s.ring with staging := l } }

theorem tagged_withStaging (d : RowDesc) (s : State) (l : List (RowDesc × List Byte)) :
    d.tagged (s.withStaging l) = d.tagged s := rfl

/-- A row written at W (R150, R152): W moves past it, and its padded bytes and its tags stand in the ring. -/
theorem placeRow_writes (d : RowDesc) (b : List Byte) (s : State) : ∃ old,
    (placeRow d b s).ring.stored = (s.ring.W + d.len, s.ring.X, s.ring.staging,
      memWriteMod s.dev.variant.ringCap s.ring.mem s.ring.W (padTo d.len b), old ++ [{ d with pos := s.ring.W }],
      some d.row, false, s.ring.lostRows) ∧
    (placeRow d b s).beside = s.beside := by
  refine ⟨s.ring.rows.filter fun x => decide (s.ring.W + d.len ≤ x.pos + s.dev.variant.ringCap), ?_, ?_⟩
  · rw [placeRow, evalMarks_stored, moveH_stored]
    rfl
  · rw [placeRow, evalMarks_beside, moveH_beside]
    rfl

section
variable {d : RowDesc} {b : List Byte} {s : State}

theorem writeRow_fits (h : s.ring.W + (d.tagged s).len - keptFrom s ≤ s.dev.variant.ringCap) :
    writeRow d b s = placeRow (d.tagged s) b s := if_pos h

theorem writeRow_held (h : s.dev.variant.ringCap < s.ring.W + (d.tagged s).len - keptFrom s)
    (hh : s.cfg.active.hold = true) : writeRow d b s = loseRow 2 d.row d.podMask s :=
  (if_neg h.not_ge).trans (if_pos hh)

theorem writeRow_overwrites (h : s.dev.variant.ringCap < s.ring.W + (d.tagged s).len - keptFrom s)
    (hh : s.cfg.active.hold = false) :
    writeRow d b s = placeRow (d.tagged s) b (skipRows (d.tagged s).len s) :=
  (if_neg h.not_ge).trans (if_neg (Bool.eq_false_iff.mp hh))

theorem ringRowWrite_takes {l : List (RowDesc × List Byte)} (hs : s.ring.staging = (d, b) :: l)
    (ha : acquiring s = true) : exec .ringRowWrite s = .next (writeRow d b (s.withStaging l)) := by
  change execRingRowWrite s = _
  simp only [execRingRowWrite, hs, if_pos ha, State.withStaging]

theorem ringRowWrite_idle (h : s.ring.staging = [] ∨ acquiring s = false) : exec .ringRowWrite s = .next s := by
  change execRingRowWrite s = _
  unfold execRingRowWrite
  split
  next => rfl
  next hs =>
    have ha : ¬acquiring s = true := by simpa [hs] using h
    rw [if_neg ha]

/-- The row that fits ahead of what the ring keeps (R152). -/
theorem ringRowWrite_fits {l : List (RowDesc × List Byte)} (hs : s.ring.staging = (d, b) :: l)
    (ha : acquiring s = true) (hf : s.ring.W + (d.tagged s).len - keptFrom s ≤ s.dev.variant.ringCap) : ∃ t old,
    exec .ringRowWrite s = .next t ∧ t.ring.stored = (s.ring.W + (d.tagged s).len, s.ring.X, l,
      memWriteMod s.dev.variant.ringCap s.ring.mem s.ring.W (padTo (d.tagged s).len b),
      old ++ [{ d.tagged s with pos := s.ring.W }], some d.row, false, s.ring.lostRows) ∧ t.beside = s.beside := by
  obtain ⟨old, hr, hb⟩ := placeRow_writes (d.tagged s) b (s.withStaging l)
  refine ⟨_, old, ?_, hr, hb⟩
  rw [ringRowWrite_takes hs ha, writeRow_fits (s := s.withStaging l) hf, tagged_withStaging]

end

/-- Settles O46, clause by clause. -/
theorem rowEncoding : Obligations.RowEncoding := by
  refine ⟨fun _ hd hb => rowEncode_empty hd hb, fun _ hd hb hf => ?_, fun _ hd hb hf => ⟨_, rfl, ?_⟩,
    fun _ => rowEncode_undue, fun _ _ _ _ hs ha hf => ?_,
    fun s _ _ l hs ha hf hh => (ringRowWrite_takes hs ha).trans (congrArg _ (writeRow_held (s := s.withStaging l) hf hh)),
    fun s _ _ l hs ha hf hh =>
      (ringRowWrite_takes hs ha).trans (congrArg _ (writeRow_overwrites (s := s.withStaging l) hf hh)),
    fun _ => ringRowWrite_idle⟩
  · rw [rowEncode_row hd hb, stageRow_fits hf, State.rowPassed, noteCapture_staging]
  · rw [rowEncode_row hd hb, stageRow_overflows hf]
    rfl
  · obtain ⟨t, old, ht, hr, hb⟩ := ringRowWrite_fits hs ha hf
    simp only [Ring.stored, State.beside, Prod.mk.injEq] at hr hb
    obtain ⟨hW, hX, hst, hmem, hrows, hrow, hfresh, hlost⟩ := hr
    exact ⟨t, ht, hW, hX, hst, hmem, by rw [hrows, List.getLast?_concat]; rfl, hrow, hfresh, hlost, hb⟩

end Sys2Proof.Machine

/-! # The qualifier family: the samples and the settings of the fabric

## The fabric runs on while it evaluates (R190, R225) -/

namespace Sys2Proof.Machine

/-- What every step of a fold leaves alone, the fold leaves alone. -/
theorem foldl_unchanged {σ α β : Type} (g : σ → β) {f : σ → α → σ} {l : List α} (hf : ∀ x, ∀ a ∈ l, g (f x a) = g x)
    (s : σ) : g (l.foldl f s) = g s :=
  List.foldlRecOn (motive := fun x => g x = g s) l f rfl fun x h a ha => (hf x a ha).trans h

theorem foldl_fab {α : Type} {f : State → α → State} {l : List α} (hf : ∀ x, ∀ a ∈ l, (f x a).fab = x.fab) (s : State) :
    (l.foldl f s).fab = s.fab := foldl_unchanged State.fab hf s

theorem foldl_running {α : Type} {f : State → α → State} {l : List α}
    (hf : ∀ x, ∀ a ∈ l, (f x a).fab.running = x.fab.running) (s : State) :
    (l.foldl f s).fab.running = s.fab.running := foldl_unchanged (fun x => x.fab.running) hf s

/-! ### What leaves the fabric alone: clock edges, orders, mailboxes -/

theorem raiseIf_fab (c : Prop) [Decidable c] (g b : Nat) (s : State) : (if c then raise g b s else s).fab = s.fab := by
  rw [apply_ite State.fab, raise_fab, ite_self]

theorem judgeEdge_fab (p tc : Nat) (s : State) : (judgeEdge p tc s).fab = s.fab := by
  unfold judgeEdge
  extract_lets q c ts fast en data w viol x
  split
  · rw [raise_fab, modPod_fab]
  · split
    · rw [modPod_fab]
    · exact raiseIf_fab _ 6 6 x

theorem judgeClocks_fab (p t : Nat) (s : State) : (judgeClocks p t s).fab = s.fab := by
  unfold judgeClocks
  rw [modPod_fab, foldl_fab fun x tc _ => judgeEdge_fab p tc x]

theorem originate_fab (type dest : Nat) (body : List Byte) (s : State) : (originate type dest body s).fab = s.fab := by
  unfold originate floodOn
  refine (foldl_fab (fun x p _ => ?_) _).trans rfl
  split
  · rfl
  · exact congrArg (·.1) (txFrame_unfired (.refl 0 x) p _ _).parts

theorem mbComplete_fab (m : Nat) (r : Reply) (s : State) : (mbComplete m r s).fab = s.fab := by
  have hr : (cwRelease m s).fab = s.fab := by
    obtain ⟨c, hc, -⟩ := cwRelease_frame m s
    rw [hc]
  unfold mbComplete
  dsimp only
  split
  · rw [raise_fab, modMb_fab, scratchWrite_fab, hr]
  · rw [sendTunnelResp, foldl_fab fun x _ _ => originate_fab _ _ _ x, modMb_fab, hr]

theorem disarmNow_fab (j : Nat) (s : State) : (disarmNow j s).fab = s.fab := by
  unfold disarmNow
  split
  · rfl
  · rfl
  · rw [raise_fab, modSeq_fab]

theorem armNow_fab (j first : Nat) (late : Bool) (s : State) : (armNow j first late s).fab = s.fab := by
  unfold armNow
  split
  · rfl
  · rw [raise_fab, modSeq_fab]

theorem armAll_fab (m first : Nat) (late missed : Bool) (s : State) : (armAll m first late missed s).fab = s.fab := by
  refine foldl_fab (fun x j _ => ?_) s
  dsimp only
  split
  · rfl
  · rw [raiseIf_fab, armNow_fab]

theorem armPending_fab (j first : Nat) (s : State) : (armPending j first s).fab = s.fab := by
  unfold armPending
  split
  · rw [raise_fab, modSeq_fab]
  · rfl

theorem pendNow_fab (j : Nat) (w : ArmWait) (s : State) : (pendNow j w s).fab = s.fab := by
  unfold pendNow
  split
  · rfl
  · rw [modSeq_fab]

theorem mbCompleteIf_fab (c : Prop) [Decidable c] (m : Nat) (r : Reply) (s : State) :
    (if c then mbComplete m r s else s).fab = s.fab := by
  rw [apply_ite State.fab, mbComplete_fab, ite_self]

theorem takeOrder_fab (s : State) (o : SeqOrder) : (takeOrder s o).fab = s.fab := by
  cases o with
  | disarm m mb =>
    have hd : ((bitsSet 4 m).foldl (fun s j => disarmNow j s) s).fab = s.fab :=
      foldl_fab (fun x j _ => disarmNow_fab j x) s
    cases mb with
    | none => exact hd
    | some b => exact (mbCompleteIf_fab _ b _ _).trans hd
  | arm m first late missed mb =>
    have ha := armAll_fab m first late missed s
    cases mb with
    | none => exact ha
    | some b => exact (mbCompleteIf_fab _ b _ _).trans ha
  | pend j w => exact pendNow_fab j w s

theorem seqDone_fab (j : Nat) (s : State) : (seqDone j s).fab = s.fab := by
  rw [seqDone, raise_fab, modSeq_fab]

theorem takeDone_fab (k j : Nat) (s : State) : (takeDone k j s).fab = s.fab := by
  unfold takeDone
  split
  · rfl
  · split
    · split
      · rw [raiseIf_fab, seqDone_fab]
      · rw [modSeq_fab]
    · rfl

theorem takeTarget_fab (k j : Nat) (s : State) : (takeTarget k j s).fab = s.fab := by
  unfold takeTarget
  split
  · split
    · exact armPending_fab j k s
    · rfl
  · rfl

/-! ### What writes the fabric without stopping it -/

theorem endHold_running (n : Nat) (s : State) : (endHold n s).fab.running = s.fab.running := by
  unfold endHold detectIn
  dsimp only
  split
  · rfl
  · split
    · rfl
    · split
      · rfl
      · rfl

theorem endHoldIf_running (c : Prop) [Decidable c] (n : Nat) (s : State) :
    (if c then endHold n s else s).fab.running = s.fab.running := by
  rw [apply_ite fun x : State => x.fab.running, endHold_running, ite_self]

theorem requalify_running (s : State) : (requalify s).fab.running = s.fab.running := by
  unfold requalify
  split
  · next e _ _ =>
    dsimp only
    rw [foldl_running fun x n _ => ?_]
    split
    · rw [modInput_fab, endHoldIf_running]
    · rfl
  · rfl

theorem evalSuspect_running (k : Nat) (s : State) : (evalSuspect k s).fab.running = s.fab.running := by
  have hq : (match s.fab.suspectTo with
    | some e => if e ≤ k then requalify s else s
    | none => s).fab.running = s.fab.running := by
    split
    · split
      · exact requalify_running s
      · rfl
    · rfl
  unfold evalSuspect
  extract_lets x now y
  have hy : y.fab = x.fab := by
    unfold y
    split
    · rfl
    · rfl
  exact (congrArg Fab.running hy).trans hq

theorem settledFor_running (k : Nat) (s : State) : (settledFor k s).fab.running = s.fab.running := by
  have hj : ((List.range 16).foldl (fun s p => if clocked p s then judgeClocks p (256 * k) s else s) s).fab = s.fab :=
    foldl_fab (fun x p _ => by rw [apply_ite State.fab, judgeClocks_fab, ite_self]) s
  rw [settledFor, foldl_running fun x n _ => endHoldIf_running _ n x, evalSuspect_running, hj]

theorem orderedFor_running (k : Nat) (s : State) : (orderedFor k s).fab.running = s.fab.running := by
  unfold orderedFor takeOrders
  rw [foldl_fab fun x j _ => by rw [takeTarget_fab, takeDone_fab]]
  dsimp only
  rw [foldl_fab fun x o _ => takeOrder_fab x o.2]
  rfl

theorem showLive_running (s : State) : (showLive s).fab.running = s.fab.running := by
  unfold showLive
  split
  · rfl
  · rfl

theorem openedFor_running (k : Nat) (s : State) : (openedFor k s).fab.running = s.fab.running := rfl

theorem enterSample_running (k : Nat) (s : State) : (enterSample k s).fab.running = s.fab.running := by
  rw [enterSample_eq, showLive_running, openedFor_running, orderedFor_running, settledFor_running]

theorem blockStep_fab (j : Nat) (s : State) : (blockStep j s).fab = s.fab :=
  congrArg (·.1) (blockStep_counts j s).parts

theorem takeBranch_running {j : Nat} (hj : j < 4) (b : Nat) (w : Branch) (vs : List (Option Nat)) (p : Program) (i : Nat)
    (s : State) : (takeBranch j b w vs p i s).fab.running = s.fab.running :=
  congrArg (·.1.running) (takeBranch_takes hj b w vs p i s).1

theorem stepAt_running {j : Nat} (hj : j < 4) (i : Nat) (by_ : StepBy) (p : Program) (s : State) :
    (stepAt j i by_ p s).fab.running = s.fab.running := by
  unfold stepAt
  dsimp only
  split
  · rw [blockStep_fab, modSeq_fab]
  · split
    · rw [takeBranch_running hj, modSeq_fab]
    · rfl

theorem stepSeq_running {j : Nat} (hj : j < 4) (s : State) : (stepSeq j s).fab.running = s.fab.running := by
  unfold stepSeq
  split
  · exact stepAt_running hj _ _ _ s
  · rfl

theorem stepAll_running (s : State) : (stepAll s).fab.running = s.fab.running :=
  foldl_running (fun x j hj => by
    have hj := List.mem_range.mp hj
    rw [stepSeq_running hj, stepSeq_running hj]) s

theorem showSeqs_running (s : State) : (showSeqs s).fab.running = s.fab.running := by
  unfold showSeqs
  split
  · rfl
  · rfl

theorem leaveSample_running (s : State) : (leaveSample s).fab.running = s.fab.running := by
  have hx : (showSeqs (stepAll s)).fab.running = s.fab.running := by rw [showSeqs_running, stepAll_running]
  unfold leaveSample
  generalize showSeqs (stepAll s) = x at hx
  exact hx

theorem advanceBy_running : ∀ (n : Nat) (s : State), (advanceBy n s).fab.running = s.fab.running
  | 0, _ => rfl
  | n + 1, s => by rw [advanceBy, advanceBy_running n, enterSample_running, leaveSample_running]

theorem evalBelow_running (n : Nat) (s : State) : (evalBelow n s).fab.running = s.fab.running := by
  unfold evalBelow
  split
  · rfl
  · rw [advanceBy_running, apply_ite fun x : State => x.fab.running, enterSample_running, ite_self]

/-- The fabric evaluates without stopping. -/
theorem advance_running (k : Nat) (s : State) : (advance k s).fab.running = s.fab.running := evalBelow_running _ s

/-- A fabric that has stopped evaluates nothing. -/
theorem advance_stopped {s : State} (h : s.fab.running = false) (k : Nat) : advance k s = s :=
  if_pos (.inl (by rw [h]; rfl))

end Sys2Proof.Machine

/-! ## Timers, counters and pins of the fabric (O43) -/

namespace Sys2Proof.Machine

/-- A change that makes nothing else of the entry changes nothing. -/
theorem tabMod_unchanged {n : Nat} {α : Type} {t : Tab n α} {i : Nat} {f : α → α} {d : α}
    (h : f (tabGet t i d) = tabGet t i d) : tabMod t i f = t := by
  rw [tabMod_congr (g := id) h]
  simp [tabMod]

section
variable {s : State}

/-- The sample in which a running timer expires (R200), one after the sample under evaluation at the earliest. -/
def expirySample (x : Fin 16) (s : State) : Nat :=
  max (s.fab.sample + 1) (sampleOf (s.fab.timers[x].tst + (timerCfg s x.val).limit * 640))

theorem fabTimerExpire_expires {x : Fin 16} (hr : s.fab.running = true) (ht : s.fab.timers[x].running = true)
    (he : s.fab.timers[x].expired = none) (hk : expirySample x s < fabReach s) :
    exec (.fabTimerExpire x) s = .next (advance (expirySample x s) s) :=
  congrArg Host.Outcome.next (if_pos ⟨hr, ht, he, hk⟩)

theorem fabTimerExpire_stopped {x : Fin 16} (ht : s.fab.timers[x].running = false) :
    exec (.fabTimerExpire x) s = .next s :=
  congrArg Host.Outcome.next (if_neg fun ⟨_, h, _⟩ => Bool.false_ne_true (ht.symm.trans h))

theorem advance_expirySample {x : Fin 16} (hr : s.fab.running = true) (hk : expirySample x s < fabReach s) :
    (advance (expirySample x s) s).fab.sample = expirySample x s :=
  advance_sample hr hk ((Nat.le_succ _).trans (Nat.le_max_left _ _))

theorem counterAtLimit_reaches {x : Fin 32} (hr : s.fab.running = true) (hk : s.fab.sample + 1 < fabReach s)
    (hn : s.fab.counters[x].atLimit = none) (hl : (advance (s.fab.sample + 1) s).fab.counters[x].atLimit ≠ none) :
    exec (.counterAtLimit x) s = .next (advance (s.fab.sample + 1) s) :=
  congrArg Host.Outcome.next (if_pos ⟨hr, hk, hn, Option.isSome_iff_ne_none.mpr hl⟩)

theorem counterAtLimit_below {x : Fin 32} (hl : (advance (s.fab.sample + 1) s).fab.counters[x].atLimit = none) :
    exec (.counterAtLimit x) s = .next s :=
  congrArg Host.Outcome.next (if_neg fun ⟨_, _, _, h⟩ => Option.isSome_iff_ne_none.mp h hl)

/-! ### The high runs of a pin (R216, R594) -/

section
variable {f l k : Nat}

theorem trigRun_within (h : k ≤ l) : trigRun (some (f, l)) k = some (f, l) := if_pos h

theorem trigRun_next : trigRun (some (f, l)) (l + 1) = some (f, l + 1) :=
  (if_neg (Nat.not_succ_le_self l)).trans (if_pos rfl)

theorem trigRun_after (h : l + 1 < k) : trigRun (some (f, l)) k = some (k, k) :=
  (if_neg (by omega)).trans (if_neg (by omega))

end

/-- The state after the high run of pin `x` became another. -/
def State.withRun (s : State) (x : Fin 4) (r : Option (Nat × Nat)) : State :=
  { s with fab := { s.fab with trigin := tabMod s.fab.trigin x.val fun _ => r } }

variable {x : Fin 4}

theorem triginHigh_unpowered (hb : bankOn (.trigin x) s = false) (k : Nat) : exec (.triginHigh x k) s = .next s := by
  change execTriginHigh x k s = _
  rw [execTriginHigh, hb]
  rfl

/-- A pin seen high makes of its run what `trigRun` says, where no sample has to be evaluated first: the fabric is stopped, or
the run has not ended before the last sample. -/
theorem triginHigh_seen {r : Option (Nat × Nat)} {k : Nat} (hx : tabGet s.fab.trigin x.val none = r)
    (hb : bankOn (.trigin x) s = true) (h : s.fab.running = false ∨ ∀ y ∈ r, k ≤ y.2 + 1) :
    exec (.triginHigh x k) s = .next (s.withRun x (trigRun r k)) := by
  have hs (c : Prop) [Decidable c] (hc : c → s.fab.running = false) : (if c then advance (k - 1) s else s) = s := by
    split
    · next hp => exact advance_stopped (hc hp) _
    · rfl
  have ht : tabMod s.fab.trigin x.val (fun r => trigRun r k) = tabMod s.fab.trigin x.val fun _ => trigRun r k :=
    tabMod_congr (d := none) (by rw [hx])
  change execTriginHigh x k s = _
  unfold execTriginHigh
  rw [hb, hx]
  dsimp only
  rw [if_neg (by decide), hs _ fun hf => ?_, ht]
  · rfl
  · refine h.resolve_right fun hle => ?_
    cases r with
    | none => exact Bool.false_ne_true hf
    | some y => exact absurd (hle y rfl) (Nat.not_le.mpr (of_decide_eq_true hf))

theorem triginHigh_within {f l k : Nat} (hx : tabGet s.fab.trigin x.val none = some (f, l)) (hk : k ≤ l) :
    exec (.triginHigh x k) s = .next s := by
  by_cases hb : bankOn (.trigin x) s = true
  · have hr : s.withRun x (trigRun (some (f, l)) k) = s := by
      rw [State.withRun, trigRun_within hk, tabMod_unchanged hx.symm]
    rw [triginHigh_seen hx hb (.inr fun y hy => by cases hy; exact Nat.le_succ_of_le hk), hr]
  · exact triginHigh_unpowered (Bool.eq_false_iff.mpr hb) k

/-! ### The pulses of an output (R230) -/

/-- The pulses of output `x` that have not ended yet stay requested. -/
theorem trigoutPulseEnd_keeps {l : List Nat}
    (h : s.trigout[x].requests.filter (fun k => decide (nowU s < pulseEnd x.val k s)) = l) :
    exec (.trigoutPulseEnd x) s = .next { s with trigout := tabMod s.trigout x.val fun y => { y with requests := l } } := by
  have ht : tabMod s.trigout x.val (fun y =>
        { y with requests := y.requests.filter fun k => decide (nowU s < pulseEnd x.val k s) }) =
      tabMod s.trigout x.val fun y => { y with requests := l } := by
    refine tabMod_congr (d := s.trigout[0]) ?_
    rw [tabGet_eq _ _ _ x.isLt, ← h]
    rfl
  change execTrigoutPulseEnd x s = _
  rw [execTrigoutPulseEnd, ht]

theorem trigoutPulseEnd_ends {k : Nat} {l : List Nat} (hr : s.trigout[x].requests = k :: l)
    (hk : pulseEnd x.val k s ≤ nowU s) (hl : ∀ n ∈ l, nowU s < pulseEnd x.val n s) :
    exec (.trigoutPulseEnd x) s = .next { s with trigout := tabMod s.trigout x.val fun y => { y with requests := l } } := by
  refine trigoutPulseEnd_keeps ?_
  rw [hr, List.filter_cons_of_neg (by simpa using hk), List.filter_eq_self.mpr fun n hn => decide_eq_true (hl n hn)]

theorem trigoutPulseEnd_before (h : ∀ n ∈ s.trigout[x].requests, nowU s < pulseEnd x.val n s) :
    exec (.trigoutPulseEnd x) s = .next s := by
  have ht : tabMod s.trigout x.val (fun y => { y with requests := s.trigout[x].requests }) = s.trigout := by
    refine tabMod_unchanged (d := s.trigout[0]) ?_
    rw [tabGet_eq _ _ _ x.isLt]
    rfl
  rw [trigoutPulseEnd_keeps (List.filter_eq_self.mpr fun n hn => decide_eq_true (h n hn)), ht]

end

/-- Settles O43, clause by clause. -/
theorem fabricSamples : Obligations.FabricSamples := by
  refine ⟨fun s _ hr ht he hk => ⟨_, fabTimerExpire_expires hr ht he hk, rfl, advance_expirySample hr hk,
      (advance_running _ s).trans hr⟩,
    fun _ _ => fabTimerExpire_stopped,
    fun s _ hr hk hn hl => ⟨_, counterAtLimit_reaches hr hk hn hl, rfl, advance_sample hr hk (Nat.le_succ _)⟩,
    fun _ _ => counterAtLimit_below,
    fun _ _ _ hx hb => triginHigh_seen hx hb (.inr fun _ h => absurd h (Option.not_mem_none _)),
    fun s x f l hx hb => ?_,
    fun _ _ _ _ _ => triginHigh_within,
    fun s x f l k hx hk hr hb => ?_,
    fun _ _ k hb => triginHigh_unpowered hb k,
    fun _ _ _ _ => trigoutPulseEnd_ends,
    fun _ _ => trigoutPulseEnd_before⟩
  · have h := triginHigh_seen hx hb (k := l + 1) (.inr fun y hy => by cases hy; exact le_rfl)
    rw [trigRun_next] at h
    exact h
  · have h := triginHigh_seen hx hb (k := k) (.inl hr)
    rw [trigRun_after hk] at h
    exact h

end Sys2Proof.Machine

/-! ## The settings of the fabric and the programs of the sequencers (O44) -/

namespace Sys2Proof.Machine

/-! ### FAB_CFG (R204) -/

section
variable {q : List Byte} {s : State}

/-- A body out of range is refused, whatever resource the request names. -/
theorem fabCmd_badBody (ho : fieldAt q 0 1 = 0) (ha : fabAbsent s.dev.variant (fieldAt q 1 1) q = false)
    (hb : fabBodyOk (fieldAt q 1 1) q = false) : fabCmd q s = quit stBadArg s := by
  simp [fabCmd, ho, ha, hb]

variable (hk : fieldAt q 1 1 ≤ 4) (hi : fieldAt q 2 1 ≤ fabIndexMax (fieldAt q 1 1)) (hz : zeroAt q 3 1 = true)
include hk hi hz

theorem fabCmd_write (ho : fieldAt q 0 1 = 0) (ha : fabAbsent s.dev.variant (fieldAt q 1 1) q = false)
    (hb : fabBodyOk (fieldAt q 1 1) q = true) :
    fabCmd q s = (modStaged (fabWrite (fieldAt q 1 1) (fieldAt q 2 1) q) s, some (pendingWith
      (fabReply (fieldAt q 1 1) (fieldAt q 2 1) (fabWrite (fieldAt q 1 1) (fieldAt q 2 1) q s.cfg.staged)))) := by
  simp [fabCmd, ho, ha, hb, hz, hk.not_gt, hi.not_gt, modStaged]

variable (hb : zeroAt q 4 252 = true)
include hb

theorem fabCmd_readStaged (ho : fieldAt q 0 1 = 1) :
    fabCmd q s = (s, some (okWith (fabReply (fieldAt q 1 1) (fieldAt q 2 1) s.cfg.staged))) := by
  simp [fabCmd, ho, hb, hz, hk.not_gt, hi.not_gt]

theorem fabCmd_readActive (ho : fieldAt q 0 1 = 2) : fabCmd q s =
    (s, some (okWith (fabReply (fieldAt q 1 1) (fieldAt q 2 1) (activeSeen (fieldAt q 1 1) (fieldAt q 2 1) s)))) := by
  simp [fabCmd, ho, hb, hz, hk.not_gt, hi.not_gt]

end

/-! ### TRV_OUT_CFG (R230) -/

/-- The TOUT words of an image that a request carries. -/
def toutOf (q : List Byte) : Tab 4 Word := Vector.ofFn fun x : Fin 4 => BitVec.ofNat 32 ((toutWords q).getD x.val 0)

/-- The bytes of an image's TOUT words in the response of TRV_OUT_CFG. -/
def toutBytes (i : Image) : List Byte := i.tout.toList.flatMap fun w => leBytes 4 w.toNat

section
variable {q : List Byte} {s : State}
  (hw : ∀ w ∈ toutWords q, toutOk w = true ∧ maskAbsent s.dev.variant (bitsOf 7 4 w) = false)
include hw

theorem toutWords_noneAbsent : (toutWords q).any (fun w => maskAbsent s.dev.variant (bitsOf 7 4 w)) = false :=
  List.any_eq_false.mpr fun w hm => by simp [(hw w hm).2]

theorem toutWords_noneBad : (toutWords q).any (fun w => !toutOk w) = false :=
  List.any_eq_false.mpr fun w hm => by simp [(hw w hm).1]

variable (h1 : zeroAt q 1 3 = true) (h20 : zeroAt q 20 236 = true)
include h1 h20

theorem outCfgCmd_write (ho : fieldAt q 0 1 = 0) :
    outCfgCmd q s = (modStaged (fun m => { m with tout := toutOf q }) s,
      some (pendingWith (zeros 4 ++ toutBytes { s.cfg.staged with tout := toutOf q }))) := by
  simp only [outCfgCmd, toutWords_noneAbsent hw, toutWords_noneBad hw, ho, h1, h20]
  rfl

theorem outCfgCmd_read (ho : fieldAt q 0 1 = 1 ∨ fieldAt q 0 1 = 2) :
    outCfgCmd q s = (s, some (okWith (leBytes 1 (fieldAt q 0 1) ++ zeros 3 ++
      toutBytes (if fieldAt q 0 1 = 2 then s.cfg.active else s.cfg.staged)))) := by
  rcases ho with ho | ho
  · simp only [outCfgCmd, toutWords_noneAbsent hw, toutWords_noneBad hw, ho, h1, h20]
    rfl
  · simp only [outCfgCmd, toutWords_noneAbsent hw, toutWords_noneBad hw, ho, h1, h20]
    rfl

end

/-! ### TRV_LOAD (R226, R227) -/

section
variable {j : Nat} {p : Program} {s : State} (ha : programAbsent s.dev.variant p = false)
include ha

theorem closeLoad_stages (hw : ∀ w ∈ p.words.toList, branchBad w = false) :
    closeLoad j p s = (modStaged (fun m => { m with progs := tabMod m.progs j fun _ => some p }) (setBuffer j none s),
      some (pendingWith (loadReply j none 0 0
        (modStaged (fun m => { m with progs := tabMod m.progs j fun _ => some p }) (setBuffer j none s))))) := by
  have hb : p.words.toList.any branchBad = false := List.any_eq_false.mpr fun w hm => by simp [hw w hm]
  simp [closeLoad, setBuffer, ha, hb]

theorem closeLoad_badBranch {w : Branch} (hm : w ∈ p.words.toList) (hw : branchBad w = true) :
    closeLoad j p s = quit stBadArg (setBuffer j none s) := by
  have hb : p.words.toList.any branchBad = true := List.any_eq_true.mpr ⟨w, hm, hw⟩
  simp [closeLoad, setBuffer, ha, hb]

end

/-- The program with the header of a request and no state words yet (R226). -/
def headerProgram (q : List Byte) : Program :=
  { step := fieldAt q 8 1, stepPod := fieldAt q 9 1, group := fieldAt q 10 1, oneShot := bitOf 0 (fieldAt q 11 1),
    words := Vector.replicate 64 0 }

/-- The program with the state words of a request put in (R226). -/
def Program.withStates (p : Program) (q : List Byte) : Program :=
  { p with words := putWords (4 * fieldAt q 2 1) (loadWords q (fieldAt q 3 1)) p.words }

section
variable {q : List Byte} {s : State}

theorem loadCmd_absent (ha : loadAbsent s.dev.variant q = true) : loadCmd q s = quit stUnsupported s := by
  simp [loadCmd, ha]

variable {j : Nat} (hj : fieldAt q 0 1 = j) (hv : s.dev.variant.hasSeq j = true)
  (ha : loadAbsent s.dev.variant q = false) (hb : loadBad q = false)
include hj hv ha hb

theorem loadCmd_open (ho : fieldAt q 1 1 = 0) :
    loadCmd q s = (setBuffer j (some (headerProgram q)) s,
      some (okWith (loadReply j none 0 0 (setBuffer j (some (headerProgram q)) s)))) := by
  simp [loadCmd, hj, hv, ha, hb, ho, headerProgram]

theorem loadCmd_states {p : Program} (ho : fieldAt q 1 1 = 1) (hp : (seqOf s j).buffer = some p) :
    loadCmd q s = (setBuffer j (some (p.withStates q)) s,
      some (okWith (loadReply j none 0 0 (setBuffer j (some (p.withStates q)) s)))) := by
  simp [loadCmd, hj, hv, ha, hb, ho, hp, Program.withStates]

theorem loadCmd_close {p : Program} (ho : fieldAt q 1 1 = 2) (hp : (seqOf s j).buffer = some p) :
    loadCmd q s = closeLoad j p s := by
  simp [loadCmd, hj, hv, ha, hb, ho, hp]

theorem loadCmd_unopened (ho : fieldAt q 1 1 = 1 ∨ fieldAt q 1 1 = 2) (hp : (seqOf s j).buffer = none) :
    loadCmd q s = quit stState s := by
  rcases ho with ho | ho
  · simp [loadCmd, hj, hv, ha, hb, ho, hp]
  · simp [loadCmd, hj, hv, ha, hb, ho, hp]

theorem loadCmd_readStaged (ho : fieldAt q 1 1 = 3) : loadCmd q s =
    (s, some (okWith (loadReply j (progIn s.dev.variant s.cfg.staged j) (fieldAt q 2 1) (fieldAt q 3 1) s))) := by
  simp [loadCmd, hj, hv, ha, hb, ho]

theorem loadCmd_erase (ho : fieldAt q 1 1 = 5) :
    loadCmd q s = (modStaged (fun m => { m with progs := tabMod m.progs j fun _ => none }) s,
      some (pendingWith (loadReply j none 0 0
        (modStaged (fun m => { m with progs := tabMod m.progs j fun _ => none }) s)))) := by
  simp [loadCmd, hj, hv, ha, hb, ho]

end

/-- Settles O44, clause by clause. -/
theorem fabricSettings : Obligations.FabricSettings :=
  ⟨fun _ _ hs ho hk hi hz ha hb => ⟨_, _, rfl, rfl, command_completes hs (fabCmd_write hk hi hz ho ha hb) rfl⟩,
   fun _ _ hs ho ha hb => ⟨_, rfl, command_quits hs (fabCmd_badBody ho ha hb)⟩,
   fun _ _ hs ho hk hi hz hb => ⟨_, rfl, command_completes hs (fabCmd_readStaged hk hi hz hb ho) rfl⟩,
   fun _ _ hs ho hk hi hz hb => ⟨_, rfl, command_completes hs (fabCmd_readActive hk hi hz hb ho) rfl⟩,
   fun _ _ hs ho h1 h20 hw => ⟨_, _, rfl, rfl, command_completes hs (outCfgCmd_write hw h1 h20 ho) rfl⟩,
   fun _ _ hs ho h1 h20 hw => ⟨_, rfl, command_completes hs (outCfgCmd_read hw h1 h20 ho) rfl⟩,
   fun _ _ _ hs hj hv ha hb ho => ⟨_, _, rfl, rfl, command_completes hs (loadCmd_open hj hv ha hb ho) rfl⟩,
   fun _ _ _ _ hs hj hv ha hb ho hp => ⟨_, _, rfl, rfl, command_completes hs (loadCmd_states hj hv ha hb ho hp) rfl⟩,
   fun _ _ _ _ hs hj hv ha hb ho hp hpa hw => ⟨_, _, rfl, rfl,
    command_completes hs ((loadCmd_close hj hv ha hb ho hp).trans (closeLoad_stages hpa hw)) rfl⟩,
   fun _ _ _ _ _ hs hj hv ha hb ho hp hpa hm hw => ⟨_, _, rfl, rfl,
    command_completes hs ((loadCmd_close hj hv ha hb ho hp).trans (closeLoad_badBranch hpa hm hw)) rfl⟩,
   fun _ _ _ hs hj hv ha hb ho hp => ⟨_, rfl, command_quits hs (loadCmd_unopened hj hv ha hb ho hp)⟩,
   fun _ _ _ hs hj hv ha hb ho => ⟨_, rfl, command_completes hs (loadCmd_readStaged hj hv ha hb ho) rfl⟩,
   fun _ _ _ hs hj hv ha hb ho => ⟨_, _, rfl, rfl, command_completes hs (loadCmd_erase hj hv ha hb ho) rfl⟩,
   fun _ _ hs ha => ⟨_, rfl, command_quits hs (loadCmd_absent ha)⟩⟩

end Sys2Proof.Machine

/-! # The traverse family: arming and disarming the sequencers

## A mailbox that the host rang itself stays one while the fabric evaluates (R499, R509) -/

namespace Sys2Proof.Machine

/-- The command of mailbox `m` came from the host itself, by no tunnel (R509). -/
def HostRung (m : Nat) (s : State) : Prop := (mbOf s m).tunnel = none

theorem HostRung.of_mb {m : Nat} {s t : State} (hr : HostRung m s) (h : t.mb = s.mb) : HostRung m t :=
  (tunnel_of_mb h m).trans hr

theorem HostRung.of_spares {m : Nat} (hm : m < 8) {s t : State} (hr : HostRung m s) (h : Spares s t) : HostRung m t :=
  h.tunnel m hm hr

/-- A served command completes where its mailbox stays one that the host rang itself. -/
theorem completes_of_hostRung {m : Fin 8} {op : Nat} {f : Cmd} {s u : State} {r : Reply} (hs : s.serves m.val op = true)
    (hf : f (s.request m.val) s = (u, some r)) (hu : HostRung m.val s → HostRung m.val u) :
    u.completes m.val r.status r.detail r.body (command m.val op f s) :=
  command_completes hs hf (Eq.trans (hu (tunnel_of_serves hs)) (tunnel_of_serves hs).symm)

theorem HostRung.foldl {m : Nat} {α : Type} {f : State → α → State} (hf : ∀ x a, HostRung m x → HostRung m (f x a))
    (l : List α) {s : State} (hr : HostRung m s) : HostRung m (l.foldl f s) :=
  List.foldlRecOn l f hr fun x h a _ => hf x a h

theorem foldl_mb {α : Type} {f : State → α → State} {l : List α} (hf : ∀ x, ∀ a ∈ l, (f x a).mb = x.mb) (s : State) :
    (l.foldl f s).mb = s.mb := foldl_unchanged State.mb hf s

/-! ### What leaves the mailboxes alone -/

theorem raiseIf_mb (c : Prop) [Decidable c] (g b : Nat) (s : State) : (if c then raise g b s else s).mb = s.mb := by
  rw [apply_ite State.mb, raise_mb, ite_self]

theorem disarmNow_mb (j : Nat) (s : State) : (disarmNow j s).mb = s.mb := by
  unfold disarmNow
  split
  · rfl
  · rfl
  · rw [raise_mb, modSeq_mb]

theorem armNow_mb (j first : Nat) (late : Bool) (s : State) : (armNow j first late s).mb = s.mb := by
  unfold armNow
  split
  · rfl
  · rw [raise_mb, modSeq_mb]

theorem armAll_mb (m first : Nat) (late missed : Bool) (s : State) : (armAll m first late missed s).mb = s.mb := by
  refine foldl_mb (fun x j _ => ?_) s
  dsimp only
  split
  · rfl
  · rw [raiseIf_mb, armNow_mb]

theorem armMask_mb (m first : Nat) (late missed : Bool) (b : Option Nat) (s : State) :
    (armMask m first late missed b s).mb = s.mb := by
  unfold armMask
  split
  · rfl
  · split
    · rfl
    · exact armAll_mb m first late missed s

theorem armPending_mb (j first : Nat) (s : State) : (armPending j first s).mb = s.mb := by
  unfold armPending
  split
  · rw [raise_mb, modSeq_mb]
  · rfl

theorem pendNow_mb (j : Nat) (w : ArmWait) (s : State) : (pendNow j w s).mb = s.mb := by
  unfold pendNow
  split
  · rfl
  · rw [modSeq_mb]

theorem pendSeq_mb (j : Nat) (w : ArmWait) (s : State) : (pendSeq j w s).mb = s.mb := by
  unfold pendSeq
  split
  · rfl
  · exact pendNow_mb j w s

theorem dropArm_mb (j : Nat) (s : State) : (dropArm j s).mb = s.mb := by
  rw [dropArm, raise_mb, modSeq_mb]

theorem takeDone_mb (k j : Nat) (s : State) : (takeDone k j s).mb = s.mb := by
  unfold takeDone seqDone
  split
  · rfl
  · split
    · split
      · rw [raiseIf_mb, raise_mb, modSeq_mb]
      · rw [modSeq_mb]
    · rfl

theorem takeTarget_mb (k j : Nat) (s : State) : (takeTarget k j s).mb = s.mb := by
  unfold takeTarget
  split
  · split
    · exact armPending_mb j k s
    · rfl
  · rfl

theorem endHold_mb (n : Nat) (s : State) : (endHold n s).mb = s.mb := by
  unfold endHold detectIn
  dsimp only
  split
  · rfl
  · split
    · rfl
    · split
      · rfl
      · rfl

theorem endHoldIf_mb (c : Prop) [Decidable c] (n : Nat) (s : State) : (if c then endHold n s else s).mb = s.mb := by
  rw [apply_ite State.mb, endHold_mb, ite_self]

theorem requalify_mb (s : State) : (requalify s).mb = s.mb := by
  unfold requalify
  split
  · next e _ _ =>
    dsimp only
    rw [foldl_mb fun x n _ => ?_]
    split
    · rw [modInput_mb, endHoldIf_mb]
    · rfl
  · rfl

theorem evalSuspect_mb (k : Nat) (s : State) : (evalSuspect k s).mb = s.mb := by
  unfold evalSuspect
  extract_lets x now y
  have hx : x.mb = s.mb := by
    unfold x
    split
    · rw [apply_ite State.mb, requalify_mb, ite_self]
    · rfl
  exact (apply_ite State.mb _ _ x).trans ((ite_self _).trans hx)

theorem stepAt_mb {j : Nat} (hj : j < 4) (i : Nat) (by_ : StepBy) (p : Program) (s : State) :
    (stepAt j i by_ p s).mb = s.mb := by
  unfold stepAt
  dsimp only
  split
  · exact congrArg (·.2.2.2.2.2.2.1) (blockStep_counts j _).parts
  · split
    · exact congrArg (·.2.2.2.2.2.2.1) (takeBranch_takes hj _ _ _ p i _).1
    · rfl

theorem stepSeq_mb {j : Nat} (hj : j < 4) (s : State) : (stepSeq j s).mb = s.mb := by
  unfold stepSeq
  split
  · exact stepAt_mb hj _ _ _ s
  · rfl

theorem stepAll_mb (s : State) : (stepAll s).mb = s.mb :=
  foldl_mb (fun x j hj => by
    have hj := List.mem_range.mp hj
    rw [stepSeq_mb hj, stepSeq_mb hj]) s

theorem leaveSample_mb (s : State) : (leaveSample s).mb = s.mb := by
  have hx : (showSeqs (stepAll s)).mb = s.mb := by
    rw [showSeqs, apply_ite State.mb, ite_self, stepAll_mb]
  unfold leaveSample
  generalize showSeqs (stepAll s) = x at hx
  exact hx

theorem showLive_mb (s : State) : (showLive s).mb = s.mb := by
  rw [showLive, apply_ite State.mb, ite_self]

theorem openedFor_mb (k : Nat) (s : State) : (openedFor k s).mb = s.mb := rfl

/-! ### What completes other commands on the way -/

section
variable {m : Nat} (hm : m < 8) {s : State} (hr : HostRung m s)
include hm hr

theorem mbCompleteIf_hostRung (c : Prop) [Decidable c] (b : Nat) (r : Reply) :
    HostRung m (if c then mbComplete b r s else s) := by
  split
  · exact hr.of_spares hm (mbComplete_spares (.refl s) b r)
  · exact hr

theorem takeOrder_hostRung (o : SeqOrder) : HostRung m (takeOrder s o) := by
  cases o with
  | disarm x mb =>
    have hd : HostRung m ((bitsSet 4 x).foldl (fun s j => disarmNow j s) s) :=
      hr.of_mb (foldl_mb (fun y j _ => disarmNow_mb j y) s)
    cases mb with
    | none => exact hd
    | some b => exact mbCompleteIf_hostRung hm hd _ b _
  | arm x first late missed mb =>
    have ha := hr.of_mb (armAll_mb x first late missed s)
    cases mb with
    | none => exact ha
    | some b => exact mbCompleteIf_hostRung hm ha _ b _
  | pend j w => exact hr.of_mb (pendNow_mb j w s)

theorem settledFor_hostRung (k : Nat) : HostRung m (settledFor k s) := by
  have hj : HostRung m ((List.range 16).foldl (fun s p => if clocked p s then judgeClocks p (256 * k) s else s) s) :=
    hr.of_spares hm (Spares.foldl (fun _ p h => .ite (judgeClocks_spares h p _) h) _ (.refl s))
  refine hj.of_mb ?_
  rw [settledFor, foldl_mb fun x n _ => endHoldIf_mb _ n x, evalSuspect_mb]

theorem orderedFor_hostRung (k : Nat) : HostRung m (orderedFor k s) := by
  have hp {x : State} (h : HostRung m x) : HostRung m (takeOrders k x) := by
    unfold takeOrders
    exact HostRung.foldl (fun y o hy => takeOrder_hostRung hm hy o.2) _ (h.of_mb (by rfl))
  unfold orderedFor
  refine (hp ?_).of_mb (foldl_mb (fun x j _ => by rw [takeTarget_mb, takeDone_mb]) _)
  exact hr.of_mb rfl

theorem enterSample_hostRung (k : Nat) : HostRung m (enterSample k s) := by
  rw [enterSample_eq]
  exact ((orderedFor_hostRung hm (settledFor_hostRung hm hr k) k).of_mb (openedFor_mb k _)).of_mb (showLive_mb _)

omit hr in
theorem advanceBy_hostRung : ∀ (n : Nat) {s : State}, HostRung m s → HostRung m (advanceBy n s)
  | 0, _, h => h
  | n + 1, s, h => advanceBy_hostRung n (enterSample_hostRung hm (h.of_mb (leaveSample_mb s)) _)

theorem evalNow_hostRung : HostRung m (evalNow s) := by
  unfold evalNow evalBelow
  split
  · exact hr
  · refine advanceBy_hostRung hm _ ?_
    split
    · exact hr
    · exact enterSample_hostRung hm hr _

end

/-! ### Chain arms (R221) -/

theorem chainArmSeq_mb (j sec ns policy : Nat) (s : State) : (chainArmSeq j sec ns policy s).mb = s.mb := by
  unfold chainArmSeq
  split
  · rfl
  · split
    · exact dropArm_mb j s
    · split
      · split
        · exact armMask_mb _ _ _ _ _ s
        · exact dropArm_mb j s
      · exact pendSeq_mb j _ s

theorem chainDrop_mb (x : Nat) (s : State) : (chainDrop x s).mb = s.mb :=
  foldl_mb (fun _ _ _ => foldl_mb (fun y j _ => by rw [apply_ite State.mb, dropArm_mb, ite_self]) _) s

section
variable {m : Nat} (hm : m < 8) {s : State} (hr : HostRung m s)
include hm hr

theorem chainArm_hostRung (group sec ns policy : Nat) : HostRung m (chainArm group sec ns policy s) := by
  unfold chainArm
  split
  · exact hr
  · refine (evalNow_hostRung hm hr).of_mb (foldl_mb (fun x j _ => ?_) _)
    rw [apply_ite State.mb, chainArmSeq_mb, ite_self]

theorem chainMaster_hostRung (x sec ns policy : Nat) : HostRung m (chainMaster x sec ns policy s) :=
  HostRung.foldl (fun _ g h => chainArm_hostRung hm (h.of_spares hm (originate_spares (.refl _) _ _ _)) g sec ns policy)
    _ hr

end
end Sys2Proof.Machine

/-! ## TRV_ARM, TRV_DISARM and pending targets (O45) -/

namespace Sys2Proof.Machine

/-! ### The rules the commands share -/

/-- A fabric that has stopped has nothing to evaluate by now. -/
theorem evalNow_stopped {s : State} (h : s.fab.running = false) : evalNow s = s := if_pos (.inl (by rw [h]; rfl))

theorem evalNow_running (s : State) : (evalNow s).fab.running = s.fab.running := evalBelow_running _ s

theorem evalNow_dev (s : State) : (evalNow s).dev = s.dev := (evalBelow_steady (.refl s) _).dev

section
variable {m : Nat} (h0 : 1 ≤ m) {s : State}
include h0

theorem armMask_stopped (first : Nat) (late missed : Bool) (b : Option Nat) (h : s.fab.running = false) :
    armMask m first late missed b s = armAll m first late missed s := by
  simp [armMask, h, Nat.ne_of_gt h0]

theorem armMask_running (first : Nat) (late missed : Bool) (b : Option Nat) (h : s.fab.running = true) :
    armMask m first late missed b s = orderAt (armSample m first s) (.arm m first late missed b) s := by
  simp [armMask, h, Nat.ne_of_gt h0]

theorem disarmMask_stopped (h : s.fab.running = false) :
    disarmMask m s = (bitsSet 4 m).foldl (fun v j => disarmNow j v) s := by
  simp [disarmMask, h, Nat.ne_of_gt h0]

end

/-- With the fabric stopped every named sequencer is left PENDING at once (R219). -/
theorem foldl_pendSeq_stopped (w : ArmWait) : ∀ (l : List Nat) {s : State}, s.fab.running = false →
    l.foldl (fun v j => pendSeq j w v) s = l.foldl (fun v j => pendNow j w v) s
  | [], _, _ => rfl
  | j :: l, s, h => by
    have hp : pendSeq j w s = pendNow j w s := by simp [pendSeq, h]
    rw [List.foldl_cons, List.foldl_cons, hp]
    exact foldl_pendSeq_stopped w l (by rw [pendNow_fab, h])

theorem armOnStart_stopped (m : Nat) (b : Option Nat) {s : State} (hf : s.dev.acq ≠ .frozen)
    (h : s.fab.running = false) : armOnStart m b s = (bitsSet 4 m).foldl (fun v j => pendNow j .onStart v) s := by
  simp [armOnStart, hf, h, foldl_pendSeq_stopped]

/-- While the fabric evaluates, ON_START arms as NOW does (R219). -/
theorem armOnStart_running (m : Nat) (b : Option Nat) {s : State} (hf : s.dev.acq ≠ .frozen)
    (h : s.fab.running = true) : armOnStart m b s = armMask m (nextVector s) false false b s := by
  simp [armOnStart, hf, h]

theorem notFrozen_of_armState {m mode : Nat} {s : State} (h : armState m mode s = false) : s.dev.acq ≠ .frozen := by
  intro hf
  simp [armState, hf] at h

/-! ### TRV_ARM (R228) -/

/-- A request of TRV_ARM that names sequencers of the variant, its other fields in range (R228). -/
structure ArmRequest (v : Variant) (q : List Byte) : Prop where
  named   : 1 ≤ fieldAt q 0 1
  four    : fieldAt q 0 1 ≤ 15
  policy  : fieldAt q 2 1 ≤ 1
  zeros   : zeroAt q 3 1 = true
  rest    : zeroAt q 12 244 = true
  ns      : fieldAt q 8 4 ≤ 999999999
  present : maskAbsent v (fieldAt q 0 1) = false

section
variable {mb : Nat} {q : List Byte} {s : State} (hq : ArmRequest s.dev.variant q)
include hq

theorem armCmd_now (hm : fieldAt q 1 1 = 0) (ha : armState (fieldAt q 0 1) 0 s = false) {u : State}
    (hu : u = armMask (fieldAt q 0 1) (nextVector (evalNow s)) false false (some mb) (evalNow s)) :
    armCmd mb q s = (u, if s.fab.running then none else some (okWith (leBytes 1 (armedMask (fieldAt q 0 1) u)))) := by
  obtain ⟨h0, h15, hp, hz, hr, hn, hv⟩ := hq
  simp [armCmd, hm, ha, hu, Nat.ne_of_gt h0, h15.not_gt, hp.not_gt, hz, hr, hn.not_gt, hv, evalNow_running]

theorem armCmd_onStart (hm : fieldAt q 1 1 = 1) (ha : armState (fieldAt q 0 1) 1 s = false) {u : State}
    (hu : u = armOnStart (fieldAt q 0 1) (some mb) (evalNow s)) :
    armCmd mb q s = (u, if s.fab.running then none else some (okWith (leBytes 1 (armedMask (fieldAt q 0 1) u)))) := by
  obtain ⟨h0, h15, hp, hz, hr, hn, hv⟩ := hq
  simp [armCmd, hm, ha, hu, Nat.ne_of_gt h0, h15.not_gt, hp.not_gt, hz, hr, hn.not_gt, hv, evalNow_running]

theorem armCmd_refused (hm : fieldAt q 1 1 = 0) (ha : armState (fieldAt q 0 1) 0 s = true) :
    armCmd mb q s = quit stState s := by
  obtain ⟨h0, h15, hp, hz, hr, hn, hv⟩ := hq
  simp [armCmd, hm, ha, Nat.ne_of_gt h0, h15.not_gt, hp.not_gt, hz, hr, hn.not_gt, hv]

end

/-- The target on time B of a request, its seconds completed from the present time (R228). -/
def targetSec (q : List Byte) (s : State) : Nat := s.tm.b.sec / 2 ^ 32 * 2 ^ 32 + fieldAt q 4 4

/-- Has time B reached the target of a request? -/
def targetPast (q : List Byte) (s : State) : Bool := timeBReached (targetSec q s) (fieldAt q 8 4) s

/-- A completion with LATE (R221). -/
def lateWith (body : List Byte) : Reply := { status := stLate, detail := 0, body := body }

/-- MODE CHAIN is possible: a chain, an address, and a group for every named sequencer that is loaded (R228). -/
structure ChainRequest (q : List Byte) (s : State) : Prop extends ArmRequest s.dev.variant q where
  mode    : fieldAt q 1 1 = 2
  chain   : s.dev.variant.ridgeline = true
  grouped : ∀ j ∈ bitsSet 4 (fieldAt q 0 1), loadedActive j s = true → chainGroup j s ≠ 0
  ready   : armState (fieldAt q 0 1) 2 s = false
  address : s.rl.addr ≠ 0

section
variable {mb : Nat} {q : List Byte} {s : State} (hq : ChainRequest q s)
include hq

/-- MODE CHAIN drops a past target under LATE_DROP, and sends and applies the arm otherwise. -/
theorem armCmd_chain : armCmd mb q s =
    if targetPast q s = true ∧ fieldAt q 2 1 = 1 then
      (chainDrop (fieldAt q 0 1) (evalNow s), some (lateWith
        (chainBody (fieldAt q 0 1) (maskOf (groupsOf (fieldAt q 0 1) (evalNow s))) true
          (chainDrop (fieldAt q 0 1) (evalNow s)))))
    else
      (chainMaster (fieldAt q 0 1) (targetSec q s) (fieldAt q 8 4) (fieldAt q 2 1) (evalNow s), some (okWith
        (chainBody (fieldAt q 0 1) (maskOf (groupsOf (fieldAt q 0 1) (evalNow s))) (targetPast q s)
          (chainMaster (fieldAt q 0 1) (targetSec q s) (fieldAt q 8 4) (fieldAt q 2 1) (evalNow s))))) := by
  obtain ⟨⟨h0, h15, hp, hz, hr, hn, hv⟩, hm, hc, hg, ha, hd⟩ := hq
  have hb : ((bitsSet 4 (fieldAt q 0 1)).any fun j => loadedActive j s && chainGroup j s == 0) = false := by
    simpa using hg
  unfold targetPast targetSec lateWith
  simp [armCmd, hm, ha, hc, hb, hd, Nat.ne_of_gt h0, h15.not_gt, hp.not_gt, hz, hr, hn.not_gt, hv]

theorem armCmd_chainSent (h : targetPast q s = false ∨ fieldAt q 2 1 = 0) {u : State}
    (hu : u = chainMaster (fieldAt q 0 1) (targetSec q s) (fieldAt q 8 4) (fieldAt q 2 1) (evalNow s)) :
    armCmd mb q s = (u, some (okWith (chainBody (fieldAt q 0 1)
      (maskOf (groupsOf (fieldAt q 0 1) (evalNow s))) (targetPast q s) u))) := by
  have hn : ¬(targetPast q s = true ∧ fieldAt q 2 1 = 1) := by
    rintro ⟨ht, hp⟩
    rcases h with h | h
    · exact Bool.false_ne_true (h.symm.trans ht)
    · omega
  rw [armCmd_chain hq, if_neg hn, hu]

theorem armCmd_chainLate (ht : targetPast q s = true) (hp : fieldAt q 2 1 = 1) {u : State}
    (hu : u = chainDrop (fieldAt q 0 1) (evalNow s)) :
    armCmd mb q s = (u, some (lateWith (chainBody (fieldAt q 0 1)
      (maskOf (groupsOf (fieldAt q 0 1) (evalNow s))) true u))) := by
  rw [armCmd_chain hq, if_pos ⟨ht, hp⟩, hu]

end

/-! ### TRV_DISARM (R229) -/

section
variable {mb : Nat} {q : List Byte} {s : State} (h0 : 1 ≤ fieldAt q 0 1) (h15 : fieldAt q 0 1 ≤ 15)
  (hf : fieldAt q 1 1 = 0) (hz : zeroAt q 2 254 = true) (hv : maskAbsent s.dev.variant (fieldAt q 0 1) = false)
include h0 h15 hf hz hv

theorem disarmCmd_stopped (h : s.fab.running = false) : disarmCmd mb q s =
    ((bitsSet 4 (fieldAt q 0 1)).foldl (fun v j => disarmNow j v) s, some (okWith (disarmBody (fieldAt q 0 1) s))) := by
  simp [disarmCmd, hf, hz, hv, h, Nat.ne_of_gt h0, h15.not_gt, bitOf, disarmMask_stopped h0 h]

theorem disarmCmd_running (h : s.fab.running = true) :
    disarmCmd mb q s = (orderAt (nextVector s) (.disarm (fieldAt q 0 1) (some mb)) s, none) := by
  simp [disarmCmd, hf, hz, hv, h, Nat.ne_of_gt h0, h15.not_gt, bitOf]

end

/-! ### Orders that take effect (R219, R224) -/

theorem takeOrders_single {s : State} {k n : Nat} {o : SeqOrder} (ho : s.fab.orders = [(n, o)]) (hn : n ≤ k) :
    takeOrders k s = takeOrder { s with fab := { s.fab with orders := [] } } o := by
  simp [takeOrders, ho, hn, hn.not_gt]

/-- Before its sample an order waits. -/
theorem takeOrders_early {s : State} {k : Nat} (h : ∀ o ∈ s.fab.orders, k < o.1) : takeOrders k s = s := by
  have hd : (s.fab.orders.filter fun o => decide (o.1 ≤ k)) = [] :=
    List.filter_eq_nil_iff.mpr fun o ho => by simpa using h o ho
  have hk : (s.fab.orders.filter fun o => decide (k < o.1)) = s.fab.orders :=
    List.filter_eq_self.mpr fun o ho => by simpa using h o ho
  rw [takeOrders, hd, hk]
  rfl

theorem mbRuns_of_mb {s u : State} (h : u.mb = s.mb) (m op : Nat) : mbRuns m op u = mbRuns m op s := by
  simp [mbRuns, mbOf, h]

/-- A command that waited completes once its order has taken effect, if its mailbox still runs it. -/
theorem mbCompleteIf_completes {m : Fin 8} {op : Nat} {s u : State} (hs : s.serves m.val op = true) (hu : u.mb = s.mb)
    (body : List Byte) :
    u.completes m.val stOk 0 body (if mbRuns m.val op u then mbComplete m.val (okWith body) u else u) := by
  simp only [State.serves, Bool.and_eq_true, Option.isNone_iff_eq_none] at hs
  rw [if_pos ((mbRuns_of_mb hu _ _).trans hs.1)]
  exact mbComplete_completes m.isLt (okWith body) ((tunnel_of_mb hu _).trans hs.2)

theorem takeOrders_completesArm {m : Fin 8} {s : State} {k n x f : Nat} (hs : s.serves m.val 0x0302 = true)
    (ho : s.fab.orders = [(n, .arm x f false false (some m.val))]) (hn : n ≤ k) {u : State}
    (hu : u = armAll x f false false { s with fab := { s.fab with orders := [] } }) :
    u.completes m.val stOk 0 (leBytes 1 (maskOf ((bitsSet 4 x).filter fun j => armBusy j u))) (takeOrders k s) := by
  rw [takeOrders_single ho hn, takeOrder, ← hu]
  exact mbCompleteIf_completes hs (by rw [hu, armAll_mb]) _

theorem takeOrders_completesDisarm {m : Fin 8} {s : State} {k n x : Nat} (hs : s.serves m.val 0x0303 = true)
    (ho : s.fab.orders = [(n, .disarm x (some m.val))]) (hn : n ≤ k) {u : State}
    (hu : u = (bitsSet 4 x).foldl (fun v j => disarmNow j v) { s with fab := { s.fab with orders := [] } }) :
    u.completes m.val stOk 0 (disarmBody x s) (takeOrders k s) := by
  rw [takeOrders_single ho hn, takeOrder, ← hu]
  exact mbCompleteIf_completes hs (by rw [hu, foldl_mb fun v j _ => disarmNow_mb j v]) _

/-! ### One sequencer armed, dropped or disarmed (R219, R220, R224) -/

/-- The RAW bit of an event after its raise. -/
theorem rawBit_raise (g b : Nat) (s : State) :
    (raise g b s).rawBit g b = (hasEvent s.dev.variant g b || s.rawBit g b) := by
  by_cases h : hasEvent s.dev.variant g b = true
  · rw [h, Bool.true_or]
    exact (raises_raise g b s).marked (g, b) (List.mem_singleton_self _) h
  · simp [raise, raiseWith, h]

@[simp] theorem seqOf_raise (g b : Nat) (s : State) (j : Nat) : seqOf (raise g b s) j = seqOf s j := by
  simp [seqOf]

/-- An ARMED sequencer as an arm leaves it (R219). -/
def Seq.armed (first : Nat) (late : Bool) (q : Seq) : Seq :=
  { q with
    mode := .armed, state := 0, flag := false, late := late, dropped := false, wait := none, doneFrom := none
    stepped := none, first := first }

theorem armNow_idle {s : State} {j : Nat} (hm : (seqOf s j).mode = .idle) (hl : loadedActive j s = true) (n : Nat)
    (b : Bool) : armNow j n b s = raise 7 (8 * j) (modSeq j (Seq.armed (max n (intakeSample s)) b) s) := by
  have hb : armBusy j s = false := by simp [armBusy, hm]
  simp only [armNow, hb, hl, Bool.not_true, Bool.false_eq_true, or_self, if_false]
  rfl

theorem disarmNow_armed {s : State} {j : Nat} (hm : (seqOf s j).mode = .armed) (hl : loadedActive j s = true) :
    disarmNow j s = raise 7 (8 * j + 3) (modSeq j (fun q => { q with
      mode := .idle, state := 0, flag := false, wait := none, doneFrom := none, stepped := none }) s) := by
  simp [disarmNow, hm, hl]

/-! ### Targets on time B (R219, R391) -/

/-- The first sample at or after the instant at which time B reached a target (R391). -/
def targetSample (sec ns : Nat) (s : State) : Nat :=
  sampleOf ((reachInstant s.tm.segB (flatOf sec ns)).getD (nowU s))

section
variable {s : State} {j : Fin 4} {a b c : Nat} (hm : (seqOf s j.val).mode = .pending)
  (hw : (seqOf s j.val).wait = some (.atTimeB a b c))
include hm hw

theorem trvArmTarget_early (ht : timeBReached a b s = false) : exec (.trvArmTarget j) s = .next s := by
  simp [exec, execTrvArmTarget, hm, hw, ht]

variable (hv : s.tm.bValid = true) (ht : timeBReached a b s = true)
include hv ht

theorem trvArmTarget_reached : exec (.trvArmTarget j) s = .next (
    if s.fab.running then advance (targetSample a b s) s
    else if armDiscarded j.val s then dropArm j.val (disarmNow j.val s)
    else armPending j.val (targetSample a b s) s) := by
  simp [exec, execTrvArmTarget, hm, hw, hv, ht, targetSample]

/-- While the fabric evaluates, the arm comes true in the first sample at or after the target. -/
theorem takeTarget_reached {k : Nat} (hk : targetSample a b s ≤ k) : takeTarget k j.val s = armPending j.val k s := by
  simp [takeTarget, hm, hw, hv, ht, show sampleOf _ ≤ k from hk]

end

/-! ### The obligation -/

section
variable {s u : State} {m : Fin 8} {x : Nat} (hs : s.serves m.val 0x0302 = true)
  (hc : armCmd m.val (s.request m.val) s =
    (u, if s.fab.running then none else some (okWith (leBytes 1 (armedMask x u)))))
include hs hc

/-- While the fabric is stopped TRV_ARM completes at once (R228). -/
theorem trvArm_completes (hrun : s.fab.running = false) (hu : u.mb = s.mb) : ∃ t, exec (.trvArm m) s = .next t ∧
    u.completes m.val stOk 0 (leBytes 1 (armedMask x u)) t := by
  rw [hrun] at hc
  exact ⟨_, rfl, command_completes hs hc (tunnel_of_mb hu _)⟩

/-- While the fabric evaluates TRV_ARM waits for its order (R228). -/
theorem trvArm_waits (hrun : s.fab.running = true) : exec (.trvArm m) s = .next u := by
  rw [hrun] at hc
  exact congrArg Host.Outcome.next (command_waits hs hc)

end

section
variable {s : State} {m : Fin 8} (hs : s.serves m.val 0x0302 = true)

section
variable (hq : ArmRequest s.dev.variant (s.request m.val))
include hs hq

theorem trvArm_nowStopped (hm : s.arg m.val 1 1 = 0) (ha : armState (s.arg m.val 0 1) 0 s = false)
    (hrun : s.fab.running = false) {u : State} (hu : u = armAll (s.arg m.val 0 1) (nextVector s) false false s) :
    ∃ t, exec (.trvArm m) s = .next t ∧ u.completes m.val stOk 0 (leBytes 1 (armedMask (s.arg m.val 0 1) u)) t := by
  refine trvArm_completes hs (armCmd_now hq hm ha ?_) hrun (hu ▸ armAll_mb _ _ _ _ s)
  rw [evalNow_stopped hrun, armMask_stopped hq.named _ _ _ _ hrun]
  exact hu

theorem trvArm_nowRunning (hm : s.arg m.val 1 1 = 0) (ha : armState (s.arg m.val 0 1) 0 s = false)
    (hrun : s.fab.running = true) : exec (.trvArm m) s =
      .next (orderAt (armSample (s.arg m.val 0 1) (nextVector (evalNow s)) (evalNow s))
        (.arm (s.arg m.val 0 1) (nextVector (evalNow s)) false false (some m.val)) (evalNow s)) :=
  trvArm_waits hs (armCmd_now hq hm ha (armMask_running hq.named _ _ _ _ (by rw [evalNow_running, hrun])).symm) hrun

theorem trvArm_onStartStopped (hm : s.arg m.val 1 1 = 1) (ha : armState (s.arg m.val 0 1) 1 s = false)
    (hrun : s.fab.running = false) {u : State}
    (hu : u = (bitsSet 4 (s.arg m.val 0 1)).foldl (fun v j => pendNow j .onStart v) s) :
    ∃ t, exec (.trvArm m) s = .next t ∧ u.completes m.val stOk 0 (leBytes 1 (armedMask (s.arg m.val 0 1) u)) t := by
  refine trvArm_completes hs (armCmd_onStart hq hm ha ?_) hrun (hu ▸ foldl_mb (fun v j _ => pendNow_mb j _ v) s)
  rw [evalNow_stopped hrun, armOnStart_stopped _ _ (notFrozen_of_armState ha) hrun]
  exact hu

theorem trvArm_onStartRunning (hm : s.arg m.val 1 1 = 1) (ha : armState (s.arg m.val 0 1) 1 s = false)
    (hrun : s.fab.running = true) : exec (.trvArm m) s =
      .next (orderAt (armSample (s.arg m.val 0 1) (nextVector (evalNow s)) (evalNow s))
        (.arm (s.arg m.val 0 1) (nextVector (evalNow s)) false false (some m.val)) (evalNow s)) := by
  have hf : (evalNow s).dev.acq ≠ .frozen := evalNow_dev s ▸ notFrozen_of_armState ha
  have hrun' : (evalNow s).fab.running = true := by rw [evalNow_running, hrun]
  refine trvArm_waits hs (armCmd_onStart hq hm ha ?_) hrun
  rw [armOnStart_running _ _ hf hrun']
  exact (armMask_running hq.named _ _ _ _ hrun').symm

end

section
variable (hq : ChainRequest (s.request m.val) s)
include hs hq

theorem trvArm_chainSent (ht : targetPast (s.request m.val) s = false ∨ s.arg m.val 2 1 = 0) {u : State}
    (hu : u = chainMaster (s.arg m.val 0 1) (targetSec (s.request m.val) s) (s.arg m.val 8 4) (s.arg m.val 2 1)
      (evalNow s)) :
    ∃ t, exec (.trvArm m) s = .next t ∧ u.completes m.val stOk 0 (chainBody (s.arg m.val 0 1)
      (maskOf (groupsOf (s.arg m.val 0 1) (evalNow s))) (targetPast (s.request m.val) s) u) t :=
  ⟨_, rfl, completes_of_hostRung hs (armCmd_chainSent hq ht hu)
    fun h => hu ▸ chainMaster_hostRung m.isLt (evalNow_hostRung m.isLt h) _ _ _ _⟩

theorem trvArm_chainLate (ht : targetPast (s.request m.val) s = true) (hp : s.arg m.val 2 1 = 1) {u : State}
    (hu : u = chainDrop (s.arg m.val 0 1) (evalNow s)) :
    ∃ t, exec (.trvArm m) s = .next t ∧ u.completes m.val stLate 0 (chainBody (s.arg m.val 0 1)
      (maskOf (groupsOf (s.arg m.val 0 1) (evalNow s))) true u) t :=
  ⟨_, rfl, completes_of_hostRung hs (armCmd_chainLate hq ht hp hu)
    fun h => hu ▸ (evalNow_hostRung m.isLt h).of_mb (chainDrop_mb _ _)⟩

end
end

/-- Settles O45, clause by clause. -/
theorem sequencerArming : Obligations.SequencerArming := by
  refine ⟨fun _ _ hs h0 h15 hp hz hr hn hv hm ha hrun => ⟨_, exists_and_left.mpr
      ⟨rfl, trvArm_nowStopped hs ⟨h0, h15, hp, hz, hr, hn, hv⟩ hm ha hrun rfl⟩⟩,
    fun _ _ hs h0 h15 hp hz hr hn hv hm ha hrun =>
      ⟨_, rfl, trvArm_nowRunning hs ⟨h0, h15, hp, hz, hr, hn, hv⟩ hm ha hrun⟩,
    fun _ _ hs h0 h15 hp hz hr hn hv hm ha hrun => ⟨_, exists_and_left.mpr
      ⟨rfl, trvArm_onStartStopped hs ⟨h0, h15, hp, hz, hr, hn, hv⟩ hm ha hrun rfl⟩⟩,
    fun _ _ hs h0 h15 hp hz hr hn hv hm ha hrun =>
      ⟨_, rfl, trvArm_onStartRunning hs ⟨h0, h15, hp, hz, hr, hn, hv⟩ hm ha hrun⟩,
    fun _ _ _ _ _ _ ho hn hs => ⟨_, _, rfl, rfl, takeOrders_completesArm hs ho hn rfl⟩,
    fun _ _ hs h0 h15 hp hz hr hn hv hm ha =>
      ⟨_, rfl, command_quits hs (armCmd_refused ⟨h0, h15, hp, hz, hr, hn, hv⟩ hm ha)⟩,
    fun _ _ hs h0 h15 hp hz hr hn hv hm hc hg ha hd ht => ⟨_, exists_and_left.mpr
      ⟨rfl, trvArm_chainSent hs ⟨⟨h0, h15, hp, hz, hr, hn, hv⟩, hm, hc, hg, ha, hd⟩ ht rfl⟩⟩,
    fun _ _ hs h0 h15 hp hz hr hn hv hm hc hg ha hd ht hl => ⟨_, exists_and_left.mpr
      ⟨rfl, trvArm_chainLate hs ⟨⟨h0, h15, hp, hz, hr, hn, hv⟩, hm, hc, hg, ha, hd⟩ ht hl rfl⟩⟩,
    fun _ j _ => raises_raise 7 (8 * j + 7) _,
    fun s j n b hj hm hl => ?_,
    fun s _ hs h0 h15 hf hz hv hrun => ⟨_, _, rfl, rfl, command_completes hs (disarmCmd_stopped h0 h15 hf hz hv hrun)
      (tunnel_of_mb (foldl_mb (fun v j _ => disarmNow_mb j v) s) _)⟩,
    fun _ _ hs h0 h15 hf hz hv hrun =>
      congrArg Host.Outcome.next (command_waits hs (disarmCmd_running h0 h15 hf hz hv hrun)),
    fun _ _ _ _ _ ho hn hs => ⟨_, _, rfl, rfl, takeOrders_completesDisarm hs ho hn rfl⟩,
    fun _ _ h => takeOrders_early h,
    fun _ j _ hm hl => ⟨_, rfl, disarmNow_armed hm hl ▸ raises_raise 7 (8 * j + 3) _⟩,
    fun _ _ _ _ _ hm hw hv ht hrun hd => ?_,
    fun _ _ _ _ _ hm hw hv ht hrun => ⟨?_, fun _ hk => takeTarget_reached hm hw hv ht hk⟩,
    fun _ _ _ _ _ hm hw ht => trvArmTarget_early hm hw ht,
    fun _ _ _ _ _ hm hw hv ht hrun hd => ?_⟩
  · rw [armNow_idle hm hl, seqOf_raise, seqOf_modSeq_self hj, rawBit_raise]
    refine ⟨rfl, rfl, rfl, rfl, rfl, rfl, fun i hi hij => ?_⟩
    rw [seqOf_raise, seqOf_modSeq _ _ _ hi, if_neg hij.symm]
  · rw [trvArmTarget_reached hm hw hv ht, hrun, hd]
    rfl
  · rw [trvArmTarget_reached hm hw hv ht, hrun]
    rfl
  · rw [trvArmTarget_reached hm hw hv ht, hrun, hd]
    rfl

end Sys2Proof.Machine

/-! # The retention family: the numbers of the frames (O50)

A row is emitted by operations that hand frames over one at a time, each through emitRet, and by others that hand over none.
The latter leave alone all that the numbers depend on; the former keep what the frames handed over so far are numbered by. -/

namespace Sys2Proof.Machine

/-- The frames handed over and not yet accepted, the SEQ of the next one, and the number of the epoch. -/
def State.numbering (s : State) : List Frame × Nat × Nat := (s.cmp.inq, s.ret.seq, s.ret.epoch)

/-! ## What hands over no frame -/

theorem ite_numbering {c : Prop} [Decidable c] {a b s : State} (ha : a.numbering = s.numbering)
    (hb : b.numbering = s.numbering) : (if c then a else b).numbering = s.numbering := by
  split
  · exact ha
  · exact hb

theorem raise_numbering (g b : Nat) (s : State) : (raise g b s).numbering = s.numbering := by
  have h : (raise g b s).hushed.numbering = s.hushed.numbering := by rw [raise_hushed]
  exact h

theorem raiseIf_numbering (c : Prop) [Decidable c] (g b : Nat) (s : State) :
    (if c then raise g b s else s).numbering = s.numbering := ite_numbering (raise_numbering g b s) rfl

/-! ### Record forwarding (R430, R431) -/

theorem sendNext_numbering (p : Nat) (s : State) : (sendNext p s).numbering = s.numbering := by
  unfold sendNext
  refine ite_numbering ?_ rfl
  split
  · rfl
  · rfl

theorem txFrame_numbering (p : Nat) (flooded : Bool) (t : TxFrame) (s : State) :
    (txFrame p flooded t s).numbering = s.numbering :=
  ite_numbering rfl (ite_numbering (sendNext_numbering p _) (ite_numbering rfl rfl))

theorem pumpRecord_numbering : ∀ (n p : Nat) (s : State), (pumpRecord n p s).numbering = s.numbering
  | 0, _, _ => rfl
  | n + 1, p, s => by
    unfold pumpRecord
    dsimp only
    split
    · rfl
    · exact ite_numbering ((pumpRecord_numbering n p _).trans (txFrame_numbering p false _ _)) rfl

theorem forwardOn_numbering (p : Nat) (f : Frame) (s : State) : (forwardOn p f s).numbering = s.numbering := by
  unfold forwardOn
  refine ite_numbering rfl ?_
  split
  · rfl
  · exact ite_numbering (pumpRecord_numbering _ p (queueRecord p f.bytes s)) (raise_numbering 12 15 _)

theorem forwardRecord_numbering (f : Frame) (s : State) : (forwardRecord f s).numbering = s.numbering :=
  foldl_unchanged State.numbering (fun x p _ => forwardOn_numbering p f x) s

/-! ### Lost rows, fires, and the pointers of the ring (R155, R239, R253, R29) -/

theorem endEpisode_numbering (e : Option Episode) (s : State) : (endEpisode e s).numbering = s.numbering := by
  unfold endEpisode
  split
  · rfl
  · exact ite_numbering rfl rfl

theorem setEpisode_numbering (cause : Nat) (e : Option Episode) (s : State) :
    (setEpisode cause e s).numbering = s.numbering := ite_numbering rfl rfl

theorem endBefore_numbering (cause r : Nat) (s : State) : (endBefore cause r s).numbering = s.numbering := by
  unfold endBefore
  split
  · exact ite_numbering ((setEpisode_numbering cause none _).trans (endEpisode_numbering _ s)) rfl
  · rfl

theorem closeRun_numbering (s : State) : (closeRun s).numbering = s.numbering := by
  unfold closeRun
  split
  · rfl
  · rfl

theorem judgeLost_numbering (r : Nat) (s : State) : (judgeLost r s).numbering = s.numbering := by
  unfold judgeLost
  dsimp only
  split
  · exact closeRun_numbering s
  · refine ite_numbering (closeRun_numbering _) ?_
    split
    · exact ite_numbering rfl (closeRun_numbering _)
    · rfl

theorem countGap_numbering (g : Gap) (s : State) : (countGap g s).numbering = s.numbering := raise_numbering 8 19 _

theorem evalMarks_numbering (s : State) : (evalMarks s).numbering = s.numbering :=
  (raiseIf_numbering _ 8 1 _).trans (raiseIf_numbering _ 8 0 _)

theorem passX_numbering (s : State) : (passX s).numbering = s.numbering := evalMarks_numbering _

/-! ## What hands over frames -/

/-- The frames handed over carry the epoch's number `e` and SEQ from `q` on without a hole, and the next SEQ follows the
last (R248). -/
structure Numbered (q e : Nat) (t : State) : Prop where
  seq    : t.ret.seq = (q + t.cmp.inq.length) % 2 ^ 64
  epoch  : t.ret.epoch = e
  frames : ∀ i f, t.cmp.inq[i]? = some f → f.seq = (q + i) % 2 ^ 64 ∧ f.epoch = e

theorem numbered_of_empty {s : State} (hi : s.cmp.inq = []) (hs : s.ret.seq < 2 ^ 64) :
    Numbered s.ret.seq s.ret.epoch s :=
  ⟨by rw [hi]; exact (Nat.mod_eq_of_lt hs).symm, rfl, by simp [hi]⟩

namespace Numbered
variable {q e : Nat}

/-- An operation that hands over no frame. -/
theorem lit {s t : State} (h : Numbered q e s) (hn : t.numbering = s.numbering) : Numbered q e t := by
  obtain ⟨hq, hn⟩ := Prod.mk.inj hn
  obtain ⟨hs, he⟩ := Prod.mk.inj hn
  exact ⟨by rw [hs, hq, h.seq], he.trans h.epoch, hq ▸ h.frames⟩

/-- A frame that takes the next SEQ and the epoch's number, and moves SEQ on by 1 (R248). -/
theorem hand {s t : State} {f : Frame} (h : Numbered q e s) (hi : t.cmp.inq = s.cmp.inq ++ [f])
    (hs : t.ret.seq = (s.ret.seq + 1) % 2 ^ 64) (ht : t.ret.epoch = s.ret.epoch) (hf : f.seq = s.ret.seq)
    (he : f.epoch = s.ret.epoch) : Numbered q e t := by
  refine ⟨?_, ht.trans h.epoch, fun i g hg => ?_⟩
  · rw [hs, h.seq, hi, List.length_append, List.length_singleton, Nat.mod_add_mod, Nat.add_assoc]
  · rw [hi] at hg
    rcases Nat.lt_trichotomy i s.cmp.inq.length with hl | rfl | hl
    · exact h.frames i g (List.getElem?_append_left hl ▸ hg)
    · rw [List.getElem?_concat_length] at hg
      cases hg
      exact ⟨hf.trans h.seq, he.trans h.epoch⟩
    · rw [List.getElem?_eq_none (by simpa using hl)] at hg
      cases hg

theorem ite {a b : State} {c : Prop} [Decidable c] (ha : Numbered q e a) (hb : Numbered q e b) :
    Numbered q e (if c then a else b) := by
  split
  · exact ha
  · exact hb

theorem foldl {α : Type} {f : State → α → State} (hf : ∀ x a, Numbered q e x → Numbered q e (f x a)) (l : List α)
    {s : State} (h : Numbered q e s) : Numbered q e (l.foldl f s) :=
  List.foldlRecOn l f h fun x hx a _ => hf x a hx

end Numbered

section
variable {q e : Nat} {s : State} (h : Numbered q e s)
include h

/-- The one operation that takes a SEQ. -/
theorem emitFrame_numbered (type unit pod flags : Nat) (t0 : Nat × Nat) (row : Option Nat) (pods : Nat)
    (body : List Byte) : Numbered q e (emitFrame type unit pod flags t0 row pods body s) :=
  h.hand rfl rfl rfl rfl rfl

theorem emitRet_numbered (type unit pod flags : Nat) (t0 : Nat × Nat) (row : Option Nat) (pods : Nat)
    (body : List Byte) : Numbered q e (emitRet type unit pod flags t0 row pods body s) := by
  have hf := emitFrame_numbered h type unit pod flags t0 row pods body
  unfold emitRet
  dsimp only
  split
  · exact hf.lit (forwardRecord_numbering _ _)
  · exact hf

/-! ### GAP, CAIRN and LOG frames (R257, R258, R251) -/

theorem emitGap_numbered (g : Gap) : Numbered q e (emitGap s g) :=
  (emitRet_numbered h _ _ _ _ _ _ _ _).lit (countGap_numbering g (modCur _ _))

theorem gapsOut_numbered (pick last : Gap → Bool) : Numbered q e (gapsOut pick last s) :=
  Numbered.foldl (fun _ g hx => emitGap_numbered hx g) _ (h.lit rfl)

theorem emitCairn_numbered (late prior : Bool) (c : Cairn) : Numbered q e (emitCairn late prior c s) :=
  .ite ((emitRet_numbered h _ _ _ _ _ _ _ _).lit (raise_numbering 8 21 _))
    ((emitRet_numbered h _ _ _ _ _ _ _ _).lit rfl)

theorem cairnsOut_numbered (r : Nat) : Numbered q e (cairnsOut r s) :=
  Numbered.foldl (fun _ c hx => emitCairn_numbered hx _ _ c) _ (h.lit rfl)

theorem windowStep_numbered (r : Nat) : Numbered q e (windowStep r s) := by
  unfold windowStep
  split
  · exact h
  · exact .ite ((emitCairn_numbered h _ _ _).lit rfl) h

theorem emitLog_numbered : Numbered q e (emitLog s) := (emitRet_numbered h _ _ _ _ _ _ _ _).lit rfl

theorem logFrames_numbered (all : Bool) (n : Nat) : Numbered q e (logFrames all n s) := by
  induction n generalizing s with
  | zero => exact h
  | succ n ih => exact .ite (ih (emitLog_numbered h)) h

/-! ### Block and SUMMARY frames (R249, R255) -/

theorem emitBlock_numbered (cls : Nat → Nat) (d : RowDesc) (bytes : List Byte) (b : BlockDesc) :
    Numbered q e (emitBlock cls d bytes s b) := (emitRet_numbered h _ _ _ _ _ _ _ _).lit rfl

/-- STREAM hands over the blocks as they were first read, the summary-only policy none; the second read is WINDOW's (R235,
R238). -/
theorem emitBlocks_numbered {policy : Nat} (hp : policy ≠ 1) (r : Nat) : Numbered q e (emitBlocks policy r s) := by
  unfold emitBlocks
  split
  · split
    · exact Numbered.foldl (fun _ b hx => emitBlock_numbered hx _ _ _ b) _ h
    · exact h
  · exact absurd rfl hp
  · exact h

theorem emitSummary_numbered (stop : Nat) (short : Bool) : Numbered q e (emitSummary stop short s) := by
  unfold emitSummary
  split
  · exact h
  · exact (emitRet_numbered h _ _ _ _ _ _ _ _).lit rfl

theorem summaryRow_numbered (r : Nat) : Numbered q e (summaryRow r s) := by
  have hc : Numbered q e (countFires r s) := h.lit rfl
  unfold summaryRow
  dsimp only
  split
  · exact hc
  · refine .ite hc (.ite (emitSummary_numbered ?_ _ _) ?_)
    · exact hc.lit rfl
    · exact hc.lit rfl

/-! ### The row (R243) -/

theorem emitRow_numbered {policy : Nat} (hp : policy ≠ 1) (r : Nat) : Numbered q e (emitRow r policy s) := by
  have hb := (h.lit (endBefore_numbering 2 r s)).lit (endBefore_numbering 3 r _)
  have hl := hb.lit (judgeLost_numbering r _)
  unfold emitRow
  extract_lets _ _ _ _ w f t
  have hw : Numbered q e w := windowStep_numbered (gapsOut_numbered hl _ _) r
  have hf : Numbered q e f := .ite hw (emitBlocks_numbered hw hp r)
  have ht : Numbered q e t := summaryRow_numbered (logFrames_numbered (cairnsOut_numbered hf r) false 9) r
  exact (ht.lit rfl).lit (passX_numbering _)

end

/-- Settles O50: the operations of a row keep the numbering, and an empty queue meets it. -/
theorem frameSequence : Obligations.FrameSequence := fun _ r _ hp hi hs =>
  have ht := emitRow_numbered (numbered_of_empty hi hs) hp r
  ⟨_, rfl, ht.seq, ht.frames⟩

end Sys2Proof.Machine

/-! # The record pipeline family: the queue to the host and its commands

## With eight flush reads outstanding no chunk closes (O54) -/

namespace Sys2Proof.Machine

/-- The Flush commands of the drives leave the queue alone (R319, R328). -/
theorem issueFlushes_eq (s : State) : (issueFlushes s).eq = s.eq :=
  foldl_unchanged State.eq (fun x _ _ => by rw [apply_ite State.eq]; exact ite_self x.eq) s

/-- While 8 flush reads are outstanding EXPORT_CHUNK_CLOSE pops nothing (R288, R475). -/
theorem exportChunkClose_readsOut {s : State} (h : 8 ≤ s.pcie.tags.length) :
    exec .exportChunkClose s = .next (issueFlushes s) := by
  change execExportChunkClose s = _
  rw [execExportChunkClose, if_neg fun ⟨_, _, _, _, ht⟩ => absurd ht (Nat.not_lt.mpr h)]

/-- Extent 3, open, in store window 0. -/
def windowExtent : Extent :=
  { seq := 3, fmt := 1, size := 2, place := { target := 0, pos := 0, addr := 0x100000 }, prev := [], bytes := [],
    closing := false, closed := false, restart := false, short := false, fault := false, reset := false, lastSeq := 0,
    lastEpoch := 0, releasedBytes := 0, relLen := 0, relSeq := 0, relEpoch := 0, durable := false, chain := [],
    tries := 0, sealFrames := [] }

/-- Its first packet. -/
def windowPacket : Packet :=
  { words := 2, bytes := zeros 80, ext := 3, off := 0, lastSeq := 7, seqLo := 7, seqHi := 7, rows := none, pods := 0,
    lastEpoch := 1, epochClose := false, seals := [] }

/-- A device whose packet is to be sent again: a PAUSE, since ended, has cancelled its chunks, whose 8 flush reads are still
outstanding (R290, R291, R475). -/
def eightReadsOut : State :=
  { State.reset with
    tal := { State.reset.tal with opened := some windowExtent, nextExt := 4 }
    eq := { State.reset.eq with banks := tabMod State.reset.eq.banks State.reset.eq.drain fun _ => [windowPacket] }
    pcie := { State.reset.pcie with
      bme := true, tags := (List.range 8).map fun t => (t, 0x10004C, 10000000), nextTag := 8 } }

/-- Refutes O54: a chunk for a store window needs one of the 8 flush reads (R475) besides one of the 8 chunks. With no
chunk outstanding but 8 cancelled ones whose reads have not completed, EXPORT_CHUNK_CLOSE pops nothing. -/
theorem not_exportQueue : ¬ Obligations.ExportQueue := by
  rintro ⟨-, -, -, -, -, -, -, -, h, -⟩
  obtain ⟨t, ht, -, hlen, -⟩ := h eightReadsOut windowPacket windowPacket windowExtent [] (by decide +kernel)
    (by decide +kernel) (by decide +kernel) (by decide +kernel) (by decide +kernel) (by decide +kernel)
    (by decide +kernel) rfl
  have hr := exportChunkClose_readsOut (s := eightReadsOut) (by decide +kernel)
  rw [← Host.Outcome.next.inj (hr.symm.trans ht), issueFlushes_eq] at hlen
  exact absurd hlen (Nat.succ_ne_self _).symm

end Sys2Proof.Machine

/-! ## EXP_CFG, the pull window, its release, and the durability acknowledgements (O55) -/

namespace Sys2Proof.Machine

/-! ### EXP_CFG (R291, R297) -/

/-- The settings but PAUSE that an EXP_CFG request's OPS bits name, taken (R297). -/
def takeSettings (q : List Byte) (s : State) : State :=
  { s with
    eq := { s.eq with
      pull := if (fieldAt q 1 1).testBit 1 then fieldAt q 3 1 == 1 else s.eq.pull
      chunkKib := if (fieldAt q 1 1).testBit 4 then fieldAt q 8 2 else s.eq.chunkKib }
    cmp := { s.cmp with
      blockKib := if (fieldAt q 1 1).testBit 2 then fieldAt q 4 1 else s.cmp.blockKib
      flushUs := if (fieldAt q 1 1).testBit 3 then fieldAt q 6 2 else s.cmp.flushUs
      compress := if (fieldAt q 1 1).testBit 5 then fieldAt q 5 1 == 1 else s.cmp.compress } }

/-- May MODE take the value of a request that names it: it is the one in force, or the device is IDLE and the queue empty
(R297)? -/
def ModeFree (q : List Byte) (s : State) : Prop :=
  (fieldAt q 1 1).testBit 1 = true → (fieldAt q 3 1 == 1) = s.eq.pull ∨ (s.dev.acq = .idle ∧ occupied s.eq = 0)

section
variable {q : List Byte} {s : State}

theorem expCfgCmd_outOfRange (hb : expBad q = true) : expCfgCmd q s = quit stBadArg s := by
  simp [expCfgCmd, hb]

theorem expCfgCmd_read (hb : expBad q = false) (ho : fieldAt q 0 1 = 1) :
    expCfgCmd q s = (s, some (okWith (expReply 1 s))) := by
  simp [expCfgCmd, hb, ho]

theorem expCfgCmd_modeHeld (hb : expBad q = false) (ho : fieldAt q 0 1 = 0) (hm : (fieldAt q 1 1).testBit 1 = true)
    (hne : (fieldAt q 3 1 == 1) ≠ s.eq.pull) (hh : s.dev.acq ≠ .idle ∨ occupied s.eq ≠ 0) :
    expCfgCmd q s = quit stState s := by
  unfold expCfgCmd
  dsimp only
  rw [if_neg (by simp [hb]), if_neg (by simp [ho]), if_pos ⟨hm, hne, hh⟩]

/-- A WRITE that no check refuses takes its settings, PAUSE last, and answers those in force. -/
theorem expCfgCmd_write (hb : expBad q = false) (ho : fieldAt q 0 1 = 0) (hm : ModeFree q s) {u : State}
    (hu : u = if (fieldAt q 1 1).testBit 0 then setPause (fieldAt q 2 1 == 1) (takeSettings q s) else takeSettings q s) :
    expCfgCmd q s = (u, some (okWith (expReply 0 u))) := by
  have hf : ¬((fieldAt q 1 1).testBit 1 = true ∧ (fieldAt q 3 1 == 1) ≠ s.eq.pull ∧
      (s.dev.acq ≠ .idle ∨ occupied s.eq ≠ 0)) := fun ⟨h1, hne, hh⟩ =>
    (hm h1).elim hne fun ⟨hi, ho⟩ => hh.elim (· hi) (· ho)
  subst hu
  unfold expCfgCmd
  dsimp only
  rw [if_neg (by simp [hb]), if_neg (by simp [ho]), if_neg hf]
  rfl

/-- A request that names PAUSE alone takes no other setting. -/
theorem takeSettings_pauseOnly (h : fieldAt q 1 1 = 1) (s : State) : takeSettings q s = s := by
  simp [takeSettings, h, Nat.testBit_one_eq_true_iff_self_eq_zero]

theorem modeFree_pauseOnly (h : fieldAt q 1 1 = 1) : ModeFree q s := by
  simp [ModeFree, h, Nat.testBit_one_eq_true_iff_self_eq_zero]

/-- A WRITE of PAUSE alone. -/
theorem expCfgCmd_pause (hb : expBad q = false) (ho : fieldAt q 0 1 = 0) (h1 : fieldAt q 1 1 = 1) {u : State}
    (hu : u = setPause (fieldAt q 2 1 == 1) s) : expCfgCmd q s = (u, some (okWith (expReply 0 u))) :=
  expCfgCmd_write hb ho (modeFree_pauseOnly h1) (by simp [takeSettings_pauseOnly h1, h1, hu])

/-- PAUSE in push mode rewinds (R291). -/
theorem setPause_push (h : s.eq.pull = false) :
    setPause true s = raise 9 7 (rewind { s with eq := { s.eq with paused := true } }) := by
  simp [setPause, h]

end

theorem rewindUnit_mb (s : State) : (rewindUnit s).mb = s.mb := by
  unfold rewindUnit
  split <;> rfl

theorem rewind_mb (s : State) : (rewind s).mb = s.mb := by
  unfold rewind
  split
  · rfl
  · exact (raise_mb 9 2 _).trans (rewindUnit_mb _)

/-! ### The pull window (R295) -/

theorem bankBytes_length (ps : List Packet) : (bankBytes ps).length = 64 * packetWords ps := by
  induction ps with
  | nil => rfl
  | cons p ps ih => simpa [bankBytes, packetWords, Nat.mul_add] using ih

/-- A span of a list, byte by byte. -/
theorem byteAt_span {b : List Byte} {o n i : Nat} (hi : i < n) : byteAt ((b.drop o).take n) i = byteAt b (o + i) := by
  simp [byteAt, List.getD_eq_getElem?_getD, hi]

/-- The bytes that a read within the content of the draining bank answers. -/
def pullSpan (a n : Nat) (s : State) : List Byte :=
  ((bankBytes (bankPackets s.eq s.eq.drain)).drop (a - 0x200000 * s.eq.drain)).take n

theorem pullSpan_length {a n : Nat} {s : State} (h : pullServed a n s = true) : (pullSpan a n s).length = n := by
  simp only [pullServed, Bool.and_eq_true, decide_eq_true_eq] at h
  obtain ⟨-, hlo, hhi⟩ := h
  have hl : (bankBytes (bankPackets s.eq s.eq.drain)).length = 64 * drainWords s.eq := bankBytes_length _
  simp only [pullSpan, List.length_take, List.length_drop, hl]
  omega

section
variable {s : State} (hr : s.reached = true)
include hr

theorem pullWindowRead_served {a n : Nat} (h : pullServed a n s = true) : exec (.pullWindowRead a n) s =
    .next (emitOut (.readData 4 (0x3000000 + a) (pullSpan a n s) false) s) :=
  congrArg Host.Outcome.next ((barRead_reached hr).trans (if_pos h))

theorem pullWindowRead_refused {a n : Nat} (h : pullServed a n s = false) : exec (.pullWindowRead a n) s =
    .next (emitOut (.readData 4 (0x3000000 + a) (zeros n) false) (pullBad s)) :=
  congrArg Host.Outcome.next ((barRead_reached hr).trans (if_neg (by simp [h])))

theorem pullWindowWrite_refused (a : Nat) (d : List Byte) : exec (.pullWindowWrite a d) s = .next (pullBad s) :=
  congrArg Host.Outcome.next (memWriteTlp_reached hr)

end

/-- What the device issues and the events it raises do not touch each other. -/
theorem raises_emitOut {es : List (Nat × Nat)} {s t : State} (o : Output) (h : s.raises es t) :
    (emitOut o s).raises es (emitOut o t) :=
  .update (F := emitOut o) (fun _ => rfl) (fun _ => rfl) (fun _ => rfl) h

/-! ### What follows from release (R289, R319) -/

/-- The queue, the events and the compressor: what the durability of extents does not touch. -/
def State.besideExtents (s : State) : Eq × Events × Cmp := (s.eq, s.evt, s.cmp)

theorem modExtent_besideExtents (n : Nat) (f : Extent → Extent) (s : State) :
    (modExtent n f s).besideExtents = s.besideExtents := rfl

theorem makeDurable_besideExtents (x : Extent) (s : State) : (makeDurable x s).besideExtents = s.besideExtents := rfl

theorem afterRelease_besideExtents (s : State) : (afterRelease s).besideExtents = s.besideExtents := by
  refine foldl_unchanged State.besideExtents (fun y x _ => ?_)
    { s with sealer := { s.sealer with due := s.sealer.due.map (dueNow s) } }
  split
  · dsimp only
    split <;> split <;> rfl
  · rfl

/-- A release moves the release position, RD no further back than it, and the extents; nothing else (R285, R289). -/
theorem releaseTo_besideExtents (n : Nat) (s : State) : (releaseTo n s).besideExtents =
    ({ s.eq with
        released := max s.eq.released n, relpos := s.eq.relpos + (n - s.eq.released), rd := max s.eq.rd n }, s.evt, s.cmp) :=
  foldl_unchanged State.besideExtents (fun x (p : Packet) _ => modExtent_besideExtents p.ext (notePacket p) x) _

/-- The end of EPOCH_HOLD opens the filling bank and changes nothing else (R292). -/
theorem clearHold_frame (s : State) : ∃ hold closed, clearHold s = { s with
    eq := { s.eq with epochHold := hold, fillClosed := closed } } := by
  unfold clearHold
  split
  · exact ⟨false, false, rfl⟩
  · exact ⟨s.eq.epochHold, s.eq.fillClosed, rfl⟩

/-- What a release by `k` words leaves of the queue. -/
theorem release_frame (k : Nat) (s : State) {t : State} (h : t = clearHold (afterRelease (releaseTo (s.eq.released + k) s))) :
    t.eq.released = s.eq.released + k ∧ t.eq.relpos = s.eq.relpos + k ∧ t.eq.banks = s.eq.banks ∧ t.evt = s.evt ∧
      t.cmp = s.cmp := by
  obtain ⟨hold, closed, hc⟩ := clearHold_frame (afterRelease (releaseTo (s.eq.released + k) s))
  have hb := (afterRelease_besideExtents _).trans (releaseTo_besideExtents (s.eq.released + k) s)
  simp only [State.besideExtents, Prod.mk.injEq] at hb
  obtain ⟨hq, he, hp⟩ := hb
  subst h
  rw [hc]
  exact ⟨by simp [hq], by simp [hq], by simp [hq], he, hp⟩

/-! ### EXP_PULL_RELEASE (R296) -/

section
variable {s : State} (hr : s.reached = true) {v : Word}
include hr

theorem expPullRelease_reached (be : BitVec 4) : exec (.expPullRelease v be) s = .next (writePullRelease v be s.spent) :=
  congrArg Host.Outcome.next (barWrite_reached hr)

theorem expPullRelease_releases (hp : s.eq.pull = true) (hw : s.eq.released + v.toNat % 65536 ≤ drainWords s.eq)
    (he : packetEnd (s.eq.released + v.toNat % 65536) 0 (bankPackets s.eq s.eq.drain) = s.eq.released + v.toNat % 65536) :
    exec (.expPullRelease v 0xF#4) s =
      .next (clearHold (afterRelease (releaseTo (s.eq.released + v.toNat % 65536) s.spent))) :=
  (expPullRelease_reached hr _).trans (congrArg Host.Outcome.next (if_pos ⟨hp, hw, he⟩))

theorem expPullRelease_refused (h : s.eq.pull = false ∨ drainWords s.eq < s.eq.released + v.toNat % 65536 ∨
      packetEnd (s.eq.released + v.toNat % 65536) 0 (bankPackets s.eq s.eq.drain) ≠ s.eq.released + v.toNat % 65536) :
    exec (.expPullRelease v 0xF#4) s = .next (raise 9 6 s.spent) := by
  refine (expPullRelease_reached hr _).trans (congrArg Host.Outcome.next (if_neg fun ⟨hp, hw, he⟩ => ?_))
  obtain h | h | h := h
  · exact absurd hp (by simp [State.spent, h])
  · exact absurd hw (Nat.not_le.mpr h)
  · exact h he

theorem expPullRelease_narrow {be : BitVec 4} (h : be ≠ 0xF#4) :
    exec (.expPullRelease v be) s = .next (refuseWidth 0x7064 v be s.spent) :=
  (expPullRelease_reached hr _).trans (congrArg Host.Outcome.next (special_narrow h))

end

/-! ### Acknowledged extents (R319, R320) -/

/-- Does an acknowledgement of SEQ `n` make an extent durable? -/
def ackTakes (n : Nat) (x : Extent) : Bool := decide (x.seq ≤ n) && wholeReleased x && !x.durable && !onDrive x.place

/-- The acknowledgement's turn at one extent. -/
def ackExtent (n : Nat) (s : State) (x : Extent) : State := if ackTakes n x then makeDurable x s else s

/-- An extent after the turns of those in `l`. -/
def acked (n : Nat) (l : List Extent) (y : Extent) : Extent :=
  { y with durable := y.durable || l.any fun x => ackTakes n x && x.seq == y.seq }

theorem foldl_ackExtent_besideExtents (n : Nat) (l : List Extent) (s : State) :
    (l.foldl (ackExtent n) s).besideExtents = s.besideExtents :=
  foldl_unchanged State.besideExtents (fun y x _ => by
    unfold ackExtent
    split
    · exact makeDurable_besideExtents x y
    · rfl) s

theorem ackExtent_pending (n : Nat) (x : Extent) (s : State) :
    (ackExtent n s x).tal.pending = s.tal.pending.map (acked n [x]) := by
  unfold ackExtent
  split
  case isTrue h =>
    refine List.map_congr_left fun y _ => ?_
    by_cases hy : y.seq = x.seq
    · simp [acked, h, hy]
    · simp [acked, hy, beq_false_of_ne (Ne.symm hy)]
  case isFalse h =>
    have : acked n [x] = id := funext fun y => by simp [acked, h]
    rw [this, List.map_id]

theorem foldl_ackExtent_pending (n : Nat) (l : List Extent) (s : State) :
    (l.foldl (ackExtent n) s).tal.pending = s.tal.pending.map (acked n l) := by
  induction l generalizing s with
  | nil =>
    have : acked n [] = id := funext fun y => by simp [acked]
    rw [this, List.map_id]
    rfl
  | cons x l ih =>
    rw [List.foldl_cons, ih, ackExtent_pending, List.map_map]
    exact List.map_congr_left fun y _ => by simp [acked, Bool.or_assoc]

theorem acked_of_taken {n : Nat} {l : List Extent} {x : Extent} (hx : x ∈ l) (hn : x.seq ≤ n)
    (hw : wholeReleased x = true) (hd : onDrive x.place = false) : acked n l x = { x with durable := true } := by
  have h : x.durable || l.any (fun y => ackTakes n y && y.seq == x.seq) := by
    cases hx' : x.durable with
    | true => rfl
    | false => exact List.any_eq_true.mpr ⟨x, hx, by simp [ackTakes, hn, hw, hx', hd]⟩
  simp [acked, h]

/-- An extent that is not durable after the acknowledgement is as it was. -/
theorem eq_of_acked_notDurable {n : Nat} {l : List Extent} {x : Extent} (h : (acked n l x).durable = false) :
    acked n l x = x := by
  have hx : x.durable = false := (Bool.or_eq_false_iff.mp h).1
  change { x with durable := (acked n l x).durable } = x
  rw [h, ← hx]

/-! ### EXP_DURABLE_ACK (R320) -/

theorem durableAck_takes {v : Word64} {s : State} (hd : s.tal.durable = none)
    (ha : ackNames (v.toNat % 0x1000000000000) s = false) (hn : v.toNat % 0x1000000000000 < s.tal.nextExt)
    (hr : s.tal.ackRelease = false) (hm : directMode s = false) :
    durableAck v s = s.tal.pending.foldl (ackExtent (v.toNat % 0x1000000000000)) s := by
  unfold durableAck
  dsimp only
  rw [hd, if_neg (by simp), if_neg (by simp [ha, hn, hr, hm])]
  exact congrArg (List.foldl · s s.tal.pending) (funext₂ fun y x => by simp [ackExtent, ackTakes, and_assoc])

/-- What an acknowledgement of SEQ `n` does to the extents, and what it leaves. -/
theorem foldl_ackExtent_frame (n : Nat) (s : State) {t : State} (ht : t = s.tal.pending.foldl (ackExtent n) s) :
    t.tal.pending.length = s.tal.pending.length ∧
      (∀ x ∈ s.tal.pending, x.seq ≤ n → wholeReleased x = true → onDrive x.place = false →
        { x with durable := true } ∈ t.tal.pending) ∧
      (∀ x ∈ t.tal.pending, x.durable = false → x ∈ s.tal.pending) ∧ t.evt = s.evt ∧ t.eq = s.eq ∧ t.cmp = s.cmp := by
  have hp : t.tal.pending = s.tal.pending.map (acked n s.tal.pending) := ht ▸ foldl_ackExtent_pending n _ s
  have hb : t.besideExtents = s.besideExtents := ht ▸ foldl_ackExtent_besideExtents n _ s
  simp only [State.besideExtents, Prod.mk.injEq] at hb
  obtain ⟨hq, he, hc⟩ := hb
  rw [hp]
  refine ⟨List.length_map _, fun x hx hn hw hd => ?_, fun x hx hd => ?_, he, hq, hc⟩
  · exact acked_of_taken hx hn hw hd ▸ List.mem_map_of_mem hx
  · obtain ⟨y, hy, rfl⟩ := List.mem_map.mp hx
    exact (eq_of_acked_notDurable hd).symm ▸ hy

theorem durableAck_refused {v : Word64} {s : State} (hd : s.tal.durable = none)
    (h : ackNames (v.toNat % 0x1000000000000) s = true ∨ s.tal.nextExt ≤ v.toNat % 0x1000000000000 ∨
      s.tal.ackRelease = true ∨ directMode s = true) : durableAck v s = raise 10 4 s := by
  unfold durableAck
  rw [hd]
  exact if_pos h

theorem expDurableAck_full {s : State} (hr : s.reached = true) (v : Word64) : exec (.expDurableAck v 0xFF#8) s =
    .next (setHeldLow 0x7070 (v.truncate 32) (durableAck v s.spent)) :=
  congrArg Host.Outcome.next ((barWrite_reached hr).trans (write64_full 0x7070 true 0 v durableAck s.spent))

theorem raise_marks_ack (s : State) : (raise 10 4 s).rawBit 10 4 = true :=
  (raises_raise 10 4 s).marked (10, 4) (by simp) (by cases s.dev.variant <;> decide)

/-- Settles O55, clause by clause. -/
theorem exportCommands : Obligations.ExportCommands := by
  refine ⟨fun _ _ hs hb ho hp hm => ⟨_, _, rfl, rfl,
      command_completes hs (expCfgCmd_write hb ho hm (if_neg (ne_true_of_eq_false hp)).symm) rfl⟩,
    fun s m hs hb ho h1 h2 hp => ⟨_, _, rfl, rfl, command_completes hs
      (expCfgCmd_pause hb ho h1 (by rw [show fieldAt (s.request m.val) 2 1 = 1 from h2]; exact (setPause_push hp).symm))
      (tunnel_of_mb ((raise_mb 9 7 _).trans (rewind_mb _)) _)⟩,
    fun s m hs hb ho h1 h2 => ⟨_, _, rfl, rfl, command_completes hs
      (expCfgCmd_pause hb ho h1 (by rw [show fieldAt (s.request m.val) 2 1 = 0 from h2]; rfl)) rfl⟩,
    fun _ _ hs hb ho => ⟨_, rfl, command_completes hs (expCfgCmd_read hb ho) rfl⟩,
    fun _ _ hs hb => ⟨_, rfl, command_quits hs (expCfgCmd_outOfRange hb)⟩,
    fun _ _ hs hb ho hm hne hh => ⟨_, rfl, command_quits hs (expCfgCmd_modeHeld hb ho hm hne hh)⟩,
    fun s a n hr h => ⟨_, pullWindowRead_served hr h, pullSpan_length h, fun _ hi => byteAt_span hi⟩,
    fun s a n hr h => ⟨_, pullWindowRead_refused hr h, ?_⟩,
    fun s a d hr => ⟨_, pullWindowWrite_refused hr a d, raises_raise 9 6 _⟩,
    fun s v hr hp hw he => ⟨_, expPullRelease_releases hr hp hw he, rfl, release_frame _ s.spent rfl⟩,
    fun _ _ hr h => ⟨_, expPullRelease_refused hr h, raises_raise 9 6 _⟩,
    fun _ v be hr h => ⟨_, expPullRelease_narrow hr h, raises_refuseWidth 0x7064 v be _⟩,
    fun s v hr hd ha hn hk hm => ⟨_, expDurableAck_full hr v, ?_⟩,
    fun s v hr hd h => ⟨_, expDurableAck_full hr v, ?_⟩⟩
  · have h := raises_emitOut (.readData 4 (0x3000000 + a) (zeros n) false)
      (raises_raise 9 6 { s with eq := { s.eq with pullBad := s.eq.pullBad + 1 } })
    rwa [emitOut_link rfl] at h
  · rw [durableAck_takes (s := s.spent) hd ha hn hk hm]
    have h := foldl_ackExtent_frame (v.toNat % 0x1000000000000) s.spent rfl
    exact h
  · rw [durableAck_refused (s := s.spent) hd h]
    exact ⟨raise_marks_ack _, raise_tal 10 4 _, raise_eq 10 4 _, raise_cmp 10 4 _⟩

end Sys2Proof.Machine

/-! # The store family: what outlives every step, the extents of the store, and its drives

## What no command but its own may change (O5)

The map slots and the seal index of the die, TALUS_MAP_WRITES and the rollback floor as one value, State.lasting: each
operation leaves it as it is, so `simp` carries it through a chain of them. -/

namespace Sys2Proof.Machine

/-- The bytes of the die below the format record, which are the map slots and the seal index (R305). -/
def slotBytes (die : List Host.Cell) (a : Nat) : Byte := if a < formatBase then memByte die a else 0

/-- What outlives a step: the slots and the index of the die, TALUS_MAP_WRITES, and the rollback floor. -/
def State.lasting (s : State) : (Nat → Byte) × Nat × Nat := (slotBytes s.tal.die, s.tal.mapWrites, s.summit.floor)

theorem memByte_of_lasting {s t : State} (h : t.lasting = s.lasting) {a : Nat} (ha : a < formatBase) :
    memByte t.tal.die a = memByte s.tal.die a := by
  have hb := congrFun (congrArg (·.1) h) a
  simpa [State.lasting, slotBytes, ha] using hb

theorem mapWrites_of_lasting {s t : State} (h : t.lasting = s.lasting) : t.tal.mapWrites = s.tal.mapWrites :=
  congrArg (·.2.1) h

theorem floor_of_lasting {s t : State} (h : t.lasting = s.lasting) : t.summit.floor = s.summit.floor :=
  congrArg (·.2.2) h

/-- The outcome, where it is a next state, keeps what outlives a step. -/
def Lasts (s : State) (o : Result) : Prop := ∀ t, o = .next t → t.lasting = s.lasting

/-! ### How it goes through an update, a branch and a loop

The proofs by `(rfl)` are rewrites, not definitional equalities, to `simp`: it uses them to prove the step of a loop. -/

@[simp] theorem lasting_mk (dev : Dev) (cfg : Cfg) (inputs : Tab 272 Input) (grpMask : Tab 72 Word) (bcastAgree : Word)
    (pods : Tab 16 Pod) (podc : Podc) (fab : Fab) (seqs : Tab 4 Seq) (trigout : Tab 4 Trigout) (ring : Ring) (ret : Ret)
    (cmp : Cmp) (eq : Eq) (tal : Talus) (sealer : Sealer) (tm : Tm) (sch : Sch) (rl : Rl) (pll : Pll) (pcie : Pcie)
    (mb : Tab 8 Mailbox) (cw : Tab 8 Window) (summit : Summit) (evt : Events) (flt : Flt) (mem : MemInt) (snap : Snap)
    (freeCtr : Nat) (out : List Output) (pending : List Instr) :
    State.lasting ⟨dev, cfg, inputs, grpMask, bcastAgree, pods, podc, fab, seqs, trigout, ring, ret, cmp, eq, tal,
      sealer, tm, sch, rl, pll, pcie, mb, cw, summit, evt, flt, mem, snap, freeCtr, out, pending⟩ =
      (slotBytes tal.die, tal.mapWrites, summit.floor) := (rfl)

@[simp] theorem lasting_of_parts (s : State) : (slotBytes s.tal.die, s.tal.mapWrites, s.summit.floor) = s.lasting :=
  (rfl)

@[simp] theorem lasting_ite {c : Prop} [Decidable c] (a b : State) :
    (if c then a else b).lasting = if c then a.lasting else b.lasting := apply_ite State.lasting c a b

@[simp] theorem lasting_fst_ite {α : Type} {c : Prop} [Decidable c] (a b : State × α) :
    (if c then a else b).1.lasting = if c then a.1.lasting else b.1.lasting :=
  apply_ite (fun x : State × α => x.1.lasting) c a b

@[simp] theorem lasting_snd_ite {α : Type} {c : Prop} [Decidable c] (a b : α × State) :
    (if c then a else b).2.lasting = if c then a.2.lasting else b.2.lasting :=
  apply_ite (fun x : α × State => x.2.lasting) c a b

@[simp] theorem lasting_foldl {α : Type} {f : State → α → State} (hf : ∀ x a, (f x a).lasting = x.lasting)
    (l : List α) (s : State) : (l.foldl f s).lasting = s.lasting := by
  induction l generalizing s with
  | nil => rfl
  | cons a l ih => rw [List.foldl_cons, ih, hf]

@[simp] theorem lasts_next {s t : State} : Lasts s (.next t) ↔ t.lasting = s.lasting :=
  ⟨fun h => h t rfl, fun h u hu => by cases hu; exact h⟩

@[simp] theorem lasts_fault {s : State} {f : Fault} : Lasts s (.fault f) := fun _ h => by cases h

@[simp] theorem lasts_ite {s : State} {c : Prop} [Decidable c] {a b : Result} :
    Lasts s (if c then a else b) ↔ if c then Lasts s a else Lasts s b := by split <;> rfl

theorem formatBase_le_quietBase : formatBase ≤ quietBase := by decide

/-! ### The shared operations -/

@[simp] theorem emitOut_lasting (o : Output) (s : State) : (emitOut o s).lasting = s.lasting := (rfl)
@[simp] theorem freeBits_lasting (w : Nat) (s : State) : (freeBits w s).2.lasting = s.lasting := (rfl)
@[simp] theorem modPod_lasting (p : Nat) (f : Pod → Pod) (s : State) : (modPod p f s).lasting = s.lasting := (rfl)
@[simp] theorem modInput_lasting (n : Nat) (f : Input → Input) (s : State) :
    (modInput n f s).lasting = s.lasting := (rfl)
@[simp] theorem modSeq_lasting (j : Nat) (f : Seq → Seq) (s : State) : (modSeq j f s).lasting = s.lasting := (rfl)
@[simp] theorem modMb_lasting (m : Nat) (f : Mailbox → Mailbox) (s : State) :
    (modMb m f s).lasting = s.lasting := (rfl)
@[simp] theorem modCw_lasting (k : Nat) (f : Window → Window) (s : State) : (modCw k f s).lasting = s.lasting := (rfl)

/-! ### Events, faults and their log -/

@[simp] theorem logEntry_lasting (kind eflags code : Nat) (data : List Byte) (s : State) :
    (logEntry kind eflags code data s).lasting = s.lasting := (rfl)

@[simp] theorem logCopy_lasting (kind code : Nat) (s : State) : (logCopy kind code s).lasting = s.lasting := by
  unfold logCopy
  repeat' split
  all_goals simp

@[simp] theorem pendVector_lasting (g b : Nat) (s : State) : (pendVector g b s).lasting = s.lasting := (rfl)
@[simp] theorem raiseOne_lasting (forced : Bool) (g b : Nat) (data : List Byte) (s : State) :
    (raiseOne forced g b data s).lasting = s.lasting := by simp [raiseOne]
@[simp] theorem raiseOverflow_lasting (before : State) (kind code : Nat) (s : State) :
    (raiseOverflow before kind code s).lasting = s.lasting := by simp [raiseOverflow]
@[simp] theorem raiseLogReady_lasting (before : State) (s : State) :
    (raiseLogReady before s).lasting = s.lasting := by simp [raiseLogReady]
@[simp] theorem raiseWith_lasting (forced : Bool) (g b : Nat) (data : List Byte) (s : State) :
    (raiseWith forced g b data s).lasting = s.lasting := by simp [raiseWith]
@[simp] theorem raise_lasting (g b : Nat) (s : State) : (raise g b s).lasting = s.lasting := by simp [raise]
@[simp] theorem logFault_lasting (source severity : Nat) (info : Word) (injected : Bool) (s : State) :
    (logFault source severity info injected s).lasting = s.lasting := by simp [logFault]
@[simp] theorem refuseWrite_lasting (off : Nat) (v : Word) (be : BitVec 4) (s : State) :
    (refuseWrite off v be s).lasting = s.lasting := by simp [refuseWrite]
@[simp] theorem refuseWidth_lasting (off : Nat) (v : Word) (be : BitVec 4) (s : State) :
    (refuseWidth off v be s).lasting = s.lasting := by simp [refuseWidth]
@[simp] theorem refuseWrite64_lasting (off : Nat) (v : Word64) (be : BitVec 8) (s : State) :
    (refuseWrite64 off v be s).lasting = s.lasting := by simp [refuseWrite64]
@[simp] theorem refuseWidth64_lasting (off : Nat) (v : Word64) (be : BitVec 8) (s : State) :
    (refuseWidth64 off v be s).lasting = s.lasting := by simp [refuseWidth64]
@[simp] theorem takeUnlock_lasting (s : State) : (takeUnlock s).2.lasting = s.lasting := (rfl)

/-! ### The configuration image -/

@[simp] theorem holdReference_lasting (s : State) : (holdReference s).lasting = s.lasting := (rfl)
@[simp] theorem applyDeskew_lasting (p : Nat) (s : State) :
    (applyDeskew p s).lasting = s.lasting := by simp [applyDeskew]
@[simp] theorem reloadSeqs_lasting (s : State) : (reloadSeqs s).lasting = s.lasting := (rfl)
@[simp] theorem clearDisabled_lasting (s : State) : (clearDisabled s).lasting = s.lasting := by simp [clearDisabled]
@[simp] theorem resetStaged_lasting (s : State) : (resetStaged s).lasting = s.lasting := (rfl)

@[simp] theorem activateImage_lasting (s : State) : (activateImage s).lasting = s.lasting := by
  cases hr : s.cfg.pendingRef <;> simp [activateImage, hr]

@[simp] theorem resetActive_lasting (s : State) : (resetActive s).lasting = s.lasting := by simp [resetActive]

/-! ### Cairns, gaps and causes -/

@[simp] theorem pushCairn_lasting (code instant unit pod : Nat) (payload : List Byte) (s : State) :
    (pushCairn code instant unit pod payload s).lasting = s.lasting := (rfl)
@[simp] theorem pushCairnIf_lasting (code instant unit pod : Nat) (payload : List Byte) (s : State) :
    (pushCairnIf code instant unit pod payload s).lasting = s.lasting := by simp [pushCairnIf]
@[simp] theorem pushGap_lasting (cause detail pods pod start : Nat) (stop : Option Nat) (s : State) :
    (pushGap cause detail pods pod start stop s).lasting = s.lasting := (rfl)
@[simp] theorem countGap_lasting (g : Gap) (s : State) : (countGap g s).lasting = s.lasting := by simp [countGap]
@[simp] theorem moveH_lasting (s : State) : (moveH s).lasting = s.lasting := (rfl)
@[simp] theorem evalMarks_lasting (s : State) : (evalMarks s).lasting = s.lasting := by simp [evalMarks]
@[simp] theorem addRequest_lasting (c t : Nat) (s : State) :
    (addRequest c t s).lasting = s.lasting := by simp [addRequest]

@[simp] theorem acceptCauseAt_lasting (row cause : Nat) (s : State) :
    (acceptCauseAt row cause s).lasting = s.lasting := by
  unfold acceptCauseAt
  split <;> simp

@[simp] theorem acceptCause_lasting (cause : Nat) (s : State) :
    (acceptCause cause s).lasting = s.lasting := by simp [acceptCause]

@[simp] theorem requestStop_lasting (cause : Nat) (s : State) : (requestStop cause s).lasting = s.lasting := by
  unfold requestStop
  split <;> simp

@[simp] theorem handFrame_lasting (f : Frame) (s : State) : (handFrame f s).lasting = s.lasting := (rfl)
@[simp] theorem emitFrame_lasting (type unit pod flags : Nat) (t0 : Nat × Nat) (row : Option Nat) (pods : Nat)
    (body : List Byte) (s : State) : (emitFrame type unit pod flags t0 row pods body s).lasting = s.lasting := (rfl)

/-! ### The queue to the host and the records of the die -/

@[simp] theorem modOpen_lasting (f : Extent → Extent) (s : State) : (modOpen f s).lasting = s.lasting := (rfl)
@[simp] theorem modExtent_lasting (n : Nat) (f : Extent → Extent) (s : State) :
    (modExtent n f s).lasting = s.lasting := (rfl)
@[simp] theorem makeDurable_lasting (x : Extent) (s : State) : (makeDurable x s).lasting = s.lasting := (rfl)
@[simp] theorem feedChain_lasting (n : Nat) (s : State) : (feedChain n s).lasting = s.lasting := (rfl)
@[simp] theorem sealTick_lasting (s : State) : (sealTick s).lasting = s.lasting := (rfl)
@[simp] theorem afterRelease_lasting (s : State) : (afterRelease s).lasting = s.lasting := by simp [afterRelease]

@[simp] theorem finishExtent_lasting (s : State) : (finishExtent s).lasting = s.lasting := by
  unfold finishExtent
  split <;> simp

@[simp] theorem dueClose_lasting (s : State) : (dueClose s).lasting = s.lasting := by simp [dueClose]

@[simp] theorem closeBlock_lasting (s : State) : (closeBlock s).lasting = s.lasting := by
  unfold closeBlock
  split <;> simp

@[simp] theorem closeExtent_lasting (f : Extent → Extent) (s : State) :
    (closeExtent f s).lasting = s.lasting := by simp [closeExtent]

@[simp] theorem pushWords_lasting (s : State) : (pushWords s).lasting = s.lasting := by
  unfold pushWords
  split <;> simp

@[simp] theorem clearHold_lasting (s : State) : (clearHold s).lasting = s.lasting := by simp [clearHold]
@[simp] theorem releaseTo_lasting (upto : Nat) (s : State) :
    (releaseTo upto s).lasting = s.lasting := by simp [releaseTo]

@[simp] theorem releaseChunks_lasting : ∀ (n : Nat) (s : State), (releaseChunks n s).lasting = s.lasting
  | 0, _ => rfl
  | n + 1, s => by
    unfold releaseChunks
    split
    · split <;> simp [releaseChunks_lasting n]
    · rfl

@[simp] theorem releaseAll_lasting (s : State) : (releaseAll s).lasting = s.lasting := by simp [releaseAll]

@[simp] theorem rewindUnit_lasting (s : State) : (rewindUnit s).lasting = s.lasting := by
  unfold rewindUnit
  split <;> simp

@[simp] theorem rewind_lasting (s : State) : (rewind s).lasting = s.lasting := by simp [rewind]
@[simp] theorem closeFrozenBank_lasting (s : State) :
    (closeFrozenBank s).lasting = s.lasting := by simp [closeFrozenBank]
@[simp] theorem freezeRecord_lasting (s : State) : (freezeRecord s).lasting = s.lasting := by simp [freezeRecord]
@[simp] theorem fenceLane_lasting (i : Nat) (s : State) : (fenceLane i s).lasting = s.lasting := by simp [fenceLane]

@[simp] theorem dieWrite_lasting {a : Nat} (h : formatBase ≤ a) (bs : List Byte) (s : State) :
    (dieWrite a bs s).lasting = s.lasting := by
  have hb : slotBytes (dieWrite a bs s).tal.die = slotBytes s.tal.die := by
    funext x
    unfold slotBytes
    split
    · next hx => exact memByte_memWrite_out _ _ _ _ (.inl (Nat.lt_of_lt_of_le hx h))
    · rfl
  exact Prod.ext hb rfl

@[simp] theorem noteDieUe_lasting (us : List Nat) (s : State) : (noteDieUe us s).lasting = s.lasting := (rfl)
@[simp] theorem writeRecord_lasting {base : Nat} (h : formatBase ≤ base) (fields : List Byte) (s : State) :
    (writeRecord base fields s).lasting = s.lasting := dieWrite_lasting (Nat.le_add_right_of_le h) _ s
@[simp] theorem writeFormat_lasting (f : FormatRec) (s : State) :
    (writeFormat f s).lasting = s.lasting := writeRecord_lasting (Nat.le_refl _) _ s

@[simp] theorem clearQuiet_lasting (s : State) : (clearQuiet s).lasting = s.lasting := by
  simp [clearQuiet, writeRecord_lasting formatBase_le_quietBase]

@[simp] theorem applyReshape_lasting (s : State) : (applyReshape s).lasting = s.lasting := by
  unfold applyReshape
  split <;> simp

/-! ### Ridgeline frames -/

@[simp] theorem modPort_lasting (p : Nat) (f : Port → Port) (s : State) : (modPort p f s).lasting = s.lasting := (rfl)
@[simp] theorem cairnNow_lasting (code : Nat) (payload : List Byte) (s : State) :
    (cairnNow code payload s).lasting = s.lasting := by simp [cairnNow]

@[simp] theorem sendNext_lasting (p : Nat) (s : State) : (sendNext p s).lasting = s.lasting := by
  unfold sendNext
  dsimp only
  repeat' split
  all_goals simp

@[simp] theorem txFrame_lasting (p : Nat) (flooded : Bool) (t : TxFrame) (s : State) :
    (txFrame p flooded t s).lasting = s.lasting := by simp [txFrame]
@[simp] theorem dropQueue_lasting (p : Nat) (s : State) : (dropQueue p s).lasting = s.lasting := (rfl)
@[simp] theorem txTick_lasting (s : State) : (txTick s).lasting = s.lasting := by simp [txTick]
@[simp] theorem sendLocal_lasting (p type : Nat) (body : List Byte) (s : State) :
    (sendLocal p type body s).lasting = s.lasting := by simp [sendLocal]
@[simp] theorem floodOn_lasting (except : Option Nat) (type origin dest hop oseq : Nat) (body : List Byte)
    (s : State) : (floodOn except type origin dest hop oseq body s).lasting = s.lasting := by simp [floodOn]
@[simp] theorem recordOrigin_lasting (origin oseq : Nat) (s : State) :
    (recordOrigin origin oseq s).lasting = s.lasting := (rfl)
@[simp] theorem originate_lasting (type dest : Nat) (body : List Byte) (s : State) :
    (originate type dest body s).lasting = s.lasting := by simp [originate]
@[simp] theorem originateDisc_lasting (type : Nat) (body : List Byte) (s : State) :
    (originateDisc type body s).lasting = s.lasting := by simp [originateDisc]
@[simp] theorem forwardAs_lasting (bad : Bool) (p : Nat) (f : List Byte) (s : State) :
    (forwardAs bad p f s).lasting = s.lasting := by simp [forwardAs]
@[simp] theorem forward_lasting (p : Nat) (f : List Byte) (s : State) :
    (forward p f s).lasting = s.lasting := by simp [forward]
@[simp] theorem lseqGap_lasting (p gap : Nat) (s : State) : (lseqGap p gap s).lasting = s.lasting := by simp [lseqGap]
@[simp] theorem rxFrame_lasting (p : Nat) (f : List Byte) (s : State) :
    (rxFrame p f s).lasting = s.lasting := by simp [rxFrame]
@[simp] theorem cutThrough_lasting (p : Nat) (f : List Byte) (s : State) :
    (cutThrough p f s).lasting = s.lasting := by simp [cutThrough]
@[simp] theorem rxBad_lasting (p : Nat) (f : List Byte) (s : State) :
    (rxBad p f s).lasting = s.lasting := by simp [rxBad]
@[simp] theorem rxTake_lasting (p type : Nat) (f : List Byte) (act : State → State) (s : State)
    (hact : ∀ x, (act x).lasting = x.lasting) : (rxTake p type f act s).lasting = s.lasting := by simp [rxTake, hact]
@[simp] theorem rxLocal_lasting (p type : Nat) (f : List Byte) (act : List Byte → State → State) (s : State)
    (hact : ∀ a x, (act a x).lasting = x.lasting) :
    (rxLocal p type f act s).lasting = s.lasting := by simp [rxLocal, hact]
@[simp] theorem seeOrigin_lasting (origin : Nat) (s : State) : (seeOrigin origin s).lasting = s.lasting := (rfl)
@[simp] theorem rxFlood_lasting (p type : Nat) (f : List Byte) (act : List Byte → State → State) (s : State)
    (hact : ∀ a x, (act a x).lasting = x.lasting) :
    (rxFlood p type f act s).lasting = s.lasting := by simp [rxFlood, hact]
@[simp] theorem startQualify_lasting (s : State) : (startQualify s).lasting = s.lasting := (rfl)
@[simp] theorem enterHoldover_lasting (free : Bool) (word : Int) (s : State) :
    (enterHoldover free word s).lasting = s.lasting := (rfl)
@[simp] theorem refStops_lasting (src : Nat) (word : Int) (s : State) :
    (refStops src word s).lasting = s.lasting := by simp [refStops]
@[simp] theorem portBad_lasting (p : Nat) (s : State) : (portBad p s).lasting = s.lasting := (rfl)
@[simp] theorem portOutage_lasting (p : Nat) (s : State) : (portOutage p s).lasting = s.lasting := (rfl)
@[simp] theorem leaveUp_lasting (p : Nat) (dst : PortState) (s : State) :
    (leaveUp p dst s).lasting = s.lasting := by simp [leaveUp]
@[simp] theorem safePort_lasting (p : Nat) (s : State) : (safePort p s).lasting = s.lasting := by simp [safePort]
@[simp] theorem disablePort_lasting (p : Nat) (s : State) :
    (disablePort p s).lasting = s.lasting := by simp [disablePort]

/-! ### Mailboxes -/

@[simp] theorem healWords_lasting (mem lo hi : Nat) (s : State) : (healWords mem lo hi s).lasting = s.lasting := (rfl)
@[simp] theorem scratchWrite_lasting (o : Nat) (bs : List Byte) (s : State) :
    (scratchWrite o bs s).lasting = s.lasting := (rfl)
@[simp] theorem ringWrite_lasting (w : Window) (p : Nat) (bs : List Byte) (s : State) :
    (ringWrite w p bs s).lasting = s.lasting := by simp [ringWrite]
@[simp] theorem cwClaim_lasting (k m opcode : Nat) (host : Bool) (len : Nat) (out : List Byte) (s : State) :
    (cwClaim k m opcode host len out s).lasting = s.lasting := (rfl)
@[simp] theorem cwProduce_lasting (k : Nat) (s : State) : (cwProduce k s).lasting = s.lasting := by simp [cwProduce]
@[simp] theorem cwConsume_lasting (k : Nat) (s : State) : (cwConsume k s).lasting = s.lasting := by simp [cwConsume]
@[simp] theorem cwRelease_lasting (m : Nat) (s : State) : (cwRelease m s).lasting = s.lasting := by simp [cwRelease]
@[simp] theorem sendTunnelResp_lasting (t : TunnelFrom) (status : Nat) (body : List Byte) (s : State) :
    (sendTunnelResp t status body s).lasting = s.lasting := by simp [sendTunnelResp]

@[simp] theorem mbComplete_lasting (m : Nat) (r : Reply) (s : State) : (mbComplete m r s).lasting = s.lasting := by
  unfold mbComplete
  dsimp only
  split <;> simp

@[simp] theorem finishMb_lasting (m opcode : Nat) (r : Reply) (s : State) :
    (finishMb m opcode r s).lasting = s.lasting := by simp [finishMb]

@[simp] theorem command_lasting (m opcode : Nat) (f : Cmd) (s : State) (hf : ∀ q x, (f q x).1.lasting = x.lasting) :
    (command m opcode f s).lasting = s.lasting := by
  unfold command
  split
  · have h := hf (mbOf s m).req s
    split <;> simp_all
  · rfl

@[simp] theorem quit_lasting (st : Nat) (s : State) : (quit st s).1.lasting = s.lasting := (rfl)
@[simp] theorem quitClaimed_lasting (s : State) : (quitClaimed s).1.lasting = s.lasting := (rfl)
@[simp] theorem fillTransfer_lasting (k m : Nat) (data resp : List Byte) (s : State) :
    (fillTransfer k m data resp s).lasting = s.lasting := by simp [fillTransfer]
@[simp] theorem startTransfer_lasting (k m opcode : Nat) (data resp : List Byte) (s : State) :
    (startTransfer k m opcode data resp s).lasting = s.lasting := by simp [startTransfer]
@[simp] theorem cancelLong_lasting (m : Nat) (s : State) : (cancelLong m s).lasting = s.lasting := (rfl)
@[simp] theorem abortAll_lasting (st : MbState) (detail : Nat) (s : State) :
    (abortAll st detail s).lasting = s.lasting := by simp [abortAll]
@[simp] theorem kickTick_lasting (s : State) : (kickTick s).lasting = s.lasting := by simp [kickTick]
@[simp] theorem pauseDuties_lasting (s : State) : (pauseDuties s).lasting = s.lasting := (rfl)
@[simp] theorem restartSummit_lasting (watchdog : Bool) (s : State) :
    (restartSummit watchdog s).lasting = s.lasting := by simp [restartSummit]

/-! ### Arming -/

@[simp] theorem disarmNow_lasting (j : Nat) (s : State) : (disarmNow j s).lasting = s.lasting := by
  unfold disarmNow
  split <;> simp

@[simp] theorem disarmAll_lasting (s : State) : (disarmAll s).lasting = s.lasting := by simp [disarmAll]
@[simp] theorem orderAt_lasting (k : Nat) (o : SeqOrder) (s : State) : (orderAt k o s).lasting = s.lasting := (rfl)
@[simp] theorem disarmMask_lasting (m : Nat) (s : State) :
    (disarmMask m s).lasting = s.lasting := by simp [disarmMask]
@[simp] theorem disarmSeq_lasting (j : Nat) (s : State) : (disarmSeq j s).lasting = s.lasting := by simp [disarmSeq]
@[simp] theorem armNow_lasting (j first : Nat) (late : Bool) (s : State) :
    (armNow j first late s).lasting = s.lasting := by simp [armNow]
@[simp] theorem armAll_lasting (m first : Nat) (late missed : Bool) (s : State) :
    (armAll m first late missed s).lasting = s.lasting := by simp [armAll]
@[simp] theorem armMask_lasting (m first : Nat) (late missed : Bool) (mb : Option Nat) (s : State) :
    (armMask m first late missed mb s).lasting = s.lasting := by simp [armMask]
@[simp] theorem armPending_lasting (j first : Nat) (s : State) :
    (armPending j first s).lasting = s.lasting := by simp [armPending]
@[simp] theorem pendNow_lasting (j : Nat) (w : ArmWait) (s : State) :
    (pendNow j w s).lasting = s.lasting := by simp [pendNow]
@[simp] theorem pendSeq_lasting (j : Nat) (w : ArmWait) (s : State) :
    (pendSeq j w s).lasting = s.lasting := by simp [pendSeq]
@[simp] theorem dropArm_lasting (j : Nat) (s : State) : (dropArm j s).lasting = s.lasting := by simp [dropArm]
@[simp] theorem chainDisarm_lasting (group : Nat) (s : State) :
    (chainDisarm group s).lasting = s.lasting := by simp [chainDisarm]

@[simp] theorem groupDone_lasting (group : Nat) (except : Option Nat) (sample : Nat) (byFrame : Bool) (s : State) :
    (groupDone group except sample byFrame s).lasting = s.lasting := by
  unfold groupDone
  refine (lasting_ite _ _).trans (ite_eq_left_iff.mpr fun _ => lasting_foldl (fun x j => ?_) _ s)
  split <;> simp

/-! ### Samples -/

@[simp] theorem judgeEdge_lasting (p tc : Nat) (s : State) :
    (judgeEdge p tc s).lasting = s.lasting := by simp [judgeEdge]
@[simp] theorem judgeClocks_lasting (p t : Nat) (s : State) :
    (judgeClocks p t s).lasting = s.lasting := by simp [judgeClocks]

/-! ### The front end -/

@[simp] theorem detectIn_lasting (n k place : Nat) (s : State) :
    (detectIn n k place s).lasting = s.lasting := by simp [detectIn]

@[simp] theorem endHold_lasting (n : Nat) (s : State) : (endHold n s).lasting = s.lasting := by
  unfold endHold
  split <;> simp

@[simp] theorem qualChange_lasting (n : Nat) (nl : Bool) (tx tev : Nat) (valid : Bool) (d : Nat) (s : State) :
    (qualChange n nl tx tev valid d s).lasting = s.lasting := by
  unfold qualChange
  dsimp only
  repeat' split
  all_goals simp

@[simp] theorem runt_lasting (n w t : Nat) (s : State) : (runt n w t s).lasting = s.lasting := by simp [runt]

@[simp] theorem qualRunt_lasting (n : Nat) (upper out : Bool) (t : Nat) (level : Bool) (s : State) :
    (qualRunt n upper out t level s).lasting = s.lasting := by
  unfold qualRunt
  repeat' split
  all_goals simp

@[simp] theorem requalify_lasting (s : State) : (requalify s).lasting = s.lasting := by
  unfold requalify
  split <;> simp

@[simp] theorem settleSuspect_lasting (s : State) : (settleSuspect s).lasting = s.lasting := by
  unfold settleSuspect
  split <;> simp

@[simp] theorem flagSamples_lasting (p t : Nat) (s : State) :
    (flagSamples p t s).lasting = s.lasting := by simp [flagSamples]
@[simp] theorem trimIdle_lasting (p t : Nat) (s : State) : (trimIdle p t s).lasting = s.lasting := by simp [trimIdle]

@[simp] theorem levelChange_lasting (n : Nat) (nl : Bool) (t : Nat) (x : Nat × Bool × Nat) (s : State) :
    (levelChange n nl t x s).lasting = s.lasting := by
  unfold levelChange
  dsimp only
  repeat' split
  all_goals simp

@[simp] theorem applyEvent_lasting (n : Nat) (upper out : Bool) (grid t : Nat) (s : State) :
    (applyEvent n upper out grid t s).lasting = s.lasting := by simp [applyEvent]

/-! ### The fabric and the sequencers -/

@[simp] theorem fireCairn_lasting (j frm b cls group out place : Nat) (s : State) :
    (fireCairn j frm b cls group out place s).lasting = s.lasting := by simp [fireCairn]
@[simp] theorem firePulses_lasting (mask k : Nat) (s : State) :
    (firePulses mask k s).lasting = s.lasting := by simp [firePulses]
@[simp] theorem fireFrame_lasting (j cls group place : Nat) (s : State) :
    (fireFrame j cls group place s).lasting = s.lasting := by simp [fireFrame]
@[simp] theorem emitFire_lasting (j frm b : Nat) (w : Branch) (group place : Nat) (s : State) :
    (emitFire j frm b w group place s).lasting = s.lasting := by simp [emitFire]
@[simp] theorem seqDone_lasting (j : Nat) (s : State) : (seqDone j s).lasting = s.lasting := by simp [seqDone]
@[simp] theorem takeBranch_lasting (j b : Nat) (w : Branch) (vals : List (Option Nat)) (p : Program) (inst : Nat)
    (s : State) : (takeBranch j b w vals p inst s).lasting = s.lasting := by simp [takeBranch]
@[simp] theorem blockStep_lasting (j : Nat) (s : State) : (blockStep j s).lasting = s.lasting := by simp [blockStep]

@[simp] theorem stepAt_lasting (j inst : Nat) (by_ : StepBy) (p : Program) (s : State) :
    (stepAt j inst by_ p s).lasting = s.lasting := by
  unfold stepAt
  dsimp only
  repeat' split
  all_goals simp

@[simp] theorem stepSeq_lasting (j : Nat) (s : State) : (stepSeq j s).lasting = s.lasting := by
  unfold stepSeq
  split <;> simp

@[simp] theorem stepAll_lasting (s : State) : (stepAll s).lasting = s.lasting := by simp [stepAll]
@[simp] theorem showSeqs_lasting (s : State) : (showSeqs s).lasting = s.lasting := by simp [showSeqs]
@[simp] theorem leaveSample_lasting (s : State) : (leaveSample s).lasting = s.lasting := by simp [leaveSample]
@[simp] theorem countGroups_lasting (k : Nat) (s : State) :
    (countGroups k s).lasting = s.lasting := by simp [countGroups]
@[simp] theorem evalPatterns_lasting (k : Nat) (s : State) :
    (evalPatterns k s).lasting = s.lasting := by simp [evalPatterns]

@[simp] theorem evalSuspect_lasting (k : Nat) (s : State) : (evalSuspect k s).lasting = s.lasting := by
  unfold evalSuspect
  split <;> simp

@[simp] theorem takeDone_lasting (k j : Nat) (s : State) : (takeDone k j s).lasting = s.lasting := by
  unfold takeDone
  split <;> simp

@[simp] theorem takeOrder_lasting (s : State) (o : SeqOrder) : (takeOrder s o).lasting = s.lasting := by
  unfold takeOrder
  repeat' split
  all_goals simp

@[simp] theorem takeTarget_lasting (k j : Nat) (s : State) : (takeTarget k j s).lasting = s.lasting := by
  unfold takeTarget
  split <;> simp

@[simp] theorem takeOrders_lasting (k : Nat) (s : State) :
    (takeOrders k s).lasting = s.lasting := by simp [takeOrders]
@[simp] theorem showLive_lasting (s : State) : (showLive s).lasting = s.lasting := by simp [showLive]
@[simp] theorem enterSample_lasting (k : Nat) (s : State) :
    (enterSample k s).lasting = s.lasting := by simp [enterSample]

@[simp] theorem advanceBy_lasting : ∀ (n : Nat) (s : State), (advanceBy n s).lasting = s.lasting
  | 0, _ => rfl
  | n + 1, s => by simp [advanceBy, advanceBy_lasting n]

@[simp] theorem evalBelow_lasting (n : Nat) (s : State) : (evalBelow n s).lasting = s.lasting := by simp [evalBelow]
@[simp] theorem advance_lasting (a : Nat) (s : State) : (advance a s).lasting = s.lasting := by simp [advance]
@[simp] theorem startFabric_lasting (first : Nat) (s : State) :
    (startFabric first s).lasting = s.lasting := by simp [startFabric]
@[simp] theorem evalNow_lasting (s : State) : (evalNow s).lasting = s.lasting := by simp [evalNow]
@[simp] theorem stopFabric_lasting (n : Nat) (s : State) :
    (stopFabric n s).lasting = s.lasting := by simp [stopFabric]

@[simp] theorem carrySeq_lasting (first j : Nat) (s : State) : (carrySeq first j s).lasting = s.lasting := by
  unfold carrySeq
  dsimp only
  split <;> simp

@[simp] theorem carrySeqs_lasting (first : Nat) (s : State) :
    (carrySeqs first s).lasting = s.lasting := by simp [carrySeqs]
@[simp] theorem armOnStart_lasting (m : Nat) (mb : Option Nat) (s : State) :
    (armOnStart m mb s).lasting = s.lasting := by simp [armOnStart]
@[simp] theorem armInstant_lasting (j t : Nat) (late : Bool) (s : State) :
    (armInstant j t late s).lasting = s.lasting := by simp [armInstant]
@[simp] theorem chainArmSeq_lasting (j sec ns policy : Nat) (s : State) :
    (chainArmSeq j sec ns policy s).lasting = s.lasting := by simp [chainArmSeq]
@[simp] theorem chainArm_lasting (group sec ns policy : Nat) (s : State) :
    (chainArm group sec ns policy s).lasting = s.lasting := by simp [chainArm]
@[simp] theorem resetFab_lasting (s : State) : (resetFab s).lasting = s.lasting := (rfl)

/-! ### Pods -/

@[simp] theorem setPod_lasting (p : Nat) (st : PodState) (s : State) :
    (setPod p st s).lasting = s.lasting := by simp [setPod]
@[simp] theorem supplyCut_lasting (p : Nat) (s : State) : (supplyCut p s).lasting = s.lasting := (rfl)
@[simp] theorem absentNow_lasting (p : Nat) (s : State) : (absentNow p s).lasting = s.lasting := by simp [absentNow]
@[simp] theorem lowerCause_lasting (p cause : Nat) (s : State) : (lowerCause p cause s).lasting = s.lasting := (rfl)
@[simp] theorem podGone_lasting (p cause : Nat) (s : State) :
    (podGone p cause s).lasting = s.lasting := by simp [podGone]
@[simp] theorem dropPod_lasting (p cause : Nat) (s : State) :
    (dropPod p cause s).lasting = s.lasting := by simp [dropPod]

@[simp] theorem closePodGap_lasting (p row : Nat) (s : State) : (closePodGap p row s).lasting = s.lasting := by
  unfold closePodGap
  split <;> simp

@[simp] theorem finishOn_lasting (m : Nat) (s : State) : (finishOn m s).lasting = s.lasting := by simp [finishOn]
@[simp] theorem settleOn_lasting (p : Nat) (s : State) : (settleOn p s).lasting = s.lasting := by simp [settleOn]

@[simp] theorem safePod_lasting (p : Nat) (s : State) : (safePod p s).lasting = s.lasting := by
  unfold safePod
  dsimp only
  split <;> simp

@[simp] theorem releasePod_lasting (p : Nat) (s : State) :
    (releasePod p s).lasting = s.lasting := by simp [releasePod]
@[simp] theorem measureSupply_lasting (p : Nat) (s : State) :
    (measureSupply p s).lasting = s.lasting := by simp [measureSupply]
@[simp] theorem measureSupplies_lasting (s : State) :
    (measureSupplies s).lasting = s.lasting := by simp [measureSupplies]

/-! ### Fault reactions -/

@[simp] theorem updateFaultN_lasting (s : State) : (updateFaultN s).lasting = s.lasting := (rfl)
@[simp] theorem pushHist_lasting (f : Nat) (sev : Severity) (info : Word) (inj : Bool) (s : State) :
    (pushHist f sev info inj s).lasting = s.lasting := by simp [pushHist]
@[simp] theorem stopUnit_lasting (f : Nat) (info : Word) (unit : Nat) (s : State) :
    (stopUnit f info unit s).lasting = s.lasting := by simp [stopUnit]
@[simp] theorem contain_lasting (f : Nat) (info : Word) (unit : Nat) (s : State) :
    (contain f info unit s).lasting = s.lasting := by simp [contain]
@[simp] theorem restoreUnit_lasting (c : Contained) (s : State) :
    (restoreUnit c s).lasting = s.lasting := by simp [restoreUnit]
@[simp] theorem rejoinUnits_lasting (s : State) : (rejoinUnits s).lasting = s.lasting := by simp [rejoinUnits]
@[simp] theorem freezeCapture_lasting (s : State) : (freezeCapture s).lasting = s.lasting := (rfl)
@[simp] theorem enterSafe_lasting (f : Nat) (s : State) : (enterSafe f s).lasting = s.lasting := by simp [enterSafe]
@[simp] theorem reloadCollector_lasting (s : State) : (reloadCollector s).lasting = s.lasting := (rfl)

@[simp] theorem latch_lasting (f : Nat) (info : Word) (unit : Nat) (inj : Bool) (sev : Severity) (s : State) :
    (latch f info unit inj sev s).lasting = s.lasting := by
  unfold latch
  repeat' split
  all_goals simp

@[simp] theorem signalWith_lasting (f : Nat) (info : Word) (unit : Nat) (inj : Bool) (sev : Severity) (s : State) :
    (signalWith f info unit inj sev s).lasting = s.lasting := by simp [signalWith]
@[simp] theorem signalUnit_lasting (f : Nat) (info : Word) (unit : Nat) (s : State) :
    (signalUnit f info unit s).lasting = s.lasting := by simp [signalUnit]
@[simp] theorem signal_lasting (f : Nat) (info : Word) (s : State) :
    (signal f info s).lasting = s.lasting := by simp [signal]
@[simp] theorem goLive_lasting (f : Nat) (info : Word) (s : State) :
    (goLive f info s).lasting = s.lasting := by simp [goLive]
@[simp] theorem settleRef_lasting (s : State) : (settleRef s).lasting = s.lasting := by simp [settleRef]
@[simp] theorem goDead_lasting (f : Nat) (s : State) : (goDead f s).lasting = s.lasting := (rfl)
@[simp] theorem extLive_lasting (s : State) : (extLive s).lasting = s.lasting := (rfl)

@[simp] theorem latchFailed_lasting (s : State) : (latchFailed s).lasting = s.lasting := by
  unfold latchFailed
  split <;> simp

@[simp] theorem latchLive_lasting (s : State) : (latchLive s).lasting = s.lasting := by simp [latchLive]
@[simp] theorem startCollector_lasting (s : State) :
    (startCollector s).lasting = s.lasting := by simp [startCollector]
@[simp] theorem linkFault_lasting (p : Nat) (s : State) : (linkFault p s).lasting = s.lasting := by simp [linkFault]
@[simp] theorem lostPort_lasting (p : Nat) (s : State) : (lostPort p s).lasting = s.lasting := by simp [lostPort]
@[simp] theorem protoMailbox_lasting (m : Nat) (s : State) :
    (protoMailbox m s).lasting = s.lasting := by simp [protoMailbox]
@[simp] theorem protoWindow_lasting (k : Nat) (s : State) :
    (protoWindow k s).lasting = s.lasting := by simp [protoWindow]

/-! ### Accesses of the host -/

@[simp] theorem aerCorrectable_lasting (code : Nat) (s : State) :
    (aerCorrectable code s).lasting = s.lasting := by simp [aerCorrectable]
@[simp] theorem aerUncorrectable_lasting (code : Nat) (s : State) :
    (aerUncorrectable code s).lasting = s.lasting := by simp [aerUncorrectable]
@[simp] theorem aerAdvisory_lasting (code : Nat) (s : State) :
    (aerAdvisory code s).lasting = s.lasting := by simp [aerAdvisory]
@[simp] theorem urRead_lasting (bar off : Nat) (s : State) :
    (urRead bar off s).lasting = s.lasting := by simp [urRead]
@[simp] theorem urWrite_lasting (s : State) : (urWrite s).lasting = s.lasting := by simp [urWrite]
@[simp] theorem barWrite_lasting (act : Nat → State → State) (s : State)
    (hact : ∀ a x, (act a x).lasting = x.lasting) : (barWrite act s).lasting = s.lasting := by simp [barWrite, hact]
@[simp] theorem barRead_lasting (bar off n : Nat) (act : State → State) (s : State)
    (hact : ∀ x, (act x).lasting = x.lasting) :
    (barRead bar off n act s).lasting = s.lasting := by simp [barRead, hact]
@[simp] theorem memWriteTlp_lasting (bar : Nat) (act : State → State) (s : State)
    (hact : ∀ x, (act x).lasting = x.lasting) :
    (memWriteTlp bar act s).lasting = s.lasting := by simp [memWriteTlp, hact]
@[simp] theorem keyed_lasting (c cls off : Nat) (v : Word) (be : BitVec 4) (act : State → State) (s : State)
    (hact : ∀ x, (act x).lasting = x.lasting) :
    (keyed c cls off v be act s).lasting = s.lasting := by simp [keyed, hact]
@[simp] theorem special_lasting (off : Nat) (v : Word) (be : BitVec 4) (act : State → State) (s : State)
    (hact : ∀ x, (act x).lasting = x.lasting) :
    (special off v be act s).lasting = s.lasting := by simp [special, hact]

/-! ### Fault registers -/

@[simp] theorem writeFltSev_lasting (i : Nat) (v : Word) (be : BitVec 4) (cls : Nat) (s : State) :
    (writeFltSev i v be cls s).lasting = s.lasting := by simp [writeFltSev]
@[simp] theorem feedExt_lasting (s : State) : (feedExt s).lasting = s.lasting := by simp [feedExt]
@[simp] theorem writeFltCtrl_lasting (v : Word) (be : BitVec 4) (cls : Nat) (s : State) :
    (writeFltCtrl v be cls s).lasting = s.lasting := by simp [writeFltCtrl]
@[simp] theorem clearStatus_lasting (bits : Word64) (s : State) : (clearStatus bits s).lasting = s.lasting := (rfl)
@[simp] theorem writeFltStatus_lasting (hi : Bool) (v : Word) (be : BitVec 4) (s : State) :
    (writeFltStatus hi v be s).lasting = s.lasting := by simp [writeFltStatus]
@[simp] theorem writeHistPop_lasting (v : Word) (be : BitVec 4) (s : State) :
    (writeHistPop v be s).lasting = s.lasting := by simp [writeHistPop]
@[simp] theorem retrainPort_lasting (p : Nat) (s : State) :
    (retrainPort p s).lasting = s.lasting := by simp [retrainPort]
@[simp] theorem endSafe_lasting (s : State) : (endSafe s).lasting = s.lasting := by simp [endSafe]
@[simp] theorem releaseSafe_lasting (s : State) : (releaseSafe s).lasting = s.lasting := by simp [releaseSafe]
@[simp] theorem writeSafeRelease_lasting (v : Word) (be : BitVec 4) (cls : Nat) (s : State) :
    (writeSafeRelease v be cls s).lasting = s.lasting := by simp [writeSafeRelease]
@[simp] theorem judgeTemp_lasting (t : Int) (s : State) : (judgeTemp t s).lasting = s.lasting := by simp [judgeTemp]
@[simp] theorem railFine_lasting (r : Nat) (s : State) : (railFine r s).lasting = s.lasting := by simp [railFine]
@[simp] theorem bankLost_lasting (r : Nat) (s : State) : (bankLost r s).lasting = s.lasting := by simp [bankLost]
@[simp] theorem rebuildStatus_lasting (s : State) : (rebuildStatus s).lasting = s.lasting := (rfl)

/-! ### Time -/

@[simp] theorem setHeldLow_lasting (off : Nat) (w : Word) (s : State) :
    (setHeldLow off w s).lasting = s.lasting := (rfl)
@[simp] theorem dropHeldLow_lasting (off : Nat) (s : State) : (dropHeldLow off s).lasting = s.lasting := (rfl)
@[simp] theorem write64_lasting (off : Nat) (isAct : Bool) (live v : Word64) (be : BitVec 8)
    (act : Word64 → State → State) (s : State) (hact : ∀ a x, (act a x).lasting = x.lasting) :
    (write64 off isAct live v be act s).lasting = s.lasting := by simp [write64, hact]
@[simp] theorem spanA_lasting (step : Bool) (s : State) : (spanA step s).lasting = s.lasting := (rfl)
@[simp] theorem spanB_lasting (step : Bool) (s : State) : (spanB step s).lasting = s.lasting := (rfl)
@[simp] theorem setIncrA_lasting (v : Word64) (s : State) : (setIncrA v s).lasting = s.lasting := by simp [setIncrA]
@[simp] theorem setIncrB_lasting (v : Word64) (s : State) : (setIncrB v s).lasting = s.lasting := by simp [setIncrB]
@[simp] theorem refuseStepA_lasting (s : State) : (refuseStepA s).lasting = s.lasting := by simp [refuseStepA]
@[simp] theorem setStepA_lasting (cls : Nat) (be : BitVec 8) (v : Word64) (s : State) :
    (setStepA cls be v s).lasting = s.lasting := by simp [setStepA]
@[simp] theorem setStepB_lasting (v : Word64) (s : State) : (setStepB v s).lasting = s.lasting := by simp [setStepB]
@[simp] theorem writeIncrA_lasting (v : Word64) (be : BitVec 8) (s : State) :
    (writeIncrA v be s).lasting = s.lasting := by simp [writeIncrA]
@[simp] theorem writeIncrB_lasting (v : Word64) (be : BitVec 8) (s : State) :
    (writeIncrB v be s).lasting = s.lasting := by simp [writeIncrB]
@[simp] theorem writeStepA_lasting (v : Word64) (be : BitVec 8) (cls : Nat) (s : State) :
    (writeStepA v be cls s).lasting = s.lasting := by simp [writeStepA]
@[simp] theorem writeStepB_lasting (v : Word64) (be : BitVec 8) (s : State) :
    (writeStepB v be s).lasting = s.lasting := by simp [writeStepB]
@[simp] theorem writeStepLimit_lasting (v : Word) (be : BitVec 4) (cls : Nat) (s : State) :
    (writeStepLimit v be cls s).lasting = s.lasting := by simp [writeStepLimit]

@[simp] theorem applyStepA_lasting (s : State) : (applyStepA s).lasting = s.lasting := by
  unfold applyStepA
  split <;> simp

@[simp] theorem bCairn_lasting (old new reason : Nat) (s : State) :
    (bCairn old new reason s).lasting = s.lasting := by simp [bCairn]
@[simp] theorem doStepB_lasting (d : Int) (s : State) : (doStepB d s).lasting = s.lasting := by simp [doStepB]

@[simp] theorem applyStepB_lasting (s : State) : (applyStepB s).lasting = s.lasting := by
  unfold applyStepB
  split <;> simp

@[simp] theorem countTick_lasting (s : State) : (countTick s).lasting = s.lasting := (rfl)
@[simp] theorem setAxis_lasting (s : State) (c : AxisSet) : (setAxis s c).lasting = s.lasting := by simp [setAxis]
@[simp] theorem setAxes_lasting (s : State) : (setAxes s).lasting = s.lasting := by simp [setAxes]
@[simp] theorem clockTick_lasting (s : State) : (clockTick s).lasting = s.lasting := by simp [clockTick]
@[simp] theorem holdPps_lasting (s : State) : (holdPps s).lasting = s.lasting := by simp [holdPps]
@[simp] theorem switchSource_lasting (new reason : Nat) (s : State) :
    (switchSource new reason s).lasting = s.lasting := by simp [switchSource]
@[simp] theorem reselect_lasting (s : State) : (reselect s).lasting = s.lasting := by simp [reselect]
@[simp] theorem timeSourceCmd_lasting (q : List Byte) (s : State) :
    (timeSourceCmd q s).1.lasting = s.lasting := by simp [timeSourceCmd]
@[simp] theorem axisCmd_lasting (q : List Byte) (s : State) : (axisCmd q s).1.lasting = s.lasting := by simp [axisCmd]

/-! ### The scheduler -/

@[simp] theorem askSeal_lasting (reason : Nat) (forMb after : Option Nat) (s : State) :
    (askSeal reason forMb after s).lasting = s.lasting := (rfl)
@[simp] theorem setSf_lasting (k : Nat) (v : Bool) (t : Nat) (s : State) :
    (setSf k v t s).lasting = s.lasting := by simp [setSf]
@[simp] theorem actEpoch_lasting (t : Nat) (s : State) : (actEpoch t s).2.lasting = s.lasting := by simp [actEpoch]
@[simp] theorem actArm_lasting (mask t : Nat) (late : Bool) (s : State) :
    (actArm mask t late s).2.lasting = s.lasting := by simp [actArm]

@[simp] theorem actEffect_lasting (act arg t : Nat) (late : Bool) (s : State) :
    (actEffect act arg t late s).2.lasting = s.lasting := by
  unfold actEffect
  split <;> simp

@[simp] theorem modSlot_lasting (n : Nat) (f : Slot64 → Slot64) (s : State) :
    (modSlot n f s).lasting = s.lasting := (rfl)
@[simp] theorem slotOutcome_lasting (n outcome instant : Nat) (cfg : Word) (target : Nat) (s : State) :
    (slotOutcome n outcome instant cfg target s).lasting = s.lasting := by simp [slotOutcome]
@[simp] theorem reloadSlot_lasting (n : Nat) (s : State) :
    (reloadSlot n s).lasting = s.lasting := by simp [reloadSlot]
@[simp] theorem queueFull_lasting (n : Nat) (cfg : Word) (target : Nat) (s : State) :
    (queueFull n cfg target s).lasting = s.lasting := by simp [queueFull]
@[simp] theorem dispatchSlot_lasting (n outcome instant : Nat) (s : State) :
    (dispatchSlot n outcome instant s).lasting = s.lasting := by simp [dispatchSlot]
@[simp] theorem judgePast_lasting (n : Nat) (s : State) : (judgePast n s).lasting = s.lasting := by simp [judgePast]
@[simp] theorem noteReached_lasting (n : Nat) (s : State) :
    (noteReached n s).lasting = s.lasting := by simp [noteReached]
@[simp] theorem noteAll_lasting (s : State) : (noteAll s).lasting = s.lasting := by simp [noteAll]

@[simp] theorem dispatchDue_lasting (n : Nat) (s : State) : (dispatchDue n s).lasting = s.lasting := by
  unfold dispatchDue
  split <;> simp

@[simp] theorem dispatchThrough_lasting (n : Nat) (s : State) : (dispatchThrough n s).lasting = s.lasting := by
  unfold dispatchThrough
  split <;> simp

@[simp] theorem takeArm_lasting (n : Nat) (s : State) : (takeArm n s).lasting = s.lasting := by simp [takeArm]
@[simp] theorem slotTick_lasting (s : State) : (slotTick s).lasting = s.lasting := by simp [slotTick]
@[simp] theorem judgeAllClocks_lasting (s : State) :
    (judgeAllClocks s).lasting = s.lasting := by simp [judgeAllClocks]
@[simp] theorem slewTick_lasting (s : State) : (slewTick s).lasting = s.lasting := by simp [slewTick]
@[simp] theorem disarmSlot_lasting (n : Nat) (s : State) :
    (disarmSlot n s).lasting = s.lasting := by simp [disarmSlot]
@[simp] theorem writeSchCtrl_lasting (n : Nat) (v : Word) (be : BitVec 4) (s : State) :
    (writeSchCtrl n v be s).lasting = s.lasting := by simp [writeSchCtrl]
@[simp] theorem writeSfBits_lasting (mask v : Nat) (s : State) :
    (writeSfBits mask v s).lasting = s.lasting := by simp [writeSfBits]
@[simp] theorem writeSf_lasting (v : Word) (be : BitVec 4) (s : State) :
    (writeSf v be s).lasting = s.lasting := by simp [writeSf]

/-! ### Ridgeline ports -/

@[simp] theorem pumpRecord_lasting : ∀ (n p : Nat) (s : State), (pumpRecord n p s).lasting = s.lasting
  | 0, _, _ => rfl
  | n + 1, p, s => by
    unfold pumpRecord
    dsimp only
    split
    · rfl
    · simp [pumpRecord_lasting n]

@[simp] theorem pumpPort_lasting (p : Nat) (s : State) : (pumpPort p s).lasting = s.lasting := by simp [pumpPort]
@[simp] theorem queueRecord_lasting (p : Nat) (bytes : List Byte) (s : State) :
    (queueRecord p bytes s).lasting = s.lasting := (rfl)

@[simp] theorem forwardOn_lasting (p : Nat) (f : Frame) (s : State) : (forwardOn p f s).lasting = s.lasting := by
  unfold forwardOn
  dsimp only
  repeat' split
  all_goals simp

@[simp] theorem forwardRecord_lasting (f : Frame) (s : State) :
    (forwardRecord f s).lasting = s.lasting := by simp [forwardRecord]

@[simp] theorem emitRet_lasting (type unit pod flags : Nat) (t0 : Nat × Nat) (row : Option Nat) (pods : Nat)
    (body : List Byte) (s : State) : (emitRet type unit pod flags t0 row pods body s).lasting = s.lasting := by
  unfold emitRet
  dsimp only
  split <;> simp

@[simp] theorem dropBounds_lasting (d : FwdDrop) (s : State) : (dropBounds d s).2.lasting = s.lasting := by
  unfold dropBounds
  split <;> simp

@[simp] theorem endDrop_lasting (p : Nat) (s : State) : (endDrop p s).lasting = s.lasting := by
  unfold endDrop
  dsimp only
  split <;> simp

@[simp] theorem grantCredit_lasting (p : Nat) (force : Bool) (s : State) :
    (grantCredit p force s).lasting = s.lasting := by simp [grantCredit]
@[simp] theorem grantAll_lasting (s : State) : (grantAll s).lasting = s.lasting := by simp [grantAll]
@[simp] theorem resendRecord_lasting (p : Nat) (s : State) : (resendRecord p s).lasting = s.lasting := (rfl)
@[simp] theorem takeForwarded_lasting (p : Nat) (bs : List Byte) (s : State) :
    (takeForwarded p bs s).lasting = s.lasting := by simp [takeForwarded]
@[simp] theorem judgeGood_lasting (p : Nat) (s : State) : (judgeGood p s).lasting = s.lasting := (rfl)
@[simp] theorem servo_lasting (p rate : Nat) (s : State) : (servo p rate s).lasting = s.lasting := by simp [servo]

/-! ### Ridgeline chains -/

@[simp] theorem applyFire_lasting (p origin : Nat) (b : List Byte) (s : State) :
    (applyFire p origin b s).lasting = s.lasting := by simp [applyFire]
@[simp] theorem actTimed_lasting (action arg t : Nat) (late : Bool) (s : State) :
    (actTimed action arg t late s).lasting = s.lasting := by simp [actTimed]
@[simp] theorem timedPast_lasting (e : Timed) (s : State) : (timedPast e s).lasting = s.lasting := by simp [timedPast]
@[simp] theorem applyTimed_lasting (e : Timed) (s : State) :
    (applyTimed e s).lasting = s.lasting := by simp [applyTimed]
@[simp] theorem missTimed_lasting (p : Nat) (s : State) : (missTimed p s).lasting = s.lasting := by simp [missTimed]
@[simp] theorem timedCmd_lasting (q : List Byte) (s : State) :
    (timedCmd q s).1.lasting = s.lasting := by simp [timedCmd]
@[simp] theorem startTunnelled_lasting (port : Nat) (t : TunnelIn) (req : List Byte) (s : State) :
    (startTunnelled port t req s).lasting = s.lasting := by simp [startTunnelled]
@[simp] theorem tunnelCmd_lasting (m : Nat) (q : List Byte) (s : State) :
    (tunnelCmd m q s).1.lasting = s.lasting := by simp [tunnelCmd]
@[simp] theorem setAddress_lasting (a : Nat) (s : State) :
    (setAddress a s).lasting = s.lasting := by simp [setAddress]
@[simp] theorem noteSession_lasting (n : Nat) (s : State) :
    (noteSession n s).lasting = s.lasting := by simp [noteSession]
@[simp] theorem rxDisc_lasting (p type : Nat) (key : List Byte) (f : List Byte) (act : State → State) (s : State)
    (hact : ∀ x, (act x).lasting = x.lasting) :
    (rxDisc p type key f act s).lasting = s.lasting := by simp [rxDisc, hact]
@[simp] theorem noteReply_lasting (f : List Byte) (s : State) : (noteReply f s).lasting = s.lasting := (rfl)
@[simp] theorem assignUnit_lasting (session : Nat) (s : State) (u : RlUnit) :
    (assignUnit session s u).lasting = s.lasting := by simp [assignUnit]

@[simp] theorem endSession_lasting (r : RlSession) (s : State) : (endSession r s).lasting = s.lasting := by
  unfold endSession
  split <;> simp

@[simp] theorem discoverCmd_lasting (m : Nat) (q : List Byte) (s : State) :
    (discoverCmd m q s).1.lasting = s.lasting := by simp [discoverCmd]
@[simp] theorem setPort_lasting (p fl mask : Nat) (asym : Int) (s : State) :
    (setPort p fl mask asym s).lasting = s.lasting := by simp [setPort]
@[simp] theorem portCfgCmd_lasting (q : List Byte) (s : State) :
    (portCfgCmd q s).1.lasting = s.lasting := by simp [portCfgCmd]

/-! ### Clocks -/

@[simp] theorem openSuspect_lasting (reason : Nat) (s : State) :
    (openSuspect reason s).lasting = s.lasting := by simp [openSuspect]

@[simp] theorem closeSuspect_lasting (s : State) : (closeSuspect s).lasting = s.lasting := by
  unfold closeSuspect
  split <;> simp

@[simp] theorem startRealign_lasting (s : State) : (startRealign s).lasting = s.lasting := by simp [startRealign]
@[simp] theorem realignBoundary_lasting (s : State) :
    (realignBoundary s).lasting = s.lasting := by simp [realignBoundary]
@[simp] theorem clearRealign_lasting (s : State) : (clearRealign s).lasting = s.lasting := (rfl)
@[simp] theorem phaseCairn_lasting (pll : Nat) (step pbo : Int) (s : State) :
    (phaseCairn pll step pbo s).lasting = s.lasting := by simp [phaseCairn]
@[simp] theorem absorbS_lasting (d : Int) (s : State) : (absorbS d s).lasting = s.lasting := by simp [absorbS]
@[simp] theorem absorbL_lasting (d : Int) (s : State) : (absorbL d s).lasting = s.lasting := by simp [absorbL]
@[simp] theorem countStep_lasting (s : State) : (countStep s).lasting = s.lasting := by simp [countStep]
@[simp] theorem lockS_lasting (s : State) : (lockS s).lasting = s.lasting := by simp [lockS]
@[simp] theorem lockL_lasting (s : State) : (lockL s).lasting = s.lasting := by simp [lockL]
@[simp] theorem unlockL_lasting (s : State) : (unlockL s).lasting = s.lasting := by simp [unlockL]
@[simp] theorem readDcoS_lasting (ppb : Int) (s : State) : (readDcoS ppb s).lasting = s.lasting := by simp [readDcoS]

@[simp] theorem closeAtLastBlock_lasting (s : State) : (closeAtLastBlock s).lasting = s.lasting := by
  unfold closeAtLastBlock
  repeat' split
  all_goals simp

@[simp] theorem switchRef_lasting (s : State) : (switchRef s).lasting = s.lasting := by simp [switchRef]
@[simp] theorem pllCmd_lasting (key : Nat) (q : List Byte) (s : State) :
    (pllCmd key q s).1.lasting = s.lasting := by simp [pllCmd]

/-! ### The endpoint -/

@[simp] theorem sendLtr_lasting (s : State) : (sendLtr s).lasting = s.lasting := by simp [sendLtr]

@[simp] theorem refuseInbound_lasting (off : Nat) (acc : MemAccess) (s : State) :
    (refuseInbound off acc s).lasting = s.lasting := by
  unfold refuseInbound
  split <;> simp

@[simp] theorem scratchStore_lasting (o : Nat) (bs : List (Option Byte)) (s : State) :
    (scratchStore o bs s).lasting = s.lasting := by simp [scratchStore]

@[simp] theorem inbound_lasting (off : Nat) (acc : MemAccess) (ok : Bool) (data : Nat → Nat → State → List Byte)
    (store : Nat → List (Option Byte) → State → State) (s : State)
    (hstore : ∀ a b x, (store a b x).lasting = x.lasting) :
    (inbound off acc ok data store s).lasting = s.lasting := by
  unfold inbound
  cases acc <;> simp [hstore]

@[simp] theorem cwStore_lasting (k : Nat) :
    ∀ (bs : List (Option Byte)) (o : Nat) (s : State), (cwStore k o bs s).lasting = s.lasting
  | [], _, _ => rfl
  | b :: bs, o, s => by simp [cwStore, cwStore_lasting k bs]

@[simp] theorem writePwCommit_lasting (v : Word) (be : BitVec 4) (s : State) :
    (writePwCommit v be s).lasting = s.lasting := by simp [writePwCommit]

/-! ### The controller -/

@[simp] theorem latchKey_lasting (m cls : Nat) (s : State) :
    (latchKey m cls s).lasting = s.lasting := by simp [latchKey]
@[simp] theorem writeMbCmd_lasting (m : Nat) (v : Word) (be : BitVec 4) (s : State) :
    (writeMbCmd m v be s).lasting = s.lasting := by simp [writeMbCmd]

@[simp] theorem ring_lasting (m : Nat) (s : State) : (ring m s).lasting = s.lasting := by
  unfold ring
  dsimp only
  repeat' split
  all_goals simp

@[simp] theorem writeDoorbell_lasting (m : Nat) (v : Word) (be : BitVec 4) (s : State) :
    (writeDoorbell m v be s).lasting = s.lasting := by simp [writeDoorbell]
@[simp] theorem writeCwCfg_lasting (k : Nat) (v : Word) (be : BitVec 4) (s : State) :
    (writeCwCfg k v be s).lasting = s.lasting := by simp [writeCwCfg]
@[simp] theorem writeCwProd_lasting (k : Nat) (v : Word) (be : BitVec 4) (s : State) :
    (writeCwProd k v be s).lasting = s.lasting := by simp [writeCwProd]
@[simp] theorem produceMore_lasting (k : Nat) (s : State) :
    (produceMore k s).lasting = s.lasting := by simp [produceMore]
@[simp] theorem writeCwCons_lasting (k : Nat) (v : Word) (be : BitVec 4) (s : State) :
    (writeCwCons k v be s).lasting = s.lasting := by simp [writeCwCons]
@[simp] theorem scanPods_lasting (s : State) : (scanPods s).lasting = s.lasting := by simp [scanPods]
@[simp] theorem startFirmware_lasting (s : State) : (startFirmware s).lasting = s.lasting := by simp [startFirmware]
@[simp] theorem setSlot_lasting (n : Nat) (x : Slot) (s : State) : (setSlot n x s).lasting = s.lasting := (rfl)
@[simp] theorem bootSlot_lasting (n : Nat) (i : SlotImage) (s : State) :
    (bootSlot n i s).lasting = s.lasting := by simp [bootSlot]
@[simp] theorem runSlot_lasting (n : Nat) (s : State) : (runSlot n s).lasting = s.lasting := (rfl)
@[simp] theorem nopCmd_lasting (q : List Byte) (s : State) : (nopCmd q s).1.lasting = s.lasting := by simp [nopCmd]
@[simp] theorem eraseSlotA_lasting (s : State) : (eraseSlotA s).lasting = s.lasting := (rfl)
@[simp] theorem fwStageCmd_lasting (m : Nat) (q : List Byte) (s : State) :
    (fwStageCmd m q s).1.lasting = s.lasting := by simp [fwStageCmd]
@[simp] theorem endFw_lasting (s : State) : (endFw s).lasting = s.lasting := (rfl)
@[simp] theorem fwCommitCmd_lasting (m : Nat) (q : List Byte) (s : State) :
    (fwCommitCmd m q s).1.lasting = s.lasting := by simp [fwCommitCmd]
@[simp] theorem fwInfoCmd_lasting (q : List Byte) (s : State) :
    (fwInfoCmd q s).1.lasting = s.lasting := by simp [fwInfoCmd]

/-! ### Traverse commands -/

@[simp] theorem modStaged_lasting (f : Image → Image) (s : State) : (modStaged f s).lasting = s.lasting := (rfl)
@[simp] theorem fabCmd_lasting (q : List Byte) (s : State) : (fabCmd q s).1.lasting = s.lasting := by simp [fabCmd]
@[simp] theorem setBuffer_lasting (j : Nat) (b : Option Program) (s : State) :
    (setBuffer j b s).lasting = s.lasting := (rfl)
@[simp] theorem closeLoad_lasting (j : Nat) (p : Program) (s : State) :
    (closeLoad j p s).1.lasting = s.lasting := by simp [closeLoad]

@[simp] theorem loadCmd_lasting (q : List Byte) (s : State) : (loadCmd q s).1.lasting = s.lasting := by
  unfold loadCmd
  dsimp only
  repeat' split
  all_goals simp

@[simp] theorem chainDrop_lasting (m : Nat) (s : State) : (chainDrop m s).lasting = s.lasting := by simp [chainDrop]
@[simp] theorem chainMaster_lasting (m sec ns policy : Nat) (s : State) :
    (chainMaster m sec ns policy s).lasting = s.lasting := by simp [chainMaster]

@[simp] theorem armCmd_lasting (mb : Nat) (q : List Byte) (s : State) : (armCmd mb q s).1.lasting = s.lasting := by
  unfold armCmd
  dsimp only
  repeat' split
  all_goals simp

@[simp] theorem disarmCmd_lasting (mb : Nat) (q : List Byte) (s : State) :
    (disarmCmd mb q s).1.lasting = s.lasting := by simp [disarmCmd]
@[simp] theorem outCfgCmd_lasting (q : List Byte) (s : State) :
    (outCfgCmd q s).1.lasting = s.lasting := by simp [outCfgCmd]

/-! ### Insertion, supply and removal of pods -/

@[simp] theorem activatePod_lasting (p : Nat) (s : State) :
    (activatePod p s).lasting = s.lasting := by simp [activatePod]
@[simp] theorem enterCapture_lasting (p row : Nat) (s : State) :
    (enterCapture p row s).lasting = s.lasting := by simp [enterCapture]
@[simp] theorem joinAt_lasting (p row : Nat) (s : State) : (joinAt p row s).lasting = s.lasting := by simp [joinAt]

@[simp] theorem joinPod_lasting (p : Nat) (s : State) : (joinPod p s).lasting = s.lasting := by
  unfold joinPod
  repeat' split
  all_goals simp

@[simp] theorem reachJoining_lasting (p : Nat) (s : State) :
    (reachJoining p s).lasting = s.lasting := by simp [reachJoining]
@[simp] theorem setSupply_lasting (p : Nat) (s : State) : (setSupply p s).lasting = s.lasting := by simp [setSupply]
@[simp] theorem startSupply_lasting (p : Nat) (s : State) :
    (startSupply p s).lasting = s.lasting := by simp [startSupply]
@[simp] theorem identify_lasting (p : Nat) (s : State) : (identify p s).lasting = s.lasting := by simp [identify]
@[simp] theorem rejectPod_lasting (p reason : Nat) (s : State) :
    (rejectPod p reason s).lasting = s.lasting := by simp [rejectPod]
@[simp] theorem supplyFault_lasting (p : Nat) (s : State) :
    (supplyFault p s).lasting = s.lasting := by simp [supplyFault]
@[simp] theorem supplyOvervolt_lasting (p : Nat) (s : State) :
    (supplyOvervolt p s).lasting = s.lasting := by simp [supplyOvervolt]
@[simp] theorem emptyPort_lasting (p : Nat) (s : State) : (emptyPort p s).lasting = s.lasting := by simp [emptyPort]
@[simp] theorem powerOn_lasting (m p : Nat) (s : State) : (powerOn m p s).lasting = s.lasting := by simp [powerOn]
@[simp] theorem powerOffNow_lasting (p : Nat) (s : State) :
    (powerOffNow p s).lasting = s.lasting := by simp [powerOffNow]
@[simp] theorem applyOffs_lasting (s : State) : (applyOffs s).lasting = s.lasting := by simp [applyOffs]
@[simp] theorem powerOff_lasting (p : Nat) (s : State) : (powerOff p s).lasting = s.lasting := by simp [powerOff]
@[simp] theorem podPowerCmd_lasting (m : Nat) (q : List Byte) (s : State) :
    (podPowerCmd m q s).1.lasting = s.lasting := by simp [podPowerCmd]

@[simp] theorem podInfoCmd_lasting (reread : Option (List Byte)) (q : List Byte) (s : State) :
    (podInfoCmd reread q s).1.lasting = s.lasting := by
  unfold podInfoCmd
  split <;> simp

@[simp] theorem telemGood_lasting (p : Nat) (t : BitVec 16) (s : State) :
    (telemGood p t s).lasting = s.lasting := by simp [telemGood]
@[simp] theorem telemBad_lasting (p : Nat) (s : State) : (telemBad p s).lasting = s.lasting := by simp [telemBad]
@[simp] theorem keyArm_lasting (k : Nat) (s : State) : (keyArm k s).lasting = s.lasting := by simp [keyArm]

@[simp] theorem keyAct_lasting (k : Nat) (s : State) : (keyAct k s).lasting = s.lasting := by
  unfold keyAct
  split <;> simp

/-! ### Calibration -/

@[simp] theorem modCal_lasting (p : Nat) (f : Cal → Cal) (s : State) : (modCal p f s).lasting = s.lasting := (rfl)
@[simp] theorem calCairn_lasting (p kind input : Nat) (r : Option Int) (s : State) :
    (calCairn p kind input r s).lasting = s.lasting := by simp [calCairn]
@[simp] theorem endRotation_lasting (p : Nat) (s : State) :
    (endRotation p s).lasting = s.lasting := by simp [endRotation]
@[simp] theorem nextInput_lasting (p k : Nat) (s : State) :
    (nextInput p k s).lasting = s.lasting := by simp [nextInput]
@[simp] theorem abortSwap_lasting (p k : Nat) (r : Option Int) (s : State) :
    (abortSwap p k r s).lasting = s.lasting := by simp [abortSwap]

@[simp] theorem foldResid_lasting (p : Nat) (r : Int) (s : State) : (foldResid p r s).lasting = s.lasting := by
  unfold foldResid
  split <;> simp

@[simp] theorem noSpare_lasting (p : Nat) (s : State) : (noSpare p s).lasting = s.lasting := by simp [noSpare]
@[simp] theorem failPair_lasting (p pair : Nat) (s : State) :
    (failPair p pair s).lasting = s.lasting := by simp [failPair]
@[simp] theorem calRunCmd_lasting (q : List Byte) (s : State) :
    (calRunCmd q s).1.lasting = s.lasting := by simp [calRunCmd]
@[simp] theorem calStatusCmd_lasting (q : List Byte) (s : State) :
    (calStatusCmd q s).1.lasting = s.lasting := by simp [calStatusCmd]

/-! ### Channels -/

@[simp] theorem chWrite_lasting (n r : Nat) (f : Word → Word) (s : State) :
    (chWrite n r f s).lasting = s.lasting := by simp [chWrite]
@[simp] theorem aliasWrite_lasting (a : Alias) (off : Nat) (f : Word → Word) (s : State) :
    (aliasWrite a off f s).lasting = s.lasting := by simp [aliasWrite]

@[simp] theorem aliasRead_lasting (a : Alias) (off : Nat) (s : State) :
    (aliasRead a off s).2.lasting = s.lasting := by
  unfold aliasRead
  split <;> simp

@[simp] theorem chanWrite_lasting (off : Nat) (f : Word → Word) (s : State) :
    (chanWrite off f s).lasting = s.lasting := by
  unfold chanWrite
  repeat' split
  all_goals simp

/-! ### The ring -/

@[simp] theorem endEpisode_lasting (e : Option Episode) (s : State) : (endEpisode e s).lasting = s.lasting := by
  unfold endEpisode
  split <;> simp

@[simp] theorem startEpisode_lasting (cause : Nat) (s : State) :
    (startEpisode cause s).lasting = s.lasting := by simp [startEpisode]
@[simp] theorem setEpisode_lasting (cause : Nat) (e : Option Episode) (s : State) :
    (setEpisode cause e s).lasting = s.lasting := by simp [setEpisode]
@[simp] theorem countLost_lasting (cause row pods : Nat) (s : State) :
    (countLost cause row pods s).lasting = s.lasting := by simp [countLost]

@[simp] theorem loseRow_lasting (cause row pods : Nat) (s : State) :
    (loseRow cause row pods s).lasting = s.lasting := by
  unfold loseRow
  dsimp only
  split <;> simp

@[simp] theorem stageRow_lasting (x : RowDesc × List Byte) (s : State) :
    (stageRow x s).lasting = s.lasting := by simp [stageRow]
@[simp] theorem encodeView_lasting (s : State) : (encodeView s).lasting = s.lasting := by simp [encodeView]
@[simp] theorem encodeRow_lasting (s : State) : (encodeRow s).lasting = s.lasting := by simp [encodeRow]
@[simp] theorem passX_lasting (s : State) : (passX s).lasting = s.lasting := by simp [passX]
@[simp] theorem skipRows_lasting (n : Nat) (s : State) : (skipRows n s).lasting = s.lasting := by simp [skipRows]
@[simp] theorem placeRow_lasting (d : RowDesc) (bytes : List Byte) (s : State) :
    (placeRow d bytes s).lasting = s.lasting := by simp [placeRow]
@[simp] theorem writeRow_lasting (d : RowDesc) (bytes : List Byte) (s : State) :
    (writeRow d bytes s).lasting = s.lasting := by simp [writeRow]
@[simp] theorem correctedLine_lasting (s : State) (l : Nat) :
    (correctedLine s l).lasting = s.lasting := by simp [correctedLine]

@[simp] theorem badLine_lasting (s : State) (l : Nat) : (badLine s l).lasting = s.lasting := by
  unfold badLine
  dsimp only
  split <;> simp

@[simp] theorem readLines_lasting (ls fixed bad : List Nat) (s : State) :
    (readLines ls fixed bad s).lasting = s.lasting := by simp [readLines]
@[simp] theorem salvage_lasting (d : RowDesc) (bad : List Nat) (set : Nat) (gaps : Bool) (s : State) :
    (salvage d bad set gaps s).2.lasting = s.lasting := by simp [salvage]
@[simp] theorem readRow_lasting (d : RowDesc) (errs : List (Nat × EccErr)) (s : State) :
    (readRow d errs s).lasting = s.lasting := by simp [readRow]

@[simp] theorem highWord_lasting (off : Nat) (v : Word64) (s : State) : (highWord off v s).2.lasting = s.lasting := by
  unfold highWord
  split <;> simp

@[simp] theorem readRingTag_lasting (wide : Bool) (s : State) :
    (readRingTag wide s).lasting = s.lasting := by simp [readRingTag]
@[simp] theorem ringCfgCmd_lasting (q : List Byte) (s : State) :
    (ringCfgCmd q s).1.lasting = s.lasting := by simp [ringCfgCmd]

/-! ### Retention -/

@[simp] theorem modCur_lasting (f : EpochRec → EpochRec) (s : State) : (modCur f s).lasting = s.lasting := (rfl)
@[simp] theorem emitGap_lasting (s : State) (g : Gap) : (emitGap s g).lasting = s.lasting := by simp [emitGap]
@[simp] theorem gapsOut_lasting (pick last : Gap → Bool) (s : State) :
    (gapsOut pick last s).lasting = s.lasting := by simp [gapsOut]
@[simp] theorem emitCairn_lasting (late prior : Bool) (c : Cairn) (s : State) :
    (emitCairn late prior c s).lasting = s.lasting := by simp [emitCairn]
@[simp] theorem cairnsOut_lasting (r : Nat) (s : State) : (cairnsOut r s).lasting = s.lasting := by simp [cairnsOut]
@[simp] theorem gapCairns_lasting (b e : Nat) (s : State) :
    (gapCairns b e s).lasting = s.lasting := by simp [gapCairns]
@[simp] theorem emitLog_lasting (s : State) : (emitLog s).lasting = s.lasting := by simp [emitLog]

@[simp] theorem logFrames_lasting (all : Bool) : ∀ (n : Nat) (s : State), (logFrames all n s).lasting = s.lasting
  | 0, _ => rfl
  | n + 1, s => by simp [logFrames, logFrames_lasting all n]

@[simp] theorem windowCairn_lasting (r set cls : Nat) (tr : Nat × Int) (s : State) :
    (windowCairn r set cls tr s).lasting = s.lasting := by simp [windowCairn]

@[simp] theorem closeRun_lasting (s : State) : (closeRun s).lasting = s.lasting := by
  unfold closeRun
  split <;> simp

@[simp] theorem judgeLost_lasting (r : Nat) (s : State) : (judgeLost r s).lasting = s.lasting := by
  unfold judgeLost
  dsimp only
  repeat' split
  all_goals simp

@[simp] theorem endBefore_lasting (cause r : Nat) (s : State) : (endBefore cause r s).lasting = s.lasting := by
  unfold endBefore
  split <;> simp

@[simp] theorem emitBlock_lasting (cls : Nat → Nat) (d : RowDesc) (bytes : List Byte) (s : State) (b : BlockDesc) :
    (emitBlock cls d bytes s b).lasting = s.lasting := by simp [emitBlock]

@[simp] theorem emitWindowed_lasting (d : RowDesc) (s : State) : (emitWindowed d s).lasting = s.lasting := by
  unfold emitWindowed
  dsimp only
  repeat' split
  all_goals simp

@[simp] theorem emitBlocks_lasting (policy r : Nat) (s : State) : (emitBlocks policy r s).lasting = s.lasting := by
  unfold emitBlocks
  repeat' split
  all_goals simp

@[simp] theorem emitSummary_lasting (stop : Nat) (short : Bool) (s : State) :
    (emitSummary stop short s).lasting = s.lasting := by
  unfold emitSummary
  split <;> simp

@[simp] theorem countFires_lasting (r : Nat) (s : State) : (countFires r s).lasting = s.lasting := (rfl)

@[simp] theorem summaryRow_lasting (r : Nat) (s : State) : (summaryRow r s).lasting = s.lasting := by
  unfold summaryRow
  dsimp only
  split <;> simp

@[simp] theorem readAgain_lasting (d : RowDesc) (errs : List (Nat × EccErr)) (s : State) :
    (readAgain d errs s).lasting = s.lasting := by simp [readAgain]

@[simp] theorem windowStep_lasting (r : Nat) (s : State) : (windowStep r s).lasting = s.lasting := by
  unfold windowStep
  split <;> simp

@[simp] theorem emitRow_lasting (r policy : Nat) (s : State) :
    (emitRow r policy s).lasting = s.lasting := by simp [emitRow]
@[simp] theorem startInput_lasting (row n : Nat) (s : State) :
    (startInput row n s).lasting = s.lasting := by simp [startInput]
@[simp] theorem clipFirst_lasting (row : Nat) (s : State) :
    (clipFirst row s).lasting = s.lasting := by simp [clipFirst]
@[simp] theorem startIntake_lasting (row : Nat) (s : State) :
    (startIntake row s).lasting = s.lasting := by simp [startIntake]

@[simp] theorem encodeUpTo_lasting : ∀ (n row : Nat) (s : State), (encodeUpTo n row s).lasting = s.lasting
  | 0, _, _ => rfl
  | n + 1, row, s => by simp [encodeUpTo, encodeUpTo_lasting n]

@[simp] theorem writeStaged_lasting : ∀ (n : Nat) (s : State), (writeStaged n s).lasting = s.lasting
  | 0, _ => rfl
  | n + 1, s => by
    unfold writeStaged
    split <;> simp [writeStaged_lasting n]

@[simp] theorem boundaryPod_lasting (row p : Nat) (s : State) : (boundaryPod row p s).lasting = s.lasting := by
  unfold boundaryPod
  split <;> simp

@[simp] theorem atBoundary_lasting (b : Boundary) (s : State) :
    (atBoundary b s).lasting = s.lasting := by simp [atBoundary]

@[simp] theorem cutEpisode_lasting (cause r : Nat) (s : State) : (cutEpisode cause r s).lasting = s.lasting := by
  unfold cutEpisode
  split <;> simp

@[simp] theorem enterIdle_lasting (s : State) : (enterIdle s).lasting = s.lasting := by simp [enterIdle]
@[simp] theorem openEndGap_lasting (e : EpochRec) (s : State) :
    (openEndGap e s).lasting = s.lasting := by simp [openEndGap]
@[simp] theorem idleOnceEmpty_lasting (s : State) : (idleOnceEmpty s).lasting = s.lasting := by simp [idleOnceEmpty]
@[simp] theorem closeEpoch_lasting (b : Boundary) (e : EpochRec) (s : State) :
    (closeEpoch b e s).lasting = s.lasting := by simp [closeEpoch]
@[simp] theorem openEpoch_lasting (row tb g : Nat) (x : Nat × Nat × List Byte) (s : State) :
    (openEpoch row tb g x s).lasting = s.lasting := by simp [openEpoch]
@[simp] theorem intakeGaps_lasting (b : Boundary) (row pods : Nat) (s : State) :
    (intakeGaps b row pods s).lasting = s.lasting := by simp [intakeGaps]

@[simp] theorem actHeld_lasting (s : State) : (actHeld s).lasting = s.lasting := by
  unfold actHeld
  dsimp only
  repeat' split
  all_goals simp

@[simp] theorem epochOpened_lasting (s : State) : (epochOpened s).lasting = s.lasting := by simp [epochOpened]
@[simp] theorem crcRefused_lasting (s : State) : (crcRefused s).1.lasting = s.lasting := by simp [crcRefused]

@[simp] theorem epochCommitCmd_lasting (q : List Byte) (s : State) : (epochCommitCmd q s).1.lasting = s.lasting := by
  unfold epochCommitCmd
  dsimp only
  repeat' split
  all_goals simp

@[simp] theorem startAcq_lasting (row : Nat) (s : State) : (startAcq row s).lasting = s.lasting := by simp [startAcq]
@[simp] theorem acqStartCmd_lasting (q : List Byte) (s : State) :
    (acqStartCmd q s).1.lasting = s.lasting := by simp [acqStartCmd]

@[simp] theorem acqStopCmd_lasting (q : List Byte) (s : State) : (acqStopCmd q s).1.lasting = s.lasting := by
  unfold acqStopCmd
  repeat' split
  all_goals simp

@[simp] theorem retainSetCmd_lasting (q : List Byte) (s : State) :
    (retainSetCmd q s).1.lasting = s.lasting := by simp [retainSetCmd]
@[simp] theorem markCmd_lasting (q : List Byte) (s : State) : (markCmd q s).1.lasting = s.lasting := by simp [markCmd]

/-! ### Compression and the queue -/

@[simp] theorem packFrame_lasting (f : Frame) (x : Extent) (s : State) :
    (packFrame f x s).lasting = s.lasting := by simp [packFrame]

@[simp] theorem closeBefore_lasting (n : Nat) (x : Extent) (s : State) : (closeBefore n x s).lasting = s.lasting := by
  unfold closeBefore
  split <;> simp

@[simp] theorem takeFrame_lasting (f : Frame) (x : Extent) (s : State) :
    (takeFrame f x s).lasting = s.lasting := by simp [takeFrame]
@[simp] theorem withdraw_lasting (i : Nat) (d : Stored) (s : State) :
    (withdraw i d s).lasting = s.lasting := by simp [withdraw]
@[simp] theorem laneStored_lasting (i : Nat) (d : Stored) (bad : Bool) (s : State) :
    (laneStored i d bad s).lasting = s.lasting := by simp [laneStored]
@[simp] theorem verifyFail_lasting (i : Nat) (raw : List Byte) (s : State) :
    (verifyFail i raw s).lasting = s.lasting := by simp [verifyFail]
@[simp] theorem storeBlock_lasting (i : Nat) (b : Block) (packed : List Byte) (s : State) :
    (storeBlock i b packed s).lasting = s.lasting := by simp [storeBlock]
@[simp] theorem riseStall_lasting (s : State) : (riseStall s).lasting = s.lasting := by simp [riseStall]
@[simp] theorem closePacket_lasting (b : Block) (d : Stored) (s : State) :
    (closePacket b d s).lasting = s.lasting := by simp [closePacket]
@[simp] theorem modDrive_lasting (d : Nat) (f : Drive → Drive) (s : State) :
    (modDrive d f s).lasting = s.lasting := (rfl)
@[simp] theorem submit_lasting (d : Nat) (c : DriveCmd) (entry : Nat → List Byte) (s : State) :
    (submit d c entry s).lasting = s.lasting := (rfl)
@[simp] theorem submitWrite_lasting (d : Nat) (x : Extent) (lo hi : Nat) (s : State) :
    (submitWrite d x lo hi s).2.lasting = s.lasting := by simp [submitWrite]
@[simp] theorem issueFlushes_lasting (s : State) : (issueFlushes s).lasting = s.lasting := by simp [issueFlushes]
@[simp] theorem swapBanks_lasting (s : State) : (swapBanks s).lasting = s.lasting := by simp [swapBanks]

@[simp] theorem postWrites_lasting :
    ∀ (n a : Nat) (bs : List Byte) (s : State), (postWrites n a bs s).lasting = s.lasting
  | 0, _, _, _ => rfl
  | n + 1, a, bs, s => by simp [postWrites, postWrites_lasting n]

@[simp] theorem popTo_lasting (rd : Nat) (s : State) : (popTo rd s).lasting = s.lasting := by simp [popTo]
@[simp] theorem windowChunk_lasting (x : Extent) (ps : List Packet) (s : State) :
    (windowChunk x ps s).lasting = s.lasting := by simp [windowChunk]

@[simp] theorem driveChunk_lasting (x : Extent) (s : State) : (driveChunk x s).lasting = s.lasting := by
  unfold driveChunk
  dsimp only
  split <;> simp

@[simp] theorem nextChunk_lasting (s : State) : (nextChunk s).lasting = s.lasting := by
  unfold nextChunk
  split <;> simp

@[simp] theorem dropTag_lasting (tag : Nat) (s : State) : (dropTag tag s).lasting = s.lasting := (rfl)
@[simp] theorem rewindFor_lasting (tag : Nat) (s : State) :
    (rewindFor tag s).lasting = s.lasting := by simp [rewindFor]
@[simp] theorem meetChunk_lasting (p : Chunk → Bool) (s : State) :
    (meetChunk p s).lasting = s.lasting := by simp [meetChunk]
@[simp] theorem badFlush_lasting (tag addr : Nat) (poisoned : Bool) (s : State) :
    (badFlush tag addr poisoned s).lasting = s.lasting := by simp [badFlush]
@[simp] theorem flushTimeout_lasting (tag addr : Nat) (s : State) :
    (flushTimeout tag addr s).lasting = s.lasting := by simp [flushTimeout]

@[simp] theorem freeBytes_lasting : ∀ (n : Nat) (s : State), (freeBytes n s).2.lasting = s.lasting
  | 0, _ => rfl
  | n + 1, s => by simp [freeBytes, freeBytes_lasting n]

@[simp] theorem resetExtents_lasting (p : Nat → Bool) (s : State) : (resetExtents p s).lasting = s.lasting := by
  unfold resetExtents
  dsimp only
  split <;> simp

@[simp] theorem displaceBlocks_lasting (s : State) : (displaceBlocks s).lasting = s.lasting := (rfl)
@[simp] theorem withoutBlock_lasting (n : Nat) (s : State) : (withoutBlock n s).lasting = s.lasting := (rfl)

@[simp] theorem dropOpen_lasting (s : State) : (dropOpen s).2.lasting = s.lasting := by
  unfold dropOpen
  split <;> simp

@[simp] theorem boundaryLost_lasting (ps : List Packet) (s : State) :
    (boundaryLost ps s).lasting = s.lasting := by simp [boundaryLost]
@[simp] theorem forceReset_lasting (extra : List Packet) (s : State) :
    (forceReset extra s).lasting = s.lasting := by simp [forceReset]
@[simp] theorem comparePointers_lasting (s : State) :
    (comparePointers s).lasting = s.lasting := by simp [comparePointers]
@[simp] theorem resetGap_lasting (l : Option (Nat × Nat) × Option (Nat × Nat) × Nat) (s : State) :
    (resetGap l s).lasting = s.lasting := by simp [resetGap]
@[simp] theorem setPause_lasting (on : Bool) (s : State) : (setPause on s).lasting = s.lasting := by simp [setPause]
@[simp] theorem expCfgCmd_lasting (q : List Byte) (s : State) :
    (expCfgCmd q s).1.lasting = s.lasting := by simp [expCfgCmd]
@[simp] theorem pullBad_lasting (s : State) : (pullBad s).lasting = s.lasting := by simp [pullBad]
@[simp] theorem writePullRelease_lasting (v : Word) (be : BitVec 4) (s : State) :
    (writePullRelease v be s).lasting = s.lasting := by simp [writePullRelease]
@[simp] theorem durableAck_lasting (v : Word64) (s : State) :
    (durableAck v s).lasting = s.lasting := by simp [durableAck]
@[simp] theorem writeDurableAck_lasting (v : Word64) (be : BitVec 8) (s : State) :
    (writeDurableAck v be s).lasting = s.lasting := by simp [writeDurableAck]

@[simp] theorem handPad_lasting (x : Extent) (l : LastFrame) (s : State) : (handPad x l s).lasting = s.lasting := by
  unfold handPad
  split <;> simp

@[simp] theorem closeAhead_lasting (s : State) : (closeAhead s).lasting = s.lasting := by simp [closeAhead]

/-! ### The record store -/

@[simp] theorem evalStore_lasting (s : State) : (evalStore s).lasting = s.lasting := by
  unfold evalStore
  split <;> simp

@[simp] theorem evalWear_lasting (s : State) : (evalWear s).lasting = s.lasting := by simp [evalWear]
@[simp] theorem showWaits_lasting (w : Waits) (s : State) : (showWaits w s).lasting = s.lasting := by simp [showWaits]

@[simp] theorem headSeqNo_lasting (s : State) : (headSeqNo s).2.lasting = s.lasting := by
  unfold headSeqNo
  split <;> simp

@[simp] theorem headFirst_lasting (h : Block) (keep : List Nat) (n : Nat) (s : State) :
    (headFirst h keep n s).lasting = s.lasting := (rfl)
@[simp] theorem headLast_lasting (h : Block) (s : State) : (headLast h s).lasting = s.lasting := (rfl)
@[simp] theorem openExtent_lasting (f : FormatRec) (p : Place) (fr : Frame) (s : State) :
    (openExtent f p fr s).lasting = s.lasting := by simp [openExtent]
@[simp] theorem slotUncorrectable_lasting (head : Option Nat) (i : Nat) (s : State) :
    (slotUncorrectable head i s).lasting = s.lasting := by simp [slotUncorrectable]
@[simp] theorem restUncorrectable_lasting (part : Nat) (s : State) :
    (restUncorrectable part s).lasting = s.lasting := by simp [restUncorrectable]
@[simp] theorem recoverSeals_lasting (f : FormatRec) (ue : List Nat) (s : State) :
    (recoverSeals f ue s).lasting = s.lasting := by simp [recoverSeals]
@[simp] theorem recordErrors_lasting (ue : List Nat) (s : State) :
    (recordErrors ue s).lasting = s.lasting := by simp [recordErrors]
@[simp] theorem recoverStore_lasting (f : FormatRec) (ue : List Nat) (s : State) :
    (recoverStore f ue s).lasting = s.lasting := by simp [recoverStore]
@[simp] theorem formatNew_lasting (n size : Nat) (s : State) :
    (formatNew n size s).lasting = s.lasting := by simp [formatNew]
@[simp] theorem talusFormatCmd_lasting (q : List Byte) (s : State) :
    (talusFormatCmd q s).1.lasting = s.lasting := by simp [talusFormatCmd]
@[simp] theorem talusWindowCmd_lasting (q : List Byte) (s : State) :
    (talusWindowCmd q s).1.lasting = s.lasting := by simp [talusWindowCmd]
@[simp] theorem startDrive_lasting (d : Nat) (s : State) : (startDrive d s).lasting = s.lasting := (rfl)

@[simp] theorem talusDriveCmd_lasting (q : List Byte) (s : State) : (talusDriveCmd q s).1.lasting = s.lasting := by
  unfold talusDriveCmd
  repeat' split
  all_goals simp

@[simp] theorem driveFails_lasting (d status : Nat) (c : DriveCmd) (s : State) :
    (driveFails d status c s).lasting = s.lasting := by simp [driveFails]

@[simp] theorem driveSucceeds_lasting (d : Nat) (c : DriveCmd) (s : State) :
    (driveSucceeds d c s).lasting = s.lasting := by
  unfold driveSucceeds
  dsimp only
  repeat' split
  all_goals simp

@[simp] theorem consumeCq_lasting (d : Nat) (entry : List Byte) (s : State) :
    (consumeCq d entry s).lasting = s.lasting := by
  unfold consumeCq
  dsimp only
  split <;> simp

@[simp] theorem talusCfgCmd_lasting (q : List Byte) (s : State) :
    (talusCfgCmd q s).1.lasting = s.lasting := by simp [talusCfgCmd]
@[simp] theorem talusMapReadCmd_lasting (q : List Byte) (s : State) :
    (talusMapReadCmd q s).1.lasting = s.lasting := by simp [talusMapReadCmd]
@[simp] theorem setArchived_lasting (be : BitVec 8) (v : Word64) (s : State) :
    (setArchived be v s).lasting = s.lasting := by simp [setArchived]
@[simp] theorem writeArchived_lasting (v : Word64) (be : BitVec 8) (s : State) :
    (writeArchived v be s).lasting = s.lasting := by simp [writeArchived]
@[simp] theorem writeGeometry_lasting (v : Word) (be : BitVec 4) (s : State) :
    (writeGeometry v be s).lasting = s.lasting := by simp [writeGeometry]
@[simp] theorem recBad_lasting (s : State) : (recBad s).lasting = s.lasting := (rfl)

/-! ### Seals -/

@[simp] theorem completeSeals_lasting (ms : List Nat) (r : Reply) (s : State) :
    (completeSeals ms r s).lasting = s.lasting := by simp [completeSeals]
@[simp] theorem startSeal_lasting (d : SealDue) (s : State) :
    (startSeal d s).lasting = s.lasting := by simp [startSeal]
@[simp] theorem freshSig_lasting (context message : List Byte) (s : State) :
    (freshSig context message s).2.lasting = s.lasting := by simp [freshSig]
@[simp] theorem sealDoneRegs_lasting (j : SealJob) (digest : List Byte) (s : State) :
    (sealDoneRegs j digest s).lasting = s.lasting := (rfl)
@[simp] theorem emitSeal_lasting (j : SealJob) (s : State) : (emitSeal j s).lasting = s.lasting := by simp [emitSeal]
@[simp] theorem dropSeal_lasting (j : SealJob) (s : State) : (dropSeal j s).lasting = s.lasting := by simp [dropSeal]

@[simp] theorem startAttest_lasting (s : State) : (startAttest s).lasting = s.lasting := by
  unfold startAttest
  split <;> simp

@[simp] theorem attestCmd_lasting (m : Nat) (q : List Byte) (s : State) :
    (attestCmd m q s).1.lasting = s.lasting := by simp [attestCmd]
@[simp] theorem sendReport_lasting (a : AttestJob) (data : List Byte) (s : State) :
    (sendReport a data s).lasting = s.lasting := by simp [sendReport]
@[simp] theorem finishAttest_lasting (a : AttestJob) (body : List Byte) (s : State) :
    (finishAttest a body s).lasting = s.lasting := by simp [finishAttest]
@[simp] theorem fenceCore_lasting (c : Nat) (s : State) : (fenceCore c s).lasting = s.lasting := by simp [fenceCore]
@[simp] theorem sealCfgCmd_lasting (q : List Byte) (s : State) :
    (sealCfgCmd q s).1.lasting = s.lasting := by simp [sealCfgCmd]

@[simp] theorem sealNowCmd_lasting (m : Nat) (q : List Byte) (s : State) :
    (sealNowCmd m q s).1.lasting = s.lasting := by
  unfold sealNowCmd
  repeat' split
  all_goals simp

@[simp] theorem identityCmd_lasting (m : Nat) (q : List Byte) (s : State) :
    (identityCmd m q s).1.lasting = s.lasting := by simp [identityCmd]

/-! ### Memory integrity -/

@[simp] theorem healWord_lasting (m w : Nat) (s : State) : (healWord m w s).lasting = s.lasting := (rfl)
@[simp] theorem correctWord_lasting (m w : Nat) (s : State) :
    (correctWord m w s).lasting = s.lasting := by simp [correctWord]

@[simp] theorem loseLaneBlock_lasting (i : Nat) (s : State) : (loseLaneBlock i s).lasting = s.lasting := by
  unfold loseLaneBlock
  repeat' split
  all_goals simp

@[simp] theorem loseStaged_lasting (i : Nat) (s : State) : (loseStaged i s).lasting = s.lasting := by
  unfold loseStaged
  split <;> simp

@[simp] theorem loseInput_lasting (i word : Nat) (s : State) : (loseInput i word s).lasting = s.lasting := by
  unfold loseInput
  split <;> simp

@[simp] theorem loseForward_lasting (p : Nat) (s : State) :
    (loseForward p s).lasting = s.lasting := by simp [loseForward]
@[simp] theorem loseEntry_lasting (word : Nat) (s : State) : (loseEntry word s).lasting = s.lasting := (rfl)

@[simp] theorem uncorrectable_lasting (m word unit : Nat) (s : State) :
    (uncorrectable m word unit s).lasting = s.lasting := by
  unfold uncorrectable
  split <;> simp

@[simp] theorem sramError_lasting (m word unit : Nat) (ue : Bool) (s : State) :
    (sramError m word unit ue s).lasting = s.lasting := by simp [sramError]
@[simp] theorem destroyMem_lasting (m lo hi : Nat) (s : State) :
    (destroyMem m lo hi s).lasting = s.lasting := by simp [destroyMem]
@[simp] theorem marchRunCmd_lasting (m : Nat) (q : List Byte) (s : State) :
    (marchRunCmd m q s).1.lasting = s.lasting := by simp [marchRunCmd]
@[simp] theorem exhausted_lasting (c : March) (firstFail : Nat) (s : State) :
    (exhausted c firstFail s).lasting = s.lasting := by simp [exhausted]
@[simp] theorem selftestCmd_lasting (m : Nat) (q : List Byte) (s : State) :
    (selftestCmd m q s).1.lasting = s.lasting := by simp [selftestCmd]
@[simp] theorem selftestFaults_lasting (f : Nat) (s : State) :
    (selftestFaults f s).lasting = s.lasting := by simp [selftestFaults]
@[simp] theorem scrubFinds_lasting (m u : Nat) (s : State) :
    (scrubFinds m u s).lasting = s.lasting := by simp [scrubFinds]
@[simp] theorem rewindScrub_lasting (m : Nat) (s : State) :
    (rewindScrub m s).lasting = s.lasting := by simp [rewindScrub]
@[simp] theorem scrubCmd_lasting (q : List Byte) (s : State) :
    (scrubCmd q s).1.lasting = s.lasting := by simp [scrubCmd]
@[simp] theorem injectUnit_lasting (f : Nat) (info : Nat) (s : State) :
    (injectUnit f info s).2.lasting = s.lasting := by simp [injectUnit]
@[simp] theorem injectEcc_lasting (m bits w : Nat) (s : State) :
    (injectEcc m bits w s).lasting = s.lasting := by simp [injectEcc]
@[simp] theorem faultInjectCmd_lasting (q : List Byte) (s : State) :
    (faultInjectCmd q s).1.lasting = s.lasting := by simp [faultInjectCmd]
@[simp] theorem logReadCmd_lasting (q : List Byte) (s : State) :
    (logReadCmd q s).1.lasting = s.lasting := by simp [logReadCmd]
@[simp] theorem devInfoCmd_lasting (q : List Byte) (s : State) : (devInfoCmd q s).1.lasting = s.lasting := (rfl)

/-! ### Register reads -/

@[simp] theorem readReg_lasting (off : Nat) (s : State) : (readReg off s).lasting = s.lasting := by
  unfold readReg
  repeat' split
  all_goals simp

@[simp] theorem writeSnapCtrl_lasting (v : Word) (be : BitVec 4) (s : State) :
    (writeSnapCtrl v be s).lasting = s.lasting := by simp [writeSnapCtrl]

@[simp] theorem snapTick_lasting (s : State) : (snapTick s).lasting = s.lasting := by
  unfold snapTick
  split <;> simp

/-! ### The tick -/

@[simp] theorem tick_lasting (s : State) : (tick s).lasting = s.lasting := by simp [tick]

/-! ### Register control -/

@[simp] theorem writeUnlock_lasting (v : Word) (be : BitVec 4) (s : State) :
    (writeUnlock v be s).lasting = s.lasting := by simp [writeUnlock]
@[simp] theorem latchRef_lasting (s : State) : (latchRef s).lasting = s.lasting := (rfl)
@[simp] theorem setOpen_lasting (v : Bool) (s : State) : (setOpen v s).lasting = s.lasting := (rfl)
@[simp] theorem writeCfgCtrl_lasting (v : Word) (be : BitVec 4) (s : State) :
    (writeCfgCtrl v be s).lasting = s.lasting := by simp [writeCfgCtrl]
@[simp] theorem mismatch_lasting (sect : Nat) (s : State) :
    (mismatch sect s).lasting = s.lasting := by simp [mismatch]
@[simp] theorem writeEvtForce_lasting (g : Nat) (v : Word) (be : BitVec 4) (s : State) :
    (writeEvtForce g v be s).lasting = s.lasting := by simp [writeEvtForce]
@[simp] theorem writeEvtClear_lasting (off g : Nat) (v : Word) (be : BitVec 4) (s : State) :
    (writeEvtClear off g v be s).lasting = s.lasting := by simp [writeEvtClear]
@[simp] theorem setEnable_lasting (g : Nat) (f : Word → Word) (s : State) :
    (setEnable g f s).lasting = s.lasting := by simp [setEnable]
@[simp] theorem setVectors_lasting (g w : Nat) (f : Word → Word) (s : State) :
    (setVectors g w f s).lasting = s.lasting := (rfl)

/-! ### Resets -/

@[simp] theorem resetEvents_lasting (s : State) : (resetEvents s).lasting = s.lasting := (rfl)
@[simp] theorem resetChan_lasting (s : State) : (resetChan s).lasting = s.lasting := (rfl)
@[simp] theorem resetRingRegs_lasting (s : State) : (resetRingRegs s).lasting = s.lasting := (rfl)
@[simp] theorem resetExport_lasting (s : State) : (resetExport s).lasting = s.lasting := by simp [resetExport]
@[simp] theorem resetTalRegs_lasting (s : State) : (resetTalRegs s).lasting = s.lasting := (rfl)
@[simp] theorem resetTimed_lasting (s : State) : (resetTimed s).lasting = s.lasting := (rfl)
@[simp] theorem resetPodc_lasting (s : State) : (resetPodc s).lasting = s.lasting := (rfl)
@[simp] theorem resetViews_lasting (s : State) : (resetViews s).lasting = s.lasting := (rfl)
@[simp] theorem cancelNext_lasting (b : Boundary) (s : State) :
    (cancelNext b s).lasting = s.lasting := by simp [cancelNext]

@[simp] theorem endEpochByReset_lasting (s : State) : (endEpochByReset s).lasting = s.lasting := by
  unfold endEpochByReset
  repeat' split
  all_goals simp

@[simp] theorem resetSeqs_lasting (s : State) : (resetSeqs s).lasting = s.lasting := by simp [resetSeqs]
@[simp] theorem clearPrograms_lasting (s : State) : (clearPrograms s).lasting = s.lasting := (rfl)
@[simp] theorem resetImages_lasting (s : State) : (resetImages s).lasting = s.lasting := by simp [resetImages]
@[simp] theorem resetHostSide_lasting (s : State) : (resetHostSide s).lasting = s.lasting := by simp [resetHostSide]

theorem cmdOf_lasting {m opcode : Nat} {s : State} {f : Cmd} (hf : cmdOf m opcode s = some f) (q : List Byte)
    (x : State) : (f q x).1.lasting = x.lasting := by
  unfold cmdOf at hf
  split at hf <;> cases hf <;> simp

@[simp] theorem completeInside_lasting (m : Nat) (s : State) : (completeInside m s).lasting = s.lasting := by
  unfold completeInside
  dsimp only
  split
  · split
    · next hf => exact cmdOf_lasting hf _ _
    · rfl
  · rfl

@[simp] theorem detach_lasting (m : Nat) (s : State) : (detach m s).lasting = s.lasting := (rfl)
@[simp] theorem emptyMailboxes_lasting (s : State) : (emptyMailboxes s).lasting = s.lasting := (rfl)
@[simp] theorem flrMailboxes_lasting (s : State) : (flrMailboxes s).lasting = s.lasting := by simp [flrMailboxes]
@[simp] theorem abandonReads_lasting (s : State) : (abandonReads s).lasting = s.lasting := (rfl)
@[simp] theorem resetConfigSpace_lasting (s : State) : (resetConfigSpace s).lasting = s.lasting := (rfl)
@[simp] theorem startFlr_lasting (cause : Nat) (s : State) :
    (startFlr cause s).lasting = s.lasting := by simp [startFlr]
@[simp] theorem abandonCommands_lasting (s : State) :
    (abandonCommands s).lasting = s.lasting := by simp [abandonCommands]
@[simp] theorem rebootSummit_lasting (s : State) : (rebootSummit s).lasting = s.lasting := (rfl)
@[simp] theorem resetCollector_lasting (s : State) :
    (resetCollector s).lasting = s.lasting := by simp [resetCollector]
@[simp] theorem endSafeByReset_lasting (s : State) :
    (endSafeByReset s).lasting = s.lasting := by simp [endSafeByReset]
@[simp] theorem resetSoftOnly_lasting (s : State) : (resetSoftOnly s).lasting = s.lasting := (rfl)
@[simp] theorem startSoft_lasting (s : State) : (startSoft s).lasting = s.lasting := by simp [startSoft]
@[simp] theorem writeSoftReset_lasting (v : Word) (be : BitVec 4) (cls : Nat) (s : State) :
    (writeSoftReset v be cls s).lasting = s.lasting := by simp [writeSoftReset]
@[simp] theorem afterReset_lasting (s : State) : (afterReset s).lasting = s.lasting := (rfl)

/-! ### Register writes -/

@[simp] theorem setPpsCfg_lasting (f : Word → Word) (s : State) :
    (setPpsCfg f s).lasting = s.lasting := by simp [setPpsCfg]

@[simp] theorem rwPodc_lasting (o : Nat) (f : Word → Word) (s : State) : (rwPodc o f s).lasting = s.lasting := by
  unfold rwPodc
  repeat' split
  all_goals simp

@[simp] theorem rwPcie_lasting (o : Nat) (f : Word → Word) (s : State) : (rwPcie o f s).lasting = s.lasting := by
  unfold rwPcie
  repeat' split
  all_goals simp

@[simp] theorem rwModify_lasting (off : Nat) (f : Word → Word) (s : State) :
    (rwModify off f s).lasting = s.lasting := by
  unfold rwModify
  repeat' split
  all_goals simp

@[simp] theorem writeSchCfg_lasting (n : Nat) (v : Word) (be : BitVec 4) (s : State) :
    (writeSchCfg n v be s).lasting = s.lasting := by simp [writeSchCfg]
@[simp] theorem writeSchTarget_lasting (n : Nat) (v : Word64) (be : BitVec 8) (s : State) :
    (writeSchTarget n v be s).lasting = s.lasting := by simp [writeSchTarget]
@[simp] theorem writeSchPeriod_lasting (n : Nat) (v : Word64) (be : BitVec 8) (s : State) :
    (writeSchPeriod n v be s).lasting = s.lasting := by simp [writeSchPeriod]
@[simp] theorem clearCfgStatus_lasting (v : Word) (s : State) :
    (clearCfgStatus v s).lasting = s.lasting := by simp [clearCfgStatus]
@[simp] theorem clearEqStatus_lasting (v : Word) (s : State) : (clearEqStatus v s).lasting = s.lasting := (rfl)
@[simp] theorem clearSchStatus_lasting (n : Nat) (v : Word) (s : State) :
    (clearSchStatus n v s).lasting = s.lasting := (rfl)
@[simp] theorem clearRingMarks_lasting (v : Word) (s : State) : (clearRingMarks v s).lasting = s.lasting := (rfl)
@[simp] theorem clearStoreMarks_lasting (v : Word) (s : State) : (clearStoreMarks v s).lasting = s.lasting := (rfl)

@[simp] theorem writeMb_lasting (o : Nat) (v : Word) (be : BitVec 4) (cls : Nat) (s : State) :
    (writeMb o v be cls s).lasting = s.lasting := by
  unfold writeMb
  repeat' split
  all_goals simp

@[simp] theorem writeFlt_lasting (o : Nat) (v : Word) (be : BitVec 4) (cls : Nat) (s : State) :
    (writeFlt o v be cls s).lasting = s.lasting := by
  unfold writeFlt
  split <;> simp

@[simp] theorem writeEvt_lasting (o : Nat) (v : Word) (be : BitVec 4) (s : State) :
    (writeEvt o v be s).lasting = s.lasting := by
  unfold writeEvt
  repeat' split
  all_goals simp

@[simp] theorem writeSch_lasting (o : Nat) (v : Word) (be : BitVec 4) (s : State) :
    (writeSch o v be s).lasting = s.lasting := by
  unfold writeSch
  repeat' split
  all_goals simp

@[simp] theorem writePodc_lasting (o : Nat) (v : Word) (be : BitVec 4) (s : State) :
    (writePodc o v be s).lasting = s.lasting := by
  unfold writePodc
  split <;> simp

@[simp] theorem writeReg_lasting (off : Nat) (v : Word) (be : BitVec 4) (cls : Nat) (s : State) :
    (writeReg off v be cls s).lasting = s.lasting := by
  unfold writeReg
  dsimp only
  repeat' split
  all_goals simp

@[simp] theorem writeWide_lasting (off : Nat) (v : Word64) (be : BitVec 8) (cls : Nat) (s : State) :
    (writeWide off v be cls s).lasting = s.lasting := by
  unfold writeWide
  repeat' split
  all_goals simp

@[simp] theorem writeMsix_lasting (off : Nat) (v : Word) (s : State) :
    (writeMsix off v s).lasting = s.lasting := by simp [writeMsix]
@[simp] theorem aliasWhole_lasting (op : AliasOp) (base : Nat) (m : Word64) (s : State) :
    (aliasWhole op base m s).lasting = s.lasting := by simp [aliasWhole]
@[simp] theorem aliasWide_lasting (op : AliasOp) (off : Nat) (v : Word) (be : BitVec 4) (s : State) :
    (aliasWide op off v be s).lasting = s.lasting := by simp [aliasWide]
@[simp] theorem aliasAccess_lasting (op : AliasOp) (off : Nat) (v : Word) (be : BitVec 4) (s : State) :
    (aliasAccess op off v be s).lasting = s.lasting := by simp [aliasAccess]
@[simp] theorem tlpAccess_lasting (off : Nat) (bytes : List (Option Byte)) (a : Nat) (cls : Nat) (s : State) :
    (tlpAccess off bytes a cls s).lasting = s.lasting := by simp [tlpAccess]
@[simp] theorem tlpAccesses_lasting (off : Nat) (bytes : List (Option Byte)) (cls : Nat) (s : State) :
    (tlpAccesses off bytes cls s).lasting = s.lasting := by simp [tlpAccesses]

/-! ### The commands with a meaning of their own -/

@[simp] theorem execComparatorEvent_lasts (n : Fin 272) (upper out : Bool) (grid : Nat) (s : State) :
    Lasts s (execComparatorEvent n upper out grid s) := by
  unfold execComparatorEvent
  split <;> simp

@[simp] theorem execQualTimeout_lasts (n : Fin 272) (s : State) :
    Lasts s (execQualTimeout n s) := by simp [execQualTimeout]
@[simp] theorem execTrvStep_lasts (j : Fin 4) (k : Nat) (s : State) :
    Lasts s (execTrvStep j k s) := by simp [execTrvStep]
@[simp] theorem execTriginHigh_lasts (x : Fin 4) (k : Nat) (s : State) :
    Lasts s (execTriginHigh x k s) := by simp [execTriginHigh]

@[simp] theorem execTrvArmTarget_lasts (j : Fin 4) (s : State) : Lasts s (execTrvArmTarget j s) := by
  unfold execTrvArmTarget
  split <;> simp

@[simp] theorem execRailMonitor_lasts (l : RailLevel) (s : State) :
    Lasts s (execRailMonitor l s) := by simp [execRailMonitor]
@[simp] theorem execExtFaultIn_lasts (s : State) : Lasts s (execExtFaultIn s) := by simp [execExtFaultIn]
@[simp] theorem execCollectorParity_lasts (s : State) :
    Lasts s (execCollectorParity s) := by simp [execCollectorParity]
@[simp] theorem execTrigoutContention_lasts (x : Fin 4) (s : State) :
    Lasts s (execTrigoutContention x s) := by simp [execTrigoutContention]
@[simp] theorem execTimeIntegrity_lasts (copy1 : Time) (s : State) :
    Lasts s (execTimeIntegrity copy1 s) := by simp [execTimeIntegrity]
@[simp] theorem execTimeBRevert_lasts (s : State) : Lasts s (execTimeBRevert s) := by simp [execTimeBRevert]
@[simp] theorem execPpsInEdge_lasts (e : PpsEdge) (s : State) : Lasts s (execPpsInEdge e s) := by simp [execPpsInEdge]
@[simp] theorem execPpsInMissing_lasts (s : State) : Lasts s (execPpsInMissing s) := by simp [execPpsInMissing]
@[simp] theorem execPpsOutStart_lasts (s : State) : Lasts s (execPpsOutStart s) := by simp [execPpsOutStart]

@[simp] theorem execPpsOutEnd_lasts (s : State) : Lasts s (execPpsOutEnd s) := by
  unfold execPpsOutEnd
  split <;> simp

@[simp] theorem execEncInputChange_lasts (e : Fin 2) (a b z : Bool) (s : State) :
    Lasts s (execEncInputChange e a b z s) := by simp [execEncInputChange]
@[simp] theorem execMainsZcEdge_lasts (rising : Bool) (s : State) :
    Lasts s (execMainsZcEdge rising s) := by simp [execMainsZcEdge]
@[simp] theorem execMainsLost_lasts (s : State) : Lasts s (execMainsLost s) := by simp [execMainsLost]

@[simp] theorem execSchActionExecute_lasts (s : State) : Lasts s (execSchActionExecute s) := by
  unfold execSchActionExecute
  split <;> simp

@[simp] theorem execCreditAckRx_lasts (p : Fin 3) (f : List Byte) (s : State) :
    Lasts s (execCreditAckRx p f s) := by simp [execCreditAckRx]
@[simp] theorem execRecordFrameRx_lasts (p : Fin 3) (f : List Byte) (s : State) :
    Lasts s (execRecordFrameRx p f s) := by simp [execRecordFrameRx]
@[simp] theorem execRlPortUp_lasts (p : Fin 3) (peer : List Byte) (restarts : Byte) (s : State) :
    Lasts s (execRlPortUp p peer restarts s) := by simp [execRlPortUp]
@[simp] theorem execRlPortDown_lasts (p : Fin 3) (s : State) :
    Lasts s (execRlPortDown p s) := by simp [execRlPortDown]
@[simp] theorem execRlTrainTimeout_lasts (p : Fin 3) (s : State) :
    Lasts s (execRlTrainTimeout p s) := by simp [execRlTrainTimeout]

@[simp] theorem execFaultIdleRx_lasts (p : Fin 3) (s : State) : Lasts s (execFaultIdleRx p s) := by
  unfold execFaultIdleRx
  dsimp only
  split <;> simp

@[simp] theorem execRlPeerFaultEnd_lasts (p : Fin 3) (s : State) :
    Lasts s (execRlPeerFaultEnd p s) := by simp [execRlPeerFaultEnd]
@[simp] theorem execTimeFrameRx_lasts (p : Fin 3) (f : List Byte) (s : State) :
    Lasts s (execTimeFrameRx p f s) := by simp [execTimeFrameRx]

@[simp] theorem execRlTimeLoss_lasts (p : Fin 3) (s : State) : Lasts s (execRlTimeLoss p s) := by
  unfold execRlTimeLoss
  split <;> simp

@[simp] theorem execDelayRespRx_lasts (p : Fin 3) (f : List Byte) (s : State) :
    Lasts s (execDelayRespRx p f s) := by simp [execDelayRespRx]

@[simp] theorem execRlTimedLaunch_lasts (p : Fin 3) (s : State) : Lasts s (execRlTimedLaunch p s) := by
  unfold execRlTimedLaunch
  dsimp only
  repeat' split
  all_goals simp

@[simp] theorem execRlTimedApply_lasts (i : Nat) (s : State) : Lasts s (execRlTimedApply i s) := by
  unfold execRlTimedApply
  dsimp only
  repeat' split
  all_goals simp

@[simp] theorem execTunnelReqRx_lasts (p : Fin 3) (f : List Byte) (s : State) : Lasts s (execTunnelReqRx p f s) := by
  refine lasts_next.mpr (rxFlood_lasting _ _ _ _ _ fun b x => ?_)
  dsimp only
  repeat' split
  all_goals simp

@[simp] theorem execTunnelRespRx_lasts (p : Fin 3) (f : List Byte) (s : State) :
    Lasts s (execTunnelRespRx p f s) := by
  refine lasts_next.mpr (rxFlood_lasting _ _ _ _ _ fun b x => ?_)
  dsimp only
  repeat' split
  all_goals simp

@[simp] theorem execRlTunnelTimeout_lasts (m : Fin 8) (s : State) : Lasts s (execRlTunnelTimeout m s) := by
  unfold execRlTunnelTimeout
  split <;> simp

@[simp] theorem execDiscoverRx_lasts (p : Fin 3) (f : List Byte) (s : State) :
    Lasts s (execDiscoverRx p f s) := by simp [execDiscoverRx]
@[simp] theorem execDiscoverReplyRx_lasts (p : Fin 3) (f : List Byte) (s : State) :
    Lasts s (execDiscoverReplyRx p f s) := by simp [execDiscoverReplyRx]
@[simp] theorem execAssignRx_lasts (p : Fin 3) (f : List Byte) (s : State) :
    Lasts s (execAssignRx p f s) := by simp [execAssignRx]

@[simp] theorem execRlDiscoverAssign_lasts (s : State) : Lasts s (execRlDiscoverAssign s) := by
  unfold execRlDiscoverAssign
  split <;> simp

@[simp] theorem execRlOriginExpire_lasts (i : Nat) (s : State) : Lasts s (execRlOriginExpire i s) := by
  unfold execRlOriginExpire
  split <;> simp

@[simp] theorem execPllsLocked_lasts (phErr : Int) (s : State) :
    Lasts s (execPllsLocked phErr s) := by simp [execPllsLocked]
@[simp] theorem execPllsUnlocked_lasts (phErr : Int) (s : State) :
    Lasts s (execPllsUnlocked phErr s) := by simp [execPllsUnlocked]
@[simp] theorem execPlllLocked_lasts (s : State) : Lasts s (execPlllLocked s) := by simp [execPlllLocked]
@[simp] theorem execPlllUnlocked_lasts (s : State) : Lasts s (execPlllUnlocked s) := by simp [execPlllUnlocked]
@[simp] theorem execDcoRange_lasts (r : DcoReading) (s : State) : Lasts s (execDcoRange r s) := by simp [execDcoRange]
@[simp] theorem execDcoFail_lasts (s : State) : Lasts s (execDcoFail s) := by simp [execDcoFail]
@[simp] theorem execRefGood_lasts (src : Fin 5) (s : State) : Lasts s (execRefGood src s) := by simp [execRefGood]

@[simp] theorem execRefQualified_lasts (dS dL : Int) (s : State) : Lasts s (execRefQualified dS dL s) := by
  unfold execRefQualified
  dsimp only
  repeat' split
  all_goals simp

@[simp] theorem execRefPhaseHit_lasts (dS dL : Int) (s : State) :
    Lasts s (execRefPhaseHit dS dL s) := by simp [execRefPhaseHit]
@[simp] theorem execRealignDone_lasts (s : State) : Lasts s (execRealignDone s) := by simp [execRealignDone]

/-! ### Memory integrity -/

@[simp] theorem startTested_lasting (fails repaired first : Nat) (s : State) :
    (startTested fails repaired first s).lasting = s.lasting := by simp [startTested]

/-! ### The commands with a meaning of their own -/

@[simp] theorem execMsixSend_lasts (vec : Fin 64) (s : State) : Lasts s (execMsixSend vec s) := by simp [execMsixSend]
@[simp] theorem execLtrEnable_lasts (on : Bool) (a b : Nat) (s : State) :
    Lasts s (execLtrEnable on a b s) := by simp [execLtrEnable]

@[simp] theorem execCplUnexpected_lasts (tag : Nat) (s : State) : Lasts s (execCplUnexpected tag s) := by
  unfold execCplUnexpected
  repeat' split
  all_goals simp

@[simp] theorem execBmeCleared_lasts (s : State) : Lasts s (execBmeCleared s) := by simp [execBmeCleared]
@[simp] theorem execD3hotExit_lasts (s : State) : Lasts s (execD3hotExit s) := by simp [execD3hotExit]
@[simp] theorem execAspmL1Entry_lasts (s : State) : Lasts s (execAspmL1Entry s) := by simp [execAspmL1Entry]
@[simp] theorem execLinkUp_lasts (gen width : Nat) (s : State) :
    Lasts s (execLinkUp gen width s) := by simp [execLinkUp]
@[simp] theorem execLinkChange_lasts (gen width : Nat) (s : State) :
    Lasts s (execLinkChange gen width s) := by simp [execLinkChange]
@[simp] theorem execLinkDown_lasts (s : State) : Lasts s (execLinkDown s) := by simp [execLinkDown]
@[simp] theorem execFlrDone_lasts (s : State) : Lasts s (execFlrDone s) := by simp [execFlrDone]

@[simp] theorem execPwCommitSwitch_lasts (s : State) : Lasts s (execPwCommitSwitch s) := by
  unfold execPwCommitSwitch
  split <;> simp

@[simp] theorem execInboundPoisonedWrite_lasts (e : RxError) (off : Nat) (s : State) :
    Lasts s (execInboundPoisonedWrite e off s) := by
  unfold execInboundPoisonedWrite
  dsimp only
  repeat' split
  all_goals simp

@[simp] theorem execMbCommandStart_lasts (m : Fin 8) (s : State) : Lasts s (execMbCommandStart m s) := by
  unfold execMbCommandStart
  dsimp only
  repeat' split
  all_goals simp

@[simp] theorem execCwStall_lasts (k : Fin 8) (s : State) : Lasts s (execCwStall k s) := by simp [execCwStall]
@[simp] theorem execSummitLockstep_lasts (s : State) : Lasts s (execSummitLockstep s) := by simp [execSummitLockstep]
@[simp] theorem execSummitWatchdog_lasts (s : State) : Lasts s (execSummitWatchdog s) := by simp [execSummitWatchdog]
@[simp] theorem execSummitReady_lasts (s : State) : Lasts s (execSummitReady s) := by simp [execSummitReady]
@[simp] theorem execFwBootVerify_lasts (a b : SlotImage) (s : State) :
    Lasts s (execFwBootVerify a b s) := by simp [execFwBootVerify]
@[simp] theorem execFwStaged_lasts (m : Fin 8) (back : FlashRead) (flashOk : Bool) (s : State) :
    Lasts s (execFwStaged m back flashOk s) := by simp [execFwStaged]
@[simp] theorem execPodPresenceLow_lasts (p : Fin 16) (s : State) :
    Lasts s (execPodPresenceLow p s) := by simp [execPodPresenceLow]
@[simp] theorem execPodDebounceDone_lasts (p : Fin 16) (low : Bool) (s : State) :
    Lasts s (execPodDebounceDone p low s) := by simp [execPodDebounceDone]
@[simp] theorem execDescriptorReadDone_lasts (p : Fin 16) (desc : List Byte) (s : State) :
    Lasts s (execDescriptorReadDone p desc s) := by simp [execDescriptorReadDone]
@[simp] theorem execDescriptorReadError_lasts (p : Fin 16) (s : State) :
    Lasts s (execDescriptorReadError p s) := by simp [execDescriptorReadError]
@[simp] theorem execPodPowerGoodCheck_lasts (p : Fin 16) (mv ma : Nat) (s : State) :
    Lasts s (execPodPowerGoodCheck p mv ma s) := by simp [execPodPowerGoodCheck]

@[simp] theorem execPodRemoval_lasts (p : Fin 16) (s : State) : Lasts s (execPodRemoval p s) := by
  unfold execPodRemoval
  split <;> simp

@[simp] theorem execTelemPeriod_lasts (s : State) : Lasts s (execTelemPeriod s) := by simp [execTelemPeriod]

@[simp] theorem execTelemReadDone_lasts (p : Fin 16) (temp : Option (BitVec 16)) (s : State) :
    Lasts s (execTelemReadDone p temp s) := by
  cases temp <;> simp [execTelemReadDone]

@[simp] theorem execKeyPress_lasts (k : Fin 8) (s : State) : Lasts s (execKeyPress k s) := by simp [execKeyPress]

@[simp] theorem execCalSwapStart_lasts (p : Fin 16) (s : State) : Lasts s (execCalSwapStart p s) := by
  unfold execCalSwapStart
  dsimp only
  split <;> simp

@[simp] theorem execCalShadowDone_lasts (p : Fin 16) (passes : List CalPass) (s : State) :
    Lasts s (execCalShadowDone p passes s) := by
  unfold execCalShadowDone
  dsimp only
  split <;> simp

@[simp] theorem execCalSwap_lasts (p : Fin 16) (s : State) : Lasts s (execCalSwap p s) := by
  unfold execCalSwap
  dsimp only
  split <;> simp

@[simp] theorem execCalSwapAbort_lasts (p : Fin 16) (s : State) : Lasts s (execCalSwapAbort p s) := by
  unfold execCalSwapAbort
  dsimp only
  split <;> simp

@[simp] theorem execCalPairDone_lasts (p : Fin 16) (pair : Fin 19) (ok : Bool) (u l : Int) (s : State) :
    Lasts s (execCalPairDone p pair ok u l s) := by simp [execCalPairDone]

@[simp] theorem execChAliasWrite_lasts (off : Nat) (v : Word) (be : BitVec 4) (s : State) :
    Lasts s (execChAliasWrite off v be s) := by
  unfold execChAliasWrite
  split <;> simp

@[simp] theorem execChAliasRead_lasts (off : Nat) (s : State) : Lasts s (execChAliasRead off s) := by
  unfold execChAliasRead
  split <;> simp

@[simp] theorem execRingRowWrite_lasts (s : State) : Lasts s (execRingRowWrite s) := by
  unfold execRingRowWrite
  split <;> simp

@[simp] theorem execRingRateEval_lasts (s : State) : Lasts s (execRingRateEval s) := by simp [execRingRateEval]

@[simp] theorem execRingScrubRead_lasts (line : Nat) (err : EccErr) (s : State) :
    Lasts s (execRingScrubRead line err s) := by
  unfold execRingScrubRead
  dsimp only
  repeat' split
  all_goals simp

@[simp] theorem execRingCeInterval_lasts (s : State) : Lasts s (execRingCeInterval s) := by simp [execRingCeInterval]

@[simp] theorem execRetRowRead_lasts (errs : List (Nat × EccErr)) (s : State) : Lasts s (execRetRowRead errs s) := by
  unfold execRetRowRead
  split <;> simp

@[simp] theorem execRetRowEmit_lasts (s : State) : Lasts s (execRetRowEmit s) := by
  unfold execRetRowEmit
  split <;> simp

@[simp] theorem execEpochBoundary_lasts (s : State) : Lasts s (execEpochBoundary s) := by
  unfold execEpochBoundary
  split <;> simp

@[simp] theorem execIntakeResume_lasts (row : Nat) (s : State) : Lasts s (execIntakeResume row s) := by
  unfold execIntakeResume
  split <;> simp

@[simp] theorem execEpochCloseEmit_lasts (s : State) : Lasts s (execEpochCloseEmit s) := by
  unfold execEpochCloseEmit
  split <;> simp

@[simp] theorem execEpochOpenEmit_lasts (s : State) : Lasts s (execEpochOpenEmit s) := by
  unfold execEpochOpenEmit
  repeat' split
  all_goals simp

@[simp] theorem execCompressFrameIn_lasts (s : State) : Lasts s (execCompressFrameIn s) := by
  unfold execCompressFrameIn
  split <;> simp

@[simp] theorem execLaneBlockDone_lasts (lane : Fin 8) (packed : List Byte) (s : State) :
    Lasts s (execLaneBlockDone lane packed s) := by
  unfold execLaneBlockDone
  split <;> simp

@[simp] theorem execPacketOpen_lasts (s : State) : Lasts s (execPacketOpen s) := by
  unfold execPacketOpen
  split <;> simp

@[simp] theorem execPacketClose_lasts (s : State) : Lasts s (execPacketClose s) := by
  refine lasts_next.mpr ?_
  repeat' split
  all_goals simp

@[simp] theorem execFlushReadCpl_lasts (tag : Nat) (ok poisoned : Bool) (s : State) :
    Lasts s (execFlushReadCpl tag ok poisoned s) := by
  unfold execFlushReadCpl
  split <;> simp

@[simp] theorem execFlushReadTimeout_lasts (tag : Nat) (s : State) : Lasts s (execFlushReadTimeout tag s) := by
  unfold execFlushReadTimeout
  split <;> simp

@[simp] theorem execEqResetDone_lasts (s : State) : Lasts s (execEqResetDone s) := by simp [execEqResetDone]
@[simp] theorem execPullWindowRead_lasts (off len : Nat) (s : State) :
    Lasts s (execPullWindowRead off len s) := by simp [execPullWindowRead]

@[simp] theorem execPadInsert_lasts (s : State) : Lasts s (execPadInsert s) := by
  unfold execPadInsert
  split <;> simp

@[simp] theorem execExtentOpen_lasts (s : State) : Lasts s (execExtentOpen s) := by
  refine lasts_next.mpr ?_
  repeat' split
  all_goals simp

@[simp] theorem execExtCloseDeadline_lasts (s : State) : Lasts s (execExtCloseDeadline s) := by
  unfold execExtCloseDeadline
  split <;> simp

@[simp] theorem execQuietRecordWrite_lasts (s : State) : Lasts s (execQuietRecordWrite s) := by
  unfold execQuietRecordWrite
  split <;> simp [writeRecord_lasting formatBase_le_quietBase]

@[simp] theorem scrubOn_mapWrites (t : Talus) : (scrubOn t).mapWrites = t.mapWrites := by
  unfold scrubOn
  repeat' split
  all_goals rfl

@[simp] theorem execMapScrubRead_lasts (err : EccErr) (s : State) : Lasts s (execMapScrubRead err s) := by
  unfold execMapScrubRead
  dsimp only
  split
  · refine lasts_next.mpr ?_
    split <;> simp [scrubOn_die]
  · exact lasts_next.mpr rfl

@[simp] theorem execTalusRecovery_lasts (ue : List Nat) (s : State) : Lasts s (execTalusRecovery ue s) := by
  unfold execTalusRecovery
  dsimp only
  repeat' split
  all_goals simp

@[simp] theorem execNvmeCqEntry_lasts (d : Fin 4) (entry : List Byte) (s : State) :
    Lasts s (execNvmeCqEntry d entry s) := by simp [execNvmeCqEntry]

@[simp] theorem execNvmeCmdTimeout_lasts (d : Fin 4) (s : State) : Lasts s (execNvmeCmdTimeout d s) := by
  unfold execNvmeCmdTimeout
  split <;> simp

@[simp] theorem execRecWindowRead_lasts (off len : Nat) (s : State) : Lasts s (execRecWindowRead off len s) := by
  refine lasts_next.mpr (barRead_lasting _ _ _ _ _ fun x => ?_)
  split <;> simp

@[simp] theorem execSealStart_lasts (s : State) : Lasts s (execSealStart s) := by
  unfold execSealStart
  split <;> simp

@[simp] theorem execAttestDone_lasts (m : Fin 8) (s : State) : Lasts s (execAttestDone m s) := by
  refine lasts_next.mpr ?_
  repeat' split
  all_goals simp

@[simp] theorem execSealSignDone_lasts (s : State) : Lasts s (execSealSignDone s) := by
  unfold execSealSignDone
  split <;> simp

@[simp] theorem execKeccakSelftest_lasts (bad : List (Fin 12)) (s : State) :
    Lasts s (execKeccakSelftest bad s) := by simp [execKeccakSelftest]
@[simp] theorem execSramCeInterval_lasts (s : State) : Lasts s (execSramCeInterval s) := by simp [execSramCeInterval]

@[simp] theorem execMarchDone_lasts (m : Fin 8) (fails repaired firstFail us : Nat) (s : State) :
    Lasts s (execMarchDone m fails repaired firstFail us s) := by
  unfold execMarchDone
  split <;> simp

@[simp] theorem execSelftestDone_lasts (m : Fin 8) (failed : Byte) (s : State) :
    Lasts s (execSelftestDone m failed s) := by
  unfold execSelftestDone
  split <;> simp

@[simp] theorem execScrubPassDone_lasts (mem : Fin 11) (unit : Nat) (s : State) :
    Lasts s (execScrubPassDone mem unit s) := by
  unfold execScrubPassDone
  split <;> simp

@[simp] theorem execScrubLate_lasts (mem : Fin 11) (s : State) : Lasts s (execScrubLate mem s) := by
  unfold execScrubLate
  split <;> simp

@[simp] theorem execSnapComplete_lasts (s : State) : Lasts s (execSnapComplete s) := by simp [execSnapComplete]
@[simp] theorem execCfgScanPass_lasts (upset : List (Nat × Byte)) (s : State) :
    Lasts s (execCfgScanPass upset s) := by simp [execCfgScanPass]
@[simp] theorem execBar2Read_lasts (off len : Nat) (errs : List (Nat × EccErr)) (s : State) :
    Lasts s (execBar2Read off len errs s) := by simp [execBar2Read]
@[simp] theorem execBar2Write_lasts (off : Nat) (data : List Byte) (s : State) :
    Lasts s (execBar2Write off data s) := by simp [execBar2Write]
@[simp] theorem execBar0Write_lasts (off : Nat) (bytes : List (Option Byte)) (s : State) :
    Lasts s (execBar0Write off bytes s) := by simp [execBar0Write]
@[simp] theorem execRegAliasWrite_lasts (op : AliasOp) (off : Nat) (v : Word) (be : BitVec 4) (s : State) :
    Lasts s (execRegAliasWrite op off v be s) := by simp [execRegAliasWrite]

/-! ### The three commands that write it (R316, R354, R360) -/

/-- FW_COMMITTED may raise the floor, and changes nothing else that outlives a step. -/
theorem execFwCommitted_lasting {m : Fin 8} {flashOk : Bool} {s t : State} (h : execFwCommitted m flashOk s = .next t) :
    ∃ n, s.summit.floor ≤ n ∧ t.lasting = (slotBytes s.tal.die, s.tal.mapWrites, n) := by
  unfold execFwCommitted at h
  dsimp only at h
  split at h
  · split at h <;> cases h
    · exact ⟨_, Nat.le_refl _, by simp⟩
    · rw [finishMb_lasting, raise_lasting, lasting_ite]
      split
      · exact ⟨_, Nat.le_max_left _ _, rfl⟩
      · exact ⟨_, Nat.le_refl _, by simp⟩
  · cases h
    exact ⟨_, Nat.le_refl _, rfl⟩

theorem dieWrite_floor (a : Nat) (bs : List Byte) (s : State) : (dieWrite a bs s).summit.floor = s.summit.floor := (rfl)
theorem slotDone_floor (x : Extent) (s : State) : (slotDone x s).summit.floor = s.summit.floor := (rfl)
theorem dropEntry_floor (k : Nat) (s : State) : (dropEntry k s).summit.floor = s.summit.floor := (rfl)

theorem signal_floor (n : Nat) (w : Word) (s : State) : (signal n w s).summit.floor = s.summit.floor :=
  floor_of_lasting (signal_lasting n w s)

theorem evalWear_floor (s : State) : (evalWear s).summit.floor = s.summit.floor := floor_of_lasting (evalWear_lasting s)

theorem freeBytes_floor (n : Nat) (s : State) : (freeBytes n s).2.summit.floor = s.summit.floor :=
  floor_of_lasting (freeBytes_lasting n s)

theorem slotFailed_floor (x : Extent) (s : State) : (slotFailed x s).summit.floor = s.summit.floor := by
  unfold slotFailed
  split
  · exact floor_of_lasting (modExtent_lasting _ _ s)
  · rw [slotDone_floor, raise_summit, signal_floor, dieWrite_floor]
    rfl

theorem execMapSlotWrite_floor {ok : Bool} {s t : State} (h : execMapSlotWrite ok s = .next t) :
    t.summit.floor = s.summit.floor := by
  unfold execMapSlotWrite at h
  cases h
  dsimp only
  repeat' split
  all_goals simp only [raise_summit, slotDone_floor, dieWrite_floor, slotFailed_floor, evalWear_floor]

theorem execSealIndexWrite_floor {ok : Bool} {s t : State} (h : execSealIndexWrite ok s = .next t) :
    t.summit.floor = s.summit.floor := by
  unfold execSealIndexWrite at h
  cases h
  dsimp only
  repeat' split
  all_goals simp only [raise_summit, signal_floor, dropEntry_floor, dieWrite_floor, freeBytes_floor]

/-! ### Every other command -/

/-- The other commands: their meanings are the operations above. -/
theorem exec_lasts {c : Instr} (s : State) (hm : ∀ b, c ≠ .mapSlotWrite b) (hi : ∀ b, c ≠ .sealIndexWrite b)
    (hf : ∀ m b, c ≠ .fwCommitted m b) : Lasts s (exec c s) := by
  cases c
  case mapSlotWrite ok => exact absurd rfl (hm ok)
  case sealIndexWrite ok => exact absurd rfl (hi ok)
  case fwCommitted m ok => exact absurd rfl (hf m ok)
  all_goals simp [exec, execDevInfo, execAcqStart, execEpochCommit, execAcqStop, execRowEncode, execRingTagRead,
    execRingCfg, execPodJoin, execPodSupplyFault, execPodOvervolt, execPodPower, execPodInfo, execKeyRelease,
    execCalRotationStart, execCalRun, execCalStatus, execFabTimerExpire, execCounterAtLimit, execFabCfg,
    execTrvLoad, execTrvArm, execTrvDisarm, execTrvOutCfg, execTrigoutPulseEnd, execLogFrameDue, execRetainSet,
    execMark, execBlockFlushTimeout, execEqBankSwap, execExportChunkClose, execTagQuarantineEnd,
    execEqPointerMismatch, execExpCfg, execPullWindowWrite, execExpPullRelease, execExpDurableAck,
    execTalusFormat, execTalusWindowSet, execTalusDriveAttach, execTalusCfg, execTalusMapRead,
    execTalusArchivedWrite, execTalusGeometryLock, execRecWindowWrite, execSealDue, execSealDeadline, execSealCfg,
    execSealNow, execIdentityGet, execAttest, execTimeAIncr, execTimeAStep, execTimeAStepApply,
    execTimeAStepLimit, execTimeBIncr, execTimeBStep, execTimeBStepApply, execTimeSourceSet,
    execTimeBSourceSwitch, execAxisCfg, execSchArm, execSchDisarm, execSchSlotReached, execSchSf, execRlFrameBad,
    execTimeFrameTx, execDelayReqTx, execDelayReqRx, execFireFrameRx, execArmFrameRx, execDisarmFrameRx,
    execTimedFrameRx, execRlDiscover, execRlPortCfg, execRlTunnel, execRlTimed, execRefLost, execPllCfg,
    execReg64LowRead, execCfgUnlock, execCfgLatchRef, execCfgCommit, execCfgOpen, execDevSoftReset, execDevReady,
    execSnapTake, execEvtForce, execEvtClear, execEvtEnableWrite, execScratchpadAccess, execCwWindowAccess,
    execPwInboundAccess, execPwCommit, execBmeSet, execD3hotEntry, execFlr, execHotReset, execMbDoorbell,
    execCwCfgWrite, execCwProdWrite, execCwConsWrite, execNop, execFwStage, execFwCommit, execFwInfo,
    execDieTempSample, execFltSafeRelease, execFltHistPop, execFltStatusClear, execFltSevWrite, execFltCtrlWrite,
    execSramEccError, execLogRead, execMarchRun, execDevSelftest, execScrubCfg, execFaultInject, execPowerOn,
    execCoreBrownout, execColdReset, execPerstAssert, execPerstRelease, execRailBackInRange, execExtFaultInEnd]

/-- No command lowers the floor. -/
theorem exec_floor {c : Instr} {s t : State} (h : exec c s = .next t) : s.summit.floor ≤ t.summit.floor := by
  by_cases hm : ∃ b, c = .mapSlotWrite b
  · obtain ⟨b, rfl⟩ := hm
    exact (execMapSlotWrite_floor h).ge
  by_cases hi : ∃ b, c = .sealIndexWrite b
  · obtain ⟨b, rfl⟩ := hi
    exact (execSealIndexWrite_floor h).ge
  by_cases hf : ∃ m b, c = .fwCommitted m b
  · obtain ⟨m, b, rfl⟩ := hf
    obtain ⟨n, hn, ht⟩ := execFwCommitted_lasting h
    exact hn.trans (congrArg (·.2.2) ht).ge
  push Not at hm hi hf
  exact (floor_of_lasting (exec_lasts s hm hi hf t h)).ge

/-- Settles O5: what outlives a step is untouched by every command but the two that write the map and the seal index, and
FW_COMMITTED, which only raises the floor. -/
theorem storeOutlivesSteps : Obligations.StoreOutlivesSteps := by
  refine ⟨fun c s t h hm hi => ?_, fun s t h => ?_⟩
  · by_cases hf : ∃ m b, c = .fwCommitted m b
    · obtain ⟨m, b, rfl⟩ := hf
      obtain ⟨n, -, ht⟩ := execFwCommitted_lasting h
      have ht : t.lasting = State.lasting { s with summit := { s.summit with floor := n } } := ht
      exact ⟨fun _ ha => (memByte_of_lasting ht ha).trans rfl, (mapWrites_of_lasting ht).trans rfl⟩
    · push Not at hf
      have ht := exec_lasts s hm hi hf t h
      exact ⟨fun _ => memByte_of_lasting ht, mapWrites_of_lasting ht⟩
  · cases hq : s.pending with
    | nil =>
      cases (step_of_idle hq).symm.trans h
      exact (floor_of_lasting (tick_lasting s)).ge
    | cons c q => exact exec_floor (s := { s with pending := q }) ((step_of_pending hq).symm.trans h)

end Sys2Proof.Machine

/-! ## The third failed write of a map slot under a severity of SAFE (O56) -/

namespace Sys2Proof.Machine

/-- A closed extent that is durable, whose map slot has failed its read-back twice (R316). -/
def slottedTwice : Extent :=
  { seq := 3, fmt := 1, size := 0, place := { target := 0, pos := 3, addr := 0x400000 }, prev := [], bytes := zeros 80,
    closing := true, closed := true, restart := false, short := false, fault := false, reset := false, lastSeq := 9,
    lastEpoch := 0, releasedBytes := 80, relLen := 0, relSeq := 0, relEpoch := 0, durable := true, chain := [], tries := 2,
    sealFrames := [] }

/-- A device that has it, in a configuration scan that is to be compared (R550), its collector on, where the host has set the
severity of F13 to SAFE (R568). -/
def slottingUnderSafe : State :=
  { State.reset with
    dev := { State.reset.dev with powered := true }
    cfg := { State.reset.cfg with unfit := false }
    flt := { State.reset.flt with on := true, sev := tabMod State.reset.flt.sev 0 fun w => w ||| 0xC000000 }
    tal := { State.reset.tal with
      fmt := some { id := 1, size := 0, nExt := 256, firstExt := 0, nextBase := 1 }, nextExt := 4, pending := [slottedTwice] } }

/-- F13 then enters the safe state, where no scan is compared (R550, R571). -/
theorem mapSlotWrite_failed_unfit {t : State} (h : exec (.mapSlotWrite false) slottingUnderSafe = .next t) :
    t.cfg.unfit = true := by
  have ht : (match exec (.mapSlotWrite false) slottingUnderSafe with
    | .next u => u.cfg.unfit
    | _ => false) = true := by decide +kernel
  rw [h] at ht
  exact ht

/-- Refutes O56: the severity of the F13 that a slot's third failed write signals (R340) is the host's to set (R568), and under
SAFE it enters the safe state, which ends the scan of the configuration besides; so the part `cfg` of the state does not stay
as it was. -/
theorem not_recordExtents : ¬ Obligations.RecordExtents := by
  rintro ⟨-, -, -, -, -, -, -, -, -, -, h, -⟩
  obtain ⟨t, ht, -, -, -, -, -, hcfg⟩ := h slottingUnderSafe slottedTwice [] rfl rfl (by decide)
  have hu : t.cfg.unfit = true := mapSlotWrite_failed_unfit ht
  rw [hcfg] at hu
  exact Bool.false_ne_true hu

end Sys2Proof.Machine

/-! ## The third failure of a drive under a severity of SAFE (O58) -/

namespace Sys2Proof.Machine

/-- A Write that is outstanding on a drive (R328). -/
def outstandingWrite : DriveCmd := { cid := 4, flush := false, ext := 3, lo := 0, hi := 80, prp := 0, rung := 0 }

/-- A device in a configuration scan that is to be compared (R550), its collector on, where the host has set the severity of
F35 to SAFE (R568), and drive 1 has failed twice in a row and has that Write outstanding (R331). -/
def drivingUnderSafe : State :=
  { State.reset with
    dev := { State.reset.dev with powered := true }
    pcie := { State.reset.pcie with bme := true }
    cfg := { State.reset.cfg with unfit := false }
    flt := { State.reset.flt with on := true, sev := tabMod State.reset.flt.sev 2 fun w => w ||| 0xC0 }
    tal := { State.reset.tal with drives := tabMod State.reset.tal.drives 1 fun d =>
      { d with state := 1, phase := true, fails := 2, cmds := [outstandingWrite] } } }

/-- The completion of that Write with a status other than 0. -/
def failedWrite : List Byte := zeros 12 ++ [4, 0, 3, 0]

/-- F35 then enters the safe state, where no scan is compared (R550, R571). -/
theorem nvmeCqEntry_failed_unfit {t : State} (h : exec (.nvmeCqEntry 1 failedWrite) drivingUnderSafe = .next t) :
    t.cfg.unfit = true := by
  have ht : (match exec (.nvmeCqEntry 1 failedWrite) drivingUnderSafe with
    | .next u => u.cfg.unfit
    | _ => false) = true := by decide +kernel
  rw [h] at ht
  exact ht

/-- Refutes O58: the severity of the F35 that a drive's third failure in a row signals (R331) is the host's to set (R568), and
under SAFE it enters the safe state, which ends the scan of the configuration besides; so the part `cfg` of the state does not
stay as it was. -/
theorem not_storeDrives : ¬ Obligations.StoreDrives := by
  rintro ⟨-, -, -, h, -⟩
  obtain ⟨t, ht, -, -, -, -, -, hcfg⟩ := h drivingUnderSafe 1 failedWrite outstandingWrite (by decide +kernel)
    (by decide +kernel) (by decide +kernel) (by decide +kernel) (by decide +kernel) (by decide +kernel)
  have hu : t.cfg.unfit = true := nvmeCqEntry_failed_unfit ht
  rw [hcfg] at hu
  exact Bool.false_ne_true hu

end Sys2Proof.Machine

/-! ## The deadline of a seal under a severity of SAFE (O59) -/

namespace Sys2Proof.Machine

/-- A seal that fell due because its interval had passed (R348). -/
def dueOnInterval : SealDue := { reason := 0, tick := 0, forMb := none, after := none }

/-- A device that is acquiring, in a configuration scan that is to be compared (R550), its collector on, where the host has set
the severity of F32 to SAFE (R568), and a seal has been due for four intervals of 1,000 ms with none completing (R350). -/
def overdueUnderSafe : State :=
  { State.reset with
    dev := { State.reset.dev with powered := true, acq := .running }
    cfg := { State.reset.cfg with checkedValid := true, unfit := false }
    flt := { State.reset.flt with on := true, sev := tabMod State.reset.flt.sev 2 fun w => w ||| 3 }
    sealer := { State.reset.sealer with due := [dueOnInterval], timer := 1000000000 } }

/-- F32 then enters the safe state, where no scan is compared (R550, R571). -/
theorem sealDeadline_missed_unfit {t : State} (h : exec .sealDeadline overdueUnderSafe = .next t) : t.cfg.unfit = true := by
  have ht : (match exec .sealDeadline overdueUnderSafe with
    | .next u => u.cfg.unfit
    | _ => false) = true := by decide +kernel
  rw [h] at ht
  exact ht

/-- Refutes O59: the severity of the F32 that a missed seal deadline signals (R350) is the host's to set (R568), and under SAFE
it enters the safe state, which ends the scan of the configuration besides; so the part `cfg` of the state does not stay as it
was. -/
theorem not_sealing : ¬ Obligations.Sealing := by
  rintro ⟨-, -, -, -, -, -, -, -, -, -, -, -, h, -⟩
  obtain ⟨t, ht, -, -, hcfg, -⟩ := h overdueUnderSafe rfl rfl rfl rfl (by decide) (.inl (by decide))
  have hu : t.cfg.unfit = true := sealDeadline_missed_unfit ht
  rw [hcfg] at hu
  exact Bool.false_ne_true hu

end Sys2Proof.Machine

/-! ## The severities after reset (O9) -/

namespace Sys2Proof.Machine

/-- Settles O9, register by register. -/
theorem severitiesReset : Obligations.SeveritiesReset :=
  ⟨rfl, rfl, rfl, rfl, rfl, rfl, rfl, rfl, rfl, rfl, rfl, rfl, rfl, rfl, rfl, rfl⟩

end Sys2Proof.Machine

/-! ## EVT_SUMMARY (O10) -/

namespace Sys2Proof.Machine

theorem testBit_foldl_or (l : List Nat) (m b : Nat) :
    (l.foldl (fun m b => m ||| 2 ^ b) m).testBit b = (m.testBit b || decide (b ∈ l)) := by
  induction l generalizing m with
  | nil => simp
  | cons x l ih =>
    rw [List.foldl_cons, ih, Nat.testBit_or, Nat.testBit_two_pow, Bool.or_assoc]
    simp [eq_comm]

theorem testBit_maskOf (l : List Nat) (b : Nat) : (maskOf l).testBit b = decide (b ∈ l) := by
  simp [maskOf, testBit_foldl_or]

theorem maskOf_lt {l : List Nat} {n : Nat} (h : ∀ b ∈ l, b < n) : maskOf l < 2 ^ n :=
  Nat.lt_pow_two_of_testBit _ fun i hi => by
    rw [testBit_maskOf]
    exact decide_eq_false fun hm => absurd (h i hm) (by omega)

/-- The groups of events of which something is set. -/
theorem maskOf_groups_lt (p : Nat → Bool) : maskOf ((List.range 16).filter p) < 2 ^ 16 :=
  maskOf_lt fun _ hb => List.mem_range.mp (List.mem_filter.mp hb).1

theorem evtSummary_testBit_raw (s : State) (g : Fin 16) : (evtSummary s).testBit (16 + g.val) = (evtRaw g.val s != 0) := by
  rw [evtSummary, Nat.mul_comm, Nat.testBit_two_pow_mul_add _ (maskOf_groups_lt _), if_neg (by omega),
    Nat.add_sub_cancel_left, testBit_maskOf]
  rw [Bool.eq_iff_iff]
  simp [g.isLt]

theorem evtSummary_testBit_status (s : State) (g : Fin 16) :
    (evtSummary s).testBit g.val = (evtRaw g.val s &&& evtEnable g.val s != 0) := by
  rw [evtSummary, Nat.mul_comm, Nat.testBit_two_pow_mul_add _ (maskOf_groups_lt _), if_pos g.isLt, testBit_maskOf]
  rw [Bool.eq_iff_iff]
  simp [g.isLt]

theorem evtSummary_lt (s : State) : evtSummary s < 4294967296 := by
  have h1 := maskOf_groups_lt fun g => evtRaw g s != 0
  have h2 := maskOf_groups_lt fun g => evtRaw g s &&& evtEnable g s != 0
  unfold evtSummary
  omega

theorem narrowReg_evtRaw (s : State) (g : Fin 16) : narrowReg (0x3000 + 0x20 * g.val) s = (evtRaw g.val s).toNat := by
  fin_cases g <;> rfl

theorem narrowReg_evtStatus (s : State) (g : Fin 16) :
    narrowReg (0x3004 + 0x20 * g.val) s = (evtRaw g.val s &&& evtEnable g.val s).toNat := by
  fin_cases g <;> rfl

theorem toNat_ne_zero_iff (w : Word) : (w != 0) = true ↔ w.toNat ≠ 0 := by
  simp [BitVec.toNat_eq]

/-- Settles O10: the two halves of the register are the masks of the groups with bits set. -/
theorem eventSummary : Obligations.EventSummary := by
  refine ⟨fun s g => ⟨?_, ?_, evtSummary_lt s, rfl⟩, fun s v be c => writeReg_readOnly (by decide) v be c s⟩
  · rw [narrowReg_evtRaw, ← toNat_ne_zero_iff, ← evtSummary_testBit_raw]
    rfl
  · rw [narrowReg_evtStatus, ← toNat_ne_zero_iff, ← evtSummary_testBit_status]
    rfl

end Sys2Proof.Machine

/-! ## CFG_UNLOCK (O8) -/

namespace Sys2Proof.Machine

/-- `e` stands in the event log with fewer than `k` entries behind it. -/
def LogHolds (e : LogEntry) (k : Nat) (s : State) : Prop := ∃ l r, s.evt.log = l ++ e :: r ∧ r.length < k

theorem LogHolds.mem {e : LogEntry} {k : Nat} {s : State} (h : LogHolds e k s) : e ∈ s.evt.log := by
  obtain ⟨l, r, hl, -⟩ := h
  simp [hl]

/-- An entry leaves the log only when 4,096 have come behind it (R576). -/
theorem logPush_keeps (e e' : LogEntry) (l r : List LogEntry) (h : r.length + 2 ≤ 4096) :
    ∃ l', logPush e' (l ++ e :: r) = l' ++ e :: (r ++ [e']) := by
  refine ⟨l.drop ((l ++ e :: (r ++ [e'])).length - 4096), ?_⟩
  rw [logPush, List.append_assoc, List.cons_append]
  exact List.drop_append_of_le_length (by simp only [List.length_append, List.length_cons, List.length_nil]; omega)

@[simp] theorem logCopy_evt (kind code : Nat) (s : State) : (logCopy kind code s).evt = s.evt := by
  unfold logCopy
  split
  · split
    · rfl
    · split <;> rfl
  · rfl

/-- The event-log entry of a raise of Gg.b (R576). -/
def raisedEntry (forced : Bool) (g b : Nat) (data : List Byte) (s : State) : LogEntry :=
  { seq := s.evt.next, kind := 0, eflags := b2n forced, code := 32 * g + b, sec := (t0Of s.tm.a).1, ns := (t0Of s.tm.a).2,
    data := padTo 16 data }

theorem raiseOne_log (forced : Bool) (g b : Nat) (data : List Byte) (s : State) (h : hasEvent s.dev.variant g b = true) :
    (raiseOne forced g b data s).evt.log =
      logPush (raisedEntry forced g b data s) s.evt.log := by
  simp only [raiseOne, h, if_true]
  split <;> simp [pendVector, logEntry, raisedEntry]

/-- The entry that a raise writes is the newest. -/
theorem raiseOne_logs (forced : Bool) (g b : Nat) (data : List Byte) (s : State) (h : hasEvent s.dev.variant g b = true) :
    LogHolds (raisedEntry forced g b data s) 1 (raiseOne forced g b data s) := by
  refine ⟨s.evt.log.drop (s.evt.log.length + 1 - 4096), [], ?_, by simp⟩
  rw [raiseOne_log forced g b data s h, logPush, List.length_append, List.length_singleton]
  exact List.drop_append_of_le_length (by omega)

theorem LogHolds.afterRaiseOne {e : LogEntry} {k : Nat} {s : State} (h : LogHolds e k s) (hk : k < 4096) (forced : Bool)
    (g b : Nat) (data : List Byte) : LogHolds e (k + 1) (raiseOne forced g b data s) := by
  obtain ⟨l, r, hl, hr⟩ := h
  by_cases hx : hasEvent s.dev.variant g b = true
  · obtain ⟨l', hl'⟩ := logPush_keeps e (raisedEntry forced g b data s) l r (by omega)
    exact ⟨l', _, by rw [raiseOne_log forced g b data s hx, hl, hl'], by simpa using hr⟩
  · exact ⟨l, r, by simpa [raiseOne, hx] using hl, by omega⟩

theorem LogHolds.mono {e : LogEntry} {k n : Nat} {s : State} (h : LogHolds e k s) (hk : k ≤ n) : LogHolds e n s := by
  obtain ⟨l, r, hl, hr⟩ := h
  exact ⟨l, r, hl, by omega⟩

/-- A raise leaves its entry in the log, the events that it brings along behind it (R251, R519, R576). -/
theorem raiseWith_logs (forced : Bool) (g b : Nat) (data : List Byte) (s : State) (h : hasEvent s.dev.variant g b = true) :
    LogHolds (raisedEntry forced g b data s) 3 (raiseWith forced g b data s) := by
  have h1 := raiseOne_logs forced g b data s h
  have h2 := h1.afterRaiseOne (by omega) false 8 22 []
  simp only [raiseWith, h, if_true, raiseLogReady, raiseOverflow]
  split <;> split
  · exact h2.afterRaiseOne (by omega) false 0 23 []
  · exact h2.mono (by omega)
  · exact (h1.afterRaiseOne (by omega) false 0 23 []).mono (by omega)
  · exact h1.mono (by omega)

theorem fieldAt_leBytes_four {v : Nat} (h : v < 2 ^ 32) (a b : List Byte) (ha : a.length = 4) :
    fieldAt (a ++ (leBytes 4 v ++ b)) 4 4 = v := by
  rw [fieldAt, List.drop_left' ha, List.take_left' (leBytes_length 4 v)]
  simp only [leBytes, leNat, BitVec.toNat_ofNat]
  omega

/-- What is filled up with zeros keeps its fields. -/
theorem fieldAt_padTo {bs : List Byte} {o n k : Nat} (h : o + n ≤ bs.length) (hk : bs.length ≤ k) :
    fieldAt (padTo k bs) o n = fieldAt bs o n := by
  have hd : n ≤ (bs.drop o).length := by simp only [List.length_drop]; omega
  have hp : padTo k bs = bs ++ List.replicate (k - bs.length) 0 := List.take_of_length_le (by simp; omega)
  rw [fieldAt, hp, List.drop_append_of_le_length (by omega), List.take_append_of_le_length hd, fieldAt]

theorem cfgUnlock_reached {s : State} (h : s.reached = true) (v : Word) (be : BitVec 4) :
    exec (.cfgUnlock v be) s = .next (writeUnlock v be s.spent) := congrArg _ (barWrite_reached h)

/-- The low two bytes of CFG_STATUS leave the class above them (R539, R554). -/
theorem cfgStatus_class (s : State) (h : s.cfg.unlock < 256) : cfgStatus s / 65536 % 256 = s.cfg.unlock := by
  have hb (b : Bool) : b2n b ≤ 1 := by cases b <;> decide
  have h1 := hb (suspended s)
  have h2 := hb s.cfg.checkedValid
  have h3 := hb s.cfg.mismatchSeen
  have h4 := hb s.cfg.mismatchNow
  unfold cfgStatus
  omega

theorem writeUnlock_bad {v : Word} {s : State} (h : v.toNat < 0xC0DE0001 ∨ 0xC0DE0005 < v.toNat) :
    writeUnlock v 0xF#4 s = raiseWith false 1 2 (zeros 4 ++ leBytes 4 v.toNat) s := by
  have hn : ¬ (0xC0DE0001 ≤ v.toNat ∧ v.toNat ≤ 0xC0DE0005) := by omega
  simp [writeUnlock, fullWidth, hn]

theorem writeUnlock_good {v : Word} {s : State} (h : 0xC0DE0001 ≤ v.toNat ∧ v.toNat ≤ 0xC0DE0005) :
    writeUnlock v 0xF#4 s = { s with cfg := { s.cfg with unlock := v.toNat % 256 } } := by
  simp [writeUnlock, fullWidth, h]

theorem writeUnlock_narrow {v : Word} {be : BitVec 4} {s : State} (h : be ≠ 0xF#4) :
    writeUnlock v be s = refuseWidth 0x1000 v be s := by
  simp [writeUnlock, fullWidth, h]

/-- Settles O8: the class armed, and the entry that a refusal logs. -/
theorem unlockArms : Obligations.UnlockArms := by
  refine ⟨fun s v h hv => ⟨_, cfgUnlock_reached h v _, writeUnlock_good hv, ?_, ?_⟩,
    fun s v h hv => ⟨_, cfgUnlock_reached h v _, ?_⟩, fun s v be h hb => ⟨_, cfgUnlock_reached h v be, ?_⟩⟩
  · rw [writeUnlock_good hv, cfgStatus_class _ (Nat.mod_lt _ (by decide))]
  · exact cfgStatus_class s.spent (Nat.zero_lt_succ 255)
  · rw [writeUnlock_bad hv]
    have hx : hasEvent s.spent.dev.variant 1 2 = true := by cases s.spent.dev.variant <;> decide
    refine ⟨raises_raiseWith _ _ _ _ _, ⟨_, (raiseWith_logs false 1 2 _ s.spent hx).mem, rfl, rfl, ?_⟩, by simp [State.spent]⟩
    rw [raisedEntry, fieldAt_padTo (by simp [zeros, leBytes_length]) (by simp [zeros, leBytes_length])]
    simpa using fieldAt_leBytes_four v.isLt (zeros 4) [] rfl
  · rw [writeUnlock_narrow hb]
    have hx : hasEvent s.spent.dev.variant 1 1 = true := by cases s.spent.dev.variant <;> decide
    refine ⟨raises_refuseWidth _ _ _ _, ⟨_, (raiseWith_logs false 1 1 _ s.spent hx).mem, rfl, rfl, ?_⟩,
      by simp [State.spent, refuseWidth]⟩
    rw [raisedEntry, fieldAt_padTo (by simp [writeData, leBytes_length]) (by simp [writeData, leBytes_length]), writeData, List.append_assoc]
    exact fieldAt_leBytes_four v.isLt _ _ (leBytes_length 4 _)

end Sys2Proof.Machine

/-! ## A mailbox command acts only in its mailbox (O6) -/

namespace Sys2Proof.Machine

/-- A mailbox that runs no command of the opcode is left alone (R499, log 4). -/
theorem command_unserved {m op : Nat} {s : State} (f : Cmd) (h : mbRuns m op s = false) : command m op f s = s := by
  simp [command, h]

/-- Settles O6: each of the rows is the rules of its command, run by its mailbox. -/
theorem unservedCommands : Obligations.UnservedCommands := by
  intro p d s m hp hr
  have hc : ∃ f : Cmd, exec (p.1 m) s = .next (command m.val p.2 f s) := by
    revert p
    simp only [List.forall_mem_cons, List.not_mem_nil, false_implies, implies_true, and_true]
    and_intros <;> exact fun _ => ⟨_, rfl⟩
  obtain ⟨f, hf⟩ := hc
  rw [hf, command_unserved f hr]

end Sys2Proof.Machine

/-! ## OPEN suspends the running scan (O11) -/

namespace Sys2Proof.Machine

/-- A device that the host reaches, in a configuration scan that is to be compared (R550). -/
def scanning : State :=
  { State.reset with
    dev := { State.reset.dev with powered := true }
    cfg := { State.reset.cfg with unfit := false } }

/-- Refutes O11: a write that sets OPEN suspends the pass under way (R550), which is then not compared, so that CFG_OPEN changes
more than the bit OPEN. -/
theorem not_controlRegisters : ¬ Obligations.ControlRegisters := by
  rintro ⟨-, -, h, -⟩
  have hu : (match exec (.cfgOpen 1 0xF#4) scanning with
    | .next t => t.cfg.unfit
    | _ => false) = true := by decide +kernel
  rw [h scanning 1 (by decide +kernel) rfl rfl rfl] at hu
  exact Bool.false_ne_true hu

end Sys2Proof.Machine

/-! ## The writes of the fault registers (O14) -/

namespace Sys2Proof.Machine

theorem fltSevWrite_reached {s : State} (h : s.reached = true) (i : Fin 4) (v : Word) (be : BitVec 4) :
    exec (.fltSevWrite i v be) s = .next (writeFltSev i.val v be s.cfg.unlock s.spent) := congrArg _ (barWrite_reached h)

theorem fltCtrlWrite_reached {s : State} (h : s.reached = true) (v : Word) (be : BitVec 4) :
    exec (.fltCtrlWrite v be) s = .next (writeFltCtrl v be s.cfg.unlock s.spent) := congrArg _ (barWrite_reached h)

theorem fltStatusClear_reached {s : State} (h : s.reached = true) (hi : Bool) (v : Word) (be : BitVec 4) :
    exec (.fltStatusClear hi v be) s = .next (writeFltStatus hi v be s.spent) := congrArg _ (barWrite_reached h)

theorem fltHistPop_reached {s : State} (h : s.reached = true) (v : Word) (be : BitVec 4) :
    exec (.fltHistPop v be) s = .next (writeHistPop v be s.spent) := congrArg _ (barWrite_reached h)

/-- Clearing only bits that are set is clearing them all. -/
theorem and_not_and_self (st b l : Word64) : st &&& ~~~(b &&& st &&& ~~~l) = st &&& ~~~(b &&& ~~~l) := by
  ext i
  simp only [BitVec.getElem_and, BitVec.getElem_not]
  cases st[i] <;> simp

theorem clearStatus_status (b : Word64) (s : State) :
    (clearStatus b s).flt.status = s.flt.status &&& ~~~(b &&& ~~~(liveMask s)) := and_not_and_self _ _ _

/-- Settles O14, register by register: the key, the width, and what an accepted write does. -/
theorem faultRegisterWrites : Obligations.FaultRegisterWrites := by
  refine ⟨fun s i v h hk => ?_, fun s i v be h hb => ⟨_, fltSevWrite_reached h i v be, ?_⟩,
    fun s i v h hk => ⟨_, fltSevWrite_reached h i v _, ?_⟩, fun s v h hk => ?_,
    fun s hi v h => ⟨_, fltStatusClear_reached h hi v _, clearStatus_status _ s.spent, rfl⟩, fun s v h hv => ?_⟩
  · rw [fltSevWrite_reached h, hk, writeFltSev, keyed_full]
    rfl
  · rw [writeFltSev, keyed_narrow hb]
    exact raises_refuseWidth _ _ _ _
  · rw [writeFltSev, keyed_locked hk]
    exact raises_refuseWrite _ _ _ _
  · rw [fltCtrlWrite_reached h, hk, writeFltCtrl, keyed_full]
    rfl
  · rw [fltHistPop_reached h, writeHistPop, special_full, if_pos hv]
    rfl

end Sys2Proof.Machine

/-! ## Bus mastering, power states and the link (O20) -/

namespace Sys2Proof.Machine

theorem linkOk_false {v : Variant} {g w : Nat} (h : g = 0 ∨ 5 < g ∨ w ∉ [1, 2, 4, 8, 16]) : linkOk v g w = false := by
  have hw : w ∉ [1, 2, 4, 8, 16] → (w == 1 || w == 2 || w == 4 || w == 8 || (w == 16 && v != .b9128)) = false := by
    intro hw
    simp only [List.mem_cons, List.not_mem_nil, or_false, not_or] at hw
    obtain ⟨h1, h2, h4, h8, h16⟩ := hw
    simp [h1, h2, h4, h8, h16]
  rcases h with h | h | h
  · simp [linkOk, h]
  · simp [linkOk, Nat.not_le.mpr h]
  · rw [linkOk, hw h, Bool.and_false]

theorem d3hotExit_sends {s : State} (hc : configServed s = true) (hd : s.pcie.d3hot = true) :
    exec .d3hotExit s = .next (sendLtr (raise 14 14 { s with pcie := { s.pcie with d3hot := false } })) :=
  if_pos ⟨hc, hd⟩

/-- What a raise leaves of the LTR mechanism's enable. -/
theorem raise_ltrEn (g b : Nat) (s : State) : (raise g b s).pcie.ltrEn = s.pcie.ltrEn :=
  congrArg (·.pcie.ltrEn) (raise_hushed g b s)

theorem raises_sendLtr_disabled {es : List (Nat × Nat)} {s u : State} (h : s.raises es u) (hl : u.pcie.ltrEn = false) :
    s.raises es (sendLtr u) := by
  rwa [sendLtr_disabled hl]

/-- Settles O20, row by row. -/
theorem endpointPower : Obligations.EndpointPower := by
  refine ⟨fun s hc hb => ⟨_, if_pos ⟨hc, hb⟩, raises_raise _ _ _⟩, fun s a b c d l hc => congrArg _ (if_pos hc),
    fun s hc => congrArg _ (if_pos hc), fun s hc hd hl => ⟨_, d3hotExit_sends hc hd, ?_⟩,
    fun s hc hd => d3hotExit_sends hc hd, fun s ha hd ht hr => if_pos ⟨ha, hd, ht, by simpa using hr⟩,
    fun s g w hc hd hl => ⟨_, if_pos ⟨hc, by simp [hd], hl⟩, raises_raise _ _ _⟩,
    fun s g w hd hl hg => ⟨_, if_pos ⟨hd, hl, .inl hg⟩, raises_raise _ _ _⟩,
    fun s g w h => ⟨if_neg (by simp [linkOk_false h]), if_neg (by simp [linkOk_false h])⟩⟩
  exact raises_sendLtr_disabled (raises_raise _ _ _) ((raise_ltrEn _ _ _).trans hl)

end Sys2Proof.Machine

/-! ## The end of the safe state lets the record go on (O16) -/

namespace Sys2Proof.Machine

/-- A device in safe state whose record is frozen (R571), no condition of its faults live, where the host has armed the unlock
of class 2 (R539). -/
def releasing : State :=
  { State.reset with
    dev := { State.reset.dev with powered := true, safe := true }
    cfg := { State.reset.cfg with unlock := 2 }
    eq := { State.reset.eq with frozen := true, safeHold := true } }

/-- Refutes O16: the release that ends the safe state lets the frozen queue to the host go on (R573), so that it changes more of the
queue than the hold. -/
theorem not_faultLatching : ¬ Obligations.FaultLatching := by
  rintro ⟨-, -, -, h, -⟩
  obtain ⟨t, ht, -, heq, -⟩ := h releasing (by decide +kernel) rfl (by decide +kernel) (by decide +kernel)
  have hu : (match exec (.fltSafeRelease 1 0xF#4) releasing with
    | .next t => t.eq.frozen
    | _ => true) = false := by decide +kernel
  rw [ht] at hu
  simp only [heq] at hu
  exact Bool.noConfusion hu

end Sys2Proof.Machine

/-! ## A Function Level Reset before READY (O12) -/

namespace Sys2Proof.Machine

/-- A device with power, out of reset, that is not yet READY (R599). -/
def starting : State := { State.reset with dev := { State.reset.dev with powered := true } }

/-- Refutes O12: until READY a configuration write gets a Retry Status (R543), so that none begins an FLR. -/
theorem not_deviceResets : ¬ Obligations.DeviceResets := by
  rintro ⟨h, -⟩
  obtain ⟨t, ht, -, -, -, hf, -⟩ := h starting (by decide +kernel)
  have hs : exec .flr starting = .next starting := rfl
  rw [hs] at ht
  cases ht
  exact Bool.false_ne_true hf

end Sys2Proof.Machine

/-! ## The disarm of a slot that is due (O31) -/

namespace Sys2Proof.Machine

/-- A device that the host reaches, where slot 0, which sets flag 0, has been reached and is due (R391). -/
def slotDue : State :=
  { State.reset with
    dev := { State.reset.dev with powered := true }
    sch := { State.reset.sch with slots := tabMod State.reset.sch.slots 0 fun q =>
      { q with cfg := 0x10, armed := true, due := some (0, some 0) } } }

/-- Refutes O31: a slot that has been reached is dispatched although it is disarmed (R391, R396), so that SCH_DISARM changes the
flag besides. -/
theorem not_schedulerSlots : ¬ Obligations.SchedulerSlots := by
  rintro ⟨-, h, -⟩
  have hu : (match exec (.schDisarm 0) slotDue with
    | .next t => t.sch.sf
    | _ => 0) = 1 := by decide +kernel
  rw [h slotDue 0 (by decide +kernel)] at hu
  exact absurd hu (by decide +kernel)

end Sys2Proof.Machine


/-! ## A READ of PLL_CFG with a field out of range (O30) -/

namespace Sys2Proof.Machine

/-- A request of PLL_CFG with OP READ and OPS 0, whose byte 11 is neither 0 nor 1 (R445). -/
def readsBadFlag : List Byte := [1] ++ List.replicate 10 0 ++ [2] ++ List.replicate 244 0

/-- A device whose mailbox 0 runs that request. -/
def pllReading : State :=
  { State.reset with
    dev := { State.reset.dev with powered := true }
    mb := tabMod State.reset.mb 0 fun q => { q with state := .running, opcode := 0x0B01, req := readsBadFlag } }

/-- Refutes O30: a READ is validated like every other request (R445, log entry 26), so that a byte 11 above 1 completes it
BAD_ARG. -/
theorem not_clockReferences : ¬ Obligations.ClockReferences := by
  rintro ⟨-, -, -, -, -, -, -, -, -, -, h, -⟩
  obtain ⟨t, ht, hc⟩ := h pllReading 0 (by decide +kernel) (by decide +kernel) (by decide +kernel) (by decide +kernel)
  have hu : (match exec (.pllCfg 0) pllReading with
    | .next t => (mbOf t 0).status
    | _ => 0) = stBadArg := by decide +kernel
  have hok : (mbOf t 0).status = stOk := hc.done.2
  rw [ht] at hu
  exact absurd (hok.symm.trans hu) (by decide)

end Sys2Proof.Machine

/-! ## A port disabled while the loops hold over (O35) -/

namespace Sys2Proof.Machine

/-- A device in holdover with F7 not live yet, where F7 has severity SAFE and port 0 is enabled. -/
def holding : State :=
  { State.reset with
    flt := { State.reset.flt with on := true, sev := tabMod State.reset.flt.sev 0 fun w => w ||| 0xC000 }
    pll := { State.reset.pll with s := { State.reset.pll.s with state := .holdover } }
    rl := { State.reset.rl with ports := tabMod State.reset.rl.ports 0 fun q => { q with enable := true } } }

/-- Refutes O35: to disable a port settles the reference (R451), and where the loops hold over that makes F7 live, which under
severity SAFE enters the safe state: the settings of a port do not leave the device's state unchanged. -/
theorem not_ridgelineDiscovery : ¬ Obligations.RidgelineDiscovery := by
  rintro ⟨-, -, -, -, -, -, -, -, -, -, -, -, -, -, -, -, -, -, -, -, -, h, -⟩
  obtain ⟨-, -, -, -, -, -, -, -, -, -, hdev, -⟩ := h holding 0 0 0 0 0
  have hu : (setPort 0 0 0 0 holding).dev.safe = true := by decide +kernel
  exact absurd (hdev ▸ hu) (by decide +kernel)

end Sys2Proof.Machine


/-! ## NOP and the firmware commands (O25) -/

namespace Sys2Proof.Machine

/-- The failing check of a slot depends on the state through the variant and the rollback floor alone (R361). -/
theorem slotFail_congr (size : Option Nat) (i : SlotImage) {s t : State} (hv : t.dev.variant = s.dev.variant)
    (hf : t.summit.floor = s.summit.floor) : slotFail size i t = slotFail size i s := by
  unfold slotFail
  rw [hv, hf]

theorem runs_of_serves {s : State} {m op : Nat} (h : s.serves m op = true) : mbRuns m op s = true :=
  (Bool.and_eq_true_iff.mp h).1

/-- A command that goes on from one row to another completes as one that ends at once, where its mailbox is as before. -/
theorem finishMb_completes {m : Fin 8} {op : Nat} {s u : State} (hs : s.serves m.val op = true) (hu : u.mb = s.mb) (r : Reply) :
    u.completes m.val r.status r.detail r.body (finishMb m.val op r u) := by
  have hmb : mbOf u m.val = mbOf s m.val := by simp only [mbOf, hu]
  have hrun : mbRuns m.val op u = true := by
    rw [mbRuns, hmb]
    exact runs_of_serves hs
  rw [finishMb, if_pos hrun]
  exact mbComplete_completes m.isLt r (hmb ▸ tunnel_of_serves hs)

theorem checkedA_fail (s : State) : (checkedA s).fail = slotAFail s := by
  simp only [checkedA]
  split
  · rfl
  · rfl

/-- A verification of slot A that failed leaves the slot erased (R527). -/
theorem eraseSlotA_setSlot (x : Slot) (s : State) : eraseSlotA (setSlot 0 x s) = setSlot 0 { x with gone := true } s := by
  simp [eraseSlotA, setSlot, tabMod_tabMod, Function.comp_def]

/-- What FW_STAGED reads back of the bytes that its window brought (R527). -/
def stagedOf (m : Nat) (r : FlashRead) (s : State) : SlotImage :=
  stagedImage (readBack r ((cwOf s (s.arg m 0 1)).inn.take (s.arg m 4 4)))

theorem execFwStaged_none {m : Fin 8} {r : FlashRead} {c : Bool} {s : State}
    (h : s.sealer.fw ≠ some m.val ∨ (cwOf s (s.arg m.val 0 1)).inn.length < s.arg m.val 4 4) :
    execFwStaged m r c s = .next s := by
  refine if_neg fun ⟨hf, hn⟩ => ?_
  rcases h with h | h
  · exact h hf
  · exact absurd hn (Nat.not_le.mpr h)

theorem execFwStaged_broken {m : Fin 8} {r : FlashRead} {s : State} (hf : s.sealer.fw = some m.val)
    (hn : s.arg m.val 4 4 ≤ (cwOf s (s.arg m.val 0 1)).inn.length) :
    execFwStaged m r false s = .next (finishMb m.val 0x0A01 { status := stInternal, detail := 0x0107, body := [] }
      (setSlot 0 { slotOf_ .empty 1 with gone := true } (endFw s))) := by
  rw [← eraseSlotA_setSlot]
  exact if_pos ⟨hf, hn⟩

theorem execFwStaged_refused {m : Fin 8} {r : FlashRead} {s : State} (hf : s.sealer.fw = some m.val)
    (hn : s.arg m.val 4 4 ≤ (cwOf s (s.arg m.val 0 1)).inn.length)
    (h0 : slotFail (some (s.arg m.val 4 4)) (stagedOf m.val r s) s ≠ 0) :
    execFwStaged m r true s =
      let f := slotFail (some (s.arg m.val 4 4)) (stagedOf m.val r s) s
      .next (finishMb m.val 0x0A01 { status := stSecurity, detail := 0x0100 + f, body := [] }
        (setSlot 0 { slotOf_ (stagedOf m.val r s) f with gone := true } (endFw s))) := by
  refine ((if_pos ⟨hf, hn⟩).trans (if_neg Bool.false_ne_true)).trans ((if_neg h0).trans ?_)
  exact congrArg (fun u => Host.Outcome.next (finishMb m.val 0x0A01 _ u)) (eraseSlotA_setSlot ..)

theorem execFwStaged_accepted {m : Fin 8} {r : FlashRead} {s : State} (hf : s.sealer.fw = some m.val)
    (hn : s.arg m.val 4 4 ≤ (cwOf s (s.arg m.val 0 1)).inn.length)
    (h0 : slotFail (some (s.arg m.val 4 4)) (stagedOf m.val r s) s = 0) :
    execFwStaged m r true s =
      .next (finishMb m.val 0x0A01 (okWith (stagedReply (slotOf_ (stagedOf m.val r s) 0)))
        (raise 0 14 (setSlot 0 (slotOf_ (stagedOf m.val r s) 0) (endFw s)))) := by
  rw [show slotOf_ (stagedOf m.val r s) 0 = slotOf_ (stagedOf m.val r s) _ from congrArg _ h0.symm]
  exact ((if_pos ⟨hf, hn⟩).trans (if_neg Bool.false_ne_true)).trans (if_pos h0)

theorem execFwCommitted_ok {m : Fin 8} {s : State} (hf : s.sealer.fw = some m.val) (hr : s.arg m.val 0 1 = 1) :
    execFwCommitted m true s =
      let x := s.summit.slots[0]
      let f := max s.summit.floor x.rollback
      let u := setSlot 1 x (endFw s)
      .next (finishMb m.val 0x0A02 (okWith (leBytes 4 x.version ++ leBytes 4 f))
        (raise 0 15 { u with summit := { u.summit with floor := f } })) := by
  have hb : bitOf 0 (fieldAt (mbOf (setSlot 1 (endFw s).summit.slots[0] (endFw s)) m.val).req 0 1) = true := by
    show bitOf 0 (s.arg m.val 0 1) = true
    rw [hr]
    rfl
  simp only [execFwCommitted, if_pos hf, Bool.not_true, Bool.false_eq_true, if_false, if_pos hb]
  rfl

/-- Settles O25. -/
theorem firmwareCommands : Obligations.FirmwareCommands := by
  refine ⟨?_, ?_, ?_, ?_, ?_, ?_, ?_, ?_, ?_, ?_, ?_, ?_⟩
  · intro s m hs hz
    exact ⟨_, rfl, command_completes hs (r := okWith []) (if_pos hz) rfl⟩
  · intro s m hs hz
    refine ⟨_, rfl, command_completes hs (r := fail stBadArg) (if_neg ?_) rfl⟩
    simp [hz]
  · intro s m hs hk h1 h2 h4 hmin hmax hfw hcl
    refine congrArg Host.Outcome.next (command_waits hs ?_)
    simp only [State.arg] at hk h4 hmin hmax hcl
    rw [fwStageCmd, if_neg (by simp [hk, h1, h2, h4, hmin, hmax]), if_neg (by simp [hfw]), if_neg (by simp [hcl])]
    rfl
  · intro s m n hs hk h1 h2 h4 hmin hmax hfw
    simp only [State.arg] at hk h4 hmin hmax
    refine ⟨_, rfl, command_completes hs (r := fail stBusy) ?_ rfl⟩
    rw [fwStageCmd, if_neg (by simp [hk, h1, h2, h4, hmin, hmax]), if_pos (by simp [hfw])]
    rfl
  · intro s m r hs hf hn h0
    refine ⟨_, _, raises_raise 0 14 _, execFwStaged_accepted hf hn h0, ?_⟩
    exact finishMb_completes hs (raise_mb 0 14 (setSlot 0 _ (endFw s))) (okWith _)
  · intro s m r hs hf hn h0
    refine ⟨_, _, rfl, execFwStaged_refused hf hn h0, ?_⟩
    exact finishMb_completes hs (u := setSlot 0 _ (endFw s)) rfl ⟨stSecurity, _, []⟩
  · intro s m r hs hf hn
    refine ⟨_, _, rfl, execFwStaged_broken hf hn, ?_⟩
    exact finishMb_completes hs (u := setSlot 0 _ (endFw s)) rfl ⟨stInternal, 0x0107, []⟩
  · intro s m r c h
    exact execFwStaged_none h
  · intro s m hs h0 h1 h4 h8 hfw hsl ha
    refine congrArg Host.Outcome.next (command_waits hs ?_)
    simp only [State.arg] at h0 h4
    rw [fwCommitCmd, if_neg (by simp [h0, h1, h4, h8]), if_neg (by simp [hfw]), if_neg (by simp [hsl]), if_neg (by simp [ha])]
    rfl
  · intro s m hs h0 h1 h4 h8 hfw hsl ha
    simp only [State.arg] at h0 h4
    refine ⟨_, _, rfl, rfl, command_completes hs (r := ⟨stSecurity, 0x0100 + slotAFail s, []⟩) ?_ rfl, checkedA_fail s⟩
    rw [fwCommitCmd, if_neg (by simp [h0, h1, h4, h8]), if_neg (by simp [hfw]), if_neg (by simp [hsl]), if_pos ha]
    rfl
  · intro s m hs hf hr
    refine ⟨_, _, raises_raise 0 15 _, execFwCommitted_ok hf hr, ?_⟩
    exact finishMb_completes hs (raise_mb 0 15 { setSlot 1 _ (endFw s) with summit := _ }) (okWith _)
  · intro s m hs hz
    refine ⟨_, rfl, command_completes hs (r := okWith _) (if_neg ?_) rfl⟩
    simp [hz]

end Sys2Proof.Machine


/-! ## The doorbell of a mailbox and the start of its command (O22) -/

namespace Sys2Proof.Machine

/-! ### The doorbell (R498, R499, R502, R504) -/

/-- The class of a consumed unlock, as a mailbox keeps it (R504). -/
def keepKey (cls : Nat) (q : Mailbox) : Mailbox := { q with keyClass := if cls = 0 then q.keyClass else cls }

/-- What the doorbell makes of a free mailbox whose MBm_CMD is `c`: QUEUED, at the next place in the order (R499). -/
def queuedMb (c : Nat) (s : State) (q : Mailbox) : Mailbox :=
  { q with
    state := .queued, tag := bitsOf 23 16 c, status := 0, detail := 0, opcode := c % 65536, barrier := bitOf 24 c
    key := q.keyClass, req := [], resp := [], order := s.summit.nextOrder, rung := s.tm.ax5 }

/-- A state in which the doorbell of mailbox `m` has been rung. -/
def rungState (m : Nat) (s : State) : State :=
  { s.spent with
    mb := tabMod s.mb m fun q => queuedMb (mbOf s m).cmd.toNat s (keepKey s.cfg.unlock q)
    summit := { s.summit with nextOrder := s.summit.nextOrder + 1 } }

theorem latchKey_zero (m : Nat) (s : State) : latchKey m 0 s = s := by simp [latchKey]

theorem latchKey_busy {m cls : Nat} {s : State} (h : (mbOf s m).state = .queued ∨ (mbOf s m).state = .running) :
    latchKey m cls s = s := by
  refine if_neg fun ⟨_, hf⟩ => ?_
  rcases h with h | h <;> simp [h] at hf

theorem latchKey_free {m : Nat} (cls : Nat) {s : State} (hf : (mbOf s m).state = .idle ∨ (mbOf s m).state = .done) :
    latchKey m cls s = modMb m (keepKey cls) s := by
  by_cases h : cls = 0
  · subst h
    rw [latchKey_zero, modMb, tabMod_unchanged (d := s.mb[0]) rfl]
  · rw [latchKey, if_pos ⟨h, hf⟩]
    exact congrArg (modMb m · s) (funext fun q => by rw [keepKey, if_neg h])

theorem ring_busy {m : Nat} {s : State} (h : (mbOf s m).state = .queued ∨ (mbOf s m).state = .running) :
    ring m s = protoMailbox m s := if_pos h

/-- The doorbell on a free mailbox, and how what it rang is judged (R502, R524). -/
theorem ring_latchKey {m : Nat} (hm : m < 8) {s : State} (hf : (mbOf s m).state = .idle ∨ (mbOf s m).state = .done) :
    ring m (latchKey m s.cfg.unlock s.spent) =
      if bitsOf 31 25 (mbOf s m).cmd.toNat ≠ 0 then
        protoMailbox m (mbComplete m { status := stBadArg, detail := 0x0006, body := [] } (rungState m s))
      else if s.summit.state = .halted then
        mbComplete m { status := stInternal, detail := 0x0003, body := [] } (rungState m s)
      else rungState m s := by
  have hl : latchKey m s.cfg.unlock s.spent = modMb m (keepKey s.cfg.unlock) s.spent := latchKey_free s.cfg.unlock hf
  have hq : mbOf (modMb m (keepKey s.cfg.unlock) s.spent) m = keepKey s.cfg.unlock (mbOf s m) := by
    rw [mbOf_modMb m _ _ hm, if_pos rfl]
    rfl
  have hb : ¬ ((keepKey s.cfg.unlock (mbOf s m)).state = .queued ∨ (keepKey s.cfg.unlock (mbOf s m)).state = .running) := by
    rcases hf with h | h <;> simp [keepKey, h]
  have hu : modMb m (queuedMb (mbOf s m).cmd.toNat s)
      { modMb m (keepKey s.cfg.unlock) s.spent with summit := { s.summit with nextOrder := s.summit.nextOrder + 1 } } =
      rungState m s := by
    simp only [modMb, tabMod_tabMod]
    rfl
  rw [hl]
  unfold ring
  rw [hq, if_neg hb, ← hu]
  rfl

theorem doorbell_reached {m : Fin 8} {v : Word} {be : BitVec 4} {s : State} (h : s.reached = true) :
    exec (.mbDoorbell m v be) s = .next (writeDoorbell m.val v be (latchKey m.val s.cfg.unlock s.spent)) :=
  congrArg Host.Outcome.next (barWrite_reached h)

theorem writeDoorbell_ring {m : Nat} {v : Word} (h : v.getLsbD 0 = true) (s : State) : writeDoorbell m v 0xF#4 s = ring m s :=
  if_pos h

theorem writeDoorbell_none {m : Nat} {v : Word} (h : v.getLsbD 0 = false) (s : State) : writeDoorbell m v 0xF#4 s = s :=
  if_neg (by rw [h]; exact Bool.false_ne_true)

/-! ### The start of a command (R499, R503, R505) -/

/-- A state in which mailbox `m` runs the request that its scratchpad holds. -/
def startedState (m : Nat) (s : State) : State :=
  { s with mb := tabMod s.mb m fun q => { q with state := .running, req := memRead s.summit.scratchpad (256 * m) 256 } }

theorem commandStart_started {m : Fin 8} {s : State} (he : eligible m.val s = true)
    (hs : s.summit.state = .running ∨ s.summit.state = .bootrom) (ht : (mbOf s m.val).tunnel = none) :
    exec (.mbCommandStart m) s =
      .next (match startChecks (mbOf s m.val).opcode (startedState m.val s) with
        | some r => mbComplete m.val r (startedState m.val s)
        | none => startedState m.val s) := by
  show execMbCommandStart m s = _
  rw [execMbCommandStart, if_pos ⟨he, hs⟩]
  simp only [ht]
  change (match startChecks (mbOf s m.val).opcode (startedState m.val s) with
    | some r => Host.Outcome.next (mbComplete m.val r (startedState m.val s))
    | none => Host.Outcome.next (startedState m.val s)) = _
  cases startChecks (mbOf s m.val).opcode (startedState m.val s) <;> rfl

theorem commandStart_unready {m : Fin 8} {s : State}
    (h : ¬ (eligible m.val s = true ∧ (s.summit.state = .running ∨ s.summit.state = .bootrom))) :
    exec (.mbCommandStart m) s = .next s := if_neg h

/-- An earlier unfinished command bars a later one where either has BARRIER (R505). -/
theorem not_eligible_of_barrier {s : State} {m n : Fin 8} (hb : mbBusy (mbOf s n.val) = true)
    (ho : (mbOf s n.val).order < (mbOf s m.val).order)
    (hr : (mbOf s m.val).barrier = true ∨ (mbOf s n.val).barrier = true) : eligible m.val s ≠ true := by
  have hn : mbOf s n.val ∈ s.mb.toList := by
    simp [mbOf, tabGet]
  intro he
  simp only [eligible, Bool.and_eq_true, List.all_eq_true] at he
  have := he.2 _ hn
  rcases hr with hr | hr <;> simp [hb, ho, hr] at this

/-- A command that the checks of R503 refuse completes at once. -/
theorem commandStart_refused {m : Fin 8} {s : State} {r : Reply} (he : eligible m.val s = true)
    (hs : s.summit.state = .running ∨ s.summit.state = .bootrom) (ht : (mbOf s m.val).tunnel = none)
    (hr : startChecks (mbOf s m.val).opcode (startedState m.val s) = some r) :
    ∃ u t, u = startedState m.val s ∧ exec (.mbCommandStart m) s = .next t ∧ u.completes m.val r.status r.detail r.body t := by
  refine ⟨_, _, rfl, ?_, mbComplete_completes m.isLt r ?_⟩
  · rw [commandStart_started he hs ht, hr]
  · rw [startedState, mbOf, tabGet_tabMod_lt s.mb _ m.isLt _ s.mb[0], if_pos rfl]
    exact ht

/-- Settles O22. -/
theorem mailboxStart : Obligations.MailboxStart := by
  refine ⟨?_, ?_, ?_, ?_, ?_, ?_, ?_, ?_, ?_, ?_, ?_, ?_⟩
  · intro s m v h hv hf hc hh
    rw [doorbell_reached h, writeDoorbell_ring hv, ring_latchKey m.isLt hf, if_neg (not_not.mpr hc), if_neg hh]
    rfl
  · intro s m v h hv hf hc ht
    refine ⟨rungState m.val s, _, rfl, mbComplete_completes m.isLt ⟨stBadArg, 6, []⟩ ?_, ?_⟩
    · rw [rungState, mbOf, tabGet_tabMod_lt s.mb _ m.isLt _ s.mb[0], if_pos rfl]
      exact ht
    · rw [doorbell_reached h, writeDoorbell_ring hv, ring_latchKey m.isLt hf, if_pos hc]
  · intro s m v h hv hb
    rw [doorbell_reached h, writeDoorbell_ring hv, latchKey_busy (s := s.spent) hb, ring_busy (s := s.spent) hb]
  · intro s m v h hv hk
    rw [doorbell_reached h, writeDoorbell_none hv, hk, latchKey_zero]
  · intro s m v be h
    exact doorbell_reached h
  · intro s m v be h hbe hk
    refine ⟨_, doorbell_reached h, ?_⟩
    rw [hk, latchKey_zero, writeDoorbell, special_narrow hbe]
    exact raises_refuseWidth _ _ _ _
  · intro s m he hs ht ho hb hl
    have hc : startChecks (mbOf s m.val).opcode (startedState m.val s) = none := by
      simp [startChecks, startedState, ho, hb, hl]
    rw [commandStart_started he (.inl hs) ht, hc]
    rfl
  · intro s m he hs ht ho
    exact commandStart_refused (r := ⟨stBadArg, 4, []⟩) he (.inl hs) ht (if_pos ho)
  · intro s m he hs ht ho hb hl
    refine commandStart_refused (r := fail stUnsupported) he (.inl hs) ht ?_
    simp [startChecks, startedState, ho, hb, hl]
  · intro s m he hs ht ho hno hb
    refine commandStart_refused (r := fail stState) he (.inr hs) ht ?_
    simp [startChecks, startedState, ho, hb, hno]
  · intro s m n hb ho hr
    exact commandStart_unready fun h => not_eligible_of_barrier hb ho hr h.1
  · intro s m hr hb
    exact commandStart_unready fun h => h.2.elim hr hb

end Sys2Proof.Machine


/-! ## PPS, encoder and mains inputs and PPS_OUT (O28) -/

namespace Sys2Proof.Machine

/-! ### PPS (R380-R382) -/

theorem ppsInEdge_captured {s : State} {r : Bool} {k : Fin 10} (hen : s.tm.ppsCfg.getLsbD 0 = true)
    (hpol : r ≠ s.tm.ppsCfg.getLsbD 1) (hlate : ∀ x ∈ s.tm.ppsLast, x + 320000000000 ≤ 256 * (s.tm.ax5 + k.val))
    (hbank : bankOn .ppsIn s = true) :
    exec (.ppsInEdge ⟨r, k⟩) s = .next (raise 2 6 { s with tm := { s.tm with
      ppsA := (BitVec.ofNat 64 (t0Reg (t0Of (timeAOf s (256 * (s.tm.ax5 + k.val))))),
        BitVec.ofNat 32 (timeAOf s (256 * (s.tm.ax5 + k.val))).frac)
      ppsB := (BitVec.ofNat 64 (t0Reg (t0Of (timeBOf s (256 * (s.tm.ax5 + k.val))))),
        BitVec.ofNat 32 (timeBOf s (256 * (s.tm.ax5 + k.val))).frac)
      ppsCnt := s.tm.ppsCnt + 1, ppsLast := some (256 * (s.tm.ax5 + k.val)), ppsMissing := false } }) := by
  refine if_pos ⟨hen, by simpa using hpol, ?_, hbank⟩
  cases hl : s.tm.ppsLast with
  | none => rfl
  | some x => simpa using hlate x (by simp [hl])

theorem ppsInEdge_early {s : State} {r : Bool} {k : Fin 10} {x : Nat} (hl : s.tm.ppsLast = some x)
    (he : 256 * (s.tm.ax5 + k.val) < x + 320000000000) : exec (.ppsInEdge ⟨r, k⟩) s = .next s := by
  refine if_neg fun ⟨_, _, h, _⟩ => ?_
  simp only [hl] at h
  simp [he] at h

theorem ppsInEdge_unpowered {s : State} {r : Bool} {k : Fin 10} (h : bankOn .ppsIn s = false) :
    exec (.ppsInEdge ⟨r, k⟩) s = .next s :=
  if_neg fun ⟨_, _, _, hb⟩ => Bool.false_ne_true (h.symm.trans hb)

theorem ppsInMissing_due {s : State} (hen : s.tm.ppsCfg.getLsbD 0 = true) (hm : s.tm.ppsMissing = false)
    (hl : ∀ x ∈ s.tm.ppsLast, x + 704000000000 < nowU s) (hf : s.tm.ppsFrom + 704000000000 < nowU s) :
    exec .ppsInMissing s = .next (raise 2 7 { s with tm := { s.tm with ppsMissing := true } }) := by
  refine if_pos ⟨hen, by simp [hm], ?_⟩
  cases hp : s.tm.ppsLast with
  | none => simpa using hf
  | some x =>
    have := hl x (by simp [hp])
    simp only [decide_eq_true_eq]
    omega

/-! ### Encoders (R384) -/

/-- No index edge is in use (R384). -/
theorem noIndex {q : Enc} {z : Bool} (h : z = false ∨ q.z = true ∨ q.index = 0) : ¬ (z && !q.z && q.index != 0) = true := by
  rcases h with h | h | h <;> simp [h]

/-- Not both inputs change (R384). -/
theorem notBoth {q : Enc} {a b : Bool} (h : a = q.a ∨ b = q.b) : ¬ (a != q.a && b != q.b) = true := by
  rcases h with h | h <;> simp [h]

section
variable {s : State} {e : Fin 2} (a b z : Bool)

/-- Every input of encoder `e` may take a new level: seen for FILT + 1 ticks, of a powered bank (R384, R594). -/
structure EncFree (s : State) (e : Fin 2) : Prop where
  seenA : encSeen s.tm.enc[e].movedA s.tm.enc[e].filt s.tm.tick = true
  seenB : encSeen s.tm.enc[e].movedB s.tm.enc[e].filt s.tm.tick = true
  seenZ : encSeen s.tm.enc[e].movedZ s.tm.enc[e].filt s.tm.tick = true
  bankA : bankOn (.enc e 0) s = true
  bankB : bankOn (.enc e 1) s = true
  bankZ : bankOn (.enc e 2) s = true

/-- Encoder `e` with its inputs at new levels. -/
def encMoved (e : Fin 2) (a b z : Bool) (s : State) : State :=
  { s with tm := { s.tm with enc := tabMod s.tm.enc e.val fun q => encMove q s.tm.tick a b z } }

/-- What the change of free inputs does (R384). -/
theorem encInputChange_free (h : EncFree s e) :
    exec (.encInputChange e a b z) s =
      if s.tm.enc[e].enable then
        .next (if (z && !s.tm.enc[e].z && s.tm.enc[e].index != 0) = true then raise 2 (8 + e.val)
            (if (a != s.tm.enc[e].a && b != s.tm.enc[e].b) = true then raise 2 (10 + e.val) (encMoved e a b z s)
              else encMoved e a b z s)
          else if (a != s.tm.enc[e].a && b != s.tm.enc[e].b) = true then raise 2 (10 + e.val) (encMoved e a b z s)
          else encMoved e a b z s)
      else .next (encMoved e a b z s) := by
  show execEncInputChange e a b z s = _
  obtain ⟨hsa, hsb, hsz, ha, hb, hz⟩ := h
  simp only [execEncInputChange, encInputs, hsa, hsb, hsz, ha, hb, hz, Bool.and_true, if_true]
  rfl

theorem encMoved_disabled (h : s.tm.enc[e].enable = false) :
    encMoved e a b z s = { s with
      tm := { s.tm with enc := tabMod s.tm.enc e.val fun q => { q with
        a := a, b := b, z := z, movedA := if a = q.a then q.movedA else some s.tm.tick
        movedB := if b = q.b then q.movedB else some s.tm.tick, movedZ := if z = q.z then q.movedZ else some s.tm.tick } } } := by
  have hq : (tabGet s.tm.enc e.val s.tm.enc[0]).enable = false := by
    rw [tabGet_eq _ _ _ e.isLt]
    exact h
  unfold encMoved
  rw [tabMod_congr (d := s.tm.enc[0])]
  simp [encMove, hq]

/-- An input that has not been seen for FILT + 1 ticks keeps its level (R384). -/
theorem encInputChange_unseen :
    (encSeen s.tm.enc[e].movedA s.tm.enc[e].filt s.tm.tick = false →
      exec (.encInputChange e a b z) s = exec (.encInputChange e s.tm.enc[e].a b z) s) ∧
    (encSeen s.tm.enc[e].movedB s.tm.enc[e].filt s.tm.tick = false →
      exec (.encInputChange e a b z) s = exec (.encInputChange e a s.tm.enc[e].b z) s) ∧
    (encSeen s.tm.enc[e].movedZ s.tm.enc[e].filt s.tm.tick = false →
      exec (.encInputChange e a b z) s = exec (.encInputChange e a b s.tm.enc[e].z) s) := by
  have hx (x y w : Bool) : exec (.encInputChange e x y w) s = execEncInputChange e x y w s := rfl
  refine ⟨fun h => ?_, fun h => ?_, fun h => ?_⟩ <;>
    simp only [hx, execEncInputChange, encInputs, h, Bool.false_eq_true, if_false]

/-- An input of an unpowered bank reads low (R594). -/
theorem encInputChange_unpowered :
    (bankOn (.enc e 0) s = false → exec (.encInputChange e a b z) s = exec (.encInputChange e false b z) s) ∧
    (bankOn (.enc e 1) s = false → exec (.encInputChange e a b z) s = exec (.encInputChange e a false z) s) ∧
    (bankOn (.enc e 2) s = false → exec (.encInputChange e a b z) s = exec (.encInputChange e a b false) s) := by
  have hx (x y w : Bool) : exec (.encInputChange e x y w) s = execEncInputChange e x y w s := rfl
  refine ⟨fun h => ?_, fun h => ?_, fun h => ?_⟩ <;>
    simp only [hx, execEncInputChange, h, Bool.and_false]

end

/-! ### Mains (R385) -/

theorem mainsZcEdge_unpowered {s : State} {r : Bool} (h : bankOn .mainsZc s = false) : exec (.mainsZcEdge r) s = .next s :=
  if_neg fun ⟨_, _, hb⟩ => Bool.false_ne_true (h.symm.trans hb)

/-- The mains axis after an accepted edge (R385): `p` is the period since the last crossing, 0 where there is none. -/
def mainsEdge (m : Mains) (ax5 p : Nat) (range : Bool) : Mains :=
  let m := { m with
    cycles := (m.cycles + 1) % 2 ^ 48, lastZc := some (ax5 - 5000000), period := p, since := ax5, range := range
    lost := false, stepped := false }
  { m with frac := mainsFrac { m with frac := 0 } ax5 }

/-- The fraction starts anew at the crossing, 5,000,000 counts of AX5 back. -/
theorem mainsEdge_within (m : Mains) {ax5 p : Nat} (hen : m.enable = true) (hge : 5000000 ≤ ax5) (hp : 35715000 ≤ p) :
    mainsEdge m ax5 p false = { m with
      cycles := (m.cycles + 1) % 2 ^ 48, lastZc := some (ax5 - 5000000), period := p, since := ax5, range := false
      lost := false, stepped := false, frac := min 65535 (5000000 * 65536 / p) } := by
  have hz : ax5 - (ax5 - 5000000) = 5000000 := by omega
  have h0 : p ≠ 0 := by omega
  simp [mainsEdge, mainsFrac, hen, h0, hz]

/-- The first crossing of the mains. -/
theorem mainsZcEdge_first {s : State} {r : Bool} (hen : s.tm.mains.enable = true) (hr : r = (s.tm.mains.mode == 0))
    (hb : bankOn .mainsZc s = true) (hl : s.tm.mains.lastZc = none) :
    exec (.mainsZcEdge r) s =
      .next { s with tm := { s.tm with mains := mainsEdge s.tm.mains s.tm.ax5 0 s.tm.mains.range } } := by
  refine (if_pos ⟨hen, by simp [hr], hb⟩).trans ?_
  simp only [hl, Option.isSome_none, Bool.false_and, Bool.false_eq_true, if_false]
  rfl

/-- A further crossing of the mains, whose period is judged. -/
theorem mainsZcEdge_again {s : State} {r : Bool} {y : Nat} (hen : s.tm.mains.enable = true)
    (hr : r = (s.tm.mains.mode == 0)) (hb : bankOn .mainsZc s = true) (hl : s.tm.mains.lastZc = some y) :
    exec (.mainsZcEdge r) s =
      let p := s.tm.ax5 - 5000000 - y
      let bad := decide (p < 35715000 ∨ 208332500 < p)
      let u := { s with tm := { s.tm with mains := mainsEdge s.tm.mains s.tm.ax5 p bad } }
      .next (if bad then raise 2 13 u else u) := by
  refine (if_pos ⟨hen, by simp [hr], hb⟩).trans ?_
  simp only [hl, Option.isSome_some, Bool.true_and, if_true]
  rfl

theorem mainsLost_not {s : State} (h : s.tm.mains.enable = false ∨ s.tm.mains.lost = true ∨
    s.tm.ax5 < s.tm.mains.since + 250000000) : exec .mainsLost s = .next s := by
  refine if_neg fun ⟨he, hl, ht⟩ => ?_
  rcases h with h | h | h
  · simp [h] at he
  · simp [h] at hl
  · omega

/-! ### AXIS_CFG (R387) -/

/-- The settings of AXIS_CFG that a request asks for (R387). -/
def axisAsked (m : Nat) (s : State) : AxisSet :=
  { axis := s.arg m 1 1, enable := s.arg m 2 1 % 2 == 1, invert := s.arg m 2 1 / 2 % 2 == 1, mode := s.arg m 3 1
    index := s.arg m 4 1, filt := s.arg m 5 1, preset := if 4 ≤ s.arg m 2 1 then some (s.arg m 8 6) else none }

/-- AXIS_CFG accepts new settings. -/
theorem axisCfg_set {m : Fin 8} {s : State} (hs : s.serves m.val 0x0602 = true) (hop : s.arg m.val 0 1 = 0)
    (hax : 2 ≤ s.arg m.val 1 1 ∧ s.arg m.val 1 1 ≤ 4) (hfl : s.arg m.val 2 1 ≤ 7)
    (hbad : ¬ (if s.arg m.val 1 1 = 4 then
        decide (1 < s.arg m.val 3 1 ∨ s.arg m.val 4 1 ≠ 0 ∨ s.arg m.val 5 1 ≠ 0 ∨ s.arg m.val 2 1 / 2 % 2 = 1)
      else decide (2 < s.arg m.val 3 1 ∨ 2 < s.arg m.val 4 1 ∨ 15 < s.arg m.val 5 1)) = true)
    (h6 : zeroAt (s.request m.val) 6 2 = true) (h16 : zeroAt (s.request m.val) 16 240 = true) :
    ∃ u t, u = { s with tm := { s.tm with axisSet := s.tm.axisSet ++ [axisAsked m.val s] } } ∧
      exec (.axisCfg m) s = .next t ∧ u.completes m.val stOk 0 (axisBody 0 (s.arg m.val 1 1) (setAxes u)) t := by
  refine ⟨_, _, rfl, rfl, command_completes hs (r := okWith _) ?_ rfl⟩
  simp only [State.arg] at hop hax hfl hbad
  rw [axisCmd, if_neg, if_neg]
  · simp only [hop]
    rfl
  · simp [hop]
  · simp only [not_or]
    refine ⟨by omega, by omega, by omega, by omega, hbad, ?_, ?_⟩
    · simp [h6]
    · simp [h16]

/-- Settles O28. -/
theorem timePins : Obligations.TimePins := by
  refine ⟨?_, ?_, ?_, ?_, ?_, ?_, ?_, ?_, ?_, ?_, ?_, ?_, ?_, ?_, ?_, ?_, ?_, ?_, ?_, ?_, ?_, ?_, ?_, ?_, ?_⟩
  · intro s r k hen hpol hlate hbank
    exact ⟨_, ppsInEdge_captured hen hpol hlate hbank, raises_raise 2 6 _⟩
  · intro s r k x hl he
    exact ppsInEdge_early hl he
  · intro s hen hm hl hf
    exact ⟨_, ppsInMissing_due hen hm hl hf, raises_raise 2 7 _⟩
  · intro s h1 h2
    exact if_pos ⟨h1, h2⟩
  · intro s h
    refine if_neg fun ⟨h1, h2⟩ => ?_
    rcases h with h | h
    · exact Bool.false_ne_true (h.symm.trans h1)
    · exact Bool.false_ne_true (h.symm.trans h2)
  · intro s r k h
    exact ppsInEdge_unpowered h
  · intro s
    refine ⟨fun hb ho => ?_, fun hb ho => ?_, fun hb => ?_⟩
    · simp [ppsPin, hb, ho]
    · simp [ppsPin, hb, ho]
    · simp [ppsPin, hb]
  · intro s x ho h
    show execPpsOutEnd s = _
    simp only [execPpsOutEnd, ho]
    exact if_pos (by simpa using h)
  · intro s x ho ht hp
    show execPpsOutEnd s = _
    simp only [execPpsOutEnd, ho]
    exact if_neg (by simp [hp]; omega)
  · intro s e a b z ha hb hz h0 h1 h2 hen
    rw [encInputChange_free a b z ⟨ha, hb, hz, h0, h1, h2⟩, if_neg (by rw [hen]; exact Bool.false_ne_true), encMoved_disabled a b z hen]
  · intro s e a b z ha hb hz h0 h1 h2 hen hab hidx
    rw [encInputChange_free a b z ⟨ha, hb, hz, h0, h1, h2⟩, if_pos hen, if_neg (noIndex hidx), if_neg (notBoth hab)]
    rfl
  · intro s e a b z ha hb hz h0 h1 h2 hen hda hdb hidx
    refine ⟨_, ?_, raises_raise 2 (10 + e.val) _⟩
    rw [encInputChange_free a b z ⟨ha, hb, hz, h0, h1, h2⟩, if_pos hen, if_neg (noIndex hidx),
      if_pos (Bool.and_eq_true_iff.mpr ⟨bne_iff_ne.mpr hda, bne_iff_ne.mpr hdb⟩)]
    rfl
  · intro s e a b ha hb hz h0 h1 h2 hen hab hz0 hidx
    refine ⟨_, ?_, raises_raise 2 (8 + e.val) _⟩
    rw [encInputChange_free a b true ⟨ha, hb, hz, h0, h1, h2⟩, if_pos hen, 
      if_pos (by rw [hz0, bne_iff_ne.mpr hidx]; rfl), if_neg (notBoth hab)]
    rfl
  · intro s e a b z
    exact encInputChange_unseen a b z
  · intro s e a b z
    exact encInputChange_unpowered a b z
  · intro s r h
    exact mainsZcEdge_unpowered h
  · intro s r hen hr hb hl
    rw [mainsZcEdge_first hen hr hb hl]
    simp [mainsEdge, mainsFrac]
  · intro s r y hge hen hr hb hl h1 h2
    have hgood : ¬ (s.tm.ax5 - 5000000 - y < 35715000 ∨ 208332500 < s.tm.ax5 - 5000000 - y) := by omega
    refine ⟨_, mainsZcEdge_again hen hr hb hl, ?_⟩
    simp only [decide_eq_false hgood, Bool.false_eq_true, if_false, mainsEdge_within s.tm.mains hen hge h1]
  · intro s r y hen hr hb hl hbad
    refine ⟨_, mainsZcEdge_again hen hr hb hl, ?_⟩
    simp only [decide_eq_true hbad, if_true]
    refine ⟨by rw [raise_tm]; rfl, by rw [raise_tm]; rfl, by rw [raise_tm]; rfl, ?_⟩
    have hu := State.raises.update (F := fun x => { x with tm := s.tm }) (fun _ => rfl) (fun _ => rfl) (fun _ => rfl)
      (raises_raise 2 13 { s with tm := { s.tm with mains := mainsEdge s.tm.mains s.tm.ax5 (s.tm.ax5 - 5000000 - y) true } })
    exact hu
  · intro s hen hl ht
    exact ⟨_, if_pos ⟨hen, by simp [hl], ht⟩, raises_raise 2 12 _⟩
  · intro s h
    exact mainsLost_not h
  · intro s m hs hop hax hfl hmode hidx hfilt h6 h16
    refine ⟨_, rfl, command_completes hs (r := okWith (axisBody 1 4 s)) ?_ rfl⟩
    simp only [State.arg] at hop hax hfl hmode hidx hfilt
    rw [axisCmd, if_neg, if_pos hop, hop, hax]
    simp [hop, hax, hmode, hidx, hfilt, h6, h16]
    omega
  · intro s m hs hop hax hfl hmode hidx hfilt h6 h16
    have := axisCfg_set hs hop (by omega) (by simp at hfl; omega) (by simp [hax, hmode, hidx, hfilt]; simp at hfl; omega) h6 h16
    rw [axisAsked, hax] at this
    exact this
  · intro s m hs hop hax hfl hmode hidx hfilt h6 h16
    refine axisCfg_set hs hop (by omega) hfl ?_ h6 h16
    rw [if_neg (by omega)]
    simp
    omega
  · intro s c n hc hax hp
    simp [setAxes, hc, setAxis, hax, Mains.set, hp]

end Sys2Proof.Machine


/-! ## Lock and loss of the loops, and the DCO monitor (O29) -/

namespace Sys2Proof.Machine

/-! ### TIMING_SUSPECT (R448) -/

/-- A raise leaves the open TIMING_SUSPECT cairn as it is. -/
theorem raise_suspect (g b : Nat) (s : State) : (raise g b s).ret.suspect = s.ret.suspect :=
  congrArg (·.ret.suspect) (raises_raise g b s).hushed

/-- A raise leaves the cause that a drain holds as it is. -/
theorem raise_heldStop (g b : Nat) (s : State) : (raise g b s).ret.heldStop = s.ret.heldStop :=
  congrArg (·.ret.heldStop) (raises_raise g b s).hushed

theorem rawBit_congr {s t : State} (h : t.evt = s.evt) (g b : Nat) : t.rawBit g b = s.rawBit g b := by
  rw [State.rawBit, h, State.rawBit]

theorem closeSuspect_none {s : State} (h : s.ret.suspect = none) : closeSuspect s = s := by simp only [closeSuspect, h]

/-- What the close of an open cairn changes: the marks of the cairn, and the suppression it ends (R186). -/
theorem closeSuspect_some {s : State} {r : Nat} (h : s.ret.suspect = some r) :
    (closeSuspect s).pll = { s.pll with suspect := false } ∧ (closeSuspect s).ret.suspect = none ∧
      (closeSuspect s).evt = s.evt ∧ (closeSuspect s).dev = s.dev ∧ (closeSuspect s).tm = s.tm ∧
      (closeSuspect s).pods = s.pods := by
  simp [closeSuspect, h]

/-! ### Lock (R446) -/

theorem hasEvent_lock (v : Variant) : hasEvent v 13 0 = true ∧ hasEvent v 13 2 = true ∧ hasEvent v 13 10 = true := by
  cases v <;> decide

/-- ADPLL-S with a phase error that lets it lock, locked. -/
def lockedS (e : Int) (s : State) : State :=
  goDead 7 (raise 13 0 { s with pll := { s.pll with s := { s.pll.s with state := .locked }, phErr := e } })

theorem lockedS_suspect (e : Int) (s : State) : (lockedS e s).ret.suspect = s.ret.suspect := raise_suspect 13 0 _

theorem pllsLocked_good {s : State} {e : Int} (hs : s.pll.s.state = .freeRun ∨ s.pll.s.state = .acquiring)
    (he : e.natAbs < 100) (hg : refGood s.pll.ref s = true) : exec (.pllsLocked e) s = .next (closeSuspect (lockedS e s)) :=
  if_pos ⟨hs, he, hg⟩

theorem lockL_ports {s : State} {p : Nat} (hp : p < 3) : (portOf (lockL s) p).trainFrom = s.tm.tick := by
  interval_cases p <;> simp [lockL, List.range_succ, portOf_modPort]

theorem lockL_frame (s : State) :
    (lockL s).pll = { s.pll with l := { s.pll.l with state := .locked } } ∧ (lockL s).rawBit 13 2 = true ∧
      (lockL s).dev = s.dev ∧ (lockL s).tm = s.tm ∧ (lockL s).out = s.out := by
  refine ⟨by simp [lockL, List.range_succ], ?_, by simp [lockL, List.range_succ], by simp [lockL, List.range_succ],
    by simp [lockL, List.range_succ]⟩
  have hv : (lockL s).evt = (raise 13 2 { s with pll := { s.pll with l := { s.pll.l with state := .locked } } }).evt := by
    simp [lockL, List.range_succ]
  rw [rawBit_congr hv, rawBit_raise, (hasEvent_lock _).2.1, Bool.true_or]

/-! ### The DCO monitor (R447, R449) -/

/-- ADPLL-S with a reading of its offset taken (R447). -/
def dcoRead (x : Int) (out : Bool) (s : State) : State :=
  { s with pll := { s.pll with
    sFreq := x, dcoRange := out
    readings := (if s.pll.s.state = .locked then addReading s.tm.ax5 x s.pll.readings else s.pll.readings) } }

theorem dcoRange_within {s : State} {x : Int} (hx : x.natAbs ≤ 200000) (hb : s.dev.backup = false) :
    exec (.dcoRange ⟨false, x⟩) s = .next (dcoRead x false s) := by
  have h1 : ¬ 2000000 < x.natAbs := by omega
  have h2 : ¬ 200000 < x.natAbs := by omega
  show Host.Outcome.next (readDcoS x s) = _
  simp [readDcoS, h1, h2, hb, dcoRead]

/-- The first reading beyond 200 ppm (R447). -/
theorem dcoRange_beyond {s : State} {x : Int} (h1 : 200000 < x.natAbs) (h2 : x.natAbs ≤ 2000000) (hb : s.dev.backup = false)
    (hr : s.pll.dcoRange = false) :
    exec (.dcoRange ⟨false, x⟩) s = .next (requestStop 4 (raise 13 10 (dcoRead x true s))) := by
  have h3 : ¬ 2000000 < x.natAbs := by omega
  show Host.Outcome.next (readDcoS x s) = _
  simp [readDcoS, h1, h3, hb, hr, dcoRead]

theorem dcoRange_failed {s : State} {x : Int} (h : 2000000 < x.natAbs ∨ s.dev.backup = true) :
    exec (.dcoRange ⟨false, x⟩) s = .next s := by
  show Host.Outcome.next (readDcoS x s) = _
  rw [readDcoS, if_pos h]

theorem requestStop_idle {c : Nat} {s : State} (h : s.dev.acq = .idle) : requestStop c s = s := by
  simp only [requestStop, h]

theorem requestStop_draining {c : Nat} {s : State} (h : s.dev.acq = .draining) :
    requestStop c s = { s with ret := { s.ret with heldStop := some (min c (s.ret.heldStop.getD c)) } } := by
  simp only [requestStop, h]

/-- Settles O29. -/
theorem clockLoops : Obligations.ClockLoops := by
  refine ⟨?_, ?_, ?_, ?_, ?_, ?_, ?_, ?_, ?_, ?_, ?_, ?_, ?_, ?_⟩
  · intro s e hs he hg hn
    rw [pllsLocked_good hs he hg, closeSuspect_none ((lockedS_suspect e s).trans hn)]
    rfl
  · intro s e r hs he hg hr
    obtain ⟨hp, hsus, hevt, hdev, htm, hpods⟩ := closeSuspect_some ((lockedS_suspect e s).trans hr)
    refine ⟨_, pllsLocked_good hs he hg, ?_, hsus, ?_, ?_, ?_, ?_⟩
    · rw [hp]
      simp [lockedS]
    · have hv : (closeSuspect (lockedS e s)).evt = (raise 13 0 _).evt := hevt
      rw [rawBit_congr hv, rawBit_raise, (hasEvent_lock _).1, Bool.true_or]
    · rw [hdev]
      simp [lockedS]
    · rw [htm]
      simp [lockedS]
    · rw [hpods]
      simp [lockedS]
  · intro s e hs he hg
    exact if_pos ⟨hs, he, hg⟩
  · intro s e h1 h2
    exact ⟨if_neg fun h => absurd h.2.1 (by omega), if_neg fun h => absurd h.2.1 (by omega)⟩
  · intro s hs hg
    obtain ⟨hpll, hraw, hdev, htm, hout⟩ := lockL_frame s
    exact ⟨_, if_pos ⟨hs, hg⟩, hpll, hraw, fun p hp => lockL_ports hp, hdev, htm, hout⟩
  · intro s hs hg
    exact ⟨_, _, rfl, rfl, if_pos ⟨hs, hg⟩⟩
  · intro s x hs hx
    exact ⟨_, _, rfl, rfl, if_pos ⟨hx, hs⟩⟩
  · intro s
    refine ⟨fun h => if_neg fun ⟨hs, hg⟩ => ?_, fun h => if_neg fun ⟨hs, hg⟩ => ?_, fun x hx => if_neg fun h => absurd h.1 (by
      show ¬ 2000000 < x.natAbs
      omega)⟩
    · rcases h with h | h | h <;> simp_all
    · rcases h with h | h <;> simp_all
  · intro s x hx hb
    exact dcoRange_within hx hb
  · intro s x h1 h2 hb hr hi
    refine ⟨_, dcoRange_beyond h1 h2 hb hr, ?_⟩
    rw [requestStop_idle (by rw [raise_dev]; exact hi)]
    exact raises_raise 13 10 (dcoRead x true s)
  · intro s x h1 h2 hb hr hd
    refine ⟨_, dcoRange_beyond h1 h2 hb hr, ?_⟩
    rw [requestStop_draining (by rw [raise_dev]; exact hd)]
    refine ⟨?_, ?_, by simp [dcoRead], by simp [dcoRead]⟩
    · have hv := rawBit_raise 13 10 (dcoRead x true s)
      rw [(hasEvent_lock _).2.2, Bool.true_or] at hv
      exact hv
    · show some (min 4 ((raise 13 10 (dcoRead x true s)).ret.heldStop.getD 4)) = _
      rw [raise_heldStop]
      rfl
  · intro s x h
    exact dcoRange_failed h
  · intro s hb
    have hd : exec .dcoFail s = _ := if_neg (by rw [hb]; exact Bool.false_ne_true)
    refine ⟨_, _, rfl, rfl, fun h => ?_, fun h => ?_⟩
    · rw [hd]
      exact congrArg Host.Outcome.next (if_neg (by rw [h]; exact Bool.false_ne_true))
    · rw [hd]
      exact congrArg Host.Outcome.next (if_pos h)
  · intro s hb
    exact if_pos hb

end Sys2Proof.Machine


/-! ## What sending on the Ridgeline ports changes (R410-R412, R430) -/

namespace Sys2Proof.Machine

/-- A port without what its transmitter writes: the queue, the frame in progress, the counts and the credit. -/
def Port.still (q : Port) : Port :=
  { q with
    txq := [], txCur := [], txBusy := 0, txCnt := 0, recFree := 0, lseqTx := 0, fwdSent := 0, credit := 0, grant := 0 }

/-- A state without what the transmitters write: two states that agree so differ in what has been sent or waits for it alone. -/
def State.unsent (s : State) : State :=
  { s with out := [], rl := { s.rl with ports := s.rl.ports.map Port.still } }

theorem unsent_modPort (p : Nat) {f : Port → Port} (hf : ∀ q, (f q).still = q.still) (s : State) :
    (modPort p f s).unsent = s.unsent := by
  have h : (tabMod s.rl.ports p f).map Port.still = s.rl.ports.map Port.still := by
    rw [map_tabMod s.rl.ports p f Port.still id hf, tabMod_unchanged (d := Port.still s.rl.ports[0]) rfl]
  simp only [State.unsent, modPort, h]

theorem unsent_emitFrame (p : Nat) (f : List Byte) (s : State) : (emitOut (.rlFrame p f) s).unsent = s.unsent := by
  simp [State.unsent, emitOut, usesLink]

theorem unsent_ite {P : Prop} [Decidable P] {a b s : State} (ha : a.unsent = s.unsent) (hb : b.unsent = s.unsent) :
    (if P then a else b).unsent = s.unsent := by
  split
  · exact ha
  · exact hb

@[simp] theorem sendNext_unsent (p : Nat) (s : State) : (sendNext p s).unsent = s.unsent := by
  refine unsent_ite ?_ rfl
  split
  · rfl
  · rw [unsent_emitFrame]
    exact unsent_modPort p (by exact fun _ => rfl) s

@[simp] theorem txFrame_unsent (p : Nat) (flooded : Bool) (t : TxFrame) (s : State) :
    (txFrame p flooded t s).unsent = s.unsent := by
  refine unsent_ite rfl (unsent_ite ?_ (unsent_ite ?_ rfl))
  · rw [sendNext_unsent]
    exact unsent_modPort p (by exact fun _ => rfl) s
  · exact unsent_modPort p (by exact fun _ => rfl) s

@[simp] theorem sendLocal_unsent (p type : Nat) (body : List Byte) (s : State) :
    (sendLocal p type body s).unsent = s.unsent := txFrame_unsent ..

@[simp] theorem forwardAs_unsent (bad : Bool) (p : Nat) (f : List Byte) (s : State) :
    (forwardAs bad p f s).unsent = s.unsent :=
  unsent_ite rfl (foldl_unchanged State.unsent (fun _ _ _ => unsent_ite rfl (txFrame_unsent ..)) s)

@[simp] theorem forward_unsent (p : Nat) (f : List Byte) (s : State) : (forward p f s).unsent = s.unsent :=
  forwardAs_unsent ..

@[simp] theorem grantCredit_unsent (p : Nat) (force : Bool) (s : State) : (grantCredit p force s).unsent = s.unsent := by
  refine unsent_ite ?_ (unsent_ite (sendLocal_unsent ..) rfl)
  rw [sendLocal_unsent]
  exact unsent_modPort p (by exact fun _ => rfl) s

theorem pumpRecord_unsent (n p : Nat) (s : State) : (pumpRecord n p s).unsent = s.unsent := by
  induction n generalizing s with
  | zero => rfl
  | succ n ih =>
    rw [pumpRecord]
    split
    · rfl
    · refine unsent_ite ?_ rfl
      rw [ih, sendLocal_unsent]
      exact unsent_modPort p (by exact fun _ => rfl) s

@[simp] theorem pumpPort_unsent (p : Nat) (s : State) : (pumpPort p s).unsent = s.unsent := pumpRecord_unsent ..

/-! ### What agrees in states that differ in what has been sent -/

section
variable {s t : State} (h : t.unsent = s.unsent)
include h

theorem dev_of_unsent : t.dev = s.dev := congrArg (·.dev) h
theorem tm_of_unsent : t.tm = s.tm := congrArg (·.tm) h
theorem evt_of_unsent : t.evt = s.evt := congrArg (·.evt) h
theorem pll_of_unsent : t.pll = s.pll := congrArg (·.pll) h
theorem ring_of_unsent : t.ring = s.ring := congrArg (·.ring) h
theorem summit_of_unsent : t.summit = s.summit := congrArg (·.summit) h
theorem fab_of_unsent : t.fab = s.fab := congrArg (·.fab) h

theorem port_of_unsent {p : Nat} (hp : p < 3) : (portOf t p).still = (portOf s p).still := by
  have hports : t.rl.ports.map Port.still = s.rl.ports.map Port.still := congrArg (·.rl.ports) h
  have hget := congrArg (fun v => v[p]) hports
  simpa [portOf, tabGet, hp] using hget

end

/-! ### Frames that go out (R412) -/

theorem sendNext_out (p : Nat) (s : State) : s.out <+: (sendNext p s).out := by
  unfold sendNext
  dsimp only
  split
  · split
    · exact ⟨[], List.append_nil _⟩
    · exact ⟨_, rfl⟩
  · exact ⟨[], List.append_nil _⟩

theorem txFrame_out (p : Nat) (flooded : Bool) (t : TxFrame) (s : State) : s.out <+: (txFrame p flooded t s).out := by
  unfold txFrame
  split
  · exact ⟨[], List.append_nil _⟩
  · split
    · exact sendNext_out p (modPort p _ s)
    · split <;> exact ⟨[], List.append_nil _⟩

theorem portOf_sendNext_ne {p q : Nat} (hq : q < 3) (h : p ≠ q) (s : State) : portOf (sendNext p s) q = portOf s q := by
  unfold sendNext
  dsimp only
  split
  · split
    · rfl
    · show portOf (modPort p _ s) q = _
      rw [portOf_modPort p _ s hq, if_neg h]
  · rfl

theorem portOf_txFrame_ne {p q : Nat} (hq : q < 3) (h : p ≠ q) (flooded : Bool) (t : TxFrame) (s : State) :
    portOf (txFrame p flooded t s) q = portOf s q := by
  unfold txFrame
  split
  · rfl
  · split
    · rw [portOf_sendNext_ne hq h, portOf_modPort p _ s hq, if_neg h]
    · split
      · rw [portOf_modPort p _ s hq, if_neg h]
      · rfl

/-- A port that can send at once a frame handed to it: UP, outside safe state, with nothing in its way (R412). -/
structure Idle (p : Nat) (s : State) : Prop where
  fitted : s.dev.variant.ridgeline = true
  up : (portOf s p).state = .up
  unsafe_ : s.dev.safe = false
  empty : (portOf s p).txq = []
  free : (portOf s p).txBusy ≤ nowU s

/-- A port whose transmitter has begun the frame `f` at the instant `now`. -/
def Port.sending (now : Nat) (f : List Byte) (q : Port) : Port :=
  { q with
    txCnt := q.txCnt + 1, lseqTx := (q.lseqTx + 1) % 65536, txCur := f, txBusy := now + frameTime f.length }

/-- The only frame queued goes out (R412). RECORD frames, which credit holds back, aside. -/
theorem sendNext_single {p : Nat} {s : State} {t : TxFrame} (hup : (portOf s p).state = .up) (hsafe : s.dev.safe = false)
    (hbusy : (portOf s p).txBusy ≤ nowU s) (hq : (portOf s p).txq = [t]) (ht : t.type ≠ 0x40) :
    sendNext p s = emitOut (.rlFrame p (txBytes (portOf s p).lseqTx t s))
      (modPort p (fun q => { q.sending (nowU s) (txBytes (portOf s p).lseqTx t s) with txq := q.txq.erase t }) s) := by
  have hfirst : firstTx ((portOf s p).txq.filter (mayBegin (nowU s) (portOf s p))) = some t := by
    have hm : mayBegin (nowU s) (portOf s p) t = true := by simp [mayBegin, ht]
    rw [hq, List.filter_singleton, hm]
    rfl
  rw [sendNext, if_pos ⟨hup, by simp [hsafe], hbusy⟩, hfirst]
  simp only [ht, if_false]
  rfl

/-- A frame queued on port `p`. -/
def queueTx (p : Nat) (t : TxFrame) (s : State) : State := modPort p (fun q => { q with txq := q.txq ++ [t] }) s

theorem txFrame_up {p : Nat} {s : State} (hr : s.dev.variant.ridgeline = true) (hup : (portOf s p).state = .up)
    (hsafe : s.dev.safe = false) (flooded : Bool) (t : TxFrame) : txFrame p flooded t s = sendNext p (queueTx p t s) := by
  rw [txFrame, if_neg (by simp [hr]), if_pos ⟨hup, by simp [hsafe]⟩]
  rfl

theorem portOf_queueTx {p : Nat} (hp : p < 3) (t : TxFrame) (s : State) :
    portOf (queueTx p t s) p = { portOf s p with txq := (portOf s p).txq ++ [t] } := by
  rw [queueTx, portOf_modPort p _ s hp, if_pos rfl]

/-- A frame handed to an idle port goes out. -/
theorem txFrame_idle {p : Nat} {s : State} (hp : p < 3) (h : Idle p s) (flooded : Bool) {t : TxFrame} (ht : t.type ≠ 0x40) :
    txFrame p flooded t s = emitOut (.rlFrame p (txBytes (portOf s p).lseqTx t s))
      (modPort p (Port.sending (nowU s) (txBytes (portOf s p).lseqTx t s)) s) := by
  obtain ⟨hr, hup, hsafe, hq, hbusy⟩ := h
  have hport := portOf_queueTx hp t s
  rw [hq, List.nil_append] at hport
  have hsent := sendNext_single (s := queueTx p t s) (by rw [hport]; exact hup) hsafe (by rw [hport]; exact hbusy)
    (by rw [hport]) ht
  rw [hport] at hsent
  rw [txFrame_up hr hup hsafe, hsent]
  refine congrArg (emitOut _) ?_
  simp only [modPort, queueTx, tabMod_tabMod]
  refine congrArg (fun v => { s with rl := { s.rl with ports := v } }) (tabMod_congr (d := s.rl.ports[0]) ?_)
  have hq' : (tabGet s.rl.ports p s.rl.ports[0]).txq = [] := hq
  simp only [Function.comp_apply, Port.sending, hq', List.nil_append, List.erase_cons_head]
  rfl

/-- While a frame is being sent another waits in the queue. -/
theorem txFrame_busy {p : Nat} {s : State} (hp : p < 3) (hr : s.dev.variant.ridgeline = true)
    (hup : (portOf s p).state = .up) (hsafe : s.dev.safe = false) (hbusy : nowU s < (portOf s p).txBusy) (flooded : Bool)
    (t : TxFrame) : txFrame p flooded t s = queueTx p t s := by
  rw [txFrame_up hr hup hsafe, sendNext, portOf_queueTx hp t s]
  refine if_neg fun ⟨_, _, h⟩ => ?_
  exact absurd h (Nat.not_le.mpr hbusy)

end Sys2Proof.Machine


/-! ## Training, loss and faults of a Ridgeline port (O32) -/

namespace Sys2Proof.Machine

theorem hasEvent_portUp {v : Variant} (hv : v.ridgeline = true) (p : Fin 3) : hasEvent v 12 p.val = true := by
  revert p
  cases v <;> revert hv <;> decide

theorem portOf_congr {s t : State} (h : t.rl = s.rl) (p : Nat) : portOf t p = portOf s p := by
  unfold portOf
  rw [h]

/-- A port that has come UP, before it is granted credit and sends what waits (R407). -/
def trained (p : Fin 3) (peer : List Byte) (n : Byte) (s : State) : State :=
  let changed := match (portOf s p.val).peer with
    | some (_, k) => decide (k ≠ n.toNat)
    | none => false
  let u := raise 12 p.val (modPort p.val (fun q => { q with
    state := .up, peer := some (padTo 16 peer, n.toNat), faulted := false, upAt := t0Of s.tm.a
    restarted := q.restarted || changed, samples := []
    credit := if changed then 0 else q.credit + ((q.fwdBuf.take q.fwdSent).map recSize).sum, fwdSent := 0, reasm := []
    rseqRx := if changed then 0 else unsign 32 ((q.rseqRx : Int) - (((q.reasm.length + 95) / 96 : Nat) : Int))
    grant := if changed then 0 else q.grant }) s)
  { u with pll := { u.pll with missing := withoutBit (2 + p.val) u.pll.missing } }

theorem portUp_trained {s : State} {p : Fin 3} {peer : List Byte} {n : Byte} (hr : s.dev.variant.ridgeline = true)
    (ht : (portOf s p.val).state = .training) (hl : s.pll.l.state = .locked ∨ s.pll.l.state = .holdover)
    (hs : s.dev.safe = false) :
    exec (.rlPortUp p peer n) s = .next (pumpPort p.val (grantCredit p.val false (trained p peer n s))) :=
  if_pos ⟨hr, ht, hl, by simp [hs]⟩

theorem portOf_trained (p : Fin 3) (peer : List Byte) (n : Byte) (s : State) :
    (portOf (trained p peer n s) p.val).state = .up ∧
      (portOf (trained p peer n s) p.val).peer = some (padTo 16 peer, n.toNat) ∧
      (portOf (trained p peer n s) p.val).faulted = false := by
  have hp : portOf (trained p peer n s) p.val = portOf (modPort p.val _ s) p.val :=
    portOf_congr (raise_rl 12 p.val _) p.val
  rw [hp, portOf_modPort p.val _ s p.isLt, if_pos rfl]
  exact ⟨rfl, rfl, rfl⟩

/-- A port that is not UP changes its state alone (R407). -/
theorem leaveUp_down {p : Nat} {d : PortState} {s : State} (h : (portOf s p).state ≠ .up) :
    leaveUp p d s = modPort p (fun q => { q with state := d, good := false }) s := if_neg h

/-! ### A frame in error (R408, R409) -/

theorem frameBad_bad {s : State} {r : RxBlocks} (hr : s.dev.variant.ridgeline = true)
    (hup : (portOf s r.port.val).state = .up) (hg : rxGood (rxBytes r.blocks) = false) :
    exec (.rlFrameBad r) s = .next (cutThrough r.port.val (rxBytes r.blocks)
      (modPort r.port.val (fun q => { q with crcErr := q.crcErr + 1 }) s)) := by
  show Host.Outcome.next (if rxGood (rxBytes r.blocks) then s else rxBad r.port.val (rxBytes r.blocks) s) = _
  rw [if_neg (by rw [hg]; exact Bool.false_ne_true), rxBad, if_pos ⟨hr, hup⟩]

theorem frameBad_none {s : State} {r : RxBlocks} (h : s.dev.variant.ridgeline = false ∨ (portOf s r.port.val).state ≠ .up ∨
    rxGood (rxBytes r.blocks) = true) : exec (.rlFrameBad r) s = .next s := by
  show Host.Outcome.next (if rxGood (rxBytes r.blocks) then s else rxBad r.port.val (rxBytes r.blocks) s) = _
  split
  · rfl
  · next hg =>
    refine congrArg Host.Outcome.next (if_neg fun ⟨hr, hup⟩ => ?_)
    rcases h with h | h | h
    · exact Bool.false_ne_true (h.symm.trans hr)
    · exact h hup
    · exact hg h

/-- A frame whose header has not arrived is not being forwarded (R408). -/
theorem cutThrough_short {p : Nat} {f : List Byte} {s : State} (h : f.length < 16) : cutThrough p f s = s :=
  if_neg fun hc => absurd hc.1 (Nat.not_le.mpr h)

/-- What forwarding does at one port (R413). -/
def forwardTo (p : Nat) (t : TxFrame) (s : State) (q : Nat) : State :=
  if q = p ∨ (portOf s q).state ≠ .up then s else txFrame q true t s

theorem forwardTo_unsent (p : Nat) (t : TxFrame) (s : State) (q : Nat) : (forwardTo p t s q).unsent = s.unsent :=
  unsent_ite rfl (txFrame_unsent ..)

theorem forwardTo_out (p : Nat) (t : TxFrame) (s : State) (q : Nat) : s.out <+: (forwardTo p t s q).out := by
  unfold forwardTo
  split
  · exact ⟨[], List.append_nil _⟩
  · exact txFrame_out ..

theorem portOf_forwardTo_ne {p q r : Nat} (hq : q < 3) (h : r ≠ q) (t : TxFrame) (s : State) :
    portOf (forwardTo p t s r) q = portOf s q := by
  unfold forwardTo
  split
  · rfl
  · exact portOf_txFrame_ne hq h ..

theorem forwardTo_foldl_out (p : Nat) (t : TxFrame) (l : List Nat) (s : State) :
    s.out <+: (l.foldl (forwardTo p t) s).out :=
  List.foldlRecOn (motive := fun x => s.out <+: x.out) l (forwardTo p t) ⟨[], List.append_nil _⟩
    fun x h q _ => h.trans (forwardTo_out p t x q)

theorem txBytes_congr {s u : State} (h : u.tm = s.tm) (k : Nat) (t : TxFrame) : txBytes k t u = txBytes k t s := by
  simp only [txBytes, stampBody, h]

/-- A frame forwarded on several ports goes out on each that is idle. -/
theorem forwardTo_foldl {p q : Nat} {t : TxFrame} {l : List Nat} (hl : l.Nodup) (hq : q < 3) (hql : q ∈ l) (hpq : p ≠ q)
    (ht : t.type ≠ 0x40) {s : State} (hi : Idle q s) :
    Output.rlFrame q (txBytes (portOf s q).lseqTx t s) ∈ (l.foldl (forwardTo p t) s).out := by
  obtain ⟨l₁, l₂, rfl⟩ := List.append_of_mem hql
  have hq₁ : q ∉ l₁ := fun h => (List.nodup_append.mp hl).2.2 q h q List.mem_cons_self rfl
  have hport : portOf (l₁.foldl (forwardTo p t) s) q = portOf s q :=
    foldl_unchanged (fun x => portOf x q) (fun x r hr => portOf_forwardTo_ne hq (fun h => hq₁ (h ▸ hr)) t x) s
  have hu : (l₁.foldl (forwardTo p t) s).unsent = s.unsent :=
    foldl_unchanged State.unsent (fun x r _ => forwardTo_unsent p t x r) s
  have hdev := dev_of_unsent hu
  have htm := tm_of_unsent hu
  have hiu : Idle q (l₁.foldl (forwardTo p t) s) :=
    ⟨by rw [hdev]; exact hi.fitted, by rw [hport]; exact hi.up, by rw [hdev]; exact hi.unsafe_,
      by rw [hport]; exact hi.empty, by rw [hport, nowU, htm]; exact hi.free⟩
  have hsend : forwardTo p t (l₁.foldl (forwardTo p t) s) q = txFrame q true t (l₁.foldl (forwardTo p t) s) :=
    if_neg fun h => h.elim (fun h => hpq h.symm) fun h => h hiu.up
  rw [List.foldl_append, List.foldl_cons, hsend, txFrame_idle hq hiu true ht, hport, txBytes_congr htm]
  exact (forwardTo_foldl_out p t l₂ _).subset (List.mem_append_right _ (List.mem_singleton_self _))

/-- A frame found in error while it is forwarded cut-through ends with an inverted CRC on every idle port (R408). -/
theorem cutThrough_sends {p q : Fin 3} {f : List Byte} {s : State} (hlen : 16 ≤ f.length) (h3 : 3 ≤ fieldAt f 1 1)
    (h16 : fieldAt f 1 1 ≤ 16) (hfw : forwards (padTo (8 * fieldAt f 1 1) f) s = true)
    (hhop : frHop (padTo (8 * fieldAt f 1 1) f) ≠ 0xFFFF) (hpq : p ≠ q) (hi : Idle q.val s) :
    Output.rlFrame q.val (invertCrc (rlBytes (frType (padTo (8 * fieldAt f 1 1) f)) (portOf s q.val).lseqTx
      (frOrigin (padTo (8 * fieldAt f 1 1) f)) (frDest (padTo (8 * fieldAt f 1 1) f))
      (frHop (padTo (8 * fieldAt f 1 1) f) + 1) (frOseq (padTo (8 * fieldAt f 1 1) f))
      (frBody (padTo (8 * fieldAt f 1 1) f)))) ∈ (cutThrough p.val f s).out := by
  rw [cutThrough, if_pos ⟨hlen, h3, h16, hfw⟩, forwardAs, if_neg hhop]
  generalize padTo (8 * fieldAt f 1 1) f = g at hfw hhop ⊢
  have hflood : isFlooded (frType g) = true := (Bool.and_eq_true_iff.mp hfw).1
  have hty : frType g ∈ [0x10, 0x11, 0x12, 0x20, 0x30, 0x31, 0x50, 0x51, 0x52] := of_decide_eq_true hflood
  have hbody : stampBody ⟨frType g, frOrigin g, frDest g, frHop g + 1, frOseq g, frBody g, true⟩ s = frBody g := by
    simp only [List.mem_cons, List.not_mem_nil, or_false] at hty
    rw [stampBody, if_neg (show ¬ (frType g = 0x01 ∨ frType g = 0x02) by omega), if_neg (show frType g ≠ 0x03 by omega)]
  have hmem := forwardTo_foldl (p := p.val) (q := q.val) (l := List.range 3)
    (t := ⟨frType g, frOrigin g, frDest g, frHop g + 1, frOseq g, frBody g, true⟩) (by decide) q.isLt
    (List.mem_range.mpr q.isLt) (fun h => hpq (Fin.ext h)) (by intro h; rw [show frType g = 0x40 from h] at hty; simp at hty) hi
  rw [txBytes, hbody] at hmem
  exact hmem

/-- Settles O32. -/
theorem ridgelineStates : Obligations.RidgelineStates := by
  refine ⟨?_, ?_, ?_, ?_, ?_, ?_, ?_, ?_, ?_, ?_, ?_, ?_, ?_, ?_, ?_, ?_⟩
  · intro s p peer n hr ht hl hs
    have hu : (pumpPort p.val (grantCredit p.val false (trained p peer n s))).unsent = (trained p peer n s).unsent := by
      rw [pumpPort_unsent, grantCredit_unsent]
    obtain ⟨hst, hpeer, hfaulted⟩ := portOf_trained p peer n s
    have hport := port_of_unsent hu p.isLt
    refine ⟨_, portUp_trained hr ht hl hs, (congrArg Port.state hport).trans hst, (congrArg Port.peer hport).trans hpeer,
      (congrArg Port.faulted hport).trans hfaulted, ?_, (dev_of_unsent hu).trans ?_, (pll_of_unsent hu).trans ?_,
      (tm_of_unsent hu).trans ?_, (ring_of_unsent hu).trans ?_, (summit_of_unsent hu).trans ?_⟩
    · rw [rawBit_congr (evt_of_unsent hu)]
      exact (rawBit_raise 12 p.val _).trans (Bool.or_eq_true_iff.mpr (.inl (hasEvent_portUp hr p)))
    · exact raise_dev ..
    · simp only [trained, raise_pll, modPort_pll]
    · exact raise_tm ..
    · exact raise_ring ..
    · exact raise_summit ..
  · intro s p h
    exact if_pos h
  · intro s p h
    exact if_neg h
  · intro s p hr hst hl htime
    exact if_pos ⟨hr, hst, hl, htime⟩
  · intro s p h
    refine if_neg fun ⟨_, hst, hl, htime⟩ => ?_
    rcases h with h | h | h | h
    · omega
    · simp [h] at hst
    · simp [h] at hst
    · exact h hl
  · intro s p h
    exact if_pos h
  · intro s p h
    show execFaultIdleRx p s = _
    simp only [execFaultIdleRx, h]
  · intro s p hr h
    refine ⟨raise 12 (6 + p.val) (leaveUp p.val .peerFault s), ?_, ?_⟩
    · show execFaultIdleRx p s = _
      simp only [execFaultIdleRx, h, hr, if_true]
    · rw [leaveUp_down (by rw [h]; decide)]
      exact raises_raise ..
  · intro s p h
    show execFaultIdleRx p s = _
    rcases h with h | h <;> simp only [execFaultIdleRx, h]
  · intro s p h
    refine (if_pos h).trans ?_
    rw [leaveUp_down (by rw [h]; decide)]
    rfl
  · intro s r hr hup hg hlen
    rw [frameBad_bad hr hup hg, cutThrough_short hlen]
    rfl
  · intro s r hr hup hg
    exact frameBad_bad hr hup hg
  · intro s p q f hr hs hlen h3 h16 hfw hhop hpq hup hq hbusy
    exact cutThrough_sends hlen h3 h16 hfw hhop hpq ⟨hr, hup, hs, hq, hbusy⟩
  · intro s r h
    exact frameBad_none h
  · intro s p x h
    show Host.Outcome.next (match (portOf s p.val).lastTime with
      | some t => if s.tm.tick ≤ t.tick + 200 * usTicks s then s else portBad p.val s
      | none => portBad p.val s) = _
    rcases h with h | ⟨h, ht⟩
    · rw [h]
      rfl
    · rw [h]
      exact congrArg Host.Outcome.next (if_neg (Nat.not_le.mpr ht))
  · intro s p x h ht
    show execRlTimeLoss p s = _
    simp only [execRlTimeLoss, h, if_pos ht]

end Sys2Proof.Machine


/-! ## A TIMED frame for one unit (O33) -/

namespace Sys2Proof.Machine

/-- A TIMED frame of the unit 7 for the unit 5 alone, whose action applies at second 1 of time B (R410). -/
def timedForFive : List Byte := rlBytes 0x20 0 7 5 0 0 (leBytes 8 1 ++ zeros 16)

/-- The unit 5, with port 0 UP and time B valid at 0. -/
def unitFive : State :=
  { State.reset with
    rl := { State.reset.rl with addr := 5, ports := tabMod State.reset.rl.ports 0 fun q => { q with state := .up } }
    tm := { State.reset.tm with bValid := true } }

/-- Refutes O33: the list of waiting actions keeps the DEST that the frame names (R410, R426), which is the unit's own address where
the frame is for it alone, and not that of every unit. -/
theorem not_ridgelineFrames : ¬ Obligations.RidgelineFrames := by
  rintro ⟨-, -, -, -, -, -, -, -, -, -, -, -, -, -, -, -, -, h⟩
  obtain ⟨t, ht, htimed, -⟩ := h unitFive 0 timedForFive (by decide +kernel) (by decide +kernel)
    (.inr ⟨by decide +kernel, by decide +kernel⟩) rfl (by decide +kernel) (by decide +kernel)
  have hu : (match exec (.timedFrameRx 0 timedForFive) unitFive with
    | .next t => t.rl.timed.map fun e => e.dest
    | _ => []) = [5] := by decide +kernel
  rw [ht] at hu
  simp only [htimed] at hu
  exact absurd hu (by decide +kernel)

end Sys2Proof.Machine


/-! ## Increments and steps of time A and time B (O26) -/

namespace Sys2Proof.Machine

/-! ### Writes (R369, R370, R372, R374, R537) -/

theorem timeAIncr_reached {s : State} (h : s.reached = true) (v : Word64) :
    exec (.timeAIncr v 0xFF#8) s = .next (dropHeldLow 0x5008 (setIncrA v s.spent)) :=
  congrArg Host.Outcome.next ((barWrite_reached h).trans (write64_full ..))

theorem timeBIncr_reached {s : State} (h : s.reached = true) (v : Word64) :
    exec (.timeBIncr v 0xFF#8) s = .next (dropHeldLow 0x5028 (setIncrB v s.spent)) :=
  congrArg Host.Outcome.next ((barWrite_reached h).trans (write64_full ..))

theorem timeAStep_reached {s : State} (h : s.reached = true) (hk : s.cfg.unlock ≤ 1) (v : Word64) :
    exec (.timeAStep v 0xFF#8) s =
      .next (setHeldLow 0x5010 (v.truncate 32) (setStepA s.cfg.unlock 0xFF#8 v s.spent)) := by
  refine congrArg Host.Outcome.next ((barWrite_reached h).trans ?_)
  rw [writeStepA, if_neg (by omega)]
  exact write64_full ..

theorem timeBStep_reached {s : State} (h : s.reached = true) (v : Word64) :
    exec (.timeBStep v 0xFF#8) s = .next (setHeldLow 0x5030 (v.truncate 32) (setStepB v s.spent)) :=
  congrArg Host.Outcome.next ((barWrite_reached h).trans (write64_full ..))

theorem timeAStepLimit_keyed {s : State} (h : s.reached = true) (hk : s.cfg.unlock = 1) (v : Word) :
    exec (.timeAStepLimit v 0xF#4) s = .next { s.spent with tm := { s.tm with stepLimit := v } } := by
  refine congrArg Host.Outcome.next ((barWrite_reached h).trans ?_)
  rw [hk]
  exact keyed_full ..

theorem setStepA_cls {cls : Nat} (h : cls ≤ 1) (v : Word64) (s : State) :
    setStepA cls 0xFF#8 v s =
      if v = 0 ∨ s.tm.stepA.isSome ∨ (s.tm.stepLimit.toNat < v.toInt.natAbs ∧ cls ≠ 1) then refuseStepA s
      else { s with tm := { s.tm with stepA := some (v.toInt, cls == 1) } } :=
  if_neg (by omega)

/-- A raise seen through a change of the low words held (R537). -/
theorem raises_dropHeldLow {es : List (Nat × Nat)} {s t : State} (off : Nat) (h : s.raises es t) :
    (dropHeldLow off s).raises es (dropHeldLow off t) :=
  State.raises.update (F := dropHeldLow off) (fun _ => rfl) (fun _ => rfl) (fun _ => rfl) h

theorem raises_setHeldLow {es : List (Nat × Nat)} {s t : State} (off : Nat) (w : Word) (h : s.raises es t) :
    (setHeldLow off w s).raises es (setHeldLow off w t) :=
  State.raises.update (F := setHeldLow off w) (fun _ => rfl) (fun _ => rfl) (fun _ => rfl) h

/-! ### What the rest of a tick leaves unchanged (R367) -/

/-- `t` has the times of `s` and every RAW bit of `s`. -/
structure Paced (s t : State) : Prop where
  tm  : t.tm = s.tm
  raw : ∀ g b, s.rawBit g b = true → t.rawBit g b = true

theorem Paced.refl (s : State) : Paced s s := ⟨rfl, fun _ _ h => h⟩

theorem Paced.trans {s t u : State} (h : Paced s t) (k : Paced t u) : Paced s u :=
  ⟨k.tm.trans h.tm, fun g b hb => k.raw g b (h.raw g b hb)⟩

/-- An update of other parts than the times and the events. -/
theorem Paced.lit {s t : State} (htm : t.tm = s.tm) (hevt : t.evt = s.evt) : Paced s t :=
  ⟨htm, fun g b hb => by rwa [State.rawBit, hevt]⟩

theorem Paced.ite {s a b : State} {c : Prop} [Decidable c] (ha : Paced s a) (hb : Paced s b) : Paced s (if c then a else b) := by
  split
  · exact ha
  · exact hb

theorem Paced.foldl {α : Type} {f : State → α → State} (hf : ∀ x a, Paced x (f x a)) (l : List α) (s : State) :
    Paced s (l.foldl f s) :=
  List.foldlRecOn (motive := Paced s) l f (.refl s) fun x h a _ => h.trans (hf x a)

theorem Paced.raise (g b : Nat) (s : State) : Paced s (raise g b s) :=
  ⟨raise_tm .., (raises_raise g b s).kept⟩

theorem Paced.unsent {s t : State} (h : t.unsent = s.unsent) : Paced s t := .lit (tm_of_unsent h) (evt_of_unsent h)

theorem pushWords_paced (s : State) : Paced s (pushWords s) := by
  unfold pushWords
  split
  · exact .refl s
  · exact .lit rfl rfl
  · exact .lit rfl rfl

theorem sealTick_paced (s : State) : Paced s (sealTick s) := .lit rfl rfl

theorem kickTick_paced (s : State) : Paced s (kickTick s) := .ite (.lit rfl rfl) (.refl s)

theorem grantAll_paced (s : State) : Paced s (grantAll s) := Paced.foldl (fun _ _ => .unsent (grantCredit_unsent ..)) _ s

theorem txTick_paced (s : State) : Paced s (txTick s) := Paced.foldl (fun _ _ => .unsent (sendNext_unsent ..)) _ s

theorem slewTick_paced (s : State) : Paced s (slewTick s) := by
  unfold slewTick
  dsimp only
  split
  · split
    · exact .lit rfl rfl
    · exact .lit rfl rfl
  · split
    · exact .lit rfl rfl
    · exact .refl s

theorem measureSupply_paced (p : Nat) (s : State) : Paced s (measureSupply p s) := by
  unfold measureSupply
  split
  · exact .lit rfl rfl
  · exact .refl s

theorem measureSupplies_paced (s : State) : Paced s (measureSupplies s) :=
  .ite (Paced.foldl (fun x p => measureSupply_paced p x) _ s) (.refl s)

theorem modPod_paced (p : Nat) (f : Pod → Pod) (s : State) : Paced s (modPod p f s) := .lit rfl rfl

theorem judgeEdge_paced (p tc : Nat) (s : State) : Paced s (judgeEdge p tc s) := by
  unfold judgeEdge
  dsimp only
  refine .ite ?_ (.ite ?_ (.ite ?_ ?_))
  · exact (modPod_paced ..).trans (.raise ..)
  · exact modPod_paced ..
  · exact (modPod_paced ..).trans (.raise ..)
  · exact modPod_paced ..

theorem judgeClocks_paced (p t : Nat) (s : State) : Paced s (judgeClocks p t s) :=
  (Paced.foldl (fun x tc => judgeEdge_paced p tc x) _ s).trans (modPod_paced ..)

theorem judgeAllClocks_paced (s : State) : Paced s (judgeAllClocks s) :=
  Paced.foldl (fun x p => .ite (judgeClocks_paced p _ x) (.refl x)) _ s

theorem snapTick_paced (s : State) : Paced s (snapTick s) := by
  unfold snapTick
  split
  · exact .ite (.lit rfl rfl) (.refl s)
  · exact .refl s

/-- A scheduler in which no slot is armed, to be armed or due. -/
def SlotsRest (s : State) : Prop :=
  ∀ n < 64, (slotOf s n).armReq = false ∧ (slotOf s n).armed = false ∧ (slotOf s n).due = none

theorem foldl_fixed {α : Type} {f : State → α → State} {l : List α} {s : State} (h : ∀ a ∈ l, f s a = s) : l.foldl f s = s :=
  List.foldlRecOn (motive := fun x => x = s) l f rfl fun _ hx a ha => hx ▸ h a ha

theorem slotTick_rest {s : State} (h : SlotsRest s) : slotTick s = s := by
  have hnote : noteAll s = s := foldl_fixed fun n hn => if_neg (by simp [(h n (List.mem_range.mp hn)).2.1])
  have harm : (List.range 64).foldl (fun s n => takeArm n s) s = s :=
    foldl_fixed fun n hn => if_neg (by simp [(h n (List.mem_range.mp hn)).1])
  unfold slotTick
  dsimp only
  rw [hnote, harm]
  exact foldl_fixed fun n hn => if_neg (by simp [(h n (List.mem_range.mp hn)).2.2])

/-- After the counters a tick leaves the times and the RAW bits that are set as they are, where the scheduler rests. -/
theorem tick_paced {s : State} (hp : s.dev.powered = true) (hr : s.dev.perst = false) (hs : SlotsRest (clockTick s)) :
    Paced (clockTick s) (tick s) := by
  rw [tick_running (by rw [hp, hr]; rfl), slotTick_rest hs]
  exact (pushWords_paced _).trans ((sealTick_paced _).trans ((kickTick_paced _).trans ((grantAll_paced _).trans
    ((txTick_paced _).trans ((slewTick_paced _).trans ((measureSupplies_paced _).trans ((judgeAllClocks_paced _).trans
    (snapTick_paced _))))))))

/-! ### The steps of a tick (R371, R374, R378) -/

/-- The settings of the axes that take effect change the encoders and the mains axis alone (R387). -/
theorem setAxes_eq (s : State) :
    ∃ (e : Tab 2 Enc) (m : Mains), setAxes s = { s with tm := { s.tm with axisSet := [], enc := e, mains := m } } := by
  unfold setAxes
  refine List.foldlRecOn (motive := fun x => ∃ (e : Tab 2 Enc) (m : Mains),
    x = { s with tm := { s.tm with axisSet := [], enc := e, mains := m } }) _ _ ⟨s.tm.enc, s.tm.mains, rfl⟩ ?_
  rintro _ ⟨e, m, rfl⟩ c -
  unfold setAxis
  split
  · exact ⟨e, _, rfl⟩
  · exact ⟨_, m, rfl⟩

/-- A state whose counters have advanced and whose axes have their settings. -/
def counted (s : State) : State := setAxes (countTick s)

theorem counted_frame (s : State) :
    (counted s).tm.a = timeTick s.tm.a (tickIncr s.dev.backup s.tm.incrA) ∧ (counted s).tm.aCopy = (counted s).tm.a ∧
      (counted s).tm.b = timeTick s.tm.b (tickIncr s.dev.backup (bIncr s)) ∧ (counted s).tm.stepA = s.tm.stepA ∧
      (counted s).tm.stepB = s.tm.stepB ∧ (counted s).tm.accepted = s.tm.accepted ∧
      (counted s).tm.tick = s.tm.tick + 1 ∧ (counted s).sch = s.sch := by
  obtain ⟨e, m, h⟩ := setAxes_eq (countTick s)
  rw [counted, h]
  exact ⟨rfl, rfl, rfl, rfl, rfl, rfl, rfl, rfl⟩

theorem hasEvent_step (v : Variant) : hasEvent v 2 0 = true ∧ hasEvent v 2 5 = true := by cases v <;> decide

theorem applyStepA_none {s : State} (h : s.tm.stepA = none) : applyStepA s = s := by simp only [applyStepA, h]

theorem applyStepB_none {s : State} (h : s.tm.stepB = none) : applyStepB s = s := by simp only [applyStepB, h]

theorem applyStepA_some {s : State} {d : Int} {k : Bool} (h : s.tm.stepA = some (d, k)) :
    (applyStepA s).tm.a = stepTime s.tm.a d ∧ (applyStepA s).tm.aCopy = stepTime s.tm.a d ∧
      (applyStepA s).tm.stepA = none ∧ (applyStepA s).tm.accepted = (s.tm.accepted + 1) % 65536 ∧
      (applyStepA s).tm.tick = s.tm.tick ∧ (applyStepA s).tm.b = s.tm.b ∧ (applyStepA s).tm.stepB = s.tm.stepB ∧
      (applyStepA s).sch = s.sch ∧ (applyStepA s).rawBit 2 0 = true := by
  simp only [applyStepA, h]
  refine ⟨?_, ?_, ?_, ?_, ?_, ?_, ?_, ?_, ?_⟩
  case refine_9 =>
    rw [rawBit_congr (cairnNow_evt ..)]
    exact (raises_raiseWith false 2 0 _ _).marked (2, 0) (List.mem_singleton_self _) (hasEvent_step _).1
  all_goals
    simp only [cairnNow_tm, raiseWith_tm, cairnNow_sch, raiseWith_sch]
    rfl

theorem applyStepB_some {s : State} {d : Int} (h : s.tm.stepB = some d) :
    (applyStepB s).tm.b = timeAdd s.tm.b (d * 2 ^ 32) ∧ (applyStepB s).tm.stepB = none ∧
      (applyStepB s).tm.tick = s.tm.tick ∧ (applyStepB s).tm.a = s.tm.a ∧ (applyStepB s).sch = s.sch ∧
      (applyStepB s).rawBit 2 5 = true := by
  simp only [applyStepB, h, doStepB, bCairn]
  refine ⟨?_, ?_, ?_, ?_, ?_, ?_⟩
  case refine_6 =>
    rw [rawBit_congr (cairnNow_evt ..)]
    exact (raises_raise 2 5 _).marked (2, 5) (List.mem_singleton_self _) (hasEvent_step _).2
  all_goals
    simp only [cairnNow_tm, raise_tm, cairnNow_sch, raise_sch]
    rfl

theorem slotsRest_congr {s t : State} (h : t.sch = s.sch) (hs : SlotsRest s) : SlotsRest t := by
  intro n hn
  have hslot : slotOf t n = slotOf s n := by rw [slotOf, h, slotOf]
  rw [hslot]
  exact hs n hn

/-- Settles O26. -/
theorem timeIncrements : Obligations.TimeIncrements := by
  refine ⟨?_, ?_, ?_, ?_, ?_, ?_, ?_, ?_, ?_, ?_, ?_, ?_⟩
  · intro s v h hv
    rw [timeAIncr_reached h, setIncrA, if_pos hv]
    rfl
  · intro s v h hv
    refine ⟨_, timeAIncr_reached h v, ?_⟩
    rw [setIncrA, if_neg (by rw [hv]; exact Bool.false_ne_true)]
    exact raises_dropHeldLow 0x5008 (raises_raise 2 2 s.spent)
  · intro s v h hv
    rw [timeBIncr_reached h, setIncrB, if_pos hv]
    rfl
  · intro s v h hv
    refine ⟨_, timeBIncr_reached h v, ?_⟩
    rw [setIncrB, if_neg (by rw [hv]; exact Bool.false_ne_true)]
    exact raises_dropHeldLow 0x5028 (raises_raise 2 2 s.spent)
  · intro s v h hk hv hn hlim
    have hok : ¬ (v = 0 ∨ s.spent.tm.stepA.isSome ∨ (s.spent.tm.stepLimit.toNat < v.toInt.natAbs ∧ s.cfg.unlock ≠ 1)) := by
      have hn' : s.spent.tm.stepA = none := hn
      have hlim' : v.toInt.natAbs ≤ s.spent.tm.stepLimit.toNat ∨ s.cfg.unlock = 1 := hlim
      simp only [hn', Option.isSome_none, Bool.false_eq_true, false_or, not_or, not_and, not_not]
      exact ⟨hv, fun hlt => hlim'.resolve_left (Nat.not_le.mpr hlt)⟩
    rw [timeAStep_reached h hk, setStepA_cls hk, if_neg hok]
    rfl
  · intro s v h hk hbad
    refine ⟨_, timeAStep_reached h hk v, ?_⟩
    rw [setStepA_cls hk]
    refine Eq.mpr (congrArg (fun x => State.raises _ _ (setHeldLow _ _ x)) (if_pos hbad)) ?_
    exact raises_setHeldLow 0x5010 (v.truncate 32)
      (raises_raise 2 1 { s.spent with tm := { s.tm with refused := (s.tm.refused + 1) % 65536 } })
  · intro s v h hsrc hv hn
    rw [timeBStep_reached h, setStepB, if_neg]
    · rfl
    · show ¬ (s.tm.source ≠ 1 ∨ v = 0 ∨ s.tm.stepB.isSome = true)
      simpa [hsrc, hn] using hv
  · intro s v h hbad
    refine ⟨_, timeBStep_reached h v, ?_⟩
    have hr : setStepB v s.spent = raise 2 15 s.spent := if_pos hbad
    rw [hr]
    exact raises_setHeldLow 0x5030 (v.truncate 32) (raises_raise 2 15 s.spent)
  · intro s v h hk
    exact timeAStepLimit_keyed h hk v
  · intro s d k hp hr hs hA hB
    obtain ⟨ha, -, hb, hsA, hsB, hacc, htick, hsch⟩ := counted_frame s
    obtain ⟨ha', hcopy', hsA', hacc', htick', hb', hsB', hsch', hraw⟩ := applyStepA_some (hsA.trans hA)
    have hclock : clockTick s = applyStepA (counted s) := applyStepB_none (hsB'.trans (hsB.trans hB))
    have hpace := tick_paced hp hr (slotsRest_congr (by rw [hclock, hsch', hsch]) hs)
    rw [hclock] at hpace
    refine ⟨tick s, congrArg Host.Outcome.next (if_pos (by rw [hA]; rfl)), ?_, ?_, ?_, ?_, ?_, ?_, hpace.raw 2 0 hraw⟩
    all_goals rw [hpace.tm]
    · rw [ha', ha]
    · rw [hcopy', ha']
    · exact hsA'
    · rw [hacc', hacc]
    · rw [htick', htick]
    · rw [hb', hb]
  · intro s d hp hr hs hA hB
    obtain ⟨ha, -, hb, hsA, hsB, -, htick, hsch⟩ := counted_frame s
    obtain ⟨hb', hsB', htick', ha', hsch', hraw⟩ := applyStepB_some (hsB.trans hB)
    have hclock : clockTick s = applyStepB (counted s) := congrArg applyStepB (applyStepA_none (hsA.trans hA))
    have hpace := tick_paced hp hr (slotsRest_congr (by rw [hclock, hsch', hsch]) hs)
    rw [hclock] at hpace
    refine ⟨tick s, congrArg Host.Outcome.next (if_pos (by rw [hB]; rfl)), ?_, ?_, ?_, ?_, hpace.raw 2 5 hraw⟩
    all_goals rw [hpace.tm]
    · rw [hb', hb]
    · exact hsB'
    · rw [htick', htick]
    · rw [ha', ha]
  · intro s _
    exact ⟨fun h => congrArg Host.Outcome.next (if_pos h), fun h => congrArg Host.Outcome.next (if_pos h)⟩

end Sys2Proof.Machine

/-! ## What the reactions to a fault leave in place (O24, O15)

Every operation that a fault's latching runs keeps `State.abiding`: the timebase, the record of the slots, the memory
failures kept for F10, the bytes of the ring, and of the collector its status bits and its settings. -/

namespace Sys2Proof.Machine

structure Abiding where
  tm        : Tm
  slots     : Tab 2 Slot
  failed    : List Word
  bytes     : List Host.Cell
  on        : Bool
  status    : Word64
  sev       : Tab 4 Word
  faultnSev : Nat
  extEn     : Bool

def State.abiding (s : State) : Abiding :=
  ⟨s.tm, s.summit.slots, s.mem.failed, s.ring.mem, s.flt.on, s.flt.status, s.flt.sev, s.flt.faultnSev, s.flt.extEn⟩

/-! ### How it goes through an update, a branch and a loop -/

@[simp] theorem abiding_mk (dev : Dev) (cfg : Cfg) (inputs : Tab 272 Input) (grpMask : Tab 72 Word) (bcastAgree : Word)
    (pods : Tab 16 Pod) (podc : Podc) (fab : Fab) (seqs : Tab 4 Seq) (trigout : Tab 4 Trigout) (ring : Ring) (ret : Ret)
    (cmp : Cmp) (eq : Eq) (tal : Talus) (sealer : Sealer) (tm : Tm) (sch : Sch) (rl : Rl) (pll : Pll) (pcie : Pcie)
    (mb : Tab 8 Mailbox) (cw : Tab 8 Window) (summit : Summit) (evt : Events) (flt : Flt) (mem : MemInt) (snap : Snap)
    (freeCtr : Nat) (out : List Output) (pending : List Instr) :
    State.abiding ⟨dev, cfg, inputs, grpMask, bcastAgree, pods, podc, fab, seqs, trigout, ring, ret, cmp, eq, tal,
      sealer, tm, sch, rl, pll, pcie, mb, cw, summit, evt, flt, mem, snap, freeCtr, out, pending⟩ =
      ⟨tm, summit.slots, mem.failed, ring.mem, flt.on, flt.status, flt.sev, flt.faultnSev, flt.extEn⟩ := (rfl)

@[simp] theorem abiding_of_parts (s : State) :
    Abiding.mk s.tm s.summit.slots s.mem.failed s.ring.mem s.flt.on s.flt.status s.flt.sev s.flt.faultnSev
      s.flt.extEn = s.abiding := (rfl)

@[simp] theorem abiding_ite {c : Prop} [Decidable c] (a b : State) :
    (if c then a else b).abiding = if c then a.abiding else b.abiding := apply_ite State.abiding c a b

@[simp] theorem abiding_foldl {α : Type} {f : State → α → State} (hf : ∀ x a, (f x a).abiding = x.abiding)
    (l : List α) (s : State) : (l.foldl f s).abiding = s.abiding := by
  induction l generalizing s with
  | nil => rfl
  | cons a l ih => rw [List.foldl_cons, ih, hf]

/-! ### The operations -/

@[simp] theorem emitOut_abiding (o : Output) (s : State) : (emitOut o s).abiding = s.abiding := (rfl)
@[simp] theorem modPod_abiding (p : Nat) (f : Pod → Pod) (s : State) : (modPod p f s).abiding = s.abiding := (rfl)
@[simp] theorem modInput_abiding (n : Nat) (f : Input → Input) (s : State) :
    (modInput n f s).abiding = s.abiding := (rfl)
@[simp] theorem modSeq_abiding (j : Nat) (f : Seq → Seq) (s : State) : (modSeq j f s).abiding = s.abiding := (rfl)
@[simp] theorem modMb_abiding (m : Nat) (f : Mailbox → Mailbox) (s : State) :
    (modMb m f s).abiding = s.abiding := (rfl)
@[simp] theorem modCw_abiding (k : Nat) (f : Window → Window) (s : State) : (modCw k f s).abiding = s.abiding := (rfl)

@[simp] theorem logEntry_abiding (kind eflags code : Nat) (data : List Byte) (s : State) :
    (logEntry kind eflags code data s).abiding = s.abiding := (rfl)

@[simp] theorem logCopy_abiding (kind code : Nat) (s : State) : (logCopy kind code s).abiding = s.abiding := by
  unfold logCopy
  repeat' split
  all_goals simp

@[simp] theorem pendVector_abiding (g b : Nat) (s : State) : (pendVector g b s).abiding = s.abiding := (rfl)
@[simp] theorem raiseOne_abiding (forced : Bool) (g b : Nat) (data : List Byte) (s : State) :
    (raiseOne forced g b data s).abiding = s.abiding := by simp [raiseOne]
@[simp] theorem raiseOverflow_abiding (before : State) (kind code : Nat) (s : State) :
    (raiseOverflow before kind code s).abiding = s.abiding := by simp [raiseOverflow]
@[simp] theorem raiseLogReady_abiding (before : State) (s : State) :
    (raiseLogReady before s).abiding = s.abiding := by simp [raiseLogReady]
@[simp] theorem raiseWith_abiding (forced : Bool) (g b : Nat) (data : List Byte) (s : State) :
    (raiseWith forced g b data s).abiding = s.abiding := by simp [raiseWith]
@[simp] theorem raise_abiding (g b : Nat) (s : State) : (raise g b s).abiding = s.abiding := by simp [raise]
@[simp] theorem logFault_abiding (source severity : Nat) (info : Word) (injected : Bool) (s : State) :
    (logFault source severity info injected s).abiding = s.abiding := by simp [logFault]
@[simp] theorem pushCairn_abiding (code instant unit pod : Nat) (payload : List Byte) (s : State) :
    (pushCairn code instant unit pod payload s).abiding = s.abiding := (rfl)
@[simp] theorem pushCairnIf_abiding (code instant unit pod : Nat) (payload : List Byte) (s : State) :
    (pushCairnIf code instant unit pod payload s).abiding = s.abiding := by simp [pushCairnIf]
@[simp] theorem moveH_abiding (s : State) : (moveH s).abiding = s.abiding := (rfl)
@[simp] theorem addRequest_abiding (c t : Nat) (s : State) :
    (addRequest c t s).abiding = s.abiding := by simp [addRequest]

@[simp] theorem acceptCauseAt_abiding (row cause : Nat) (s : State) :
    (acceptCauseAt row cause s).abiding = s.abiding := by
  unfold acceptCauseAt
  split <;> simp

@[simp] theorem acceptCause_abiding (cause : Nat) (s : State) :
    (acceptCause cause s).abiding = s.abiding := by simp [acceptCause]

@[simp] theorem modOpen_abiding (f : Extent → Extent) (s : State) : (modOpen f s).abiding = s.abiding := (rfl)
@[simp] theorem makeDurable_abiding (x : Extent) (s : State) : (makeDurable x s).abiding = s.abiding := (rfl)
@[simp] theorem afterRelease_abiding (s : State) : (afterRelease s).abiding = s.abiding := by simp [afterRelease]

@[simp] theorem finishExtent_abiding (s : State) : (finishExtent s).abiding = s.abiding := by
  unfold finishExtent
  split <;> simp

@[simp] theorem closeBlock_abiding (s : State) : (closeBlock s).abiding = s.abiding := by
  unfold closeBlock
  split <;> simp

@[simp] theorem closeExtent_abiding (f : Extent → Extent) (s : State) :
    (closeExtent f s).abiding = s.abiding := by simp [closeExtent]

@[simp] theorem closeFrozenBank_abiding (s : State) :
    (closeFrozenBank s).abiding = s.abiding := by simp [closeFrozenBank]
@[simp] theorem freezeRecord_abiding (s : State) : (freezeRecord s).abiding = s.abiding := by simp [freezeRecord]
@[simp] theorem fenceLane_abiding (i : Nat) (s : State) : (fenceLane i s).abiding = s.abiding := by simp [fenceLane]

@[simp] theorem modPort_abiding (p : Nat) (f : Port → Port) (s : State) : (modPort p f s).abiding = s.abiding := (rfl)
@[simp] theorem cairnNow_abiding (code : Nat) (payload : List Byte) (s : State) :
    (cairnNow code payload s).abiding = s.abiding := by simp [cairnNow]

@[simp] theorem sendNext_abiding (p : Nat) (s : State) : (sendNext p s).abiding = s.abiding := by
  unfold sendNext
  dsimp only
  repeat' split
  all_goals simp

@[simp] theorem txFrame_abiding (p : Nat) (flooded : Bool) (t : TxFrame) (s : State) :
    (txFrame p flooded t s).abiding = s.abiding := by simp [txFrame]
@[simp] theorem dropQueue_abiding (p : Nat) (s : State) : (dropQueue p s).abiding = s.abiding := (rfl)
@[simp] theorem floodOn_abiding (except : Option Nat) (type origin dest hop oseq : Nat) (body : List Byte)
    (s : State) : (floodOn except type origin dest hop oseq body s).abiding = s.abiding := by simp [floodOn]
@[simp] theorem recordOrigin_abiding (origin oseq : Nat) (s : State) :
    (recordOrigin origin oseq s).abiding = s.abiding := (rfl)
@[simp] theorem originate_abiding (type dest : Nat) (body : List Byte) (s : State) :
    (originate type dest body s).abiding = s.abiding := by simp [originate]
@[simp] theorem startQualify_abiding (s : State) : (startQualify s).abiding = s.abiding := (rfl)
@[simp] theorem enterHoldover_abiding (free : Bool) (word : Int) (s : State) :
    (enterHoldover free word s).abiding = s.abiding := (rfl)
@[simp] theorem refStops_abiding (src : Nat) (word : Int) (s : State) :
    (refStops src word s).abiding = s.abiding := by simp [refStops]
@[simp] theorem portOutage_abiding (p : Nat) (s : State) : (portOutage p s).abiding = s.abiding := (rfl)
@[simp] theorem leaveUp_abiding (p : Nat) (dst : PortState) (s : State) :
    (leaveUp p dst s).abiding = s.abiding := by simp [leaveUp]
@[simp] theorem safePort_abiding (p : Nat) (s : State) : (safePort p s).abiding = s.abiding := by simp [safePort]
@[simp] theorem disablePort_abiding (p : Nat) (s : State) :
    (disablePort p s).abiding = s.abiding := by simp [disablePort]

@[simp] theorem scratchWrite_abiding (o : Nat) (bs : List Byte) (s : State) :
    (scratchWrite o bs s).abiding = s.abiding := (rfl)
@[simp] theorem cwRelease_abiding (m : Nat) (s : State) : (cwRelease m s).abiding = s.abiding := by simp [cwRelease]
@[simp] theorem sendTunnelResp_abiding (t : TunnelFrom) (status : Nat) (body : List Byte) (s : State) :
    (sendTunnelResp t status body s).abiding = s.abiding := by simp [sendTunnelResp]

@[simp] theorem mbComplete_abiding (m : Nat) (r : Reply) (s : State) : (mbComplete m r s).abiding = s.abiding := by
  unfold mbComplete
  dsimp only
  split <;> simp

@[simp] theorem cancelLong_abiding (m : Nat) (s : State) : (cancelLong m s).abiding = s.abiding := (rfl)
@[simp] theorem abortAll_abiding (st : MbState) (detail : Nat) (s : State) :
    (abortAll st detail s).abiding = s.abiding := by simp [abortAll]
@[simp] theorem pauseDuties_abiding (s : State) : (pauseDuties s).abiding = s.abiding := (rfl)
@[simp] theorem restartSummit_abiding (watchdog : Bool) (s : State) :
    (restartSummit watchdog s).abiding = s.abiding := by simp [restartSummit]

@[simp] theorem disarmNow_abiding (j : Nat) (s : State) : (disarmNow j s).abiding = s.abiding := by
  unfold disarmNow
  split <;> simp

@[simp] theorem disarmAll_abiding (s : State) : (disarmAll s).abiding = s.abiding := by simp [disarmAll]
@[simp] theorem armNow_abiding (j first : Nat) (late : Bool) (s : State) :
    (armNow j first late s).abiding = s.abiding := by simp [armNow]
@[simp] theorem armAll_abiding (m first : Nat) (late missed : Bool) (s : State) :
    (armAll m first late missed s).abiding = s.abiding := by simp [armAll]
@[simp] theorem armPending_abiding (j first : Nat) (s : State) :
    (armPending j first s).abiding = s.abiding := by simp [armPending]
@[simp] theorem pendNow_abiding (j : Nat) (w : ArmWait) (s : State) :
    (pendNow j w s).abiding = s.abiding := by simp [pendNow]

@[simp] theorem groupDone_abiding (group : Nat) (except : Option Nat) (sample : Nat) (byFrame : Bool) (s : State) :
    (groupDone group except sample byFrame s).abiding = s.abiding := by
  unfold groupDone
  refine (abiding_ite _ _).trans (ite_eq_left_iff.mpr fun _ => abiding_foldl (fun x j => ?_) _ s)
  split <;> simp

@[simp] theorem judgeEdge_abiding (p tc : Nat) (s : State) :
    (judgeEdge p tc s).abiding = s.abiding := by simp [judgeEdge]
@[simp] theorem judgeClocks_abiding (p t : Nat) (s : State) :
    (judgeClocks p t s).abiding = s.abiding := by simp [judgeClocks]

@[simp] theorem detectIn_abiding (n k place : Nat) (s : State) :
    (detectIn n k place s).abiding = s.abiding := by simp [detectIn]

@[simp] theorem endHold_abiding (n : Nat) (s : State) : (endHold n s).abiding = s.abiding := by
  unfold endHold
  split <;> simp

@[simp] theorem requalify_abiding (s : State) : (requalify s).abiding = s.abiding := by
  unfold requalify
  split <;> simp

@[simp] theorem fireCairn_abiding (j frm b cls group out place : Nat) (s : State) :
    (fireCairn j frm b cls group out place s).abiding = s.abiding := by simp [fireCairn]
@[simp] theorem firePulses_abiding (mask k : Nat) (s : State) :
    (firePulses mask k s).abiding = s.abiding := by simp [firePulses]
@[simp] theorem fireFrame_abiding (j cls group place : Nat) (s : State) :
    (fireFrame j cls group place s).abiding = s.abiding := by simp [fireFrame]
@[simp] theorem emitFire_abiding (j frm b : Nat) (w : Branch) (group place : Nat) (s : State) :
    (emitFire j frm b w group place s).abiding = s.abiding := by simp [emitFire]
@[simp] theorem seqDone_abiding (j : Nat) (s : State) : (seqDone j s).abiding = s.abiding := by simp [seqDone]
@[simp] theorem takeBranch_abiding (j b : Nat) (w : Branch) (vals : List (Option Nat)) (p : Program) (inst : Nat)
    (s : State) : (takeBranch j b w vals p inst s).abiding = s.abiding := by simp [takeBranch]
@[simp] theorem blockStep_abiding (j : Nat) (s : State) : (blockStep j s).abiding = s.abiding := by simp [blockStep]

@[simp] theorem stepAt_abiding (j inst : Nat) (by_ : StepBy) (p : Program) (s : State) :
    (stepAt j inst by_ p s).abiding = s.abiding := by
  unfold stepAt
  dsimp only
  repeat' split
  all_goals simp

@[simp] theorem stepSeq_abiding (j : Nat) (s : State) : (stepSeq j s).abiding = s.abiding := by
  unfold stepSeq
  split <;> simp

@[simp] theorem stepAll_abiding (s : State) : (stepAll s).abiding = s.abiding := by simp [stepAll]
@[simp] theorem showSeqs_abiding (s : State) : (showSeqs s).abiding = s.abiding := by simp [showSeqs]
@[simp] theorem leaveSample_abiding (s : State) : (leaveSample s).abiding = s.abiding := by simp [leaveSample]
@[simp] theorem countGroups_abiding (k : Nat) (s : State) :
    (countGroups k s).abiding = s.abiding := by simp [countGroups]
@[simp] theorem evalPatterns_abiding (k : Nat) (s : State) :
    (evalPatterns k s).abiding = s.abiding := by simp [evalPatterns]

@[simp] theorem evalSuspect_abiding (k : Nat) (s : State) : (evalSuspect k s).abiding = s.abiding := by
  unfold evalSuspect
  split <;> simp

@[simp] theorem takeDone_abiding (k j : Nat) (s : State) : (takeDone k j s).abiding = s.abiding := by
  unfold takeDone
  split <;> simp

@[simp] theorem takeOrder_abiding (s : State) (o : SeqOrder) : (takeOrder s o).abiding = s.abiding := by
  unfold takeOrder
  repeat' split
  all_goals simp

@[simp] theorem takeTarget_abiding (k j : Nat) (s : State) : (takeTarget k j s).abiding = s.abiding := by
  unfold takeTarget
  split <;> simp

@[simp] theorem takeOrders_abiding (k : Nat) (s : State) :
    (takeOrders k s).abiding = s.abiding := by simp [takeOrders]
@[simp] theorem showLive_abiding (s : State) : (showLive s).abiding = s.abiding := by simp [showLive]
@[simp] theorem enterSample_abiding (k : Nat) (s : State) :
    (enterSample k s).abiding = s.abiding := by simp [enterSample]

@[simp] theorem advanceBy_abiding : ∀ (n : Nat) (s : State), (advanceBy n s).abiding = s.abiding
  | 0, _ => rfl
  | n + 1, s => by simp [advanceBy, advanceBy_abiding n]

@[simp] theorem evalBelow_abiding (n : Nat) (s : State) : (evalBelow n s).abiding = s.abiding := by simp [evalBelow]
@[simp] theorem stopFabric_abiding (n : Nat) (s : State) :
    (stopFabric n s).abiding = s.abiding := by simp [stopFabric]

@[simp] theorem setPod_abiding (p : Nat) (st : PodState) (s : State) :
    (setPod p st s).abiding = s.abiding := by simp [setPod]
@[simp] theorem supplyCut_abiding (p : Nat) (s : State) : (supplyCut p s).abiding = s.abiding := (rfl)
@[simp] theorem absentNow_abiding (p : Nat) (s : State) : (absentNow p s).abiding = s.abiding := by simp [absentNow]
@[simp] theorem finishOn_abiding (m : Nat) (s : State) : (finishOn m s).abiding = s.abiding := by simp [finishOn]
@[simp] theorem settleOn_abiding (p : Nat) (s : State) : (settleOn p s).abiding = s.abiding := by simp [settleOn]

@[simp] theorem safePod_abiding (p : Nat) (s : State) : (safePod p s).abiding = s.abiding := by
  unfold safePod
  dsimp only
  split <;> simp

@[simp] theorem updateFaultN_abiding (s : State) : (updateFaultN s).abiding = s.abiding := (rfl)
@[simp] theorem pushHist_abiding (f : Nat) (sev : Severity) (info : Word) (inj : Bool) (s : State) :
    (pushHist f sev info inj s).abiding = s.abiding := by simp [pushHist]
@[simp] theorem stopUnit_abiding (f : Nat) (info : Word) (unit : Nat) (s : State) :
    (stopUnit f info unit s).abiding = s.abiding := by simp [stopUnit]
@[simp] theorem contain_abiding (f : Nat) (info : Word) (unit : Nat) (s : State) :
    (contain f info unit s).abiding = s.abiding := by simp [contain]
@[simp] theorem freezeCapture_abiding (s : State) : (freezeCapture s).abiding = s.abiding := (rfl)
@[simp] theorem enterSafe_abiding (f : Nat) (s : State) : (enterSafe f s).abiding = s.abiding := by simp [enterSafe]

/-! ### The latching itself (R564) -/

@[simp] theorem reloadCollector_abiding (s : State) : (reloadCollector s).abiding =
    { s.abiding with sev := sevReset s.dev.variant, faultnSev := 3, extEn := true } := (rfl)

/-- What stays in place while faults latch: all that abides but the settings of the collector, and every status bit set. -/
structure Later (s t : State) : Prop where
  tm     : t.tm = s.tm
  slots  : t.summit.slots = s.summit.slots
  failed : t.mem.failed = s.mem.failed
  bytes  : t.ring.mem = s.ring.mem
  on     : t.flt.on = s.flt.on
  status : ∀ i, s.flt.status.getLsbD i = true → t.flt.status.getLsbD i = true

theorem Later.refl (s : State) : Later s s := ⟨rfl, rfl, rfl, rfl, rfl, fun _ h => h⟩

theorem Later.trans {s t u : State} (h : Later s t) (k : Later t u) : Later s u :=
  ⟨k.tm.trans h.tm, k.slots.trans h.slots, k.failed.trans h.failed, k.bytes.trans h.bytes, k.on.trans h.on,
    fun i hi => k.status i (h.status i hi)⟩

theorem later_of_abiding {s t : State} (h : t.abiding = s.abiding) : Later s t :=
  ⟨congrArg (·.tm) h, congrArg (·.slots) h, congrArg (·.failed) h, congrArg (·.bytes) h, congrArg (·.on) h,
    fun i hi => (congrArg (·.status.getLsbD i) h).trans hi⟩

theorem later_foldl {α : Type} {f : State → α → State} {l : List α} (hf : ∀ x, ∀ a ∈ l, Later x (f x a)) (s : State) :
    Later s (l.foldl f s) :=
  List.foldlRecOn (motive := fun x => Later s x) l f (Later.refl s) fun x h a ha => h.trans (hf x a ha)

/-- The state of a latch before anything reacts to it. -/
def marked (f : Nat) (sev : Severity) (s : State) : State :=
  { s with flt := { s.flt with
      status := s.flt.status ||| BitVec.ofNat 64 (2 ^ f), latched := tabMod s.flt.latched f fun _ => sev,
      latchCnt := s.flt.latchCnt + 1 } }

/-- The reaction to a latch: what it records, raises and stops. -/
def react (f : Nat) (info : Word) (unit : Nat) (inj : Bool) (sev : Severity) (s : State) : State :=
  let s := logFault f sev.code info inj (pushHist f sev info inj s)
  let s := if f = 0 then reloadCollector s else s
  let s := if sev = .record then s else raise 1 4 s
  let s :=
    if s.dev.safe then s
    else match sev with
      | .safe => enterSafe f s
      | .contain => if hasUnit f info unit then contain f info unit s else s
      | _ => s
  updateFaultN s

theorem latch_eq (f : Nat) (info : Word) (unit : Nat) (inj : Bool) (sev : Severity) (s : State) :
    latch f info unit inj sev s = react f info unit inj sev (marked f sev s) := rfl

theorem react_abiding {f : Nat} (hf : f ≠ 0) (info : Word) (unit : Nat) (inj : Bool) (sev : Severity) (s : State) :
    (react f info unit inj sev s).abiding = s.abiding := by
  unfold react
  cases sev <;> simp [hf]

theorem react_abiding_zero (info : Word) (unit : Nat) (inj : Bool) (sev : Severity) (s : State) :
    ∃ v, (react 0 info unit inj sev s).abiding = { s.abiding with sev := v, faultnSev := 3, extEn := true } := by
  unfold react
  cases sev <;> simp

theorem react_later (f : Nat) (info : Word) (unit : Nat) (inj : Bool) (sev : Severity) (s : State) :
    Later s (react f info unit inj sev s) := by
  by_cases hf : f = 0
  · subst hf
    obtain ⟨v, h⟩ := react_abiding_zero info unit inj sev s
    exact ⟨congrArg (·.tm) h, congrArg (·.slots) h, congrArg (·.failed) h, congrArg (·.bytes) h, congrArg (·.on) h,
      fun i hi => (congrArg (·.status.getLsbD i) h).trans hi⟩
  · exact later_of_abiding (react_abiding hf info unit inj sev s)

theorem marked_later (f : Nat) (sev : Severity) (s : State) : Later s (marked f sev s) :=
  ⟨rfl, rfl, rfl, rfl, rfl, fun i h => by simp [marked, h]⟩

theorem latch_later (f : Nat) (info : Word) (unit : Nat) (inj : Bool) (sev : Severity) (s : State) :
    Later s (latch f info unit inj sev s) :=
  (marked_later f sev s).trans (react_later ..)

theorem latch_status {f : Nat} (hf : f < 64) (info : Word) (unit : Nat) (inj : Bool) (sev : Severity) (s : State) :
    (latch f info unit inj sev s).flt.status.getLsbD f = true :=
  (react_later f info unit inj sev _).status f (by
    simp only [BitVec.getLsbD_or, BitVec.getLsbD_ofNat, Nat.testBit_two_pow_self, hf, decide_true, Bool.and_true,
      Bool.or_true])

theorem signalWith_later (f : Nat) (info : Word) (unit : Nat) (inj : Bool) (sev : Severity) (s : State) :
    Later s (signalWith f info unit inj sev s) := by
  unfold signalWith
  split
  · exact latch_later ..
  · exact Later.refl s

theorem signal_later (f : Nat) (info : Word) (s : State) : Later s (signal f info s) := signalWith_later ..

/-- A signalled fault of a source that exists has its status bit set after it. -/
theorem signalWith_status {f : Nat} (hf : f < 64) (info : Word) (unit : Nat) (inj : Bool) (sev : Severity) {s : State}
    (hon : s.flt.on = true) (hs : hasSource s.dev.variant f = true) :
    (signalWith f info unit inj sev s).flt.status.getLsbD f = true := by
  unfold signalWith
  split
  · exact latch_status hf ..
  · next h =>
    by_contra hn
    exact h ⟨hon, hs, by simpa using hn⟩

end Sys2Proof.Machine


/-! ## Restarts of the controller, and the boot ROM trying the slots (O24) -/

namespace Sys2Proof.Machine

/-! ### What the end of the commands leaves in place (R524) -/

/-- A state without its output and without the Ridgeline unit. -/
def State.unlinked (s : State) : State := { s with out := [], rl := State.reset.rl }

theorem unlinked_of_unsent {s t : State} (h : t.unsent = s.unsent) : t.unlinked = s.unlinked :=
  show t.unsent.unlinked = s.unsent.unlinked from congrArg _ h

/-- What a state without the Ridgeline unit still shows. -/
theorem congr_unlinked {α : Type} {s t : State} (f : State → α) (hf : ∀ x : State, f x.unlinked = f x)
    (h : t.unlinked = s.unlinked) : f t = f s := by
  rw [← hf t, h, hf]

theorem originate_unlinked (type dest : Nat) (body : List Byte) (s : State) :
    (originate type dest body s).unlinked = s.unlinked :=
  foldl_unchanged State.unlinked (fun _ _ _ => unlinked_of_unsent (unsent_ite rfl (txFrame_unsent ..)))
    (recordOrigin s.rl.addr s.rl.oseq { s with rl := { s.rl with oseq := (s.rl.oseq + 1) % 2 ^ 32 } })

theorem sendTunnelResp_unlinked (t : TunnelFrom) (status : Nat) (body : List Byte) (s : State) :
    (sendTunnelResp t status body s).unlinked = s.unlinked :=
  foldl_unchanged State.unlinked (fun _ _ _ => originate_unlinked ..) s

/-- What the end of a command writes nothing of. -/
def State.lasted (s : State) : Dev × Ring × Talus × Tm × SummitState × Nat × Bool × List Nat :=
  (s.dev, s.ring, s.tal, s.tm, s.summit.state, s.summit.restarts, s.summit.lastCause, s.summit.recent)

/-- What the end of mailbox `m`'s command leaves. -/
structure Ends (m : Nat) (s t : State) : Prop where
  lasted : t.lasted = s.lasted
  kept   : ∀ g b, s.rawBit g b = true → t.rawBit g b = true
  others : ∀ k < 8, k ≠ m → mbOf t k = mbOf s k

theorem mbComplete_ends (m : Nat) (r : Reply) (s : State) : Ends m s (mbComplete m r s) := by
  obtain ⟨c, hr, -⟩ := cwRelease_frame m s
  unfold mbComplete
  dsimp only
  rw [hr]
  split
  · refine ⟨by simp [State.lasted, scratchWrite, healWords, modMb], fun g b h => (raises_raise 0 m _).kept g b h, fun k hk hne => ?_⟩
    simp only [mbOf, raise_mb]
    exact (mbOf_modMb m _ _ hk).trans (if_neg (Ne.symm hne))
  · next t _ =>
    have h := sendTunnelResp_unlinked t r.status r.body (modMb m (fun q => { q with
      state := .idle, status := r.status, detail := r.detail, time := mbMicros (mbOf s m) s, keyClass := 0, key := 0,
      tunnel := none }) { s with cw := c })
    refine ⟨(congr_unlinked State.lasted (fun _ => rfl) h).trans rfl, fun g b hb => ?_, fun k hk hne => ?_⟩
    · exact (rawBit_congr (congr_unlinked State.evt (fun _ => rfl) h) g b).trans hb
    · exact (congr_unlinked (mbOf · k) (fun _ => rfl) h).trans ((mbOf_modMb m _ _ hk).trans (if_neg (Ne.symm hne)))

theorem mbComplete_ended {m : Nat} (hm : m < 8) (r : Reply) {s : State} (ht : (mbOf s m).tunnel = none) :
    (mbOf (mbComplete m r s) m).state = .done ∧ (mbOf (mbComplete m r s) m).status = r.status ∧
      (mbOf (mbComplete m r s) m).detail = r.detail :=
  have h := mbComplete_completes hm r ht
  ⟨h.done.1, h.done.2, h.detail⟩

/-- `abortAll` on one mailbox. -/
def abortOne (st : MbState) (detail m : Nat) (s : State) : State :=
  if (mbOf s m).state = st then mbComplete m { status := stInternal, detail := detail, body := [] } (cancelLong m s) else s

theorem abortAll_eq (st : MbState) (detail : Nat) (s : State) :
    abortAll st detail s = (List.range 8).foldl (fun x m => abortOne st detail m x) s := rfl

theorem abortOne_ends (st : MbState) (detail m : Nat) (s : State) : Ends m s (abortOne st detail m s) := by
  unfold abortOne
  split
  · obtain ⟨hl, hk, ho⟩ := mbComplete_ends m { status := stInternal, detail := detail, body := [] } (cancelLong m s)
    exact ⟨hl, hk, ho⟩
  · exact ⟨rfl, fun _ _ h => h, fun _ _ _ => rfl⟩

theorem abortAll_lasted (st : MbState) (detail : Nat) (s : State) : (abortAll st detail s).lasted = s.lasted :=
  foldl_unchanged State.lasted (fun x m _ => (abortOne_ends st detail m x).lasted) s

theorem abortAll_kept (st : MbState) (detail : Nat) (s : State) {g b : Nat} (h : s.rawBit g b = true) :
    (abortAll st detail s).rawBit g b = true :=
  List.foldlRecOn (motive := fun x => x.rawBit g b = true) _ _ h fun x hx m _ => (abortOne_ends st detail m x).kept g b hx

theorem abortOne_spares {st : MbState} (detail m : Nat) {s : State} {k : Nat} (hk : k < 8) (h : (mbOf s k).state ≠ st) :
    mbOf (abortOne st detail m s) k = mbOf s k := by
  by_cases hm : k = m
  · subst hm
    exact congrArg (mbOf · k) (if_neg h)
  · exact (abortOne_ends st detail m s).others k hk hm

/-- Mailboxes that are not in the state aborted stay as they are. -/
theorem foldl_abortOne_spares {st : MbState} (detail : Nat) (l : List Nat) {s : State} {k : Nat} (hk : k < 8)
    (h : (mbOf s k).state ≠ st) : mbOf (l.foldl (fun x m => abortOne st detail m x) s) k = mbOf s k :=
  List.foldlRecOn (motive := fun x => mbOf x k = mbOf s k) _ _ rfl fun _ hx m _ =>
    (abortOne_spares detail m hk (hx ▸ h)).trans hx

/-- Mailbox `k` is DONE with an INTERNAL error. -/
def Aborted (detail k : Nat) (s : State) : Prop :=
  (mbOf s k).state = .done ∧ (mbOf s k).status = stInternal ∧ (mbOf s k).detail = detail

theorem abortOne_aborted {st : MbState} (detail : Nat) {s : State} {k : Nat} (hk : k < 8) (h : (mbOf s k).state = st)
    (ht : (mbOf s k).tunnel = none) : Aborted detail k (abortOne st detail k s) := by
  rw [abortOne, if_pos h]
  exact mbComplete_ended hk _ (s := cancelLong k s) ht

theorem foldl_abortOne_aborted {st : MbState} (hst : st ≠ .done) (detail : Nat) {k : Nat} (hk : k < 8) (l : List Nat)
    (hl : k ∈ l) {s : State} (h : (mbOf s k).state = st) (ht : (mbOf s k).tunnel = none) :
    Aborted detail k (l.foldl (fun x m => abortOne st detail m x) s) := by
  induction l generalizing s with
  | nil => cases hl
  | cons m l ih =>
    rw [List.foldl_cons]
    by_cases hm : k = m
    · subst hm
      have ha := abortOne_aborted detail hk h ht
      have he := foldl_abortOne_spares detail l hk (ha.1 ▸ hst.symm)
      rwa [Aborted, he]
    · have ho := (abortOne_ends st detail m s).others k hk hm
      exact ih (List.mem_of_ne_of_mem hm hl) (ho ▸ h) (ho ▸ ht)

/-! ### The restart (R524) -/

theorem hasEvent_controller (v : Variant) : hasEvent v 0 11 = true ∧ hasEvent v 11 5 = true ∧ hasEvent v 11 6 = true := by
  cases v <;> decide


/-- The controller as a restart of the cause given finds it. -/
def restarted (watchdog : Bool) (s : State) : State :=
  { s with summit := { s.summit with
      state := .restarting, restarts := min 255 (s.summit.restarts + 1), lastCause := watchdog,
      recent := recentRestarts s ++ [s.tm.ax5] } }

/-- A restart with the commands ended and the duties paused. -/
def restartOnce (watchdog : Bool) (s : State) : State :=
  pauseDuties (abortAll .running 2 (raise 0 11 (restarted watchdog s)))

/-- A third restart within 10 s. -/
def halt (s : State) : State := abortAll .queued 3 (raise 0 13 { s with summit := { s.summit with state := .halted } })

theorem restartSummit_eq (watchdog : Bool) (s : State) : restartSummit watchdog s =
    if 2 ≤ (recentRestarts s).length then halt (restartOnce watchdog s) else restartOnce watchdog s := by
  have h : (3 ≤ (recentRestarts s ++ [s.tm.ax5]).length) = (2 ≤ (recentRestarts s).length) := by
    rw [List.length_append, List.length_singleton, Nat.succ_le_succ_iff]
  unfold restartSummit halt restartOnce restarted
  dsimp only
  simp only [h]

theorem lasted_raise (g b : Nat) (s : State) : (raise g b s).lasted = s.lasted := by simp [State.lasted]

theorem pauseDuties_lasted (s : State) : (pauseDuties s).lasted = s.lasted := rfl

theorem restartOnce_lasted (watchdog : Bool) (s : State) :
    (restartOnce watchdog s).lasted = (restarted watchdog s).lasted := by
  rw [restartOnce, pauseDuties_lasted, abortAll_lasted, lasted_raise]

theorem halt_lasted (s : State) : (halt s).lasted = { s with summit := { s.summit with state := .halted } }.lasted := by
  rw [halt, abortAll_lasted, lasted_raise]

theorem pauseDuties_rawBit (s : State) (g b : Nat) : (pauseDuties s).rawBit g b = s.rawBit g b := rfl

theorem restartOnce_event (watchdog : Bool) (s : State) : (restartOnce watchdog s).rawBit 0 11 = true := by
  have h : (raise 0 11 (restarted watchdog s)).rawBit 0 11 = true := by
    rw [rawBit_raise, (hasEvent_controller _).1, Bool.true_or]
  rw [restartOnce, pauseDuties_rawBit]
  exact abortAll_kept _ _ _ h

theorem halt_event {s : State} {g b : Nat} (h : s.rawBit g b = true) : (halt s).rawBit g b = true := by
  have hr := (raises_raise 0 13 { s with summit := { s.summit with state := .halted } }).kept g b h
  exact abortAll_kept _ _ _ hr

theorem mbOf_raise (g b : Nat) (s : State) (m : Nat) : mbOf (raise g b s) m = mbOf s m := by simp [mbOf]

theorem mbOf_pauseDuties (s : State) (m : Nat) : mbOf (pauseDuties s) m = mbOf s m := rfl

theorem abortAll_aborted {st : MbState} (hst : st ≠ .done) (detail : Nat) {k : Nat} (hk : k < 8) {s : State}
    (h : (mbOf s k).state = st) (ht : (mbOf s k).tunnel = none) : Aborted detail k (abortAll st detail s) := by
  rw [abortAll_eq]
  exact foldl_abortOne_aborted hst detail hk _ (List.mem_range.mpr hk) h ht

theorem abortAll_spares {st : MbState} (detail : Nat) {s : State} {k : Nat} (hk : k < 8) (h : (mbOf s k).state ≠ st) :
    mbOf (abortAll st detail s) k = mbOf s k := by
  rw [abortAll_eq, foldl_abortOne_spares detail _ hk h]

theorem restartOnce_aborted (watchdog : Bool) {s : State} {m : Nat} (hm : m < 8) (h : (mbOf s m).state = .running)
    (ht : (mbOf s m).tunnel = none) : Aborted 2 m (restartOnce watchdog s) := by
  have he : mbOf (raise 0 11 (restarted watchdog s)) m = mbOf s m := mbOf_raise ..
  rw [restartOnce, Aborted, mbOf_pauseDuties]
  exact abortAll_aborted (by decide) 2 hm (he ▸ h) (he ▸ ht)

theorem halt_aborted {s : State} {m : Nat} (hm : m < 8) (h : Aborted 2 m s) : Aborted 2 m (halt s) := by
  have he : mbOf (raise 0 13 { s with summit := { s.summit with state := .halted } }) m = mbOf s m := mbOf_raise ..
  have hne : (mbOf s m).state ≠ .queued := by rw [h.1]; decide
  rw [halt, Aborted, abortAll_spares 3 hm (he ▸ hne), he]
  exact h

/-- A restart of the controller: its outcome, what it records, the commands it ends, and what it leaves alone. -/
theorem restartSummit_restarts (watchdog : Bool) (u : State) {t : State} (ht : restartSummit watchdog u = t) :
    t.summit.state = (if 2 ≤ (recentRestarts u).length then .halted else .restarting) ∧
      t.summit.restarts = min 255 (u.summit.restarts + 1) ∧ t.summit.lastCause = watchdog ∧
      t.summit.recent = recentRestarts u ++ [u.tm.ax5] ∧ t.rawBit 0 11 = true ∧
      (∀ m < 8, (mbOf u m).state = .running → (mbOf u m).tunnel = none → (mbOf t m).state = .done ∧
        (mbOf t m).status = stInternal ∧ (mbOf t m).detail = 2) ∧
      t.ring = u.ring ∧ t.tal = u.tal ∧ t.tm = u.tm ∧ t.dev = u.dev := by
  subst ht
  rw [restartSummit_eq]
  have hl := restartOnce_lasted watchdog u
  have hr := restartOnce_event watchdog u
  split
  · have hh := (halt_lasted (restartOnce watchdog u))
    simp only [State.lasted, Prod.mk.injEq] at hl hh
    obtain ⟨hdev, hring, htal, htm, -, hre, hca, hrec⟩ := hl
    obtain ⟨hdev', hring', htal', htm', hst', hre', hca', hrec'⟩ := hh
    exact ⟨hst', hre'.trans hre, hca'.trans hca, hrec'.trans hrec, halt_event hr,
      fun m hm h ht => halt_aborted hm (restartOnce_aborted watchdog hm h ht), hring'.trans hring, htal'.trans htal,
      htm'.trans htm, hdev'.trans hdev⟩
  · simp only [State.lasted, Prod.mk.injEq] at hl
    obtain ⟨hdev, hring, htal, htm, hst, hre, hca, hrec⟩ := hl
    exact ⟨hst, hre, hca, hrec, hr, fun m hm h ht => restartOnce_aborted watchdog hm h ht, hring, htal, htm, hdev⟩

end Sys2Proof.Machine


namespace Sys2Proof.Machine

/-! ### The start of the collector with the firmware (R575, R582) -/

/-- A step of `latchLive` for a source. -/
def latchOne (f : Nat) (s : State) : State :=
  if f = 10 then latchFailed s else if s.flt.live.getLsbD f then signal f (liveInfo f s) s else s

theorem latchLive_eq (s : State) : latchLive s =
    ((List.range' 11 28).foldl (fun x f => latchOne f x)
      (latchFailed ((List.range 10).foldl (fun x f => latchOne f x) s))) := by
  have h : List.range 39 = List.range 10 ++ 10 :: List.range' 11 28 := by decide
  change (List.range 39).foldl (fun x f => latchOne f x) s = _
  rw [h, List.foldl_append]
  rfl

theorem latchOne_later {f : Nat} (hf : f ≠ 10) (s : State) : Later s (latchOne f s) := by
  rw [latchOne, if_neg hf]
  split
  · exact signal_later ..
  · exact Later.refl s

/-- What a failure of a start-up test leaves behind once F10 has latched. -/
structure FailureShown (s t : State) : Prop where
  bytes  : t.ring.mem = s.ring.mem
  on     : t.flt.on = true
  status : t.flt.status.getLsbD 10 = true
  failed : t.mem.failed = []

theorem latchFailed_shown {s : State} {i : Word} {l : List Word} (hon : s.flt.on = true) (hf : s.mem.failed = i :: l) :
    FailureShown s (latchFailed s) := by
  have h : latchFailed s = signalWith 10 i 8 false .safe { s with mem := { s.mem with failed := [] } } := by
    simp only [latchFailed, hf]
  have hl := signalWith_later 10 i 8 false .safe { s with mem := { s.mem with failed := [] } }
  have hs : hasSource s.dev.variant 10 = true := by cases s.dev.variant <;> rfl
  rw [h]
  exact ⟨hl.bytes, hl.on.trans hon, signalWith_status (by decide) i 8 false .safe hon hs, hl.failed⟩

theorem startCollector_shown {s : State} {i : Word} {l : List Word} (hf : s.mem.failed = i :: l) :
    FailureShown s (startCollector s) := by
  rw [startCollector, latchLive_eq]
  have h1 := later_foldl (f := fun x f => latchOne f x) (l := List.range 10)
    (fun x f hf => latchOne_later (by have := List.mem_range.mp hf; omega) x) { s with flt := { s.flt with on := true } }
  have h2 := latchFailed_shown h1.on (h1.failed.trans hf)
  have h3 := later_foldl (f := fun x f => latchOne f x) (l := List.range' 11 28)
    (fun x f hf => latchOne_later (by have := List.mem_range'_1.mp hf; omega) x)
    (latchFailed ((List.range 10).foldl (fun x f => latchOne f x) { s with flt := { s.flt with on := true } }))
  exact ⟨h3.bytes.trans (h2.bytes.trans h1.bytes), h3.on.trans h2.on, h3.status 10 h2.status, h3.failed.trans h2.failed⟩

theorem scanPods_abiding (s : State) : (scanPods s).abiding = s.abiding := by simp [scanPods]

theorem setPod_dev (p : Nat) (st : PodState) (s : State) : (setPod p st s).dev = s.dev := by
  unfold setPod
  split <;> rfl

theorem scanPods_dev (s : State) : (scanPods s).dev = s.dev :=
  foldl_unchanged State.dev (fun x p _ => by rw [apply_ite State.dev, setPod_dev, ite_self]) s

/-- The pods that waited for the firmware, resumed. -/
def wake (s : State) : State :=
  if s.dev.safe ∨ s.dev.bootrom then s else { s with pods := s.pods.map resumePod }

theorem wake_abiding (s : State) : (wake s).abiding = s.abiding := by
  unfold wake
  split <;> rfl

theorem wake_dev (s : State) : (wake s).dev = s.dev := by
  unfold wake
  split <;> rfl

/-- F7 is live where no loop has a reference. -/
def noteReference (s : State) : State :=
  if s.pll.s.state = .freeRun ∧ !refGood s.pll.ref s then
    { s with flt := { s.flt with live := s.flt.live ||| BitVec.ofNat 64 (2 ^ 7) } }
  else s

theorem noteReference_abiding (s : State) : (noteReference s).abiding = s.abiding := by
  unfold noteReference
  split <;> rfl

/-- The start of the collector, where it does not run. -/
def collect (s : State) : State :=
  if s.flt.on ∨ s.dev.bootrom then s else startCollector (noteReference s)

theorem startFirmware_collects {s : State} (hb : s.dev.bootrom = false) :
    startFirmware s = collect (wake (scanPods s)) := by
  unfold startFirmware collect noteReference
  rw [hb, if_neg Bool.false_ne_true]
  dsimp only
  rw [← wake]

theorem startFirmware_eq {s : State} (hb : s.dev.bootrom = false) (hon : s.flt.on = false) :
    startFirmware s = startCollector (noteReference (wake (scanPods s))) := by
  have hf : (wake (scanPods s)).flt.on = false :=
    (later_of_abiding ((wake_abiding _).trans (scanPods_abiding s))).on.trans hon
  have hd : (wake (scanPods s)).dev.bootrom = false := by rw [wake_dev, scanPods_dev, hb]
  rw [startFirmware_collects hb, collect, if_neg (by simp [hf, hd])]

/-- A start with the collector off shows a failure kept from the start-up tests. -/
theorem startFirmware_shown {s : State} {i : Word} {l : List Word} (hb : s.dev.bootrom = false) (hon : s.flt.on = false)
    (hf : s.mem.failed = i :: l) : FailureShown s (startFirmware s) := by
  have ha : Later s (noteReference (wake (scanPods s))) :=
    later_of_abiding (by rw [noteReference_abiding, wake_abiding, scanPods_abiding])
  obtain ⟨hbytes, hon', hstat, hfail⟩ := startCollector_shown (ha.failed.trans hf)
  rw [startFirmware_eq hb hon]
  exact ⟨hbytes.trans ha.bytes, hon', hstat, hfail⟩

/-- A start in the safe state with the collector running and no pod to find changes nothing. -/
theorem startFirmware_none {s : State} (hon : s.flt.on = true) (hs : s.dev.safe = true)
    (hp : ∀ p < 16, (podAt s p).present = true → (podAt s p).state ≠ .empty) : startFirmware s = s := by
  have hscan : scanPods s = s :=
    foldl_fixed fun p hm => if_neg fun h => hp p (List.mem_range.mp hm) h.1 h.2
  simp [startFirmware, hscan, hs, hon]

/-! ### The boot ROM trying the slots (R8) -/

section
variable {n : Nat} {i : SlotImage} {s : State}

theorem bootSlot_accepted (h : slotFail none i s = 0) : bootSlot n i s = setSlot n (slotOf_ i 0) s := by
  simp [bootSlot, h]

/-- A slot refused. -/
def refused (n : Nat) (i : SlotImage) (s : State) : State :=
  raise 11 6 (signal 33 0 (setSlot n (slotOf_ i (slotFail none i s)) s))

theorem bootSlot_refused (h : slotFail none i s ≠ 0) : bootSlot n i s = refused n i s := by
  simp [bootSlot, h, refused]

theorem refused_later : Later (setSlot n (slotOf_ i (slotFail none i s)) s) (refused n i s) :=
  (signal_later 33 0 _).trans (later_of_abiding (raise_abiding 11 6 _))

theorem refused_variant : (refused n i s).dev.variant = s.dev.variant := by
  rw [refused, raise_dev, (signal_keeps 33 0 _ (Keeps.refl _)).variant]
  rfl

theorem refused_floor : (refused n i s).summit.floor = s.summit.floor := by
  rw [refused, raise_summit, signal_floor]
  rfl

theorem refused_event : (refused n i s).rawBit 11 6 = true := by
  rw [refused, rawBit_raise, (hasEvent_controller _).2.2, Bool.true_or]

theorem slotFail_refused (size : Option Nat) (j : SlotImage) : slotFail size j (refused n i s) = slotFail size j s :=
  slotFail_congr size j refused_variant refused_floor

end

theorem fwBootVerify_first {s : State} {a b : SlotImage} (hs : s.summit.state = .boot ∨ s.summit.state = .restarting)
    (ha : slotFail none a s = 0) : exec (.fwBootVerify a b) s = .next (runSlot 0 (setSlot 0 (slotOf_ a 0) s)) := by
  change execFwBootVerify a b s = _
  rw [execFwBootVerify, if_pos hs, if_pos ha, bootSlot_accepted ha]

theorem fwBootVerify_second {s : State} {a b : SlotImage} (hs : s.summit.state = .boot ∨ s.summit.state = .restarting)
    (ha : slotFail none a s ≠ 0) (hb : slotFail none b s = 0) :
    exec (.fwBootVerify a b) s = .next (raise 11 5 (runSlot 1 (setSlot 1 (slotOf_ b 0) (refused 0 a s)))) := by
  have hb' : slotFail none b (refused 0 a s) = 0 := (slotFail_refused none b).trans hb
  change execFwBootVerify a b s = _
  rw [execFwBootVerify, if_pos hs, if_neg ha, bootSlot_refused ha]
  simp only [hb', if_true, bootSlot_accepted hb']

/-- The device with no firmware to run. -/
def romOnly (s : State) : State :=
  { s with
    dev := { s.dev with fwVersion := 0, fwSlot := 0, fwFallback := false, bootrom := true, ready := true, softPending := false },
    summit := { s.summit with verified := true, fwDigest := [] } }

theorem fwBootVerify_neither {s : State} {a b : SlotImage} (hs : s.summit.state = .boot ∨ s.summit.state = .restarting)
    (ha : slotFail none a s ≠ 0) (hb : slotFail none b s ≠ 0) :
    exec (.fwBootVerify a b) s = .next (romOnly (refused 1 b (refused 0 a s))) := by
  have hb' : slotFail none b (refused 0 a s) ≠ 0 := (slotFail_refused none b).trans_ne hb
  change execFwBootVerify a b s = _
  rw [execFwBootVerify, if_pos hs, if_neg ha, bootSlot_refused ha]
  simp only [hb', if_false, bootSlot_refused hb']
  rfl

/-- What runs slot B after slot A was refused. -/
theorem runs_second (s : State) (a : SlotImage) (x : Slot) {t : State}
    (ht : t = raise 11 5 (runSlot 1 (setSlot 1 x (refused 0 a s)))) :
    t.dev.fwVersion = BitVec.ofNat 32 x.version ∧ t.dev.fwSlot = 1 ∧ t.dev.fwFallback = true ∧ t.dev.bootrom = false ∧
      t.summit.verified = true ∧ tabGet t.summit.slots 0 Slot.reset = slotOf_ a (slotFail none a s) ∧
      tabGet t.summit.slots 1 Slot.reset = x ∧ t.rawBit 11 5 = true ∧ t.rawBit 11 6 = true ∧ t.tm = s.tm := by
  have hl := refused_later (n := 0) (i := a) (s := s)
  have h6 : (runSlot 1 (setSlot 1 x (refused 0 a s))).rawBit 11 6 = true := refused_event
  subst ht
  refine ⟨?_, ?_, ?_, ?_, ?_, ?_, ?_, ?_, (raises_raise 11 5 _).kept 11 6 h6, ?_⟩
  · simp [runSlot, setSlot]
  · simp [runSlot]
  · simp [runSlot]
  · simp [runSlot]
  · simp [runSlot]
  · simp [runSlot, setSlot, hl.slots, tabGet_tabMod]
  · simp [runSlot, setSlot]
  · rw [rawBit_raise, (hasEvent_controller _).2.1, Bool.true_or]
  · rw [raise_tm]
    exact hl.tm

/-! ### The statement -/

/-- Settles O24. -/
theorem controllerStart : Obligations.ControllerStart := by
  unfold Obligations.ControllerStart
  refine ⟨?_, ?_, ?_, ?_, ?_, ?_, ?_, ?_, ?_, ?_, ?_, ?_, ?_⟩
  · intro s hh hc
    exact ⟨_, _, rfl, if_neg (by simp [hh, hc]), restartSummit_restarts false (signal 2 0 s) rfl⟩
  · intro s hh hc hk
    exact ⟨_, _, rfl, if_neg (by simp [hh, hc]; omega), restartSummit_restarts true (signal 3 0 s) rfl⟩
  · intro s hk
    exact if_pos (.inr (.inr hk))
  · intro s hh
    exact ⟨if_pos (.inl hh), if_pos (.inl hh)⟩
  · intro s hv hs hb
    change execSummitReady s = _
    simp [execSummitReady, hv, hs, hb]
  · intro s i l hv hs hb hon hf
    obtain ⟨hbytes, hon', hstat, hfail⟩ := startFirmware_shown (s := { s with
      summit := { s.summit with state := .running, verified := false, lastKick := s.tm.tick } }) hb hon hf
    refine ⟨_, ?_, hon', hstat, hfail, hbytes⟩
    change execSummitReady s = _
    simp [execSummitReady, hv, hs, hb]
  · intro s hv hs hon hsafe hb hp
    refine ⟨_, ?_, raises_raise 0 12 _⟩
    have hn := startFirmware_none (s := { s with
      summit := { s.summit with state := .running, verified := false, lastKick := s.tm.tick } }) hon hsafe hp
    change execSummitReady s = _
    simp [execSummitReady, hv, hs, hb, hn]
  · intro s hv hs hb
    change execSummitReady s = _
    simp [execSummitReady, startFirmware, hv, hs, hb]
  · intro s hv
    exact if_neg (by simp [hv])
  · intro s a b hs ha
    rw [fwBootVerify_first hs ha]
    simp [runSlot, setSlot]
  · intro s a b hs ha hb
    exact ⟨_, fwBootVerify_second hs ha hb, runs_second s a (slotOf_ b 0) rfl⟩
  · intro s a b hs ha hb
    have h1 := refused_later (n := 0) (i := a) (s := s)
    have h2 := refused_later (n := 1) (i := b) (s := refused 0 a s)
    exact ⟨_, fwBootVerify_neither hs ha (hb s), rfl, rfl, rfl, rfl, refused_event, h2.tm.trans h1.tm⟩
  · intro s a b hb hr
    exact if_neg (by simp [hb, hr])

end Sys2Proof.Machine


/-! ## The level of TRIG_OUT does not depend on the status bits (O15)

The collector's status and the level of FAULT_N change; the fabric reads neither, so each of its operations gives the
same outcome before and after. -/

namespace Sys2Proof.Machine

section
variable (v : Word64 × Bool)

/-- The collector with other status bits and another level of FAULT_N. -/
def Flt.refit (f : Flt) : Flt := { f with status := v.1, faultN := v.2 }

def State.refit (s : State) : State := { s with flt := s.flt.refit v }

@[simp] theorem refit_dev (s : State) : (s.refit v).dev = s.dev := (rfl)
@[simp] theorem refit_cfg (s : State) : (s.refit v).cfg = s.cfg := (rfl)
@[simp] theorem refit_inputs (s : State) : (s.refit v).inputs = s.inputs := (rfl)
@[simp] theorem refit_grpMask (s : State) : (s.refit v).grpMask = s.grpMask := (rfl)
@[simp] theorem refit_bcastAgree (s : State) : (s.refit v).bcastAgree = s.bcastAgree := (rfl)
@[simp] theorem refit_pods (s : State) : (s.refit v).pods = s.pods := (rfl)
@[simp] theorem refit_podc (s : State) : (s.refit v).podc = s.podc := (rfl)
@[simp] theorem refit_fab (s : State) : (s.refit v).fab = s.fab := (rfl)
@[simp] theorem refit_seqs (s : State) : (s.refit v).seqs = s.seqs := (rfl)
@[simp] theorem refit_trigout (s : State) : (s.refit v).trigout = s.trigout := (rfl)
@[simp] theorem refit_ring (s : State) : (s.refit v).ring = s.ring := (rfl)
@[simp] theorem refit_ret (s : State) : (s.refit v).ret = s.ret := (rfl)
@[simp] theorem refit_cmp (s : State) : (s.refit v).cmp = s.cmp := (rfl)
@[simp] theorem refit_eq (s : State) : (s.refit v).eq = s.eq := (rfl)
@[simp] theorem refit_tal (s : State) : (s.refit v).tal = s.tal := (rfl)
@[simp] theorem refit_sealer (s : State) : (s.refit v).sealer = s.sealer := (rfl)
@[simp] theorem refit_tm (s : State) : (s.refit v).tm = s.tm := (rfl)
@[simp] theorem refit_sch (s : State) : (s.refit v).sch = s.sch := (rfl)
@[simp] theorem refit_rl (s : State) : (s.refit v).rl = s.rl := (rfl)
@[simp] theorem refit_pll (s : State) : (s.refit v).pll = s.pll := (rfl)
@[simp] theorem refit_pcie (s : State) : (s.refit v).pcie = s.pcie := (rfl)
@[simp] theorem refit_mb (s : State) : (s.refit v).mb = s.mb := (rfl)
@[simp] theorem refit_cw (s : State) : (s.refit v).cw = s.cw := (rfl)
@[simp] theorem refit_summit (s : State) : (s.refit v).summit = s.summit := (rfl)
@[simp] theorem refit_evt (s : State) : (s.refit v).evt = s.evt := (rfl)
@[simp] theorem refit_mem (s : State) : (s.refit v).mem = s.mem := (rfl)
@[simp] theorem refit_snap (s : State) : (s.refit v).snap = s.snap := (rfl)
@[simp] theorem refit_freeCtr (s : State) : (s.refit v).freeCtr = s.freeCtr := (rfl)
@[simp] theorem refit_out (s : State) : (s.refit v).out = s.out := (rfl)
@[simp] theorem refit_pending (s : State) : (s.refit v).pending = s.pending := (rfl)
@[simp] theorem refit_flt (s : State) : (s.refit v).flt = s.flt.refit v := (rfl)

@[simp] theorem refit_mk (dev : Dev) (cfg : Cfg) (inputs : Tab 272 Input) (grpMask : Tab 72 Word) (bcastAgree : Word)
    (pods : Tab 16 Pod) (podc : Podc) (fab : Fab) (seqs : Tab 4 Seq) (trigout : Tab 4 Trigout) (ring : Ring) (ret : Ret)
    (cmp : Cmp) (eq : Eq) (tal : Talus) (sealer : Sealer) (tm : Tm) (sch : Sch) (rl : Rl) (pll : Pll) (pcie : Pcie)
    (mb : Tab 8 Mailbox) (cw : Tab 8 Window) (summit : Summit) (evt : Events) (flt : Flt) (mem : MemInt) (snap : Snap)
    (freeCtr : Nat) (out : List Output) (pending : List Instr) :
    State.mk dev cfg inputs grpMask bcastAgree pods podc fab seqs trigout ring ret cmp eq tal sealer tm sch rl pll pcie mb
      cw summit evt (flt.refit v) mem snap freeCtr out pending =
    State.refit v ⟨dev, cfg, inputs, grpMask, bcastAgree, pods, podc, fab, seqs, trigout, ring, ret, cmp, eq, tal,
      sealer, tm, sch, rl, pll, pcie, mb, cw, summit, evt, flt, mem, snap, freeCtr, out, pending⟩ := (rfl)

@[simp] theorem refit_ite {c : Prop} [Decidable c] (x y : State) :
    (if c then x.refit v else y.refit v) = (if c then x else y).refit v := (apply_ite (State.refit v) c x y).symm

@[simp] theorem refit_foldl {α : Type} {f : State → α → State} (hf : ∀ x a, f (x.refit v) a = (f x a).refit v)
    (l : List α) (s : State) : l.foldl f (s.refit v) = (l.foldl f s).refit v := by
  induction l generalizing s with
  | nil => rfl
  | cons a l ih => rw [List.foldl_cons, hf, ih, List.foldl_cons]

/-! ### What reads the state -/

@[simp] theorem timerCfg_refit (s : State) (m : Nat) : timerCfg (s.refit v) m = timerCfg s m := (rfl)
@[simp] theorem timingTerm_refit (code : Nat) (s : State) : timingTerm code (s.refit v) = timingTerm code s := (rfl)
@[simp] theorem disarmBody_refit (m : Nat) (s : State) : disarmBody m (s.refit v) = disarmBody m s := (rfl)
@[simp] theorem txBytes_refit (lseq : Nat) (t : TxFrame) (s : State) :
    txBytes lseq t (s.refit v) = txBytes lseq t s := (rfl)
@[simp] theorem acquiring_refit (s : State) : acquiring (s.refit v) = acquiring s := (rfl)
@[simp] theorem timeBReached_refit (sec ns : Nat) (s : State) :
    timeBReached sec ns (s.refit v) = timeBReached sec ns s := (rfl)
@[simp] theorem mbMicros_refit (q : Mailbox) (s : State) : mbMicros q (s.refit v) = mbMicros q s := (rfl)
@[simp] theorem epochFirstRow_refit (s : State) : epochFirstRow (s.refit v) = epochFirstRow s := (rfl)
@[simp] theorem logCopied_refit (kind code : Nat) (s : State) :
    logCopied kind code (s.refit v) = logCopied kind code s := (rfl)
@[simp] theorem requests_refit (timer : Bool) (idx op : Nat) (s : State) :
    requests timer idx op (s.refit v) = requests timer idx op s := (rfl)
@[simp] theorem seqOf_refit (s : State) (j : Nat) : seqOf (s.refit v) j = seqOf s j := (rfl)
@[simp] theorem wordInStep_refit (i : Nat) (by_ : StepBy) (s : State) :
    wordInStep i by_ (s.refit v) = wordInStep i by_ s := (rfl)
@[simp] theorem groupTerm_refit (g : Nat) (s : State) : groupTerm g (s.refit v) = groupTerm g s := (rfl)
@[simp] theorem rowAtH_refit (s : State) : rowAtH (s.refit v) = rowAtH s := (rfl)
@[simp] theorem timeAOf_refit (s : State) (t : Nat) : timeAOf (s.refit v) t = timeAOf s t := (rfl)
@[simp] theorem actCh_refit (s : State) (n : Nat) : actCh (s.refit v) n = actCh s n := (rfl)
@[simp] theorem sfPlace_refit (k n : Nat) (s : State) : sfPlace k n (s.refit v) = sfPlace k n s := (rfl)
@[simp] theorem pulseActive_refit (x : Nat) (t : Trigout) (s : State) :
    pulseActive x t (s.refit v) = pulseActive x t s := (rfl)
@[simp] theorem nextStep_refit (j : Nat) (s : State) : nextStep j (s.refit v) = nextStep j s := (rfl)
@[simp] theorem mbRuns_refit (m opcode : Nat) (s : State) : mbRuns m opcode (s.refit v) = mbRuns m opcode s := (rfl)
@[simp] theorem suppressed_refit (s : State) (k : Nat) : suppressed (s.refit v) k = suppressed s k := (rfl)
@[simp] theorem fabLive_refit (s : State) : fabLive (s.refit v) = fabLive s := (rfl)
@[simp] theorem pckCfg_refit (s : State) (p : Nat) : pckCfg (s.refit v) p = pckCfg s p := (rfl)
@[simp] theorem armBusy_refit (j : Nat) (s : State) : armBusy j (s.refit v) = armBusy j s := (rfl)
@[simp] theorem mbOf_refit (s : State) (m : Nat) : mbOf (s.refit v) m = mbOf s m := (rfl)
@[simp] theorem rangeInStep_refit (r : Nat) (by_ : StepBy) (s : State) :
    rangeInStep r by_ (s.refit v) = rangeInStep r by_ s := (rfl)
@[simp] theorem counterCfg_refit (s : State) (n : Nat) : counterCfg (s.refit v) n = counterCfg s n := (rfl)
@[simp] theorem intakeSample_refit (s : State) : intakeSample (s.refit v) = intakeSample s := (rfl)
@[simp] theorem logUnread_refit (s : State) : logUnread (s.refit v) = logUnread s := (rfl)
@[simp] theorem clocked_refit (p : Nat) (s : State) : clocked p (s.refit v) = clocked p s := (rfl)
@[simp] theorem firePayload_refit (j frm b cls group out place : Nat) (s : State) :
    firePayload j frm b cls group out place (s.refit v) = firePayload j frm b cls group out place s := (rfl)
@[simp] theorem inputAt_refit (s : State) (n : Nat) : inputAt (s.refit v) n = inputAt s n := (rfl)
@[simp] theorem timeBOf_refit (s : State) (t : Nat) : timeBOf (s.refit v) t = timeBOf s t := (rfl)
@[simp] theorem inputAbsent_refit (n : Nat) (s : State) : inputAbsent n (s.refit v) = inputAbsent n s := (rfl)
@[simp] theorem loadedActive_refit (j : Nat) (s : State) : loadedActive j (s.refit v) = loadedActive j s := (rfl)
@[simp] theorem podAt_refit (s : State) (p : Nat) : podAt (s.refit v) p = podAt s p := (rfl)
@[simp] theorem dataEnabled_refit (p : Nat) (s : State) : dataEnabled p (s.refit v) = dataEnabled p s := (rfl)
@[simp] theorem holdDue_refit (n k : Nat) (s : State) : holdDue n k (s.refit v) = holdDue n k s := (rfl)
@[simp] theorem nowU_refit (s : State) : nowU (s.refit v) = nowU s := (rfl)
@[simp] theorem fabReach_refit (s : State) : fabReach (s.refit v) = fabReach s := (rfl)
@[simp] theorem portOf_refit (s : State) (p : Nat) : portOf (s.refit v) p = portOf s p := (rfl)

@[simp] theorem outerTerm_refit (code : Nat) (s : State) : outerTerm code (s.refit v) = outerTerm code s := by
  simp [outerTerm]

@[simp] theorem termIn_refit (by_ : StepBy) (code : Nat) (s : State) :
    termIn by_ code (s.refit v) = termIn by_ code s := by
  simp [termIn]

@[simp] theorem timerNext_refit (m : Nat) (s : State) : timerNext m (s.refit v) = timerNext m s := by
  simp [timerNext]

@[simp] theorem counterNext_refit (n : Nat) (s : State) : counterNext n (s.refit v) = counterNext n s := by
  simp [counterNext]

@[simp] theorem examine_refit (by_ : StepBy) (s : State) (l : List (Nat × Branch)) :
    examine by_ (s.refit v) l = examine by_ s l := by
  induction l with
  | nil => rfl
  | cons x l ih => simp [examine, ih]


/-! ### The operations of the fabric -/

@[simp] theorem emitOut_refit (o : Output) (s : State) : emitOut o (s.refit v) = (emitOut o s).refit v := (rfl)
@[simp] theorem modPod_refit (p : Nat) (f : Pod → Pod) (s : State) :
    modPod p f (s.refit v) = (modPod p f s).refit v := (rfl)
@[simp] theorem modInput_refit (n : Nat) (f : Input → Input) (s : State) :
    modInput n f (s.refit v) = (modInput n f s).refit v := (rfl)
@[simp] theorem modSeq_refit (j : Nat) (f : Seq → Seq) (s : State) :
    modSeq j f (s.refit v) = (modSeq j f s).refit v := (rfl)
@[simp] theorem modMb_refit (m : Nat) (f : Mailbox → Mailbox) (s : State) :
    modMb m f (s.refit v) = (modMb m f s).refit v := (rfl)
@[simp] theorem modCw_refit (k : Nat) (f : Window → Window) (s : State) :
    modCw k f (s.refit v) = (modCw k f s).refit v := (rfl)
@[simp] theorem logEntry_refit (kind eflags code : Nat) (data : List Byte) (s : State) :
    logEntry kind eflags code data (s.refit v) = (logEntry kind eflags code data s).refit v := (rfl)
@[simp] theorem logCopy_refit (kind code : Nat) (s : State) :
    logCopy kind code (s.refit v) = (logCopy kind code s).refit v := by
  cases h : s.evt.log.getLast? <;> simp [logCopy, h]
@[simp] theorem pendVector_refit (g b : Nat) (s : State) :
    pendVector g b (s.refit v) = (pendVector g b s).refit v := (rfl)
@[simp] theorem raiseOne_refit (forced : Bool) (g b : Nat) (data : List Byte) (s : State) :
    raiseOne forced g b data (s.refit v) = (raiseOne forced g b data s).refit v := by
  simp [raiseOne]
@[simp] theorem raiseOverflow_refit (before : State) (kind code : Nat) (s : State) :
    raiseOverflow before kind code (s.refit v) = (raiseOverflow before kind code s).refit v := by
  simp [raiseOverflow]
@[simp] theorem raiseLogReady_refit (before s : State) :
    raiseLogReady before (s.refit v) = (raiseLogReady before s).refit v := by
  simp [raiseLogReady]
@[simp] theorem raiseWith_refit (forced : Bool) (g b : Nat) (data : List Byte) (s : State) :
    raiseWith forced g b data (s.refit v) = (raiseWith forced g b data s).refit v := by
  have ho (x : State) : raiseOverflow (x.refit v) = raiseOverflow x := rfl
  have hl (x : State) : raiseLogReady (x.refit v) = raiseLogReady x := rfl
  simp [raiseWith, ho, hl]
@[simp] theorem raise_refit (g b : Nat) (s : State) : raise g b (s.refit v) = (raise g b s).refit v := by
  simp [raise]
@[simp] theorem pushCairn_refit (code instant unit pod : Nat) (payload : List Byte) (s : State) :
    pushCairn code instant unit pod payload (s.refit v) = (pushCairn code instant unit pod payload s).refit v := by
  simp [pushCairn]
@[simp] theorem pushCairnIf_refit (code instant unit pod : Nat) (payload : List Byte) (s : State) :
    pushCairnIf code instant unit pod payload (s.refit v) = (pushCairnIf code instant unit pod payload s).refit v := by
  simp [pushCairnIf]
@[simp] theorem addRequest_refit (c t : Nat) (s : State) :
    addRequest c t (s.refit v) = (addRequest c t s).refit v := by
  simp [addRequest]
@[simp] theorem modPort_refit (p : Nat) (f : Port → Port) (s : State) :
    modPort p f (s.refit v) = (modPort p f s).refit v := (rfl)
@[simp] theorem sendNext_refit (p : Nat) (s : State) : sendNext p (s.refit v) = (sendNext p s).refit v := by
  cases h : firstTx ((portOf s p).txq.filter (mayBegin (nowU s) (portOf s p))) <;> simp [sendNext, h]
@[simp] theorem txFrame_refit (p : Nat) (flooded : Bool) (t : TxFrame) (s : State) :
    txFrame p flooded t (s.refit v) = (txFrame p flooded t s).refit v := by
  simp [txFrame]
@[simp] theorem floodOn_refit (except : Option Nat) (type origin dest hop oseq : Nat) (body : List Byte) (s : State) :
    floodOn except type origin dest hop oseq body (s.refit v) = (floodOn except type origin dest hop oseq body s).refit v := by
  simp [floodOn]
@[simp] theorem recordOrigin_refit (origin oseq : Nat) (s : State) :
    recordOrigin origin oseq (s.refit v) = (recordOrigin origin oseq s).refit v := (rfl)
@[simp] theorem originate_refit (type dest : Nat) (body : List Byte) (s : State) :
    originate type dest body (s.refit v) = (originate type dest body s).refit v := by
  simp [originate]
@[simp] theorem healWords_refit (mem lo hi : Nat) (s : State) :
    healWords mem lo hi (s.refit v) = (healWords mem lo hi s).refit v := (rfl)
@[simp] theorem scratchWrite_refit (o : Nat) (bs : List Byte) (s : State) :
    scratchWrite o bs (s.refit v) = (scratchWrite o bs s).refit v := by
  simp [scratchWrite]
@[simp] theorem cwRelease_refit (m : Nat) (s : State) : cwRelease m (s.refit v) = (cwRelease m s).refit v := by
  simp [cwRelease]
@[simp] theorem sendTunnelResp_refit (t : TunnelFrom) (status : Nat) (body : List Byte) (s : State) :
    sendTunnelResp t status body (s.refit v) = (sendTunnelResp t status body s).refit v := by
  simp [sendTunnelResp]
@[simp] theorem mbComplete_refit (m : Nat) (r : Reply) (s : State) :
    mbComplete m r (s.refit v) = (mbComplete m r s).refit v := by
  cases h : (mbOf s m).tunnel <;> simp [mbComplete, h]
@[simp] theorem disarmNow_refit (j : Nat) (s : State) : disarmNow j (s.refit v) = (disarmNow j s).refit v := by
  cases h : (seqOf s j).mode <;> simp [disarmNow, h]
@[simp] theorem armNow_refit (j first : Nat) (late : Bool) (s : State) :
    armNow j first late (s.refit v) = (armNow j first late s).refit v := by
  simp [armNow]
@[simp] theorem armAll_refit (m first : Nat) (late missed : Bool) (s : State) :
    armAll m first late missed (s.refit v) = (armAll m first late missed s).refit v := by
  simp [armAll]
@[simp] theorem armPending_refit (j first : Nat) (s : State) :
    armPending j first (s.refit v) = (armPending j first s).refit v := by
  simp [armPending]
@[simp] theorem pendNow_refit (j : Nat) (w : ArmWait) (s : State) :
    pendNow j w (s.refit v) = (pendNow j w s).refit v := by
  simp [pendNow]
@[simp] theorem groupDone_refit (group : Nat) (except : Option Nat) (sample : Nat) (byFrame : Bool) (s : State) :
    groupDone group except sample byFrame (s.refit v) = (groupDone group except sample byFrame s).refit v := by
  unfold groupDone
  split
  · rfl
  · refine refit_foldl v (fun x j => ?_) _ s
    simp only [refit_dev, refit_cfg]
    split <;> simp
@[simp] theorem judgeEdge_refit (p tc : Nat) (s : State) :
    judgeEdge p tc (s.refit v) = (judgeEdge p tc s).refit v := by
  simp [judgeEdge]
@[simp] theorem judgeClocks_refit (p t : Nat) (s : State) :
    judgeClocks p t (s.refit v) = (judgeClocks p t s).refit v := by
  simp [judgeClocks]
@[simp] theorem detectIn_refit (n k place : Nat) (s : State) :
    detectIn n k place (s.refit v) = (detectIn n k place s).refit v := by
  simp [detectIn]
@[simp] theorem endHold_refit (n : Nat) (s : State) : endHold n (s.refit v) = (endHold n s).refit v := by
  cases h : (inputAt s n).tStart <;> simp [endHold, h]
@[simp] theorem requalify_refit (s : State) : requalify (s.refit v) = (requalify s).refit v := by
  cases hd : s.fab.requalDue
  · simp [requalify, hd]
  · cases ht : s.fab.suspectTo <;> simp [requalify, hd, ht]
@[simp] theorem fireCairn_refit (j frm b cls group out place : Nat) (s : State) :
    fireCairn j frm b cls group out place (s.refit v) = (fireCairn j frm b cls group out place s).refit v := by
  simp [fireCairn]
@[simp] theorem firePulses_refit (mask k : Nat) (s : State) :
    firePulses mask k (s.refit v) = (firePulses mask k s).refit v := by
  simp [firePulses]
@[simp] theorem fireFrame_refit (j cls group place : Nat) (s : State) :
    fireFrame j cls group place (s.refit v) = (fireFrame j cls group place s).refit v := by
  simp [fireFrame]
@[simp] theorem emitFire_refit (j frm b : Nat) (w : Branch) (group place : Nat) (s : State) :
    emitFire j frm b w group place (s.refit v) = (emitFire j frm b w group place s).refit v := by
  simp [emitFire]
@[simp] theorem seqDone_refit (j : Nat) (s : State) : seqDone j (s.refit v) = (seqDone j s).refit v := by
  simp [seqDone]
@[simp] theorem takeBranch_refit (j b : Nat) (w : Branch) (vals : List (Option Nat)) (p : Program) (inst : Nat) (s : State) :
    takeBranch j b w vals p inst (s.refit v) = (takeBranch j b w vals p inst s).refit v := by
  simp [takeBranch]
@[simp] theorem blockStep_refit (j : Nat) (s : State) : blockStep j (s.refit v) = (blockStep j s).refit v := by
  simp [blockStep]
@[simp] theorem stepAt_refit (j inst : Nat) (by_ : StepBy) (p : Program) (s : State) :
    stepAt j inst by_ p (s.refit v) = (stepAt j inst by_ p s).refit v := by
  unfold stepAt
  simp only [seqOf_refit, examine_refit, modSeq_refit]
  split
  · exact blockStep_refit ..
  · split
    · exact takeBranch_refit ..
    · rfl
@[simp] theorem stepSeq_refit (j : Nat) (s : State) : stepSeq j (s.refit v) = (stepSeq j s).refit v := by
  cases h : nextStep j s <;> simp [stepSeq, h]
@[simp] theorem stepAll_refit (s : State) : stepAll (s.refit v) = (stepAll s).refit v := by
  simp [stepAll]
@[simp] theorem showSeqs_refit (s : State) : showSeqs (s.refit v) = (showSeqs s).refit v := by
  simp [showSeqs]
@[simp] theorem leaveSample_refit (s : State) : leaveSample (s.refit v) = (leaveSample s).refit v := by
  simp [leaveSample]
@[simp] theorem countGroups_refit (k : Nat) (s : State) : countGroups k (s.refit v) = (countGroups k s).refit v := by
  simp [countGroups]
@[simp] theorem evalPatterns_refit (k : Nat) (s : State) :
    evalPatterns k (s.refit v) = (evalPatterns k s).refit v := (rfl)
@[simp] theorem evalSuspect_refit (k : Nat) (s : State) : evalSuspect k (s.refit v) = (evalSuspect k s).refit v := by
  cases h : s.fab.suspectTo <;> simp [evalSuspect, h]
@[simp] theorem takeDone_refit (k j : Nat) (s : State) : takeDone k j (s.refit v) = (takeDone k j s).refit v := by
  cases h : (seqOf s j).doneFrom <;> simp [takeDone, h]
@[simp] theorem takeOrder_refit (s : State) (o : SeqOrder) : takeOrder (s.refit v) o = (takeOrder s o).refit v := by
  cases o with
  | disarm m mb => cases mb <;> simp [takeOrder]
  | arm m first late missed mb => cases mb <;> simp [takeOrder]
  | pend j w => simp [takeOrder]
@[simp] theorem takeTarget_refit (k j : Nat) (s : State) :
    takeTarget k j (s.refit v) = (takeTarget k j s).refit v := by
  unfold takeTarget
  simp only [seqOf_refit]
  split
  · simp
  · rfl
@[simp] theorem takeOrders_refit (k : Nat) (s : State) : takeOrders k (s.refit v) = (takeOrders k s).refit v := by
  simp [takeOrders]
@[simp] theorem showLive_refit (s : State) : showLive (s.refit v) = (showLive s).refit v := by
  simp [showLive]
@[simp] theorem enterSample_refit (k : Nat) (s : State) : enterSample k (s.refit v) = (enterSample k s).refit v := by
  simp [enterSample]
@[simp] theorem advanceBy_refit : ∀ (n : Nat) (s : State), advanceBy n (s.refit v) = (advanceBy n s).refit v
  | 0, _ => rfl
  | n + 1, s => by simp [advanceBy, advanceBy_refit n]
@[simp] theorem evalBelow_refit (n : Nat) (s : State) : evalBelow n (s.refit v) = (evalBelow n s).refit v := by
  simp [evalBelow]
@[simp] theorem evalNow_refit (s : State) : evalNow (s.refit v) = (evalNow s).refit v := by
  simp [evalNow]

end

end Sys2Proof.Machine


/-! ## Conditions the fault collector watches (O15) -/

namespace Sys2Proof.Machine

/-! ### The status bits rebuilt (R574) -/

theorem trigLevel_refit (v : Word64 × Bool) (x : Nat) (s : State) : trigLevel x (s.refit v) = trigLevel x s := by
  simp [trigLevel]

theorem liveMask_refit (v : Word64 × Bool) (s : State) : liveMask (s.refit v) = liveMask s := by
  simp only [liveMask, contendedPins, trigLevel_refit]
  rfl

/-- What of the collector the rebuild of its status bits leaves, and the bits it rebuilds. -/
theorem rebuildStatus_flt {u t : State} (ht : t = rebuildStatus u) :
    t.dev = u.dev ∧ t.flt.sev = u.flt.sev ∧ t.flt.faultnSev = u.flt.faultnSev ∧ t.flt.extEn = u.flt.extEn ∧
      t.flt.status = liveMask t ||| BitVec.ofNat 64 (maskOf (t.flt.hist.map fun e => e.source)) ||| 1 ∧
      t.flt.faultN = faultNDriven t := by
  have hr : rebuildStatus u = u.refit ((rebuildStatus u).flt.status, (rebuildStatus u).flt.faultN) := rfl
  have hm : liveMask t = liveMask u := by rw [ht, hr, liveMask_refit]
  refine ⟨ht ▸ rfl, ht ▸ rfl, ht ▸ rfl, ht ▸ rfl, ?_, ht ▸ rfl⟩
  rw [hm, ht]
  rfl

/-- The settings of the collector. -/
def Flt.settings (f : Flt) : Tab 4 Word × Nat × Bool := (f.sev, f.faultnSev, f.extEn)

theorem settings_of_abiding {s t : State} (h : t.abiding = s.abiding) : t.flt.settings = s.flt.settings :=
  congrArg (fun x : Abiding => (x.sev, x.faultnSev, x.extEn)) h

theorem signal_settings {f : Nat} (hf : f ≠ 0) (info : Word) (s : State) : (signal f info s).flt.settings = s.flt.settings := by
  unfold signal signalUnit signalWith
  split
  · rw [latch_eq, settings_of_abiding (react_abiding hf ..)]
    rfl
  · rfl

theorem feedExt_settings (s : State) : (feedExt s).flt.settings = s.flt.settings := by
  unfold feedExt goLive
  split
  · split
    · rfl
    · rw [signal_settings (by decide)]
      rfl
  · rfl

theorem collectorParity_rebuilds {s t : State}
    (ht : t = rebuildStatus (feedExt (reloadCollector (signalWith 0 0 0 false .safe s)))) :
    t.flt.sev = sevReset t.dev.variant ∧ t.flt.faultnSev = 3 ∧ t.flt.extEn = true ∧
      t.flt.status = liveMask t ||| BitVec.ofNat 64 (maskOf (t.flt.hist.map fun e => e.source)) ||| 1 ∧
      t.flt.faultN = faultNDriven t := by
  let u := reloadCollector (signalWith 0 0 0 false .safe s)
  obtain ⟨hdev, hsev, hn, hex, hstat, hfn⟩ := rebuildStatus_flt ht
  have hs : (feedExt u).flt.settings = (sevReset u.dev.variant, 3, true) := feedExt_settings u
  have hv : (feedExt u).dev.variant = u.dev.variant := (feedExt_keeps u (Keeps.refl u)).variant
  simp only [Flt.settings, Prod.mk.injEq] at hs
  obtain ⟨h1, h2, h3⟩ := hs
  refine ⟨?_, hn.trans h2, hex.trans h3, hstat, hfn⟩
  rw [hsev, hdev, hv]
  exact h1

/-! ### A bank without power (R594) -/

theorem bankLost_bank (b : Fin 4) (s : State) :
    (bankLost (6 + b.val) s).dev.vioOff = s.dev.vioOff ||| 2 ^ b.val ∧
      (bankLost (6 + b.val) s).dev.badRails = s.dev.badRails.filter (· ≠ 6 + b.val) := by
  have hm : bankMask (6 + b.val) = 2 ^ b.val := by
    rw [bankMask, if_pos ⟨Nat.le_add_right 6 b.val, by omega⟩, Nat.add_sub_cancel_left]
  unfold bankLost railFine feedExt
  rw [hm]
  dsimp only
  split <;> split <;> simp_all

/-! ### The statement -/

section
variable {x : Int} {s : State}

theorem judgeTemp_cold (h : x ≤ 1680) : judgeTemp x s = goDead 22 (goDead 21 s) := by
  have h1 : ¬ 1760 < x := by omega
  have h2 : ¬ 2000 < x := by omega
  have h3 : x ≤ 1840 := by omega
  simp only [judgeTemp, if_neg h1, if_pos h, if_neg h2, if_pos h3]

theorem judgeTemp_mild (h : 1680 < x) (h1 : x ≤ 1760) : judgeTemp x s = goDead 22 s := by
  have h2 : ¬ 2000 < x := by omega
  have h3 : x ≤ 1840 := by omega
  simp only [judgeTemp, if_neg h1.not_gt, if_neg h.not_ge, if_neg h2, if_pos h3]

theorem judgeTemp_warm (h : 1760 < x) (h1 : x ≤ 1840) : judgeTemp x s = goDead 22 (goLive 21 (liveInfo 21 s) s) := by
  have h2 : ¬ 2000 < x := by omega
  simp only [judgeTemp, if_pos h, if_neg h2, if_pos h1]

theorem judgeTemp_hot (h : 1840 < x) (h1 : x ≤ 2000) : judgeTemp x s = goLive 21 (liveInfo 21 s) s := by
  have h2 : 1760 < x := by omega
  simp only [judgeTemp, if_pos h2, if_neg h1.not_gt, if_neg h.not_ge]

theorem judgeTemp_over (h : 2000 < x) : judgeTemp x s =
    goLive 22 (liveInfo 22 (goLive 21 (liveInfo 21 s) s)) (goLive 21 (liveInfo 21 s) s) := by
  have h2 : 1760 < x := by omega
  simp only [judgeTemp, if_pos h2, if_pos h]

end

/-- Settles O15. -/
theorem faultConditions : Obligations.FaultConditions := by
  unfold Obligations.FaultConditions
  have sampled {s : State} {x : BitVec 16} (h : s.dev.tempAt + msTicks s ≤ s.tm.tick) : exec (.dieTempSample x) s =
      .next (judgeTemp x.toInt { s with dev := { s.dev with dieTemp := x, tempAt := s.tm.tick } }) :=
    congrArg Host.Outcome.next (if_pos h)
  refine ⟨?_, ?_, ?_, ?_, ?_, ?_, ?_, ?_, ?_, ?_, ?_, ?_, ?_, ?_, ?_⟩
  · intro s x h hx
    rw [sampled h, judgeTemp_cold hx]
  · intro s x h hx hx'
    rw [sampled h, judgeTemp_warm hx hx']
    rfl
  · intro s x h hx
    refine ⟨_, rfl, ?_⟩
    rw [sampled h, judgeTemp_over hx]
    rfl
  · intro s x h hx hx'
    rw [sampled h, judgeTemp_mild hx hx']
  · intro s x h hx hx'
    rw [sampled h, judgeTemp_hot hx hx']
    rfl
  · intro s x h
    exact congrArg Host.Outcome.next (if_neg (by omega))
  · intro s r hr hb
    change execRailMonitor ⟨r, false⟩ s = _
    simp [execRailMonitor, hr, hb]
  · intro s r hb
    change execRailMonitor ⟨r, false⟩ s = _
    simp [execRailMonitor, hb]
  · intro s b _
    refine ⟨_, ?_, bankLost_bank b s⟩
    change execRailMonitor ⟨6 + b.val, true⟩ s = _
    have hm : bankMask (6 + b.val) ≠ 0 := by
      rw [bankMask, if_pos ⟨Nat.le_add_right 6 b.val, by omega⟩]
      positivity
    rw [execRailMonitor, if_pos ⟨rfl, hm⟩]
  · intro s r hb
    change execRailBackInRange r s = _
    simp [execRailBackInRange, railFine, hb]
  · intro s he hb
    change execExtFaultIn s = _
    simp [execExtFaultIn, feedExt, he, hb]
  · intro s
    change execExtFaultInEnd s = _
    simp [execExtFaultInEnd, feedExt]
  · intro s hon
    exact ⟨_, if_pos hon, collectorParity_rebuilds rfl⟩
  · intro s x hd hc
    exact if_pos ⟨hd, by simp [hc]⟩
  · intro s x hc
    exact if_neg (by simp [hc])

end Sys2Proof.Machine
